-- ==== Sys2Proof/Word.lean ====
section
/-!
DEFINITION. The word types of the Corvos C4096 and the operand types that instructions carry
(09_encoding R141 to R146). Nothing here gives a meaning to an instruction.
-/

namespace Sys2Proof

/-- A general register or an address: 64 bits. -/
abbrev Word := BitVec 64

/-- One byte of memory. -/
abbrev Byte := BitVec 8

/-- A general register g0 to g31 (R142). -/
abbrev GReg := Fin 32

/-- A predicate p0 to p15 (R142). -/
abbrev PReg := Fin 16

/-- A vector register v0 to v7 (R142). -/
abbrev VReg := Fin 8

/-- A lane mask m0 to m3 (R142). -/
abbrev MReg := Fin 4

/-- The lane types of the vector integer forms: type codes 0 to 3 (R143, R156). -/
inductive ITy where
  | i8 | i16 | i32 | i64
deriving DecidableEq, Repr

/-- The types of the floating-point forms: type codes 8 to 11 (R143, R155, R157). -/
inductive FTy where
  | f64 | f32 | bf16 | f16
deriving DecidableEq, Repr

/-- Every 4-bit type code (R143). -/
inductive Ty where
  | i8 | i16 | i32 | i64 | i4 | e2m1 | u32 | u64
  | f64 | f32 | bf16 | f16 | e5m2 | e4m3 | e3m2 | e2m3
deriving DecidableEq, Repr

/-- The lane types a vector compare accepts: codes 0 to 3 and 8 to 11 (R158). -/
inductive LaneTy where
  | int (t : ITy)
  | fp (t : FTy)
deriving DecidableEq, Repr

/-- The 3-bit rounding field (R144); `dyn` rounds as RMODE says. -/
inductive Rm where
  | rn | rz | rd | ru | rs | dyn
deriving DecidableEq, Repr

/-- The eleven scopes, in ascending order (R21). -/
inductive Scope where
  | th | co | cl | qd | se | di | dv | rg | pe | ho | sy
deriving DecidableEq, Repr

/-- The width of an accumulate atomic (R154). -/
inductive AWidth where
  | word | dword
deriving DecidableEq, Repr

/-- The lane size of a vector memory form (R159). -/
inductive LaneSize where
  | s1 | s2 | s4 | s8
deriving DecidableEq, Repr

/-- How many general registers an ember carries (R40, R164). -/
inductive MigSize where
  | g8 | g16 | g24
deriving DecidableEq, Repr

/-- The release and acquire flags of an engine form and their shared scope (R145). -/
structure JobFlags where
  scope : Scope
  acq : Bool
  rel : Bool
deriving DecidableEq, Repr

/-- A signed item as it comes to the device (R361): the bytes that are signed, and for each scheme the public key and the
signature. -/
structure Signed where
  bytes : List Byte
  ecdsaKey : List Byte
  ecdsaSig : List Byte
  hssKey : List Byte
  hssSig : List Byte
deriving DecidableEq, Repr

/-- The public keys and the signatures of a signed item (R361). -/
structure Signatures where
  ecdsaKey : List Byte
  ecdsaSig : List Byte
  hssKey : List Byte
  hssSig : List Byte
deriving DecidableEq, Repr

/-- An item as it is signed by some signatures. -/
def Signatures.on (g : Signatures) (b : List Byte) : Signed := ⟨b, g.ecdsaKey, g.ecdsaSig, g.hssKey, g.hssSig⟩

/-- The signatures of a signed item. -/
def Signed.signatures (x : Signed) : Signatures := ⟨x.ecdsaKey, x.ecdsaSig, x.hssKey, x.hssSig⟩

/-- What an engine's step leaves open: which of the buffered writes becomes visible further, if one does, and which line a grant
takes (R58, R65). -/
structure GrantChoice where
  pick : Nat
  line : Nat
deriving DecidableEq, Repr

/-- Who asks for an RMA access, and under which operation, delivery mode and options: 0 is the pair of R351. -/
structure RmaRequest where
  mode : Nat
  sender : Nat
deriving DecidableEq, Repr

/-- Hashes of the two public keys of one signer (R361). -/
structure KeyHashes where
  ecdsa : List Byte
  hss : List Byte
deriving DecidableEq, Repr, Inhabited

end Sys2Proof
end

