-- ==== Sys2Proof/Machine/Flags.lean ====
section
/-!
DEFINITION. The sticky flags of FFLAGS (07_numbers R122). An operation answers the set of flags it raises; the
instruction ORs that set into FFLAGS, and no operation clears one.
-/

namespace Sys2Proof.Machine

/-- A set of flags, in the bit positions of FFLAGS. -/
abbrev FlagSet := BitVec 8

/-- FFLAGS<0>: invalid operation or NaN conversion (R120, R121). -/
def flagInvalid : FlagSet := 0x01
/-- FFLAGS<1>: division of a nonzero finite value by zero. -/
def flagDivzero : FlagSet := 0x02
/-- FFLAGS<2>: a finite result exceeded the largest finite value before saturation. -/
def flagOverflow : FlagSet := 0x04
/-- FFLAGS<3>: a result was tiny and inexact. -/
def flagUnderflow : FlagSet := 0x08
/-- FFLAGS<4>: a result differs from the exact value. -/
def flagInexact : FlagSet := 0x10
/-- FFLAGS<5>: a result was clamped to its format's range. -/
def flagSaturate : FlagSet := 0x20
/-- FFLAGS<7>: the accumulators were zeroed by a rollback (R101). -/
def flagAcclost : FlagSet := 0x80

/-- `f` when the condition holds, else no flag. -/
def flagWhen (c : Bool) (f : FlagSet) : FlagSet := if c then f else 0

/-- The bits of FFLAGS that hold a flag: bit 6 reads zero (R122). -/
def fflagsMask : FlagSet := 0xBF

end Sys2Proof.Machine
end

