-- ==== Sys2Proof/Syntax.lean ====
section
/-!
DEFINITION. The instructions of the Scapolo: one constructor per row of spec/opcode_table.json.
Rows 0 to 217 are the 32-bit words of 09_encoding. Rows 218 to 319 are the machine's other steps: they have no
encoding, and their operands say which packet, slot, queue or message from outside the step is about.
-/

namespace Sys2Proof

/-- One constructor per row of the opcode table. -/
inductive Instr where
  /-- ADD, R174. -/
  | add (d a b : GReg)
  /-- SUB, R174. -/
  | sub (d a b : GReg)
  /-- AND, R174. -/
  | and (d a b : GReg)
  /-- OR, R174. -/
  | or (d a b : GReg)
  /-- XOR, R174. -/
  | xor (d a b : GReg)
  /-- SHL, R174. -/
  | shl (d a b : GReg)
  /-- SHR, R174. -/
  | shr (d a b : GReg)
  /-- SRA, R174. -/
  | sra (d a b : GReg)
  /-- MUL, R174. -/
  | mul (d a b : GReg)
  /-- MULH, R174. -/
  | mulh (d a b : GReg)
  /-- MULHU, R174. -/
  | mulhu (d a b : GReg)
  /-- DIV, R175. -/
  | div (d a b : GReg)
  /-- DIVU, R175. -/
  | divu (d a b : GReg)
  /-- REM, R175. -/
  | rem (d a b : GReg)
  /-- REMU, R175. -/
  | remu (d a b : GReg)
  /-- MIN, R174. -/
  | min (d a b : GReg)
  /-- MAX, R174. -/
  | max (d a b : GReg)
  /-- MINU, R174. -/
  | minu (d a b : GReg)
  /-- MAXU, R174. -/
  | maxu (d a b : GReg)
  /-- SEL, R174. -/
  | sel (d a b : GReg) (k : PReg)
  /-- CLZ, R174. -/
  | clz (d a : GReg)
  /-- CTZ, R174. -/
  | ctz (d a : GReg)
  /-- POPC, R174. -/
  | popc (d a : GReg)
  /-- SEXT_B, R174. -/
  | sextB (d a : GReg)
  /-- SEXT_H, R174. -/
  | sextH (d a : GReg)
  /-- SEXT_W, R174. -/
  | sextW (d a : GReg)
  /-- ZEXT_B, R174. -/
  | zextB (d a : GReg)
  /-- ZEXT_H, R174. -/
  | zextH (d a : GReg)
  /-- ZEXT_W, R174. -/
  | zextW (d a : GReg)
  /-- ADDI, R177. -/
  | addi (d a : GReg) (i : BitVec 16)
  /-- ANDI, R177. -/
  | andi (d a : GReg) (i : BitVec 16)
  /-- ORI, R177. -/
  | ori (d a : GReg) (i : BitVec 16)
  /-- XORI, R177. -/
  | xori (d a : GReg) (i : BitVec 16)
  /-- SHLI, R178. -/
  | shli (d a : GReg) (n : BitVec 6)
  /-- SHRI, R178. -/
  | shri (d a : GReg) (n : BitVec 6)
  /-- SRAI, R178. -/
  | srai (d a : GReg) (n : BitVec 6)
  /-- MULI, R177. -/
  | muli (d a : GReg) (i : BitVec 16)
  /-- CMP_EQ, R179. -/
  | cmpEq (d : PReg) (a b : GReg)
  /-- CMP_NE, R179. -/
  | cmpNe (d : PReg) (a b : GReg)
  /-- CMP_LT, R179. -/
  | cmpLt (d : PReg) (a b : GReg)
  /-- CMP_LE, R179. -/
  | cmpLe (d : PReg) (a b : GReg)
  /-- CMP_GT, R179. -/
  | cmpGt (d : PReg) (a b : GReg)
  /-- CMP_GE, R179. -/
  | cmpGe (d : PReg) (a b : GReg)
  /-- CMP_LTU, R179. -/
  | cmpLtu (d : PReg) (a b : GReg)
  /-- CMP_LEU, R179. -/
  | cmpLeu (d : PReg) (a b : GReg)
  /-- CMP_GTU, R179. -/
  | cmpGtu (d : PReg) (a b : GReg)
  /-- CMP_GEU, R179. -/
  | cmpGeu (d : PReg) (a b : GReg)
  /-- CMPI_EQ, R180. -/
  | cmpiEq (d : PReg) (a : GReg) (i : BitVec 16)
  /-- CMPI_LT, R180. -/
  | cmpiLt (d : PReg) (a : GReg) (i : BitVec 16)
  /-- CMPI_LTU, R180. -/
  | cmpiLtu (d : PReg) (a : GReg) (i : BitVec 16)
  /-- PAND, R181. -/
  | pand (d a b : PReg)
  /-- POR, R181. -/
  | por (d a b : PReg)
  /-- PXOR, R181. -/
  | pxor (d a b : PReg)
  /-- PANDN, R181. -/
  | pandn (d a b : PReg)
  /-- PNOT, R181. -/
  | pnot (d a : PReg)
  /-- PMOV, R181. -/
  | pmov (d a : PReg)
  /-- PSET, R181. -/
  | pset (d : PReg)
  /-- PCLR, R181. -/
  | pclr (d : PReg)
  /-- PRD, R181. -/
  | prd (d : GReg)
  /-- PWR, R181. -/
  | pwr (a : GReg)
  /-- BT, R182. -/
  | bt (a : PReg) (o : BitVec 16)
  /-- BF, R182. -/
  | bf (a : PReg) (o : BitVec 16)
  /-- BZ, R182. -/
  | bz (a : GReg) (o : BitVec 16)
  /-- BNZ, R182. -/
  | bnz (a : GReg) (o : BitVec 16)
  /-- J, R183. -/
  | j (o : BitVec 26)
  /-- JAL, R183. -/
  | jal (o : BitVec 26)
  /-- JR, R184. -/
  | jr (a : GReg)
  /-- JALR, R184. -/
  | jalr (d a : GReg)
  /-- LD_B, R186. -/
  | ldB (d a : GReg) (i : BitVec 16)
  /-- LD_BU, R186. -/
  | ldBu (d a : GReg) (i : BitVec 16)
  /-- LD_H, R186. -/
  | ldH (d a : GReg) (i : BitVec 16)
  /-- LD_HU, R186. -/
  | ldHu (d a : GReg) (i : BitVec 16)
  /-- LD_W, R186. -/
  | ldW (d a : GReg) (i : BitVec 16)
  /-- LD_WU, R186. -/
  | ldWu (d a : GReg) (i : BitVec 16)
  /-- LD_D, R186. -/
  | ldD (d a : GReg) (i : BitVec 16)
  /-- LD_Q, R186. -/
  | ldQ (d a : GReg) (i : BitVec 16)
  /-- ST_B, R186. -/
  | stB (d a : GReg) (i : BitVec 16)
  /-- ST_H, R186. -/
  | stH (d a : GReg) (i : BitVec 16)
  /-- ST_W, R186. -/
  | stW (d a : GReg) (i : BitVec 16)
  /-- ST_D, R186. -/
  | stD (d a : GReg) (i : BitVec 16)
  /-- ST_Q, R186. -/
  | stQ (d a : GReg) (i : BitVec 16)
  /-- ST_X4, R193. -/
  | stX4 (d a : GReg) (q : Bool)
  /-- ST_X6, R193. -/
  | stX6 (d a : GReg) (q : Fin 8)
  /-- AADD, R195. -/
  | aadd (d a : GReg) (w : AWidth)
  /-- AMIN, R195. -/
  | amin (d a : GReg) (w : AWidth)
  /-- AMAX, R195. -/
  | amax (d a : GReg) (w : AWidth)
  /-- AMINU, R195. -/
  | aminu (d a : GReg) (w : AWidth)
  /-- AMAXU, R195. -/
  | amaxu (d a : GReg) (w : AWidth)
  /-- AAND, R195. -/
  | aand (d a : GReg) (w : AWidth)
  /-- AOR, R195. -/
  | aor (d a : GReg) (w : AWidth)
  /-- AXOR, R195. -/
  | axor (d a : GReg) (w : AWidth)
  /-- FADD, R204. -/
  | fadd (d a b : GReg) (t : FTy) (r : Rm)
  /-- FSUB, R204. -/
  | fsub (d a b : GReg) (t : FTy) (r : Rm)
  /-- FMUL, R204. -/
  | fmul (d a b : GReg) (t : FTy) (r : Rm)
  /-- FDIV, R204. -/
  | fdiv (d a b : GReg) (t : FTy) (r : Rm)
  /-- FSQRT, R204. -/
  | fsqrt (d a : GReg) (t : FTy) (r : Rm)
  /-- FMAC, R204. -/
  | fmac (d a b : GReg) (t : FTy) (r : Rm)
  /-- FMIN, R205. -/
  | fmin (d a b : GReg) (t : FTy)
  /-- FMAX, R205. -/
  | fmax (d a b : GReg) (t : FTy)
  /-- FABS, R205. -/
  | fabs (d a : GReg) (t : FTy)
  /-- FNEG, R205. -/
  | fneg (d a : GReg) (t : FTy)
  /-- FCMP_EQ, R206. -/
  | fcmpEq (d : PReg) (a b : GReg) (t : FTy)
  /-- FCMP_LT, R206. -/
  | fcmpLt (d : PReg) (a b : GReg) (t : FTy)
  /-- FCMP_LE, R206. -/
  | fcmpLe (d : PReg) (a b : GReg) (t : FTy)
  /-- FCMP_UN, R206. -/
  | fcmpUn (d : PReg) (a b : GReg) (t : FTy)
  /-- CVT, R207. -/
  | cvt (d a : GReg) (t s : Ty) (r : Rm)
  /-- FLI, R208. -/
  | fli (d : GReg) (t : Ty) (h : BitVec 16)
  /-- VADD, R209. -/
  | vadd (d a b : VReg) (t : ITy) (k : MReg)
  /-- VSUB, R209. -/
  | vsub (d a b : VReg) (t : ITy) (k : MReg)
  /-- VMUL, R209. -/
  | vmul (d a b : VReg) (t : ITy) (k : MReg)
  /-- VMULH, R209. -/
  | vmulh (d a b : VReg) (t : ITy) (k : MReg)
  /-- VMIN, R209. -/
  | vmin (d a b : VReg) (t : ITy) (k : MReg)
  /-- VMAX, R209. -/
  | vmax (d a b : VReg) (t : ITy) (k : MReg)
  /-- VMINU, R209. -/
  | vminu (d a b : VReg) (t : ITy) (k : MReg)
  /-- VMAXU, R209. -/
  | vmaxu (d a b : VReg) (t : ITy) (k : MReg)
  /-- VAND, R209. -/
  | vand (d a b : VReg) (t : ITy) (k : MReg)
  /-- VOR, R209. -/
  | vor (d a b : VReg) (t : ITy) (k : MReg)
  /-- VXOR, R209. -/
  | vxor (d a b : VReg) (t : ITy) (k : MReg)
  /-- VSHL, R209. -/
  | vshl (d a b : VReg) (t : ITy) (k : MReg)
  /-- VSHR, R209. -/
  | vshr (d a b : VReg) (t : ITy) (k : MReg)
  /-- VSRA, R209. -/
  | vsra (d a b : VReg) (t : ITy) (k : MReg)
  /-- VABS, R209. -/
  | vabs (d a : VReg) (t : ITy) (k : MReg)
  /-- VNEG, R209. -/
  | vneg (d a : VReg) (t : ITy) (k : MReg)
  /-- VADDS, R209. -/
  | vadds (d a b : VReg) (t : ITy) (k : MReg)
  /-- VSUBS, R209. -/
  | vsubs (d a b : VReg) (t : ITy) (k : MReg)
  /-- VMAC, R209. -/
  | vmac (d a b : VReg) (t : ITy) (k : MReg)
  /-- VDOT4, R209. -/
  | vdot4 (d a b : VReg) (k : MReg)
  /-- VFADD, R211. -/
  | vfadd (d a b : VReg) (t : FTy) (k : MReg) (r : Rm)
  /-- VFSUB, R211. -/
  | vfsub (d a b : VReg) (t : FTy) (k : MReg) (r : Rm)
  /-- VFMUL, R211. -/
  | vfmul (d a b : VReg) (t : FTy) (k : MReg) (r : Rm)
  /-- VFDIV, R211. -/
  | vfdiv (d a b : VReg) (t : FTy) (k : MReg) (r : Rm)
  /-- VFMA, R211. -/
  | vfma (d a b : VReg) (t : FTy) (k : MReg) (r : Rm)
  /-- VFMIN, R211. -/
  | vfmin (d a b : VReg) (t : FTy) (k : MReg)
  /-- VFMAX, R211. -/
  | vfmax (d a b : VReg) (t : FTy) (k : MReg)
  /-- VFSQRT, R211. -/
  | vfsqrt (d a : VReg) (t : FTy) (k : MReg) (r : Rm)
  /-- VFABS, R211. -/
  | vfabs (d a : VReg) (t : FTy) (k : MReg)
  /-- VFNEG, R211. -/
  | vfneg (d a : VReg) (t : FTy) (k : MReg)
  /-- VFDIST, R211. -/
  | vfdist (d a b : VReg) (t : FTy) (k : MReg)
  /-- VCMP_EQ, R212. -/
  | vcmpEq (d : MReg) (a b : VReg) (t : LaneTy) (k : MReg)
  /-- VCMP_NE, R212. -/
  | vcmpNe (d : MReg) (a b : VReg) (t : LaneTy) (k : MReg)
  /-- VCMP_LT, R212. -/
  | vcmpLt (d : MReg) (a b : VReg) (t : LaneTy) (k : MReg)
  /-- VCMP_LE, R212. -/
  | vcmpLe (d : MReg) (a b : VReg) (t : LaneTy) (k : MReg)
  /-- VCMP_GT, R212. -/
  | vcmpGt (d : MReg) (a b : VReg) (t : LaneTy) (k : MReg)
  /-- VCMP_GE, R212. -/
  | vcmpGe (d : MReg) (a b : VReg) (t : LaneTy) (k : MReg)
  /-- VCMP_LTU, R212. -/
  | vcmpLtu (d : MReg) (a b : VReg) (t : ITy) (k : MReg)
  /-- VCMP_UN, R212. -/
  | vcmpUn (d : MReg) (a b : VReg) (t : FTy) (k : MReg)
  /-- VCVT, R214. -/
  | vcvt (d a : VReg) (p : Fin 8) (k : MReg) (t s : Ty) (r : Rm)
  /-- VLD, R215. -/
  | vld (d : VReg) (a : GReg) (i : BitVec 16)
  /-- VST, R215. -/
  | vst (d : VReg) (a : GReg) (i : BitVec 16)
  /-- VLD_M, R216. -/
  | vldM (d : VReg) (a : GReg) (z : LaneSize) (k : MReg)
  /-- VST_M, R216. -/
  | vstM (d : VReg) (a : GReg) (z : LaneSize) (k : MReg)
  /-- VLDS, R216. -/
  | vlds (d : VReg) (a b : GReg) (z : LaneSize) (k : MReg)
  /-- VSTS, R216. -/
  | vsts (d : VReg) (a b : GReg) (z : LaneSize) (k : MReg)
  /-- VBCAST, R218. -/
  | vbcast (d : VReg) (a : GReg) (t : ITy) (k : MReg)
  /-- VEXT, R218. -/
  | vext (d : GReg) (a : VReg) (b : GReg) (t : ITy)
  /-- VINS, R218. -/
  | vins (d : VReg) (a b : GReg) (t : ITy)
  /-- VPERM, R218. -/
  | vperm (d a b : VReg) (t : ITy) (k : MReg)
  /-- VSEL, R218. -/
  | vsel (d a b : VReg) (t : ITy) (k : MReg)
  /-- VMOV, R218. -/
  | vmov (d a : VReg) (t : ITy) (k : MReg)
  /-- VRED_ADD, R219. -/
  | vredAdd (d : GReg) (a : VReg) (t : ITy) (k : MReg)
  /-- VRED_MIN, R219. -/
  | vredMin (d : GReg) (a : VReg) (t : ITy) (k : MReg)
  /-- VRED_MAX, R219. -/
  | vredMax (d : GReg) (a : VReg) (t : ITy) (k : MReg)
  /-- VRED_MINU, R219. -/
  | vredMinu (d : GReg) (a : VReg) (t : ITy) (k : MReg)
  /-- VRED_MAXU, R219. -/
  | vredMaxu (d : GReg) (a : VReg) (t : ITy) (k : MReg)
  /-- VFRED_ADD, R219. -/
  | vfredAdd (d : GReg) (a : VReg) (t : FTy) (k : MReg)
  /-- VFRED_MIN, R219. -/
  | vfredMin (d : GReg) (a : VReg) (t : FTy) (k : MReg)
  /-- VFRED_MAX, R219. -/
  | vfredMax (d : GReg) (a : VReg) (t : FTy) (k : MReg)
  /-- MAND, R220. -/
  | mand (d a b : MReg)
  /-- MOR, R220. -/
  | mor (d a b : MReg)
  /-- MXOR, R220. -/
  | mxor (d a b : MReg)
  /-- MNOT, R220. -/
  | mnot (d a : MReg)
  /-- MMOV, R220. -/
  | mmov (d a : MReg)
  /-- MFROMG, R220. -/
  | mfromg (d : MReg) (a : GReg)
  /-- MTOG, R220. -/
  | mtog (d : GReg) (a : MReg)
  /-- MPOP, R220. -/
  | mpop (d : GReg) (a : MReg)
  /-- MX_CFG, R225. -/
  | mxCfg (a b : GReg)
  /-- MX_GET, R226. -/
  | mxGet (d a : GReg)
  /-- MX_MMA, R235. -/
  | mxMma (d a b : GReg) (f : JobFlags)
  /-- MX_MMB, R235. -/
  | mxMmb (d a b : GReg) (f : JobFlags)
  /-- MX_DIST, R235. -/
  | mxDist (d a b : GReg) (f : JobFlags)
  /-- MX_TOPK, R238. -/
  | mxTopk (d a b : GReg) (f : JobFlags)
  /-- MX_ZERO, R236. -/
  | mxZero (d a b : GReg) (f : JobFlags)
  /-- MX_LD, R237. -/
  | mxLd (d a b : GReg) (f : JobFlags)
  /-- MX_ST, R237. -/
  | mxSt (d a b : GReg) (f : JobFlags)
  /-- CP_CFG, R225. -/
  | cpCfg (a b : GReg)
  /-- CP_COPY, R244. -/
  | cpCopy (d a b : GReg) (f : JobFlags)
  /-- CP_STREAM, R245. -/
  | cpStream (d a b : GReg) (f : JobFlags)
  /-- CP_CANCEL, R246. -/
  | cpCancel (a : GReg)
  /-- CP_STAT, R226. -/
  | cpStat (d a : GReg)
  /-- EV_NEW, R252. -/
  | evNew (d a b : GReg)
  /-- EV_FREE, R254. -/
  | evFree (a : GReg)
  /-- OFFER, R256. -/
  | offer (d a : GReg)
  /-- OFFER1, R256. -/
  | offer1 (d a : GReg)
  /-- OFFER_T, R256. -/
  | offerT (d a b : GReg)
  /-- VT_SET, R258. -/
  | vtSet (a : GReg)
  /-- VT_GET, R258. -/
  | vtGet (d : GReg)
  /-- GVT, R259. -/
  | gvt (d : GReg)
  /-- SETTLE, R260. -/
  | settle
  /-- WRAP, R261. -/
  | wrap
  /-- WRAP_DONE, R262. -/
  | wrapDone (a : GReg)
  /-- SPAWN, R264. -/
  | spawn (d a b : GReg)
  /-- MIG, R265. -/
  | mig (a : GReg) (s : MigSize)
  /-- MSG, R266. -/
  | msg (d a b : GReg)
  /-- REPLY, R266. -/
  | reply (a : GReg)
  /-- YIELD, R267. -/
  | yield
  /-- HALT, R263. -/
  | halt
  /-- NOW, R269. -/
  | now (d : GReg)
  /-- CYC, R269. -/
  | cyc (d : GReg)
  /-- RSYNC, R268. -/
  | rsync
  /-- BRK, R272. -/
  | brk (c : BitVec 6)
  /-- TRAP, R272. -/
  | trap (c : BitVec 6)
  /-- CRR, R270. -/
  | crr (d : GReg) (c : BitVec 10)
  /-- CRW, R270. -/
  | crw (a : GReg) (c : BitVec 10)
  /-- RETT, R273. -/
  | rett
  /-- CRSET, R271. -/
  | crset (a : GReg) (c : BitVec 10)
  /-- CRCLR, R271. -/
  | crclr (a : GReg) (c : BitVec 10)
  /-- RLX, R146. -/
  | rlx
  /-- EXT, R146. -/
  | ext (h : BitVec 24)
  /-- LATE_TRAP, R287: at an instruction boundary a pending copy-failed, engine-fault or copy-overdue is taken. -/
  | lateTrap (tid : Nat)
  /-- ACCESS_TRAVEL, R58: an access in an issue port or relaxed buffer is appended to its bank's arrival queue. -/
  | accessTravel (tid n k : Nat)
  /-- ACCESS_PERFORM, R58: the access at the head of a bank queue is applied indivisibly and its thread stops waiting. -/
  | accessPerform (bank ecc : Nat)
  /-- UNCORRECTABLE_ERROR, R297: an access meets an uncorrectable error and every launch of the struck fault domains stops. -/
  | uncorrectableError (kind at' : Nat)
  /-- CARRIER_MESSAGE, R48: the handler slot runs a queued carrier message up to its reply or word 3. -/
  | carrierMessage (pcn : Nat)
  /-- MSG_REPLY, R49: A carrier message's reply or fault reaches the sender, ending its wait. -/
  | msgReply (n : Nat)
  /-- EMBER_ARRIVAL, R43: an ember reaches a destination and enters its arrival queue or spill ring, or waits as a request. -/
  | emberArrival (n : Nat)
  /-- MIG_ACCEPT, R44: acceptance of an ember reaches its sender, completing the mig. -/
  | migAccept (n : Nat)
  /-- EMBER_ADMIT, R43: when a slot frees, the queue head takes it and the ring and waiting requests move up. -/
  | emberAdmit (pcn : Nat)
  /-- OFFER_HEADER, R83: an offer header reaches an event's home, which begins resolution when it holds all participants. -/
  | offerHeader (n : Nat)
  /-- CLAIM, R82: A home's claim reaches an offer slot and is granted, queued or refused. -/
  | claim (n : Nat)
  /-- CLAIM_ANSWER, R83: A grant or refusal reaches the home, which sends the next claim, commits or aborts. -/
  | claimAnswer (n : Nat)
  /-- COMMIT_NOTICE, R82: A commit reaches a locked slot, which closes and withdraws its other headers. -/
  | commitNotice (n : Nat)
  /-- SLOT_RELEASE, R82: A release from an aborted event reaches a slot, which grants the best queued claim or reopens. -/
  | slotRelease (n : Nat)
  /-- HEADER_WITHDRAWAL, R82: A withdrawal removes a header from a home, or keeps it as a timed shadow. -/
  | headerWithdrawal (n : Nat)
  /-- COMBINE_CONTRIBUTION, R346: A payload contribution flit reaches a router combining entry and is combined or forwarded. -/
  | combineContribution (n router : Nat)
  /-- STREAM_CIRCUIT, R347: A large hinted channel payload requests a held circuit along its path. -/
  | streamCircuit (n : Nat)
  /-- PAYLOAD_ARRIVAL, R89: payload lines reach a receiver's banks and are written, journaled if timed. -/
  | payloadArrival (n : Nat)
  /-- EVENT_OCCUR, R58: once all payload writes are performed, the participants resume and write gD. -/
  | eventOccur (pcn idx : Nat)
  /-- OFFER_TIMEOUT, R86: device time reaches an offer.t deadline and an Open slot closes with −1. -/
  | offerTimeout (tid : Nat)
  /-- EV_NEW_REQUEST, R253: the home takes an ev.new request and assigns an entry or 0. -/
  | evNewRequest (n : Nat)
  /-- EV_NEW_ANSWER, R252: the home's answer reaches the creator, writing the handle or 0 into gD. -/
  | evNewAnswer (n : Nat)
  /-- EV_FREE_REQUEST, R92: the home takes a free, makes the entry draining and removes its headers. -/
  | evFreeRequest (n : Nat)
  /-- ENTRY_FREED, R92: A draining entry's in-flight count reaches 0 and it becomes free. -/
  | entryFreed (pcn idx : Nat)
  /-- STRAGGLER_CLAIM, R99: A straggler claim reaches a timed participant, which rolls back to the earliest affected checkpoint. -/
  | stragglerClaim (n : Nat)
  /-- ANTI_MESSAGE, R100: an anti-message annihilates its queued positive or cancels the occurrence it took part in. -/
  | antiMessage (n : Nat)
  /-- GVT_ROUND_START, R350: every 2 µs or on request, the service core starts a GVT reduction round. -/
  | gvtRoundStart (launch : Nat)
  /-- GVT_START_PACKET, R349: A core receives the round start and switches its reduction colour. -/
  | gvtStartPacket (n : Nat)
  /-- GVT_PASS_REPORT, R349: A pass report reaches a router stage or the root, which combines it or starts another pass. -/
  | gvtPassReport (n router : Nat)
  /-- GVT_RESULT, R349: the multicast GVT reaches a core, which raises GVT, frees checkpoints and ends settle waits. -/
  | gvtResult (n : Nat)
  /-- DEFERRED_ACTION, R103: once GVT passes its tag, a held off-chip write, send or record write is performed. -/
  | deferredAction (pcn : Nat)
  /-- WRAP_UP, R108: NOW reaches D − W: commits stop, embers return, prompt threads divert, timed processes run to stop points. -/
  | wrapUp (launch : Nat)
  /-- WRAPUP_CUT, R108: with every timed process stopped, GVT fixes WRAPVT, later occurrences are undone and threads enter WRAPPC. -/
  | wrapupCut (launch : Nat)
  /-- DEADLINE_OVERRUN, R110: D arrives before a wrapped launch ends and it is terminated with status overrun. -/
  | deadlineOverrun (launch : Nat)
  /-- LAUNCH_COMPLETE, R110: every thread has ended and deferred actions are done, so the completion record is written. -/
  | launchComplete (launch : Nat)
  /-- ENGINE_GRANT, R229: the cluster arbiter grants one tile of a ready job, which performs its reads and writes. -/
  | engineGrant (cluster engine : Nat) (choice : GrantChoice)
  /-- STREAM_START, R233: A cp.stream reaches the copy-queue head with its latch Empty and starts filling it, setting its promise. -/
  | streamStart (pcn : Nat)
  /-- JOB_COMPLETE, R230: an engine job completes and a closed batch's engine offers its completion event. -/
  | jobComplete (pcn engine : Nat)
  /-- COPY_OVERDUE, R240: NOW passes a copy's promise and its thread takes copy-overdue once. -/
  | copyOverdue (pcn : Nat)
  /-- FAULT_RECORD, R335: A translation fault record enters the pager's fault queue. -/
  | faultRecord (n : Nat)
  /-- FQHEAD_WRITE, R335: A pager store to FQHEAD consumes fault records. -/
  | fqheadWrite (pcn v : Nat)
  /-- FREPLY_WRITE, R336: A pager store to FREPLY sends a retry, frames-exhausted or no-mapping reply. -/
  | freplyWrite (pcn v : Nat)
  /-- FAULT_REPLY, R336: A pager reply reaches the copy unit, which rewalks or ends the copy with status 2 or 3. -/
  | faultReply (n : Nat)
  /-- TCINV_ROOT_WRITE, R334: A store of a root to TCINV offset 0x0300. -/
  | tcinvRootWrite (pcn v : Nat)
  /-- TCINV_PAGE_WRITE, R334: A store of a page to TCINV offset 0x0308, performed once every copy unit has dropped the page. -/
  | tcinvPageWrite (pcn v : Nat)
  /-- LOAD_WINDOW_END, R343: A router's 1,024-cycle window ends and its imbalance is updated. -/
  | loadWindowEnd (pcn north east south west : Nat)
  /-- COMMAND_SUBMISSION, R309: A kind 1 tagged send with a command entry is latched, held, dropped or refused. -/
  | commandSubmission (sender : Nat) (msg : List Byte)
  /-- EVENT_INGRESS, R354: A kind 2 tagged send is checked against its flow's floor and offered, held or dropped. -/
  | eventIngress (sender : Nat) (msg : List Byte)
  /-- TAG_POST, R314: A kind 3 tagged send posts a start-on tag in its region. -/
  | tagPost (sender : Nat) (msg : List Byte)
  /-- FLOOR_ONLY, R355: A kind 4 tagged send raises its flow's floor. -/
  | floorOnly (sender : Nat) (msg : List Byte)
  /-- ATTESTATION_REQUEST, R362: A kind 5 tagged send returns a signed attestation report. -/
  | attestationRequest (sender : Nat) (msg : List Byte)
  /-- RMA_WRITE, R352: A UET RMA write is performed into a region's off-chip virtual memory. -/
  | rmaWrite (request : RmaRequest) (region va : Nat) (bytes : List Byte)
  /-- RMA_READ, R352: A UET RMA read returns bytes of a region's off-chip virtual memory. -/
  | rmaRead (request : RmaRequest) (region va len : Nat)
  /-- PEER_SEND_ACK, R356: the peer's UET acknowledgement of a send-window copy arrives and the copy completes. -/
  | peerSendAck (pcn job : Nat)
  /-- EFFECT_TAKE, R309: the front end takes a command effect numbered TAKEN + 1 from firmware. -/
  | effectTake (region : Nat)
  /-- LAUNCH, R310: launch command: validates the record and runs admission. -/
  | launch (region : Nat) (descs : List Nat)
  /-- BEGIN, R310: begin command opens a batch. -/
  | begin (region : Nat)
  /-- COMMIT, R310: commit command validates and admits the batch as a whole. -/
  | commit (region : Nat)
  /-- DESTROY, R317: destroy command drains or aborts a region's queue and frees it. -/
  | destroy (region : Nat)
  /-- HALT_PROCESS, R326: halt-process command stops a named process at its next boundary. -/
  | haltProcess (region : Nat)
  /-- RESUME_PROCESS, R326: resume-process command lets a halted process continue. -/
  | resumeProcess (region : Nat)
  /-- FREEZE, R325: freeze command stops a debug region's colour group at T. -/
  | freeze (region : Nat)
  /-- THAW, R325: thaw command restarts a frozen group at T′ and moves its times later. -/
  | thaw (region : Nat)
  /-- WINDOW_OPEN, R316: A ready guaranteed launch's window opens and it is placed at once. -/
  | windowOpen (launch : Nat)
  /-- PLACEMENT_DECISION, R316: A die's placement unit places a launch early or opportunistically in least-slack order. -/
  | placementDecision (die launch time : Nat) (cores : List Nat)
  /-- PLACEMENT, R315: placement reserves cores, loads the image and creates events, or rolls back. -/
  | placement (launch : Nat) (cores : List Nat)
  /-- PLACEMENT_COMMIT, R315: at one device time every process starts at its entry. -/
  | placementCommit (launch : Nat)
  /-- OPERATING_POINT_CHANGE, R313: A die's frequency change completes. -/
  | operatingPointChange (die : Nat)
  /-- LAUNCH_EXPIRE, R312: an unplaced or switched-out opportunistic launch, or a launch not ready, reaches D − W and gets status 6. -/
  | launchExpire (launch : Nat)
  /-- SWITCH_NOTICE, R319: A gang-switch notice carrying T reaches a core of the group. -/
  | switchNotice (n : Nat)
  /-- GANG_STOP, R319: at T every slot of the group stops and routers start ejecting its colour. -/
  | gangStop (colour : Nat)
  /-- GANG_SAVE, R321: after the drain, each core writes its block to the save area and is zeroed. -/
  | gangSave (colour : Nat)
  /-- LATE_PACKET_LOG, R322: A packet of a switched-out colour is appended to the packet log. -/
  | latePacketLog (n : Nat)
  /-- GANG_RESUME, R323: at T′ blocks are restored, the log re-injected and all cores start together. -/
  | gangResume (colour time : Nat)
  /-- REGION_LIVE_SET, R301: setting a region block's live flag is accepted or refused. -/
  | regionLiveSet (region : Nat)
  /-- CONTEXT_IMAGE_READ, R293: A system read of a slot's context image, refused with all ones unless empty or stopped. -/
  | contextImageRead (tid off : Nat)
  /-- CONTEXT_IMAGE_WRITE, R293: A system write of a slot's context image, refused and counted unless permitted. -/
  | contextImageWrite (tid off v : Nat)
  /-- FWCTL_WRITE, R295: A write to a system core's firewall register, ignored once locked. -/
  | fwctlWrite (pcn v : Nat)
  /-- PWRLIM_WRITE, R359: A write of the power limit, ignored when out of range. -/
  | pwrlimWrite (v : Nat)
  /-- CONTROL_REGISTER_WRITE, R5: A write to a control-space register with no row of its own, including counter clears. -/
  | controlRegisterWrite (addr v : Nat)
  /-- PTP_MESSAGE, R357: A PTP message disciplines NOW and moves the time state. -/
  | ptpMessage (time locked : Nat)
  /-- NOW_STEP, R358: with no launch placed, NOW is stepped to the PTP time. -/
  | nowStep (time : Nat)
  /-- HOLDOVER_EXPIRE, R357: holdover passes 60 s and the time state becomes unsynchronised. -/
  | holdoverExpire
  /-- LIFECYCLE_COMMAND, R363: A signed lifecycle command changes the lifecycle state and wipes. -/
  | lifecycleCommand (target : Nat) (command : Signed) (keys : KeyHashes)
  /-- RESET, R369: A reset starts the reset sequence. -/
  | reset
  /-- WIPE_DONE, R364: the wipe's write and read-back finish and failing locations are retired. -/
  | wipeDone (cores frames : List Nat)
  /-- FIRMWARE_VERIFY, R370: boot ROM verifies the firmware and table, starting boot mode or staying in phase 3. -/
  | firmwareVerify (stageAt stageLen : Nat) (firmware table : List Byte) (signatures : Signatures × Signatures)
  /-- OOB_IMAGE, R370: A new firmware image and table over the management interface restart phase 3. -/
  | oobImage (stageAt stageLen : Nat) (firmware table : List Byte) (signatures : Signatures × Signatures)
  /-- SELF_CHECK, R365: A core's self-check runs after freeing or 10 s idle and retires it on failure. -/
  | selfCheck (pcn ok : Nat)
  /-- THERMAL_TRIP, R368: temperature sensors pass their trip limits and every fault domain stops. -/
  | thermalTrip
  /-- TINDER_GO, R375: writing 1 to TINDER at the boot core starts the die's flood. -/
  | tinderGo (pcn v : Nat)
  /-- TINDER, R375: A tinder reaches a router, which adopts a parent and floods on, or refuses. -/
  | tinder (n : Nat)
  /-- TINDER_REFUSE, R375: A refuse answer reaches a tinder sender. -/
  | tinderRefuse (n : Nat)
  /-- TINDER_DONE, R375: A done answer with a subtree count reaches a parent or the origin. -/
  | tinderDone (n : Nat)
  /-- SELF_CHECK_END, R375: A flooded core's self-check ends and writes selfok. -/
  | selfCheckEnd (pcn ok : Nat)
  /-- SLOTGO, R376: A write to SLOTGO starts an empty slot at system level from its image. -/
  | slotgo (pcn v : Nat)
  /-- BOOTCTL_END, R377: A write ending boot mode, accepted only when every firewall is locked. -/
  | bootctlEnd (v : Nat)
  /-- BOOT_TIMEOUT, R378: A die's discovery program has not halted 10 ms after phase 5 and its user positions are retired. -/
  | bootTimeout (die : Nat)
  /-- ILLEGAL_INSTRUCTION, R167: A word, with its prefixes, that is not an instruction reaches issue and raises illegal-instruction with no other effect. -/
  | illegalInstruction (tid : Nat)
  /-- UNMAPPED_FETCH, R168: A fetch at PC 0x2_0000 or above traps with unmapped-address, XPC at the fetched address or at the first word of an unfinished prefix sequence. -/
  | unmappedFetch (tid : Nat)
  /-- MASTER_LOST, R357: the PTP master is lost and TSTAT moves from locked into holdover. -/
  | masterLost
  /-- UET_SEND_ABANDON, R356: UET abandons a send-window message and its copy ends with status 3. -/
  | uetSendAbandon (pcn job : Nat)
deriving DecidableEq, Repr

end Sys2Proof
end

