-- ==== Sys2Proof/WellFormed.lean ====
section
/-!
DEFINITION. Which terms of Instr are instructions: the conditions of 09_encoding R142 to R162 that the operand types
do not already carry. A term that fails one of them is the reading of no word.
-/

namespace Sys2Proof

/-- Bits of an element of a type (R199). -/
def Ty.width : Ty → Nat
  | .i8 | .e5m2 | .e4m3 => 8
  | .i16 | .bf16 | .f16 => 16
  | .i32 | .u32 | .f32 => 32
  | .i64 | .u64 | .f64 => 64
  | .i4 | .e2m1 => 4
  | .e3m2 | .e2m3 => 6

/-- The floating-point types, which `fli` names (R155). -/
def Ty.isFloat : Ty → Bool
  | .f64 | .f32 | .bf16 | .f16 | .e5m2 | .e4m3 | .e3m2 | .e2m3 | .e2m1 => true
  | .i8 | .i16 | .i32 | .i64 | .i4 | .u32 | .u64 => false

/-- How many pairs of elements one `vcvt` converts: L of R213. -/
def vcvtLanes (t s : Ty) : Nat := min 64 (512 / max t.width s.width)

/-- How many parts a pair of types has: P of R213. -/
def vcvtParts (t s : Ty) : Nat := min 8 (512 / (vcvtLanes t s * min t.width s.width))

/-- Scope must be 0 when neither flag is set (R145). -/
def JobFlags.wf (f : JobFlags) : Bool := f.acq || f.rel || f.scope == .th

/-- The well-formed instructions (R142, R155, R158, R162). -/
def Instr.wf : Instr → Bool
  | .ldQ d _ _ => d.val % 2 == 0 && d != 0
  | .stQ d _ _ => d.val % 2 == 0
  | .cvt _ _ t s _ => t != s
  | .fli _ t _ => t.isFloat
  | .vcmpEq d _ _ _ _ | .vcmpNe d _ _ _ _ | .vcmpLt d _ _ _ _ | .vcmpLe d _ _ _ _ | .vcmpGt d _ _ _ _
  | .vcmpGe d _ _ _ _ | .vcmpLtu d _ _ _ _ | .vcmpUn d _ _ _ _ => d != 0
  | .vcvt _ _ p _ t s _ => t != s && p.val < vcvtParts t s
  | .mand d _ _ | .mor d _ _ | .mxor d _ _ | .mnot d _ | .mmov d _ | .mfromg d _ => d != 0
  | .mxMma _ _ _ f | .mxMmb _ _ _ f | .mxDist _ _ _ f | .mxTopk _ _ _ f | .mxZero _ _ _ f | .mxLd _ _ _ f
  | .mxSt _ _ _ f | .cpCopy _ _ _ f | .cpStream _ _ _ f => f.wf
  | _ => true

end Sys2Proof
end

