-- ==== Sys2Proof/Machine/Numbers.lean ====
section
/-!
DEFINITION. Number formats and exact arithmetic (07_numbers R111 to R122, R127). Every value is exact, an integer
times a power of two, until the one rounding that an operation performs.
-/

namespace Sys2Proof.Machine

/-- The rounding modes of RMODE (R115). -/
inductive RoundMode where
  | nearest | zero | down | up | stochastic
deriving DecidableEq, Repr, Inhabited

/-- Which codes of a format are not finite values (R111). -/
inductive Specials where
  /-- All-ones exponents are infinities and NaNs. -/
  | ieee
  /-- Only the all-ones code of each sign is a NaN: E4M3. -/
  | onlyNan
  /-- Every code is finite. -/
  | none
deriving DecidableEq, Repr

/-- A binary format: exponent bits, mantissa bits, bias (R111). -/
structure Fmt where
  ebits : Nat
  mbits : Nat
  bias : Nat
  specials : Specials
deriving DecidableEq, Repr

/-- The format of a floating-point type (R111). -/
def ftyFmt : FTy → Fmt
  | .f64 => ⟨11, 52, 1023, .ieee⟩
  | .f32 => ⟨8, 23, 127, .ieee⟩
  | .bf16 => ⟨8, 7, 127, .ieee⟩
  | .f16 => ⟨5, 10, 15, .ieee⟩

/-- The type code of a floating-point type, among all types. -/
def ftyTy : FTy → Ty
  | .f64 => .f64 | .f32 => .f32 | .bf16 => .bf16 | .f16 => .f16

/-- The type of a lane type, among all types. -/
def ityTy : ITy → Ty
  | .i8 => .i8 | .i16 => .i16 | .i32 => .i32 | .i64 => .i64

/-- The format of a type, for the types that have one (R111). -/
def tyFmt? : Ty → Option Fmt
  | .f64 => some (ftyFmt .f64)
  | .f32 => some (ftyFmt .f32)
  | .bf16 => some (ftyFmt .bf16)
  | .f16 => some (ftyFmt .f16)
  | .e5m2 => some ⟨5, 2, 15, .ieee⟩
  | .e4m3 => some ⟨4, 3, 7, .onlyNan⟩
  | .e3m2 => some ⟨3, 2, 3, .none⟩
  | .e2m3 => some ⟨2, 3, 1, .none⟩
  | .e2m1 => some ⟨2, 1, 1, .none⟩
  | .i8 | .i16 | .i32 | .i64 | .i4 | .u32 | .u64 => none

/-- Bits of a code. -/
def Fmt.width (f : Fmt) : Nat := 1 + f.ebits + f.mbits

/-- The exponent of the least subnormal: 2^minExp (R111). -/
def Fmt.minExp (f : Fmt) : Int := 1 - (f.bias : Int) - f.mbits

/-- The code of the largest finite value, sign aside (R111). -/
def Fmt.maxCode (f : Fmt) : Nat :=
  match f.specials with
  | .ieee => (2 ^ f.ebits - 1) * 2 ^ f.mbits - 1
  | .onlyNan => 2 ^ (f.ebits + f.mbits) - 2
  | .none => 2 ^ (f.ebits + f.mbits) - 1

/-- The sign bit of a code. -/
def Fmt.signBit (f : Fmt) (neg : Bool) : Nat := if neg then 2 ^ (f.ebits + f.mbits) else 0

/-- The code of an infinity, in the formats that have one. -/
def Fmt.infCode (f : Fmt) (neg : Bool) : Nat := f.signBit neg + (2 ^ f.ebits - 1) * 2 ^ f.mbits

/-- The default quiet NaN, or the positive largest finite value in a format without NaN codes (R111, R120). -/
def Fmt.nanCode (f : Fmt) : Nat :=
  match f.specials with
  | .ieee => (2 ^ f.ebits - 1) * 2 ^ f.mbits + 2 ^ (f.mbits - 1)
  | .onlyNan => 2 ^ (f.ebits + f.mbits) - 1
  | .none => f.maxCode

/-- A finite exact value (-1)^neg · mag · 2^exp. With `more`, the magnitude lies strictly between mag and mag + 1
units: what is left out is below one unit and not zero. A zero keeps its sign. -/
structure Exact where
  neg : Bool
  mag : Nat
  exp : Int
  more : Bool
deriving DecidableEq, Repr

/-- What an encoding stands for (R111). -/
inductive Num where
  | nan (signalling : Bool)
  | inf (neg : Bool)
  | fin (e : Exact)
deriving DecidableEq, Repr

/-- The exact finite value of a sign and a code. -/
def Fmt.finite (f : Fmt) (neg : Bool) (code : Nat) : Num :=
  let e := code / 2 ^ f.mbits
  let m := code % 2 ^ f.mbits
  if e = 0 then .fin ⟨neg, m, f.minExp, false⟩
  else .fin ⟨neg, 2 ^ f.mbits + m, f.minExp + (e - 1 : Nat), false⟩

/-- `Value(bits, fmt)` (R8, R111). -/
def Fmt.value (f : Fmt) (bits : Nat) : Num :=
  let code := bits % 2 ^ (f.ebits + f.mbits)
  let neg := bits / 2 ^ (f.ebits + f.mbits) % 2 == 1
  match f.specials with
  | .ieee =>
    if code / 2 ^ f.mbits = 2 ^ f.ebits - 1 then
      if code % 2 ^ f.mbits = 0 then .inf neg else .nan (code % 2 ^ f.mbits < 2 ^ (f.mbits - 1))
    else f.finite neg code
  | .onlyNan => if code = 2 ^ (f.ebits + f.mbits) - 1 then .nan false else f.finite neg code
  | .none => f.finite neg code

/-- The number of bits of a natural number. -/
def bitLen (n : Nat) : Nat := if n = 0 then 0 else Nat.log2 n + 1

/-- One step of the generator SRNG: xorshift32 (R117). -/
def srngNext (s : BitVec 32) : BitVec 32 :=
  let a := s ^^^ (s <<< 13)
  let b := a ^^^ (a >>> 17)
  b ^^^ (b <<< 5)

/-- The magnitude of a rounding to multiples of 2^unit: the count of units, and whether it is inexact (R116, R117).
`draw` is the SRNG state that a stochastic rounding compares with. -/
def roundUnits (e : Exact) (unit : Int) (mode : RoundMode) (draw : BitVec 32) : Nat × Bool :=
  let shift := unit - e.exp
  if shift ≤ 0 then (e.mag * 2 ^ (-shift).toNat, e.more)
  else
    let s := 2 ^ shift.toNat
    let q := e.mag / s
    let r := e.mag % s
    if r = 0 && !e.more then (q, false)
    else
      let away : Bool :=
        match mode with
        | .nearest => decide (s < 2 * r) || (2 * r == s && (e.more || q % 2 == 1))
        | .zero => false
        | .down => e.neg
        | .up => !e.neg
        | .stochastic =>
          -- the fraction from lo to x, in 2^-24: for a negative x, lo is the value of greater magnitude
          let down := r * 2 ^ 24 / s
          let frac :=
            if e.neg then
              2 ^ 24 - (if r * 2 ^ 24 % s = 0 && !e.more then down else down + 1)
            else down
          let toHi := draw.toNat / 2 ^ 8 < frac
          if e.neg then !toHi else toHi
      (if away then q + 1 else q, true)

/-- What an operation answers: the encoding, the flags it raises and the generator after it. -/
structure FpResult where
  bits : Nat
  flags : FlagSet
  srng : BitVec 32
deriving DecidableEq, Repr

/-- The unit in which a value is rounded: that of its precision, and no less than the least subnormal when `bounded`. -/
def Fmt.unit (f : Fmt) (e : Exact) (bounded : Bool) : Int :=
  let u := e.exp + bitLen e.mag - (f.mbits + 1 : Nat)
  if bounded then max u f.minExp else u

/-- `Round(x, fmt, mode)` of a finite exact value: one rounding, saturation and flags (R116 to R119). Under stochastic
mode the generator advances once, whether or not x is exact. -/
def Fmt.round (f : Fmt) (e : Exact) (mode : RoundMode) (srng : BitVec 32) : FpResult :=
  let srng' := if mode = .stochastic then srngNext srng else srng
  if e.mag = 0 && !e.more then ⟨f.signBit e.neg, 0, srng'⟩
  else
    let unit := f.unit e true
    let (q, inexact) := roundUnits e unit mode srng'
    -- codes rise with magnitude, and go on past the largest finite value as if exponents were unbounded
    let code := if q = 0 then 0 else (unit - f.minExp).toNat * 2 ^ f.mbits + q
    let freeUnit := f.unit e false
    let (qFree, _) := roundUnits e freeUnit mode srng'
    let tinyFree := decide ((bitLen qFree : Int) + freeUnit < f.minExp + (f.mbits + 1 : Nat))
    let tiny := decide (code < 2 ^ f.mbits) || tinyFree
    if f.maxCode < code then
      ⟨f.signBit e.neg + f.maxCode, flagOverflow ||| flagSaturate ||| flagInexact, srng'⟩
    else
      ⟨f.signBit e.neg + code, flagWhen inexact flagInexact ||| flagWhen (tiny && inexact) flagUnderflow, srng'⟩

/-- A value rounded to an integer and saturated to a range (R121). -/
def roundToInt (e : Exact) (lo hi : Int) (mode : RoundMode) (srng : BitVec 32) : Int × FlagSet × BitVec 32 :=
  let srng' := if mode = .stochastic then srngNext srng else srng
  let (q, inexact) := roundUnits e 0 mode srng'
  let v : Int := if e.neg then -(q : Int) else q
  let c := if v < lo then lo else if hi < v then hi else v
  (c, flagWhen inexact flagInexact ||| flagWhen (decide (c ≠ v)) flagSaturate, srng')

/-- The value in units of 2^exp, for exp no greater than the value's own. -/
def Exact.toUnits (e : Exact) (exp : Int) : Int :=
  let m : Int := e.mag * 2 ^ (e.exp - exp).toNat
  if e.neg then -m else m

/-- An exact value from a signed count of units; a zero takes the given sign. -/
def Exact.ofUnits (v : Int) (exp : Int) (zeroNeg : Bool) : Exact :=
  if v = 0 then ⟨zeroNeg, 0, 0, false⟩ else ⟨decide (v < 0), v.natAbs, exp, false⟩

/-- The least exponent among some values. -/
def minExpOf : List Exact → Int
  | [] => 0
  | [e] => e.exp
  | e :: es => min e.exp (minExpOf es)

/-- The sum of the values in units of 2^exp. -/
def sumUnits (exp : Int) : List Exact → Int
  | [] => 0
  | e :: es => e.toUnits exp + sumUnits exp es

/-- The sign of an exact sum of zero (R116): operands that are all zeros of one sign keep it; otherwise it is + except
under down. DESIGN CHOICE: R116 says so of two operands, and the model of a sum of one or of more than two, such as that of
`vfred.add` (R219; notes/assumptions/65.md). -/
def zeroSumSign (mode : RoundMode) (es : List Exact) : Bool :=
  if !es.isEmpty && es.all (fun e => e.mag == 0 && e.neg) then true
  else if es.all (fun e => e.mag == 0 && !e.neg) then false
  else mode == .down

/-- The exact sum of exact values (R116). -/
def exactSum (mode : RoundMode) (es : List Exact) : Exact :=
  let exp := minExpOf es
  Exact.ofUnits (sumUnits exp es) exp (zeroSumSign mode es)

/-- An exact product. -/
def exactMul (x y : Exact) : Exact := ⟨x.neg ^^ y.neg, x.mag * y.mag, x.exp + y.exp, false⟩

/-- Bits that a quotient or a root keeps: more than any precision and the 24 of a stochastic rounding. -/
def guardBits : Nat := 96

/-- x / y for y other than 0, exact to `guardBits` bits, with what is left out recorded. -/
def exactDiv (x y : Exact) : Exact :=
  if x.mag = 0 then ⟨x.neg ^^ y.neg, 0, 0, false⟩
  else
    let k := guardBits + bitLen y.mag - bitLen x.mag
    let n := x.mag * 2 ^ k
    ⟨x.neg ^^ y.neg, n / y.mag, x.exp - y.exp - k, decide (n % y.mag ≠ 0)⟩

/-- The integer square root of n, one result bit a step from bit `bits - 1` down. -/
def isqrt (n : Nat) : (bits acc : Nat) → Nat
  | 0, acc => acc
  | b + 1, acc => isqrt n b (if (acc + 2 ^ b) * (acc + 2 ^ b) ≤ n then acc + 2 ^ b else acc)

/-- The square root of a value that is not negative, exact to `guardBits` bits. -/
def exactSqrt (x : Exact) : Exact :=
  if x.mag = 0 then ⟨x.neg, 0, 0, false⟩
  else
    let k := 2 * guardBits + (x.exp % 2).toNat
    let n := x.mag * 2 ^ k
    let r := isqrt n (bitLen n / 2 + 1) 0
    ⟨false, r, (x.exp - k) / 2, decide (r * r ≠ n)⟩

/-- What an arithmetic operation yields before its rounding (R204). -/
inductive Outc where
  /-- An operand is a NaN. -/
  | nan
  /-- An invalid operation (R120). -/
  | invalid
  /-- An infinity from infinite operands. -/
  | inf (neg : Bool)
  /-- A nonzero finite value divided by zero. -/
  | divzero (neg : Bool)
  | value (e : Exact)
deriving DecidableEq, Repr

/-- A signalling NaN. -/
def Num.isSignalling : Num → Bool
  | .nan s => s
  | _ => false

/-- A NaN. -/
def Num.isNan : Num → Bool
  | .nan _ => true
  | _ => false

/-- The value with its sign inverted; a NaN stays one. -/
def Num.negate : Num → Num
  | .nan s => .nan s
  | .inf n => .inf (!n)
  | .fin e => .fin { e with neg := !e.neg }

/-- x + y before rounding. -/
def opAdd (mode : RoundMode) : Num → Num → Outc
  | .nan _, _ | _, .nan _ => .nan
  | .inf a, .inf b => if a = b then .inf a else .invalid
  | .inf a, .fin _ => .inf a
  | .fin _, .inf b => .inf b
  | .fin a, .fin b => .value (exactSum mode [a, b])

/-- x · y before rounding. -/
def opMul : Num → Num → Outc
  | .nan _, _ | _, .nan _ => .nan
  | .inf a, .inf b => .inf (a ^^ b)
  | .inf a, .fin b => if b.mag = 0 then .invalid else .inf (a ^^ b.neg)
  | .fin a, .inf b => if a.mag = 0 then .invalid else .inf (a.neg ^^ b)
  | .fin a, .fin b => .value (exactMul a b)

/-- x / y before rounding; ∞ / 0 is an infinity and raises nothing. -/
def opDiv : Num → Num → Outc
  | .nan _, _ | _, .nan _ => .nan
  | .inf _, .inf _ => .invalid
  | .inf a, .fin b => .inf (a ^^ b.neg)
  | .fin a, .inf b => .value ⟨a.neg ^^ b, 0, 0, false⟩
  | .fin a, .fin b =>
    if b.mag = 0 then (if a.mag = 0 then .invalid else .divzero (a.neg ^^ b.neg))
    else .value (exactDiv a b)

/-- The square root before rounding. -/
def opSqrt : Num → Outc
  | .nan _ => .nan
  | .inf n => if n then .invalid else .inf false
  | .fin e => if e.neg && e.mag != 0 then .invalid else .value (exactSqrt e)

/-- z plus an unrounded outcome. An invalid product is invalid even when z is a quiet NaN (R204). -/
def addOutc (mode : RoundMode) (z : Num) : Outc → Outc
  | .nan => .nan
  | .invalid => .invalid
  | .divzero n => .divzero n
  | .inf n => opAdd mode z (.inf n)
  | .value e => opAdd mode z (.fin e)

/-- z + x · y, fused. -/
def opFma (mode : RoundMode) (z x y : Num) : Outc := addOutc mode z (opMul x y)

/-- The square of x − y before rounding; the difference of two infinities of one sign is invalid. -/
def opDistSq (x y : Num) : Outc :=
  match opAdd .nearest x y.negate with
  | .value e => .value (exactMul e e)
  | .inf _ => .inf false
  | o => o

/-- z + (x − y)² (R211). -/
def opDist (mode : RoundMode) (z x y : Num) : Outc := addOutc mode z (opDistSq x y)

/-- The result of R204 from the operands read and the outcome. -/
def Fmt.finish (f : Fmt) (operands : List Num) (o : Outc) (mode : RoundMode) (srng : BitVec 32) : FpResult :=
  match o with
  | .invalid => ⟨f.nanCode, flagInvalid, srng⟩
  | .nan => ⟨f.nanCode, flagWhen (operands.any Num.isSignalling) flagInvalid, srng⟩
  | .divzero n => ⟨f.infCode n, flagDivzero, srng⟩
  | .inf n => ⟨f.infCode n, 0, srng⟩
  | .value e => f.round e mode srng

/-- x < y on exact values, −0 equal to +0. -/
def Exact.lt (x y : Exact) : Bool :=
  let exp := min x.exp y.exp
  decide (x.toUnits exp < y.toUnits exp)

/-- x = y on exact values, −0 equal to +0. -/
def Exact.eq (x y : Exact) : Bool :=
  let exp := min x.exp y.exp
  x.toUnits exp == y.toUnits exp

/-- x < y, false on an unordered pair. -/
def Num.lt : Num → Num → Bool
  | .nan _, _ | _, .nan _ => false
  | .inf a, .inf b => a && !b
  | .inf a, .fin _ => a
  | .fin _, .inf b => !b
  | .fin a, .fin b => a.lt b

/-- x = y, false on an unordered pair; −0 and +0 are equal. -/
def Num.eq : Num → Num → Bool
  | .nan _, _ | _, .nan _ => false
  | .inf a, .inf b => a == b
  | .inf _, .fin _ | .fin _, .inf _ => false
  | .fin a, .fin b => a.eq b

/-- The sign of a value; a NaN counts as positive. -/
def Num.neg : Num → Bool
  | .nan _ => false
  | .inf n => n
  | .fin e => e.neg

/-- x ordered before y for min and max: −0 below +0 (R205). -/
def Num.before (x y : Num) : Bool := x.lt y || (x.eq y && x.neg && !y.neg)

/-- `fmin` and `fmax` on encodings (R205). -/
def Fmt.minMax (f : Fmt) (isMax : Bool) (a b : Nat) : Nat × FlagSet :=
  let x := f.value a
  let y := f.value b
  if x.isNan || y.isNan then (f.nanCode, flagWhen (x.isSignalling || y.isSignalling) flagInvalid)
  else if (if isMax then y.before x else x.before y) then (a, 0) else (b, 0)

/-- `fabs` and `fneg` on encodings: what becomes of the sign bit (R205). -/
def Fmt.signOp (f : Fmt) (isNeg : Bool) (a : Nat) : Nat × FlagSet :=
  match f.value a with
  | .nan s => (f.nanCode, flagWhen s flagInvalid)
  | x =>
    let code := a % 2 ^ (f.ebits + f.mbits)
    (code + f.signBit (if isNeg then !x.neg else false), 0)

/-- The compare conditions of `fcmp` and `vcmp` (R206, R212). -/
inductive Cond where
  | eq | ne | lt | le | gt | ge | un
deriving DecidableEq, Repr

/-- A floating-point compare: `ne` and `un` are true on an unordered pair, every other condition false (R206, R212). -/
def Num.cond (c : Cond) (x y : Num) : Bool :=
  match c with
  | .eq => x.eq y
  | .ne => !x.eq y
  | .lt => x.lt y
  | .le => x.lt y || x.eq y
  | .gt => y.lt x
  | .ge => y.lt x || x.eq y
  | .un => x.isNan || y.isNan

/-- Invalid under eq, ne and un for a signalling NaN, under the other conditions for any NaN (R206, R212). -/
def Num.condFlags (c : Cond) (x y : Num) : FlagSet :=
  match c with
  | .eq | .ne | .un => flagWhen (x.isSignalling || y.isSignalling) flagInvalid
  | .lt | .le | .gt | .ge => flagWhen (x.isNan || y.isNan) flagInvalid

/-- The range of an integer type. -/
def tyIntRange? : Ty → Option (Int × Int)
  | .i8 => some (-2 ^ 7, 2 ^ 7 - 1)
  | .i16 => some (-2 ^ 15, 2 ^ 15 - 1)
  | .i32 => some (-2 ^ 31, 2 ^ 31 - 1)
  | .i64 => some (-2 ^ 63, 2 ^ 63 - 1)
  | .i4 => some (-8, 7)
  | .u32 => some (0, 2 ^ 32 - 1)
  | .u64 => some (0, 2 ^ 64 - 1)
  | _ => none

/-- An element of an integer type as an integer: UINT32 and UINT64 are read unsigned (R199). -/
def tyIntRead (t : Ty) (bits : Nat) : Int :=
  let n := bits % 2 ^ t.width
  match t with
  | .u32 | .u64 => n
  | _ => if n < 2 ^ (t.width - 1) then n else (n : Int) - 2 ^ t.width

/-- An integer as an element of w bits. -/
def intBits (w : Nat) (v : Int) : Nat := (v % (2 ^ w : Int)).toNat

/-- An integer as an exact value. -/
def exactOfInt (v : Int) : Exact := ⟨decide (v < 0), v.natAbs, 0, false⟩

/-- Every value of the source format has an encoding in the destination (R119). -/
def fmtWidens (t s : Fmt) : Bool :=
  decide (s.mbits ≤ t.mbits) && decide (t.minExp ≤ s.minExp) &&
    -- the largest finite values, compared exactly
    !(match s.finite false s.maxCode, t.finite false t.maxCode with
      | .fin a, .fin b => b.lt a
      | _, _ => true) &&
    (s.specials != .ieee || t.specials == .ieee) && (s.specials != .onlyNan || t.specials != .none)

/-- Every value of an integer type has an encoding in the destination (R119). -/
def intWidens (t : Fmt) (range : Int × Int) : Bool :=
  let bits := max (bitLen range.1.natAbs - 1) (bitLen range.2.natAbs)
  decide (bits ≤ t.mbits + 1) &&
    (match t.finite false t.maxCode with
      | .fin m => !(m.lt (exactOfInt range.1.natAbs)) && !(m.lt (exactOfInt range.2.natAbs))
      | _ => false)

/-- A conversion of one element from S to T: `cvt`, and each pair of `vcvt` (R207). -/
def convert (t s : Ty) (bits : Nat) (mode : RoundMode) (srng : BitVec 32) : FpResult :=
  match tyIntRange? t, tyIntRange? s with
  | some (lo, hi), some _ =>
    let x := tyIntRead s bits
    let r := if x < lo then lo else if hi < x then hi else x
    ⟨intBits t.width r, flagWhen (decide (r ≠ x)) flagSaturate, srng⟩
  | some (lo, hi), none =>
    match tyFmt? s with
    | none => ⟨0, 0, srng⟩
    | some f =>
      match f.value bits with
      | .nan _ => ⟨intBits t.width hi, flagInvalid, srng⟩
      | .inf n => ⟨intBits t.width (if n then lo else hi), flagSaturate, srng⟩
      | .fin e =>
        let (v, fl, r) := roundToInt e lo hi mode srng
        ⟨intBits t.width v, fl, r⟩
  | none, some range =>
    match tyFmt? t with
    | none => ⟨0, 0, srng⟩
    | some f =>
      let e := exactOfInt (tyIntRead s bits)
      if intWidens f range then { f.round e .nearest srng with flags := 0 } else f.round e mode srng
  | none, none =>
    match tyFmt? t, tyFmt? s with
    | some f, some g =>
      match g.value bits with
      | .nan sig =>
        ⟨f.nanCode, flagWhen (sig || f.specials == .none) flagInvalid, srng⟩
      | .inf n =>
        if fmtWidens f g then ⟨f.infCode n, 0, srng⟩
        else ⟨f.signBit n + f.maxCode, flagSaturate, srng⟩
      | .fin e =>
        if fmtWidens f g then { f.round e .nearest srng with flags := 0 } else f.round e mode srng
    | _, _ => ⟨0, 0, srng⟩

/-- A floating-point immediate: a BF16 pattern converted without flags or SRNG (R127, R208). -/
def convertImm (t : Ty) (h : BitVec 16) : Nat :=
  match t with
  | .bf16 =>
    match (ftyFmt .bf16).value h.toNat with
    | .nan _ => (ftyFmt .bf16).nanCode
    | _ => h.toNat
  | t => (convert t .bf16 h.toNat .nearest 0).bits

/-- The sum of some values, rounded once: infinities of one sign give that infinity, both signs or a NaN the default
quiet NaN; both infinities raise invalid, and so does a signalling NaN (R75, R120, R123). -/
def Fmt.sumAll (f : Fmt) (xs : List Num) (mode : RoundMode) (srng : BitVec 32) : FpResult :=
  let pos := xs.any fun x => x == .inf false
  let neg := xs.any fun x => x == .inf true
  if pos && neg then ⟨f.nanCode, flagInvalid, srng⟩
  else if xs.any Num.isNan then ⟨f.nanCode, flagWhen (xs.any Num.isSignalling) flagInvalid, srng⟩
  else if pos || neg then ⟨f.infCode neg, 0, srng⟩
  else f.round (exactSum mode (xs.filterMap fun x => match x with | .fin e => some e | _ => none)) mode srng

end Sys2Proof.Machine
end

