-- ==== Sys2Proof/Machine/Table.lean ====
section
/-!
DEFINITION. Finite tables as lists of key and value in rising order of the key, for the parts of the machine that are
numbered: contexts, cores, clusters, launches. A key without an entry reads as a default.
-/

namespace Sys2Proof.Machine

/-- A table from numbers to values. -/
abbrev Table (α : Type) := List (Nat × α)

/-- The entry of a key. -/
def tableFind {α : Type} (k : Nat) : Table α → Option α
  | [] => none
  | (j, v) :: t => if j = k then some v else tableFind k t

/-- The entry of a key, or a default. -/
def tableGet {α : Type} (dflt : α) (k : Nat) (t : Table α) : α := (tableFind k t).getD dflt

/-- The table with the entry of a key replaced, or put before the first greater key. -/
def tablePut {α : Type} (k : Nat) (v : α) : Table α → Table α
  | [] => [(k, v)]
  | (j, w) :: t =>
    if j = k then (k, v) :: t
    else if k < j then (k, v) :: (j, w) :: t
    else (j, w) :: tablePut k v t

/-- The table without the entries of a key. -/
def tableDrop {α : Type} (k : Nat) (t : Table α) : Table α := t.filter fun e => e.1 != k

/-- Every entry changed by a function of its key and value. -/
def tableMap {α : Type} (f : Nat → α → α) (t : Table α) : Table α := t.map fun e => (e.1, f e.1 e.2)

/-- The list with the element at a place replaced; a place past the end changes nothing. -/
def listPut {α : Type} (n : Nat) (v : α) : List α → List α
  | [] => []
  | x :: t =>
    match n with
    | 0 => v :: t
    | n + 1 => x :: listPut n v t

/-- The list without the element at a place. -/
def listDrop {α : Type} (n : Nat) : List α → List α
  | [] => []
  | x :: t =>
    match n with
    | 0 => t
    | n + 1 => x :: listDrop n t

end Sys2Proof.Machine
end

