-- ==== Sys2Proof/Machine/State.lean ====
section
/-!
DEFINITION. The state of the device, as plain data: everything the spec gives the machine (INVENTORY.md lists it with
the rules). Counts, identities and addresses are natural numbers; what software reads and writes as a word is a bit
vector. A core is named by its physical number pcn, a context by tid = 16 · pcn + slot, a cluster by its package number.
-/

namespace Sys2Proof.Machine

/-- Memory as cells in rising order of address, without an entry for a zero byte: an unlisted address reads 0, which
is what the wipe leaves everywhere (R364). Addresses: 0x1_0000_0000 + (pcn << 17) + offset for a local store,
0x2_0000_0000 + (pcn << 13) + byte for the accumulators, 0x3_0000_0000 + (pcn << 13) + (slot << 9) + byte for the
vector registers (R51), and 2^52 + DPA for HBM and the LPDDR tier (R328). -/
abbrev Mem := List Host.Cell

/-! ## Accesses and banks (R57, R58) -/

/-- What becomes of a load's value or what an access does at its Perform. -/
inductive AccessKind where
  /-- A load of 1 to 8 bytes into g[d], sign- or zero-extended (R186). -/
  | load (d : GReg) (signed : Bool)
  /-- `ld.q` into g[d] and g[d+1]. -/
  | loadPair (d : GReg)
  /-- A store; each part carries its data. -/
  | store
  /-- A sub-byte store of `k` bits at bit `q` (R193). -/
  | subByte (q k : Nat)
  /-- An accumulate atomic with the function code of R154. -/
  | atomic (f : Nat)
  /-- A vector load into v[d]: each part writes its bytes (R215, R216). -/
  | loadVec (d : VReg)
  /-- The block of `mx.cfg` or `cp.cfg`: entries read in order (R225). -/
  | config (copy : Bool)
  /-- The descriptor of `ev.new`, read in order (R252). -/
  | descriptor (d : GReg) (selector : Word)
deriving DecidableEq, Repr

/-- One line part of an access: `addr` is a memory address of `Mem`, `off` the byte of the destination it fills. -/
structure Part where
  addr : Nat
  size : Nat
  data : Nat
  off : Nat
  /-- It goes through the owner's handler: a global window, and not the self window (R50). -/
  window : Bool
  /-- It stands in its bank's arrival queue. -/
  queued : Bool
deriving DecidableEq, Repr

/-- An access in an issue port or a relaxed buffer (R57). -/
structure Access where
  /-- Number of the access among those of its context. -/
  serial : Nat
  kind : AccessKind
  relaxed : Bool
  /-- Parts not yet performed. -/
  parts : List Part
  /-- Bytes read so far by an access whose parts are read in order. -/
  got : List Byte
deriving DecidableEq, Repr

/-- The two engines of a cluster (R16). -/
inductive Engine where
  | mxe | copy
deriving DecidableEq, Repr

/-- Whose line stands in an arrival queue (R58): an access of a context, or a job of a core. -/
inductive PartSource where
  | access (tid serial : Nat)
  | job (pcn : Nat) (engine : Engine) (id : BitVec 32)
deriving DecidableEq, Repr

/-- An entry of a bank's arrival queue: a part of an access, or a line of a job with the name that the job gives it. -/
structure QueuedPart where
  source : PartSource
  addr : Nat
  off : Nat
deriving DecidableEq, Repr

/-! ## Contexts -/

/-- The states of a context image (R293). -/
inductive CtxStatus where
  | empty | ready | waiting | stopped | reserved
deriving DecidableEq, Repr

/-- What a waiting context waits for (R35, R251). -/
inductive Wait where
  | none
  /-- The access in the issue port. -/
  | access
  /-- The relaxed buffer to be empty, before the held instruction takes effect (R60) or for `rsync`. -/
  | drain
  /-- Room in the relaxed buffer (R58). -/
  | room
  /-- A register that a relaxed load has not yet written (R59). -/
  | register
  /-- The offer slot to close and the payload to be written (R81). -/
  | offer
  /-- LVT ≤ GVT (R105, R93, R261, R263). -/
  | settle
  /-- A free checkpoint or journal entry (R98). -/
  | journal
  /-- The ember to be accepted (R44). -/
  | mig
  /-- The carrier message to end (R49). -/
  | msg
  /-- The home's answer to `ev.new` or its taking of `ev.free` (R252, R254). -/
  | home
  /-- Room in an engine's queue (R227 order 7). -/
  | queue
  /-- The end of a timer: an `offer.t` whose list names no event (R80). -/
  | timer
  /-- The 15 cycles after a `yield`, which do not count as waiting (R267). -/
  | yield
deriving DecidableEq, Repr

/-- A prefix sequence in progress (R146 to R148). -/
structure Pfx where
  /-- Address of its first word; none when no sequence is in progress. -/
  first : Option Word
  rlx : Bool
  ext : Option (BitVec 24)
deriving DecidableEq, Repr

/-- No prefix. -/
def Pfx.none : Pfx := ⟨.none, false, .none⟩

/-- A trap that waits to be entered (R288). -/
structure TrapRec where
  cause : Nat
  late : Bool
  xpc : Word
  xaddr : Word
  xring : BitVec 6
deriving DecidableEq, Repr

/-- A late trap that is ready to be taken at an instruction boundary (R287). `order` ranks it among its cause:
job order for the faults, the promise for copy-overdue. -/
structure LateTrap where
  cause : Nat
  job : BitVec 32
  order : Nat
  /-- The core that issued the job: its dispatch ring has the job's entry (R228). -/
  core : Nat
  /-- The checkpoint that the job follows, for a rollback (R288). -/
  ckseq : Nat
deriving DecidableEq, Repr

/-- A job's late fault that waits for an offer to return, or for its event to be freed (R232). -/
structure JobFault where
  cause : Nat
  job : BitVec 32
  core : Nat
  handle : BitVec 32
  batch : Nat
  /-- The job's place among all jobs, in which the faults trap (R232), and the checkpoint that it follows (R288). -/
  order : Nat
  ckseq : Nat
  /-- An occurrence that carries the fault has closed an offer of the thread. -/
  due : Bool
deriving DecidableEq, Repr

/-- One entry of an offered choice list, as read at issue (R78, R81). -/
structure OfferEntry where
  handle : BitVec 32
  home : Nat
  entry : Nat
  gen : Nat
  role : Nat
  stream : Bool
  sendLen : Nat
  sendSrc : Nat
  recvDst : Nat
  recvLen : Nat
  vt : Nat
  timed : Bool
  /-- Its event has been freed, or its header refused as stale (R92, R255). -/
  gone : Bool
deriving DecidableEq, Repr

/-- A claim that waits at a locked offer slot (R82). -/
structure Claim where
  home : Nat
  entry : Nat
  gen : Nat
  loss : Nat
  /-- The resolution that claims. -/
  number : Nat
  /-- The offer whose header the home claims with. -/
  serial : Nat
deriving DecidableEq, Repr

/-- The states of an offer slot (R82); a slot that closed on an event waits for its payload. -/
inductive OfferState where
  | closed
  | opened
  | locked (home entry number : Nat)
  /-- Closed on the entry with this index; the payload is still to be written. -/
  | committed (index : Nat)
deriving DecidableEq, Repr

/-- The offer slot of a process (R81). -/
structure OfferSlot where
  state : OfferState
  entries : List OfferEntry
  dest : GReg
  /-- The time of `offer.t`. -/
  deadline : Option Nat
  /-- A timeout, a trap or a diversion came while the slot was locked (R82). -/
  timedOut : Bool
  queued : List Claim
  /-- Number of the offer among those of its context. -/
  serial : Nat
deriving DecidableEq, Repr

/-- A closed offer slot. -/
def OfferSlot.none : OfferSlot := ⟨.closed, [], 0, .none, false, [], 0⟩

/-- The MXE registers of a slot (R223). -/
structure MxRegs where
  mtype : BitVec 5
  mkDim : BitVec 9
  mtile : BitVec 3
  mevt : BitVec 32
  mlda : BitVec 17
  mldb : BitVec 17
  mbcol : BitVec 1
  msca : Word
  mssa : BitVec 17
  mscb : Word
  mssb : BitVec 17
  mldc : BitVec 17
  mout : BitVec 5
deriving DecidableEq, Repr

/-- Reset values of the MXE registers (R223). -/
def MxRegs.reset : MxRegs := ⟨0x9, 0x10, 0, 0, 0, 0, 0, 0, 0, 0, 0, 0, 0⟩

/-- The copy registers of a slot (R224). -/
structure CpRegs where
  cevt : BitVec 32
  cconv : BitVec 13
  cscl : Word
  cdim : Vector (BitVec 32) 4
  cstr : Vector (BitVec 48) 3
  corg : Vector (BitVec 32) 4
  ctil : Vector (BitVec 32) 4
  cdst : Vector (BitVec 32) 3
  cfill : Word
  cslack : BitVec 32
deriving DecidableEq, Repr

/-- Reset values of the copy registers (R224). -/
def CpRegs.reset : CpRegs :=
  ⟨0, 0, 0, Vector.replicate 4 1, Vector.replicate 3 0, Vector.replicate 4 0, Vector.replicate 4 1,
    Vector.replicate 3 0, 0, 0⟩

/-- A context: one slot of one core. The vector registers are the slot's window in memory (R56). -/
structure Ctx where
  status : CtxStatus
  /-- The process it belongs to: a key of `State.procs`. -/
  proc : Nat
  /-- A spawned thread, and not the process itself (R37). -/
  spawned : Bool
  /-- The slot that stays reserved for it while it is away (R42). -/
  home : Nat
  /-- It runs away from its home core. -/
  away : Bool
  /-- Size of the `mig` that last moved it (R45). -/
  migSize : MigSize
  pc : Word
  pfx : Pfx
  /-- g0 to g31; g0 is never read. -/
  regs : Vector Word 32
  pw : BitVec 16
  /-- m0 to m3; m0 is never read. -/
  masks : Vector Word 4
  rmode : BitVec 3
  fflags : BitVec 8
  srng : BitVec 32
  xpc : Word
  xstat : Word
  xcause : Word
  xaddr : Word
  xvec : Word
  xring : Word
  ckring : Word
  ckpos : Word
  ckseq : Word
  jring : Word
  jpos : Word
  /-- System level has written one of the ring registers since the context began (R294). -/
  ringsWritten : Bool
  late : List LateTrap
  faults : List JobFault
  wait : Wait
  /-- The instruction that waits to take effect, with its first word fetched already. -/
  held : Option Instr
  /-- A trap that waits for the relaxed buffer to drain or for the return home (R288). -/
  trapping : Option TrapRec
  port : Option Access
  relaxed : List Access
  nextSerial : Nat
  /-- Targets of relaxed `msg` not yet ended, and of those that ended in a fault, in program order (R268). -/
  relaxedMsgs : List (Nat × Word)
  msgFaults : List (Nat × Word)
  /-- Destination of the `msg` or `ev.new` it waits for. -/
  dest : GReg
  /-- The target of the `msg` it waits for (R286). -/
  target : Word
  offer : OfferSlot
  mx : MxRegs
  cp : CpRegs
  /-- Core cycle of its last issue, and the first cycle a `yield` lets it issue in (R35, R267). -/
  lastIssue : Option Nat
  notBefore : Nat
  /-- Stopped by a halt-process command (R326). -/
  halted : Bool
  /-- Stopped for a gang switch or a freeze (R319). -/
  parked : Bool
  /-- It stands at its stop point for wrap-up (R108). -/
  wrapStop : Bool
  /-- It is to be diverted to WRAPPC at its next boundary (R287). -/
  divert : Bool
deriving DecidableEq, Repr

/-- A slot after reset: every register holds its reset value (R118, R223, R224, R284, R294). The level of a slot that has never
run is the one of its core (`State.imageCtx`). -/
def Ctx.empty : Ctx where
  status := .empty
  proc := 0
  spawned := false
  home := 0
  away := false
  migSize := .g8
  pc := 0
  pfx := .none
  regs := Vector.replicate 32 0
  pw := 0
  masks := Vector.replicate 4 0
  rmode := 0
  fflags := 0
  srng := 1
  xpc := 0
  xstat := 0
  xcause := 0
  xaddr := 0
  xvec := 0
  xring := 0
  ckring := 0
  ckpos := 0
  ckseq := 0
  jring := 0
  jpos := 0
  ringsWritten := false
  late := []
  faults := []
  wait := .none
  held := .none
  trapping := .none
  port := .none
  relaxed := []
  nextSerial := 0
  relaxedMsgs := []
  msgFaults := []
  dest := 0
  target := 0
  offer := .none
  mx := .reset
  cp := .reset
  lastIssue := .none
  notBefore := 0
  halted := false
  parked := false
  wrapStop := false
  divert := false

/-- A slot that a context has left: every byte of its image is zero (R293). -/
def Ctx.zero : Ctx := { Ctx.empty with srng := 0 }

/-! ## Processes -/

/-- Whose jobs a standing offer reports: the process, the checkpoint they follow and the batch (R99, R232). -/
structure StandingSource where
  proc : Nat
  ckseq : Nat
  batch : Nat
deriving DecidableEq, Repr

/-- An event that a timed offer names, with the offer's VT. -/
structure TimedOffer where
  home : Nat
  entry : Nat
  vt : Nat
deriving DecidableEq, Repr

/-- An entry of an offer as the event that it names. -/
def OfferEntry.timedOffer (x : OfferEntry) : TimedOffer := ⟨x.home, x.entry, x.vt⟩

/-- A timed occurrence a process took part in, with the sequence number of its checkpoint (R96), the events that the closed
offer named, and the standing offer that the occurrence used (R95). -/
structure Occ where
  seq : Nat
  vt : Nat
  loss : Nat
  home : Nat
  entry : Nat
  gen : Nat
  number : Nat
  offered : List TimedOffer
  stand : Option (Nat × Option StandingSource)
deriving DecidableEq, Repr

/-- A positive message of a timed process that a rollback must undo (R99): what was sent after checkpoint `seq`. -/
structure Sent where
  seq : Nat
  home : Nat
  entry : Nat
  gen : Nat
  vt : Nat
deriving DecidableEq, Repr

/-- A process, or a bare context that belongs to no launch. -/
structure Proc where
  launch : Option Nat
  rank : Nat
  home : Nat
  lvt : Nat
  /-- Spawn limit S and live count (R38), as its context image holds them (R293). -/
  spawnLimit : Nat
  live : Nat
  ended : Bool
  occs : List Occ
  sent : List Sent
  /-- It has rolled back, and taken part in no occurrence since. -/
  careful : Bool
deriving DecidableEq, Repr

/-- A process that is not there. -/
def Proc.none : Proc := ⟨.none, 0, 0, 0, 0, 0, true, [], [], false⟩

/-! ## Embers and carrier messages -/

/-- A thread in transit (R40): what the ember carries, and whose it is. The trap registers are a copy of those that the thread
runs with: a home slot keeps its own (R42). -/
structure Ember where
  proc : Nat
  spawned : Bool
  home : Nat
  size : MigSize
  pc : Word
  pw : BitVec 16
  /-- g1 to g8, g16 or g24, and g2 with them. -/
  regs : List Word
  xpc : Word
  xstat : Word
  xcause : Word
  xaddr : Word
  xvec : Word
  xring : Word
  late : List LateTrap
  faults : List JobFault
  /-- What it does once home: take a trap, or issue the held instruction again (R45, R288). -/
  trapping : Option TrapRec
  held : Option Instr
  /-- Carrier faults of relaxed messages that wait for its next `rsync` (R268, R288). -/
  msgFaults : List (Nat × Word)
  /-- The slot it left. -/
  source : Nat
deriving DecidableEq, Repr

/-- A carrier message (R47): four words, two data words, the offset of its target and who sent it. -/
structure Message where
  words : List (BitVec 32)
  data0 : Word
  data1 : Word
  offset : Word
  sender : Nat
  serial : Nat
  relaxed : Bool
deriving DecidableEq, Repr

/-- An entry of the handler's queue (R50): a message, or a remote access, which the handler appends to its bank's arrival
queue in one cycle of slot 0. -/
inductive HandlerEntry where
  | access (q : QueuedPart)
  | message (m : Message)
deriving DecidableEq, Repr

/-! ## Events -/

/-- An event descriptor, once checked (R71 to R74). -/
structure Descriptor where
  kind : Nat
  timed : Bool
  deliverRoot : Bool
  op : Nat
  ty : Nat
  size : Nat
  tag : Nat
  /-- Participants in ascending rank: rank, home context and role. -/
  parties : List (Nat × Nat × Nat)
deriving DecidableEq, Repr

/-- A header that a home holds (R81). -/
structure Header where
  rank : Nat
  tid : Nat
  index : Nat
  vt : Nat
  /-- Number of the offer among those of its context. -/
  serial : Nat
deriving DecidableEq, Repr

/-- A standing offer of an engine or of a port (R90, R91): its payload and, in timed mode, its VT. -/
structure Standing where
  payload : List Byte
  vt : Nat
  /-- None for a port. -/
  source : Option StandingSource
deriving DecidableEq, Repr

/-- How far the resolution of an event is (R83). -/
inductive Resolution where
  | idle
  /-- Its number, the ranks granted so far, those still to grant, the first of which has been sent a claim, and
  whether its loss has been counted (R85). -/
  | claiming (number : Nat) (granted waiting : List Nat) (counted : Bool)
  /-- Committed: contributions and payload writes are under way. -/
  | moving
deriving DecidableEq, Repr

/-- An occurrence in progress or kept for cancelling (R88, R100). -/
structure Occurrence where
  number : Nat
  vt : Nat
  /-- The loss count before it. -/
  loss : Nat
  headers : List Header
  standing : Option Standing
  /-- Contributions that have reached the home: rank and bytes. -/
  contributions : List (Nat × List Byte)
  /-- Payload bytes not yet written, per receiver: context, rank, local-store offset, bytes. -/
  writes : List (Nat × Nat × Nat × List Byte)
  flags : BitVec 8
deriving DecidableEq, Repr

/-- The states of an arbiter entry (R70, R92). -/
inductive EntryState where
  | free | live | draining
deriving DecidableEq, Repr

/-- An arbiter entry (R69). -/
structure ArbEntry where
  state : EntryState
  gen : Nat
  space : Nat
  launch : Nat
  desc : Descriptor
  loss : Nat
  headers : List Header
  /-- Withdrawn timed headers (R99). DEDUCED: they are kept until the event is freed, since the occurrence that withdrew one
  may lie above GVT while the header's own VT does not, and R95 still needs it then. In prompt mode, headers whose withdrawal has
  overtaken them. -/
  shadows : List Header
  resolution : Resolution
  standing : List Standing
  /-- The occurrence in progress, and those above GVT that may be cancelled. -/
  current : Option Occurrence
  past : List Occurrence
  /-- Number of its next resolution. -/
  nextNumber : Nat
deriving DecidableEq, Repr

/-- An empty descriptor. -/
def Descriptor.none : Descriptor := ⟨0, false, false, 0, 0, 0, 0, []⟩

/-- A free entry that has held no event yet. -/
def ArbEntry.free : ArbEntry :=
  ⟨.free, 0, 0, 0, .none, 0, [], [], .idle, [], .none, [], 0⟩

/-! ## Engines -/

/-- The job forms (R227). -/
inductive JobForm where
  | mma | mmb | dist | topk | zero | ld | st | copy | stream
deriving DecidableEq, Repr

/-- Bytes to write; the low `lo` bits of the first and the high `hi` bits of the last keep their old value. -/
structure WriteData where
  bytes : List Byte
  lo : Nat
  hi : Nat
deriving DecidableEq, Repr


/-- A line that a job has still to read: the name under which the job keeps its bytes, its address in `Mem`, its length,
and whether it is off-chip. -/
structure LineRead where
  name : Nat
  addr : Nat
  size : Nat
  offchip : Bool
deriving DecidableEq, Repr

/-- A cached translation (R332): root, size bit, page, frame, writable. -/
structure Translation where
  root : Nat
  big : Bool
  page : Nat
  frame : Nat
  writable : Bool
  /-- DPA of the table entry, where the dirty bit is set (R333). -/
  entry : Nat
  dirty : Bool
deriving DecidableEq, Repr

/-- One line write that a job has still to perform: a window of the core side, a latch buffer, or off-chip memory with
the translation of its page. -/
inductive JobWrite where
  | window (addr : Nat) (data : WriteData)
  | latch (buffer : Nat) (scale : Bool) (offset : Nat) (bytes : List Byte)
  | offchip (dpa : Nat) (page : Translation) (data : WriteData)
deriving DecidableEq, Repr

/-- What a job's grant is doing (R229, R239). -/
inductive Grant where
  /-- No grant in progress. -/
  | none
  /-- Reading: lines not yet read, and those that stand in arrival queues. -/
  | reading (todo waits : List LineRead)
  /-- Writing: lines not yet written, and those that stand in arrival queues. -/
  | writing (todo waits : List JobWrite)
  /-- Waiting for a pager, in a fault slot of the copy unit (R335), or for one to be free. -/
  | faulted (slot : Option Nat)
deriving DecidableEq, Repr

/-- A job (R227), with the registers it copied at submission. -/
structure Job where
  engine : Engine
  form : JobForm
  id : BitVec 32
  seq : Nat
  /-- Its place among all jobs that the device has accepted. -/
  order : Nat
  /-- The slot that submitted it, and the slot where its thread is at home. -/
  tid : Nat
  thread : Nat
  proc : Nat
  launch : Option Nat
  region : Nat
  timed : Bool
  handle : BitVec 32
  batch : Option Nat
  mx : MxRegs
  cp : CpRegs
  a : Word
  b : Word
  flags : JobFlags
  /-- LVT at issue (R94) and the checkpoint it follows, for rollback. -/
  lvt : Nat
  ckseq : Nat
  started : Bool
  /-- The number of the next grant (R229). -/
  row : Nat
  grant : Grant
  /-- Bytes read by the grant in progress, by name. -/
  got : List (Nat × Byte)
  /-- Translations that the grant in progress holds (R332). -/
  held : List Translation
  status : Nat
  raised : BitVec 8
  fill : Nat
  promise : Option Nat
  overdue : Bool
  /-- Grants are over; the job completes once its deferred actions, acknowledgements and visibility allow. -/
  finished : Bool
  cancelled : Bool
  /-- Send-window elements gathered so far (R356), and whether the acknowledgement is awaited. -/
  message : List Nat
  awaitAck : Bool
deriving DecidableEq, Repr

/-- The states of a latch buffer (R233). -/
inductive LatchState where
  | empty | filling | full
deriving DecidableEq, Repr

/-- A latch buffer (R233): its type code, K, MX flag, elements and scales. -/
structure Latch where
  state : LatchState
  tc : Nat
  mx : Bool
  k : Nat
  elems : List (Nat × Byte)
  scales : List (Nat × Byte)
deriving DecidableEq, Repr

/-- An empty latch buffer. -/
def Latch.none : Latch := ⟨.empty, 0, false, 0, [], []⟩

/-- An entry of the dispatch ring (R292). -/
structure RingEntry where
  pc : Word
  job : BitVec 32
  slot : Nat
deriving DecidableEq, Repr

/-- A batch (R230): the jobs in a row of one thread on one engine that name one completion event. Once it is closed it
stands at the end of its cluster's list, so that closed batches stand in closing order. -/
structure Batch where
  engine : Engine
  handle : BitVec 32
  /-- The slot where its thread is at home, and the thread's process. -/
  thread : Nat
  proc : Nat
  number : Nat
  lvt : Nat
  ckseq : Nat
  /-- Jobs of the batch not yet complete. -/
  pending : Nat
  closed : Bool
  lastJob : BitVec 32
  status : Nat
  raised : BitVec 8
  passed : Bool
  fill : Nat
  time : Nat
  timed : Bool
deriving DecidableEq, Repr

/-- What a deferred action does once GVT has passed its tag (R103). -/
inductive DeferredAction where
  /-- An off-chip write of a copy: job, DPA, translation of the page, and data. -/
  | write (job : BitVec 32) (dpa : Nat) (page : Translation) (data : WriteData)
  /-- A send-window message: job, destination and body (R356). -/
  | send (job : BitVec 32) (b : Word) (bytes : List Byte)
deriving DecidableEq, Repr

/-- A deferred action with the checkpoint it follows and the LVT t at its issue: its tag is t − 1 (R103). -/
structure Deferred where
  action : DeferredAction
  lvt : Nat
  proc : Nat
  ckseq : Nat
  /-- The thread that issued it and the job's place among all jobs. -/
  thread : Nat
  order : Nat
deriving DecidableEq, Repr

/-! ## Packets (R341) -/

/-- The traffic classes. -/
inductive PacketClass where
  | request | reply | payload | bulk | control
deriving DecidableEq, Repr

/-- Why a header leaves a home (R82, R85, R99). -/
inductive WithdrawCause where
  /-- Another event committed. -/
  | commit
  /-- A timeout, a trap or a diversion. -/
  | timeout
deriving DecidableEq, Repr

/-- What a packet carries. -/
inductive Body where
  | message (m : Message)
  | msgReply (tid serial : Nat) (relaxed : Bool) (value : Option Word) (fault : Bool)
  | ember (e : Ember)
  | migAccept (tid : Nat)
  | evNew (tid entry : Nat) (any : Bool) (d : Descriptor) (space launch region : Nat)
  | evNewAnswer (tid : Nat) (handle : Word)
  | evFree (tid : Nat) (handle : BitVec 32)
  | header (entry gen : Nat) (h : Header)
  | claim (tid : Nat) (c : Claim)
  | grant (entry gen tid number : Nat)
  | refuse (entry gen tid number : Nat)
  | commit (tid home entry gen vt number : Nat)
  | release (tid home entry gen number : Nat)
  | withdraw (entry gen rank serial vt : Nat) (cause : WithdrawCause)
  /-- A header that was refused or removed: the entry of the offer is gone (R92, R255). -/
  | headerGone (tid home entry gen : Nat)
  | contribution (entry gen number : Nat) (data : List (Nat × List Byte))
  | payload (tid home entry gen number : Nat)
  | circuit (src dst entry : Nat)
  | straggler (tid home entry gen seqVt loss handle : Nat)
  | antiHeader (entry gen rank vt : Nat)
  | antiOccurrence (tid home entry gen number : Nat)
  /-- The contribution of a participant that has rolled back is taken back (R99). -/
  | antiPayload (entry gen number rank : Nat)
  /-- Copy-unit data to or from a memory port, or part of an image load (R341), with its phase (R343): in phase 0 it is on its
  way to an intermediate router. It changes nothing where it arrives. -/
  | bulk (owner : Nat) (via : Option Nat)
  | gvtStart (launch round : Nat)
  | gvtReport (launch round pass : Nat) (least : Option Nat) (sum : Int) (cores : Nat)
  | gvtPass (launch round pass : Nat)
  | gvtResult (launch gvt : Nat)
  | faultRecord (va root job cluster slot seq region : Nat) (write absent : Bool) (pages : List Nat)
  | faultReply (cluster slot seq outcome : Nat)
  | switchNotice (colour time : Nat)
  | tinder (origin x y hops port : Nat)
  | tinderDone (origin count : Nat)
  | tinderRefuse (origin : Nat)
deriving DecidableEq, Repr

/-- A packet in flight. Colour `none` is the system mark (R340). -/
structure Packet where
  cls : PacketClass
  src : Nat
  dst : Nat
  colour : Option Nat
  /-- Reduction colour and VT of a timed packet, and its launch (R348). -/
  timed : Option (Nat × Bool × Nat)
  body : Body
deriving DecidableEq, Repr

/-! ## Cores -/

/-- What a core keeps for a timed launch it holds (R348). -/
structure Reduction where
  red : Bool
  sentWhite : Nat
  sentRed : Nat
  recvWhite : Nat
  recvRed : Nat
  leastSent : Option Nat
  gvt : Nat
deriving DecidableEq, Repr

/-- Before the first round: white, nothing counted. -/
def Reduction.reset : Reduction := ⟨false, 0, 0, 0, 0, .none, 0⟩

/-- One phase port set of a combining entry (R345): awaited inputs, those received, the occurrence that it last served, and what the
inputs brought. -/
structure PortSet where
  awaited : List Nat
  received : List Nat
  number : Nat
  data : List (Nat × List Byte)
deriving DecidableEq, Repr

/-- A combining entry of a router (R345): the router toward the home, and the sets of even and odd occurrences. An up set
awaits the ports that contributions come from; a down set names those of them toward receivers, and is received as the result's
markers leave by them. -/
structure Combining where
  home : Nat
  entry : Nat
  gen : Nat
  toHome : Nat
  upEven : PortSet
  downEven : PortSet
  upOdd : PortSet
  downOdd : PortSet
deriving DecidableEq, Repr

/-- What the root of a reduction has combined of one launch's pass (R349). -/
structure GvtStage where
  launch : Nat
  least : Option Nat
  sum : Int
  cores : Nat
deriving DecidableEq, Repr

/-- A record of a pager's fault queue (R335). -/
structure FaultRecord where
  va : Nat
  root : Nat
  job : Nat
  cluster : Nat
  slot : Nat
  seq : Nat
  region : Nat
  write : Bool
  absent : Bool
  pages : List Nat
deriving DecidableEq, Repr

/-- The boot registers and the flood of one position (R373, R375). -/
structure BootPos where
  started : Bool
  done : Bool
  count : Nat
  x : Nat
  y : Nat
  hops : Nat
  parent : Nat
  selfok : Bool
  coordok : Bool
  seen : Bool
  /-- Tinders sent and not yet answered, the counts of the answers, and whether the self-check has ended. -/
  awaiting : Nat
  sum : Nat
  checkEnded : Bool
  /-- It has sent its done answer. -/
  answered : Bool
deriving DecidableEq, Repr

/-- Boot registers after reset (R373). -/
def BootPos.reset : BootPos := ⟨false, false, 0, 0, 0, 0, 0, false, false, false, 0, 0, false, false⟩

/-- A core and its router. Memories are in `State.mem`, contexts in `State.ctxs`. -/
structure CoreS where
  cyc : Nat
  /-- The lending pointer L (R35). -/
  lend : Nat
  embers : List Ember
  spill : List Ember
  spillSize : Nat
  /-- Entry of the spill ring in which the next ember is written (R43). -/
  spillTail : Nat
  waiting : List Ember
  handler : List HandlerEntry
  /-- The message that runs in slot 0 and its next word (R48). -/
  running : Option (Message × Nat)
  arb : Table ArbEntry
  ring : Table RingEntry
  mxSeq : Nat
  cpSeq : Nat
  mxQueue : List Job
  cpQueue : List Job
  latch0 : Latch
  latch1 : Latch
  deferred : List Deferred
  reductions : Table Reduction
  stalecnt : Nat
  ecccor : Nat
  eccunc : Nat
  ctlerr : Nat
  fwdrop : Nat
  fwctl : Word
  tcinvRoot : Word
  faultQueue : List FaultRecord
  fqhead : Nat
  rcolcfg : Table (BitVec 17)
  rload : Word
  imbalance : Nat
  xorshift : BitVec 32
  combining : List Combining
  gvtStages : List GvtStage
  boot : BootPos
  /-- The core has failed a self-check since reset. -/
  failed : Bool
  /-- It has been checked since it last became free. -/
  checked : Bool
  /-- A program has written into a reserved area of the core since its launch was placed (R53). -/
  spoiled : Bool
  /-- Time at which it last became free, for the self-check after 10 s idle (R365). -/
  idleSince : Nat
deriving DecidableEq, Repr

/-- A core after reset; `pcn` seeds its router's generator (R343). -/
def CoreS.reset (pcn : Nat) : CoreS where
  cyc := 0
  lend := 0
  embers := []
  spill := []
  spillSize := 64
  spillTail := 0
  waiting := []
  handler := []
  running := .none
  arb := []
  ring := []
  mxSeq := 0
  cpSeq := 0
  mxQueue := []
  cpQueue := []
  latch0 := .none
  latch1 := .none
  deferred := []
  reductions := []
  stalecnt := 0
  ecccor := 0
  eccunc := 0
  ctlerr := 0
  fwdrop := 0
  fwctl := 0x1C
  tcinvRoot := 0
  faultQueue := []
  fqhead := 0
  rcolcfg := []
  rload := 0
  imbalance := 0
  xorshift := BitVec.ofNat 32 (pcn + 1)
  combining := []
  gvtStages := []
  boot := .reset
  failed := false
  checked := true
  spoiled := false
  idleSince := 0

/-- A cluster's arbiters, the batches of its engines, and its copy unit. -/
structure ClusterS where
  batches : List Batch
  /-- Number of its next batch. -/
  batchSeq : Nat
  mxPointer : Nat
  mxGrants : Nat
  cpPointer : Nat
  cpGrants : Nat
  cache : List Translation
  /-- Sequence number of the last record sent from each fault slot, and that of the next record (R335). -/
  slots : Table Nat
  faultSeq : Nat
deriving DecidableEq, Repr

/-- A cluster after reset. -/
def ClusterS.reset : ClusterS := ⟨[], 0, 0, 0, 0, 0, [], [], 0⟩

/-- An off-chip write that is performed but not yet visible to everyone: visible at `scope` around its cluster (R65). -/
structure OffWrite where
  cluster : Nat
  thread : Nat
  job : BitVec 32
  /-- The job's place among all jobs. -/
  order : Nat
  /-- None while it is visible to its own job only. -/
  scope : Option Scope
  dpa : Nat
  data : WriteData
deriving DecidableEq, Repr

/-! ## Regions and launches -/

/-- A region's control block as it took effect (R299): own fields and override mask. -/
structure Region where
  live : Bool
  debug : Bool
  frozen : Bool
  out : Bool
  parent : Nat
  depth : Nat
  mask : Nat
  cores : Nat
  slots : Nat
  kib : Nat
  hbm : Nat
  arb : Nat
  share : Nat
  prio : Nat
  domain : Nat
  colour : Nat
  root : Nat
  space : Nat
  guaranteed : Nat
  saveBase : Nat
  saveSize : Nat
  queueBase : Nat
  queueEntries : Nat
deriving DecidableEq, Repr

/-- A region that is not live. -/
def Region.none : Region :=
  ⟨false, false, false, false, 0, 0, 0, 0, 0, 0, 0, 0, 0, 0, 0, 0, 0, 0, 0, 0, 0, 0, 0⟩

/-- A launch record (R303). -/
structure LaunchRec where
  image : Nat
  imageLen : Nat
  entry : Nat
  wrappc : Nat
  rankTab : Option Nat
  n : Nat
  place : Nat
  timed : Bool
  cancelCopies : Bool
  freq : Nat
  rect : Nat
  lsBytes : Nat
  ckpt : Nat
  journal : Nat
  spill : Nat
  spawn : Nat
  tag0 : Nat
  tag1 : Nat
  lvt : Nat
  deadline : Nat
  budgetW : Nat
  budgetE : Nat
  record : Nat
  doneTag : Nat
deriving DecidableEq, Repr

/-- Where a launch stands. -/
inductive LaunchPhase where
  /-- Admitted, not placed. -/
  | admitted
  /-- To be placed: its window has opened, or a placement unit has decided (R316). -/
  | chosen
  /-- Reserved and loaded; commits next (R315). -/
  | loaded
  | running
  /-- Wrap-up has begun: timed processes run to their stop points (R108). -/
  | stopping
  /-- Threads have entered WRAPPC. -/
  | wrapped
  /-- Its completion record is written; resources are released. -/
  | ended
deriving DecidableEq, Repr

/-- A launch. -/
structure Launch where
  seq : Nat
  region : Nat
  spec : LaunchRec
  /-- Offsets of the image's descriptors that carry `at=launch` (R30). -/
  descs : List Nat
  phase : LaunchPhase
  validated : Nat
  /-- Start-on tags not yet posted (R314). -/
  waiting : List Nat
  /-- Reservation window start, for a guaranteed region (R311). -/
  window : Option Nat
  /-- Place of each rank: the context it starts in. -/
  ranks : List Nat
  cores : List Nat
  /-- The logical map in force when it was placed (R15). -/
  lmap : List Nat
  events : List (Nat × Nat)
  committed : Nat
  wrapTime : Nat
  wrapvt : Nat
  /-- The round that wrap-up has requested, and the value that it has found (R108 step 4). -/
  cutRound : Option Nat
  cutVt : Option Nat
  /-- Jobs that the device had accepted at the wrap-up point: latch jobs of the launch among them no longer wait (R233). -/
  wrapJobs : Nat
  /-- Some thread had not halted at step 8 of R108: the launch completes as wrapped. -/
  diverted : Bool
  mask : Word
  frozen : Nat
  /-- GVT rounds: number of the round that runs, its pass, reports still missing, and a request for the next (R350). -/
  round : Option Nat
  pass : Nat
  nextRound : Nat
  requested : Bool
  gvt : Nat
  lastRound : Nat
  /-- Cause, status and pcn of the stop that ended it, if one did. -/
  stopStatus : Nat
  stopCause : Nat
  stopPcn : Nat
deriving DecidableEq, Repr

/-- What a command does once the front end takes it (R309, R310). -/
inductive Effect where
  /-- An admitted launch. -/
  | admission (l : Launch)
  /-- A refused launch or batch member: status, reason, index and the record to write. -/
  | refuse (seq record reason index : Nat)
  | destroy (abort : Bool) (record : Nat)
  | halt (launch rank : Nat)
  | resume (launch rank : Nat)
  | freeze (time : Nat)
  | thaw (time : Nat)
  | nothing
deriving DecidableEq, Repr

/-- The front end's and firmware's state for a region's command queue (R307 to R310). LATCHED, CURSOR and TAKEN are
the header's words in memory. -/
structure Queue where
  /-- Submissions held for a gap: sequence number and entry (R309). -/
  held : List (Nat × List Byte)
  /-- Sequence number of the begin of an open batch, and the launches in it. -/
  batch : Option Nat
  members : List (Nat × Effect)
  /-- Effects handed over and not yet taken: the number and what happens at it. -/
  effects : List (Nat × List Effect)
  /-- A destroy has been taken: abort flag, record and number (R317). -/
  closing : Option (Bool × Nat × Nat)
  /-- Number of the latched destroy, after which no submission is latched (R317). -/
  shut : Option Nat
  /-- Number of the last command whose effect firmware has handed over: it is ahead of CURSOR until firmware writes that, and
  falls back to it when firmware restarts (R309). -/
  handed : Nat
deriving DecidableEq, Repr

/-- An empty queue. -/
def Queue.none : Queue := ⟨[], .none, [], [], .none, .none, 0⟩

/-- A core's block in a save area (R321), and where in the DPA space it lies. -/
structure SavedCore where
  pcn : Nat
  dpa : Nat
  cells : List Host.Cell
  core : CoreS
  ctxs : Table Ctx
  /-- Lines of partial jobs, and what stands behind them, in arrival queues that a journal holds up (R98). -/
  banks : Table (List QueuedPart)
deriving DecidableEq, Repr

/-- Where a colour group stands (R318 to R325). -/
inductive GroupPhase where
  | running
  /-- A notice carries T. -/
  | notified
  | stopped
  | out
deriving DecidableEq, Repr

/-- An entry of a group's packet log (R320): the packet, and the router where it fell out. -/
structure LogEntry where
  packet : Packet
  position : Nat
deriving DecidableEq, Repr

/-- A colour group. -/
structure Group where
  phase : GroupPhase
  time : Nat
  resume : Option Nat
  /-- Stopped by a freeze, which saves nothing (R325). -/
  frozen : Bool
  log : List LogEntry
  /-- Where in the DPA space the log's next entry goes, and where its room ends (R320 to R322). -/
  logNext : Nat
  logEnd : Nat
  saved : List SavedCore
deriving DecidableEq, Repr

/-- A running group. -/
def Group.none : Group := ⟨.running, 0, .none, false, [], 0, 0, []⟩

/-! ## Ports and the device -/

/-- A message that waits in a region's ingress buffer for a binding (R354). -/
structure HeldIngress where
  flow : Nat
  tag : Nat
  kind : Nat
  vt : Nat
  floor : Nat
  body : List Byte
deriving DecidableEq, Repr

/-- A binding of an ingress tag (R354) with the floors of its flows (R355). -/
structure Binding where
  tag : Nat
  home : Nat
  entry : Nat
  gen : Nat
  floors : Table Nat
deriving DecidableEq, Repr

/-- What leaves through the ports. -/
inductive UetOut where
  | ack (sender : Nat)
  | nack (sender : Nat)
  | error (sender : Nat)
  | data (sender : Nat) (bytes : List Byte)
  | peerSend (peer region tag vt floor : Nat) (job : BitVec 32) (core : Nat) (bytes : List Byte)
  /-- An attestation report (R362): its nonce, NOW, TSTAT, LCSTATE, the SHA-384 of the running firmware and of the configuration
  table, the serial number and the signature count, and a name for the two signatures under the device's own keys. -/
  | report (sender : Nat) (nonce : List Byte) (now tstat lcstate : Nat) (firmware table : List Byte)
    (serial count signatures : Nat)
  | retirement (pcn : Nat)
  | frameRetired (frame : Nat)
  | firmwareFault (pcn cause : Nat)
  | replacement
deriving DecidableEq, Repr

/-- The signed configuration table, as the device uses it (R360). -/
structure ConfigTable where
  fused : List Nat
  w : Nat
  pagers : Nat
  ptpDomain : Nat
  freeRun : Bool
  minU : Nat
  power : Nat
  /-- Role map: pcn and role. -/
  roles : List (Nat × Nat)
deriving DecidableEq, Repr

/-- Fuses: they survive a wipe (R364 to R366). -/
structure Fuses where
  fused : List Nat
  minVersion : Nat
  retiredCores : List Nat
  /-- Cores retired since the last reset: their fuses are read at the next one (R365, R373). -/
  newRetired : List Nat
  retiredFrames : List Nat
  reports : Nat
  /-- Hashes of the vendor's and of the owner's public keys (R361, R363). -/
  vendor : KeyHashes
  owner : KeyHashes
  /-- The device serial number, and whether its own key pairs have been generated (R362). -/
  serial : Nat
  deviceKeys : Bool
deriving DecidableEq, Repr

/-- What the boot ROM verifies: the firmware image and the configuration table, each with its signatures, and where the stage
image lies in the firmware image (R361, R369, R372). -/
structure BootImage where
  stageAt : Nat
  stageLen : Nat
  firmware : Signed
  table : Signed
deriving DecidableEq, Repr

/-- The stage image (R372). -/
def BootImage.stage (i : BootImage) : List Byte := (i.firmware.bytes.drop i.stageAt).take i.stageLen

/-- A page that the command front end waits for (R339, R352): the page fault that it has sent to a pager, by the cluster, fault slot
and sequence number of its record, and the pager's outcome once it has refused the page. -/
structure FrontFault where
  cluster : Nat
  slot : Nat
  seq : Nat
  root : Nat
  page : Nat
  write : Bool
  outcome : Option Nat
deriving DecidableEq, Repr

/-- Why the device has set the pinned bit of a page-table entry (R333, R339): a launch's completion record, by the launch's key. The
pages of deferred writes stand in `CoreS.deferred`. -/
structure RecordPin where
  launch : Nat
  entry : Nat
deriving DecidableEq, Repr

/-- Which agent moves next: a core's clock, or a step that has no word. `dt` is how far device time moves first. -/
inductive MoveKind where
  | cycle (pcn : Nat)
  | event (i : Instr)
deriving DecidableEq, Repr, Inhabited

/-- A move of the machine. -/
structure Move where
  dt : Nat
  what : MoveKind
deriving DecidableEq, Repr, Inhabited

/-- The machine. -/
structure State where
  mem : Mem
  ctxs : Table Ctx
  procs : Table Proc
  cores : Table CoreS
  clusters : Table ClusterS
  banks : Table (List QueuedPart)
  offbuf : List OffWrite
  net : List Packet
  circuits : List (Nat × Nat)
  regions : Table Region
  regbase : Nat
  /-- Jobs that the device has accepted: the next one's place among all jobs (R232). -/
  jobCount : Nat
  /-- Page faults of the front end, and the page-table entries that the device has pinned (R333, R339, R352). -/
  frontFaults : List FrontFault
  recordPins : List RecordPin
  pinned : List Nat
  queues : Table Queue
  launches : Table Launch
  reservations : List (Nat × Nat × Nat × Nat × Nat)
  groups : Table Group
  bindings : Table (List Binding)
  ingress : Table (List HeldIngress)
  dieFreq : Table Nat
  dieDecisions : Table Nat
  now : Nat
  tstat : Nat
  timeOffset : BitVec 32
  everLocked : Bool
  holdoverSince : Nat
  lifecycle : Nat
  wiping : Bool
  rrq : Bool
  pwrlim : Nat
  igdrop : Nat
  iglate : Nat
  peers : Table (List Byte)
  bootMode : Bool
  phase : Nat
  phaseTime : Nat
  /-- A verification of phase 3 has failed; and the image that the management interface has supplied since (R370). -/
  bootFailed : Bool
  supplied : Option BootImage
  /-- The firmware image and the table that run (R362). -/
  running : Option BootImage
  /-- An error in state that no region owns, or a thermal trip: the device requires a reset (R297, R368). -/
  dead : Bool
  config : ConfigTable
  fuses : Fuses
  lmap : List Nat
  uetOut : List UetOut
  agenda : List Move
  cur : Nat
  fresh : Nat
deriving DecidableEq, Repr

/-- The configuration before a table has been verified: w defaults to 1 (R14). -/
def ConfigTable.reset : ConfigTable := ⟨[], 1, 0, 0, false, 0, 2000, []⟩

/-- The vendor's key hashes, fused when the device was made (R361, R363): no rule gives them. -/
opaque Config.vendorKeys : KeyHashes

/-- The device serial number (R362): no rule gives it. -/
opaque Config.deviceSerial : Nat

/-- The fuses of a device as it was made: its vendor's keys and its serial number. -/
def Fuses.reset : Fuses := ⟨[], 0, [], [], [], 0, Config.vendorKeys, ⟨[], []⟩, Config.deviceSerial, false⟩

/-- Why the machine stops with a fault. No meaning raises one: what stops a context or a launch is itself a state. -/
inductive Fault where
  /-- Nobody raises it. It is kept so that the type has a value; safe, since no step ends in it. -/
  | neverRaised
deriving DecidableEq, Repr

/-- Why a step is refused. -/
inductive Refusal where
  /-- Raised by the dispatch for an instruction that has no meaning yet; safe, since nothing follows from it. -/
  | notModelled (mnemonic : String)
deriving DecidableEq, Repr

/-- The machine right after reset: phase 1 of R369, everything wiped, no context, boot mode and wiping set. -/
def State.reset : State where
  mem := []
  ctxs := []
  procs := []
  cores := []
  clusters := []
  banks := []
  offbuf := []
  net := []
  circuits := []
  regions := []
  regbase := 0
  jobCount := 0
  frontFaults := []
  recordPins := []
  pinned := []
  queues := []
  launches := []
  reservations := []
  groups := []
  bindings := []
  ingress := []
  dieFreq := []
  dieDecisions := []
  now := 0
  tstat := 0
  timeOffset := 0
  everLocked := false
  holdoverSince := 0
  lifecycle := 0
  wiping := true
  rrq := false
  pwrlim := 0x7D0
  igdrop := 0
  iglate := 0
  peers := []
  bootMode := true
  phase := 1
  phaseTime := 0
  bootFailed := false
  supplied := none
  running := none
  dead := false
  config := .reset
  fuses := .reset
  lmap := []
  uetOut := []
  agenda := []
  cur := 0
  fresh := 0

end Sys2Proof.Machine
end

