-- ==== Sys2Proof/Config.lean ====
section
/-!
DEFINITION. What the spec leaves to the machine: free values. They have no body, so nothing proves what they are; a
step reads them at the counter `fresh` of the state and advances it.
-/

namespace Sys2Proof.Machine.Config

/-- Which enabled action the machine takes next, and how much device time passes before it (R10, R20, R58, R173). -/
opaque schedule : Nat → Move

/-- What a byte of the rank table holds after a program has written it (R33). -/
opaque rankByte : Nat → Byte

/-- What a reserved area of a core gives back once a program has written there: bytes of checkpoints, of journals and of what
a gang switch saved (R53, R294). -/
opaque reservedByte : Nat → Byte

/-- The same of a register: of an ember that the spill ring held, or of a context that was saved (R53). -/
opaque reservedWord : Nat → Word

/-- Whether a home lets an event of a process that has rolled back wait for one that precedes it (R99 does not say). -/
opaque heldBack : Nat → Bool

/-- How an instruction rounds while RMODE holds a reserved mode, which only an image can put there (R115, R293). -/
opaque reservedMode : BitVec 3 → RoundMode

/-- What a place of a pager's fault queue that holds no record reads (R335 does not say). -/
opaque emptyRecord : Nat → Word

/-- Where in its control page an error in a core's state lies (R297 names no offset). -/
opaque errorOffset : Nat → Nat

/-- The signatures of an attestation report, under keys that only the device has (R362). -/
opaque attestation : Nat → Nat

/-- Byte i of the 256-byte spill-ring entry that holds an ember (R43 gives no layout). -/
opaque emberByte : Ember → Nat → Byte

/-- Byte i of the 256 KiB block that a core writes to the save area (R321 gives no layout). -/
opaque savedByte : SavedCore → Nat → Byte

/-- Byte i of a packet's entry in a packet log (R320 gives no layout). -/
opaque logByte : LogEntry → Nat → Byte

/-- How far along its route a packet is, and where a memory port joins the mesh (R340, R341: no rule gives them). -/
opaque position : Nat → Nat

end Sys2Proof.Machine.Config
end

