-- ==== Sys2Proof/Decode.lean ====
section
/-!
DEFINITION. From words to instructions and back, written from 09_encoding R141 to R169. The decoder is total: a word
that is no instruction is rejected by name (R167). Whether a prefix word may stand before an instruction (R147) and
which forms and control registers are for the system level only (R165, R166) depend on more than the word, and are
checked where the word issues (Machine/Fetch.lean and the meanings of the S format).
-/

namespace Sys2Proof

/-- Why bytes are no instruction (R167). -/
inductive Reject where
  /-- Fewer than four bytes. -/
  | truncated
  /-- A reserved major opcode (R149). -/
  | reservedMajor
  /-- A function value that no sub-map lists (R150 to R165). -/
  | unlistedFunction
  /-- A field that the form does not use holds a value other than 0 (R141). -/
  | nonzeroField
  /-- A register field out of its class (R142). -/
  | badRegister
  /-- A type code that the form does not accept (R143). -/
  | badType
  /-- Rounding code 5 or 6 (R144). -/
  | badRounding
  /-- A reserved scope, or a scope without a flag (R145). -/
  | badScope
  /-- `mig` with size 3 (R164). -/
  | badSize
  /-- A part outside the valid set (R213). -/
  | badPart
  /-- A bit position that the store does not take (R153). -/
  | badPosition
deriving DecidableEq, Repr

/-- The type codes of the vector integer forms (R143). -/
def ITy.code : ITy → Nat
  | .i8 => 0 | .i16 => 1 | .i32 => 2 | .i64 => 3

/-- The type codes of the floating-point forms (R143). -/
def FTy.code : FTy → Nat
  | .f64 => 8 | .f32 => 9 | .bf16 => 10 | .f16 => 11

/-- Every type code (R143). -/
def Ty.code : Ty → Nat
  | .i8 => 0 | .i16 => 1 | .i32 => 2 | .i64 => 3 | .i4 => 4 | .e2m1 => 5 | .u32 => 6 | .u64 => 7
  | .f64 => 8 | .f32 => 9 | .bf16 => 10 | .f16 => 11 | .e5m2 => 12 | .e4m3 => 13 | .e3m2 => 14 | .e2m3 => 15

/-- The type codes of a vector compare (R158). -/
def LaneTy.code : LaneTy → Nat
  | .int t => t.code
  | .fp t => t.code

/-- The rounding codes (R144). -/
def Rm.code : Rm → Nat
  | .rn => 0 | .rz => 1 | .rd => 2 | .ru => 3 | .rs => 4 | .dyn => 7

/-- The scope codes (R21). -/
def Scope.code : Scope → Nat
  | .th => 0 | .co => 1 | .cl => 2 | .qd => 3 | .se => 4 | .di => 5 | .dv => 6 | .rg => 7 | .pe => 8 | .ho => 9
  | .sy => 10

/-- The width bit of an accumulate atomic (R154). -/
def AWidth.code : AWidth → Nat
  | .word => 0 | .dword => 1

/-- The lane-size codes (R159). -/
def LaneSize.code : LaneSize → Nat
  | .s1 => 0 | .s2 => 1 | .s4 => 2 | .s8 => 3

/-- The size codes of `mig` (R40). -/
def MigSize.code : MigSize → Nat
  | .g8 => 0 | .g16 => 1 | .g24 => 2

/-- Bits 10:5 of the X format: scope, acq, rel (R141). -/
def JobFlags.code (f : JobFlags) : Nat :=
  f.scope.code * 4 + (if f.acq then 2 else 0) + (if f.rel then 1 else 0)

/-- The lane type of a code 0 to 3. -/
def ITy.ofCode : Nat → Except Reject ITy
  | 0 => .ok .i8 | 1 => .ok .i16 | 2 => .ok .i32 | 3 => .ok .i64
  | _ => .error .badType

/-- The floating-point type of a code 8 to 11. -/
def FTy.ofCode : Nat → Except Reject FTy
  | 8 => .ok .f64 | 9 => .ok .f32 | 10 => .ok .bf16 | 11 => .ok .f16
  | _ => .error .badType

/-- The type of a code 0 to 15. -/
def Ty.ofCode : Nat → Except Reject Ty
  | 0 => .ok .i8 | 1 => .ok .i16 | 2 => .ok .i32 | 3 => .ok .i64
  | 4 => .ok .i4 | 5 => .ok .e2m1 | 6 => .ok .u32 | 7 => .ok .u64
  | 8 => .ok .f64 | 9 => .ok .f32 | 10 => .ok .bf16 | 11 => .ok .f16
  | 12 => .ok .e5m2 | 13 => .ok .e4m3 | 14 => .ok .e3m2 | 15 => .ok .e2m3
  | _ => .error .badType

/-- The compare type of a code 0 to 3 or 8 to 11. -/
def LaneTy.ofCode : Nat → Except Reject LaneTy
  | 0 => .ok (.int .i8) | 1 => .ok (.int .i16) | 2 => .ok (.int .i32) | 3 => .ok (.int .i64)
  | 8 => .ok (.fp .f64) | 9 => .ok (.fp .f32) | 10 => .ok (.fp .bf16) | 11 => .ok (.fp .f16)
  | _ => .error .badType

/-- The rounding of a code: 5 and 6 are illegal (R144). -/
def Rm.ofCode : Nat → Except Reject Rm
  | 0 => .ok .rn | 1 => .ok .rz | 2 => .ok .rd | 3 => .ok .ru | 4 => .ok .rs | 7 => .ok .dyn
  | _ => .error .badRounding

/-- The scope of a code: 11 to 15 are illegal (R145). -/
def Scope.ofCode : Nat → Except Reject Scope
  | 0 => .ok .th | 1 => .ok .co | 2 => .ok .cl | 3 => .ok .qd | 4 => .ok .se | 5 => .ok .di | 6 => .ok .dv
  | 7 => .ok .rg | 8 => .ok .pe | 9 => .ok .ho | 10 => .ok .sy
  | _ => .error .badScope

/-- The width of an accumulate atomic. -/
def AWidth.ofCode : Nat → AWidth
  | 0 => .word
  | _ => .dword

/-- The lane size of a 2-bit code. -/
def LaneSize.ofCode : Nat → LaneSize
  | 0 => .s1 | 1 => .s2 | 2 => .s4 | _ => .s8

/-- The size of a `mig`: 3 is illegal (R164). -/
def MigSize.ofCode : Nat → Except Reject MigSize
  | 0 => .ok .g8 | 1 => .ok .g16 | 2 => .ok .g24
  | _ => .error .badSize

/-- The flags in fn<10:5> of the X format (R141, R145). -/
def JobFlags.ofCode (c : Nat) : Except Reject JobFlags := do
  let scope ← Scope.ofCode (c / 4)
  let f : JobFlags := ⟨scope, c / 2 % 2 == 1, c % 2 == 1⟩
  if f.wf then .ok f else .error .badScope

/-- A g field: every value is a register (R142). -/
def gField (n : Nat) : GReg := Fin.ofNat 32 n

/-- A p field: bit 4 must be 0 (R142). -/
def pField (n : Nat) : Except Reject PReg := if h : n < 16 then .ok ⟨n, h⟩ else .error .badRegister

/-- A v field: bits 4:3 must be 0 (R142). -/
def vField (n : Nat) : Except Reject VReg := if h : n < 8 then .ok ⟨n, h⟩ else .error .badRegister

/-- An m field: bits 4:2 must be 0 (R142). -/
def mField (n : Nat) : Except Reject MReg := if h : n < 4 then .ok ⟨n, h⟩ else .error .badRegister

/-- An m destination: m0 is illegal (R142). -/
def mDest (n : Nat) : Except Reject MReg := do
  let m ← mField n
  if m = 0 then .error .badRegister else .ok m

/-- A 2-bit mask field names m0 to m3 (R145). -/
def maskField (n : Nat) : MReg := Fin.ofNat 4 n

/-- A field that must be zero (R167). -/
def zero (n : Nat) (i : Instr) : Except Reject Instr := if n = 0 then .ok i else .error .nonzeroField

/-- The fields of the R layout, which every other format refines (R141). -/
structure Fields where
  op : Nat
  d : Nat
  a : Nat
  b : Nat
  fn : Nat
deriving DecidableEq, Repr

/-- The fields of a word (R141). -/
def Fields.ofWord (w : BitVec 32) : Fields :=
  ⟨w.toNat / 2 ^ 26, w.toNat / 2 ^ 21 % 32, w.toNat / 2 ^ 16 % 32, w.toNat / 2 ^ 11 % 32, w.toNat % 2 ^ 11⟩

/-- The word of some fields (R141). -/
def Fields.toWord (f : Fields) : BitVec 32 :=
  BitVec.ofNat 32 (f.op * 2 ^ 26 + f.d * 2 ^ 21 + f.a * 2 ^ 16 + f.b * 2 ^ 11 + f.fn)

/-- imm16 stands in the b and fn fields (R141). -/
def imm16 (b fn : Nat) : BitVec 16 := BitVec.ofNat 16 (b * 2 ^ 11 + fn)

/-- The b field of an imm16. -/
def hi (i : BitVec 16) : Nat := i.toNat / 2 ^ 11

/-- The fn field of an imm16. -/
def lo (i : BitVec 16) : Nat := i.toNat % 2 ^ 11

/-- creg stands in bits 15:6 (R141). -/
def creg (b fn : Nat) : BitVec 10 := BitVec.ofNat 10 (b * 32 + fn / 64)

/-- Major 0x01: integer ALU (R150). -/
def decodeAlu (d a b fn : Nat) : Except Reject Instr :=
  match fn with
  | 0 => .ok (.add (gField d) (gField a) (gField b))
  | 1 => .ok (.sub (gField d) (gField a) (gField b))
  | 2 => .ok (.and (gField d) (gField a) (gField b))
  | 3 => .ok (.or (gField d) (gField a) (gField b))
  | 4 => .ok (.xor (gField d) (gField a) (gField b))
  | 5 => .ok (.shl (gField d) (gField a) (gField b))
  | 6 => .ok (.shr (gField d) (gField a) (gField b))
  | 7 => .ok (.sra (gField d) (gField a) (gField b))
  | 8 => .ok (.mul (gField d) (gField a) (gField b))
  | 9 => .ok (.mulh (gField d) (gField a) (gField b))
  | 10 => .ok (.mulhu (gField d) (gField a) (gField b))
  | 11 => .ok (.div (gField d) (gField a) (gField b))
  | 12 => .ok (.divu (gField d) (gField a) (gField b))
  | 13 => .ok (.rem (gField d) (gField a) (gField b))
  | 14 => .ok (.remu (gField d) (gField a) (gField b))
  | 15 => .ok (.min (gField d) (gField a) (gField b))
  | 16 => .ok (.max (gField d) (gField a) (gField b))
  | 17 => .ok (.minu (gField d) (gField a) (gField b))
  | 18 => .ok (.maxu (gField d) (gField a) (gField b))
  | 20 => zero b (.clz (gField d) (gField a))
  | 21 => zero b (.ctz (gField d) (gField a))
  | 22 => zero b (.popc (gField d) (gField a))
  | 23 => zero b (.sextB (gField d) (gField a))
  | 24 => zero b (.sextH (gField d) (gField a))
  | 25 => zero b (.sextW (gField d) (gField a))
  | 26 => zero b (.zextB (gField d) (gField a))
  | 27 => zero b (.zextH (gField d) (gField a))
  | 28 => zero b (.zextW (gField d) (gField a))
  | n =>
    if n % 64 = 19 ∧ n < 1024 then .ok (.sel (gField d) (gField a) (gField b) (Fin.ofNat 16 (n / 64)))
    else .error .unlistedFunction

/-- Majors 0x06 to 0x08: imm16<15:6> must be 0 (R149). -/
def shiftImm (b fn : Nat) (i : BitVec 6 → Instr) : Except Reject Instr :=
  if b = 0 ∧ fn < 64 then .ok (i (BitVec.ofNat 6 fn)) else .error .nonzeroField

/-- Major 0x0A: integer compare (R151). -/
def decodeCmp (d a b fn : Nat) : Except Reject Instr := do
  let p ← pField d
  match fn with
  | 0 => .ok (.cmpEq p (gField a) (gField b))
  | 1 => .ok (.cmpNe p (gField a) (gField b))
  | 2 => .ok (.cmpLt p (gField a) (gField b))
  | 3 => .ok (.cmpLe p (gField a) (gField b))
  | 4 => .ok (.cmpGt p (gField a) (gField b))
  | 5 => .ok (.cmpGe p (gField a) (gField b))
  | 6 => .ok (.cmpLtu p (gField a) (gField b))
  | 7 => .ok (.cmpLeu p (gField a) (gField b))
  | 8 => .ok (.cmpGtu p (gField a) (gField b))
  | 9 => .ok (.cmpGeu p (gField a) (gField b))
  | _ => .error .unlistedFunction

/-- Three predicates (R152). -/
def pred3 (d a b : Nat) (i : PReg → PReg → PReg → Instr) : Except Reject Instr := do
  .ok (i (← pField d) (← pField a) (← pField b))

/-- Major 0x0E: the predicate word (R152). -/
def decodePred (d a b fn : Nat) : Except Reject Instr :=
  match fn with
  | 0 => pred3 d a b .pand
  | 1 => pred3 d a b .por
  | 2 => pred3 d a b .pxor
  | 3 => pred3 d a b .pandn
  | 4 => do zero b (.pnot (← pField d) (← pField a))
  | 5 => do zero b (.pmov (← pField d) (← pField a))
  | 6 => do zero (a + b) (.pset (← pField d))
  | 7 => do zero (a + b) (.pclr (← pField d))
  | 8 => zero (a + b) (.prd (gField d))
  | 9 => zero (d + b) (.pwr (gField a))
  | _ => .error .unlistedFunction

/-- Major 0x16: register jumps (R152). -/
def decodeJump (d a b fn : Nat) : Except Reject Instr :=
  match fn with
  | 0 => zero (d + b) (.jr (gField a))
  | 1 => zero b (.jalr (gField d) (gField a))
  | _ => .error .unlistedFunction

/-- A pair whose register number must be even (R142). -/
def pairField (n : Nat) : Except Reject GReg := if n % 2 = 0 then .ok (gField n) else .error .badRegister

/-- Major 0x25: sub-byte stores (R153). -/
def decodeSubByte (d a b fn : Nat) : Except Reject Instr :=
  if b ≠ 0 ∨ fn / 2 % 128 ≠ 0 then .error .nonzeroField
  else if fn % 2 = 0 then
    match fn / 256 with
    | 0 => .ok (.stX4 (gField d) (gField a) false)
    | 4 => .ok (.stX4 (gField d) (gField a) true)
    | _ => .error .badPosition
  else .ok (.stX6 (gField d) (gField a) (Fin.ofNat 8 (fn / 256)))

/-- Major 0x26: accumulate atomics (R154). -/
def decodeAtomic (d a b fn : Nat) : Except Reject Instr :=
  if b ≠ 0 then .error .nonzeroField
  else
    let w := AWidth.ofCode (fn % 2)
    match fn / 2 with
    | 0 => .ok (.aadd (gField d) (gField a) w)
    | 1 => .ok (.amin (gField d) (gField a) w)
    | 2 => .ok (.amax (gField d) (gField a) w)
    | 3 => .ok (.aminu (gField d) (gField a) w)
    | 4 => .ok (.amaxu (gField d) (gField a) w)
    | 5 => .ok (.aand (gField d) (gField a) w)
    | 6 => .ok (.aor (gField d) (gField a) w)
    | 7 => .ok (.axor (gField d) (gField a) w)
    | _ => .error .unlistedFunction

/-- A rounding field that must be 0 (R155, R157). -/
def noRounding (rm : Nat) (i : Instr) : Except Reject Instr := if rm = 0 then .ok i else .error .badRounding

/-- Major 0x28: scalar floating point (R155). -/
def decodeFp (d a b fn : Nat) : Except Reject Instr := do
  let t ← FTy.ofCode (fn / 128)
  let r ← Rm.ofCode (fn / 16 % 8)
  match fn % 16 with
  | 0 => .ok (.fadd (gField d) (gField a) (gField b) t r)
  | 1 => .ok (.fsub (gField d) (gField a) (gField b) t r)
  | 2 => .ok (.fmul (gField d) (gField a) (gField b) t r)
  | 3 => .ok (.fdiv (gField d) (gField a) (gField b) t r)
  | 4 => zero b (.fsqrt (gField d) (gField a) t r)
  | 5 => .ok (.fmac (gField d) (gField a) (gField b) t r)
  | 6 => noRounding (fn / 16 % 8) (.fmin (gField d) (gField a) (gField b) t)
  | 7 => noRounding (fn / 16 % 8) (.fmax (gField d) (gField a) (gField b) t)
  | 8 => do zero b (← noRounding (fn / 16 % 8) (.fabs (gField d) (gField a) t))
  | 9 => do zero b (← noRounding (fn / 16 % 8) (.fneg (gField d) (gField a) t))
  | _ => .error .unlistedFunction

/-- Major 0x29: scalar floating-point compare (R155). -/
def decodeFcmp (d a b fn : Nat) : Except Reject Instr := do
  let p ← pField d
  let t ← FTy.ofCode (fn / 128)
  match fn % 128 with
  | 0 => .ok (.fcmpEq p (gField a) (gField b) t)
  | 1 => .ok (.fcmpLt p (gField a) (gField b) t)
  | 2 => .ok (.fcmpLe p (gField a) (gField b) t)
  | 3 => .ok (.fcmpUn p (gField a) (gField b) t)
  | _ => .error .unlistedFunction

/-- Major 0x2A: conversion between two different types (R155). -/
def decodeCvt (d a b fn : Nat) : Except Reject Instr := do
  let t ← Ty.ofCode (fn / 128)
  let s ← Ty.ofCode (fn / 8 % 16)
  let r ← Rm.ofCode (fn % 8)
  if t = s then .error .badType else zero b (.cvt (gField d) (gField a) t s r)

/-- Major 0x2B: floating-point immediate; `Ty.ofCode` refuses a<4> = 1 (R155). -/
def decodeFli (d a b fn : Nat) : Except Reject Instr := do
  let t ← Ty.ofCode a
  if t.isFloat then .ok (.fli (gField d) t (imm16 b fn)) else .error .badType

/-- A vector form with two sources. -/
def vec3 (d a b : Nat) (i : VReg → VReg → VReg → Instr) : Except Reject Instr := do
  .ok (i (← vField d) (← vField a) (← vField b))

/-- A vector form with one source: b = 0. -/
def vec2 (d a b : Nat) (i : VReg → VReg → Instr) : Except Reject Instr := do
  zero b (i (← vField d) (← vField a))

/-- Major 0x2C: vector integer (R156). -/
def decodeVint (d a b fn : Nat) : Except Reject Instr := do
  let t ← ITy.ofCode (fn / 128)
  let k := maskField (fn / 32)
  match fn % 32 with
  | 0 => vec3 d a b fun d a b => .vadd d a b t k
  | 1 => vec3 d a b fun d a b => .vsub d a b t k
  | 2 => vec3 d a b fun d a b => .vmul d a b t k
  | 3 => vec3 d a b fun d a b => .vmulh d a b t k
  | 4 => vec3 d a b fun d a b => .vmin d a b t k
  | 5 => vec3 d a b fun d a b => .vmax d a b t k
  | 6 => vec3 d a b fun d a b => .vminu d a b t k
  | 7 => vec3 d a b fun d a b => .vmaxu d a b t k
  | 8 => vec3 d a b fun d a b => .vand d a b t k
  | 9 => vec3 d a b fun d a b => .vor d a b t k
  | 10 => vec3 d a b fun d a b => .vxor d a b t k
  | 11 => vec3 d a b fun d a b => .vshl d a b t k
  | 12 => vec3 d a b fun d a b => .vshr d a b t k
  | 13 => vec3 d a b fun d a b => .vsra d a b t k
  | 14 => vec2 d a b fun d a => .vabs d a t k
  | 15 => vec2 d a b fun d a => .vneg d a t k
  | 16 => vec3 d a b fun d a b => .vadds d a b t k
  | 17 => vec3 d a b fun d a b => .vsubs d a b t k
  | 18 => vec3 d a b fun d a b => .vmac d a b t k
  | 19 => if t = .i32 then vec3 d a b fun d a b => .vdot4 d a b k else .error .badType
  | _ => .error .unlistedFunction

/-- Major 0x2D: vector floating point, group A (R157). -/
def decodeVfpA (d a b fn : Nat) : Except Reject Instr := do
  let t ← FTy.ofCode (fn / 128)
  let k := maskField (fn / 32)
  let r ← Rm.ofCode (fn / 4 % 8)
  match fn % 4 with
  | 0 => vec3 d a b fun d a b => .vfadd d a b t k r
  | 1 => vec3 d a b fun d a b => .vfsub d a b t k r
  | 2 => vec3 d a b fun d a b => .vfmul d a b t k r
  | _ => vec3 d a b fun d a b => .vfdiv d a b t k r

/-- Major 0x2E: vector floating point, group B (R157). -/
def decodeVfpB (d a b fn : Nat) : Except Reject Instr := do
  let t ← FTy.ofCode (fn / 128)
  let k := maskField (fn / 32)
  let r ← Rm.ofCode (fn / 4 % 8)
  match fn % 4 with
  | 0 => vec3 d a b fun d a b => .vfma d a b t k r
  | 1 => do noRounding (fn / 4 % 8) (← vec3 d a b fun d a b => .vfmin d a b t k)
  | 2 => do noRounding (fn / 4 % 8) (← vec3 d a b fun d a b => .vfmax d a b t k)
  | _ => vec2 d a b fun d a => .vfsqrt d a t k r

/-- Major 0x2F: vector floating point, unary group (R157). -/
def decodeVfpU (d a b fn : Nat) : Except Reject Instr := do
  let t ← FTy.ofCode (fn / 128)
  let k := maskField (fn / 32)
  match fn % 32 with
  | 0 => vec2 d a b fun d a => .vfabs d a t k
  | 1 => vec2 d a b fun d a => .vfneg d a t k
  | 2 => vec3 d a b fun d a b => .vfdist d a b t k
  | _ => .error .unlistedFunction

/-- A vector compare (R158). -/
def vcmp3 (d a b : Nat) (i : MReg → VReg → VReg → Instr) : Except Reject Instr := do
  .ok (i (← mDest d) (← vField a) (← vField b))

/-- Major 0x30: vector compare (R158). -/
def decodeVcmp (d a b fn : Nat) : Except Reject Instr :=
  let k := maskField (fn / 32)
  match fn % 32 with
  | 0 => do let t ← LaneTy.ofCode (fn / 128); vcmp3 d a b fun d a b => .vcmpEq d a b t k
  | 1 => do let t ← LaneTy.ofCode (fn / 128); vcmp3 d a b fun d a b => .vcmpNe d a b t k
  | 2 => do let t ← LaneTy.ofCode (fn / 128); vcmp3 d a b fun d a b => .vcmpLt d a b t k
  | 3 => do let t ← LaneTy.ofCode (fn / 128); vcmp3 d a b fun d a b => .vcmpLe d a b t k
  | 4 => do let t ← LaneTy.ofCode (fn / 128); vcmp3 d a b fun d a b => .vcmpGt d a b t k
  | 5 => do let t ← LaneTy.ofCode (fn / 128); vcmp3 d a b fun d a b => .vcmpGe d a b t k
  | 6 => do let t ← ITy.ofCode (fn / 128); vcmp3 d a b fun d a b => .vcmpLtu d a b t k
  | 7 => do let t ← FTy.ofCode (fn / 128); vcmp3 d a b fun d a b => .vcmpUn d a b t k
  | _ => .error .unlistedFunction

/-- Major 0x31: vector conversion (R158, R213). -/
def decodeVcvt (d a b fn : Nat) : Except Reject Instr := do
  let t ← Ty.ofCode (fn / 128)
  let s ← Ty.ofCode (fn / 8 % 16)
  let r ← Rm.ofCode (fn % 8)
  if t = s then .error .badType
  else if b / 4 < vcvtParts t s then
    .ok (.vcvt (← vField d) (← vField a) (Fin.ofNat 8 (b / 4)) (maskField b) t s r)
  else .error .badPart

/-- Major 0x34: vector memory (R159). -/
def decodeVmem (d a b fn : Nat) : Except Reject Instr := do
  let v ← vField d
  let z := LaneSize.ofCode (fn / 16 % 4)
  let k := maskField (fn / 4)
  if fn / 64 ≠ 0 then .error .nonzeroField
  else
    match fn % 4 with
    | 0 => zero b (.vldM v (gField a) z k)
    | 1 => zero b (.vstM v (gField a) z k)
    | 2 => .ok (.vlds v (gField a) (gField b) z k)
    | _ => .ok (.vsts v (gField a) (gField b) z k)

/-- A reduction of integer lanes: b = 0 (R160). -/
def vred (d a b fn : Nat) (i : GReg → VReg → ITy → MReg → Instr) : Except Reject Instr := do
  let t ← ITy.ofCode (fn / 128)
  zero b (i (gField d) (← vField a) t (maskField (fn / 32)))

/-- A reduction of floating-point lanes: b = 0 (R160). -/
def vfred (d a b fn : Nat) (i : GReg → VReg → FTy → MReg → Instr) : Except Reject Instr := do
  let t ← FTy.ofCode (fn / 128)
  zero b (i (gField d) (← vField a) t (maskField (fn / 32)))

/-- Major 0x35: vector lane and reduction (R160, R218). -/
def decodeVlane (d a b fn : Nat) : Except Reject Instr :=
  let k := maskField (fn / 32)
  match fn % 32 with
  | 0 => do let t ← ITy.ofCode (fn / 128); zero b (.vbcast (← vField d) (gField a) t k)
  | 1 => do let t ← ITy.ofCode (fn / 128); zero (fn / 32 % 4) (.vext (gField d) (← vField a) (gField b) t)
  | 2 => do let t ← ITy.ofCode (fn / 128); zero (fn / 32 % 4) (.vins (← vField d) (gField a) (gField b) t)
  | 3 => do let t ← ITy.ofCode (fn / 128); vec3 d a b fun d a b => .vperm d a b t k
  | 4 => do let t ← ITy.ofCode (fn / 128); vec3 d a b fun d a b => .vsel d a b t k
  | 5 => do let t ← ITy.ofCode (fn / 128); vec2 d a b fun d a => .vmov d a t k
  | 6 => vred d a b fn .vredAdd
  | 7 => vred d a b fn .vredMin
  | 8 => vred d a b fn .vredMax
  | 9 => vred d a b fn .vredMinu
  | 10 => vred d a b fn .vredMaxu
  | 11 => vfred d a b fn .vfredAdd
  | 12 => vfred d a b fn .vfredMin
  | 13 => vfred d a b fn .vfredMax
  | _ => .error .unlistedFunction

/-- Major 0x36: lane masks (R161). -/
def decodeMask (d a b fn : Nat) : Except Reject Instr :=
  match fn with
  | 0 => do .ok (.mand (← mDest d) (← mField a) (← mField b))
  | 1 => do .ok (.mor (← mDest d) (← mField a) (← mField b))
  | 2 => do .ok (.mxor (← mDest d) (← mField a) (← mField b))
  | 3 => do zero b (.mnot (← mDest d) (← mField a))
  | 4 => do zero b (.mmov (← mDest d) (← mField a))
  | 5 => do zero b (.mfromg (← mDest d) (gField a))
  | 6 => do zero b (.mtog (gField d) (← mField a))
  | 7 => do zero b (.mpop (gField d) (← mField a))
  | _ => .error .unlistedFunction

/-- A job form of the X format (R162). -/
def job (d a b fn : Nat) (i : GReg → GReg → GReg → JobFlags → Instr) : Except Reject Instr := do
  let f ← JobFlags.ofCode (fn / 32)
  .ok (i (gField d) (gField a) (gField b) f)

/-- Major 0x3A: matrix engine (R162). Forms that take no flags have fn<10:5> = 0. -/
def decodeMx (d a b fn : Nat) : Except Reject Instr :=
  match fn % 32 with
  | 0 => zero (d + fn / 32) (.mxCfg (gField a) (gField b))
  | 1 => zero (b + fn / 32) (.mxGet (gField d) (gField a))
  | 2 => job d a b fn .mxMma
  | 3 => job d a b fn .mxMmb
  | 4 => job d a b fn .mxDist
  | 5 => job d a b fn .mxTopk
  | 6 => job d a b fn .mxZero
  | 7 => job d a b fn .mxLd
  | 8 => job d a b fn .mxSt
  | _ => .error .unlistedFunction

/-- Major 0x3B: copy unit (R162). -/
def decodeCp (d a b fn : Nat) : Except Reject Instr :=
  match fn % 32 with
  | 0 => zero (d + fn / 32) (.cpCfg (gField a) (gField b))
  | 1 => job d a b fn .cpCopy
  | 2 => job d a b fn .cpStream
  | 3 => zero (d + b + fn / 32) (.cpCancel (gField a))
  | 4 => zero (b + fn / 32) (.cpStat (gField d) (gField a))
  | _ => .error .unlistedFunction

/-- Major 0x3C: events and virtual time (R163). -/
def decodeEvent (d a b fn : Nat) : Except Reject Instr :=
  match fn with
  | 0 => .ok (.evNew (gField d) (gField a) (gField b))
  | 1 => zero (d + b) (.evFree (gField a))
  | 2 => zero b (.offer (gField d) (gField a))
  | 3 => zero b (.offer1 (gField d) (gField a))
  | 4 => .ok (.offerT (gField d) (gField a) (gField b))
  | 5 => zero (d + b) (.vtSet (gField a))
  | 6 => zero (a + b) (.vtGet (gField d))
  | 7 => zero (a + b) (.gvt (gField d))
  | 8 => zero (d + a + b) .settle
  | 9 => zero (d + a + b) .wrap
  | 10 => zero (d + b) (.wrapDone (gField a))
  | _ => .error .unlistedFunction

/-- Major 0x3D: threads, time and traps (R164). -/
def decodeThread (d a b fn : Nat) : Except Reject Instr :=
  match fn % 32 with
  | 0 => zero (fn / 32) (.spawn (gField d) (gField a) (gField b))
  | 1 =>
    if d + b ≠ 0 ∨ fn / 128 ≠ 0 then .error .nonzeroField
    else do .ok (.mig (gField a) (← MigSize.ofCode (fn / 32)))
  | 2 => zero (fn / 32) (.msg (gField d) (gField a) (gField b))
  | 3 => zero (d + b + fn / 32) (.reply (gField a))
  | 4 => zero (d + a + b + fn / 32) .yield
  | 5 => zero (d + a + b + fn / 32) .halt
  | 6 => zero (a + b + fn / 32) (.now (gField d))
  | 7 => zero (a + b + fn / 32) (.cyc (gField d))
  | 8 => zero (d + a + b + fn / 32) .rsync
  | 9 => zero (d + a + b) (.brk (BitVec.ofNat 6 (fn / 32)))
  | 10 => zero (d + a + b) (.trap (BitVec.ofNat 6 (fn / 32)))
  | _ => .error .unlistedFunction

/-- Major 0x3E: control registers and return (R165). -/
def decodeSystem (d a b fn : Nat) : Except Reject Instr :=
  match fn % 64 with
  | 0 => zero a (.crr (gField d) (creg b fn))
  | 1 => zero d (.crw (gField a) (creg b fn))
  | 2 => zero (d + a + b + fn / 64) .rett
  | 3 => zero d (.crset (gField a) (creg b fn))
  | 4 => zero d (.crclr (gField a) (creg b fn))
  | _ => .error .unlistedFunction

/-- Major 0x3F: prefix words (R146). -/
def decodePfx (d a b fn : Nat) : Except Reject Instr :=
  match d / 8 with
  | 0 => zero (d + a + b + fn) .rlx
  | 1 => .ok (.ext (BitVec.ofNat 24 (d % 8 * 2 ^ 21 + a * 2 ^ 16 + b * 2 ^ 11 + fn)))
  | _ => .error .unlistedFunction

/-- The major-opcode map (R149). -/
def Fields.decode : Fields → Except Reject Instr
  | ⟨op, d, a, b, fn⟩ =>
    match op with
    | 0x01 => decodeAlu d a b fn
    | 0x02 => .ok (.addi (gField d) (gField a) (imm16 b fn))
    | 0x03 => .ok (.andi (gField d) (gField a) (imm16 b fn))
    | 0x04 => .ok (.ori (gField d) (gField a) (imm16 b fn))
    | 0x05 => .ok (.xori (gField d) (gField a) (imm16 b fn))
    | 0x06 => shiftImm b fn fun n => .shli (gField d) (gField a) n
    | 0x07 => shiftImm b fn fun n => .shri (gField d) (gField a) n
    | 0x08 => shiftImm b fn fun n => .srai (gField d) (gField a) n
    | 0x09 => .ok (.muli (gField d) (gField a) (imm16 b fn))
    | 0x0A => decodeCmp d a b fn
    | 0x0B => do .ok (.cmpiEq (← pField d) (gField a) (imm16 b fn))
    | 0x0C => do .ok (.cmpiLt (← pField d) (gField a) (imm16 b fn))
    | 0x0D => do .ok (.cmpiLtu (← pField d) (gField a) (imm16 b fn))
    | 0x0E => decodePred d a b fn
    | 0x10 => do zero a (.bt (← pField d) (imm16 b fn))
    | 0x11 => do zero a (.bf (← pField d) (imm16 b fn))
    | 0x12 => zero a (.bz (gField d) (imm16 b fn))
    | 0x13 => zero a (.bnz (gField d) (imm16 b fn))
    | 0x14 => .ok (.j (BitVec.ofNat 26 (d * 2 ^ 21 + a * 2 ^ 16 + b * 2 ^ 11 + fn)))
    | 0x15 => .ok (.jal (BitVec.ofNat 26 (d * 2 ^ 21 + a * 2 ^ 16 + b * 2 ^ 11 + fn)))
    | 0x16 => decodeJump d a b fn
    | 0x18 => .ok (.ldB (gField d) (gField a) (imm16 b fn))
    | 0x19 => .ok (.ldBu (gField d) (gField a) (imm16 b fn))
    | 0x1A => .ok (.ldH (gField d) (gField a) (imm16 b fn))
    | 0x1B => .ok (.ldHu (gField d) (gField a) (imm16 b fn))
    | 0x1C => .ok (.ldW (gField d) (gField a) (imm16 b fn))
    | 0x1D => .ok (.ldWu (gField d) (gField a) (imm16 b fn))
    | 0x1E => .ok (.ldD (gField d) (gField a) (imm16 b fn))
    | 0x1F => do
      let p ← pairField d
      if p = 0 then .error .badRegister else .ok (.ldQ p (gField a) (imm16 b fn))
    | 0x20 => .ok (.stB (gField d) (gField a) (imm16 b fn))
    | 0x21 => .ok (.stH (gField d) (gField a) (imm16 b fn))
    | 0x22 => .ok (.stW (gField d) (gField a) (imm16 b fn))
    | 0x23 => .ok (.stD (gField d) (gField a) (imm16 b fn))
    | 0x24 => do .ok (.stQ (← pairField d) (gField a) (imm16 b fn))
    | 0x25 => decodeSubByte d a b fn
    | 0x26 => decodeAtomic d a b fn
    | 0x28 => decodeFp d a b fn
    | 0x29 => decodeFcmp d a b fn
    | 0x2A => decodeCvt d a b fn
    | 0x2B => decodeFli d a b fn
    | 0x2C => decodeVint d a b fn
    | 0x2D => decodeVfpA d a b fn
    | 0x2E => decodeVfpB d a b fn
    | 0x2F => decodeVfpU d a b fn
    | 0x30 => decodeVcmp d a b fn
    | 0x31 => decodeVcvt d a b fn
    | 0x32 => do .ok (.vld (← vField d) (gField a) (imm16 b fn))
    | 0x33 => do .ok (.vst (← vField d) (gField a) (imm16 b fn))
    | 0x34 => decodeVmem d a b fn
    | 0x35 => decodeVlane d a b fn
    | 0x36 => decodeMask d a b fn
    | 0x3A => decodeMx d a b fn
    | 0x3B => decodeCp d a b fn
    | 0x3C => decodeEvent d a b fn
    | 0x3D => decodeThread d a b fn
    | 0x3E => decodeSystem d a b fn
    | 0x3F => decodePfx d a b fn
    | _ => .error .reservedMajor

/-- The decoder: one 32-bit word (R141, R167). -/
def decodeWord (w : BitVec 32) : Except Reject Instr := (Fields.ofWord w).decode

/-- A little-endian word from the bytes at rising addresses (02_idioms R2 of 00_scope, R168). -/
def wordOfBytes (b0 b1 b2 b3 : Byte) : BitVec 32 :=
  BitVec.ofNat 32 (b0.toNat + b1.toNat * 2 ^ 8 + b2.toNat * 2 ^ 16 + b3.toNat * 2 ^ 24)

/-- The bytes of a word at rising addresses, little-endian. -/
def bytesOfWord (w : BitVec 32) : List Byte :=
  [BitVec.ofNat 8 w.toNat, BitVec.ofNat 8 (w.toNat / 2 ^ 8), BitVec.ofNat 8 (w.toNat / 2 ^ 16),
    BitVec.ofNat 8 (w.toNat / 2 ^ 24)]

/-- The decoder on bytes: one instruction and the bytes after it. -/
def decodeBytes : List Byte → Except Reject (Instr × List Byte)
  | b0 :: b1 :: b2 :: b3 :: rest => do .ok (← decodeWord (wordOfBytes b0 b1 b2 b3), rest)
  | _ => .error .truncated

/-- What the decoder reads from an instruction whose bits are w, numbered as the opcode table numbers them. -/
def decodeTableWord (nbits w : Nat) : Option Instr :=
  match decodeBytes (bytesOfWord (BitVec.ofNat 32 (w % 2 ^ nbits))) with
  | .ok (i, _) => some i
  | .error _ => none

/-- The fields that an instruction's words hold, from the same tables; a step without an encoding has none. -/
def Instr.fields : Instr → Option Fields
  | .add d a b => some ⟨0x01, d, a, b, 0⟩
  | .sub d a b => some ⟨0x01, d, a, b, 1⟩
  | .and d a b => some ⟨0x01, d, a, b, 2⟩
  | .or d a b => some ⟨0x01, d, a, b, 3⟩
  | .xor d a b => some ⟨0x01, d, a, b, 4⟩
  | .shl d a b => some ⟨0x01, d, a, b, 5⟩
  | .shr d a b => some ⟨0x01, d, a, b, 6⟩
  | .sra d a b => some ⟨0x01, d, a, b, 7⟩
  | .mul d a b => some ⟨0x01, d, a, b, 8⟩
  | .mulh d a b => some ⟨0x01, d, a, b, 9⟩
  | .mulhu d a b => some ⟨0x01, d, a, b, 10⟩
  | .div d a b => some ⟨0x01, d, a, b, 11⟩
  | .divu d a b => some ⟨0x01, d, a, b, 12⟩
  | .rem d a b => some ⟨0x01, d, a, b, 13⟩
  | .remu d a b => some ⟨0x01, d, a, b, 14⟩
  | .min d a b => some ⟨0x01, d, a, b, 15⟩
  | .max d a b => some ⟨0x01, d, a, b, 16⟩
  | .minu d a b => some ⟨0x01, d, a, b, 17⟩
  | .maxu d a b => some ⟨0x01, d, a, b, 18⟩
  | .sel d a b k => some ⟨0x01, d, a, b, k * 64 + 19⟩
  | .clz d a => some ⟨0x01, d, a, 0, 20⟩
  | .ctz d a => some ⟨0x01, d, a, 0, 21⟩
  | .popc d a => some ⟨0x01, d, a, 0, 22⟩
  | .sextB d a => some ⟨0x01, d, a, 0, 23⟩
  | .sextH d a => some ⟨0x01, d, a, 0, 24⟩
  | .sextW d a => some ⟨0x01, d, a, 0, 25⟩
  | .zextB d a => some ⟨0x01, d, a, 0, 26⟩
  | .zextH d a => some ⟨0x01, d, a, 0, 27⟩
  | .zextW d a => some ⟨0x01, d, a, 0, 28⟩
  | .addi d a i => some ⟨0x2, d, a, hi i, lo i⟩
  | .andi d a i => some ⟨0x3, d, a, hi i, lo i⟩
  | .ori d a i => some ⟨0x4, d, a, hi i, lo i⟩
  | .xori d a i => some ⟨0x5, d, a, hi i, lo i⟩
  | .shli d a n => some ⟨0x6, d, a, 0, n.toNat⟩
  | .shri d a n => some ⟨0x7, d, a, 0, n.toNat⟩
  | .srai d a n => some ⟨0x8, d, a, 0, n.toNat⟩
  | .muli d a i => some ⟨0x09, d, a, hi i, lo i⟩
  | .cmpEq d a b => some ⟨0x0a, d, a, b, 0⟩
  | .cmpNe d a b => some ⟨0x0a, d, a, b, 1⟩
  | .cmpLt d a b => some ⟨0x0a, d, a, b, 2⟩
  | .cmpLe d a b => some ⟨0x0a, d, a, b, 3⟩
  | .cmpGt d a b => some ⟨0x0a, d, a, b, 4⟩
  | .cmpGe d a b => some ⟨0x0a, d, a, b, 5⟩
  | .cmpLtu d a b => some ⟨0x0a, d, a, b, 6⟩
  | .cmpLeu d a b => some ⟨0x0a, d, a, b, 7⟩
  | .cmpGtu d a b => some ⟨0x0a, d, a, b, 8⟩
  | .cmpGeu d a b => some ⟨0x0a, d, a, b, 9⟩
  | .cmpiEq d a i => some ⟨0xb, d, a, hi i, lo i⟩
  | .cmpiLt d a i => some ⟨0xc, d, a, hi i, lo i⟩
  | .cmpiLtu d a i => some ⟨0xd, d, a, hi i, lo i⟩
  | .pand d a b => some ⟨0x0e, d, a, b, 0⟩
  | .por d a b => some ⟨0x0e, d, a, b, 1⟩
  | .pxor d a b => some ⟨0x0e, d, a, b, 2⟩
  | .pandn d a b => some ⟨0x0e, d, a, b, 3⟩
  | .pnot d a => some ⟨0x0e, d, a, 0, 4⟩
  | .pmov d a => some ⟨0x0e, d, a, 0, 5⟩
  | .pset d => some ⟨0x0e, d, 0, 0, 6⟩
  | .pclr d => some ⟨0x0e, d, 0, 0, 7⟩
  | .prd d => some ⟨0x0e, d, 0, 0, 8⟩
  | .pwr a => some ⟨0x0e, 0, a, 0, 9⟩
  | .bt a o => some ⟨0x10, a, 0, hi o, lo o⟩
  | .bf a o => some ⟨0x11, a, 0, hi o, lo o⟩
  | .bz a o => some ⟨0x12, a, 0, hi o, lo o⟩
  | .bnz a o => some ⟨0x13, a, 0, hi o, lo o⟩
  | .j o => some ⟨0x14, o.toNat / 2 ^ 21, o.toNat / 2 ^ 16 % 32, o.toNat / 2 ^ 11 % 32, o.toNat % 2 ^ 11⟩
  | .jal o => some ⟨0x15, o.toNat / 2 ^ 21, o.toNat / 2 ^ 16 % 32, o.toNat / 2 ^ 11 % 32, o.toNat % 2 ^ 11⟩
  | .jr a => some ⟨0x16, 0, a, 0, 0⟩
  | .jalr d a => some ⟨0x16, d, a, 0, 1⟩
  | .ldB d a i => some ⟨0x18, d, a, hi i, lo i⟩
  | .ldBu d a i => some ⟨0x19, d, a, hi i, lo i⟩
  | .ldH d a i => some ⟨0x1a, d, a, hi i, lo i⟩
  | .ldHu d a i => some ⟨0x1b, d, a, hi i, lo i⟩
  | .ldW d a i => some ⟨0x1c, d, a, hi i, lo i⟩
  | .ldWu d a i => some ⟨0x1d, d, a, hi i, lo i⟩
  | .ldD d a i => some ⟨0x1e, d, a, hi i, lo i⟩
  | .ldQ d a i => some ⟨0x1f, d, a, hi i, lo i⟩
  | .stB d a i => some ⟨0x20, d, a, hi i, lo i⟩
  | .stH d a i => some ⟨0x21, d, a, hi i, lo i⟩
  | .stW d a i => some ⟨0x22, d, a, hi i, lo i⟩
  | .stD d a i => some ⟨0x23, d, a, hi i, lo i⟩
  | .stQ d a i => some ⟨0x24, d, a, hi i, lo i⟩
  | .stX4 d a q => some ⟨0x25, d, a, 0, if q then 1024 else 0⟩
  | .stX6 d a q => some ⟨0x25, d, a, 0, q * 256 + 1⟩
  | .aadd d a w => some ⟨0x26, d, a, 0, 0 + w.code⟩
  | .amin d a w => some ⟨0x26, d, a, 0, 2 + w.code⟩
  | .amax d a w => some ⟨0x26, d, a, 0, 4 + w.code⟩
  | .aminu d a w => some ⟨0x26, d, a, 0, 6 + w.code⟩
  | .amaxu d a w => some ⟨0x26, d, a, 0, 8 + w.code⟩
  | .aand d a w => some ⟨0x26, d, a, 0, 10 + w.code⟩
  | .aor d a w => some ⟨0x26, d, a, 0, 12 + w.code⟩
  | .axor d a w => some ⟨0x26, d, a, 0, 14 + w.code⟩
  | .fadd d a b t r => some ⟨0x28, d, a, b, t.code * 128 + r.code * 16 + 0⟩
  | .fsub d a b t r => some ⟨0x28, d, a, b, t.code * 128 + r.code * 16 + 1⟩
  | .fmul d a b t r => some ⟨0x28, d, a, b, t.code * 128 + r.code * 16 + 2⟩
  | .fdiv d a b t r => some ⟨0x28, d, a, b, t.code * 128 + r.code * 16 + 3⟩
  | .fsqrt d a t r => some ⟨0x28, d, a, 0, t.code * 128 + r.code * 16 + 4⟩
  | .fmac d a b t r => some ⟨0x28, d, a, b, t.code * 128 + r.code * 16 + 5⟩
  | .fmin d a b t => some ⟨0x28, d, a, b, t.code * 128 + 6⟩
  | .fmax d a b t => some ⟨0x28, d, a, b, t.code * 128 + 7⟩
  | .fabs d a t => some ⟨0x28, d, a, 0, t.code * 128 + 8⟩
  | .fneg d a t => some ⟨0x28, d, a, 0, t.code * 128 + 9⟩
  | .fcmpEq d a b t => some ⟨0x29, d, a, b, t.code * 128 + 0⟩
  | .fcmpLt d a b t => some ⟨0x29, d, a, b, t.code * 128 + 1⟩
  | .fcmpLe d a b t => some ⟨0x29, d, a, b, t.code * 128 + 2⟩
  | .fcmpUn d a b t => some ⟨0x29, d, a, b, t.code * 128 + 3⟩
  | .cvt d a t s r => some ⟨0x2a, d, a, 0, t.code * 128 + s.code * 8 + r.code⟩
  | .fli d t h => some ⟨0x2b, d, t.code, hi h, lo h⟩
  | .vadd d a b t k => some ⟨0x2c, d, a, b, t.code * 128 + k * 32 + 0⟩
  | .vsub d a b t k => some ⟨0x2c, d, a, b, t.code * 128 + k * 32 + 1⟩
  | .vmul d a b t k => some ⟨0x2c, d, a, b, t.code * 128 + k * 32 + 2⟩
  | .vmulh d a b t k => some ⟨0x2c, d, a, b, t.code * 128 + k * 32 + 3⟩
  | .vmin d a b t k => some ⟨0x2c, d, a, b, t.code * 128 + k * 32 + 4⟩
  | .vmax d a b t k => some ⟨0x2c, d, a, b, t.code * 128 + k * 32 + 5⟩
  | .vminu d a b t k => some ⟨0x2c, d, a, b, t.code * 128 + k * 32 + 6⟩
  | .vmaxu d a b t k => some ⟨0x2c, d, a, b, t.code * 128 + k * 32 + 7⟩
  | .vand d a b t k => some ⟨0x2c, d, a, b, t.code * 128 + k * 32 + 8⟩
  | .vor d a b t k => some ⟨0x2c, d, a, b, t.code * 128 + k * 32 + 9⟩
  | .vxor d a b t k => some ⟨0x2c, d, a, b, t.code * 128 + k * 32 + 10⟩
  | .vshl d a b t k => some ⟨0x2c, d, a, b, t.code * 128 + k * 32 + 11⟩
  | .vshr d a b t k => some ⟨0x2c, d, a, b, t.code * 128 + k * 32 + 12⟩
  | .vsra d a b t k => some ⟨0x2c, d, a, b, t.code * 128 + k * 32 + 13⟩
  | .vabs d a t k => some ⟨0x2c, d, a, 0, t.code * 128 + k * 32 + 14⟩
  | .vneg d a t k => some ⟨0x2c, d, a, 0, t.code * 128 + k * 32 + 15⟩
  | .vadds d a b t k => some ⟨0x2c, d, a, b, t.code * 128 + k * 32 + 16⟩
  | .vsubs d a b t k => some ⟨0x2c, d, a, b, t.code * 128 + k * 32 + 17⟩
  | .vmac d a b t k => some ⟨0x2c, d, a, b, t.code * 128 + k * 32 + 18⟩
  | .vdot4 d a b k => some ⟨0x2c, d, a, b, 256 + k * 32 + 19⟩
  | .vfadd d a b t k r => some ⟨0x2d, d, a, b, t.code * 128 + k * 32 + r.code * 4 + 0⟩
  | .vfsub d a b t k r => some ⟨0x2d, d, a, b, t.code * 128 + k * 32 + r.code * 4 + 1⟩
  | .vfmul d a b t k r => some ⟨0x2d, d, a, b, t.code * 128 + k * 32 + r.code * 4 + 2⟩
  | .vfdiv d a b t k r => some ⟨0x2d, d, a, b, t.code * 128 + k * 32 + r.code * 4 + 3⟩
  | .vfma d a b t k r => some ⟨0x2e, d, a, b, t.code * 128 + k * 32 + r.code * 4⟩
  | .vfmin d a b t k => some ⟨0x2e, d, a, b, t.code * 128 + k * 32 + 1⟩
  | .vfmax d a b t k => some ⟨0x2e, d, a, b, t.code * 128 + k * 32 + 2⟩
  | .vfsqrt d a t k r => some ⟨0x2e, d, a, 0, t.code * 128 + k * 32 + r.code * 4 + 3⟩
  | .vfabs d a t k => some ⟨0x2f, d, a, 0, t.code * 128 + k * 32 + 0⟩
  | .vfneg d a t k => some ⟨0x2f, d, a, 0, t.code * 128 + k * 32 + 1⟩
  | .vfdist d a b t k => some ⟨0x2f, d, a, b, t.code * 128 + k * 32 + 2⟩
  | .vcmpEq d a b t k => some ⟨0x30, d, a, b, t.code * 128 + k * 32 + 0⟩
  | .vcmpNe d a b t k => some ⟨0x30, d, a, b, t.code * 128 + k * 32 + 1⟩
  | .vcmpLt d a b t k => some ⟨0x30, d, a, b, t.code * 128 + k * 32 + 2⟩
  | .vcmpLe d a b t k => some ⟨0x30, d, a, b, t.code * 128 + k * 32 + 3⟩
  | .vcmpGt d a b t k => some ⟨0x30, d, a, b, t.code * 128 + k * 32 + 4⟩
  | .vcmpGe d a b t k => some ⟨0x30, d, a, b, t.code * 128 + k * 32 + 5⟩
  | .vcmpLtu d a b t k => some ⟨0x30, d, a, b, t.code * 128 + k * 32 + 6⟩
  | .vcmpUn d a b t k => some ⟨0x30, d, a, b, t.code * 128 + k * 32 + 7⟩
  | .vcvt d a p k t s r => some ⟨0x31, d, a, p * 4 + k, t.code * 128 + s.code * 8 + r.code⟩
  | .vld d a i => some ⟨0x32, d, a, hi i, lo i⟩
  | .vst d a i => some ⟨0x33, d, a, hi i, lo i⟩
  | .vldM d a z k => some ⟨0x34, d, a, 0, z.code * 16 + k * 4 + 0⟩
  | .vstM d a z k => some ⟨0x34, d, a, 0, z.code * 16 + k * 4 + 1⟩
  | .vlds d a b z k => some ⟨0x34, d, a, b, z.code * 16 + k * 4 + 2⟩
  | .vsts d a b z k => some ⟨0x34, d, a, b, z.code * 16 + k * 4 + 3⟩
  | .vbcast d a t k => some ⟨0x35, d, a, 0, t.code * 128 + k * 32⟩
  | .vext d a b t => some ⟨0x35, d, a, b, t.code * 128 + 1⟩
  | .vins d a b t => some ⟨0x35, d, a, b, t.code * 128 + 2⟩
  | .vperm d a b t k => some ⟨0x35, d, a, b, t.code * 128 + k * 32 + 3⟩
  | .vsel d a b t k => some ⟨0x35, d, a, b, t.code * 128 + k * 32 + 4⟩
  | .vmov d a t k => some ⟨0x35, d, a, 0, t.code * 128 + k * 32 + 5⟩
  | .vredAdd d a t k => some ⟨0x35, d, a, 0, t.code * 128 + k * 32 + 6⟩
  | .vredMin d a t k => some ⟨0x35, d, a, 0, t.code * 128 + k * 32 + 7⟩
  | .vredMax d a t k => some ⟨0x35, d, a, 0, t.code * 128 + k * 32 + 8⟩
  | .vredMinu d a t k => some ⟨0x35, d, a, 0, t.code * 128 + k * 32 + 9⟩
  | .vredMaxu d a t k => some ⟨0x35, d, a, 0, t.code * 128 + k * 32 + 10⟩
  | .vfredAdd d a t k => some ⟨0x35, d, a, 0, t.code * 128 + k * 32 + 11⟩
  | .vfredMin d a t k => some ⟨0x35, d, a, 0, t.code * 128 + k * 32 + 12⟩
  | .vfredMax d a t k => some ⟨0x35, d, a, 0, t.code * 128 + k * 32 + 13⟩
  | .mand d a b => some ⟨0x36, d, a, b, 0⟩
  | .mor d a b => some ⟨0x36, d, a, b, 1⟩
  | .mxor d a b => some ⟨0x36, d, a, b, 2⟩
  | .mnot d a => some ⟨0x36, d, a, 0, 3⟩
  | .mmov d a => some ⟨0x36, d, a, 0, 4⟩
  | .mfromg d a => some ⟨0x36, d, a, 0, 5⟩
  | .mtog d a => some ⟨0x36, d, a, 0, 6⟩
  | .mpop d a => some ⟨0x36, d, a, 0, 7⟩
  | .mxCfg a b => some ⟨0x3a, 0, a, b, 0⟩
  | .mxGet d a => some ⟨0x3a, d, a, 0, 1⟩
  | .mxMma d a b f => some ⟨0x3a, d, a, b, f.code * 32 + 2⟩
  | .mxMmb d a b f => some ⟨0x3a, d, a, b, f.code * 32 + 3⟩
  | .mxDist d a b f => some ⟨0x3a, d, a, b, f.code * 32 + 4⟩
  | .mxTopk d a b f => some ⟨0x3a, d, a, b, f.code * 32 + 5⟩
  | .mxZero d a b f => some ⟨0x3a, d, a, b, f.code * 32 + 6⟩
  | .mxLd d a b f => some ⟨0x3a, d, a, b, f.code * 32 + 7⟩
  | .mxSt d a b f => some ⟨0x3a, d, a, b, f.code * 32 + 8⟩
  | .cpCfg a b => some ⟨0x3b, 0, a, b, 0⟩
  | .cpCopy d a b f => some ⟨0x3b, d, a, b, f.code * 32 + 1⟩
  | .cpStream d a b f => some ⟨0x3b, d, a, b, f.code * 32 + 2⟩
  | .cpCancel a => some ⟨0x3b, 0, a, 0, 3⟩
  | .cpStat d a => some ⟨0x3b, d, a, 0, 4⟩
  | .evNew d a b => some ⟨0x3c, d, a, b, 0⟩
  | .evFree a => some ⟨0x3c, 0, a, 0, 1⟩
  | .offer d a => some ⟨0x3c, d, a, 0, 2⟩
  | .offer1 d a => some ⟨0x3c, d, a, 0, 3⟩
  | .offerT d a b => some ⟨0x3c, d, a, b, 4⟩
  | .vtSet a => some ⟨0x3c, 0, a, 0, 5⟩
  | .vtGet d => some ⟨0x3c, d, 0, 0, 6⟩
  | .gvt d => some ⟨0x3c, d, 0, 0, 7⟩
  | .settle => some ⟨0x3c, 0, 0, 0, 8⟩
  | .wrap => some ⟨0x3c, 0, 0, 0, 9⟩
  | .wrapDone a => some ⟨0x3c, 0, a, 0, 10⟩
  | .spawn d a b => some ⟨0x3d, d, a, b, 0⟩
  | .mig a s => some ⟨0x3d, 0, a, 0, s.code * 32 + 1⟩
  | .msg d a b => some ⟨0x3d, d, a, b, 2⟩
  | .reply a => some ⟨0x3d, 0, a, 0, 3⟩
  | .yield => some ⟨0x3d, 0, 0, 0, 4⟩
  | .halt => some ⟨0x3d, 0, 0, 0, 5⟩
  | .now d => some ⟨0x3d, d, 0, 0, 6⟩
  | .cyc d => some ⟨0x3d, d, 0, 0, 7⟩
  | .rsync => some ⟨0x3d, 0, 0, 0, 8⟩
  | .brk c => some ⟨0x3d, 0, 0, 0, c.toNat * 32 + 9⟩
  | .trap c => some ⟨0x3d, 0, 0, 0, c.toNat * 32 + 10⟩
  | .crr d c => some ⟨0x3e, d, 0, c.toNat / 32, c.toNat % 32 * 64⟩
  | .crw a c => some ⟨0x3e, 0, a, c.toNat / 32, c.toNat % 32 * 64 + 1⟩
  | .rett => some ⟨0x3e, 0, 0, 0, 2⟩
  | .crset a c => some ⟨0x3e, 0, a, c.toNat / 32, c.toNat % 32 * 64 + 3⟩
  | .crclr a c => some ⟨0x3e, 0, a, c.toNat / 32, c.toNat % 32 * 64 + 4⟩
  | .rlx => some ⟨0x3f, 0, 0, 0, 0⟩
  | .ext h => some ⟨0x3f, 8 + h.toNat / 2 ^ 21, h.toNat / 2 ^ 16 % 32, h.toNat / 2 ^ 11 % 32, h.toNat % 2 ^ 11⟩
  | .lateTrap .. => none
  | .accessTravel .. => none
  | .accessPerform .. => none
  | .uncorrectableError .. => none
  | .carrierMessage .. => none
  | .msgReply .. => none
  | .emberArrival .. => none
  | .migAccept .. => none
  | .emberAdmit .. => none
  | .offerHeader .. => none
  | .claim .. => none
  | .claimAnswer .. => none
  | .commitNotice .. => none
  | .slotRelease .. => none
  | .headerWithdrawal .. => none
  | .combineContribution .. => none
  | .streamCircuit .. => none
  | .payloadArrival .. => none
  | .eventOccur .. => none
  | .offerTimeout .. => none
  | .evNewRequest .. => none
  | .evNewAnswer .. => none
  | .evFreeRequest .. => none
  | .entryFreed .. => none
  | .stragglerClaim .. => none
  | .antiMessage .. => none
  | .gvtRoundStart .. => none
  | .gvtStartPacket .. => none
  | .gvtPassReport .. => none
  | .gvtResult .. => none
  | .deferredAction .. => none
  | .wrapUp .. => none
  | .wrapupCut .. => none
  | .deadlineOverrun .. => none
  | .launchComplete .. => none
  | .engineGrant .. => none
  | .streamStart .. => none
  | .jobComplete .. => none
  | .copyOverdue .. => none
  | .faultRecord .. => none
  | .fqheadWrite .. => none
  | .freplyWrite .. => none
  | .faultReply .. => none
  | .tcinvRootWrite .. => none
  | .tcinvPageWrite .. => none
  | .loadWindowEnd .. => none
  | .commandSubmission .. => none
  | .eventIngress .. => none
  | .tagPost .. => none
  | .floorOnly .. => none
  | .attestationRequest .. => none
  | .rmaWrite .. => none
  | .rmaRead .. => none
  | .peerSendAck .. => none
  | .effectTake .. => none
  | .launch .. => none
  | .begin .. => none
  | .commit .. => none
  | .destroy .. => none
  | .haltProcess .. => none
  | .resumeProcess .. => none
  | .freeze .. => none
  | .thaw .. => none
  | .windowOpen .. => none
  | .placementDecision .. => none
  | .placement .. => none
  | .placementCommit .. => none
  | .operatingPointChange .. => none
  | .launchExpire .. => none
  | .switchNotice .. => none
  | .gangStop .. => none
  | .gangSave .. => none
  | .latePacketLog .. => none
  | .gangResume .. => none
  | .regionLiveSet .. => none
  | .contextImageRead .. => none
  | .contextImageWrite .. => none
  | .fwctlWrite .. => none
  | .pwrlimWrite .. => none
  | .controlRegisterWrite .. => none
  | .ptpMessage .. => none
  | .nowStep .. => none
  | .holdoverExpire => none
  | .lifecycleCommand .. => none
  | .reset => none
  | .wipeDone .. => none
  | .firmwareVerify .. => none
  | .oobImage .. => none
  | .selfCheck .. => none
  | .thermalTrip => none
  | .tinderGo .. => none
  | .tinder .. => none
  | .tinderRefuse .. => none
  | .tinderDone .. => none
  | .selfCheckEnd .. => none
  | .slotgo .. => none
  | .bootctlEnd .. => none
  | .bootTimeout .. => none
  | .illegalInstruction .. => none
  | .unmappedFetch .. => none
  | .masterLost => none
  | .uetSendAbandon .. => none

/-- The encoder: the word of an instruction that has one. -/
def encode (i : Instr) : Option (BitVec 32) := i.fields.map Fields.toWord

end Sys2Proof
end

