-- ==== Sys2Proof/Machine/Memory.lean ====
section
/-!
DEFINITION. Operations on memory: one byte, a run of bytes, little-endian numbers (R2), and the walk of the hashed
page table that lies in memory (20_translation R329 to R331). Every write keeps the canonical form.
-/

namespace Sys2Proof.Machine

/-- The byte at an address: an unlisted address reads 0 (R364). -/
def memGet (a : Nat) : Mem → Byte
  | [] => 0
  | (b, v) :: t => if b = a then v else memGet a t

/-- Memory with the byte at an address replaced; a zero byte is not listed. -/
def memPut (a : Nat) (v : Byte) : Mem → Mem
  | [] => if v = 0 then [] else [(a, v)]
  | (b, w) :: t =>
    if b = a then (if v = 0 then t else (a, v) :: t)
    else if a < b then (if v = 0 then (b, w) :: t else (a, v) :: (b, w) :: t)
    else (b, w) :: memPut a v t

/-- The canonical form: addresses strictly rising from `lo`, no zero byte. -/
def memWfFrom : Nat → Mem → Bool
  | _, [] => true
  | lo, (a, v) :: t => decide (lo ≤ a) && v != 0 && memWfFrom (a + 1) t

/-- The canonical form of memory. -/
abbrev memWf (m : Mem) : Bool := memWfFrom 0 m

/-- The n bytes from an address up. -/
def memBytes (m : Mem) (a : Nat) : Nat → List Byte
  | 0 => []
  | n + 1 => memGet a m :: memBytes m (a + 1) n

/-- Bytes written from an address up. -/
def memWrite (a : Nat) : List Byte → Mem → Mem
  | [], m => m
  | v :: t, m => memWrite (a + 1) t (memPut a v m)

/-- The number some bytes hold, little-endian (R2). -/
def natOfBytes : List Byte → Nat
  | [] => 0
  | b :: t => b.toNat + 256 * natOfBytes t

/-- The n little-endian bytes of a number (R2). -/
def bytesOfNat : Nat → Nat → List Byte
  | 0, _ => []
  | n + 1, v => BitVec.ofNat 8 v :: bytesOfNat n (v / 256)

/-- The n-byte number at an address. -/
def memNat (m : Mem) (a n : Nat) : Nat := natOfBytes (memBytes m a n)

/-- Memory with an n-byte number stored. -/
def memPutNat (a n v : Nat) (m : Mem) : Mem := memWrite a (bytesOfNat n v) m

/-- Memory with the n bytes from an address up all zero. -/
def memZero (a n : Nat) (m : Mem) : Mem := m.filter fun c => decide (c.1 < a) || decide (a + n ≤ c.1)

/-- The cells among the n addresses from an address up. -/
def memSlice (a n : Nat) (m : Mem) : Mem := m.filter fun c => decide (a ≤ c.1) && decide (c.1 < a + n)

/-- Memory with some cells put in. -/
def memRestore : List Host.Cell → Mem → Mem
  | [], m => m
  | c :: t, m => memRestore t (memPut c.1 c.2 m)

/-- Where a device physical address lies in `Mem`. -/
def dpaBase : Nat := 2 ^ 52

/-- A DPA holds memory: HBM4E or the LPDDR tier (R328). -/
def dpaMapped (d : Nat) : Bool := decide (d < 0xC000000000) || (decide (0x10000000000 ≤ d) && decide (d < 0x20000000000))

/-- The n-byte number at a DPA. -/
def dpaNat (m : Mem) (d n : Nat) : Nat := memNat m (dpaBase + d) n

/-- What a page-table entry maps (R330). -/
structure PageEntry where
  /-- DPA of the entry. -/
  loc : Nat
  big : Bool
  present : Bool
  writable : Bool
  dirty : Bool
  frame : Nat
deriving DecidableEq, Repr

/-- log2 of the bucket count of a root (R329). -/
def rootBits (root : Nat) : Nat := root % 32

/-- DPA of the table of a root (R329). -/
def rootBase (root : Nat) : Nat := root / 2 ^ 16 % 2 ^ 32 * 2 ^ 16

/-- A root within the limits of R329. -/
def rootOk (root : Nat) : Bool :=
  decide (8 ≤ rootBits root) && decide (rootBits root ≤ 24) && decide (root / 2 ^ 5 % 2 ^ 11 = 0) &&
    decide (root < 2 ^ 48)

/-- log2 of a page's size. -/
def pageBits (big : Bool) : Nat := if big then 21 else 16

/-- The bucket a page hashes to (R331). -/
def pageHash (root : Nat) (big : Bool) (va : Nat) : Nat :=
  let sz := pageBits big
  ((va / 2 ^ sz) * 0x9E3779B1 + sz) % 2 ^ 32 / 2 ^ (32 - rootBits root)

/-- The entry at a DPA, if it is valid and maps the page (R330, R331). -/
def entryAt (m : Mem) (big : Bool) (va d : Nat) : Option PageEntry :=
  let tag := dpaNat m d 8
  let frame := dpaNat m (d + 8) 8
  let page := tag / 2 ^ 16 % 2 ^ 32 * 2 ^ 16
  if tag % 2 = 1 ∧ (tag / 2 % 2 == 1) = big ∧ page / 2 ^ pageBits big = va / 2 ^ pageBits big then
    some ⟨d, big, frame % 2 == 1, frame / 2 % 2 == 1, frame / 8 % 2 == 1, frame / 2 ^ 16 % 2 ^ 32 * 2 ^ 16⟩
  else none

/-- The matching entries of a page size, in the four buckets in the order of R331. -/
def walkSize (m : Mem) (root : Nat) (big : Bool) (va : Nat) : List PageEntry :=
  (List.range 16).filterMap fun k =>
    let bucket := (pageHash root big va + k / 4) % 2 ^ rootBits root
    entryAt m big va (rootBase root + 64 * bucket + 16 * (k % 4))

/-- What a walk finds (R331). -/
inductive Walk where
  | found (e : PageEntry)
  | missing
  /-- No off-chip space, or more than one entry matches: the translation ends with status 3 (R329, R331). DESIGN CHOICE: so
  does one whose table or frame lies where the DPA map holds no memory (R328; notes/assumptions/63.md). -/
  | broken
deriving DecidableEq, Repr

/-- The table of a root lies in memory (R328). -/
def rootMapped (root : Nat) : Bool := dpaMapped (rootBase root) && dpaMapped (rootBase root + 64 * 2 ^ rootBits root - 1)

/-- The entry of a walk, if its frame lies in memory (R328). -/
def foundEntry (e : PageEntry) : Walk := if e.present && !dpaMapped e.frame then .broken else .found e

/-- The walk: 2 MiB pages first, then 64 KiB (R331). -/
def walk (m : Mem) (root va : Nat) : Walk :=
  if root = 0 || !rootMapped root then .broken
  else
    match walkSize m root true va, walkSize m root false va with
    | [], [] => .missing
    | [e], [] | [], [e] => foundEntry e
    | e :: _, _ => if e.big && (walkSize m root true va).length = 1 then foundEntry e else .broken
    | [], _ => .broken

/-- The DPA of a virtual address through an entry. -/
def PageEntry.dpa (e : PageEntry) (va : Nat) : Nat := e.frame + va % 2 ^ pageBits e.big

/-- The DPA of a virtual address that is resident, for the accesses whose pages the device has pinned (R339) or that
the front end performs (R352). -/
def translate? (m : Mem) (root va : Nat) : Option Nat :=
  match walk m root (va % 2 ^ 48) with
  | .found e => if e.present then some (e.dpa (va % 2 ^ 48)) else none
  | _ => none

end Sys2Proof.Machine
end

