-- ==== Sys2Proof/Machine/Ops.lean ====
section
/-!
DEFINITION. The named operations of the machine: topology (01_machine), contexts and registers, the address map and its
checks (04_memory_order R51 to R53), ends of instructions, stopping a launch, and taking and leaving a trap
(18_privileged R288 to R291). Every meaning is written over these.
-/

namespace Sys2Proof.Machine

/-- The answer of a meaning. -/
abbrev Res := Host.Outcome State Fault Refusal

/-! ## Topology (R13 to R17) -/

/-- The die of a position. -/
def dieOf (pcn : Nat) : Nat := pcn / 1024
/-- The column of a position on its die. -/
def xOf (pcn : Nat) : Nat := pcn % 32
/-- The row of a position on its die. -/
def yOf (pcn : Nat) : Nat := pcn / 32 % 32
/-- The package column of a position. -/
def packageX (pcn : Nat) : Nat := xOf pcn + 32 * (dieOf pcn % 2)
/-- The package row of a position. -/
def packageY (pcn : Nat) : Nat := yOf pcn + 32 * (dieOf pcn / 2)
/-- The position at package coordinates. -/
def pcnAt (x y : Nat) : Nat := (y / 32 * 2 + x / 32) * 1024 + y % 32 * 32 + x % 32
/-- The package number of a position's cluster (R16). -/
def clusterOf (pcn : Nat) : Nat := dieOf pcn * 128 + 16 * (yOf pcn / 4) + xOf pcn / 2
/-- The index of a core in its cluster (R228). -/
def indexInCluster (pcn : Nat) : Nat := xOf pcn % 2 + 2 * (yOf pcn % 4)
/-- The core with an index in a cluster. -/
def coreInCluster (cluster i : Nat) : Nat :=
  cluster / 128 * 1024 + (cluster % 128 / 16 * 4 + i / 2) * 32 + (cluster % 16 * 2 + i % 2)
/-- The quad of a position, in the package (R17). -/
def quadOf (pcn : Nat) : Nat := dieOf pcn * 32 + 8 * (yOf pcn / 8) + xOf pcn / 4
/-- The sector of a position, in the package (R17). -/
def sectorOf (pcn : Nat) : Nat := dieOf pcn * 8 + 4 * (yOf pcn / 16) + xOf pcn / 8

/-- Two cores lie in one unit of a scope; from the device up, always (R21). -/
def sameUnit (s : Scope) (a b : Nat) : Bool :=
  match s with
  | .th | .co => a == b
  | .cl => clusterOf a == clusterOf b
  | .qd => quadOf a == quadOf b
  | .se => sectorOf a == sectorOf b
  | .di => dieOf a == dieOf b
  | .dv | .rg | .pe | .ho | .sy => true

/-- The core of a context. -/
def coreOfTid (tid : Nat) : Nat := tid / 16
/-- The slot of a context. -/
def slotOfTid (tid : Nat) : Nat := tid % 16

namespace State

/-- A position in the system column (R14). -/
def isSystem (s : State) (pcn : Nat) : Bool := decide (32 - s.config.w ≤ xOf pcn)

/-- A fused position: by the table, or retired (R14, R365). -/
def isFused (s : State) (pcn : Nat) : Bool :=
  s.config.fused.contains pcn || s.fuses.fused.contains pcn || s.fuses.retiredCores.contains pcn

/-- A user core of the logical map (R15). -/
def isUser (s : State) (pcn : Nat) : Bool := s.lmap.contains pcn

/-! ## Parts of the state -/

/-- A context. -/
def ctx (s : State) (tid : Nat) : Ctx := tableGet Ctx.empty tid s.ctxs
/-- A context replaced. -/
def setCtx (s : State) (tid : Nat) (c : Ctx) : State := { s with ctxs := tablePut tid c s.ctxs }
/-- A context changed. -/
def modCtx (s : State) (tid : Nat) (f : Ctx → Ctx) : State := s.setCtx tid (f (s.ctx tid))
/-- The context that issues. -/
def me (s : State) : Ctx := s.ctx s.cur
/-- The context that issues, replaced. -/
def setMe (s : State) (c : Ctx) : State := s.setCtx s.cur c
/-- The context that issues, changed. -/
def modMe (s : State) (f : Ctx → Ctx) : State := s.setMe (f s.me)
/-- A core. -/
def core (s : State) (pcn : Nat) : CoreS := tableGet (CoreS.reset pcn) pcn s.cores
/-- A core replaced. -/
def setCore (s : State) (pcn : Nat) (c : CoreS) : State := { s with cores := tablePut pcn c s.cores }
/-- A core changed. -/
def modCore (s : State) (pcn : Nat) (f : CoreS → CoreS) : State := s.setCore pcn (f (s.core pcn))
/-- The core of the context that issues. -/
def here (s : State) : Nat := coreOfTid s.cur
/-- A process. -/
def proc (s : State) (k : Nat) : Proc := tableGet Proc.none k s.procs
/-- A process replaced. -/
def setProc (s : State) (k : Nat) (p : Proc) : State := { s with procs := tablePut k p s.procs }
/-- A process changed. -/
def modProc (s : State) (k : Nat) (f : Proc → Proc) : State := s.setProc k (f (s.proc k))
/-- A cluster. -/
def cluster (s : State) (c : Nat) : ClusterS := tableGet ClusterS.reset c s.clusters
/-- A cluster changed. -/
def modCluster (s : State) (c : Nat) (f : ClusterS → ClusterS) : State :=
  { s with clusters := tablePut c (f (s.cluster c)) s.clusters }
/-- A region. -/
def region (s : State) (r : Nat) : Region := tableGet Region.none r s.regions
/-- A region changed. -/
def modRegion (s : State) (r : Nat) (f : Region → Region) : State :=
  { s with regions := tablePut r (f (s.region r)) s.regions }
/-- A launch, if there is one with this key. -/
def launch? (s : State) (l : Nat) : Option Launch := tableFind l s.launches
/-- A launch replaced. -/
def setLaunch (s : State) (l : Nat) (x : Launch) : State := { s with launches := tablePut l x s.launches }
/-- A launch changed, if there is one. -/
def modLaunch (s : State) (l : Nat) (f : Launch → Launch) : State :=
  match s.launch? l with
  | some x => s.setLaunch l (f x)
  | none => s
/-- A colour group. -/
def group (s : State) (c : Nat) : Group := tableGet Group.none c s.groups
/-- A colour group changed. -/
def modGroup (s : State) (c : Nat) (f : Group → Group) : State :=
  { s with groups := tablePut c (f (s.group c)) s.groups }
/-- The queue of a bank. -/
def bank (s : State) (b : Nat) : List QueuedPart := tableGet [] b s.banks
/-- The queue of a bank replaced. -/
def setBank (s : State) (b : Nat) (q : List QueuedPart) : State := { s with banks := tablePut b q s.banks }
/-- An arbiter entry. -/
def entry (s : State) (pcn e : Nat) : ArbEntry := tableGet ArbEntry.free e (s.core pcn).arb
/-- An arbiter entry replaced. -/
def setEntry (s : State) (pcn e : Nat) (x : ArbEntry) : State :=
  s.modCore pcn fun c => { c with arb := tablePut e x c.arb }
/-- An arbiter entry changed. -/
def modEntry (s : State) (pcn e : Nat) (f : ArbEntry → ArbEntry) : State := s.setEntry pcn e (f (s.entry pcn e))
/-- A packet put at the end of the network's list: the list is in the order of sending. -/
def send (s : State) (p : Packet) : State := { s with net := s.net ++ [p] }
/-- The memory replaced. -/
def setMem (s : State) (m : Mem) : State := { s with mem := m }

/-! ## Who a context is -/

/-- The launch of a context. -/
def launchOf (s : State) (tid : Nat) : Option Nat := (s.proc (s.ctx tid).proc).launch
/-- The launch record of a context, if it belongs to one. -/
def launchRec? (s : State) (tid : Nat) : Option Launch := (s.launchOf tid).bind s.launch?
/-- A context of a timed process (R93). -/
def isTimed (s : State) (tid : Nat) : Bool := ((s.launchRec? tid).map fun l => l.spec.timed).getD false
/-- The region of a context; a context of no launch reads region 0 (R34). -/
def regionOf (s : State) (tid : Nat) : Nat := ((s.launchRec? tid).map Launch.region).getD 0
/-- A context runs at system level (R283). -/
def isPrivileged (s : State) (tid : Nat) : Bool := (s.ctx tid).xstat.getLsbD 0
/-- The launch of a context is in wrap-up (R257, R264). -/
def inWrapUp (s : State) (tid : Nat) : Bool :=
  match s.launchRec? tid with
  | some l => l.phase == .stopping || l.phase == .wrapped
  | none => false

/-- The effective value of field i of a region: its own when its mask says so, else its parent's (R300). The tree has
at most four levels. -/
def effective (s : State) (i : Nat) (own : Region → Nat) (r : Nat) : Nat :=
  let up (r : Nat) : Nat := (s.region r).parent
  let has (r : Nat) : Bool := (s.region r).mask / 2 ^ i % 2 == 1
  if has r then own (s.region r)
  else if has (up r) then own (s.region (up r))
  else if has (up (up r)) then own (s.region (up (up r)))
  else own (s.region (up (up (up r))))

/-- The effective network colour of a region (R299). -/
def colourOf (s : State) (r : Nat) : Nat := s.effective 8 Region.colour r
/-- The effective page-table root of a region (R299). -/
def rootOf (s : State) (r : Nat) : Nat := s.effective 9 Region.root r
/-- The effective event space of a region (R299). -/
def spaceOf (s : State) (r : Nat) : Nat := s.effective 10 Region.space r
/-- The effective fault domain of a region (R299). -/
def domainOf (s : State) (r : Nat) : Nat := s.effective 7 Region.domain r
/-- The effective copy share of a region (R299). -/
def shareOf (s : State) (r : Nat) : Nat := s.effective 5 Region.share r

/-- The colour of a context's traffic: none, the system mark, for a context of no launch (R340). -/
def trafficColour (s : State) (tid : Nat) : Option Nat :=
  (s.launchRec? tid).map fun l => s.colourOf l.region

/-- A launch holds its cores from commit until release (R53). -/
def launchHolds (l : Launch) : Bool :=
  match l.phase with
  | .running | .stopping | .wrapped | .ended => true
  | .admitted | .chosen | .loaded => false

/-- A core is in a region: a launch of that region number holds it, and its colour group is not out (R53). -/
def coreInRegion (s : State) (r pcn : Nat) : Bool :=
  (s.group (s.colourOf r)).phase != .out &&
    s.launches.any fun e => e.2.region == r && launchHolds e.2 && e.2.cores.contains pcn

/-- The logical number of a core for a context: its launch's map while it holds (R15), 0xFFF where there is none
(R34). -/
def logicalNumber (s : State) (tid pcn : Nat) : Nat :=
  if s.bootMode then 0xFFF
  else
    let map := ((s.launchRec? tid).map Launch.lmap).getD s.lmap
    let i := map.findIdx (· == pcn)
    if i < map.length then i else 0xFFF

/-- The core with a logical number, for a context. -/
def coreOfLogical? (s : State) (tid n : Nat) : Option Nat :=
  (((s.launchRec? tid).map Launch.lmap).getD s.lmap)[n]?

/-! ## Registers of the context that issues -/

/-- g[n]: g0 reads 0 (R171). -/
def g (s : State) (n : GReg) : Word := if n = 0 then 0 else s.me.regs[n]
/-- P[n]: p0 reads true (R171). -/
def p (s : State) (n : PReg) : Bool := n == 0 || s.me.pw.getLsbD n
/-- m[n]: m0 reads all ones (R220). -/
def m (s : State) (n : MReg) : Word := if n = 0 then BitVec.allOnes 64 else s.me.masks[n]

end State

/-- A context with g[d] written; a write to g0 is discarded (R142). -/
def Ctx.setG (c : Ctx) (d : GReg) (v : Word) : Ctx := if d = 0 then c else { c with regs := c.regs.set d v }
/-- A context's g[d]. -/
def Ctx.g (c : Ctx) (d : GReg) : Word := if d = 0 then 0 else c.regs[d]
/-- A context with P[d] written; a write to p0 is discarded (R142). -/
def Ctx.setP (c : Ctx) (d : PReg) (v : Bool) : Ctx :=
  if d = 0 then c
  else { c with pw := if v then c.pw ||| (1#16 <<< d.val) else c.pw &&& ~~~(1#16 <<< d.val) }
/-- A context with m[d] written; m0 is no destination (R142). -/
def Ctx.setM (c : Ctx) (d : MReg) (v : Word) : Ctx := if d = 0 then c else { c with masks := c.masks.set d v }
/-- A context with flags raised: they are sticky (R122). -/
def Ctx.raise (c : Ctx) (f : FlagSet) : Ctx := { c with fflags := c.fflags ||| (f &&& fflagsMask) }

/-- Where the instruction at hand begins: its first prefix word, or itself (R148, R171). -/
def Ctx.start (c : Ctx) : Word := c.pfx.first.getD c.pc

/-- The context after an instruction that goes on at an address (R171). -/
def Ctx.goto (c : Ctx) (pc : Word) : Ctx :=
  { c with pc := pc, pfx := .none, held := .none, wait := .none, status := .ready }

/-- The context after an instruction that goes on at the next word (R171). -/
def Ctx.advance (c : Ctx) : Ctx := c.goto (c.pc + 4)

/-- The context keeps the instruction and waits; it issues it again when the wait is over. -/
def Ctx.hold (c : Ctx) (i : Instr) (w : Wait) : Ctx :=
  { c with held := some i, wait := w, status := .waiting }

namespace State

/-- The instruction writes g[d] and ends. -/
def writeG (s : State) (d : GReg) (v : Word) : Res := .next (s.modMe fun c => (c.setG d v).advance)
/-- The instruction writes P[d] and ends. -/
def writeP (s : State) (d : PReg) (v : Bool) : Res := .next (s.modMe fun c => (c.setP d v).advance)
/-- The instruction writes m[d] and ends. -/
def writeM (s : State) (d : MReg) (v : Word) : Res := .next (s.modMe fun c => (c.setM d v).advance)
/-- The instruction ends and writes nothing. -/
def finish (s : State) : State := s.modMe Ctx.advance
/-- The instruction waits. -/
def holdWith (s : State) (i : Instr) (w : Wait) : State := s.modMe fun c => c.hold i w

/-! ## The address map (R51) -/

end State

/-- What an address names (R51). -/
inductive Target where
  /-- The self window: an offset in the local store of the core where the thread runs. -/
  | self (off : Nat)
  | localStore (pcn off : Nat)
  | accumulator (pcn byte : Nat)
  | vector (pcn byte : Nat)
  | control (addr : Nat)
  | offchip (va : Nat)
  | unmapped
deriving DecidableEq, Repr

/-- The decoding of R51. -/
def decodeAddr (addr : Word) : Target :=
  let a := addr.toNat
  if a < 0x20000 then .self a
  else if a < 0x100000000 then .unmapped
  else if a < 0x120000000 then .localStore (a / 2 ^ 17 % 2 ^ 12) (a % 2 ^ 17)
  else if a < 0x200000000 then .unmapped
  else if a < 0x202000000 then .accumulator (a / 2 ^ 13 % 2 ^ 12) (a % 2 ^ 13)
  else if a < 0x300000000 then .unmapped
  else if a < 0x302000000 then .vector (a / 2 ^ 13 % 2 ^ 12) (a % 2 ^ 13)
  else if a < 0x400000000 then .unmapped
  else if a < 0x1000000000000 then .control a
  else if a < 0x2000000000000 then .offchip (a % 2 ^ 48)
  else .unmapped

/-- The address in `Mem` of a byte of a local store. -/
def localKey (pcn off : Nat) : Nat := 0x100000000 + pcn * 2 ^ 17 + off
/-- The address in `Mem` of a byte of an accumulator window (R55). -/
def accKey (pcn byte : Nat) : Nat := 0x200000000 + pcn * 2 ^ 13 + byte
/-- The address in `Mem` of a byte of a vector-register window (R56). -/
def vecKey (pcn byte : Nat) : Nat := 0x300000000 + pcn * 2 ^ 13 + byte

/-- The core whose window an address names: `Owner` (R8); the self window names the core of the thread. -/
def Target.owner? (here : Nat) : Target → Option Nat
  | .self _ => some here
  | .localStore pcn _ | .accumulator pcn _ | .vector pcn _ => some pcn
  | .control _ | .offchip _ | .unmapped => none

/-- The address in `Mem` of what an address names; control space keeps its own address. -/
def Target.key (here : Nat) : Target → Nat
  | .self off => localKey here off
  | .localStore pcn off => localKey pcn off
  | .accumulator pcn byte => accKey pcn byte
  | .vector pcn byte => vecKey pcn byte
  | .control a => a
  | .offchip va => va
  | .unmapped => 0

/-- A byte of slot 0's vector window reads 0 and discards writes (R56). -/
def isSlot0Vector (key : Nat) : Bool :=
  decide (0x300000000 ≤ key) && decide (key < 0x302000000) && decide (key / 512 % 16 = 0)

/-- Bytes stored at an address of `Mem`, in windows: slot 0's vector window discards those that fall in it (R56, R193). -/
def storeBytes (key : Nat) (bs : List Byte) (m : Mem) : Mem :=
  let own := 512 - key % 512
  if isSlot0Vector key then memWrite (key + own) (bs.drop own) m else memWrite key bs m

/-- The bank of an address of `Mem` (R18, R57): a 16-byte bank of a local store, an accumulator tile, a slot's vector
window, or a control register. Banks are named by the lowest address that falls in them. -/
def bankOf (key : Nat) : Nat :=
  if key < 0x200000000 then key / 2 ^ 17 * 2 ^ 17 + key / 16 % 16 * 16
  else if key < 0x300000000 then key / 1024 * 1024
  else if key < 0x400000000 then key / 512 * 512
  else key / 8 * 8

/-! ## The layout of a core's local store (R29, R54, R305) -/

/-- The number rounded up to a multiple. -/
def roundUp (n k : Nat) : Nat := (n + k - 1) / k * k

/-- Processes that share a core (R304). -/
def perCore (l : LaunchRec) : Nat := if l.place = 0 && !l.timed then 15 else 1

/-- How many cores a launch occupies (R304); for a rectangle, as many as it has processes. -/
def coreCount (l : LaunchRec) : Nat := (l.n + perCore l - 1) / perCore l

/-- The spill ring's entries (R303). -/
def spillEntries (l : LaunchRec) : Nat := if l.spill = 0 then 64 else l.spill

/-- Offset of the private allocation of the k-th process on a core (R54, R305). -/
def allocOffset (l : LaunchRec) (k : Nat) : Nat := roundUp l.imageLen 64 + k * roundUp l.lsBytes 64

/-- Place of a rank among the processes of its core (R32, R304). -/
def procIndex (l : LaunchRec) (rank : Nat) : Nat := rank % perCore l

/-- g2, g3 and g4 at the entry PC of a process (R29). -/
def entryRegs (l : LaunchRec) (rank : Nat) (regs : Vector Word 32) : Vector Word 32 :=
  let off := allocOffset l (procIndex l rank)
  ((regs.set 2 (BitVec.ofNat 64 (off + l.lsBytes))).set 3 (BitVec.ofNat 64 off)).set 4 (BitVec.ofNat 64 l.lsBytes)

/-- Bytes of a process's checkpoint ring and of its journal, each rounded to its start (R305). -/
def ringBytes (l : LaunchRec) : Nat := roundUp (832 * l.ckpt) 64
/-- Bytes of a process's journal, rounded (R305). -/
def journalBytes (l : LaunchRec) : Nat := roundUp (32 * l.journal) 64

/-- Offset of the checkpoint ring of the k-th of n processes on a core (R305). -/
def ringOffset (l : LaunchRec) (n k : Nat) : Nat := allocOffset l n + k * (ringBytes l + journalBytes l)

/-- Offset of its journal (R305). -/
def journalOffset (l : LaunchRec) (n k : Nat) : Nat := ringOffset l n k + ringBytes l

/-- Offset of the spill ring on a core with n processes (R305). -/
def spillOffset (l : LaunchRec) (n : Nat) : Nat := ringOffset l n n

/-- Bytes charged on a core with n processes (R305). -/
def chargedBytes (l : LaunchRec) (n : Nat) : Nat := spillOffset l n + 256 * spillEntries l + 4096

/-- Processes of a launch on its i-th core. -/
def procsOnCore (l : LaunchRec) (i : Nat) : Nat := min (perCore l) (l.n - i * perCore l)

/-! ## Writes to windows -/

/-- A rank table that a core holds a copy of: its first address in `Mem` and its length (R33). -/
def rankTable? (pcn : Nat) (l : Launch) : Option (Nat × Nat) :=
  if State.launchHolds l && l.cores.contains pcn then l.spec.rankTab.map fun off => (localKey pcn off, 4 * l.spec.n) else none

/-- The reserved area of a core that a launch holds: checkpoint ring, journal, spill ring and the staging of the save area, one
after the other (R53, R305). Its first address in `Mem` and its length. -/
def reservedArea? (pcn : Nat) (l : Launch) : Option (Nat × Nat) :=
  if State.launchHolds l && l.cores.contains pcn then
    let n := procsOnCore l.spec (l.cores.findIdx (· == pcn))
    some (localKey pcn (ringOffset l.spec n 0), chargedBytes l.spec n - ringOffset l.spec n 0)
  else none

namespace State

/-- Free bytes from an address up (R33, R53). -/
def freeBytes (f : Nat → Byte) (s : State) (key : Nat) : Nat → State
  | 0 => s
  | n + 1 => freeBytes f { s with mem := memPut key (f s.fresh) s.mem, fresh := s.fresh + 1 } (key + 1) n

/-- A program's write to a window: slot 0's vector window discards it (R56), a rank table that it touches holds free values
from then on (R33), and a core is marked whose reserved area it touches (R53). -/
def writeWindow (s : State) (key : Nat) (bs : List Byte) : State :=
  let s1 := s.setMem (storeBytes key bs s.mem)
  if 0x120000000 ≤ key then s1
  else
    let pcn := (key - 0x100000000) / 2 ^ 17
    let touches (t : Nat × Nat) : Bool := key < t.1 + t.2 && t.1 < key + bs.length
    let hit := (s.launches.filterMap fun e => rankTable? pcn e.2).filter touches
    let s2 := hit.foldl (fun t x => t.freeBytes Config.rankByte x.1 x.2) s1
    if (s.launches.filterMap fun e => reservedArea? pcn e.2).any touches then s2.modCore pcn fun k => { k with spoiled := true }
    else s2

end State

/-! ## Causes (R286) -/

/-- Cause 0x01. -/
def causeIllegal : Nat := 0x01
/-- Cause 0x02. -/
def causeMisaligned : Nat := 0x02
/-- Cause 0x03. -/
def causeUnmapped : Nat := 0x03
/-- Cause 0x04. -/
def causeOffchip : Nat := 0x04
/-- Cause 0x05. -/
def causeRegion : Nat := 0x05
/-- Cause 0x06. -/
def causeTimed : Nat := 0x06
/-- Cause 0x07. -/
def causeOfferThread : Nat := 0x07
/-- Cause 0x08. -/
def causeDescriptor : Nat := 0x08
/-- Cause 0x09. -/
def causeStale : Nat := 0x09
/-- Cause 0x0A. -/
def causeChoice : Nat := 0x0A
/-- Cause 0x0B. -/
def causeConfig : Nat := 0x0B
/-- Cause 0x0C. -/
def causeCarrier : Nat := 0x0C
/-- Cause 0x0D. -/
def causeSoftware : Nat := 0x0D
/-- Cause 0x0E. -/
def causeBreak : Nat := 0x0E
/-- Cause 0x10. -/
def causeOverdue : Nat := 0x10
/-- Cause 0x11. -/
def causeCopyFailed : Nat := 0x11
/-- Cause 0x12. -/
def causeEngineFault : Nat := 0x12
/-- Cause 0x18. -/
def causeDouble : Nat := 0x18
/-- Cause 0x19. -/
def causeBadStatus : Nat := 0x19
/-- Cause 0x1A. -/
def causeUncorrectable : Nat := 0x1A

namespace State

/-- A control-page address of a fused position that stays reachable: router and boot registers (R371). -/
def controlOfFusedOk (a : Nat) : Bool :=
  let off := a % 2 ^ 15
  (decide (0x800 ≤ off) && decide (off < 0xC10)) || (decide (0x3000 ≤ off) && decide (off < 0x3020))

/-- Checks 2 to 4 of R52, and R371 for fused positions at system level: the trap that an address takes. -/
def checkTarget (s : State) (tid : Nat) (t : Target) : Option Nat :=
  match t with
  | .unmapped => some causeUnmapped
  | .offchip _ => some causeOffchip
  | .control a =>
    if !s.isPrivileged tid then some causeOffchip
    else if a < 0x408000000 && s.isFused (a / 2 ^ 15 % 2 ^ 12) && !controlOfFusedOk a then some causeUnmapped
    else none
  | .self _ => none
  | .localStore pcn _ | .accumulator pcn _ | .vector pcn _ =>
    if s.isPrivileged tid then (if s.isFused pcn then some causeUnmapped else none)
    else if s.isFused pcn || s.isSystem pcn || !s.coreInRegion (s.regionOf tid) pcn then some causeRegion
    else none

/-- An address of control space that some chapter assigns (R292, R359). -/
def controlAssigned (s : State) (a : Nat) : Bool :=
  let pcn := a / 2 ^ 15 % 2 ^ 12
  let off := a % 2 ^ 15
  let pager := s.config.roles.any fun r => r.1 == pcn && r.2 == 2
  if a < 0x408000000 then
    decide (off < 0x128) || (off == 0x200 && s.isSystem pcn) || ((off == 0x300 || off == 0x308) && s.isSystem pcn) ||
      ((off == 0x310 || off == 0x318) && pager) || (decide (0x800 ≤ off) && decide (off < 0xC10)) ||
      (decide (0x1000 ≤ off) && decide (off < 0x2000) && pager) ||
      (decide (0x3000 ≤ off) && decide (off < 0x3020)) || decide (0x4000 ≤ off)
  else decide (a < 0x408000038) || (decide (0x408001000 ≤ a) && decide (a < 0x408001000 + 255 * 32))

/-- The checks of R52, in order, for an access of n bytes. -/
def checkAccess (s : State) (tid : Nat) (a : Word) (n : Nat) : Option Nat :=
  if a.toNat % n ≠ 0 then some causeMisaligned else s.checkTarget tid (decodeAddr a)

/-! ## Leaving a slot -/

/-- The key of the process record of a context that belongs to no launch. -/
def bareKey (tid : Nat) : Nat := 2 * tid + 1

/-- A slot emptied: its image is all zeros, its vector window included (R293). -/
def emptySlot (s : State) (tid : Nat) : State :=
  { s.setCtx tid Ctx.zero with
    mem := memZero (vecKey (coreOfTid tid) (slotOfTid tid * 512)) 512 s.mem
    procs := tableDrop (bareKey tid) s.procs }

/-- What an ember carries of a context (R40), with what it will do at home. -/
def emberOf (s : State) (tid : Nat) (size : MigSize) (trapping : Option TrapRec) (held : Option Instr) : Ember :=
  let c := s.ctx tid
  let n := match size with | .g8 => 8 | .g16 => 16 | .g24 => 24
  { proc := c.proc, spawned := c.spawned, home := c.home, size := size, pc := c.pc, pw := c.pw
    regs := (List.range n).map fun k => c.g (Fin.ofNat 32 (k + 1))
    xpc := c.xpc, xstat := c.xstat, xcause := c.xcause, xaddr := c.xaddr, xvec := c.xvec, xring := c.xring
    late := c.late, faults := c.faults, trapping := trapping, held := held, msgFaults := c.msgFaults, source := tid }

/-- A thread that is away leaves for its home core, carrying the size that last moved it (R45). -/
def goHome (s : State) (tid : Nat) (trapping : Option TrapRec) (held : Option Instr) : State :=
  let c := s.ctx tid
  let e := s.emberOf tid c.migSize trapping held
  (s.emptySlot tid).send
    { cls := .request, src := coreOfTid tid, dst := coreOfTid c.home, colour := s.trafficColour tid, timed := none
      body := .ember e }

/-! ## Records and the end of a launch -/

/-- Bytes written at a region's off-chip address, where its page is resident (R339, R352). -/
def writeOffchip (s : State) (root va : Nat) (bytes : List Byte) : State :=
  match translate? s.mem root va with
  | some d => { s with mem := memWrite (dpaBase + d) bytes s.mem }
  | none => s

/-- A completion record (R306). -/
def completionRecord (s : State) (l : Launch) (status detail detail2 : Nat) (mask : Word) (wrapvt : Nat) : List Byte :=
  bytesOfNat 8 l.seq ++ bytesOfNat 1 status ++ bytesOfNat 1 detail ++ bytesOfNat 2 detail2 ++ bytesOfNat 4 0 ++
    bytesOfNat 8 mask.toNat ++ bytesOfNat 8 s.now ++ bytesOfNat 8 wrapvt ++ bytesOfNat 8 l.committed ++
    bytesOfNat 8 l.frozen ++ bytesOfNat 8 0

/-! ## Pinned pages (R330, R333, R339) -/

/-- Every core's block: those of the device, and those of groups that are out (R321). -/
def allCores (s : State) : List CoreS := s.cores.map Prod.snd ++ s.groups.flatMap fun g => g.2.saved.map SavedCore.core

/-- The device sets the pinned bit of a page-table entry, and remembers that it did, unless the bit is set already. -/
def pinEntry (s : State) (entry : Nat) : State :=
  let key := dpaBase + entry + 8
  if (memGet key s.mem).getLsbD 2 then s
  else { s with mem := memPut key (memGet key s.mem ||| 4) s.mem, pinned := s.pinned ++ [entry] }

/-- The page-table entries that have to stay pinned: those of deferred writes (R333), and of launches' records (R339). -/
def pinsNeeded (s : State) : List Nat :=
  s.recordPins.map RecordPin.entry ++ s.allCores.flatMap fun k => k.deferred.filterMap fun d => match d.action with
    | .write _ _ page _ => some page.entry
    | .send _ _ _ => none

/-- The pinned bits that the device has set and that nothing needs any more are cleared. -/
def settlePins (s : State) : State :=
  let needed := s.pinsNeeded
  { s with
    mem := (s.pinned.filter fun e => !needed.contains e).foldl
      (fun m e => memPut (dpaBase + e + 8) (memGet (dpaBase + e + 8) m &&& ~~~(4 : Byte)) m) s.mem
    pinned := s.pinned.filter needed.contains }

/-- The completion record of a launch is written at its address; its page is unpinned, and its reservation window ends (R306, R311,
R339). -/
def writeRecord (s : State) (key : Nat) (l : Launch) (status detail detail2 : Nat) (mask : Word) (wrapvt : Nat) :
    State :=
  let s' := s.writeOffchip (s.rootOf l.region) l.spec.record
    (s.completionRecord l status detail detail2 mask wrapvt)
  { s' with
    reservations := s'.reservations.filter fun r => r.1 != key
    recordPins := s'.recordPins.filter fun p => p.launch != key }.settlePins

/-- Contexts of a launch. -/
def ofLaunch (s : State) (key : Nat) (c : Ctx) : Bool := c.status != .empty && (s.proc c.proc).launch == some key

/-- An entry of an arrival queue belongs to a context of a launch. -/
def partOf (s : State) (key : Nat) (q : QueuedPart) : Bool :=
  match q.source with
  | .access tid _ => s.ofLaunch key (s.ctx tid)
  | .job _ _ _ => false

/-- A launch is terminated (R291, R110, R317): its threads stop and keep their registers, its embers and messages go,
its jobs and deferred actions are discarded, and its record is written at once. -/
def terminate (s : State) (key status cause pcn : Nat) : State :=
  match s.launch? key with
  | none => s
  | some l =>
    if l.phase = .ended then s
    else
      let s1 := s.writeRecord key l status (if status = 3 then cause else 0) (if status = 3 then pcn else 0) 0 0
      let isOurs (k : Nat) : Bool := (s.proc k).launch == some key
      { s1 with
        launches := tablePut key { l with phase := .ended, stopStatus := status, stopCause := cause, stopPcn := pcn }
          s1.launches
        ctxs := tableMap (fun _ c =>
          if s.ofLaunch key c then
            { c with status := .stopped, port := none, relaxed := [], wait := .none, faults := []
                     trapping := none, offer := .none }
          else c) s1.ctxs
        banks := tableMap (fun _ q => q.filter fun e => !s.partOf key e) s1.banks
        clusters := tableMap (fun _ c => { c with batches := c.batches.filter fun b => !isOurs b.proc }) s1.clusters
        cores := tableMap (fun _ c =>
          { c with
            embers := c.embers.filter fun e => !isOurs e.proc
            spill := c.spill.filter fun e => !isOurs e.proc
            waiting := c.waiting.filter fun e => !isOurs e.proc
            handler := c.handler.filter fun h => match h with | .access q => !s.partOf key q | .message _ => true
            mxQueue := c.mxQueue.filter fun j => j.launch != some key
            cpQueue := c.cpQueue.filter fun j => j.launch != some key
            deferred := c.deferred.filter fun d => !isOurs d.proc }) s1.cores
        net := s1.net.filter fun p => match p.body with | .ember e => !isOurs e.proc | _ => true }.settlePins

/-- The process record of a bare context: it belongs to no launch. -/
def bareProc (tid : Nat) : Proc :=
  { launch := none, rank := 0, home := tid, lvt := 0, spawnLimit := 0, live := 0, ended := false, occs := [], sent := []
    careful := false }

/-- A core starts an image at its slot 1 (R372): the bytes lie from offset 0 up, every register holds zero, and PW only p0. -/
def startImage (s : State) (pcn : Nat) (image : List Byte) : State :=
  let tid := pcn * 16 + 1
  ((s.setMem (memWrite (localKey pcn 0) (image.take 0x20000) s.mem)).setCtx tid { Ctx.zero with
    status := .ready, proc := bareKey tid, home := tid, xstat := 1, pw := 1
    lastIssue := (s.ctx tid).lastIssue }).setProc (bareKey tid) (bareProc tid)

/-- DPA of a queue's header: the 64 bytes before its entries (R307). -/
def queueHeader (s : State) (r : Nat) : Nat := (s.region r).queueBase - 64
/-- LATCHED of a queue. -/
def latched (s : State) (r : Nat) : Nat := dpaNat s.mem (s.queueHeader r) 8
/-- CURSOR of a queue. -/
def cursor (s : State) (r : Nat) : Nat := dpaNat s.mem (s.queueHeader r + 8) 8
/-- TAKEN of a queue. -/
def taken (s : State) (r : Nat) : Nat := dpaNat s.mem (s.queueHeader r + 16) 8

/-- Firmware restarts (R309, R310): it resumes each queue at CURSOR + 1, so an open batch at its begin, and what it has handed
over and the front end has not taken is handed over anew. -/
def restartFirmware (s : State) : State :=
  { s with queues := tableMap (fun r q =>
      { q with
        batch := none, members := [], effects := []
        handed := s.cursor r }) s.queues }

/-- The role of a system core that fails, or whose position is fused, passes to the next spare in ascending pcn that is not fused,
and after the last to the first (R14). A firmware role starts again there (R309, R372). -/
def passRole (s : State) (pcn : Nat) : State :=
  let spares := (s.config.roles.filter fun r => r.2 == 5 && !s.isFused r.1 && r.1 != pcn).map Prod.fst
  let least (l : List Nat) : Option Nat := l.foldl (fun best x => match best with | none => some x | some b => some (min b x)) none
  let role := ((s.config.roles.find? fun r => r.1 == pcn).map Prod.snd).getD 5
  match if role = 5 then none else (least (spares.filter fun p => decide (pcn < p))).or (least spares) with
  | none => s
  | some sp =>
    let s1 : State :=
      { s with config := { s.config with
          roles := s.config.roles.map fun r => if r.1 = pcn then (sp, r.2) else if r.1 = sp then (pcn, 0) else r } }
    match role, s.running with
    | 1, some i => (s1.startImage sp i.firmware.bytes).restartFirmware
    | 1, none => s1.restartFirmware
    | _, _ => s1

/-- A context stops without entering a handler, every register keeping its value (R291). Only an uncorrectable error
writes XADDR (R297). DEDUCED: the XADDR column of R286 for double-trap and bad-status says what is reported, not what
the register takes. -/
def stopContext (s : State) (tid cause : Nat) (xaddr : Option Word) : State :=
  let pcn := coreOfTid tid
  let s1 := s.modCtx tid fun c =>
    { c with status := .stopped, wait := .none, held := none, trapping := none, xaddr := xaddr.getD c.xaddr }
  match s.launchOf tid with
  | some key => s1.terminate key 3 cause pcn
  | none =>
    if s.isSystem pcn then { s1.passRole pcn with uetOut := (s1.passRole pcn).uetOut ++ [.firmwareFault pcn cause] }
    else s1

/-! ## Taking a trap (R288) -/

/-- The relaxed buffer of a context is empty: accesses and relaxed messages (R58, R63). -/
def bufferEmpty (c : Ctx) : Bool := c.relaxed.isEmpty && c.relaxedMsgs.isEmpty

/-- XSTAT.hm. -/
def handlerMode (c : Ctx) : Bool := c.xstat.getLsbD 1

/-- The handler entry: pc, status and trap registers as R288 and R284 give. Nothing else changes. -/
def enterHandler (c : Ctx) (t : TrapRec) : Ctx :=
  { c.goto (c.xvec &&& 0x1FFFC) with
    xpc := t.xpc &&& ~~~(3 : Word)
    xcause := BitVec.ofNat 64 (t.cause + if t.late then 256 else 0)
    xaddr := t.xaddr
    xring := t.xring.setWidth 64
    -- plvl := lvl, hm := 1
    xstat := (c.xstat &&& ~~~(4 : Word)) ||| ((c.xstat &&& 1) <<< 2) ||| 2
    trapping := none }

/-- A context takes a trap of class E or L (R288): the relaxed buffer drains first; in handler mode, or without a
handler, the context stops; a thread away from home goes home first. -/
def takeTrapAt (s : State) (tid : Nat) (t : TrapRec) : State :=
  let c := s.ctx tid
  if !bufferEmpty c then
    s.setCtx tid { c with trapping := some t, wait := .drain, status := .waiting, held := none, pfx := .none
                          pc := c.start }
  else if handlerMode c then s.stopContext tid causeDouble none
  else if c.xvec &&& 0x1FFFC = 0 then s.stopContext tid t.cause none
  else if c.away then s.goHome tid (some t) none
  else s.setCtx tid (enterHandler c t)

/-- The exact trap of the instruction that issues, with XPC at the instruction (R286). -/
def trapHere (s : State) (cause : Nat) (xaddr : Word) : Res :=
  .next (s.takeTrapAt s.cur ⟨cause, false, s.me.start, xaddr, 0⟩)

/-- The exact trap of the instruction that issues, with XPC at the next instruction (R286). -/
def trapNext (s : State) (cause : Nat) (xaddr : Word) : Res :=
  .next (s.takeTrapAt s.cur ⟨cause, false, s.me.pc + 4, xaddr, 0⟩)

/-- `Illegal()` (R8): illegal-instruction with XADDR 0. -/
def illegal (s : State) : Res := s.trapHere causeIllegal 0

/-- An access that fails a check of R52 (R187). -/
def trapAccess (s : State) (cause : Nat) (ea : Word) : Res := s.trapHere cause ea

/-! ## Leaving a handler (R273, R290) -/

/-- XSTAT holds a reserved bit, or plvl = 1 while lvl = 0 (R290). -/
def badStatus (c : Ctx) : Bool :=
  c.xstat >>> 4 != 0 || (c.xstat.getLsbD 2 && !c.xstat.getLsbD 0)

/-- The context after `rett`: lvl := plvl, hm := 0, PC := XPC (R290). -/
def leaveHandler (c : Ctx) : Ctx :=
  { c.goto (c.xpc &&& ~~~(3 : Word)) with xstat := (c.xstat &&& ~~~(3 : Word)) ||| ((c.xstat >>> 2) &&& 1) }

/-- The return from a trap (R273). -/
def returnFromTrap (s : State) : Res :=
  if !handlerMode s.me then s.illegal
  else if badStatus s.me then .next (s.stopContext s.cur causeBadStatus none)
  else .next (s.setMe (leaveHandler s.me))

/-! ## Ending threads -/

/-- A thread ends (R263): its slot becomes free unless it is the reserved home slot of a thread that is away; a spawned
thread lowers its parent's live count; a process ends. -/
def endThread (s : State) (tid : Nat) : State :=
  let c := s.ctx tid
  let s1 := s.emptySlot tid
  -- a thread that ends away from home gives up its reserved slot
  let s2 := if c.away then s1.emptySlot c.home else s1
  if c.spawned then s2.modProc c.proc fun p => { p with live := p.live - 1 }
  else s2.modProc c.proc fun p => { p with ended := true }

end State

end Sys2Proof.Machine
end

