-- ==== Sys2Proof/Machine/Operands.lean ====
section
/-!
DEFINITION. Operands of the words: immediates (R141, R171), and the registers an instruction reads or writes, which
decide whether it waits for a relaxed load (R59, R172).
-/

namespace Sys2Proof.Machine

/-- The immediate I of R171: imm16 sign-extended, or hi24 : imm16 when an `ext` word governs the instruction. -/
def State.imm (s : State) (i : BitVec 16) : Word :=
  match s.me.pfx.ext with
  | some h => (h ++ i).signExtend 64
  | none => i.signExtend 64

/-- The address of an M-format access: g[a] + I, modulo 2^64 (R187). -/
def State.address (s : State) (a : GReg) (i : BitVec 16) : Word := s.g a + s.imm i

/-- The target of a branch: PC + 4 · off16 (R141). -/
def branchTarget (pc : Word) (o : BitVec 16) : Word := pc + 4 * o.signExtend 64

/-- The target of a jump: PC + 4 · off26 (R141). -/
def jumpTarget (pc : Word) (o : BitVec 26) : Word := pc + 4 * o.signExtend 64

/-- The general registers an instruction reads or writes. -/
def usesG : Instr → List GReg
  | .add d a b | .sub d a b | .and d a b | .or d a b | .xor d a b | .shl d a b | .shr d a b | .sra d a b
  | .mul d a b | .mulh d a b | .mulhu d a b | .div d a b | .divu d a b | .rem d a b | .remu d a b
  | .min d a b | .max d a b | .minu d a b | .maxu d a b | .sel d a b _ | .fadd d a b _ _
  | .fsub d a b _ _ | .fmul d a b _ _ | .fdiv d a b _ _ | .fmac d a b _ _ | .fmin d a b _ | .fmax d a b _
  | .mxMma d a b _ | .mxMmb d a b _ | .mxDist d a b _ | .mxTopk d a b _ | .mxZero d a b _ | .mxLd d a b _
  | .mxSt d a b _ | .cpCopy d a b _ | .cpStream d a b _ | .evNew d a b | .offerT d a b | .spawn d a b
  | .msg d a b => [d, a, b]
  | .clz d a | .ctz d a | .popc d a | .sextB d a | .sextH d a | .sextW d a | .zextB d a | .zextH d a
  | .zextW d a | .addi d a _ | .andi d a _ | .ori d a _ | .xori d a _ | .shli d a _ | .shri d a _
  | .srai d a _ | .muli d a _ | .jalr d a | .ldB d a _ | .ldBu d a _ | .ldH d a _ | .ldHu d a _
  | .ldW d a _ | .ldWu d a _ | .ldD d a _ | .stB d a _ | .stH d a _ | .stW d a _ | .stD d a _
  | .stX4 d a _ | .stX6 d a _ | .aadd d a _ | .amin d a _ | .amax d a _ | .aminu d a _ | .amaxu d a _
  | .aand d a _ | .aor d a _ | .axor d a _ | .fsqrt d a _ _ | .fabs d a _ | .fneg d a _ | .cvt d a _ _ _
  | .mxGet d a | .cpStat d a | .offer d a | .offer1 d a => [d, a]
  | .cmpEq _ a b | .cmpNe _ a b | .cmpLt _ a b | .cmpLe _ a b | .cmpGt _ a b | .cmpGe _ a b
  | .cmpLtu _ a b | .cmpLeu _ a b | .cmpGtu _ a b | .cmpGeu _ a b | .fcmpEq _ a b _ | .fcmpLt _ a b _
  | .fcmpLe _ a b _ | .fcmpUn _ a b _ | .vlds _ a b _ _ | .vsts _ a b _ _ | .vins _ a b _ | .mxCfg a b
  | .cpCfg a b => [a, b]
  | .cmpiEq _ a _ | .cmpiLt _ a _ | .cmpiLtu _ a _ | .pwr a | .bz a _ | .bnz a _ | .jr a | .vld _ a _
  | .vst _ a _ | .vldM _ a _ _ | .vstM _ a _ _ | .vbcast _ a _ _ | .mfromg _ a | .cpCancel a | .evFree a
  | .vtSet a | .wrapDone a | .mig a _ | .reply a | .crw a _ | .crset a _ | .crclr a _ => [a]
  | .prd d | .fli d _ _ | .vredAdd d _ _ _ | .vredMin d _ _ _ | .vredMax d _ _ _ | .vredMinu d _ _ _
  | .vredMaxu d _ _ _ | .vfredAdd d _ _ _ | .vfredMin d _ _ _ | .vfredMax d _ _ _ | .mtog d _ | .mpop d _
  | .vtGet d | .gvt d | .now d | .cyc d | .crr d _ => [d]
  | .ldQ d a _ | .stQ d a _ => [d, a, d + 1]
  | .vext d _ b _ => [d, b]
  | .jal _ => [1]
  | _ => []

/-- The vector registers an instruction reads or writes. -/
def usesV : Instr → List VReg
  | .vadd d a b _ _ | .vsub d a b _ _ | .vmul d a b _ _ | .vmulh d a b _ _ | .vmin d a b _ _
  | .vmax d a b _ _ | .vminu d a b _ _ | .vmaxu d a b _ _ | .vand d a b _ _ | .vor d a b _ _
  | .vxor d a b _ _ | .vshl d a b _ _ | .vshr d a b _ _ | .vsra d a b _ _ | .vadds d a b _ _
  | .vsubs d a b _ _ | .vmac d a b _ _ | .vdot4 d a b _ | .vfadd d a b _ _ _ | .vfsub d a b _ _ _
  | .vfmul d a b _ _ _ | .vfdiv d a b _ _ _ | .vfma d a b _ _ _ | .vfmin d a b _ _ | .vfmax d a b _ _
  | .vfdist d a b _ _ | .vperm d a b _ _ | .vsel d a b _ _ => [d, a, b]
  | .vabs d a _ _ | .vneg d a _ _ | .vfsqrt d a _ _ _ | .vfabs d a _ _ | .vfneg d a _ _
  | .vcvt d a _ _ _ _ _ | .vmov d a _ _ => [d, a]
  | .vcmpEq _ a b _ _ | .vcmpNe _ a b _ _ | .vcmpLt _ a b _ _ | .vcmpLe _ a b _ _ | .vcmpGt _ a b _ _
  | .vcmpGe _ a b _ _ | .vcmpLtu _ a b _ _ | .vcmpUn _ a b _ _ => [a, b]
  | .vld d _ _ | .vst d _ _ | .vldM d _ _ _ | .vstM d _ _ _ | .vlds d _ _ _ _ | .vsts d _ _ _ _
  | .vbcast d _ _ _ | .vins d _ _ _ => [d]
  | .vext _ a _ _ | .vredAdd _ a _ _ | .vredMin _ a _ _ | .vredMax _ a _ _ | .vredMinu _ a _ _
  | .vredMaxu _ a _ _ | .vfredAdd _ a _ _ | .vfredMin _ a _ _ | .vfredMax _ a _ _ => [a]
  | _ => []

/-- The general registers that relaxed loads of a context have still to write (R59). -/
def pendingG (c : Ctx) : List GReg :=
  c.relaxed.flatMap fun x => match x.kind with
    | .load d _ => [d]
    | .loadPair d => [d, d + 1]
    | _ => []

/-- The vector registers that relaxed loads of a context have still to write (R217). -/
def pendingV (c : Ctx) : List VReg :=
  c.relaxed.flatMap fun x => match x.kind with
    | .loadVec d => [d]
    | _ => []

/-- The instruction waits for a register that a relaxed load has not yet written (R59, R172). -/
def waitsForRegister (c : Ctx) (i : Instr) : Bool :=
  (usesG i).any (fun r => r != 0 && (pendingG c).contains r) || (usesV i).any fun r => (pendingV c).contains r

end Sys2Proof.Machine
end

