-- ==== Sys2Proof/Machine/IntAlu.lean ====
section
/-!
DEFINITION. Integer ALU, immediate forms, compares and the predicate word (10_isa_scalar R174 to R181).
-/

namespace Sys2Proof.Machine

/-- A shift amount: g[b]<5:0> (R174). -/
def shiftAmount (b : Word) : Nat := b.toNat % 64

/-- Bits 127:64 of the signed product (R174). -/
def mulHighSigned (a b : Word) : Word := BitVec.ofInt 64 (a.toInt * b.toInt / 2 ^ 64)

/-- Bits 127:64 of the unsigned product (R174). -/
def mulHighUnsigned (a b : Word) : Word := BitVec.ofNat 64 (a.toNat * b.toNat / 2 ^ 64)

/-- `div`: all ones for a divisor of 0; −2^63 by −1 gives −2^63 (R175). -/
def divSigned (a b : Word) : Word := if b = 0 then BitVec.allOnes 64 else BitVec.ofInt 64 (a.toInt.tdiv b.toInt)

/-- `rem`: the dividend for a divisor of 0; the sign is the dividend's (R175). -/
def remSigned (a b : Word) : Word := if b = 0 then a else BitVec.ofInt 64 (a.toInt.tmod b.toInt)

/-- `divu`: all ones for a divisor of 0 (R175). -/
def divUnsigned (a b : Word) : Word := if b = 0 then BitVec.allOnes 64 else a.udiv b

/-- `remu`: the dividend for a divisor of 0 (R175). -/
def remUnsigned (a b : Word) : Word := if b = 0 then a else a.umod b

/-- Zero bits of a word above bit n − 1, for a word whose bits from n up are zero. -/
def leadingFrom (a : Word) : Nat → Nat
  | 0 => 64
  | n + 1 => if a.getLsbD n then 63 - n else leadingFrom a n

/-- The count of leading zero bits, 64 for 0 (R174). -/
def countLeading (a : Word) : Word := BitVec.ofNat 64 (leadingFrom a 64)

/-- The first set bit from bit 64 − n up, or 64. -/
def trailingFrom (a : Word) : Nat → Nat
  | 0 => 64
  | n + 1 => if a.getLsbD (63 - n) then 63 - n else trailingFrom a n

/-- The count of trailing zero bits, 64 for 0 (R174). -/
def countTrailing (a : Word) : Word := BitVec.ofNat 64 (trailingFrom a 64)

/-- One bits among the low n. -/
def onesBelow (a : Word) : Nat → Nat
  | 0 => 0
  | n + 1 => (if a.getLsbD n then 1 else 0) + onesBelow a n

/-- The count of one bits (R174). -/
def countOnes (a : Word) : Word := BitVec.ofNat 64 (onesBelow a 64)

/-- `add`: g[d] := A + B, modulo 2^64 (R174). -/
def execAdd (d a b : GReg) (s : State) : Res := s.writeG d (s.g a + s.g b)

/-- `sub`: g[d] := A − B (R174). -/
def execSub (d a b : GReg) (s : State) : Res := s.writeG d (s.g a - s.g b)

/-- `and`: bitwise (R174). -/
def execAnd (d a b : GReg) (s : State) : Res := s.writeG d (s.g a &&& s.g b)

/-- `or`: bitwise (R174). -/
def execOr (d a b : GReg) (s : State) : Res := s.writeG d (s.g a ||| s.g b)

/-- `xor`: bitwise (R174). -/
def execXor (d a b : GReg) (s : State) : Res := s.writeG d (s.g a ^^^ s.g b)

/-- `shl`: shift left by g[b]<5:0> (R174). -/
def execShl (d a b : GReg) (s : State) : Res := s.writeG d (s.g a <<< shiftAmount (s.g b))

/-- `shr`: logical shift right (R174). -/
def execShr (d a b : GReg) (s : State) : Res := s.writeG d (s.g a >>> shiftAmount (s.g b))

/-- `sra`: arithmetic shift right (R174). -/
def execSra (d a b : GReg) (s : State) : Res := s.writeG d ((s.g a).sshiftRight (shiftAmount (s.g b)))

/-- `mul`: the low 64 bits of the product (R174). -/
def execMul (d a b : GReg) (s : State) : Res := s.writeG d (s.g a * s.g b)

/-- `mulh`: bits 127:64 of the signed product (R174). -/
def execMulh (d a b : GReg) (s : State) : Res := s.writeG d (mulHighSigned (s.g a) (s.g b))

/-- `mulhu`: bits 127:64 of the unsigned product (R174). -/
def execMulhu (d a b : GReg) (s : State) : Res := s.writeG d (mulHighUnsigned (s.g a) (s.g b))

/-- `div`: signed quotient (R175) (R174). -/
def execDiv (d a b : GReg) (s : State) : Res := s.writeG d (divSigned (s.g a) (s.g b))

/-- `divu`: unsigned quotient (R175) (R174). -/
def execDivu (d a b : GReg) (s : State) : Res := s.writeG d (divUnsigned (s.g a) (s.g b))

/-- `rem`: signed remainder (R175) (R174). -/
def execRem (d a b : GReg) (s : State) : Res := s.writeG d (remSigned (s.g a) (s.g b))

/-- `remu`: unsigned remainder (R175) (R174). -/
def execRemu (d a b : GReg) (s : State) : Res := s.writeG d (remUnsigned (s.g a) (s.g b))

/-- `min`: the lesser, signed (R174). -/
def execMin (d a b : GReg) (s : State) : Res := s.writeG d (if (s.g a).slt (s.g b) then s.g a else s.g b)

/-- `max`: the greater, signed (R174). -/
def execMax (d a b : GReg) (s : State) : Res := s.writeG d (if (s.g a).slt (s.g b) then s.g b else s.g a)

/-- `minu`: the lesser, unsigned (R174). -/
def execMinu (d a b : GReg) (s : State) : Res := s.writeG d (if (s.g a).ult (s.g b) then s.g a else s.g b)

/-- `maxu`: the greater, unsigned (R174). -/
def execMaxu (d a b : GReg) (s : State) : Res := s.writeG d (if (s.g a).ult (s.g b) then s.g b else s.g a)

/-- `sel`: g[a] when P[k], else g[b] (R174). -/
def execSel (d a b : GReg) (k : PReg) (s : State) : Res := s.writeG d (if s.p k then s.g a else s.g b)

/-- `clz`: leading zero bits, 64 for 0 (R174). -/
def execClz (d a : GReg) (s : State) : Res := s.writeG d (countLeading (s.g a))

/-- `ctz`: trailing zero bits, 64 for 0 (R174). -/
def execCtz (d a : GReg) (s : State) : Res := s.writeG d (countTrailing (s.g a))

/-- `popc`: one bits (R174). -/
def execPopc (d a : GReg) (s : State) : Res := s.writeG d (countOnes (s.g a))

/-- `sext.b`: the low 8 bits, sign-extended (R174). -/
def execSextB (d a : GReg) (s : State) : Res := s.writeG d (((s.g a).setWidth 8).signExtend 64)

/-- `sext.h`: the low 16 bits, sign-extended (R174). -/
def execSextH (d a : GReg) (s : State) : Res := s.writeG d (((s.g a).setWidth 16).signExtend 64)

/-- `sext.w`: the low 32 bits, sign-extended (R174). -/
def execSextW (d a : GReg) (s : State) : Res := s.writeG d (((s.g a).setWidth 32).signExtend 64)

/-- `zext.b`: the low 8 bits (R174). -/
def execZextB (d a : GReg) (s : State) : Res := s.writeG d (((s.g a).setWidth 8).setWidth 64)

/-- `zext.h`: the low 16 bits (R174). -/
def execZextH (d a : GReg) (s : State) : Res := s.writeG d (((s.g a).setWidth 16).setWidth 64)

/-- `zext.w`: the low 32 bits (R174). -/
def execZextW (d a : GReg) (s : State) : Res := s.writeG d (((s.g a).setWidth 32).setWidth 64)

/-- `addi`: A + I (R177). -/
def execAddi (d a : GReg) (i : BitVec 16) (s : State) : Res := s.writeG d (s.g a + s.imm i)

/-- `andi`: bitwise (R177). -/
def execAndi (d a : GReg) (i : BitVec 16) (s : State) : Res := s.writeG d (s.g a &&& s.imm i)

/-- `ori`: bitwise (R177). -/
def execOri (d a : GReg) (i : BitVec 16) (s : State) : Res := s.writeG d (s.g a ||| s.imm i)

/-- `xori`: bitwise (R177). -/
def execXori (d a : GReg) (i : BitVec 16) (s : State) : Res := s.writeG d (s.g a ^^^ s.imm i)

/-- `muli`: the low 64 bits of A · I (R177). -/
def execMuli (d a : GReg) (i : BitVec 16) (s : State) : Res := s.writeG d (s.g a * s.imm i)

/-- `shli`: the shift by the word's n (R178). -/
def execShli (d a : GReg) (n : BitVec 6) (s : State) : Res := s.writeG d (s.g a <<< n.toNat)

/-- `shri`: the shift by the word's n (R178). -/
def execShri (d a : GReg) (n : BitVec 6) (s : State) : Res := s.writeG d (s.g a >>> n.toNat)

/-- `srai`: the shift by the word's n (R178). -/
def execSrai (d a : GReg) (n : BitVec 6) (s : State) : Res := s.writeG d ((s.g a).sshiftRight n.toNat)

/-- `cmp.eq`: P[d] := g[a] = g[b] (R179). -/
def execCmpEq (d : PReg) (a b : GReg) (s : State) : Res := s.writeP d (s.g a == s.g b)

/-- `cmp.ne`: P[d] := g[a] ≠ g[b] (R179). -/
def execCmpNe (d : PReg) (a b : GReg) (s : State) : Res := s.writeP d (s.g a != s.g b)

/-- `cmp.lt`: P[d] := A < B (R179). -/
def execCmpLt (d : PReg) (a b : GReg) (s : State) : Res := s.writeP d ((s.g a).slt (s.g b))

/-- `cmp.le`: P[d] := A ≤ B (R179). -/
def execCmpLe (d : PReg) (a b : GReg) (s : State) : Res := s.writeP d ((s.g a).sle (s.g b))

/-- `cmp.gt`: P[d] := A > B (R179). -/
def execCmpGt (d : PReg) (a b : GReg) (s : State) : Res := s.writeP d ((s.g b).slt (s.g a))

/-- `cmp.ge`: P[d] := A ≥ B (R179). -/
def execCmpGe (d : PReg) (a b : GReg) (s : State) : Res := s.writeP d ((s.g b).sle (s.g a))

/-- `cmp.ltu`: P[d] := UA < UB (R179). -/
def execCmpLtu (d : PReg) (a b : GReg) (s : State) : Res := s.writeP d ((s.g a).ult (s.g b))

/-- `cmp.leu`: P[d] := UA ≤ UB (R179). -/
def execCmpLeu (d : PReg) (a b : GReg) (s : State) : Res := s.writeP d ((s.g a).ule (s.g b))

/-- `cmp.gtu`: P[d] := UA > UB (R179). -/
def execCmpGtu (d : PReg) (a b : GReg) (s : State) : Res := s.writeP d ((s.g b).ult (s.g a))

/-- `cmp.geu`: P[d] := UA ≥ UB (R179). -/
def execCmpGeu (d : PReg) (a b : GReg) (s : State) : Res := s.writeP d ((s.g b).ule (s.g a))

/-- `cmpi.eq`: P[d] := A = I (R180). -/
def execCmpiEq (d : PReg) (a : GReg) (i : BitVec 16) (s : State) : Res := s.writeP d (s.g a == s.imm i)

/-- `cmpi.lt`: P[d] := A < I (R180). -/
def execCmpiLt (d : PReg) (a : GReg) (i : BitVec 16) (s : State) : Res := s.writeP d ((s.g a).slt (s.imm i))

/-- `cmpi.ltu`: P[d] := UA < I, read unsigned (R180). -/
def execCmpiLtu (d : PReg) (a : GReg) (i : BitVec 16) (s : State) : Res := s.writeP d ((s.g a).ult (s.imm i))

/-- `pand`: P[d] := P[a] and P[b] (R181). -/
def execPand (d a b : PReg) (s : State) : Res := s.writeP d (s.p a && s.p b)

/-- `por`: P[d] := P[a] or P[b] (R181). -/
def execPor (d a b : PReg) (s : State) : Res := s.writeP d (s.p a || s.p b)

/-- `pxor`: P[d] := P[a] ≠ P[b] (R181). -/
def execPxor (d a b : PReg) (s : State) : Res := s.writeP d (s.p a ^^ s.p b)

/-- `pandn`: P[d] := P[a] and not P[b] (R181). -/
def execPandn (d a b : PReg) (s : State) : Res := s.writeP d (s.p a && !s.p b)

/-- `pnot`: P[d] := not P[a] (R181). -/
def execPnot (d a : PReg) (s : State) : Res := s.writeP d (!s.p a)

/-- `pmov`: P[d] := P[a] (R181). -/
def execPmov (d a : PReg) (s : State) : Res := s.writeP d (s.p a)

/-- `pset`: P[d] := true (R181). -/
def execPset (d : PReg) (s : State) : Res := s.writeP d true

/-- `pclr`: P[d] := false (R181). -/
def execPclr (d : PReg) (s : State) : Res := s.writeP d false

/-- `prd`: g[d] := PW with bit 0 set (R181). -/
def execPrd (d : GReg) (s : State) : Res := s.writeG d ((s.me.pw ||| 1).setWidth 64)

/-- `pwr`: PW := g[a]<15:0> with bit 0 set (R181). -/
def execPwr (a : GReg) (s : State) : Res := 
  .next (s.modMe fun c => { c with pw := (s.g a).setWidth 16 ||| 1 }.advance)

end Sys2Proof.Machine
end

