-- ==== Sys2Proof/Machine/Regions.lean ====
section
/-!
DEFINITION. The region tree's budgets and what launches use of them (19_regions_sched R298 to R300, R304, R305).
-/

namespace Sys2Proof.Machine

/-- The key of a launch: its region and the sequence number of its command. -/
def launchKey (region seq : Nat) : Nat := seq * 256 + region

/-- The region of a launch's key. -/
def keyRegion (key : Nat) : Nat := key % 256

/-- KiB charged on a core with n processes (R305). -/
def chargedKib (l : LaunchRec) (n : Nat) : Nat := (chargedBytes l n + 1023) / 1024

/-- KiB that a launch charges over all its cores. -/
def launchKib (l : LaunchRec) : Nat :=
  ((List.range (coreCount l)).map fun i => chargedKib l (procsOnCore l i)).foldl (· + ·) 0

namespace State

/-- A region and its ancestors: the tree has at most four levels (R298). -/
def lineage (s : State) (r : Nat) : List Nat :=
  let up (x : Nat) : Nat := (s.region x).parent
  ([r, up r, up (up r), up (up (up r))]).eraseDups

/-- A launch holds what it was placed with until its resources are released (R315). -/
def holdsResources (l : Launch) : Bool := l.phase != .admitted && l.phase != .chosen && !l.cores.isEmpty

/-- A launch occupies its cores: they are not free for another (R321, R323: a group that is out has left its cores until its
return is announced). -/
def occupies (s : State) (l : Launch) : Bool :=
  let g := s.group (s.colourOf l.region)
  holdsResources l && !(g.phase == .out && g.resume.isNone)

/-- No launch occupies a core. -/
def coreFree (s : State) (pcn : Nat) : Bool := !(s.launches.any fun e => s.occupies e.2 && e.2.cores.contains pcn)

/-- The launch that occupies a core, if one does. -/
def occupant? (s : State) (pcn : Nat) : Option Launch :=
  (s.launches.find? fun e => s.occupies e.2 && e.2.cores.contains pcn).map Prod.snd

/-! ## Stopped groups (R319) -/

/-- The packet is a switch notice on its way to a core. -/
def isNotice (colour pcn : Nat) (p : Packet) : Bool :=
  p.dst == pcn && match p.body with | .switchNotice c _ => c == colour | _ => false

/-- A colour group has stopped at a core: its T has come and the core has its notice (R319). -/
def stoppedAt (s : State) (colour pcn : Nat) : Bool :=
  let g := s.group colour
  match g.phase with
  | .running => false
  | .notified => decide (g.time ≤ s.now) && !s.net.any (isNotice colour pcn)
  | .stopped | .out => true

/-- The colour group that occupies a core has stopped there. -/
def coreStopped (s : State) (pcn : Nat) : Bool :=
  match s.occupant? pcn with
  | some l => s.stoppedAt (s.colourOf l.region) pcn
  | none => false

/-- A context stands still for its colour group (R319): never inside a prefix sequence. -/
def groupStopped (s : State) (tid : Nat) : Bool :=
  let c := s.ctx tid
  (c.pfx.first.isNone || c.held.isSome) &&
    match s.launchRec? tid with
    | some l => s.stoppedAt (s.colourOf l.region) (coreOfTid tid)
    | none => false

/-! ## The end of a launch, wherever it stands -/

/-- What a group that is out holds of a launch is dropped: its cores' blocks, and their packets in the log (R312, R321). -/
def dropSaved (s : State) (colour : Nat) (cores : List Nat) : State :=
  s.modGroup colour fun g =>
    { g with
      saved := g.saved.filter fun b => !cores.contains b.pcn
      log := g.log.filter fun x => !(cores.contains x.packet.src || cores.contains x.packet.dst) }

/-- A launch is terminated, or, when its group is out, discarded (R312): its record is written at once. -/
def endLaunch (s : State) (key status cause pcn : Nat) : State :=
  match s.launch? key with
  | none => s
  | some l =>
    let colour := s.colourOf l.region
    if (s.group colour).phase = .out && l.phase != .ended then
      let s1 := (s.writeRecord key l status (if status = 3 then cause else 0) (if status = 3 then pcn else 0) 0 0).dropSaved
        colour l.cores
      s1.setLaunch key
        { l with phase := .ended, cores := [], events := [], stopStatus := status, stopCause := cause, stopPcn := pcn }
    else s.terminate key status cause pcn

/-- What the launches of a region and its descendants use, by a measure of each (R300). -/
def usage (s : State) (r : Nat) (measure : Launch → Nat) : Nat :=
  (s.launches.filter fun e => holdsResources e.2 && (s.lineage e.2.region).contains r).foldl
    (fun t e => t + measure e.2) 0

/-- Arbiter entries that a region and its descendants use, also in groups that are out (R77, R253, R300, R321). -/
def arbUsage (s : State) (r : Nat) : Nat :=
  s.allCores.foldl (fun t k =>
    t + (k.arb.filter fun e => e.2.state != .free && (s.lineage (keyRegion e.2.launch)).contains r).length) 0

/-- Some more of field i stays within the budgets at every level (R300). -/
def budgetAllows (s : State) (r i : Nat) (own : Region → Nat) (used : Nat → Nat) (more : Nat) : Bool :=
  (s.lineage r).all fun x => decide (used x + more ≤ s.effective i own x)

/-- One more arbiter entry is within the budgets (R76 order 4, R253). -/
def arbAllows (s : State) (r more : Nat) : Bool := s.budgetAllows r 4 Region.arb s.arbUsage more

end State

end Sys2Proof.Machine
end

