-- ==== Sys2Proof/Machine/Journal.lean ====
section
/-!
DEFINITION. The checkpoint ring and the undo journal of a timed process, as bytes of its reserved area
(06_virtual_time R96 to R98, 18_privileged R294).
-/

namespace Sys2Proof.Machine

/-- A field of a word: w bits from bit lo up. -/
def wordField (x : Word) (lo w : Nat) : Nat := x.toNat / 2 ^ lo % 2 ^ w

/-- A word with a field of w bits from bit lo up replaced. -/
def setField (x : Word) (lo w v : Nat) : Word :=
  (x &&& ~~~(BitVec.ofNat 64 ((2 ^ w - 1) * 2 ^ lo))) ||| BitVec.ofNat 64 (v % 2 ^ w * 2 ^ lo)

/-- CKRING.base, an offset. -/
def ckBase (c : Ctx) : Nat := wordField c.ckring 6 11 * 64
/-- CKRING.len. -/
def ckLen (c : Ctx) : Nat := wordField c.ckring 20 12
/-- CKPOS.head. -/
def ckHead (c : Ctx) : Nat := wordField c.ckpos 0 12
/-- CKPOS.live. -/
def ckLive (c : Ctx) : Nat := wordField c.ckpos 16 12
/-- JRING.base, an offset. -/
def jBase (c : Ctx) : Nat := wordField c.jring 5 12 * 32
/-- JRING.len. -/
def jLen (c : Ctx) : Nat := wordField c.jring 32 16
/-- JPOS.head. -/
def jHead (c : Ctx) : Nat := wordField c.jpos 0 16
/-- JPOS.tail. -/
def jTail (c : Ctx) : Nat := wordField c.jpos 32 16

/-- Live journal entries: from head to tail (R294). -/
def jCount (c : Ctx) : Nat := if jLen c = 0 then 0 else (jTail c + jLen c - jHead c) % jLen c

/-- The address in `Mem` of journal entry i of a context's process. -/
def jEntryKey (tid : Nat) (c : Ctx) (i : Nat) : Nat := localKey (coreOfTid tid) (jBase c + 32 * (i % (max 1 (jLen c))))

/-- The address in `Mem` of checkpoint i of a context's process. -/
def ckEntryKey (tid : Nat) (c : Ctx) (i : Nat) : Nat := localKey (coreOfTid tid) (ckBase c + 832 * (i % (max 1 (ckLen c))))

/-- Sequence number of the last checkpoint (R97). -/
def lastCheckpoint (c : Ctx) : Nat := (c.ckseq - 1).toNat

/-- The line at an offset has been journaled since the last checkpoint. -/
def lineJournaled (m : Mem) (tid : Nat) (c : Ctx) (line : Nat) : Bool :=
  (List.range (jCount c)).any fun k =>
    let e := jEntryKey tid c (jHead c + k)
    memNat m e 8 == line && memNat m (e + 8) 8 == lastCheckpoint c

/-- Every entry of a journal is in use (R98). DEDUCED: a ring of len entries is full at len − 1, since JPOS reads empty when head
and tail are equal (R294), although R97 says that it holds len (notes/assumptions/64.md). -/
def journalFull (c : Ctx) : Bool := decide (jLen c ≤ jCount c + 1)

/-- `Journal(addr)` for a line of the process's core (R8, R97): nothing when no checkpoint is live or the line has its
entry; none when an entry is needed and none is free (R98). -/
def State.journal (s : State) (tid line : Nat) : Option State :=
  let c := s.ctx tid
  if ckLive c = 0 || lineJournaled s.mem tid c line then some s
  else if journalFull c then none
  else
    let e := jEntryKey tid c (jTail c)
    let old := memBytes s.mem (localKey (coreOfTid tid) line) 16
    let m := memWrite e (bytesOfNat 8 line ++ bytesOfNat 8 (lastCheckpoint c) ++ old) s.mem
    some ((s.setMem m).setCtx tid { c with jpos := setField c.jpos 32 16 ((jTail c + 1) % jLen c) })

/-- `Journal` for several lines. -/
def State.journalAll (s : State) (tid : Nat) : List Nat → Option State
  | [] => some s
  | l :: t => (s.journal tid l).bind fun s' => s'.journalAll tid t

/-- The timed process whose core this is, if one runs there: its home context (R93). -/
def State.timedHome? (s : State) (pcn : Nat) : Option Nat :=
  ((List.range 16).map (pcn * 16 + ·)).find? fun tid =>
    s.isTimed tid && !(s.ctx tid).spawned && (s.ctx tid).status != .empty

end Sys2Proof.Machine
end

