-- ==== Sys2Proof/Machine/Packets.lean ====
section
/-!
DEFINITION. Sending and taking packets (21_network R340 to R342, R348): a packet enters the network's list when it is
sent and leaves it when it arrives. Two packets of one class with one source and one destination arrive in the order
of the list.
-/

namespace Sys2Proof.Machine

namespace State

/-- What a core keeps of a launch's reduction. -/
def reduction (s : State) (pcn launch : Nat) : Reduction := tableGet Reduction.reset launch (s.core pcn).reductions

/-- What a core keeps of a launch's reduction, changed. -/
def modReduction (s : State) (pcn launch : Nat) (f : Reduction → Reduction) : State :=
  s.modCore pcn fun c => { c with reductions := tablePut launch (f (s.reduction pcn launch)) c.reductions }

/-- The colour of a launch's traffic (R299, R340). -/
def launchColour (s : State) (launch : Nat) : Option Nat := (s.launch? launch).map fun l => s.colourOf l.region

/-- The lesser of a value and one that may be missing. -/
def leastOf (v : Nat) : Option Nat → Option Nat
  | none => some v
  | some w => some (min v w)

/-- A timed packet is counted at its sender (R348). -/
def countSent (r : Reduction) (vt : Nat) : Reduction :=
  if r.red then { r with sentRed := r.sentRed + 1, leastSent := leastOf vt r.leastSent }
  else { r with sentWhite := r.sentWhite + 1, leastSent := leastOf vt r.leastSent }

/-- A timed packet is counted where it is received, in its sender's colour (R348). -/
def countReceived (r : Reduction) (red : Bool) : Reduction :=
  if red then { r with recvRed := r.recvRed + 1 } else { r with recvWhite := r.recvWhite + 1 }

/-- A packet that is not timed. -/
def post (s : State) (cls : PacketClass) (src dst : Nat) (colour : Option Nat) (body : Body) : State :=
  s.send ⟨cls, src, dst, colour, none, body⟩

/-- A packet of an event: timed, with the VT it carries, when the event is (R348). -/
def postEvent (s : State) (cls : PacketClass) (src dst launch : Nat) (timed : Bool) (vt : Nat) (body : Body) : State :=
  if timed then
    (s.modReduction src launch fun r => countSent r vt).send
      ⟨cls, src, dst, s.launchColour launch, some (launch, (s.reduction src launch).red, vt), body⟩
  else s.post cls src dst (s.launchColour launch) body

/-- A core's threshold and randomisation of a colour (R343, R344). -/
def colourConfig (s : State) (pcn colour : Nat) : BitVec 17 := tableGet 0xFFFF colour (s.core pcn).rcolcfg

/-! ### Bulk packets (R341, R343) -/

/-- The names under which bulk packets travel: of a copy job's grant, by the job's place among all jobs, and of a launch's image
load. -/
def bulkOfJob (order : Nat) : Nat := 2 * order
/-- The name of a launch's image load. -/
def bulkOfLoad (launch : Nat) : Nat := 2 * launch + 1

/-- What a bulk packet carries is still on its way: its grant is in motion, or its launch is being loaded. -/
def bulkLive (s : State) (owner : Nat) : Bool :=
  (s.cores.any fun k => k.2.cpQueue.any fun j => bulkOfJob j.order == owner && match j.grant with
    | .reading _ _ | .writing _ _ => true
    | .none | .faulted _ => false) ||
    s.launches.any fun l => bulkOfLoad l.1 == owner && l.2.phase == .loaded

/-- Bulk packets that have arrived leave the network. -/
def sweepBulk (s : State) : State :=
  { s with net := s.net.filter fun p => match p.body with
      | .bulk owner _ => s.bulkLive owner
      | _ => true }

/-- The router in which a memory port's traffic enters and leaves the mesh: no rule places the ports (notes/assumptions/74.md). -/
def portRouter (s : State) (dpa : Nat) : Nat := Config.position (dpa + s.fresh * 2 ^ 48) % 4096

/-- An intermediate router, drawn from the bounding box of two routers. -/
def boxRouter (src dst x : Nat) : Nat :=
  let x0 := min (packageX src) (packageX dst)
  let y0 := min (packageY src) (packageY dst)
  let w := max (packageX src) (packageX dst) - x0 + 1
  let h := max (packageY src) (packageY dst) - y0 + 1
  pcnAt (x0 + x % (w * h) % w) (y0 + x % (w * h) / w)

/-- A bulk packet is injected (R343): in two phases over a drawn router when the imbalance exceeds its colour's threshold and
randomisation is enabled, else by the XY route. -/
def postBulk (s : State) (src dst : Nat) (colour : Option Nat) (owner : Nat) : State :=
  let k := s.core src
  match colour with
  | some c =>
    let cfg := s.colourConfig src c
    if cfg.getLsbD 16 && decide (cfg.toNat % 2 ^ 16 < k.imbalance) then
      let x := srngNext k.xorshift
      (s.modCore src fun k => { k with xorshift := x }).send
        ⟨.bulk, src, dst, colour, none, .bulk owner (some (boxRouter src dst x.toNat))⟩
    else s.send ⟨.bulk, src, dst, colour, none, .bulk owner none⟩
  | none => s.send ⟨.bulk, src, dst, colour, none, .bulk owner none⟩

/-- Packets of a colour move and arrive while its group runs; once the group has stopped they are ejected or logged
(R320, R322). -/
def colourRuns (s : State) : Option Nat → Bool
  | none => true
  | some c => (s.group c).phase == .running || (s.group c).phase == .notified

/-- No packet before place n of the list has to arrive before it (R342). -/
def mayArrive (s : State) (n : Nat) (p : Packet) : Bool :=
  (p.cls == .bulk || !(s.net.take n).any fun q => q.cls == p.cls && q.src == p.src && q.dst == p.dst) &&
    s.colourRuns p.colour

/-- The state without packet n, its receipt counted if it is timed. -/
def takePacket (s : State) (n : Nat) (p : Packet) : State :=
  let s1 := { s with net := listDrop n s.net }
  match p.timed with
  | some (l, red, _) => s1.modReduction p.dst l fun r => countReceived r red
  | none => s1

/-- Packet n of the network, if it may arrive, with the state in which it has left the network. -/
def arrive (s : State) (n : Nat) : Option (Packet × State) :=
  match s.net[n]? with
  | none => none
  | some p => if s.mayArrive n p then some (p, s.takePacket n p) else none

/-- A counter of the core's event unit: stale packets (R92, R292). -/
def countStale (s : State) (pcn : Nat) : State :=
  s.modCore pcn fun c => { c with stalecnt := if c.stalecnt < 0xFFFFFFFF then c.stalecnt + 1 else c.stalecnt }

end State

end Sys2Proof.Machine
end

