-- ==== Sys2Proof/Machine/EventBase.lean ====
section
/-!
DEFINITION. Handles and descriptors of events (05_events R69 to R74), and the participants of an event.
-/

namespace Sys2Proof.Machine

/-- Logical core number of a handle (R69). -/
def handleHome (h : Nat) : Nat := h / 2 ^ 20 % 2 ^ 12
/-- Arbiter entry of a handle (R69). -/
def handleEntry (h : Nat) : Nat := h / 2 ^ 12 % 2 ^ 8
/-- Generation of a handle (R69). -/
def handleGen (h : Nat) : Nat := h % 2 ^ 12

/-- The handle of an entry at a home, as a launch's logical map numbers it (R69). -/
def makeHandle (lcn entry gen : Nat) : Nat := lcn % 2 ^ 12 * 2 ^ 20 + entry % 2 ^ 8 * 2 ^ 12 + gen % 2 ^ 12

namespace State

/-- Where a handle that is live for a launch lives: home core, entry and generation (R70). A context of no launch has
region 0 and the device's own map. -/
def liveFor? (s : State) (launch : Option Nat) (h : Nat) : Option (Nat × Nat × Nat) :=
  let l := launch.bind s.launch?
  match ((l.map Launch.lmap).getD s.lmap)[handleHome h]? with
  | none => none
  | some pcn =>
    let e := s.entry pcn (handleEntry h)
    if handleGen h ≠ 0 && e.state == .live && e.gen == handleGen h &&
        e.space == s.spaceOf ((l.map Launch.region).getD 0) then
      some (pcn, handleEntry h, handleGen h)
    else none

/-- Where a handle that is live for a context lives (R70). -/
def liveEntry? (s : State) (tid h : Nat) : Option (Nat × Nat × Nat) := s.liveFor? (s.launchOf tid) h

/-- The launch rank of a context's process. -/
def rankOf (s : State) (tid : Nat) : Nat := (s.proc (s.ctx tid).proc).rank

/-- The role of a context's process in an event, if it is a participant: its launch created the event, and its rank is
among the ranks (R70, R80). -/
def roleIn? (s : State) (tid : Nat) (e : ArbEntry) : Option Nat :=
  if s.launchOf tid = some e.launch then
    (e.desc.parties.find? fun q => q.1 == s.rankOf tid).map fun q => q.2.2
  else none

end State

/-! ## Descriptors (R71 to R74) -/

/-- A field of n bytes at an offset of a descriptor. -/
def descNat (bs : List Byte) (off n : Nat) : Nat := natOfBytes ((bs.drop off).take n)

/-- Bytes of an element type of R72. -/
def elementSize (ty : Nat) : Nat :=
  match ty with
  | 0 | 2 | 4 => 4
  | 6 => 2
  | _ => 8

/-- A list without repeats. -/
def distinct : List Nat → Bool
  | [] => true
  | x :: t => !t.contains x && distinct t

/-- Participants of the list form: rank and role of each position (R71). -/
def listParties (bs : List Byte) (n : Nat) : List (Nat × Nat) :=
  (List.range n).map fun i => (descNat bs (16 + 2 * i) 2, descNat bs 48 4 / 4 ^ i % 4)

/-- The user positions of the rectangle word, row by row (R73). -/
def rectPositions (s : State) (w : Nat) : List Nat :=
  let x0 := w % 64
  let y0 := w / 64 % 64
  let wd := w / 2 ^ 12 % 64 + 1
  let ht := w / 2 ^ 18 % 64 + 1
  ((List.range ht).flatMap fun j => (List.range wd).map fun i => pcnAt (x0 + i) (y0 + j)).filter fun pcn =>
    !s.isFused pcn && !s.isSystem pcn

/-- The rectangle lies within the mesh (R73). -/
def rectFits (w : Nat) : Bool :=
  decide (w % 64 + (w / 2 ^ 12 % 64 + 1) ≤ 64) && decide (w / 64 % 64 + (w / 2 ^ 18 % 64 + 1) ≤ 64) &&
    decide (w / 2 ^ 28 % 16 = 0)

/-- The rank of a launch whose place is a context. -/
def rankAt (l : Launch) (tid : Nat) : Option Nat :=
  let i := l.ranks.findIdx (· == tid)
  if i < l.ranks.length then some i else none

/-- Insert a participant in ascending rank (R73). -/
def insertParty (p : Nat × Nat × Nat) : List (Nat × Nat × Nat) → List (Nat × Nat × Nat)
  | [] => [p]
  | q :: t => if p.1 ≤ q.1 then p :: q :: t else q :: insertParty p t

/-- Participants in ascending rank, with the context where each rank starts. -/
def sortParties (l : Launch) (ps : List (Nat × Nat)) : List (Nat × Nat × Nat) :=
  (ps.map fun p => (p.1, l.ranks.getD p.1 0, p.2)).foldl (fun acc p => insertParty p acc) []

/-- The constraints of R74 that depend on the kind: participants, size and roles. -/
def kindOk (d : Descriptor) (list : Bool) : Bool :=
  let n := d.parties.length
  let roles := d.parties.map fun p => p.2.2
  match d.kind with
  | 0 => list && n == 2 && decide (d.size ≤ 4096) && roles.contains 1 && roles.contains 2
  | 1 => decide (2 ≤ n) && decide (n ≤ 4096) && d.size == 0 && roles.all (· == 0)
  | 2 =>
    decide (2 ≤ n) && decide (n ≤ 4096) && decide (1 ≤ d.size) && decide (d.size ≤ 1024) &&
      d.size % elementSize d.ty == 0 && (decide (d.op < 3) || decide (d.ty < 4)) &&
      (if d.deliverRoot then (roles.filter (· == 3)).length == 1 && roles.all fun r => r == 0 || r == 3
       else roles.all (· == 0))
  | 3 => decide (1 ≤ n) && decide (n ≤ 16) && (d.size == 0 || d.size == 16) && roles.all (· == 2)
  | 4 => decide (1 ≤ n) && decide (n ≤ 16) && decide (d.size ≤ 4096) && roles.all (· == 2)
  | _ => false

/-- The ingress bindings of a region (R354). -/
def bindingsOf (s : State) (region : Nat) : List Binding := tableGet [] region s.bindings

/-- An ingress tag is bound in a region (R354). -/
def tagBound (s : State) (region tag : Nat) : Bool := (bindingsOf s region).any fun b => b.tag == tag

/-- A descriptor of a launch, if it is valid (R72 to R74, R354) and names only ranks, or rectangle positions, that the launch
has (R76 order 2). -/
def parseDescriptor (s : State) (l : Launch) (bs : List Byte) : Option Descriptor :=
  let ctl := descNat bs 4 4
  let kind := ctl % 8
  let list := ctl / 32 % 2 == 0
  let deliver := ctl / 16 % 2 == 1
  let n := descNat bs 10 2
  let rect := descNat bs 12 4
  let root := descNat bs 52 2
  let op := ctl / 64 % 16
  let ty := ctl / 2 ^ 10 % 16
  let reserved := decide (ctl < 2 ^ 14) && decide (kind < 5) && decide (op < 6) && decide (ty < 7) &&
    descNat bs 56 8 == 0
  let unused := (deliver || root == 0) && (!deliver || kind == 2) && (kind == 2 || (op == 0 && ty == 0)) &&
    (kind == 4 || descNat bs 54 2 == 0) &&
    (if list then
      rect == 0 && decide (n ≤ 16) && ((List.range 16).drop n).all (fun i => descNat bs (16 + 2 * i) 2 == 0) &&
        descNat bs 48 4 / 4 ^ n == 0
     else n == 0 && (List.range 32).all (fun i => descNat bs (16 + i) 1 == 0) && descNat bs 48 4 == 0)
  let build (ps : List (Nat × Nat)) : Descriptor :=
    ⟨kind, ctl / 8 % 2 == 1, deliver, op, ty, descNat bs 8 2, descNat bs 54 2, sortParties l ps⟩
  let tagOk := kind ≠ 4 || (descNat bs 54 2 != 0 && !tagBound s l.region (descNat bs 54 2))
  let accept (d : Descriptor) : Option Descriptor := if kindOk d list && tagOk then some d else none
  if !(reserved && unused) then none
  else if list then
    let ps := listParties bs n
    if distinct (ps.map Prod.fst) && ps.all (fun p => decide (p.1 < l.spec.n)) &&
        (!deliver || ((ps[root]?).map Prod.snd) == some 3) then accept (build ps)
    else none
  else if !rectFits rect then none
  else
    let ranks := (rectPositions s rect).map fun pcn => rankAt l (pcn * 16 + rect / 2 ^ 24 % 16)
    if ranks.any Option.isNone then none
    else
      let role := if kind = 3 || kind = 4 then 2 else 0
      let d := build (ranks.filterMap fun r => r.map fun k => (k, role))
      -- the root is the participant at the root index in ascending rank order
      if deliver && decide (d.parties.length ≤ root) then none
      else if deliver then
        accept { d with parties := d.parties.mapIdx fun i p => if i = root then (p.1, p.2.1, 3) else p }
      else accept d

/-- The send and receive lengths of a role (R74). -/
def roleLengths (d : Descriptor) (role : Nat) : Nat × Nat :=
  match d.kind, role with
  | 1, _ => (0, 0)
  | _, 1 => (d.size, 0)
  | _, 2 => (0, d.size)
  | _, 3 => (d.size, d.size)
  | _, _ => if d.deliverRoot then (d.size, 0) else (d.size, d.size)

/-- A participant whose contribution the home awaits: the sender of a channel, every participant of a barrier or a
combining event (R88, R346). -/
def contributes (d : Descriptor) (role : Nat) : Bool :=
  match d.kind with
  | 0 => role == 1
  | 1 | 2 => true
  | _ => false

/-- The order of R95: an occurrence before another, by VT, then the higher loss count, then the lower handle. -/
def precedes (vt loss handle vt' loss' handle' : Nat) : Bool :=
  decide (vt < vt') || (vt == vt' && (decide (loss' < loss) || (loss == loss' && decide (handle < handle'))))

/-- The handle of an entry, for the order of R95: its launch's logical map numbers the home. -/
def State.handleOf (s : State) (pcn idx : Nat) (e : ArbEntry) : Nat :=
  let map := ((s.launch? e.launch).map Launch.lmap).getD s.lmap
  makeHandle (map.findIdx (· == pcn)) idx e.gen

end Sys2Proof.Machine
end

