-- ==== Sys2Proof/Machine/Sequential.lean ====
section
/-!
DEFINITION. The sequential resolution of a timed launch (06_virtual_time R95), worked over what the device holds: the offers
that have closed, in their order, and those that stand. It gives an event's loss count, tells whether an occurrence would
have come before one that has closed an offer of the event (R99), and whether an enabled event precedes it.
-/

namespace Sys2Proof.Machine

/-- An offer of a timed process: the events that it offers, the occurrence that closed it, if one did, and the standing offer
that this occurrence used. -/
structure SeqOffer where
  events : List TimedOffer
  closed : Option (Nat × Nat × Nat)
  stand : Option (Nat × Option StandingSource)
deriving DecidableEq, Repr

/-- A process in the resolution: how many occurrences it has taken, and its offers from there on. -/
structure Lane where
  proc : Nat
  rank : Nat
  tid : Nat
  taken : Nat
  rest : List SeqOffer
deriving DecidableEq, Repr

/-- What the resolution keeps of an event: its home and entry, its loss count, and how often it has occurred. -/
structure SeqEvent where
  home : Nat
  entry : Nat
  loss : Nat
  used : Nat
deriving DecidableEq, Repr

/-- What the resolution says of one event: its loss count; the participants whose closed offers it would have taken, each
with the occurrence VT and the loss count there, and the ranks and VTs of the offers that it takes there; and whether an
enabled event that shares a participant precedes it. -/
structure SeqLook where
  loss : Nat
  needs : List (Nat × Nat)
  stragglers : List (Nat × Nat × Nat)
  held : Bool
deriving DecidableEq, Repr

/-- An event that is enabled at a point of the resolution. -/
structure SeqEnabled where
  home : Nat
  entry : Nat
  handle : Nat
  vt : Nat
  loss : Nat
  lanes : List Lane
deriving DecidableEq, Repr

/-- What an event keeps, none of it having happened yet. -/
def seqEvent (t : List SeqEvent) (home entry : Nat) : SeqEvent :=
  (t.find? fun x => x.home == home && x.entry == entry).getD ⟨home, entry, 0, 0⟩

/-- What an event keeps, replaced. -/
def putSeqEvent (x : SeqEvent) (t : List SeqEvent) : List SeqEvent :=
  x :: t.filter fun y => y.home != x.home || y.entry != x.entry

/-- The VT at which the first offer of a lane names an event. -/
def Lane.offers? (l : Lane) (home entry : Nat) : Option Nat :=
  (l.rest.head?).bind fun o => (o.events.find? fun x => x.home == home && x.entry == entry).map TimedOffer.vt

/-- The first offer of a lane closed on an event. -/
def Lane.closedOn (l : Lane) (home entry : Nat) : Bool :=
  match (l.rest.head?).bind SeqOffer.closed with
  | some c => c.1 == home && c.2.1 == entry
  | none => false

/-- The first offer of a lane closed. -/
def Lane.isClosed (l : Lane) : Bool := ((l.rest.head?).bind SeqOffer.closed).isSome

/-- A lane past its first offer: what follows an offer that still stands is not known. -/
def Lane.next (l : Lane) : Lane := { l with taken := l.taken + 1, rest := if l.isClosed then l.rest.tail else [] }

/-- The event precedes another in the order of R95. -/
def SeqEnabled.before (a b : SeqEnabled) : Bool := precedes a.vt a.loss a.handle b.vt b.loss b.handle

/-- The first event of some in the order of R95. -/
def firstEnabled : List SeqEnabled → Option SeqEnabled
  | [] => none
  | x :: t =>
    match firstEnabled t with
    | none => some x
    | some y => if y.before x then some y else some x

/-- Two enabled events share a participant. -/
def shareLane (a b : SeqEnabled) : Bool := a.lanes.any fun l => b.lanes.any fun m => m.proc == l.proc

namespace State

/-- The offer that stands in the slot of a timed process; one that is locked on a committed event has closed on it. -/
def standingOffer (s : State) (tid : Nat) : List SeqOffer :=
  let o := (s.ctx tid).offer
  let events := (o.entries.filter fun x => x.timed && !x.gone).map OfferEntry.timedOffer
  match o.state with
  | .opened => [⟨events, none, none⟩]
  | .locked home entry number =>
    match (s.entry home entry).current with
    | some c =>
      if c.number = number then [⟨events, some (home, entry, number), c.standing.map fun x => (x.vt, x.source)⟩]
      else [⟨events, none, none⟩]
    | none => [⟨events, none, none⟩]
  | .closed | .committed _ => []

/-- A process with its offers, closed and standing. -/
def laneOf (s : State) (key : Nat) (p : Proc) : Lane :=
  ⟨key, p.rank, p.home, 0,
    p.occs.map (fun o => ⟨o.offered, some (o.home, o.entry, o.number), o.stand⟩) ++
      (if p.ended then [] else s.standingOffer p.home)⟩

/-- The processes of a launch. -/
def lanesOf (s : State) (launch : Nat) : List Lane :=
  (s.procs.filter fun e => e.2.launch == some launch).map fun e => s.laneOf e.1 e.2

/-- The standing offers of an event, in their order: those that its occurrences used, then those that stand (R90, R91). -/
def standsOf (s : State) (lanes : List Lane) (home entry : Nat) : List (Nat × Option StandingSource) :=
  let e := s.entry home entry
  let mine := lanes.filter fun l => e.desc.parties.any fun p => p.1 == l.rank
  let used := match mine with
    | l :: _ => l.rest.filterMap fun o =>
        if (o.closed.map fun c => c.1 == home && c.2.1 == entry).getD false then o.stand else none
    | [] => []
  used ++ e.standing.map fun x => (x.vt, x.source)

/-- The VT of the standing offer that an event would use at a point, if it has been made by then; 0 for an event that needs
none. -/
def standAt? (s : State) (all lanes : List Lane) (x : SeqEvent) : Option Nat :=
  if (s.entry x.home x.entry).desc.kind < 3 then some 0
  else
    match (s.standsOf all x.home x.entry)[x.used]? with
    | none => none
    | some (vt, none) => some vt
    | some (vt, some y) =>
      if lanes.all fun l => l.proc != y.proc || decide (y.ckseq ≤ l.taken) then some vt else none

/-- An event at a point of the resolution, if every participant offers it there. -/
def enabledAt? (s : State) (all lanes : List Lane) (x : SeqEvent) : Option SeqEnabled :=
  let e := s.entry x.home x.entry
  let mine := lanes.filter fun l => e.desc.parties.any fun p => p.1 == l.rank
  let vts := mine.filterMap fun l => l.offers? x.home x.entry
  match s.standAt? all lanes x with
  | none => none
  | some v =>
    if vts.length = e.desc.parties.length && !vts.isEmpty then
      some ⟨x.home, x.entry, s.handleOf x.home x.entry e, vts.foldl max v, x.loss, mine⟩
    else none

/-- The enabled events at a point. -/
def enabledEvents (s : State) (all lanes : List Lane) (t : List SeqEvent) : List SeqEnabled :=
  let names := (lanes.flatMap fun l => ((l.rest.head?).map SeqOffer.events).getD []).map fun x => (x.home, x.entry)
  names.eraseDups.filterMap fun x => s.enabledAt? all lanes (seqEvent t x.1 x.2)

/-- An enabled event occurs: its loss count returns to 0, and those that share a participant with it lose (R95). -/
def seqOccur (x : SeqEnabled) (en : List SeqEnabled) (t : List SeqEvent) : List SeqEvent :=
  let t1 := en.foldl (fun t y =>
    if (y.home != x.home || y.entry != x.entry) && shareLane x y then
      let v := seqEvent t y.home y.entry
      putSeqEvent { v with loss := min 15 (v.loss + 1) } t
    else t) t
  let v := seqEvent t1 x.home x.entry
  putSeqEvent { v with loss := 0, used := v.used + 1 } t1

/-- The resolution from a point on, for one event f. At each point the first of the enabled events occurs whose offers have
all closed on it or still stand; f is late when it precedes that one and an offer of it has closed on another. -/
def resolveFrom (s : State) (all : List Lane) (home entry : Nat) : Nat → List Lane → List SeqEvent → SeqLook
  | 0, _, t => ⟨(seqEvent t home entry).loss, [], [], false⟩
  | n + 1, lanes, t =>
    let en := s.enabledEvents all lanes t
    let pick := firstEnabled (en.filter fun x => x.lanes.all fun l => !l.isClosed || l.closedOn x.home x.entry)
    let mine := en.find? fun x => x.home == home && x.entry == entry
    let closed := ((mine.map SeqEnabled.lanes).getD []).filter fun l => l.isClosed && !l.closedOn home entry
    let late := !closed.isEmpty && match mine, pick with
      | some f, some x => f.before x
      | some _, none => true
      | none, _ => false
    match late, mine, pick with
    | true, some f, _ =>
      ⟨f.loss, f.lanes.filterMap fun l => (l.offers? home entry).map fun v => (l.rank, v), closed.map fun l => (l.tid, f.vt, f.loss), false⟩
    | _, _, none => ⟨(seqEvent t home entry).loss, [], [], false⟩
    | _, _, some x =>
      let virtual := x.lanes.all fun l => !l.isClosed
      if virtual && x.home == home && x.entry == entry then ⟨x.loss, [], [], false⟩
      else if virtual && (mine.map (shareLane x)).getD false then ⟨(seqEvent t home entry).loss, [], [], true⟩
      else
        let lanes' := lanes.map fun l => if x.lanes.any (fun m => m.proc == l.proc) then l.next else l
        resolveFrom s all home entry n lanes' (seqOccur x en t)

/-- What the sequential resolution says of an event. -/
def lookAt (s : State) (home entry : Nat) : SeqLook :=
  let lanes := s.lanesOf (s.entry home entry).launch
  s.resolveFrom lanes home entry (lanes.foldl (fun n l => n + l.rest.length) 1) lanes []

end State

end Sys2Proof.Machine
end

