-- ==== Sys2Proof/Machine/Resolution.lean ====
section
/-!
DEFINITION. How the home of an event resolves it (05_events R83 to R85, 06_virtual_time R95, R99): it begins when it
holds a header of every participant, claims the slots in ascending rank, and commits or aborts. A timed home that finds
its event late sends straggler claims instead.
-/

namespace Sys2Proof.Machine

/-- A header that the home holds of a rank. -/
def headerOf (e : ArbEntry) (rank : Nat) : Option Header := e.headers.find? fun h => h.rank == rank

/-- The home holds a header of every participant (R83). -/
def allHeaders (e : ArbEntry) : Bool := e.desc.parties.all fun p => (headerOf e p.1).isSome

/-- An engine's or port's standing offer is there, for the kinds that need one (R90, R91). -/
def standingReady (e : ArbEntry) : Bool := decide (e.desc.kind < 3) || !e.standing.isEmpty

/-- VT of the first standing offer, 0 without one. -/
def standingVt (e : ArbEntry) : Nat := ((e.standing.head?).map Standing.vt).getD 0

/-- The occurrence VT: the greatest offer VT (R94). -/
def occurrenceVt (e : ArbEntry) : Nat := e.headers.foldl (fun m h => max m h.vt) (standingVt e)

namespace State

/-- A home sends the claim of a resolution to the first rank that waits (R83). -/
def sendClaim (s : State) (pcn idx number : Nat) (waiting : List Nat) : State :=
  let e := s.entry pcn idx
  match waiting with
  | [] => s
  | rank :: _ =>
    match e.desc.parties.find? fun p => p.1 == rank with
    | none => s
    | some p =>
      s.postEvent .request pcn (coreOfTid p.2.1) e.launch e.desc.timed (occurrenceVt e)
        (.claim p.2.1 ⟨pcn, idx, e.gen, e.loss, number, ((headerOf e rank).map Header.serial).getD 0⟩)

/-- Timed events commit only before wrap-up begins (R108 step 1). -/
def mayCommit (s : State) (e : ArbEntry) : Bool :=
  !e.desc.timed || match s.launch? e.launch with
    | some l => l.phase == .running
    | none => false

/-- The home has the header of each offer that its event would take: it stands, or it has been withdrawn (R99). -/
def allArrived (e : ArbEntry) (needs : List (Nat × Nat)) : Bool :=
  needs.all fun x => (e.headers ++ e.shadows).any fun h => h.rank == x.1 && h.vt == x.2

/-- An event of a process that has rolled back may wait for an enabled one that precedes it, so that two equal rollbacks do not
repeat for ever. R99 does not say how the device keeps them from it: whether it waits is free (notes/assumptions/23.md). -/
def holdsBack (s : State) (e : ArbEntry) : Bool :=
  Config.heldBack s.fresh && e.desc.parties.any fun p => (s.proc (s.ctx p.2.1).proc).careful

/-! ### The bound of seven losses (R85) -/

/-- The slot of a context stands, and offers an event. -/
def slotOffers (s : State) (tid pcn idx gen : Nat) : Bool :=
  let o := (s.ctx tid).offer
  (match o.state with | .opened | .locked _ _ _ => true | .closed | .committed _ => false) &&
    o.entries.any fun x => x.home == pcn && x.entry == idx && x.gen == gen && !x.gone

/-- Every participant of an event offers it. -/
def allOffer (s : State) (pcn idx : Nat) : Bool :=
  let e := s.entry pcn idx
  e.state == .live && !e.desc.timed && e.desc.parties.all fun p => s.slotOffers p.2.1 pcn idx e.gen

/-- Two events share a participant. -/
def shareParty (e f : ArbEntry) : Bool := e.desc.parties.any fun p => f.desc.parties.any fun q => q.2.1 == p.2.1

/-- Resolutions that an event may still lose to those that are under way: other events in resolution that share a participant, and
refusals and withdrawals on their way to it. -/
def comingLosses (s : State) (pcn idx : Nat) : Nat :=
  let e := s.entry pcn idx
  let others := s.cores.flatMap fun k => (k.2.arb.filter fun x =>
    !(k.1 == pcn && x.1 == idx) && x.2.resolution != .idle && shareParty e x.2).map Prod.fst
  let coming := s.net.filter fun p => p.dst == pcn && match p.body with
    | .refuse i g _ _ => i == idx && g == e.gen
    | .withdraw i g _ _ _ .commit => i == idx && g == e.gen
    | _ => false
  others.length + coming.length

/-- The prompt events that a participant's slot offers beside one, that all their participants offer: the losses that each has had or
may still have, its own count, and its place. -/
def rivals (s : State) (pcn idx tid : Nat) : List (Nat × Nat × Nat × Nat) :=
  (((s.ctx tid).offer.entries.filter fun x =>
    !x.gone && !(x.home == pcn && x.entry == idx) && s.allOffer x.home x.entry).map fun x =>
      ((s.entry x.home x.entry).loss + s.comingLosses x.home x.entry, (s.entry x.home x.entry).loss, x.home, x.entry))

/-- After one more loss of each, events with these losses can still all occur within seven: for each k, at most k of them have to
occur within k occurrences. -/
def withinSeven (losses : List Nat) : Bool :=
  (List.range 8).all fun k => decide ((losses.filter fun n => decide (7 < n + 1 + k)).length ≤ k)

/-- A prompt event may begin its resolution without taking from another the seven losses that R85 grants. DESIGN CHOICE: R85 gives the
bound and no means to keep it; here a home waits as long as an event that all its participants offer would come to lose more, unless
its own event has lost most (notes/assumptions/66.md). -/
def keepsBound (s : State) (pcn idx : Nat) (e : ArbEntry) : Bool :=
  let rs := e.desc.parties.map fun p => s.rivals pcn idx p.2.1
  rs.all (fun r => withinSeven (r.map Prod.fst)) ||
    rs.all fun r => r.all fun x => decide (x.2.1 < e.loss) || (x.2.1 == e.loss && decide (pcn * 256 + idx < x.2.2.1 * 256 + x.2.2.2))

/-- A resolution begins: the first claim leaves (R83). -/
def beginResolution (s : State) (pcn idx : Nat) (e : ArbEntry) : State :=
  let ranks := e.desc.parties.map Prod.fst
  (s.setEntry pcn idx { e with resolution := .claiming e.nextNumber [] ranks false, nextNumber := e.nextNumber + 1 }).sendClaim
    pcn idx e.nextNumber ranks

/-- A home looks at an entry: straggler claims, or a resolution that begins, or nothing (R83, R99). The loss count of a timed
event is that of the sequential resolution (R95). -/
def tryResolve (s : State) (pcn idx : Nat) : State :=
  let e := s.entry pcn idx
  if e.state ≠ .live || e.resolution ≠ .idle || !s.mayCommit e then s
  else if !e.desc.timed then
    if allHeaders e && standingReady e && s.keepsBound pcn idx e then s.beginResolution pcn idx e else s
  else if !(e.desc.parties.all fun p => (e.headers ++ e.shadows).any fun h => h.rank == p.1) then s
  else
    let look := s.lookAt pcn idx
    let s1 := s.setEntry pcn idx { e with loss := look.loss }
    if !look.stragglers.isEmpty && allArrived e look.needs then
      look.stragglers.foldl (fun t x =>
        t.postEvent .request pcn (coreOfTid x.1) e.launch true x.2.1
          (.straggler x.1 pcn idx e.gen x.2.1 x.2.2 (s.handleOf pcn idx e))) s1
    else if allHeaders e && standingReady e && !(look.held && s.holdsBack e) then
      s1.beginResolution pcn idx { e with loss := look.loss }
    else { s1 with fresh := s1.fresh + 1 }

/-- Every rank of a list is told, in a reply to its context. -/
def tellRanks (s : State) (pcn : Nat) (e : ArbEntry) (ranks : List Nat) (body : Nat → Body) : State :=
  (e.desc.parties.filter fun p => ranks.contains p.1).foldl (fun t p =>
    t.post .reply pcn (coreOfTid p.2.1) (s.launchColour e.launch) (body p.2.1)) s

/-- The loss count after one more loss: it saturates at 15 (R85). -/
def lossPlus (n : Nat) : Nat := min 15 (n + 1)

/-- The loss count of an event after it has lost a resolution (R85); that of a timed event is the sequential resolution's
(R95). -/
def lossOf (e : ArbEntry) : Nat := if e.desc.timed then e.loss else lossPlus e.loss

/-- An event aborts (R83): the slots it holds are released, and its loss is counted once for the resolution (R85). The header of the
participant that refused has been withdrawn before the refusal (R342); with a fresh one in its place the home begins anew. -/
def abortEvent (s : State) (pcn idx : Nat) : State :=
  let e := s.entry pcn idx
  match e.resolution with
  | .claiming number granted _ counted =>
    let e' := { e with
      resolution := .idle
      loss := if counted then e.loss else lossOf e }
    ((s.setEntry pcn idx e').tellRanks pcn e granted fun tid => .release tid pcn idx e.gen number).tryResolve pcn idx
  | _ => s

/-- An event commits (R83): every claim has been granted. The loss count returns to 0 (R85), and each slot is told. -/
def commitEvent (s : State) (pcn idx number : Nat) : State :=
  let e := s.entry pcn idx
  let vt := if e.desc.timed then occurrenceVt e else 0
  let ranks := e.desc.parties.map Prod.fst
  let occ : Occurrence := ⟨number, vt, e.loss, e.headers, e.standing.head?, [], [], 0⟩
  let e' := { e with
    resolution := .moving, loss := 0, headers := [], standing := e.standing.drop 1, current := some occ }
  (s.setEntry pcn idx e').tellRanks pcn e ranks fun tid => .commit tid pcn idx e.gen vt number

end State

end Sys2Proof.Machine
end

