-- ==== Sys2Proof/Machine/Ingress.lean ====
section
/-!
DEFINITION. Ingress to events (22_host_security R354, R355; 05_events R91): the bindings of a region's tags, the floors of
their flows, the ingress buffer, and the port's offers.
-/

namespace Sys2Proof.Machine

/-- The floor of a flow, 1 when it has raised none (R355). -/
def Binding.floorOf (b : Binding) (flow : Nat) : Nat := tableGet 1 flow b.floors

/-- A binding with a flow's floor raised to a value; a lower one is ignored (R355). From its first message on a flow stands in the
table, with the floor 1 until it raises it. -/
def Binding.raiseFloor (b : Binding) (flow floor : Nat) : Binding :=
  { b with floors := tablePut flow (max (b.floorOf flow) floor) b.floors }

/-- Bytes that a message takes of the ingress buffer (R354). -/
def heldBytes (m : HeldIngress) : Nat := 32 + m.body.length

/-- Capacity of a region's ingress buffer (R354). -/
def ingressCapacity : Nat := 262144

namespace State

/-- What leaves for the outside. -/
def emit (s : State) (o : UetOut) : State := { s with uetOut := s.uetOut ++ [o] }

/-- Ingress messages of a region that wait for a binding. -/
def heldIn (s : State) (region : Nat) : List HeldIngress := tableGet [] region s.ingress

/-- A binding of a region replaced. -/
def putBinding (s : State) (region : Nat) (b : Binding) : State :=
  { s with bindings := tablePut region ((bindingsOf s region).map fun x => if x.tag = b.tag then b else x) s.bindings }

/-- An ingress message is dropped, counted in IGDROP, and answered with an error (R354). -/
def dropIngress (s : State) (flow : Nat) : State := { s with igdrop := s.igdrop + 1 }.emit (.error flow)

/-- A message on a bound tag (R354, R355): its floor is applied; a kind 2 message of the right length whose VT is not below
the floor as it stood is offered at the event's home (R91). -/
def applyIngress (s : State) (region : Nat) (b : Binding) (m : HeldIngress) : State :=
  let e := s.entry b.home b.entry
  let timed := e.desc.timed
  let s1 := if timed then s.putBinding region (b.raiseFloor m.flow m.floor) else s
  if m.kind = 4 then s1.emit (.ack m.flow)
  else if m.body.length ≠ e.desc.size then s1.dropIngress m.flow
  else if timed && m.vt < b.floorOf m.flow then { s1 with iglate := s1.iglate + 1 }.emit (.error m.flow)
  else
    let vt := if timed then m.vt else 0
    ((s1.setEntry b.home b.entry { e with standing := e.standing ++ [⟨m.body, vt, none⟩] }).emit (.ack m.flow)).tryResolve
      b.home b.entry

/-- A message waits in the region's ingress buffer (R354). -/
def holdIngress (s : State) (region : Nat) (m : HeldIngress) : State :=
  { s with ingress := tablePut region (s.heldIn region ++ [m]) s.ingress }

/-- The region's ingress buffer is full: it has no room for a message (R354). -/
def ingressFull (s : State) (region : Nat) (m : HeldIngress) : Bool :=
  decide (ingressCapacity < (s.heldIn region).foldl (fun t x => t + heldBytes x) 0 + heldBytes m)

/-- A launch's wrap-up point has come (R108). -/
def pastWrapUp (l : Launch) : Bool :=
  match l.phase with
  | .stopping | .wrapped | .ended => true
  | .admitted | .chosen | .loaded | .running => false

/-- The launch of a binding's event has reached its wrap-up point: its messages stay in the buffer (R381). -/
def bindingPast (s : State) (b : Binding) : Bool := ((s.launch? (s.entry b.home b.entry).launch).map pastWrapUp).getD true

/-- A kind 2 or kind 4 message (R354): held back by flow control while the region's buffer is full, else applied when its tag is
bound, else held. While the region's colour group is out or frozen, or an earlier message of the tag is held, it waits behind
(R322); after the launch's wrap-up point it stays (R381). -/
def takeIngress (s : State) (region : Nat) (m : HeldIngress) : State :=
  if s.ingressFull region m then s.emit (.nack m.flow) else
  match (bindingsOf s region).find? fun b => b.tag == m.tag with
  | some b =>
    if s.colourRuns (some (s.colourOf region)) && !s.bindingPast b && !(s.heldIn region).any (fun x => x.tag == m.tag) then
      s.applyIngress region b m
    else s.holdIngress region m
  | none => s.holdIngress region m

/-- The messages held for the bound tags of a region are applied in order (R322, R354), but for those of launches past their
wrap-up point (R381). -/
def applyHeld (s : State) (region : Nat) : State :=
  let bound (m : HeldIngress) : Bool := (bindingsOf s region).any fun b => b.tag == m.tag && !s.bindingPast b
  let mine := (s.heldIn region).filter bound
  let s1 : State := { s with ingress := tablePut region ((s.heldIn region).filter fun m => !bound m) s.ingress }
  mine.foldl (fun t m =>
    match (bindingsOf t region).find? fun b => b.tag == m.tag with
    | some b => t.applyIngress region b m
    | none => t) s1

/-- A tag is bound to a new event, and the messages held for it are applied in order (R354). -/
def bindTag (s : State) (region tag home idx gen : Nat) : State :=
  let b : Binding := ⟨tag, home, idx, gen, []⟩
  { s with bindings := tablePut region (bindingsOf s region ++ [b]) s.bindings }.applyHeld region

/-- The messages held for a tag are dropped and counted (R381). -/
def dropHeld (s : State) (region tag : Nat) : State :=
  let s1 : State := { s with ingress := tablePut region ((s.heldIn region).filter fun m => m.tag != tag) s.ingress }
  ((s.heldIn region).filter fun m => m.tag == tag).foldl (fun t m => t.dropIngress m.flow) s1

/-- The binding of an event that is freed goes (R354), and with it the messages that came after the launch's wrap-up point
(R381). -/
def unbindEvent (s : State) (region home idx : Nat) : State :=
  let gone := (bindingsOf s region).filter fun b => b.home == home && b.entry == idx
  let s1 : State :=
    { s with bindings := tablePut region ((bindingsOf s region).filter fun b => b.home != home || b.entry != idx) s.bindings }
  gone.foldl (fun t b => if s.bindingPast b then t.dropHeld region b.tag else t) s1

end State

end Sys2Proof.Machine
end

