-- ==== Sys2Proof/Machine/Batches.lean ====
section
/-!
DEFINITION. Batches of jobs and their completion events (12_isa_engines R230 to R232), and the late traps of a thread
wherever it is.
-/

namespace Sys2Proof.Machine

/-- The status record of a batch (R231). -/
def statusRecord (b : Batch) : List Byte :=
  bytesOfNat 4 b.lastJob.toNat ++ bytesOfNat 2 b.status ++ bytesOfNat 1 b.raised.toNat ++
    bytesOfNat 1 (if b.passed && !b.timed then 1 else 0) ++ bytesOfNat 4 b.fill ++
    bytesOfNat 4 (if b.timed then 0 else b.time)

namespace State

/-- The slot that stays a thread's own wherever it runs (R42). -/
def threadOf (s : State) (tid : Nat) : Nat := if (s.ctx tid).away then (s.ctx tid).home else tid

/-- A change of the late traps of the threads that a test on their home slot and process selects, wherever they run or travel: the
fields `late` and `faults` go with them. -/
def modLates (s : State) (sel : Nat → Nat → Bool) (f : List LateTrap × List JobFault → List LateTrap × List JobFault) : State :=
  let inEmber (e : Ember) : Ember :=
    if sel e.home e.proc then { e with late := (f (e.late, e.faults)).1, faults := (f (e.late, e.faults)).2 } else e
  { s with
    ctxs := tableMap (fun tid c =>
      if sel (if c.away then c.home else tid) c.proc && c.status != .empty && c.status != .reserved then
        { c with late := (f (c.late, c.faults)).1, faults := (f (c.late, c.faults)).2 }
      else c) s.ctxs
    cores := tableMap (fun _ k =>
      { k with embers := k.embers.map inEmber, spill := k.spill.map inEmber, waiting := k.waiting.map inEmber }) s.cores
    net := s.net.map fun p => match p.body with
      | .ember e => { p with body := .ember (inEmber e) }
      | _ => p }

/-- A change of the late traps of one thread. -/
def modLate (s : State) (thread proc : Nat) (f : List LateTrap × List JobFault → List LateTrap × List JobFault) : State :=
  s.modLates (fun t p => t == thread && p == proc) f

/-- A job's fault as the late trap that it becomes. -/
def lateOfFault (f : JobFault) : LateTrap := ⟨f.cause, f.job, f.order, f.core, f.ckseq⟩

/-- The cause of a job's end with a status (R232). -/
def causeOfStatus (status : Nat) : Nat := if status = 2 then causeCopyFailed else causeEngineFault

/-- A job that ended with status 2, 3 or 4 arrives as a late fault at its thread (R232): at once when its batch names no
live event, else when an occurrence carries it. -/
def raiseJobFault (s : State) (j : Job) (status : Nat) : State :=
  let live := j.handle ≠ 0 && (s.liveFor? j.launch j.handle.toNat).isSome
  s.modLate j.thread j.proc fun x =>
    if live then (x.1, x.2 ++ [⟨causeOfStatus status, j.id, coreOfTid j.tid, j.handle, j.batch.getD 0, j.order, j.ckseq, false⟩])
    else (x.1 ++ [⟨causeOfStatus status, j.id, j.order, coreOfTid j.tid, j.ckseq⟩], x.2)

/-- A batch is offered (R230, R90): a standing offer at the home of its event, if that is live. -/
def offerBatch (s : State) (b : Batch) : State :=
  match s.liveFor? (s.proc b.proc).launch b.handle.toNat with
  | none => s
  | some (pcn, idx, _) =>
    let e := s.entry pcn idx
    let payload := if e.desc.size = 16 then statusRecord b else []
    (s.setEntry pcn idx { e with standing := e.standing ++ [⟨payload, b.lvt, some ⟨b.proc, b.ckseq, b.number⟩⟩] }).tryResolve pcn idx

/-- The batches of a cluster that may be offered, in the order in which they closed, and those that stay: a batch waits for
an earlier closed one that names its event (R230). -/
def readyBatches : List Batch → List (BitVec 32) → List Batch × List Batch
  | [], _ => ([], [])
  | b :: t, blocked =>
    if b.closed && b.pending == 0 && !blocked.contains b.handle then
      let r := readyBatches t blocked
      (b :: r.1, r.2)
    else
      let r := readyBatches t (if b.closed then b.handle :: blocked else blocked)
      (r.1, b :: r.2)

/-- The closed batches of a cluster whose jobs have completed are offered. -/
def offerBatches (s : State) (cl : Nat) : State :=
  let r := readyBatches (s.cluster cl).batches []
  r.1.foldl offerBatch (s.modCluster cl fun c => { c with batches := r.2 })

/-- The open batches of a thread that a test selects are closed: they go to the end of their cluster's list. -/
def closeOn (s : State) (cl : Nat) (sel : Batch → Bool) : State :=
  let open' (b : Batch) : Bool := !b.closed && sel b
  let bs := (s.cluster cl).batches
  if bs.any open' then
    (s.modCluster cl fun c =>
      { c with batches := (bs.filter fun b => !open' b) ++ (bs.filter open').map fun b => { b with closed := true } }).offerBatches
        cl
  else s

/-- Every open batch of a thread closes: at an offer, at its end, at its diversion (R230). -/
def closeBatches (s : State) (thread : Nat) : State :=
  (s.clusters.map Prod.fst).foldl (fun t cl => t.closeOn cl fun b => b.thread == thread) s

end State

end Sys2Proof.Machine
end

