-- ==== Sys2Proof/Machine/LoadStore.lean ====
section
/-!
DEFINITION. Loads, stores, sub-byte stores and accumulate atomics (10_isa_scalar R186 to R197), and the Issue, Travel
and Perform of the ordering machine (04_memory_order R57 to R64). A load or store only issues its access: the access
travels to its bank and is performed there by steps of its own.
-/

namespace Sys2Proof.Machine

/-! ## Issue -/

/-- A part of an access at an address that has passed its checks. -/
def partAt (here : Nat) (ea : Word) (n data off : Nat) : Part :=
  let t := decodeAddr ea
  let self := match t with | .self _ => true | _ => false
  let ctl := match t with | .control _ => true | _ => false
  ⟨t.key here, n, data, off, !self && !ctl, false⟩

/-- An access enters the relaxed buffer and the thread continues, or waits when the buffer holds 8; or it enters the
issue port and the thread waits (R58). -/
def State.issue (s : State) (i : Instr) (kind : AccessKind) (parts : List Part) (relaxed : Bool) : Res :=
  let c := s.me
  let acc : Access := ⟨c.nextSerial, kind, relaxed, parts, []⟩
  if relaxed then
    if 8 ≤ c.relaxed.length + c.relaxedMsgs.length then .next (s.holdWith i .room)
    else .next (s.setMe { c with relaxed := c.relaxed ++ [acc], nextSerial := c.nextSerial + 1 }.advance)
  else
    .next (s.setMe { c.advance with port := some acc, nextSerial := c.nextSerial + 1, wait := .access
                                    status := .waiting })

/-- The checks of a load or store of n bytes: R52, then R189 and R292 for control space. -/
def State.checkScalar (s : State) (ea : Word) (n : Nat) (plain : Bool) : Option Nat :=
  match s.checkAccess s.cur ea n with
  | some c => some c
  | none =>
    match decodeAddr ea with
    | .control a => if n = 8 ∧ plain ∧ s.controlAssigned a then none else some causeUnmapped
    | _ => none

/-- The window an address names belongs to another core (R187). -/
def State.foreign (s : State) (ea : Word) : Bool :=
  match (decodeAddr ea).owner? s.here with
  | some pcn => pcn != s.here
  | none => false

/-- The line of this core's local store that an address names, if it names one (R187, R190). -/
def State.ownLine? (s : State) (ea : Word) : Option Nat :=
  match decodeAddr ea with
  | .self off => some (off / 16 * 16)
  | .localStore pcn off => if pcn = s.here then some (off / 16 * 16) else none
  | _ => none

/-- A load of n bytes (R187). -/
def State.load (s : State) (i : Instr) (kind : AccessKind) (n : Nat) (ea : Word) : Res :=
  match s.checkScalar ea n true with
  | some c => s.trapAccess c ea
  | none => s.issue i kind [partAt s.here ea n 0 0] s.me.pfx.rlx

/-- A store of n bytes (R187): in a timed process only to its own core, and journaled there. -/
def State.store (s : State) (i : Instr) (n data : Nat) (ea : Word) : Res :=
  match s.checkScalar ea n true with
  | some c => s.trapAccess c ea
  | none =>
    if s.isTimed s.cur && s.foreign ea then s.trapAccess causeTimed ea
    else
      let lines := if s.isTimed s.cur then (s.ownLine? ea).toList else []
      match s.journalAll s.cur lines with
      | none => .next (s.holdWith i .journal)
      | some s' => s'.issue i .store [partAt s.here ea n data 0] s.me.pfx.rlx

/-- `ld.b`: 1 byte, sign-extended (R186). -/
def execLdB (d a : GReg) (i : BitVec 16) (s : State) : Res := s.load (.ldB d a i) (.load d true) 1 (s.address a i)

/-- `ld.bu`: 1 byte, zero-extended (R186). -/
def execLdBu (d a : GReg) (i : BitVec 16) (s : State) : Res := s.load (.ldBu d a i) (.load d false) 1 (s.address a i)

/-- `ld.h`: 2 bytes, sign-extended (R186). -/
def execLdH (d a : GReg) (i : BitVec 16) (s : State) : Res := s.load (.ldH d a i) (.load d true) 2 (s.address a i)

/-- `ld.hu`: 2 bytes, zero-extended (R186). -/
def execLdHu (d a : GReg) (i : BitVec 16) (s : State) : Res := s.load (.ldHu d a i) (.load d false) 2 (s.address a i)

/-- `ld.w`: 4 bytes, sign-extended (R186). -/
def execLdW (d a : GReg) (i : BitVec 16) (s : State) : Res := s.load (.ldW d a i) (.load d true) 4 (s.address a i)

/-- `ld.wu`: 4 bytes, zero-extended (R186). -/
def execLdWu (d a : GReg) (i : BitVec 16) (s : State) : Res := s.load (.ldWu d a i) (.load d false) 4 (s.address a i)

/-- `ld.d`: 8 bytes (R186). -/
def execLdD (d a : GReg) (i : BitVec 16) (s : State) : Res := s.load (.ldD d a i) (.load d false) 8 (s.address a i)

/-- `ld.q`: 16 bytes into g[d] and g[d+1] (R186). -/
def execLdQ (d a : GReg) (i : BitVec 16) (s : State) : Res := s.load (.ldQ d a i) (.loadPair d) 16 (s.address a i)

/-- `st.b`: g[d]<7:0> (R186). -/
def execStB (d a : GReg) (i : BitVec 16) (s : State) : Res := s.store (.stB d a i) 1 (s.g d).toNat (s.address a i)

/-- `st.h`: g[d]<15:0> (R186). -/
def execStH (d a : GReg) (i : BitVec 16) (s : State) : Res := s.store (.stH d a i) 2 (s.g d).toNat (s.address a i)

/-- `st.w`: g[d]<31:0> (R186). -/
def execStW (d a : GReg) (i : BitVec 16) (s : State) : Res := s.store (.stW d a i) 4 (s.g d).toNat (s.address a i)

/-- `st.d`: g[d] (R186). -/
def execStD (d a : GReg) (i : BitVec 16) (s : State) : Res := s.store (.stD d a i) 8 (s.g d).toNat (s.address a i)

/-- `st.q`: g[d+1] : g[d], with g[d] in bytes 0 to 7 (R186). -/
def execStQ (d a : GReg) (i : BitVec 16) (s : State) : Res :=
  s.store (.stQ d a i) 16 ((s.g d).toNat + (s.g (d + 1)).toNat * 2 ^ 64) (s.address a i)

/-- The byte after an address lies in the same window of the same core (R193). -/
def nextInWindow (ea : Word) : Bool :=
  match decodeAddr ea, decodeAddr (ea + 1) with
  | .self _, .self _ => true
  | .localStore p _, .localStore q _ => p == q
  | .accumulator p _, .accumulator q _ => p == q
  | .vector p _, .vector q _ => p == q
  | _, _ => false

/-- A sub-byte store of k bits at bit q (R193). -/
def State.subByte (s : State) (i : Instr) (q k : Nat) (d a : GReg) : Res :=
  let ea := s.g a
  let two := decide (8 < q + k)
  match s.checkScalar ea 1 false with
  | some c => s.trapAccess c ea
  | none =>
    if two && !nextInWindow ea then s.trapAccess causeMisaligned ea
    else if s.isTimed s.cur && s.foreign ea then s.trapAccess causeTimed ea
    else
      let lines := if s.isTimed s.cur then
          (s.ownLine? ea).toList ++ (if two then (s.ownLine? (ea + 1)).toList else [])
        else []
      match s.journalAll s.cur lines with
      | none => .next (s.holdWith i .journal)
      | some s' =>
        s'.issue i (.subByte q k) [partAt s.here ea (if two then 2 else 1) ((s.g d).toNat % 2 ^ k) 0] s.me.pfx.rlx

/-- `st.x4`: g[d]<3:0> at bit 0 or 4 (R192, R193). -/
def execStX4 (d a : GReg) (q : Bool) (s : State) : Res := s.subByte (.stX4 d a q) (if q then 4 else 0) 4 d a

/-- `st.x6`: g[d]<5:0> at bit q, which may reach into the next byte (R192, R193). -/
def execStX6 (d a : GReg) (q : Fin 8) (s : State) : Res := s.subByte (.stX6 d a q) q.val 6 d a

/-- Bytes of an accumulate atomic (R195). -/
def AWidth.bytes : AWidth → Nat
  | .word => 4
  | .dword => 8

/-- An accumulate atomic (R196): it always enters the relaxed buffer; a timed process traps. -/
def State.atomic (s : State) (i : Instr) (f : Nat) (d a : GReg) (w : AWidth) : Res :=
  let ea := s.g a
  let n := AWidth.bytes w
  match s.checkScalar ea n false with
  | some c => s.trapAccess c ea
  | none =>
    if s.isTimed s.cur then s.trapAccess causeTimed ea
    else s.issue i (.atomic f) [partAt s.here ea n ((s.g d).toNat % 2 ^ (8 * n)) 0] true

/-- `aadd` (R195). -/
def execAadd (d a : GReg) (w : AWidth) (s : State) : Res := s.atomic (.aadd d a w) 0 d a w
/-- `amin`, signed (R195). -/
def execAmin (d a : GReg) (w : AWidth) (s : State) : Res := s.atomic (.amin d a w) 1 d a w
/-- `amax`, signed (R195). -/
def execAmax (d a : GReg) (w : AWidth) (s : State) : Res := s.atomic (.amax d a w) 2 d a w
/-- `aminu` (R195). -/
def execAminu (d a : GReg) (w : AWidth) (s : State) : Res := s.atomic (.aminu d a w) 3 d a w
/-- `amaxu` (R195). -/
def execAmaxu (d a : GReg) (w : AWidth) (s : State) : Res := s.atomic (.amaxu d a w) 4 d a w
/-- `aand` (R195). -/
def execAand (d a : GReg) (w : AWidth) (s : State) : Res := s.atomic (.aand d a w) 5 d a w
/-- `aor` (R195). -/
def execAor (d a : GReg) (w : AWidth) (s : State) : Res := s.atomic (.aor d a w) 6 d a w
/-- `axor` (R195). -/
def execAxor (d a : GReg) (w : AWidth) (s : State) : Res := s.atomic (.axor d a w) 7 d a w

/-! ## Travel -/

/-- The accesses of a context in program order: the relaxed buffer, then the issue port. -/
def accessesOf (c : Ctx) : List Access := c.relaxed ++ c.port.toList

/-- The lines a part addresses (R57, R194). -/
def partLines (p : Part) : List Nat := if p.addr / 16 = (p.addr + p.size - 1) / 16 then [p.addr / 16] else
  [p.addr / 16, (p.addr + p.size - 1) / 16]

/-- The banks a part addresses. -/
def partBanks (p : Part) : List Nat :=
  let b := bankOf p.addr
  let b' := bankOf (p.addr + p.size - 1)
  if b = b' then [b] else [b, b']

/-- Parts are read one after the other (R225, R252). -/
def AccessKind.sequential : AccessKind → Bool
  | .config _ | .descriptor _ _ => true
  | _ => false

/-- Part k of an access may travel: it stands in no queue, no earlier access of the thread to one of its lines remains
in the relaxed buffer, and no earlier part of its own to such a line has still to travel (R58, R217). -/
def mayTravel (c : Ctx) (acc : Access) (k : Nat) : Bool :=
  match acc.parts[k]? with
  | none => false
  | some p =>
    let clash (q : Part) : Bool := (partLines q).any (partLines p).contains
    let earlier := c.relaxed.filter fun x => decide (x.serial < acc.serial)
    !p.queued && !(earlier.any fun x => x.parts.any clash) &&
      !((acc.parts.take k).any fun q => clash q && !q.queued) && (!acc.kind.sequential || k == 0)

/-- An access of a context replaced, or taken away when it has no parts left. -/
def putAccess (c : Ctx) (acc : Access) : Ctx :=
  if acc.relaxed then
    { c with relaxed := c.relaxed.filterMap fun x =>
        if x.serial = acc.serial then (if acc.parts.isEmpty then none else some acc) else some x }
  else { c with port := if acc.parts.isEmpty then none else some acc }

/-- The core whose handler a windowed part goes through. -/
def ownerOfKey (key : Nat) : Nat :=
  if key < 0x200000000 then (key - 0x100000000) / 2 ^ 17
  else if key < 0x300000000 then (key - 0x200000000) / 2 ^ 13
  else (key - 0x300000000) / 2 ^ 13

/-- The core that a remote access is sent to: the owner of a window, or of a control page (R50, R292). Device registers have
none. -/
def requestOwner? (p : Part) : Option Nat :=
  if p.window then some (ownerOfKey p.addr)
  else if 0x400000000 ≤ p.addr ∧ p.addr < 0x408000000 then some (p.addr / 2 ^ 15 % 2 ^ 12)
  else none

/-- A part enters the arrival queue of each bank that it addresses (R58, R194). -/
def State.enqueuePart (s : State) (q : QueuedPart) (p : Part) : State :=
  (partBanks p).foldl (fun t b => t.setBank b (t.bank b ++ [q])) s

/-- The part of an access of a context that an entry of a queue stands for: the access, the part's index, and the part. -/
def State.queuedPart? (s : State) (tid serial addr off : Nat) : Option (Access × Nat × Part) :=
  ((accessesOf (s.ctx tid)).find? fun a => a.serial == serial).bind fun acc =>
    let k := acc.parts.findIdx fun p => p.queued && p.addr == addr && p.off == off
    (acc.parts[k]?).map fun p => (acc, k, p)

/-- Room in a handler's queue (R50). -/
def State.handlerRoom (s : State) (pcn : Nat) : Bool := decide ((s.core pcn).handler.length < 32)

/-- The firewall of a system core drops a request of a user core (R295). -/
def State.firewallDrops (s : State) (src dst : Nat) (bit : Nat) : Bool :=
  s.isSystem dst && !s.isSystem src && !(s.core dst).fwctl.getLsbD bit

/-- A counter that saturates at 0xFFFF_FFFF (R292). -/
def bump (n : Nat) : Nat := if n < 0xFFFFFFFF then n + 1 else n

/-- The relaxed buffer of a context has become empty: a trap that waits for that is entered in the same action (R288). -/
def State.drainTrap (s : State) (tid : Nat) : State :=
  match (s.ctx tid).trapping with
  | some t => if (s.ctx tid).wait = .drain && State.bufferEmpty (s.ctx tid) then s.takeTrapAt tid t else s
  | none => s

/-- A dropped request is answered with a refusal: the access ends with carrier-fault (R295). -/
def State.dropRequest (s : State) (tid dst : Nat) (acc : Access) : State :=
  let s1 := s.modCore dst fun k => { k with fwdrop := bump k.fwdrop }
  let c := putAccess (s1.ctx tid) { acc with parts := [] }
  if acc.relaxed then (s1.setCtx tid { c with msgFaults := c.msgFaults ++ [(acc.serial, 0)] }).drainTrap tid
  else
    (s1.setCtx tid { c with wait := .none, status := .ready }).takeTrapAt tid ⟨causeCarrier, false, c.pc, 0, 0⟩

/-- Part k of an access of a context travels (R58): to its bank's arrival queue, or, when it goes through a window, to its
owner's handler queue, which must have room and whose handler appends it to the bank's queue (R50). -/
def State.travel (s : State) (tid k : Nat) (acc : Access) : State :=
  let c := s.ctx tid
  match (if mayTravel c acc k then acc.parts[k]? else none) with
  | none => s
  | some p =>
    let owner := (requestOwner? p).getD (coreOfTid tid)
    if s.firewallDrops (coreOfTid tid) owner 0 then s.dropRequest tid owner acc
    else if p.window && !s.handlerRoom owner then s
    else
      let s1 := s.setCtx tid (putAccess c { acc with parts := listPut k { p with queued := true } acc.parts })
      let q : QueuedPart := ⟨.access tid acc.serial, p.addr, p.off⟩
      if p.window then s1.modCore owner fun x => { x with handler := x.handler ++ [.access q] } else s1.enqueuePart q p

/-! ## Perform -/

/-- The new value of an accumulate atomic (R195). -/
def atomicValue (f n m x : Nat) : Nat :=
  let signed (v : Nat) : Int := if v < 2 ^ (8 * n - 1) then v else (v : Int) - 2 ^ (8 * n)
  match f with
  | 0 => (m + x) % 2 ^ (8 * n)
  | 1 => if signed x < signed m then x else m
  | 2 => if signed m < signed x then x else m
  | 3 => min m x
  | 4 => max m x
  | 5 => Nat.land m x
  | 6 => Nat.lor m x
  | _ => Nat.xor m x

/-- The touched bytes after a sub-byte store (R193). -/
def subByteValue (q k h data : Nat) : Nat := h - h / 2 ^ q % 2 ^ k * 2 ^ q + data * 2 ^ q

/-- A loaded value as a register takes it (R186). -/
def extendLoad (signed : Bool) (n v : Nat) : Word :=
  if signed && decide (2 ^ (8 * n - 1) ≤ v) then BitVec.ofInt 64 ((v : Int) - 2 ^ (8 * n)) else BitVec.ofNat 64 v

/-- What a part's Perform does to memory and registers (R58): one indivisible action. -/
def State.performPart (s : State) (tid : Nat) (kind : AccessKind) (p : Part) : State :=
  match kind with
  | .load d signed => s.modCtx tid fun c => c.setG d (extendLoad signed p.size (memNat s.mem p.addr p.size))
  | .loadPair d => s.modCtx tid fun c =>
      (c.setG d (BitVec.ofNat 64 (memNat s.mem p.addr 8))).setG (d + 1) (BitVec.ofNat 64 (memNat s.mem (p.addr + 8) 8))
  | .store => s.writeWindow p.addr (bytesOfNat p.size p.data)
  | .subByte q k =>
    s.writeWindow p.addr (bytesOfNat p.size (subByteValue q k (memNat s.mem p.addr p.size) p.data))
  | .atomic f => s.writeWindow p.addr (bytesOfNat p.size (atomicValue f p.size (memNat s.mem p.addr p.size) p.data))
  | .loadVec d =>
    let dst := vecKey (coreOfTid tid) (slotOfTid tid * 512 + d.val * 64 + p.off)
    s.setMem (storeBytes dst (memBytes s.mem p.addr p.size) s.mem)
  | .config _ | .descriptor _ _ => s

end Sys2Proof.Machine
end

