-- ==== Sys2Proof/Machine/Offers.lean ====
section
/-!
DEFINITION. `offer`, `offer1` and `offer.t` up to the sending of their headers (05_events R78 to R82, R86;
13_isa_events_system R256, R257), and the ways an offer slot opens to a trap.
-/

namespace Sys2Proof.Machine

/-- The forms of an offer. -/
inductive OfferForm where
  | list | single | timed
deriving DecidableEq, Repr

/-- What R80 finds: a trap with its operand, or the entries read. -/
inductive OfferCheck where
  | trap (cause : Nat) (xaddr : Word)
  | entries (es : List OfferEntry)
deriving DecidableEq, Repr

/-- The 32 bytes of a choice entry in a core's local store. -/
def choiceBytes (s : State) (pcn off : Nat) : List Byte := memBytes s.mem (localKey pcn off) 32

/-- Offsets of the entries of a list, up to its terminator or its eighth entry: none when the list leaves the self window
(R31, R80). -/
def listOffsets (s : State) (pcn : Nat) : Nat → Nat → Option (List Nat)
  | 0, _ => some []
  | fuel + 1, off =>
    if 0x20000 ≤ off then none
    else if memNat s.mem (localKey pcn off) 4 = 0 then some []
    else (listOffsets s pcn fuel (off + 32)).map (off :: ·)

/-- A send or receive range: nothing when its length is 0, else 16-aligned and in the self window (R80). -/
def rangeOk (off len : Nat) : Bool := len == 0 || (off % 16 == 0 && decide (off + len ≤ 0x20000))

/-- An entry as it is read at issue (R78, R79, R81). -/
def readEntry (s : State) (tid : Nat) (bs : List Byte) : OfferEntry :=
  let h := descNat bs 0 4
  let w := (s.liveEntry? tid h).getD (0, 0, 0)
  let ctl := descNat bs 4 2
  ⟨BitVec.ofNat 32 h, w.1, w.2.1, w.2.2, ctl % 4, ctl / 4 % 2 == 1, descNat bs 6 2, descNat bs 8 4, descNat bs 12 4,
    descNat bs 16 2, descNat bs 24 8, (s.entry w.1 w.2.1).desc.timed, false⟩

/-- The conditions of order 4 of R80 on one entry, and those of R94 on a timed one. -/
def entryOk (s : State) (tid : Nat) (bs : List Byte) (x : OfferEntry) : Bool :=
  let e := s.entry x.home x.entry
  x.handle != 0 && decide (descNat bs 4 2 < 8) && descNat bs 18 6 == 0 &&
    s.roleIn? tid e == some x.role && roleLengths e.desc x.role == (x.sendLen, x.recvLen) &&
    rangeOk x.sendSrc x.sendLen && rangeOk x.recvDst x.recvLen &&
    (!x.timed || (decide ((s.proc (s.ctx tid).proc).lvt < x.vt) && decide (x.vt < 2 ^ 64 - 1)))

/-- The offset of the first bad entry (R80 order 4): by itself, or because an earlier entry names its event or is of the
other mode. -/
def firstBad (s : State) (tid : Nat) : List (Nat × List Byte × OfferEntry) → List OfferEntry → Option Nat
  | [], _ => none
  | (off, bs, x) :: rest, seen =>
    if !entryOk s tid bs x || seen.any (fun y => y.handle == x.handle || y.timed != x.timed) then some off
    else firstBad s tid rest (seen ++ [x])

/-- The checks of R80 in order, on the list at an offset (R256). -/
def checkOffer (s : State) (tid : Nat) (form : OfferForm) (a : Word) : OfferCheck :=
  let pcn := coreOfTid tid
  let offsets : Option (List Nat) :=
    match form with
    | .single => if a.toNat < 0x20000 then some [a.toNat] else none
    | _ => listOffsets s pcn 8 a.toNat
  if a.toNat % 32 ≠ 0 then .trap causeMisaligned a
  else
    match offsets with
    | none => .trap causeUnmapped (if a.toNat < 0x20000 then 0x20000 else a)
    | some offs =>
      let es := offs.map fun off => (off, choiceBytes s pcn off, readEntry s tid (choiceBytes s pcn off))
      let xs := es.map fun e => e.2.2
      if (s.ctx tid).spawned then .trap causeOfferThread a
      else
        match xs.find? fun x => x.handle != 0 && (s.liveEntry? tid x.handle.toNat).isNone with
        | some x => .trap causeStale (x.handle.setWidth 64)
        | none =>
          match firstBad s tid es [] with
          | some off => .trap causeChoice (BitVec.ofNat 64 off)
          | none =>
            if xs.isEmpty && form != .timed then .trap causeChoice a
            else if xs.any (·.timed) && (!s.isTimed tid || s.inWrapUp tid) then .trap causeTimed a
            else if xs.any (·.timed) && form == .timed then .trap causeChoice a
            else .entries xs

namespace State

/-- GVT as last delivered to the core of a context; 0 in a prompt launch (R107). -/
def gvtOf (s : State) (tid : Nat) : Nat :=
  match s.launchOf tid with
  | some l => if s.isTimed tid then (s.reduction (coreOfTid tid) l).gvt else 0
  | none => 0

/-- LVT of a context's process (R258). -/
def lvtOf (s : State) (tid : Nat) : Nat := (s.proc (s.ctx tid).proc).lvt

/-- A process that must settle has not (R105): LVT > GVT. A spawned thread and a prompt launch settle at once (R260). -/
def unsettled (s : State) (tid : Nat) : Bool :=
  s.isTimed tid && !(s.ctx tid).spawned && decide (s.gvtOf tid < s.lvtOf tid)

/-- A request for a reduction of a launch (R105, R350). -/
def requestRound (s : State) (tid : Nat) : State :=
  match s.launchOf tid with
  | some l => s.modLaunch l fun x => { x with requested := true }
  | none => s

/-- A timed process has reached its stop point while its launch stops (R108 step 3). -/
def atStopPoint (s : State) (tid : Nat) : Bool :=
  s.isTimed tid && ((s.launchRec? tid).map fun l => l.phase == .stopping).getD false

/-- The context that issues stands at its stop point: the instruction is not issued (R108). -/
def stopHere (s : State) : State :=
  s.modMe fun c => { c with wrapStop := true, status := .waiting, wait := .none, held := none }

/-- The headers of an offer are sent, one to the home of each entry (R81); those of a timed process are recorded for a
rollback (R99). -/
def sendHeaders (s : State) (tid : Nat) (es : List OfferEntry) : State :=
  let rank := s.rankOf tid
  let c := s.ctx tid
  es.zipIdx.foldl (fun t x =>
    let e := s.entry x.1.home x.1.entry
    let vt := if x.1.timed then x.1.vt else 0
    let t1 := t.postEvent .request (coreOfTid tid) x.1.home e.launch x.1.timed vt
      (.header x.1.entry x.1.gen ⟨rank, tid, x.2, vt, c.offer.serial⟩)
    if x.1.timed then
      t1.modProc c.proc fun p => { p with sent := p.sent ++ [⟨c.ckseq.toNat, x.1.home, x.1.entry, x.1.gen, vt⟩] }
    else t1) s

/-- An offer is issued: its slot opens, its headers go, and the process waits (R81). -/
def openOffer (s : State) (d : GReg) (deadline : Option Nat) (es : List OfferEntry) (w : Wait) : State :=
  (s.modMe fun c =>
    { c with
      offer := ⟨.opened, es, d, deadline, false, [], c.nextSerial⟩, nextSerial := c.nextSerial + 1
      wait := w, status := .waiting, held := none }).sendHeaders
      s.cur es

/-- The shared course of the three forms (R256). `deadline` is g[b] of `offer.t`. -/
def offerWith (s : State) (i : Instr) (form : OfferForm) (d a : GReg) (deadline : Option Nat) : Res :=
  let tid := s.cur
  if !bufferEmpty s.me then .next (s.holdWith i .drain)
  else if s.me.away && !s.me.spawned then .next (s.goHome tid none (some i))
  else if s.atStopPoint tid then .next s.stopHere
  else
    match checkOffer s tid form (s.g a) with
    | .trap cause x => s.trapHere cause x
    | .entries es =>
      let due := match deadline with
        | some t => decide (t ≤ s.now)
        | none => false
      if es.isEmpty then
        let s1 := s.closeBatches (s.threadOf tid)
        if due then s1.writeG d (BitVec.allOnes 64) else .next (s1.openOffer d deadline [] .timer)
      else if !(es.any (·.timed)) && s.unsettled tid then .next ((s.requestRound tid).holdWith i .settle)
      else
        let s1 := s.closeBatches (s.threadOf tid)
        if due then s1.writeG d (BitVec.allOnes 64) else .next (s1.openOffer d deadline es .offer)

end State

/-- `offer` (R256). -/
def execOffer (d a : GReg) (s : State) : Res := s.offerWith (.offer d a) .list d a none
/-- `offer1`: one entry, no terminator (R256). -/
def execOffer1 (d a : GReg) (s : State) : Res := s.offerWith (.offer1 d a) .single d a none
/-- `offer.t`: g[b] is a device time in ns (R256). -/
def execOfferT (d a b : GReg) (s : State) : Res := s.offerWith (.offerT d a b) .timed d a (some (s.g b).toNat)

end Sys2Proof.Machine
end

