-- ==== Sys2Proof/Machine/Combining.lean ====
section
/-!
DEFINITION. Routes of the mesh (21_network R341) and the combining entries of the routers (R345, R346): how they are programmed and
released, where on its route a contribution is combined, and how a result's markers clear them.
-/

namespace Sys2Proof.Machine

namespace State

/-- Where a packet goes next on its XY route: the column first, then the row (R341). -/
def nextHop (pcn dst : Nat) : Nat :=
  let x := packageX pcn
  let y := packageY pcn
  if packageX dst < x then pcnAt (x - 1) y
  else if x < packageX dst then pcnAt (x + 1) y
  else if packageY dst < y then pcnAt x (y - 1)
  else if y < packageY dst then pcnAt x (y + 1)
  else pcn

/-- The routers of an XY route after its source, with the router that each is entered from. -/
def route : Nat → Nat → Nat → List (Nat × Nat)
  | 0, _, _ => []
  | n + 1, pcn, dst => if pcn = dst then [] else (nextHop pcn dst, pcn) :: route n (nextHop pcn dst) dst

/-- The routers that a packet passes, each with the port by which it enters: the first from its own core. -/
def routePorts (src dst : Nat) : List (Nat × Nat) := (src, src) :: route 128 src dst

/-- The port by which what a core contributes enters a router on its way to a home: a neighbour, or the router's own core. -/
def inputOf? (home core router : Nat) : Option Nat :=
  ((routePorts core home).find? fun h => h.1 == router).map Prod.snd

/-- The inputs of the tree of an event at a router. -/
def treeInputs (home : Nat) (cores : List Nat) (router : Nat) : List Nat :=
  (cores.filterMap fun c => inputOf? home c router).eraseDups

/-- The routers of the tree where contributions of two or more inputs merge (R345). -/
def mergeRouters (home : Nat) (cores : List Nat) : List Nat :=
  ((cores.flatMap fun c => (routePorts c home).map Prod.fst).eraseDups).filter fun r =>
    decide (2 ≤ (treeInputs home cores r).length)

end State

/-- An empty port set that awaits some inputs. -/
def portSet (awaited : List Nat) : PortSet := ⟨awaited, [], 0, []⟩

/-- A port set with nothing received. -/
def PortSet.clear (p : PortSet) : PortSet := { p with received := [], data := [] }

/-- A port set as an occurrence finds it: what another one has left there does not count. -/
def PortSet.serving (p : PortSet) (number : Nat) : PortSet :=
  if p.number = number then p else { p.clear with number := number }

/-- A port set that has received an input. -/
def PortSet.receive (p : PortSet) (input : Nat) (data : List (Nat × List Byte)) : PortSet :=
  { p with received := p.received ++ [input], data := p.data ++ data }

/-- Every awaited input has been received. -/
def PortSet.full (p : PortSet) : Bool := p.awaited.all p.received.contains

/-- The up set of an occurrence: set 0 or 2 (R345). -/
def Combining.up (c : Combining) (number : Nat) : PortSet := (if number % 2 = 0 then c.upEven else c.upOdd).serving number

/-- The down set of an occurrence: set 1 or 3 (R345). -/
def Combining.down (c : Combining) (number : Nat) : PortSet :=
  (if number % 2 = 0 then c.downEven else c.downOdd).serving number

/-- An entry with the pair of sets of an occurrence replaced. -/
def Combining.setPair (c : Combining) (number : Nat) (up down : PortSet) : Combining :=
  if number % 2 = 0 then { c with upEven := up, downEven := down } else { c with upOdd := up, downOdd := down }

/-- An entry with the pair of an occurrence cleared (R346). -/
def Combining.clearPair (c : Combining) (number : Nat) : Combining :=
  c.setPair number (c.up number).clear (c.down number).clear

/-- The down marker of an occurrence leaves an entry by a port; the pair is cleared once it has left by all of them (R346). -/
def Combining.leave (c : Combining) (number port : Nat) : Combining :=
  let d := (c.down number).receive port []
  if d.full then c.clearPair number else c.setPair number (c.up number) d

namespace State

/-- The entry of an event in a router. -/
def combiningAt? (s : State) (router home idx gen : Nat) : Option Combining :=
  (s.core router).combining.find? fun c => c.home == home && c.entry == idx && c.gen == gen

/-- The entries of an event changed, in every router. -/
def modCombining (s : State) (home idx gen : Nat) (f : Nat → Combining → Combining) : State :=
  { s with cores := tableMap (fun r k =>
      { k with combining := k.combining.map fun c =>
          if c.home = home && c.entry = idx && c.gen = gen then f r c else c }) s.cores }

/-- The home of a new barrier or combining event programs an entry at each merging router that has one free (R345): the inputs of
contributions, the port toward the home, and those of them that lead to receivers; a barrier's markers go to all. -/
def programRouters (s : State) (pcn idx gen : Nat) (d : Descriptor) : State :=
  if d.kind ≠ 1 && d.kind ≠ 2 then s
  else
    let coresOf (ps : List (Nat × Nat × Nat)) : List Nat := (ps.map fun p => coreOfTid p.2.1).eraseDups
    let cores := coresOf d.parties
    let receivers := coresOf (d.parties.filter fun p => d.kind == 1 || (roleLengths d p.2.2).2 != 0)
    (mergeRouters pcn cores).foldl (fun t r =>
      let up := portSet (treeInputs pcn cores r)
      let down := portSet (treeInputs pcn receivers r)
      t.modCore r fun k =>
        if k.combining.length < 64 then
          { k with combining := k.combining ++ [⟨pcn, idx, gen, nextHop r pcn, up, down, up, down⟩] }
        else k) s

/-- The entries of an event are released when its entry at the home becomes free (R345). -/
def releaseRouters (s : State) (pcn idx gen : Nat) : State :=
  { s with cores := tableMap (fun _ k =>
      { k with combining := k.combining.filter fun c => !(c.home == pcn && c.entry == idx && c.gen == gen) }) s.cores }

/-- The pair of sets of an occurrence is cleared everywhere (R346). -/
def clearSets (s : State) (pcn idx gen number : Nat) : State := s.modCombining pcn idx gen fun _ c => c.clearPair number

/-- The result of an occurrence has reached a core: its marker has left each router on the way (R346). -/
def leaveRouters (s : State) (pcn idx gen number core : Nat) : State :=
  s.modCombining pcn idx gen fun r c => match inputOf? pcn core r with
    | some port => c.leave number port
    | none => c

/-- The first router of a contribution's route that has an entry for its event and awaits it, and the input that it is awaited at:
there it is combined (R346). -/
def combineStop? (s : State) (src home idx gen number : Nat) : Option (Nat × Nat) :=
  (routePorts src home).find? fun h =>
    match s.combiningAt? h.1 home idx gen with
    | some c => (c.up number).awaited.contains h.2 && !(c.up number).received.contains h.2
    | none => false

/-- A contribution is taken into the entry of a router. With every awaited input there, what they brought goes on toward the home;
until then it is counted, when it is timed, as received at the event's home (R346, R348; notes/assumptions/67.md). What is combined
is kept as the contributions themselves: their order does not enter the result (R75). -/
def combineAt (s : State) (n : Nat) (p : Packet) (router input idx gen number : Nat) (data : List (Nat × List Byte)) :
    State × List (Nat × List Byte) :=
  match s.combiningAt? router p.dst idx gen with
  | none => (s, [])
  | some c =>
    let up := (c.up number).receive input data
    let s1 := s.modCore router fun k =>
      { k with combining := k.combining.map fun x => if x = c then c.setPair number up (c.down number) else x }
    if !up.full then (s1.takePacket n p, [])
    else if router = p.dst then (s1.takePacket n p, up.data)
    else
      ((s1.takePacket n { p with timed := none }).send { p with src := router, body := .contribution idx gen number up.data }, [])

end State

end Sys2Proof.Machine
end

