-- ==== Sys2Proof/Machine/Jobs.lean ====
section
/-!
DEFINITION. Job queues and latch buffers (12_isa_engines R229, R233, R247): what the engine instructions, the grants,
a rollback and wrap-up share.
-/

namespace Sys2Proof.Machine

/-- A core's queue of an engine. -/
def queueOf (k : CoreS) : Engine → List Job
  | .mxe => k.mxQueue
  | .copy => k.cpQueue

/-- A core with its queue of an engine replaced. -/
def setQueue (k : CoreS) (e : Engine) (q : List Job) : CoreS :=
  match e with
  | .mxe => { k with mxQueue := q }
  | .copy => { k with cpQueue := q }

/-- A latch buffer of a core. -/
def latchOf (k : CoreS) (b : Nat) : Latch := if b = 0 then k.latch0 else k.latch1

/-- A core with a latch buffer replaced. -/
def setLatch (k : CoreS) (b : Nat) (l : Latch) : CoreS := if b = 0 then { k with latch0 := l } else { k with latch1 := l }

/-- The latch buffer that an MXE job reads, if it reads one (R235). -/
def latchRead? (j : Job) : Option Nat :=
  match j.form with
  | .mmb => some (j.b.toNat % 2)
  | .dist => if j.b.getLsbD 63 then some (j.b.toNat % 2) else none
  | _ => none

/-- The latch buffer that a stream fills (R245). -/
def latchFilled? (j : Job) : Option Nat := if j.form = .stream then some (j.b.toNat % 2) else none

/-- A job that ends with a status: nothing more of it is done (R232). -/
def endedWith (status : Nat) (j : Job) : Job := { j with status := max j.status status, grant := .none, finished := true }

namespace State

/-- A latch buffer becomes Empty: a waiting MXE job that names it ends with status 4 when no stream that names it is
queued (R247). -/
def emptyLatch (s : State) (pcn b : Nat) : State :=
  s.modCore pcn fun k =>
    let k1 := setLatch k b Latch.none
    if k1.cpQueue.any fun j => latchFilled? j == some b && !j.finished then k1
    else
      match k1.mxQueue with
      | j :: rest => if latchRead? j = some b && !j.started && !j.finished then { k1 with mxQueue := endedWith 4 j :: rest } else k1
      | [] => k1

/-- A copy job of a core is stopped: it ends with status 1, its deferred actions are discarded, and a stream leaves its
latch buffer Empty unless a later stream has begun to fill it (R246, R247). -/
def cancelCopy (s : State) (pcn : Nat) (sel : Job → Bool) : State :=
  let live (j : Job) : Bool := sel j && j.status == 0
  let refilled (j : Job) : Bool := (s.core pcn).cpQueue.any fun x =>
    decide (j.order < x.order) && x.started && latchFilled? x == latchFilled? j
  let hit := (s.core pcn).cpQueue.filter live
  let s1 := s.modCore pcn fun k =>
    { k with
      cpQueue := k.cpQueue.map fun j => if live j then endedWith 1 { j with cancelled := true, awaitAck := false } else j
      deferred := k.deferred.filter fun d => match d.action with
        | .write job _ _ _ | .send job _ _ => !hit.any fun j => j.id == job }
  (hit.foldl (fun t j => match latchFilled? j with
    | some b => if j.started && !refilled j then t.emptyLatch pcn b else t
    | none => t) s1).settlePins

end State

end Sys2Proof.Machine
end

