-- ==== Sys2Proof/Machine/TimeWarp.lean ====
section
/-!
DEFINITION. Checkpoints, rollback and anti-messages of timed processes (06_virtual_time R96 to R101, R103; R288).
-/

namespace Sys2Proof.Machine

/-- The 832 bytes of a checkpoint (R96). -/
def checkpointBytes (s : State) (tid vt handle index : Nat) : List Byte :=
  let c := s.ctx tid
  bytesOfNat 8 c.pc.toNat ++ bytesOfNat 8 (s.proc c.proc).lvt ++ bytesOfNat 8 vt ++ bytesOfNat 4 handle ++
    bytesOfNat 1 index ++ bytesOfNat 3 0 ++ bytesOfNat 2 c.pw.toNat ++ bytesOfNat 1 c.rmode.toNat ++
    bytesOfNat 1 c.fflags.toNat ++ bytesOfNat 4 c.srng.toNat ++ bytesOfNat 8 (jTail c) ++
    (((List.range 32).drop 1).flatMap fun n => bytesOfNat 8 (c.g (Fin.ofNat 32 n)).toNat) ++
    (((List.range 4).drop 1).flatMap fun n => bytesOfNat 8 (c.masks[n]?.getD 0).toNat) ++
    memBytes s.mem (vecKey (coreOfTid tid) (slotOfTid tid * 512)) 512

namespace State

/-- A checkpoint entry is free (R98). -/
def checkpointFree (s : State) (tid : Nat) : Bool := decide (ckLive (s.ctx tid) < ckLen (s.ctx tid))

/-- The checkpoint of an occurrence is written, and the occurrence is recorded for cancelling (R96). -/
def writeCheckpoint (s : State) (tid index : Nat) (h : BitVec 32) (o : Occ) : State :=
  let c := s.ctx tid
  let key := ckEntryKey tid c (ckHead c + ckLive c)
  let s1 := s.setMem (memWrite key (checkpointBytes s tid o.vt h.toNat index) s.mem)
  (s1.setCtx tid { c with ckpos := setField c.ckpos 16 12 (ckLive c + 1), ckseq := c.ckseq + 1 }).modProc c.proc fun p =>
    { p with occs := p.occs ++ [{ o with seq := c.ckseq.toNat }] }

/-- The old line of a journal entry is put back (R99 step 2). -/
def undoEntry (tid : Nat) (c : Ctx) (m : Mem) (i : Nat) : Mem :=
  let e := jEntryKey tid c i
  memWrite (localKey (coreOfTid tid) (memNat m e 8 % 2 ^ 17)) (memBytes m (e + 16) 16) m

/-- Journal entries are undone in reverse order, from the newest back to a position (R99 step 2). -/
def undoJournal (tid : Nat) (c : Ctx) (m : Mem) (pos : Nat) : Mem :=
  let len := max 1 (jLen c)
  let n := (jTail c + len - pos % len) % len
  ((List.range n).map fun k => (jTail c + len - 1 - k) % len).foldl (undoEntry tid c) m

/-- The registers of a checkpoint, from its bytes; FFLAGS<7> is set after it is restored (R101), handler mode ends
(R288) and the process stands at its offer. -/
def restoreRegs (c : Ctx) (bs : List Byte) (seq : Nat) : Ctx :=
  let first := c.ckseq.toNat - ckLive c
  { c with
    status := .ready, wait := .none, held := none, trapping := none, port := none, relaxed := [], pfx := .none
    offer := .none
    pc := BitVec.ofNat 64 (descNat bs 0 8) &&& ~~~(3 : Word)
    pw := BitVec.ofNat 16 (descNat bs 32 2)
    rmode := BitVec.ofNat 3 (descNat bs 34 1)
    fflags := (BitVec.ofNat 8 (descNat bs 35 1) &&& fflagsMask) ||| flagAcclost
    srng := BitVec.ofNat 32 (descNat bs 36 4)
    regs := Vector.ofFn fun n : Fin 32 => if n.val = 0 then 0 else BitVec.ofNat 64 (descNat bs (40 + 8 * n.val) 8)
    masks := Vector.ofFn fun n : Fin 4 => if n.val = 0 then 0 else BitVec.ofNat 64 (descNat bs (288 + 8 * n.val) 8)
    jpos := setField c.jpos 32 16 (descNat bs 40 8)
    ckpos := setField c.ckpos 16 12 (seq - first)
    ckseq := BitVec.ofNat 64 seq
    xstat := c.xstat &&& ~~~(2 : Word) }

/-- The place of an occurrence that an event keeps: the one in progress or a past one. -/
def occurrence? (e : ArbEntry) (number : Nat) : Option Occurrence :=
  match e.current with
  | some o => if o.number = number then some o else e.past.find? fun o => o.number == number
  | none => e.past.find? fun o => o.number == number

/-- An occurrence is cancelled (R100): its loss count returns, a standing offer that it consumed stands again unless its
job is cancelled, and every participant is told to roll back to its checkpoint. -/
def cancelOccurrence (s : State) (pcn idx number : Nat) (keep : Standing → Bool) : State :=
  let e := s.entry pcn idx
  match occurrence? e number with
  | none => s
  | some o =>
    let inProgress := (e.current.map fun x => x.number == number).getD false
    let e' := { e with
      loss := o.loss
      standing := ((o.standing.filter keep).toList) ++ e.standing
      current := if inProgress then none else e.current
      resolution := if inProgress then .idle else e.resolution
      past := e.past.filter fun x => x.number != number }
    e.desc.parties.foldl (fun t p =>
      t.postEvent .reply pcn (coreOfTid p.2.1) e.launch true o.vt (.antiOccurrence p.2.1 pcn idx e.gen number))
      (s.setEntry pcn idx e')

/-- The standing offers that come from a process's jobs after a checkpoint are taken back, and the occurrences that
consumed one are cancelled (R99 step 4, R100). -/
def takeBackStanding (s : State) (proc seq : Nat) : State :=
  let theirs (x : Standing) : Bool := match x.source with
    | some y => y.proc == proc && decide (seq < y.ckseq)
    | none => false
  (s.cores.map fun k => (k.1, k.2.arb.map Prod.fst)).foldl (fun t k =>
    k.2.foldl (fun t idx =>
      let e := t.entry k.1 idx
      let t1 := t.setEntry k.1 idx { e with standing := e.standing.filter fun x => !theirs x }
      ((e.current.toList ++ e.past).filter fun o => (o.standing.filter theirs).isSome).foldl (fun t o =>
        t.cancelOccurrence k.1 idx o.number fun x => !theirs x) t1) t) s

/-- The jobs that a thread issued after a checkpoint are cancelled and leave nothing (R99 step 4); the latch buffers of
the core become Empty (R233, R247). DESIGN CHOICE: a stream that survives goes on, and its buffer, which has become Empty, is Full
after its last write with the rest of its elements (notes/assumptions/68.md). -/
def dropJobs (s : State) (pcn proc seq : Nat) : State :=
  let later (j : Job) : Bool := j.proc == proc && decide (seq < j.ckseq)
  let s1 := s.modCore pcn fun k =>
    { k with
      mxQueue := k.mxQueue.filter fun j => !later j
      cpQueue := k.cpQueue.filter fun j => !later j
      deferred := k.deferred.filter fun d => !(d.proc == proc && decide (seq < d.ckseq)) }
  let held := fun b => (latchOf (s.core pcn) b).state != .empty
  let s2 := s1.modCluster (clusterOf pcn) fun k =>
    { k with batches := k.batches.filter fun b => !(b.proc == proc && decide (seq < b.ckseq)) }
  let s3 := if held 0 then s2.emptyLatch pcn 0 else s2
  (if held 1 then s3.emptyLatch pcn 1 else s3).settlePins

/-- Before a rollback, a checkpoint and a journal that something else than the machine has written hold free values (R53,
R294). -/
def spoilRings (s : State) (tid seq : Nat) : State :=
  let c := s.ctx tid
  if c.ringsWritten || (s.core (coreOfTid tid)).spoiled then
    let first := c.ckseq.toNat - ckLive c
    (s.freeBytes Config.reservedByte (ckEntryKey tid c (ckHead c + (seq - first))) 832).freeBytes Config.reservedByte
      (jEntryKey tid c 0) (32 * jLen c)
  else s

/-- Nothing of a context's accesses stands in a queue any more. -/
def dropQueued (s : State) (tid : Nat) : State :=
  let theirs (q : QueuedPart) : Bool := match q.source with
    | .access t _ => t == tid
    | .job _ _ _ => false
  { s with
    banks := tableMap (fun _ q => q.filter fun x => !theirs x) s.banks
    cores := tableMap (fun _ k => { k with handler := k.handler.filter fun h => match h with
      | .access q => !theirs q
      | .message _ => true }) s.cores }

/-- The anti-messages of a rollback (R99 step 4): of the headers that the process sent, in their order, and of what it contributed
to occurrences. -/
def takeBackSent (s : State) (p : Proc) (pcn seq : Nat) : State :=
  let s1 := (p.sent.filter fun x => decide (seq ≤ x.seq)).foldl (fun t x =>
    t.postEvent .request pcn x.home (s.entry x.home x.entry).launch true x.vt
      (.antiHeader x.entry x.gen p.rank x.vt)) s
  let contributed (o : Occ) : Bool := (s.entry o.home o.entry).desc.parties.any fun q =>
    q.1 == p.rank && contributes (s.entry o.home o.entry).desc q.2.2
  (p.occs.filter fun o => decide (seq ≤ o.seq) && contributed o).foldl (fun t o =>
    t.postEvent .payload pcn o.home (s.entry o.home o.entry).launch true o.vt
      (.antiPayload o.entry o.gen o.number p.rank)) s1

/-- A process rolls back to the checkpoint with a sequence number (R99): registers and memory are restored, what it sent
since its offer is taken back by anti-messages, its jobs are cancelled, with the late traps that they left (R288), and its tiles
zeroed (R101). It then offers again. -/
def rollback (s0 : State) (tid seq : Nat) : State :=
  let c := s0.ctx tid
  if c.status = .empty || c.status = .stopped then s0 else
  let s := s0.spoilRings tid seq
  let pcn := coreOfTid tid
  let p := s.proc c.proc
  let first := c.ckseq.toNat - ckLive c
  let bs := memBytes s.mem (ckEntryKey tid c (ckHead c + (seq - first))) 832
  let m1 := undoJournal tid c s.mem (descNat bs 40 8)
  let m2 := memWrite (vecKey pcn (slotOfTid tid * 512)) (bs.drop 320) m1
  let m3 := memZero (accKey pcn 0) 8192 m2
  let c1 := restoreRegs c bs seq
  let c2 := { c1 with
    late := c.late.filter fun x => decide (x.ckseq ≤ seq)
    faults := c.faults.filter fun x => decide (x.ckseq ≤ seq) }
  let s2 := ((s.setMem m3).setCtx tid c2).dropQueued tid
  let s3 := s2.modProc c.proc fun p =>
    { p with
      lvt := descNat bs 8 8, careful := true
      occs := p.occs.filter fun o => decide (o.seq < seq)
      sent := p.sent.filter fun x => decide (x.seq < seq) }
  let s4 := s3.takeBackSent p pcn seq
  -- claims that wait at the slot are refused
  let s5 := c.offer.queued.foldl (fun t q =>
    t.post .reply pcn q.home (s.trafficColour tid) (.refuse q.entry q.gen tid q.number)) s4
  (s5.dropJobs pcn c.proc seq).takeBackStanding c.proc seq

/-- The earliest occurrence of a process that another occurrence precedes, by its checkpoint (R99 step 1). -/
def earliestAfter (s : State) (tid vt loss handle : Nat) : Option Nat :=
  ((s.proc (s.ctx tid).proc).occs.find? fun o =>
    precedes vt loss handle o.vt o.loss (s.handleOf o.home o.entry (s.entry o.home o.entry))).map Occ.seq

end State

/-- STRAGGLER_CLAIM (R99): the participant rolls back to the earliest occurrence that the straggler precedes. -/
def execStragglerClaim (n : Nat) (s : State) : Res :=
  match s.arrive n with
  | some (⟨_, _, _, _, _, .straggler tid _ _ _ vt loss handle⟩, s1) =>
    match s1.earliestAfter tid vt loss handle with
    | some seq => .next (s1.rollback tid seq)
    | none => .next s1
  | _ => .next s

namespace State

/-- An anti-message of a header reaches the home (R100): the header or its shadow goes, an event that was being claimed
with it aborts, and an occurrence that took it is cancelled. -/
def antiHeader (s : State) (pcn idx gen rank vt : Nat) : State :=
  let e := s.entry pcn idx
  let same (h : Header) : Bool := h.rank == rank && h.vt == vt
  if e.gen ≠ gen || e.state == .free then s.countStale pcn
  else if e.headers.any same then
    let s1 := match e.resolution with
      | .claiming number granted _ _ =>
        -- the slot of this rank has opened again by itself; the others are released
        (s.setEntry pcn idx { e with resolution := .idle }).tellRanks pcn e (granted.filter (· != rank)) fun tid =>
          .release tid pcn idx e.gen number
      | _ => s
    s1.modEntry pcn idx fun e => { e with headers := e.headers.filter fun h => !same h }
  else if e.shadows.any same then
    s.modEntry pcn idx fun e => { e with shadows := e.shadows.filter fun x => !same x }
  else
    match (e.current.toList ++ e.past).find? fun o => o.headers.any same with
    | some o => s.cancelOccurrence pcn idx o.number fun _ => true
    | none => s

/-- An anti-message of an occurrence reaches a participant (R100): it rolls back to its checkpoint for the occurrence. The commit
notice, which it follows in its class, has come before it (R341, R342). -/
def antiOccurrence (s : State) (tid home idx number : Nat) : State :=
  match (s.proc (s.ctx tid).proc).occs.find? fun o => o.home == home && o.entry == idx && o.number == number with
  | some o => s.rollback tid o.seq
  | none => s

/-- An anti-message of a contribution reaches the home (R99 step 4, R100): the contribution goes, and the pair of sets of its
occurrence is cleared in the routers that the message has passed (R346). -/
def antiPayload (s : State) (pcn idx gen number rank : Nat) : State :=
  let e := s.entry pcn idx
  if e.gen ≠ gen || e.state == .free then s.countStale pcn
  else
    (s.setEntry pcn idx { e with
      current := e.current.map fun o =>
        if o.number = number then { o with contributions := o.contributions.filter fun x => x.1 != rank } else o }).clearSets
        pcn idx gen number

end State

/-- ANTI_MESSAGE (R100). -/
def execAntiMessage (n : Nat) (s : State) : Res :=
  match s.arrive n with
  | some (⟨_, _, dst, _, _, .antiHeader idx gen rank vt⟩, s1) => .next (s1.antiHeader dst idx gen rank vt)
  | some (⟨_, _, _, _, _, .antiOccurrence tid home idx _ number⟩, s1) => .next (s1.antiOccurrence tid home idx number)
  | some (⟨_, _, dst, _, _, .antiPayload idx gen number rank⟩, s1) => .next (s1.antiPayload dst idx gen number rank)
  | _ => .next s

end Sys2Proof.Machine
end

