-- ==== Sys2Proof/Machine/Resolve.lean ====
section
/-!
DEFINITION. The steps of a resolution (05_events R82 to R89, R92; 13_isa_events_system R255, R256; 21_network R345 to
R347): headers, claims, answers, commits, releases, withdrawals, contributions, payload and the occurrence.
-/

namespace Sys2Proof.Machine

/-! ## Payload (R75, R88, R89) -/

/-- The floating-point format of an element type of R72, if it has one. -/
def elementFmt? (ty : Nat) : Option Fmt :=
  match ty with
  | 4 => some (ftyFmt .f32)
  | 5 => some (ftyFmt .f64)
  | 6 => some (ftyFmt .bf16)
  | _ => none

/-- An element of an integer type of R72. -/
def elementInt (ty v : Nat) : Int :=
  let w := 8 * elementSize ty
  if ty < 2 && decide (2 ^ (w - 1) ≤ v) then (v : Int) - 2 ^ w else v

/-- The elements of all contributions combined by op, with the flags (R75). -/
def combineElements (op ty : Nat) (xs : List Nat) : Nat × FlagSet :=
  let w := 8 * elementSize ty
  match elementFmt? ty with
  | some f =>
    if op = 0 then
      let r := f.sumAll (xs.map f.value) .nearest 0
      (r.bits, r.flags)
    else
      match xs with
      | [] => (0, 0)
      | x :: rest => rest.foldl (fun a b =>
          let r := f.minMax (op == 2) a.1 b
          (r.1, a.2 ||| r.2)) (x, 0)
  | none =>
    match xs with
    | [] => (0, 0)
    | x :: rest =>
      let f (a b : Nat) : Nat :=
        match op with
        | 0 => (a + b) % 2 ^ w
        | 1 => if elementInt ty b < elementInt ty a then b else a
        | 2 => if elementInt ty a < elementInt ty b then b else a
        | 3 => Nat.land a b
        | 4 => Nat.lor a b
        | _ => Nat.xor a b
      (rest.foldl f x, 0)

/-- The bytes and flags of a combining event's result (R75). -/
def combineAll (d : Descriptor) (xs : List (List Byte)) : List Byte × FlagSet :=
  let z := elementSize d.ty
  (List.range (d.size / z)).foldl (fun acc k =>
    let r := combineElements d.op d.ty (xs.map fun bs => natOfBytes ((bs.drop (z * k)).take z))
    (acc.1 ++ bytesOfNat z r.1, acc.2 ||| r.2)) ([], 0)

namespace State

/-- The result of an occurrence for a role, if the role receives (R88, R90, R91). -/
def resultFor (e : ArbEntry) (o : Occurrence) (role : Nat) (combined : List Byte) : Option (List Byte) :=
  let receives := (roleLengths e.desc role).2 ≠ 0
  if !receives then none
  else
    match e.desc.kind with
    | 0 => (o.contributions.head?).map Prod.snd
    | 2 => some combined
    | 3 | 4 => o.standing.map Standing.payload
    | _ => none

/-- Every contribution has come, and every slot is closed on the occurrence: the results go out to their receivers
(R88). -/
def sendResults (s : State) (pcn idx : Nat) : State :=
  let e := s.entry pcn idx
  match e.current with
  | none => s
  | some o =>
    let r := if e.desc.kind = 2 then combineAll e.desc (o.contributions.map Prod.snd) else ([], 0)
    let dests := e.desc.parties.filterMap fun p => (resultFor e o p.2.2 r.1).map fun bs => (p.2.1, p.1, bs)
    let writes := dests.map fun x => (x.1, x.2.1, 0, x.2.2)
    let s1 := s.setEntry pcn idx { e with current := some { o with writes := writes, flags := r.2 } }
    dests.foldl (fun t x =>
      t.post .payload pcn (coreOfTid x.1) (s.launchColour e.launch) (.payload x.1 pcn idx e.gen o.number)) s1

/-- How many contributions the home awaits. -/
def awaited (e : ArbEntry) : Nat := (e.desc.parties.filter fun p => contributes e.desc p.2.2).length

/-- An occurrence that awaits no contribution sends its results at once: an engine's or a port's (R90, R91). -/
def startResults (s : State) (pcn idx : Nat) : State :=
  if awaited (s.entry pcn idx) = 0 then s.sendResults pcn idx else s

end State

namespace State

/-! ## The answers (R83) -/

/-- A grant or a refusal reaches the home: the next claim, the commit, or the abort (R83). An answer to a resolution that
is over is released again; an event that has lost a header meanwhile does not commit. -/
def takeAnswer (s : State) (pcn idx gen tid number : Nat) (granted : Bool) (colour : Option Nat) : State :=
  let e := s.entry pcn idx
  let stale : State :=
    let s1 := if e.gen = gen then s else s.countStale pcn
    if granted then s1.post .reply pcn (coreOfTid tid) colour (.release tid pcn idx gen number) else s1
  match e.resolution with
  | .claiming n done (rank :: rest) counted =>
    if e.gen ≠ gen || n ≠ number then stale
    else if !granted then s.abortEvent pcn idx
    else if rest.isEmpty then
      if s.mayCommit e && allHeaders e then (s.commitEvent pcn idx number).startResults pcn idx
      else
        -- wrap-up has begun: nothing timed commits any more (R108)
        (s.setEntry pcn idx { e with resolution := .idle }).tellRanks pcn e (done ++ [rank]) fun tid =>
          .release tid pcn idx gen number
    else
      (s.setEntry pcn idx { e with resolution := .claiming n (done ++ [rank]) rest counted }).sendClaim pcn idx n rest
  | _ => stale

/-! ## The home takes a header (R83) -/

/-- A rank's older headers and shadows give way to a header of a later or renewed offer: the VTs of one process's offers
rise, so none of them can be taken any more. -/
def putHeader (e : ArbEntry) (h : Header) : ArbEntry :=
  { e with
    headers := (e.headers.filter fun x => x.rank != h.rank) ++ [h]
    shadows := e.shadows.filter fun x => x.rank != h.rank || decide (x.vt < h.vt) }

/-- A header reaches a home: refused when stale (R255), else kept, and the home looks whether it can begin (R83). A
header whose withdrawal came first stays the shadow that it made; a prompt one goes with it. -/
def takeHeader (s : State) (pcn idx gen : Nat) (h : Header) (colour : Option Nat) : State :=
  let e := s.entry pcn idx
  if e.state ≠ .live || e.gen ≠ gen then
    (s.countStale pcn).post .reply pcn (coreOfTid h.tid) colour (.headerGone h.tid pcn idx gen)
  else if e.shadows.any fun x => x.rank == h.rank && x.serial == h.serial then
    if e.desc.timed then s.tryResolve pcn idx
    else s.setEntry pcn idx { e with shadows := e.shadows.filter fun x => !(x.rank == h.rank && x.serial == h.serial) }
  else (s.setEntry pcn idx (putHeader e h)).tryResolve pcn idx

/-! ## The slot (R82) -/

/-- The entry of an offer that names an event, by its place. -/
def listed? (o : OfferSlot) (home idx gen : Nat) : Option Nat :=
  let i := o.entries.findIdx fun x => x.home == home && x.entry == idx && x.gen == gen && !x.gone
  if i < o.entries.length then some i else none

/-- A claim reaches a slot (R82). One that a header of an earlier offer has led to finds that offer closed. -/
def takeClaim (s : State) (tid : Nat) (q : Claim) (colour : Option Nat) : State :=
  let c := s.ctx tid
  let answer (b : Body) : State := s.post .reply (coreOfTid tid) q.home colour b
  let refusal : State := answer (.refuse q.entry q.gen tid q.number)
  let mine := (listed? c.offer q.home q.entry q.gen).isSome && c.offer.serial == q.serial
  match c.offer.state with
  | .opened =>
    if mine then
      (answer (.grant q.entry q.gen tid q.number)).setCtx tid
        { c with offer := { c.offer with state := .locked q.home q.entry q.number } }
    else refusal
  | .locked _ _ _ => if mine then s.setCtx tid { c with offer := { c.offer with queued := c.offer.queued ++ [q] } } else refusal
  | .closed | .committed _ => refusal

/-- Claims that wait at a slot are refused. -/
def refuseQueued (s : State) (tid : Nat) (qs : List Claim) (colour : Option Nat) : State :=
  qs.foldl (fun t q => t.post .reply (coreOfTid tid) q.home colour (.refuse q.entry q.gen tid q.number)) s

/-- The headers of an offer are withdrawn from their homes, all but that of one entry (R82). -/
def withdrawHeaders (s : State) (tid : Nat) (keep : Option Nat) (cause : WithdrawCause) : State :=
  let rank := s.rankOf tid
  (s.ctx tid).offer.entries.zipIdx.foldl (fun t x =>
    if some x.2 = keep || x.1.gone then t
    else
      t.post .reply (coreOfTid tid) x.1.home (s.trafficColour tid)
        (.withdraw x.1.entry x.1.gen rank (s.ctx tid).offer.serial (if x.1.timed then x.1.vt else 0) cause)) s

/-- An offer slot closes with −1 (R82, R86, R87): its headers are withdrawn. For a trap or a diversion the process stands
at the offer instruction; for a timeout g[d] := −1 and the offer ends. -/
def closeOffer (s : State) (tid : Nat) (returns : Bool) : State :=
  let s1 := s.withdrawHeaders tid none .timeout
  s1.modCtx tid fun c =>
    let c1 := { c with offer := .none, wait := .none, status := .ready, held := none }
    if returns then ((c1.setG c.offer.dest (BitVec.allOnes 64)).advance) else c1

/-- A late trap may be taken once hm is clear (R287). -/
def lateDue (c : Ctx) : Bool := !c.late.isEmpty && !handlerMode c

/-- A slot that is Open again: it stays open, or it closes with −1 if a timeout, a trap or a diversion came while it was
Locked (R82), or the offer traps when no entry is left (R92, R255). DESIGN CHOICE: the trap comes first when both apply, and its
stale handle is that of the last entry (notes/assumptions/69.md). -/
def reopened (s : State) (tid : Nat) : State :=
  let c := s.ctx tid
  if c.offer.entries.all (·.gone) && !c.offer.entries.isEmpty then
    let h := ((c.offer.entries.getLast?).map OfferEntry.handle).getD 0
    let s1 := s.modCtx tid fun c => { c with offer := .none, wait := .none, status := .ready }
    s1.takeTrapAt tid ⟨causeStale, false, c.start, h.setWidth 64, 0⟩
  else if c.offer.timedOut then
    if s.atStopPoint tid then (s.closeOffer tid false).modCtx tid fun c => { c with wrapStop := true, status := .waiting }
    else s.closeOffer tid (!lateDue c && !c.divert)
  else s.setCtx tid { c with offer := { c.offer with state := .opened } }

/-- The queued claim that a released slot grants: the highest loss count, and the first among equals (R85). -/
def bestClaim : List Claim → Option Claim
  | [] => none
  | q :: t =>
    match bestClaim t with
    | none => some q
    | some r => if q.loss < r.loss then some r else some q

/-- A release reaches a slot (R82): the best queued claim is granted, or the slot opens. A claim whose event has been freed since is
refused. -/
def takeRelease (s : State) (tid home idx number : Nat) (colour : Option Nat) : State :=
  let c := s.ctx tid
  if c.offer.state ≠ .locked home idx number then s
  else
    let isLive (q : Claim) : Bool := (listed? c.offer q.home q.entry q.gen).isSome
    let live := c.offer.queued.filter isLive
    let s1 := s.refuseQueued tid (c.offer.queued.filter fun q => !isLive q) colour
    match bestClaim live with
    | some q =>
      (s1.setCtx tid { c with
        offer := { c.offer with state := .locked q.home q.entry q.number, queued := live.filter (· != q) } }).post
          .reply (coreOfTid tid) q.home colour (.grant q.entry q.gen tid q.number)
    | none => (s1.setCtx tid { c with offer := { c.offer with state := .opened, queued := [] } }).reopened tid

/-! ## The commit (R82, R96) -/

/-- The source bytes of an entry, read at the commit (R88). -/
def sourceBytes (s : State) (tid : Nat) (x : OfferEntry) : List Byte :=
  memBytes s.mem (localKey (coreOfTid tid) x.sendSrc) x.sendLen

/-- A commit reaches a locked slot (R82): it closes on its event, the other headers are withdrawn and queued claims
refused, a timed process takes its checkpoint and its new LVT (R94, R96), and its contribution goes to the home. A
commit waits for a free checkpoint (R98). -/
def takeCommit (s : State) (tid home idx gen vt number : Nat) (colour : Option Nat) : Option State :=
  let c := s.ctx tid
  let e := s.entry home idx
  match listed? c.offer home idx gen with
  | none => some s
  | some i =>
    if c.offer.state ≠ .locked home idx number then some s
    else
      match c.offer.entries[i]? with
      | none => some s
      | some x =>
        if x.timed && !s.checkpointFree tid then none
        else
          let o := occurrence? e number
          let loss := (o.map Occurrence.loss).getD 0
          let offered := (c.offer.entries.filter fun y => y.timed && !y.gone).map OfferEntry.timedOffer
          let stand := (o.bind Occurrence.standing).map fun y => (y.vt, y.source)
          let s2 := (s.withdrawHeaders tid (some i) .commit).refuseQueued tid c.offer.queued colour
          let s3 := s2.modCtx tid fun c => { c with offer := { c.offer with state := .committed i, queued := [] } }
          let s4 :=
            if x.timed then
              (s3.writeCheckpoint tid i x.handle ⟨0, vt, loss, home, idx, gen, number, offered, stand⟩).modProc c.proc
                fun p => { p with lvt := vt, careful := false }
            else s3
          if contributes e.desc x.role then
            some (s4.postEvent .payload (coreOfTid tid) home e.launch x.timed vt
              (.contribution idx gen number [(s.rankOf tid, s.sourceBytes tid x)]))
          else some s4

/-! ## Withdrawal (R82, R85, R99) -/

/-- A withdrawal reaches the home: the header goes, or becomes a shadow when it is timed (R99); a loss is counted once when the home
held every header and another event has taken the offer (R85). A prompt withdrawal that has overtaken its header is remembered until
that comes. -/
def takeWithdrawal (s : State) (pcn idx gen rank serial vt : Nat) (cause : WithdrawCause) : State :=
  let e := s.entry pcn idx
  if e.gen ≠ gen || e.state == .free then s.countStale pcn
  else
    let same (h : Header) : Bool := h.rank == rank && h.serial == serial
    let held := allHeaders e
    let byCommit := cause == .commit
    let e1 :=
      match e.resolution with
      | .claiming n done rest false =>
        if byCommit && held then { e with resolution := .claiming n done rest true, loss := lossOf e } else e
      | _ => e
    let shadow : List Header :=
      if !e.desc.timed && e.headers.any same then []
      else
        match (e.headers.find? same).map Header.tid, e.desc.parties.find? fun p => p.1 == rank with
        | some tid, _ => [⟨rank, tid, 0, vt, serial⟩]
        | none, some p => [⟨rank, p.2.1, 0, vt, serial⟩]
        | none, none => []
    (s.setEntry pcn idx { e1 with
      headers := e.headers.filter fun h => !same h
      shadows := e.shadows ++ shadow }).tryResolve pcn idx

/-- A slot learns that the header of an entry is gone (R92, R255): the offer goes on with the others, or traps. -/
def takeHeaderGone (s : State) (tid home idx gen : Nat) : State :=
  let s1 := s.modCtx tid fun c => { c with
    offer := { c.offer with
      entries := c.offer.entries.map fun x =>
        if x.home = home && x.entry = idx && x.gen = gen then { x with gone := true } else x } }
  if (s1.ctx tid).offer.state = .opened then s1.reopened tid else s1

end State

/-- OFFER_HEADER (R83). -/
def execOfferHeader (n : Nat) (s : State) : Res :=
  match s.arrive n with
  | some (⟨_, _, dst, colour, _, .header idx gen h⟩, s1) => .next (s1.takeHeader dst idx gen h colour)
  | _ => .next s

/-- CLAIM (R82). -/
def execClaim (n : Nat) (s : State) : Res :=
  match s.arrive n with
  | some (⟨_, _, _, colour, _, .claim tid q⟩, s1) => .next (s1.takeClaim tid q colour)
  | _ => .next s

/-- CLAIM_ANSWER (R83). -/
def execClaimAnswer (n : Nat) (s : State) : Res :=
  match s.arrive n with
  | some (⟨_, _, dst, colour, _, .grant idx gen tid number⟩, s1) =>
    .next (s1.takeAnswer dst idx gen tid number true colour)
  | some (⟨_, _, dst, colour, _, .refuse idx gen tid number⟩, s1) =>
    .next (s1.takeAnswer dst idx gen tid number false colour)
  | _ => .next s

/-- COMMIT_NOTICE (R82). -/
def execCommitNotice (n : Nat) (s : State) : Res :=
  match s.arrive n with
  | some (⟨_, _, _, colour, _, .commit tid home idx gen vt number⟩, s1) =>
    .next ((s1.takeCommit tid home idx gen vt number colour).getD s)
  | _ => .next s

/-- SLOT_RELEASE (R82). -/
def execSlotRelease (n : Nat) (s : State) : Res :=
  match s.arrive n with
  | some (⟨_, _, _, colour, _, .release tid home idx _ number⟩, s1) => .next (s1.takeRelease tid home idx number colour)
  | _ => .next s

/-- HEADER_WITHDRAWAL (R82, R99); a home's removal of a header reaches its slot the same way (R92, R255). -/
def execHeaderWithdrawal (n : Nat) (s : State) : Res :=
  match s.arrive n with
  | some (⟨_, _, dst, _, _, .withdraw idx gen rank serial vt cause⟩, s1) =>
    .next (s1.takeWithdrawal dst idx gen rank serial vt cause)
  | some (⟨_, _, _, _, _, .headerGone tid home idx gen⟩, s1) => .next (s1.takeHeaderGone tid home idx gen)
  | _ => .next s

namespace State

/-- Contributions reach the home (R88, R346). Those of a cancelled occurrence go with it (R100). -/
def takeContribution (s : State) (pcn idx gen number : Nat) (data : List (Nat × List Byte)) : State :=
  let e := s.entry pcn idx
  match e.current with
  | some o =>
    if e.gen ≠ gen then s.countStale pcn
    else if o.number ≠ number then s
    else
      let o' := { o with contributions := o.contributions ++ data }
      let s1 := s.setEntry pcn idx { e with current := some o' }
      if o'.contributions.length = awaited e then s1.sendResults pcn idx else s1
  | none => if e.gen ≠ gen || e.state == .free then s.countStale pcn else s

/-! ## Combining in the routers (R345, R346) -/

/-- A contribution at a router of its route (R346), or at the router of its home, whose entry may complete it there. -/
def contributionAt (s : State) (n : Nat) (p : Packet) (router idx gen number : Nat) (data : List (Nat × List Byte)) : State :=
  let e := s.entry p.dst idx
  match s.combineStop? p.src p.dst idx gen number with
  | some (r, input) =>
    if r ≠ router then s
    else if e.gen = gen ∧ (e.current.map Occurrence.number) ≠ some number then
      -- the marker of a cancelled occurrence clears its pair and goes no further
      (s.takePacket n p).clearSets p.dst idx gen number
    else
      let x := s.combineAt n p router input idx gen number data
      if x.2.isEmpty then x.1 else x.1.takeContribution p.dst idx gen number x.2
  | none => if router = p.dst then (s.takePacket n p).takeContribution p.dst idx gen number data else s

end State

/-- COMBINE_CONTRIBUTION (R346): a contribution reaches the first router of its route whose entry awaits it, or its home. The tail
marker releases its circuit (R347). -/
def execCombineContribution (n router : Nat) (s : State) : Res :=
  match s.net[n]? with
  | some p =>
    match p.body with
    | .contribution idx gen number data =>
      if s.mayArrive n p then
        .next ((if router = p.dst then { s with circuits := s.circuits.filter (· != (p.src, p.dst)) } else s).contributionAt
          n p router idx gen number data)
      else .next s
    | _ => .next s
  | none => .next s

namespace State

/-- Circuits held by a link, or sent by a core (R347). -/
def linkOf (h : Nat × Nat) : Nat × Nat := (h.2, h.1)

/-- The circuits that cross a router (R344, R347). -/
def circuitsAt (s : State) (pcn : Nat) : Nat :=
  (s.circuits.filter fun c => c.1 == pcn || (route 128 c.1 c.2).any fun h => h.1 == pcn).length

end State

/-- STREAM_CIRCUIT (R347): a payload contribution of a hinted channel, at least 1,024 bytes long, holds a circuit along its
path when every link has fewer than two and its core sends none. It changes no result. -/
def execStreamCircuit (n : Nat) (s : State) : Res :=
  match s.net[n]? with
  | some p =>
    match p.body with
    | .contribution idx _ _ data =>
      let e := s.entry p.dst idx
      let hinted := e.desc.kind == 0 && decide (1024 ≤ e.desc.size) && data.any fun d =>
        e.desc.parties.any fun q => q.1 == d.1 && (s.ctx q.2.1).offer.entries.any fun x =>
          x.home == p.dst && x.entry == idx && x.stream
      let busy (link : Nat × Nat) : Nat :=
        (s.circuits.filter fun c => (State.route 128 c.1 c.2).any fun h => State.linkOf h == link).length
      if hinted && !(s.circuits.any fun c => c.1 == p.src) &&
          (State.route 128 p.src p.dst).all (fun h => decide (busy (State.linkOf h) < 2)) then
        .next { s with circuits := s.circuits ++ [(p.src, p.dst)] }
      else .next s
    | _ => .next s
  | none => .next s

namespace State

/-- A timed receiver journals the line that a payload writes (R89, R97); none when no entry is free (R98). -/
def journalPayload (s : State) (tid line : Nat) : Option State := if s.isTimed tid then s.journal tid line else some s

/-- The next line of a receiver's payload is written (R89); a result of a combination raises its flags where it is
received (R75). DESIGN CHOICE: the lines are written in ascending order (notes/assumptions/70.md). -/
def writePayload (s : State) (n : Nat) (p : Packet) (tid home idx number : Nat) : State :=
  let e := s.entry home idx
  match e.current with
  | none => s.takePacket n p
  | some o =>
    if o.number ≠ number then s.takePacket n p
    else
      match o.writes.find? fun w => w.1 == tid, (s.ctx tid).offer.state with
      | some (_, rank, off, bs), .committed i =>
        match (s.ctx tid).offer.entries[i]? with
        | none => s
        | some x =>
          let dst := x.recvDst + off
          let k := min bs.length (16 - dst % 16)
          match s.journalPayload tid (dst / 16 * 16) with
          | none => s
          | some s1 =>
            let s2 := s1.writeWindow (localKey (coreOfTid tid) dst) (bs.take k)
            let rest := bs.drop k
            let ws := o.writes.filterMap fun w =>
              if w.1 = tid then (if rest.isEmpty then none else some (tid, rank, off + k, rest)) else some w
            let s3 := s2.setEntry home idx { e with current := some { o with writes := ws } }
            let s4 := s3.leaveRouters home idx e.gen number (coreOfTid tid)
            if rest.isEmpty then (s4.takePacket n p).modCtx tid fun c => c.raise o.flags else s4
      | none, _ => s.takePacket n p
      | _, _ => s

end State

/-- PAYLOAD_ARRIVAL (R89): one line of a receiver's payload is written at its banks. -/
def execPayloadArrival (n : Nat) (s : State) : Res :=
  match s.net[n]? with
  | some p =>
    match p.body with
    | .payload tid home idx _ number => if s.mayArrive n p then .next (s.writePayload n p tid home idx number) else .next s
    | _ => .next s
  | none => .next s

namespace State

/-- Every participant has closed its slot on the occurrence and has no access outstanding (R58). -/
def participantsReady (s : State) (home idx : Nat) (e : ArbEntry) : Bool :=
  e.desc.parties.all fun p =>
    let c := s.ctx p.2.1
    c.port.isNone && bufferEmpty c && match c.offer.state with
      | .committed i => (c.offer.entries[i]?).any fun x => x.home == home && x.entry == idx
      | _ => false

/-- A participant resumes (R256): its offer returns the index; a fault that the occurrence carries is taken next
(R232). -/
def resumeParticipant (s : State) (tid : Nat) (batch : Option Nat) : State :=
  s.modCtx tid fun c =>
    match c.offer.state with
    | .committed i =>
      let due (f : JobFault) : Bool := some f.batch == batch || f.due
      let late := (c.faults.filter due).map lateOfFault
      { ((c.setG c.offer.dest (BitVec.ofNat 64 i)).advance) with
        offer := .none, late := c.late ++ late, faults := c.faults.filter fun f => !due f }
    | _ => c

end State

/-- EVENT_OCCUR (R58, R66, R89): with every payload write performed the participants resume. A timed occurrence is kept
until GVT passes it (R100). -/
def execEventOccur (pcn idx : Nat) (s : State) : Res :=
  let e := s.entry pcn idx
  match e.current with
  | none => .next (s.tryResolve pcn idx)
  | some o =>
    if !o.writes.isEmpty || decide (o.contributions.length < State.awaited e) || !s.participantsReady pcn idx e then
      .next s
    else
      let s1 := e.desc.parties.foldl (fun t p =>
        t.resumeParticipant p.2.1 ((o.standing.bind Standing.source).map StandingSource.batch)) s
      let e' := { e with
        current := none, resolution := .idle
        past := if e.desc.timed then e.past ++ [o] else [] }
      .next (((s1.setEntry pcn idx e').clearSets pcn idx e.gen o.number).tryResolve pcn idx)

end Sys2Proof.Machine
end

