-- ==== Sys2Proof/Machine/EventNew.lean ====
section
/-!
DEFINITION. Creating and freeing events (05_events R76, R77, R92; 13_isa_events_system R252 to R255): `ev.new`,
`ev.free`, and what their home does.
-/

namespace Sys2Proof.Machine

/-- The block of n bytes at a self-window offset lies in the window. -/
def blockInWindow (a : Word) (n : Nat) : Bool := decide (a.toNat + n ≤ 0x20000)

namespace State

/-- The instruction that issues starts an access whose parts are read in order; it ends, or traps, when the last has been
performed. -/
def readBlock (s : State) (kind : AccessKind) (a : Word) (n : Nat) : Res :=
  let parts := (List.range n).map fun k => partAt s.here (a + BitVec.ofNat 64 (16 * k)) 16 0 (16 * k)
  .next (s.modMe fun c =>
    { c with port := some ⟨c.nextSerial, kind, false, parts, []⟩, nextSerial := c.nextSerial + 1, target := a
             wait := .access, status := .waiting, held := none })

end State

/-- `ev.new` up to the reading of its descriptor (R252). -/
def execEvNew (d a b : GReg) (s : State) : Res :=
  let off := s.g a
  if off.toNat % 16 ≠ 0 then s.trapHere causeMisaligned off
  else if !blockInWindow off 64 then s.trapHere causeUnmapped off
  else if s.isTimed s.cur then s.trapHere causeTimed 0
  else if (s.launchOf s.cur).isNone then s.trapHere causeDescriptor off
  else s.readBlock (.descriptor d (s.g b)) off 4

namespace State

/-- The descriptor of an `ev.new` has been read: orders 2 and 3 of R76, then the request goes to the home (R252). -/
def finishDescriptor (s : State) (tid : Nat) (bs : List Byte) (d : GReg) (sel : Word) : State :=
  let c := s.ctx tid
  let trap (cause : Nat) (x : Word) : State := s.takeTrapAt tid ⟨cause, false, c.start, x, 0⟩
  match s.launchOf tid with
  | none => trap causeDescriptor c.target
  | some key =>
    match s.launch? key with
    | none => trap causeDescriptor c.target
    | some l =>
      match (if sel >>> 22 = 0 then parseDescriptor s l bs else none) with
      | none => trap causeDescriptor c.target
      | some desc =>
        let home := if sel.getLsbD 21 then some (coreOfTid tid) else s.coreOfLogical? tid (sel.toNat % 2 ^ 12)
        match home with
        | none => trap causeRegion sel
        | some pcn =>
          if !s.isUser pcn || !s.coreInRegion l.region pcn then trap causeRegion sel
          else
            (s.setCtx tid { c with wait := .home, status := .waiting, dest := d }).post .request (coreOfTid tid) pcn
              (s.trafficColour tid)
              (.evNew tid (sel.toNat / 2 ^ 12 % 2 ^ 8) (sel.getLsbD 20) desc (s.spaceOf l.region) key l.region)

/-- The lowest-numbered free entry at a home. -/
def freeEntry? (s : State) (pcn : Nat) : Option Nat := (List.range 256).find? fun i => (s.entry pcn i).state == .free

/-- An entry takes an event (R70, R76 order 5): its generation advances, from 4,095 to 1. An ingress-participant event has
its tag bound (R354). -/
def createEvent (s : State) (pcn idx : Nat) (d : Descriptor) (space key : Nat) : State :=
  let e := s.entry pcn idx
  let gen := if 4095 ≤ e.gen then 1 else e.gen + 1
  let s1 := s.setEntry pcn idx
    { ArbEntry.free with state := .live, gen := gen, space := space, launch := key, desc := d, nextNumber := e.nextNumber }
  let s2 := (s1.programRouters pcn idx gen d).modLaunch key fun l => { l with events := l.events ++ [(pcn, idx)] }
  if d.kind = 4 then s2.bindTag (keyRegion key) d.tag pcn idx gen else s2

/-- A home takes a request for a new event (R253): a handle, or 0 when the entry is not free or the budget is used up. -/
def takeEvNew (s : State) (pcn tid idx : Nat) (any : Bool) (d : Descriptor) (space key region : Nat)
    (colour : Option Nat) : State :=
  let pick := if any then s.freeEntry? pcn else if (s.entry pcn idx).state = .free then some idx else none
  let answer (t : State) (h : Nat) : State :=
    t.post .reply pcn (coreOfTid tid) colour (.evNewAnswer tid (BitVec.ofNat 64 h))
  match pick, (s.launch? key).filter fun l => l.phase != .ended with
  -- the launch has been terminated meanwhile
  | _, none => s
  | none, _ => answer s 0
  | some i, some _ =>
    if s.arbAllows region 1 then
      let s1 := s.createEvent pcn i d space key
      answer s1 (s1.handleOf pcn i (s1.entry pcn i))
    else answer s 0

end State

/-- EV_NEW_REQUEST (R253). -/
def execEvNewRequest (n : Nat) (s : State) : Res :=
  match s.arrive n with
  | some (⟨_, _, dst, colour, _, .evNew tid idx any d space key region⟩, s1) =>
    .next (s1.takeEvNew dst tid idx any d space key region colour)
  | _ => .next s

/-- EV_NEW_ANSWER (R252): g[d] takes the handle or 0; an answer to `ev.free` ends its wait. -/
def execEvNewAnswer (n : Nat) (s : State) : Res :=
  match s.arrive n with
  | some (⟨_, _, _, _, _, .evNewAnswer tid h⟩, s1) =>
    if (s1.ctx tid).wait = .home then .next (s1.modCtx tid fun c => (c.setG c.dest h).advance) else .next s1
  | _ => .next s

/-- `ev.free` (R254): the free goes to the home of the handle, and the thread waits until the home has taken it. A handle
whose home number names no core reaches nobody: it is stale, and the instruction ends. -/
def execEvFree (a : GReg) (s : State) : Res :=
  let h := (s.g a).setWidth 32
  if s.isTimed s.cur then s.trapHere causeTimed 0
  else
    match s.coreOfLogical? s.cur (handleHome h.toNat) with
    | none => .next s.finish
    | some pcn =>
      .next ((s.modMe fun c => { c with wait := .home, status := .waiting, dest := 0, held := none }).post .request
        s.here pcn (s.trafficColour s.cur) (.evFree s.cur h))

namespace State

/-- The faults of a launch's threads that wait for an occurrence of a handle become late traps: its event has been freed (R232). -/
def releaseFaults (s : State) (h : BitVec 32) (key : Nat) : State :=
  let due (f : JobFault) : Bool := f.handle == h
  s.modLates (fun _ p => (s.proc p).launch == some key) fun x =>
    (x.1 ++ (x.2.filter due).map lateOfFault, x.2.filter fun f => !due f)

/-- An event is freed (R92): its entry drains, its slots are released and its headers removed. An occurrence that has
committed completes. -/
def freeEvent (s : State) (pcn idx : Nat) : State :=
  let e := s.entry pcn idx
  if e.state ≠ .live then s
  else
    let colour := s.launchColour e.launch
    let s1 := match e.resolution with
      | .claiming number granted _ _ => s.tellRanks pcn e granted fun tid => .release tid pcn idx e.gen number
      | _ => s
    let s2 := s1.setEntry pcn idx { e with
      state := .draining, headers := [], shadows := [], standing := []
      resolution := if e.current.isSome then .moving else .idle }
    let s3 := e.headers.foldl (fun t h =>
      t.post .reply pcn (coreOfTid h.tid) colour (.headerGone h.tid pcn idx e.gen)) s2
    (s3.releaseFaults (BitVec.ofNat 32 (s.handleOf pcn idx e)) e.launch).unbindEvent (keyRegion e.launch) pcn idx

end State

/-- EV_FREE_REQUEST (R92, R254): a stale handle is a no-op, and the wait ends the same way. -/
def execEvFreeRequest (n : Nat) (s : State) : Res :=
  match s.arrive n with
  | some (⟨_, _, dst, colour, _, .evFree tid h⟩, s1) =>
    let s2 := match s1.liveEntry? tid h.toNat with
      | some (pcn, idx, _) => s1.freeEvent pcn idx
      | none => s1
    .next (s2.post .reply dst (coreOfTid tid) colour (.evNewAnswer tid 0))
  | _ => .next s

/-- A packet in flight belongs to an entry (R92). -/
def ofEntry (pcn idx gen : Nat) (p : Packet) : Bool :=
  match p.body with
  | .header i g _ | .grant i g _ _ | .refuse i g _ _ | .withdraw i g _ _ _ _ | .contribution i g _ _
  | .antiHeader i g _ _ | .antiPayload i g _ _ => p.dst == pcn && i == idx && g == gen
  | .claim _ q => q.home == pcn && q.entry == idx && q.gen == gen
  | .commit _ h i g _ _ | .release _ h i g _ | .headerGone _ h i g | .payload _ h i g _ | .straggler _ h i g _ _ _
  | .antiOccurrence _ h i g _ => h == pcn && i == idx && g == gen
  | _ => false

/-- ENTRY_FREED (R92): a draining entry with no packet in flight and no occurrence in progress becomes free; its combining
entries are released (R345). -/
def execEntryFreed (pcn idx : Nat) (s : State) : Res :=
  let e := s.entry pcn idx
  if e.state = .draining && e.current.isNone && !s.net.any (ofEntry pcn idx e.gen) then
    let e' := { ArbEntry.free with gen := e.gen, nextNumber := e.nextNumber }
    .next (((s.setEntry pcn idx e').releaseRouters pcn idx e.gen).modLaunch e.launch fun l =>
      { l with events := l.events.filter (· != (pcn, idx)) })
  else .next s

namespace State

/-- An Open slot closes with −1 because its time has come; a Locked one waits for its event (R86). -/
def timeOut (s : State) (tid : Nat) : State :=
  let c := s.ctx tid
  match c.offer.state with
  | .opened => s.closeOffer tid true
  | .locked _ _ _ => s.setCtx tid { c with offer := { c.offer with timedOut := true } }
  | _ => s

end State

/-- OFFER_TIMEOUT (R86). -/
def execOfferTimeout (tid : Nat) (s : State) : Res :=
  match (s.ctx tid).offer.deadline with
  | some t => if t ≤ s.now && !(s.ctx tid).parked then .next (s.timeOut tid) else .next s
  | none => .next s

end Sys2Proof.Machine
end

