-- ==== Sys2Proof/Machine/Engine.lean ====
section
/-!
DEFINITION. Engine registers and the submission of jobs (12_isa_engines R222 to R228, R234 to R246; R104, R356, R383).
-/

namespace Sys2Proof.Machine

/-- The type of a 4-bit code (R143). -/
def tyOfCode (n : Nat) : Ty :=
  match n with
  | 0 => .i8 | 1 => .i16 | 2 => .i32 | 3 => .i64 | 4 => .i4 | 5 => .e2m1 | 6 => .u32 | 7 => .u64
  | 8 => .f64 | 9 => .f32 | 10 => .bf16 | 11 => .f16 | 12 => .e5m2 | 13 => .e4m3 | 14 => .e3m2 | _ => .e2m3

/-! ## Registers by number (R223, R224) -/

/-- The bits that an MXE register has, none for a number that is not assigned (R223). -/
def mxMask (n : Nat) : Option Nat :=
  match n with
  | 0x00 | 0x0C => some 0x1F
  | 0x01 => some 0x1FF
  | 0x02 => some 7
  | 0x03 => some 0xFFFFFFFF
  | 0x04 | 0x05 | 0x08 | 0x0A | 0x0B => some 0x1FFFF
  | 0x06 => some 1
  | 0x07 | 0x09 => some (2 ^ 64 - 1)
  | _ => none

/-- The value of an MXE register. -/
def mxGet (r : MxRegs) (n : Nat) : Nat :=
  match n with
  | 0x00 => r.mtype.toNat
  | 0x01 => r.mkDim.toNat
  | 0x02 => r.mtile.toNat
  | 0x03 => r.mevt.toNat
  | 0x04 => r.mlda.toNat
  | 0x05 => r.mldb.toNat
  | 0x06 => r.mbcol.toNat
  | 0x07 => r.msca.toNat
  | 0x08 => r.mssa.toNat
  | 0x09 => r.mscb.toNat
  | 0x0A => r.mssb.toNat
  | 0x0B => r.mldc.toNat
  | _ => r.mout.toNat

/-- The MXE registers with one written. -/
def mxSet (r : MxRegs) (n v : Nat) : MxRegs :=
  match n with
  | 0x00 => { r with mtype := BitVec.ofNat 5 v }
  | 0x01 => { r with mkDim := BitVec.ofNat 9 v }
  | 0x02 => { r with mtile := BitVec.ofNat 3 v }
  | 0x03 => { r with mevt := BitVec.ofNat 32 v }
  | 0x04 => { r with mlda := BitVec.ofNat 17 v }
  | 0x05 => { r with mldb := BitVec.ofNat 17 v }
  | 0x06 => { r with mbcol := BitVec.ofNat 1 v }
  | 0x07 => { r with msca := BitVec.ofNat 64 v }
  | 0x08 => { r with mssa := BitVec.ofNat 17 v }
  | 0x09 => { r with mscb := BitVec.ofNat 64 v }
  | 0x0A => { r with mssb := BitVec.ofNat 17 v }
  | 0x0B => { r with mldc := BitVec.ofNat 17 v }
  | 0x0C => { r with mout := BitVec.ofNat 5 v }
  | _ => r

/-- The bits that a copy register has, none for a number that is not assigned (R224). -/
def cpMask (n : Nat) : Option Nat :=
  match n with
  | 0x01 => some 0x1F1F
  | 0x02 | 0x15 => some (2 ^ 64 - 1)
  | 0x07 | 0x08 | 0x09 => some (2 ^ 48 - 1)
  | n => if n ≤ 0x16 then some 0xFFFFFFFF else none

/-- The value of a copy register. -/
def cpGet (r : CpRegs) (n : Nat) : Nat :=
  if n = 0 then r.cevt.toNat
  else if n = 1 then r.cconv.toNat
  else if n = 2 then r.cscl.toNat
  else if n < 7 then (r.cdim[n - 3]?.getD 0).toNat
  else if n < 0x0A then (r.cstr[n - 7]?.getD 0).toNat
  else if n < 0x0E then (r.corg[n - 0x0A]?.getD 0).toNat
  else if n < 0x12 then (r.ctil[n - 0x0E]?.getD 0).toNat
  else if n < 0x15 then (r.cdst[n - 0x12]?.getD 0).toNat
  else if n = 0x15 then r.cfill.toNat
  else r.cslack.toNat

/-- The copy registers with one written. -/
def cpSet (r : CpRegs) (n v : Nat) : CpRegs :=
  if n = 0 then { r with cevt := BitVec.ofNat 32 v }
  else if n = 1 then { r with cconv := BitVec.ofNat 13 v }
  else if n = 2 then { r with cscl := BitVec.ofNat 64 v }
  else if n < 7 then { r with cdim := r.cdim.setIfInBounds (n - 3) (BitVec.ofNat 32 v) }
  else if n < 0x0A then { r with cstr := r.cstr.setIfInBounds (n - 7) (BitVec.ofNat 48 v) }
  else if n < 0x0E then { r with corg := r.corg.setIfInBounds (n - 0x0A) (BitVec.ofNat 32 v) }
  else if n < 0x12 then { r with ctil := r.ctil.setIfInBounds (n - 0x0E) (BitVec.ofNat 32 v) }
  else if n < 0x15 then { r with cdst := r.cdst.setIfInBounds (n - 0x12) (BitVec.ofNat 32 v) }
  else if n = 0x15 then { r with cfill := BitVec.ofNat 64 v }
  else { r with cslack := BitVec.ofNat 32 v }

/-! ## `mx.cfg`, `cp.cfg`, `mx.get`, `cp.stat` (R225, R226) -/

/-- The checks of R225 before the block is read, and the reading. -/
def State.cfg (s : State) (copy : Bool) (a b : GReg) : Res :=
  let off := s.g a
  let n := (s.g b).toNat
  let last : Int := off.toNat + 16 * n - 1
  if off.toNat % 16 ≠ 0 then s.trapHere causeMisaligned off
  else if last < 0 || 0x20000 ≤ last then s.trapHere causeUnmapped off
  else if n < 1 || 32 < n then s.trapHere causeConfig (s.g b)
  else s.readBlock (.config copy) off n

/-- `mx.cfg` (R225). -/
def execMxCfg (a b : GReg) (s : State) : Res := s.cfg false a b
/-- `cp.cfg` (R225). -/
def execCpCfg (a b : GReg) (s : State) : Res := s.cfg true a b

/-- An entry of a configuration block is right: an assigned number, zero bytes 2 to 7, and no bit outside the fields
(R225). -/
def cfgEntryOk (copy : Bool) (bs : List Byte) : Bool :=
  match (if copy then cpMask else mxMask) (descNat bs 0 2) with
  | some mask => descNat bs 2 6 == 0 && Nat.land (descNat bs 8 8) mask == descNat bs 8 8
  | none => false

namespace State

/-- The block of an `mx.cfg` or `cp.cfg` has been read: every entry is applied, or none is (R225). -/
def finishConfig (s : State) (tid : Nat) (copy : Bool) (bs : List Byte) : State :=
  let c := s.ctx tid
  let entries := (List.range (bs.length / 16)).map fun i => (i, (bs.drop (16 * i)).take 16)
  match entries.find? fun e => !cfgEntryOk copy e.2 with
  | some e => s.takeTrapAt tid ⟨causeConfig, false, c.start, c.target + BitVec.ofNat 64 (16 * e.1), 0⟩
  | none =>
    let vals := entries.map fun e => (descNat e.2 0 2, descNat e.2 8 8)
    s.setCtx tid
      (if copy then { c with cp := vals.foldl (fun r (v : Nat × Nat) => cpSet r v.1 v.2) c.cp }
       else { c with mx := vals.foldl (fun r (v : Nat × Nat) => mxSet r v.1 v.2) c.mx }).advance

end State

/-- `mx.get` (R226). -/
def execMxGet (d a : GReg) (s : State) : Res :=
  let n := (s.g a).toNat
  if n < 256 && (mxMask n).isSome then s.writeG d (BitVec.ofNat 64 (mxGet s.me.mx n)) else s.trapHere causeConfig (s.g a)

/-- `cp.stat` (R226): a copy register, or the promise of an accepted, incomplete copy job. -/
def execCpStat (d a : GReg) (s : State) : Res :=
  let x := s.g a
  if x.getLsbD 63 then
    let n := x.toNat % 2 ^ 63
    if n < 256 && (cpMask n).isSome then s.writeG d (BitVec.ofNat 64 (cpGet s.me.cp n)) else s.trapHere causeConfig x
  else
    match (s.core s.here).cpQueue.find? fun j => j.id.toNat == x.toNat with
    | some j => s.writeG d (match j.promise with | some p => BitVec.ofNat 64 p | none => BitVec.allOnes 64)
    | none => s.writeG d 0

/-! ## Ranges and checks of a submission (R227) -/

/-- What order 1 of R227 found: a register constraint, by the lowest number it involves, or an operand (R383). -/
inductive Constraint where
  | register (n : Nat)
  | operand (x : Word)
deriving DecidableEq, Repr

/-- A byte range that a job reads or writes; its operand's base address says whether it is off-chip. -/
structure ByteRange where
  first : Word
  bytes : Nat
  write : Bool
  /-- Operands A and B of the MXE lie in the cluster's local stores (R234). -/
  cluster : Bool
  offchip : Bool
deriving DecidableEq, Repr

/-- Two addresses lie in one window (R51). -/
def sameWindow (a b : Target) : Bool :=
  match a, b with
  | .self _, .self _ => true
  | .localStore p _, .localStore q _ | .accumulator p _, .accumulator q _ | .vector p _, .vector q _ => p == q
  | _, _ => false

namespace State

/-- The check of a core-side range at order 4 of R227. -/
def checkRange (s : State) (tid : Nat) (r : ByteRange) : Option Nat :=
  let a := decodeAddr r.first
  let b := decodeAddr (r.first + BitVec.ofNat 64 (r.bytes - 1))
  let first := s.checkTarget tid a
  let last := s.checkTarget tid b
  if first.isSome then first
  else if last = some causeUnmapped then last
  else
    match a with
    | .control _ => some causeUnmapped
    | _ =>
      if !sameWindow a b then some causeMisaligned
      else if r.cluster then
        match a with
        | .self _ => none
        | .localStore pcn _ => if clusterOf pcn = clusterOf (coreOfTid tid) then none else some causeRegion
        | _ => some causeRegion
      else none

/-- An address is off-chip. -/
def isOffchip (a : Word) : Bool := match decodeAddr a with | .offchip _ => true | _ => false

/-- A range that a timed process may not write: its own core's local store, its own tiles and its own slot's vector
window are the others (R104). -/
def timedForbids (tid : Nat) (r : ByteRange) : Bool :=
  r.write && !r.offchip && match decodeAddr r.first with
    | .self _ => false
    | .localStore pcn _ | .accumulator pcn _ => pcn != coreOfTid tid
    | .vector pcn b => pcn != coreOfTid tid || b / 512 != slotOfTid tid
    | _ => true

/-- Orders 2 and 3 of R227 on a completion handle. -/
def checkHandle (s : State) (tid : Nat) (h : BitVec 32) : Option (Nat × Word) :=
  if h = 0 then none
  else
    match s.liveEntry? tid h.toNat with
    | none => some (causeStale, h.setWidth 64)
    | some (pcn, idx, _) =>
      let e := s.entry pcn idx
      if e.desc.kind = 3 && (s.roleIn? tid e).isSome then none else some (causeConfig, h.setWidth 64)

/-- A range lies in off-chip space (R227 order 5). -/
def inOffchip (r : ByteRange) : Bool :=
  decide (2 ^ 48 ≤ r.first.toNat) && decide (r.first.toNat + r.bytes ≤ 2 ^ 49)

/-- Orders 4 to 6 of R227: base addresses, core-side ranges in operand order, off-chip ranges, and R104. -/
def checkRanges (s : State) (tid : Nat) (bases : List Word) (ranges : List ByteRange) : Option (Nat × Word) :=
  match bases.find? fun a => a.toNat % 4 != 0 with
  | some a => some (causeMisaligned, a)
  | none =>
    match (ranges.filter fun r => !r.offchip).findSome? fun r => (s.checkRange tid r).map fun c => (c, r.first) with
    | some x => some x
    | none =>
      match (ranges.filter ByteRange.offchip).find? fun r => !inOffchip r with
      | some r => some (causeUnmapped, r.first)
      | none =>
        if s.isTimed tid then (ranges.find? (timedForbids tid)).map fun r => (causeTimed, r.first) else none

end State

/-! ## MXE forms (R234 to R238) -/

/-- MTYPE is one of the combinations of R223. -/
def mtypeOk (r : MxRegs) : Bool :=
  let tc := r.mtype.toNat % 16
  if r.mtype.getLsbD 4 then [5, 12, 13, 14, 15].contains tc else [0, 4, 8, 9, 10, 11, 12, 13].contains tc

/-- MTYPE.tc. -/
def mxTc (r : MxRegs) : Nat := r.mtype.toNat % 16
/-- MTYPE.mx. -/
def mxBlocks (r : MxRegs) : Bool := r.mtype.getLsbD 4

/-- The type that a tile element has (R223). -/
def accTy (r : MxRegs) : Ty :=
  if mxBlocks r then .f32
  else match mxTc r with
    | 8 => .f64
    | 0 | 4 => .i32
    | _ => .f32

/-- Bytes of a tile element. -/
def accBytes (r : MxRegs) : Nat := if accTy r = .f64 then 8 else 4

/-- B comes from a latch buffer (R235). -/
def fromLatch (f : JobForm) (b : Word) : Bool := f == .mmb || (f == .dist && b.getLsbD 63)

/-- The output type of `mx.st` and `mx.ld`: converted or not, and as what (R237). -/
def moveOut (r : MxRegs) (b : Word) : Bool × Ty :=
  if b = 0 then (r.mout.getLsbD 4, tyOfCode (r.mout.toNat % 16)) else (b.getLsbD 4, tyOfCode (b.toNat % 16))

/-- `mx.ld` converts from this type to the tile's: the conversion widens (R237). -/
def loadWidens (acc t : Ty) : Bool :=
  match acc with
  | .i32 => t == .i8 || t == .i16
  | _ =>
    match tyFmt? acc, tyFmt? t with
    | some f, some g => decide (t.width < acc.width) && fmtWidens f g
    | _, _ => false

/-- Order 1 of R227 for an MXE form: the first register constraint that fails, by its lowest number, then the mode bits
of the operands. DEDUCED: the checks of R234 and the range of MK hold for every MXE form, also for one that reads no K
(notes/assumptions/71.md). -/
def mxConstraint (f : JobForm) (r : MxRegs) (a b : Word) : Option Constraint :=
  let k := r.mkDim.toNat
  if !mtypeOk r then some (.register 0)
  else if accTy r = .f64 && r.mtile.toNat % 2 = 1 then some (.register 0)
  else if k < 1 || 256 < k then some (.register 1)
  else if (mxBlocks r && (k % 32 != 0 || r.mbcol == 0)) || (mxTc r == 4 && k % 2 == 1) then some (.register 0)
  else if f = .ld && b = 0 && (moveOut r b).1 && !loadWidens (accTy r) (moveOut r b).2 then some (.register 0)
  else
    match f with
    | .mmb => if 4 ≤ b.toNat then some (.operand b) else none
    | .dist => if b.getLsbD 63 && 4 ≤ b.toNat % 2 ^ 63 then some (.operand b) else none
    | .zero => if 256 ≤ a.toNat then some (.operand a) else none
    | .st => if b != 0 && (32 ≤ b.toNat || !b.getLsbD 4) then some (.operand b) else none
    | .ld =>
      if b != 0 && (32 ≤ b.toNat || !b.getLsbD 4 || !loadWidens (accTy r) (moveOut r b).2) then some (.operand b)
      else none
    | .topk =>
      let n := b.toNat % 32
      if 2 ^ 32 ≤ b.toNat || b.toNat / 32 % 2 ^ 11 != 0 || n < 1 || 16 < n then some (.operand b) else none
    | _ => none

/-- Bytes that n elements of a type take when they are packed from a byte's start (R113). -/
def packedBytes (t : Ty) (n : Nat) : Nat := (n * t.width + 7) / 8

/-- n rows of some bytes, a stride apart. -/
def rowRanges (base : Word) (stride n bytes : Nat) (write cluster : Bool) : List ByteRange :=
  (List.range n).map fun i => ⟨base + BitVec.ofNat 64 (i * stride), bytes, write, cluster, false⟩

/-- The ranges that an MXE job reads or writes, in operand order: A, B, their scales, or the array moved (R234 to
R238). DESIGN CHOICE: the scales may lie in any core-side window of the region, since the window rule of R234 names A and B alone
(notes/assumptions/72.md). -/
def mxRanges (f : JobForm) (r : MxRegs) (a b : Word) : List ByteRange :=
  let k := r.mkDim.toNat
  let t := tyOfCode (mxTc r)
  match f with
  | .mma | .mmb | .dist =>
    let latch := fromLatch f b
    rowRanges a r.mlda.toNat 16 (packedBytes t k) false true ++
      (if latch then []
       else if r.mbcol = 1 then rowRanges b r.mldb.toNat 16 (packedBytes t k) false true
       else rowRanges b r.mldb.toNat k (packedBytes t 16) false true) ++
      (if mxBlocks r then
        rowRanges r.msca r.mssa.toNat 16 (k / 32) false false ++
          (if latch then [] else rowRanges r.mscb r.mssb.toNat 16 (k / 32) false false)
       else [])
  | .ld | .st =>
    let o := moveOut r b
    rowRanges a r.mldc.toNat 16 (if o.1 then packedBytes o.2 16 else 16 * accBytes r) (f == .st) false
  | .topk => [⟨a, 256, true, false, false⟩]
  | _ => []

/-- The base addresses that must be multiples of 4 (R227 order 4). DESIGN CHOICE: MSCA and MSCB, and CSCL of a copy, are addresses of
single bytes (R223, R224) and need not be (notes/assumptions/72.md). -/
def mxBases (f : JobForm) (a b : Word) : List Word :=
  match f with
  | .zero => []
  | .mma => [a, b]
  | .dist => if b.getLsbD 63 then [a] else [a, b]
  | _ => [a]

/-! ## Copy forms (R241 to R245, R356) -/

/-- A signed 32-bit register as an integer. -/
def signed32 (x : BitVec 32) : Int := x.toInt

/-- CDIMn. -/
def cpDim (r : CpRegs) (i : Nat) : Nat := (r.cdim[i]?.getD 0).toNat
/-- CTILn. -/
def cpTil (r : CpRegs) (i : Nat) : Nat := (r.ctil[i]?.getD 0).toNat
/-- CORGn, signed. -/
def cpOrg (r : CpRegs) (i : Nat) : Int := signed32 (r.corg[i]?.getD 0)
/-- CSTRn, for n from 1 to 3. -/
def cpStr (r : CpRegs) (n : Nat) : Nat := (r.cstr[n - 1]?.getD 0).toNat
/-- CDSTn, for n from 1 to 3. -/
def cpDst (r : CpRegs) (n : Nat) : Nat := (r.cdst[n - 1]?.getD 0).toNat
/-- The source type. -/
def srcTy (r : CpRegs) : Ty := tyOfCode (r.cconv.toNat % 16)
/-- The source is MX-blocked. -/
def srcMx (r : CpRegs) : Bool := r.cconv.getLsbD 4
/-- The destination type. -/
def dstTy (r : CpRegs) : Ty := tyOfCode (r.cconv.toNat / 256 % 16)
/-- The destination is MX-blocked. -/
def dstMx (r : CpRegs) : Bool := r.cconv.getLsbD 12
/-- A raw copy (R243). -/
def rawCopy (r : CpRegs) : Bool := srcTy r == dstTy r && srcMx r == dstMx r

/-- The pairs of R243. -/
def pairOk (r : CpRegs) : Bool :=
  let s := r.cconv.toNat % 16
  let d := r.cconv.toNat / 256 % 16
  let mxTypes := [5, 12, 13, 14, 15]
  if srcMx r then
    mxTypes.contains s && (if dstMx r then s == d else d == 10 || d == 12 || d == 13)
  else !dstMx r && (s == d || (s == 9 && d == 10))

/-- The destination lies in the send window (R356). -/
def inSendWindow (b : Word) : Bool := State.isOffchip b && b.toNat / 2 ^ 40 % 256 == 0xFF

/-- The tensor is the source: unless only the destination is off-chip (R241). -/
def tensorIsSource (stream : Bool) (a b : Word) : Bool := State.isOffchip a || stream || !State.isOffchip b

/-- Rows of a tile: one for each (t1, t2, t3). -/
def tileRows (r : CpRegs) : Nat := cpTil r 1 * cpTil r 2 * cpTil r 3

/-- The indices (t1, t2, t3) of a row. -/
def rowIndex (r : CpRegs) (i : Nat) : Nat × Nat × Nat :=
  (i % max 1 (cpTil r 1), i / max 1 (cpTil r 1) % max 1 (cpTil r 2), i / max 1 (cpTil r 1) / max 1 (cpTil r 2))

/-- The tensor index of a row in dimensions 1 to 3. -/
def rowTensor (r : CpRegs) (i : Nat) : Int × Int × Int :=
  let t := rowIndex r i
  (cpOrg r 1 + t.1, cpOrg r 2 + t.2.1, cpOrg r 3 + t.2.2)

/-- The tile elements t0 of a row whose tensor index is inside: from the first up to before the second (R241). -/
def rowInside (r : CpRegs) (i : Nat) : Nat × Nat :=
  let x := rowTensor r i
  let ok := decide (0 ≤ x.1 ∧ x.1 < cpDim r 1) && decide (0 ≤ x.2.1 ∧ x.2.1 < cpDim r 2) &&
    decide (0 ≤ x.2.2 ∧ x.2.2 < cpDim r 3)
  let lo := (max 0 (-cpOrg r 0)).toNat
  let hi := (min (cpTil r 0 : Int) (cpDim r 0 - cpOrg r 0)).toNat
  if ok && decide (lo < hi) then (lo, hi) else (0, 0)

/-- The tensor-side byte offset of a row's strides, as an integer. -/
def tensorStride (r : CpRegs) (i : Nat) : Int :=
  let x := rowTensor r i
  x.1 * cpStr r 1 + x.2.1 * cpStr r 2 + x.2.2 * cpStr r 3

/-- The tile-side byte offset of a row's strides. -/
def tileStride (r : CpRegs) (i : Nat) : Nat :=
  let t := rowIndex r i
  t.1 * cpDst r 1 + t.2.1 * cpDst r 2 + t.2.2 * cpDst r 3

/-- The bit of an element on the tensor side, from the tensor's base (R241). -/
def tensorBit (r : CpRegs) (i t0 w : Nat) : Int := 8 * tensorStride r i + (cpOrg r 0 + t0) * w

/-- The bit of an element on the tile side, from the tile's base (R241). -/
def tileBit (r : CpRegs) (i t0 w : Nat) : Nat := 8 * tileStride r i + t0 * w

/-- The address of a bit's byte, modulo 2^64. -/
def byteAt (base : Word) (bit : Int) : Word := base + BitVec.ofInt 64 (bit / 8)

/-- The bytes that elements from one bit to before another take, from a base. -/
def bitRange (base : Word) (lo hi : Int) (write : Bool) : List ByteRange :=
  if hi ≤ lo then [] else [⟨byteAt base lo, ((hi - 1) / 8 - lo / 8 + 1).toNat, write, false, State.isOffchip base⟩]

/-- The copy reads scales: it converts from an MX source, or a stream carries them (R241, R243). -/
def readsScales (stream : Bool) (r : CpRegs) : Bool := srcMx r && (stream || !dstMx r)

/-- The address of the scale of a row's element t0 (R241). -/
def scaleAddr (r : CpRegs) (i t0 : Nat) : Word :=
  let x := rowTensor r i
  let nb : Int := cpDim r 0 / 32
  r.cscl + BitVec.ofInt 64 ((cpOrg r 0 + t0) / 32 + nb * (x.1 + cpDim r 1 * (x.2.1 + cpDim r 2 * x.2.2)))

/-- Tile-side rows overlap for one job (R241). -/
def tileOverlaps (r : CpRegs) (w : Nat) : Bool :=
  let rows := (List.range (tileRows r)).map fun i => (tileBit r i 0 w, tileBit r i (cpTil r 0) w)
  rows.zipIdx.any fun a => rows.zipIdx.any fun b => a.2 < b.2 && a.1.1 < b.1.2 && b.1.1 < a.1.2

/-- What a stream's operands and tile break (R245): gB, gA, then the tile. -/
def streamConstraint (r : CpRegs) (a b : Word) : Option Constraint :=
  let til := fun i => cpTil r i
  let local' := match decodeAddr a with
    | .accumulator _ _ | .vector _ _ => false
    | .offchip _ | .self _ | .localStore _ _ | .unmapped | .control _ => true
  if 2 ≤ b.toNat then some (.operand b)
  else if !local' then some (.operand a)
  else if til 1 ≠ 16 then some (.register 0x0F)
  else if til 2 ≠ 1 then some (.register 0x10)
  else if til 3 ≠ 1 then some (.register 0x11)
  else if 256 < til 0 then some (.register 0x0E)
  else if 2 ^ 16 < til 0 * 16 * (dstTy r).width then some (.register 1)
  else none

/-- Order 1 of R227 for a copy form. DESIGN CHOICE: of several constraints that are broken, the one that is checked first
here names XADDR: the pair, the sizes, the multiples of an MX source, then the form's own. -/
def cpConstraint (stream : Bool) (r : CpRegs) (a b : Word) : Option Constraint :=
  let til := fun i => cpTil r i
  let tileTy := if tensorIsSource stream a b then dstTy r else srcTy r
  let tile := if tensorIsSource stream a b then b else a
  let product := til 0 * til 1 * til 2 * til 3
  let zeroDim := (List.range 4).find? fun i => cpDim r i == 0
  let zeroTil := (List.range 4).find? fun i => til i == 0
  if !pairOk r then some (.register 1)
  else if zeroDim.isSome then zeroDim.map fun i => .register (3 + i)
  else if zeroTil.isSome then zeroTil.map fun i => .register (0x0E + i)
  else if 2 ^ 24 < product then some (.register 0x0E)
  else if srcMx r && (cpDim r 0 % 32 != 0 || cpOrg r 0 % 32 != 0 || til 0 % 32 != 0) then some (.register 1)
  else if stream then streamConstraint r a b
  else if !State.isOffchip tile && tileOverlaps r tileTy.width then some (.register 1)
  else if inSendWindow b then
    let bits := product * (srcTy r).width
    let whole := (List.range (tileRows r)).all fun i => rowInside r i == (0, til 0)
    if rawCopy r && b.toNat % 2 ^ 16 == 0 && bits % 128 == 0 && 128 ≤ bits && bits ≤ 32768 && whole then none
    else some (.operand b)
  else none

/-- The ranges of a copy: sources, scales, destinations (R227 order 4, R241, R242). -/
def cpRanges (stream : Bool) (r : CpRegs) (a b : Word) : List ByteRange :=
  let rows := List.range (tileRows r)
  let tsrc := tensorIsSource stream a b
  let ws := (srcTy r).width
  let wd := (dstTy r).width
  let src := rows.flatMap fun i =>
    let n := rowInside r i
    if tsrc then bitRange a (tensorBit r i n.1 ws) (tensorBit r i n.1 ws + (n.2 - n.1 : Nat) * ws) false
    else bitRange a (tileBit r i n.1 ws) (tileBit r i n.2 ws) false
  let scl := if readsScales stream r then rows.flatMap fun i =>
      let n := rowInside r i
      if n.1 = n.2 then [] else [⟨scaleAddr r i n.1, (n.2 - n.1) / 32, false, false, State.isOffchip r.cscl⟩]
    else []
  let dst := if stream || inSendWindow b then [] else rows.flatMap fun i =>
    let n := rowInside r i
    if tsrc then bitRange b (tileBit r i 0 wd) (tileBit r i (cpTil r 0) wd) true
    else bitRange b (tensorBit r i n.1 wd) (tensorBit r i n.1 wd + (n.2 - n.1 : Nat) * wd) true
  src ++ scl ++ dst

/-- Elements of a row that one grant moves: at most 4 KiB of either side (R229), in whole MX blocks. -/
def grantElems (r : CpRegs) : Nat := 32768 / max (srcTy r).width (dstTy r).width / 32 * 32

/-- Grants that a row takes. -/
def grantsPerRow (r : CpRegs) : Nat := max 1 ((cpTil r 0 + grantElems r - 1) / grantElems r)

/-- The row of a grant, and its tile elements t0: from the first up to before the second. -/
def grantSpan (r : CpRegs) (n : Nat) : Nat × Nat × Nat :=
  let lo := n % grantsPerRow r * grantElems r
  (n / grantsPerRow r, lo, min (cpTil r 0) (lo + grantElems r))

/-- Grants of a copy. -/
def grantCount (r : CpRegs) : Nat := tileRows r * grantsPerRow r

/-- The elements of a grant whose tensor index is inside. -/
def grantInside (r : CpRegs) (n : Nat) : Nat × Nat :=
  let g := grantSpan r n
  let x := rowInside r g.1
  if max x.1 g.2.1 < min x.2 g.2.2 then (max x.1 g.2.1, min x.2 g.2.2) else (g.2.1, g.2.1)

/-- The larger of the bytes that grants of a copy read and write, their scales included (R240). -/
def copyMeasure (stream : Bool) (r : CpRegs) (grants : List Nat) : Nat :=
  let n := (grants.map fun i => (grantInside r i).2 - (grantInside r i).1).foldl (· + ·) 0
  let scales := if readsScales stream r then n / 32 else 0
  let carried := if stream && dstMx r then n / 32 else 0
  max ((n * (srcTy r).width + 7) / 8 + scales) ((n * (dstTy r).width + 7) / 8 + carried)

/-- Bytes of a copy still to be moved (R240). -/
def bytesLeft (j : Job) : Nat :=
  copyMeasure (j.form == .stream) j.cp ((List.range (grantCount j.cp)).drop j.row)

namespace State

/-- The promise of a copy that starts now (R240): Bc is 125·q bytes per µs (R302). -/
def promiseOf (s : State) (pcn : Nat) (j : Job) : Nat :=
  let earlier := (s.core pcn).cpQueue.takeWhile fun x => x.id != j.id
  let q := ((earlier.filter fun x => !x.finished).map bytesLeft).foldl (· + ·) 0
  let bc := 125 * max 1 (s.shareOf j.region)
  s.now + 2000 + j.cp.cslack.toNat + (1000 * (q + bytesLeft j) + bc - 1) / bc

/-- How many jobs a core's queue of an engine holds (R227 order 7). -/
def queueCap : Engine → Nat
  | .mxe => 32
  | .copy => 512

/-- The sequence number of the next job (R228). -/
def nextSeq (k : CoreS) (e : Engine) : Nat :=
  let n := match e with | .mxe => k.mxSeq | .copy => k.cpSeq
  if n + 1 < 2 ^ 28 then n + 1 else 1

/-- A job ID (R228). -/
def jobId (pcn : Nat) (e : Engine) (seq : Nat) : Nat :=
  (match e with | .mxe => 0 | .copy => 2 ^ 31) + indexInCluster pcn * 2 ^ 28 + seq

/-- A job with a completion event joins the thread's open batch on this engine, or starts one; an open batch for another
event closes (R230). -/
def joinBatch (s : State) (pcn : Nat) (e : Engine) (thread proc ckseq : Nat) (timed : Bool) (h : BitVec 32)
    (id : BitVec 32) (lvt : Nat) : State × Option Nat :=
  let mine (b : Batch) : Bool := b.thread == thread && b.engine == e && !b.closed
  let cl := clusterOf pcn
  let s1 := s.closeOn cl fun b => mine b && b.handle != h
  if h = 0 then (s1, none)
  else
    match (s1.cluster cl).batches.find? mine with
    | some b =>
      (s1.modCluster cl fun k => { k with
        batches := k.batches.map fun x =>
          if x.number = b.number then { x with pending := x.pending + 1, lastJob := id, lvt := lvt } else x }, some b.number)
    | none =>
      let n := (s1.cluster cl).batchSeq * 512 + cl
      (s1.modCluster cl fun k => { k with
        batchSeq := k.batchSeq + 1
        batches := k.batches ++ [⟨e, h, thread, proc, n, lvt, ckseq, 1, false, id, 0, 0, false, 0, 0, timed⟩] }, some n)

/-- A job is accepted (R227 order 8, R228): it enters its queue and batch, the dispatch ring records it, and gD takes its
ID. A `cp.copy` starts at once, as far as its promise goes (R240). -/
def acceptJob (s : State) (e : Engine) (f : JobForm) (d : GReg) (a b : Word) (fl : JobFlags) (h : BitVec 32) : Res :=
  let c := s.me
  let pcn := s.here
  let seq := nextSeq (s.core pcn) e
  let id := BitVec.ofNat 32 (jobId pcn e seq)
  let lvt := s.lvtOf s.cur
  let r := { s with jobCount := s.jobCount + 1 }.joinBatch pcn e (s.threadOf s.cur) c.proc c.ckseq.toNat (s.isTimed s.cur) h id lvt
  let j : Job :=
    { engine := e, form := f, id := id, seq := seq, order := s.jobCount, tid := s.cur, thread := s.threadOf s.cur, proc := c.proc
      launch := s.launchOf s.cur, region := s.regionOf s.cur, timed := s.isTimed s.cur, handle := h, batch := r.2
      mx := c.mx, cp := c.cp, a := a, b := b, flags := fl, lvt := lvt, ckseq := c.ckseq.toNat, started := false
      row := 0, grant := .none, got := [], held := [], status := 0, raised := 0, fill := 0, promise := none, overdue := false
      finished := false, cancelled := false, message := [], awaitAck := false }
  let j1 := if f = .copy then { j with promise := some (r.1.promiseOf pcn j) } else j
  let s1 := r.1.modCore pcn fun k =>
    let k1 := setQueue k e (queueOf k e ++ [j1])
    { k1 with
      mxSeq := if e = .mxe then seq else k1.mxSeq
      cpSeq := if e = .copy then seq else k1.cpSeq
      ring := tablePut (seq % 16) ⟨c.pc, id, slotOfTid s.cur⟩ k1.ring }
  s1.writeG d (id.setWidth 64)

/-- Submission of a job, in the order of R227. -/
def submit (s : State) (i : Instr) (e : Engine) (f : JobForm) (d : GReg) (a b : Word) (fl : JobFlags)
    (h : BitVec 32) (con : Option Constraint) (bases : List Word) (ranges : List ByteRange) : Res :=
  match con with
  | some (.register n) => s.trapHere causeConfig (BitVec.ofNat 64 (n + if e = .copy then 256 else 0))
  | some (.operand x) => s.trapHere causeConfig x
  | none =>
    match s.checkHandle s.cur h with
    | some (cause, x) => s.trapHere cause x
    | none =>
      match s.checkRanges s.cur bases ranges with
      | some (cause, x) => s.trapHere cause x
      | none =>
        if queueCap e ≤ (queueOf (s.core s.here) e).length then .next (s.holdWith i .queue)
        else if fl.rel && !bufferEmpty s.me then .next (s.holdWith i .drain)
        else s.acceptJob e f d a b fl h

/-- Submission of an MXE form. -/
def submitMx (s : State) (i : Instr) (f : JobForm) (d a b : GReg) (fl : JobFlags) : Res :=
  let r := s.me.mx
  s.submit i .mxe f d (s.g a) (s.g b) fl r.mevt (mxConstraint f r (s.g a) (s.g b)) (mxBases f (s.g a) (s.g b))
    (mxRanges f r (s.g a) (s.g b))

/-- Submission of a copy form. -/
def submitCp (s : State) (i : Instr) (f : JobForm) (d a b : GReg) (fl : JobFlags) : Res :=
  let r := s.me.cp
  let stream := f == .stream
  s.submit i .copy f d (s.g a) (s.g b) fl r.cevt (cpConstraint stream r (s.g a) (s.g b))
    (if stream then [s.g a] else [s.g a, s.g b]) (cpRanges stream r (s.g a) (s.g b))

end State

/-- `mx.mma` (R235). -/
def execMxMma (d a b : GReg) (f : JobFlags) (s : State) : Res := s.submitMx (.mxMma d a b f) .mma d a b f
/-- `mx.mmb` (R235). -/
def execMxMmb (d a b : GReg) (f : JobFlags) (s : State) : Res := s.submitMx (.mxMmb d a b f) .mmb d a b f
/-- `mx.dist` (R235). -/
def execMxDist (d a b : GReg) (f : JobFlags) (s : State) : Res := s.submitMx (.mxDist d a b f) .dist d a b f
/-- `mx.topk` (R238). -/
def execMxTopk (d a b : GReg) (f : JobFlags) (s : State) : Res := s.submitMx (.mxTopk d a b f) .topk d a b f
/-- `mx.zero` (R236). -/
def execMxZero (d a b : GReg) (f : JobFlags) (s : State) : Res := s.submitMx (.mxZero d a b f) .zero d a b f
/-- `mx.ld` (R237). -/
def execMxLd (d a b : GReg) (f : JobFlags) (s : State) : Res := s.submitMx (.mxLd d a b f) .ld d a b f
/-- `mx.st` (R237). -/
def execMxSt (d a b : GReg) (f : JobFlags) (s : State) : Res := s.submitMx (.mxSt d a b f) .st d a b f
/-- `cp.copy` (R244). -/
def execCpCopy (d a b : GReg) (f : JobFlags) (s : State) : Res := s.submitCp (.cpCopy d a b f) .copy d a b f
/-- `cp.stream` (R245). -/
def execCpStream (d a b : GReg) (f : JobFlags) (s : State) : Res := s.submitCp (.cpStream d a b f) .stream d a b f

/-- `cp.cancel` (R246): an accepted, incomplete copy job of this core stops with status 1; in a timed process it traps. -/
def execCpCancel (a : GReg) (s : State) : Res :=
  if s.isTimed s.cur then s.trapHere causeTimed 0
  else .next (s.cancelCopy s.here fun j => j.id.toNat == (s.g a).toNat).finish

end Sys2Proof.Machine
end

