-- ==== Sys2Proof/Machine/MxMath.lean ====
section
/-!
DEFINITION. The arithmetic of matrix-engine jobs (07_numbers R123 to R125; 12_isa_engines R235 to R238): what a job
computes from the bytes it has read, as tile elements and bytes to write.
-/

namespace Sys2Proof.Machine

/-- Element k of a run of packed elements of w bits (R113). -/
def packedElem (bits w k : Nat) : Nat := bits / 2 ^ (w * k) % 2 ^ w

/-- A term of a sum: a NaN that stands for an invalid product raises invalid, as a signalling operand does (R120). -/
def productTerm (dist : Bool) (x y : Num) : Num :=
  match (if dist then opDistSq x y else opMul x y) with
  | .nan => .nan (x.isSignalling || y.isSignalling)
  | .invalid => .nan true
  | .inf n | .divzero n => .inf n
  | .value e => .fin e

/-- The operands of a multiply step: elements as codes, and block scales. -/
structure MxOperands where
  a : Nat → Nat → Nat
  b : Nat → Nat → Nat
  sa : Nat → Nat → Nat
  sb : Nat → Nat → Nat

/-- The step of R123 in a format, with `mx.dist`'s terms (R125). -/
def floatStep (f g : Fmt) (dist : Bool) (k : Nat) (o : MxOperands) (c i j : Nat) : FpResult :=
  g.sumAll (g.value c :: (List.range k).map fun n => productTerm dist (f.value (o.a i n)) (f.value (o.b n j))) .nearest 0

/-- A value times a power of two. -/
def Num.scale : Num → Int → Num
  | .fin e, n => .fin { e with exp := e.exp + n }
  | x, _ => x

/-- P(t) of R124 before it is scaled, and its block scale. For `mx.dist` an element carries its own block's scale
(R125): it is taken relative to the greater of the two, and the block scale is twice that one. -/
def blockTerms (f : Fmt) (dist : Bool) (o : MxOperands) (i j t : Nat) : List Num × Int :=
  let ea : Int := (o.sa i t : Int) - 127
  let eb : Int := (o.sb t j : Int) - 127
  let top := max ea eb
  let da := if dist then ea - top else 0
  let db := if dist then eb - top else 0
  ((List.range 32).map fun n =>
      productTerm dist ((f.value (o.a i (32 * t + n))).scale da) ((f.value (o.b (32 * t + n) j)).scale db),
    if dist then 2 * top else ea + eb)

/-- The largest integer that a value times a power of two is not below. -/
def floorUnits (e : Exact) (shift : Int) : Int :=
  let v : Int := if e.neg then -(e.mag : Int) else e.mag
  let n := e.exp + shift
  if 0 ≤ n then v * 2 ^ n.toNat else v / 2 ^ (-n).toNat

/-- The greatest of some integers. -/
def maxInt : List Int → Int
  | [] => 0
  | [x] => x
  | x :: t => max x (maxInt t)

/-- F of R124, as a value to be added, with the flags of its rounding. -/
def mxSum (f : Fmt) (dist : Bool) (k : Nat) (o : MxOperands) (i j : Nat) : FpResult :=
  let g := ftyFmt .f32
  let blocks := (List.range (k / 32)).map fun t => blockTerms f dist o i j t
  let terms := blocks.flatMap Prod.fst
  let bad := (List.range (k / 32)).any fun t => o.sa i t == 255 || o.sb t j == 255
  let pos := terms.any fun x => x == .inf false
  let neg := terms.any fun x => x == .inf true
  if bad || terms.any Num.isNan || (pos && neg) then ⟨g.nanCode, flagInvalid, 0⟩
  else if pos || neg then ⟨g.infCode neg, 0, 0⟩
  else
    let top := maxInt (blocks.map Prod.snd)
    let sums := blocks.map fun b =>
      floorUnits (exactSum .nearest (b.1.filterMap fun x => match x with | .fin e => some e | _ => none)) (b.2 - top + 80)
    g.round (Exact.ofUnits (sums.foldl (· + ·) 0) (top - 80) false) .nearest 0

/-- The step of R124. -/
def mxStep (f : Fmt) (dist : Bool) (k : Nat) (o : MxOperands) (c i j : Nat) : FpResult :=
  let g := ftyFmt .f32
  let r := mxSum f dist k o i j
  let r2 := g.sumAll [g.value c, g.value r.bits] .nearest 0
  { r2 with flags := r.flags ||| r2.flags }

/-- The step of R125 on integers: exact, saturated to INT32. -/
def intStep (t : Ty) (dist : Bool) (k : Nat) (o : MxOperands) (c i j : Nat) : FpResult :=
  let term (n : Nat) : Int :=
    let x := tyIntRead t (o.a i n)
    let y := tyIntRead t (o.b n j)
    if dist then (x - y) * (x - y) else x * y
  let v := tyIntRead .i32 c + ((List.range k).map term).foldl (· + ·) 0
  let r := if v < -2 ^ 31 then -2 ^ 31 else if 2 ^ 31 - 1 < v then 2 ^ 31 - 1 else v
  ⟨intBits 32 r, flagWhen (decide (r ≠ v)) flagSaturate, 0⟩

/-- The element that a multiply step leaves in C(i, j), by MTYPE. -/
def multiplyStep (r : MxRegs) (dist : Bool) (o : MxOperands) (c i j : Nat) : FpResult :=
  let t := tyOfCode (mxTc r)
  let k := r.mkDim.toNat
  match tyFmt? t with
  | none => intStep t dist k o c i j
  | some f => if mxBlocks r then mxStep f dist k o c i j else floatStep f (if t = .f64 then ftyFmt .f64 else ftyFmt .f32) dist k o c i j

/-! ## Where a job reads and writes -/

/-- Tiles that a job writes or reads, from the lowest: the pair at MTILE for FP64 (R55, R236). -/
def tileOf (r : MxRegs) : List Nat := if accTy r = .f64 then [r.mtile.toNat, r.mtile.toNat + 1] else [r.mtile.toNat]

/-- The tiles that `mx.zero` names (R236). -/
def zeroTiles (r : MxRegs) (a : Word) : List Nat :=
  if a.toNat % 256 = 0 then tileOf r else (List.range 8).filter fun t => a.toNat / 2 ^ t % 2 == 1

/-- The address in `Mem` of a core-side byte that a job of a core names. -/
def coreKey (pcn : Nat) (a : Word) : Nat := (decodeAddr a).key pcn

/-- The pieces of a run of bytes, each within one line, as address and length (R57). -/
def linePieces : Nat → Nat → Nat → List (Nat × Nat)
  | 0, _, _ => []
  | fuel + 1, key, n =>
    if n = 0 then []
    else
      let k := min n (16 - key % 16)
      (key, k) :: linePieces fuel (key + k) (n - k)

/-- The lines of a run of bytes. -/
def lines (key n : Nat) : List (Nat × Nat) := linePieces n key n

/-- Bytes at an address, cut into line writes (R68). -/
def lineWrites (key : Nat) (bs : List Byte) : List JobWrite :=
  (lines key bs.length).map fun p => .window p.1 ⟨(bs.drop (p.1 - key)).take p.2, 0, 0⟩

/-- The bytes of a job's tile or pair. -/
def tileBytes (r : MxRegs) : Nat := 1024 * (tileOf r).length

/-- The address in `Mem` of a core's tile or pair. -/
def tileKey (pcn : Nat) (r : MxRegs) : Nat := accKey pcn (1024 * r.mtile.toNat)

/-- An MXE job reads its tile. -/
def readsTile (f : JobForm) : Bool :=
  match f with
  | .mma | .mmb | .dist | .st | .topk => true
  | _ => false

/-- The lines that an MXE job reads (R235 to R239): its operands in local stores or windows, then its tile. -/
def mxReads (pcn : Nat) (j : Job) : List (Nat × Nat) :=
  ((mxRanges j.form j.mx j.a j.b).filter fun r => !r.write).flatMap (fun r => lines (coreKey pcn r.first) r.bytes) ++
    (if readsTile j.form then lines (tileKey pcn j.mx) (tileBytes j.mx) else [])

/-! ## What a job computes -/

/-- A byte that a job has read. -/
def gotByte (got : List (Nat × Byte)) (key : Nat) : Byte := (tableFind key got).getD 0

/-- The number that n bytes hold, among those a job has read. -/
def gotNat (got : List (Nat × Byte)) (key n : Nat) : Nat := natOfBytes ((List.range n).map fun i => gotByte got (key + i))

/-- The operands of a multiply job, from what it has read and its latch buffer (R234, R235). -/
def mxOperands (pcn : Nat) (j : Job) (latch : Option Latch) (got : List (Nat × Byte)) : MxOperands :=
  let r := j.mx
  let k := r.mkDim.toNat
  let t := tyOfCode (mxTc r)
  let w := t.width
  let at' (base : Word) (i stride : Nat) : Nat := coreKey pcn (base + BitVec.ofNat 64 (i * stride))
  { a := fun i n => packedElem (gotNat got (at' j.a i r.mlda.toNat) (packedBytes t k)) w n
    b := fun n c =>
      match latch with
      | some l => packedElem (gotNat l.elems (c * packedBytes t k) (packedBytes t k)) w n
      | none =>
        if r.mbcol = 1 then packedElem (gotNat got (at' j.b c r.mldb.toNat) (packedBytes t k)) w n
        else packedElem (gotNat got (at' j.b n r.mldb.toNat) (packedBytes t 16)) w c
    sa := fun i b => (gotByte got (at' r.msca i r.mssa.toNat + b)).toNat
    sb := fun b c =>
      match latch with
      | some l => (gotByte l.scales (c * (k / 32) + b)).toNat
      | none => (gotByte got (at' r.mscb c r.mssb.toNat + b)).toNat }

/-- The tile element (i, c) that a job has read. -/
def gotTile (pcn : Nat) (j : Job) (got : List (Nat × Byte)) (i c : Nat) : Nat :=
  gotNat got (tileKey pcn j.mx + (16 * i + c) * accBytes j.mx) (accBytes j.mx)

/-- Bytes of 16 elements of w bits, packed (R113). -/
def packRow (w : Nat) (xs : List Nat) : List Byte :=
  bytesOfNat ((16 * w + 7) / 8) (xs.zipIdx.foldl (fun n x => n + x.1 % 2 ^ w * 2 ^ (w * x.2)) 0)

/-- Column a comes before column b in `mx.topk`: the lesser value, a NaN above every number, then the lower column
(R238). -/
def colBefore (t : Ty) (xs : List Nat) (a b : Nat) : Bool :=
  let x := xs.getD a 0
  let y := xs.getD b 0
  let less (p q : Nat) : Bool :=
    match tyFmt? t with
    | none => decide (tyIntRead t p < tyIntRead t q)
    | some f => (!(f.value p).isNan && (f.value q).isNan) || (f.value p).lt (f.value q)
  less x y || (!less y x && decide (a < b))

/-- The bytes of a row of `mx.topk` (R238). -/
def topkRow (t : Ty) (xs : List Nat) (k mask : Nat) : List Byte :=
  let cols := (List.range 16).filter fun c => mask == 0 || mask / 2 ^ c % 2 == 1
  (List.range k).map fun r =>
    match cols.find? fun c => (cols.filter fun b => b != c && colBefore t xs b c).length == r with
    | some c => BitVec.ofNat 8 c
    | none => 0xFF

/-- What an MXE job writes once it has read everything, and the flags that it raises (R235 to R238). DESIGN CHOICE: `mx.topk` raises
none, not even for a signalling NaN (notes/assumptions/73.md). -/
def mxCompute (pcn : Nat) (j : Job) (latch : Option Latch) (got : List (Nat × Byte)) : List JobWrite × FlagSet :=
  let r := j.mx
  let n := accBytes r
  let out := moveOut r j.b
  let rows := List.range 16
  let rowKey (i : Nat) : Nat := coreKey pcn (j.a + BitVec.ofNat 64 (i * r.mldc.toNat))
  match j.form with
  | .mma | .mmb | .dist =>
    let o := mxOperands pcn j latch got
    let res := rows.flatMap fun i => rows.map fun c => multiplyStep r (j.form == .dist) o (gotTile pcn j got i c) i c
    (lineWrites (tileKey pcn r) (res.flatMap fun x => bytesOfNat n x.bits), res.foldl (fun f x => f ||| x.flags) 0)
  | .zero => ((zeroTiles r j.a).flatMap fun t => lineWrites (accKey pcn (1024 * t)) (List.replicate 1024 0), 0)
  | .ld =>
    let res := rows.flatMap fun i => rows.map fun c =>
      if out.1 then
        convert (accTy r) out.2 (packedElem (gotNat got (rowKey i) (packedBytes out.2 16)) out.2.width c) .nearest 0
      else ⟨gotNat got (rowKey i + c * n) n, 0, 0⟩
    (lineWrites (tileKey pcn r) (res.flatMap fun x => bytesOfNat n x.bits), res.foldl (fun f x => f ||| x.flags) 0)
  | .st =>
    let row (i : Nat) : List FpResult := rows.map fun c =>
      if out.1 then convert out.2 (accTy r) (gotTile pcn j got i c) .nearest 0 else ⟨gotTile pcn j got i c, 0, 0⟩
    let w := if out.1 then out.2.width else 8 * n
    (rows.flatMap fun i => lineWrites (rowKey i) (packRow w ((row i).map FpResult.bits)),
      rows.foldl (fun f i => (row i).foldl (fun f x => f ||| x.flags) f) 0)
  | .topk =>
    (rows.flatMap fun i =>
      lineWrites (coreKey pcn (j.a + BitVec.ofNat 64 (16 * i)))
        (topkRow (accTy r) (rows.map fun c => gotTile pcn j got i c) (j.b.toNat % 32) (j.b.toNat / 2 ^ 16 % 2 ^ 16)), 0)
  | _ => ([], 0)

end Sys2Proof.Machine
end

