-- ==== Sys2Proof/Machine/CopyMath.lean ====
section
/-!
DEFINITION. The copy unit's conversions and the elements that one grant of a copy moves (07_numbers R126;
12_isa_engines R241 to R245).
-/

namespace Sys2Proof.Machine

/-- The name under which a copy keeps a byte that it reads: an off-chip byte under its address. -/
def byteName (pcn : Nat) (a : Word) : Nat := if State.isOffchip a then a.toNat else coreKey pcn a

/-- The ranges that a grant reads: its elements inside the tensor, then their scales (R241, R242). -/
def grantReads (stream : Bool) (r : CpRegs) (a b : Word) (n : Nat) : List ByteRange :=
  let i := (grantSpan r n).1
  let x := grantInside r n
  let w := (srcTy r).width
  let src :=
    if tensorIsSource stream a b then
      bitRange a (tensorBit r i x.1 w) (tensorBit r i x.1 w + (x.2 - x.1 : Nat) * w) false
    else bitRange a (tileBit r i x.1 w) (tileBit r i x.2 w) false
  src ++ (if readsScales stream r && decide (x.1 < x.2) then [⟨scaleAddr r i x.1, (x.2 - x.1) / 32, false, false, State.isOffchip r.cscl⟩] else [])

/-- Where a grant writes: its first bit from the destination's base, and its elements t0 (R241, R242). -/
def grantTarget (r : CpRegs) (a b : Word) (n : Nat) : Int × Nat × Nat :=
  let g := grantSpan r n
  let w := (dstTy r).width
  if tensorIsSource false a b then (tileBit r g.1 g.2.1 w, g.2.1, g.2.2)
  else
    let x := grantInside r n
    (tensorBit r g.1 x.1 w, x.1, x.2)

/-- The ranges that a grant of a `cp.copy` writes. -/
def grantWrites (r : CpRegs) (a b : Word) (n : Nat) : List ByteRange :=
  let t := grantTarget r a b n
  bitRange b t.1 (t.1 + (t.2.2 - t.2.1 : Nat) * (dstTy r).width) true

/-- An element that a grant has read, at a bit from a base. -/
def gotElem (pcn : Nat) (got : List (Nat × Byte)) (base : Word) (bit : Int) (w : Nat) : Nat :=
  let q := (bit % 8).toNat
  gotNat got (byteName pcn (byteAt base bit)) ((q + w + 7) / 8) / 2 ^ q % 2 ^ w

/-- One element converted by R126; `scale` is that of its MX block. A scaled conversion is narrowing, so an infinite element
saturates (R119). -/
def convertElem (r : CpRegs) (code scale : Nat) : FpResult :=
  if rawCopy r then ⟨code, 0, 0⟩
  else if !srcMx r then convert (dstTy r) (srcTy r) code .nearest 0
  else
    match tyFmt? (srcTy r), tyFmt? (dstTy r) with
    | some f, some g =>
      if scale = 255 then ⟨g.nanCode, flagInvalid, 0⟩
      else
        match (f.value code).scale ((scale : Int) - 127) with
        | .nan q => ⟨g.nanCode, flagWhen q flagInvalid, 0⟩
        | .inf n => ⟨g.signBit n + g.maxCode, flagSaturate, 0⟩
        | .fin e => g.round e .nearest 0
    | _, _ => ⟨0, 0, 0⟩

/-- The element t0 of a grant's row as it is written: none outside the tensor (R241, R242). -/
def grantElem (pcn : Nat) (j : Job) (got : List (Nat × Byte)) (t0 : Nat) : Option FpResult :=
  let r := j.cp
  let stream := j.form == .stream
  let i := (grantSpan r j.row).1
  let x := grantInside r j.row
  let w := (srcTy r).width
  if t0 < x.1 || x.2 ≤ t0 then none
  else
    let bit : Int := if tensorIsSource stream j.a j.b then tensorBit r i t0 w else tileBit r i t0 w
    let scale := if readsScales stream r then (gotByte got (byteName pcn (scaleAddr r i t0))).toNat else 0
    some (convertElem r (gotElem pcn got j.a bit w) scale)

/-- The fill element, in the tile-side type (R242). -/
def fillCode (r : CpRegs) : Nat := r.cfill.toNat % 2 ^ (dstTy r).width

/-- Elements of w bits from a bit of their first byte on. -/
def packFrom (q w : Nat) (xs : List Nat) : WriteData :=
  let bits := q + w * xs.length
  let n := xs.zipIdx.foldl (fun n x => n + x.1 % 2 ^ w * 2 ^ (q + w * x.2)) 0
  ⟨bytesOfNat ((bits + 7) / 8) n, q, (8 - bits % 8) % 8⟩

/-- Data at an address cut into lines. -/
def splitData (key : Nat) (d : WriteData) : List (Nat × WriteData) :=
  let n := d.bytes.length
  (lines key n).map fun p =>
    (p.1, ⟨(d.bytes.drop (p.1 - key)).take p.2, if p.1 = key then d.lo else 0, if p.1 + p.2 = key + n then d.hi else 0⟩)

/-- Old bytes with data written over them: bits at the two edges may stay. -/
def mergeData (old : List Byte) (d : WriteData) : List Byte :=
  let bits := 8 * d.bytes.length
  let o := natOfBytes old
  let n := natOfBytes d.bytes
  let low := 2 ^ d.lo
  let top := 2 ^ (bits - d.hi)
  bytesOfNat d.bytes.length (o % low + (n % top / low * low) + o / top * top)

/-- What a grant computes: element results over its span (R241 to R243). -/
structure GrantResult where
  /-- Codes in ascending t0: of the whole span when the tensor is the source, else of the elements inside. -/
  codes : List Nat
  flags : FlagSet
  /-- Elements outside the tensor, filled or skipped. -/
  fill : Nat

/-- The elements that a grant moves. -/
def grantResult (pcn : Nat) (j : Job) : GrantResult :=
  let r := j.cp
  let g := grantSpan r j.row
  let xs := ((List.range g.2.2).drop g.2.1).map fun t0 => grantElem pcn j j.got t0
  let tsrc := tensorIsSource (j.form == .stream) j.a j.b
  ⟨xs.filterMap fun x => match x with
      | some y => some y.bits
      | none => if tsrc then some (fillCode r) else none,
    xs.foldl (fun f x => match x with | some y => f ||| y.flags | none => f) 0, (xs.filter Option.isNone).length⟩

/-- The bytes of a stream's column from its first element of this grant on, at their offset in the latch buffer
(R245). -/
def latchWrites (pcn : Nat) (j : Job) (codes : List Nat) : List JobWrite :=
  let r := j.cp
  let g := grantSpan r j.row
  let w := (dstTy r).width
  let buf := j.b.toNat % 2
  let col := packedBytes (dstTy r) (cpTil r 0)
  let scale (t : Nat) : Byte :=
    let t0 := g.2.1 + 32 * t
    let x := grantInside r j.row
    if t0 < x.1 || x.2 ≤ t0 then 0x7F else gotByte j.got (byteName pcn (scaleAddr r g.1 t0))
  .latch buf false (g.1 * col + g.2.1 * w / 8) (packFrom 0 w codes).bytes ::
    (if dstMx r then
      [.latch buf true (g.1 * (cpTil r 0 / 32) + g.2.1 / 32) ((List.range ((g.2.2 - g.2.1) / 32)).map scale)]
     else [])

end Sys2Proof.Machine
end

