-- ==== Sys2Proof/Machine/Translate.lean ====
section
/-!
DEFINITION. Translation of a grant's pages, fault records and replies, and TCINV (20_translation R329 to R338).
-/

namespace Sys2Proof.Machine

/-- What the translation of a grant's ranges finds. -/
inductive Xlate where
  /-- Every page is resident. -/
  | held (ts : List Translation)
  /-- A page that is not resident: its address, whether the grant writes it, whether an entry maps it, and the pages
  already translated (R335). -/
  | fault (va : Nat) (write absent : Bool) (ts : List Translation)
  /-- Status 3: no off-chip space, two matching entries, or a write to a page that copies may not write (R329, R331,
  R333). -/
  | broken
deriving DecidableEq, Repr

/-- A translation maps a virtual address of a root. -/
def Translation.maps (t : Translation) (root va : Nat) : Bool :=
  t.root == root && t.page == va / 2 ^ pageBits t.big

/-- The DPA of a virtual address through a translation. -/
def Translation.dpa (t : Translation) (va : Nat) : Nat := t.frame + va % 2 ^ pageBits t.big

/-- Addresses in every 64 KiB page that a run of bytes touches. -/
def pageStarts (va n : Nat) : List Nat :=
  ((List.range (n / 65536 + 2)).map fun k => if k = 0 then va else (va / 65536 + k) * 65536).filter (· < va + n)

/-- The pages of a grant, translated one after the other through the cache or by a walk (R331, R332). -/
def translatePages (m : Mem) (cache : List Translation) (root : Nat) : List (Nat × Bool) → List Translation → Xlate
  | [], ts => .held ts
  | (va, write) :: rest, ts =>
    let go (t : Translation) (known : Bool) : Xlate :=
      if write && !t.writable then .broken
      else translatePages m cache root rest (if known then ts else ts ++ [t])
    match ts.find? fun t => t.maps root va with
    | some t => go t true
    | none =>
      match cache.find? fun t => t.maps root va with
      | some t => go t false
      | none =>
        match walk m root va with
        | .broken => .broken
        | .missing => .fault va write false ts
        | .found e =>
          if e.present then go ⟨root, e.big, va / 2 ^ pageBits e.big, e.frame, e.writable, e.loc, e.dirty⟩ false
          else .fault va write true ts

/-- A range lies off-chip and outside the send window, so a page table translates it (R329, R356). -/
def translated (r : ByteRange) : Bool := r.offchip && !inSendWindow r.first

/-- The pages of some ranges. -/
def rangePages (rs : List ByteRange) : List (Nat × Bool) :=
  (rs.filter translated).flatMap fun r => (pageStarts (r.first.toNat % 2 ^ 48) r.bytes).map fun va => (va, r.write)

/-- A page fault of the command front end waits in a fault slot. -/
def FrontFault.inSlot (f : FrontFault) (cluster k : Nat) : Bool := f.cluster == cluster && f.slot == k && f.outcome.isNone

namespace State

/-- A fault slot of a copy unit is in use: a copy of the cluster waits in it, or the command front end, which takes those of its own
cluster (notes/assumptions/82.md). -/
def slotUsed (s : State) (cluster k : Nat) : Bool :=
  ((List.range 8).any fun i => (s.core (coreInCluster cluster i)).cpQueue.any fun j => j.grant == .faulted (some k)) ||
    s.frontFaults.any fun f => f.inSlot cluster k

/-- The lowest fault slot that is free (R335). -/
def freeSlot? (s : State) (cluster : Nat) : Option Nat := (List.range 64).find? fun k => !s.slotUsed cluster k

/-- The cores of a role, in the order of the role map; a fused position has none (R14, R360). -/
def roleCores (s : State) (role : Nat) : List Nat :=
  (s.config.roles.filter fun r => r.2 == role && !s.isFused r.1).map Prod.fst

/-- The pager that serves an address: index h(16) mod NP (R335). -/
def pagerOf? (s : State) (root va : Nat) : Option Nat :=
  let ps := s.roleCores 2
  ps[pageHash root false va % max 1 ps.length]?

/-- The core of the command front end, whose notices and replies carry its number (R14). -/
def frontEnd (s : State) : Nat := (s.roleCores 4).head?.getD 31

/-- A job of a core's copy queue changed. -/
def modCopy (s : State) (pcn : Nat) (id : BitVec 32) (f : Job → Job) : State :=
  s.modCore pcn fun k => { k with cpQueue := k.cpQueue.map fun j => if j.id = id then f j else j }

/-- A copy ends with a status; a stream that fails leaves its latch buffer Empty (R232, R233). -/
def failCopy (s : State) (pcn : Nat) (j : Job) (status : Nat) : State :=
  let s1 := s.modCopy pcn j.id (endedWith status)
  match latchFilled? j with
  | some b => s1.modCore pcn fun k => setLatch k b Latch.none
  | none => s1

/-- A grant waits for a page: it takes a fault slot and sends its record, or waits for a slot (R335). -/
def raiseFault (s : State) (pcn : Nat) (j : Job) (root va : Nat) (write absent : Bool) (ts : List Translation) : State :=
  let cl := clusterOf pcn
  match s.freeSlot? cl, s.pagerOf? root va with
  | some k, some pager =>
    let seq := (s.cluster cl).faultSeq % 2 ^ 16
    let s1 := s.modCluster cl fun c => { c with slots := tablePut k seq c.slots, faultSeq := seq + 1 }
    let s2 := s1.modCopy pcn j.id fun j => { j with grant := .faulted (some k), held := ts }
    s2.post .control pcn pager (j.launch.bind s.launchColour)
      (.faultRecord va root j.id.toNat cl k seq j.region write absent
        ((ts.take 3).map fun t => t.page * 2 ^ pageBits t.big + 1))
  | _, _ => s.modCopy pcn j.id fun j => { j with grant := .faulted none, held := ts }

/-- A counter of dropped packets of a system core (R295). -/
def countDrop (s : State) (pcn : Nat) : State :=
  s.modCore pcn fun k => { k with fwdrop := if k.fwdrop < 0xFFFFFFFF then k.fwdrop + 1 else k.fwdrop }

end State

/-- The firewall bit that a fault record passes: pgr from a copy unit, cmd from the command front end, whose records name no job
(R295, R335). -/
def faultGate (job : Nat) : Nat := if job = 0 then 4 else 2

/-- FAULT_RECORD (R335, R295): the record enters the pager's queue, or waits in the network while it holds 64. -/
def execFaultRecord (n : Nat) (s : State) : Res :=
  match s.arrive n with
  | some (⟨_, _, dst, _, _, .faultRecord va root job cl slot seq region write absent pages⟩, s1) =>
    if !(s.core dst).fwctl.getLsbD (faultGate job) then .next (s1.countDrop dst)
    else if 64 ≤ (s.core dst).faultQueue.length then .next s
    else .next (s1.modCore dst fun k => { k with
      faultQueue := k.faultQueue ++ [⟨va, root, job, cl, slot, seq, region, write, absent, pages⟩] })
  | _ => .next s

namespace State

/-- A store to FQHEAD (R335): the records between the old head and the new one leave the queue. A store that holds a
reserved bit is ignored (R5). -/
def writeFqhead (s : State) (pcn v : Nat) : State :=
  if v / 2 ^ 15 ≠ 0 || v / 64 % 4 ≠ 0 then s
  else s.modCore pcn fun k =>
    let n := (v % 64 + 64 - k.fqhead) % 64
    { k with fqhead := v % 64, faultQueue := k.faultQueue.drop n }

/-- A store to FREPLY (R336): the reply goes to the copy unit that the tag names; outcome 3 is discarded and counted.
A store that holds a bit above 33 is ignored (R5). -/
def writeFreply (s : State) (pcn v : Nat) : State :=
  let outcome := v / 2 ^ 32 % 4
  if 2 ^ 34 ≤ v then s
  else if outcome = 3 then s.countDrop pcn
  else
    s.post .control pcn (coreInCluster (v % 2 ^ 9) 0) none
      (.faultReply (v % 2 ^ 9) (v / 2 ^ 9 % 2 ^ 6) (v / 2 ^ 16 % 2 ^ 16) outcome)

/-- A reply reaches the command front end: it walks again, or keeps the outcome for what asked for the page (R339, R352). -/
def takeFrontReply (s : State) (cl slot outcome : Nat) : State :=
  { s with frontFaults := if outcome = 0 then s.frontFaults.filter fun f => !f.inSlot cl slot
      else s.frontFaults.map fun f => if f.inSlot cl slot then { f with outcome := some outcome } else f }

/-- A reply reaches its copy unit (R336): the grant walks again, or the copy ends; a reply for a free slot or with an
old number is discarded. -/
def takeReply (s : State) (cl slot seq outcome : Nat) : State :=
  if tableGet (2 ^ 16) slot (s.cluster cl).slots ≠ seq then s
  else if s.frontFaults.any fun f => f.inSlot cl slot then s.takeFrontReply cl slot outcome
  else
    let find (pcn : Nat) : Option (Nat × Job) :=
      ((s.core pcn).cpQueue.find? fun j => j.grant == .faulted (some slot)).map fun j => (pcn, j)
    match ((List.range 8).map (coreInCluster cl)).findSome? find with
    | none => s
    | some (pcn, j) =>
      match outcome with
      | 0 => s.modCopy pcn j.id fun j => { j with grant := .none, held := [] }
      | 1 => s.failCopy pcn j 2
      | _ => s.failCopy pcn j 3

/-- A store of a root to TCINV (R334); one that holds a bit above 47 is ignored (R5). -/
def writeTcinvRoot (s : State) (pcn v : Nat) : State :=
  if 2 ^ 48 ≤ v then s else s.modCore pcn fun k => { k with tcinvRoot := BitVec.ofNat 64 v }

/-- A translation is of the page that a store to TCINV names: v of the page base, bit 0 for 2 MiB (R334). -/
def tcinvNames (root v : Nat) (t : Translation) : Bool :=
  let big := v % 2 == 1
  t.root == root % 2 ^ 48 && t.big == big && t.page == v % 2 ^ 48 / 2 ^ pageBits big

/-- The bits of a second store to TCINV: v of a page base, and the size (R334). -/
def tcinvPageOk (v : Nat) : Bool := decide (v < 2 ^ 48) && v / 2 % 2 ^ 15 == 0

/-- A deferred action writes the page (R333). -/
def Deferred.names (root v : Nat) (d : Deferred) : Bool :=
  match d.action with
  | .write _ _ page _ => tcinvNames root v page
  | .send _ _ _ => false

/-- No grant in motion holds the page, and no deferred write has it pinned, so the second store to TCINV may be performed (R333,
R334). One that is ignored waits for nothing. -/
def tcinvReady (s : State) (pcn v : Nat) : Bool :=
  let root := (s.core pcn).tcinvRoot.toNat
  !tcinvPageOk v ||
    (!(s.cores.any fun k => k.2.cpQueue.any fun j => (match j.grant with | .reading _ _ | .writing _ _ => true | _ => false) &&
      j.held.any (tcinvNames root v)) && !s.allCores.any fun k => k.deferred.any (Deferred.names root v))

/-- The second store to TCINV: every copy unit drops the translation, and grants that wait on a fault release the page
(R334). A store that holds another bit than the page's is ignored (R5). -/
def writeTcinvPage (s : State) (pcn v : Nat) : State :=
  let root := (s.core pcn).tcinvRoot.toNat
  if !tcinvPageOk v then s else
  { s with
    clusters := tableMap (fun _ c => { c with cache := c.cache.filter fun t => !tcinvNames root v t }) s.clusters
    cores := tableMap (fun _ k =>
      { k with cpQueue := k.cpQueue.map fun j => { j with held := j.held.filter fun t => !tcinvNames root v t } }) s.cores }

/-- A pager core (R14). -/
def isPager (s : State) (pcn : Nat) : Bool := s.config.roles.any fun r => r.1 == pcn && r.2 == 2

end State

/-- FQHEAD_WRITE (R335). -/
def execFqheadWrite (pcn v : Nat) (s : State) : Res := .next (if s.isPager pcn then s.writeFqhead pcn v else s)

/-- FREPLY_WRITE (R336). -/
def execFreplyWrite (pcn v : Nat) (s : State) : Res := .next (if s.isPager pcn then s.writeFreply pcn v else s)

/-- FAULT_REPLY (R336). -/
def execFaultReply (n : Nat) (s : State) : Res :=
  match s.arrive n with
  | some (⟨_, _, _, _, _, .faultReply cl slot seq outcome⟩, s1) => .next (s1.takeReply cl slot seq outcome)
  | _ => .next s

/-- TCINV_ROOT_WRITE (R334). -/
def execTcinvRootWrite (pcn v : Nat) (s : State) : Res := .next (if s.isSystem pcn then s.writeTcinvRoot pcn v else s)

/-- TCINV_PAGE_WRITE (R334): performed only once no grant in motion holds the page. -/
def execTcinvPageWrite (pcn v : Nat) (s : State) : Res :=
  .next (if s.isSystem pcn && s.tcinvReady pcn v then s.writeTcinvPage pcn v else s)

end Sys2Proof.Machine
end

