-- ==== Sys2Proof/Machine/Grant.lean ====
section
/-!
DEFINITION. The cluster arbiter and the steps of a grant (12_isa_engines R229, R233, R235 to R245; 04_memory_order R65 to
R68; 20_translation R332, R333).
-/

namespace Sys2Proof.Machine

/-! ## Off-chip data in flight (R65, R67) -/

/-- The rank of a scope among those that off-chip writes grow through. -/
def scopeRank : Option Scope → Nat
  | none => 0
  | some .th | some .co => 1
  | some .cl => 2
  | some .qd => 3
  | some .se => 4
  | some .di => 5
  | some _ => 6

/-- The next scope at which a buffered write becomes visible. -/
def nextScope : Option Scope → Scope
  | none | some .th | some .co => .cl
  | some .cl => .qd
  | some .qd => .se
  | some .se => .di
  | some _ => .dv

/-- Two runs of bytes overlap. -/
def overlaps (a n b m : Nat) : Bool := decide (a < b + m) && decide (b < a + n)

/-- A buffered write is visible to the copy unit of a cluster. -/
def OffWrite.seenBy (w : OffWrite) (cluster : Nat) : Bool :=
  match w.scope with
  | none => false
  | some s => sameUnit s (coreInCluster w.cluster 0) (coreInCluster cluster 0) && decide (2 ≤ scopeRank (some s))

namespace State

/-- Off-chip bytes as the copy unit of a cluster reads them: memory, with the writes that are visible to it. -/
def readOffchip (s : State) (cluster dpa n : Nat) : List Byte :=
  let m := (s.offbuf.filter fun w => w.seenBy cluster && overlaps w.dpa w.data.bytes.length dpa n).foldl (fun m w =>
    memWrite (dpaBase + w.dpa) (mergeData (memBytes m (dpaBase + w.dpa) w.data.bytes.length) w.data) m) s.mem
  memBytes m (dpaBase + dpa) n

/-- A buffered write becomes visible in the next larger scope; at device scope it is in memory. Writes that overlap grow
in their order. -/
def growWrite (s : State) (i : Nat) : State :=
  match s.offbuf[i]? with
  | none => s
  | some w =>
    let next := nextScope w.scope
    let n := w.data.bytes.length
    let earlier := (s.offbuf.take i).filter fun x => overlaps x.dpa x.data.bytes.length w.dpa n
    if next = .dv then
      if earlier.isEmpty then
        { s with
          offbuf := listDrop i s.offbuf
          mem := memWrite (dpaBase + w.dpa) (mergeData (memBytes s.mem (dpaBase + w.dpa) n) w.data) s.mem }
      else s
    else if earlier.all fun x => decide (scopeRank (some next) ≤ scopeRank x.scope) then
      { s with offbuf := listPut i { w with scope := some next } s.offbuf }
    else s

/-- The n-th buffered write of a cluster grows by a scope. -/
def growNth (s : State) (cluster n : Nat) : State :=
  match (s.offbuf.zipIdx.filter fun w => w.1.cluster == cluster)[n]? with
  | some w => s.growWrite w.2
  | none => s

/-- The dirty bit of a page-table entry is set, in one update, unless the copy unit knows it to be set (R333). -/
def setDirty (s : State) (cluster entry : Nat) : State :=
  if (s.cluster cluster).cache.any fun t => t.entry == entry && t.dirty then s
  else
    let key := dpaBase + entry + 8
    let s1 := s.setMem (memPut key (memGet key s.mem ||| 8) s.mem)
    s1.modCluster cluster fun c =>
      { c with cache := c.cache.map fun t => if t.entry = entry then { t with dirty := true } else t }

/-- An off-chip write of a copy is performed: visible nowhere yet (R65). -/
def performOffchip (s : State) (cluster thread : Nat) (job : BitVec 32) (order dpa entry : Nat) (d : WriteData) : State :=
  let s1 := s.setDirty cluster entry
  { s1 with offbuf := s1.offbuf ++ [⟨cluster, thread, job, order, none, dpa, d⟩] }

/-! ## Sends to peers (R356) -/

/-- The send of a copy leaves: as one message when the peer's entry is valid, else the copy ends with status 3. -/
def sendToPeer (s : State) (pcn : Nat) (job : BitVec 32) (b : Word) (vt floor : Nat) (bytes : List Byte) : State :=
  let peer := b.toNat / 2 ^ 32 % 256
  let e := tableGet (List.replicate 32 0) peer s.peers
  if descNat e 17 1 % 2 = 1 then
    { s with uetOut := s.uetOut ++ [.peerSend peer (descNat e 16 1) (b.toNat / 2 ^ 16 % 2 ^ 16) vt floor job pcn bytes] }
  else s.modCopy pcn job (fun j => endedWith 3 { j with awaitAck := false })

/-- A copy to the send window has read its last byte (R356): the send leaves, or in a timed process is deferred. -/
def finishSend (s : State) (pcn : Nat) (j : Job) : State :=
  let w := (srcTy j.cp).width
  let bytes := (packFrom 0 w j.message).bytes
  let s1 := s.modCopy pcn j.id fun j => { j with awaitAck := true }
  if j.timed then
    s1.modCore pcn fun k => { k with deferred := k.deferred ++ [⟨.send j.id j.b bytes, j.lvt, j.proc, j.ckseq, j.thread, j.order⟩] }
  else s1.sendToPeer pcn j.id j.b 0 0 bytes

/-! ## The arbiter (R229) -/

/-- The job that a core's queue of an engine would be granted: the first whose grants are not over. An MXE job starts
only when earlier jobs of the core have completed. -/
def openJob? (k : CoreS) (e : Engine) : Option Job :=
  match e with
  | .mxe => k.mxQueue.head?.filter fun j => !j.finished
  | .copy => k.cpQueue.find? fun j => !j.finished

/-- The group of a job's launch runs, so that the job takes grants (R319). -/
def jobRuns (s : State) (j : Job) : Bool := s.colourRuns (j.launch.bind s.launchColour)

/-- A job has off-chip writes still to perform. -/
def writesOffchip (j : Job) : Bool := !j.finished && j.engine == .copy && isOffchip j.b && !inSendWindow j.b

/-- The off-chip writes of earlier jobs of the thread, on whichever core, have been performed and are visible at a copy's release
scope (R67). An MXE job does not wait for copies: its flags do not order it among them (R279). -/
def released (s : State) (j : Job) : Bool :=
  !j.flags.rel || j.engine == .mxe ||
    ((s.cores.all fun k => (k.2.cpQueue.all fun x => x.thread != j.thread || decide (j.order ≤ x.order) || !writesOffchip x) &&
        k.2.deferred.all fun d => d.thread != j.thread || decide (j.order ≤ d.order) ||
          match d.action with | .write _ _ _ _ => false | .send _ _ _ => true) &&
      s.offbuf.all fun w => w.thread != j.thread || decide (j.order ≤ w.order) ||
        decide (scopeRank (some j.flags.scope) ≤ scopeRank w.scope))

/-- A core has a job ready for a grant (R229, R233, R335). -/
def jobReady (s : State) (pcn : Nat) (e : Engine) : Bool :=
  match openJob? (s.core pcn) e with
  | none => false
  | some j =>
    s.jobRuns j && (j.started || s.released j) &&
      (match j.grant with
        | .none => true
        | .faulted none => (s.freeSlot? (clusterOf pcn)).isSome
        | _ => false) &&
      (match latchRead? j with
        | some b => (latchOf (s.core pcn) b).state == .full
        | none => true) &&
      (j.form != .stream || j.started)

/-- The weight of a core: grants in a row that it may take (R302). -/
def weight (s : State) (pcn : Nat) (e : Engine) : Nat :=
  match openJob? (s.core pcn) e with
  | some j => if j.launch.isSome then min 8 (max 1 (s.shareOf j.region / 8)) else 1
  | none => 1

/-- The arbiter's pointer, and the grants that the core at the pointer has taken. -/
def pointerOf (c : ClusterS) : Engine → Nat × Nat
  | .mxe => (c.mxPointer, c.mxGrants)
  | .copy => (c.cpPointer, c.cpGrants)

/-- The arbiter's pointer replaced. -/
def setPointer (c : ClusterS) (e : Engine) (p : Nat × Nat) : ClusterS :=
  match e with
  | .mxe => { c with mxPointer := p.1, mxGrants := p.2 }
  | .copy => { c with cpPointer := p.1, cpGrants := p.2 }

/-- The core that takes the next grant, as its index, with the grants it has then taken in a row. -/
def pickCore (s : State) (cluster : Nat) (e : Engine) : Option (Nat × Nat) :=
  let p := pointerOf (s.cluster cluster) e
  let ready (i : Nat) : Bool := s.jobReady (coreInCluster cluster i) e
  if ready p.1 && decide (p.2 < s.weight (coreInCluster cluster p.1) e) then some (p.1, p.2 + 1)
  else (((List.range 8).map fun i => (p.1 + 1 + i) % 8).find? ready).map fun i => (i, 1)

/-- The core of a cluster whose grant is in motion. -/
def movingCore? (s : State) (cluster : Nat) (e : Engine) : Option Nat :=
  ((List.range 8).map (coreInCluster cluster)).find? fun pcn =>
    (queueOf (s.core pcn) e).any fun j => match j.grant with | .reading _ _ | .writing _ _ => true | _ => false

/-- A job of a core changed. -/
def modJob (s : State) (pcn : Nat) (e : Engine) (id : BitVec 32) (f : Job → Job) : State :=
  s.modCore pcn fun k => setQueue k e ((queueOf k e).map fun j => if j.id = id then f j else j)

/-! ## Steps of a grant -/

/-- The latch buffer that a job reads is released when its keep bit is 0 (R233). -/
def releaseLatch (s : State) (pcn : Nat) (j : Job) : State :=
  match latchRead? j with
  | some b => if j.b.getLsbD 1 then s else s.modCore pcn fun k => setLatch k b Latch.none
  | none => s

/-- The latch holds another type or K than MTYPE and MK name (R235). -/
def latchMismatch (k : CoreS) (j : Job) : Bool :=
  match latchRead? j with
  | some b =>
    let l := latchOf k b
    l.tc != mxTc j.mx || l.mx != mxBlocks j.mx || l.k != j.mx.mkDim.toNat
  | none => false

/-- Line reads of some byte ranges on the core side. -/
def coreReads (rs : List (Nat × Nat)) : List LineRead := rs.map fun p => ⟨p.1, p.1, p.2, false⟩

/-- Line reads of a copy's ranges; off-chip bytes through the translations that the grant holds. -/
def copyReads (pcn root : Nat) (ts : List Translation) (rs : List ByteRange) : List LineRead :=
  rs.flatMap fun r =>
    if r.offchip then
      (lines r.first.toNat r.bytes).filterMap fun p =>
        (ts.find? fun t => t.maps root (p.1 % 2 ^ 48)).map fun t => ⟨p.1, t.dpa (p.1 % 2 ^ 48), p.2, true⟩
    else coreReads (lines (coreKey pcn r.first) r.bytes)

/-- A grant's off-chip bytes travel between a memory port and the core as a bulk packet (R341): it is posted as the grant begins to
read or to write, and has arrived when the grant ends. -/
def postGrant (s : State) (pcn : Nat) (j : Job) (out : Bool) (dpas : List Nat) : State :=
  match dpas with
  | [] => s
  | d :: _ =>
    let port := s.portRouter d
    let colour := j.launch.bind s.launchColour
    if out then s.postBulk pcn port colour (bulkOfJob j.order) else s.postBulk port pcn colour (bulkOfJob j.order)

/-- A grant begins: an MXE job starts to read, or ends on a latch mismatch; a copy translates its pages (R229, R332). -/
def beginGrant (s : State) (pcn : Nat) (e : Engine) (j : Job) : State :=
  match e with
  | .mxe =>
    if latchMismatch (s.core pcn) j then
      (s.modJob pcn e j.id fun j => endedWith 4 { j with started := true }).releaseLatch pcn j
    else
      s.modJob pcn e j.id fun j => { j with started := true, got := [], grant := .reading (coreReads (mxReads pcn j)) [] }
  | .copy =>
    let root := s.rootOf j.region
    let stream := j.form == .stream
    let reads := grantReads stream j.cp j.a j.b j.row
    let writes := if stream then [] else grantWrites j.cp j.a j.b j.row
    let cl := clusterOf pcn
    match translatePages s.mem (s.cluster cl).cache root (rangePages (reads ++ writes)) [] with
    | .held ts =>
      let s1 := s.modCluster cl fun c =>
        let new := ts.filter fun t => !c.cache.contains t
        -- the cache holds 512 translations
        { c with cache := (c.cache ++ new).drop ((c.cache ++ new).length - 512) }
      let todo := copyReads pcn root ts reads
      (s1.modJob pcn e j.id fun j => { j with started := true, got := [], held := ts, grant := .reading todo [] }).postGrant
        pcn j false ((todo.filter LineRead.offchip).map LineRead.addr)
    | .fault va write absent ts => (s.modJob pcn e j.id fun j => { j with started := true }).raiseFault pcn j root va write absent ts
    | .broken => s.failCopy pcn j 3

/-- Every line of a grant has been read: the job computes what it writes. -/
def computeGrant (s : State) (pcn : Nat) (e : Engine) (j : Job) : State :=
  match e with
  | .mxe =>
    let r := mxCompute pcn j ((latchRead? j).map (latchOf (s.core pcn))) j.got
    (s.modJob pcn e j.id fun j => { j with raised := j.raised ||| r.2, grant := .writing r.1 [] }).releaseLatch pcn j
  | .copy =>
    let r := grantResult pcn j
    let root := s.rootOf j.region
    let t := grantTarget j.cp j.a j.b j.row
    let data := packFrom (t.1 % 8).toNat (dstTy j.cp).width r.codes
    let base := byteAt j.b t.1
    let writes : List JobWrite :=
      if j.form = .stream then latchWrites pcn j r.codes
      else if inSendWindow j.b || r.codes.isEmpty then []
      else if isOffchip j.b then
        (splitData base.toNat data).filterMap fun p =>
          (j.held.find? fun t => t.maps root (p.1 % 2 ^ 48)).map fun t => .offchip (t.dpa (p.1 % 2 ^ 48)) t p.2
      else (splitData (coreKey pcn base) data).map fun p => .window p.1 p.2
    (s.modJob pcn e j.id fun j =>
      { j with
        raised := j.raised ||| r.flags, fill := j.fill + r.fill, grant := .writing writes []
        message := if inSendWindow j.b && j.form != .stream then j.message ++ r.codes else j.message }).postGrant
      pcn j true (writes.filterMap fun w => match w with | .offchip d _ _ => some d | _ => none)

/-- A grant is over: an MXE job, or a copy after its last row, has no more of them (R229). -/
def endGrant (s : State) (pcn : Nat) (e : Engine) (j : Job) : State :=
  let last := match e with | .mxe => true | .copy => decide (grantCount j.cp ≤ j.row + 1)
  let s1 := (s.modJob pcn e j.id fun j =>
    { j with row := j.row + 1, grant := .none, got := [], held := [], finished := last }).sweepBulk
  if !last then s1
  else
    match latchFilled? j with
    | some b => s1.modCore pcn fun k => setLatch k b { latchOf k b with state := .full }
    | none => if e = .copy && inSendWindow j.b then s1.finishSend pcn j else s1

/-- A job's line to a window of the core side enters its bank's arrival queue, under a name that the job gives it (R58). -/
def enqueueLine (s : State) (pcn : Nat) (e : Engine) (id : BitVec 32) (key name : Nat) : State :=
  s.setBank (bankOf key) (s.bank (bankOf key) ++ [⟨.job pcn e id, key, name⟩])

/-- A job has read some bytes under a name. -/
def gotLine (j : Job) (name : Nat) (bs : List Byte) : Job :=
  { j with got := bs.zipIdx.foldl (fun t x => tablePut (name + x.2) x.1 t) j.got }

/-- A write of a job that takes no arrival queue: to a latch buffer, or off-chip, where a timed process defers it and pins its
page (R103, R245, R333). -/
def writeDirect (s : State) (pcn : Nat) (j : Job) (w : JobWrite) : State :=
  match w with
  | .window _ _ => s
  | .latch b scale off bs =>
    s.modCore pcn fun k =>
      let l := latchOf k b
      let put (t : List (Nat × Byte)) : List (Nat × Byte) := bs.zipIdx.foldl (fun t x => tablePut (off + x.2) x.1 t) t
      setLatch k b (if scale then { l with scales := put l.scales } else { l with elems := put l.elems })
  | .offchip dpa page d =>
    if j.timed then
      (s.modCore pcn fun k =>
        { k with deferred := k.deferred ++ [⟨.write j.id dpa page d, j.lvt, j.proc, j.ckseq, j.thread, j.order⟩] }).pinEntry page.entry
    else s.performOffchip (clusterOf pcn) j.thread j.id j.order dpa page.entry d

/-- The write of a job's line, at the head of its bank's queue: none when it waits for a journal entry (R97, R98). -/
def performWrite (s : State) (pcn : Nat) (j : Job) (key : Nat) (d : WriteData) : Option State :=
  let line := (key - localKey pcn 0) / 16 * 16
  let own := decide (localKey pcn 0 ≤ key) && decide (key < localKey pcn 0x20000)
  (if j.timed && own then s.journal j.thread line else some s).map fun t =>
    t.writeWindow key (mergeData (memBytes t.mem key d.bytes.length) d)

/-- The line of a job at the head of its bank's queue is performed (R58, R239, R244): it is read, or written; none when its write
waits for a journal entry. A line of a job that has ended meanwhile is nothing. -/
def performLine (s : State) (pcn : Nat) (e : Engine) (id : BitVec 32) (key name : Nat) : Option State :=
  match (queueOf (s.core pcn) e).find? fun j => j.id == id with
  | none => some s
  | some j =>
    match j.grant with
    | .reading todo waits =>
      match waits.find? fun r => r.addr == key && r.name == name with
      | some r => some (s.modJob pcn e id fun j =>
          { gotLine j r.name (memBytes s.mem r.addr r.size) with grant := .reading todo (waits.erase r) })
      | none => some s
    | .writing todo waits =>
      match waits.find? fun w => match w with | .window k _ => k == key | _ => false with
      | some (.window k d) => (s.performWrite pcn j k d).map fun t =>
          t.modJob pcn e id fun j => { j with grant := .writing todo (waits.erase (.window k d)) }
      | _ => some s
    | .none | .faulted _ => some s

/-- The next step of the grant in motion at a core (R58, R239): one of its lines, which the step names, is read off-chip or enters
an arrival queue, or is written; with every line performed, the job computes, or its grant ends. -/
def stepGrant (s : State) (pcn : Nat) (e : Engine) (j : Job) (line : Nat) : State :=
  match j.grant with
  | .reading todo waits =>
    let i := line % max 1 todo.length
    match todo[i]? with
    | some r =>
      if r.offchip then
        s.modJob pcn e j.id fun j =>
          { gotLine j r.name (s.readOffchip (clusterOf pcn) r.addr r.size) with grant := .reading (listDrop i todo) waits }
      else
        (s.modJob pcn e j.id fun j => { j with grant := .reading (listDrop i todo) (waits ++ [r]) }).enqueueLine pcn e j.id
          r.addr r.name
    | none => if waits.isEmpty then s.computeGrant pcn e j else s
  | .writing todo waits =>
    let i := line % max 1 todo.length
    match todo[i]? with
    | some (.window key d) =>
      (s.modJob pcn e j.id fun j => { j with grant := .writing (listDrop i todo) (waits ++ [.window key d]) }).enqueueLine pcn e
        j.id key key
    | some w => (s.writeDirect pcn j w).modJob pcn e j.id fun j => { j with grant := .writing (listDrop i todo) waits }
    | none => if waits.isEmpty then s.endGrant pcn e j else s
  | .none | .faulted _ => s

/-- A micro-step of a cluster's engine: the grant in motion goes on, or the arbiter starts one (R229). -/
def stepEngine (s : State) (cluster : Nat) (e : Engine) (line : Nat) : State :=
  match s.movingCore? cluster e with
  | some pcn =>
    match openJob? (s.core pcn) e with
    | some j => s.stepGrant pcn e j line
    | none => s
  | none =>
    match s.pickCore cluster e with
    | none => s
    | some p =>
      let pcn := coreInCluster cluster p.1
      match openJob? (s.core pcn) e with
      | some j => (s.modCluster cluster fun c => setPointer c e p).beginGrant pcn e j
      | none => s

end State

/-- The engine of an operand: 0 the MXE, else the copy unit. -/
def engineOf (n : Nat) : Engine := if n = 0 then .mxe else .copy

/-- ENGINE_GRANT (R229, R239): pick 0 is the next micro-step of a cluster's engine, with the line that it takes; pick n + 1 lets the
n-th buffered off-chip write of the cluster become visible one scope further (R65). -/
def execEngineGrant (cluster engine : Nat) (choice : GrantChoice) (s : State) : Res :=
  match choice.pick with
  | 0 => .next (s.stepEngine cluster (engineOf engine) choice.line)
  | n + 1 => .next (s.growNth cluster n)

/-- STREAM_START (R233, R240): the first copy of a core whose grants are not over is a stream, and its latch buffer is
Empty: the buffer is Filling and the promise is set. One with a release waits for its thread's earlier writes (R67). -/
def execStreamStart (pcn : Nat) (s : State) : Res :=
  match State.openJob? (s.core pcn) .copy with
  | some j =>
    match latchFilled? j with
    | some b =>
      if j.started || (latchOf (s.core pcn) b).state ≠ .empty || !s.jobRuns j || !s.released j then .next s
      else
        let l : Latch := ⟨.filling, j.cp.cconv.toNat / 256 % 16, dstMx j.cp, cpTil j.cp 0, [], []⟩
        .next ((s.modCore pcn fun k => setLatch k b l).modCopy pcn j.id fun j =>
          { j with started := true, promise := some (s.promiseOf pcn j) })
    | none => .next s
  | none => .next s

/-! ## Completion (R230 to R232, R66, R67) -/

namespace State

/-- The least scope that holds a core and every participant of the event of a handle (R66). -/
def eventScope (s : State) (pcn : Nat) (j : Job) : Scope :=
  match s.liveFor? j.launch j.handle.toNat with
  | some (home, idx, _) =>
    let cores := (s.entry home idx).desc.parties.map fun p => coreOfTid p.2.1
    (([.cl, .qd, .se, .di] : List Scope).find? fun sc => cores.all fun c => sameUnit sc pcn c).getD .dv
  | none => .cl

/-- Everything a finished job waits for has come: its off-chip writes are visible at cluster scope, at its acquire scope
and at its event's (R66, R67), and its send has been acknowledged (R356). -/
def mayComplete (s : State) (pcn : Nat) (j : Job) : Bool :=
  let need := max (scopeRank (some (s.eventScope pcn j)))
    (max 2 (if j.flags.acq then scopeRank (some j.flags.scope) else 0))
  j.finished && !j.awaitAck && s.offbuf.all fun w => w.job != j.id || w.cluster != clusterOf pcn || decide (need ≤ scopeRank w.scope)

/-- A completed job in its batch (R231). -/
def addToBatch (s : State) (j : Job) (b : Batch) : Batch :=
  { b with
    pending := b.pending - 1
    status := max b.status j.status
    raised := b.raised ||| j.raised &&& 0x3F
    passed := b.passed || (match j.promise with | some p => decide (p < s.now) | none => false)
    fill := (b.fill + j.fill) % 2 ^ 32
    time := s.now % 2 ^ 32 }

/-- In wrap-up, a latch job that waits at the head of a core's MXE queue ends with status 4 (R233): its buffer is not Full.
DEDUCED: this covers the jobs accepted by the wrap-up point, also those that come to the head later; a job that wrap-up code submits
waits as any other (notes/assumptions/75.md). -/
def endWaitingLatch (s : State) (pcn : Nat) : State :=
  match (s.core pcn).mxQueue.head? with
  | none => s
  | some j =>
    let wraps := ((j.launch.bind s.launch?).map fun l =>
      (l.phase == .stopping || l.phase == .wrapped) && decide (j.order < l.wrapJobs)).getD false
    let waits := match latchRead? j with
      | some b => (latchOf (s.core pcn) b).state != .full
      | none => false
    if wraps && waits && !j.started && !j.finished then s.modJob pcn .mxe j.id (endedWith 4) else s

/-- The first job of a queue completes: its batch counts it, and a fault goes to its thread (R230, R232). -/
def completeJob (s : State) (pcn : Nat) (e : Engine) (j : Job) : State :=
  let cl := clusterOf pcn
  let s1 := (s.modCore pcn fun k => setQueue k e ((queueOf k e).drop 1)).modCluster cl fun k =>
    { k with batches := k.batches.map fun b => if some b.number = j.batch then s.addToBatch j b else b }
  let s2 := if 2 ≤ j.status && !j.cancelled then s1.raiseJobFault j j.status else s1
  (s2.offerBatches cl).endWaitingLatch pcn

end State

/-- JOB_COMPLETE (R230): jobs of a core on one engine complete in order. -/
def execJobComplete (pcn engine : Nat) (s : State) : Res :=
  match (queueOf (s.core pcn) (engineOf engine)).head? with
  | some j => if s.mayComplete pcn j then .next (s.completeJob pcn (engineOf engine) j) else .next s
  | none => .next s

/-- COPY_OVERDUE (R240): a copy whose promise has passed tells its thread once, while its colour group runs (R324). A timed
process takes no such trap. -/
def execCopyOverdue (pcn : Nat) (s : State) : Res :=
  let late (j : Job) : Bool := !j.overdue && !j.timed && s.jobRuns j && match j.promise with
    | some p => decide (p < s.now)
    | none => false
  match (s.core pcn).cpQueue.find? late with
  | some j =>
    let trap : LateTrap := ⟨causeOverdue, j.id, j.promise.getD 0, pcn, j.ckseq⟩
    .next ((s.modCopy pcn j.id fun j => { j with overdue := true }).modLate j.thread j.proc fun x => (x.1 ++ [trap], x.2))
  | none => .next s

namespace State

/-- The GVT of a launch as a core knows it. -/
def gvtAt (s : State) (pcn : Nat) (proc : Nat) : Nat :=
  match (s.proc proc).launch with
  | some l => (s.reduction pcn l).gvt
  | none => 0

/-- A deferred action is performed (R103). -/
def performDeferred (s : State) (pcn : Nat) (d : Deferred) : State :=
  match d.action with
  | .write job dpa page data => s.performOffchip (clusterOf pcn) d.thread job d.order dpa page.entry data
  | .send job b bytes => s.sendToPeer pcn job b d.lvt (s.gvtAt pcn d.proc) bytes

end State

/-- DEFERRED_ACTION (R103): the first held action whose tag GVT has passed is performed, while its launch's colour group
runs (R319); the page of a write is then pinned no more (R333). -/
def execDeferredAction (pcn : Nat) (s : State) : Res :=
  let due (d : Deferred) : Bool :=
    decide (d.lvt ≤ s.gvtAt pcn d.proc) && s.colourRuns ((s.proc d.proc).launch.bind s.launchColour)
  match (s.core pcn).deferred.find? due with
  | some d =>
    .next ((s.modCore pcn fun k => { k with deferred := k.deferred.erase d }).performDeferred pcn d).settlePins
  | none => .next s

/-- The send of a job of a core that has left and is not yet acknowledged. -/
def isSendOf (pcn job : Nat) : UetOut → Bool
  | .peerSend _ _ _ _ _ j core _ => core == pcn && j.toNat == job
  | _ => false

/-- A send of a copy is settled: it is no longer outstanding, and its copy goes on to complete. -/
def State.settleSend (s : State) (pcn job : Nat) (f : Job → Job) : State :=
  if s.uetOut.any (isSendOf pcn job) then
    { s with uetOut := s.uetOut.filter fun u => !isSendOf pcn job u }.modCopy pcn (BitVec.ofNat 32 job) fun j =>
      if j.awaitAck then f { j with awaitAck := false } else j
  else s

/-- PEER_SEND_ACK (R356): the peer's acknowledgement of a copy's send arrives. -/
def execPeerSendAck (pcn job : Nat) (s : State) : Res := .next (s.settleSend pcn job fun j => j)

/-- UET_SEND_ABANDON (R356): UET gives up a send, and its copy ends with status 3. -/
def execUetSendAbandon (pcn job : Nat) (s : State) : Res := .next (s.settleSend pcn job (endedWith 3))

end Sys2Proof.Machine
end

