-- ==== Sys2Proof/Machine/Embers.lean ====
section
/-!
DEFINITION. Embers (03_processes R40 to R46; 17_prog_triangles R280 to R282): their arrival at a core, their acceptance,
their admission to a slot, and the return of a thread to its reserved slot.
-/

namespace Sys2Proof.Machine

/-- Registers with those that an ember carries put in: g1 up (R41, R42). -/
def carryRegs (regs : Vector Word 32) (xs : List Word) : Vector Word 32 :=
  Vector.ofFn fun n : Fin 32 => if n.val = 0 then 0 else (xs[n.val - 1]?).getD (regs[n])

/-- A context that takes over what an ember carries (R40). The trap registers are the thread's own wherever it is away; its home
slot keeps those that it holds (R42). -/
def takeEmber (c : Ctx) (e : Ember) (away : Bool) : Ctx :=
  let d := { c with
    status := .ready, wait := .none, held := e.held, trapping := .none, pfx := .none, port := .none
    proc := e.proc, spawned := e.spawned, home := e.home, away := away, migSize := e.size
    pc := e.pc, pw := e.pw, regs := carryRegs c.regs e.regs
    late := e.late, faults := e.faults, msgFaults := e.msgFaults }
  if away then
    { d with xpc := e.xpc, xstat := e.xstat, xcause := e.xcause, xaddr := e.xaddr, xvec := e.xvec, xring := e.xring }
  else d

namespace State

/-- The sender of an ember waits in `mig` for it to be accepted. -/
def senderWaits (s : State) (e : Ember) : Bool :=
  (s.ctx e.source).wait == .mig && (if (s.ctx e.source).away then (s.ctx e.source).home else e.source) == e.home

/-- The colour of an ember's traffic. -/
def emberColour (s : State) (e : Ember) : Option Nat := (s.proc e.proc).launch.bind s.launchColour

/-- An acceptance on its way to a sender is taken back. -/
def dropAccept (s : State) (tid : Nat) : State :=
  { s with net := s.net.filter fun p => match p.body with | .migAccept t => t != tid | _ => true }

/-- A thread enters its reserved home slot (R42): carried registers from the ember, every other register from the slot. A
trap that brought it home is taken there (R288). -/
def enterHome (s : State) (e : Ember) : State :=
  let s1 := s.dropAccept e.source
  let s2 := if s1.senderWaits e && e.source != e.home then s1.emptySlot e.source else s1
  let s3 := s2.modCtx e.home fun c => takeEmber c e false
  match e.trapping with
  | some t => s3.takeTrapAt e.home t
  | none => s3

/-- The sender of an ember learns that it has been accepted (R44). -/
def acceptEmber (s : State) (pcn : Nat) (e : Ember) : State :=
  s.post .reply pcn (coreOfTid e.source) (s.emberColour e) (.migAccept e.source)

/-- The place in `Mem` of a core's spill ring: in the allocation of the launch that holds the core (R305). -/
def spillRing? (s : State) (pcn : Nat) : Option Nat :=
  (s.launches.find? fun l => launchHolds l.2 && l.2.cores.contains pcn).map fun l =>
    localKey pcn (spillOffset l.2.spec (procsOnCore l.2.spec (l.2.cores.findIdx (· == pcn))))

/-- An ember is written to the tail of the spill ring: the 256 bytes of its entry hold it, in a form that no rule gives (R43). -/
def spillEmber (s : State) (pcn : Nat) (e : Ember) : State :=
  let k := s.core pcn
  let s1 := match s.spillRing? pcn with
    | some ring => s.setMem (memWrite (ring + 256 * k.spillTail) ((List.range 256).map (Config.emberByte e)) s.mem)
    | none => s
  (s1.modCore pcn fun k =>
    { k with spill := k.spill ++ [e], spillTail := (k.spillTail + 1) % k.spillSize }).acceptEmber pcn e

/-- An ember that is bound for a core other than its home (R43, R282): into the arrival queue, the spill ring, or among the
requests that wait. -/
def queueEmber (s : State) (pcn : Nat) (e : Ember) : State :=
  let k := s.core pcn
  if !k.waiting.isEmpty then s.modCore pcn fun k => { k with waiting := k.waiting ++ [e] }
  else if k.embers.length < 8 && k.spill.isEmpty then
    (s.modCore pcn fun k => { k with embers := k.embers ++ [e] }).acceptEmber pcn e
  else if k.spill.length < k.spillSize then s.spillEmber pcn e
  else s.modCore pcn fun k => { k with waiting := k.waiting ++ [e] }

/-- An ember that the spill ring gives back: its registers are free once a program has written the core's reserved area
(R53). -/
def spilledEmber (s : State) (pcn : Nat) (e : Ember) : Ember × State :=
  if (s.core pcn).spoiled then
    let w (n : Nat) : Word := Config.reservedWord (s.fresh + n)
    ({ e with pc := w 0 &&& ~~~(3 : Word), pw := (w 1).setWidth 16, regs := e.regs.zipIdx.map fun x => w (2 + x.2) },
      { s with fresh := s.fresh + 2 + e.regs.length })
  else (e, s)

/-- The ring's head moves into the queue while it has room, and waiting requests move up (R43, R282). -/
def moveUp (s : State) (pcn : Nat) : Nat → State
  | 0 => s
  | fuel + 1 =>
    let k := s.core pcn
    match k.spill, k.waiting with
    | e :: rest, _ =>
      if k.embers.length < 8 then
        let x := s.spilledEmber pcn e
        moveUp (x.2.modCore pcn fun k => { k with embers := k.embers ++ [x.1], spill := rest }) pcn fuel
      else
        match k.waiting with
        | w :: ws =>
          if k.spill.length < k.spillSize then
            moveUp ((s.modCore pcn fun k => { k with waiting := ws }).spillEmber pcn w) pcn fuel
          else s
        | [] => s
    | [], w :: ws =>
      if k.embers.length < 8 then
        moveUp ((s.modCore pcn fun k => { k with embers := k.embers ++ [w], waiting := ws }).acceptEmber pcn w) pcn fuel
      else if 0 < k.spillSize then
        moveUp ((s.modCore pcn fun k => { k with waiting := ws }).spillEmber pcn w) pcn fuel
      else s
    | [], [] => s

/-- The lowest-numbered slot from 1 to 15 that holds no context and is not reserved (R37). -/
def freeSlotOf? (s : State) (pcn : Nat) : Option Nat :=
  ((List.range 16).drop 1).find? fun k => (s.ctx (pcn * 16 + k)).status == .empty

/-- A sender's slot after its ember has been accepted (R42, R44): the home slot stays reserved, any other becomes
free. -/
def releaseSender (s : State) (tid : Nat) : State :=
  let c := s.ctx tid
  if c.away then s.emptySlot tid
  else s.setCtx tid { c with
    status := .reserved, wait := .none, held := none, late := [], faults := [], msgFaults := [] }

/-- The head of the arrival queue takes a free slot (R43): what it does not carry reads zero there (R41), and SRNG
reads 1 (R118). Its sender gives up its own slot by then, so that the thread never occupies two (R44). -/
def admitEmber (s : State) (pcn : Nat) : State :=
  match (s.core pcn).embers, s.freeSlotOf? pcn with
  | e :: rest, some k =>
    if !s.colourRuns (s.emberColour e) then s
    else
      let tid := pcn * 16 + k
      let s1 := if s.senderWaits e then (s.dropAccept e.source).releaseSender e.source else s
      let s2 := (s1.emptySlot tid).modCore pcn fun k => { k with embers := rest }
      (s2.setCtx tid (takeEmber .empty e true)).moveUp pcn 64
  | _, _ => s.moveUp pcn 64

end State

/-- EMBER_ARRIVAL (R42, R43): at home it enters its slot at once; elsewhere it is queued. -/
def execEmberArrival (n : Nat) (s : State) : Res :=
  match s.arrive n with
  | some (⟨_, _, dst, _, _, .ember e⟩, s1) =>
    .next (if coreOfTid e.home = dst then s1.enterHome e else s1.queueEmber dst e)
  | _ => .next s

/-- MIG_ACCEPT (R44): the `mig` completes for its sender. -/
def execMigAccept (n : Nat) (s : State) : Res :=
  match s.arrive n with
  | some (⟨_, _, _, _, _, .migAccept tid⟩, s1) => .next (if (s1.ctx tid).wait = .mig then s1.releaseSender tid else s1)
  | _ => .next s

/-- EMBER_ADMIT (R43). -/
def execEmberAdmit (pcn : Nat) (s : State) : Res := .next (s.admitEmber pcn)

end Sys2Proof.Machine
end

