-- ==== Sys2Proof/Machine/WrapUp.lean ====
section
/-!
DEFINITION. Instruction boundaries, late traps and diversion (18_privileged R287; 13_isa_events_system R251; 05_events
R87), and the beginning of wrap-up (06_virtual_time R108 to R110; 03_processes R46).
-/

namespace Sys2Proof.Machine

/-- A context with its wait abandoned: it stands at the instruction, or at its first prefix word (R148, R251). -/
def Ctx.abandon (c : Ctx) : Ctx := c.goto c.start

/-- An ember of a sender has not been accepted. -/
def isEmberOf (tid : Nat) (p : Packet) : Bool := match p.body with | .ember e => e.source == tid | _ => false

namespace State

/-- The ember of a `mig` that has not been accepted is in the network or among the requests of its destination. -/
def migOpen (s : State) (tid : Nat) : Bool :=
  s.net.any (isEmberOf tid) || s.cores.any fun k => k.2.waiting.any fun e => e.source == tid

/-- That ember is withdrawn: the migration is abandoned and nothing is sent (R251). -/
def dropEmber (s : State) (tid : Nat) : State :=
  { s with
    net := s.net.filter fun p => !isEmberOf tid p
    cores := tableMap (fun _ k => { k with waiting := k.waiting.filter fun e => e.source != tid }) s.cores }

/-- The state in which a context stands at an instruction boundary, its wait abandoned where R251 lets a trap do so, its
open offer closed with −1 (R87); none while it may not. -/
def boundary? (s : State) (tid : Nat) : Option State :=
  let c := s.ctx tid
  if c.trapping.isSome || (c.pfx.first.isSome && c.held.isNone) then none
  else
    match c.wait with
    | .none | .room | .register | .journal | .queue | .settle => some (s.setCtx tid c.abandon)
    | .drain => if c.held = some .rsync then none else some (s.setCtx tid c.abandon)
    | .timer => some (s.setCtx tid { c.abandon with offer := .none })
    | .offer => if c.offer.state = .opened then some (s.closeOffer tid false) else none
    | .mig => if s.migOpen tid then some ((s.dropEmber tid).setCtx tid c.abandon) else none
    | .yield =>
      -- within the 15 cycles the `yield` is abandoned and begins again
      some (s.setCtx tid (c.goto (if (s.core (coreOfTid tid)).cyc < c.notBefore then c.pc - 4 else c.pc)))
    | .access | .msg | .home => none

/-- A locked slot whose event may still commit: what came closes it once it is released (R82, R86, R87). -/
def markTimedOut (s : State) (tid : Nat) : State :=
  s.modCtx tid fun c =>
    match c.offer.state with
    | .locked _ _ _ => { c with offer := { c.offer with timedOut := true } }
    | _ => c

end State

/-- A late trap comes before another: a fault before an overdue copy, then the older (R287). -/
def lateBefore (a b : LateTrap) : Bool :=
  let x := a.cause == causeOverdue
  let y := b.cause == causeOverdue
  (!x && y) || (x == y && decide (a.order ≤ b.order))

/-- The late trap that is taken first. -/
def firstLate : List LateTrap → Option LateTrap
  | [] => none
  | t :: rest =>
    match firstLate rest with
    | none => some t
    | some u => if lateBefore t u then some t else some u

namespace State

/-- XRING for a job (R284): its dispatch-ring index, whether the entry has since been overwritten, and valid. -/
def ringWord (s : State) (t : LateTrap) : BitVec 6 :=
  let idx := t.job.toNat % 16
  let overwritten := match tableFind idx (s.core t.core).ring with
    | some e => e.job != t.job
    | none => true
  BitVec.ofNat 6 (idx + (if overwritten then 16 else 0) + 32)

/-- The thread enters WRAPPC at user level (R108 step 8, R109): pending late traps go and hm is clear (R287). A thread
away from home enters it in its reserved slot (R46). -/
def enterWrap (s : State) (tid : Nat) (l : Launch) : State :=
  let s0 := s.closeBatches (s.threadOf tid)
  let c := s0.ctx tid
  let s1 := if c.away then
      let e := s0.emberOf tid c.migSize none none
      (s0.emptySlot tid).enterHome e
    else s0
  let home := if c.away then c.home else tid
  let h := s1.ctx home
  let d := { h.goto (BitVec.ofNat 64 l.spec.wrappc) with
    late := [], xstat := h.xstat &&& ~~~(3 : Word), divert := false, wrapStop := false, offer := .none }
  if l.spec.timed then
    let pcn := coreOfTid home
    let m := memZero (accKey pcn 0) 8192 (memZero (vecKey pcn (slotOfTid home * 512)) 512 s1.mem)
    (s1.setMem m).setCtx home
      { d with regs := entryRegs l.spec (s1.rankOf home) d.regs, masks := Vector.replicate 4 0 }
  else s1.setCtx home d

/-- The context runs: it is there, and neither stopped, halted nor parked. -/
def alive (c : Ctx) : Bool := (c.status == .ready || c.status == .waiting) && !c.halted && !c.parked

/-- What a context does at a boundary before its next instruction (R287): a diversion, or the first late trap, or
nothing. -/
def takeLate (s : State) (tid : Nat) : State :=
  let c := s.ctx tid
  if !alive c then s
  else if c.divert then
    match s.boundary? tid, s.launchRec? tid with
    | some s1, some l =>
      if bufferEmpty (s1.ctx tid) then s1.enterWrap tid l
      else s1.modCtx tid fun c => { c with wait := .drain, status := .waiting }
    | _, _ => s.markTimedOut tid
  else if lateDue c then
    match s.boundary? tid, firstLate c.late with
    | some s1, some t =>
      let c1 := s1.ctx tid
      (s1.setCtx tid { c1 with late := c1.late.erase t }).takeTrapAt tid
        ⟨t.cause, true, c1.pc, t.job.setWidth 64, s1.ringWord t⟩
    | _, _ => s.markTimedOut tid
  else s

end State

/-- LATE_TRAP (R287). -/
def execLateTrap (tid : Nat) (s : State) : Res := .next (s.takeLate tid)

namespace State

/-! ## Wrap-up begins (R108 steps 1 to 3, R46) -/

/-- Embers of a launch in the network. -/
def embersInNet (s : State) (key : Nat) : List Ember :=
  s.net.filterMap fun p => match p.body with
    | .ember e => if (s.proc e.proc).launch = some key then some e else none
    | _ => none

/-- A thread of an ember that is recalled enters its reserved slot, with nothing left to do there (R46). -/
def returnEmber (s : State) (e : Ember) : State := s.enterHome { e with trapping := none, held := none }

/-- Every ember of a launch is recalled (R46): those accepted, and threads on their way home, enter their reserved slots;
a `mig` that has not been accepted is abandoned. What the spill ring gives back is free once a program has written there (R53). -/
def recallEmbers (s : State) (key : Nat) : State :=
  let ours (e : Ember) : Bool := (s.proc e.proc).launch == some key
  let queued := s.cores.flatMap fun k => k.2.embers.filter ours
  let spilled := s.cores.flatMap fun k => (k.2.spill.filter ours).map fun e => (k.1, e)
  let open' := (s.embersInNet key).filter s.senderWaits ++ s.cores.flatMap fun k => k.2.waiting.filter ours
  let home := (s.embersInNet key).filter fun e => !s.senderWaits e
  let s1 := { s with cores := tableMap (fun _ k => { k with
    embers := k.embers.filter fun e => !ours e, spill := k.spill.filter fun e => !ours e }) s.cores }
  let s2 := open'.foldl (fun t e => (t.dropEmber e.source).modCtx e.source Ctx.abandon) s1
  let s3 := home.foldl (fun t e =>
    { t with net := t.net.filter fun p => match p.body with | .ember x => x != e | _ => true }.returnEmber e) s2
  let s4 := queued.foldl returnEmber s3
  let s5 := spilled.foldl (fun t x => let y := t.spilledEmber x.1 x.2; y.2.returnEmber y.1) s4
  (s5.cores.map Prod.fst).foldl (fun t pcn => t.moveUp pcn 64) s5

/-- The contexts of a launch that have not ended. -/
def threadsOf (s : State) (key : Nat) : List Nat :=
  (s.ctxs.filter fun e => s.ofLaunch key e.2 && e.2.status != .reserved && e.2.status != .stopped).map Prod.fst

/-- A thread of a prompt launch is to be diverted; its open offer is withdrawn at once (R87, R108 step 2). -/
def divertThread (s : State) (tid : Nat) : State :=
  let s1 := s.modCtx tid fun c => { c with divert := true }
  let c := s1.ctx tid
  if c.wait = .offer && c.offer.state == .opened then s1.closeOffer tid false else s1.markTimedOut tid

/-- A timed process that already stands at a stop point stops there; one that waits in an issued offer has it withdrawn
(R108 step 3). -/
def stopTimed (s : State) (tid : Nat) : State :=
  let c := s.ctx tid
  let stop (t : State) : State := t.modCtx tid fun c => { c.abandon with wrapStop := true, status := .waiting }
  match c.wait with
  | .settle => stop s
  | .timer => stop (s.modCtx tid fun c => { c with offer := .none })
  | .offer => if c.offer.state = .opened then stop (s.closeOffer tid false) else s.markTimedOut tid
  | _ => s

/-- The latch jobs of a launch that wait at the heads of their queues end with status 4 (R233). -/
def endLatchJobs (s : State) (key : Nat) : State :=
  (s.cores.map Prod.fst).foldl endWaitingLatch (s.modLaunch key fun l => { l with wrapJobs := s.jobCount })

/-- Copies of a launch finish or are cancelled, as its wrap-copy flag says (R108 step 7). DESIGN CHOICE: the flag also covers the
copies of processes that have halted, of which the rule does not speak (notes/assumptions/76.md). -/
def wrapCopies (s : State) (key : Nat) (l : Launch) : State :=
  if l.spec.cancelCopies then
    (s.cores.map Prod.fst).foldl (fun t pcn => t.cancelCopy pcn fun j => j.launch == some key) s
  else s

/-- A halted process is diverted as if it had been resumed (R326). -/
def unhalt (s : State) (key : Nat) : State :=
  { s with ctxs := tableMap (fun _ c => if s.ofLaunch key c then { c with halted := false } else c) s.ctxs }

/-- Wrap-up begins, once (R108, R261). -/
def beginWrapUp (s : State) (key : Nat) : State :=
  match s.launch? key with
  | none => s
  | some l =>
    if l.phase ≠ .running then s
    else
      let s1 := ((s.unhalt key).setLaunch key
        { l with
          phase := if l.spec.timed then .stopping else .wrapped, wrapTime := s.now
          diverted := !l.spec.timed && !(s.threadsOf key).isEmpty }).recallEmbers key
      let s2 := s1.endLatchJobs key
      if l.spec.timed then (s2.threadsOf key).foldl stopTimed s2
      else ((s2.threadsOf key).foldl divertThread s2).wrapCopies key l

end State

/-- WRAP_UP (R108): NOW has reached D − W, and the launch's colour group is neither out nor frozen (R312, R325). -/
def execWrapUp (launch : Nat) (s : State) : Res :=
  match s.launch? launch with
  | some l => if l.spec.deadline - l.spec.budgetW ≤ s.now && s.colourRuns (s.launchColour launch) then .next (s.beginWrapUp launch) else .next s
  | none => .next s

/-- DEADLINE_OVERRUN (R110): D arrives before a wrapped launch has ended, and it is terminated. D does not come while a group
is frozen (R325). -/
def execDeadlineOverrun (launch : Nat) (s : State) : Res :=
  match s.launch? launch with
  | some l =>
    let g := s.group (s.colourOf l.region)
    if l.spec.deadline ≤ s.now && (l.phase == .stopping || l.phase == .wrapped) && !(g.frozen && g.phase == .stopped) then
      .next (s.endLaunch launch 2 0 0)
    else .next s
  | none => .next s

end Sys2Proof.Machine
end

