-- ==== Sys2Proof/Machine/Gvt.lean ====
section
/-!
DEFINITION. The reduction that computes a launch's GVT (06_virtual_time R102; 21_network R348 to R350), what a new GVT
frees, and the cut of wrap-up (R108 steps 4 to 8).
-/

namespace Sys2Proof.Machine

/-- The least of some values. -/
def leastList (xs : List Nat) : Option Nat := xs.foldl (fun m x => State.leastOf x m) none

namespace State

/-- A commit has come to a process's locked slot and waits for a checkpoint entry (R98). -/
def commitWaits (s : State) (tid : Nat) : Bool :=
  !s.checkpointFree tid && s.net.any fun p => match p.body with
    | .commit t home idx _ _ number => t == tid && (s.ctx tid).offer.state == .locked home idx number
    | _ => false

/-- What a timed process in a slot adds to a report (R102): the VTs of an outstanding timed offer, or LVT + 1 while it
runs; also while it is halted (R326), or waits for a checkpoint entry (R98). -/
def processItems (s : State) (key tid : Nat) : List Nat :=
  let c := s.ctx tid
  if !s.ofLaunch key c || c.spawned || c.status == .stopped && !c.halted || (s.proc c.proc).ended then []
  else if c.halted || s.commitWaits tid then [(s.proc c.proc).lvt + 1]
  else
    match c.offer.state with
    | .opened | .locked _ _ _ => (c.offer.entries.filter fun x => x.timed && !x.gone).map OfferEntry.vt
    | .closed | .committed _ => [(s.proc c.proc).lvt + 1]

/-- What the entries of an event home add (R349): headers, standing offers and the occurrence in progress. -/
def homeItems (s : State) (key pcn : Nat) : List Nat :=
  ((s.core pcn).arb.filter fun e => e.2.launch == key && e.2.state != .free && e.2.desc.timed).flatMap fun e =>
    e.2.headers.map Header.vt ++ e.2.standing.map Standing.vt ++ e.2.current.toList.map Occurrence.vt

/-- Ingress floors of the flows bound to a launch's timed events at a home (R102, R355). -/
def floorItems (s : State) (key pcn : Nat) : List Nat :=
  (s.bindings.flatMap Prod.snd).flatMap fun b =>
    let e := s.entry b.home b.entry
    if b.home = pcn && e.gen = b.gen && e.launch = key && e.desc.timed then
      (if b.floors.isEmpty then [1] else b.floors.map Prod.snd)
    else []

/-- The least of the items that a core holds for a launch (R349 step 2). -/
def leastAt (s : State) (key pcn : Nat) : Option Nat :=
  leastList (((List.range 16).flatMap fun k => s.processItems key (pcn * 16 + k)) ++ s.homeItems key pcn ++
    s.floorItems key pcn)

/-- The lesser of two values that may be missing. -/
def leastBoth (a b : Option Nat) : Option Nat :=
  match a with
  | none => b
  | some x => leastOf x b

/-- A core reports for a pass (R349 step 2), in its launch's colour (R340). -/
def reportPass (s : State) (pcn root key round pass : Nat) : State :=
  let r := s.reduction pcn key
  let sum : Int := if r.red then (r.sentWhite : Int) - r.recvWhite else (r.sentRed : Int) - r.recvRed
  s.post .control pcn root (s.launchColour key) (.gvtReport key round pass (leastBoth (s.leastAt key pcn) r.leastSent) sum 1)

/-- Something is sent to every core of a launch. -/
def tellCores (s : State) (src : Nat) (l : Launch) (body : Body) : State :=
  l.cores.foldl (fun t pcn => t.post .control src pcn none body) s

/-- The GVT service core (R14, R349). -/
def gvtService? (s : State) : Option Nat := (s.roleCores 3).head?

/-- The root starts to combine a pass. -/
def openPass (s : State) (root key : Nat) : State :=
  s.modCore root fun k => { k with gvtStages := (k.gvtStages.filter fun g => g.launch != key) ++ [⟨key, none, 0, 0⟩] }

end State

/-- GVT_ROUND_START (R349, R350): every 2 µs or on request, while no round runs and the launch's colour group is neither
out nor frozen. -/
def execGvtRoundStart (launch : Nat) (s : State) : Res :=
  match s.launch? launch, s.gvtService? with
  | some l, some root =>
    if l.spec.timed && State.launchHolds l && l.phase != .ended && l.round.isNone &&
        (l.requested || decide (l.lastRound + 2000 ≤ s.now)) && s.colourRuns (s.launchColour launch) then
      let s1 := s.setLaunch launch
        { l with round := some l.nextRound, nextRound := l.nextRound + 1, pass := 1, requested := false, lastRound := s.now }
      .next ((s1.openPass root launch).tellCores root l (.gvtStart launch l.nextRound))
    else .next s
  | _, _ => .next s

/-- GVT_START_PACKET (R348, R349): a core switches its reduction colour and reports; the start of a later pass makes it
report again. -/
def execGvtStartPacket (n : Nat) (s : State) : Res :=
  match s.arrive n with
  | some (⟨_, src, dst, _, _, .gvtStart key round⟩, s1) =>
    let s2 := s1.modReduction dst key fun r => { r with red := !r.red, leastSent := none }
    .next (s2.reportPass dst src key round 1)
  | some (⟨_, src, dst, _, _, .gvtPass key round pass⟩, s1) => .next (s1.reportPass dst src key round pass)
  | _ => .next s

namespace State

/-- The root takes a report (R349 steps 3 and 4): the next pass while the old-colour sum is not zero, else the result, which a
wrap-up that has requested the round takes as WRAPVT (R108 step 4). -/
def takeReport (s : State) (root key round pass : Nat) (least : Option Nat) (sum : Int) (cores : Nat) : State :=
  match s.launch? key, (s.core root).gvtStages.find? fun g => g.launch == key with
  | some l, some g =>
    if l.round ≠ some round || l.pass ≠ pass then s
    else
      let g' : GvtStage := ⟨key, leastBoth least g.least, g.sum + sum, g.cores + cores⟩
      if g'.cores < l.cores.length then
        s.modCore root fun k => { k with gvtStages := (k.gvtStages.filter fun x => x.launch != key) ++ [g'] }
      else if g'.sum ≠ 0 then
        ((s.setLaunch key { l with pass := pass + 1 }).openPass root key).tellCores root l (.gvtPass key round (pass + 1))
      else
        let gvt := match g'.least with | some m => m - 1 | none => 2 ^ 64 - 1
        let found := match l.cutRound with
          | some k => if k ≤ round then some (max l.gvt gvt) else l.cutVt
          | none => l.cutVt
        (s.setLaunch key { l with round := none, cutVt := found }).tellCores root l (.gvtResult key gvt)
  | _, _ => s

/-- A report meets another of the same pass at a router that lies on both routes, and the two go on as one (R349 step
3). -/
def combineReport (s : State) (n : Nat) (p : Packet) (router key round pass : Nat) (least : Option Nat) (sum : Int)
    (cores : Nat) : State :=
  let passes (q : Packet) : Bool := q.src == router || (route 128 q.src q.dst).any fun h => h.1 == router
  let same (x : Packet × Nat) : Bool :=
    x.2 != n && x.1.dst == p.dst && passes x.1 && match x.1.body with
      | .gvtReport k r q _ _ _ => k == key && r == round && q == pass
      | _ => false
  match s.net.zipIdx.find? same with
  | some (⟨_, _, _, _, _, .gvtReport _ _ _ least' sum' cores'⟩, m) =>
    if passes p then
      let body := Body.gvtReport key round pass (leastBoth least least') (sum + sum') (cores + cores')
      { s with net := listDrop n (listPut m { p with src := router, body := body } s.net) }
    else s
  | _ => s

end State

/-- GVT_PASS_REPORT (R349): a report reaches a router on its way, or the root. A root that does not accept reduction
packets drops it (R295). -/
def execGvtPassReport (n router : Nat) (s : State) : Res :=
  match s.net[n]? with
  | some p =>
    match p.body with
    | .gvtReport key round pass least sum cores =>
      if router = p.dst then
        match s.arrive n with
        | some (_, s1) =>
          if (s.core p.dst).fwctl.getLsbD 3 then .next (s1.takeReport p.dst key round pass least sum cores)
          else .next (s1.countDrop p.dst)
        | none => .next s
      else .next (s.combineReport n p router key round pass least sum cores)
    | _ => .next s
  | none => .next s

namespace State

/-- Checkpoints whose occurrences GVT has reached are freed with the journal entries that follow them, oldest first
(R98). -/
def freeCheckpoints (s : State) (tid gvt : Nat) : Nat → State
  | 0 => s
  | fuel + 1 =>
    let c := s.ctx tid
    if ckLive c = 0 then s
    else if gvt < memNat s.mem (ckEntryKey tid c (ckHead c) + 16) 8 then s
    else
      let c1 := { c with
        ckpos := setField (setField c.ckpos 0 12 ((ckHead c + 1) % max 1 (ckLen c))) 16 12 (ckLive c - 1) }
      let head := if ckLive c1 = 0 then jTail c1 else memNat s.mem (ckEntryKey tid c1 (ckHead c1) + 40) 8
      let c2 := { c1 with jpos := setField c1.jpos 0 16 head }
      let first := c2.ckseq.toNat - ckLive c2
      freeCheckpoints ((s.setCtx tid c2).modProc c.proc fun p =>
        { p with
          sent := p.sent.filter fun x => decide (first ≤ x.seq) }) tid gvt fuel

/-- A core learns a launch's GVT (R349): it never lowers it; checkpoints and kept occurrences that GVT has reached are freed
(R98, R100). -/
def deliverGvt (s : State) (pcn key gvt : Nat) : State :=
  let g := max (s.reduction pcn key).gvt gvt
  let s1 := (s.modReduction pcn key fun r => { r with gvt := g }).modLaunch key fun l => { l with gvt := max l.gvt g }
  let s2 := s1.modCore pcn fun k => { k with
    arb := tableMap (fun _ e =>
      if e.launch = key then
        { e with past := e.past.filter fun o => decide (g < o.vt) }
      else e) k.arb }
  ((List.range 16).map (pcn * 16 + ·)).foldl (fun t tid =>
    if t.ofLaunch key (t.ctx tid) && !(t.ctx tid).spawned then t.freeCheckpoints tid g 4096 else t) s2

end State

/-- GVT_RESULT (R349): while the launch's colour group is out or frozen, GVT holds its last value (R350). -/
def execGvtResult (n : Nat) (s : State) : Res :=
  match s.arrive n with
  | some (⟨_, _, dst, _, _, .gvtResult key gvt⟩, s1) =>
    if s.colourRuns (s.launchColour key) then .next (s1.deliverGvt dst key gvt) else .next s
  | _ => .next s

namespace State

/-! ## The cut (R108 steps 4 to 8) -/

/-- Every timed process of a launch has ended or stands at its stop point (R108 step 3). -/
def allStopped (s : State) (key : Nat) : Bool := (s.threadsOf key).all fun tid => (s.ctx tid).wrapStop

/-- A process rolls back to its earliest occurrence after the cut (R108 step 5). -/
def undoAfter (s : State) (tid cut : Nat) : State :=
  match (s.proc (s.ctx tid).proc).occs.find? fun o => decide (cut < o.vt) with
  | some o => s.rollback tid o.seq
  | none => s

/-- The occurrences after the cut are cancelled at their homes (R100, R108 step 5). -/
def cancelAfter (s : State) (key cut : Nat) : State :=
  (s.cores.flatMap fun k => k.2.arb.map fun e => (k.1, e.1)).foldl (fun t x =>
    let e := t.entry x.1 x.2
    if e.launch = key then
      (e.past.filter fun o => decide (cut < o.vt)).foldl (fun t o => t.cancelOccurrence x.1 x.2 o.number fun _ => true) t
    else t) s

/-- Deferred actions whose tag is not below the cut are discarded (R108 step 6); a send's copy ends as cancelled
(R356). -/
def discardDeferred (s : State) (key cut : Nat) : State :=
  let gone (d : Deferred) : Bool := (s.proc d.proc).launch == some key && decide (cut < d.lvt)
  let isSend (k : CoreS) (j : Job) : Bool := k.deferred.any fun d => gone d && match d.action with
    | .send job _ _ => job == j.id
    | .write _ _ _ _ => false
  { s with cores := tableMap (fun _ k => { k with
      deferred := k.deferred.filter fun d => !gone d
      cpQueue := k.cpQueue.map fun j =>
        if isSend k j then endedWith 1 { j with awaitAck := false, cancelled := true } else j }) s.cores }

/-- The deferred actions of a launch that the cut has left are performed (R108 step 6). -/
def performRetained (s : State) (key : Nat) : State :=
  let ours (d : Deferred) : Bool := (s.proc d.proc).launch == some key
  ((s.cores.flatMap fun k => (k.2.deferred.filter ours).map fun d => (k.1, d)).foldl (fun t x =>
    (t.modCore x.1 fun k => { k with deferred := k.deferred.erase x.2 }).performDeferred x.1 x.2) s).settlePins

/-- The cut of a timed launch's wrap-up at WRAPVT (R108 steps 5 to 8). -/
def wrapCut (s : State) (key cut : Nat) (l : Launch) : State :=
  let tids := s.threadsOf key
  let s1 := ((tids.foldl (fun t tid => t.undoAfter tid cut) s).cancelAfter key cut).discardDeferred key cut
  let s2 := (l.cores.foldl (fun t pcn => t.deliverGvt pcn key cut) s1).performRetained key
  let s3 := (s2.endLatchJobs key).wrapCopies key l
  let s4 := s3.modLaunch key fun l => { l with phase := .wrapped, wrapvt := cut, diverted := !tids.isEmpty }
  tids.foldl (fun t tid => t.modCtx tid fun c => { c.abandon with divert := true, wrapStop := false }) s4

end State

/-- WRAPUP_CUT (R108 steps 4 to 8), while the launch's group is neither out nor frozen (R324, R325): once every timed process has
reached its stop point, wrap-up requests a round (R350); when that has found WRAPVT, the cut is made. -/
def execWrapupCut (launch : Nat) (s : State) : Res :=
  match s.launch? launch with
  | some l =>
    if l.phase = .stopping && s.allStopped launch && s.colourRuns (s.launchColour launch) then
      match l.cutVt, l.cutRound with
      | some cut, _ => .next (s.wrapCut launch cut l)
      | none, none => .next (s.setLaunch launch { l with cutRound := some l.nextRound, requested := true })
      | none, some _ => .next s
    else .next s
  | none => .next s

end Sys2Proof.Machine
end

