-- ==== Sys2Proof/Machine/Thread.lean ====
section
/-!
DEFINITION. Instructions on virtual time, threads and messages, clocks and software traps (13_isa_events_system R258 to
R269, R272; 03_processes R37 to R49), and the prefix words (09_encoding R146 to R148).
-/

namespace Sys2Proof.Machine

/-! ## Virtual time (R258 to R260) -/

/-- `vt.set` (R258): it never lowers LVT. -/
def execVtSet (a : GReg) (s : State) : Res :=
  let v := (s.g a).toNat
  if v = 2 ^ 64 - 1 then s.trapHere causeTimed 0
  else .next (s.modProc s.me.proc fun p => { p with lvt := max p.lvt v }).finish

/-- `vt.get` (R258). -/
def execVtGet (d : GReg) (s : State) : Res := s.writeG d (BitVec.ofNat 64 (s.lvtOf s.cur))

/-- `gvt` (R259). -/
def execGvt (d : GReg) (s : State) : Res := s.writeG d (BitVec.ofNat 64 (s.gvtOf s.cur))

/-- `settle` (R260): it requests a round when it issues (R105), and is a stop point of wrap-up while it has not completed (R108). -/
def execSettle (s : State) : Res :=
  let s1 := if s.me.held = some .settle || !s.isTimed s.cur then s else s.requestRound s.cur
  if !s.unsettled s.cur then .next s1.finish
  else if s.atStopPoint s.cur then .next s.stopHere
  else .next (s1.holdWith .settle .settle)

/-! ## Ending threads and launches (R261 to R263) -/

/-- `wrap` (R261). -/
def execWrap (s : State) : Res :=
  match s.launchOf s.cur with
  | none => .next s.finish
  | some key =>
    if s.unsettled s.cur then
      if s.atStopPoint s.cur then .next s.stopHere else .next ((s.requestRound s.cur).holdWith .wrap .settle)
    else if ((s.launch? key).map Launch.phase) = some .running then
      let s1 := s.beginWrapUp key
      -- a prompt thread is diverted with the others; a timed process stops at the `wrap` itself
      .next (if s.isTimed s.cur then s1.stopHere else s1)
    else .next s.finish

namespace State

/-- A thread ends (R263): its open batches close (R230), no late fault reaches it any more (R232), and its slot becomes
free. -/
def finishThread (s : State) (tid : Nat) : State :=
  let thread := s.threadOf tid
  let forget (j : Job) : Job := if j.thread = thread then { j with thread := 0 } else j
  let s1 := s.closeBatches thread
  { s1 with cores := tableMap (fun _ k =>
      { k with mxQueue := k.mxQueue.map forget, cpQueue := k.cpQueue.map forget }) s1.cores }.endThread tid

/-- `halt` for an instruction: the buffer drains, and a timed process settles first (R263). -/
def haltWith (s : State) (i : Instr) : Res :=
  if !bufferEmpty s.me then .next (s.holdWith i .drain)
  else if s.atStopPoint s.cur then .next s.stopHere
  else if s.unsettled s.cur then .next ((s.requestRound s.cur).holdWith i .settle)
  else .next (s.finishThread s.cur)

end State

/-- `halt` (R263). -/
def execHalt (s : State) : Res := s.haltWith .halt

/-- `wrap.done` (R262): in wrap-up it adds g[a] to the launch's validity mask and ends the thread; outside it is `halt`. -/
def execWrapDone (a : GReg) (s : State) : Res :=
  match s.launchOf s.cur with
  | some key =>
    if s.inWrapUp s.cur && !s.atStopPoint s.cur then
      if !State.bufferEmpty s.me then .next (s.holdWith (.wrapDone a) .drain)
      else .next ((s.modLaunch key fun l => { l with mask := l.mask ||| s.g a }).finishThread s.cur)
    else s.haltWith (.wrapDone a)
  | none => s.haltWith (.wrapDone a)

/-! ## Threads (R264, R265) -/

namespace State

/-- XSTAT at reset: level 1 on a system core and in the handler slot (R284). -/
def resetStat (s : State) (tid : Nat) : Word := if s.isSystem (coreOfTid tid) || slotOfTid tid = 0 then 1 else 0

/-- A thread is created in a slot (R37, R222, R284): its first issue comes at least 4 cycles later (R264). In boot mode every context
runs at system level (R371). -/
def createThread (s : State) (slot : Nat) (pc arg : Word) : State :=
  let tid := s.here * 16 + slot
  let c := s.me
  ((s.emptySlot tid).setCtx tid { Ctx.empty with
    status := .ready, proc := c.proc, spawned := true, home := tid, pc := pc, pw := 1
    regs := (Vector.replicate 32 (0 : Word)).set 3 arg
    rmode := c.rmode, fflags := c.fflags, srng := c.srng, xvec := c.xvec
    xstat := if s.bootMode then 1 else s.resetStat tid
    lastIssue := some (s.core s.here).cyc }).modProc c.proc fun p => { p with live := p.live + 1 }

end State

/-- `spawn` (R264, R38): the ember at the head of the arrival queue comes before it (R281). -/
def execSpawn (d a b : GReg) (s : State) : Res :=
  if !State.bufferEmpty s.me then .next (s.holdWith (.spawn d a b) .drain)
  else if (s.g a).toNat % 4 ≠ 0 then s.trapHere causeMisaligned (s.g a)
  else if s.isTimed s.cur then s.trapHere causeTimed 0
  else
    let p := s.proc s.me.proc
    let s1 := s.admitEmber s.here
    if s.inWrapUp s.cur || p.spawnLimit ≤ p.live then s.writeG d 0
    else
      match s1.freeSlotOf? s.here with
      | none => s1.writeG d 0
      | some k => (s1.createThread k (s.g a) (s.g b)).writeG d (BitVec.ofNat 64 (s.here * 16 + k))

namespace State

/-- Checks 2 to 4 of R52 on a target of `mig` or `msg`, with control space closed at every level (R40, R47). -/
def checkWindow (s : State) (a : Word) : Option Nat :=
  match decodeAddr a with
  | .control _ => some causeOffchip
  | t => s.checkTarget s.cur t

/-- The ember of a `mig` that issues: the thread continues at the next instruction (R40). -/
def migEmber (s : State) (size : MigSize) : Ember := { s.emberOf s.cur size none none with pc := s.me.pc + 4 }

end State

/-- `mig` (R265, R40, R44): the sender waits for the acceptance. -/
def execMig (a : GReg) (size : MigSize) (s : State) : Res :=
  if !State.bufferEmpty s.me then .next (s.holdWith (.mig a size) .drain)
  else
    match s.checkWindow (s.g a) with
    | some cause => s.trapHere cause (s.g a)
    | none =>
      if s.isTimed s.cur then s.trapHere causeTimed (s.g a)
      else
        let dst := ((decodeAddr (s.g a)).owner? s.here).getD s.here
        if dst = s.here || s.inWrapUp s.cur then .next s.finish
        else
          .next ((s.modMe fun c => { c with wait := .mig, status := .waiting, held := none }).post
            .request s.here dst (s.trafficColour s.cur) (.ember (s.migEmber size)))

/-! ## Carrier messages (R266, R47, R169) -/

/-- A word is `reply`: op 0x3D, fn 3. -/
def isReplyWord (w : BitVec 32) : Bool := w.toNat / 2 ^ 26 == 0x3D && w.toNat % 32 == 3

/-- A word of the carrier subset (R169). -/
def inCarrierSubset (w : BitVec 32) : Bool :=
  let m := w.toNat / 2 ^ 26
  (decide (1 ≤ m) && decide (m ≤ 9)) || (decide (0x18 ≤ m) && decide (m ≤ 0x26)) || isReplyWord w

/-- The words of a message that are checked: up to the first `reply` (R47). -/
def checkedWords : List (BitVec 32) → List (BitVec 32)
  | [] => []
  | w :: t => if isReplyWord w then [w] else w :: checkedWords t

/-- The offset of an address within the window it names (R48). -/
def windowOffset (a : Word) : Nat :=
  match decodeAddr a with
  | .self off | .localStore _ off => off
  | .accumulator _ b | .vector _ b => b
  | _ => 0

namespace State

/-- The four instruction words of a message block in a core's local store. -/
def messageWords (s : State) (pcn off : Nat) : List (BitVec 32) :=
  (List.range 4).map fun i => BitVec.ofNat 32 (memNat s.mem (localKey pcn (off + 4 * i)) 4)

/-- A message that has passed its checks is sent (R48, R49): an ordinary one makes its sender wait, a relaxed one takes a
place in the relaxed buffer. -/
def sendMessage (s : State) (d a b : GReg) : State :=
  let c := s.me
  let off := (s.g b).toNat
  let m : Message :=
    ⟨s.messageWords s.here off, BitVec.ofNat 64 (memNat s.mem (localKey s.here (off + 16)) 8),
      BitVec.ofNat 64 (memNat s.mem (localKey s.here (off + 24)) 8), BitVec.ofNat 64 (windowOffset (s.g a)), s.cur,
      c.nextSerial, c.pfx.rlx⟩
  let dst := ((decodeAddr (s.g a)).owner? s.here).getD s.here
  let c1 :=
    if c.pfx.rlx then { c with relaxedMsgs := c.relaxedMsgs ++ [(c.nextSerial, s.g a)] }.advance
    else { c with wait := .msg, status := .waiting, held := none, dest := d, target := s.g a }
  (s.setMe { c1 with nextSerial := c.nextSerial + 1 }).post .request s.here dst (s.trafficColour s.cur) (.message m)

end State

/-- `msg` (R266). -/
def execMsg (d a b : GReg) (s : State) : Res :=
  let c := s.me
  if !c.pfx.rlx && !State.bufferEmpty c then .next (s.holdWith (.msg d a b) .drain)
  else
    match s.checkWindow (s.g a) with
    | some cause => s.trapHere cause (s.g a)
    | none =>
      if (s.g b).toNat % 16 ≠ 0 then s.trapHere causeMisaligned (s.g b)
      else if !blockInWindow (s.g b) 32 then s.trapHere causeUnmapped (s.g b)
      else if !(checkedWords (s.messageWords s.here (s.g b).toNat)).all inCarrierSubset then s.illegal
      else if s.isTimed s.cur then s.trapHere causeTimed (s.g a)
      else if c.pfx.rlx && decide (8 ≤ c.relaxed.length + c.relaxedMsgs.length) then .next (s.holdWith (.msg d a b) .room)
      else .next (s.sendMessage d a b)

/-- `reply` in a thread's own instruction stream is illegal (R266); the handler runs its own. -/
def execReply (_ : GReg) (s : State) : Res := s.illegal

/-- `yield` (R267): 15 cycles are lent. -/
def execYield (s : State) : Res :=
  .next (s.modMe fun c => { c.advance with wait := .yield, notBefore := (s.core s.here).cyc + 16 })

/-- `rsync` (R268): the Drain of R58, then the first carrier fault of a relaxed message. -/
def execRsync (s : State) : Res :=
  if !State.bufferEmpty s.me then .next (s.holdWith .rsync .drain)
  else
    match s.me.msgFaults with
    | [] => .next s.finish
    | f :: rest =>
      let first := rest.foldl (fun b x => if x.1 < b.1 then x else b) f
      (s.modMe fun c => { c with msgFaults := [] }).trapNext causeCarrier first.2

/-! ## Clocks and traps (R269, R272) -/

/-- `now` (R269). -/
def execNow (d : GReg) (s : State) : Res := s.writeG d (BitVec.ofNat 64 s.now)
/-- `cyc` (R269). -/
def execCyc (d : GReg) (s : State) : Res := s.writeG d (BitVec.ofNat 64 (s.core s.here).cyc)
/-- `brk` (R272): XPC is the `brk` itself. -/
def execBrk (c : BitVec 6) (s : State) : Res := s.trapHere causeBreak (c.setWidth 64)
/-- `trap` (R272): XPC is the next instruction. -/
def execTrap (c : BitVec 6) (s : State) : Res := s.trapNext causeSoftware (c.setWidth 64)

/-! ## Prefix words (R146 to R148) -/

/-- `rlx` (R146): it may only come first (R147). -/
def execRlx (s : State) : Res :=
  let c := s.me
  if c.pfx.first.isSome then s.illegal else .next (s.setMe { c with pfx := ⟨some c.pc, true, none⟩, pc := c.pc + 4 })

/-- `ext` (R146): it may come first, or after `rlx` (R147). -/
def execExt (h : BitVec 24) (s : State) : Res :=
  let c := s.me
  if c.pfx.ext.isSome then s.illegal
  else .next (s.setMe { c with pfx := ⟨some (c.pfx.first.getD c.pc), c.pfx.rlx, some h⟩, pc := c.pc + 4 })

end Sys2Proof.Machine
end

