-- ==== Sys2Proof/Machine/Carrier.lean ====
section
/-!
DEFINITION. Travel, and the handler slot (03_processes R47 to R50; 04_memory_order R58; 09_encoding R169): remote accesses
and carrier messages reach the handler's queue, slot 0 runs the messages one word at a time, and their replies go back.
-/

namespace Sys2Proof.Machine

/-! ## Travel -/

/-- The packet is a carrier message of a context. -/
def isMessageOf (tid : Nat) (p : Packet) : Bool := match p.body with | .message m => m.sender == tid | _ => false

namespace State

/-- A carrier message ends: its reply or its fault goes back to the sender (R49). -/
def answerMessage (s : State) (pcn : Nat) (m : Message) (value : Option Word) (fault : Bool) : State :=
  s.post .reply pcn (coreOfTid m.sender) (s.trafficColour m.sender) (.msgReply m.sender m.serial m.relaxed value fault)

/-- The oldest carrier message that a context has in the network reaches the handler's queue of its destination, when
that has room (R50), or is dropped by a firewall and refused (R295). -/
def travelMessage (s : State) (tid : Nat) : State :=
  let n := s.net.findIdx (isMessageOf tid)
  match s.net[n]? with
  | some p =>
    match p.body with
    | .message m =>
      if !s.mayArrive n p then s
      else if s.firewallDrops p.src p.dst 0 then ((s.takePacket n p).countDrop p.dst).answerMessage p.dst m none true
      else if !s.handlerRoom p.dst then s
      else (s.takePacket n p).modCore p.dst fun k => { k with handler := k.handler ++ [.message m] }
    | _ => s
  | none => s

end State

/-- ACCESS_TRAVEL (R58): part k of access n of a context is appended to its bank's arrival queue. Past its accesses, n
names the carrier message that the context has in the network. -/
def execAccessTravel (tid n k : Nat) (s : State) : Res :=
  match (accessesOf (s.ctx tid))[n]? with
  | some acc => .next (if (s.ctx tid).parked then s else s.travel tid k acc)
  | none => .next (s.travelMessage tid)

/-! ## The words of a message -/

/-- The integer ALU words of the carrier subset (R169): what each does to the context that issues. -/
def carrierAlu? (i : Instr) (s : State) : Option Res :=
  match i with
  | .add d a b => some (execAdd d a b s)
  | .sub d a b => some (execSub d a b s)
  | .and d a b => some (execAnd d a b s)
  | .or d a b => some (execOr d a b s)
  | .xor d a b => some (execXor d a b s)
  | .shl d a b => some (execShl d a b s)
  | .shr d a b => some (execShr d a b s)
  | .sra d a b => some (execSra d a b s)
  | .mul d a b => some (execMul d a b s)
  | .mulh d a b => some (execMulh d a b s)
  | .mulhu d a b => some (execMulhu d a b s)
  | .div d a b => some (execDiv d a b s)
  | .divu d a b => some (execDivu d a b s)
  | .rem d a b => some (execRem d a b s)
  | .remu d a b => some (execRemu d a b s)
  | .min d a b => some (execMin d a b s)
  | .max d a b => some (execMax d a b s)
  | .minu d a b => some (execMinu d a b s)
  | .maxu d a b => some (execMaxu d a b s)
  | .sel d a b k => some (execSel d a b k s)
  | .clz d a => some (execClz d a s)
  | .ctz d a => some (execCtz d a s)
  | .popc d a => some (execPopc d a s)
  | .sextB d a => some (execSextB d a s)
  | .sextH d a => some (execSextH d a s)
  | .sextW d a => some (execSextW d a s)
  | .zextB d a => some (execZextB d a s)
  | .zextH d a => some (execZextH d a s)
  | .zextW d a => some (execZextW d a s)
  | .addi d a j => some (execAddi d a j s)
  | .andi d a j => some (execAndi d a j s)
  | .ori d a j => some (execOri d a j s)
  | .xori d a j => some (execXori d a j s)
  | .shli d a j => some (execShli d a j s)
  | .shri d a j => some (execShri d a j s)
  | .srai d a j => some (execSrai d a j s)
  | .muli d a j => some (execMuli d a j s)
  | _ => none

/-- What a memory word of the carrier subset accesses: its kind, bytes, data and address. -/
structure CarrierAccess where
  kind : AccessKind
  size : Nat
  data : Nat
  addr : Word
deriving DecidableEq, Repr

/-- The memory words of the carrier subset (R169): what each accesses (R186, R193, R195). -/
def carrierAccess? (i : Instr) (s : State) : Option CarrierAccess :=
  let store (n : Nat) (d a : GReg) (j : BitVec 16) : Option CarrierAccess :=
    some ⟨.store, n, (s.g d).toNat, s.address a j⟩
  let bits (q k : Nat) (d a : GReg) : Option CarrierAccess :=
    some ⟨.subByte q k, if 8 < q + k then 2 else 1, (s.g d).toNat % 2 ^ k, s.g a⟩
  let atomic (f : Nat) (d a : GReg) (w : AWidth) : Option CarrierAccess :=
    let n := AWidth.bytes w
    some ⟨.atomic f, n, (s.g d).toNat % 2 ^ (8 * n), s.g a⟩
  match i with
  | .ldB d a j => some ⟨.load d true, 1, 0, s.address a j⟩
  | .ldBu d a j => some ⟨.load d false, 1, 0, s.address a j⟩
  | .ldH d a j => some ⟨.load d true, 2, 0, s.address a j⟩
  | .ldHu d a j => some ⟨.load d false, 2, 0, s.address a j⟩
  | .ldW d a j => some ⟨.load d true, 4, 0, s.address a j⟩
  | .ldWu d a j => some ⟨.load d false, 4, 0, s.address a j⟩
  | .ldD d a j => some ⟨.load d false, 8, 0, s.address a j⟩
  | .ldQ d a j => some ⟨.loadPair d, 16, 0, s.address a j⟩
  | .stB d a j => store 1 d a j
  | .stH d a j => store 2 d a j
  | .stW d a j => store 4 d a j
  | .stD d a j => store 8 d a j
  | .stQ d a j => some ⟨.store, 16, (s.g d).toNat + (s.g (d + 1)).toNat * 2 ^ 64, s.address a j⟩
  | .stX4 d a q => bits (if q then 4 else 0) 4 d a
  | .stX6 d a q => bits q.val 6 d a
  | .aadd d a w => atomic 0 d a w
  | .amin d a w => atomic 1 d a w
  | .amax d a w => atomic 2 d a w
  | .aminu d a w => atomic 3 d a w
  | .amaxu d a w => atomic 4 d a w
  | .aand d a w => atomic 5 d a w
  | .aor d a w => atomic 6 d a w
  | .axor d a w => atomic 7 d a w
  | _ => none

/-- A carrier access lies in the handler's self window, and is aligned unless it stores bits (R48, R52). -/
def CarrierAccess.ok (x : CarrierAccess) : Bool :=
  let aligned := match x.kind with | .subByte _ _ => true | _ => x.addr.toNat % x.size == 0
  aligned && decide (x.addr.toNat + x.size ≤ 0x20000)

/-- What becomes of a message at one of its words. -/
inductive WordEnd where
  /-- The word has taken effect. -/
  | done (s : State)
  | replied (s : State) (v : Word)
  /-- Nothing of this word has happened; the message ends in a fault (R48). -/
  | fault

/-- One word of a message runs in the handler slot of a core (R48, R169): a word that does not decode, that the subset
does not hold, or whose address is not in the handler's self window ends the message in a fault. -/
def State.carrierWord (s : State) (pcn : Nat) (w : BitVec 32) : WordEnd :=
  let s1 := { s with cur := 16 * pcn }
  match decodeWord w with
  | .error _ => .fault
  | .ok i =>
    match i with
    | .reply a => .replied s (s1.g a)
    | _ =>
      match carrierAlu? i s1, carrierAccess? i s1 with
      | some (.next t), _ => .done { t with cur := s.cur }
      | _, some x =>
        if x.ok then
          .done { s1.performPart (16 * pcn) x.kind ⟨localKey pcn x.addr.toNat, x.size, x.data, 0, false, false⟩ with
            cur := s.cur }
        else .fault
      | _, _ => .fault

namespace State

/-- The banks that a word of a message accesses in the handler's registers as they are. -/
def wordBanks (s : State) (pcn : Nat) (w : BitVec 32) : List Nat :=
  match decodeWord w with
  | .ok i =>
    match carrierAccess? i { s with cur := 16 * pcn } with
    | some x => if x.ok then partBanks ⟨localKey pcn x.addr.toNat, x.size, x.data, 0, false, false⟩ else []
    | none => []
  | .error _ => []

/-- An entry of a bank's queue was appended by a handler (R50). -/
def fromHandler (s : State) (q : QueuedPart) : Bool :=
  match q.source with
  | .access tid serial => ((s.queuedPart? tid serial q.addr q.off).map fun x => x.2.2.window).getD false
  | .job _ _ _ => false

/-- A word of a message waits while a remote access that the handler took before it still stands in the queue of a bank that the
word accesses: the owner performs accesses in the order its handler takes them (R50). -/
def wordWaits (s : State) (pcn : Nat) (w : BitVec 32) : Bool :=
  (s.wordBanks pcn w).any fun b => (s.bank b).any s.fromHandler

/-- The handler's registers as a message begins (R48): it runs at system level (R283). -/
def startMessage (s : State) (pcn : Nat) (m : Message) : State :=
  let regs := Vector.replicate 32 (0 : Word)
  (s.setCtx (16 * pcn) { Ctx.empty with
    xstat := 1
    regs := (((regs.set 3 m.data0).set 4 m.data1).set 5 m.offset).set 6 (BitVec.ofNat 64 (s.threadOf m.sender))
    lastIssue := (s.ctx (16 * pcn)).lastIssue }).modCore
    pcn fun k => { k with running := some (m, 0) }

/-- The message in the handler slot has ended: the slot is empty, and the answer leaves. -/
def endMessage (s : State) (pcn : Nat) (m : Message) (value : Option Word) (fault : Bool) : State :=
  ((s.setCtx (16 * pcn) { Ctx.empty with xstat := 1, lastIssue := (s.ctx (16 * pcn)).lastIssue }).modCore pcn fun k =>
    { k with running := none }).answerMessage pcn m value fault

/-- The next word of the message that runs in the handler slot. -/
def runWord (s : State) (pcn : Nat) (m : Message) (n : Nat) : State :=
  if s.wordWaits pcn (m.words.getD n 0) then s
  else
    match s.carrierWord pcn (m.words.getD n 0) with
    | .fault => s.endMessage pcn m none true
    | .replied t v => t.endMessage pcn m (some v) false
    | .done t =>
      if 3 ≤ n then t.endMessage pcn m none false else t.modCore pcn fun k => { k with running := some (m, n + 1) }

/-- The handler appends a remote access to its bank's arrival queue (R50). -/
def handOver (s : State) (q : QueuedPart) : State :=
  match q.source with
  | .access tid serial =>
    match s.queuedPart? tid serial q.addr q.off with
    | some x => s.enqueuePart q x.2.2
    | none => s
  | .job _ _ _ => s

/-- A cycle of the handler slot: it runs a word of its message, or takes the next entry of its queue (R48, R50). A
message that it takes runs its first word at once, and a remote access goes on to its bank. -/
def handlerCycle (s : State) (pcn : Nat) : State :=
  match (s.core pcn).running, (s.core pcn).handler with
  | some (m, n), _ => s.runWord pcn m n
  | none, [] => s
  | none, .access q :: rest => (s.modCore pcn fun k => { k with handler := rest }).handOver q
  | none, .message m :: rest => ((s.modCore pcn fun k => { k with handler := rest }).startMessage pcn m).runWord pcn m 0

/-- The handler slot has something to do (R35): on a core that has stopped for a gang switch, only the message in progress
(R319). -/
def handlerReady (s : State) (pcn : Nat) : Bool :=
  match (s.core pcn).running with
  | some (m, n) => !s.wordWaits pcn (m.words.getD n 0)
  | none => !(s.core pcn).handler.isEmpty && !s.coreStopped pcn

end State

/-- CARRIER_MESSAGE (R48): the handler slot of a core runs the next word of its message. -/
def execCarrierMessage (pcn : Nat) (s : State) : Res := .next (s.handlerCycle pcn)

namespace State

/-- The end of a carrier message reaches its sender (R49). -/
def takeMsgReply (s : State) (tid serial : Nat) (relaxed : Bool) (value : Option Word) (fault : Bool) : State :=
  let c := s.ctx tid
  if relaxed then
    let mine := c.relaxedMsgs.filter fun x => x.1 == serial
    (s.setCtx tid { c with
      relaxedMsgs := c.relaxedMsgs.filter fun x => x.1 != serial
      msgFaults := if fault then c.msgFaults ++ mine else c.msgFaults }).drainTrap tid
  else if c.wait ≠ .msg then s
  else if fault then s.takeTrapAt tid ⟨causeCarrier, false, c.pc + 4, c.target, 0⟩
  else s.setCtx tid (c.setG c.dest (value.getD 0)).advance

end State

/-- MSG_REPLY (R49). -/
def execMsgReply (n : Nat) (s : State) : Res :=
  match s.arrive n with
  | some (⟨_, _, _, _, _, .msgReply tid serial relaxed value fault⟩, s1) =>
    .next (s1.takeMsgReply tid serial relaxed value fault)
  | _ => .next s

end Sys2Proof.Machine
end

