-- ==== Sys2Proof/Machine/System.lean ====
section
/-!
DEFINITION. Control registers and the return from a trap (13_isa_events_system R270, R271, R273; 09_encoding R166;
03_processes R34; 06_virtual_time R107; 07_numbers R115, R118, R122; 18_privileged R283, R284, R290, R294).
-/

namespace Sys2Proof.Machine

/-! ## Reading (R270) -/

/-- XSTAT as it reads: pend is set while a late trap waits to be taken (R284, R287). -/
def statusRead (c : Ctx) : Word := (c.xstat &&& ~~~(8 : Word)) ||| (if c.late.isEmpty then 0 else 8)

namespace State

/-- What a user register that describes the process, the time or the deadline reads (R34, R107, R269). -/
def crrUser (s : State) (n : Nat) : Option Word :=
  let l := s.launchRec? s.cur
  let ofSpec (f : LaunchRec → Nat) : Nat := (l.map fun x => f x.spec).getD 0
  let some' (v : Nat) : Option Word := some (BitVec.ofNat 64 v)
  match n with
  | 0x001 => some' (s.rankOf s.cur % 2 ^ 12)
  | 0x002 => some' (ofSpec LaunchRec.n)
  | 0x003 => some' (slotOfTid s.cur)
  | 0x004 => some' (s.here + s.logicalNumber s.cur s.here * 2 ^ 16)
  | 0x005 => some' (s.regionOf s.cur)
  | 0x010 => some' s.now
  | 0x011 => some' (s.core s.here).cyc
  | 0x020 => some' (s.lvtOf s.cur)
  | 0x021 => some' (s.gvtOf s.cur)
  | 0x030 => some' (ofSpec LaunchRec.wrappc)
  | 0x031 => some' ((l.map Launch.wrapvt).getD 0)
  | 0x032 => some' (ofSpec LaunchRec.deadline)
  | 0x033 => some' (ofSpec LaunchRec.budgetW)
  | _ => none

/-- What a register that the context itself holds reads (R115, R118, R122, R284, R294). -/
def crrOwn (c : Ctx) (n : Nat) : Option Word :=
  match n with
  | 0x040 => some (c.rmode.setWidth 64)
  | 0x041 => some (c.fflags.setWidth 64)
  | 0x042 => some (c.srng.setWidth 64)
  | 0x100 => some c.xpc
  | 0x101 => some (statusRead c)
  | 0x102 => some c.xcause
  | 0x103 => some c.xaddr
  | 0x104 => some c.xvec
  | 0x105 => some c.xring
  | 0x110 => some c.ckring
  | 0x111 => some c.ckpos
  | 0x112 => some c.ckseq
  | 0x113 => some c.jring
  | 0x114 => some c.jpos
  | _ => none

/-- A control register of the context that issues; none for a number that no table assigns (R166). -/
def readCreg (s : State) (n : Nat) : Option Word :=
  match s.crrUser n with
  | some v => some v
  | none => crrOwn s.me n

end State

/-! ## Writing (R270, R271, R284) -/

/-- The bits of a control register's RW fields (R115, R118, R122, R284, R294): none for a register whose every field is
RO, or that is not assigned. -/
def cregMask (n : Nat) : Option Word :=
  match n with
  | 0x040 => some 7
  | 0x041 => some 0xBF
  | 0x042 => some 0xFFFFFFFF
  | 0x100 => some 0xFFFFFFFFFFFFFFFC
  | 0x101 => some 4
  | 0x102 => some 0x1FF
  | 0x103 => some 0xFFFFFFFFFFFFFFFF
  | 0x104 => some 0x1FFFC
  | 0x105 => some 0x3F
  | 0x110 => some 0xFFF1FFC0
  | 0x111 => some 0x0FFF0FFF
  | 0x112 => some 0xFFFFFFFFFFFFFFFF
  | 0x113 => some 0xFFFF0001FFE0
  | 0x114 => some 0xFFFF0000FFFF
  | _ => none

/-- The limits of R294 on the value of a checkpoint or journal register, given CKRING. -/
def ringLimitOk (n : Nat) (v ckring : Word) : Bool :=
  match n with
  | 0x110 => v >>> 20 != 1
  | 0x111 => decide ((v >>> 16).toNat ≤ (ckring >>> 20).toNat)
  | 0x113 => v >>> 32 == 0 || decide (16 ≤ (v >>> 32).toNat)
  | _ => true

/-- The context with the RW fields of a register written, or none where the value is illegal: a reserved rounding mode
(R115) or a value that breaks a limit of R294. SRNG takes 1 for 0 (R118). -/
def putCreg (c : Ctx) (n : Nat) (v : Word) : Option Ctx :=
  match n with
  | 0x040 => if v.toNat ≤ 4 then some { c with rmode := v.setWidth 3 } else none
  | 0x041 => some { c with fflags := v.setWidth 8 }
  | 0x042 => some { c with srng := if v.setWidth 32 = (0 : BitVec 32) then 1 else v.setWidth 32 }
  | 0x100 => some { c with xpc := v }
  | 0x101 => some { c with xstat := (c.xstat &&& ~~~(4 : Word)) ||| (v &&& 4) }
  | 0x102 => some { c with xcause := v }
  | 0x103 => some { c with xaddr := v }
  | 0x104 => some { c with xvec := v }
  | 0x105 => some { c with xring := v }
  | 0x110 => if ringLimitOk 0x110 v c.ckring then some { c with ckring := v } else none
  | 0x111 => if ringLimitOk 0x111 v c.ckring then some { c with ckpos := v } else none
  | 0x112 => some { c with ckseq := v }
  | 0x113 => if ringLimitOk 0x113 v c.ckring then some { c with jring := v } else none
  | 0x114 => some { c with jpos := v }
  | _ => none

/-- `crw` of a register (R270): RMODE takes no bits above 2:0 (R115); XSTAT takes the reserved bits 63:4 with plvl
(R284). -/
def writeCreg (c : Ctx) (n : Nat) (v : Word) : Option Ctx :=
  match n, cregMask n with
  | 0x040, _ => if v >>> 3 = 0 then putCreg c n v else none
  | 0x101, _ => some { c with xstat := (c.xstat &&& 0xB) ||| (v &&& ~~~(0xB : Word)) }
  | _, some mask => putCreg c n (v &&& mask)
  | _, none => none

/-- The registers from 0x100 up that user level may write (R283). -/
def userWritable (n : Nat) : Bool := decide (n < 0x100) || n == 0x100 || n == 0x104

/-- The registers from 0x100 up that user level may read (R283). -/
def userReadable (n : Nat) : Bool := decide (n ≤ 0x105)

/-! ## Ring registers (R294) -/

/-- Two contexts agree in the five ring registers. -/
def sameRings (c d : Ctx) : Bool :=
  d.ckring == c.ckring && d.ckpos == c.ckpos && d.ckseq == c.ckseq && d.jring == c.jring && d.jpos == c.jpos

/-- No checkpoint is live and the journal is empty. -/
def ringsEmpty (c : Ctx) : Bool := ckLive c == 0 && jHead c == jTail c

/-- Ring and journal lie within the areas that the launch gave the process (R305), so that they overlap nothing else. -/
def ringsInside (l : LaunchRec) (c : Ctx) : Bool :=
  decide (ringOffset l 1 0 ≤ ckBase c) && decide (ckBase c + 832 * ckLen c ≤ ringOffset l 1 0 + ringBytes l) &&
    decide (journalOffset l 1 0 ≤ jBase c) && decide (jBase c + 32 * jLen c ≤ journalOffset l 1 0 + journalBytes l)

/-- A context whose ring registers system level has written. DEDUCED: the values overlap nothing and agree with the ring's contents
when they are those that stood there, or when the rings are empty before and after and lie in the process's own areas; any others
leave the results of a rollback and of wrap-up free (notes/assumptions/31.md). -/
def State.markRings (s : State) (tid : Nat) (d : Ctx) : Ctx :=
  let c := s.ctx tid
  let agree := sameRings c d || match s.launchRec? tid with
    | some l => !l.spec.timed || (ringsEmpty c && ringsEmpty d && d.ckseq == c.ckseq && ringsInside l.spec d)
    | none => true
  if agree then d else { d with ringsWritten := true }

/-! ## Instructions -/

/-- `crr` (R270). -/
def execCrr (d : GReg) (c : BitVec 10) (s : State) : Res :=
  match (if s.isPrivileged s.cur || userReadable c.toNat then s.readCreg c.toNat else none) with
  | some v => s.writeG d v
  | none => s.illegal

/-- `crw` (R270). -/
def execCrw (a : GReg) (c : BitVec 10) (s : State) : Res :=
  match (if s.isPrivileged s.cur || userWritable c.toNat then writeCreg s.me c.toNat (s.g a) else none) with
  | some x => .next (s.setMe (s.markRings s.cur x).advance)
  | none => s.illegal

namespace State

/-- `crset` and `crclr` (R271): system level only, on RW fields only; a register of RO fields keeps its value. -/
def changeCreg (s : State) (n : Nat) (f : Word → Word) : Res :=
  if !s.isPrivileged s.cur then s.illegal
  else
    match s.readCreg n, cregMask n with
    | some v, some mask =>
      match putCreg s.me n (f v &&& mask) with
      | some x => .next (s.setMe (s.markRings s.cur x).advance)
      | none => s.illegal
    | some _, none => .next s.finish
    | none, _ => s.illegal

end State

/-- `crset` (R271). -/
def execCrset (a : GReg) (c : BitVec 10) (s : State) : Res := s.changeCreg c.toNat (· ||| s.g a)

/-- `crclr` (R271). -/
def execCrclr (a : GReg) (c : BitVec 10) (s : State) : Res := s.changeCreg c.toNat (· &&& ~~~ (s.g a))

/-- `rett` (R273). -/
def execRett (s : State) : Res := s.returnFromTrap

end Sys2Proof.Machine
end

