-- ==== Sys2Proof/Machine/Fetch.lean ====
section
/-!
DEFINITION. Fetching, the issue rotation, and what a context issues next (09_encoding R147, R148, R167, R168; 03_processes
R35; 04_memory_order R59; 18_privileged R287), with the traps of a word that is no instruction and of a fetch past the
self window.
-/

namespace Sys2Proof.Machine

/-! ## Prefixes (R147) -/

/-- The forms that `rlx` may govern. -/
def rlxGoverns : Instr → Bool
  | .ldB _ _ _ | .ldBu _ _ _ | .ldH _ _ _ | .ldHu _ _ _ | .ldW _ _ _ | .ldWu _ _ _ | .ldD _ _ _ | .ldQ _ _ _
  | .stB _ _ _ | .stH _ _ _ | .stW _ _ _ | .stD _ _ _ | .stQ _ _ _ | .stX4 _ _ _ | .stX6 _ _ _
  | .aadd _ _ _ | .amin _ _ _ | .amax _ _ _ | .aminu _ _ _ | .amaxu _ _ _ | .aand _ _ _ | .aor _ _ _ | .axor _ _ _
  | .vld _ _ _ | .vst _ _ _ | .vldM _ _ _ _ | .vstM _ _ _ _ | .vlds _ _ _ _ _ | .vsts _ _ _ _ _ | .msg _ _ _ => true
  | _ => false

/-- The forms that `ext` may govern. -/
def extGoverns : Instr → Bool
  | .addi _ _ _ | .andi _ _ _ | .ori _ _ _ | .xori _ _ _ | .muli _ _ _ | .cmpiEq _ _ _ | .cmpiLt _ _ _
  | .cmpiLtu _ _ _ | .ldB _ _ _ | .ldBu _ _ _ | .ldH _ _ _ | .ldHu _ _ _ | .ldW _ _ _ | .ldWu _ _ _ | .ldD _ _ _
  | .ldQ _ _ _ | .stB _ _ _ | .stH _ _ _ | .stW _ _ _ | .stD _ _ _ | .stQ _ _ _ | .vld _ _ _ | .vst _ _ _ => true
  | _ => false

/-- The words before an instruction take a shape of R147; a prefix word itself checks its place. -/
def prefixOk (p : Pfx) (i : Instr) : Bool :=
  match i with
  | .rlx => p.first.isNone
  | .ext _ => p.ext.isNone
  | _ => (!p.rlx || rlxGoverns i) && (p.ext.isNone || extGoverns i)

/-! ## Fetching (R168) -/

/-- What a fetch at a context's PC gives. -/
inductive Fetched where
  /-- PC is 0x2_0000 or above. -/
  | unmapped
  /-- The word, with its prefixes, is not an instruction (R167). -/
  | illegal
  | word (i : Instr)
deriving DecidableEq, Repr

/-- The word at a context's PC, in the local store of the core where it runs. -/
def fetchBytes (s : State) (tid : Nat) : List Byte := memBytes s.mem (localKey (coreOfTid tid) (s.ctx tid).pc.toNat) 4

/-- A fetch (R167, R168). -/
def fetchAt (s : State) (tid : Nat) : Fetched :=
  if 0x20000 ≤ (s.ctx tid).pc.toNat then .unmapped
  else
    match decodeBytes (fetchBytes s tid) with
    | .ok (i, _) => if prefixOk (s.ctx tid).pfx i then .word i else .illegal
    | .error _ => .illegal

/-- ILLEGAL_INSTRUCTION (R167): XPC is the first prefix word, or the word. -/
def execIllegalInstruction (tid : Nat) (s : State) : Res :=
  let c := s.ctx tid
  if State.alive c && c.held.isNone && fetchAt s tid = .illegal then
    .next (s.takeTrapAt tid ⟨causeIllegal, false, c.start, 0, 0⟩)
  else .next s

/-- UNMAPPED_FETCH (R168): XPC is the fetched address, or the first word of an unfinished prefix sequence. -/
def execUnmappedFetch (tid : Nat) (s : State) : Res :=
  let c := s.ctx tid
  if State.alive c && c.held.isNone && fetchAt s tid = .unmapped then
    .next (s.takeTrapAt tid ⟨causeUnmapped, false, c.start, c.pc, 0⟩)
  else .next s

/-! ## What a context issues -/

namespace State

/-- The engine queue that a held submission waits for has room (R227 order 7). -/
def queueHasRoom (s : State) (pcn : Nat) (held : Option Instr) : Bool :=
  let room (e : Engine) : Bool := decide ((queueOf (s.core pcn) e).length < queueCap e)
  match held with
  | some (.cpCopy _ _ _ _) | some (.cpStream _ _ _ _) => room .copy
  | _ => room .mxe

/-- The wait of a context is over, so that it may issue the instruction it holds. -/
def waitOver (s : State) (tid : Nat) : Bool :=
  let c := s.ctx tid
  match c.wait with
  | .none => c.status == .ready
  | .drain => bufferEmpty c
  | .room => decide (c.relaxed.length + c.relaxedMsgs.length < 8)
  | .register => !(c.held.any fun i => waitsForRegister c i)
  | .settle => !s.unsettled tid
  | .journal => !journalFull c
  | .queue => s.queueHasRoom (coreOfTid tid) c.held
  | .yield => decide (c.notBefore ≤ (s.core (coreOfTid tid)).cyc)
  | .access | .offer | .mig | .msg | .home | .timer => false

/-- Something is to be taken at the context's instruction boundary, and it stands at one, or an offer of its slot is
locked and has to learn of it (R87, R287). -/
def boundaryDue (s : State) (tid : Nat) : Bool :=
  let c := s.ctx tid
  (c.divert || lateDue c) && ((s.boundary? tid).isSome || match c.offer.state with
    | .locked _ _ _ => !c.offer.timedOut
    | _ => false)

end State

/-- What a context does with an issue opportunity. -/
inductive Issue where
  /-- A trap that waited for the relaxed buffer is entered (R288). -/
  | trap (t : TrapRec)
  /-- LATE_TRAP (R287). -/
  | late
  /-- ILLEGAL_INSTRUCTION (R167). -/
  | illegal
  /-- UNMAPPED_FETCH (R168). -/
  | unmapped
  /-- The instruction waits for a register (R59). -/
  | wait (i : Instr)
  /-- It takes effect. -/
  | run (i : Instr)
deriving DecidableEq, Repr

/-- An instruction waits for its registers or takes effect (R59). -/
def issueOf (c : Ctx) (i : Instr) : Issue := if waitsForRegister c i then .wait i else .run i

/-- What a context issues next: a trap that waited, a diversion or late trap (R287), the instruction it holds, or the
word at its PC. -/
def nextIssue (s : State) (tid : Nat) : Issue :=
  let c := s.ctx tid
  match c.trapping with
  | some t => .trap t
  | none =>
    if s.boundaryDue tid then .late
    else
      match c.held with
      | some i => issueOf c i
      | none =>
        match fetchAt s tid with
        | .unmapped => .unmapped
        | .illegal => .illegal
        | .word i => issueOf c i

/-! ## The issue rotation (R35) -/

namespace State

/-- A context issued within the three cycles before. -/
def recent (s : State) (tid : Nat) : Bool :=
  match (s.ctx tid).lastIssue with
  | some t => decide ((s.core (coreOfTid tid)).cyc < t + 4)
  | none => false

/-- A slot is ready in its core's cycle (R35): it runs, and does not stand still for its colour group (R319). -/
def slotReady (s : State) (pcn slot : Nat) : Bool :=
  let tid := 16 * pcn + slot
  let c := s.ctx tid
  if slot = 0 then s.handlerReady pcn && !s.recent tid
  else alive c && !c.wrapStop && !s.groupStopped tid && (s.waitOver tid || s.boundaryDue tid) && !s.recent tid

/-- The slot that issues in a core's cycle, and whether the cycle is lent: the owner, or the first ready slot after the
lending pointer (R35). -/
def issuer (s : State) (pcn : Nat) : Option (Nat × Bool) :=
  let k := s.core pcn
  let owner := k.cyc % 16
  if s.slotReady pcn owner then some (owner, false)
  else (((List.range 16).map fun n => (k.lend + 1 + n) % 16).find? fun slot => s.slotReady pcn slot).map fun x => (x, true)

/-- A core's cycle begins: the lending pointer moves to a slot that is lent the cycle, the slot's issue is recorded, and
CYC advances once the cycle has ended. -/
def beginIssue (s : State) (pcn slot : Nat) (lent : Bool) : State :=
  let cyc := (s.core pcn).cyc
  ({ s with cur := 16 * pcn + slot }.modCtx (16 * pcn + slot) fun c => { c with lastIssue := some cyc }).modCore pcn
    fun k => if lent then { k with lend := slot } else k

/-- CYC counts the core's cycle (R269). -/
def endCycle (s : State) (pcn : Nat) : State := s.modCore pcn fun k => { k with cyc := k.cyc + 1 }

end State

end Sys2Proof.Machine
end

