-- ==== Sys2Proof/Machine/Signature.lean ====
section
/-!
DEFINITION. The signature schemes that the manual names (22_host_security R361, R12): SHA-256 and SHA-384, ECDSA on the curve
P-384, and HSS over LMS_SHA256_M32_H10 with LMOTS_SHA256_N32_W4. PRESUMED: taken from the standards that R12 lets govern (FIPS 180-4,
FIPS 186-5, RFC 8554); notes/assumptions/62.md.
-/

namespace Sys2Proof.Machine

/-! ## SHA-2 -/

/-- The round constants of SHA-256 (FIPS 180-4). -/
def sha256K : List Nat :=
  [0x428A2F98, 0x71374491, 0xB5C0FBCF, 0xE9B5DBA5, 0x3956C25B, 0x59F111F1, 0x923F82A4, 0xAB1C5ED5,
    0xD807AA98, 0x12835B01, 0x243185BE, 0x550C7DC3, 0x72BE5D74, 0x80DEB1FE, 0x9BDC06A7, 0xC19BF174,
    0xE49B69C1, 0xEFBE4786, 0x0FC19DC6, 0x240CA1CC, 0x2DE92C6F, 0x4A7484AA, 0x5CB0A9DC, 0x76F988DA,
    0x983E5152, 0xA831C66D, 0xB00327C8, 0xBF597FC7, 0xC6E00BF3, 0xD5A79147, 0x06CA6351, 0x14292967] ++
  [0x27B70A85, 0x2E1B2138, 0x4D2C6DFC, 0x53380D13, 0x650A7354, 0x766A0ABB, 0x81C2C92E, 0x92722C85,
    0xA2BFE8A1, 0xA81A664B, 0xC24B8B70, 0xC76C51A3, 0xD192E819, 0xD6990624, 0xF40E3585, 0x106AA070,
    0x19A4C116, 0x1E376C08, 0x2748774C, 0x34B0BCB5, 0x391C0CB3, 0x4ED8AA4A, 0x5B9CCA4F, 0x682E6FF3,
    0x748F82EE, 0x78A5636F, 0x84C87814, 0x8CC70208, 0x90BEFFFA, 0xA4506CEB, 0xBEF9A3F7, 0xC67178F2]

/-- The round constants of SHA-384 (FIPS 180-4). -/
def sha384K : List Nat :=
  [0x428A2F98D728AE22, 0x7137449123EF65CD, 0xB5C0FBCFEC4D3B2F, 0xE9B5DBA58189DBBC,
    0x3956C25BF348B538, 0x59F111F1B605D019, 0x923F82A4AF194F9B, 0xAB1C5ED5DA6D8118,
    0xD807AA98A3030242, 0x12835B0145706FBE, 0x243185BE4EE4B28C, 0x550C7DC3D5FFB4E2,
    0x72BE5D74F27B896F, 0x80DEB1FE3B1696B1, 0x9BDC06A725C71235, 0xC19BF174CF692694,
    0xE49B69C19EF14AD2, 0xEFBE4786384F25E3, 0x0FC19DC68B8CD5B5, 0x240CA1CC77AC9C65] ++
  [0x2DE92C6F592B0275, 0x4A7484AA6EA6E483, 0x5CB0A9DCBD41FBD4, 0x76F988DA831153B5,
    0x983E5152EE66DFAB, 0xA831C66D2DB43210, 0xB00327C898FB213F, 0xBF597FC7BEEF0EE4,
    0xC6E00BF33DA88FC2, 0xD5A79147930AA725, 0x06CA6351E003826F, 0x142929670A0E6E70,
    0x27B70A8546D22FFC, 0x2E1B21385C26C926, 0x4D2C6DFC5AC42AED, 0x53380D139D95B3DF,
    0x650A73548BAF63DE, 0x766A0ABB3C77B2A8, 0x81C2C92E47EDAEE6, 0x92722C851482353B] ++
  [0xA2BFE8A14CF10364, 0xA81A664BBC423001, 0xC24B8B70D0F89791, 0xC76C51A30654BE30,
    0xD192E819D6EF5218, 0xD69906245565A910, 0xF40E35855771202A, 0x106AA07032BBD1B8,
    0x19A4C116B8D2D0C8, 0x1E376C085141AB53, 0x2748774CDF8EEB99, 0x34B0BCB5E19B48A8,
    0x391C0CB3C5C95A63, 0x4ED8AA4AE3418ACB, 0x5B9CCA4F7763E373, 0x682E6FF3D6B2B8A3,
    0x748F82EE5DEFB2FC, 0x78A5636F43172F60, 0x84C87814A1F0AB72, 0x8CC702081A6439EC] ++
  [0x90BEFFFA23631E28, 0xA4506CEBDE82BDE9, 0xBEF9A3F7B2C67915, 0xC67178F2E372532B,
    0xCA273ECEEA26619C, 0xD186B8C721C0C207, 0xEADA7DD6CDE0EB1E, 0xF57D4F7FEE6ED178,
    0x06F067AA72176FBA, 0x0A637DC5A2C898A6, 0x113F9804BEF90DAE, 0x1B710B35131C471B,
    0x28DB77F523047D84, 0x32CAAB7B40C72493, 0x3C9EBE0A15C9BEBC, 0x431D67C49C100D4C,
    0x4CC5D4BECB3E42B6, 0x597F299CFC657E2A, 0x5FCB6FAB3AD6FAEC, 0x6C44198C4A475817]

/-- The first hash value of SHA-256. -/
def sha256Start : List Nat :=
  [0x6A09E667, 0xBB67AE85, 0x3C6EF372, 0xA54FF53A, 0x510E527F, 0x9B05688C, 0x1F83D9AB, 0x5BE0CD19]

/-- The first hash value of SHA-384. -/
def sha384Start : List Nat :=
  [0xCBBB9D5DC1059ED8, 0x629A292A367CD507, 0x9159015A3070DD17, 0x152FECD8F70E5939,
    0x67332667FFC00B31, 0x8EB44A8768581511, 0xDB0C2E0D64F98FA7, 0x47B5481DBEFA4FA4]

/-- What tells one hash of the SHA-2 family from another: the bits of its words, the rotations of its four mixing functions (the
last of a small one is a shift), its round constants and its first hash value. -/
structure Sha2 where
  bits : Nat
  big0 : Nat × Nat × Nat
  big1 : Nat × Nat × Nat
  small0 : Nat × Nat × Nat
  small1 : Nat × Nat × Nat
  k : List Nat
  start : List Nat

/-- SHA-256. -/
def sha256Spec : Sha2 := ⟨32, (2, 13, 22), (6, 11, 25), (7, 18, 3), (17, 19, 10), sha256K, sha256Start⟩

/-- SHA-384. -/
def sha384Spec : Sha2 := ⟨64, (28, 34, 39), (14, 18, 41), (1, 8, 7), (19, 61, 6), sha384K, sha384Start⟩

/-- A word rotated right. -/
def rotateWord (w n x : Nat) : Nat := x / 2 ^ n + x % 2 ^ n * 2 ^ (w - n)

/-- Three rotations combined. -/
def mixBig (w : Nat) (r : Nat × Nat × Nat) (x : Nat) : Nat :=
  rotateWord w r.1 x ^^^ rotateWord w r.2.1 x ^^^ rotateWord w r.2.2 x

/-- Two rotations and a shift combined. -/
def mixSmall (w : Nat) (r : Nat × Nat × Nat) (x : Nat) : Nat :=
  rotateWord w r.1 x ^^^ rotateWord w r.2.1 x ^^^ x / 2 ^ r.2.2

/-- The eight working words of a hash. -/
structure ShaWords where
  a : Nat
  b : Nat
  c : Nat
  d : Nat
  e : Nat
  f : Nat
  g : Nat
  h : Nat

/-- One round, with the sum of its constant and its schedule word. -/
def sha2Round (p : Sha2) (s : ShaWords) (kx : Nat) : ShaWords :=
  let m := 2 ^ p.bits
  let t := s.h + mixBig p.bits p.big1 s.e + ((s.e &&& s.f) ^^^ ((m - 1 - s.e) &&& s.g)) + kx
  let u := mixBig p.bits p.big0 s.a + ((s.a &&& s.b) ^^^ (s.a &&& s.c) ^^^ (s.b &&& s.c))
  ⟨(t + u) % m, s.a, s.b, s.c, (s.d + t) % m, s.e, s.f, s.g⟩

/-- The rounds over one block: `win` holds the next 16 words of its schedule. -/
def sha2Rounds (p : Sha2) : List Nat → List Nat → ShaWords → ShaWords
  | k :: ks, win, s =>
    let x := win.headD 0
    let y := (mixSmall p.bits p.small1 (win.getD 14 0) + win.getD 9 0 + mixSmall p.bits p.small0 (win.getD 1 0) + x) % 2 ^ p.bits
    sha2Rounds p ks (win.tail ++ [y]) (sha2Round p s (k + x))
  | [], _, s => s

/-- The eight words of a list. -/
def ShaWords.ofList (l : List Nat) : ShaWords :=
  ⟨l.getD 0 0, l.getD 1 0, l.getD 2 0, l.getD 3 0, l.getD 4 0, l.getD 5 0, l.getD 6 0, l.getD 7 0⟩

/-- The words as a list. -/
def ShaWords.list (s : ShaWords) : List Nat := [s.a, s.b, s.c, s.d, s.e, s.f, s.g, s.h]

/-- The number that some bytes hold, the first most significant. -/
def natOfBig (bs : List Byte) : Nat := natOfBytes bs.reverse

/-- The n bytes of a number, the first most significant. -/
def bigOfNat (n v : Nat) : List Byte := (bytesOfNat n v).reverse

/-- The first n pieces of m bytes each. -/
def pieces (m : Nat) : Nat → List Byte → List (List Byte)
  | 0, _ => []
  | n + 1, bs => bs.take m :: pieces m n (bs.drop m)

/-- A message with its padding: a one bit, zeros, and its length in bits, to whole blocks of 2w bytes. -/
def sha2Pad (w : Nat) (bs : List Byte) : List Byte :=
  let block := 2 * w
  let used := bs.length + 1 + w / 4
  bs ++ 0x80 :: List.replicate ((block - used % block) % block) 0 ++ bigOfNat (w / 4) (8 * bs.length)

/-- A hash with one block more. -/
def sha2Block (p : Sha2) (st : List Nat) (block : List Byte) : List Nat :=
  let words := (pieces (p.bits / 8) 16 block).map natOfBig
  (st.zip (sha2Rounds p p.k words (.ofList st)).list).map fun x => (x.1 + x.2) % 2 ^ p.bits

/-- A hash of the SHA-2 family, as its words. -/
def sha2 (p : Sha2) (bs : List Byte) : List Nat :=
  let padded := sha2Pad p.bits bs
  (pieces (2 * p.bits) (padded.length / (2 * p.bits)) padded).foldl (sha2Block p) p.start

/-- SHA-256 of a message. -/
def sha256 (bs : List Byte) : List Byte := (sha2 sha256Spec bs).flatMap (bigOfNat 4)

/-- SHA-384 of a message: the first six words. -/
def sha384 (bs : List Byte) : List Byte := ((sha2 sha384Spec bs).take 6).flatMap (bigOfNat 8)

/-! ## ECDSA on P-384 -/

/-- The prime of the field of P-384. -/
def p384 : Nat := 2 ^ 384 - 2 ^ 128 - 2 ^ 96 + 2 ^ 32 - 1

/-- The order of the group. -/
def p384Order : Nat := 0xFFFFFFFFFFFFFFFFFFFFFFFFFFFFFFFFFFFFFFFFFFFFFFFFC7634D81F4372DDF581A0DB248B0A77AECEC196ACCC52973

/-- The coefficient b of the curve y² = x³ − 3x + b. -/
def p384B : Nat := 0xB3312FA7E23EE7E4988E056BE3F82D19181D9C6EFE8141120314088F5013875AC656398D8A2ED19D2A85C8EDD3EC2AEF

/-- A point of the curve in projective coordinates: (x : y : z) stands for (x / z, y / z), and z = 0 for the point at infinity. -/
structure CurvePoint where
  x : Nat
  y : Nat
  z : Nat
deriving DecidableEq, Repr

/-- The base point. -/
def p384Base : CurvePoint :=
  ⟨0xAA87CA22BE8B05378EB1C71EF320AD746E1D3B628BA79B9859F741E082542A385502F25DBF55296C3A545E3872760AB7,
    0x3617DE4A96262C6F5D9E98BF9292DC29F8F41DBD289A147CE9DA3113B5F0B8C00A60B1CE1D7E819D7A431D7C90EA0E5F, 1⟩

/-- The power b^e modulo m, for an exponent of at most n bits. -/
def powMod (m : Nat) : Nat → Nat → Nat → Nat
  | 0, _, _ => 1
  | n + 1, b, e => powMod m n (b * b % m) (e / 2) * (if e % 2 = 1 then b else 1) % m

/-- The inverse modulo a prime of at most 384 bits. -/
def invMod (m a : Nat) : Nat := powMod m 384 (a % m) (m - 2)

/-- Twice a point. -/
def curveDouble (q : CurvePoint) : CurvePoint :=
  let m := p384
  let w := 3 * (q.x * q.x + (m - q.z) * q.z) % m
  let s := q.y * q.z % m
  let b := q.x * q.y % m * s % m
  let h := (w * w + 8 * (m - b)) % m
  let ss := q.y * s % m
  ⟨2 * h * s % m, (w * (4 * b + m - h) + 8 * (m - ss * ss % m)) % m, 8 * (s * s % m * s) % m⟩

/-- The sum of two points. -/
def curveAdd (a b : CurvePoint) : CurvePoint :=
  let m := p384
  if a.z = 0 then b
  else if b.z = 0 then a
  else
    let u := (b.y * a.z + (m - a.y * b.z % m)) % m
    let v := (b.x * a.z + (m - a.x * b.z % m)) % m
    if v = 0 then (if u = 0 then curveDouble a else ⟨0, 1, 0⟩)
    else
      let vv := v * v % m
      let vvv := v * vv % m
      let r := vv * (a.x * b.z % m) % m
      let z := a.z * b.z % m
      let k := (u * u % m * z + (m - vvv) + 2 * (m - r)) % m
      ⟨v * k % m, (u * (r + m - k) + (m - vvv) * (a.y * b.z % m)) % m, vvv * z % m⟩

/-- The multiple of a point by a number of at most n bits. -/
def curveMul : Nat → Nat → CurvePoint → CurvePoint
  | 0, _, _ => ⟨0, 1, 0⟩
  | n + 1, k, q => curveAdd (curveMul n (k / 2) (curveDouble q)) (if k % 2 = 1 then q else ⟨0, 1, 0⟩)

/-- The public key of 96 bytes as a point, if it is one of the curve. -/
def curvePoint? (key : List Byte) : Option CurvePoint :=
  let x := natOfBig (key.take 48)
  let y := natOfBig (key.drop 48)
  if key.length = 96 && decide (x < p384) && decide (y < p384) && y * y % p384 == (x * x * x + (p384 - 3) * x + p384B) % p384 then
    some ⟨x, y, 1⟩
  else none

/-- ECDSA on P-384 with SHA-384: the signature is r and s, 48 bytes each. -/
def ecdsaVerify (key msg sig : List Byte) : Bool :=
  let r := natOfBig (sig.take 48)
  let s := natOfBig (sig.drop 48)
  match curvePoint? key with
  | none => false
  | some q =>
    let w := invMod p384Order s
    let e := natOfBig (sha384 msg)
    let sum := curveAdd (curveMul 384 (e * w % p384Order) p384Base) (curveMul 384 (r * w % p384Order) q)
    sig.length == 96 && decide (0 < r) && decide (r < p384Order) && decide (0 < s) && decide (s < p384Order) &&
      sum.z != 0 && sum.x * invMod p384 sum.z % p384 % p384Order == r

/-! ## HSS over two levels of LMS -/

/-- Bytes of a chain's end of LMOTS_SHA256_N32_W4: the hash is applied from step j on, up to the last. -/
def otsChain (i : List Byte) (q c : Nat) : Nat → Nat → List Byte → List Byte
  | 0, _, x => x
  | n + 1, j, x => otsChain i q c n (j + 1) (sha256 (i ++ bigOfNat 4 q ++ bigOfNat 2 c ++ bigOfNat 1 j ++ x))

/-- The 67 digits that a one-time signature signs: those of the hash, and those of its checksum. -/
def otsDigits (hash : List Byte) : List Nat :=
  let digits (bs : List Byte) : List Nat := bs.flatMap fun b => [b.toNat / 16, b.toNat % 16]
  let ds := digits hash
  ds ++ (digits (bigOfNat 2 ((ds.map fun d => 15 - d).foldl (· + ·) 0 * 16))).take 3

/-- The candidate public key of a one-time signature of 2,180 bytes: type, C and 67 strings. -/
def otsCandidate (i : List Byte) (q : Nat) (msg sig : List Byte) : List Byte :=
  let c := (sig.drop 4).take 32
  let hash := sha256 (i ++ bigOfNat 4 q ++ bigOfNat 2 0x8181 ++ c ++ msg)
  let ends := ((otsDigits hash).zip (pieces 32 67 (sig.drop 36))).zipIdx.flatMap fun x =>
    otsChain i q x.2 (15 - x.1.1) x.1.1 x.1.2
  sha256 (i ++ bigOfNat 4 q ++ bigOfNat 2 0x8080 ++ ends)

/-- The root of a tree of height 10 that a leaf's path leads to. -/
def lmsRoot (i : List Byte) : Nat → List (List Byte) → List Byte → List Byte
  | _, [], x => x
  | node, y :: path, x =>
    let up := i ++ bigOfNat 4 (node / 2) ++ bigOfNat 2 0x8383 ++ (if node % 2 = 1 then y ++ x else x ++ y)
    lmsRoot i (node / 2) path (sha256 up)

/-- LMS_SHA256_M32_H10: a public key of 56 bytes, and a signature of 2,508 bytes. -/
def lmsVerify (key msg sig : List Byte) : Bool :=
  let i := (key.drop 8).take 16
  let q := natOfBig (sig.take 4)
  let ots := (sig.drop 4).take 2180
  let path := pieces 32 10 (sig.drop 2188)
  let leaf := sha256 (i ++ bigOfNat 4 (2 ^ 10 + q) ++ bigOfNat 2 0x8282 ++ otsCandidate i q msg ots)
  key.length == 56 && sig.length == 2508 && natOfBig (key.take 4) == 6 && natOfBig ((key.drop 4).take 4) == 3 &&
    decide (q < 2 ^ 10) && natOfBig (ots.take 4) == 3 && natOfBig ((sig.drop 2184).take 4) == 6 &&
    lmsRoot i (2 ^ 10 + q) path leaf == key.drop 24

/-- HSS with two levels: a public key of 60 bytes, and a signature of 5,076 bytes. -/
def hssVerify (key msg sig : List Byte) : Bool :=
  let first := (sig.drop 4).take 2508
  let lower := (sig.drop 2512).take 56
  key.length == 60 && sig.length == 5076 && natOfBig (key.take 4) == 2 && natOfBig (sig.take 4) == 1 &&
    lmsVerify (key.drop 4) lower first && lmsVerify lower msg (sig.drop 2568)

/-! ## Signed items (R361) -/

/-- The key hashes of an item's two public keys. DESIGN CHOICE: R361 does not name the hash; it is SHA-384. -/
def signedKeys (x : Signed) : KeyHashes := ⟨sha384 x.ecdsaKey, sha384 x.hssKey⟩

/-- Both signatures verify over the item's bytes, and both public keys are those in force (R361): if one fails, the item is
rejected exactly as if both had. -/
def signedOk (keys : KeyHashes) (x : Signed) : Bool :=
  signedKeys x == keys && ecdsaVerify x.ecdsaKey x.bytes x.ecdsaSig && hssVerify x.hssKey x.bytes x.hssSig

end Sys2Proof.Machine
end

