-- ==== Sys2Proof/Machine/Boot.lean ====
section
/-!
DEFINITION. Bring-up (23_bringup R369 to R378): the reset sequence, the verification of firmware, the tinder flood,
SLOTGO, and the end of boot mode; with retirement and the lifecycle (22_host_security R360 to R367; 01_machine R14, R15).
-/

namespace Sys2Proof.Machine

namespace State

/-! ## Retirement and the logical map (R15, R365 to R367) -/

/-- A position that the logical map leaves out: fused, or retired since the reset (R15, R365). -/
def countsFused (s : State) (pcn : Nat) : Bool := s.isFused pcn || s.fuses.newRetired.contains pcn

/-- A replacement request is made (R367, R378). -/
def requestReplacement (s : State) : State := { s with rrq := true, uetOut := s.uetOut ++ [.replacement] }

/-- U, the number of user cores: the cores of the logical map that have not been retired since it was made (R15, R365). -/
def userCount (s : State) : Nat := (s.lmap.filter fun p => !s.countsFused p).length

/-- Cores are retired (R365): recorded in the retirement fuses, and each is reported (R366). A replacement is requested when U falls
below the table's minimum (R367). -/
def retireCores (s : State) (pcns : List Nat) : State :=
  let fresh := pcns.filter fun p => !s.countsFused p
  let s1 := { s with
    fuses := { s.fuses with newRetired := s.fuses.newRetired ++ fresh }
    uetOut := s.uetOut ++ fresh.map UetOut.retirement }
  if s1.userCount < s.userCount && s1.userCount < s.config.minU then s1.requestReplacement else s1

/-- A frame is retired and reported (R366). -/
def retireFrame (s : State) (frame : Nat) : State :=
  if s.fuses.retiredFrames.contains frame then s
  else
    { s with
      fuses := { s.fuses with retiredFrames := s.fuses.retiredFrames ++ [frame] }
      uetOut := s.uetOut ++ [.frameRetired frame] }

/-- The first logical map takes effect (R377); one that is shorter than the table's minimum raises the replacement request
(R367). -/
def installMap (s : State) (map : List Nat) : State :=
  let s1 := { s with lmap := map }
  if map.length < s.config.minU then s1.requestReplacement else s1

/-- The map without the cores retired since it was made: the next placement takes it (R15). -/
def refreshMap (s : State) : State := { s with lmap := s.lmap.filter fun p => !s.countsFused p }

/-- Positions of a die. -/
def diePositions (die : Nat) : List Nat := (List.range 1024).map (die * 1024 + ·)

/-- User positions of a die that are not fused. -/
def userPositions (s : State) (die : Nat) : List Nat :=
  (diePositions die).filter fun p => !s.isSystem p && !s.isFused p

/-! ## Starting contexts (R372, R376) -/

/-- The context that a slot's image shows: a slot that has never been written holds its reset values, at the level of its core (R4,
R284). -/
def imageCtx (s : State) (tid : Nat) : Ctx :=
  (tableFind tid s.ctxs).getD { Ctx.empty with xstat := s.resetStat tid }

/-- A slot starts with a context at system level, every register as it stands: bad-status when its XSTAT does not pass the check of
a resume (R290, R293, R376). -/
def startBare (s : State) (tid : Nat) (c : Ctx) : State :=
  let c1 := { c with
    status := .ready, proc := bareKey tid, home := tid, spawned := false, away := false, xstat := c.xstat ||| 1 }
  let p := s.proc (bareKey tid)
  let s1 := (s.setCtx tid c1).setProc (bareKey tid) { p with launch := none, home := tid, ended := false }
  if badStatus c1 then s1.stopContext tid causeBadStatus none else s1

/-- The boot core of a die (R372). -/
def bootCore? (s : State) (die : Nat) : Option Nat := (s.userPositions die).head?

end State

/-! ## Verification (R360, R361, R370) -/

/-- Fused positions that a table lists (R360). -/
def tableFused (bs : List Byte) : List Nat :=
  (List.range 128).filterMap fun i =>
    let h := descNat bs (8 + 2 * i) 2
    if h / 2 ^ 15 = 1 then some (i / 32 * 1024 + h % 1024) else none

/-- The role map's entries (R360). -/
def tableRoles (bs : List Byte) : List (Nat × Nat) :=
  (List.range 512).filterMap fun i =>
    let h := descNat bs (272 + 2 * i) 2
    if h = 0 then none else some (h % 2 ^ 12, h / 2 ^ 12)

/-- The positions of the system column of width w. -/
def systemPositions (w : Nat) : List Nat := (List.range 4096).filter fun p => decide (32 - w ≤ xOf p)

/-- The configuration that a table describes: unlisted system positions that are not fused are spares (R360). -/
def parseTable (bs : List Byte) : ConfigTable :=
  let fused := tableFused bs
  let roles := tableRoles bs
  let w := descNat bs 264 1
  let spares := (systemPositions w).filter fun p => !fused.contains p && !(roles.any fun r => r.1 == p)
  { fused := fused, w := w, pagers := descNat bs 265 1, ptpDomain := descNat bs 266 1
    freeRun := descNat bs 267 1 % 2 == 1, minU := descNat bs 268 2, power := descNat bs 270 2
    roles := roles ++ spares.map fun p => (p, 5) }

/-- Two lists hold the same numbers. -/
def sameSet (a b : List Nat) : Bool := a.all b.contains && b.all a.contains

namespace State

/-- The table is accepted (R360, R370). -/
def tableOk (s : State) (bs : List Byte) : Bool :=
  let t := parseTable bs
  bs.length == 1296 && descNat bs 0 4 == 0x43564354 && decide (s.fuses.minVersion ≤ descNat bs 4 4) &&
    sameSet t.fused s.fuses.fused && (t.w == 1 || t.w == 2 || t.w == 4) &&
    !(t.roles.any fun r => t.fused.contains r.1)

/-- The key hashes in force: the owner's in the provisioned and deployed states, else the vendor's (R361, R363). -/
def keysInForce (s : State) : KeyHashes := if s.lifecycle = 1 ∨ s.lifecycle = 2 then s.fuses.owner else s.fuses.vendor

/-- Firmware image and table are signed under the keys in force, and the table is right (R361, R370). -/
def imageOk (s : State) (i : BootImage) : Bool :=
  signedOk s.keysInForce i.firmware && signedOk s.keysInForce i.table && s.tableOk i.table.bytes

/-- Phase 4: boot mode, with the boot core of each die and every firmware-role core started (R369, R372). Roles of positions that the
retirement fuses name pass to spares (R14). DESIGN CHOICE: a table's power limit becomes PWRLIM as it is, also outside 600 to
2,000 W, but for bits that PWRLIM does not have (R4, R360; notes/assumptions/77.md). -/
def startBoot (s : State) (i : BootImage) : State :=
  let c := parseTable i.table.bytes
  let s0 : State :=
    { s with
      config := c, pwrlim := c.power % 2 ^ 12, bootMode := true, phase := 5, phaseTime := s.now, supplied := none, running := none }
  let s1 := { (c.roles.filter fun r => s0.isFused r.1).foldl (fun t r => t.passRole r.1) s0 with running := some i }
  let s2 := (List.range 4).foldl (fun t d =>
    match t.bootCore? d with
    | some p => t.startImage p i.stage
    | none => t) s1
  (s2.roleCores 1).foldl (fun t p => t.startImage p i.firmware.bytes) s2

end State

/-- FIRMWARE_VERIFY (R369 phase 3, R370): the boot ROM verifies what the boot flash holds, or what the management interface
has supplied; a failure leaves the device in phase 3. -/
def execFirmwareVerify (stageAt stageLen : Nat) (firmware table : List Byte) (signatures : Signatures × Signatures) (s : State) : Res :=
  if s.phase ≠ 3 || s.bootFailed then .next s
  else
    let i := s.supplied.getD ⟨stageAt, stageLen, signatures.1.on firmware, signatures.2.on table⟩
    .next (if s.imageOk i then s.startBoot i else { s with bootFailed := true, supplied := none })

/-- OOB_IMAGE (R370): a new image and table over the management interface restart phase 3. -/
def execOobImage (stageAt stageLen : Nat) (firmware table : List Byte) (signatures : Signatures × Signatures) (s : State) : Res :=
  if s.phase = 3 && s.bootFailed then
    .next { s with
      bootFailed := false
      phaseTime := s.now
      supplied := some ⟨stageAt, stageLen, signatures.1.on firmware, signatures.2.on table⟩ }
  else .next s

/-! ## Reset, wipe and lifecycle (R363, R364, R369) -/

namespace State

/-- The device after a reset or a change of lifecycle state: it keeps its fuses and its lifecycle state, and a wipe runs
(R363, R364). -/
def restart (s : State) (lifecycle : Nat) : State :=
  { State.reset with
    lifecycle := lifecycle, fresh := s.fresh, agenda := s.agenda
    fuses := { s.fuses with retiredCores := s.fuses.retiredCores ++ s.fuses.newRetired, newRetired := [] } }

/-- A region has a command queue (R299). -/
def hasQueue (s : State) (r : Nat) : Bool := (s.region r).live && (s.region r).queueEntries != 0

/-- Some region holds a live launch or a command that has not been taken (R363). -/
def busy (s : State) : Bool :=
  (s.launches.any fun e => e.2.phase != .ended) ||
    s.regions.any fun r => s.hasQueue r.1 && (decide (s.taken r.1 < s.latched r.1) || !(tableGet Queue.none r.1 s.queues).held.isEmpty)

end State

/-- The transitions of the lifecycle: 0 manufacture, 1 provisioned, 2 deployed, 3 returned (R363). -/
def lifecycleAllows (a b : Nat) : Bool :=
  (a, b) == (0, 1) || (a, b) == (1, 2) || (a, b) == (2, 1) || (a, b) == (2, 3) || (a, b) == (1, 3) || (a, b) == (3, 0)

/-- The fuses after a lifecycle command: that which provisions a device made by its vendor fuses the owner's key hashes, and the
device's own key pairs are generated in the provisioned state (R362, R363). -/
def lifecycleFuses (f : Fuses) (a b : Nat) (keys : KeyHashes) : Fuses :=
  { f with owner := if a = 0 ∧ b = 1 then keys else f.owner, deviceKeys := f.deviceKeys || b == 1 }

/-- LIFECYCLE_COMMAND (R361, R363): signed under the keys in force. -/
def execLifecycleCommand (target : Nat) (command : Signed) (keys : KeyHashes) (s : State) : Res :=
  if signedOk s.keysInForce command && lifecycleAllows s.lifecycle target && !s.busy && !s.wiping then
    .next ({ s with fuses := lifecycleFuses s.fuses s.lifecycle target keys }.restart target)
  else .next s

/-- RESET (R369). -/
def execReset (s : State) : Res := .next (s.restart s.lifecycle)

/-- WIPE_DONE (R364): every memory is zero, and locations that fail the read-back are retired. -/
def execWipeDone (cores frames : List Nat) (s : State) : Res :=
  if !s.wiping then .next s
  else
    let s1 := { s with mem := [], wiping := false, phase := 3, phaseTime := s.now }
    .next (frames.foldl State.retireFrame (s1.retireCores cores))

/-! ## The self-check (R365) -/

/-- A core has nothing to do: a user core is free, and no slot of a system core holds a context (R365). -/
def State.coreIdle (s : State) (pcn : Nat) : Bool :=
  if s.isSystem pcn then !s.isFused pcn && (List.range 16).all fun k => (s.ctx (pcn * 16 + k)).status == .empty
  else s.isUser pcn && s.coreFree pcn

/-- SELF_CHECK (R365): of a user core that has become free, or of any core that has been idle for 10 s; one that fails is retired, and a
system core's role passes to a spare (R14). -/
def execSelfCheck (pcn ok : Nat) (s : State) : Res :=
  if !s.bootMode && decide (pcn < 4096) && s.coreIdle pcn &&
      (!(s.core pcn).checked || decide ((s.core pcn).idleSince + 10000000000 ≤ s.now)) then
    let s1 := s.modCore pcn fun k => { k with checked := true, idleSince := s.now, failed := k.failed || ok != 1 }
    let s2 := s1.retireCores [pcn]
    .next (if ok = 1 then s1 else if s.isSystem pcn then s2.passRole pcn else s2)
  else .next s

/-! ## The tinder flood (R374, R375) -/

/-- Mesh neighbours of a position on its die, with the port through which each is entered: 1 north, 2 east, 3 south,
4 west (R375). -/
def neighbours (pcn : Nat) : List (Nat × Nat) :=
  (if yOf pcn < 31 then [(pcn + 32, 3)] else []) ++ (if xOf pcn < 31 then [(pcn + 1, 4)] else []) ++
    (if 0 < yOf pcn then [(pcn - 32, 1)] else []) ++ (if 0 < xOf pcn then [(pcn - 1, 2)] else [])

/-- The neighbour behind a port. -/
def behindPort (pcn port : Nat) : Nat :=
  match port with
  | 1 => pcn + 32
  | 2 => pcn + 1
  | 3 => pcn - 32
  | _ => pcn - 1

namespace State

/-- A core's boot registers changed. -/
def modBoot (s : State) (pcn : Nat) (f : BootPos → BootPos) : State := s.modCore pcn fun k => { k with boot := f k.boot }

/-- A position whose tinders have all been answered and whose self-check has ended answers its parent; the origin
records the end of the flood (R375 steps 5 and 6). -/
def answerFlood (s : State) (pcn origin : Nat) : State :=
  let b := (s.core pcn).boot
  if !b.seen || b.awaiting ≠ 0 || !b.checkEnded || b.answered then s
  else
    let s1 := s.modBoot pcn fun b => { b with answered := true }
    if b.parent = 0 then s1.modBoot pcn fun b => { b with done := true, count := 1 + b.sum }
    else s1.post .control pcn (behindPort pcn b.parent) none (.tinderDone origin (1 + b.sum))

/-- Tinders go to every neighbour but the parent (R375 steps 1 and 2). -/
def sendTinders (s : State) (pcn origin : Nat) : State :=
  let b := (s.core pcn).boot
  let out := (neighbours pcn).filter fun n => b.parent = 0 || n.1 != behindPort pcn b.parent
  out.foldl (fun t n => t.post .control pcn n.1 none (.tinder origin b.x b.y b.hops n.2))
    (s.modBoot pcn fun b => { b with awaiting := out.length })

/-- A write to TINDER (R373): the first write of 1 at a die's boot core starts its flood. Its own self-check ends in a step of its
own, as that of every position does (R365). -/
def writeTinder (s : State) (pcn v : Nat) : State :=
  if s.bootMode && v = 1 && s.bootCore? (dieOf pcn) = some pcn && !(s.core pcn).boot.started then
    let s1 := s.modBoot pcn fun b =>
      { b with
        started := true, seen := true, coordok := true, x := xOf pcn, y := yOf pcn, hops := 0, parent := 0
        selfok := false }
    (s1.sendTinders pcn pcn).answerFlood pcn pcn
  else s

/-- A tinder reaches a router (R375 steps 2 to 4). -/
def takeTinder (s : State) (pcn src origin x y hops port : Nat) : State :=
  if (s.core pcn).boot.seen then s.post .control pcn src none (.tinderRefuse origin)
  else
    let x' := if port = 4 then x + 1 else if port = 2 then x - 1 else x
    let y' := if port = 3 then y + 1 else if port = 1 then y - 1 else y
    let s1 := s.modBoot pcn fun b =>
      { b with
        seen := true, x := x', y := y', hops := hops + 1, parent := port
        coordok := decide (x' = xOf pcn) && decide (y' = yOf pcn) }
    (s1.sendTinders pcn origin).answerFlood pcn origin

/-- An answer reaches the position that sent the tinder (R375 steps 4 to 6). -/
def takeFloodAnswer (s : State) (pcn origin count : Nat) : State :=
  (s.modBoot pcn fun b => { b with awaiting := b.awaiting - 1, sum := b.sum + count }).answerFlood pcn origin

end State

/-- TINDER_GO (R375 step 1). -/
def execTinderGo (pcn v : Nat) (s : State) : Res := .next (s.writeTinder pcn v)

/-- TINDER (R375 steps 2 to 4). -/
def execTinder (n : Nat) (s : State) : Res :=
  match s.arrive n with
  | some (⟨_, src, dst, _, _, .tinder origin x y hops port⟩, s1) => .next (s1.takeTinder dst src origin x y hops port)
  | _ => .next s

/-- TINDER_REFUSE (R375 step 4). -/
def execTinderRefuse (n : Nat) (s : State) : Res :=
  match s.arrive n with
  | some (⟨_, _, dst, _, _, .tinderRefuse origin⟩, s1) => .next (s1.takeFloodAnswer dst origin 0)
  | _ => .next s

/-- TINDER_DONE (R375 steps 5 and 6). -/
def execTinderDone (n : Nat) (s : State) : Res :=
  match s.arrive n with
  | some (⟨_, _, dst, _, _, .tinderDone origin count⟩, s1) => .next (s1.takeFloodAnswer dst origin count)
  | _ => .next s

/-- SELF_CHECK_END (R375 step 5): a flooded core's self-check ends and writes selfok; a core that fails is retired, which
BOOTID shows only after the next reset (R365, R373). -/
def execSelfCheckEnd (pcn ok : Nat) (s : State) : Res :=
  let b := (s.core pcn).boot
  if !b.seen || b.checkEnded then .next s
  else
    let good := ok = 1 && !s.isFused pcn
    let s1 := (s.modCore pcn fun k => { k with failed := k.failed || ok != 1 }).modBoot pcn fun b =>
      { b with checkEnded := true, selfok := good }
    let s2 := if ok = 1 then s1 else s1.retireCores [pcn]
    .next (s2.answerFlood pcn ((s2.bootCore? (dieOf pcn)).getD 0))

/-! ## SLOTGO and the end of boot mode (R376 to R378) -/

namespace State

/-- An access to a context image or SLOTGO is refused and counted (R293, R376). -/
def countCtlerr (s : State) (pcn : Nat) : State := s.modCore pcn fun k => { k with ctlerr := bump k.ctlerr }

/-- A write to SLOTGO (R376); a fused position holds no core that could start a slot (R14). -/
def writeSlotgo (s : State) (pcn v : Nat) : State :=
  if !s.bootMode then s
  else if 1 ≤ v && v ≤ 15 && (s.ctx (pcn * 16 + v)).status = .empty && !s.isFused pcn then
    s.startBare (pcn * 16 + v) (s.imageCtx (pcn * 16 + v))
  else s.countCtlerr pcn

/-- A user position that discovery has proved (R373, R377, R378). -/
def proved (s : State) (pcn : Nat) : Bool :=
  let b := (s.core pcn).boot
  b.seen && b.coordok && b.selfok && !s.countsFused pcn

/-- A byte of memory that the end of boot mode keeps: system cores and off-chip memory. -/
def keptAtEnd (s : State) (key : Nat) : Bool := decide (dpaBase ≤ key) || s.isSystem (ownerOfKey key)

/-- A slot at user level. -/
def atUserLevel (c : Ctx) : Ctx := { c with xstat := c.xstat &&& ~~~1 }

/-- Boot mode ends (R377): user cores' contexts and memories go, their slots take user level, and the logical map takes
the positions that discovery has proved; the others are retired (R378). -/
def endBoot (s : State) : State :=
  let user := (List.range 4).flatMap s.userPositions
  let map := user.filter s.proved
  let onSystem (tid : Nat) : Bool := s.isSystem (coreOfTid tid)
  let s1 : State := { s with
    bootMode := false, phase := 7, phaseTime := s.now
    ctxs := tableMap (fun tid c => if onSystem tid then c else if c.status == .empty then atUserLevel c else Ctx.zero) s.ctxs
    procs := s.procs.filter fun e => onSystem e.2.home
    mem := s.mem.filter fun c => s.keptAtEnd c.1
    banks := s.banks.filter fun b => s.keptAtEnd b.1
    cores := tableMap (fun p k =>
      if s.isSystem p then k
      else
        { k with
          handler := [], running := none, mxQueue := [], cpQueue := [], embers := [], spill := [], waiting := [], deferred := [] })
      s.cores
    net := s.net.filter fun p => s.isSystem p.src || p.cls == .control }
  (s1.retireCores (user.filter fun p => !s.proved p)).installMap map

/-- A write to BOOTCTL (R377): accepted when every system core's firewall is locked. -/
def writeBootctl (s : State) (v : Nat) : State :=
  let cores := (systemPositions s.config.w).filter fun p => !s.isFused p
  if s.bootMode && v < 4 && v / 2 = 1 && cores.all (fun p => (s.core p).fwctl.getLsbD 63) then s.endBoot else s

end State

/-- SLOTGO (R376). -/
def execSlotgo (pcn v : Nat) (s : State) : Res := .next (s.writeSlotgo pcn v)

/-- BOOTCTL_END (R377). -/
def execBootctlEnd (v : Nat) (s : State) : Res := .next (s.writeBootctl v)

/-- BOOT_TIMEOUT (R378): 10 ms after phase 5 began a context of the die's discovery has not halted, and every user position
of the die is retired. -/
def execBootTimeout (die : Nat) (s : State) : Res :=
  let alive (p : Nat) : Bool := (List.range 16).any fun k => (s.ctx (p * 16 + k)).status != .empty
  if s.bootMode && s.phase = 5 && decide (s.phaseTime + 10000000 ≤ s.now) && (s.userPositions die).any alive then
    .next (s.retireCores (s.userPositions die)).requestReplacement
  else .next s

end Sys2Proof.Machine
end

