-- ==== Sys2Proof/Machine/Branch.lean ====
section
/-!
DEFINITION. Branches and jumps (10_isa_scalar R182 to R185).
-/

namespace Sys2Proof.Machine

/-- The end of a branch: to the target when the condition holds, else to the next word (R182). -/
def State.branch (s : State) (c : Bool) (o : BitVec 16) : Res :=
  .next (s.modMe fun x => if c then x.goto (branchTarget x.pc o) else x.advance)

/-- `bt`: branches when P[a] (R182). -/
def execBt (a : PReg) (o : BitVec 16) (s : State) : Res := s.branch (s.p a) o

/-- `bf`: branches when not P[a] (R182). -/
def execBf (a : PReg) (o : BitVec 16) (s : State) : Res := s.branch (!s.p a) o

/-- `bz`: branches when g[a] = 0 (R182). -/
def execBz (a : GReg) (o : BitVec 16) (s : State) : Res := s.branch (s.g a == 0) o

/-- `bnz`: branches when g[a] ≠ 0 (R182). -/
def execBnz (a : GReg) (o : BitVec 16) (s : State) : Res := s.branch (s.g a != 0) o

/-- `j` (R183). -/
def execJ (o : BitVec 26) (s : State) : Res := .next (s.modMe fun c => c.goto (jumpTarget c.pc o))

/-- `jal`: g1 := PC + 4 first (R183). -/
def execJal (o : BitVec 26) (s : State) : Res :=
  .next (s.modMe fun c => (c.setG 1 (c.pc + 4)).goto (jumpTarget c.pc o))

/-- `jr`: a target that is not a multiple of 4 traps, and PC does not move (R184). -/
def execJr (a : GReg) (s : State) : Res :=
  if (s.g a).toNat % 4 ≠ 0 then s.trapHere causeMisaligned (s.g a)
  else .next (s.modMe fun c => c.goto (s.g a))

/-- `jalr`: the target is read before the link is written (R184). -/
def execJalr (d a : GReg) (s : State) : Res :=
  if (s.g a).toNat % 4 ≠ 0 then s.trapHere causeMisaligned (s.g a)
  else .next (s.modMe fun c => (c.setG d (c.pc + 4)).goto (s.g a))

end Sys2Proof.Machine
end

