-- ==== Sys2Proof/Machine/Control.lean ====
section
/-!
DEFINITION. Device control space (18_privileged R292 to R295; 21_network R344; 22_host_security R359; 23_bringup
R373, R377; 00_scope R4, R5): the registers of a core's page and of the device block, and context images.
-/

namespace Sys2Proof.Machine

/-! ## Context images (R293) -/

/-- The state code of an image (R293): a halted or parked context is stopped. -/
def statusCode (c : Ctx) : Nat :=
  match c.status with
  | .empty => 0
  | .reserved => 4
  | .stopped => 3
  | .ready => if c.halted || c.parked then 3 else if c.wrapStop then 2 else 1
  | .waiting => if c.halted || c.parked then 3 else 2

/-- The pending late causes as a mask of codes 0x10 to 0x12 (R293). -/
def lateMask (c : Ctx) : Nat :=
  [causeOverdue, causeCopyFailed, causeEngineFault].zipIdx.foldl (fun t x =>
    if c.late.any fun l => l.cause == x.1 then t + 2 ^ x.2 else t) 0

namespace State

/-- The process record that an image shows: an empty slot has one of its own. -/
def imageProc (s : State) (tid : Nat) : Nat :=
  if (s.ctx tid).status = .empty then bareKey tid else (s.ctx tid).proc

/-- An image may be read and written (R293): the slot is empty or stopped, and not slot 0. -/
def imageOpen (s : State) (tid : Nat) : Bool :=
  let code := statusCode (s.ctx tid)
  slotOfTid tid != 0 && (code == 0 || code == 3)

/-- The doubleword of an image at an offset (R293). -/
def imageWord (s : State) (tid off : Nat) : Word :=
  let c := s.imageCtx tid
  let p := s.proc (s.imageProc tid)
  let k := off / 8
  if 64 ≤ k then BitVec.ofNat 64 (memNat s.mem (vecKey (coreOfTid tid) (slotOfTid tid * 512 + (off / 8 * 8 - 512))) 8)
  else if 16 ≤ k && k ≤ 46 then c.g (Fin.ofNat 32 (k - 15))
  else
    match k with
    | 0 => c.pc
    | 1 => c.xpc
    | 2 => statusRead c
    | 3 => c.xcause
    | 4 => c.xaddr
    | 5 => c.xvec
    | 6 => c.xring
    | 7 => BitVec.ofNat 64 p.lvt
    | 8 => BitVec.ofNat 64 (c.pw.toNat + c.rmode.toNat * 2 ^ 16 + c.fflags.toNat * 2 ^ 24 + c.srng.toNat * 2 ^ 32)
    | 9 => BitVec.ofNat 64 (statusCode c + lateMask c * 2 ^ 8)
    | 10 => c.ckring
    | 11 => c.ckpos
    | 12 => c.ckseq
    | 13 => c.jring
    | 14 => c.jpos
    | 15 => BitVec.ofNat 64 (p.spawnLimit % 2 ^ 12 + p.live % 2 ^ 12 * 2 ^ 16)
    | 48 => c.masks[1]
    | 49 => c.masks[2]
    | 50 => c.masks[3]
    | _ => 0

/-- A read of an image (R293): all ones, counted, when it is refused. -/
def readImage (s : State) (tid off : Nat) : Word × State :=
  if s.imageOpen tid then (s.imageWord tid off, s) else (BitVec.allOnes 64, s.countCtlerr (coreOfTid tid))

/-- The bits that a doubleword of an image has (R115, R284, R293, R294): a write that holds another bit is ignored as a whole (R5).
The low bits of PC and XPC ignore writes by their own entries. -/
def imageMask (k : Nat) : Word :=
  match k with
  | 3 => 0x1FF
  | 5 => 0x1FFFC
  | 6 => 0x3F
  | 8 => 0xFFFFFFFFFF07FFFF
  | 10 => 0xFFF1FFC0
  | 11 | 15 => 0x0FFF0FFF
  | 13 => 0xFFFF0001FFE0
  | 14 => 0xFFFF0000FFFF
  | _ => BitVec.allOnes 64

/-- The context with the fields of an image's doubleword written: none where the write breaks a limit of R294. -/
def putImage (c : Ctx) (k : Nat) (v : Word) : Option Ctx :=
  if 16 ≤ k && k ≤ 46 then some (c.setG (Fin.ofNat 32 (k - 15)) v)
  else
    match k with
    | 0 => some { c with pc := v &&& ~~~(3 : Word), pfx := .none, held := none }
    | 1 => putCreg c 0x100 (v &&& ~~~(3 : Word))
    | 2 => some { c with xstat := v &&& ~~~(8 : Word) }
    | 3 => putCreg c 0x102 v
    | 4 => putCreg c 0x103 v
    | 5 => putCreg c 0x104 v
    | 6 => putCreg c 0x105 v
    | 8 => some { c with
        pw := v.setWidth 16, rmode := (v >>> 16).setWidth 3, fflags := (v >>> 24).setWidth 8 &&& 0xBF
        srng := if (v >>> 32).setWidth 32 = (0 : BitVec 32) then 1 else (v >>> 32).setWidth 32 }
    | 10 => putCreg c 0x110 v
    | 11 => putCreg c 0x111 v
    | 12 => putCreg c 0x112 v
    | 13 => putCreg c 0x113 v
    | 14 => putCreg c 0x114 v
    | 48 => some (c.setM 1 v)
    | 49 => some (c.setM 2 v)
    | 50 => some (c.setM 3 v)
    | _ => some c

/-- A write of an image (R293): discarded and counted when it is refused, ignored when it holds reserved bits (R5). -/
def writeImage (s : State) (tid off : Nat) (v : Word) : State :=
  let k := off / 8
  if !s.imageOpen tid then s.countCtlerr (coreOfTid tid)
  else if 64 ≤ k then
    s.setMem (memWrite (vecKey (coreOfTid tid) (slotOfTid tid * 512 + (k * 8 - 512))) (bytesOfNat 8 v.toNat) s.mem)
  else if v &&& ~~~imageMask k ≠ 0 then s
  else
    match k with
    | 7 => s.modProc (s.imageProc tid) fun p => { p with lvt := v.toNat }
    | 15 => s.modProc (s.imageProc tid) fun p =>
        { p with spawnLimit := v.toNat % 2 ^ 12, live := v.toNat / 2 ^ 16 % 2 ^ 12 }
    | _ =>
      match putImage (s.imageCtx tid) k v with
      | some c => s.setCtx tid (s.markRings tid c)
      | none => s.countCtlerr (coreOfTid tid)

end State

/-- CONTEXT_IMAGE_READ (R293): what the read changes, which is CTLERR when it is refused. -/
def execContextImageRead (tid off : Nat) (s : State) : Res := .next (s.readImage tid off).2

/-- CONTEXT_IMAGE_WRITE (R293). -/
def execContextImageWrite (tid off v : Nat) (s : State) : Res := .next (s.writeImage tid off (BitVec.ofNat 64 v))

/-! ## Reading control space (R292, R344, R359, R373) -/

/-- A fault record as its 64 bytes (R335). -/
def recordBytes (r : FaultRecord) : List Byte :=
  bytesOfNat 8 r.va ++ bytesOfNat 8 r.root ++ bytesOfNat 4 r.job ++
    bytesOfNat 4 (r.cluster % 2 ^ 9 + r.slot % 2 ^ 6 * 2 ^ 9 + r.seq % 2 ^ 16 * 2 ^ 16) ++
    bytesOfNat 1 ((if r.write then 1 else 0) + if r.absent then 2 else 0) ++ bytesOfNat 1 r.region ++ bytesOfNat 6 0 ++
    ((List.range 3).flatMap fun i => bytesOfNat 8 (r.pages.getD i 0)) ++ bytesOfNat 8 0

/-- BOOTID (R373). -/
def bootId (b : BootPos) (fused : Bool) : Nat :=
  let bit (x : Bool) (n : Nat) : Nat := if x then 2 ^ n else 0
  b.x % 32 + b.y % 32 * 2 ^ 5 + b.hops % 64 * 2 ^ 10 + b.parent % 8 * 2 ^ 16 + bit fused 19 + bit b.selfok 20 +
    bit b.coordok 21 + bit b.seen 22

namespace State

/-- The routers that a packet crosses, in order: in two phases when it is bulk over an intermediate router (R343). -/
def packetRouters (p : Packet) : List Nat :=
  let path (a b : Nat) : List Nat := (routePorts a b).map Prod.fst
  match p.body with
  | .bulk _ (some via) => path p.src via ++ path via p.dst
  | _ => path p.src p.dst

/-- The router whose buffers hold packet k of the network: how far along its route it is, is free. -/
def packetAt (s : State) (k : Nat) (p : Packet) : Nat :=
  let path := packetRouters p
  path.getD (Config.position (s.fresh + k) % path.length) p.src

/-- Packets of a colour that a router's buffers hold (R344). -/
def inFlight (s : State) (pcn colour : Nat) : Nat :=
  (s.net.zipIdx.filter fun x =>
    let live := match x.1.body with
      | .bulk owner _ => s.bulkLive owner
      | _ => true
    live && x.1.colour == some colour && s.packetAt x.2 x.1 == pcn).length

/-- A doubleword of a pager's fault queue (R335): record i lies at 64 · i; none for a place that holds no record. -/
def faultQueueWord (s : State) (pcn off : Nat) : Option Nat :=
  let k := s.core pcn
  ((k.faultQueue)[(off / 64 + 64 - k.fqhead) % 64]?).map fun r => descNat (recordBytes r) (off % 64) 8

/-- What a register of a core's page reads (R292, R335, R344, R373). -/
def readPage (s : State) (pcn off : Nat) : Nat :=
  let k := s.core pcn
  let b := k.boot
  if off < 0x100 then
    match tableFind (off / 16) k.ring with
    | some e => if off % 16 < 8 then e.pc.toNat else e.job.toNat + e.slot * 2 ^ 32
    | none => 0
  else if 0xA00 ≤ off && off < 0xC00 then (s.colourConfig pcn ((off - 0xA00) / 8)).toNat
  else
    match off with
    | 0x100 => k.stalecnt
    | 0x108 => k.ecccor
    | 0x110 => k.eccunc
    | 0x118 => k.ctlerr
    | 0x120 => k.fwdrop
    | 0x200 => k.fwctl.toNat
    | 0x300 => k.tcinvRoot.toNat
    | 0x318 => k.fqhead + k.faultQueue.length * 2 ^ 8
    | 0xC00 => k.rload.toNat
    | 0xC08 => s.circuitsAt pcn % 4
    | 0x3008 =>
      if s.bootMode then (if b.done then 1 else 0) + (if b.started then 2 else 0) + b.count % 2 ^ 11 * 2 ^ 16 else 0
    | 0x3010 => if s.bootMode then bootId b (s.isFused pcn) else 0
    | _ => 0

/-- What a register of the device block reads (R359, R377). -/
def readDevice (s : State) (off : Nat) : Nat :=
  if 0x1000 ≤ off then
    descNat (tableGet (List.replicate 32 0) ((off - 0x1000) / 32) s.peers) (off % 32) 8
  else
    match off with
    | 0x00 => s.tstat + s.timeOffset.toNat * 2 ^ 32
    | 0x08 => s.lifecycle + if s.wiping then 4 else 0
    | 0x10 => (if s.rrq then 1 else 0) + s.userCount % 2 ^ 12 * 2 ^ 16
    | 0x18 => s.pwrlim
    | 0x20 => s.igdrop % 2 ^ 32
    | 0x28 => s.iglate % 2 ^ 32
    | 0x30 => if s.bootMode then 1 else 0
    | _ => 0

/-- A read of control space: its value, and what it changes. -/
def readControl (s : State) (a : Nat) : Word × State :=
  if 0x408000000 ≤ a then (BitVec.ofNat 64 (s.readDevice (a - 0x408000000)), s)
  else
    let pcn := a / 2 ^ 15 % 2 ^ 12
    let off := a % 2 ^ 15
    if 0x4000 ≤ off then s.readImage (pcn * 16 + (off - 0x4000) / 1024) (off % 1024)
    else if 0x800 ≤ off && off < 0xA00 then
      (BitVec.ofNat 64 (s.inFlight pcn ((off - 0x800) / 8)), { s with fresh := s.fresh + s.net.length })
    else if 0x1000 ≤ off && off < 0x2000 then
      match s.faultQueueWord pcn (off - 0x1000) with
      | some v => (BitVec.ofNat 64 v, s)
      | none => (Config.emptyRecord s.fresh, { s with fresh := s.fresh + 1 })
    else (BitVec.ofNat 64 (s.readPage pcn off), s)

/-! ## Writing control space -/

/-- A write to FWCTL (R295): ignored once the lock is set. Bits 62:5 are a listed RO field, so they are ignored (R4). -/
def writeFwctl (s : State) (pcn v : Nat) : State :=
  if (s.core pcn).fwctl.getLsbD 63 then s
  else s.modCore pcn fun k => { k with fwctl := BitVec.ofNat 64 v &&& 0x800000000000001F }

/-- A write to PWRLIM (R359, R5): ignored outside its range, which leaves no reserved bit. -/
def writePwrlim (s : State) (v : Nat) : State := if 600 ≤ v && v ≤ 2000 then { s with pwrlim := v } else s

/-- A counter takes a write of 0 only (R292). -/
def clearCounter (v old : Nat) : Nat := if v = 0 then 0 else old

/-- A write to a register of a core's page that no other row names (R292, R344): the counters and RCOLCFG. -/
def writeCounters (s : State) (pcn off v : Nat) : State :=
  if 0xA00 ≤ off && off < 0xC00 then
    if v < 2 ^ 17 then s.modCore pcn fun k => { k with rcolcfg := tablePut ((off - 0xA00) / 8) (BitVec.ofNat 17 v) k.rcolcfg }
    else s
  else
    match off with
    | 0x100 => s.modCore pcn fun k => { k with stalecnt := clearCounter v k.stalecnt }
    | 0x108 => s.modCore pcn fun k => { k with ecccor := clearCounter v k.ecccor }
    | 0x110 => s.modCore pcn fun k => { k with eccunc := clearCounter v k.eccunc }
    | 0x118 => s.modCore pcn fun k => { k with ctlerr := clearCounter v k.ctlerr }
    | 0x120 => s.modCore pcn fun k => { k with fwdrop := clearCounter v k.fwdrop }
    | _ => s

/-- A doubleword of the peer table written (R359): its reserved bytes must be zero (R5). -/
def writePeer (s : State) (i off v : Nat) : State :=
  let e := tableGet (List.replicate 32 0) i s.peers
  let legal := off < 16 || (off = 16 && decide (v < 2 ^ 9)) || v = 0
  if legal then
    { s with peers := tablePut i (e.take off ++ bytesOfNat 8 v ++ e.drop (off + 8)) s.peers }
  else s

/-- A write to a register of the device block that no other row names: RRQ and the peer table (R359). -/
def writeDevice (s : State) (off v : Nat) : State :=
  if 0x1000 ≤ off then s.writePeer ((off - 0x1000) / 32) (off % 32 / 8 * 8) v
  else if off = 0x10 && v % 2 = 1 && v / 2 % 2 ^ 15 = 0 && v < 2 ^ 28 then { s with rrq := false }
  else s

/-- A write to control space, at an address that is assigned. -/
def writeControl (s : State) (a v : Nat) : State :=
  if 0x408000000 ≤ a then
    match a - 0x408000000 with
    | 0x18 => s.writePwrlim v
    | 0x30 => s.writeBootctl v
    | off => s.writeDevice off v
  else
    let pcn := a / 2 ^ 15 % 2 ^ 12
    let off := a % 2 ^ 15
    if 0x4000 ≤ off then s.writeImage (pcn * 16 + (off - 0x4000) / 1024) (off % 1024) (BitVec.ofNat 64 v)
    else
      match off with
      | 0x200 => s.writeFwctl pcn v
      | 0x300 => s.writeTcinvRoot pcn v
      | 0x308 => s.writeTcinvPage pcn v
      | 0x310 => s.writeFreply pcn v
      | 0x318 => s.writeFqhead pcn v
      | 0x3000 => s.writeTinder pcn v
      | 0x3018 => s.writeSlotgo pcn v
      | _ => s.writeCounters pcn off v

/-- A write to control space may be performed: the second store to TCINV waits for the copy units (R334). -/
def controlReady (s : State) (a v : Nat) : Bool :=
  if 0x400000000 ≤ a && a < 0x408000000 && a % 2 ^ 15 = 0x308 then s.tcinvReady (a / 2 ^ 15 % 2 ^ 12) v else true

end State

/-- FWCTL_WRITE (R295): on system-column cores. -/
def execFwctlWrite (pcn v : Nat) (s : State) : Res :=
  .next (if s.isSystem pcn then s.writeFwctl pcn v else s)

/-- PWRLIM_WRITE (R359). -/
def execPwrlimWrite (v : Nat) (s : State) : Res := .next (s.writePwrlim v)

/-- The name under which a step writes REGBASE, the system register of the command front end to which no rule gives an address
(R298). -/
def regbaseName : Nat := 2 ^ 64

/-- CONTROL_REGISTER_WRITE (R5, R298): a write to a register that has no row of its own. -/
def execControlRegisterWrite (addr v : Nat) (s : State) : Res :=
  if addr = regbaseName then .next { s with regbase := v % 2 ^ 64 }
  else if !s.controlAssigned addr then .next s
  else if 0x408000000 ≤ addr then .next (s.writeDevice (addr - 0x408000000) v)
  else .next (s.writeCounters (addr / 2 ^ 15 % 2 ^ 12) (addr % 2 ^ 15) v)

end Sys2Proof.Machine
end

