-- ==== Sys2Proof/Machine/Perform.lean ====
section
/-!
DEFINITION. Perform (04_memory_order R58, R59, R62; 18_privileged R292, R296): the access at the head of a bank's queue is
applied in one action, in memory or in control space, and its thread stops waiting.
-/

namespace Sys2Proof.Machine

/-- What a performed load of a doubleword of control space writes: its register, or a byte pair's low half. -/
def Ctx.takeControl (c : Ctx) (kind : AccessKind) (v : Word) : Ctx :=
  match kind with
  | .load d _ => c.setG d v
  | _ => c

namespace State

/-- A part is at the head of every queue it stands in: a `st.x6` over two lines stands in two (R194). -/
def headEverywhere (s : State) (q : QueuedPart) (p : Part) : Bool :=
  (partBanks p).all fun b => (s.bank b).head? == some q

/-- A part's access is applied to its bank's contents (R58), or to a register of control space (R292). -/
def applyPart (s : State) (tid : Nat) (kind : AccessKind) (p : Part) : State :=
  if p.addr < 0x400000000 || 0x1000000000000 ≤ p.addr then s.performPart tid kind p
  else
    match kind with
    | .store => s.writeControl p.addr p.data
    | _ =>
      let r := s.readControl p.addr
      r.2.modCtx tid fun c => c.takeControl kind r.1

/-- A corrected error in a core's memory is counted (R296). -/
def countCorrected (s : State) (key : Nat) : State :=
  if key < 0x400000000 then s.modCore (ownerOfKey key) fun k => { k with ecccor := bump k.ecccor } else s

/-- A thread whose ordinary access has been performed stops waiting (R58). -/
def stopWaiting (c : Ctx) : Ctx :=
  if c.wait = .access then { c with wait := .none, status := if c.status = .waiting then .ready else c.status } else c

/-- The access of a thread is complete: the thread goes on, or the block that it has read takes effect (R225, R252). -/
def completeAccess (s : State) (tid : Nat) (acc : Access) : State :=
  match acc.kind with
  | .config copy => s.finishConfig tid copy acc.got
  | .descriptor d sel => s.finishDescriptor tid acc.got d sel
  | _ => if acc.relaxed then s.drainTrap tid else s.modCtx tid stopWaiting

/-- The part of an access under an entry is performed: it leaves its queues and its access. -/
def performEntry (s : State) (tid : Nat) (acc : Access) (k : Nat) (p : Part) : State :=
  let s1 := (partBanks p).foldl (fun t b => t.setBank b (t.bank b).tail) s
  let s2 := s1.applyPart tid acc.kind p
  let acc' : Access :=
    { acc with
      parts := listDrop k acc.parts
      got := if acc.kind.sequential then acc.got ++ memBytes s.mem p.addr p.size else acc.got }
  let s3 := s2.modCtx tid fun c => putAccess c acc'
  if acc'.parts.isEmpty then s3.completeAccess tid acc' else s3

/-- The entry at the head of a bank's queue is performed (R58): a part of a context's access, or a line of a job. -/
def performHead (s : State) (bank : Nat) (ecc : Bool) : State :=
  match (s.bank bank).head? with
  | none => s
  | some q =>
    let pop := s.setBank bank (s.bank bank).tail
    match q.source with
    | .job pcn e id =>
      match pop.performLine pcn e id q.addr q.off with
      | some t => if ecc then t.countCorrected q.addr else t
      | none => s
    | .access tid serial =>
      match s.queuedPart? tid serial q.addr q.off with
      | none => pop
      | some (acc, k, p) =>
        if s.headEverywhere q p && s.controlReady p.addr p.data then
          let s1 := s.performEntry tid acc k p
          if ecc then s1.countCorrected p.addr else s1
        else s

/-- A correctable error that another access of a core meets (a fetch, a word of a message, a line of a payload, a latch buffer or a
router buffer) is corrected there and counted; that access completes as if no error had occurred (R296). -/
def correctElsewhere (s : State) (pcn : Nat) : State :=
  if pcn < 4096 then s.modCore pcn fun k => { k with ecccor := bump k.ecccor } else s

end State

/-- ACCESS_PERFORM (R58): the access at the head of a bank's queue. `ecc` is 0 when it meets no error, and 1 when it meets a
correctable error, which it corrects (R296); p + 2 names a core p where an access that stands in no arrival queue meets one. -/
def execAccessPerform (bank ecc : Nat) (s : State) : Res :=
  match ecc with
  | 0 => .next (s.performHead bank false)
  | 1 => .next (s.performHead bank true)
  | p + 2 => .next (s.correctElsewhere p)

end Sys2Proof.Machine
end

