-- ==== Sys2Proof/Machine/Launches.lean ====
section
/-!
DEFINITION. Launch records, their validation and their admission (19_regions_sched R303 to R311, R327), tags (R314), and the
records of launches that end unplaced (R312, R317).
-/

namespace Sys2Proof.Machine

/-! ## Off-chip bytes that the front end and the loader read (R303, R310, R315) -/

/-- An address of the off-chip space that is a multiple of 64. -/
def offchipLine (a : Nat) : Bool := decide (0x1000000000000 ≤ a) && decide (a < 0x2000000000000) && a % 64 == 0

/-- What the pages of some bytes allow the command front end. -/
inductive FrontPages where
  | ready
  /-- A page is not resident: a pager is asked (R339, R352). -/
  | wait
  /-- A page copies may not write, no mapping, or no frame for it (R329, R331, R333, R336). -/
  | refused
deriving DecidableEq, Repr

namespace State

/-- What one page allows. -/
def frontPage (s : State) (root va : Nat) (write : Bool) : FrontPages :=
  match walk s.mem root (va % 2 ^ 48) with
  | .found e => if !e.present then .wait else if write && !e.writable then .refused else .ready
  | .missing => .wait
  | .broken => .refused

/-- The command front end's page fault for a page. -/
def frontFault? (s : State) (root va : Nat) : Option FrontFault :=
  s.frontFaults.find? fun f => f.root == root && f.page == va % 2 ^ 48 / 2 ^ 16

/-- A pager is asked for a page that the command front end needs, as a copy unit asks for one (R335, R339, R352;
notes/assumptions/82.md): once, and when a fault slot is free. -/
def askPage (s : State) (region root va : Nat) (write : Bool) : State :=
  let cl := clusterOf s.frontEnd
  match s.frontFault? root va, s.freeSlot? cl, s.pagerOf? root (va % 2 ^ 48) with
  | none, some k, some pager =>
    let seq := (s.cluster cl).faultSeq % 2 ^ 16
    let s1 := s.modCluster cl fun c => { c with slots := tablePut k seq c.slots, faultSeq := seq + 1 }
    let absent := match walk s.mem root (va % 2 ^ 48) with | .found _ => true | _ => false
    let s2 : State := { s1 with frontFaults := s1.frontFaults ++ [⟨cl, k, seq, root, va % 2 ^ 48 / 2 ^ 16, write, none⟩] }
    s2.post .control s.frontEnd pager none (.faultRecord (va % 2 ^ 48) root 0 cl k seq region write absent [])
  | _, _, _ => s

/-- The command front end needs some pages of a region (R339, R352): the first that is not resident is asked for; one that a pager
has refused, or that no page table can give, refuses them. -/
def frontPages (s : State) (region : Nat) : List (Nat × Bool) → FrontPages × State
  | [] => (.ready, s)
  | (va, write) :: rest =>
    let root := s.rootOf region
    match s.frontPage root va write with
    | .ready => frontPages s region rest
    | .refused => (.refused, s)
    | .wait =>
      match (s.frontFault? root va).bind FrontFault.outcome with
      | some _ =>
        (.refused, { s with frontFaults := s.frontFaults.filter fun f => !(f.root == root && f.page == va % 2 ^ 48 / 2 ^ 16) })
      | none => (.wait, s.askPage region root va write)

/-- The pages of n bytes from an off-chip address up. -/
def pagesOf (va n : Nat) (write : Bool) : List (Nat × Bool) := (pageStarts va n).map fun a => (a, write)

/-- The bytes of n lines of 64 bytes from an off-chip address up, if every page is resident. -/
def readLines (s : State) (root va : Nat) : Nat → Option (List Byte)
  | 0 => some []
  | n + 1 =>
    match translate? s.mem root va, readLines s root (va + 64) n with
    | some d, some rest => some (memBytes s.mem (dpaBase + d) 64 ++ rest)
    | _, _ => none

end State

/-! ## The launch record (R303) -/

/-- The fields of a record; the command supplies D and its queue the region. -/
def recordOf (bs : List Byte) (deadline : Nat) : LaunchRec where
  image := descNat bs 0 8
  imageLen := descNat bs 8 4
  entry := descNat bs 12 4
  wrappc := descNat bs 16 4
  rankTab := if descNat bs 20 4 / 2 ^ 31 = 1 then some (descNat bs 20 4 % 2 ^ 17) else none
  n := descNat bs 24 2
  place := descNat bs 26 1
  timed := descNat bs 27 1 % 2 == 1
  cancelCopies := descNat bs 27 1 / 2 % 2 == 1
  freq := descNat bs 27 1 / 4 % 4
  rect := descNat bs 28 4
  lsBytes := descNat bs 32 4
  ckpt := descNat bs 36 2
  journal := descNat bs 38 2
  spill := descNat bs 40 2
  spawn := descNat bs 42 2
  tag0 := descNat bs 44 2
  tag1 := descNat bs 46 2
  lvt := descNat bs 48 8
  deadline := deadline
  budgetW := descNat bs 64 8
  budgetE := descNat bs 72 8
  record := descNat bs 80 8
  doneTag := descNat bs 90 2

/-- The fields of a record are within their limits, and its reserved bits are zero (R303). -/
def recordOk (bs : List Byte) (l : LaunchRec) : Bool :=
  let table := descNat bs 20 4
  offchipLine l.image && l.imageLen % 64 == 0 && decide (64 ≤ l.imageLen) && decide (l.imageLen ≤ 0x20000) &&
    l.entry % 4 == 0 && decide (l.entry < l.imageLen) && l.wrappc % 4 == 0 && decide (l.wrappc < l.imageLen) &&
    table / 2 ^ 17 % 2 ^ 14 == 0 && (l.rankTab.isNone || table % 4 == 0) &&
    decide (1 ≤ l.n) && decide (l.n ≤ 4096) && decide (l.place ≤ 3) && descNat bs 27 1 / 16 == 0 &&
    (if l.place = 3 then l.rect / 2 ^ 24 == 0 else l.rect == 0) && l.lsBytes % 64 == 0 &&
    (if l.timed then decide (2 ≤ l.ckpt) && decide (l.ckpt ≤ 4095) && decide (16 ≤ l.journal)
     else l.ckpt == 0 && l.journal == 0) &&
    decide (l.spill ≤ 1024) && decide (l.spawn ≤ 14) && decide (1000 ≤ l.budgetW) && decide (l.budgetW < l.deadline) &&
    offchipLine l.record && descNat bs 89 1 == 0 && descNat bs 92 36 == 0

/-! ## Descriptors of the image (R30, R77, R139) -/

/-- A descriptor holds `ranks=all`: the list form, with n and the list zero (R139). -/
def holdsAll (bs : List Byte) : Bool :=
  descNat bs 4 4 / 32 % 2 == 0 && descNat bs 10 2 == 0 && (List.range 32).all fun i => descNat bs (16 + i) 1 == 0

/-- A descriptor with `ranks=all` resolved: n := N and ranks 0 to N − 1, and nothing else (R139). -/
def resolveAll (n : Nat) (bs : List Byte) : List Byte :=
  if holdsAll bs then
    bs.take 10 ++ bytesOfNat 2 n ++ (bs.drop 12).take 4 ++
      ((List.range n).flatMap (bytesOfNat 2) ++ bs.drop (16 + 2 * n)).take 32 ++ bs.drop 48
  else bs

/-- The descriptor at an offset of an image. -/
def descriptorAt (image : List Byte) (off : Nat) : List Byte := (image.drop off).take 64

/-- A descriptor at an offset lies in the image, at a multiple of 16 (R139). -/
def descriptorPlaced (l : LaunchRec) (off : Nat) : Bool := off % 16 == 0 && decide (off + 64 ≤ l.imageLen)

/-- A number put into a rising list. -/
def insertRising (x : Nat) : List Nat → List Nat
  | [] => [x]
  | y :: t => if x ≤ y then x :: y :: t else y :: insertRising x t

/-- The numbers of a list in rising order. -/
def sortRising (xs : List Nat) : List Nat := xs.foldl (fun acc x => insertRising x acc) []

namespace State

/-- User positions of a rectangle word, in ascending pcn (R73, R304). -/
def rectCores (s : State) (w : Nat) : List Nat :=
  sortRising ((rectPositions s w).filter fun p => s.isUser p && !s.countsFused p)

/-- Where the ranks of a launch are taken to stand at validation: a rectangle's are known (R304); for any other placement
the positions that a rectangle descriptor names are taken to hold processes. -/
def ranksForCheck (s : State) (l : LaunchRec) (bs : List Byte) : List Nat :=
  if l.place = 3 then (s.rectCores l.rect).map fun p => p * 16 + 1
  else if descNat bs 4 4 / 32 % 2 = 1 then
    ((rectPositions s (descNat bs 12 4)).map fun p => p * 16 + descNat bs 12 4 / 2 ^ 24 % 16).take l.n
  else []

end State

/-- A launch before anything has happened to it. -/
def newLaunch (region seq : Nat) (l : LaunchRec) (descs : List Nat) (now : Nat) : Launch where
  seq := seq
  region := region
  spec := l
  descs := descs
  phase := .admitted
  validated := now
  waiting := [l.tag0, l.tag1].filter (· != 0)
  window := none
  ranks := []
  cores := []
  lmap := []
  events := []
  committed := 0
  wrapTime := 0
  wrapvt := 0
  cutRound := none
  cutVt := none
  wrapJobs := 0
  diverted := false
  mask := 0
  frozen := 0
  round := none
  pass := 0
  nextRound := 0
  requested := false
  gvt := 0
  lastRound := 0
  stopStatus := 0
  stopCause := 0
  stopPcn := 0

namespace State

/-- A descriptor of an image is valid once `ranks=all` is resolved (R310 reason 10). -/
def descriptorValid (s : State) (l : Launch) (image : List Byte) (off : Nat) : Bool :=
  let bs := resolveAll l.spec.n (descriptorAt image off)
  descriptorPlaced l.spec off && (parseDescriptor s { l with ranks := s.ranksForCheck l.spec bs } bs).isSome

/-! ## Validation (R310) -/

/-- A whole budget holds an amount, at the region and at every ancestor (R310). -/
def wholeBudget (s : State) (r i : Nat) (own : Region → Nat) (amount : Nat) : Bool :=
  s.budgetAllows r i own (fun _ => 0) amount

/-- The reason for which validation refuses a launch: the lowest that applies (R310). -/
def refusal? (s : State) (l : Launch) (bs image : List Byte) : Option Nat :=
  let x := l.spec
  let r := l.region
  if !recordOk bs x then some 1
  else if 0x20000 < chargedBytes x (min (perCore x) x.n) then some 2
  else if !s.wholeBudget r 0 Region.cores (coreCount x) ||
      (x.place == 3 && (!rectFits x.rect || (s.rectCores x.rect).length != x.n)) then some 3
  else if !s.wholeBudget r 1 Region.slots x.n || !s.wholeBudget r 2 Region.kib (launchKib x) ||
      !s.wholeBudget r 4 Region.arb l.descs.length then some 4
  else if x.deadline - x.budgetW ≤ s.now then some 6
  else if 16 < x.n && l.descs.any (fun off => holdsAll (descriptorAt image off)) then some 7
  else if l.descs.any (fun off => !s.descriptorValid l image off) then some 10
  else none

/-! ## Admission (R311, R312, R327) -/

/-- A region is guaranteed (R301). -/
def isGuaranteed (s : State) (r : Nat) : Bool := (s.region r).guaranteed != 0

/-- Cores guaranteed to all live regions. -/
def sumGuaranteed (s : State) : Nat :=
  (s.regions.filter fun e => e.2.live).foldl (fun t e => t + e.2.guaranteed) 0

/-- The guaranteed cores that admission tests against (R327). -/
def guaranteedNow (s : State) (r : Nat) : Nat :=
  if s.userCount < s.sumGuaranteed then (s.region r).guaranteed * s.userCount / s.sumGuaranteed
  else (s.region r).guaranteed

end State

/-- A window of a reservation table: launch, region, start, end and cores (R311). -/
abbrev Window := Nat × Nat × Nat × Nat × Nat

/-- Cores that windows of a region hold at a time. -/
def heldAt (ws : List Window) (t : Nat) : Nat :=
  (ws.filter fun w => decide (w.2.2.1 ≤ t) && decide (t < w.2.2.2.1)).foldl (fun n w => n + w.2.2.2.2) 0

/-- Over the whole of [s, d] the windows and c more cores stay within g (R311). -/
def windowFits (ws : List Window) (c g s d : Nat) : Bool :=
  (s :: (ws.map fun w => w.2.2.1).filter fun t => decide (s < t) && decide (t < d)).all fun t =>
    decide (heldAt ws t + c ≤ g)

/-- The least of some numbers. -/
def leastStart (xs : List Nat) : Option Nat := leastList xs

namespace State

/-- The windows of a region's reservation table. -/
def windowsOf (s : State) (r : Nat) : List Window := s.reservations.filter fun w => w.2.1 == r

/-- The earliest start of a window for a launch (R311). -/
def windowStart? (s : State) (l : Launch) : Option Nat :=
  let x := l.spec
  let t := s.now + 60000
  let ws := s.windowsOf l.region
  let ok (st : Nat) : Bool :=
    decide (t ≤ st) && decide (st + 10000 + x.budgetE ≤ x.deadline - x.budgetW) &&
      windowFits ws (coreCount x) (s.guaranteedNow l.region) st x.deadline
  leastStart ((t :: ws.map fun w => w.2.2.2.1).filter ok)

/-- A launch that has been validated is admitted: one of a guaranteed region takes a window, or none is found (R311);
one of an opportunistic region needs none (R312). One that firmware validates again after a restart keeps its window (R309). -/
def admission? (s : State) (l : Launch) : Option (Launch × State) :=
  if s.isGuaranteed l.region then
    match s.reservations.find? fun w => w.1 == launchKey l.region l.seq with
    | some w => some ({ l with window := some w.2.2.1 }, s)
    | none =>
      (s.windowStart? l).map fun st =>
        ({ l with window := some st },
          { s with reservations := s.reservations ++
              [(launchKey l.region l.seq, l.region, st, l.spec.deadline, coreCount l.spec)] })
  else some (l, s)

/-- The windows of some launches leave the table. -/
def dropWindows (s : State) (keys : List Nat) : State :=
  { s with reservations := s.reservations.filter fun w => !keys.contains w.1 }

/-! ## Records of launches that are not placed -/

/-- A record is written at an address that a record can have (R306). -/
def writeRecordAt (s : State) (region va : Nat) (bs : List Byte) : State :=
  if offchipLine va then s.writeOffchip (s.rootOf region) va bs else s

/-- The page that holds a launch's completion record is pinned until the record is written (R339). -/
def pinRecord (s : State) (region seq va : Nat) : State :=
  let key := launchKey region seq
  match walk s.mem (s.rootOf region) (va % 2 ^ 48) with
  | .found e =>
    let s1 : State := { s with recordPins := s.recordPins.filter (fun p => p.launch != key) ++ [⟨key, e.loc⟩] }
    s1.pinEntry e.loc
  | _ => s

/-- The pages of some launches' records are pinned no more. -/
def unpinRecords (s : State) (keys : List Nat) : State :=
  { s with recordPins := s.recordPins.filter fun p => !keys.contains p.launch }.settlePins

/-- A launch that was never placed, with only what its refusal shows. -/
def unplaced (region seq : Nat) : Launch :=
  newLaunch region seq (recordOf (List.replicate 128 0) 0) [] 0

/-- A refusal is recorded (R306, R310): the reason, and the index of the failing member. -/
def writeRefusal (s : State) (region seq va reason index : Nat) : State :=
  (s.writeRecordAt region va (s.completionRecord (unplaced region seq) 4 reason index 0 0)).unpinRecords [launchKey region seq]

/-- A launch that has not been placed ends: its record is written, its window goes, and the launch with them. -/
def endUnplaced (s : State) (key : Nat) (l : Launch) (status reason : Nat) : State :=
  let s1 := s.writeRecord key l status reason 0 0 0
  { s1 with launches := tableDrop key s1.launches }

/-! ## Tags (R314) -/

/-- A launch with a tag posted: one whose tags have not all come by D − W stays not ready (R314). -/
def tagged (region tag now : Nat) (l : Launch) : Launch :=
  if l.region = region ∧ now < l.spec.deadline - l.spec.budgetW then { l with waiting := l.waiting.filter (· != tag) } else l

/-- An effect with a tag posted, for a launch that has been validated and not yet taken. -/
def taggedEffect (region tag now : Nat) : Effect → Effect
  | .admission l => .admission (tagged region tag now l)
  | e => e

/-- A tag is posted in a region (R314). -/
def postTag (s : State) (region tag : Nat) : State :=
  if tag = 0 then s
  else
    { s with
      launches := tableMap (fun _ l => if l.phase = .admitted then tagged region tag s.now l else l) s.launches
      queues := tableMap (fun _ q =>
        { q with
          members := q.members.map fun m => (m.1, taggedEffect region tag s.now m.2)
          effects := q.effects.map fun e => (e.1, e.2.map (taggedEffect region tag s.now)) }) s.queues }

end State

end Sys2Proof.Machine
end

