-- ==== Sys2Proof/Machine/Placement.lean ====
section
/-!
DEFINITION. Placement (19_regions_sched R313, R315, R316, R382), the switches that it decides (R318), and how a launch that
is placed ends (R110, R312; 03_processes R28 to R33).
-/

namespace Sys2Proof.Machine

/-! ## Switches (R318) -/

/-- D − W of a launch has not come: it may still be placed (R312). -/
def inTime (s : State) (l : Launch) : Bool := decide (s.now < l.spec.deadline - l.spec.budgetW)

namespace State

/-- Priority class of a region (R299). -/
def prioOf (s : State) (r : Nat) : Nat := s.effective 6 Region.prio r

/-- D − W − NOW − E of a launch (R316). -/
def slackOf (s : State) (l : Launch) : Int :=
  (l.spec.deadline : Int) - l.spec.budgetW - s.now - l.spec.budgetE

/-- The placed launches of a colour group. -/
def groupLaunches (s : State) (colour : Nat) : List (Nat × Launch) :=
  s.launches.filter fun e => holdsResources e.2 && s.colourOf e.2.region == colour

/-- The cores of a colour group. -/
def groupCores (s : State) (colour : Nat) : List Nat := ((s.groupLaunches colour).flatMap fun e => e.2.cores).eraseDups

/-- A group's T is set, and a notice leaves for each of its cores (R319, R325). It leaves at least 20 µs before T: a time that is
nearer becomes NOW + 20 µs (notes/assumptions/79.md). -/
def notify (s : State) (colour time : Nat) (frozen : Bool) : State :=
  let at' := max time (s.now + 20000)
  (s.groupCores colour).foldl (fun t pcn => t.post .control s.frontEnd pcn none (.switchNotice colour at'))
    (s.modGroup colour fun g => { g with phase := .notified, time := at', frozen := frozen })

/-- An opportunistic group that runs, and holds cores. -/
def canSwitch (s : State) (colour : Nat) : Bool :=
  (s.group colour).phase == .running && !(s.groupLaunches colour).isEmpty &&
    (s.groupLaunches colour).all fun e => !s.isGuaranteed e.2.region

/-- The class of a group: the highest of its launches. -/
def groupClass (s : State) (colour : Nat) : Nat :=
  (s.groupLaunches colour).foldl (fun m e => max m (s.prioOf e.2.region)) 0

/-- The slack of a group: the least of its launches. -/
def groupSlack (s : State) (colour : Nat) : Int :=
  match s.groupLaunches colour with
  | [] => 0
  | e :: t => t.foldl (fun m x => min m (s.slackOf x.2)) (s.slackOf e.2)

/-- The group that is switched out first among some: the lowest class, then the most slack (R318). -/
def victim? (s : State) (among : Nat → Bool) : Option Nat :=
  ((List.range 64).filter fun c => s.canSwitch c && among c).foldl (fun best c =>
    match best with
    | none => some c
    | some b =>
      if s.groupClass c < s.groupClass b || (s.groupClass c == s.groupClass b && decide (s.groupSlack b < s.groupSlack c))
      then some c else some b) none

/-- The opportunistic launches that will hold their cores at a time: those of groups that do not stop before. -/
def opportunisticLaunches (s : State) (t : Nat) : List Launch :=
  (s.launches.filter fun e =>
    let g := s.group (s.colourOf e.2.region)
    holdsResources e.2 && !s.isGuaranteed e.2.region &&
      (g.phase == .running || g.resume.isSome || (g.phase == .notified && decide (t < g.time)))).map Prod.snd

/-- Cores that opportunistic launches will hold at a time. -/
def opportunisticAt (s : State) (t : Nat) : Nat := (s.opportunisticLaunches t).foldl (fun n l => n + l.cores.length) 0

/-- A launch that waits in a queue to be taken, or for its batch's commit. -/
def waitingLaunch? (s : State) (key : Nat) : Option Launch :=
  let mine : Effect → Option Launch
    | .admission l => if launchKey l.region l.seq = key then some l else none
    | _ => none
  s.queues.findSome? fun q => (q.2.members.map Prod.snd ++ q.2.effects.flatMap Prod.snd).findSome? mine

/-- The particular cores that a window needs: those of its launch's rectangle (R304, R318). -/
def windowCores (s : State) (w : Window) : List Nat :=
  match (s.launch? w.1).or (s.waitingLaunch? w.1) with
  | some l => if l.spec.place = 3 then s.rectCores l.spec.rect else []
  | none => []

/-- A group holds a core of some. -/
def groupHolds (s : State) (need : List Nat) (colour : Nat) : Bool := (s.groupCores colour).any need.contains

/-- Groups are switched out, at 30 µs before a window opens, until it finds its cores: those that it needs, and enough of them
(R318). -/
def switchFor (s : State) (start : Nat) (need : List Nat) : Nat → State
  | 0 => s
  | fuel + 1 =>
    let held := (s.opportunisticLaunches start).any fun l => l.cores.any need.contains
    if !held && decide (heldAt s.reservations start + s.opportunisticAt start ≤ s.userCount) then s
    else
      match s.victim? fun c => !held || s.groupHolds need c with
      | some c => switchFor (s.notify c (start - 30000) false) start need fuel
      | none => s

/-- The switches that the windows of the reservation tables need (R318). -/
def switchForWindows (s : State) : State :=
  (s.reservations.filter fun w => decide (s.now < w.2.2.1)).foldl (fun t w => t.switchFor w.2.2.1 (s.windowCores w) 64) s

end State

/-! ## Shapes of a placement (R304, R382) -/

/-- A strictly rising list. -/
def rising : List Nat → Bool
  | [] | [_] => true
  | x :: y :: t => decide (x < y) && rising (y :: t)

namespace State

/-- A core that a placement may take: a user core that has not been retired and that no launch occupies. -/
def placeable (s : State) (pcn : Nat) : Bool := s.isUser pcn && !s.countsFused pcn && s.coreFree pcn

/-- Free cores of a list of positions. -/
def freeOf (s : State) (pcns : List Nat) : List Nat := pcns.filter s.placeable

/-- Cores chosen for a launch keep within the bounds of R382. -/
def shapeOk (s : State) (l : LaunchRec) (cores : List Nat) : Bool :=
  let used := (cores.map clusterOf).eraseDups
  let full (c : Nat) : Bool := ((List.range 8).map (coreInCluster c)).all fun p => cores.contains p || !s.placeable p
  match l.place with
  | 0 => decide ((used.filter fun c => !full c).length ≤ 1)
  | 1 => used.length == min l.n ((s.freeOf s.lmap).map clusterOf).eraseDups.length
  | 3 => cores == s.rectCores l.rect
  | _ => true

/-- Every budget holds the launch at every level (R300, R315). -/
def budgetsAllow (s : State) (l : Launch) : Bool :=
  let x := l.spec
  s.budgetAllows l.region 0 Region.cores (fun r => s.usage r fun y => y.cores.length) (coreCount x) &&
    s.budgetAllows l.region 1 Region.slots (fun r => s.usage r fun y => y.spec.n) x.n &&
    s.budgetAllows l.region 2 Region.kib (fun r => s.usage r fun y => launchKib y.spec) (launchKib x) &&
    s.budgetAllows l.region 4 Region.arb s.arbUsage l.descs.length

/-- The cores serve for a launch: enough of them, free, in rising order, and in its shape (R315 step 1, R382). -/
def coresOk (s : State) (l : Launch) (cores : List Nat) : Bool :=
  rising cores && cores.all s.placeable && cores.length == coreCount l.spec && s.shapeOk l.spec cores && s.budgetsAllow l

/-! ## Decisions (R316) -/

/-- A launch is ready to be placed: its tags have been posted (R314), its region's group runs, and it is not past D − W. -/
def launchReady (s : State) (l : Launch) : Bool :=
  l.phase == .admitted && l.waiting.isEmpty && s.colourRuns (some (s.colourOf l.region)) && inTime s l

/-- Its window has opened: its placement is no decision (R316). -/
def windowOpen (s : State) (l : Launch) : Bool :=
  match l.window with
  | some st => decide (st ≤ s.now)
  | none => false

/-- Cores that some window needs within the next 60 µs (R316). -/
def neededSoon (s : State) : List Nat :=
  (s.reservations.filter fun w => decide (w.2.2.1 ≤ s.now + 60000) && decide (s.now < w.2.2.2.1)).flatMap s.windowCores

/-- Cores that no window needs within the next 60 µs leave room for c more opportunistic ones (R316). -/
def opportunisticRoom (s : State) (c : Nat) : Bool :=
  (s.now :: (s.reservations.map fun w => w.2.2.1).filter fun t => decide (s.now < t) && decide (t ≤ s.now + 60000)).all fun t =>
    decide (heldAt s.reservations t + s.opportunisticAt t + c ≤ s.userCount)

/-- An opportunistic launch may take some cores: no window needs them within the next 60 µs (R316). -/
def opportunisticMay (s : State) (cores : List Nat) : Bool :=
  s.opportunisticRoom cores.length && !cores.any s.neededSoon.contains

/-- A guaranteed launch's window may move to [now, D] (R316). -/
def mayMoveUp (s : State) (key : Nat) (l : Launch) : Bool :=
  windowFits ((s.windowsOf l.region).filter fun w => w.1 != key) (coreCount l.spec) (s.guaranteedNow l.region) s.now
    l.spec.deadline

/-- The table and the windows allow a decision to place a launch on some cores now (R316). -/
def decisionAllowed (s : State) (key : Nat) (l : Launch) (cores : List Nat) : Bool :=
  if s.isGuaranteed l.region then s.mayMoveUp key l else s.opportunisticMay cores

/-- Free cores that a decision to place a launch may choose from (R316). -/
def choice (s : State) (l : Launch) : List Nat :=
  let soon := s.neededSoon
  (s.freeOf s.lmap).filter fun p => s.isGuaranteed l.region || !soon.contains p

/-- A ready launch fits, with a core of the die among those that it may take (R316). -/
def fitsOn (s : State) (die key : Nat) (l : Launch) : Bool :=
  let may := s.choice l
  s.budgetsAllow l && may.any (fun p => dieOf p == die) &&
    if l.spec.place = 3 then
      let cores := s.rectCores l.spec.rect
      cores.all may.contains && cores.any (fun p => dieOf p == die) && s.decisionAllowed key l cores
    else decide (coreCount l.spec ≤ may.length) && s.decisionAllowed key l (may.take (coreCount l.spec))

/-- A launch comes before another: less slack, then the higher class, then the lower sequence number (R316). -/
def comesBefore (s : State) (a b : Launch) : Bool :=
  decide (s.slackOf a < s.slackOf b) || (s.slackOf a == s.slackOf b &&
    (decide (s.prioOf b.region < s.prioOf a.region) || (s.prioOf a.region == s.prioOf b.region && decide (a.seq < b.seq))))

/-- Launches whose placement would be a decision. -/
def candidates (s : State) : List (Nat × Launch) := s.launches.filter fun e => s.launchReady e.2 && !s.windowOpen e.2

/-- A die's placement unit decides for a launch: in least-slack order among those that fit; every 64th decision goes to the
launch that has waited longest (R316). -/
def dieDecides (s : State) (die key : Nat) (l : Launch) : Bool :=
  let others := s.candidates.filter fun e => e.1 != key
  if tableGet 0 die s.dieDecisions % 64 = 63 then
    others.all fun e => decide (l.validated < e.2.validated) || (l.validated == e.2.validated && decide (l.seq ≤ e.2.seq))
  else others.all fun e => !(s.fitsOn die e.1 e.2 && s.comesBefore e.2 l)

/-- Dies of some cores. -/
def diesOf (cores : List Nat) : List Nat := (cores.map dieOf).eraseDups

/-- A decision is counted on every die of the launch's cores. -/
def countDecision (s : State) (cores : List Nat) : State :=
  (diesOf cores).foldl (fun t d => { t with dieDecisions := tablePut d (tableGet 0 d t.dieDecisions + 1) t.dieDecisions }) s

/-- A guaranteed launch's window moves to [now, D] (R316). -/
def moveWindow (s : State) (key : Nat) (l : Launch) : State :=
  if l.window.isSome then
    { s with
      reservations := s.reservations.map fun w => if w.1 = key then (w.1, w.2.1, s.now, w.2.2.2.1, w.2.2.2.2) else w
      launches := tablePut key { l with phase := .chosen, window := some s.now } s.launches }
  else s.setLaunch key { l with phase := .chosen }

/-- A ready opportunistic launch needs cores of a group: its rectangle's, or, when too few are left for it, any (R318). -/
def needsCoresOf (s : State) (l : Launch) (colour : Nat) : Bool :=
  if l.spec.place = 3 then s.groupHolds (s.rectCores l.spec.rect) colour
  else decide ((s.choice l).length < coreCount l.spec) || !s.opportunisticRoom (coreCount l.spec)

/-- A group of a strictly lower class is switched out for a ready opportunistic launch that needs its cores, at least 20 µs
ahead (R318). -/
def switchForLaunch (s : State) (l : Launch) (time : Nat) : State :=
  if !s.isGuaranteed l.region && s.now + 20000 ≤ time then
    match s.victim? fun c => decide (s.groupClass c < s.prioOf l.region) && s.needsCoresOf l c with
    | some c => s.notify c time false
    | none => s
  else s

end State

/-- PLACEMENT_DECISION (R316): a placement unit decides to place a launch on some cores; where the launch needs cores that a
group of a lower class holds, it decides to switch that out at `time` (R318). -/
def execPlacementDecision (die launch time : Nat) (cores : List Nat) (s : State) : Res :=
  match s.launch? launch with
  | some l =>
    if !(s.launchReady l && !s.windowOpen l && s.dieDecides die launch l) then .next s
    else if s.coresOk l cores && s.decisionAllowed launch l cores && (State.diesOf cores).contains die &&
        (State.diesOf cores).all (fun d => s.dieDecides d launch l) then
      .next ((s.moveWindow launch l).countDecision cores)
    else .next (s.switchForLaunch l time)
  | none => .next s

/-- WINDOW_OPEN (R316): a ready launch of a guaranteed region whose window has opened is placed at once. -/
def execWindowOpen (launch : Nat) (s : State) : Res :=
  match s.launch? launch with
  | some l => if s.launchReady l && s.windowOpen l then .next (s.setLaunch launch { l with phase := .chosen }) else .next s
  | none => .next s

/-! ## Loading (R28 to R33, R77, R315) -/

/-- The context in which each rank starts: ascending cores, each filled to its share, in slots from 1 up (R304, R382). -/
def rankPlaces (l : LaunchRec) (cores : List Nat) : List Nat :=
  (List.range l.n).map fun i => cores.getD (i / perCore l) 0 * 16 + 1 + i % perCore l

/-- The rank table (R33). -/
def rankTableBytes (l : Launch) : List Byte :=
  l.ranks.flatMap fun tid =>
    bytesOfNat 4 (coreOfTid tid + slotOfTid tid * 2 ^ 12 + l.lmap.findIdx (· == coreOfTid tid) % 2 ^ 12 * 2 ^ 16)

/-- Bytes written from an offset of a local store up; none past its end. -/
def putLocal (pcn off : Nat) (bs : List Byte) (m : Mem) : Mem := memWrite (localKey pcn off) (bs.take (0x20000 - off)) m

namespace State

/-- Cores are zeroed: their local stores, accumulators and vector windows (R315, R321). -/
def zeroCores (cores : List Nat) (m : Mem) : Mem :=
  cores.foldl (fun m p => memZero (localKey p 0) 0x20000 (memZero (accKey p 0) 8192 (memZero (vecKey p 0) 8192 m))) m

/-- The image, with `ranks=all` resolved, and the rank table are written into each core, and each core's spill ring takes its
size and is empty (R28, R33, R139, R315). What an earlier launch left in the local store is zero before, so that no result hangs on
where a launch is placed (R23; notes/assumptions/54.md). -/
def loadImage (s : State) (l : Launch) (image : List Byte) : State :=
  let resolved := l.descs.map fun off => (off, resolveAll l.spec.n (descriptorAt image off))
  l.cores.foldl (fun t pcn =>
    let m1 := putLocal pcn 0 image (memZero (localKey pcn 0) 0x20000 t.mem)
    let m2 := resolved.foldl (fun m d => putLocal pcn d.1 d.2 m) m1
    let m3 := match l.spec.rankTab with
      | some off => putLocal pcn off (rankTableBytes l) m2
      | none => m2
    (t.setMem m3).modCore pcn fun k => { k with spillSize := spillEntries l.spec, spillTail := 0, spoiled := false }) s

/-- The image travels to each core in bulk packets of at most 4 KiB, which have arrived when the launch commits (R315, R341). -/
def postImage (s : State) (key : Nat) (l : Launch) : State :=
  let port := s.portRouter ((translate? s.mem (s.rootOf l.region) l.spec.image).getD 0)
  l.cores.foldl (fun t pcn => (List.range ((l.spec.imageLen + 4095) / 4096)).foldl (fun t _ =>
    t.postBulk port pcn (some (s.colourOf l.region)) (bulkOfLoad key)) t) s

/-- The home of an event that a launch creates: the home core of its lowest-ranked participant (R77). -/
def launchHome (d : Descriptor) : Nat := ((d.parties.head?).map fun q => coreOfTid q.2.1).getD 0

/-- The destroy of a region's queue ends when its last launch has: its record is written last, and the queue is freed
(R317). -/
def finishDestroy (s : State) (r : Nat) : State :=
  let q := tableGet Queue.none r s.queues
  match q.closing with
  | none => s
  | some (_, record, seq) =>
    if s.launches.any fun e => e.2.region == r && e.2.phase != .ended then s
    else
      let s1 := s.writeRecordAt r record (s.completionRecord (unplaced r seq) 0 0 0 (BitVec.allOnes 64) 0)
      { s1.modRegion r fun x => { x with queueEntries := 0 } with queues := tableDrop r s1.queues }

/-- What the creation of a launch's events comes to. -/
inductive Loaded where
  | done (s : State)
  /-- An entry is not available: the placement rolls back. -/
  | wait
  /-- A descriptor is invalid: the launch is refused with reason 10. -/
  | invalid
deriving DecidableEq, Repr

/-- The events of the image's `at=launch` descriptors are created, and their handles written into every copy (R30, R77). -/
def createEvents (s : State) (key : Nat) (l : Launch) (image : List Byte) : List Nat → Loaded
  | [] => .done s
  | off :: rest =>
    match (if descriptorPlaced l.spec off then parseDescriptor s l (resolveAll l.spec.n (descriptorAt image off)) else none) with
    | none => .invalid
    | some d =>
      let pcn := launchHome d
      match s.freeEntry? pcn with
      | none => .wait
      | some i =>
        let s1 := s.createEvent pcn i d (s.spaceOf l.region) key
        let h := s1.handleOf pcn i (s1.entry pcn i)
        createEvents (s1.setMem (l.cores.foldl (fun m c => putLocal c off (bytesOfNat 4 h) m) s1.mem)) key l image rest

/-- A placement rolls back: the launch takes a phase without cores, and the partly loaded cores are zeroed (R315). -/
def rollBack (s : State) (key : Nat) (l : Launch) (cores : List Nat) : State :=
  (s.setLaunch key { l with phase := .admitted, cores := [], events := [], ranks := [] }).setMem (zeroCores cores s.mem)

/-- Placement's steps 1 and 2 (R315), for a launch whose image is resident. -/
def place (s : State) (key : Nat) (l : Launch) (cores : List Nat) (image : List Byte) : State :=
  let l1 : Launch := { l with phase := .loaded, cores := cores, ranks := rankPlaces l.spec cores, lmap := s.lmap }
  let s1 := (s.setLaunch key l1).loadImage l1 image
  match s1.createEvents key l1 image l1.descs with
  | .done t => t.postImage key l1
  | .wait => s.rollBack key l cores
  | .invalid => ((s.rollBack key l cores).endUnplaced key l 4 10).finishDestroy l.region

end State

/-- PLACEMENT (R315 steps 1 and 2), before D − W: it takes the logical map without the cores that have been retired since (R15).
A copy unit reads the image, so a page of it that is not resident is asked of a pager (R335). -/
def execPlacement (launch : Nat) (cores : List Nat) (s : State) : Res :=
  match s.launch? launch with
  | some l =>
    if l.phase ≠ .chosen || !inTime s l then .next s
    else
      let s1 := s.refreshMap
      match s1.readLines (s1.rootOf l.region) l.spec.image (l.spec.imageLen / 64) with
      | none => .next (s.frontPages l.region (State.pagesOf l.spec.image l.spec.imageLen false)).2
      | some image =>
        if s1.coresOk l cores then .next (s1.place launch l cores image)
        else .next (s.setLaunch launch { l with phase := .admitted })
  | none => .next s

/-! ## Commit (R29, R118, R294, R315) -/

/-- CKRING of the k-th of n processes on a core (R294, R305). -/
def ckringOf (l : LaunchRec) (n k : Nat) : Word :=
  if l.timed then BitVec.ofNat 64 (ringOffset l n k % 2 ^ 17 + l.ckpt * 2 ^ 20) else 0

/-- JRING of the k-th of n processes on a core (R294, R305). -/
def jringOf (l : LaunchRec) (n k : Nat) : Word :=
  if l.timed then BitVec.ofNat 64 (journalOffset l n k % 2 ^ 17 + l.journal * 2 ^ 32) else 0

/-- The key of a process of a launch. -/
def procKey (launch rank : Nat) : Nat := 2 * (launch * 4096 + rank)

/-- A process at its entry (R29, R118, R294). -/
def entryCtx (key : Nat) (l : Launch) (rank tid : Nat) : Ctx :=
  let n := procsOnCore l.spec (rank / perCore l.spec)
  let k := procIndex l.spec rank
  { Ctx.empty with
    status := .ready, proc := procKey key rank, home := tid
    pc := BitVec.ofNat 64 l.spec.entry, pw := 1
    regs := entryRegs l.spec rank (Vector.replicate 32 0)
    srng := BitVec.ofNat 32 (0x2545F491 ^^^ (rank * 2 ^ 12))
    ckring := ckringOf l.spec n k, jring := jringOf l.spec n k }

namespace State

/-- A process of a launch is created in its slot. -/
def startProcess (s : State) (key : Nat) (l : Launch) (rank tid : Nat) : State :=
  ((s.emptySlot tid).setCtx tid (entryCtx key l rank tid)).setProc (procKey key rank)
    { launch := some key, rank := rank, home := tid, lvt := l.spec.lvt, spawnLimit := l.spec.spawn, live := 0
      ended := false, occs := [], sent := [], careful := false }

/-- Every die of a launch is at or above its frequency class (R313). -/
def diesReady (s : State) (l : Launch) : Bool :=
  (diesOf l.cores).all fun d => decide (l.spec.freq ≤ tableGet 0 d s.dieFreq)

/-- Step 3 (R315): every process starts at one device time. -/
def commitLaunch (s : State) (key : Nat) (l : Launch) : State :=
  let s1 := s.setLaunch key { l with phase := .running, committed := s.now, lastRound := s.now }
  let s2 := l.ranks.zipIdx.foldl (fun t x => t.startProcess key l x.2 x.1) s1
  if s.isGuaranteed l.region then s2 else s2.switchForWindows

end State

/-- PLACEMENT_COMMIT (R315 step 3, R312, R313), before D − W and while the launch's colour group runs. -/
def execPlacementCommit (launch : Nat) (s : State) : Res :=
  match s.launch? launch with
  | some l =>
    if l.phase = .loaded && s.diesReady l && inTime s l && s.colourRuns (some (s.colourOf l.region)) then
      .next (s.commitLaunch launch l).sweepBulk
    else .next s
  | none => .next s

/-! ## Operating points (R313, R368) -/

/-- Predicted power of a die at an operating point (R368). -/
def diePower (f : Nat) : Nat :=
  match f with
  | 0 => 180
  | 1 => 260
  | 2 => 400
  | _ => 470

namespace State

/-- The class that the launches placed on a die, or being placed, need (R313). -/
def neededPoint (s : State) (die : Nat) : Nat :=
  (s.launches.filter fun e => s.occupies e.2 && (diesOf e.2.cores).contains die).foldl (fun m e => max m e.2.spec.freq) 0

/-- Predicted module power with one die at another point (R368). -/
def predictedPower (s : State) (die f : Nat) : Nat :=
  200 + ((List.range 4).map fun d => diePower (if d = die then f else tableGet 0 d s.dieFreq)).foldl (· + ·) 0

end State

/-- OPERATING_POINT_CHANGE (R313, R368): a die takes the point that its launches need; a rise that would break the power
limit is not made. -/
def execOperatingPointChange (die : Nat) (s : State) : Res :=
  let need := s.neededPoint die
  let f := tableGet 0 die s.dieFreq
  if die < 4 && (decide (need < f) || (decide (f < need) && decide (s.predictedPower die need ≤ s.pwrlim))) then
    .next { s with dieFreq := tablePut die need s.dieFreq }
  else .next s

/-! ## The end of a launch (R39, R77, R110, R312) -/

namespace State

/-- A stream's latch buffer that is Filling goes Empty with its stream (R233). -/
def dropFilling (l : Latch) : Latch := if l.state = .filling then .none else l

/-- The resources of a launch are released (R53, R77, R293, R315): its events are freed, its slots emptied, and its cores
are free. -/
def release (s : State) (key : Nat) (l : Launch) : State :=
  let s1 := l.events.foldl (fun t x => t.freeEvent x.1 x.2) s
  let tids := (s1.ctxs.filter fun e => s1.ofLaunch key e.2).map Prod.fst
  let s2 := tids.foldl (fun t tid => t.emptySlot tid) s1
  { s2 with
    procs := s2.procs.filter fun e => e.2.launch != some key
    launches := tableDrop key s2.launches
    circuits := s2.circuits.filter fun c => !l.cores.contains c.1
    cores := tableMap (fun p k =>
      let k1 := { k with
        reductions := tableDrop key k.reductions
        gvtStages := k.gvtStages.filter fun g => g.launch != key }
      if l.cores.contains p then
        { k1 with idleSince := s.now, checked := false, latch0 := dropFilling k.latch0, latch1 := dropFilling k.latch1 }
      else k1) s2.cores }

/-- Nothing of a launch runs any more (R39, R110): no thread, job, batch or deferred action is left. -/
def launchOver (s : State) (key : Nat) : Bool :=
  (s.ctxs.all fun e => !s.ofLaunch key e.2) &&
    s.cores.all fun k => (k.2.mxQueue ++ k.2.cpQueue).all (fun j => j.launch != some key) &&
      k.2.deferred.all fun d => (s.proc d.proc).launch != some key

/-- A launch completes: normal, or wrapped with its mask and cut; its done tag is posted (R110, R306, R314). -/
def complete (s : State) (key : Nat) (l : Launch) : State :=
  let s1 := if l.diverted then s.writeRecord key l 1 0 0 l.mask l.wrapvt
    else s.writeRecord key l 0 0 0 (BitVec.allOnes 64) 0
  (((s1.release key l).postTag l.region l.spec.doneTag)).finishDestroy l.region

end State

/-- LAUNCH_COMPLETE (R110): of a launch whose threads have all ended and whose deferred actions are done; a launch that was
terminated has its record, and its resources are released. -/
def execLaunchComplete (launch : Nat) (s : State) : Res :=
  match s.launch? launch with
  | some l =>
    if l.phase = .ended then .next ((s.release launch l).finishDestroy l.region)
    else if State.launchHolds l && s.colourRuns (s.launchColour launch) && s.launchOver launch then
      .next (s.complete launch l)
    else .next s
  | none => .next s

namespace State

/-- What the load of a launch has brought is taken back: its events are freed, and its cores are zeroed (R315). Of a group that is
out the save area holds it. -/
def unload (s : State) (key : Nat) (l : Launch) : State :=
  let colour := s.colourOf l.region
  if (s.group colour).phase = .out then ((s.dropSaved colour l.cores).rollBack key l []).sweepBulk
  else ((l.events.foldl (fun t x => t.freeEvent x.1 x.2) s).rollBack key l l.cores).sweepBulk

/-- A launch that has not been placed ends; what its load has brought is taken back (R312, R315). -/
def expire (s : State) (key : Nat) (l : Launch) (status reason : Nat) : State :=
  let s1 := if l.phase = .loaded then s.unload key l else s
  (s1.endUnplaced key l status reason).finishDestroy l.region

end State

/-- LAUNCH_EXPIRE (R22, R312, R314): at D − W a launch that has not been placed, or a placed opportunistic launch whose group is
out. DESIGN CHOICE: a ready launch of a guaranteed region that could not be placed by then has status 6 too
(notes/assumptions/78.md). -/
def execLaunchExpire (launch : Nat) (s : State) : Res :=
  match s.launch? launch with
  | some l =>
    let g := s.group (s.colourOf l.region)
    if inTime s l || (g.frozen && g.phase == .stopped) then .next s
    else if !State.launchHolds l then .next (s.expire launch l 6 0)
    else if l.phase == .running && !s.isGuaranteed l.region && g.phase == .out then
      .next ((s.endLaunch launch 6 0 0).finishDestroy l.region)
    else .next s
  | none => .next s

end Sys2Proof.Machine
end

