-- ==== Sys2Proof/Machine/Commands.lean ====
section
/-!
DEFINITION. Command queues (19_regions_sched R307 to R310, R317, R325, R326; 22_host_security R353): the latching of
submissions, firmware's processing of each command kind, and the taking of effects.
-/

namespace Sys2Proof.Machine

/-! ## The header of a tagged send (R353) -/

/-- The body of a tagged send. -/
def sendBody (msg : List Byte) : List Byte := msg.drop 32

/-- A tagged send of a kind is well formed: its reserved fields are zero, and its body has the length that it names. A kind 4
send names the flow's tag as a kind 2 send does (DEDUCED). -/
def sendOk (kind : Nat) (msg : List Byte) : Bool :=
  let tagged := kind == 2 || kind == 3 || kind == 4
  decide (32 ≤ msg.length) && descNat msg 0 1 == kind && (if tagged then descNat msg 2 2 != 0 else descNat msg 2 2 == 0) &&
    descNat msg 4 4 == (sendBody msg).length && (kind == 2 || descNat msg 8 8 == 0) &&
    (kind == 2 || kind == 4 || descNat msg 16 8 == 0) && descNat msg 24 8 == 0

/-- A tagged send of another kind: it is not this one, and is answered as its own kind is (R353). -/
def otherKind (kind : Nat) (msg : List Byte) : Bool :=
  let k := descNat msg 0 1
  decide (32 ≤ msg.length) && k != kind && decide (1 ≤ k) && decide (k ≤ 5)

/-- Region of a tagged send. -/
def sendRegion (msg : List Byte) : Nat := descNat msg 1 1
/-- Tag of a tagged send. -/
def sendTag (msg : List Byte) : Nat := descNat msg 2 2

/-! ## Command entries (R307, R308) -/

/-- Bytes of a command from an offset up are zero. -/
def zeroFrom (bs : List Byte) (off : Nat) : Bool := (bs.drop off).all (· == 0)

/-- The reserved bytes and flags of a command are zero (R307, R308). -/
def commandOk (bs : List Byte) : Bool :=
  let kind := descNat bs 8 1
  let flags := descNat bs 9 1
  descNat bs 10 6 == 0 && (if kind = 4 then decide (flags < 2) else flags == 0) &&
    match kind with
    | 1 => zeroFrom bs 32
    | 2 => zeroFrom bs 16
    | 3 | 4 => zeroFrom bs 24
    | 5 | 6 => zeroFrom bs 26
    | 7 | 8 => descNat bs 16 8 == 0 && zeroFrom bs 32
    | _ => false

/-- A well-formed destroy command (R308, R317). -/
def isDestroy (bs : List Byte) : Bool := descNat bs 8 1 == 4 && commandOk bs

namespace State

/-- UET takes no tagged send for now, and answers with a retry code: while a wipe runs and in boot mode (R364, R371). -/
def portsClosed (s : State) : Bool := s.wiping || (s.bootMode && 4 ≤ s.phase)

/-- UET answers every tagged send with an error: a verification has failed (R370). -/
def portsDead (s : State) : Bool := s.phase == 3 && s.bootFailed

/-- A tagged send is answered without effect: an error or a retry; else it is taken. DEDUCED: it is answered with a retry code before
verification has ended, as it is in the wipe and in boot mode (R364, R371; notes/assumptions/84.md). -/
def takeSend (s : State) (sender kind : Nat) (msg : List Byte) (f : State → State) : State :=
  if s.portsDead then s.emit (.error sender)
  else if s.portsClosed then s.emit (.nack sender)
  else if s.phase ≤ 3 then s.emit (.nack sender)
  else if otherKind kind msg then s
  else if !sendOk kind msg then s.emit (.error sender)
  else f s

/-! ## Latching (R307, R309) -/

/-- A region's queue. -/
def queue (s : State) (r : Nat) : Queue := tableGet Queue.none r s.queues
/-- A region's queue changed. -/
def modQueue (s : State) (r : Nat) (f : Queue → Queue) : State := { s with queues := tablePut r (f (s.queue r)) s.queues }

/-- A word of a queue's header written. -/
def putQueueWord (s : State) (r off v : Nat) : State :=
  s.setMem (memPutNat (dpaBase + s.queueHeader r + off) 8 v s.mem)

/-- DPA of command s's entry (R307). -/
def entryDpa (s : State) (r seq : Nat) : Nat := (s.region r).queueBase + 64 * (seq % max 1 (s.region r).queueEntries)

/-- Command s is written into its entry, and LATCHED takes its number; a destroy shuts the queue behind it (R317). -/
def latchOne (s : State) (r seq : Nat) (bs : List Byte) : State :=
  let s1 := (s.setMem (memWrite (dpaBase + s.entryDpa r seq) bs s.mem)).putQueueWord r 0 seq
  if isDestroy bs then s1.modQueue r fun q => { q with shut := some seq } else s1

/-- LATCHED advances over every held submission that follows it without a gap (R309); none is latched after a destroy (R317). -/
def latchHeld (s : State) (r : Nat) : Nat → State
  | 0 => s
  | fuel + 1 =>
    match if (s.queue r).shut.isSome then none else (s.queue r).held.find? fun h => h.1 == s.latched r + 1 with
    | none => s
    | some h => latchHeld ((s.latchOne r h.1 h.2).modQueue r fun q => { q with held := q.held.filter fun x => x.1 != h.1 }) r fuel

/-- A submission for a queue (R309); one after a destroy is refused with a retry code (R317, R353). Between LATCHED + 1 and 64 past it, a submission is held (DEDUCED for LATCHED + 2,
which the rule's words leave between its cases). -/
def latch (s : State) (sender r seq : Nat) (bs : List Byte) : State :=
  let next := s.latched r + 1
  if seq < next then s.emit (.ack sender)
  else if (s.queue r).shut.isSome || (s.queue r).closing.isSome then s.emit (.nack sender)
  else if next + 64 < seq || s.taken r + (s.region r).queueEntries < seq then s.emit (.nack sender)
  else if seq = next then ((s.latchOne r seq bs).latchHeld r 65).emit (.ack sender)
  else if (s.queue r).held.any fun h => h.1 == seq then s.emit (.ack sender)
  else (s.modQueue r fun q => { q with held := q.held ++ [(seq, bs)] }).emit (.ack sender)

end State

/-- COMMAND_SUBMISSION (R309, R353, R317). -/
def execCommandSubmission (sender : Nat) (msg : List Byte) (s : State) : Res :=
  .next (s.takeSend sender 1 msg fun t =>
    let r := sendRegion msg
    let bs := sendBody msg
    if bs.length ≠ 64 || !t.hasQueue r then t.emit (.error sender)
    else t.latch sender r (descNat bs 0 8) bs)

/-! ## Firmware: the next command of a queue (R308 to R310) -/

namespace State

/-- The number of the command that firmware processes next: CURSOR + 1, or after the members of an open batch (R309). -/
def nextCommand (s : State) (r : Nat) : Nat :=
  match (s.queue r).batch with
  | some b => b + 1 + (s.queue r).members.length
  | none => s.cursor r + 1

/-- The command that firmware processes next, when it is latched, and firmware has written CURSOR for the one before (R309); none
follows a destroy (R317). -/
def command? (s : State) (r : Nat) : Option (Nat × List Byte) :=
  let n := s.nextCommand r
  if s.hasQueue r && !s.dead && n ≤ s.latched r && (s.queue r).effects.isEmpty && decide ((s.queue r).handed ≤ s.cursor r) &&
      (s.queue r).closing.isNone then
    some (n, memBytes s.mem (dpaBase + s.entryDpa r n) 64)
  else none

/-- An effect of the command with a number: a member of the open batch, or handed to the front end (R309, R310). -/
def yieldEffect (s : State) (r n : Nat) (e : Effect) : State :=
  s.modQueue r fun q =>
    match q.batch with
    | some _ => { q with members := q.members ++ [(n, e)] }
    | none => { q with effects := q.effects ++ [(n, [e])], handed := n }

/-- The record of a launch command, and its image, checked (R310): the launch, or the reason for which it is refused. -/
def checkRecord (s : State) (r n deadline : Nat) (descs : List Nat) (lrec image : List Byte) : Launch ⊕ Nat :=
  let x := recordOf lrec deadline
  let l := newLaunch r n x descs s.now
  match s.refusal? l lrec image with
  | some reason => .inr reason
  | none => .inl l

/-- A launch that has been checked: its admission, outside a batch (R311). A batch runs its admission at its commit. -/
def admitChecked (s : State) (r : Nat) (l : Launch) : Effect × State :=
  if (s.queue r).batch.isSome then (.admission l, s)
  else
    match s.admission? l with
    | some p => (.admission p.1, p.2)
    | none => (.refuse l.seq l.spec.record 5 0, s)

/-- What a launch command comes to (R310, R311): an admitted launch with its window, or a refusal, and the page of its record
pinned (R339); none while a page that it needs is not resident, which a pager is asked for. A page that the pager refuses has the
command refused with reason 1, without a record if it is the launch record's (notes/assumptions/82.md). -/
def validate (s : State) (r n : Nat) (bs : List Byte) (descs : List Nat) : Option Effect × State :=
  let va := descNat bs 16 8
  if !offchipLine va then (some (.refuse n 0 (if commandOk bs then 1 else 9) 0), s)
  else
    match s.frontPages r (pagesOf va 128 false) with
    | (.wait, s1) => (none, s1)
    | (.refused, s1) => (some (.refuse n 0 (if commandOk bs then 1 else 9) 0), s1)
    | (.ready, _) =>
      let lrec := (s.readLines (s.rootOf r) va 2).getD []
      let x := recordOf lrec (descNat bs 24 8)
      let record := if offchipLine x.record then [(x.record, true)] else []
      let image := if commandOk bs && recordOk lrec x then pagesOf x.image x.imageLen false else []
      match s.frontPages r (record ++ image) with
      | (.wait, s1) => (none, s1)
      | (.refused, s1) => (some (.refuse n x.record (if commandOk bs then 1 else 9) 0), s1)
      | (.ready, _) =>
        let s1 := if record.isEmpty then s else s.pinRecord r n x.record
        if !commandOk bs then (some (.refuse n x.record 9 0), s1)
        else if !recordOk lrec x then (some (.refuse n x.record 1 0), s1)
        else
          match s1.checkRecord r n (descNat bs 24 8) descs lrec ((s.readLines (s.rootOf r) x.image (x.imageLen / 64)).getD []) with
          | .inr reason => (some (.refuse n x.record reason 0), s1)
          | .inl l => let p := s1.admitChecked r l; (some p.1, p.2)

/-- A command whose kind no row of R308 names is refused with reason 9. -/
def knownKind (bs : List Byte) : Bool := decide (1 ≤ descNat bs 8 1) && decide (descNat bs 8 1 ≤ 8)

end State

/-- LAUNCH (R310, R311), and commands of no kind of R308, which are refused with reason 9. `descs` are the offsets of the
image's `at=launch` descriptors. -/
def execLaunch (region : Nat) (descs : List Nat) (s : State) : Res :=
  match s.command? region with
  | some (n, bs) =>
    if !State.knownKind bs then .next (s.yieldEffect region n (.refuse n 0 9 0))
    else if descNat bs 8 1 ≠ 1 then .next s
    else
      match s.validate region n bs descs with
      | (some e, s1) => .next (s1.yieldEffect region n e).switchForWindows
      | (none, s1) => .next s1
  | none => .next s

/-- BEGIN (R308, R310): it opens a batch; inside one, or malformed, it is refused with reason 9. -/
def execBegin (region : Nat) (s : State) : Res :=
  match s.command? region with
  | some (n, bs) =>
    if descNat bs 8 1 ≠ 2 then .next s
    else if commandOk bs && (s.queue region).batch.isNone then
      .next (s.modQueue region fun q => { q with batch := some n, members := [] })
    else .next (s.yieldEffect region n (.refuse n 0 9 0))
  | none => .next s

/-- The reason of a member that failed. -/
def failure? : Effect → Option Nat
  | .refuse _ _ reason _ => some reason
  | _ => none

namespace State

/-- Admission of a batch's launches, in order, each with the windows of those before it (R310, R311): the members with
their windows, or the place of the first that finds none. -/
def admitAllMembers (s : State) : List (Nat × Effect) → Nat → List Effect → (List Effect × State) ⊕ Nat
  | [], _, done => .inl (done, s)
  | (_, .admission l) :: rest, i, done =>
    match s.admission? l with
    | some p => admitAllMembers p.2 rest (i + 1) (done ++ [.admission p.1])
    | none => .inr i
  | (_, e) :: rest, i, done => admitAllMembers s rest (i + 1) (done ++ [e])

/-- The record address of a member, for a launch. -/
def memberRecord : Effect → Nat
  | .admission l => l.spec.record
  | .refuse _ record _ _ => record
  | _ => 0

/-- A batch in which member i fails with a reason: no member runs, and every record says so (R310). -/
def failBatch (members : List (Nat × Effect)) (i reason commit record : Nat) : List Effect :=
  (members.zipIdx.map fun x =>
    .refuse x.1.1 (memberRecord x.1.2) (if x.2 = i then reason else 8) i) ++ [.refuse commit record reason i]

/-- A batch at its commit (R310). -/
def commitBatch (s : State) (r n record : Nat) : State :=
  let q := s.queue r
  let failed := q.members.findIdx fun m => (failure? m.2).isSome
  let finish (t : State) (es : List Effect) : State :=
    t.modQueue r fun q => { q with batch := none, members := [], effects := q.effects ++ [(n, es)], handed := n }
  match q.members[failed]? with
  | some m => finish s (failBatch q.members failed ((failure? m.2).getD 9) n record)
  | none =>
    match s.admitAllMembers q.members 0 [] with
    | .inl p => (finish p.2 p.1).switchForWindows
    | .inr i => finish s (failBatch q.members i 5 n record)

end State

/-- COMMIT (R310): outside a batch, or malformed, it is refused with reason 9. -/
def execCommit (region : Nat) (s : State) : Res :=
  match s.command? region with
  | some (n, bs) =>
    let record := descNat bs 16 8
    if descNat bs 8 1 ≠ 3 then .next s
    else if (s.queue region).batch.isNone then .next (s.yieldEffect region n (.refuse n record 9 0))
    else if !commandOk bs then
      let q := s.queue region
      .next (s.modQueue region fun x =>
        { x with
          batch := none, members := [], effects := x.effects ++ [(n, State.failBatch q.members q.members.length 9 n record)]
          handed := n })
    else .next (s.commitBatch region n record)
  | none => .next s

/-- DESTROY (R317): a malformed one is refused with reason 9. One inside a batch takes effect with its commit, which is latched
after it. -/
def execDestroy (region : Nat) (s : State) : Res :=
  match s.command? region with
  | some (n, bs) =>
    let record := descNat bs 16 8
    if descNat bs 8 1 ≠ 4 then .next s
    else if commandOk bs then
      let s1 := if (s.queue region).batch.isSome then (s.modQueue region fun q => { q with shut := none }).latchHeld region 65 else s
      .next (s1.yieldEffect region n (.destroy (descNat bs 9 1 = 1) record))
    else .next (s.yieldEffect region n (.refuse n record 9 0))
  | none => .next s

namespace State

/-- A launch runs, and has a process with a rank that has not ended (R326). -/
def rankRuns (s : State) (key rank : Nat) : Bool :=
  match s.launch? key with
  | some l => launchHolds l && l.phase != .ended && decide (rank < l.spec.n) && !(s.proc (procKey key rank)).ended
  | none => false

/-- Firmware processes a halt-process or resume-process command (R326). -/
def processCommand (s : State) (r kind : Nat) (effect : Nat → Nat → Effect) : State :=
  match s.command? r with
  | some (n, bs) =>
    let key := launchKey r (descNat bs 16 8)
    let rank := descNat bs 24 2
    if descNat bs 8 1 ≠ kind then s
    else if commandOk bs && s.rankRuns key rank then s.yieldEffect r n (effect key rank)
    else s.yieldEffect r n (.refuse n 0 9 0)
  | none => s

/-- Firmware processes a freeze or thaw command: one of a region without the debug flag is refused with reason 9 (R325). -/
def freezeCommand (s : State) (r kind : Nat) (effect : Nat → Effect) : State :=
  match s.command? r with
  | some (n, bs) =>
    if descNat bs 8 1 ≠ kind then s
    else if commandOk bs && (s.region r).debug then s.yieldEffect r n (effect (descNat bs 24 8))
    else s.yieldEffect r n (.refuse n 0 9 0)
  | none => s

end State

/-- HALT_PROCESS (R326). -/
def execHaltProcess (region : Nat) (s : State) : Res := .next (s.processCommand region 5 .halt)
/-- RESUME_PROCESS (R326). -/
def execResumeProcess (region : Nat) (s : State) : Res := .next (s.processCommand region 6 .resume)
/-- FREEZE (R325). -/
def execFreeze (region : Nat) (s : State) : Res := .next (s.freezeCommand region 7 .freeze)
/-- THAW (R325). -/
def execThaw (region : Nat) (s : State) : Res := .next (s.freezeCommand region 8 .thaw)

/-! ## The front end takes an effect (R309, R317, R325, R326, R358) -/

/-- An effect admits a launch. -/
def admits : Effect → Bool
  | .admission _ => true
  | _ => false

/-- A context stands at an instruction boundary, so that it may stop there (R326). -/
def atBoundary (c : Ctx) : Bool :=
  c.trapping.isNone && (c.pfx.first.isNone || c.held.isSome) && c.wait != .access && c.wait != .msg && c.wait != .home &&
    c.wait != .mig && (c.wait != .drain || c.held.isSome)

namespace State

/-- The context in which a process runs, at home or away. -/
def contextOf? (s : State) (proc : Nat) : Option Nat :=
  ((s.ctxs.find? fun e => e.2.proc == proc && !e.2.spawned && (e.2.status == .ready || e.2.status == .waiting)).map Prod.fst)

/-- The offset from the master is so large that NOW is to be stepped (R358). -/
def stepPending (s : State) : Bool :=
  let o := s.timeOffset.toInt
  s.everLocked && !s.config.freeRun && (decide (1000000 ≤ o) || decide (o ≤ -1000000))

/-- The front end may take launch commands (R358). -/
def launchesTaken (s : State) : Bool := (s.config.freeRun || s.everLocked) && !s.stepPending

/-- The region's colour group is frozen: its commands are not taken, but for the thaw (R325). -/
def groupFrozen (s : State) (r : Nat) : Bool :=
  let g := s.group (s.colourOf r)
  g.frozen && g.phase == .stopped

/-- What an effect has to wait for. -/
def effectReady (s : State) (r : Nat) (e : Effect) : Bool :=
  match e with
  | .thaw _ => true
  | .destroy _ _ => !s.groupFrozen r && !(s.launches.any fun x => x.2.region == r && x.2.phase == .loaded)
  | .halt key rank =>
    !s.groupFrozen r && match s.contextOf? (procKey key rank) with
      | some tid => atBoundary (s.ctx tid)
      | none => !s.rankRuns key rank
  | .freeze _ => (s.group (s.colourOf r)).phase == .running
  | _ => !s.groupFrozen r

/-- An abort ends every launch of a queue (R317). -/
def abortAll (s : State) (r : Nat) : State :=
  (s.launches.filter fun e => e.2.region == r).foldl (fun t e =>
    if launchHolds e.2 then t.endLaunch e.1 5 0 0 else t.endUnplaced e.1 e.2 5 0) s

/-- A process is halted or let go on (R326); one whose image breaks the check of a resume stops with bad-status (R293). -/
def setHalted (s : State) (proc : Nat) (halted : Bool) : State :=
  match s.contextOf? proc with
  | some tid =>
    let s1 := s.modCtx tid fun c => { c with halted := halted }
    if !halted && badStatus (s1.ctx tid) then s1.stopContext tid causeBadStatus none else s1
  | none => s

/-- The launch that the front end takes (R303): it copies the record now, so a record that has changed since its validation is checked
again; the launch, or the reason for which it is refused. DESIGN CHOICE: when a page of it is no longer resident, the copy made at
validation stands (notes/assumptions/81.md). -/
def copyRecord (s : State) (r : Nat) (l : Launch) : Launch ⊕ Nat :=
  let va := dpaNat s.mem (s.entryDpa r l.seq + 16) 8
  match s.readLines (s.rootOf r) va 2 with
  | none => .inl l
  | some lrec =>
    let x := recordOf lrec l.spec.deadline
    if recordOk lrec x && x == l.spec then .inl l
    else if !recordOk lrec x then .inr 1
    else
      match s.readLines (s.rootOf r) x.image (x.imageLen / 64), translate? s.mem (s.rootOf r) x.record with
      | some image, some _ => s.checkRecord r l.seq l.spec.deadline l.descs lrec image
      | _, _ => .inl l

/-- The front end takes an admitted launch (R303, R309): one whose record has changed takes a new window, or is refused. -/
def takeAdmission (s : State) (r : Nat) (l : Launch) : State :=
  match s.copyRecord r l with
  | .inr reason => ((s.dropWindows [launchKey r l.seq]).writeRefusal r l.seq l.spec.record reason 0)
  | .inl l' =>
    if l'.spec = l.spec then s.setLaunch (launchKey r l.seq) l
    else
      let s1 := (s.dropWindows [launchKey r l.seq]).pinRecord r l.seq l'.spec.record
      match s1.admission? l' with
      | some p => (p.2.setLaunch (launchKey r l.seq) p.1).switchForWindows
      | none => s1.writeRefusal r l.seq l'.spec.record 5 0

/-- An effect takes place. A thaw's time is at least 20 µs ahead (R323; notes/assumptions/79.md). -/
def applyEffect (s : State) (r n : Nat) (e : Effect) : State :=
  match e with
  | .admission l => s.takeAdmission r l
  | .refuse seq record reason index => s.writeRefusal r seq record reason index
  | .destroy abort record =>
    let s1 := s.modQueue r fun q => { q with closing := some (abort, record, n), held := [] }
    (if abort then s1.abortAll r else s1).finishDestroy r
  | .halt key rank => s.setHalted (procKey key rank) true
  | .resume key rank => s.setHalted (procKey key rank) false
  | .freeze time => s.notify (s.colourOf r) time true
  | .thaw time =>
    if (s.group (s.colourOf r)).frozen then
      s.modGroup (s.colourOf r) fun g => { g with resume := some (max time (s.now + 20000)) }
    else s
  | .nothing => s

/-- Keys of the launches that effects admit. -/
def admittedKeys (r : Nat) (es : List Effect) : List Nat :=
  es.filterMap fun e => match e with
    | .admission l => some (launchKey r l.seq)
    | .refuse seq _ _ _ => some (launchKey r seq)
    | _ => none

/-- The front end ignores an effect whose number it has taken already (R309): what its admission brought again is dropped. -/
def ignoreEffect (s : State) (r : Nat) (es : List Effect) : State :=
  let gone := (admittedKeys r es).filter fun k => (s.launch? k).isNone
  (s.dropWindows gone).unpinRecords gone

end State

/-- The effects come from a launch command, or from a batch that admits launches. -/
def State.fromLaunch (s : State) (r n : Nat) (es : List Effect) : Bool :=
  descNat (memBytes s.mem (dpaBase + s.entryDpa r n) 64) 8 1 == 1 || es.any admits

/-- EFFECT_TAKE (R309): the front end takes the effect that firmware has handed over, or ignores it when its number is not above
TAKEN; with none left, firmware writes CURSOR. -/
def execEffectTake (region : Nat) (s : State) : Res :=
  let q := s.queue region
  match q.effects with
  | (n, es) :: rest =>
    let s1 := s.modQueue region fun q => { q with effects := rest }
    if !s.hasQueue region || s.dead then .next s
    else if n ≤ s.taken region then .next (s1.ignoreEffect region es)
    else if es.all (s.effectReady region) && (!s.fromLaunch region n es || s.launchesTaken) then
      .next (es.foldl (fun t e => t.applyEffect region n e) (s1.putQueueWord region 16 n))
    else .next s
  | [] =>
    if s.hasQueue region && !s.dead && s.cursor region < q.handed && q.handed ≤ s.taken region then
      .next (s.putQueueWord region 8 q.handed)
    else .next s

end Sys2Proof.Machine
end

