-- ==== Sys2Proof/Machine/Float.lean ====
section
/-!
DEFINITION. Scalar floating point: arithmetic, compares, conversions and immediates (11_isa_vector_float R199, R200,
R203 to R208).
-/

namespace Sys2Proof.Machine

/-- The rounding mode of RMODE<2:0> (R115). A reserved value is never written by `crw`; it rounds to nearest. -/
def modeOfBits (b : BitVec 3) : RoundMode :=
  match b.toNat with
  | 1 => .zero
  | 2 => .down
  | 3 => .up
  | 4 => .stochastic
  | _ => .nearest

/-- The rounding mode of an instruction: its field, or RMODE (R200). -/
def State.mode (s : State) (r : Rm) : RoundMode :=
  match r with
  | .rn => .nearest
  | .rz => .zero
  | .rd => .down
  | .ru => .up
  | .rs => .stochastic
  | .dyn => if s.me.rmode.toNat ≤ 4 then modeOfBits s.me.rmode else Config.reservedMode s.me.rmode

/-- A result of type T as a general register holds it: signed integer types are sign-extended, the others
zero-extended (R199). -/
def asWord (t : Ty) (bits : Nat) : Word :=
  match t with
  | .i8 | .i16 | .i32 | .i64 | .i4 => BitVec.ofInt 64 (tyIntRead t bits)
  | _ => BitVec.ofNat 64 (bits % 2 ^ t.width)

/-- The value a register holds as a floating-point type (R199). -/
def State.fpValue (s : State) (t : FTy) (a : GReg) : Num := (ftyFmt t).value ((s.g a).toNat % 2 ^ (ftyFmt t).width)

/-- The end of a scalar floating-point instruction: the result, its flags and the generator (R200). -/
def State.writeFp (s : State) (d : GReg) (t : Ty) (r : FpResult) : Res :=
  .next (s.modMe fun c => ({ c.setG d (asWord t r.bits) with srng := r.srng }.raise r.flags).advance)

/-- R204 on the operands an instruction reads. -/
def State.arith (s : State) (d : GReg) (t : FTy) (r : Rm) (operands : List Num) (o : Outc) : Res :=
  s.writeFp d (ftyTy t) ((ftyFmt t).finish operands o (s.mode r) s.me.srng)

/-- `fadd` (R204). -/
def execFadd (d a b : GReg) (t : FTy) (r : Rm) (s : State) : Res :=
  s.arith d t r [s.fpValue t a, s.fpValue t b] (opAdd (s.mode r) (s.fpValue t a) (s.fpValue t b))

/-- `fsub` (R204). -/
def execFsub (d a b : GReg) (t : FTy) (r : Rm) (s : State) : Res :=
  s.arith d t r [s.fpValue t a, s.fpValue t b] (opAdd (s.mode r) (s.fpValue t a) (s.fpValue t b).negate)

/-- `fmul` (R204). -/
def execFmul (d a b : GReg) (t : FTy) (r : Rm) (s : State) : Res :=
  s.arith d t r [s.fpValue t a, s.fpValue t b] (opMul (s.fpValue t a) (s.fpValue t b))

/-- `fdiv` (R204). -/
def execFdiv (d a b : GReg) (t : FTy) (r : Rm) (s : State) : Res :=
  s.arith d t r [s.fpValue t a, s.fpValue t b] (opDiv (s.fpValue t a) (s.fpValue t b))

/-- `fsqrt` (R204). -/
def execFsqrt (d a : GReg) (t : FTy) (r : Rm) (s : State) : Res :=
  s.arith d t r [s.fpValue t a] (opSqrt (s.fpValue t a))

/-- `fmac`: z + x · y, fused; gD is also a source (R204). -/
def execFmac (d a b : GReg) (t : FTy) (r : Rm) (s : State) : Res :=
  s.arith d t r [s.fpValue t d, s.fpValue t a, s.fpValue t b]
    (opFma (s.mode r) (s.fpValue t d) (s.fpValue t a) (s.fpValue t b))

/-- The end of a form that never rounds (R205). -/
def State.writeFpPlain (s : State) (d : GReg) (t : FTy) (r : Nat × FlagSet) : Res :=
  s.writeFp d (ftyTy t) ⟨r.1, r.2, s.me.srng⟩

/-- The bits of a register that a floating-point type reads. -/
def State.fpBits (s : State) (t : FTy) (a : GReg) : Nat := (s.g a).toNat % 2 ^ (ftyFmt t).width

/-- `fmin` (R205). -/
def execFmin (d a b : GReg) (t : FTy) (s : State) : Res :=
  s.writeFpPlain d t ((ftyFmt t).minMax false (s.fpBits t a) (s.fpBits t b))

/-- `fmax` (R205). -/
def execFmax (d a b : GReg) (t : FTy) (s : State) : Res :=
  s.writeFpPlain d t ((ftyFmt t).minMax true (s.fpBits t a) (s.fpBits t b))

/-- `fabs` (R205). -/
def execFabs (d a : GReg) (t : FTy) (s : State) : Res := s.writeFpPlain d t ((ftyFmt t).signOp false (s.fpBits t a))

/-- `fneg` (R205). -/
def execFneg (d a : GReg) (t : FTy) (s : State) : Res := s.writeFpPlain d t ((ftyFmt t).signOp true (s.fpBits t a))

/-- A scalar compare: P[d] and the invalid flag (R206). -/
def State.fcmp (s : State) (c : Cond) (d : PReg) (a b : GReg) (t : FTy) : Res :=
  let x := s.fpValue t a
  let y := s.fpValue t b
  .next (s.modMe fun k => ((k.setP d (Num.cond c x y)).raise (Num.condFlags c x y)).advance)

/-- `fcmp.eq` (R206). -/
def execFcmpEq (d : PReg) (a b : GReg) (t : FTy) (s : State) : Res := s.fcmp .eq d a b t
/-- `fcmp.lt` (R206). -/
def execFcmpLt (d : PReg) (a b : GReg) (t : FTy) (s : State) : Res := s.fcmp .lt d a b t
/-- `fcmp.le` (R206). -/
def execFcmpLe (d : PReg) (a b : GReg) (t : FTy) (s : State) : Res := s.fcmp .le d a b t
/-- `fcmp.un` (R206). -/
def execFcmpUn (d : PReg) (a b : GReg) (t : FTy) (s : State) : Res := s.fcmp .un d a b t

/-- `cvt` (R207). -/
def execCvt (d a : GReg) (t src : Ty) (r : Rm) (s : State) : Res :=
  s.writeFp d t (convert t src ((s.g a).toNat % 2 ^ src.width) (s.mode r) s.me.srng)

/-- `fli`: no flag, and SRNG stays (R208). -/
def execFli (d : GReg) (t : Ty) (h : BitVec 16) (s : State) : Res := s.writeG d (asWord t (convertImm t h))

end Sys2Proof.Machine
end

