-- ==== Sys2Proof/Machine/Ports.lean ====
section
/-!
DEFINITION. The ports, device time and errors (22_host_security R351 to R368; 18_privileged R297; 21_network R343): the
tagged sends other than commands, RMA, PTP, uncorrectable errors, thermal trips, and the routers' load windows.
-/

namespace Sys2Proof.Machine

/-! ## Tagged sends (R353 to R355, R362) -/

namespace State

/-- A kind 2 or kind 4 send as a message of its flow: one of a region that is not live is dropped and counted (R354). -/
def takeEventSend (s : State) (sender kind : Nat) (msg : List Byte) : State :=
  let r := sendRegion msg
  if (s.region r).live then s.takeIngress r ⟨sender, sendTag msg, kind, descNat msg 8 8, descNat msg 16 8, sendBody msg⟩
  else s.dropIngress sender

end State

/-- EVENT_INGRESS (R354, R355). -/
def execEventIngress (sender : Nat) (msg : List Byte) (s : State) : Res :=
  .next (s.takeSend sender 2 msg fun t => t.takeEventSend sender 2 msg)

/-- TAG_POST (R314, R353). -/
def execTagPost (sender : Nat) (msg : List Byte) (s : State) : Res :=
  .next (s.takeSend sender 3 msg fun t =>
    if (sendBody msg).isEmpty && (t.region (sendRegion msg)).live then
      (t.postTag (sendRegion msg) (sendTag msg)).emit (.ack sender)
    else t.emit (.error sender))

/-- FLOOR_ONLY (R355). -/
def execFloorOnly (sender : Nat) (msg : List Byte) (s : State) : Res :=
  .next (s.takeSend sender 4 msg fun t =>
    if (sendBody msg).isEmpty then t.takeEventSend sender 4 msg else t.emit (.error sender))

namespace State

/-- SHA-384 of the firmware that runs (R362). -/
def firmwareHash (s : State) : List Byte := sha384 ((s.running.map fun i => i.firmware.bytes).getD [])

/-- SHA-384 of the configuration table (R362). -/
def tableHash (s : State) : List Byte := sha384 ((s.running.map fun i => i.table.bytes).getD [])

/-- The report that answers an attestation request (R362): the HSS key allows 2^20 of them. A device whose key pairs have not been
generated yet answers with an error (DEDUCED). Only the device has the keys, so the two signatures are a name. -/
def attest (s : State) (sender : Nat) (nonce : List Byte) : State :=
  if 2 ^ 20 ≤ s.fuses.reports || !s.fuses.deviceKeys then s.emit (.error sender)
  else
    let n := s.fuses.reports + 1
    let s1 : State := { s with fresh := s.fresh + 1, fuses := { s.fuses with reports := n } }
    s1.emit (.report sender nonce s.now (s.tstat + s.timeOffset.toNat * 2 ^ 32) s.lifecycle s.firmwareHash s.tableHash
      s.fuses.serial n (Config.attestation s.fresh))

end State

/-- ATTESTATION_REQUEST (R362): during a wipe it waits. -/
def execAttestationRequest (sender : Nat) (msg : List Byte) (s : State) : Res :=
  if s.wiping then .next s
  else
    .next (s.takeSend sender 5 msg fun t =>
      if (sendBody msg).length = 32 then t.attest sender (sendBody msg) else t.emit (.error sender))

/-! ## RMA (R352) -/

namespace State

/-- One byte written through a page table, with the dirty bit of its entry (R333). -/
def rmaPut (s : State) (root va : Nat) (b : Byte) : State :=
  match walk s.mem root (va % 2 ^ 48) with
  | .found e =>
    let m1 := if e.dirty then s.mem else memPutNat (dpaBase + e.loc + 8) 8 (dpaNat s.mem (e.loc + 8) 8 + 8) s.mem
    s.setMem (memPut (dpaBase + e.dpa (va % 2 ^ 48)) b m1)
  | _ => s

/-- Bytes written through a page table. -/
def rmaWrite (s : State) (root va : Nat) (bs : List Byte) : State :=
  bs.zipIdx.foldl (fun t x => t.rmaPut root (va + x.2) x.1) s

/-- An RMA is answered with an error: it asks for an operation, delivery mode or option that is not supported (any `mode` but 0), its
region is not live, or its bytes do not lie in the off-chip space outside the send window (R351, R352, R356). -/
def rmaRefused (s : State) (mode region va n : Nat) : Bool :=
  mode != 0 || !(s.region region).live || s.bootMode || decide (va < 0x1000000000000) || decide (0x1FF0000000000 < va + n)

/-- An RMA on some pages: it is served when they are all resident, and a pager is asked for those that are not (R352). -/
def rma (s : State) (sender mode region va n : Nat) (write : Bool) (f : State → State) : State :=
  if s.rmaRefused mode region va n then s.emit (.error sender)
  else
    match s.frontPages region (pagesOf va n write) with
    | (.ready, s1) => f s1
    | (.wait, s1) => s1
    | (.refused, s1) => s1.emit (.error sender)

/-- The bytes of an off-chip range, through a page table. -/
def rmaBytes (s : State) (root va len : Nat) : List Byte :=
  (List.range len).map fun k =>
    match translate? s.mem root (va + k) with
    | some d => memGet (dpaBase + d) s.mem
    | none => 0

end State

/-- RMA_WRITE (R351, R352): through the region's page table; it waits for pages that are not resident. -/
def execRmaWrite (request : RmaRequest) (region va : Nat) (bytes : List Byte) (s : State) : Res :=
  .next (s.rma request.sender request.mode region va bytes.length true fun t =>
    (t.rmaWrite (t.rootOf region) va bytes).emit (.ack request.sender))

/-- RMA_READ (R351, R352). -/
def execRmaRead (request : RmaRequest) (region va len : Nat) (s : State) : Res :=
  .next (s.rma request.sender request.mode region va len false fun t =>
    t.emit (.data request.sender (t.rmaBytes (t.rootOf region) va len)))

/-! ## Device time (R106, R357, R358) -/

namespace State

/-- No launch is placed. -/
def nonePlaced (s : State) : Bool := !s.launches.any fun e => State.holdsResources e.2

/-- A signed difference of times, as TSTAT's offset field holds it. -/
def offsetField (now time : Nat) : BitVec 32 :=
  let d : Int := (now : Int) - time
  if d < -(2 ^ 31) then BitVec.ofInt 32 (-(2 ^ 31)) else if 2 ^ 31 ≤ d then BitVec.ofInt 32 (2 ^ 31 - 1) else BitVec.ofInt 32 d

/-- NOW is stepped to the PTP time (R358). It never decreases (R106): while the PTP time lies behind it, NOW stays, and so does the
offset (notes/assumptions/51.md). -/
def stepTo (s : State) (time : Nat) : State :=
  let t := time % 2 ^ 64
  { s with now := max s.now t, timeOffset := offsetField (max s.now t) t }

end State

/-- PTP_MESSAGE (R357, R358): it measures the offset from the master's time, chooses a master, or locks. The first lock steps
NOW, unless the device runs free. A smaller offset is slewed: how NOW advances between steps is open (R106). -/
def execPtpMessage (time locked : Nat) (s : State) : Res :=
  let s1 := { s with timeOffset := State.offsetField s.now time }
  if locked = 1 then
    let s2 := { s1 with tstat := 2, everLocked := true }
    .next (if !s.everLocked && !s.config.freeRun && s.nonePlaced then s2.stepTo time else s2)
  else .next { s1 with tstat := if s.tstat = 2 then 2 else 1 }

/-- NOW_STEP (R358): an offset of 1 ms or more is stepped away while no launch is placed. -/
def execNowStep (time : Nat) (s : State) : Res :=
  if s.stepPending && s.nonePlaced then .next (s.stepTo time) else .next s

/-- MASTER_LOST (R357): from locked to holdover. -/
def execMasterLost (s : State) : Res :=
  if s.tstat = 2 then .next { s with tstat := 3, holdoverSince := s.now } else .next s

/-- HOLDOVER_EXPIRE (R357): holdover lasts at most 60 s. -/
def execHoldoverExpire (s : State) : Res :=
  if s.tstat = 3 && s.holdoverSince + 60000000000 ≤ s.now then .next { s with tstat := 4 } else .next s

/-! ## Uncorrectable errors (R297, R366, R368) -/

/-- What an error strikes. -/
inductive Struck where
  /-- Fault domains, and the core whose state it is. -/
  | domains (ds : List Nat) (pcn : Option Nat)
  /-- State that no region owns. -/
  | everything (pcn : Option Nat)
deriving DecidableEq, Repr

namespace State

/-- The fault domain of a core's state: that of the region whose launch owns it. -/
def struckCore (s : State) (pcn : Nat) : Struck :=
  match s.occupant? pcn with
  | some l => .domains [s.domainOf l.region] (some pcn)
  | none => .everything (some pcn)

/-- A DPA lies in the page table of a root. -/
def inTable (root d : Nat) : Bool :=
  root != 0 && decide (rootBase root ≤ d) && decide (d < rootBase root + 64 * 2 ^ rootBits root)

/-- A page table maps the frame of a DPA: some entry that is present does. -/
def mapsFrame (s : State) (root d : Nat) : Bool :=
  root != 0 && (List.range (4 * 2 ^ rootBits root)).any fun i =>
    let loc := rootBase root + 16 * i
    let tag := dpaNat s.mem loc 8
    let frame := dpaNat s.mem (loc + 8) 8
    let size := 2 ^ pageBits (tag / 2 % 2 == 1)
    tag % 2 == 1 && frame % 2 == 1 && frame / 2 ^ 16 % 2 ^ 32 * 2 ^ 16 / size == d / size

/-- The fault domains of a frame: of the regions whose page tables map it (R297). -/
def struckFrame (s : State) (d : Nat) : Struck :=
  let live := (s.regions.filter fun e => e.2.live).map Prod.fst
  if live.any fun r => inTable (s.rootOf r) d then .everything none
  else
    match ((live.filter fun r => s.mapsFrame (s.rootOf r) d).map s.domainOf).eraseDups with
    | [] => .everything none
    | ds => .domains ds none

/-- The fault domains of a packet in a core's router: of the regions of its colour (R297). -/
def struckPacket (s : State) (pcn : Nat) (p : Packet) : Struck :=
  match p.colour with
  | none => .everything (some pcn)
  | some c =>
    match ((s.groupLaunches c).map fun e => s.domainOf e.2.region).eraseDups with
    | [] => .everything (some pcn)
    | ds => .domains ds (some pcn)

/-- A launch stops with cause uncorrectable-error (R291, R297): one that is not placed has its record too. -/
def faultLaunch (s : State) (key pcn : Nat) (l : Launch) : State :=
  if launchHolds l then s.endLaunch key 3 causeUncorrectable pcn
  else
    let s1 := if l.phase = .loaded then s.unload key l else s
    let s2 := s1.writeRecord key l 3 causeUncorrectable pcn 0 0
    ({ s2 with launches := tableDrop key s2.launches } : State).finishDestroy l.region

/-- Every launch of some fault domains stops with cause uncorrectable-error (R291, R297). -/
def stopDomains (s : State) (hit : Nat → Bool) (pcn : Nat) : State :=
  (s.launches.filter fun e => hit (s.domainOf e.2.region) && e.2.phase != .ended).foldl (fun t e => t.faultLaunch e.1 pcn e.2) s

/-- An error is detected in a core's memory or router: it is counted, and the core is retired (R292, R366). -/
def countUncorrectable (s : State) (pcn : Nat) : State :=
  (s.modCore pcn fun k => { k with eccunc := bump k.eccunc }).retireCores [pcn]

/-- What an error stops (R297). -/
def strike (s : State) (x : Struck) (at' : Nat) : State :=
  match x with
  | .domains ds pcn =>
    let s1 := s.stopDomains ds.contains at'
    match pcn with
    | some p => s1.countUncorrectable p
    | none => s1
  | .everything pcn =>
    let s1 := { s.stopDomains (fun _ => true) at' with dead := true }
    match pcn with
    | some p => s1.countUncorrectable p
    | none => s1

/-- The contexts in which a thread stands. -/
def threadCtxs (s : State) (thread proc : Nat) : List Nat :=
  (s.ctxs.filter fun e => e.2.status != .empty && e.2.proc == proc && s.threadOf e.1 == thread).map Prod.fst

/-- The contexts of a core that belong to a launch: one of them meets an error in the core's state that no queued access meets, by
its fetch or its engines. -/
def launchedOn (s : State) (pcn : Nat) : List Nat :=
  (s.ctxs.filter fun e => coreOfTid e.1 == pcn && e.2.status != .empty && (s.launchOf e.1).isSome).map Prod.fst

/-- Jobs whose grant in motion holds a page of a frame. -/
def jobsOn (s : State) (d : Nat) : List Job :=
  (s.cores.flatMap fun k => k.2.cpQueue).filter fun j =>
    (match j.grant with | .reading _ _ | .writing _ _ => true | _ => false) &&
      j.held.any fun t => decide (t.frame ≤ d) && decide (d < t.frame + 2 ^ pageBits t.big)

/-- The contexts that meet an error at an address of memory (R297): the one whose access stands at the head of the bank's queue, or
the issuer of the job whose line stands there; for a frame the issuers of the copies that hold its page. -/
def meets (s : State) (key : Nat) : List Nat :=
  if dpaBase ≤ key then (s.jobsOn (key - dpaBase)).flatMap fun j => s.threadCtxs j.thread j.proc
  else
    match (s.bank (bankOf key)).head?.map QueuedPart.source with
    | some (.access tid _) => [tid]
    | some (.job pcn e id) =>
      (((s.core pcn).mxQueue ++ (s.core pcn).cpQueue).filter fun j => j.engine == e && j.id == id).flatMap fun j =>
        s.threadCtxs j.thread j.proc
    | none => s.launchedOn (ownerOfKey key)

/-- A context of no launch stops at an access that meets an error: none of its accesses is performed (R291, R297). -/
def stopAgent (s : State) (tid place : Nat) : State :=
  let theirs (q : QueuedPart) : Bool := match q.source with | .access t _ => t == tid | .job _ _ _ => false
  let s1 : State := { s with
    banks := tableMap (fun _ q => q.filter fun e => !theirs e) s.banks
    cores := tableMap (fun _ k =>
      { k with handler := k.handler.filter fun h => match h with | .access q => !theirs q | .message _ => true }) s.cores }
  (s1.modCtx tid fun c => { c with port := none, relaxed := [] }).stopContext tid causeUncorrectable (some (BitVec.ofNat 64 place))

/-- XADDR of the contexts that have stopped at an error takes its physical location (R297). -/
def stopMet (s : State) (tids : List Nat) (place : Nat) : State :=
  tids.foldl (fun t tid =>
    if (t.ctx tid).status = .empty then t
    else if (t.launchOf tid).isNone then t.stopAgent tid place
    else if (t.ctx tid).status = .stopped then t.modCtx tid fun c => { c with xaddr := BitVec.ofNat 64 place }
    else t) s

/-- The physical location of an error in a core's state: an address of its control page (R297). -/
def corePlace (s : State) (pcn : Nat) : Nat := 0x400000000 + pcn * 2 ^ 15 + Config.errorOffset s.fresh % 2 ^ 15

/-- An error at an address of memory (R297). -/
def errorAt (s : State) (key : Nat) : State :=
  let core := decide (key < 0x400000000)
  let tids := s.meets key
  let pcn := ((tids.head?).map coreOfTid).getD (if core then ownerOfKey key else 0)
  let place := if core then s.corePlace (ownerOfKey key) else key - dpaBase
  let s1 : State := { s with fresh := s.fresh + 1 }
  let s2 := (s1.strike (if core then s.struckCore (ownerOfKey key) else s.struckFrame (key - dpaBase)) pcn).stopMet tids place
  if core then s2 else s2.retireFrame ((key - dpaBase) / 2 ^ 16)

/-- An error in the router or the latch buffers of a core (R297): the core's contexts that it stops have its location. -/
def errorIn (s : State) (x : Struck) (pcn : Nat) : State :=
  let s1 : State := { s with fresh := s.fresh + 1 }
  (s1.strike x pcn).stopMet (s.launchedOn pcn) (s.corePlace pcn)

end State

/-- UNCORRECTABLE_ERROR (R297): `kind` 0 strikes memory at the address `at'` of `Mem`, 1 the router buffer that holds packet
`at'`, 2 the latch buffers of core `at'`, and any other kind state that no region owns. -/
def execUncorrectableError (kind at' : Nat) (s : State) : Res :=
  match kind with
  | 0 =>
    if at' < 0x400000000 || (dpaBase ≤ at' && dpaMapped (at' - dpaBase)) then .next (s.errorAt at') else .next s
  | 1 =>
    match s.net[at']? with
    | some p =>
      let pcn := s.packetAt at' p
      .next (({ s with net := listDrop at' s.net } : State).errorIn (s.struckPacket pcn p) pcn)
    | none => .next s
  | 2 => if at' < 4096 then .next (s.errorIn (s.struckCore at') at') else .next s
  | _ => .next (s.strike (.everything none) 0)

/-- THERMAL_TRIP (R368): every fault domain stops, and the device requires a reset. -/
def execThermalTrip (s : State) : Res := .next (s.strike (.everything none) 0)

/-! ## Load windows (R343, R344) -/

/-- The mesh outputs of a router that exist, with the count of each: north, east, south, west (R340). -/
def outputs (pcn north east south west : Nat) : List Nat :=
  (if packageY pcn < 63 then [north] else []) ++ (if packageX pcn < 63 then [east] else []) ++
    (if 0 < packageY pcn then [south] else []) ++ (if 0 < packageX pcn then [west] else [])

/-- The largest count minus the smallest (R343). -/
def imbalanceOf (counts : List Nat) : Nat :=
  counts.foldl max 0 - ((leastList counts).getD 0)

/-- LOAD_WINDOW_END (R343, R344): the counts of the window that ends, which a link's rate bounds by 1,024 (R340); an output that
does not exist counts none. -/
def execLoadWindowEnd (pcn north east south west : Nat) (s : State) : Res :=
  let counts := outputs pcn north east south west
  let at' (there : Bool) (n : Nat) : Nat := if there then n else 0
  if pcn < 4096 && [north, east, south, west].all (fun n => decide (n ≤ 1024)) && (s.core pcn).cyc % 1024 = 0 then
    .next (s.modCore pcn fun k =>
      { k with
        rload := BitVec.ofNat 64 (at' (packageY pcn < 63) north + at' (packageX pcn < 63) east * 2 ^ 16 +
          at' (0 < packageY pcn) south * 2 ^ 32 + at' (0 < packageX pcn) west * 2 ^ 48)
        imbalance := imbalanceOf counts })
  else .next s

end Sys2Proof.Machine
end

