-- ==== Sys2Proof/Machine/Gang.lean ====
section
/-!
DEFINITION. Region control blocks (19_regions_sched R298 to R301), and the gang switch and the freeze of a colour group
(R318 to R325).
-/

namespace Sys2Proof.Machine

/-! ## Control blocks (R298 to R301) -/

/-- A region's block as its 256 bytes describe it (R299). -/
def regionOfBytes (bs : List Byte) : Region where
  live := true
  debug := descNat bs 3 1 / 2 % 2 == 1
  frozen := descNat bs 3 1 / 4 % 2 == 1
  out := descNat bs 3 1 / 8 % 2 == 1
  parent := descNat bs 1 1
  depth := descNat bs 2 1
  mask := descNat bs 4 4
  cores := descNat bs 8 2
  slots := descNat bs 10 2
  kib := descNat bs 12 4
  hbm := descNat bs 16 8
  arb := descNat bs 24 4
  share := descNat bs 28 1
  prio := descNat bs 29 1
  domain := descNat bs 30 1
  colour := descNat bs 31 1
  root := descNat bs 32 8
  space := descNat bs 40 2
  guaranteed := descNat bs 42 2
  saveBase := descNat bs 48 8
  saveSize := descNat bs 56 8
  queueBase := descNat bs 64 8
  queueEntries := descNat bs 72 4

/-- A power of 2 from 64 to 65,536, or 0 (R299). -/
def queueSizeOk (n : Nat) : Bool := n == 0 || ((List.range 11).any fun i => n == 2 ^ (6 + i))

/-- A block's own fields are within their limits, those that its mask gives, and its reserved bits are zero (R299, R300,
R329). -/
def blockOk (r : Nat) (bs : List Byte) : Bool :=
  let x := regionOfBytes bs
  let given (i : Nat) (ok : Bool) : Bool := x.mask / 2 ^ i % 2 == 0 || ok
  descNat bs 0 1 == r && descNat bs 3 1 / 16 == 0 && decide (x.mask < 2 ^ 11) && (r != 0 || x.mask == 2 ^ 11 - 1) &&
    given 0 (decide (x.cores ≤ 4096)) && given 1 (decide (x.slots ≤ 61440)) && given 3 (x.hbm % 2 ^ 16 == 0) &&
    given 5 (decide (1 ≤ x.share) && decide (x.share ≤ 64)) && given 6 (decide (x.prio ≤ 7)) &&
    given 7 (decide (x.domain ≤ 63)) && given 8 (decide (x.colour ≤ 63)) && given 9 (x.root == 0 || rootOk x.root) &&
    given 10 (decide (x.space ≤ 255)) && descNat bs 44 4 == 0 && x.saveBase % 2 ^ 16 == 0 && x.queueBase % 4096 == 0 &&
    queueSizeOk x.queueEntries && (x.queueEntries == 0 || decide (x.queueBase < 0xC000000000)) &&
    (bs.drop 76).all (· == 0)

namespace State

/-- A region's place in the tree (R298, R299). -/
def treeOk (s : State) (r : Nat) : Bool :=
  let x := s.region r
  if r = 0 then x.parent == 0 && x.depth == 0
  else x.parent != r && (s.region x.parent).live && x.depth == (s.region x.parent).depth + 1 && decide (x.depth ≤ 3)

/-- A child's effective budgets do not exceed its parent's (R300). -/
def budgetsNest (s : State) (r : Nat) : Bool :=
  let up := (s.region r).parent
  let le (i : Nat) (own : Region → Nat) : Bool := decide (s.effective i own r ≤ s.effective i own up)
  le 0 Region.cores && le 1 Region.slots && le 2 Region.kib && le 3 Region.hbm && le 4 Region.arb

/-- The save area holds 256 KiB for each core of the budget, and 1 MiB of log, in memory (R321, R328). -/
def saveOk (s : State) (r : Nat) : Bool :=
  let x := s.region r
  decide (s.effective 0 Region.cores r * 2 ^ 18 + 2 ^ 20 ≤ x.saveSize) && dpaMapped x.saveBase && dpaMapped (x.saveBase + x.saveSize - 1)

/-- The rules that hold over all live regions (R298 to R301, R321). -/
def regionsOk (s : State) : Bool :=
  let live := (s.regions.filter fun e => e.2.live).map Prod.fst
  live.all (fun r => s.treeOk r && s.budgetsNest r && s.saveOk r) &&
    live.all (fun a => live.all fun b => s.isGuaranteed a == s.isGuaranteed b || s.colourOf a != s.colourOf b) &&
    decide (s.sumGuaranteed ≤ s.userCount)

/-- DPA of a region's control block (R298). -/
def blockDpa (s : State) (r : Nat) : Nat := s.regbase + 256 * r

/-- A bit of a region's flags byte, in the block that memory holds. -/
def putFlag (s : State) (r bit : Nat) (v : Bool) : State :=
  let key := dpaBase + s.blockDpa r + 3
  let old := memNat s.mem key 1
  s.setMem (memPutNat key 1 (old - old / 2 ^ bit % 2 * 2 ^ bit + if v then 2 ^ bit else 0) s.mem)

/-- A region holds a launch that is placed or ready (R298). -/
def regionBusy (s : State) (r : Nat) : Bool :=
  s.launches.any fun e => e.2.region == r && (holdsResources e.2 || e.2.waiting.isEmpty)

/-- The live flag of a region's block is set, and the block takes effect (R298, R301). -/
def setLive (s : State) (r : Nat) : State :=
  let bs := memBytes s.mem (dpaBase + s.blockDpa r) 256
  let s1 : State := { s with regions := tablePut r (regionOfBytes bs) s.regions }
  if dpaMapped (s.blockDpa r) && blockOk r bs && s1.regionsOk && !s.regionBusy r then s1.putFlag r 0 true else s

end State

/-- REGION_LIVE_SET (R301): accepted or refused. -/
def execRegionLiveSet (region : Nat) (s : State) : Res := .next (if region < 256 then s.setLive region else s)

/-! ## The stop (R319, R320) -/

/-- SWITCH_NOTICE (R319): a core of the group has its notice. -/
def execSwitchNotice (n : Nat) (s : State) : Res :=
  match s.arrive n with
  | some (⟨_, _, _, _, _, .switchNotice _ _⟩, s1) => .next s1
  | _ => .next s

namespace State

/-- Live regions of a colour group. -/
def groupRegions (s : State) (colour : Nat) : List Nat :=
  (s.regions.filter fun e => e.2.live && s.colourOf e.1 == colour).map Prod.fst

/-- The device's flag of a group's regions: bit 2 frozen, bit 3 out (R299). -/
def flagRegions (s : State) (colour bit : Nat) (v : Bool) : State :=
  (s.groupRegions colour).foldl (fun t r =>
    (t.putFlag r bit v).modRegion r fun x => if bit = 2 then { x with frozen := v } else { x with out := v }) s

/-- A context belongs to a launch of a colour group. -/
def inGroup (s : State) (colour : Nat) (c : Ctx) : Bool :=
  c.status != .empty && match (s.proc c.proc).launch.bind s.launch? with
    | some l => s.colourOf l.region == colour
    | none => false

/-- A packet of a group's colour that the routers eject (R320). A bulk packet is part of a grant in motion, which completes (R319). -/
def ofColour (colour : Nat) (p : Packet) : Bool := p.colour == some colour && p.cls != .bulk

/-- Bytes that a packet takes in a packet log: its header and position, and its payload in whole flits of 64 bytes
(notes/assumptions/80.md). -/
def logSize (p : Packet) : Nat :=
  let payload := match p.body with
    | .contribution _ _ _ data => (data.map fun d => d.2.length).foldl (· + ·) 0
    | .message _ | .ember _ | .payload _ _ _ _ _ => 256
    | _ => 0
  128 + (payload + 63) / 64 * 64

/-- Where the packet log of a group lies: after the blocks, in the save area of the first of its regions, up to the area's end
(R321). -/
def logArea (s : State) (colour : Nat) : Nat × Nat :=
  let x := s.region ((s.groupRegions colour).head?.getD 0)
  (x.saveBase + 2 ^ 18 * (s.groupCores colour).length, x.saveBase + x.saveSize)

/-- A packet is written to a group's log, with the router where it fell out (R320). -/
def logPacket (s : State) (colour : Nat) (x : LogEntry) : State :=
  let g := s.group colour
  let n := logSize x.packet
  (s.setMem (memWrite (dpaBase + g.logNext) ((List.range (min n (g.logEnd - g.logNext))).map (Config.logByte x)) s.mem)).modGroup
    colour fun g => { g with log := g.log ++ [x], logNext := g.logNext + n }

/-- The packets of a colour leave the mesh for the log, in their order, and the circuits that they hold are released (R320, R322,
R347). -/
def drain (s : State) (colour : Nat) : State :=
  let mine := s.net.zipIdx.filter fun x => ofColour colour x.1
  let s1 : State := { s with
    net := s.net.filter fun p => !ofColour colour p
    circuits := s.circuits.filter fun c => !mine.any fun x => x.1.src == c.1 && x.1.dst == c.2
    fresh := s.fresh + s.net.length }
  mine.foldl (fun t x => t.logPacket colour ⟨x.1, s.packetAt x.2 x.1⟩) s1

/-- Every core of a group can stop: each has its notice, no context is inside a prefix sequence, no carrier message is in
progress, and no reduction of its launches is under way (R319, R350). -/
def mayStop (s : State) (colour : Nat) : Bool :=
  let cores := s.groupCores colour
  !(s.net.any fun p => match p.body with | .switchNotice c _ => c == colour | _ => false) &&
    (s.ctxs.all fun e => !s.inGroup colour e.2 || e.2.pfx.first.isNone || e.2.held.isSome) &&
    cores.all (fun p => (s.core p).running.isNone) && (s.groupLaunches colour).all fun e => e.2.round.isNone

/-- The group stops (R319): its contexts stand still, and its packets go to the log. A switch finds nothing to do in a group
that has no launch any more. -/
def stopGroup (s : State) (colour : Nat) : State :=
  let g := s.group colour
  if (s.groupLaunches colour).isEmpty && !g.frozen then s.modGroup colour fun g => { g with phase := .running }
  else
    let park (c : Ctx) : Ctx :=
      if s.inGroup colour c && (c.status == .ready || c.status == .waiting) then { c with parked := true } else c
    let s1 : State := { s with ctxs := tableMap (fun _ c => park c) s.ctxs }
    let area := s.logArea colour
    let s2 := (s1.modGroup colour fun g => { g with phase := .stopped, logNext := area.1, logEnd := area.2 }).drain colour
    if g.frozen then s2.flagRegions colour 2 true else s2

end State

/-- GANG_STOP (R319, R320, R325): at T. -/
def execGangStop (colour : Nat) (s : State) : Res :=
  let g := s.group colour
  if g.phase = .notified && g.time ≤ s.now && s.mayStop colour then .next (s.stopGroup colour) else .next s

/-! ## The save (R321) -/

namespace State

/-- A job's grant is in motion, but for lines that stand in arrival queues. -/
def grantMoves (j : Job) : Bool :=
  match j.grant with
  | .reading todo waits => !todo.isEmpty || waits.isEmpty
  | .writing todo waits => !todo.isEmpty || waits.isEmpty
  | .none | .faulted _ => false

/-- An arrival queue is held up by a line that waits for a journal entry, which only GVT can free (R98). -/
def bankHeld (s : State) (q : List QueuedPart) : Bool :=
  match q.head? with
  | some ⟨.job pcn e id, key, name⟩ => (s.performLine pcn e id key name).isNone
  | _ => false

/-- An entry of an arrival queue stands at a core, or comes from it. -/
def queuedAt (pcn : Nat) (q : QueuedPart) : Bool :=
  ownerOfKey q.addr == pcn || match q.source with
    | .access tid _ => coreOfTid tid == pcn
    | .job p _ _ => p == pcn

/-- A core of a stopped group has come to rest: nothing of it or to it stands in an arrival queue that moves, and no grant of it is
in motion (R319). -/
def atRest (s : State) (pcn : Nat) : Bool :=
  (s.banks.all fun b => !b.2.any (queuedAt pcn) || s.bankHeld b.2) &&
    ((s.core pcn).mxQueue ++ (s.core pcn).cpQueue).all fun j => !grantMoves j

/-- A copy that waits on a fault releases its held pages, and will walk again (R338). -/
def rewalk (j : Job) : Job :=
  match j.grant with
  | .faulted _ => { j with grant := .none, held := [], got := [] }
  | _ => j

/-- A core's contents in `Mem`: its local store, accumulators and vector windows. -/
def coreCells (s : State) (pcn : Nat) : List Host.Cell :=
  memSlice (localKey pcn 0) 0x20000 s.mem ++ memSlice (accKey pcn 0) 8192 s.mem ++ memSlice (vecKey pcn 0) 8192 s.mem

/-- Contexts of a core. -/
def coreCtxs (s : State) (pcn : Nat) : Table Ctx := s.ctxs.filter fun e => coreOfTid e.1 == pcn

/-- What a core keeps that is not a launch's: its clock, counters, router and boot registers, and the combining entries of
other groups. -/
def keepCore (pcn : Nat) (cores : List Nat) (k : CoreS) : CoreS :=
  { CoreS.reset pcn with
    cyc := k.cyc, lend := k.lend, mxSeq := k.mxSeq, cpSeq := k.cpSeq
    stalecnt := k.stalecnt, ecccor := k.ecccor, eccunc := k.eccunc, ctlerr := k.ctlerr, fwdrop := k.fwdrop
    fwctl := k.fwctl, tcinvRoot := k.tcinvRoot, faultQueue := k.faultQueue, fqhead := k.fqhead
    rcolcfg := k.rcolcfg, rload := k.rload, imbalance := k.imbalance, xorshift := k.xorshift
    combining := k.combining.filter fun e => !cores.contains e.home
    boot := k.boot, failed := k.failed }

/-- Where a core's block lies: in its region's save area, at 256 KiB times its index in the group's placement (R321). -/
def blockPlace (s : State) (colour : Nat) (cores : List Nat) (pcn : Nat) : Nat :=
  let r := (((s.groupLaunches colour).find? fun e => e.2.cores.contains pcn).map fun e => e.2.region).getD 0
  (s.region r).saveBase + 2 ^ 18 * cores.findIdx (· == pcn)

/-- The bytes of a core's block (R321). -/
def blockBytes (b : SavedCore) : List Byte := (List.range (2 ^ 18)).map (Config.savedByte b)

/-- A core of a group writes its block to the save area, and is zeroed, with the images of its slots (R293, R321). -/
def saveCore (s : State) (colour : Nat) (cores : List Nat) (pcn : Nat) : State :=
  let k := s.core pcn
  let mine := { k with
    cpQueue := k.cpQueue.map rewalk, combining := k.combining.filter fun e => cores.contains e.home }
  let here (b : List QueuedPart) : Bool := b.any fun q => ownerOfKey q.addr == pcn
  let saved : SavedCore :=
    ⟨pcn, s.blockPlace colour cores pcn, s.coreCells pcn, mine, s.coreCtxs pcn, s.banks.filter fun b => here b.2⟩
  let s1 : State := { s with
    mem := memWrite (dpaBase + saved.dpa) (blockBytes saved) (zeroCores [pcn] s.mem)
    ctxs := (List.range 16).foldl (fun t k => tablePut (pcn * 16 + k) Ctx.zero t) s.ctxs
    banks := s.banks.filter fun b => !here b.2 }
  (s1.setCore pcn { keepCore pcn cores k with idleSince := s.now, checked := false }).modGroup colour fun g =>
    { g with saved := g.saved ++ [saved] }

/-- Every core of a group is saved, and what is left of its packets goes to the log (R320, R321). -/
def saveGroup (s : State) (colour : Nat) : State :=
  let cores := s.groupCores colour
  let s1 := (cores.foldl (fun t pcn => t.saveCore colour cores pcn) s).drain colour
  (s1.modGroup colour fun g => { g with phase := .out }).flagRegions colour 3 true

end State

/-- GANG_SAVE (R321): after the drain; a frozen group is not saved (R325). -/
def execGangSave (colour : Nat) (s : State) : Res :=
  let g := s.group colour
  if g.phase = .stopped && !g.frozen && (s.groupCores colour).all s.atRest then .next (s.saveGroup colour) else .next s

/-- The log of a group has room for a packet (R322). -/
def State.logRoom (s : State) (colour : Nat) (p : Packet) : Bool :=
  decide ((s.group colour).logNext + State.logSize p ≤ (s.group colour).logEnd)

/-- LATE_PACKET_LOG (R322): a packet of a group that has stopped goes to the log, after those before it; while the log is full it
waits outside. -/
def execLatePacketLog (n : Nat) (s : State) : Res :=
  match s.net[n]? with
  | some p =>
    match p.colour with
    | some c =>
      if s.colourRuns (some c) || (s.net.take n).any (State.ofColour c) || p.cls == .bulk || !s.logRoom c p then .next s
      else .next (({ s with net := listDrop n s.net, fresh := s.fresh + 1 } : State).logPacket c ⟨p, s.packetAt 0 p⟩)
    | none => .next s
  | none => .next s

/-! ## The return (R323 to R325) -/

/-- A copy's promise moved later (R324, R325). -/
def laterPromise (d : Nat) (j : Job) : Job := { j with promise := j.promise.map (· + d) }

namespace State

/-- A context whose registers are free (R53). -/
def spoilCtx (s : State) (tid : Nat) : State :=
  let w (n : Nat) : Word := Config.reservedWord (s.fresh + n)
  { s with fresh := s.fresh + 33 }.modCtx tid fun c =>
    { c with pc := w 0 &&& ~~~(3 : Word), regs := Vector.ofFn fun n : Fin 32 => if n.val = 0 then 0 else w (n.val + 1) }

/-- A core whose save has been spoiled: its local store and the registers of its contexts are free (R53). -/
def spoilCore (s : State) (pcn : Nat) (tids : List Nat) : State :=
  tids.foldl spoilCtx (s.freeBytes Config.reservedByte (localKey pcn 0) 0x20000)

/-- A core's block in the save area is as the core wrote it. -/
def blockIntact (s : State) (b : SavedCore) : Bool := memBytes s.mem (dpaBase + b.dpa) (2 ^ 18) == blockBytes b

/-- A saved core is put back: what the core keeps of its own stays (R323). What a program has spoiled, in the core's staging area or
in the block, is free (R53). -/
def restoreCore (s : State) (b : SavedCore) : State :=
  let k := s.core b.pcn
  let own : CoreS :=
    { b.core with
      cyc := k.cyc, lend := k.lend, mxSeq := k.mxSeq, cpSeq := k.cpSeq
      stalecnt := k.stalecnt, ecccor := k.ecccor, eccunc := k.eccunc, ctlerr := k.ctlerr, fwdrop := k.fwdrop
      fwctl := k.fwctl, tcinvRoot := k.tcinvRoot, faultQueue := k.faultQueue, fqhead := k.fqhead
      rcolcfg := k.rcolcfg, rload := k.rload, imbalance := k.imbalance, xorshift := k.xorshift
      combining := k.combining ++ b.core.combining, boot := k.boot, failed := k.failed, idleSince := k.idleSince }
  let s1 := { s with
    mem := memRestore b.cells (zeroCores [b.pcn] s.mem)
    ctxs := b.ctxs.foldl (fun (t : Table Ctx) (e : Nat × Ctx) => tablePut e.1 e.2 t)
      (s.ctxs.filter fun e => coreOfTid e.1 != b.pcn)
    banks := b.banks.foldl (fun (t : Table (List QueuedPart)) (e : Nat × List QueuedPart) => tablePut e.1 e.2 t) s.banks }.setCore b.pcn own
  if b.core.spoiled || !s.blockIntact b then s1.spoilCore b.pcn (b.ctxs.map Prod.fst) else s1

/-- A group's contexts start again: one whose image breaks the check of a resume stops with bad-status (R293). -/
def unpark (s : State) (colour : Nat) : State :=
  let tids := (s.ctxs.filter fun e => s.inGroup colour e.2 && e.2.parked).map Prod.fst
  tids.foldl (fun t tid =>
    let t1 := t.modCtx tid fun c => { c with parked := false }
    if badStatus (t1.ctx tid) then t1.stopContext tid causeBadStatus none else t1) s

/-- The copies of a group's launches have their promises moved later. -/
def laterPromises (s : State) (colour d : Nat) : State :=
  let ours (j : Job) : Bool := j.launch.bind s.launchColour == some colour
  { s with cores := tableMap (fun _ k =>
      { k with cpQueue := k.cpQueue.map fun j => if ours j then laterPromise d j else j }) s.cores }

/-- A launch with its deadline, its window and its frozen time moved (R325). -/
def laterLaunch (d : Nat) (l : Launch) : Launch :=
  { l with spec := { l.spec with deadline := l.spec.deadline + d }, window := l.window.map (· + d), frozen := l.frozen + d }

/-- The same of a launch that waits to be taken. -/
def laterEffect (d : Nat) : Effect → Effect
  | .admission l => .admission (laterLaunch d l)
  | e => e

/-- After a freeze, the deadlines, windows and frozen time of a group's launches move by its length (R325). -/
def laterDeadlines (s : State) (colour d : Nat) : State :=
  let ours (r : Nat) : Bool := s.colourOf r == colour
  { s with
    launches := tableMap (fun _ l => if ours l.region then laterLaunch d l else l) s.launches
    queues := tableMap (fun r q =>
      if ours r then
        { q with
          members := q.members.map fun m => (m.1, laterEffect d m.2)
          effects := q.effects.map fun e => (e.1, e.2.map (laterEffect d)) }
      else q) s.queues
    reservations := s.reservations.map fun w =>
      if ours w.2.1 then (w.1, w.2.1, w.2.2.1 + d, w.2.2.2.1 + d, w.2.2.2.2) else w }

/-- The group runs again (R323): its blocks are restored, its log enters the mesh ahead of newer packets of the colour, and
every core starts together. -/
def resumeGroup (s : State) (colour time : Nat) : State :=
  let g := s.group colour
  let d := time - g.time
  let s1 := g.saved.foldl (fun t b => t.restoreCore b) s
  let s2 : State := { s1 with net := g.log.map LogEntry.packet ++ s1.net }.laterPromises colour d
  let s3 := if g.frozen then s2.laterDeadlines colour d else s2
  let s4 : State := { s3 with groups := tablePut colour Group.none s3.groups }
  let s5 := ((s4.unpark colour).flagRegions colour 2 false).flagRegions colour 3 false
  let s6 := (s.groupRegions colour).foldl (fun t r => t.applyHeld r) s5
  if (s.groupRegions colour).any s.isGuaranteed then s6 else s6.switchForWindows

/-- The cores of a group that is out are free for it, and no window needs them soon (R316, R323). -/
def coresBack (s : State) (colour : Nat) : Bool :=
  (s.groupCores colour).all s.coreFree && s.opportunisticMay (s.groupCores colour)

end State

/-- GANG_RESUME (R323, R325): the return of a group that is out is announced for `time`, at least 20 µs ahead, once its cores
are free; at T′ an announced or thawed group starts. -/
def execGangResume (colour time : Nat) (s : State) : Res :=
  let g := s.group colour
  match g.resume with
  | none =>
    if g.phase = .out && s.coresBack colour && s.now + 20000 ≤ time then
      .next (s.modGroup colour fun g => { g with resume := some time })
    else .next s
  | some t =>
    if t ≤ s.now && (g.phase == .out || (g.phase == .stopped && g.frozen)) then .next (s.resumeGroup colour t) else .next s

end Sys2Proof.Machine
end

