-- ==== Sys2Proof/Machine/Vector.lean ====
section
/-!
DEFINITION. The vector unit: lanes and masks (11_isa_vector_float R201), vector integer and floating point, compares,
conversions, lanes and reductions, and the mask forms (R209 to R214, R218 to R221). A vector register is the number
that its 64 bytes hold, in the slot's window (R56).
-/

namespace Sys2Proof.Machine

/-- Element i of w bits: lanes, nibbles and 6-bit groups all lie at bit w·i (R201, R213). -/
def elem (v w i : Nat) : Nat := v / 2 ^ (w * i) % 2 ^ w

/-- A number with element i of w bits replaced. -/
def setElem (v w i x : Nat) : Nat :=
  v / 2 ^ (w * i + w) * 2 ^ (w * i + w) + x % 2 ^ w * 2 ^ (w * i) + v % 2 ^ (w * i)

/-- An element read as a signed number. -/
def signedElem (w x : Nat) : Int := if x < 2 ^ (w - 1) then x else (x : Int) - 2 ^ w

/-- Where register v[d] of the context that issues lies in `Mem`. -/
def State.vKey (s : State) (d : VReg) : Nat := vecKey s.here (slotOfTid s.cur * 512 + d.val * 64)

/-- v[d]. -/
def State.v (s : State) (d : VReg) : Nat := memNat s.mem (s.vKey d) 64

/-- v[d] replaced; slot 0's registers discard it (R56). -/
def State.setV (s : State) (d : VReg) (v : Nat) : State := s.setMem (storeBytes (s.vKey d) (bytesOfNat 64 v) s.mem)

/-- Lane i is active under a mask (R201). -/
def activeLane (k : Word) (i : Nat) : Bool := k.getLsbD i

/-- What a lane operation has done so far: the destination, the flags and the generator. -/
structure LaneAcc where
  value : Nat
  flags : FlagSet
  srng : BitVec 32
deriving DecidableEq, Repr

/-- The active lanes among the given ones processed in ascending order: each lane's answer goes into its element
(R201). -/
def foldLanes (k : Word) (w : Nat) (f : Nat → BitVec 32 → FpResult) (lanes : List Nat) (acc : LaneAcc) : LaneAcc :=
  lanes.foldl (fun a i =>
    if activeLane k i then
      let r := f i a.srng
      ⟨setElem a.value w i r.bits, a.flags ||| r.flags, r.srng⟩
    else a) acc

/-- The end of a vector instruction: v[d], flags and generator. -/
def State.writeVFp (s : State) (d : VReg) (r : LaneAcc) : Res :=
  .next ((s.setV d r.value).modMe fun c => ({ c with srng := r.srng }.raise r.flags).advance)

/-- A lane-by-lane instruction whose lanes answer a result, flags and the generator. -/
def State.lanes (s : State) (d : VReg) (w : Nat) (k : MReg) (f : Nat → BitVec 32 → FpResult) : Res :=
  s.writeVFp d (foldLanes (s.m k) w f (List.range (512 / w)) ⟨s.v d, 0, s.me.srng⟩)

/-! ## Vector integer (R209) -/

/-- Bits of an integer lane. -/
def iWidth (t : ITy) : Nat := (ityTy t).width

/-- A lane-by-lane integer instruction: the lane result from the lanes of vA, vB and vD, as unsigned numbers. -/
def State.vint (s : State) (d a b : VReg) (t : ITy) (k : MReg) (f : (w ua ub uc : Nat) → Int × FlagSet) : Res :=
  let w := iWidth t
  let va := s.v a
  let vb := s.v b
  let vd := s.v d
  s.lanes d w k fun i srng =>
    let r := f w (elem va w i) (elem vb w i) (elem vd w i)
    ⟨intBits w r.1, r.2, srng⟩

/-- A value saturated to the signed range of w bits, with the flag (R209). -/
def saturateTo (w : Nat) (v : Int) : Int × FlagSet :=
  let lo : Int := -2 ^ (w - 1)
  let hi : Int := 2 ^ (w - 1) - 1
  if v < lo then (lo, flagSaturate) else if hi < v then (hi, flagSaturate) else (v, 0)

/-- `vadd` (R209). -/
def execVadd (d a b : VReg) (t : ITy) (k : MReg) (s : State) : Res :=
  s.vint d a b t k fun w x y _ => (signedElem w x + signedElem w y, 0)
/-- `vsub` (R209). -/
def execVsub (d a b : VReg) (t : ITy) (k : MReg) (s : State) : Res :=
  s.vint d a b t k fun w x y _ => (signedElem w x - signedElem w y, 0)
/-- `vmul` (R209). -/
def execVmul (d a b : VReg) (t : ITy) (k : MReg) (s : State) : Res :=
  s.vint d a b t k fun w x y _ => (signedElem w x * signedElem w y, 0)
/-- `vmulh`: the high w bits of the signed product (R209). -/
def execVmulh (d a b : VReg) (t : ITy) (k : MReg) (s : State) : Res :=
  s.vint d a b t k fun w x y _ => (signedElem w x * signedElem w y / 2 ^ w, 0)
/-- `vmin`, signed (R209). -/
def execVmin (d a b : VReg) (t : ITy) (k : MReg) (s : State) : Res :=
  s.vint d a b t k fun w x y _ => (min (signedElem w x) (signedElem w y), 0)
/-- `vmax`, signed (R209). -/
def execVmax (d a b : VReg) (t : ITy) (k : MReg) (s : State) : Res :=
  s.vint d a b t k fun w x y _ => (max (signedElem w x) (signedElem w y), 0)
/-- `vminu` (R209). -/
def execVminu (d a b : VReg) (t : ITy) (k : MReg) (s : State) : Res :=
  s.vint d a b t k fun _ x y _ => ((min x y : Nat), 0)
/-- `vmaxu` (R209). -/
def execVmaxu (d a b : VReg) (t : ITy) (k : MReg) (s : State) : Res :=
  s.vint d a b t k fun _ x y _ => ((max x y : Nat), 0)
/-- `vand` (R209). -/
def execVand (d a b : VReg) (t : ITy) (k : MReg) (s : State) : Res :=
  s.vint d a b t k fun _ x y _ => (Nat.land x y, 0)
/-- `vor` (R209). -/
def execVor (d a b : VReg) (t : ITy) (k : MReg) (s : State) : Res :=
  s.vint d a b t k fun _ x y _ => (Nat.lor x y, 0)
/-- `vxor` (R209). -/
def execVxor (d a b : VReg) (t : ITy) (k : MReg) (s : State) : Res :=
  s.vint d a b t k fun _ x y _ => (Nat.xor x y, 0)
/-- `vshl`: by B<log2(w)−1:0> (R209). -/
def execVshl (d a b : VReg) (t : ITy) (k : MReg) (s : State) : Res :=
  s.vint d a b t k fun w x y _ => ((x * 2 ^ (y % w) : Nat), 0)
/-- `vshr`, logical (R209). -/
def execVshr (d a b : VReg) (t : ITy) (k : MReg) (s : State) : Res :=
  s.vint d a b t k fun w x y _ => ((x / 2 ^ (y % w) : Nat), 0)
/-- `vsra`, arithmetic (R209). -/
def execVsra (d a b : VReg) (t : ITy) (k : MReg) (s : State) : Res :=
  s.vint d a b t k fun w x y _ => (signedElem w x / 2 ^ (y % w), 0)
/-- `vabs` (R209). -/
def execVabs (d a : VReg) (t : ITy) (k : MReg) (s : State) : Res :=
  s.vint d a a t k fun w x _ _ => (((signedElem w x).natAbs : Int), 0)
/-- `vneg` (R209). -/
def execVneg (d a : VReg) (t : ITy) (k : MReg) (s : State) : Res :=
  s.vint d a a t k fun w x _ _ => (-signedElem w x, 0)
/-- `vadds`, saturating (R209). -/
def execVadds (d a b : VReg) (t : ITy) (k : MReg) (s : State) : Res :=
  s.vint d a b t k fun w x y _ => saturateTo w (signedElem w x + signedElem w y)
/-- `vsubs`, saturating (R209). -/
def execVsubs (d a b : VReg) (t : ITy) (k : MReg) (s : State) : Res :=
  s.vint d a b t k fun w x y _ => saturateTo w (signedElem w x - signedElem w y)
/-- `vmac`: C + A·B (R209). -/
def execVmac (d a b : VReg) (t : ITy) (k : MReg) (s : State) : Res :=
  s.vint d a b t k fun w x y z => (signedElem w z + signedElem w x * signedElem w y, 0)

/-- The sum of the products of the four signed bytes of two 32-bit lanes (R209). -/
def dotBytes (x y : Nat) : Int :=
  (List.range 4).foldl (fun t j => t + signedElem 8 (elem x 8 j) * signedElem 8 (elem y 8 j)) 0

/-- `vdot4`, in INT32 (R209). -/
def execVdot4 (d a b : VReg) (k : MReg) (s : State) : Res :=
  s.vint d a b .i32 k fun w x y z => saturateTo w (signedElem w z + dotBytes x y)

/-! ## Vector floating point (R211) -/

/-- A lane-by-lane floating-point instruction: the operands a lane reads and the outcome before rounding. -/
def State.vfp (s : State) (d a b : VReg) (t : FTy) (k : MReg) (mode : RoundMode)
    (f : (x y z : Num) → List Num × Outc) : Res :=
  let fmt := ftyFmt t
  let w := fmt.width
  let va := s.v a
  let vb := s.v b
  let vd := s.v d
  s.lanes d w k fun i srng =>
    let r := f (fmt.value (elem va w i)) (fmt.value (elem vb w i)) (fmt.value (elem vd w i))
    fmt.finish r.1 r.2 mode srng

/-- `vfadd` (R211). -/
def execVfadd (d a b : VReg) (t : FTy) (k : MReg) (r : Rm) (s : State) : Res :=
  s.vfp d a b t k (s.mode r) fun x y _ => ([x, y], opAdd (s.mode r) x y)
/-- `vfsub` (R211). -/
def execVfsub (d a b : VReg) (t : FTy) (k : MReg) (r : Rm) (s : State) : Res :=
  s.vfp d a b t k (s.mode r) fun x y _ => ([x, y], opAdd (s.mode r) x y.negate)
/-- `vfmul` (R211). -/
def execVfmul (d a b : VReg) (t : FTy) (k : MReg) (r : Rm) (s : State) : Res :=
  s.vfp d a b t k (s.mode r) fun x y _ => ([x, y], opMul x y)
/-- `vfdiv` (R211). -/
def execVfdiv (d a b : VReg) (t : FTy) (k : MReg) (r : Rm) (s : State) : Res :=
  s.vfp d a b t k (s.mode r) fun x y _ => ([x, y], opDiv x y)
/-- `vfma`: z is the lane of vD (R211). -/
def execVfma (d a b : VReg) (t : FTy) (k : MReg) (r : Rm) (s : State) : Res :=
  s.vfp d a b t k (s.mode r) fun x y z => ([z, x, y], opFma (s.mode r) z x y)
/-- `vfsqrt` (R211). -/
def execVfsqrt (d a : VReg) (t : FTy) (k : MReg) (r : Rm) (s : State) : Res :=
  s.vfp d a a t k (s.mode r) fun x _ _ => ([x], opSqrt x)
/-- `vfdist`: z + (x − y)², rounded once by RMODE (R211). -/
def execVfdist (d a b : VReg) (t : FTy) (k : MReg) (s : State) : Res :=
  s.vfp d a b t k (s.mode .dyn) fun x y z => ([z, x, y], opDist (s.mode .dyn) z x y)

/-- A lane-by-lane form that never rounds (R205, R211). -/
def State.vfpPlain (s : State) (d a b : VReg) (t : FTy) (k : MReg) (f : (x y : Nat) → Nat × FlagSet) : Res :=
  let w := (ftyFmt t).width
  let va := s.v a
  let vb := s.v b
  s.lanes d w k fun i srng =>
    let r := f (elem va w i) (elem vb w i)
    ⟨r.1, r.2, srng⟩

/-- `vfmin` (R211). -/
def execVfmin (d a b : VReg) (t : FTy) (k : MReg) (s : State) : Res := s.vfpPlain d a b t k ((ftyFmt t).minMax false)
/-- `vfmax` (R211). -/
def execVfmax (d a b : VReg) (t : FTy) (k : MReg) (s : State) : Res := s.vfpPlain d a b t k ((ftyFmt t).minMax true)
/-- `vfabs` (R211). -/
def execVfabs (d a : VReg) (t : FTy) (k : MReg) (s : State) : Res :=
  s.vfpPlain d a a t k fun x _ => (ftyFmt t).signOp false x
/-- `vfneg` (R211). -/
def execVfneg (d a : VReg) (t : FTy) (k : MReg) (s : State) : Res :=
  s.vfpPlain d a a t k fun x _ => (ftyFmt t).signOp true x

/-! ## Vector compare (R212) -/

/-- Bits of a lane of a compare. -/
def laneWidth : LaneTy → Nat
  | .int t => iWidth t
  | .fp t => (ftyFmt t).width

/-- A compare of two lanes, with its flags: integers signed, floating point as R206 gives (R212). -/
def compareLanes (c : Cond) (t : LaneTy) (x y : Nat) : Bool × FlagSet :=
  match t with
  | .int it =>
    let a := signedElem (iWidth it) x
    let b := signedElem (iWidth it) y
    (match c with
      | .eq => a == b
      | .ne => a != b
      | .lt => decide (a < b)
      | .le => decide (a ≤ b)
      | .gt => decide (b < a)
      | .ge => decide (b ≤ a)
      | .un => false, 0)
  | .fp ft =>
    let a := (ftyFmt ft).value x
    let b := (ftyFmt ft).value y
    (Num.cond c a b, Num.condFlags c a b)

/-- The mask and the flags of a compare: a bit is 1 where the lane exists, is active and meets the condition (R212). -/
def compareMask (k : Word) (w : Nat) (f : Nat → Bool × FlagSet) : Word × FlagSet :=
  (List.range (512 / w)).foldl (fun acc i =>
    if activeLane k i then
      let r := f i
      (if r.1 then acc.1 ||| (1#64 <<< i) else acc.1, acc.2 ||| r.2)
    else acc) (0, 0)

/-- A vector compare into m[d] (R212). -/
def State.vcmp (s : State) (d : MReg) (a b : VReg) (w : Nat) (k : MReg) (f : (x y : Nat) → Bool × FlagSet) : Res :=
  let va := s.v a
  let vb := s.v b
  let r := compareMask (s.m k) w fun i => f (elem va w i) (elem vb w i)
  .next (s.modMe fun c => ((c.setM d r.1).raise r.2).advance)

/-- `vcmp.eq` (R212). -/
def execVcmpEq (d : MReg) (a b : VReg) (t : LaneTy) (k : MReg) (s : State) : Res :=
  s.vcmp d a b (laneWidth t) k (compareLanes .eq t)
/-- `vcmp.ne` (R212). -/
def execVcmpNe (d : MReg) (a b : VReg) (t : LaneTy) (k : MReg) (s : State) : Res :=
  s.vcmp d a b (laneWidth t) k (compareLanes .ne t)
/-- `vcmp.lt` (R212). -/
def execVcmpLt (d : MReg) (a b : VReg) (t : LaneTy) (k : MReg) (s : State) : Res :=
  s.vcmp d a b (laneWidth t) k (compareLanes .lt t)
/-- `vcmp.le` (R212). -/
def execVcmpLe (d : MReg) (a b : VReg) (t : LaneTy) (k : MReg) (s : State) : Res :=
  s.vcmp d a b (laneWidth t) k (compareLanes .le t)
/-- `vcmp.gt` (R212). -/
def execVcmpGt (d : MReg) (a b : VReg) (t : LaneTy) (k : MReg) (s : State) : Res :=
  s.vcmp d a b (laneWidth t) k (compareLanes .gt t)
/-- `vcmp.ge` (R212). -/
def execVcmpGe (d : MReg) (a b : VReg) (t : LaneTy) (k : MReg) (s : State) : Res :=
  s.vcmp d a b (laneWidth t) k (compareLanes .ge t)
/-- `vcmp.ltu`, unsigned (R212). -/
def execVcmpLtu (d : MReg) (a b : VReg) (t : ITy) (k : MReg) (s : State) : Res :=
  s.vcmp d a b (iWidth t) k fun x y => (decide (x < y), 0)
/-- `vcmp.un` (R212). -/
def execVcmpUn (d : MReg) (a b : VReg) (t : FTy) (k : MReg) (s : State) : Res :=
  s.vcmp d a b (ftyFmt t).width k (compareLanes .un (.fp t))

/-! ## Vector conversion (R213, R214) -/

/-- The elements that pair j of part p joins: in vA and in vD (R213). -/
def vcvtPair (t src : Ty) (p j : Nat) : Nat × Nat :=
  let n := p * vcvtLanes t src + j
  if src.width = t.width then (n, n) else if src.width < t.width then (n, j) else (j, n)

/-- `vcvt` (R214). -/
def execVcvt (d a : VReg) (p : Fin 8) (k : MReg) (t src : Ty) (r : Rm) (s : State) : Res :=
  let va := s.v a
  let acc := (List.range (vcvtLanes t src)).foldl (fun (acc : LaneAcc) j =>
    if activeLane (s.m k) j then
      let (i, o) := vcvtPair t src p.val j
      let x := convert t src (elem va src.width i) (s.mode r) acc.srng
      ⟨setElem acc.value t.width o x.bits, acc.flags ||| x.flags, x.srng⟩
    else acc) ⟨s.v d, 0, s.me.srng⟩
  s.writeVFp d acc

/-! ## Lanes and permutes (R218) -/

/-- A lane-by-lane instruction that touches no flag. -/
def State.moveLanes (s : State) (d : VReg) (w : Nat) (k : MReg) (f : Nat → Nat) : Res :=
  s.lanes d w k fun i srng => ⟨f i, 0, srng⟩

/-- `vbcast` (R218). -/
def execVbcast (d : VReg) (a : GReg) (t : ITy) (k : MReg) (s : State) : Res :=
  s.moveLanes d (iWidth t) k fun _ => (s.g a).toNat % 2 ^ iWidth t

/-- `vext`: the lane, sign-extended (R218). -/
def execVext (d : GReg) (a : VReg) (b : GReg) (t : ITy) (s : State) : Res :=
  s.writeG d (BitVec.ofInt 64 (signedElem (iWidth t)
    (elem (s.v a) (iWidth t) ((s.g b).toNat % (512 / iWidth t)))))

/-- `vins` (R218). -/
def execVins (d : VReg) (a b : GReg) (t : ITy) (s : State) : Res :=
  .next ((s.setV d (setElem (s.v d) (iWidth t) ((s.g b).toNat % (512 / iWidth t)) (s.g a).toNat)).finish)

/-- `vperm` (R218). -/
def execVperm (d a b : VReg) (t : ITy) (k : MReg) (s : State) : Res :=
  let w := iWidth t
  let va := s.v a
  let vb := s.v b
  s.moveLanes d w k fun i => elem va w (elem vb w i % (512 / w))

/-- `vsel`: every lane is written (R218). -/
def execVsel (d a b : VReg) (t : ITy) (k : MReg) (s : State) : Res :=
  let w := iWidth t
  let va := s.v a
  let vb := s.v b
  s.moveLanes d w 0 fun i => if activeLane (s.m k) i then elem va w i else elem vb w i

/-- `vmov` (R218). -/
def execVmov (d a : VReg) (t : ITy) (k : MReg) (s : State) : Res :=
  let va := s.v a
  s.moveLanes d (iWidth t) k fun i => elem va (iWidth t) i

/-! ## Reductions (R219) -/

/-- The active lanes of a register, as unsigned numbers. -/
def State.activeLanes (s : State) (a : VReg) (w : Nat) (k : MReg) : List Nat :=
  ((List.range (512 / w)).filter (activeLane (s.m k))).map (elem (s.v a) w)

/-- `vred.add` (R219). -/
def execVredAdd (d : GReg) (a : VReg) (t : ITy) (k : MReg) (s : State) : Res :=
  let w := iWidth t
  s.writeG d (BitVec.ofInt 64 (((s.activeLanes a w k).map (signedElem w)).foldl (· + ·) 0))
/-- `vred.min` (R219). -/
def execVredMin (d : GReg) (a : VReg) (t : ITy) (k : MReg) (s : State) : Res :=
  let w := iWidth t
  s.writeG d (BitVec.ofInt 64 (((s.activeLanes a w k).map (signedElem w)).foldl min (2 ^ (w - 1) - 1)))
/-- `vred.max` (R219). -/
def execVredMax (d : GReg) (a : VReg) (t : ITy) (k : MReg) (s : State) : Res :=
  let w := iWidth t
  s.writeG d (BitVec.ofInt 64 (((s.activeLanes a w k).map (signedElem w)).foldl max (-2 ^ (w - 1))))
/-- `vred.minu` (R219). -/
def execVredMinu (d : GReg) (a : VReg) (t : ITy) (k : MReg) (s : State) : Res :=
  let w := iWidth t
  s.writeG d (BitVec.ofNat 64 ((s.activeLanes a w k).foldl min (2 ^ w - 1)))
/-- `vred.maxu` (R219). -/
def execVredMaxu (d : GReg) (a : VReg) (t : ITy) (k : MReg) (s : State) : Res :=
  let w := iWidth t
  s.writeG d (BitVec.ofNat 64 ((s.activeLanes a w k).foldl max 0))

/-- `vfred.add`: the exact sum, rounded once; +0 and no rounding without an active lane (R219). -/
def execVfredAdd (d : GReg) (a : VReg) (t : FTy) (k : MReg) (s : State) : Res :=
  let fmt := ftyFmt t
  let xs := (s.activeLanes a fmt.width k).map fmt.value
  if xs.isEmpty then s.writeG d 0 else s.writeFp d (ftyTy t) (fmt.sumAll xs (s.mode .dyn) s.me.srng)

/-- The least or greatest of the active lanes (R219). -/
def Fmt.minMaxAll (f : Fmt) (isMax : Bool) (xs : List Nat) : Nat × FlagSet :=
  if xs.any fun x => (f.value x).isNan then
    (f.nanCode, flagWhen (xs.any fun x => (f.value x).isSignalling) flagInvalid)
  else (xs.foldl (fun m x => (f.minMax isMax m x).1) (f.infCode isMax), 0)

/-- `vfred.min` (R219). -/
def execVfredMin (d : GReg) (a : VReg) (t : FTy) (k : MReg) (s : State) : Res :=
  s.writeFpPlain d t ((ftyFmt t).minMaxAll false (s.activeLanes a (ftyFmt t).width k))
/-- `vfred.max` (R219). -/
def execVfredMax (d : GReg) (a : VReg) (t : FTy) (k : MReg) (s : State) : Res :=
  s.writeFpPlain d t ((ftyFmt t).minMaxAll true (s.activeLanes a (ftyFmt t).width k))

/-! ## Lane masks (R220) -/

/-- `mand` (R220). -/
def execMand (d a b : MReg) (s : State) : Res := s.writeM d (s.m a &&& s.m b)
/-- `mor` (R220). -/
def execMor (d a b : MReg) (s : State) : Res := s.writeM d (s.m a ||| s.m b)
/-- `mxor` (R220). -/
def execMxor (d a b : MReg) (s : State) : Res := s.writeM d (s.m a ^^^ s.m b)
/-- `mnot` (R220). -/
def execMnot (d a : MReg) (s : State) : Res := s.writeM d (~~~s.m a)
/-- `mmov` (R220). -/
def execMmov (d a : MReg) (s : State) : Res := s.writeM d (s.m a)
/-- `mfromg` (R220). -/
def execMfromg (d : MReg) (a : GReg) (s : State) : Res := s.writeM d (s.g a)
/-- `mtog` (R220). -/
def execMtog (d : GReg) (a : MReg) (s : State) : Res := s.writeG d (s.m a)
/-- `mpop` (R220). -/
def execMpop (d : GReg) (a : MReg) (s : State) : Res := s.writeG d (BitVec.ofNat 64 (onesBelow (s.m a) 64))

end Sys2Proof.Machine
end

