-- ==== Sys2Proof/Machine/VecMem.lean ====
section
/-!
DEFINITION. Vector memory (11_isa_vector_float R215 to R217): one access with several parts, each a line or an element.
-/

namespace Sys2Proof.Machine

/-- The first check that fails among some addresses of n bytes; in a store of a timed process each must also lie on its
own core (R215, R216). -/
def State.checkElements (s : State) (n : Nat) (store : Bool) : List Word → Option (Nat × Word)
  | [] => none
  | ea :: rest =>
    match s.checkScalar ea n false with
    | some c => some (c, ea)
    | none =>
      if store && s.isTimed s.cur && s.foreign ea then some (causeTimed, ea) else s.checkElements n store rest

/-- The lines of this core's local store that a store of a timed process touches. -/
def State.linesToJournal (s : State) (eas : List Word) : List Nat :=
  if s.isTimed s.cur then eas.filterMap s.ownLine? else []

/-- A vector load whose parts are n bytes at the given addresses, filling the bytes of v[d] at the given offsets. -/
def State.vecLoad (s : State) (i : Instr) (d : VReg) (n : Nat) (parts : List (Word × Nat)) : Res :=
  if parts.isEmpty then .next s.finish
  else s.issue i (.loadVec d) (parts.map fun p => partAt s.here p.1 n 0 p.2) s.me.pfx.rlx

/-- A vector store of n bytes at each address, taken from v[d] at the given offsets; journaled as R215 gives. -/
def State.vecStore (s : State) (i : Instr) (d : VReg) (n : Nat) (parts : List (Word × Nat)) : Res :=
  if parts.isEmpty then .next s.finish
  else
    match s.journalAll s.cur (s.linesToJournal (parts.map Prod.fst)) with
    | none => .next (s.holdWith i .journal)
    | some s' =>
      s'.issue i .store (parts.map fun p => partAt s.here p.1 n (elem (s.v d) (8 * n) (p.2 / n)) p.2) s.me.pfx.rlx

/-- The four line parts of a block (R215). -/
def blockParts (ea : Word) : List (Word × Nat) := (List.range 4).map fun k => (ea + BitVec.ofNat 64 (16 * k), 16 * k)

/-- `vld` (R215). -/
def execVld (d : VReg) (a : GReg) (i : BitVec 16) (s : State) : Res :=
  let ea := s.address a i
  match s.checkElements 64 false [ea] with
  | some (c, x) => s.trapAccess c x
  | none => s.vecLoad (.vld d a i) d 16 (blockParts ea)

/-- `vst` (R215). -/
def execVst (d : VReg) (a : GReg) (i : BitVec 16) (s : State) : Res :=
  let ea := s.address a i
  match s.checkElements 64 true [ea] with
  | some (c, x) => s.trapAccess c x
  | none => s.vecStore (.vst d a i) d 16 (blockParts ea)

/-- Bytes of an element (R216). -/
def LaneSize.bytes : LaneSize → Nat
  | .s1 => 1
  | .s2 => 2
  | .s4 => 4
  | .s8 => 8

/-- The addresses of the active elements, ascending, with their offsets in the register (R216). -/
def State.elementParts (s : State) (base stride : Word) (n : Nat) (k : MReg) : List (Word × Nat) :=
  ((List.range (64 / n)).filter (activeLane (s.m k))).map fun i => (base + BitVec.ofNat 64 i * stride, i * n)

/-- An element load (R216). -/
def State.elementLoad (s : State) (i : Instr) (d : VReg) (n : Nat) (parts : List (Word × Nat)) : Res :=
  match s.checkElements n false (parts.map Prod.fst) with
  | some (c, x) => s.trapAccess c x
  | none => s.vecLoad i d n parts

/-- An element store (R216). -/
def State.elementStore (s : State) (i : Instr) (d : VReg) (n : Nat) (parts : List (Word × Nat)) : Res :=
  match s.checkElements n true (parts.map Prod.fst) with
  | some (c, x) => s.trapAccess c x
  | none => s.vecStore i d n parts

/-- `vld.m` (R216). -/
def execVldM (d : VReg) (a : GReg) (z : LaneSize) (k : MReg) (s : State) : Res :=
  let n := LaneSize.bytes z
  s.elementLoad (.vldM d a z k) d n (s.elementParts (s.g a) (BitVec.ofNat 64 n) n k)

/-- `vst.m` (R216). -/
def execVstM (d : VReg) (a : GReg) (z : LaneSize) (k : MReg) (s : State) : Res :=
  let n := LaneSize.bytes z
  s.elementStore (.vstM d a z k) d n (s.elementParts (s.g a) (BitVec.ofNat 64 n) n k)

/-- `vlds`: g[b] is a signed byte stride (R216). -/
def execVlds (d : VReg) (a b : GReg) (z : LaneSize) (k : MReg) (s : State) : Res :=
  let n := LaneSize.bytes z
  s.elementLoad (.vlds d a b z k) d n (s.elementParts (s.g a) (s.g b) n k)

/-- `vsts` (R216). -/
def execVsts (d : VReg) (a b : GReg) (z : LaneSize) (k : MReg) (s : State) : Res :=
  let n := LaneSize.bytes z
  s.elementStore (.vsts d a b z k) d n (s.elementParts (s.g a) (s.g b) n k)

end Sys2Proof.Machine
end

