-- ==== Sys2Proof/Machine/Dispatch.lean ====
section
/-! DEFINITION. What each instruction does: one arm per row of the opcode table. -/

namespace Sys2Proof.Machine

/-- The meaning of an instruction. -/
def exec (i : Instr) (s : State) : Host.Outcome State Fault Refusal :=
  match i with
  | .add d a b => Sys2Proof.Machine.execAdd d a b s
  | .sub d a b => Sys2Proof.Machine.execSub d a b s
  | .and d a b => Sys2Proof.Machine.execAnd d a b s
  | .or d a b => Sys2Proof.Machine.execOr d a b s
  | .xor d a b => Sys2Proof.Machine.execXor d a b s
  | .shl d a b => Sys2Proof.Machine.execShl d a b s
  | .shr d a b => Sys2Proof.Machine.execShr d a b s
  | .sra d a b => Sys2Proof.Machine.execSra d a b s
  | .mul d a b => Sys2Proof.Machine.execMul d a b s
  | .mulh d a b => Sys2Proof.Machine.execMulh d a b s
  | .mulhu d a b => Sys2Proof.Machine.execMulhu d a b s
  | .div d a b => Sys2Proof.Machine.execDiv d a b s
  | .divu d a b => Sys2Proof.Machine.execDivu d a b s
  | .rem d a b => Sys2Proof.Machine.execRem d a b s
  | .remu d a b => Sys2Proof.Machine.execRemu d a b s
  | .min d a b => Sys2Proof.Machine.execMin d a b s
  | .max d a b => Sys2Proof.Machine.execMax d a b s
  | .minu d a b => Sys2Proof.Machine.execMinu d a b s
  | .maxu d a b => Sys2Proof.Machine.execMaxu d a b s
  | .sel d a b k => Sys2Proof.Machine.execSel d a b k s
  | .clz d a => Sys2Proof.Machine.execClz d a s
  | .ctz d a => Sys2Proof.Machine.execCtz d a s
  | .popc d a => Sys2Proof.Machine.execPopc d a s
  | .sextB d a => Sys2Proof.Machine.execSextB d a s
  | .sextH d a => Sys2Proof.Machine.execSextH d a s
  | .sextW d a => Sys2Proof.Machine.execSextW d a s
  | .zextB d a => Sys2Proof.Machine.execZextB d a s
  | .zextH d a => Sys2Proof.Machine.execZextH d a s
  | .zextW d a => Sys2Proof.Machine.execZextW d a s
  | .addi d a j => Sys2Proof.Machine.execAddi d a j s
  | .andi d a j => Sys2Proof.Machine.execAndi d a j s
  | .ori d a j => Sys2Proof.Machine.execOri d a j s
  | .xori d a j => Sys2Proof.Machine.execXori d a j s
  | .shli d a n => Sys2Proof.Machine.execShli d a n s
  | .shri d a n => Sys2Proof.Machine.execShri d a n s
  | .srai d a n => Sys2Proof.Machine.execSrai d a n s
  | .muli d a j => Sys2Proof.Machine.execMuli d a j s
  | .cmpEq d a b => Sys2Proof.Machine.execCmpEq d a b s
  | .cmpNe d a b => Sys2Proof.Machine.execCmpNe d a b s
  | .cmpLt d a b => Sys2Proof.Machine.execCmpLt d a b s
  | .cmpLe d a b => Sys2Proof.Machine.execCmpLe d a b s
  | .cmpGt d a b => Sys2Proof.Machine.execCmpGt d a b s
  | .cmpGe d a b => Sys2Proof.Machine.execCmpGe d a b s
  | .cmpLtu d a b => Sys2Proof.Machine.execCmpLtu d a b s
  | .cmpLeu d a b => Sys2Proof.Machine.execCmpLeu d a b s
  | .cmpGtu d a b => Sys2Proof.Machine.execCmpGtu d a b s
  | .cmpGeu d a b => Sys2Proof.Machine.execCmpGeu d a b s
  | .cmpiEq d a j => Sys2Proof.Machine.execCmpiEq d a j s
  | .cmpiLt d a j => Sys2Proof.Machine.execCmpiLt d a j s
  | .cmpiLtu d a j => Sys2Proof.Machine.execCmpiLtu d a j s
  | .pand d a b => Sys2Proof.Machine.execPand d a b s
  | .por d a b => Sys2Proof.Machine.execPor d a b s
  | .pxor d a b => Sys2Proof.Machine.execPxor d a b s
  | .pandn d a b => Sys2Proof.Machine.execPandn d a b s
  | .pnot d a => Sys2Proof.Machine.execPnot d a s
  | .pmov d a => Sys2Proof.Machine.execPmov d a s
  | .pset d => Sys2Proof.Machine.execPset d s
  | .pclr d => Sys2Proof.Machine.execPclr d s
  | .prd d => Sys2Proof.Machine.execPrd d s
  | .pwr a => Sys2Proof.Machine.execPwr a s
  | .bt a o => Sys2Proof.Machine.execBt a o s
  | .bf a o => Sys2Proof.Machine.execBf a o s
  | .bz a o => Sys2Proof.Machine.execBz a o s
  | .bnz a o => Sys2Proof.Machine.execBnz a o s
  | .j o => Sys2Proof.Machine.execJ o s
  | .jal o => Sys2Proof.Machine.execJal o s
  | .jr a => Sys2Proof.Machine.execJr a s
  | .jalr d a => Sys2Proof.Machine.execJalr d a s
  | .ldB d a j => Sys2Proof.Machine.execLdB d a j s
  | .ldBu d a j => Sys2Proof.Machine.execLdBu d a j s
  | .ldH d a j => Sys2Proof.Machine.execLdH d a j s
  | .ldHu d a j => Sys2Proof.Machine.execLdHu d a j s
  | .ldW d a j => Sys2Proof.Machine.execLdW d a j s
  | .ldWu d a j => Sys2Proof.Machine.execLdWu d a j s
  | .ldD d a j => Sys2Proof.Machine.execLdD d a j s
  | .ldQ d a j => Sys2Proof.Machine.execLdQ d a j s
  | .stB d a j => Sys2Proof.Machine.execStB d a j s
  | .stH d a j => Sys2Proof.Machine.execStH d a j s
  | .stW d a j => Sys2Proof.Machine.execStW d a j s
  | .stD d a j => Sys2Proof.Machine.execStD d a j s
  | .stQ d a j => Sys2Proof.Machine.execStQ d a j s
  | .stX4 d a q => Sys2Proof.Machine.execStX4 d a q s
  | .stX6 d a q => Sys2Proof.Machine.execStX6 d a q s
  | .aadd d a w => Sys2Proof.Machine.execAadd d a w s
  | .amin d a w => Sys2Proof.Machine.execAmin d a w s
  | .amax d a w => Sys2Proof.Machine.execAmax d a w s
  | .aminu d a w => Sys2Proof.Machine.execAminu d a w s
  | .amaxu d a w => Sys2Proof.Machine.execAmaxu d a w s
  | .aand d a w => Sys2Proof.Machine.execAand d a w s
  | .aor d a w => Sys2Proof.Machine.execAor d a w s
  | .axor d a w => Sys2Proof.Machine.execAxor d a w s
  | .fadd d a b t r => Sys2Proof.Machine.execFadd d a b t r s
  | .fsub d a b t r => Sys2Proof.Machine.execFsub d a b t r s
  | .fmul d a b t r => Sys2Proof.Machine.execFmul d a b t r s
  | .fdiv d a b t r => Sys2Proof.Machine.execFdiv d a b t r s
  | .fsqrt d a t r => Sys2Proof.Machine.execFsqrt d a t r s
  | .fmac d a b t r => Sys2Proof.Machine.execFmac d a b t r s
  | .fmin d a b t => Sys2Proof.Machine.execFmin d a b t s
  | .fmax d a b t => Sys2Proof.Machine.execFmax d a b t s
  | .fabs d a t => Sys2Proof.Machine.execFabs d a t s
  | .fneg d a t => Sys2Proof.Machine.execFneg d a t s
  | .fcmpEq d a b t => Sys2Proof.Machine.execFcmpEq d a b t s
  | .fcmpLt d a b t => Sys2Proof.Machine.execFcmpLt d a b t s
  | .fcmpLe d a b t => Sys2Proof.Machine.execFcmpLe d a b t s
  | .fcmpUn d a b t => Sys2Proof.Machine.execFcmpUn d a b t s
  | .cvt d a t u r => Sys2Proof.Machine.execCvt d a t u r s
  | .fli d t h => Sys2Proof.Machine.execFli d t h s
  | .vadd d a b t k => Sys2Proof.Machine.execVadd d a b t k s
  | .vsub d a b t k => Sys2Proof.Machine.execVsub d a b t k s
  | .vmul d a b t k => Sys2Proof.Machine.execVmul d a b t k s
  | .vmulh d a b t k => Sys2Proof.Machine.execVmulh d a b t k s
  | .vmin d a b t k => Sys2Proof.Machine.execVmin d a b t k s
  | .vmax d a b t k => Sys2Proof.Machine.execVmax d a b t k s
  | .vminu d a b t k => Sys2Proof.Machine.execVminu d a b t k s
  | .vmaxu d a b t k => Sys2Proof.Machine.execVmaxu d a b t k s
  | .vand d a b t k => Sys2Proof.Machine.execVand d a b t k s
  | .vor d a b t k => Sys2Proof.Machine.execVor d a b t k s
  | .vxor d a b t k => Sys2Proof.Machine.execVxor d a b t k s
  | .vshl d a b t k => Sys2Proof.Machine.execVshl d a b t k s
  | .vshr d a b t k => Sys2Proof.Machine.execVshr d a b t k s
  | .vsra d a b t k => Sys2Proof.Machine.execVsra d a b t k s
  | .vabs d a t k => Sys2Proof.Machine.execVabs d a t k s
  | .vneg d a t k => Sys2Proof.Machine.execVneg d a t k s
  | .vadds d a b t k => Sys2Proof.Machine.execVadds d a b t k s
  | .vsubs d a b t k => Sys2Proof.Machine.execVsubs d a b t k s
  | .vmac d a b t k => Sys2Proof.Machine.execVmac d a b t k s
  | .vdot4 d a b k => Sys2Proof.Machine.execVdot4 d a b k s
  | .vfadd d a b t k r => Sys2Proof.Machine.execVfadd d a b t k r s
  | .vfsub d a b t k r => Sys2Proof.Machine.execVfsub d a b t k r s
  | .vfmul d a b t k r => Sys2Proof.Machine.execVfmul d a b t k r s
  | .vfdiv d a b t k r => Sys2Proof.Machine.execVfdiv d a b t k r s
  | .vfma d a b t k r => Sys2Proof.Machine.execVfma d a b t k r s
  | .vfmin d a b t k => Sys2Proof.Machine.execVfmin d a b t k s
  | .vfmax d a b t k => Sys2Proof.Machine.execVfmax d a b t k s
  | .vfsqrt d a t k r => Sys2Proof.Machine.execVfsqrt d a t k r s
  | .vfabs d a t k => Sys2Proof.Machine.execVfabs d a t k s
  | .vfneg d a t k => Sys2Proof.Machine.execVfneg d a t k s
  | .vfdist d a b t k => Sys2Proof.Machine.execVfdist d a b t k s
  | .vcmpEq d a b t k => Sys2Proof.Machine.execVcmpEq d a b t k s
  | .vcmpNe d a b t k => Sys2Proof.Machine.execVcmpNe d a b t k s
  | .vcmpLt d a b t k => Sys2Proof.Machine.execVcmpLt d a b t k s
  | .vcmpLe d a b t k => Sys2Proof.Machine.execVcmpLe d a b t k s
  | .vcmpGt d a b t k => Sys2Proof.Machine.execVcmpGt d a b t k s
  | .vcmpGe d a b t k => Sys2Proof.Machine.execVcmpGe d a b t k s
  | .vcmpLtu d a b t k => Sys2Proof.Machine.execVcmpLtu d a b t k s
  | .vcmpUn d a b t k => Sys2Proof.Machine.execVcmpUn d a b t k s
  | .vcvt d a p k t u r => Sys2Proof.Machine.execVcvt d a p k t u r s
  | .vld d a j => Sys2Proof.Machine.execVld d a j s
  | .vst d a j => Sys2Proof.Machine.execVst d a j s
  | .vldM d a z k => Sys2Proof.Machine.execVldM d a z k s
  | .vstM d a z k => Sys2Proof.Machine.execVstM d a z k s
  | .vlds d a b z k => Sys2Proof.Machine.execVlds d a b z k s
  | .vsts d a b z k => Sys2Proof.Machine.execVsts d a b z k s
  | .vbcast d a t k => Sys2Proof.Machine.execVbcast d a t k s
  | .vext d a b t => Sys2Proof.Machine.execVext d a b t s
  | .vins d a b t => Sys2Proof.Machine.execVins d a b t s
  | .vperm d a b t k => Sys2Proof.Machine.execVperm d a b t k s
  | .vsel d a b t k => Sys2Proof.Machine.execVsel d a b t k s
  | .vmov d a t k => Sys2Proof.Machine.execVmov d a t k s
  | .vredAdd d a t k => Sys2Proof.Machine.execVredAdd d a t k s
  | .vredMin d a t k => Sys2Proof.Machine.execVredMin d a t k s
  | .vredMax d a t k => Sys2Proof.Machine.execVredMax d a t k s
  | .vredMinu d a t k => Sys2Proof.Machine.execVredMinu d a t k s
  | .vredMaxu d a t k => Sys2Proof.Machine.execVredMaxu d a t k s
  | .vfredAdd d a t k => Sys2Proof.Machine.execVfredAdd d a t k s
  | .vfredMin d a t k => Sys2Proof.Machine.execVfredMin d a t k s
  | .vfredMax d a t k => Sys2Proof.Machine.execVfredMax d a t k s
  | .mand d a b => Sys2Proof.Machine.execMand d a b s
  | .mor d a b => Sys2Proof.Machine.execMor d a b s
  | .mxor d a b => Sys2Proof.Machine.execMxor d a b s
  | .mnot d a => Sys2Proof.Machine.execMnot d a s
  | .mmov d a => Sys2Proof.Machine.execMmov d a s
  | .mfromg d a => Sys2Proof.Machine.execMfromg d a s
  | .mtog d a => Sys2Proof.Machine.execMtog d a s
  | .mpop d a => Sys2Proof.Machine.execMpop d a s
  | .mxCfg a b => Sys2Proof.Machine.execMxCfg a b s
  | .mxGet d a => Sys2Proof.Machine.execMxGet d a s
  | .mxMma d a b f => Sys2Proof.Machine.execMxMma d a b f s
  | .mxMmb d a b f => Sys2Proof.Machine.execMxMmb d a b f s
  | .mxDist d a b f => Sys2Proof.Machine.execMxDist d a b f s
  | .mxTopk d a b f => Sys2Proof.Machine.execMxTopk d a b f s
  | .mxZero d a b f => Sys2Proof.Machine.execMxZero d a b f s
  | .mxLd d a b f => Sys2Proof.Machine.execMxLd d a b f s
  | .mxSt d a b f => Sys2Proof.Machine.execMxSt d a b f s
  | .cpCfg a b => Sys2Proof.Machine.execCpCfg a b s
  | .cpCopy d a b f => Sys2Proof.Machine.execCpCopy d a b f s
  | .cpStream d a b f => Sys2Proof.Machine.execCpStream d a b f s
  | .cpCancel a => Sys2Proof.Machine.execCpCancel a s
  | .cpStat d a => Sys2Proof.Machine.execCpStat d a s
  | .evNew d a b => Sys2Proof.Machine.execEvNew d a b s
  | .evFree a => Sys2Proof.Machine.execEvFree a s
  | .offer d a => Sys2Proof.Machine.execOffer d a s
  | .offer1 d a => Sys2Proof.Machine.execOffer1 d a s
  | .offerT d a b => Sys2Proof.Machine.execOfferT d a b s
  | .vtSet a => Sys2Proof.Machine.execVtSet a s
  | .vtGet d => Sys2Proof.Machine.execVtGet d s
  | .gvt d => Sys2Proof.Machine.execGvt d s
  | .settle => Sys2Proof.Machine.execSettle s
  | .wrap => Sys2Proof.Machine.execWrap s
  | .wrapDone a => Sys2Proof.Machine.execWrapDone a s
  | .spawn d a b => Sys2Proof.Machine.execSpawn d a b s
  | .mig a u => Sys2Proof.Machine.execMig a u s
  | .msg d a b => Sys2Proof.Machine.execMsg d a b s
  | .reply a => Sys2Proof.Machine.execReply a s
  | .yield => Sys2Proof.Machine.execYield s
  | .halt => Sys2Proof.Machine.execHalt s
  | .now d => Sys2Proof.Machine.execNow d s
  | .cyc d => Sys2Proof.Machine.execCyc d s
  | .rsync => Sys2Proof.Machine.execRsync s
  | .brk c => Sys2Proof.Machine.execBrk c s
  | .trap c => Sys2Proof.Machine.execTrap c s
  | .crr d c => Sys2Proof.Machine.execCrr d c s
  | .crw a c => Sys2Proof.Machine.execCrw a c s
  | .rett => Sys2Proof.Machine.execRett s
  | .crset a c => Sys2Proof.Machine.execCrset a c s
  | .crclr a c => Sys2Proof.Machine.execCrclr a c s
  | .rlx => Sys2Proof.Machine.execRlx s
  | .ext h => Sys2Proof.Machine.execExt h s
  | .lateTrap tid => Sys2Proof.Machine.execLateTrap tid s
  | .accessTravel tid n k => Sys2Proof.Machine.execAccessTravel tid n k s
  | .accessPerform bank ecc => Sys2Proof.Machine.execAccessPerform bank ecc s
  | .uncorrectableError kind at' => Sys2Proof.Machine.execUncorrectableError kind at' s
  | .carrierMessage pcn => Sys2Proof.Machine.execCarrierMessage pcn s
  | .msgReply n => Sys2Proof.Machine.execMsgReply n s
  | .emberArrival n => Sys2Proof.Machine.execEmberArrival n s
  | .migAccept n => Sys2Proof.Machine.execMigAccept n s
  | .emberAdmit pcn => Sys2Proof.Machine.execEmberAdmit pcn s
  | .offerHeader n => Sys2Proof.Machine.execOfferHeader n s
  | .claim n => Sys2Proof.Machine.execClaim n s
  | .claimAnswer n => Sys2Proof.Machine.execClaimAnswer n s
  | .commitNotice n => Sys2Proof.Machine.execCommitNotice n s
  | .slotRelease n => Sys2Proof.Machine.execSlotRelease n s
  | .headerWithdrawal n => Sys2Proof.Machine.execHeaderWithdrawal n s
  | .combineContribution n router => Sys2Proof.Machine.execCombineContribution n router s
  | .streamCircuit n => Sys2Proof.Machine.execStreamCircuit n s
  | .payloadArrival n => Sys2Proof.Machine.execPayloadArrival n s
  | .eventOccur pcn idx => Sys2Proof.Machine.execEventOccur pcn idx s
  | .offerTimeout tid => Sys2Proof.Machine.execOfferTimeout tid s
  | .evNewRequest n => Sys2Proof.Machine.execEvNewRequest n s
  | .evNewAnswer n => Sys2Proof.Machine.execEvNewAnswer n s
  | .evFreeRequest n => Sys2Proof.Machine.execEvFreeRequest n s
  | .entryFreed pcn idx => Sys2Proof.Machine.execEntryFreed pcn idx s
  | .stragglerClaim n => Sys2Proof.Machine.execStragglerClaim n s
  | .antiMessage n => Sys2Proof.Machine.execAntiMessage n s
  | .gvtRoundStart launch => Sys2Proof.Machine.execGvtRoundStart launch s
  | .gvtStartPacket n => Sys2Proof.Machine.execGvtStartPacket n s
  | .gvtPassReport n router => Sys2Proof.Machine.execGvtPassReport n router s
  | .gvtResult n => Sys2Proof.Machine.execGvtResult n s
  | .deferredAction pcn => Sys2Proof.Machine.execDeferredAction pcn s
  | .wrapUp launch => Sys2Proof.Machine.execWrapUp launch s
  | .wrapupCut launch => Sys2Proof.Machine.execWrapupCut launch s
  | .deadlineOverrun launch => Sys2Proof.Machine.execDeadlineOverrun launch s
  | .launchComplete launch => Sys2Proof.Machine.execLaunchComplete launch s
  | .engineGrant cluster engine choice => Sys2Proof.Machine.execEngineGrant cluster engine choice s
  | .streamStart pcn => Sys2Proof.Machine.execStreamStart pcn s
  | .jobComplete pcn engine => Sys2Proof.Machine.execJobComplete pcn engine s
  | .copyOverdue pcn => Sys2Proof.Machine.execCopyOverdue pcn s
  | .faultRecord n => Sys2Proof.Machine.execFaultRecord n s
  | .fqheadWrite pcn v => Sys2Proof.Machine.execFqheadWrite pcn v s
  | .freplyWrite pcn v => Sys2Proof.Machine.execFreplyWrite pcn v s
  | .faultReply n => Sys2Proof.Machine.execFaultReply n s
  | .tcinvRootWrite pcn v => Sys2Proof.Machine.execTcinvRootWrite pcn v s
  | .tcinvPageWrite pcn v => Sys2Proof.Machine.execTcinvPageWrite pcn v s
  | .loadWindowEnd pcn north east south west => Sys2Proof.Machine.execLoadWindowEnd pcn north east south west s
  | .commandSubmission sender msg => Sys2Proof.Machine.execCommandSubmission sender msg s
  | .eventIngress sender msg => Sys2Proof.Machine.execEventIngress sender msg s
  | .tagPost sender msg => Sys2Proof.Machine.execTagPost sender msg s
  | .floorOnly sender msg => Sys2Proof.Machine.execFloorOnly sender msg s
  | .attestationRequest sender msg => Sys2Proof.Machine.execAttestationRequest sender msg s
  | .rmaWrite request region va bytes => Sys2Proof.Machine.execRmaWrite request region va bytes s
  | .rmaRead request region va len => Sys2Proof.Machine.execRmaRead request region va len s
  | .peerSendAck pcn job => Sys2Proof.Machine.execPeerSendAck pcn job s
  | .effectTake region => Sys2Proof.Machine.execEffectTake region s
  | .launch region descs => Sys2Proof.Machine.execLaunch region descs s
  | .begin region => Sys2Proof.Machine.execBegin region s
  | .commit region => Sys2Proof.Machine.execCommit region s
  | .destroy region => Sys2Proof.Machine.execDestroy region s
  | .haltProcess region => Sys2Proof.Machine.execHaltProcess region s
  | .resumeProcess region => Sys2Proof.Machine.execResumeProcess region s
  | .freeze region => Sys2Proof.Machine.execFreeze region s
  | .thaw region => Sys2Proof.Machine.execThaw region s
  | .windowOpen launch => Sys2Proof.Machine.execWindowOpen launch s
  | .placementDecision die launch time cores => Sys2Proof.Machine.execPlacementDecision die launch time cores s
  | .placement launch cores => Sys2Proof.Machine.execPlacement launch cores s
  | .placementCommit launch => Sys2Proof.Machine.execPlacementCommit launch s
  | .operatingPointChange die => Sys2Proof.Machine.execOperatingPointChange die s
  | .launchExpire launch => Sys2Proof.Machine.execLaunchExpire launch s
  | .switchNotice n => Sys2Proof.Machine.execSwitchNotice n s
  | .gangStop colour => Sys2Proof.Machine.execGangStop colour s
  | .gangSave colour => Sys2Proof.Machine.execGangSave colour s
  | .latePacketLog n => Sys2Proof.Machine.execLatePacketLog n s
  | .gangResume colour time => Sys2Proof.Machine.execGangResume colour time s
  | .regionLiveSet region => Sys2Proof.Machine.execRegionLiveSet region s
  | .contextImageRead tid off => Sys2Proof.Machine.execContextImageRead tid off s
  | .contextImageWrite tid off v => Sys2Proof.Machine.execContextImageWrite tid off v s
  | .fwctlWrite pcn v => Sys2Proof.Machine.execFwctlWrite pcn v s
  | .pwrlimWrite v => Sys2Proof.Machine.execPwrlimWrite v s
  | .controlRegisterWrite addr v => Sys2Proof.Machine.execControlRegisterWrite addr v s
  | .ptpMessage time locked => Sys2Proof.Machine.execPtpMessage time locked s
  | .nowStep time => Sys2Proof.Machine.execNowStep time s
  | .holdoverExpire => Sys2Proof.Machine.execHoldoverExpire s
  | .lifecycleCommand target command keys => Sys2Proof.Machine.execLifecycleCommand target command keys s
  | .reset => Sys2Proof.Machine.execReset s
  | .wipeDone cores frames => Sys2Proof.Machine.execWipeDone cores frames s
  | .firmwareVerify stageAt stageLen firmware table signatures => Sys2Proof.Machine.execFirmwareVerify stageAt stageLen firmware table signatures s
  | .oobImage stageAt stageLen firmware table signatures => Sys2Proof.Machine.execOobImage stageAt stageLen firmware table signatures s
  | .selfCheck pcn ok => Sys2Proof.Machine.execSelfCheck pcn ok s
  | .thermalTrip => Sys2Proof.Machine.execThermalTrip s
  | .tinderGo pcn v => Sys2Proof.Machine.execTinderGo pcn v s
  | .tinder n => Sys2Proof.Machine.execTinder n s
  | .tinderRefuse n => Sys2Proof.Machine.execTinderRefuse n s
  | .tinderDone n => Sys2Proof.Machine.execTinderDone n s
  | .selfCheckEnd pcn ok => Sys2Proof.Machine.execSelfCheckEnd pcn ok s
  | .slotgo pcn v => Sys2Proof.Machine.execSlotgo pcn v s
  | .bootctlEnd v => Sys2Proof.Machine.execBootctlEnd v s
  | .bootTimeout die => Sys2Proof.Machine.execBootTimeout die s
  | .illegalInstruction tid => Sys2Proof.Machine.execIllegalInstruction tid s
  | .unmappedFetch tid => Sys2Proof.Machine.execUnmappedFetch tid s
  | .masterLost => Sys2Proof.Machine.execMasterLost s
  | .uetSendAbandon pcn job => Sys2Proof.Machine.execUetSendAbandon pcn job s

end Sys2Proof.Machine
end

