-- ==== Sys2Proof/Machine/Cycle.lean ====
section
/-!
DEFINITION. One cycle of a core's clock (03_processes R35), and which steps without a word the machine takes of its own
accord.
-/

namespace Sys2Proof.Machine

/-- The state after a core's cycle in which something has happened. -/
def closeCycle (pcn : Nat) (r : Res) : Res :=
  match r with
  | .next s => .next (s.endCycle pcn)
  | .fault e => .fault e
  | .refused e => .refused e

/-- What a context does with an issue opportunity (R35, R287). -/
def issue (tid : Nat) (s : State) : Res :=
  match nextIssue s tid with
  | .trap t => .next (s.takeTrapAt tid t)
  | .late => execLateTrap tid s
  | .illegal => execIllegalInstruction tid s
  | .unmapped => execUnmappedFetch tid s
  | .wait i => .next (s.holdWith i .register)
  | .run i => exec i s

/-- One cycle of a core (R35): the slot that issues issues; slot 0 runs its message. -/
def coreCycle (pcn : Nat) (s : State) : Res :=
  match s.issuer pcn with
  | none => .next (s.endCycle pcn)
  | some (slot, lent) =>
    let s1 := s.beginIssue pcn slot lent
    closeCycle pcn (if slot = 0 then execCarrierMessage pcn s1 else issue (16 * pcn + slot) s1)

/-- A step without a word that the machine, or the world outside, takes between the cycles. What a cycle or an access to
control space does is not one: it happens there. -/
def spontaneous (i : Instr) : Bool :=
  match i with
  | .lateTrap _ | .carrierMessage _ | .illegalInstruction _ | .unmappedFetch _ => false
  | .fqheadWrite _ _ | .freplyWrite _ _ | .tcinvRootWrite _ _ | .tcinvPageWrite _ _ | .contextImageRead _ _
  | .contextImageWrite _ _ _ | .fwctlWrite _ _ | .pwrlimWrite _ | .controlRegisterWrite _ _ | .tinderGo _ _
  | .slotgo _ _ | .bootctlEnd _ => false
  | _ => i.fields.isNone

/-- The move at hand. -/
def runMove (m : MoveKind) (s : State) : Res :=
  match m with
  | .cycle pcn => if pcn < 4096 then coreCycle pcn s else .next s
  | .event i => if spontaneous i then exec i s else .next s

/-- The next move: the first of the agenda, or one that the schedule picks (R10). -/
def nextMove (s : State) : Move × State :=
  match s.agenda with
  | m :: rest => (m, { s with agenda := rest })
  | [] => (Config.schedule s.fresh, { s with fresh := s.fresh + 1 })

/-- Device time moves on before the move (R106). -/
def passTime (s : State) (dt : Nat) : State := { s with now := (s.now + dt) % 2 ^ 64 }

/-- A context that belongs to no launch, at its first word: user core 0's slot 1, at system level, as the boot ROM starts it
(R372). -/
def firstContext : Ctx :=
  { Ctx.zero with status := .ready, proc := State.bareKey 1, home := 1, xstat := 1, pw := 1 }

/-- The bytes of an instruction, where the first context fetches them. -/
def firstBytes (nbits w : Nat) : List Byte := bytesOfWord (BitVec.ofNat 32 (w % 2 ^ nbits))

/-- A program of one instruction placed for the next step: the first context at offset 0 of core 0, whose cycle comes
next and is its own. -/
def placeFirst (s : State) (nbits w : Nat) : State :=
  let c := s.core 0
  let s1 := (s.setMem (memWrite (localKey 0 0) (firstBytes nbits w) s.mem)).setCtx 1 firstContext
  { (s1.setProc (State.bareKey 1) (State.bareProc 1)).setCore 0 { c with cyc := c.cyc / 16 * 16 + 1 } with
    agenda := [⟨0, .cycle 0⟩] }

end Sys2Proof.Machine
end

