-- ==== Sys2Proof/Machine/Step.lean ====
section
/-!
DEFINITION. One step of the machine: device time moves on, and one agent moves (R10, R20, R58): a core's clock, or a step
without a word.
-/

namespace Sys2Proof.Machine

/-- One step. -/
def step (s : State) : Host.Outcome State Fault Refusal :=
  runMove (nextMove s).1.what (passTime (nextMove s).2 (nextMove s).1.dt)

/-- The state with an instruction placed where the next step fetches it. -/
def State.withFetchWord (s : State) (nbits w : Nat) : State := placeFirst s nbits w

end Sys2Proof.Machine
end

