-- ==== Sys2Proof/Safety.lean ====
section
/-!
DEFINITION. What counts as a state of the device, and as a step that keeps to it: memory in its canonical form, and the
codes that LCSTATE, TSTAT and BOOTSTAT name (22_host_security R357, R363; 23_bringup R369).
-/

namespace Sys2Proof.Machine

/-- The phases of the boot sequence at which the machine stands between steps: the wipe, the verification, boot mode, and
after its end (R369). -/
def bootPhases : List Nat := [1, 3, 5, 7]

/-- A state of the device: memory is canonical, and the codes of the lifecycle, the time state and the boot phase are among
those the spec names. -/
structure State.Inv (s : State) : Prop where
  mem : memWf s.mem = true
  lifecycle : s.lifecycle ≤ 3
  tstat : s.tstat ≤ 4
  phase : s.phase ∈ bootPhases

/-- An answer that keeps the invariant: a next state has it. -/
def Res.Inv (r : Res) : Prop :=
  match r with
  | .next t => t.Inv
  | .fault _ | .refused _ => True

/-- An answer with a next state: the machine goes on. -/
def Res.goesOn (r : Res) : Prop := ∃ t, r = .next t

/-! ## What an instruction leaves alone -/

/-- The instruction ends in a next state, of which something holds. -/
def Completes (i : Instr) (s : State) (after : State → Prop) : Prop := ∃ t, exec i s = .next t ∧ after t

/-- Of the whole device only the context that issues may differ: every other context, every byte of memory and every other
part of the device is as before. -/
structure OnlyMe (s t : State) : Prop where
  device : { t with ctxs := s.ctxs } = s
  others : ∀ k, k ≠ s.cur → t.ctx k = s.ctx k
  bytes : ∀ a, memGet a t.mem = memGet a s.mem

/-- A context goes on at an address: no prefix governs the next instruction, none is held, and nothing is waited for. -/
structure GoesOnAt (c : Ctx) (pc : Word) : Prop where
  pc : c.pc = pc
  pfx : c.pfx = .none
  held : c.held = none
  wait : c.wait = .none
  status : c.status = .ready

/-- A context with the parts that say where it stands in its program taken from another. -/
def Ctx.placedAs (c b : Ctx) : Ctx :=
  { c with pc := b.pc, pfx := b.pfx, held := b.held, wait := b.wait, status := b.status }

/-- Nothing but the place in the program changes, which is now an address. -/
structure WritesNothing (s t : State) (pc : Word) : Prop where
  only : OnlyMe s t
  next : GoesOnAt t.me pc
  mine : t.me.placedAs s.me = s.me

/-- g[d] takes a value, or g0 discards it; every other register, flag and special register keeps its own. -/
structure WritesG (s t : State) (d : GReg) (v : Word) (pc : Word) : Prop where
  only : OnlyMe s t
  next : GoesOnAt t.me pc
  reg : ∀ r, t.g r = if r = d ∧ r ≠ 0 then v else s.g r
  mine : { t.me.placedAs s.me with regs := s.me.regs } = s.me

/-- P[d] takes a value, or p0 discards it; nothing else of the context changes. -/
structure WritesP (s t : State) (d : PReg) (v : Bool) (pc : Word) : Prop where
  only : OnlyMe s t
  next : GoesOnAt t.me pc
  pred : ∀ r, t.p r = if r = d ∧ r ≠ 0 then v else s.p r
  mine : { t.me.placedAs s.me with pw := s.me.pw } = s.me

/-- m[d] takes a value, or m0 discards it; nothing else of the context changes. -/
structure WritesM (s t : State) (d : MReg) (v : Word) (pc : Word) : Prop where
  only : OnlyMe s t
  next : GoesOnAt t.me pc
  mask : ∀ r, t.m r = if r = d ∧ r ≠ 0 then v else s.m r
  mine : { t.me.placedAs s.me with masks := s.me.masks } = s.me

/-- The flags that an operation raises are set beside those that stand, and SRNG takes a value. -/
structure Raises (s t : State) (f : FlagSet) (srng : BitVec 32) : Prop where
  flags : t.me.fflags = s.me.fflags ||| (f &&& fflagsMask)
  srng : t.me.srng = srng

/-- g[d] takes a result whose flags are raised; nothing else of the context changes. -/
structure WritesFp (s t : State) (d : GReg) (v : Word) (f : FlagSet) (srng : BitVec 32) : Prop where
  only : OnlyMe s t
  next : GoesOnAt t.me (s.me.pc + 4)
  reg : ∀ r, t.g r = if r = d ∧ r ≠ 0 then v else s.g r
  raises : Raises s t f srng
  mine : { t.me.placedAs s.me with regs := s.me.regs, fflags := s.me.fflags, srng := s.me.srng } = s.me

/-- P[d] takes the outcome of a test whose flags are raised; nothing else of the context changes. -/
structure TestsP (s t : State) (d : PReg) (v : Bool) (f : FlagSet) : Prop where
  only : OnlyMe s t
  next : GoesOnAt t.me (s.me.pc + 4)
  pred : ∀ r, t.p r = if r = d ∧ r ≠ 0 then v else s.p r
  raises : Raises s t f s.me.srng
  mine : { t.me.placedAs s.me with pw := s.me.pw, fflags := s.me.fflags } = s.me

/-- m[d] takes the outcomes of a test of lanes whose flags are raised; nothing else of the context changes. -/
structure TestsM (s t : State) (d : MReg) (v : Word) (f : FlagSet) : Prop where
  only : OnlyMe s t
  next : GoesOnAt t.me (s.me.pc + 4)
  mask : ∀ r, t.m r = if r = d ∧ r ≠ 0 then v else s.m r
  raises : Raises s t f s.me.srng
  mine : { t.me.placedAs s.me with masks := s.me.masks, fflags := s.me.fflags } = s.me

/-- The rational number that an exact value stands for, without what it leaves out. -/
def Exact.rat (e : Exact) : ℚ := (if e.neg then -1 else 1) * (e.mag : ℚ) * (2 : ℚ) ^ e.exp

/-- Of the whole device only the context that issues and the bytes of one of its vector registers may differ; slot 0's
registers take nothing. -/
structure WritesOnlyV (s t : State) (d : VReg) : Prop where
  device : { t with ctxs := s.ctxs, mem := s.mem } = s
  others : ∀ k, k ≠ s.cur → t.ctx k = s.ctx k
  bytes : ∀ a, a < s.vKey d ∨ s.vKey d + 64 ≤ a ∨ (slotOfTid s.cur = 0 ∧ s.cur < 65536) → memGet a t.mem = memGet a s.mem
  next : GoesOnAt t.me (s.me.pc + 4)
  mine : { t.me.placedAs s.me with fflags := s.me.fflags, srng := s.me.srng } = s.me

/-- The elements of v[d] that n pairs of lanes name take results, pair by pair: pair j, where it is active, gives element
`place j` of w bits the result f j, drawn with generator g j. Every other element keeps its value, and the flags are those
of all active pairs (R201, R213). Slot 0 has no vector registers (R56). -/
structure LanesWritten (s t : State) (d : VReg) (w n : Nat) (on : Nat → Bool) (place : Nat → Nat)
    (f : Nat → BitVec 32 → FpResult) (g : Nat → BitVec 32) : Prop where
  only : WritesOnlyV s t d
  srng : t.me.srng = g n
  flags : ∀ b, t.me.fflags.getLsbD b = (s.me.fflags.getLsbD b ||
    (fflagsMask.getLsbD b && (List.range n).any fun j => on j && (f j (g j)).flags.getLsbD b))
  lanes : memWf s.mem = true → slotOfTid s.cur ≠ 0 →
    (∀ j < n, on j = true → elem (t.v d) w (place j) = (f j (g j)).bits % 2 ^ w) ∧
    (∀ e < 512 / w, (∀ j < n, on j = true → place j ≠ e) → elem (t.v d) w e = elem (s.v d) w e) ∧
    t.v d / 2 ^ (512 / w * w) = s.v d / 2 ^ (512 / w * w)

/-- The instruction writes lanes: the generator goes from one active pair to the next, in ascending order. -/
def SetsLanes (i : Instr) (s : State) (d : VReg) (w n : Nat) (on : Nat → Bool) (place : Nat → Nat)
    (f : Nat → BitVec 32 → FpResult) : Prop :=
  ∃ g : Nat → BitVec 32, g 0 = s.me.srng ∧ (∀ j, g (j + 1) = if on j then (f j (g j)).srng else g j) ∧
    Completes i s fun t => LanesWritten s t d w n on place f g

/-- The instruction ends at the next word and writes g[d]. -/
def SetsG (i : Instr) (s : State) (d : GReg) (v : Word) : Prop := Completes i s fun t => WritesG s t d v (s.me.pc + 4)

/-- The instruction ends at the next word and writes P[d]. -/
def SetsP (i : Instr) (s : State) (d : PReg) (v : Bool) : Prop := Completes i s fun t => WritesP s t d v (s.me.pc + 4)

/-- The instruction ends at the next word and writes m[d]. -/
def SetsM (i : Instr) (s : State) (d : MReg) (v : Word) : Prop := Completes i s fun t => WritesM s t d v (s.me.pc + 4)

/-- The instruction writes nothing and goes on at an address. -/
def GoesTo (i : Instr) (s : State) (pc : Word) : Prop := Completes i s fun t => WritesNothing s t pc

/-- The context waits, with the instruction to issue again; nothing else changes. -/
def WaitsFor (i : Instr) (s : State) (w : Wait) : Prop :=
  Completes i s fun t =>
    OnlyMe s t ∧ t.me = { s.me with held := some i, wait := w, status := .waiting }

/-! ## Traps (R288) -/

/-- A context that can enter its handler at once: its relaxed buffer is empty, it is not in a handler, it has one, and it is
at home. -/
structure CanTrap (c : Ctx) : Prop where
  drained : c.relaxed = [] ∧ c.relaxedMsgs = []
  outside : c.xstat.getLsbD 1 = false
  handler : c.xvec &&& 0x1FFFC ≠ 0
  home : c.away = false

/-- The context that issues has entered its handler for an exact trap. -/
structure EntersHandler (s t : State) (cause : Nat) (xpc xaddr : Word) : Prop where
  only : OnlyMe s t
  next : GoesOnAt t.me (s.me.xvec &&& 0x1FFFC)
  xpc : t.me.xpc = xpc &&& ~~~(3 : Word)
  xcause : t.me.xcause = BitVec.ofNat 64 cause
  xaddr : t.me.xaddr = xaddr
  xring : t.me.xring = 0
  level : t.me.xstat.getLsbD 0 = s.me.xstat.getLsbD 0
  mode : t.me.xstat.getLsbD 1 = true
  saved : t.me.xstat.getLsbD 2 = s.me.xstat.getLsbD 0
  above : t.me.xstat >>> 3 = s.me.xstat >>> 3
  mine : { t.me.placedAs s.me with
    xpc := s.me.xpc, xcause := s.me.xcause, xaddr := s.me.xaddr, xring := s.me.xring, xstat := s.me.xstat
    trapping := s.me.trapping } = s.me
  taken : t.me.trapping = none

/-- The instruction takes an exact trap, and XPC names a word. -/
def TakesTrap (i : Instr) (s : State) (cause : Nat) (xpc xaddr : Word) : Prop :=
  Completes i s fun t => EntersHandler s t cause xpc xaddr

/-! ## Accesses (R58) -/

/-- The instruction issues an access with the given parts: a relaxed one enters the relaxed buffer and the context goes on;
an ordinary one enters the issue port and the context waits for it, with its program at the next word. -/
structure Issues (s t : State) (kind : AccessKind) (parts : List Part) (rlx : Bool) : Prop where
  only : OnlyMe s t
  buffered : rlx = true → t.me.relaxed = s.me.relaxed ++ [⟨s.me.nextSerial, kind, true, parts, []⟩] ∧
    t.me.port = s.me.port ∧ GoesOnAt t.me (s.me.pc + 4)
  ported : rlx = false → t.me.port = some ⟨s.me.nextSerial, kind, false, parts, []⟩ ∧ t.me.relaxed = s.me.relaxed ∧
    t.me.pc = s.me.pc + 4 ∧ t.me.pfx = .none ∧ t.me.held = none ∧ t.me.wait = .access ∧ t.me.status = .waiting
  serial : t.me.nextSerial = s.me.nextSerial + 1
  mine : { t.me.placedAs s.me with
    port := s.me.port, relaxed := s.me.relaxed, nextSerial := s.me.nextSerial } = s.me

/-- The relaxed buffer has room, or the access does not enter it (R58). -/
def Ctx.hasRoom (c : Ctx) (rlx : Bool) : Prop := rlx = true → c.relaxed.length + c.relaxedMsgs.length < 8

/-- A part of an access of a context is at the head of the one bank queue that it stands in. -/
structure AtHead (s : State) (bank tid : Nat) (acc : Access) (k : Nat) (p : Part) : Prop where
  head : (s.bank bank).head? = some ⟨.access tid acc.serial, p.addr, p.off⟩
  found : s.queuedPart? tid acc.serial p.addr p.off = some (acc, k, p)
  alone : partBanks p = [bank]

/-- A context once part k of an access has been performed: the part is gone, and with its last part the access, whose
context, where the access is an ordinary one, stops waiting. -/
def Ctx.performed (c : Ctx) (acc : Access) (k : Nat) : Ctx :=
  let rest := listDrop k acc.parts
  let c' := putAccess c { acc with parts := rest }
  if rest.isEmpty && !acc.relaxed then State.stopWaiting c' else c'

/-- Of the whole device only one context, one bank's queue and some bytes of memory may differ. -/
structure OnlyPerforms (s t : State) (bank tid : Nat) (c : Ctx) : Prop where
  device : { t with ctxs := s.ctxs, banks := s.banks, mem := s.mem } = s
  context : t.ctx tid = c
  others : ∀ k, k ≠ tid → t.ctx k = s.ctx k
  queue : t.bank bank = (s.bank bank).tail
  queues : ∀ b, b ≠ bank → t.bank b = s.bank b

/-- No rank table and no reserved area lies among some bytes of a window (R33, R53). -/
def Unwatched (s : State) (key n : Nat) : Prop :=
  ∀ e ∈ s.launches, ∀ r, rankTable? ((key - 0x100000000) / 2 ^ 17) e.2 = some r ∨
    reservedArea? ((key - 0x100000000) / 2 ^ 17) e.2 = some r → key + n ≤ r.1 ∨ r.1 + r.2 ≤ key

end Sys2Proof.Machine
end

