-- ==== Sys2Proof/Certificates/Slice0/Obligations.lean ====
section
/-!
DEFINITION. What is claimed of the machine, one statement each: the numbered rules of the spec in the model's words.
-/

open Sys2Proof Sys2Proof.Machine

namespace Sys2Proof.Claims
end Sys2Proof.Claims
open Sys2Proof.Claims

/-! ## Integer forms -/

/-- The integer forms write what R174 gives and nothing else: the destination takes the result of the operands that the
instruction reads, in the spec's arithmetic, and no flag changes. -/
def Sys2Proof.Claims.IntegerForms : Prop :=
  ∀ (s : State) (d a b : GReg) (k : PReg),
    let A := s.g a
    let B := s.g b
    let n := B.toNat % 64
    SetsG (.add d a b) s d (BitVec.ofInt 64 (A.toInt + B.toInt)) ∧
    SetsG (.sub d a b) s d (BitVec.ofInt 64 (A.toInt - B.toInt)) ∧
    SetsG (.and d a b) s d (A &&& B) ∧
    SetsG (.or d a b) s d (A ||| B) ∧
    SetsG (.xor d a b) s d (A ^^^ B) ∧
    SetsG (.shl d a b) s d (BitVec.ofNat 64 (A.toNat * 2 ^ n)) ∧
    SetsG (.shr d a b) s d (BitVec.ofNat 64 (A.toNat / 2 ^ n)) ∧
    SetsG (.sra d a b) s d (BitVec.ofInt 64 (A.toInt / 2 ^ n)) ∧
    SetsG (.mul d a b) s d (BitVec.ofInt 64 (A.toInt * B.toInt)) ∧
    SetsG (.mulh d a b) s d (BitVec.ofInt 64 (A.toInt * B.toInt / 2 ^ 64)) ∧
    SetsG (.mulhu d a b) s d (BitVec.ofNat 64 (A.toNat * B.toNat / 2 ^ 64)) ∧
    SetsG (.min d a b) s d (BitVec.ofInt 64 (Min.min A.toInt B.toInt)) ∧
    SetsG (.max d a b) s d (BitVec.ofInt 64 (Max.max A.toInt B.toInt)) ∧
    SetsG (.minu d a b) s d (BitVec.ofNat 64 (Min.min A.toNat B.toNat)) ∧
    SetsG (.maxu d a b) s d (BitVec.ofNat 64 (Max.max A.toNat B.toNat)) ∧
    SetsG (.sel d a b k) s d (if s.p k then A else B)

/-- The counts and extensions of R174: leading and trailing zero bits, one bits, and the low 8, 16 or 32 bits extended. -/
def Sys2Proof.Claims.CountAndExtendForms : Prop :=
  ∀ (s : State) (d a : GReg),
    let A := s.g a
    (∃ c, c ≤ 64 ∧ (∀ j, 64 - c ≤ j → A.getLsbD j = false) ∧ (c < 64 → A.getLsbD (63 - c) = true) ∧
      SetsG (.clz d a) s d (BitVec.ofNat 64 c)) ∧
    (∃ c, c ≤ 64 ∧ (∀ j, j < c → A.getLsbD j = false) ∧ (c < 64 → A.getLsbD c = true) ∧
      SetsG (.ctz d a) s d (BitVec.ofNat 64 c)) ∧
    SetsG (.popc d a) s d (BitVec.ofNat 64 ((List.range 64).filter fun j => A.getLsbD j).length) ∧
    SetsG (.sextB d a) s d (BitVec.ofInt 64 (A.setWidth 8).toInt) ∧
    SetsG (.sextH d a) s d (BitVec.ofInt 64 (A.setWidth 16).toInt) ∧
    SetsG (.sextW d a) s d (BitVec.ofInt 64 (A.setWidth 32).toInt) ∧
    SetsG (.zextB d a) s d (BitVec.ofNat 64 (A.toNat % 2 ^ 8)) ∧
    SetsG (.zextH d a) s d (BitVec.ofNat 64 (A.toNat % 2 ^ 16)) ∧
    SetsG (.zextW d a) s d (BitVec.ofNat 64 (A.toNat % 2 ^ 32))

/-- The division forms never trap: a divisor of 0 gives all ones or the dividend, and the quotient truncates toward zero
(R175). -/
def Sys2Proof.Claims.DivisionForms : Prop :=
  ∀ (s : State) (d a b : GReg),
    let A := s.g a
    let B := s.g b
    SetsG (.div d a b) s d (if B = 0 then 0xFFFFFFFFFFFFFFFF else BitVec.ofInt 64 (A.toInt.tdiv B.toInt)) ∧
    SetsG (.rem d a b) s d (if B = 0 then A else BitVec.ofInt 64 (A.toInt.tmod B.toInt)) ∧
    SetsG (.divu d a b) s d (if B = 0 then 0xFFFFFFFFFFFFFFFF else BitVec.ofNat 64 (A.toNat / B.toNat)) ∧
    SetsG (.remu d a b) s d (if B = 0 then A else BitVec.ofNat 64 (A.toNat % B.toNat))

/-- The immediate forms (R177, R178): the immediate is the sign-extended field of the word, or with the 24 bits of an
`ext` word before it; a shift takes its amount from the word. -/
def Sys2Proof.Claims.ImmediateForms : Prop :=
  ∀ (s : State) (d a : GReg) (j : BitVec 16) (n : BitVec 6),
    let A := s.g a
    ∃ I : Word,
      (s.me.pfx.ext = none → I = BitVec.ofInt 64 j.toInt) ∧
      (∀ h, s.me.pfx.ext = some h → I = BitVec.ofInt 64 (h.toInt * 2 ^ 16 + j.toNat)) ∧
      SetsG (.addi d a j) s d (A + I) ∧
      SetsG (.andi d a j) s d (A &&& I) ∧
      SetsG (.ori d a j) s d (A ||| I) ∧
      SetsG (.xori d a j) s d (A ^^^ I) ∧
      SetsG (.muli d a j) s d (A * I) ∧
      SetsG (.shli d a n) s d (BitVec.ofNat 64 (A.toNat * 2 ^ n.toNat)) ∧
      SetsG (.shri d a n) s d (BitVec.ofNat 64 (A.toNat / 2 ^ n.toNat)) ∧
      SetsG (.srai d a n) s d (BitVec.ofInt 64 (A.toInt / 2 ^ n.toNat))

/-- The compares write one predicate: signed, unsigned, and against an immediate that the unsigned form also reads
unsigned (R179, R180). -/
def Sys2Proof.Claims.Compares : Prop :=
  ∀ (s : State) (d : PReg) (a b : GReg) (j : BitVec 16),
    let A := s.g a
    let B := s.g b
    SetsP (.cmpEq d a b) s d (decide (A = B)) ∧
    SetsP (.cmpNe d a b) s d (decide (A ≠ B)) ∧
    SetsP (.cmpLt d a b) s d (decide (A.toInt < B.toInt)) ∧
    SetsP (.cmpLe d a b) s d (decide (A.toInt ≤ B.toInt)) ∧
    SetsP (.cmpGt d a b) s d (decide (B.toInt < A.toInt)) ∧
    SetsP (.cmpGe d a b) s d (decide (B.toInt ≤ A.toInt)) ∧
    SetsP (.cmpLtu d a b) s d (decide (A.toNat < B.toNat)) ∧
    SetsP (.cmpLeu d a b) s d (decide (A.toNat ≤ B.toNat)) ∧
    SetsP (.cmpGtu d a b) s d (decide (B.toNat < A.toNat)) ∧
    SetsP (.cmpGeu d a b) s d (decide (B.toNat ≤ A.toNat)) ∧
    SetsP (.cmpiEq d a j) s d (decide (A = s.imm j)) ∧
    SetsP (.cmpiLt d a j) s d (decide (A.toInt < (s.imm j).toInt)) ∧
    SetsP (.cmpiLtu d a j) s d (decide (A.toNat < (s.imm j).toNat))

/-- The predicate-word forms (R181): `prd` reads the sixteen predicates into a register and `pwr` writes them all; p0 stays
true whatever is written. -/
def Sys2Proof.Claims.PredicateForms : Prop :=
  ∀ (s : State) (d a b : PReg) (g : GReg),
    SetsP (.pand d a b) s d (s.p a && s.p b) ∧
    SetsP (.por d a b) s d (s.p a || s.p b) ∧
    SetsP (.pxor d a b) s d (s.p a != s.p b) ∧
    SetsP (.pandn d a b) s d (s.p a && !s.p b) ∧
    SetsP (.pnot d a) s d (!s.p a) ∧
    SetsP (.pmov d a) s d (s.p a) ∧
    SetsP (.pset d) s d true ∧
    SetsP (.pclr d) s d false ∧
    (∃ v : Word, (∀ r : PReg, v.getLsbD r.val = s.p r) ∧ v.toNat < 2 ^ 16 ∧ SetsG (.prd g) s g v) ∧
    Completes (.pwr g) s fun t =>
      OnlyMe s t ∧ GoesOnAt t.me (s.me.pc + 4) ∧ (∀ r : PReg, t.p r = (r == 0 || (s.g g).getLsbD r.val)) ∧
        { t.me.placedAs s.me with pw := s.me.pw } = s.me

/-! ## Branches and jumps -/

/-- A branch goes to its own address plus four times its offset when its condition holds, else to the next word (R182);
`j` always goes to its target, and `jal` writes g1 as well (R183). -/
def Sys2Proof.Claims.BranchesAndJumps : Prop :=
  ∀ (s : State) (c : PReg) (a : GReg) (o : BitVec 16) (o' : BitVec 26),
    let pc := s.me.pc
    let target := pc + 4 * o.signExtend 64
    GoesTo (.bt c o) s (if s.p c then target else pc + 4) ∧
    GoesTo (.bf c o) s (if s.p c then pc + 4 else target) ∧
    GoesTo (.bz a o) s (if s.g a = 0 then target else pc + 4) ∧
    GoesTo (.bnz a o) s (if s.g a = 0 then pc + 4 else target) ∧
    GoesTo (.j o') s (pc + 4 * o'.signExtend 64) ∧
    Completes (.jal o') s fun t => WritesG s t 1 (pc + 4) (pc + 4 * o'.signExtend 64)

/-- `jr` and `jalr` go where g[a] says, which is read before the link is written; a target that is not a multiple of 4
traps, with the target in XADDR, and neither writes the link nor moves the program (R184). -/
def Sys2Proof.Claims.RegisterJumps : Prop :=
  ∀ (s : State) (d a : GReg),
    ((s.g a).toNat % 4 = 0 →
      GoesTo (.jr a) s (s.g a) ∧ Completes (.jalr d a) s fun t => WritesG s t d (s.me.pc + 4) (s.g a)) ∧
    ((s.g a).toNat % 4 ≠ 0 → CanTrap s.me →
      TakesTrap (.jr a) s 0x02 s.me.start (s.g a) ∧ TakesTrap (.jalr d a) s 0x02 s.me.start (s.g a))

/-- Integer arithmetic: every form completes with its result in g[d] and nothing else changed. -/
def Obligations.IntegerArithmetic : Prop :=
  Sys2Proof.Claims.IntegerForms ∧
  Sys2Proof.Claims.CountAndExtendForms ∧
  Sys2Proof.Claims.DivisionForms ∧
  Sys2Proof.Claims.ImmediateForms

/-- Integer compares and the predicate word: one predicate, a register or PW changes. -/
def Obligations.ComparesAndPredicates : Prop :=
  Sys2Proof.Claims.Compares ∧ Sys2Proof.Claims.PredicateForms

/-- Branches and jumps go to their targets, write at most the link, and trap on a misaligned target. -/
def Obligations.BranchesAndRegisterJumps : Prop :=
  Sys2Proof.Claims.BranchesAndJumps ∧ Sys2Proof.Claims.RegisterJumps


/-! ## Loads, stores and atomics -/

namespace Sys2Proof.Claims

/-- The load forms with their accesses and sizes (R186). -/
def loads (d a : GReg) (j : BitVec 16) : List (Instr × AccessKind × Nat) :=
  [(.ldB d a j, .load d true, 1), (.ldBu d a j, .load d false, 1), (.ldH d a j, .load d true, 2),
   (.ldHu d a j, .load d false, 2), (.ldW d a j, .load d true, 4), (.ldWu d a j, .load d false, 4),
   (.ldD d a j, .load d false, 8), (.ldQ d a j, .loadPair d, 16)]

/-- The store forms with their sizes and what they store (R186). -/
def stores (s : State) (d a : GReg) (j : BitVec 16) : List (Instr × Nat × Nat) :=
  [(.stB d a j, 1, (s.g d).toNat), (.stH d a j, 2, (s.g d).toNat), (.stW d a j, 4, (s.g d).toNat),
   (.stD d a j, 8, (s.g d).toNat), (.stQ d a j, 16, (s.g d).toNat + (s.g (d + 1)).toNat * 2 ^ 64)]

/-- The sub-byte stores with their bit position and width (R192, R193). -/
def bitStores (d a : GReg) (q : Bool) (r : Fin 8) : List (Instr × Nat × Nat) :=
  [(.stX4 d a q, if q then 4 else 0, 4), (.stX6 d a r, r.val, 6)]

/-- The accumulate atomics with their functions (R154, R195). -/
def atomics (d a : GReg) (w : AWidth) : List (Instr × Nat) :=
  [(.aadd d a w, 0), (.amin d a w, 1), (.amax d a w, 2), (.aminu d a w, 3), (.amaxu d a w, 4), (.aand d a w, 5),
   (.aor d a w, 6), (.axor d a w, 7)]

/-- Bytes of an accumulate atomic (R195). -/
def widthOf (w : AWidth) : Nat := match w with | .word => 4 | .dword => 8

/-- The lines that a store of a timed process journals first: that of its own local store (R187). -/
def journalLines (s : State) (ea : Word) : List Nat := if s.isTimed s.cur then (s.ownLine? ea).toList else []

end Sys2Proof.Claims


/-- What an address names, and the order in which an access is checked (R51, R52): size first, then the holes of the map,
then off-chip addresses and, at user level, control space, then the core of a window. -/
def Sys2Proof.Claims.AddressMapAndChecks : Prop :=
  ∀ (s : State) (tid n : Nat) (a : Word),
    (a.toNat < 0x20000 → decodeAddr a = .self a.toNat) ∧
    (0x100000000 ≤ a.toNat → a.toNat < 0x120000000 →
      decodeAddr a = .localStore ((a.toNat - 0x100000000) / 2 ^ 17) (a.toNat % 2 ^ 17)) ∧
    (0x200000000 ≤ a.toNat → a.toNat < 0x202000000 →
      decodeAddr a = .accumulator ((a.toNat - 0x200000000) / 2 ^ 13) (a.toNat % 2 ^ 13)) ∧
    (0x300000000 ≤ a.toNat → a.toNat < 0x302000000 →
      decodeAddr a = .vector ((a.toNat - 0x300000000) / 2 ^ 13) (a.toNat % 2 ^ 13)) ∧
    (a.toNat % n ≠ 0 → s.checkAccess tid a n = some 0x02) ∧
    (a.toNat % n = 0 → decodeAddr a = .unmapped → s.checkAccess tid a n = some 0x03) ∧
    (a.toNat % n = 0 → 2 ^ 48 ≤ a.toNat → a.toNat < 2 ^ 49 → s.checkAccess tid a n = some 0x04) ∧
    (a.toNat % n = 0 → 0x400000000 ≤ a.toNat → a.toNat < 2 ^ 48 → s.isPrivileged tid = false →
      s.checkAccess tid a n = some 0x04) ∧
    (a.toNat % n = 0 → a.toNat < 0x20000 → s.checkAccess tid a n = none) ∧
    (∀ pcn, a.toNat % n = 0 → (decodeAddr a).owner? 0 = some pcn → 0x20000 ≤ a.toNat → s.isPrivileged tid = false →
      s.checkAccess tid a n =
        if s.isFused pcn ∨ s.isSystem pcn ∨ s.coreInRegion (s.regionOf tid) pcn = false then some 0x05 else none)

/-- A load or store issues one access of its size at its address, which wraps modulo 2^64; a store of a timed process has
the line of its own core journaled first (R186, R187). -/
def Sys2Proof.Claims.LoadsAndStoresIssue : Prop :=
  ∀ (s : State) (d a : GReg) (j : BitVec 16),
    let ea := s.g a + s.imm j
    let rlx := s.me.pfx.rlx
    s.me.hasRoom rlx →
    (∀ x ∈ loads d a j, s.checkScalar ea x.2.2 true = none →
      Completes x.1 s fun t => Issues s t x.2.1 [partAt s.here ea x.2.2 0 0] rlx) ∧
    (∀ x ∈ stores s d a j, ∀ s', s.checkScalar ea x.2.1 true = none → (s.isTimed s.cur = true → s.foreign ea = false) →
      s.journalAll s.cur (journalLines s ea) = some s' →
      s'.me.hasRoom rlx → Completes x.1 s fun t => Issues s' t .store [partAt s.here ea x.2.1 x.2.2 0] rlx)

/-- A sub-byte store issues one access of one or two bytes with the field's bits, and an accumulate atomic always enters
the relaxed buffer, with the low bits of g[d] as its operand (R193, R195, R196). -/
def Sys2Proof.Claims.BitStoresAndAtomicsIssue : Prop :=
  ∀ (s : State) (d a : GReg) (q : Bool) (r : Fin 8) (w : AWidth),
    let ea := s.g a
    (∀ x ∈ bitStores d a q r, ∀ s', s.checkScalar ea 1 false = none →
      (8 < x.2.1 + x.2.2 → nextInWindow ea = true) → (s.isTimed s.cur = true → s.foreign ea = false) →
      s.journalAll s.cur
        (journalLines s ea ++ if 8 < x.2.1 + x.2.2 then journalLines s (ea + 1) else []) = some s' →
      s'.me.hasRoom s.me.pfx.rlx → Completes x.1 s fun t => Issues s' t (.subByte x.2.1 x.2.2)
        [partAt s.here ea (if 8 < x.2.1 + x.2.2 then 2 else 1) ((s.g d).toNat % 2 ^ x.2.2) 0] s.me.pfx.rlx) ∧
    (∀ x ∈ atomics d a w, s.checkScalar ea (widthOf w) false = none → s.isTimed s.cur = false → s.me.hasRoom true →
      Completes x.1 s fun t => Issues s t (.atomic x.2)
        [partAt s.here ea (widthOf w) ((s.g d).toNat % 2 ^ (8 * widthOf w)) 0] true)

/-- Where an access traps: its address fails a check of R52, a store of a timed process names another core, a field of a
sub-byte store leaves its window, or a timed process executes an atomic. XADDR takes the address, and no register or
memory changes (R52, R187, R193, R196). -/
def Sys2Proof.Claims.AccessTraps : Prop :=
  ∀ (s : State) (d a : GReg) (j : BitVec 16) (q : Bool) (r : Fin 8) (w : AWidth),
    CanTrap s.me →
    let ea := s.g a + s.imm j
    (∀ x ∈ loads d a j, ∀ c, s.checkScalar ea x.2.2 true = some c → TakesTrap x.1 s c s.me.start ea) ∧
    (∀ x ∈ stores s d a j,
      (∀ c, s.checkScalar ea x.2.1 true = some c → TakesTrap x.1 s c s.me.start ea) ∧
      (s.checkScalar ea x.2.1 true = none → s.isTimed s.cur = true → s.foreign ea = true →
        TakesTrap x.1 s 0x06 s.me.start ea)) ∧
    (∀ x ∈ bitStores d a q r,
      (∀ c, s.checkScalar (s.g a) 1 false = some c → TakesTrap x.1 s c s.me.start (s.g a)) ∧
      (s.checkScalar (s.g a) 1 false = none → 8 < x.2.1 + x.2.2 → nextInWindow (s.g a) = false →
        TakesTrap x.1 s 0x02 s.me.start (s.g a)) ∧
      (s.checkScalar (s.g a) 1 false = none → (8 < x.2.1 + x.2.2 → nextInWindow (s.g a) = true) →
        s.isTimed s.cur = true → s.foreign (s.g a) = true → TakesTrap x.1 s 0x06 s.me.start (s.g a))) ∧
    (∀ x ∈ atomics d a w,
      (∀ c, s.checkScalar (s.g a) (widthOf w) false = some c → TakesTrap x.1 s c s.me.start (s.g a)) ∧
      (s.checkScalar (s.g a) (widthOf w) false = none → s.isTimed s.cur = true →
        TakesTrap x.1 s 0x06 s.me.start (s.g a)))

/-- ACCESS_TRAVEL takes a part of an access on its way, once no earlier access of the thread to its line remains in the
relaxed buffer and the owner's firewall is open: to the tail of its bank's arrival queue, or, through a global window,
to the tail of its owner's handler queue, which must have room (R50, R58, R295). Nothing else changes. The steps between
issue and performance are log entry 27. -/
def Sys2Proof.Claims.AccessTravels : Prop :=
  ∀ (s : State) (tid n k bank : Nat) (acc : Access) (p : Part),
    (accessesOf (s.ctx tid))[n]? = some acc → acc.parts[k]? = some p → mayTravel (s.ctx tid) acc k = true →
    (s.ctx tid).parked = false → partBanks p = [bank] →
    s.firewallDrops (coreOfTid tid) ((requestOwner? p).getD (coreOfTid tid)) 0 = false →
    let owner := ownerOfKey p.addr
    let q : QueuedPart := ⟨.access tid acc.serial, p.addr, p.off⟩
    (p.window = true → (s.core owner).handler.length < 32) →
    Completes (.accessTravel tid n k) s fun t =>
      { t with ctxs := s.ctxs, banks := s.banks, cores := s.cores } = s ∧
      (∀ b, t.bank b = if b = bank ∧ p.window = false then s.bank b ++ [q] else s.bank b) ∧
      t.ctx tid = putAccess (s.ctx tid) { acc with parts := listPut k { p with queued := true } acc.parts } ∧
      (∀ i, i ≠ tid → t.ctx i = s.ctx i) ∧
      ∀ c, t.core c =
        if c = owner ∧ p.window = true then { s.core c with handler := (s.core c).handler ++ [HandlerEntry.access q] } else s.core c

/-- ACCESS_PERFORM applies the access at the head of a bank's queue in one action: a load writes its register from memory,
a store writes its bytes, and an atomic or a sub-byte store replaces what it read; the part leaves its queue and its
access, and a thread whose ordinary access is complete stops waiting (R58, R186, R193, R195). A thread with a trap that waits for
its relaxed buffer is another case (R288). -/
def Sys2Proof.Claims.AccessPerforms : Prop :=
  ∀ (s : State) (bank tid k : Nat) (acc : Access) (p : Part),
    AtHead s bank tid acc k p → p.addr < 0x400000000 → (s.ctx tid).trapping = none →
    let c := s.ctx tid
    let old := memNat s.mem p.addr p.size
    let loaded (c' : Ctx) : Prop := Completes (.accessPerform bank 0) s fun t =>
      OnlyPerforms s t bank tid (c'.performed acc k) ∧ t.mem = s.mem
    let stored (v : Nat) : Prop := Unwatched s p.addr p.size → Completes (.accessPerform bank 0) s fun t =>
      OnlyPerforms s t bank tid (c.performed acc k) ∧ t.mem = storeBytes p.addr (bytesOfNat p.size v) s.mem
    (∀ d, acc.kind = .load d false → loaded (c.setG d (BitVec.ofNat 64 old))) ∧
    (∀ d, acc.kind = .load d true → 0 < p.size → loaded (c.setG d (BitVec.ofInt 64 (signedElem (8 * p.size) old)))) ∧
    (∀ d, acc.kind = .loadPair d → loaded ((c.setG d (BitVec.ofNat 64 (memNat s.mem p.addr 8))).setG (d + 1)
      (BitVec.ofNat 64 (memNat s.mem (p.addr + 8) 8)))) ∧
    (acc.kind = .store → stored p.data) ∧
    (∀ q w, acc.kind = .subByte q w → stored (old - old / 2 ^ q % 2 ^ w * 2 ^ q + p.data * 2 ^ q)) ∧
    (acc.kind = .atomic 0 → stored ((old + p.data) % 2 ^ (8 * p.size))) ∧
    (acc.kind = .atomic 1 → stored
      (if signedElem (8 * p.size) p.data < signedElem (8 * p.size) old then p.data else old)) ∧
    (acc.kind = .atomic 2 → stored
      (if signedElem (8 * p.size) old < signedElem (8 * p.size) p.data then p.data else old)) ∧
    (acc.kind = .atomic 3 → stored (Min.min old p.data)) ∧
    (acc.kind = .atomic 4 → stored (Max.max old p.data)) ∧
    (acc.kind = .atomic 5 → stored (Nat.land old p.data)) ∧
    (acc.kind = .atomic 6 → stored (Nat.lor old p.data)) ∧
    (acc.kind = .atomic 7 → stored (Nat.xor old p.data))

/-- Bytes written to memory read back, in canonical memory, and every other byte of memory reads as before; slot 0's vector
window reads zero and discards what is written (R2, R56). -/
def Sys2Proof.Claims.MemoryReadsBack : Prop :=
  ∀ (m : Mem) (key n v : Nat), memWf m = true →
    (isSlot0Vector key = false → memNat (storeBytes key (bytesOfNat n v) m) key n = v % 2 ^ (8 * n)) ∧
    (isSlot0Vector key = true → storeBytes key (bytesOfNat n v) m = m) ∧
    (∀ a, a < key ∨ key + n ≤ a → memGet a (storeBytes key (bytesOfNat n v) m) = memGet a m) ∧
    memWf (storeBytes key (bytesOfNat n v) m) = true

/-- The address map, the order of the access checks, and memory that reads back what is written. -/
def Obligations.AddressesAndMemory : Prop :=
  Sys2Proof.Claims.AddressMapAndChecks ∧ Sys2Proof.Claims.MemoryReadsBack

/-- Loads, stores, sub-byte stores and atomics issue their accesses, or take their traps. -/
def Obligations.LoadsAndStores : Prop :=
  Sys2Proof.Claims.LoadsAndStoresIssue ∧ Sys2Proof.Claims.BitStoresAndAtomicsIssue ∧ Sys2Proof.Claims.AccessTraps

/-- An access travels to the tail of its bank and takes its effect at the head. -/
def Obligations.AccessesArePerformed : Prop :=
  Sys2Proof.Claims.AccessTravels ∧ Sys2Proof.Claims.AccessPerforms


/-! ## Scalar floating point -/

namespace Sys2Proof.Claims

/-- The formats of the floating-point types (R111). -/
def formats : List Fmt :=
  [ftyFmt .f64, ftyFmt .f32, ftyFmt .bf16, ftyFmt .f16, ⟨5, 2, 15, .ieee⟩, ⟨4, 3, 7, .onlyNan⟩, ⟨3, 2, 3, .none⟩,
   ⟨2, 3, 1, .none⟩, ⟨2, 1, 1, .none⟩]

/-- The instruction writes a floating-point result of type t into g[d]: its encoding, its flags and the generator. -/
def SetsFp (i : Instr) (s : State) (d : GReg) (t : Ty) (r : FpResult) : Prop :=
  Completes i s fun u => WritesFp s u d (asWord t r.bits) r.flags r.srng

/-- The flag `invalid` when a signalling NaN is among some operands (R120). -/
def invalidIf (c : Bool) : FlagSet := if c then 1 else 0

end Sys2Proof.Claims

/-- The scalar arithmetic forms write the rounded exact result of their operands: `fsub` adds with the sign of y changed,
and `fmac` adds g[d] to an unrounded product; the mode is the instruction's field, or RMODE (R200, R203, R204). -/
def Sys2Proof.Claims.ScalarFloatForms : Prop :=
  ∀ (s : State) (d a b : GReg) (t : FTy) (r : Rm),
    let x := s.fpValue t a
    let y := s.fpValue t b
    let z := s.fpValue t d
    let mode := s.mode r
    let result (xs : List Machine.Num) (o : Outc) : FpResult := (ftyFmt t).finish xs o mode s.me.srng
    SetsFp (.fadd d a b t r) s d (ftyTy t) (result [x, y] (opAdd mode x y)) ∧
    SetsFp (.fsub d a b t r) s d (ftyTy t) (result [x, y] (opAdd mode x y.negate)) ∧
    SetsFp (.fmul d a b t r) s d (ftyTy t) (result [x, y] (opMul x y)) ∧
    SetsFp (.fdiv d a b t r) s d (ftyTy t) (result [x, y] (opDiv x y)) ∧
    SetsFp (.fsqrt d a t r) s d (ftyTy t) (result [x] (opSqrt x)) ∧
    SetsFp (.fmac d a b t r) s d (ftyTy t) (result [z, x, y] (opFma mode z x y)) ∧
    (r = .dyn → s.me.rmode.toNat ≤ 4 →
      mode = [RoundMode.nearest, .zero, .down, .up, .stochastic].getD s.me.rmode.toNat .nearest)

/-- The outcomes at the edges (R119, R120, R204): a NaN operand gives the default NaN, with `invalid` when it is
signalling; infinities of opposite signs, zero times infinity, zero by zero, infinity by infinity and the root of a negative
value are invalid; a nonzero finite value by zero gives an infinity and `divzero`, infinity by zero no flag. -/
def Sys2Proof.Claims.FloatEdges : Prop :=
  ∀ (f : Fmt) (mode : RoundMode) (g : BitVec 32) (p q sg : Bool) (e : Exact) (xs : List Machine.Num) (z : Machine.Num),
    opAdd mode (.nan sg) z = .nan ∧ opAdd mode z (.nan sg) = .nan ∧ opMul (.nan sg) z = .nan ∧
    opMul z (.nan sg) = .nan ∧ opDiv (.nan sg) z = .nan ∧ opDiv z (.nan sg) = .nan ∧ opSqrt (.nan sg) = .nan ∧
    f.finish xs .nan mode g = ⟨f.nanCode, if xs.any Num.isSignalling then 1 else 0, g⟩ ∧
    f.finish xs .invalid mode g = ⟨f.nanCode, 1, g⟩ ∧
    f.finish xs (.divzero p) mode g = ⟨f.infCode p, 2, g⟩ ∧
    f.finish xs (.inf p) mode g = ⟨f.infCode p, 0, g⟩ ∧
    opAdd mode (.inf p) (.inf q) = (if p = q then .inf p else .invalid) ∧
    opAdd mode (.inf p) (.fin e) = .inf p ∧ opAdd mode (.fin e) (.inf p) = .inf p ∧
    opMul (.inf p) (.inf q) = .inf (p != q) ∧
    opMul (.inf p) (.fin e) = (if e.mag = 0 then .invalid else .inf (p != e.neg)) ∧
    opMul (.fin e) (.inf p) = (if e.mag = 0 then .invalid else .inf (e.neg != p)) ∧
    opDiv (.inf p) (.inf q) = .invalid ∧ opDiv (.inf p) (.fin e) = .inf (p != e.neg) ∧
    (∀ n, opDiv (.fin ⟨p, n, 0, false⟩) (.fin ⟨q, 0, 0, false⟩) = if n = 0 then .invalid else .divzero (p != q)) ∧
    opSqrt (.inf p) = (if p then .invalid else .inf false) ∧
    (e.mag ≠ 0 → e.neg = true → opSqrt (.fin e) = .invalid) ∧
    opFma mode (.nan false) (.inf p) (.fin ⟨q, 0, 0, false⟩) = .invalid ∧
    opFma mode (.inf p) (.inf q) (.fin ⟨false, 1, 0, false⟩) = (if p = q then .inf p else .invalid) ∧
    opDist mode z (.nan sg) (.fin e) = .nan ∧ opDist mode z (.fin e) (.nan sg) = .nan ∧
    opDist mode (.nan sg) (.fin e) (.fin e) = .nan ∧ opDist mode z (.inf p) (.inf p) = .invalid

/-- Sums, products, quotients and roots are exact before their one rounding (R116, R204): a sum and a product are the
rational ones, and a quotient or a root either is exact or lies strictly between its magnitude and the next unit. An exact
sum of zero is negative under `down`, or when every operand is a negative zero. -/
def Sys2Proof.Claims.ExactArithmetic : Prop :=
  ∀ (mode : RoundMode) (x y : Exact),
    (exactSum mode [x, y]).rat = x.rat + y.rat ∧ (exactSum mode [x, y]).more = false ∧
    (x.rat + y.rat = 0 →
      (exactSum mode [x, y]).neg =
        if x.mag = 0 ∧ x.neg = y.neg then x.neg else decide (mode = .down)) ∧
    (exactMul x y).rat = x.rat * y.rat ∧ (exactMul x y).neg = (x.neg != y.neg) ∧
    (y.mag ≠ 0 →
      let q := exactDiv x y
      let w := |x.rat| / |y.rat|
      q.neg = (x.neg != y.neg) ∧
      if q.more then (q.mag : ℚ) * 2 ^ q.exp < w ∧ w < (q.mag + 1 : ℚ) * 2 ^ q.exp else |q.rat| = w) ∧
    (x.neg = false →
      let r := exactSqrt x
      r.neg = false ∧
      if r.more then ((r.mag : ℚ) * 2 ^ r.exp) ^ 2 < x.rat ∧ x.rat < ((r.mag + 1 : ℚ) * 2 ^ r.exp) ^ 2
      else r.rat ^ 2 = x.rat) ∧
    (x.lt y = true ↔ x.rat < y.rat) ∧ (x.eq y = true ↔ x.rat = y.rat) ∧
    opAdd mode (.fin x) (.fin y) = .value (exactSum mode [x, y]) ∧ opMul (.fin x) (.fin y) = .value (exactMul x y) ∧
    (y.mag ≠ 0 → opDiv (.fin x) (.fin y) = .value (exactDiv x y)) ∧
    (x.neg = false → opSqrt (.fin x) = .value (exactSqrt x)) ∧
    (∀ n, ∃ e, opSqrt (.fin ⟨true, 0, n, false⟩) = .value e ∧ e.neg = true ∧ e.rat = 0 ∧ e.more = false) ∧
    (∀ z : Exact, ∃ e, opFma mode (.fin z) (.fin x) (.fin y) = .value e ∧ e.rat = z.rat + x.rat * y.rat ∧ e.more = false) ∧
    (∀ z : Exact, ∃ e, opDist mode (.fin z) (.fin x) (.fin y) = .value e ∧ e.rat = z.rat + (x.rat - y.rat) ^ 2 ∧
      e.more = false) ∧
    ∀ (f : Fmt) (xs : List Machine.Num) (g : BitVec 32), f.finish xs (.value x) mode g = f.round x mode g

/-- A rounding that does not overflow returns a value of the format that nothing lies nearer to, on the side that the mode
asks for (R116): down picks the greatest value not above x, up the least not below, toward zero the greatest magnitude not
beyond, and nearest a value no other is nearer than. In every mode no value of the format lies between, and a stochastic
rounding advances the generator once. -/
def Sys2Proof.Claims.RoundingPicksANeighbour : Prop :=
  ∀ f ∈ formats, ∀ (x : Exact) (mode : RoundMode) (g : BitVec 32),
    x.more = false → (f.round x mode g).flags.getLsbD 2 = false →
    ∃ v : Exact, f.value (f.round x mode g).bits = .fin v ∧
      ((f.round x mode g).flags.getLsbD 4 = false ↔ v.rat = x.rat) ∧
      ((f.round x mode g).srng = if mode = .stochastic then srngNext g else g) ∧
      ∀ c < 2 ^ f.width, ∀ w, f.value c = .fin w →
        ¬ (v.rat < w.rat ∧ w.rat < x.rat) ∧ ¬ (x.rat < w.rat ∧ w.rat < v.rat) ∧
        (mode = .down → v.rat ≤ x.rat ∧ (w.rat ≤ x.rat → w.rat ≤ v.rat)) ∧
        (mode = .up → x.rat ≤ v.rat ∧ (x.rat ≤ w.rat → v.rat ≤ w.rat)) ∧
        (mode = .zero → |v.rat| ≤ |x.rat| ∧ (|w.rat| ≤ |x.rat| → |w.rat| ≤ |v.rat|)) ∧
        (mode = .nearest → |x.rat - v.rat| ≤ |x.rat - w.rat|)

/-- An encoding of a finite value rounds to itself, with no flag, in every mode (R116). -/
def Sys2Proof.Claims.EncodingsRoundToThemselves : Prop :=
  ∀ f ∈ formats, ∀ (c : Nat) (v : Exact) (mode : RoundMode) (g : BitVec 32),
    c < 2 ^ f.width → f.value c = .fin v →
    f.round v mode g = ⟨c, 0, if mode = .stochastic then srngNext g else g⟩

/-- `fmin`, `fmax`, `fabs` and `fneg` never round: the lesser or greater encoding with −0 below +0, and an encoding with its
sign bit cleared or inverted; a NaN gives the default one, with `invalid` when it is signalling (R205). -/
def Sys2Proof.Claims.MinMaxAbsNeg : Prop :=
  ∀ (s : State) (d a b : GReg) (t : FTy),
    let f := ftyFmt t
    let A := (s.g a).toNat % 2 ^ f.width
    let B := (s.g b).toNat % 2 ^ f.width
    let x := f.value A
    let y := f.value B
    let sign := 2 ^ (f.ebits + f.mbits)
    (∀ sg sg', x = .nan sg → y = .nan sg' →
      SetsFp (.fmin d a b t) s d (ftyTy t) ⟨f.nanCode, invalidIf (sg || sg'), s.me.srng⟩ ∧
      SetsFp (.fmax d a b t) s d (ftyTy t) ⟨f.nanCode, invalidIf (sg || sg'), s.me.srng⟩) ∧
    (∀ sg, (x = .nan sg ∧ y.isNan = false) ∨ (y = .nan sg ∧ x.isNan = false) →
      SetsFp (.fmin d a b t) s d (ftyTy t) ⟨f.nanCode, invalidIf sg, s.me.srng⟩ ∧
      SetsFp (.fmax d a b t) s d (ftyTy t) ⟨f.nanCode, invalidIf sg, s.me.srng⟩) ∧
    (x.isNan = false → y.isNan = false →
      SetsFp (.fmin d a b t) s d (ftyTy t)
        ⟨if x.lt y ∨ (x.eq y ∧ x.neg ∧ ¬ y.neg) then A else B, 0, s.me.srng⟩ ∧
      SetsFp (.fmax d a b t) s d (ftyTy t)
        ⟨if y.lt x ∨ (y.eq x ∧ y.neg ∧ ¬ x.neg) then A else B, 0, s.me.srng⟩) ∧
    (∀ sg, x = .nan sg →
      SetsFp (.fabs d a t) s d (ftyTy t) ⟨f.nanCode, invalidIf sg, s.me.srng⟩ ∧
      SetsFp (.fneg d a t) s d (ftyTy t) ⟨f.nanCode, invalidIf sg, s.me.srng⟩) ∧
    (x.isNan = false →
      SetsFp (.fabs d a t) s d (ftyTy t) ⟨A % sign, 0, s.me.srng⟩ ∧
      SetsFp (.fneg d a t) s d (ftyTy t) ⟨if A < sign then A + sign else A - sign, 0, s.me.srng⟩)

/-- The scalar compares (R206): a NaN makes the pair unordered, −0 equals +0, and `invalid` is raised for a signalling NaN
by `eq` and `un`, for any NaN by `lt` and `le`. -/
def Sys2Proof.Claims.FloatCompares : Prop :=
  ∀ (s : State) (d : PReg) (a b : GReg) (t : FTy),
    let x := s.fpValue t a
    let y := s.fpValue t b
    let unordered := x.isNan || y.isNan
    let signalling := x.isSignalling || y.isSignalling
    let tests (i : Instr) (v inv : Bool) : Prop := Completes i s fun u => TestsP s u d v (invalidIf inv)
    tests (.fcmpEq d a b t) (!unordered && x.eq y) signalling ∧
    tests (.fcmpLt d a b t) (!unordered && x.lt y) unordered ∧
    tests (.fcmpLe d a b t) (!unordered && (x.lt y || x.eq y)) unordered ∧
    tests (.fcmpUn d a b t) unordered signalling

/-- Conversions between types, and immediates (R119, R120, R121, R207, R208): integers saturate to the destination's
range; a NaN gives the positive maximum, or the destination's NaN; an infinity saturates; a finite value is rounded
once; `fli` writes an encoding and raises nothing. Where the generator advances is log entry 14, an infinity's flags log
entry 15. -/
def Sys2Proof.Claims.Conversions : Prop :=
  ∀ (s : State) (d a : GReg) (t u : Ty) (r : Rm) (h : BitVec 16),
    let bits := (s.g a).toNat % 2 ^ u.width
    let mode := s.mode r
    let g := s.me.srng
    let sets (v : FpResult) : Prop := SetsFp (.cvt d a t u r) s d t v
    (∀ lo hi rg, tyIntRange? t = some (lo, hi) → tyIntRange? u = some rg →
      let x := tyIntRead u bits
      let y := max lo (min hi x)
      sets ⟨intBits t.width y, if y = x then 0 else 0x20, g⟩) ∧
    (∀ lo hi f sg, tyIntRange? t = some (lo, hi) → tyFmt? u = some f → f.value bits = .nan sg →
      sets ⟨intBits t.width hi, 1, g⟩) ∧
    (∀ lo hi f p, tyIntRange? t = some (lo, hi) → tyFmt? u = some f → f.value bits = .inf p →
      sets ⟨intBits t.width (if p then lo else hi), 0x20, g⟩) ∧
    (∀ lo hi f e, tyIntRange? t = some (lo, hi) → tyFmt? u = some f → f.value bits = .fin e →
      let v := roundToInt e lo hi mode g
      sets ⟨intBits t.width v.1, v.2.1, v.2.2⟩) ∧
    (∀ f rg, tyFmt? t = some f → tyIntRange? u = some rg → intWidens f rg = false →
      sets (f.round (exactOfInt (tyIntRead u bits)) mode g)) ∧
    (∀ f rg, tyFmt? t = some f → tyIntRange? u = some rg → intWidens f rg = true →
      ∃ v, sets ⟨v, 0, g⟩ ∧ ∃ w, f.value v = .fin w ∧ w.rat = tyIntRead u bits) ∧
    (∀ f k sg, tyFmt? t = some f → tyFmt? u = some k → k.value bits = .nan sg →
      sets ⟨f.nanCode, invalidIf (sg || f.specials == .none), g⟩) ∧
    (∀ f k p, tyFmt? t = some f → tyFmt? u = some k → k.value bits = .inf p → fmtWidens f k = false →
      sets ⟨f.signBit p + f.maxCode, 0x20, g⟩) ∧
    (∀ f k p, tyFmt? t = some f → tyFmt? u = some k → k.value bits = .inf p → fmtWidens f k = true →
      sets ⟨f.infCode p, 0, g⟩) ∧
    (∀ f k e, tyFmt? t = some f → tyFmt? u = some k → k.value bits = .fin e → fmtWidens f k = false →
      sets (f.round e mode g)) ∧
    (∀ f k e, tyFmt? t = some f → tyFmt? u = some k → k.value bits = .fin e → fmtWidens f k = true →
      ∃ v, sets ⟨v, 0, g⟩ ∧ ∃ w, f.value v = .fin w ∧ w.rat = e.rat) ∧
    SetsG (.fli d t h) s d (asWord t (convertImm t h)) ∧
    (∀ f sg, tyFmt? t = some f → (ftyFmt .bf16).value h.toNat = .nan sg → convertImm t h = f.nanCode) ∧
    (∀ f p, tyFmt? t = some f → (ftyFmt .bf16).value h.toNat = .inf p →
      convertImm t h = if t = .f64 ∨ t = .f32 ∨ t = .bf16 then f.infCode p else f.signBit p + f.maxCode) ∧
    (∀ f e, tyFmt? t = some f → (ftyFmt .bf16).value h.toNat = .fin e →
      convertImm t h = (f.round e .nearest 0).bits)

/-- Scalar floating-point arithmetic, its edges, minima and compares, with flags and the generator. -/
def Obligations.ScalarFloat : Prop :=
  Sys2Proof.Claims.ScalarFloatForms ∧
  Sys2Proof.Claims.FloatEdges ∧
  Sys2Proof.Claims.MinMaxAbsNeg ∧
  Sys2Proof.Claims.FloatCompares

/-- Operations are exact before one rounding, and rounding picks the right neighbour. -/
def Obligations.RoundingIsExact : Prop :=
  Sys2Proof.Claims.ExactArithmetic ∧
  Sys2Proof.Claims.RoundingPicksANeighbour ∧
  Sys2Proof.Claims.EncodingsRoundToThemselves

/-- Scalar conversions saturate, round once and widen exactly; fli writes an encoding. -/
def Obligations.ConversionForms : Prop :=
  Sys2Proof.Claims.Conversions


/-! ## Vectors -/

namespace Sys2Proof.Claims

/-- Lane i of a vector register, as the number that its w bits hold (R201). -/
def lane (s : State) (w : Nat) (r : VReg) (i : Nat) : Nat := elem (s.v r) w i

/-- Lane i of a vector register, read as signed. -/
def signedLane (s : State) (w : Nat) (r : VReg) (i : Nat) : Int := signedElem w (lane s w r i)

/-- The instruction gives each active lane of v[d] an integer, modulo 2^w, and some flags. -/
def SetsIntLanes (i : Instr) (s : State) (d : VReg) (w : Nat) (k : MReg) (f : Nat → Int × FlagSet) : Prop :=
  SetsLanes i s d w (512 / w) (fun j => (s.m k).getLsbD j) id
    fun j g => ⟨((f j).1 % (2 ^ w : Int)).toNat, (f j).2, g⟩

/-- A value clamped to the signed range of w bits, with the flag `saturate` where that changes it. -/
def clamped (w : Nat) (v : Int) : Int × FlagSet :=
  let c := max (-2 ^ (w - 1)) (min (2 ^ (w - 1) - 1) v)
  (c, if c = v then 0 else 0x20)

end Sys2Proof.Claims

/-- The vector integer forms: each active lane takes the result of its lanes, modulo 2^w, and an inactive lane keeps its
value; only the saturating forms raise a flag (R201, R209). -/
def Sys2Proof.Claims.VectorIntegerForms : Prop :=
  ∀ (s : State) (d a b : VReg) (t : ITy) (k : MReg),
    let w := iWidth t
    let A := signedLane s w a
    let B := signedLane s w b
    let C := signedLane s w d
    let UA := lane s w a
    let UB := lane s w b
    let sets (i : Instr) (f : Nat → Int) : Prop := SetsIntLanes i s d w k fun j => (f j, 0)
    sets (.vadd d a b t k) (fun j => A j + B j) ∧
    sets (.vsub d a b t k) (fun j => A j - B j) ∧
    sets (.vmul d a b t k) (fun j => A j * B j) ∧
    sets (.vmulh d a b t k) (fun j => A j * B j / 2 ^ w) ∧
    sets (.vmin d a b t k) (fun j => min (A j) (B j)) ∧
    sets (.vmax d a b t k) (fun j => max (A j) (B j)) ∧
    sets (.vminu d a b t k) (fun j => (min (UA j) (UB j) : Nat)) ∧
    sets (.vmaxu d a b t k) (fun j => (max (UA j) (UB j) : Nat)) ∧
    sets (.vand d a b t k) (fun j => (Nat.land (UA j) (UB j) : Nat)) ∧
    sets (.vor d a b t k) (fun j => (Nat.lor (UA j) (UB j) : Nat)) ∧
    sets (.vxor d a b t k) (fun j => (Nat.xor (UA j) (UB j) : Nat)) ∧
    sets (.vshl d a b t k) (fun j => (UA j * 2 ^ (UB j % w) : Nat)) ∧
    sets (.vshr d a b t k) (fun j => (UA j / 2 ^ (UB j % w) : Nat)) ∧
    sets (.vsra d a b t k) (fun j => A j / 2 ^ (UB j % w)) ∧
    sets (.vabs d a t k) (fun j => |A j|) ∧
    sets (.vneg d a t k) (fun j => -A j) ∧
    SetsIntLanes (.vadds d a b t k) s d w k (fun j => clamped w (A j + B j)) ∧
    SetsIntLanes (.vsubs d a b t k) s d w k (fun j => clamped w (A j - B j)) ∧
    sets (.vmac d a b t k) (fun j => C j + A j * B j) ∧
    (t = .i32 → SetsIntLanes (.vdot4 d a b k) s d 32 k fun j =>
      let p (i : Nat) : Int := signedElem 8 (elem (UA j) 8 i) * signedElem 8 (elem (UB j) 8 i)
      clamped 32 (C j + (p 0 + p 1 + p 2 + p 3)))

/-- The vector floating-point forms: each active lane performs the scalar rule on its lane values, and the generator
advances lane by lane in ascending order (R201, R211). -/
def Sys2Proof.Claims.VectorFloatForms : Prop :=
  ∀ (s : State) (d a b : VReg) (t : FTy) (k : MReg) (r : Rm),
    let f := ftyFmt t
    let w := f.width
    let x (j : Nat) := f.value (lane s w a j)
    let y (j : Nat) := f.value (lane s w b j)
    let z (j : Nat) := f.value (lane s w d j)
    let mode := s.mode r
    let sets (i : Instr) (h : Nat → BitVec 32 → FpResult) : Prop :=
      SetsLanes i s d w (512 / w) (fun j => (s.m k).getLsbD j) id h
    sets (.vfadd d a b t k r) (fun j g => f.finish [x j, y j] (opAdd mode (x j) (y j)) mode g) ∧
    sets (.vfsub d a b t k r) (fun j g => f.finish [x j, y j] (opAdd mode (x j) (y j).negate) mode g) ∧
    sets (.vfmul d a b t k r) (fun j g => f.finish [x j, y j] (opMul (x j) (y j)) mode g) ∧
    sets (.vfdiv d a b t k r) (fun j g => f.finish [x j, y j] (opDiv (x j) (y j)) mode g) ∧
    sets (.vfsqrt d a t k r) (fun j g => f.finish [x j] (opSqrt (x j)) mode g) ∧
    sets (.vfma d a b t k r) (fun j g => f.finish [z j, x j, y j] (opFma mode (z j) (x j) (y j)) mode g) ∧
    sets (.vfdist d a b t k)
      (fun j g => f.finish [z j, x j, y j] (opDist (s.mode .dyn) (z j) (x j) (y j)) (s.mode .dyn) g) ∧
    sets (.vfmin d a b t k) (fun j g =>
      let m := f.minMax false (lane s w a j) (lane s w b j); ⟨m.1, m.2, g⟩) ∧
    sets (.vfmax d a b t k) (fun j g =>
      let m := f.minMax true (lane s w a j) (lane s w b j); ⟨m.1, m.2, g⟩) ∧
    sets (.vfabs d a t k) (fun j g => let m := f.signOp false (lane s w a j); ⟨m.1, m.2, g⟩) ∧
    sets (.vfneg d a t k) (fun j g => let m := f.signOp true (lane s w a j); ⟨m.1, m.2, g⟩)

/-- `vcvt` converts the pairs of its part as `cvt` converts a scalar: with W and wn the wider and the narrower width,
L = min(64, 512 div W) pairs, and element p·L + j of the narrower register pairs with element j of the wider; every other
bit of vD keeps its value (R213, R214). The scalar form takes the same result of the same bits (R207). -/
def Sys2Proof.Claims.VectorConversion : Prop :=
  ∀ (s : State) (d a : VReg) (p : Fin 8) (k : MReg) (t u : Ty) (r : Rm),
    let L := min 64 (512 / max t.width u.width)
    let src (j : Nat) := if max t.width u.width = u.width ∧ t.width ≠ u.width then j else p.val * L + j
    let dst (j : Nat) := if max t.width u.width = t.width ∧ t.width ≠ u.width then j else p.val * L + j
    (p.val < min 8 (512 / (L * min t.width u.width)) →
      SetsLanes (.vcvt d a p k t u r) s d t.width L (fun j => (s.m k).getLsbD j) dst
        fun j g => convert t u (elem (s.v a) u.width (src j)) (s.mode r) g) ∧
    ∀ x y : GReg, SetsFp (.cvt x y t u r) s x t (convert t u ((s.g y).toNat % 2 ^ u.width) (s.mode r) s.me.srng)

/-- The vector compares write a mask: bit i is set where lane i exists, is active and meets the condition, and the old mask
is ignored; integers compare signed but for `ltu`, floating-point lanes as the scalar compares (R212). -/
def Sys2Proof.Claims.VectorCompares : Prop :=
  ∀ (s : State) (d : MReg) (a b : VReg) (t : ITy) (u : FTy) (k : MReg),
    let w := iWidth t
    let A := signedLane s w a
    let B := signedLane s w b
    let f := ftyFmt u
    let x (j : Nat) := f.value (lane s f.width a j)
    let y (j : Nat) := f.value (lane s f.width b j)
    let unordered (j : Nat) : Bool := (x j).isNan || (y j).isNan
    let signalling (j : Nat) : Bool := (x j).isSignalling || (y j).isSignalling
    let tests (i : Instr) (w : Nat) (c inv : Nat → Bool) : Prop :=
      Completes i s fun t' => ∃ v F, TestsM s t' d v F ∧
        (∀ j, v.getLsbD j = (decide (j < 512 / w) && (s.m k).getLsbD j && c j)) ∧
        F = if (List.range (512 / w)).any (fun j => (s.m k).getLsbD j && inv j) then 1 else 0
    tests (.vcmpEq d a b (.int t) k) w (fun j => decide (A j = B j)) (fun _ => false) ∧
    tests (.vcmpNe d a b (.int t) k) w (fun j => decide (A j ≠ B j)) (fun _ => false) ∧
    tests (.vcmpLt d a b (.int t) k) w (fun j => decide (A j < B j)) (fun _ => false) ∧
    tests (.vcmpLe d a b (.int t) k) w (fun j => decide (A j ≤ B j)) (fun _ => false) ∧
    tests (.vcmpGt d a b (.int t) k) w (fun j => decide (B j < A j)) (fun _ => false) ∧
    tests (.vcmpGe d a b (.int t) k) w (fun j => decide (B j ≤ A j)) (fun _ => false) ∧
    tests (.vcmpLtu d a b t k) w (fun j => decide (lane s w a j < lane s w b j)) (fun _ => false) ∧
    tests (.vcmpEq d a b (.fp u) k) f.width (fun j => !unordered j && (x j).eq (y j)) signalling ∧
    tests (.vcmpNe d a b (.fp u) k) f.width (fun j => unordered j || !(x j).eq (y j)) signalling ∧
    tests (.vcmpLt d a b (.fp u) k) f.width (fun j => !unordered j && (x j).lt (y j)) unordered ∧
    tests (.vcmpLe d a b (.fp u) k) f.width (fun j => !unordered j && ((x j).lt (y j) || (x j).eq (y j))) unordered ∧
    tests (.vcmpGt d a b (.fp u) k) f.width (fun j => !unordered j && (y j).lt (x j)) unordered ∧
    tests (.vcmpGe d a b (.fp u) k) f.width (fun j => !unordered j && ((y j).lt (x j) || (x j).eq (y j))) unordered ∧
    tests (.vcmpUn d a b u k) f.width unordered signalling

/-- Lanes and permutes (R218): an index is taken modulo the lane count; `vsel` writes every lane; `vext` sign-extends. -/
def Sys2Proof.Claims.VectorMoves : Prop :=
  ∀ (s : State) (d a b : VReg) (x y : GReg) (t : ITy) (k : MReg),
    let w := iWidth t
    let L := 512 / w
    let on (j : Nat) : Bool := (s.m k).getLsbD j
    SetsLanes (.vbcast d x t k) s d w L on id (fun _ g => ⟨(s.g x).toNat % 2 ^ w, 0, g⟩) ∧
    SetsG (.vext x a y t) s x (BitVec.ofInt 64 (signedLane s w a ((s.g y).toNat % L))) ∧
    SetsLanes (.vins d x y t) s d w 1 (fun _ => true) (fun _ => (s.g y).toNat % L)
      (fun _ g => ⟨(s.g x).toNat % 2 ^ w, 0, g⟩) ∧
    SetsLanes (.vperm d a b t k) s d w L on id (fun j g => ⟨lane s w a (lane s w b j % L), 0, g⟩) ∧
    SetsLanes (.vsel d a b t k) s d w L (fun _ => true) id
      (fun j g => ⟨if on j then lane s w a j else lane s w b j, 0, g⟩) ∧
    SetsLanes (.vmov d a t k) s d w L on id (fun j g => ⟨lane s w a j, 0, g⟩)

/-- Reductions combine the active lanes into g[d] (R219): sums modulo 2^64, the least or greatest lane with the type's bound
where no lane is active, and the exact floating-point sum rounded once; with no active lane `vfred.add` writes +0. -/
def Sys2Proof.Claims.Reductions : Prop :=
  ∀ (s : State) (d : GReg) (a : VReg) (t : ITy) (u : FTy) (k : MReg),
    let w := iWidth t
    let lanes (w : Nat) : List Nat := ((List.range (512 / w)).filter fun j => (s.m k).getLsbD j).map (lane s w a)
    let signed := (lanes w).map (signedElem w)
    let f := ftyFmt u
    SetsG (.vredAdd d a t k) s d (BitVec.ofInt 64 signed.sum) ∧
    (∃ v : Int, SetsG (.vredMin d a t k) s d (BitVec.ofInt 64 v) ∧ (∀ x ∈ signed, v ≤ x) ∧
      (v ∈ signed ∨ v = 2 ^ (w - 1) - 1)) ∧
    (∃ v : Int, SetsG (.vredMax d a t k) s d (BitVec.ofInt 64 v) ∧ (∀ x ∈ signed, x ≤ v) ∧
      (v ∈ signed ∨ v = -2 ^ (w - 1))) ∧
    (∃ v : Nat, SetsG (.vredMinu d a t k) s d (BitVec.ofNat 64 v) ∧ (∀ x ∈ lanes w, v ≤ x) ∧
      (v ∈ lanes w ∨ v = 2 ^ w - 1)) ∧
    (∃ v : Nat, SetsG (.vredMaxu d a t k) s d (BitVec.ofNat 64 v) ∧ (∀ x ∈ lanes w, x ≤ v) ∧ (v ∈ lanes w ∨ v = 0)) ∧
    (lanes f.width = [] → SetsG (.vfredAdd d a u k) s d 0) ∧
    (lanes f.width ≠ [] →
      SetsFp (.vfredAdd d a u k) s d (ftyTy u) (f.sumAll ((lanes f.width).map f.value) (s.mode .dyn) s.me.srng)) ∧
    (∃ sg, (sg = (lanes f.width).any fun x => (f.value x).isSignalling) ∧
      (((lanes f.width).any fun x => (f.value x).isNan) = true →
        SetsFp (.vfredMin d a u k) s d (ftyTy u) ⟨f.nanCode, invalidIf sg, s.me.srng⟩ ∧
        SetsFp (.vfredMax d a u k) s d (ftyTy u) ⟨f.nanCode, invalidIf sg, s.me.srng⟩) ∧
      (((lanes f.width).any fun x => (f.value x).isNan) = false →
        SetsFp (.vfredMin d a u k) s d (ftyTy u)
          ⟨(lanes f.width).foldl (fun m x => (f.minMax false m x).1) (f.infCode false), 0, s.me.srng⟩ ∧
        SetsFp (.vfredMax d a u k) s d (ftyTy u)
          ⟨(lanes f.width).foldl (fun m x => (f.minMax true m x).1) (f.infCode true), 0, s.me.srng⟩))

/-- The lane-mask forms (R220); m0 is no destination of a legal word and reads all ones. -/
def Sys2Proof.Claims.LaneMaskForms : Prop :=
  ∀ (s : State) (d a b : MReg) (g : GReg),
    SetsM (.mand d a b) s d (s.m a &&& s.m b) ∧
    SetsM (.mor d a b) s d (s.m a ||| s.m b) ∧
    SetsM (.mxor d a b) s d (s.m a ^^^ s.m b) ∧
    SetsM (.mnot d a) s d (BitVec.allOnes 64 ^^^ s.m a) ∧
    SetsM (.mmov d a) s d (s.m a) ∧
    SetsM (.mfromg d g) s d (s.g g) ∧
    SetsG (.mtog g a) s g (s.m a) ∧
    SetsG (.mpop g a) s g (BitVec.ofNat 64 ((List.range 64).filter fun j => (s.m a).getLsbD j).length) ∧
    s.m 0 = BitVec.allOnes 64

namespace Sys2Proof.Claims

/-- Bytes of an element of a vector memory form (R216). -/
def laneBytes (z : LaneSize) : Nat := match z with | .s1 => 1 | .s2 => 2 | .s4 => 4 | .s8 => 8

/-- The addresses of the active elements with their places in the register, ascending: each is checked before any access
(R216). -/
def elements (s : State) (base stride : Word) (n : Nat) (k : MReg) : List (Word × Nat) :=
  ((List.range (64 / n)).filter fun j => (s.m k).getLsbD j).map fun j => (base + BitVec.ofNat 64 j * stride, j * n)

/-- A vector access passes every check of its addresses: those of R52, and for a store of a timed process its own core. -/
def Passes (s : State) (n : Nat) (store : Bool) (eas : List Word) : Prop :=
  ∀ ea ∈ eas, s.checkScalar ea n false = none ∧ (store = true → s.isTimed s.cur = true → s.foreign ea = false)

/-- The lines of its own core's local store that a timed process journals before a store to some addresses (R215). -/
def linesOf (s : State) (eas : List Word) : List Nat := eas.flatMap (journalLines s)

end Sys2Proof.Claims

/-- The vector memory forms issue one access: four line parts of a 64-byte block, or the active elements, each with its own
check; a store of a timed process journals its lines first, and a form with no active lane completes without access
(R215, R216, R217). -/
def Sys2Proof.Claims.VectorMemoryForms : Prop :=
  ∀ (s : State) (d : VReg) (a b : GReg) (j : BitVec 16) (z : LaneSize) (k : MReg),
    let ea := s.g a + s.imm j
    let n := laneBytes z
    let rlx := s.me.pfx.rlx
    let block : List (Word × Nat) := [(ea, 0), (ea + 16, 16), (ea + 32, 32), (ea + 48, 48)]
    let loads (i : Instr) (n : Nat) (ps : List (Word × Nat)) : Prop :=
      s.me.hasRoom rlx → ps ≠ [] →
        Completes i s fun t => Issues s t (.loadVec d) (ps.map fun p => partAt s.here p.1 n 0 p.2) rlx
    let stores (i : Instr) (n : Nat) (ps : List (Word × Nat)) : Prop :=
      ∀ s', s.journalAll s.cur (linesOf s (ps.map Prod.fst)) = some s' → s'.me.hasRoom rlx →
        ps ≠ [] → Completes i s fun t =>
          Issues s' t .store (ps.map fun p => partAt s.here p.1 n (elem (s.v d) (8 * n) (p.2 / n)) p.2) rlx
    let masked := elements s (s.g a) (BitVec.ofNat 64 n) n k
    let strided := elements s (s.g a) (s.g b) n k
    (Passes s 64 false [ea] → loads (.vld d a j) 16 block) ∧
    (Passes s 64 true [ea] → stores (.vst d a j) 16 block) ∧
    (Passes s n false (masked.map Prod.fst) → loads (.vldM d a z k) n masked) ∧
    (Passes s n true (masked.map Prod.fst) → stores (.vstM d a z k) n masked) ∧
    (Passes s n false (strided.map Prod.fst) → loads (.vlds d a b z k) n strided) ∧
    (Passes s n true (strided.map Prod.fst) → stores (.vsts d a b z k) n strided) ∧
    (masked = [] → GoesTo (.vldM d a z k) s (s.me.pc + 4) ∧ GoesTo (.vstM d a z k) s (s.me.pc + 4)) ∧
    (strided = [] → GoesTo (.vlds d a b z k) s (s.me.pc + 4) ∧ GoesTo (.vsts d a b z k) s (s.me.pc + 4))

/-- A vector memory form traps at the first address that fails a check of R52, or in a store of a timed process names
another core, and then no access is made and nothing else changes (R215, R216). -/
def Sys2Proof.Claims.VectorMemoryTraps : Prop :=
  ∀ (s : State) (d : VReg) (a b : GReg) (j : BitVec 16) (z : LaneSize) (k : MReg),
    CanTrap s.me →
    let ea := s.g a + s.imm j
    let n := laneBytes z
    let masked := (elements s (s.g a) (BitVec.ofNat 64 n) n k).map Prod.fst
    let strided := (elements s (s.g a) (s.g b) n k).map Prod.fst
    let forms : List (Instr × Nat × Bool × List Word) :=
      [(.vld d a j, 64, false, [ea]), (.vst d a j, 64, true, [ea]), (.vldM d a z k, n, false, masked),
       (.vstM d a z k, n, true, masked), (.vlds d a b z k, n, false, strided), (.vsts d a b z k, n, true, strided)]
    ∀ x ∈ forms, ∀ before at' after, x.2.2.2 = before ++ at' :: after → Passes s x.2.1 x.2.2.1 before →
      (∀ c, s.checkScalar at' x.2.1 false = some c → TakesTrap x.1 s c s.me.start at') ∧
      (s.checkScalar at' x.2.1 false = none → x.2.2.1 = true → s.isTimed s.cur = true → s.foreign at' = true →
        TakesTrap x.1 s 0x06 s.me.start at')

/-- Vector integer forms write their active lanes, and vector compares write a mask. -/
def Obligations.VectorIntegers : Prop :=
  Sys2Proof.Claims.VectorIntegerForms ∧ Sys2Proof.Claims.VectorCompares

/-- Vector floating point and vector conversion do the scalar rule on each active lane. -/
def Obligations.VectorFloat : Prop :=
  Sys2Proof.Claims.VectorFloatForms ∧ Sys2Proof.Claims.VectorConversion

/-- Lanes, permutes and lane masks. -/
def Obligations.VectorMovesAndMasks : Prop :=
  Sys2Proof.Claims.VectorMoves ∧ Sys2Proof.Claims.LaneMaskForms

/-- Reductions combine the active lanes into a register. -/
def Obligations.VectorReductions : Prop :=
  Sys2Proof.Claims.Reductions

/-- Vector loads and stores issue one access, or trap at the first bad address. -/
def Obligations.VectorMemory : Prop :=
  Sys2Proof.Claims.VectorMemoryForms ∧ Sys2Proof.Claims.VectorMemoryTraps


/-! ## Engines -/

namespace Sys2Proof.Claims

/-- Part k of the block that a configuration reads. -/
def blockParts16 (s : State) (off : Word) (n : Nat) : List Part :=
  (List.range n).map fun k => partAt s.here (off + BitVec.ofNat 64 (16 * k)) 16 0 (16 * k)

/-- The 16 bytes of entry i of a configuration block. -/
def cfgEntry (bs : List Byte) (i : Nat) : List Byte := (bs.drop (16 * i)).take 16

/-- The MXE registers after the entries of a block, in order (R225). -/
def mxAfter (r : MxRegs) (bs : List Byte) : MxRegs :=
  (List.range (bs.length / 16)).foldl
    (fun r i => mxSet r (descNat (cfgEntry bs i) 0 2) (descNat (cfgEntry bs i) 8 8)) r

/-- The copy registers after the entries of a block, in order (R225). -/
def cpAfter (r : CpRegs) (bs : List Byte) : CpRegs :=
  (List.range (bs.length / 16)).foldl
    (fun r i => cpSet r (descNat (cfgEntry bs i) 0 2) (descNat (cfgEntry bs i) 8 8)) r

/-- The job forms with their engines (R227). -/
def jobForms (d a b : GReg) (f : JobFlags) : List (Instr × Engine × JobForm) :=
  [(.mxMma d a b f, .mxe, .mma), (.mxMmb d a b f, .mxe, .mmb), (.mxDist d a b f, .mxe, .dist),
   (.mxTopk d a b f, .mxe, .topk), (.mxZero d a b f, .mxe, .zero), (.mxLd d a b f, .mxe, .ld),
   (.mxSt d a b f, .mxe, .st), (.cpCopy d a b f, .copy, .copy), (.cpStream d a b f, .copy, .stream)]

/-- What order 1 of R227 finds of a form. -/
def constraintOf (s : State) (f : JobForm) (a b : Word) : Option Constraint :=
  match f with
  | .copy => cpConstraint false s.me.cp a b
  | .stream => cpConstraint true s.me.cp a b
  | f => mxConstraint f s.me.mx a b

/-- The completion event that a form names: MEVT or CEVT. -/
def eventOf (s : State) (e : Engine) : BitVec 32 := match e with | .mxe => s.me.mx.mevt | .copy => s.me.cp.cevt

/-- What orders 4 to 6 of R227 find of a form. -/
def rangesOf (s : State) (f : JobForm) (a b : Word) : Option (Nat × Word) :=
  match f with
  | .copy => s.checkRanges s.cur [a, b] (cpRanges false s.me.cp a b)
  | .stream => s.checkRanges s.cur [a] (cpRanges true s.me.cp a b)
  | f => s.checkRanges s.cur (mxBases f a b) (mxRanges f s.me.mx a b)

/-- A job is accepted: it stands at the end of its queue with the operands and registers of the instruction, the dispatch
ring has its entry, and g[d] its ID; no memory and no other context changes, and without a completion event and an open
batch nothing but this core does (R227, R228). -/
structure Accepted (s t : State) (e : Engine) (f : JobForm) (d : GReg) (a b : Word) (fl : JobFlags) : Prop where
  job : ∃ j : Job, queueOf (t.core s.here) e = queueOf (s.core s.here) e ++ [j] ∧ j.form = f ∧ j.a = a ∧ j.b = b ∧
    j.flags = fl ∧ j.mx = s.me.mx ∧ j.cp = s.me.cp ∧ j.handle = eventOf s e ∧ j.tid = s.cur ∧ j.status = 0 ∧
    j.started = false ∧ j.order = s.jobCount ∧ j.id = BitVec.ofNat 32 (State.jobId s.here e (State.nextSeq (s.core s.here) e))
  ring : tableFind (State.nextSeq (s.core s.here) e % 16) (t.core s.here).ring =
    some ⟨s.me.pc, BitVec.ofNat 32 (State.jobId s.here e (State.nextSeq (s.core s.here) e)), slotOfTid s.cur⟩
  reg : ∀ r, t.g r = if r = d ∧ r ≠ 0 then
    (BitVec.ofNat 32 (State.jobId s.here e (State.nextSeq (s.core s.here) e))).setWidth 64 else s.g r
  next : GoesOnAt t.me (s.me.pc + 4)
  mine : { t.me.placedAs s.me with regs := s.me.regs } = s.me
  others : ∀ k, k ≠ s.cur → t.ctx k = s.ctx k
  bytes : t.mem = s.mem
  counted : t.jobCount = s.jobCount + 1
  alone : eventOf s e = 0 → (s.cluster (clusterOf s.here)).batches = [] →
    { t with ctxs := s.ctxs, cores := s.cores, jobCount := s.jobCount } = s ∧ ∀ k, k ≠ s.here → t.core k = s.core k

end Sys2Proof.Claims

/-- `mx.cfg` and `cp.cfg` read a block of 1 to 32 entries and apply every entry, or none: a wrong entry traps with its
offset in XADDR. `mx.get` reads a register, `cp.stat` a register or the promise of a copy (R225, R226). -/
def Sys2Proof.Claims.EngineRegisters : Prop :=
  ∀ (s : State) (d a b : GReg),
    let off := s.g a
    let n := (s.g b).toNat
    (∀ x ∈ [((.mxCfg a b : Instr), false), (.cpCfg a b, true)],
      (off.toNat % 16 = 0 → 1 ≤ n → n ≤ 32 → off.toNat + 16 * n ≤ 0x20000 →
        Completes x.1 s fun t => OnlyMe s t ∧ t.me = { s.me with
          port := some ⟨s.me.nextSerial, .config x.2, false, blockParts16 s off n, []⟩
          nextSerial := s.me.nextSerial + 1, target := off, wait := .access, status := .waiting, held := none }) ∧
      (CanTrap s.me → off.toNat % 16 ≠ 0 → TakesTrap x.1 s 0x02 s.me.start off) ∧
      (CanTrap s.me → off.toNat % 16 = 0 → 1 ≤ n → 0x20000 < off.toNat + 16 * n →
        TakesTrap x.1 s 0x03 s.me.start off) ∧
      (CanTrap s.me → off.toNat % 16 = 0 → 32 < n → off.toNat + 16 * n ≤ 0x20000 →
        TakesTrap x.1 s 0x0B s.me.start (s.g b))) ∧
    (∀ bank tid acc p copy, AtHead s bank tid acc 0 p → acc.kind = .config copy → acc.parts = [p] →
      p.addr < 0x400000000 → acc.relaxed = false →
      let bs := acc.got ++ memBytes s.mem p.addr p.size
      let c := { s.ctx tid with port := none }
      ((∀ i < bs.length / 16, cfgEntryOk copy (cfgEntry bs i) = true) →
        Completes (.accessPerform bank 0) s fun t => t.mem = s.mem ∧ OnlyPerforms s t bank tid
          (if copy then { c with cp := cpAfter c.cp bs } else { c with mx := mxAfter c.mx bs }).advance) ∧
      (∀ i < bs.length / 16, (∀ k < i, cfgEntryOk copy (cfgEntry bs k) = true) →
        cfgEntryOk copy (cfgEntry bs i) = false → CanTrap (s.ctx tid) →
        Completes (.accessPerform bank 0) s fun t => t.mem = s.mem ∧ (t.ctx tid).xcause = 0x0B ∧
          (t.ctx tid).xaddr = (s.ctx tid).target + BitVec.ofNat 64 (16 * i) ∧ (t.ctx tid).mx = (s.ctx tid).mx ∧
          (t.ctx tid).cp = (s.ctx tid).cp ∧ (t.ctx tid).pc = (s.ctx tid).xvec &&& 0x1FFFC)) ∧
    (off.toNat < 256 → (mxMask off.toNat).isSome = true →
      SetsG (.mxGet d a) s d (BitVec.ofNat 64 (mxGet s.me.mx off.toNat))) ∧
    (256 ≤ off.toNat ∨ mxMask off.toNat = none → CanTrap s.me → TakesTrap (.mxGet d a) s 0x0B s.me.start off) ∧
    (∀ r, off = BitVec.ofNat 64 (2 ^ 63 + r) → r ≤ 0x16 →
      SetsG (.cpStat d a) s d (BitVec.ofNat 64 (cpGet s.me.cp r))) ∧
    (off.toNat < 2 ^ 63 → (∀ j ∈ (s.core s.here).cpQueue, j.id.toNat ≠ off.toNat) → SetsG (.cpStat d a) s d 0) ∧
    (∀ j p, off.toNat < 2 ^ 63 → (s.core s.here).cpQueue.find? (fun j => j.id.toNat == off.toNat) = some j →
      j.promise = some p → SetsG (.cpStat d a) s d (BitVec.ofNat 64 p))

/-- An engine register reads as written, within its bits, and a write leaves every other register alone (R223, R224). -/
def Sys2Proof.Claims.EngineRegistersReadBack : Prop :=
  ∀ (m : MxRegs) (c : CpRegs) (n k v mask : Nat),
    (mxMask n = some mask → v ≤ mask → mxGet (mxSet m n v) n = v) ∧
    (mxMask n = some mask → (mxMask k).isSome = true → k ≠ n → mxGet (mxSet m n v) k = mxGet m k) ∧
    (n ≤ 0x16 → n ≠ 1 → cpMask n = some mask → v ≤ mask → cpGet (cpSet c n v) n = v) ∧
    (n ≤ 0x16 → k ≤ 0x16 → k ≠ n → cpGet (cpSet c n v) k = cpGet c k)

/-- Submitting a job takes the first trap that R227 lists: a register constraint or an operand, the completion event,
the address ranges; then it waits for room in the queue, and under release for an empty relaxed buffer; then the job is
accepted. `cp.cancel` stops a copy of its core, with the pages that only it held pinned and the buffer that it filled
let go, and traps in a timed process (R227, R228, R246, R247, R333, R383). Which of several broken constraints is
reported is log entries 16 and 58; which forms the constraints hold for, log entry 71; scales, log entry 72. -/
def Sys2Proof.Claims.JobSubmission : Prop :=
  ∀ (s : State) (d a b : GReg) (fl : JobFlags),
    let A := s.g a
    let B := s.g b
    (∀ x ∈ jobForms d a b fl,
      let i := x.1
      let e := x.2.1
      let f := x.2.2
      let full := State.queueCap e ≤ (queueOf (s.core s.here) e).length
      (CanTrap s.me → ∀ n, constraintOf s f A B = some (.register n) →
        TakesTrap i s 0x0B s.me.start (BitVec.ofNat 64 (if e = .copy then n + 256 else n))) ∧
      (CanTrap s.me → ∀ v, constraintOf s f A B = some (.operand v) → TakesTrap i s 0x0B s.me.start v) ∧
      (constraintOf s f A B = none →
        (CanTrap s.me → ∀ c v, s.checkHandle s.cur (eventOf s e) = some (c, v) → TakesTrap i s c s.me.start v) ∧
        (s.checkHandle s.cur (eventOf s e) = none →
          (CanTrap s.me → ∀ c v, rangesOf s f A B = some (c, v) → TakesTrap i s c s.me.start v) ∧
          (rangesOf s f A B = none →
            (full → WaitsFor i s .queue) ∧
            (¬ full → fl.rel = true → State.bufferEmpty s.me = false → WaitsFor i s .drain) ∧
            (¬ full → (fl.rel = true → State.bufferEmpty s.me = true) →
              Completes i s fun t => Accepted s t e f d A B fl))))) ∧
    (s.isTimed s.cur = true → CanTrap s.me → TakesTrap (.cpCancel a) s 0x06 s.me.start 0) ∧
    (s.isTimed s.cur = false → (∀ j ∈ (s.core s.here).cpQueue, j.id.toNat ≠ A.toNat) →
      GoesTo (.cpCancel a) s (s.me.pc + 4)) ∧
    (s.isTimed s.cur = false → (∀ j ∈ (s.core s.here).cpQueue, j.form = .copy) →
      Completes (.cpCancel a) s fun t =>
        (t.core s.here).cpQueue = (s.core s.here).cpQueue.map (fun j =>
          if j.id.toNat = A.toNat ∧ j.status = 0 then
            endedWith 1 { j with cancelled := true, awaitAck := false } else j) ∧
        t.me = s.me.advance ∧ (∀ k, k ≠ s.cur → t.ctx k = s.ctx k) ∧
        (memWf s.mem = true → ∀ a, (∀ e ∈ s.pinned, a ≠ dpaBase + e + 8) → memGet a t.mem = memGet a s.mem) ∧
        ∀ k, k ≠ s.here → t.core k = s.core k) ∧
    (∀ j n, s.isTimed s.cur = false → (s.core s.here).cpQueue = [j] → latchFilled? j = some n → j.started = true →
      j.status = 0 → j.id.toNat = A.toNat → (s.core s.here).mxQueue = [] →
      Completes (.cpCancel a) s fun t => latchOf (t.core s.here) n = Latch.none ∧
        (t.core s.here).cpQueue = [endedWith 1 { j with cancelled := true, awaitAck := false }])

/-- Engine registers: a block is applied whole or not at all, and a register reads as written. -/
def Obligations.EngineConfiguration : Prop :=
  Sys2Proof.Claims.EngineRegisters ∧ Sys2Proof.Claims.EngineRegistersReadBack

/-- Submitting a job: its traps in order, its waits, its acceptance, and cp.cancel. -/
def Obligations.JobsAreSubmitted : Prop :=
  Sys2Proof.Claims.JobSubmission


/-! ## Steps of the engines -/

namespace Sys2Proof.Claims

/-- Of the whole device only one core may differ. -/
structure OnlyCore (s t : State) (pcn : Nat) : Prop where
  device : { t with cores := s.cores } = s
  others : ∀ k, k ≠ pcn → t.core k = s.core k

/-- Of the whole device only one core and memory may differ. -/
structure OnlyCoreMem (s t : State) (pcn : Nat) : Prop where
  device : { t with cores := s.cores, mem := s.mem } = s
  others : ∀ k, k ≠ pcn → t.core k = s.core k

/-- A bulk packet, which carries no state of its own. -/
def isBulk (p : Packet) : Bool := match p.body with | .bulk _ _ => true | _ => false

/-- Of the whole device only one core and some bulk packets may differ. -/
structure OnlyCoreBulk (s t : State) (pcn : Nat) : Prop where
  device : { t with cores := s.cores, net := s.net } = s
  others : ∀ k, k ≠ pcn → t.core k = s.core k
  packets : t.net.filter (fun p => !isBulk p) = s.net.filter fun p => !isBulk p

/-- Of the whole device only one core and one bank's queue may differ, and that queue has one entry more at its end. -/
structure EntersBank (s t : State) (pcn : Nat) (q : QueuedPart) : Prop where
  device : { t with cores := s.cores, banks := s.banks } = s
  others : ∀ k, k ≠ pcn → t.core k = s.core k
  queues : ∀ b, t.bank b = if b = bankOf q.addr then s.bank b ++ [q] else s.bank b

/-- Of the whole device only one core, one bank's queue and memory may differ, and that queue has lost its head. -/
structure LeavesBank (s t : State) (pcn bank : Nat) : Prop where
  device : { t with cores := s.cores, banks := s.banks, mem := s.mem } = s
  others : ∀ k, k ≠ pcn → t.core k = s.core k
  queues : ∀ b, t.bank b = if b = bank then (s.bank b).tail else s.bank b

/-- What a job has read, with some bytes more under a name. -/
def Gets (f : List (Nat × Byte) → List (Nat × Byte)) (name : Nat) (bs : List Byte) : Prop :=
  ∀ got, (∀ i < bs.length, tableFind (name + i) (f got) = bs[i]?) ∧
    ∀ k, k < name ∨ name + bs.length ≤ k → tableFind k (f got) = tableFind k got

/-- The core keeps everything but its queue of an engine, in which each job with an ID changes. -/
def JobChanges (s t : State) (pcn : Nat) (e : Engine) (id : BitVec 32) (f : Job → Job) : Prop :=
  t.core pcn = setQueue (s.core pcn) e ((queueOf (s.core pcn) e).map fun x => if x.id = id then f x else x)

/-- A thread takes a late trap at its next boundary: its context, where it is at home, lists the trap last. -/
def LateFor (s t : State) (j : Job) (trap : LateTrap) : Prop :=
  let c := s.ctx j.thread
  c.away = false → c.proc = j.proc → c.status ≠ .empty → c.status ≠ .reserved →
    t.ctx j.thread = { c with late := c.late ++ [trap] }

/-- A copy has passed its promise, and its thread is still to be told (R240). -/
def Overdue (s : State) (j : Job) : Prop :=
  j.overdue = false ∧ j.timed = false ∧ s.jobRuns j = true ∧ ∃ p, j.promise = some p ∧ p < s.now

end Sys2Proof.Claims

/-- ENGINE_GRANT moves the cluster's grant by one step (R58, R229, R239): a line that it names is read off-chip, or
enters its bank's arrival queue; once all lines have been read, the writes are computed from what was read; a line is
written off-chip or enters its bank's queue; and with the last write the grant ends, and an MXE job has no more of them.
A timed process defers its off-chip write and pins the page (R103, R333). Where none is in motion, the arbiter gives the
next one to the core that it picks. How an off-chip write becomes visible is log entry 10; that a grant reads all its
lines before it writes, log entry 13; the packets of a grant, log entry 74; a stream that survives a rollback, log entry
68. -/
def Sys2Proof.Claims.EngineGrants : Prop :=
  ∀ (s : State) (cluster n line pcn : Nat) (j : Job),
    let e := engineOf n
    let step : Instr := .engineGrant cluster n ⟨0, line⟩
    let changes (f : Job → Job) : Prop := Completes step s fun t => OnlyCore s t pcn ∧ JobChanges s t pcn e j.id f
    let ends (f : Job → Job) : Prop := Completes step s fun t => OnlyCoreBulk s t pcn ∧ JobChanges s t pcn e j.id f
    (s.movingCore? cluster e = some pcn → State.openJob? (s.core pcn) e = some j →
      (∀ todo waits r, j.grant = .reading todo waits →
        let i := line % todo.length
        todo[i]? = some r →
        (r.offchip = true → ∃ f, Gets f r.name (s.readOffchip (clusterOf pcn) r.addr r.size) ∧
          changes fun x => { x with got := f x.got, grant := .reading (listDrop i todo) waits }) ∧
        (r.offchip = false → Completes step s fun t => EntersBank s t pcn ⟨.job pcn e j.id, r.addr, r.name⟩ ∧
          JobChanges s t pcn e j.id fun x => { x with grant := .reading (listDrop i todo) (waits ++ [r]) })) ∧
      (e = .mxe → j.grant = .reading [] [] → latchRead? j = none →
        let r := mxCompute pcn j none j.got
        changes fun x => { x with raised := x.raised ||| r.2, grant := .writing r.1 [] }) ∧
      (∀ todo waits w, j.grant = .writing todo waits →
        let i := line % todo.length
        todo[i]? = some w →
        (∀ key d, w = .window key d → Completes step s fun t => EntersBank s t pcn ⟨.job pcn e j.id, key, key⟩ ∧
          JobChanges s t pcn e j.id fun x => { x with grant := .writing (listDrop i todo) (waits ++ [w]) }) ∧
        (∀ dpa page d, w = .offchip dpa page d →
          let moves (t : State) : Prop := t.ctxs = s.ctxs ∧ (∀ c, c ≠ pcn → t.core c = s.core c) ∧
            queueOf (t.core pcn) e = (queueOf (s.core pcn) e).map (fun x =>
              if x.id = j.id then { x with grant := .writing (listDrop i todo) waits } else x) ∧
            (memWf s.mem = true → ∀ a, a ≠ dpaBase + page.entry + 8 → memGet a t.mem = memGet a s.mem)
          (j.timed = true → Completes step s fun t => moves t ∧ t.offbuf = s.offbuf ∧
            (t.core pcn).deferred = (s.core pcn).deferred ++
              [⟨.write j.id dpa page d, j.lvt, j.proc, j.ckseq, j.thread, j.order⟩] ∧
            (memWf s.mem = true → (memGet (dpaBase + page.entry + 8) t.mem).getLsbD 2 = true)) ∧
          (j.timed = false → Completes step s fun t => moves t ∧ (t.core pcn).deferred = (s.core pcn).deferred ∧
            t.offbuf = s.offbuf ++ [⟨clusterOf pcn, j.thread, j.id, j.order, none, dpa, d⟩]))) ∧
      (∀ w ws, j.grant = .reading [] (w :: ws) → exec step s = .next s) ∧
      (∀ w ws, j.grant = .writing [] (w :: ws) → exec step s = .next s) ∧
      (e = .mxe → j.form ≠ .stream → j.grant = .writing [] [] →
        ends fun x => { x with row := x.row + 1, grant := .none, got := [], held := [], finished := true }) ∧
      (e = .copy → j.form = .copy → j.grant = .writing [] [] → inSendWindow j.b = false →
        ends fun x => { x with
          row := x.row + 1, grant := .none, got := [], held := [], finished := decide (grantCount j.cp ≤ j.row + 1) })) ∧
    (∀ i c, e = .mxe → s.movingCore? cluster e = none → s.pickCore cluster e = some (i, c) →
      pcn = coreInCluster cluster i → State.openJob? (s.core pcn) e = some j → State.latchMismatch (s.core pcn) j = false →
      Completes step s fun t => t.mem = s.mem ∧ t.ctxs = s.ctxs ∧
        State.pointerOf (t.cluster cluster) e = (i, c) ∧
        JobChanges s t pcn e j.id fun x =>
          { x with started := true, got := [], grant := .reading (State.coreReads (mxReads pcn j)) [] })

/-- A line of a job at the head of its bank's arrival queue is performed there (R58, R239, R244): what it reads becomes the job's,
or the bytes of its write are stored. -/
def Sys2Proof.Claims.JobLinesPerform : Prop :=
  ∀ (s : State) (bank pcn key name : Nat) (e : Engine) (j : Job),
    (s.bank bank).head? = some ⟨.job pcn e j.id, key, name⟩ →
    ((queueOf (s.core pcn) e).find? fun x => x.id == j.id) = some j →
    (∀ todo waits r, j.grant = .reading todo waits →
      (waits.find? fun r => r.addr == key && r.name == name) = some r →
      ∃ f, Gets f r.name (memBytes s.mem r.addr r.size) ∧
        Completes (.accessPerform bank 0) s fun t => LeavesBank s t pcn bank ∧ t.mem = s.mem ∧
          JobChanges s t pcn e j.id fun x => { x with got := f x.got, grant := .reading todo (waits.erase r) }) ∧
    (∀ todo before after d, j.grant = .writing todo (before ++ .window key d :: after) →
      (∀ w ∈ before, ∀ d, w ≠ .window key d) → j.timed = false → Unwatched s key d.bytes.length →
      Completes (.accessPerform bank 0) s fun t => LeavesBank s t pcn bank ∧
        t.mem = storeBytes key (mergeData (memBytes s.mem key d.bytes.length) d) s.mem ∧
        JobChanges s t pcn e j.id fun x => { x with grant := .writing todo (before ++ after) })

/-- The arbiter's choice (R229): the core at the pointer keeps it while it is ready and has grants of its weight left; then
the first ready core after it, in rotation. -/
def Sys2Proof.Claims.ArbiterChoice : Prop :=
  ∀ (s : State) (cluster n i c : Nat),
    let e := engineOf n
    let p := State.pointerOf (s.cluster cluster) e
    let ready (k : Nat) : Bool := s.jobReady (coreInCluster cluster k) e
    let stays : Bool := ready p.1 && decide (p.2 < s.weight (coreInCluster cluster p.1) e)
    (s.pickCore cluster e = some (i, c) → ready i = true ∧ c ≤ max 1 (s.weight (coreInCluster cluster i) e) ∧
      (stays = true → i = p.1 ∧ c = p.2 + 1) ∧
      (stays = false → c = 1 ∧ ∃ k < 8, i = (p.1 + 1 + k) % 8 ∧ ∀ m < k, ready ((p.1 + 1 + m) % 8) = false)) ∧
    (s.pickCore cluster e = none → ∀ k < 8, ready k = false) ∧
    1 ≤ s.weight (coreInCluster cluster i) e ∧ s.weight (coreInCluster cluster i) e ≤ 8

/-- The engine's multiply steps (R123, R125): on integers the element takes the exact sum, clamped to INT32 with
`saturate`; on floating-point values that are all finite, the exact sum of the element and all products, rounded once. -/
def Sys2Proof.Claims.MultiplySteps : Prop :=
  ∀ (r : MxRegs) (dist : Bool) (o : MxOperands) (c i j : Nat),
    let t := tyOfCode (mxTc r)
    let k := r.mkDim.toNat
    (tyFmt? t = none →
      let x (n : Nat) := tyIntRead t (o.a i n)
      let y (n : Nat) := tyIntRead t (o.b n j)
      let v := tyIntRead .i32 c + ∑ n ∈ Finset.range k, if dist then (x n - y n) ^ 2 else x n * y n
      let w := max (-2 ^ 31) (min (2 ^ 31 - 1) v)
      multiplyStep r dist o c i j = ⟨(w % 2 ^ 32).toNat, if w = v then 0 else 0x20, 0⟩) ∧
    (∀ (f : Fmt) (z : Exact) (x y : Nat → Exact), tyFmt? t = some f → mxBlocks r = false →
      let g := if t = .f64 then ftyFmt .f64 else ftyFmt .f32
      g.value c = .fin z → (∀ n < k, f.value (o.a i n) = .fin (x n)) → (∀ n < k, f.value (o.b n j) = .fin (y n)) →
      ∃ e : Exact, e.more = false ∧
        e.rat = z.rat + ∑ n ∈ Finset.range k, (if dist then ((x n).rat - (y n).rat) ^ 2 else (x n).rat * (y n).rat) ∧
        multiplyStep r dist o c i j = g.round e .nearest 0)

/-- The other steps of the engines. STREAM_START gives a stream its Empty latch buffer, which is then Filling with the type
and K of the stream, once what its release waits for is visible (R67, R233). JOB_COMPLETE completes the first job of a queue, which leaves it and counts in its batch
(R230, R231); a job that failed without a live event gives its thread a late trap at once (R232). COPY_OVERDUE tells a
thread, once, that a copy has passed its promise (R240). An acknowledged send lets its copy complete, and an abandoned
one ends it with status 3 (R356). -/
def Sys2Proof.Claims.EngineEvents : Prop :=
  ∀ (s : State) (pcn n job : Nat) (j : Job),
    let e := engineOf n
    let k := s.core pcn
    (State.openJob? k .copy = some j → j.form = .stream → j.started = false → s.jobRuns j = true → s.released j = true →
      (latchOf k (j.b.toNat % 2)).state = .empty →
      Completes (.streamStart pcn) s fun t => OnlyCore s t pcn ∧
        latchOf (t.core pcn) (j.b.toNat % 2) =
          ⟨.filling, j.cp.cconv.toNat / 256 % 16, j.cp.cconv.getLsbD 12, cpTil j.cp 0, [], []⟩ ∧
        (t.core pcn).cpQueue = k.cpQueue.map fun x => if x.id = j.id then
          { x with started := true, promise := some (s.promiseOf pcn x) } else x) ∧
    (∀ rest, queueOf k e = j :: rest → s.mayComplete pcn j = true →
      Completes (.jobComplete pcn n) s fun t => t.mem = s.mem ∧
        ((∀ x ∈ k.mxQueue, ∀ key l, x.launch = some key → s.launch? key = some l → l.phase = .running) →
          queueOf (t.core pcn) e = rest) ∧
        (j.status < 2 ∨ j.cancelled = true → t.ctxs = s.ctxs) ∧
        (2 ≤ j.status → j.cancelled = false → j.handle = 0 →
          LateFor s t j ⟨if j.status = 2 then 0x11 else 0x12, j.id, j.order, coreOfTid j.tid, j.ckseq⟩) ∧
        ∀ b ∈ (s.cluster (clusterOf pcn)).batches, some b.number = j.batch → b.closed = false →
          { b with
            pending := b.pending - 1, status := max b.status j.status, raised := b.raised ||| (j.raised &&& 0x3F)
            passed := b.passed || (j.promise.map fun p => decide (p < s.now)).getD false
            fill := (b.fill + j.fill) % 2 ^ 32, time := s.now % 2 ^ 32 } ∈ (t.cluster (clusterOf pcn)).batches) ∧
    (∀ before after, k.cpQueue = before ++ j :: after → (∀ x ∈ before, ¬ Overdue s x) → Overdue s j →
      Completes (.copyOverdue pcn) s fun t => t.mem = s.mem ∧
        (t.core pcn).cpQueue = k.cpQueue.map (fun x => if x.id = j.id then { x with overdue := true } else x) ∧
        LateFor s t j ⟨0x10, j.id, j.promise.getD 0, pcn, j.ckseq⟩) ∧
    (s.uetOut.any (isSendOf pcn job) = true →
      let settled (f : Job → Job) (t : State) : Prop :=
        { t with cores := s.cores, uetOut := s.uetOut } = s ∧ (∀ c, c ≠ pcn → t.core c = s.core c) ∧
        t.uetOut = (s.uetOut.filter fun u => !isSendOf pcn job u) ∧
        t.core pcn = { k with cpQueue := k.cpQueue.map fun x =>
          if x.id = BitVec.ofNat 32 job then if x.awaitAck then f { x with awaitAck := false } else x else x }
      Completes (.peerSendAck pcn job) s (settled fun x => x) ∧
      Completes (.uetSendAbandon pcn job) s (settled (endedWith 3)))

/-- Engine grants move line by line, and the arbiter picks cores in weighted rotation. -/
def Obligations.EngineGrantsAndArbiter : Prop :=
  Sys2Proof.Claims.EngineGrants ∧ Sys2Proof.Claims.JobLinesPerform ∧ Sys2Proof.Claims.ArbiterChoice

/-- Multiply steps are exact sums, saturated or rounded once. -/
def Obligations.MultiplyStepsAreExact : Prop :=
  Sys2Proof.Claims.MultiplySteps

/-- Streams start, jobs complete, promises pass and sends are settled. -/
def Obligations.JobsEnd : Prop :=
  Sys2Proof.Claims.EngineEvents


/-! ## Events -/

namespace Sys2Proof.Claims

/-- Packet n of the network is p, and nothing has to arrive before it; without it the state is s1. -/
structure Arrives (s : State) (n : Nat) (p : Packet) (s1 : State) : Prop where
  there : s.net[n]? = some p
  may : s.mayArrive n p = true
  left : s1 = s.takePacket n p

/-- A packet from one core to another that no reduction counts. -/
def packet (cls : PacketClass) (src dst : Nat) (colour : Option Nat) (body : Body) : Packet :=
  ⟨cls, src, dst, colour, none, body⟩

/-- Only the context that issues and the network may differ. -/
structure OnlyMeNet (s t : State) : Prop where
  device : { t with ctxs := s.ctxs, net := s.net } = s
  others : ∀ k, k ≠ s.cur → t.ctx k = s.ctx k

/-- The forms of an offer with what each reads and its deadline (R256). -/
def offerForms (s : State) (d a b : GReg) : List (Instr × OfferForm × Option Nat) :=
  [(.offer d a, .list, none), (.offer1 d a, .single, none), (.offerT d a b, .timed, some (s.g b).toNat)]

/-- The context can issue an offer: its buffer is empty, it is at home, and its launch has not begun to stop. -/
structure CanOffer (s : State) : Prop where
  drained : State.bufferEmpty s.me = true
  home : s.me.away = false
  running : s.atStopPoint s.cur = false

/-- The context that issues has no open batch (R230). -/
def NoOpenBatch (s : State) : Prop := ∀ cl, ∀ b ∈ (s.cluster cl).batches, b.thread = s.threadOf s.cur → b.closed = true

/-- The header of an entry of an offer (R81). -/
def headerOfEntry (s : State) (x : OfferEntry × Nat) : Packet :=
  packet .request (coreOfTid s.cur) x.1.home (s.launchColour (s.entry x.1.home x.1.entry).launch)
    (.header x.1.entry x.1.gen ⟨s.rankOf s.cur, s.cur, x.2, 0, s.me.nextSerial⟩)

end Sys2Proof.Claims

/-- `ev.new` reads its descriptor's 64 bytes in one access, and `ev.free` sends the free to the handle's home and waits
(R252, R254). A misaligned descriptor, one outside the self window, a timed process and a context of no launch trap. -/
def Sys2Proof.Claims.EventForms : Prop :=
  ∀ (s : State) (d a b : GReg),
    let off := s.g a
    let h := off.setWidth 32
    let timed := s.isTimed s.cur
    let home := s.coreOfLogical? s.cur (h.toNat / 2 ^ 20)
    (off.toNat % 16 = 0 → off.toNat + 64 ≤ 0x20000 → timed = false → (s.launchOf s.cur).isSome = true →
      Completes (.evNew d a b) s fun t => OnlyMe s t ∧ t.me = { s.me with
        port := some ⟨s.me.nextSerial, .descriptor d (s.g b), false, blockParts16 s off 4, []⟩
        nextSerial := s.me.nextSerial + 1, target := off, wait := .access, status := .waiting, held := none }) ∧
    (CanTrap s.me →
      (off.toNat % 16 ≠ 0 → TakesTrap (.evNew d a b) s 0x02 s.me.start off) ∧
      (off.toNat % 16 = 0 → 0x20000 < off.toNat + 64 → TakesTrap (.evNew d a b) s 0x03 s.me.start off) ∧
      (off.toNat % 16 = 0 → off.toNat + 64 ≤ 0x20000 → timed = true → TakesTrap (.evNew d a b) s 0x06 s.me.start 0) ∧
      (off.toNat % 16 = 0 → off.toNat + 64 ≤ 0x20000 → timed = false → s.launchOf s.cur = none →
        TakesTrap (.evNew d a b) s 0x08 s.me.start off) ∧
      (timed = true → TakesTrap (.evFree a) s 0x06 s.me.start 0)) ∧
    (∀ pcn, timed = false → home = some pcn →
      Completes (.evFree a) s fun t => OnlyMeNet s t ∧
        t.me = { s.me with wait := .home, status := .waiting, dest := 0, held := none } ∧
        t.net = s.net ++ [packet .request s.here pcn (s.trafficColour s.cur) (.evFree s.cur h)]) ∧
    (timed = false → home = none → GoesTo (.evFree a) s (s.me.pc + 4))

/-- The three offer forms (R256, R81, R86, R105): an offer that passes the checks of R80 opens its slot with the entries
read, sends a header to the home of each, and waits; a deadline that has come returns −1 at once. Before that it waits for
an empty relaxed buffer, a process that is away goes home to offer, one at its stop point stays there (R108), and one that
offers prompt events settles first. -/
def Sys2Proof.Claims.OfferForms : Prop :=
  ∀ (s : State) (d a b : GReg), ∀ x ∈ offerForms s d a b,
    let due : Bool := match x.2.2 with | some t => decide (t ≤ s.now) | none => false
    (State.bufferEmpty s.me = false → WaitsFor x.1 s .drain) ∧
    (State.bufferEmpty s.me = true → s.me.away = true → s.me.spawned = false →
      Completes x.1 s fun t => t.me = Ctx.zero ∧ (∀ k, k ≠ s.cur → t.ctx k = s.ctx k) ∧
        t.net = s.net ++ [packet .request s.here (coreOfTid s.me.home) (s.trafficColour s.cur)
          (.ember (s.emberOf s.cur s.me.migSize none (some x.1)))]) ∧
    (State.bufferEmpty s.me = true → s.me.away = false → s.atStopPoint s.cur = true →
      Completes x.1 s fun t => OnlyMe s t ∧
        t.me = { s.me with wrapStop := true, status := .waiting, wait := .none, held := none }) ∧
    (CanOffer s →
      (CanTrap s.me → ∀ c v, checkOffer s s.cur x.2.1 (s.g a) = .trap c v → TakesTrap x.1 s c s.me.start v) ∧
      (∀ es, checkOffer s s.cur x.2.1 (s.g a) = .entries es →
        (es ≠ [] → es.any (·.timed) = false → s.unsettled s.cur = true →
          Completes x.1 s fun t => t.me = { s.me with held := some x.1, wait := .settle, status := .waiting } ∧
            t.mem = s.mem ∧ t.net = s.net ∧ ∀ l r, s.launchOf s.cur = some l → s.launch? l = some r →
              t.launch? l = some { r with requested := true }) ∧
        (NoOpenBatch s → (es ≠ [] → es.any (·.timed) = true ∨ s.unsettled s.cur = false) →
          (due = true → SetsG x.1 s d (BitVec.allOnes 64)) ∧
          (due = false → es.any (·.timed) = false →
            Completes x.1 s fun t => OnlyMeNet s t ∧
              t.me = { s.me with
                offer := ⟨.opened, es, d, x.2.2, false, [], s.me.nextSerial⟩, nextSerial := s.me.nextSerial + 1
                wait := if es = [] then .timer else .offer, status := .waiting, held := none } ∧
              t.net = s.net ++ es.zipIdx.map (headerOfEntry s)) ∧
          (due = false → es.any (·.timed) = true →
            Completes x.1 s fun t => t.mem = s.mem ∧ (∀ k, k ≠ s.cur → t.ctx k = s.ctx k) ∧
              t.me = { s.me with
                offer := ⟨.opened, es, d, x.2.2, false, [], s.me.nextSerial⟩, nextSerial := s.me.nextSerial + 1
                wait := .offer, status := .waiting, held := none } ∧
              (t.net.drop s.net.length).map Packet.body = es.zipIdx.map fun y =>
                .header y.1.entry y.1.gen ⟨s.rankOf s.cur, s.cur, y.2, if y.1.timed then y.1.vt else 0, s.me.nextSerial⟩))))

/-- What the checks of R80 let pass: at most eight entries, none for a spawned thread, each naming a live event in which
this process has the role and lengths that it gives, no event twice, all of one mode; and timed ones only in a timed
process, with a VT above LVT (R79, R80, R94). -/
def Sys2Proof.Claims.OfferChecks : Prop :=
  ∀ (s : State) (tid : Nat) (form : OfferForm) (a : Word),
    (a.toNat % 32 ≠ 0 → checkOffer s tid form a = .trap 0x02 a) ∧
    (a.toNat % 32 = 0 → 0x20000 ≤ a.toNat → checkOffer s tid form a = .trap 0x03 a) ∧
    (a.toNat % 32 = 0 → a.toNat < 0x20000 → form = .single → (s.ctx tid).spawned = true →
      checkOffer s tid form a = .trap 0x07 a) ∧
    (∀ es, checkOffer s tid form a = .entries es →
      es.length ≤ 8 ∧ (form = .single → es.length = 1) ∧ (form ≠ .timed → es ≠ []) ∧ (s.ctx tid).spawned = false ∧
      (es.map OfferEntry.handle).Nodup ∧ (∀ x ∈ es, ∀ y ∈ es, x.timed = y.timed) ∧
      ∀ x ∈ es,
        let e := s.entry x.home x.entry
        s.liveEntry? tid x.handle.toNat = some (x.home, x.entry, x.gen) ∧
        s.roleIn? tid e = some x.role ∧ roleLengths e.desc x.role = (x.sendLen, x.recvLen) ∧ x.timed = e.desc.timed ∧
        (x.timed = true → form ≠ .timed ∧ s.isTimed tid = true ∧ s.inWrapUp tid = false ∧
          (s.proc (s.ctx tid).proc).lvt < x.vt ∧ x.vt < 2 ^ 64 - 1))

/-- ev.new reads its descriptor, ev.free sends its free, and both take their traps. -/
def Obligations.EventHandles : Prop :=
  Sys2Proof.Claims.EventForms

/-- Offers: their checks, their waits, and the headers that they send. -/
def Obligations.OffersOpen : Prop :=
  Sys2Proof.Claims.OfferForms ∧ Sys2Proof.Claims.OfferChecks


/-! ## Entries of events and their resolution -/

namespace Sys2Proof.Claims

/-- Of the whole device only the network and the arbiter entries of one core may differ, and of these one entry; its other
parts may change only in its router's combining entries and its count of stale packets. -/
structure OnlyEntry (s t : State) (pcn idx : Nat) : Prop where
  device : { t with cores := s.cores, net := s.net } = s
  others : ∀ k, k ≠ pcn → t.core k = s.core k
  core : { t.core pcn with arb := (s.core pcn).arb } = s.core pcn
  entries : ∀ k, k ≠ idx → t.entry pcn k = s.entry pcn k

/-- Of the whole device only the network and one context may differ. -/
structure OnlyCtxNet (s t : State) (tid : Nat) : Prop where
  device : { t with ctxs := s.ctxs, net := s.net } = s
  others : ∀ k, k ≠ tid → t.ctx k = s.ctx k

/-- A packet of a prompt event of a launch. -/
def eventPacket (s : State) (cls : PacketClass) (src tid : Nat) (e : ArbEntry) (body : Body) : Packet :=
  packet cls src (coreOfTid tid) (s.launchColour e.launch) body

/-- A packet to the context of each participant whose rank is listed, in ascending rank. -/
def tell (s : State) (pcn : Nat) (e : ArbEntry) (ranks : List Nat) (body : Nat → Body) : List Packet :=
  (e.desc.parties.filter fun p => ranks.contains p.1).map fun p => eventPacket s .reply pcn p.2.1 e (body p.2.1)

/-- The claim of a resolution to a participant's slot: it names the offer whose header the home holds (R83). -/
def claimOf (s : State) (pcn idx number rank : Nat) (e : ArbEntry) : List Packet :=
  match e.desc.parties.find? fun p => p.1 == rank with
  | some p => [eventPacket s .request pcn p.2.1 e (.claim p.2.1
      ⟨pcn, idx, e.gen, e.loss, number, (((e.headers.find? fun h => h.rank == rank).map Header.serial).getD 0)⟩)]
  | none => []

/-- A packet that carries no thread. -/
def notEmber (p : Packet) : Bool := match p.body with | .ember _ => false | _ => true

end Sys2Proof.Claims

/-- A packet that arrives has left the network's list, the others in their order; a timed one counts as received at its
destination, in its sender's reduction colour, and nothing else changes (R342, R348). -/
def Sys2Proof.Claims.PacketsArrive : Prop :=
  ∀ (s s1 : State) (n : Nat) (p : Packet), Arrives s n p s1 →
    s1.net = s.net.eraseIdx n ∧ { s1 with net := s.net, cores := s.cores } = s ∧
    (p.timed = none → s1.cores = s.cores) ∧
    (∀ l red vt, p.timed = some (l, red, vt) →
      (∀ k, k ≠ p.dst → s1.core k = s.core k) ∧
      { s1.core p.dst with reductions := (s.core p.dst).reductions } = s.core p.dst ∧
      (∀ k, k ≠ l → s1.reduction p.dst k = s.reduction p.dst k) ∧
      s1.reduction p.dst l =
        let r := s.reduction p.dst l
        if red = true then { r with recvRed := r.recvRed + 1 } else { r with recvWhite := r.recvWhite + 1 }) ∧
    (p.cls ≠ .bulk → ∀ m < n, ∀ q, s.net[m]? = some q → q.cls = p.cls → q.src = p.src → q.dst ≠ p.dst)

/-- A home takes a request for an event (R70, R76, R253): a free entry becomes live with the next generation, from 4,095
to 1, and the answer is its handle; without a free entry, or beyond a budget, the answer is 0. The answer ends the wait of
`ev.new` with g[d], or that of `ev.free` (R252, R254). -/
def Sys2Proof.Claims.EventsAreCreated : Prop :=
  ∀ (s s1 : State) (n tid idx key space region : Nat) (any : Bool) (p : Packet) (d : Descriptor) (l : Launch),
    Arrives s n p s1 →
    let home := p.dst
    let answer (v : Nat) : Packet := packet .reply home (coreOfTid tid) p.colour (.evNewAnswer tid (BitVec.ofNat 64 v))
    (p.body = .evNew tid idx any d space key region → s1.launch? key = some l → l.phase ≠ .ended →
      (∀ i, (if any = true then s1.freeEntry? home = some i else i = idx ∧ (s1.entry home idx).state = .free) →
        s1.arbAllows region 1 = true → (d.kind = 4 → s1.heldIn (keyRegion key) = []) →
        let gen := if 4095 ≤ (s1.entry home i).gen then 1 else (s1.entry home i).gen + 1
        Completes (.evNewRequest n) s fun t =>
          t.entry home i = { ArbEntry.free with
            state := .live, gen := gen, space := space, launch := key, desc := d
            nextNumber := (s1.entry home i).nextNumber } ∧
          t.net = s1.net ++ [answer (makeHandle (l.lmap.findIdx (· == home)) i gen)] ∧
          t.launch? key = some { l with events := l.events ++ [(home, i)] } ∧ t.mem = s1.mem ∧ t.ctxs = s1.ctxs ∧
          ∀ k, k ≠ i → t.entry home k = s1.entry home k) ∧
      ((if any = true then s1.freeEntry? home = none else (s1.entry home idx).state ≠ .free) ∨
          s1.arbAllows region 1 = false →
        Completes (.evNewRequest n) s fun t => { t with net := s1.net } = s1 ∧ t.net = s1.net ++ [answer 0])) ∧
    (∀ v, p.body = .evNewAnswer tid v → (s1.ctx tid).wait = .home →
      Completes (.evNewAnswer n) s fun t => OnlyCtxNet s1 t tid ∧ t.net = s1.net ∧
        t.ctx tid = ((s1.ctx tid).setG (s1.ctx tid).dest v).advance)

/-- A free of a stale handle does nothing but answer; that of a live event makes its entry drain: its headers and standing
offers go, the slots of a resolution are released, and an occurrence that has committed completes (R92, R254); faults that wait for its
occurrence become late traps of their threads (R232). A draining
entry with no packet in flight and no occurrence is free again, with its generation (R92). -/
def Sys2Proof.Claims.EventsAreFreed : Prop :=
  ∀ (s s1 : State) (n tid pcn idx gen : Nat) (p : Packet) (h : BitVec 32),
    let e := s1.entry pcn idx
    let answer : Packet := packet .reply p.dst (coreOfTid tid) p.colour (.evNewAnswer tid 0)
    (Arrives s n p s1 → p.body = .evFree tid h →
      (s1.liveEntry? tid h.toNat = none → Completes (.evFreeRequest n) s fun t =>
        { t with net := s1.net } = s1 ∧ t.net = s1.net ++ [answer]) ∧
      (s1.liveEntry? tid h.toNat = some (pcn, idx, gen) →
        (∀ b ∈ bindingsOf s1 (keyRegion e.launch), b.home ≠ pcn ∨ b.entry ≠ idx) →
        Completes (.evFreeRequest n) s fun t =>
          t.entry pcn idx = { e with
            state := .draining, headers := [], shadows := [], standing := []
            resolution := if e.current.isSome then .moving else .idle } ∧
          (∀ k, k ≠ idx → t.entry pcn k = s1.entry pcn k) ∧ t.mem = s1.mem ∧
          t.net.filter notEmber = s1.net.filter notEmber ++ (match e.resolution with
            | .claiming number granted _ _ => tell s1 pcn e granted fun k => .release k pcn idx e.gen number
            | _ => []) ++
            (e.headers.map fun x => eventPacket s1 .reply pcn x.tid e (.headerGone x.tid pcn idx e.gen)) ++ [answer] ∧
          ∀ k, (s1.ctx k).status ≠ .empty → (s1.ctx k).status ≠ .reserved → (s1.proc (s1.ctx k).proc).launch = some e.launch →
            let named (f : JobFault) : Bool := f.handle == BitVec.ofNat 32 (s1.handleOf pcn idx e)
            t.ctx k = { s1.ctx k with
              late := (s1.ctx k).late ++ ((s1.ctx k).faults.filter named).map fun f => ⟨f.cause, f.job, f.order, f.core, f.ckseq⟩
              faults := (s1.ctx k).faults.filter fun f => !named f })) ∧
    (let e := s.entry pcn idx
     e.state = .draining → e.current = none → s.net.any (ofEntry pcn idx e.gen) = false →
      Completes (.entryFreed pcn idx) s fun t =>
        t.entry pcn idx = { ArbEntry.free with gen := e.gen, nextNumber := e.nextNumber } ∧
        (∀ k, k ≠ idx → t.entry pcn k = s.entry pcn k) ∧ t.mem = s.mem ∧ t.ctxs = s.ctxs ∧ t.net = s.net)

/-- A header reaches its home (R83, R255): a stale one is counted and refused; else it takes the place of an older one
of its rank. A prompt header whose withdrawal has overtaken it goes with that. The home of a prompt event begins the
resolution when it then holds a header of every participant, and a standing offer where the kind needs one, and the
bound of R85 lets it: the first claim goes to the lowest rank. A timed event waits for every participant too. When the
home looks is log entry 22, and the bound log entry 66. -/
def Sys2Proof.Claims.HeadersArrive : Prop :=
  ∀ (s s1 : State) (n idx gen : Nat) (p : Packet) (h : Header),
    let home := p.dst
    let e := s1.entry home idx
    let e1 := { e with
      headers := e.headers.filter (fun x => x.rank != h.rank) ++ [h]
      shadows := e.shadows.filter fun x => x.rank != h.rank || decide (x.vt < h.vt) }
    let ranks := e.desc.parties.map Prod.fst
    let kept (e2 : ArbEntry) (ps : List Packet) : Prop := Completes (.offerHeader n) s fun t =>
      OnlyEntry s1 t home idx ∧ t.entry home idx = e2 ∧ t.net = s1.net ++ ps
    Arrives s n p s1 → p.body = .header idx gen h →
    (e.state ≠ .live ∨ e.gen ≠ gen → Completes (.offerHeader n) s fun t =>
      { t with cores := s1.cores, net := s1.net } = s1 ∧ (∀ k, k ≠ home → t.core k = s1.core k) ∧
      t.core home = { s1.core home with
        stalecnt := if (s1.core home).stalecnt < 0xFFFFFFFF then (s1.core home).stalecnt + 1 else (s1.core home).stalecnt } ∧
      t.net = s1.net ++ [packet .reply home (coreOfTid h.tid) p.colour (.headerGone h.tid home idx gen)]) ∧
    (e.state = .live → e.gen = gen → (e.shadows.any fun x => x.rank == h.rank && x.serial == h.serial) = true →
      e.desc.timed = false →
        kept { e with shadows := e.shadows.filter fun x => !(x.rank == h.rank && x.serial == h.serial) } []) ∧
    (e.state = .live → e.gen = gen → (e.shadows.any fun x => x.rank == h.rank && x.serial == h.serial) = false →
      let may := (s1.setEntry home idx e1).keepsBound home idx e1
      (e.desc.timed = false → e.resolution = .idle → allHeaders e1 = true → standingReady e1 = true → may = true →
        kept { e1 with resolution := .claiming e.nextNumber [] ranks false, nextNumber := e.nextNumber + 1 }
          (match ranks with | r :: _ => claimOf s1 home idx e.nextNumber r e1 | [] => [])) ∧
      (e.desc.timed = false → allHeaders e1 = false ∨ standingReady e1 = false ∨ e.resolution ≠ .idle ∨ may = false →
        kept e1 []) ∧
      (e.desc.timed = true → (∃ q ∈ e.desc.parties, ∀ x ∈ e1.headers ++ e1.shadows, x.rank ≠ q.1) → kept e1 []))

/-- A claim reaches a slot (R82): an Open slot whose offer lists the event, by the header that the claim names, is locked and
grants; one that does not list it, a Closed or a committed slot refuses; a Locked slot keeps the claim for later. -/
def Sys2Proof.Claims.ClaimsReachSlots : Prop :=
  ∀ (s s1 : State) (n tid : Nat) (p : Packet) (q : Claim),
    let c := s1.ctx tid
    let o := c.offer
    let lists := o.serial = q.serial ∧ ∃ x ∈ o.entries, x.home = q.home ∧ x.entry = q.entry ∧ x.gen = q.gen ∧ x.gone = false
    let reply (b : Body) : Packet := packet .reply (coreOfTid tid) q.home p.colour b
    Arrives s n p s1 → p.body = .claim tid q →
    (o.state = .opened → lists → Completes (.claim n) s fun t => OnlyCtxNet s1 t tid ∧
      t.ctx tid = { c with offer := { o with state := .locked q.home q.entry q.number } } ∧
      t.net = s1.net ++ [reply (.grant q.entry q.gen tid q.number)]) ∧
    (((o.state = .opened ∨ ∃ a b m, o.state = .locked a b m) ∧ ¬ lists) ∨ o.state = .closed ∨ (∃ i, o.state = .committed i) →
      Completes (.claim n) s fun t => { t with net := s1.net } = s1 ∧
        t.net = s1.net ++ [reply (.refuse q.entry q.gen tid q.number)]) ∧
    (∀ a b m, o.state = .locked a b m → lists → Completes (.claim n) s fun t => OnlyCtxNet s1 t tid ∧
      t.ctx tid = { c with offer := { o with queued := o.queued ++ [q] } } ∧ t.net = s1.net)

/-- An answer reaches the home that claims (R83, R84, R85): a grant leads to the next claim, in ascending rank; the last one
to the commit, of which every slot is told, with the loss count 0 again, or to the release of all when a header has gone since; a
refusal to the abort, which releases every slot held and counts the loss once, and then a prompt event that still has every header
may begin anew. A grant to a resolution that is over is released. -/
def Sys2Proof.Claims.AnswersReachHomes : Prop :=
  ∀ (s s1 : State) (n idx gen tid number rank : Nat) (p : Packet) (done rest : List Nat) (counted : Bool),
    let home := p.dst
    let e := s1.entry home idx
    let loss := if counted = true ∨ e.desc.timed = true then e.loss else min 15 (e.loss + 1)
    let after (e2 : ArbEntry) (ps : List Packet) : Prop := Completes (.claimAnswer n) s fun t =>
      OnlyEntry s1 t home idx ∧ t.entry home idx = e2 ∧ t.net = s1.net ++ ps
    Arrives s n p s1 → e.gen = gen → e.resolution = .claiming number done (rank :: rest) counted →
    (p.body = .grant idx gen tid number →
      (∀ r u, rest = r :: u → e.desc.timed = false →
        after { e with resolution := .claiming number (done ++ [rank]) rest counted } (claimOf s1 home idx number r e)) ∧
      (rest = [] → s1.mayCommit e = true → allHeaders e = true → State.awaited e ≠ 0 →
        let vt := if e.desc.timed = true then occurrenceVt e else 0
        after { e with
          resolution := .moving, loss := 0, headers := [], standing := e.standing.drop 1
          current := some ⟨number, vt, e.loss, e.headers, e.standing.head?, [], [], 0⟩ }
          (tell s1 home e (e.desc.parties.map Prod.fst) fun k => .commit k home idx gen vt number)) ∧
      (rest = [] → s1.mayCommit e = false ∨ allHeaders e = false →
        after { e with resolution := .idle } (tell s1 home e (done ++ [rank]) fun k => .release k home idx gen number))) ∧
    (p.body = .refuse idx gen tid number →
      let idle := { e with resolution := .idle, loss := loss }
      let released := tell s1 home e done fun k => .release k home idx gen number
      let ranks := e.desc.parties.map Prod.fst
      ((e.state ≠ .live ∨ s1.mayCommit e = false ∨ (e.desc.timed = false ∧ (allHeaders e = false ∨ standingReady e = false)) ∨
          (e.desc.timed = true ∧ ∃ q ∈ e.desc.parties, ∀ x ∈ e.headers ++ e.shadows, x.rank ≠ q.1) →
        after idle released) ∧
      (e.state = .live → e.desc.timed = false → allHeaders e = true → standingReady e = true →
        Completes (.claimAnswer n) s fun t => OnlyEntry s1 t home idx ∧
          ((t.entry home idx = idle ∧ t.net = s1.net ++ released) ∨
           (t.entry home idx = { idle with
              resolution := .claiming e.nextNumber [] ranks false, nextNumber := e.nextNumber + 1 } ∧
            t.net = s1.net ++ released ++ (match ranks with | r :: _ => claimOf s1 home idx e.nextNumber r idle | [] => [])))))) ∧
    (∀ m, m ≠ number → p.body = .grant idx gen tid m →
      Completes (.claimAnswer n) s fun t => { t with net := s1.net } = s1 ∧ t.net = s1.net ++
        [packet .reply home (coreOfTid tid) p.colour (.release tid home idx gen m)])

/-- Packets arrive; homes create events, free them and drain their entries. -/
def Obligations.EventsLiveAndEnd : Prop :=
  Sys2Proof.Claims.PacketsArrive ∧ Sys2Proof.Claims.EventsAreCreated ∧ Sys2Proof.Claims.EventsAreFreed

/-- A header at its home: stale, kept, or the start of a resolution. -/
def Obligations.HeadersBeginResolutions : Prop :=
  Sys2Proof.Claims.HeadersArrive

/-- Claims lock slots; grants, refusals, commits and aborts at the home. -/
def Obligations.ClaimsAndAnswers : Prop :=
  Sys2Proof.Claims.ClaimsReachSlots ∧ Sys2Proof.Claims.AnswersReachHomes


/-! ## Slots, withdrawals and occurrences -/

namespace Sys2Proof.Claims

/-- The withdrawals of an offer's headers, all but that of one entry (R82). -/
def withdrawals (s : State) (tid : Nat) (keep : Option Nat) (cause : WithdrawCause) : List Packet :=
  ((s.ctx tid).offer.entries.zipIdx.filter fun x => some x.2 != keep && !x.1.gone).map fun x =>
    packet .reply (coreOfTid tid) x.1.home (s.trafficColour tid)
      (.withdraw x.1.entry x.1.gen (s.rankOf tid) (s.ctx tid).offer.serial (if x.1.timed then x.1.vt else 0) cause)

/-- An offer that has closed with −1 (R86): g[d] holds −1 and the thread goes on after its offer. -/
def returned (c : Ctx) : Ctx :=
  { ((c.setG c.offer.dest (BitVec.allOnes 64)).advance) with offer := OfferSlot.none }

/-- The participants that a home sends a result to, each with the bytes (R88, R90, R91). -/
def receivers (e : ArbEntry) (o : Occurrence) (combined : List Byte) : List (Nat × Nat × List Byte) :=
  e.desc.parties.filterMap fun q =>
    if (roleLengths e.desc q.2.2).2 = 0 then none
    else if e.desc.kind = 0 then (o.contributions.head?).map fun x => (q.2.1, q.1, x.2)
    else if e.desc.kind = 2 then some (q.2.1, q.1, combined)
    else if e.desc.kind = 3 ∨ e.desc.kind = 4 then o.standing.map fun x => (q.2.1, q.1, x.payload)
    else none

/-- A router's entry for an event awaits an occurrence's contribution at an input, which has not come there yet (R346). -/
def awaitsAt (s : State) (home idx gen number : Nat) (h : Nat × Nat) : Bool :=
  match (s.core h.1).combining.find? fun c => c.home == home && c.entry == idx && c.gen == gen with
  | some k => (k.up number).awaited.contains h.2 && !(k.up number).received.contains h.2
  | none => false

end Sys2Proof.Claims

/-- A commit reaches a locked slot (R82, R94): the slot closes on its event, the headers of its other entries are withdrawn,
the claims that it keeps are refused, and a contributor's source bytes go to the home. A timed process takes a checkpoint
and the occurrence's VT as its LVT; it waits for a free checkpoint (R96, R98). -/
def Sys2Proof.Claims.CommitsReachSlots : Prop :=
  ∀ (s s1 : State) (n tid home idx gen vt number i : Nat) (p : Packet) (x : OfferEntry),
    let c := s1.ctx tid
    let e := s1.entry home idx
    let refusals := c.offer.queued.map fun q => packet .reply (coreOfTid tid) q.home p.colour (.refuse q.entry q.gen tid q.number)
    let data (m : Mem) : Body := .contribution idx gen number [(s1.rankOf tid, memBytes m (localKey (coreOfTid tid) x.sendSrc) x.sendLen)]
    let closed : Ctx := { c with offer := { c.offer with state := .committed i, queued := [] } }
    Arrives s n p s1 → p.body = .commit tid home idx gen vt number → c.offer.state = .locked home idx number →
    c.offer.entries[i]? = some x → x.home = home → x.entry = idx → x.gen = gen → x.gone = false →
    (∀ y ∈ c.offer.entries.take i, ¬ (y.home = home ∧ y.entry = idx ∧ y.gen = gen ∧ y.gone = false)) →
    (x.timed = false → Completes (.commitNotice n) s fun t => OnlyCtxNet s1 t tid ∧ t.ctx tid = closed ∧
      t.net = s1.net ++ withdrawals s1 tid (some i) .commit ++ refusals ++
        if contributes e.desc x.role = true then [packet .payload (coreOfTid tid) home (s1.launchColour e.launch) (data s1.mem)] else []) ∧
    (x.timed = true → State.checkpointFree s1 tid = true → Completes (.commitNotice n) s fun t =>
      t.ctx tid = { closed with ckpos := setField c.ckpos 16 12 (ckLive c + 1), ckseq := c.ckseq + 1 } ∧
      (t.proc c.proc).lvt = vt ∧ (∀ k, k ≠ tid → t.ctx k = s1.ctx k) ∧
      t.mem = memWrite (ckEntryKey tid c (ckHead c + ckLive c))
        (checkpointBytes (s1.setCtx tid closed) tid vt x.handle.toNat i) s1.mem ∧
      (t.net.drop s1.net.length).map Packet.body =
        (withdrawals s1 tid (some i) .commit ++ refusals).map Packet.body ++
          if contributes e.desc x.role = true then [data s1.mem] else []) ∧
    (x.timed = true → State.checkpointFree s1 tid = false → Completes (.commitNotice n) s fun t => t = s)

/-- A release reaches the slot that is locked for it (R82, R85): of the claims that it keeps for events still listed, the one
with the highest loss count is granted, the first of equals, and without one the slot is Open again; those whose event is no longer
listed are refused. A deadline that comes
closes an Open slot: g[d] takes −1, the program goes on and every header is withdrawn; a Locked slot waits for its event
(R86). -/
def Sys2Proof.Claims.SlotsAreReleased : Prop :=
  ∀ (s s1 : State) (n tid home idx gen number : Nat) (p : Packet),
    (Arrives s n p s1 → p.body = .release tid home idx gen number →
      let c := s1.ctx tid
      let o := c.offer
      let listed (q : Claim) : Bool := o.entries.any fun x => x.home == q.home && x.entry == q.entry && x.gen == q.gen && !x.gone
      let live := o.queued.filter listed
      let refusals := (o.queued.filter fun q => !listed q).map fun q =>
        packet .reply (coreOfTid tid) q.home p.colour (.refuse q.entry q.gen tid q.number)
      o.state = .locked home idx number →
      (∀ before q after, live = before ++ q :: after → (∀ r ∈ before, r.loss < q.loss) → (∀ r ∈ after, r.loss ≤ q.loss) →
        Completes (.slotRelease n) s fun t => OnlyCtxNet s1 t tid ∧
          t.ctx tid = { c with offer := { o with
            state := .locked q.home q.entry q.number, queued := live.filter (· != q) } } ∧
          t.net = s1.net ++ refusals ++ [packet .reply (coreOfTid tid) q.home p.colour (.grant q.entry q.gen tid q.number)]) ∧
      (live = [] → o.timedOut = false → (∃ x ∈ o.entries, x.gone = false) →
        Completes (.slotRelease n) s fun t => OnlyCtxNet s1 t tid ∧ t.net = s1.net ++ refusals ∧
          t.ctx tid = { c with offer := { o with state := .opened, queued := [] } })) ∧
    (let c := s.ctx tid
     ∀ d, c.offer.deadline = some d → d ≤ s.now → c.parked = false →
      (c.offer.state = .opened → Completes (.offerTimeout tid) s fun t => OnlyCtxNet s t tid ∧
        t.ctx tid = returned c ∧ t.net = s.net ++ withdrawals s tid none .timeout) ∧
      (∀ a b m, c.offer.state = .locked a b m → Completes (.offerTimeout tid) s fun t => OnlyCtxNet s t tid ∧ t.net = s.net ∧
        t.ctx tid = { c with offer := { c.offer with timedOut := true } }))

/-- A withdrawal reaches the home (R82, R85): the rank's header goes, or stays remembered when it has not come yet, and the loss of an event that is being claimed is counted
once, where another event's commit withdrew a header while the home held every one. A slot whose event is gone goes on with
its other entries, and traps with the handle of its last entry when none is left (R92, R255). -/
def Sys2Proof.Claims.HeadersWithdrawn : Prop :=
  ∀ (s s1 : State) (n idx gen rank serial vt tid home : Nat) (p : Packet) (cause : WithdrawCause),
    Arrives s n p s1 →
    (p.body = .withdraw idx gen rank serial vt cause →
      let e := s1.entry p.dst idx
      let same (h : Header) : Bool := h.rank == rank && h.serial == serial
      let headers := e.headers.filter fun h => !same h
      let shadows := e.shadows ++ if e.headers.any same = true then [] else
        ((e.desc.parties.find? fun q => q.1 == rank).map fun q => (⟨rank, q.2.1, 0, vt, serial⟩ : Header)).toList
      e.gen = gen → e.state ≠ .free → e.desc.timed = false →
      (∀ number done rest counted, e.resolution = .claiming number done rest counted →
        let losing : Bool := decide (cause = .commit) && allHeaders e && !counted
        Completes (.headerWithdrawal n) s fun t => OnlyEntry s1 t p.dst idx ∧ t.net = s1.net ∧
          t.entry p.dst idx = { e with
            headers := headers, shadows := shadows, resolution := .claiming number done rest (counted || losing)
            loss := if losing = true then min 15 (e.loss + 1) else e.loss }) ∧
      (e.resolution = .idle → allHeaders { e with headers := headers } = false →
        Completes (.headerWithdrawal n) s fun t => OnlyEntry s1 t p.dst idx ∧ t.net = s1.net ∧
          t.entry p.dst idx = { e with headers := headers, shadows := shadows })) ∧
    (p.body = .headerGone tid home idx gen →
      let c := s1.ctx tid
      let entries := c.offer.entries.map fun x =>
        if x.home = home ∧ x.entry = idx ∧ x.gen = gen then { x with gone := true } else x
      ((∃ x ∈ entries, x.gone = false) → c.offer.timedOut = false →
        Completes (.headerWithdrawal n) s fun t => OnlyCtxNet s1 t tid ∧ t.net = s1.net ∧
          t.ctx tid = { c with offer := { c.offer with entries := entries } }) ∧
      (∀ x, c.offer.state = .opened → (∀ y ∈ entries, y.gone = true) → entries.getLast? = some x →
        CanTrap c → Completes (.headerWithdrawal n) s fun t => (t.ctx tid).xcause = 0x09 ∧
          (t.ctx tid).xaddr = x.handle.setWidth 64 ∧ (t.ctx tid).pc = c.xvec &&& 0x1FFFC ∧
          (t.ctx tid).xpc = c.start &&& ~~~(3 : Word) ∧ (t.ctx tid).offer = OfferSlot.none))

/-- Contributions meet in the first router of their route whose entry awaits them there, which sends what it has on as
one once each awaited input has come, and else at the home (R345, R346). The home sends the results once it has them
all: the sender's bytes, the combination, or the standing offer's payload, to each receiver (R75, R88, R90, R91). The
routes are log entry 61; where an absorbed contribution's receipt counts, log entry 67. -/
def Sys2Proof.Claims.ContributionsCombine : Prop :=
  ∀ (s s1 : State) (n idx gen number : Nat) (p : Packet) (data : List (Nat × List Byte)) (o : Occurrence),
    let home := p.dst
    let e := s1.entry home idx
    let o1 := { o with contributions := o.contributions ++ data }
    let combined := if e.desc.kind = 2 then combineAll e.desc (o1.contributions.map Prod.snd) else ([], 0)
    let out := receivers e o1 combined.1
    Arrives s n p s1 → p.body = .contribution idx gen number data → e.current = some o → e.gen = gen → o.number = number →
    ((∀ h ∈ State.routePorts p.src home, awaitsAt s home idx gen number h = false) →
      (o1.contributions.length ≠ State.awaited e → Completes (.combineContribution n home) s fun t =>
        t.entry home idx = { e with current := some o1 } ∧ t.net = s1.net ∧ t.mem = s1.mem ∧ t.ctxs = s1.ctxs) ∧
      (o1.contributions.length = State.awaited e → Completes (.combineContribution n home) s fun t =>
        t.entry home idx = { e with current := some { o1 with
          writes := out.map fun x => (x.1, x.2.1, 0, x.2.2), flags := combined.2 } } ∧ t.mem = s1.mem ∧ t.ctxs = s1.ctxs ∧
        t.net = s1.net ++ out.map fun x => eventPacket s1 .payload home x.1 e (.payload x.1 home idx gen number))) ∧
    (∀ (router input : Nat) (k : Combining) (before after : List (Nat × Nat)),
      State.routePorts p.src home = before ++ (router, input) :: after →
      (∀ h ∈ before, awaitsAt s home idx gen number h = false) → awaitsAt s home idx gen number (router, input) = true →
      (s.core router).combining.find? (fun c => c.home == home && c.entry == idx && c.gen == gen) = some k →
      let got := (k.up number).data ++ data
      let whole := ∀ x ∈ (k.up number).awaited, x = input ∨ x ∈ (k.up number).received
      (¬ whole → Completes (.combineContribution n router) s fun t => t.mem = s.mem ∧ t.ctxs = s.ctxs ∧
        t.net = s.net.eraseIdx n ∧ t.entry home idx = e ∧ ∃ k',
          (t.core router).combining.find? (fun c => c.home == home && c.entry == idx && c.gen == gen) = some k' ∧
          k'.up number = { k.up number with received := (k.up number).received ++ [input], data := got }) ∧
      (whole → router ≠ home → Completes (.combineContribution n router) s fun t => t.mem = s.mem ∧ t.ctxs = s.ctxs ∧
        t.net = s.net.eraseIdx n ++ [{ p with src := router, body := .contribution idx gen number got }] ∧
        t.entry home idx = e) ∧
      (whole → router = home → o.contributions.length + got.length ≠ State.awaited e →
        Completes (.combineContribution n router) s fun t => t.mem = s.mem ∧ t.ctxs = s.ctxs ∧ t.net = s.net.eraseIdx n ∧
          t.entry home idx = { e with current := some { o with contributions := o.contributions ++ got } }))

/-- Payload arrives line by line (R89): the next bytes, up to the end of a line, are written at the receiver, and with
the last the packet is gone, and the result's flags are raised; a timed receiver journals the line first, and waits for
a free entry (R97, R98). STREAM_CIRCUIT holds a circuit for a hinted channel's payload, and changes no result (R347).
The order of a receiver's lines is log entry 70, when a journal is full log entry 64; circuits without flits are log
entry 61. -/
def Sys2Proof.Claims.PayloadArrives : Prop :=
  ∀ (s s' : State) (n tid home idx gen number rank off i : Nat) (p : Packet) (o : Occurrence) (x : OfferEntry) (bs : List Byte),
    let e := s.entry home idx
    let c := s.ctx tid
    let dst := x.recvDst + off
    let k := min bs.length (16 - dst % 16)
    s.net[n]? = some p → s.mayArrive n p = true →
    (p.body = .payload tid home idx gen number → e.current = some o → o.number = number →
      o.writes.find? (fun w => w.1 == tid) = some (tid, rank, off, bs) → c.offer.state = .committed i →
      c.offer.entries[i]? = some x →
      (s.isTimed tid = true → s.journal tid (dst / 16 * 16) = none → Completes (.payloadArrival n) s fun t => t = s) ∧
      ((if s.isTimed tid = true then s.journal tid (dst / 16 * 16) else some s) = some s' →
        Completes (.payloadArrival n) s fun t =>
        t.mem = (s'.writeWindow (localKey (coreOfTid tid) dst) (bs.take k)).mem ∧ (∀ j, j ≠ tid → t.ctx j = s.ctx j) ∧
        (k < bs.length → t.ctx tid = s'.ctx tid ∧ t.net = s.net ∧ ∃ o', (t.entry home idx).current = some o' ∧
          o'.writes.find? (fun w => w.1 == tid) = some (tid, rank, off + k, bs.drop k)) ∧
        (k = bs.length → t.ctx tid = (s'.ctx tid).raise o.flags ∧ t.net = listDrop n s.net ∧
          ∃ o', (t.entry home idx).current = some o' ∧ o'.writes.find? (fun w => w.1 == tid) = none))) ∧
    (∀ data q, p.body = .contribution idx gen number data → (s.entry p.dst idx).desc.kind = 0 →
      1024 ≤ (s.entry p.dst idx).desc.size → q ∈ (s.entry p.dst idx).desc.parties → (∃ d ∈ data, d.1 = q.1) →
      (∃ y ∈ (s.ctx q.2.1).offer.entries, y.home = p.dst ∧ y.entry = idx ∧ y.stream = true) → s.circuits = [] →
      Completes (.streamCircuit n) s fun t => t = { s with circuits := [(p.src, p.dst)] })

/-- An event occurs once every payload write has been performed and each participant has closed its slot on it with no access
outstanding (R58, R89): each goes on after its offer, with the index of the entry in g[d] and the faults that the occurrence
carries as late traps (R232), and the entry is free for the next resolution. -/
def Sys2Proof.Claims.EventsOccur : Prop :=
  ∀ (s : State) (pcn idx tid i : Nat) (o : Occurrence),
    let e := s.entry pcn idx
    let c := s.ctx tid
    let carried (f : JobFault) : Bool := f.due || match o.standing.bind Standing.source with
      | some x => x.batch == f.batch
      | none => false
    e.current = some o → o.writes = [] → State.awaited e ≤ o.contributions.length →
    s.participantsReady pcn idx e = true → (e.desc.parties.map fun p => p.2.1).Nodup →
    Completes (.eventOccur pcn idx) s fun t =>
      ((∃ p ∈ e.desc.parties, p.2.1 = tid) → c.offer.state = .committed i →
        t.ctx tid = { ((c.setG c.offer.dest (BitVec.ofNat 64 i)).advance) with
          offer := OfferSlot.none, faults := c.faults.filter fun f => !carried f
          late := c.late ++ (c.faults.filter carried).map fun f => ⟨f.cause, f.job, f.order, f.core, f.ckseq⟩ }) ∧
      ((∀ p ∈ e.desc.parties, p.2.1 ≠ tid) → t.ctx tid = c) ∧ t.mem = s.mem ∧
      (t.entry pcn idx).current = none ∧
      (t.entry pcn idx).past = (if e.desc.timed = true then e.past ++ [o] else [])

/-- Commits close slots, releases pass them on, timeouts and withdrawals end offers. -/
def Obligations.SlotsClose : Prop :=
  Sys2Proof.Claims.CommitsReachSlots ∧ Sys2Proof.Claims.SlotsAreReleased ∧ Sys2Proof.Claims.HeadersWithdrawn

/-- Contributions combine, and payload is written line by line at the receivers. -/
def Obligations.PayloadMoves : Prop :=
  Sys2Proof.Claims.ContributionsCombine ∧ Sys2Proof.Claims.PayloadArrives

/-- An event occurs, and its participants go on with the index of their entry. -/
def Obligations.OccurrencesEnd : Prop :=
  Sys2Proof.Claims.EventsOccur


/-! ## Virtual time, threads and messages -/

namespace Sys2Proof.Claims

/-- The context that issues waits to settle and has asked for a reduction (R105, R350). -/
structure AsksToSettle (s t : State) (i : Instr) : Prop where
  me : t.me = { s.me with held := some i, wait := .settle, status := .waiting }
  others : ∀ k, k ≠ s.cur → t.ctx k = s.ctx k
  device : { t with ctxs := s.ctxs, launches := s.launches } = s
  asked : ∀ l r, s.launchOf s.cur = some l → s.launch? l = some r → t.launch? l = some { r with requested := true }

/-- The context that issues stands at its stop point (R108 step 3). -/
def StopsHere (s t : State) : Prop :=
  OnlyMe s t ∧ t.me = { s.me with wrapStop := true, status := .waiting, wait := .none, held := none }

/-- The thread that issues has ended (R263): its slot, and the reserved one of a thread that is away, are empty, and their
vector registers zero; a spawned thread leaves its process one thread less, and a process has ended. -/
structure ThreadEnds (s t : State) : Prop where
  slot : t.me = Ctx.zero
  home : s.me.away = true → t.ctx s.me.home = Ctx.zero
  others : ∀ k, k ≠ s.cur → (s.me.away = true → k ≠ s.me.home) → t.ctx k = s.ctx k
  counted : s.me.proc ≠ State.bareKey s.cur → s.me.proc ≠ State.bareKey s.me.home →
    t.proc s.me.proc = if s.me.spawned = true then { s.proc s.me.proc with live := (s.proc s.me.proc).live - 1 }
      else { s.proc s.me.proc with ended := true }
  bytes : ∀ a, (∀ tid ∈ [s.cur, s.me.home], a < vecKey (tid / 16) (tid % 16 * 512) ∨ vecKey (tid / 16) (tid % 16 * 512) + 512 ≤ a) →
    memGet a t.mem = memGet a s.mem

/-- The course of `halt` (R263): the buffer drains, a timed process settles, or stands at its stop point once its launch
stops, and the thread ends. -/
def Halts (i : Instr) (s : State) : Prop :=
  (State.bufferEmpty s.me = false → WaitsFor i s .drain) ∧
  (State.bufferEmpty s.me = true → s.atStopPoint s.cur = true → Completes i s (StopsHere s)) ∧
  (State.bufferEmpty s.me = true → s.atStopPoint s.cur = false → s.unsettled s.cur = true →
    Completes i s fun t => AsksToSettle s t i) ∧
  (State.bufferEmpty s.me = true → s.atStopPoint s.cur = false → s.unsettled s.cur = false →
    Completes i s (ThreadEnds s))

end Sys2Proof.Claims

/-- Virtual time (R258, R259, R260, R261, R262, R105): `vt.set` raises LVT and never lowers it, and traps on 2^64 − 1;
`vt.get` and `gvt` read LVT and the GVT that the core knows; `settle` asks for a reduction when it issues and waits while LVT is above GVT; `wrap` settles and
begins wrap-up, once; `wrap.done` adds to the validity mask in wrap-up and ends the thread, and is `halt` outside. -/
def Sys2Proof.Claims.VirtualTimeForms : Prop :=
  ∀ (s : State) (d a : GReg),
    let v := (s.g a).toNat
    let p := s.proc s.me.proc
    let waits (i : Instr) : Prop :=
      (s.unsettled s.cur = true → s.atStopPoint s.cur = true → Completes i s (StopsHere s)) ∧
      (s.unsettled s.cur = true → s.atStopPoint s.cur = false → Completes i s fun t => AsksToSettle s t i)
    (s.unsettled s.cur = true ↔ s.isTimed s.cur = true ∧ s.me.spawned = false ∧ s.gvtOf s.cur < p.lvt) ∧
    (v ≠ 2 ^ 64 - 1 → Completes (.vtSet a) s fun t =>
      t.proc s.me.proc = { p with lvt := max p.lvt v } ∧ (∀ k, k ≠ s.me.proc → t.proc k = s.proc k) ∧
      { t with ctxs := s.ctxs, procs := s.procs } = s ∧ t.me = s.me.advance ∧ ∀ k, k ≠ s.cur → t.ctx k = s.ctx k) ∧
    (v = 2 ^ 64 - 1 → CanTrap s.me → TakesTrap (.vtSet a) s 0x06 s.me.start 0) ∧
    SetsG (.vtGet d) s d (BitVec.ofNat 64 p.lvt) ∧
    (s.isTimed s.cur = false → SetsG (.gvt d) s d 0) ∧
    (∀ l, s.isTimed s.cur = true → s.launchOf s.cur = some l →
      SetsG (.gvt d) s d (BitVec.ofNat 64 (s.reduction s.here l).gvt)) ∧
    (s.unsettled s.cur = false → s.isTimed s.cur = false ∨ s.me.held = some .settle → GoesTo .settle s (s.me.pc + 4)) ∧
    (s.unsettled s.cur = false → s.isTimed s.cur = true → s.me.held ≠ some .settle → Completes .settle s fun t =>
      t.me = s.me.advance ∧ (∀ k, k ≠ s.cur → t.ctx k = s.ctx k) ∧
      { t with ctxs := s.ctxs, launches := s.launches } = s ∧
      ∀ l r, s.launchOf s.cur = some l → s.launch? l = some r → t.launch? l = some { r with requested := true }) ∧
    (s.me.held ≠ some .settle → waits .settle) ∧
    (s.unsettled s.cur = true → s.atStopPoint s.cur = false → s.me.held = some .settle → WaitsFor .settle s .settle) ∧
    (s.launchOf s.cur = none → GoesTo .wrap s (s.me.pc + 4)) ∧
    (∀ key l, s.launchOf s.cur = some key → s.launch? key = some l →
      waits .wrap ∧
      (s.unsettled s.cur = false → l.phase ≠ .running → GoesTo .wrap s (s.me.pc + 4)) ∧
      (s.unsettled s.cur = false → l.phase = .running → Completes .wrap s fun t => ∃ r, t.launch? key = some r ∧
        r.phase = (if l.spec.timed = true then .stopping else .wrapped) ∧ r.wrapTime = s.now)) ∧
    (s.inWrapUp s.cur = false ∨ s.atStopPoint s.cur = true → Halts (.wrapDone a) s) ∧
    (∀ key l, s.launchOf s.cur = some key → s.launch? key = some l → s.inWrapUp s.cur = true →
      s.atStopPoint s.cur = false →
      (State.bufferEmpty s.me = false → WaitsFor (.wrapDone a) s .drain) ∧
      (State.bufferEmpty s.me = true → Completes (.wrapDone a) s fun t => ThreadEnds s t ∧
        t.launch? key = some { l with mask := l.mask ||| s.g a }))

/-- Threads (R264, R265, R267, R263, R38, R40, R44, R281): `spawn` starts a thread in the lowest free slot and returns its
context, or 0 where the limit, the slots or wrap-up forbid it; the head of the arrival queue takes its slot first. `mig` sends the thread as an ember with g1 to g8, g16 or
g24 and waits, and does nothing for its own core; `yield` lends fifteen cycles; `halt` ends the thread. -/
def Sys2Proof.Claims.ThreadForms : Prop :=
  ∀ (s : State) (d a b : GReg) (size : MigSize),
    let A := s.g a
    let p := s.proc s.me.proc
    let drained := State.bufferEmpty s.me = true
    let migs := match size with | .g8 => 8 | .g16 => 16 | .g24 => 24
    (¬ drained → WaitsFor (.spawn d a b) s .drain ∧ WaitsFor (.mig a size) s .drain) ∧
    (CanTrap s.me → drained →
      (A.toNat % 4 ≠ 0 → TakesTrap (.spawn d a b) s 0x02 s.me.start A) ∧
      (A.toNat % 4 = 0 → s.isTimed s.cur = true → TakesTrap (.spawn d a b) s 0x06 s.me.start 0) ∧
      (∀ c, s.checkWindow A = some c → TakesTrap (.mig a size) s c s.me.start A) ∧
      (s.checkWindow A = none → s.isTimed s.cur = true → TakesTrap (.mig a size) s 0x06 s.me.start A)) ∧
    (drained → A.toNat % 4 = 0 → s.isTimed s.cur = false →
      (s.inWrapUp s.cur = true ∨ p.spawnLimit ≤ p.live → SetsG (.spawn d a b) s d 0) ∧
      (∀ s1, s1 = s.admitEmber s.here →
        ((s.core s.here).embers = [] → (s.core s.here).spill = [] → (s.core s.here).waiting = [] → s1 = s) ∧
        (s.inWrapUp s.cur = false → p.live < p.spawnLimit → s1.me = s.me → s1.proc s.me.proc = p →
          (s1.freeSlotOf? s.here = none → Completes (.spawn d a b) s fun t => WritesG s1 t d 0 (s.me.pc + 4)) ∧
          (∀ k, s1.freeSlotOf? s.here = some k → s.here * 16 + k ≠ s.cur → s.me.proc ≠ State.bareKey (s.here * 16 + k) →
            Completes (.spawn d a b) s fun t =>
              t.ctx (s.here * 16 + k) = { Ctx.empty with
                status := .ready, proc := s.me.proc, spawned := true, home := s.here * 16 + k, pc := A, pw := 1
                regs := (Vector.replicate 32 (0 : Word)).set 3 (s.g b)
                rmode := s.me.rmode, fflags := s.me.fflags, srng := s.me.srng, xvec := s.me.xvec
                xstat := if s1.bootMode || s1.isSystem s.here then 1 else 0, lastIssue := some (s1.core s.here).cyc } ∧
              t.me = (s.me.setG d (BitVec.ofNat 64 (s.here * 16 + k))).advance ∧
              t.proc s.me.proc = { p with live := p.live + 1 } ∧
              ∀ j, j ≠ s.cur → j ≠ s.here * 16 + k → t.ctx j = s1.ctx j)))) ∧
    (drained → s.checkWindow A = none → s.isTimed s.cur = false →
      let dst := ((decodeAddr A).owner? s.here).getD s.here
      (dst = s.here ∨ s.inWrapUp s.cur = true → GoesTo (.mig a size) s (s.me.pc + 4)) ∧
      (dst ≠ s.here → s.inWrapUp s.cur = false → Completes (.mig a size) s fun t => OnlyMeNet s t ∧
        t.me = { s.me with wait := .mig, status := .waiting, held := none } ∧
        ∃ e : Ember, t.net = s.net ++ [packet .request s.here dst (s.trafficColour s.cur) (.ember e)] ∧
          e.pc = s.me.pc + 4 ∧ e.pw = s.me.pw ∧ e.home = s.me.home ∧ e.source = s.cur ∧ e.size = size ∧
          e.proc = s.me.proc ∧ e.xvec = s.me.xvec ∧ e.late = s.me.late ∧ e.msgFaults = s.me.msgFaults ∧
          e.regs = (List.range migs).map fun k => s.g (Fin.ofNat 32 (k + 1)))) ∧
    Completes .yield s (fun t => OnlyMe s t ∧
      t.me = { s.me.advance with wait := .yield, notBefore := (s.core s.here).cyc + 16 }) ∧
    Halts .halt s

/-- `msg` (R266, R47, R169, R146): it checks its target, its block's place, its words up to the first `reply` and the
process's mode, in this order, and sends the message; an ordinary one waits for its end, and a relaxed one takes a place
in the relaxed buffer, which must have one. -/
def Sys2Proof.Claims.MessageForm : Prop :=
  ∀ (s : State) (d a b : GReg),
    let i : Instr := .msg d a b
    let A := s.g a
    let B := s.g b
    let rlx := s.me.pfx.rlx
    let words := s.messageWords s.here B.toNat
    let wordsOk := (checkedWords words).all inCarrierSubset = true
    (rlx = false → State.bufferEmpty s.me = false → WaitsFor i s .drain) ∧
    (rlx = true ∨ State.bufferEmpty s.me = true →
      (CanTrap s.me →
        (∀ c, s.checkWindow A = some c → TakesTrap i s c s.me.start A) ∧
        (s.checkWindow A = none → B.toNat % 16 ≠ 0 → TakesTrap i s 0x02 s.me.start B) ∧
        (s.checkWindow A = none → B.toNat % 16 = 0 → 0x20000 < B.toNat + 32 → TakesTrap i s 0x03 s.me.start B) ∧
        (s.checkWindow A = none → B.toNat % 16 = 0 → B.toNat + 32 ≤ 0x20000 → ¬ wordsOk → TakesTrap i s 0x01 s.me.start 0) ∧
        (s.checkWindow A = none → B.toNat % 16 = 0 → B.toNat + 32 ≤ 0x20000 → wordsOk → s.isTimed s.cur = true →
          TakesTrap i s 0x06 s.me.start A)) ∧
      (s.checkWindow A = none → B.toNat % 16 = 0 → B.toNat + 32 ≤ 0x20000 → wordsOk → s.isTimed s.cur = false →
        (rlx = true → 8 ≤ s.me.relaxed.length + s.me.relaxedMsgs.length → WaitsFor i s .room) ∧
        (s.me.hasRoom rlx → Completes i s fun t => OnlyMeNet s t ∧
          t.me = (if rlx = true then
              { s.me.advance with
                relaxedMsgs := s.me.relaxedMsgs ++ [(s.me.nextSerial, A)], nextSerial := s.me.nextSerial + 1 }
            else { s.me with
              wait := .msg, status := .waiting, held := none, dest := d, target := A, nextSerial := s.me.nextSerial + 1 }) ∧
          t.net = s.net ++ [packet .request s.here (((decodeAddr A).owner? s.here).getD s.here) (s.trafficColour s.cur)
            (.message ⟨words, BitVec.ofNat 64 (memNat s.mem (localKey s.here (B.toNat + 16)) 8),
              BitVec.ofNat 64 (memNat s.mem (localKey s.here (B.toNat + 24)) 8), BitVec.ofNat 64 (windowOffset A), s.cur,
              s.me.nextSerial, rlx⟩)])))

/-! ## Clocks, traps and control registers -/

/-- Clocks and system forms (R269, R272, R268, R266, R146): `now` and `cyc` read the clocks; `brk` traps at itself and
`trap` past itself, with their code in XADDR; `rsync` waits for an empty relaxed buffer and reports the first relaxed
message that ended in a fault; `reply` is illegal in a thread; the prefix words take their places before an instruction.
That the other faults of relaxed messages are dropped is log entry 25. -/
def Sys2Proof.Claims.SystemForms : Prop :=
  ∀ (s : State) (d : GReg) (c : BitVec 6) (h : BitVec 24),
    let me := s.me
    SetsG (.now d) s d (BitVec.ofNat 64 s.now) ∧
    SetsG (.cyc d) s d (BitVec.ofNat 64 (s.core s.here).cyc) ∧
    (CanTrap me → TakesTrap (.brk c) s 0x0E me.start (c.setWidth 64) ∧
      TakesTrap (.trap c) s 0x0D (me.pc + 4) (c.setWidth 64) ∧ TakesTrap (.reply d) s 0x01 me.start 0) ∧
    (State.bufferEmpty me = false → WaitsFor .rsync s .drain) ∧
    (State.bufferEmpty me = true → me.msgFaults = [] → GoesTo .rsync s (me.pc + 4)) ∧
    (∀ before f after, me.msgFaults = before ++ f :: after → (∀ x ∈ before, f.1 < x.1) → (∀ x ∈ after, f.1 ≤ x.1) →
      CanTrap me → Completes .rsync s fun t =>
        EntersHandler (s.modMe fun c => { c with msgFaults := [] }) t 0x0C (me.pc + 4) f.2) ∧
    (me.pfx.first = none → Completes .rlx s fun t =>
      OnlyMe s t ∧ t.me = { me with pfx := ⟨some me.pc, true, none⟩, pc := me.pc + 4 }) ∧
    (me.pfx.ext = none → Completes (.ext h) s fun t =>
      OnlyMe s t ∧ t.me = { me with pfx := ⟨some me.start, me.pfx.rlx, some h⟩, pc := me.pc + 4 }) ∧
    (CanTrap me → (me.pfx.first ≠ none → TakesTrap .rlx s 0x01 me.start 0) ∧
      (me.pfx.ext ≠ none → TakesTrap (.ext h) s 0x01 me.start 0))

/-- Taking a trap (R288, R291): it waits for the relaxed buffer to drain, with the context standing at its instruction;
outside a handler, and with one, the handler is entered with XPC, XCAUSE, XADDR, XRING and XSTAT as R284 gives; a thread
away from home goes home first; else the context stops with its registers kept, and its launch is terminated with the
cause, which is double-trap in handler mode. XADDR of a fatal stop is log entry 30. -/
def Obligations.TakingATrap : Prop :=
  ∀ (s : State) (tid : Nat) (tr : TrapRec),
    let c := s.ctx tid
    let t := s.takeTrapAt tid tr
    (State.bufferEmpty c = false → (∀ k, k ≠ tid → t.ctx k = s.ctx k) ∧ { t with ctxs := s.ctxs } = s ∧ t.ctx tid = { c with
      trapping := some tr, wait := .drain, status := .waiting, held := none, pfx := .none, pc := c.start }) ∧
    (CanTrap c → (∀ k, k ≠ tid → t.ctx k = s.ctx k) ∧ { t with ctxs := s.ctxs } = s ∧
      ∃ x, t.ctx tid = { c with
        pc := c.xvec &&& 0x1FFFC, pfx := .none, held := none, wait := .none, status := .ready, trapping := none
        xpc := tr.xpc &&& ~~~(3 : Word), xcause := BitVec.ofNat 64 (tr.cause + if tr.late = true then 256 else 0)
        xaddr := tr.xaddr, xring := tr.xring.setWidth 64, xstat := x } ∧
        x.getLsbD 0 = c.xstat.getLsbD 0 ∧ x.getLsbD 1 = true ∧ x.getLsbD 2 = c.xstat.getLsbD 0 ∧ x >>> 3 = c.xstat >>> 3) ∧
    (State.bufferEmpty c = true → c.xstat.getLsbD 1 = false → c.xvec &&& 0x1FFFC ≠ 0 → c.away = true →
      t.ctx tid = Ctx.zero ∧ t.net = s.net ++ [packet .request (coreOfTid tid) (coreOfTid c.home) (s.trafficColour tid)
        (.ember (s.emberOf tid c.migSize (some tr) none))]) ∧
    (∀ key l, State.bufferEmpty c = true → c.xstat.getLsbD 1 = true ∨ c.xvec &&& 0x1FFFC = 0 →
      s.launchOf tid = some key → s.launch? key = some l → l.phase ≠ .ended →
      t.launch? key = some { l with
        phase := .ended, stopStatus := 3, stopPcn := coreOfTid tid
        stopCause := if c.xstat.getLsbD 1 = true then 0x18 else tr.cause } ∧
      (t.ctx tid).status = .stopped ∧ (t.ctx tid).regs = c.regs ∧ (t.ctx tid).pc = c.pc ∧ (t.ctx tid).xpc = c.xpc ∧
      (t.ctx tid).xcause = c.xcause ∧ (t.ctx tid).xaddr = c.xaddr ∧ (t.ctx tid).xstat = c.xstat)

/-- `rett` (R273, R290): in handler mode the level of before the trap is restored, handler mode ends and the program goes on
at XPC; a status word with a reserved bit, or with plvl above lvl, stops the context; outside a handler it is illegal. -/
def Obligations.ReturnFromTrap : Prop :=
  ∀ (s : State),
    let c := s.me
    (c.xstat.getLsbD 1 = true → c.xstat >>> 4 = 0 → (c.xstat.getLsbD 2 = true → c.xstat.getLsbD 0 = true) →
      ∃ t, exec .rett s = .next t ∧ OnlyMe s t ∧ GoesOnAt t.me (c.xpc &&& ~~~(3 : Word)) ∧
        t.me.xstat.getLsbD 0 = c.xstat.getLsbD 2 ∧ t.me.xstat.getLsbD 1 = false ∧
        t.me.xstat >>> 2 = c.xstat >>> 2 ∧ { t.me.placedAs c with xstat := c.xstat } = c) ∧
    (c.xstat.getLsbD 1 = true → (c.xstat >>> 4 ≠ 0 ∨ c.xstat.getLsbD 2 = true ∧ c.xstat.getLsbD 0 = false) →
      s.launchOf s.cur = none →
      let stopped : Ctx := { c with status := .stopped, wait := .none, held := none, trapping := none }
      (s.isSystem s.here = false → Completes .rett s fun t => OnlyMe s t ∧ t.me = stopped) ∧
      (s.isSystem s.here = true → Completes .rett s fun t => t.me = stopped ∧ t.uetOut = s.uetOut ++ [.firmwareFault s.here 0x19])) ∧
    (∀ key l, c.xstat.getLsbD 1 = true → (c.xstat >>> 4 ≠ 0 ∨ c.xstat.getLsbD 2 = true ∧ c.xstat.getLsbD 0 = false) →
      s.launchOf s.cur = some key → s.launch? key = some l → l.phase ≠ .ended →
      Completes .rett s fun t => t.me.status = .stopped ∧ t.me.regs = c.regs ∧ t.me.xstat = c.xstat ∧
        t.launch? key = some { l with phase := .ended, stopStatus := 3, stopCause := 0x19, stopPcn := s.here }) ∧
    (c.xstat.getLsbD 1 = false → CanTrap c → TakesTrap .rett s 0x01 c.start 0)

/-- vt.set, vt.get, gvt, settle, wrap and wrap.done. -/
def Obligations.VirtualTime : Prop :=
  Sys2Proof.Claims.VirtualTimeForms

/-- spawn, mig, yield and halt. -/
def Obligations.Threads : Prop :=
  Sys2Proof.Claims.ThreadForms


namespace Sys2Proof.Claims

/-- The control registers that a context reads, with their values (R34, R107, R115, R118, R122, R269, R284, R294). -/
def readable (s : State) : List (Nat × Word) :=
  let c := s.me
  let l := s.launchRec? s.cur
  let spec (f : LaunchRec → Nat) : Word := BitVec.ofNat 64 ((l.map fun x => f x.spec).getD 0)
  [(0x001, BitVec.ofNat 64 (s.rankOf s.cur % 2 ^ 12)), (0x002, spec LaunchRec.n), (0x003, BitVec.ofNat 64 (s.cur % 16)),
   (0x004, BitVec.ofNat 64 (s.here + s.logicalNumber s.cur s.here * 2 ^ 16)), (0x005, BitVec.ofNat 64 (s.regionOf s.cur)),
   (0x010, BitVec.ofNat 64 s.now), (0x011, BitVec.ofNat 64 (s.core s.here).cyc),
   (0x020, BitVec.ofNat 64 (s.proc c.proc).lvt), (0x021, BitVec.ofNat 64 (s.gvtOf s.cur)), (0x030, spec LaunchRec.wrappc),
   (0x031, BitVec.ofNat 64 ((l.map Launch.wrapvt).getD 0)), (0x032, spec LaunchRec.deadline), (0x033, spec LaunchRec.budgetW),
   (0x040, c.rmode.setWidth 64), (0x041, c.fflags.setWidth 64), (0x042, c.srng.setWidth 64), (0x100, c.xpc),
   (0x102, c.xcause), (0x103, c.xaddr), (0x104, c.xvec), (0x105, c.xring)]

/-- The registers of a timed process's rings, which only system level reads (R283, R294). -/
def ringRegisters (s : State) : List (Nat × Word) :=
  [(0x110, s.me.ckring), (0x111, s.me.ckpos), (0x112, s.me.ckseq), (0x113, s.me.jring), (0x114, s.me.jpos)]

/-- The instruction changes nothing but its context, which goes on after it as given. -/
def Becomes (i : Instr) (s : State) (c : Ctx) : Prop := Completes i s fun t => OnlyMe s t ∧ t.me = c.advance

/-- The registers with RW fields (R115, R118, R122, R284, R294): their RW bits and the context that holds a value, none where
the value is reserved or breaks a limit of the rings. XSTAT is apart. -/
def writable (s : State) : List (Nat × Word × (Word → Option Ctx)) :=
  let c := s.me
  [(0x040, 7, fun v => if v.toNat ≤ 4 then some { c with rmode := v.setWidth 3 } else none),
   (0x041, 0xBF, fun v => some { c with fflags := v.setWidth 8 }),
   (0x042, 0xFFFFFFFF, fun v => some { c with srng := if v.setWidth 32 = (0 : BitVec 32) then 1 else v.setWidth 32 }),
   (0x100, 0xFFFFFFFFFFFFFFFC, fun v => some { c with xpc := v }), (0x102, 0x1FF, fun v => some { c with xcause := v }),
   (0x103, 0xFFFFFFFFFFFFFFFF, fun v => some { c with xaddr := v }), (0x104, 0x1FFFC, fun v => some { c with xvec := v }),
   (0x105, 0x3F, fun v => some { c with xring := v }),
   (0x110, 0xFFF1FFC0, fun v => if v.toNat / 2 ^ 20 = 1 then none else some { c with ckring := v }),
   (0x111, 0x0FFF0FFF, fun v => if v.toNat / 2 ^ 16 ≤ c.ckring.toNat / 2 ^ 20 then some { c with ckpos := v } else none),
   (0x112, 0xFFFFFFFFFFFFFFFF, fun v => some { c with ckseq := v }),
   (0x113, 0xFFFF0001FFE0, fun v =>
     if 1 ≤ v.toNat / 2 ^ 32 ∧ v.toNat / 2 ^ 32 < 16 then none else some { c with jring := v }),
   (0x114, 0xFFFF0000FFFF, fun v => some { c with jpos := v })]

/-- Two contexts agree in the registers of the rings (R294). -/
def SameRings (c d : Ctx) : Prop :=
  d.ckring = c.ckring ∧ d.ckpos = c.ckpos ∧ d.ckseq = c.ckseq ∧ d.jring = c.jring ∧ d.jpos = c.jpos

/-- A write takes the context that a value gives, or is illegal. Ring registers whose values it changes may leave the results of a
rollback free from then on (R294). -/
def WritesOr (i : Instr) (s : State) (c : Option Ctx) : Prop :=
  match c with
  | some x => ∃ r, Becomes i s { x with ringsWritten := r } ∧ (SameRings s.me x → r = s.me.ringsWritten)
  | none => CanTrap s.me → TakesTrap i s 0x01 s.me.start 0

end Sys2Proof.Claims

/-- `crr` (R270, R283): each register reads its value; XSTAT shows in bit 3 whether a late trap waits; the ring registers read
at system level only, and any other number is illegal. -/
def Sys2Proof.Claims.ControlRegisterReads : Prop :=
  ∀ (s : State) (d : GReg) (n : BitVec 10),
    let c := s.me
    (∀ x ∈ readable s, n.toNat = x.1 → SetsG (.crr d n) s d x.2) ∧
    (n.toNat = 0x101 → ∃ v : Word, SetsG (.crr d n) s d v ∧ (∀ b, b ≠ 3 → v.getLsbD b = c.xstat.getLsbD b) ∧
      v.getLsbD 3 = !c.late.isEmpty) ∧
    (∀ x ∈ ringRegisters s, n.toNat = x.1 →
      (s.isPrivileged s.cur = true → SetsG (.crr d n) s d x.2) ∧
      (s.isPrivileged s.cur = false → CanTrap c → TakesTrap (.crr d n) s 0x01 c.start 0)) ∧
    (n.toNat ≠ 0x101 → (∀ x ∈ readable s ++ ringRegisters s, n.toNat ≠ x.1) → CanTrap c →
      TakesTrap (.crr d n) s 0x01 c.start 0)

/-- `crw` writes the RW fields of a register (R270, R115, R118, R283, R284, R294), `crset` and `crclr` set and clear bits of
them, at system level only (R271). A reserved rounding mode or a value that breaks a limit of the rings is illegal; so is
a write to a register without RW fields, and at user level to one above 0x0FF other than XPC and XVEC. -/
def Sys2Proof.Claims.ControlRegisterWrites : Prop :=
  ∀ (s : State) (a : GReg) (n : BitVec 10),
    let c := s.me
    let v := s.g a
    let system := s.isPrivileged s.cur = true
    let allowed := system ∨ n.toNat < 0x100 ∨ n.toNat = 0x100 ∨ n.toNat = 0x104
    let illegal (i : Instr) : Prop := CanTrap c → TakesTrap i s 0x01 c.start 0
    (¬ allowed → illegal (.crw a n)) ∧ (¬ system → illegal (.crset a n) ∧ illegal (.crclr a n)) ∧
    (∀ x ∈ writable s, n.toNat = x.1 →
      (allowed → x.1 ≠ 0x040 ∨ v.toNat < 8 → WritesOr (.crw a n) s (x.2.2 (v &&& x.2.1))) ∧
      (allowed → x.1 = 0x040 → 8 ≤ v.toNat → illegal (.crw a n)) ∧
      (system → ∀ y ∈ readable s ++ ringRegisters s, y.1 = x.1 →
        WritesOr (.crset a n) s (x.2.2 ((y.2 ||| v) &&& x.2.1)) ∧
        WritesOr (.crclr a n) s (x.2.2 ((y.2 &&& ~~~v) &&& x.2.1)))) ∧
    (n.toNat = 0x101 → system →
      let changed (i : Instr) (kept : Word) (plvl : Bool) : Prop := Completes i s fun t =>
        OnlyMe s t ∧ GoesOnAt t.me (c.pc + 4) ∧ { t.me.placedAs c with xstat := c.xstat } = c ∧
        t.me.xstat &&& kept = c.xstat &&& kept ∧ t.me.xstat.getLsbD 2 = plvl
      (Completes (.crw a n) s fun t => t.me.xstat &&& ~~~(0xB : Word) = v &&& ~~~(0xB : Word)) ∧
      changed (.crw a n) 0xB (v.getLsbD 2) ∧
      changed (.crset a n) (~~~(4 : Word)) (c.xstat.getLsbD 2 || v.getLsbD 2) ∧
      changed (.crclr a n) (~~~(4 : Word)) (c.xstat.getLsbD 2 && !v.getLsbD 2)) ∧
    (n.toNat ≠ 0x101 → (∀ x ∈ writable s, n.toNat ≠ x.1) → illegal (.crw a n)) ∧
    (system → n.toNat < 0x40 → (∃ x ∈ readable s, x.1 = n.toNat) →
      GoesTo (.crset a n) s (c.pc + 4) ∧ GoesTo (.crclr a n) s (c.pc + 4)) ∧
    (system → n.toNat ≠ 0x101 → (∀ x ∈ readable s ++ ringRegisters s, n.toNat ≠ x.1) →
      illegal (.crset a n) ∧ illegal (.crclr a n))

/-- Clocks, software traps, prefixes, and every control register read and written at its level. -/
def Obligations.SystemAndControlRegisters : Prop :=
  Sys2Proof.Claims.SystemForms ∧ Sys2Proof.Claims.ControlRegisterReads ∧ Sys2Proof.Claims.ControlRegisterWrites


/-! ## The handler, embers, and traps without a word -/

namespace Sys2Proof.Claims

/-- The words of the carrier subset that compute (R169). -/
def computes (i : Instr) : Bool :=
  match i with
  | .add _ _ _ | .sub _ _ _ | .and _ _ _ | .or _ _ _ | .xor _ _ _ | .shl _ _ _ | .shr _ _ _ | .sra _ _ _
  | .mul _ _ _ | .mulh _ _ _ | .mulhu _ _ _ | .div _ _ _ | .divu _ _ _ | .rem _ _ _ | .remu _ _ _
  | .min _ _ _ | .max _ _ _ | .minu _ _ _ | .maxu _ _ _ | .sel _ _ _ _ | .clz _ _ | .ctz _ _ | .popc _ _
  | .sextB _ _ | .sextH _ _ | .sextW _ _ | .zextB _ _ | .zextH _ _ | .zextW _ _ | .addi _ _ _ | .andi _ _ _
  | .ori _ _ _ | .xori _ _ _ | .shli _ _ _ | .shri _ _ _ | .srai _ _ _ | .muli _ _ _ => true
  | _ => false

/-- What a memory word of a message does to its part: its kind, bytes, data and address (R186, R193, R195). -/
def handlerAccesses (s : State) (d a : GReg) (j : BitVec 16) (q : Bool) (r : Fin 8) (w : AWidth) :
    List (Instr × AccessKind × Nat × Nat × Word × Bool) :=
  ((loads d a j).map fun x => (x.1, x.2.1, x.2.2, 0, s.g a + s.imm j, true)) ++
    ((stores s d a j).map fun x => (x.1, .store, x.2.1, x.2.2, s.g a + s.imm j, true)) ++
    ((bitStores d a q r).map fun x => (x.1, .subByte x.2.1 x.2.2, if 8 < x.2.1 + x.2.2 then 2 else 1,
      (s.g d).toNat % 2 ^ x.2.2, s.g a, false)) ++
    (atomics d a w).map fun x => (x.1, .atomic x.2, widthOf w, (s.g d).toNat % 2 ^ (8 * widthOf w), s.g a, true)

/-- A message has ended in the handler slot of a core: the slot is empty and its answer is on its way (R49). -/
structure MessageEnds (u t : State) (pcn : Nat) (m : Message) (value : Option Word) (fault : Bool) : Prop where
  slot : t.ctx (16 * pcn) = { Ctx.empty with xstat := 1, lastIssue := (u.ctx (16 * pcn)).lastIssue }
  ended : (t.core pcn).running = none ∧ { t.core pcn with running := (u.core pcn).running } = u.core pcn
  sent : t.net = u.net ++ [packet .reply pcn (coreOfTid m.sender) (t.trafficColour m.sender)
    (.msgReply m.sender m.serial m.relaxed value fault)]
  others : (∀ k, k ≠ 16 * pcn → t.ctx k = u.ctx k) ∧ (∀ k, k ≠ pcn → t.core k = u.core k)
  device : { t with ctxs := u.ctxs, cores := u.cores, net := u.net } = u

/-- Word n of a message has taken effect, in state u: the next one follows, or the message has ended. -/
def WordDone (u t : State) (pcn : Nat) (m : Message) (n : Nat) : Prop :=
  if n < 3 then t = u.modCore pcn fun k => { k with running := some (m, n + 1) } else MessageEnds u t pcn m none false

/-- A context that keeps what an ember does not carry (R40, R41). -/
def Ctx.keeping (c b : Ctx) : Ctx :=
  { c with
    masks := b.masks, rmode := b.rmode, fflags := b.fflags, srng := b.srng, mx := b.mx, cp := b.cp, relaxed := b.relaxed
    offer := b.offer, ckring := b.ckring, ckpos := b.ckpos, ckseq := b.ckseq, jring := b.jring, jpos := b.jpos, ringsWritten := b.ringsWritten }

/-- The trap registers of a context. -/
def trapRegs (c : Ctx) : List Word := [c.xpc, c.xstat, c.xcause, c.xaddr, c.xvec, c.xring]

/-- What an ember carries is in a context: place, registers from g1 up, predicates, and what waits to trap; the trap registers are
those of the home slot at home, and the thread's own away from it (R40, R42). -/
structure Carries (c b : Ctx) (e : Ember) (away : Bool) : Prop where
  place : c.pc = e.pc ∧ c.pw = e.pw ∧ c.held = e.held ∧ c.pfx = .none ∧ c.wait = .none ∧ c.status = .ready
  regs : ∀ r : GReg, c.g r = if r = 0 then 0 else (e.regs[r.val - 1]?).getD (b.g r)
  traps : trapRegs c = if away = true then [e.xpc, e.xstat, e.xcause, e.xaddr, e.xvec, e.xring] else trapRegs b
  waiting : c.late = e.late ∧ c.faults = e.faults ∧ c.msgFaults = e.msgFaults
  who : c.proc = e.proc ∧ c.spawned = e.spawned ∧ c.home = e.home ∧ c.away = away ∧ c.migSize = e.size
  kept : Ctx.keeping c b = c

end Sys2Proof.Claims

/-- CARRIER_MESSAGE (R48, R49, R50, R169, R283): the handler of a core takes the next entry of its queue: a remote
access goes on to its bank's queue; a message runs at system level with g3 to g6 as it gives them, word by word, on the
core's own local store, each after the accesses that the handler took before. A word that does not decode, or whose
access is misaligned or past the window, ends it in a fault, `reply` and the fourth word end it. MSG_REPLY ends the
sender's wait. That its words run one by one, and where they end in a fault, is log entry 26. -/
def Sys2Proof.Claims.CarrierMessages : Prop :=
  (∀ (s : State) (pcn : Nat) (m : Message),
    let tid := 16 * pcn
    let k := s.core pcn
    let at' : State := { s with cur := tid }
    let runs (n : Nat) (i : Instr) : Prop := k.running = some (m, n) ∧ decodeWord (m.words.getD n 0) = .ok i
    (k.running = none → k.handler = [] → exec (.carrierMessage pcn) s = .next s) ∧
    (∀ rest q cid serial acc part p, k.running = none → k.handler = .access q :: rest → q.source = .access cid serial →
      s.queuedPart? cid serial q.addr q.off = some (acc, part, p) → Completes (.carrierMessage pcn) s fun t =>
        { t with banks := s.banks, cores := s.cores } = s ∧ (∀ j, j ≠ pcn → t.core j = s.core j) ∧
        t.core pcn = { k with handler := rest } ∧
        ∀ b, t.bank b = if b = bankOf p.addr ∨ b = bankOf (p.addr + p.size - 1) then s.bank b ++ [q] else s.bank b) ∧
    (∀ rest, k.running = none → k.handler = .message m :: rest → ∃ u : State,
      exec (.carrierMessage pcn) s = exec (.carrierMessage pcn) u ∧
      u.ctx tid = { Ctx.empty with
        xstat := 1, lastIssue := (s.ctx tid).lastIssue
        regs := (((Vector.replicate 32 (0 : Word)).set 3 m.data0).set 4 m.data1 |>.set 5 m.offset).set 6
          (BitVec.ofNat 64 (s.threadOf m.sender)) } ∧
      u.core pcn = { k with handler := rest, running := some (m, 0) } ∧
      (∀ j, j ≠ tid → u.ctx j = s.ctx j) ∧ (∀ j, j ≠ pcn → u.core j = s.core j) ∧
      { u with ctxs := s.ctxs, cores := s.cores } = s) ∧
    (∀ n e, k.running = some (m, n) → decodeWord (m.words.getD n 0) = .error e →
      Completes (.carrierMessage pcn) s fun t => MessageEnds s t pcn m none true) ∧
    (∀ n a, runs n (.reply a) → Completes (.carrierMessage pcn) s fun t => MessageEnds s t pcn m (some (at'.g a)) false) ∧
    (∀ n i, runs n i → computes i = true → ∃ u : State, exec i at' = .next u ∧
      Completes (.carrierMessage pcn) s fun t => WordDone { u with cur := s.cur } t pcn m n) ∧
    (∀ (n : Nat) (d a : GReg) (j : BitVec 16) (q : Bool) (r : Fin 8) (w : AWidth),
      ∀ x ∈ handlerAccesses at' d a j q r w, runs n x.1 →
        let ea := x.2.2.2.2.1.toNat
        let size := x.2.2.1
        let p : Part := ⟨localKey pcn ea, size, x.2.2.2.1, 0, false, false⟩
        (ea + size ≤ 0x20000 → (x.2.2.2.2.2 = true → ea % size = 0) →
          ((∀ b ∈ partBanks p, ∀ q ∈ s.bank b, s.fromHandler q = false) → Completes (.carrierMessage pcn) s fun t =>
            WordDone { at'.performPart tid x.2.1 p with cur := s.cur } t pcn m n) ∧
          (∀ b ∈ partBanks p, ∀ q ∈ s.bank b, s.fromHandler q = true → exec (.carrierMessage pcn) s = .next s)) ∧
        (0x20000 < ea + size ∨ (x.2.2.2.2.2 = true ∧ ea % size ≠ 0) →
          Completes (.carrierMessage pcn) s fun t => MessageEnds s t pcn m none true)) ∧
    (∀ n i, runs n i → computes i = false → (∀ a, i ≠ .reply a) →
      (∀ d a j q r w, ∀ x ∈ handlerAccesses at' d a j q r w, x.1 ≠ i) →
      Completes (.carrierMessage pcn) s fun t => MessageEnds s t pcn m none true)) ∧
  (∀ (s s1 : State) (n tid serial : Nat) (p : Packet) (value : Option Word) (fault relaxed : Bool),
    Arrives s n p s1 → p.body = .msgReply tid serial relaxed value fault →
    let c := s1.ctx tid
    (relaxed = true →
      let c1 := { c with
        relaxedMsgs := c.relaxedMsgs.filter fun x => x.1 != serial
        msgFaults := c.msgFaults ++ if fault = true then c.relaxedMsgs.filter fun x => x.1 == serial else [] }
      ∃ u : State, OnlyCtxNet s1 u tid ∧ u.net = s1.net ∧ u.ctx tid = c1 ∧
        (∀ tr, c.trapping = some tr → c.wait = .drain → State.bufferEmpty c1 = true →
          exec (.msgReply n) s = .next (u.takeTrapAt tid tr)) ∧
        (c.trapping = none ∨ c.wait ≠ .drain ∨ State.bufferEmpty c1 = false → exec (.msgReply n) s = .next u)) ∧
    (relaxed = false → c.wait = .msg → fault = false → Completes (.msgReply n) s fun t =>
      OnlyCtxNet s1 t tid ∧ t.net = s1.net ∧ t.ctx tid = (c.setG c.dest (value.getD 0)).advance) ∧
    (relaxed = false → c.wait = .msg → fault = true →
      exec (.msgReply n) s = .next (s1.takeTrapAt tid ⟨0x0C, false, c.pc + 4, c.target, 0⟩)) ∧
    (relaxed = false → c.wait ≠ .msg → exec (.msgReply n) s = .next s1))

/-- Embers (R41, R42, R43, R44, R282): one that comes home enters its reserved slot; elsewhere it enters the arrival
queue, else the spill ring, whose entry's 256 bytes are written, else it waits, as it does behind others that wait, and
is accepted in the first two cases; the queue's head takes the lowest free slot, with zeros for what it does not carry;
its sender's slot becomes reserved or free, at the latest then; what waits moves up. That a thread away from home has
trap registers of its own is log entry 17; the ring of records, log entry 57. -/
def Sys2Proof.Claims.EmbersTravel : Prop :=
  (∀ (s s1 : State) (n : Nat) (p : Packet) (e : Ember), Arrives s n p s1 → p.body = .ember e →
    let pcn := p.dst
    let k := s1.core pcn
    let accepts (t : State) : Prop := t.net = s1.net ++
      [packet .reply pcn (coreOfTid e.source) (s1.emberColour e) (.migAccept e.source)]
    let put (f : CoreS) (t : State) : Prop :=
      t.core pcn = f ∧ (∀ j, j ≠ pcn → t.core j = s1.core j) ∧ { t with cores := s1.cores, net := s1.net, mem := s1.mem } = s1
    (coreOfTid e.home = pcn → e.trapping = none →
      Completes (.emberArrival n) s fun t => Carries (t.ctx e.home) (s1.ctx e.home) e false) ∧
    (∀ tr, coreOfTid e.home = pcn → e.trapping = some tr → ∃ u : State, Carries (u.ctx e.home) (s1.ctx e.home) e false ∧
      exec (.emberArrival n) s = .next (u.takeTrapAt e.home tr)) ∧
    (coreOfTid e.home ≠ pcn →
      (k.waiting = [] → k.embers.length < 8 → k.spill = [] → Completes (.emberArrival n) s fun t =>
        put { k with embers := k.embers ++ [e] } t ∧ t.mem = s1.mem ∧ accepts t) ∧
      (k.waiting = [] → 8 ≤ k.embers.length ∨ k.spill ≠ [] → k.spill.length < k.spillSize →
        Completes (.emberArrival n) s fun t =>
          put { k with spill := k.spill ++ [e], spillTail := (k.spillTail + 1) % k.spillSize } t ∧ accepts t ∧
          (s1.spillRing? pcn = none → t.mem = s1.mem) ∧
          ∀ ring, s1.spillRing? pcn = some ring → ∃ bytes : List Byte, bytes.length = 256 ∧
            t.mem = memWrite (ring + 256 * k.spillTail) bytes s1.mem) ∧
      (k.waiting ≠ [] ∨ ((8 ≤ k.embers.length ∨ k.spill ≠ []) ∧ k.spillSize ≤ k.spill.length) →
        Completes (.emberArrival n) s fun t =>
          put { k with waiting := k.waiting ++ [e] } t ∧ t.mem = s1.mem ∧ t.net = s1.net))) ∧
  (∀ (s s1 : State) (n tid : Nat) (p : Packet), Arrives s n p s1 → p.body = .migAccept tid → (s1.ctx tid).wait = .mig →
    Completes (.migAccept n) s fun t => (∀ j, j ≠ tid → t.ctx j = s1.ctx j) ∧ t.net = s1.net ∧ t.cores = s1.cores ∧
      t.ctx tid = if (s1.ctx tid).away = true then Ctx.zero
        else { s1.ctx tid with
          status := .reserved, wait := .none, held := none, late := [], faults := [], msgFaults := [] }) ∧
  (∀ (s : State) (pcn k : Nat) (e : Ember) (rest : List Ember),
    (s.core pcn).embers = e :: rest → s.freeSlotOf? pcn = some k →
    s.colourRuns (s.emberColour e) = true → (s.core pcn).spill = [] → (s.core pcn).waiting = [] →
    let slot := pcn * 16 + k
    e.source ≠ slot → Completes (.emberAdmit pcn) s fun t =>
      Carries (t.ctx slot) Ctx.empty e true ∧ t.core pcn = { s.core pcn with embers := rest } ∧
      (∀ j, j ≠ slot → (s.senderWaits e = true → j ≠ e.source) → t.ctx j = s.ctx j) ∧
      (s.senderWaits e = false → t.net = s.net) ∧
      (s.senderWaits e = true → (∀ q ∈ t.net, q ∈ s.net ∧ q.body ≠ .migAccept e.source) ∧
        t.ctx e.source = if (s.ctx e.source).away = true then Ctx.zero
          else { s.ctx e.source with
            status := .reserved, wait := .none, held := none, late := [], faults := [], msgFaults := [] })) ∧
  (∀ (s : State) (pcn : Nat), (s.core pcn).embers = [] ∨ s.freeSlotOf? pcn = none →
    let k := s.core pcn
    let others (t : State) : Prop := t.ctxs = s.ctxs ∧ t.mem = s.mem ∧ ∀ j, j ≠ pcn → t.core j = s.core j
    (k.spill = [] → k.waiting = [] → exec (.emberAdmit pcn) s = .next s) ∧
    (∀ e, k.embers.length < 8 → k.spill = [e] → k.waiting = [] → k.spoiled = false → Completes (.emberAdmit pcn) s fun t =>
      others t ∧ t.net = s.net ∧ t.core pcn = { k with embers := k.embers ++ [e], spill := [] }) ∧
    (∀ w, k.embers.length < 8 → k.spill = [] → k.waiting = [w] → Completes (.emberAdmit pcn) s fun t =>
      others t ∧ t.core pcn = { k with embers := k.embers ++ [w], waiting := [] } ∧
      t.net = s.net ++ [packet .reply pcn (coreOfTid w.source) (s.emberColour w) (.migAccept w.source)]))

/-- Traps without a word (R108 step 8, R167, R168, R287): at an instruction boundary a diverted thread enters WRAPPC at
user level and outside a handler, and else the first late trap is taken, with the job in XADDR and its place in the ring
in XRING; a word that is no instruction is illegal, and a fetch past the window is unmapped. A thread that is away goes
home before it enters WRAPPC (log entry 18). -/
def Sys2Proof.Claims.TrapsWithoutAWord : Prop :=
  ∀ (s : State) (tid : Nat),
    let c := s.ctx tid
    let stands := State.alive c = true ∧ c.trapping = none ∧ c.pfx = .none ∧ c.held = none ∧ c.wait = .none
    let only (t : State) : Prop := (∀ k, k ≠ tid → t.ctx k = s.ctx k) ∧ { t with ctxs := s.ctxs } = s
    (∀ l, stands → c.divert = true → State.bufferEmpty c = true → s.launchRec? tid = some l → l.spec.timed = false →
      c.away = false → Completes (.lateTrap tid) s fun t => ∃ d : Ctx,
        t.ctx tid = { d with
          pc := BitVec.ofNat 64 l.spec.wrappc, late := [], divert := false, wrapStop := false, offer := .none } ∧
        d.regs = c.regs ∧ d.masks = c.masks ∧ d.pw = c.pw ∧ d.xstat = c.xstat &&& ~~~(3 : Word) ∧ d.status = .ready) ∧
    (∀ l, stands → c.divert = true → State.bufferEmpty c = true → s.launchRec? tid = some l → l.spec.timed = true →
      c.away = false → Completes (.lateTrap tid) s fun t =>
        (t.ctx tid).pc = BitVec.ofNat 64 l.spec.wrappc ∧ (t.ctx tid).masks = Vector.replicate 4 0 ∧
        (t.ctx tid).xstat = c.xstat &&& ~~~(3 : Word) ∧ (t.ctx tid).status = .ready ∧
        ∀ r : GReg, r.val ∉ [2, 3, 4] → (t.ctx tid).g r = c.g r) ∧
    (∀ before x after, stands → c.divert = false → CanTrap c → c.late = before ++ x :: after →
      (∀ y ∈ before, (y.cause = 0x10 ∧ x.cause ≠ 0x10) ∨ ((y.cause = 0x10 ↔ x.cause = 0x10) ∧ x.order < y.order)) →
      (∀ y ∈ after, (y.cause = 0x10 ∧ x.cause ≠ 0x10) ∨ ((y.cause = 0x10 ↔ x.cause = 0x10) ∧ x.order ≤ y.order)) →
      Completes (.lateTrap tid) s fun t => only t ∧ (t.ctx tid).late = before ++ after ∧
        (t.ctx tid).pc = c.xvec &&& 0x1FFFC ∧ (t.ctx tid).xpc = c.pc &&& ~~~(3 : Word) ∧
        (t.ctx tid).xcause = BitVec.ofNat 64 (x.cause + 256) ∧ (t.ctx tid).xaddr = x.job.setWidth 64 ∧
        (t.ctx tid).xring = (s.ringWord x).setWidth 64 ∧ (t.ctx tid).xstat.getLsbD 1 = true ∧
        (t.ctx tid).regs = c.regs ∧ (t.ctx tid).fflags = c.fflags) ∧
    (stands → c.divert = false → c.late = [] ∨ c.xstat.getLsbD 1 = true → exec (.lateTrap tid) s = .next s) ∧
    (State.alive c = true → c.held = none → fetchAt s tid = .illegal →
      exec (.illegalInstruction tid) s = .next (s.takeTrapAt tid ⟨0x01, false, c.start, 0, 0⟩)) ∧
    (State.alive c = true → c.held = none → 0x20000 ≤ c.pc.toNat →
      exec (.unmappedFetch tid) s = .next (s.takeTrapAt tid ⟨0x03, false, c.start, c.pc, 0⟩)) ∧
    (∀ i, c.held = some i ∨ fetchAt s tid = .word i →
      exec (.illegalInstruction tid) s = .next s ∧ exec (.unmappedFetch tid) s = .next s)

/-- msg checks and sends; the handler runs a message word by word; the reply ends the wait. -/
def Obligations.MessagesRun : Prop :=
  Sys2Proof.Claims.MessageForm ∧ Sys2Proof.Claims.CarrierMessages

/-- Embers come home, queue, spill or wait, and take a slot. -/
def Obligations.EmbersMigrate : Prop :=
  Sys2Proof.Claims.EmbersTravel

/-- Late traps, diversions, illegal words and unmapped fetches. -/
def Obligations.TrapsAtBoundaries : Prop :=
  Sys2Proof.Claims.TrapsWithoutAWord


/-! ## Rollback, GVT, the end of launches and errors -/

namespace Sys2Proof.Claims

/-- The address of checkpoint `seq` of the process in a context (R96, R98). -/
def checkpointKey (s : State) (tid seq : Nat) : Nat :=
  let c := s.ctx tid
  ckEntryKey tid c (ckHead c + (seq - (c.ckseq.toNat - ckLive c)))

/-- A process has rolled back to checkpoint `seq` (R99, R101, R288): its registers, LVT and vector registers are those of the
checkpoint's bytes, its tiles are zero with FFLAGS<7> set, its journal is undone to the checkpoint's position, handler mode
has ended, it offers anew, what it sent and contributed since has anti-messages behind it, and its jobs since, and their faults,
are gone. -/
structure RolledBack (s t : State) (tid seq : Nat) : Prop where
  place : (t.ctx tid).pc = BitVec.ofNat 64 (memNat s.mem (checkpointKey s tid seq) 8) &&& ~~~(3 : Word) ∧ (t.ctx tid).status = .ready ∧
    (t.ctx tid).wait = .none ∧ (t.ctx tid).held = none ∧ (t.ctx tid).offer = .none ∧ (t.ctx tid).relaxed = [] ∧
    (t.ctx tid).port = none
  lvt : (t.proc (s.ctx tid).proc).lvt = memNat s.mem (checkpointKey s tid seq + 8) 8
  regs : ∀ r : GReg, (t.ctx tid).g r =
    if r = 0 then 0 else BitVec.ofNat 64 (memNat s.mem (checkpointKey s tid seq + 40 + 8 * r.val) 8)
  masks : ∀ m : Fin 4, (t.ctx tid).masks[m] =
    if m = 0 then 0 else BitVec.ofNat 64 (memNat s.mem (checkpointKey s tid seq + 288 + 8 * m.val) 8)
  flags : (t.ctx tid).fflags.getLsbD 7 = true ∧
    (∀ b < 6, (t.ctx tid).fflags.getLsbD b = (memNat s.mem (checkpointKey s tid seq + 35) 1).testBit b) ∧
    (t.ctx tid).xstat = (s.ctx tid).xstat &&& ~~~(2 : Word)
  vectors : ∀ i < 512, memGet (vecKey (coreOfTid tid) (slotOfTid tid * 512) + i) t.mem =
    memGet (checkpointKey s tid seq + 320 + i) s.mem
  tiles : ∀ i < 8192, memGet (accKey (coreOfTid tid) i) t.mem = 0
  journal : ∀ a < dpaBase, a < accKey (coreOfTid tid) 0 ∨ accKey (coreOfTid tid) 8192 ≤ a →
    a < vecKey (coreOfTid tid) (slotOfTid tid * 512) ∨ vecKey (coreOfTid tid) (slotOfTid tid * 512) + 512 ≤ a →
    memGet a t.mem =
      memGet a (State.undoJournal tid (s.ctx tid) s.mem (memNat s.mem (checkpointKey s tid seq + 40) 8))
  freed : ckLive (t.ctx tid) = (seq - ((s.ctx tid).ckseq.toNat - ckLive (s.ctx tid))) % 2 ^ 12
  taken : ∀ x ∈ (s.proc (s.ctx tid).proc).sent, seq ≤ x.seq → ∃ p ∈ t.net, p.src = coreOfTid tid ∧ p.dst = x.home ∧
    p.body = .antiHeader x.entry x.gen (s.proc (s.ctx tid).proc).rank x.vt
  given : ∀ o ∈ (s.proc (s.ctx tid).proc).occs, seq ≤ o.seq →
    (∃ q ∈ (s.entry o.home o.entry).desc.parties, q.1 = (s.proc (s.ctx tid).proc).rank ∧
      contributes (s.entry o.home o.entry).desc q.2.2 = true) →
    ∃ p ∈ t.net, p.src = coreOfTid tid ∧ p.dst = o.home ∧
      p.body = .antiPayload o.entry o.gen o.number (s.proc (s.ctx tid).proc).rank
  late : (t.ctx tid).late = (s.ctx tid).late.filter (fun x => decide (x.ckseq ≤ seq)) ∧
    (t.ctx tid).faults = (s.ctx tid).faults.filter fun x => decide (x.ckseq ≤ seq)
  jobs : ∀ j ∈ (t.core (coreOfTid tid)).mxQueue ++ (t.core (coreOfTid tid)).cpQueue,
    j.proc = (s.ctx tid).proc → j.ckseq ≤ seq

end Sys2Proof.Claims

/-- A straggler claim and an anti-message of an occurrence roll a participant back (R99, R100), whose rings the machine
alone has written (R53): to the checkpoint of the earliest occurrence that the straggler precedes, or of the cancelled
one. An anti-message of a header annihilates it at its home, or its shadow, or cancels the occurrence that took it; one
of a contribution takes that back. The journal is undone from its newest entry. What memory reads is said of memory in
its canonical form. Shadows and records that stay are log entry 24; whether a process that has rolled back waits, log
entry 23; what a rollback does with rings that something else has written is log entry 31; a latch buffer that a
surviving stream fills, log entry 68. -/
def Sys2Proof.Claims.Rollbacks : Prop :=
  (∀ (s s1 : State) (n tid home idx gen vt loss handle : Nat) (p : Packet),
    Arrives s n p s1 → p.body = .straggler tid home idx gen vt loss handle →
    let c := s1.ctx tid
    let after (o : Occ) : Prop :=
      precedes vt loss handle o.vt o.loss (s1.handleOf o.home o.entry (s1.entry o.home o.entry)) = true
    ((∀ o ∈ (s1.proc c.proc).occs, ¬ after o) → exec (.stragglerClaim n) s = .next s1) ∧
    (∀ before o rest, (s1.proc c.proc).occs = before ++ o :: rest → (∀ x ∈ before, ¬ after x) → after o →
      memWf s1.mem = true → tid < 65536 → c.status ≠ .empty → c.status ≠ .stopped → c.ringsWritten = false → (s1.core (coreOfTid tid)).spoiled = false →
      Completes (.stragglerClaim n) s fun t => RolledBack s1 t tid o.seq)) ∧
  (∀ (s s1 : State) (n tid home idx gen number : Nat) (p : Packet),
    Arrives s n p s1 → p.body = .antiOccurrence tid home idx gen number →
    let c := s1.ctx tid
    let of (o : Occ) : Prop := o.home = home ∧ o.entry = idx ∧ o.number = number
    (∀ before o rest, (s1.proc c.proc).occs = before ++ o :: rest → (∀ x ∈ before, ¬ of x) → of o →
      memWf s1.mem = true → tid < 65536 → c.status ≠ .empty → c.status ≠ .stopped → c.ringsWritten = false → (s1.core (coreOfTid tid)).spoiled = false →
      Completes (.antiMessage n) s fun t => RolledBack s1 t tid o.seq) ∧
    ((∀ o ∈ (s1.proc c.proc).occs, ¬ of o) → exec (.antiMessage n) s = .next s1)) ∧
  (∀ (s s1 : State) (n idx gen number rank : Nat) (p : Packet), Arrives s n p s1 → p.body = .antiPayload idx gen number rank →
    let e := s1.entry p.dst idx
    e.gen = gen → e.state ≠ .free → Completes (.antiMessage n) s fun t =>
      { t with cores := s1.cores } = s1 ∧ (∀ k i, (k, i) ≠ (p.dst, idx) → t.entry k i = s1.entry k i) ∧
      t.entry p.dst idx = { e with current := e.current.map fun o =>
        if o.number = number then { o with contributions := o.contributions.filter fun x => x.1 != rank } else o }) ∧
  (∀ (s s1 : State) (n idx gen rank vt : Nat) (p : Packet), Arrives s n p s1 → p.body = .antiHeader idx gen rank vt →
    let e := s1.entry p.dst idx
    let same (h : Header) : Bool := h.rank == rank && h.vt == vt
    e.gen = gen → e.state ≠ .free →
    (e.headers.any same = true → e.resolution = .idle → Completes (.antiMessage n) s fun t =>
      OnlyEntry s1 t p.dst idx ∧ t.net = s1.net ∧
      t.entry p.dst idx = { e with headers := e.headers.filter fun h => !same h }) ∧
    (∀ number granted waiting counted, e.headers.any same = true → e.resolution = .claiming number granted waiting counted →
      Completes (.antiMessage n) s fun t => OnlyEntry s1 t p.dst idx ∧
        t.net = s1.net ++ tell s1 p.dst e (granted.filter (· != rank)) (fun k => .release k p.dst idx e.gen number) ∧
        t.entry p.dst idx = { e with resolution := .idle, headers := e.headers.filter fun h => !same h }) ∧
    (e.headers.any same = false → e.shadows.any same = true → Completes (.antiMessage n) s fun t =>
      OnlyEntry s1 t p.dst idx ∧ t.net = s1.net ∧
      t.entry p.dst idx = { e with shadows := e.shadows.filter fun h => !same h }) ∧
    (∀ o, e.headers.any same = false → e.shadows.any same = false →
      (e.current.toList ++ e.past).find? (fun o => o.headers.any same) = some o →
      e.past.find? (fun x => x.number == o.number) = some o → (∀ x, e.current = some x → x.number ≠ o.number) →
      Completes (.antiMessage n) s fun t =>
        (t.entry p.dst idx).loss = o.loss ∧ (t.entry p.dst idx).past = e.past.filter (fun x => x.number != o.number) ∧
        (t.entry p.dst idx).standing = o.standing.toList ++ e.standing ∧
        ∀ q ∈ e.desc.parties, ∃ x ∈ t.net, x.dst = coreOfTid q.2.1 ∧
          x.body = .antiOccurrence q.2.1 p.dst idx e.gen o.number)) ∧
  (∀ (tid : Nat) (c : Ctx) (m : Mem) (pos : Nat), 0 < jLen c → pos < jLen c → jTail c < jLen c →
    (jTail c = pos → State.undoJournal tid c m pos = m) ∧
    (jTail c ≠ pos →
      let newest := (jTail c + jLen c - 1) % jLen c
      let e := jEntryKey tid c newest
      State.undoJournal tid c m pos = State.undoJournal tid { c with jpos := setField c.jpos 32 16 newest }
        (memWrite (localKey (coreOfTid tid) (memNat m e 8 % 2 ^ 17)) (memBytes m (e + 16) 16) m) pos))

/-- GVT (R102, R348, R349, R350): a round starts when one is due; a core switches its colour and reports the least VT of
its items and of its sends; the root asks again while packets of the old colour are on their way, and else tells every
core the least VT less one, which a wrap-up that has asked for the round takes for its cut (R108). A core whose launch
is out or frozen keeps its GVT. A deferred action is performed once GVT has passed it (R103), and its page is pinned no
more (R333). What a process that waits in an offer counts is log entry 21. -/
def Sys2Proof.Claims.GvtRounds : Prop :=
  (∀ (s : State) (key root : Nat) (l : Launch), s.launch? key = some l → s.gvtService? = some root →
    l.spec.timed = true → State.launchHolds l = true → l.phase ≠ .ended → l.round = none →
    l.requested = true ∨ l.lastRound + 2000 ≤ s.now → s.colourRuns (s.launchColour key) = true →
    Completes (.gvtRoundStart key) s fun t =>
      t.net = s.net ++ l.cores.map (fun pcn => packet .control root pcn none (.gvtStart key l.nextRound)) ∧
      t.launch? key = some { l with
        round := some l.nextRound, nextRound := l.nextRound + 1, pass := 1, requested := false, lastRound := s.now } ∧
      t.ctxs = s.ctxs ∧ t.mem = s.mem) ∧
  (∀ (s s1 : State) (n key round : Nat) (p : Packet), Arrives s n p s1 →
    let r := s1.reduction p.dst key
    let report (pass : Nat) (least : Option Nat) (sum : Int) : Packet :=
      packet .control p.dst p.src (s1.launchColour key) (.gvtReport key round pass least sum 1)
    let items := s1.leastAt key p.dst
    let sums (pass : Nat) (r : Reduction) (t : State) : Prop := t.net = s1.net ++ [report pass
      (match items, r.leastSent with | some a, some b => some (Min.min a b) | some a, none => some a | none, x => x)
      (if r.red = true then (r.sentWhite : Int) - r.recvWhite else (r.sentRed : Int) - r.recvRed)]
    (p.body = .gvtStart key round → Completes (.gvtStartPacket n) s fun t =>
      t.reduction p.dst key = { r with red := !r.red, leastSent := none } ∧
      sums 1 { r with red := !r.red, leastSent := none } t ∧ t.ctxs = s1.ctxs ∧ t.mem = s1.mem) ∧
    (∀ pass, p.body = .gvtPass key round pass → Completes (.gvtStartPacket n) s fun t =>
      sums pass r t ∧ { t with net := s1.net } = s1)) ∧
  (∀ (s s1 : State) (n key round pass cores : Nat) (sum : Int) (least : Option Nat) (p : Packet) (l : Launch)
    (g : GvtStage), Arrives s n p s1 → p.body = .gvtReport key round pass least sum cores →
    let root := p.dst
    let whole := match least, g.least with | some a, some b => some (Min.min a b) | some a, none => some a | none, x => x
    ((s.core root).fwctl.getLsbD 3 = false → Completes (.gvtPassReport n root) s fun t =>
      { t with cores := s1.cores } = s1 ∧ (t.core root).fwdrop =
        if (s1.core root).fwdrop < 0xFFFFFFFF then (s1.core root).fwdrop + 1 else (s1.core root).fwdrop) ∧
    ((s.core root).fwctl.getLsbD 3 = true → s1.launch? key = some l → l.round = some round → l.pass = pass →
      (s1.core root).gvtStages.find? (fun g => g.launch == key) = some g →
      (g.cores + cores < l.cores.length → Completes (.gvtPassReport n root) s fun t => t.net = s1.net ∧
        (t.core root).gvtStages.find? (fun g => g.launch == key) = some ⟨key, whole, g.sum + sum, g.cores + cores⟩) ∧
      (l.cores.length ≤ g.cores + cores → g.sum + sum ≠ 0 → Completes (.gvtPassReport n root) s fun t =>
        t.launch? key = some { l with pass := pass + 1 } ∧
        t.net = s1.net ++ l.cores.map fun pcn => packet .control root pcn none (.gvtPass key round (pass + 1))) ∧
      (l.cores.length ≤ g.cores + cores → g.sum + sum = 0 → Completes (.gvtPassReport n root) s fun t =>
        let found := match whole with | some m => m - 1 | none => 2 ^ 64 - 1
        t.launch? key = some { l with
          round := none
          cutVt := match l.cutRound with
            | some k => if k ≤ round then some (Max.max l.gvt found) else l.cutVt
            | none => l.cutVt } ∧
        t.net = s1.net ++ l.cores.map fun pcn => packet .control root pcn none (.gvtResult key found)))) ∧
  (∀ (s s1 : State) (n key gvt : Nat) (p : Packet), Arrives s n p s1 → p.body = .gvtResult key gvt →
    (s.colourRuns (s.launchColour key) = true → Completes (.gvtResult n) s fun t =>
      (t.reduction p.dst key).gvt = Max.max (s1.reduction p.dst key).gvt gvt ∧ t.net = s1.net ∧ t.mem = s1.mem) ∧
    (s.colourRuns (s.launchColour key) = false → exec (.gvtResult n) s = .next s)) ∧
  (∀ (s : State) (pcn : Nat),
    let due (d : Deferred) : Prop :=
      d.lvt ≤ s.gvtAt pcn d.proc ∧ s.colourRuns ((s.proc d.proc).launch.bind s.launchColour) = true
    ((∀ d ∈ (s.core pcn).deferred, ¬ due d) → exec (.deferredAction pcn) s = .next s) ∧
    (∀ before d rest, (s.core pcn).deferred = before ++ d :: rest → (∀ x ∈ before, ¬ due x) → due d →
      ∃ u : State, u.core pcn = { s.core pcn with deferred := (s.core pcn).deferred.erase d } ∧
        (∀ k, k ≠ pcn → u.core k = s.core k) ∧ { u with cores := s.cores } = s ∧
        exec (.deferredAction pcn) s = .next (match d.action with
          | .write job dpa page data => u.performOffchip (clusterOf pcn) d.thread job d.order dpa page.entry data
          | .send job b bytes => u.sendToPeer pcn job b d.lvt (u.gvtAt pcn d.proc) bytes).settlePins))

/-- How launches end (R108, R109, R110, R306, R314): wrap-up begins at D − W; once every timed process has stopped,
wrap-up asks for a round, and the GVT that it finds is the cut; at D a wrapped launch that has not ended is terminated;
a launch none of whose threads, jobs and deferred actions is left completes, with its record and its done tag. Of the
pages that the machine has pinned the pinned bits may go (R333, R339). Which round gives the cut is log entry 19; a
latch job that waits, log entry 75; the copies of processes that have ended, log entry 76. -/
def Sys2Proof.Claims.LaunchesEnd : Prop :=
  ∀ (s : State) (key : Nat) (l : Launch), s.launch? key = some l →
    let x := l.spec
    let g := s.group (s.colourOf l.region)
    let phaseThen (i : Instr) (p : LaunchPhase) (more : Launch → Prop) : Prop :=
      Completes i s fun t => ∃ r, t.launch? key = some r ∧ r.phase = p ∧ more r
    let record (t : State) (status : Nat) (mask : Word) (wrapvt : Nat) : Prop :=
      ∀ d, translate? s.mem (s.rootOf l.region) x.record = some d → ∀ a, (∀ e ∈ s.pinned, a ≠ dpaBase + e + 8) →
        memGet a t.mem = memGet a (memWrite (dpaBase + d)
        (bytesOfNat 8 l.seq ++ bytesOfNat 1 status ++ bytesOfNat 7 0 ++ bytesOfNat 8 mask.toNat ++
          bytesOfNat 8 s.now ++ bytesOfNat 8 wrapvt ++ bytesOfNat 8 l.committed ++ bytesOfNat 8 l.frozen ++ bytesOfNat 8 0) s.mem)
    (l.phase = .running → x.deadline - x.budgetW ≤ s.now → s.colourRuns (s.launchColour key) = true →
      phaseThen (.wrapUp key) (if x.timed = true then .stopping else .wrapped) fun r => r.wrapTime = s.now) ∧
    (s.now < x.deadline - x.budgetW → exec (.wrapUp key) s = .next s) ∧
    (l.phase = .stopping → (∀ tid ∈ s.threadsOf key, (s.ctx tid).wrapStop = true) → s.colourRuns (s.launchColour key) = true →
      (l.cutVt = none → l.cutRound = none → Completes (.wrapupCut key) s fun t => { t with launches := s.launches } = s ∧
        t.launch? key = some { l with cutRound := some l.nextRound, requested := true }) ∧
      (∀ k, l.cutVt = none → l.cutRound = some k → exec (.wrapupCut key) s = .next s) ∧
      (∀ cut, l.cutVt = some cut → phaseThen (.wrapupCut key) .wrapped fun r => r.wrapvt = cut)) ∧
    (l.phase ≠ .stopping ∨ (∃ tid ∈ s.threadsOf key, (s.ctx tid).wrapStop = false) ∨
      s.colourRuns (s.launchColour key) = false → exec (.wrapupCut key) s = .next s) ∧
    (x.deadline ≤ s.now → l.phase = .stopping ∨ l.phase = .wrapped → g.frozen = false ∨ g.phase ≠ .stopped → g.phase ≠ .out →
      Completes (.deadlineOverrun key) s fun t =>
        t.launch? key = some { l with phase := .ended, stopStatus := 2, stopCause := 0, stopPcn := 0 } ∧
        record t 2 0 0 ∧ (∀ tid, s.ofLaunch key (s.ctx tid) = true → (t.ctx tid).status = .stopped) ∧
        ∀ tid, s.ofLaunch key (s.ctx tid) = false → t.ctx tid = s.ctx tid) ∧
    (State.launchHolds l = true → l.phase ≠ .ended → s.colourRuns (s.launchColour key) = true → s.launchOver key = true →
      l.events = [] → x.doneTag = 0 → (s.queue l.region).closing = none → (∀ e ∈ s.ctxs, s.ofLaunch key e.2 = false) →
      Completes (.launchComplete key) s fun t => t.launch? key = none ∧ t.net = s.net ∧
        (if l.diverted = true then record t 1 l.mask l.wrapvt else record t 0 (BitVec.allOnes 64) 0)) ∧
    (State.launchHolds l = true → l.phase ≠ .ended → s.launchOver key = false →
      exec (.launchComplete key) s = .next s)

/-- An uncorrectable error (R291, R297, R366) stops the fault domain that owns what it strikes, counts at its core, and
retires the core or the frame; one in state that no region owns, and a thermal trip (R368), stop every domain and leave
the device to a reset. A launch that is not placed ends too; the context whose access meets the error has its place in
XADDR. Where no region owns the place is log entry 53; which context meets an error that no queued access meets, log
entry 83. -/
def Sys2Proof.Claims.ErrorsStopDomains : Prop :=
  ∀ (s : State) (pcn : Nat),
    let counted (t : State) : Prop :=
      (t.core pcn).eccunc = (if (s.core pcn).eccunc < 0xFFFFFFFF then (s.core pcn).eccunc + 1 else (s.core pcn).eccunc) ∧
      (s.countsFused pcn = false → pcn ∈ t.fuses.newRetired ∧ UetOut.retirement pcn ∈ t.uetOut)
    let stops (t : State) (hit : Nat → Prop) : Prop := ∀ key l, s.launch? key = some l → hit (s.domainOf l.region) →
      l.phase ≠ .ended → (∀ r, (key, r) ∈ s.launches → r = l) →
      (State.launchHolds l = true → ∃ r, t.launch? key = some r ∧ r.phase = .ended ∧ r.stopStatus = 3 ∧ r.stopCause = 0x1A) ∧
      (State.launchHolds l = false → t.launch? key = none)
    (∀ l, pcn < 4096 → s.occupant? pcn = some l →
      Completes (.uncorrectableError 2 pcn) s fun t => t.dead = s.dead ∧ counted t ∧
        stops t fun d => d = s.domainOf l.region) ∧
    (pcn < 4096 → s.occupant? pcn = none →
      Completes (.uncorrectableError 2 pcn) s fun t => t.dead = true ∧ counted t ∧ stops t fun _ => True) ∧
    (∀ kind, 3 ≤ kind → Completes (.uncorrectableError kind pcn) s fun t => t.dead = true ∧ stops t fun _ => True) ∧
    (∀ p, s.net[pcn]? = some p → Completes (.uncorrectableError 1 pcn) s fun t =>
      (∀ l c, p.colour = some c → s.groupLaunches c = [l] → t.dead = s.dead ∧
        stops t fun d => d = s.domainOf l.2.region) ∧
      (p.colour = none → t.dead = true ∧ stops t fun _ => True)) ∧
    (∀ key tid serial l, key < 0x400000000 →
      (s.bank (bankOf key)).head?.map QueuedPart.source = some (.access tid serial) →
      s.occupant? (ownerOfKey key) = some l → (s.ctx tid).status ≠ .empty → (∀ e ∈ s.launches, e.2.phase ≠ .loaded) →
      (s.launchOf tid = none ∨ ∃ key' l', s.launchOf tid = some key' ∧ s.launch? key' = some l' ∧
        (∀ r, (key', r) ∈ s.launches → r = l') ∧ s.domainOf l'.region = s.domainOf l.region ∧
        State.launchHolds l' = true ∧ l'.phase ≠ .ended ∧ (s.group (s.colourOf l'.region)).phase ≠ .out) →
      Completes (.uncorrectableError 0 key) s fun t => t.dead = s.dead ∧ (t.ctx tid).status = .stopped ∧
        0x400000000 + ownerOfKey key * 2 ^ 15 ≤ (t.ctx tid).xaddr.toNat ∧
        (t.ctx tid).xaddr.toNat < 0x400000000 + (ownerOfKey key + 1) * 2 ^ 15 ∧ (t.ctx tid).regs = (s.ctx tid).regs) ∧
    (∀ key, dpaBase ≤ key → dpaMapped (key - dpaBase) = true → Completes (.uncorrectableError 0 key) s fun t =>
      (key - dpaBase) / 2 ^ 16 ∈ t.fuses.retiredFrames) ∧
    (Completes .thermalTrip s fun t => t.dead = true ∧ stops t fun _ => True)

/-- Stragglers and anti-messages roll a process back to a checkpoint. -/
def Obligations.RollbacksUndo : Prop :=
  Sys2Proof.Claims.Rollbacks

/-- GVT rounds: starts, reports, passes, results, and deferred actions. -/
def Obligations.GvtAdvances : Prop :=
  Sys2Proof.Claims.GvtRounds

/-- Launches wrap up, are cut, overrun or complete, each with its record. -/
def Obligations.LaunchesFinish : Prop :=
  Sys2Proof.Claims.LaunchesEnd

/-- Uncorrectable errors and the thermal trip stop fault domains. -/
def Obligations.ErrorsAreContained : Prop :=
  Sys2Proof.Claims.ErrorsStopDomains


/-! ## Translation, ports, time and the device's life -/

namespace Sys2Proof.Claims

/-- A tagged send: its 32-byte header and its body (R353). -/
def sendBytes (kind region tag vt floor : Nat) (body : List Byte) : List Byte :=
  bytesOfNat 1 kind ++ bytesOfNat 1 region ++ bytesOfNat 2 tag ++ bytesOfNat 4 body.length ++ bytesOfNat 8 vt ++
    bytesOfNat 8 floor ++ bytesOfNat 8 0 ++ body

/-- The device takes tagged sends: boot mode and the wipe are over (R364, R371). -/
structure PortsOpen (s : State) : Prop where
  wiping : s.wiping = false
  boot : s.bootMode = false
  phase : 3 < s.phase

/-- Of the whole device only what has left for the outside differs. -/
def Emits (i : Instr) (s : State) (o : UetOut) : Prop := exec i s = .next { s with uetOut := s.uetOut ++ [o] }

/-- Only cores may differ, and of these one. -/
structure OnlyOneCore (s t : State) (pcn : Nat) (k : CoreS) : Prop where
  device : { t with cores := s.cores } = s
  core : t.core pcn = k
  others : ∀ j, j ≠ pcn → t.core j = s.core j

/-- A core with one more packet that its firewall has dropped (R295). -/
def counted (k : CoreS) : CoreS := { k with fwdrop := if k.fwdrop < 0xFFFFFFFF then k.fwdrop + 1 else k.fwdrop }

end Sys2Proof.Claims

/-- Pagers and TCINV (R5, R295, R334, R335, R336): a record enters its pager's queue of 64, waits while it is full, or is
dropped; FQHEAD takes records from the queue; FREPLY sends a reply to the copy unit that the tag names, where it lets the
grant walk again or ends the copy, or to the front end; TCINV drops a page from every copy unit once no grant in motion holds it and
no deferred write has it pinned. A store that holds a reserved bit is ignored. -/
def Sys2Proof.Claims.PagersAndInvalidation : Prop :=
  (∀ (s s1 : State) (n va root job cl slot seq region : Nat) (write absent : Bool) (pages : List Nat) (p : Packet),
    Arrives s n p s1 → p.body = .faultRecord va root job cl slot seq region write absent pages →
    let k := s1.core p.dst
    let open' := (s.core p.dst).fwctl.getLsbD (if job = 0 then 4 else 2)
    let full := 64 ≤ (s.core p.dst).faultQueue.length
    (open' = false → Completes (.faultRecord n) s fun t => OnlyOneCore s1 t p.dst (counted k)) ∧
    (open' = true → full → exec (.faultRecord n) s = .next s) ∧
    (open' = true → ¬ full → Completes (.faultRecord n) s fun t => OnlyOneCore s1 t p.dst
      { k with faultQueue := k.faultQueue ++ [⟨va, root, job, cl, slot, seq, region, write, absent, pages⟩] })) ∧
  (∀ (s : State) (pcn v : Nat),
    let k := s.core pcn
    let big := v % 2 = 1
    let names (t : Machine.Translation) : Prop :=
      t.root = k.tcinvRoot.toNat % 2 ^ 48 ∧ (t.big = true ↔ big) ∧
        t.page = v % 2 ^ 48 / (if big then 2 ^ 21 else 2 ^ 16)
    let moving (j : Job) : Prop := (∃ x y, j.grant = .reading x y) ∨ ∃ x y, j.grant = .writing x y
    let pins (d : Deferred) : Prop := ∃ job dpa page data, d.action = .write job dpa page data ∧ names page
    let busy : Prop := (∃ e ∈ s.cores, ∃ j ∈ e.2.cpQueue, moving j ∧ ∃ t ∈ j.held, names t) ∨
      ∃ c ∈ s.allCores, ∃ d ∈ c.deferred, pins d
    let pageOk : Prop := v < 2 ^ 48 ∧ v / 2 % 2 ^ 15 = 0
    (s.isPager pcn = true →
      (v / 2 ^ 15 = 0 → v / 64 % 4 = 0 → Completes (.fqheadWrite pcn v) s fun t => OnlyOneCore s t pcn
        { k with fqhead := v % 64, faultQueue := k.faultQueue.drop ((v % 64 + 64 - k.fqhead) % 64) }) ∧
      (v < 2 ^ 34 → v / 2 ^ 32 % 4 ≠ 3 → exec (.freplyWrite pcn v) s = .next { s with
        net := s.net ++ [packet .control pcn (coreInCluster (v % 2 ^ 9) 0) none
          (.faultReply (v % 2 ^ 9) (v / 2 ^ 9 % 2 ^ 6) (v / 2 ^ 16 % 2 ^ 16) (v / 2 ^ 32 % 4))] }) ∧
      (v < 2 ^ 34 → v / 2 ^ 32 % 4 = 3 → Completes (.freplyWrite pcn v) s fun t => OnlyOneCore s t pcn (counted k))) ∧
    (s.isPager pcn = false → exec (.fqheadWrite pcn v) s = .next s ∧ exec (.freplyWrite pcn v) s = .next s) ∧
    (v / 2 ^ 15 ≠ 0 ∨ v / 64 % 4 ≠ 0 → exec (.fqheadWrite pcn v) s = .next s) ∧
    (2 ^ 34 ≤ v → exec (.freplyWrite pcn v) s = .next s) ∧
    (s.isSystem pcn = true →
      (v < 2 ^ 48 → Completes (.tcinvRootWrite pcn v) s fun t => OnlyOneCore s t pcn { k with tcinvRoot := BitVec.ofNat 64 v }) ∧
      (2 ^ 48 ≤ v → exec (.tcinvRootWrite pcn v) s = .next s) ∧
      (¬ pageOk ∨ busy → exec (.tcinvPageWrite pcn v) s = .next s) ∧
      (pageOk → ¬ busy →
        Completes (.tcinvPageWrite pcn v) s fun t => { t with clusters := s.clusters, cores := s.cores } = s ∧
          (∀ c, ∀ x, x ∈ (t.cluster c).cache ↔ x ∈ (s.cluster c).cache ∧ ¬ names x) ∧
          ∀ c, ∀ j ∈ (t.core c).cpQueue, ∀ x ∈ j.held, ¬ names x)) ∧
    (s.isSystem pcn = false →
      exec (.tcinvRootWrite pcn v) s = .next s ∧ exec (.tcinvPageWrite pcn v) s = .next s)) ∧
  (∀ (s s1 : State) (n cl slot seq outcome pcn : Nat) (j : Job) (p : Packet), Arrives s n p s1 →
    p.body = .faultReply cl slot seq outcome →
    let current := tableGet (2 ^ 16) slot (s1.cluster cl).slots
    let front := ∃ f ∈ s1.frontFaults, f.inSlot cl slot = true
    let ended (f : Job → Job) : Prop := Completes (.faultReply n) s fun t => { t with cores := s1.cores } = s1 ∧
      (∀ k, k ≠ pcn → t.core k = s1.core k) ∧
      (t.core pcn).cpQueue = (s1.core pcn).cpQueue.map fun x => if x.id = j.id then f x else x
    (current ≠ seq → exec (.faultReply n) s = .next s1) ∧
    (current = seq → front → exec (.faultReply n) s = .next { s1 with
      frontFaults := if outcome = 0 then s1.frontFaults.filter fun f => !f.inSlot cl slot
        else s1.frontFaults.map fun f => if f.inSlot cl slot then { f with outcome := some outcome } else f }) ∧
    (¬ front → (∀ k ∈ (List.range 8).map (coreInCluster cl), ∀ x ∈ (s1.core k).cpQueue, x.grant ≠ .faulted (some slot)) →
      exec (.faultReply n) s = .next s1) ∧
    (current = seq → ¬ front → pcn ∈ (List.range 8).map (coreInCluster cl) →
      (∀ k ∈ (List.range 8).map (coreInCluster cl), k ≠ pcn → ∀ x ∈ (s1.core k).cpQueue, x.grant ≠ .faulted (some slot)) →
      (s1.core pcn).cpQueue.find? (fun x => x.grant == .faulted (some slot)) = some j →
      (outcome = 0 → ended fun x => { x with grant := .none, held := [] }) ∧
      (outcome = 1 → ended fun x => { x with status := Max.max x.status 2, grant := .none, finished := true }) ∧
      (outcome = 2 → ended fun x => { x with status := Max.max x.status 3, grant := .none, finished := true })))

/-- Tagged sends (R307, R309, R314, R317, R353, R362, R364): a command is latched in order, held ahead of a gap, or
refused under flow control, as every one is behind a destroy; a tag is posted until D − W; a request with a nonce is
answered with a report, at most 2^20 times and once the device has its keys. A closed port answers with a retry code, a
malformed send or one for a region without a queue with an error. Holding LATCHED + 2 is log entry 40, the answer to a
number without a block log entry 59, a request without keys log entry 52. -/
def Sys2Proof.Claims.PortsTakeSends : Prop :=
  ∀ (s : State) (sender r tag : Nat) (body : List Byte),
    r < 256 → tag < 65536 → body.length < 2 ^ 32 →
    let command : Instr := .commandSubmission sender (sendBytes 1 r 0 0 0 body)
    let post : Instr := .tagPost sender (sendBytes 3 r tag 0 0 [])
    let request : Instr := .attestationRequest sender (sendBytes 5 r 0 0 0 body)
    let latched := memNat s.mem (dpaBase + (s.region r).queueBase - 64) 8
    let taken := memNat s.mem (dpaBase + (s.region r).queueBase - 64 + 16) 8
    let entries := (s.region r).queueEntries
    let seq := descNat body 0 8
    (PortsOpen s →
      (body.length = 64 → (s.region r).live = true → entries ≠ 0 → 64 ≤ (s.region r).queueBase →
        (seq ≤ latched → Emits command s (.ack sender)) ∧
        (latched < seq → (s.queue r).shut ≠ none ∨ (s.queue r).closing ≠ none → Emits command s (.nack sender)) ∧
        (latched + 65 < seq ∨ latched < seq ∧ taken + entries < seq → Emits command s (.nack sender)) ∧
        (seq = latched + 1 → seq ≤ taken + entries → (s.queue r).shut = none → (s.queue r).closing = none →
          let m := memWrite (dpaBase + (s.region r).queueBase - 64) (bytesOfNat 8 seq)
            (memWrite (dpaBase + ((s.region r).queueBase + 64 * (seq % entries))) body s.mem)
          (isDestroy body = false → (s.queue r).held = [] →
            exec command s = .next { s with uetOut := s.uetOut ++ [.ack sender], mem := m }) ∧
          (isDestroy body = true → Completes command s fun t => t.uetOut = s.uetOut ++ [.ack sender] ∧ t.mem = m ∧
            t.queue r = { s.queue r with shut := some seq } ∧ ∀ q, q ≠ r → t.queue q = s.queue q)) ∧
        (latched + 1 < seq → seq ≤ latched + 65 → seq ≤ taken + entries → (s.queue r).shut = none →
          (s.queue r).closing = none → (∀ h ∈ (s.queue r).held, h.1 ≠ seq) →
          Completes command s fun t => t.mem = s.mem ∧ t.uetOut = s.uetOut ++ [.ack sender] ∧
            t.queue r = { s.queue r with held := (s.queue r).held ++ [(seq, body)] } ∧
            ∀ q, q ≠ r → t.queue q = s.queue q)) ∧
      (body.length ≠ 64 ∨ (s.region r).live = false ∨ entries = 0 →
        Emits command s (.error sender)) ∧
      (tag ≠ 0 → (s.region r).live = true → Completes post s fun t => t.uetOut = s.uetOut ++ [.ack sender] ∧
        t.mem = s.mem ∧ t.ctxs = s.ctxs ∧ ∀ key l, s.launch? key = some l → t.launch? key = some
          (if l.phase = .admitted ∧ l.region = r ∧ s.now < l.spec.deadline - l.spec.budgetW then { l with waiting := l.waiting.filter (· != tag) } else l)) ∧
      (tag = 0 ∨ (s.region r).live = false → Emits post s (.error sender)) ∧
      (body.length = 32 → s.fuses.reports < 2 ^ 20 → s.fuses.deviceKeys = true → exec request s = .next { s with
        fresh := s.fresh + 1, fuses := { s.fuses with reports := s.fuses.reports + 1 }
        uetOut := s.uetOut ++ [.report sender body s.now (s.tstat + s.timeOffset.toNat * 2 ^ 32) s.lifecycle
          (sha384 ((s.running.map fun i => i.firmware.bytes).getD [])) (sha384 ((s.running.map fun i => i.table.bytes).getD []))
          s.fuses.serial (s.fuses.reports + 1) (Config.attestation s.fresh)] }) ∧
      (body.length ≠ 32 ∨ 2 ^ 20 ≤ s.fuses.reports ∨ s.fuses.deviceKeys = false → Emits request s (.error sender))) ∧
    (s.wiping = true → exec request s = .next s) ∧
    (s.wiping = true ∨ s.bootMode = true ∧ 4 ≤ s.phase ∨ s.phase ≤ 3 → ¬ (s.phase = 3 ∧ s.bootFailed = true) →
      Emits command s (.nack sender) ∧ Emits post s (.nack sender)) ∧
    (s.phase = 3 → s.bootFailed = true → Emits command s (.error sender) ∧ Emits post s (.error sender))

/-- Ingress (R91, R354, R355): a message on a bound tag raises its flow's floor, and one of kind 2 of the right length
whose VT is not below the floor as it stood offers at its event's home; a late one counts in IGLATE, one of the wrong
length or for a region that is not live in IGDROP; one on an unbound tag is held. All are held back by flow control
while the region's buffer has no room for them. The room that a message takes is log entry 41, and what stays after
wrap-up log entry 42. -/
def Sys2Proof.Claims.IngressOffers : Prop :=
  ∀ (s : State) (sender r tag vt floor : Nat) (body : List Byte),
    r < 256 → 0 < tag → tag < 65536 → body.length < 2 ^ 32 → vt < 2 ^ 64 → floor < 2 ^ 64 → PortsOpen s →
    let event : Instr := .eventIngress sender (sendBytes 2 r tag vt floor body)
    let only : Instr := .floorOnly sender (sendBytes 4 r tag 0 floor [])
    let held := s.heldIn r
    let used := (held.map fun m => 32 + m.body.length).foldl (· + ·) 0
    let unbound := ∀ b ∈ bindingsOf s r, b.tag ≠ tag
    let keeps (i : Instr) (m : HeldIngress) : Prop :=
      (used + 32 + m.body.length ≤ 262144 → exec i s = .next { s with ingress := tablePut r (held ++ [m]) s.ingress }) ∧
      (262144 < used + 32 + m.body.length → Emits i s (.nack sender))
    ((s.region r).live = true → 262144 < used + 32 + body.length → Emits event s (.nack sender)) ∧
    ((s.region r).live = true → 262144 < used + 32 → Emits only s (.nack sender)) ∧
    ((s.region r).live = false → exec event s = .next { s with
      igdrop := s.igdrop + 1, uetOut := s.uetOut ++ [.error sender] }) ∧
    ((s.region r).live = true → unbound → keeps event ⟨sender, tag, 2, vt, floor, body⟩ ∧
      keeps only ⟨sender, tag, 4, 0, floor, []⟩) ∧
    (∀ b before after, (s.region r).live = true → bindingsOf s r = before ++ b :: after → b.tag = tag →
      (∀ x ∈ before, x.tag ≠ tag) → (∀ m ∈ held, m.tag ≠ tag) → s.colourRuns (some (s.colourOf r)) = true →
      s.bindingPast b = false →
      let e := s.entry b.home b.entry
      let stood := b.floorOf sender
      let b' := { b with floors := tablePut sender (Max.max stood floor) b.floors }
      let raised : State := if e.desc.timed = true then
        { s with bindings := tablePut r ((bindingsOf s r).map fun x => if x.tag = tag then b' else x) s.bindings } else s
      (used + 32 ≤ 262144 → exec only s = .next { raised with uetOut := s.uetOut ++ [.ack sender] }) ∧
      (used + 32 + body.length ≤ 262144 →
      (body.length ≠ e.desc.size → exec event s = .next { raised with
        igdrop := s.igdrop + 1, uetOut := s.uetOut ++ [.error sender] }) ∧
      (body.length = e.desc.size → e.desc.timed = true → vt < stood → exec event s = .next { raised with
        iglate := s.iglate + 1, uetOut := s.uetOut ++ [.error sender] }) ∧
      (body.length = e.desc.size → (e.desc.timed = true → stood ≤ vt) → ∃ u : State,
        u.entry b.home b.entry = { e with
          standing := e.standing ++ [⟨body, if e.desc.timed = true then vt else 0, none⟩] } ∧
        u.uetOut = s.uetOut ++ [.ack sender] ∧ u.bindings = raised.bindings ∧ u.ctxs = s.ctxs ∧ u.mem = s.mem ∧
        exec event s = .next (u.tryResolve b.home b.entry))))

/-- RMA (R333, R335, R336, R339, R351, R352, R356): bytes go through the region's page table, each write setting its
page's dirty bit; a pager is asked for a page that is not resident, once, and the RMA waits; it is refused where the
pager has refused the page, in boot mode, for a region that is not live, outside the region's off-chip space, and with a
mode that is not supported. A router's window of load counts ends after 1,024 cycles (R343). That an access waits for
its pages is log entry 36; the slot and the fields of its fault record, log entry 82; the modes, log entry 56; the
counts come with the event (log entry 9). -/
def Sys2Proof.Claims.RmaAndLoadWindows : Prop :=
  (∀ (s : State) (mode sender r va : Nat) (b : Byte) (bytes : List Byte),
    let root := s.rootOf r
    let closed (n : Nat) : Prop := mode ≠ 0 ∨ (s.region r).live = false ∨ s.bootMode = true ∨ va < 2 ^ 48 ∨ 2 ^ 49 - 2 ^ 40 < va + n
    let forms : List (Instr × Bool) := [(.rmaWrite ⟨mode, sender⟩ r va bytes, true), (.rmaRead ⟨mode, sender⟩ r va bytes.length, false)]
    (closed bytes.length → ∀ x ∈ forms, Emits x.1 s (.error sender)) ∧
    (¬ closed 1 → ∀ e, walk s.mem root (va % 2 ^ 48) = .found e → e.present = true → e.writable = true →
      exec (.rmaWrite ⟨mode, sender⟩ r va [b]) s = .next { s with
        uetOut := s.uetOut ++ [.ack sender]
        mem := memPut (dpaBase + e.dpa (va % 2 ^ 48)) b (if e.dirty = true then s.mem else
          memWrite (dpaBase + e.loc + 8) (bytesOfNat 8 (memNat s.mem (dpaBase + e.loc + 8) 8 + 8)) s.mem) }) ∧
    (¬ closed bytes.length →
      ((∀ a ∈ pageStarts va bytes.length, s.frontPage root a true = .ready) →
        exec (.rmaWrite ⟨mode, sender⟩ r va bytes) s = .next { s with
          uetOut := s.uetOut ++ [.ack sender], mem := (s.rmaWrite root va bytes).mem }) ∧
      ((∀ a ∈ pageStarts va bytes.length, s.frontPage root a false = .ready) →
        exec (.rmaRead ⟨mode, sender⟩ r va bytes.length) s = .next { s with
          uetOut := s.uetOut ++ [.data sender ((List.range bytes.length).map fun k =>
            ((translate? s.mem root (va + k)).map fun d => memGet (dpaBase + d) s.mem).getD 0)] }) ∧
      (∀ x ∈ forms, ∀ before a after, pageStarts va bytes.length = before ++ a :: after →
        (∀ y ∈ before, s.frontPage root y x.2 = .ready) →
        (s.frontPage root a x.2 = .refused → Emits x.1 s (.error sender)) ∧
        (s.frontPage root a x.2 = .wait →
          let page := a % 2 ^ 48 / 2 ^ 16
          let mine (f : FrontFault) : Bool := f.root == root && f.page == page
          let cl := clusterOf s.frontEnd
          let seq := (s.cluster cl).faultSeq % 2 ^ 16
          (∀ f o, s.frontFaults.find? mine = some f → f.outcome = some o → exec x.1 s = .next { s with
            frontFaults := s.frontFaults.filter fun f => !mine f, uetOut := s.uetOut ++ [.error sender] }) ∧
          (∀ f, s.frontFaults.find? mine = some f → f.outcome = none → exec x.1 s = .next s) ∧
          (s.frontFaults.find? mine = none → s.freeSlot? cl = none → exec x.1 s = .next s) ∧
          (∀ slot pager, s.frontFaults.find? mine = none → s.freeSlot? cl = some slot →
            s.pagerOf? root (a % 2 ^ 48) = some pager → Completes x.1 s fun t => t.uetOut = s.uetOut ∧ t.mem = s.mem ∧
              t.ctxs = s.ctxs ∧ t.frontFaults = s.frontFaults ++ [⟨cl, slot, seq, root, page, x.2, none⟩] ∧
              (t.cluster cl).slots = tablePut slot seq (s.cluster cl).slots ∧
              t.net = s.net ++ [packet .control s.frontEnd pager none (.faultRecord (a % 2 ^ 48) root 0 cl slot seq r x.2
                (match walk s.mem root (a % 2 ^ 48) with | .found _ => true | _ => false) [])])))) ∧
    s.rmaWrite root va (b :: bytes) = ((s.rmaPut root va b).rmaWrite root (va + 1) bytes)) ∧
  (∀ (s : State) (pcn a b c d : Nat), a ≤ 1024 → b ≤ 1024 → c ≤ 1024 → d ≤ 1024 →
    (pcn < 4096 → (s.core pcn).cyc % 1024 = 0 → Completes (.loadWindowEnd pcn a b c d) s fun t =>
      ∃ k, OnlyOneCore s t pcn { s.core pcn with
        rload := BitVec.ofNat 64 ((if packageY pcn < 63 then a else 0) + (if packageX pcn < 63 then b else 0) * 2 ^ 16 +
          (if 0 < packageY pcn then c else 0) * 2 ^ 32 + (if 0 < packageX pcn then d else 0) * 2 ^ 48), imbalance := k } ∧
      (0 < packageX pcn → packageX pcn < 63 → 0 < packageY pcn → packageY pcn < 63 →
        k = Max.max (Max.max a b) (Max.max c d) - Min.min (Min.min a b) (Min.min c d))) ∧
    (4096 ≤ pcn ∨ (s.core pcn).cyc % 1024 ≠ 0 → exec (.loadWindowEnd pcn a b c d) s = .next s))

/-- Device time (R106, R357, R358): a PTP message measures the offset and locks or begins to acquire; the first lock
steps NOW while no launch is placed; an offset of 1 ms or more is stepped away; NOW never decreases, so it stays where
it is ahead; a lost master leaves the device in holdover for 60 s at most. That NOW stays where it is ahead is log entry
51. -/
def Sys2Proof.Claims.DeviceTime : Prop :=
  ∀ (s : State) (time locked : Nat),
    let d : Int := (s.now : Int) - time
    let idle := ∀ e ∈ s.launches, State.holdsResources e.2 = false
    let slack := (s.timeOffset.toInt < 1000000 ∧ -1000000 < s.timeOffset.toInt)
    (locked = 1 → s.everLocked = true ∨ s.config.freeRun = true ∨ ¬ idle → -(2 ^ 31) ≤ d → d < 2 ^ 31 →
      exec (.ptpMessage time locked) s = .next { s with timeOffset := BitVec.ofInt 32 d, tstat := 2, everLocked := true }) ∧
    (locked = 1 → s.everLocked = false → s.config.freeRun = false → idle →
      (s.now ≤ time % 2 ^ 64 → exec (.ptpMessage time locked) s = .next { s with
        timeOffset := 0, tstat := 2, everLocked := true, now := time % 2 ^ 64 }) ∧
      (time % 2 ^ 64 < s.now → Completes (.ptpMessage time locked) s fun t => t.now = s.now ∧ t.tstat = 2 ∧ t.everLocked = true ∧
        (s.now - time % 2 ^ 64 < 2 ^ 31 → t.timeOffset.toNat = s.now - time % 2 ^ 64))) ∧
    (locked ≠ 1 → -(2 ^ 31) ≤ d → d < 2 ^ 31 → exec (.ptpMessage time locked) s = .next { s with
      timeOffset := BitVec.ofInt 32 d, tstat := if s.tstat = 2 then 2 else 1 }) ∧
    (2 ^ 31 ≤ d → Completes (.ptpMessage time 0) s fun t => t.timeOffset = 0x7FFFFFFF) ∧
    (d < -(2 ^ 31) → Completes (.ptpMessage time 0) s fun t => t.timeOffset = 0x80000000) ∧
    (s.everLocked = true → s.config.freeRun = false → ¬ slack → idle →
      (s.now ≤ time % 2 ^ 64 → exec (.nowStep time) s = .next { s with now := time % 2 ^ 64, timeOffset := 0 }) ∧
      (time % 2 ^ 64 < s.now → Completes (.nowStep time) s fun t => t.now = s.now ∧
        (s.now - time % 2 ^ 64 < 2 ^ 31 → t.timeOffset.toNat = s.now - time % 2 ^ 64))) ∧
    (s.everLocked = false ∨ s.config.freeRun = true ∨ slack ∨ ¬ idle → exec (.nowStep time) s = .next s) ∧
    (s.tstat = 2 → exec .masterLost s = .next { s with tstat := 3, holdoverSince := s.now }) ∧
    (s.tstat ≠ 2 → exec .masterLost s = .next s) ∧
    (s.tstat = 3 → s.holdoverSince + 60000000000 ≤ s.now → exec .holdoverExpire s = .next { s with tstat := 4 }) ∧
    (s.tstat ≠ 3 ∨ s.now < s.holdoverSince + 60000000000 → exec .holdoverExpire s = .next s)

/-- Fault records, FQHEAD, FREPLY and TCINV. -/
def Obligations.PagersAndTranslations : Prop :=
  Sys2Proof.Claims.PagersAndInvalidation

/-- Tagged sends, RMA through the page table, and the router load window. -/
def Obligations.PortsAndRma : Prop :=
  Sys2Proof.Claims.PortsTakeSends ∧ Sys2Proof.Claims.RmaAndLoadWindows

/-- Ingress messages raise floors, offer at their event, or are held. -/
def Obligations.IngressReachesEvents : Prop :=
  Sys2Proof.Claims.IngressOffers


/-! ## Commands and placement -/

namespace Sys2Proof.Claims

/-- A command as its 64 bytes (R307, R308). -/
def commandBytes (n kind flags a b : Nat) : List Byte :=
  bytesOfNat 8 n ++ bytesOfNat 1 kind ++ bytesOfNat 1 flags ++ bytesOfNat 6 0 ++ bytesOfNat 8 a ++ bytesOfNat 8 b ++
    List.replicate 32 0

/-- Firmware processes command n of a region's queue next: it is latched, no effect waits to be taken, CURSOR stands at the last one
handed over, and no destroy has been taken (R309, R310, R317). -/
structure Processes (s : State) (r n : Nat) (bs : List Byte) : Prop where
  queue : (s.region r).live = true ∧ (s.region r).queueEntries ≠ 0 ∧ s.dead = false
  taken : (s.queue r).effects = [] ∧ (s.queue r).handed ≤ s.cursor r ∧ (s.queue r).closing = none
  number : n = match (s.queue r).batch with
    | some b => b + 1 + (s.queue r).members.length
    | none => s.cursor r + 1
  latched : n ≤ s.latched r
  entry : bs = memBytes s.mem (dpaBase + ((s.region r).queueBase + 64 * (n % (s.region r).queueEntries))) 64

/-- A state in which a command has come to an effect: a member of the open batch, or handed to the front end. -/
def yielded (u : State) (r n : Nat) (e : Effect) : State :=
  u.modQueue r fun q =>
    match q.batch with
    | some _ => { q with members := q.members ++ [(n, e)] }
    | none => { q with effects := q.effects ++ [(n, [e])], handed := n }

/-- A command comes to an effect. -/
def Yields (i : Instr) (s u : State) (r n : Nat) (e : Effect) : Prop := exec i s = .next (yielded u r n e)

/-- A launch command comes to an effect, and the switches that windows need are decided (R318). -/
def YieldsLaunch (i : Instr) (s u : State) (r n : Nat) (e : Effect) : Prop :=
  exec i s = .next (yielded u r n e).switchForWindows

/-- A launch that firmware reads from a record with deadline D (R303, R310). -/
def launchOfRecord (s : State) (r n : Nat) (descs : List Nat) (rec : List Byte) (D : Nat) : Launch :=
  newLaunch r n (recordOf rec D) descs s.now

/-- The bytes that a completion record shows (R306). -/
def recordBytesOf (seq status detail detail2 now : Nat) : List Byte :=
  bytesOfNat 8 seq ++ bytesOfNat 1 status ++ bytesOfNat 1 detail ++ bytesOfNat 2 detail2 ++ bytesOfNat 4 0 ++
    bytesOfNat 8 0 ++ bytesOfNat 8 now ++ bytesOfNat 32 0

/-- A context has been halted, or may go on (R326). -/
def HaltsAt (s t : State) (tid : Nat) (halted : Bool) : Prop :=
  t.ctx tid = { s.ctx tid with halted := halted } ∧ (∀ k, k ≠ tid → t.ctx k = s.ctx k) ∧ t.net = s.net

end Sys2Proof.Claims

/-- Firmware (R307, R308, R310, R311, R325, R326): a launch is validated and admitted, or refused with its reason;
`begin` opens a batch and `commit` hands over all its members, or refuses them all when one has failed; the other
commands become effects; a malformed command is refused with reason 9. A page of the record, of the image or of the
completion record that is not resident is asked for, and the command waits; that of the completion record is pinned
(R339). The descriptors' offsets come with the command (log entry 38); reason 9 for a malformed command is log entry 44;
a page that cannot come, log entry 82. -/
def Sys2Proof.Claims.CommandsAreProcessed : Prop :=
  (∀ (s : State) (r n D : Nat) (va : Nat) (descs : List Nat), Processes s r n (commandBytes n 1 0 va D) →
    D < 2 ^ 64 → va < 2 ^ 64 → n < 2 ^ 64 →
    let i : Instr := .launch r descs
    (offchipLine va = false → YieldsLaunch i s s r n (.refuse n 0 1 0)) ∧
    let read := s.frontPages r (State.pagesOf va 128 false)
    (offchipLine va = true → read.1 = .wait → exec i s = .next read.2) ∧
    (offchipLine va = true → read.1 = .refused → YieldsLaunch i s read.2 r n (.refuse n 0 1 0)) ∧
    (∀ rec, offchipLine va = true → read.1 = .ready → s.readLines (s.rootOf r) va 2 = some rec →
      let l := launchOfRecord s r n descs rec D
      let x := l.spec
      let asked := s.frontPages r ((if offchipLine x.record = true then [(x.record, true)] else []) ++
        if recordOk rec x = true then State.pagesOf x.image x.imageLen false else [])
      (asked.1 = .wait → exec i s = .next asked.2) ∧
      (asked.1 = .refused → YieldsLaunch i s asked.2 r n (.refuse n x.record 1 0)) ∧
      (asked.1 = .ready →
        let u := if offchipLine x.record = true then s.pinRecord r n x.record else s
        (recordOk rec x = false → YieldsLaunch i s u r n (.refuse n x.record 1 0)) ∧
        (∀ image reason, recordOk rec x = true → s.readLines (s.rootOf r) x.image (x.imageLen / 64) = some image →
          (u.refusal? l rec image = some reason → YieldsLaunch i s u r n (.refuse n x.record reason 0)) ∧
          (u.refusal? l rec image = none →
            ((s.queue r).batch ≠ none → YieldsLaunch i s u r n (.admission l)) ∧
            ((s.queue r).batch = none →
              let key := n * 256 + r
              (u.isGuaranteed r = false → YieldsLaunch i s u r n (.admission l)) ∧
              (∀ w, u.isGuaranteed r = true → u.reservations.find? (fun w => w.1 == key) = some w →
                YieldsLaunch i s u r n (.admission { l with window := some w.2.2.1 })) ∧
              (u.isGuaranteed r = true → u.reservations.find? (fun w => w.1 == key) = none →
                (u.windowStart? l = none → YieldsLaunch i s u r n (.refuse n x.record 5 0)) ∧
                (∀ st, u.windowStart? l = some st → YieldsLaunch i s
                  { u with reservations := u.reservations ++ [(key, r, st, D, coreCount x)] } r n
                  (.admission { l with window := some st }))))))))) ∧
  (∀ (s : State) (r n flags a b : Nat), a < 2 ^ 64 → b < 65536 → n < 2 ^ 64 →
    (∀ kind (descs : List Nat), kind < 256 → kind = 0 ∨ 8 < kind →
      Processes s r n (commandBytes n kind flags a b) → Yields (.launch r descs) s s r n (.refuse n 0 9 0)) ∧
    (Processes s r n (commandBytes n 2 0 0 0) →
      ((s.queue r).batch = none →
        exec (.begin r) s = .next (s.modQueue r fun q => { q with batch := some n, members := [] })) ∧
      ((s.queue r).batch ≠ none → Yields (.begin r) s s r n (.refuse n 0 9 0))) ∧
    (Processes s r n (commandBytes n 3 0 a 0) →
      ((s.queue r).batch = none → Yields (.commit r) s s r n (.refuse n a 9 0)) ∧
      ((s.queue r).batch ≠ none → ∀ before after m e reason, (s.queue r).members = before ++ (m, e) :: after →
        (∀ x ∈ before, failure? x.2 = none) → failure? e = some reason → Completes (.commit r) s fun t =>
          t.queue r = { s.queue r with batch := none, members := [], handed := n, effects := [(n,
            (before.map fun x => .refuse x.1 (State.memberRecord x.2) 8 before.length) ++
            [.refuse m (State.memberRecord e) reason before.length] ++
            (after.map fun x => .refuse x.1 (State.memberRecord x.2) 8 before.length) ++
            [.refuse n a reason before.length])] }) ∧
      ((s.queue r).batch ≠ none → (∀ x ∈ (s.queue r).members,
          ∃ l : Launch, x.2 = .admission l ∧ s.isGuaranteed l.region = false) → Completes (.commit r) s fun t => t.queue r = { s.queue r with
          batch := none, members := [], handed := n, effects := [(n, (s.queue r).members.map Prod.snd)] })) ∧
    (flags < 2 → Processes s r n (commandBytes n 4 flags a 0) →
      ((s.queue r).batch = none → Yields (.destroy r) s s r n (.destroy (decide (flags = 1)) a)) ∧
      ((s.queue r).batch ≠ none → Yields (.destroy r) s ((s.modQueue r fun q => { q with shut := none }).latchHeld r 65) r n
        (.destroy (decide (flags = 1)) a))) ∧
    (2 ≤ flags → flags < 256 → Processes s r n (commandBytes n 4 flags a 0) →
      Yields (.destroy r) s s r n (.refuse n a 9 0)) ∧
    (∀ x ∈ [(5, Instr.haltProcess r, Effect.halt), (6, Instr.resumeProcess r, Effect.resume)],
      Processes s r n (commandBytes n x.1 0 a b) →
        (s.rankRuns (a * 256 + r) b = true → Yields x.2.1 s s r n (x.2.2 (a * 256 + r) b)) ∧
        (s.rankRuns (a * 256 + r) b = false → Yields x.2.1 s s r n (.refuse n 0 9 0))) ∧
    (∀ x ∈ [(7, Instr.freeze r, Effect.freeze), (8, Instr.thaw r, Effect.thaw)],
      Processes s r n (commandBytes n x.1 0 0 a) →
        ((s.region r).debug = true → Yields x.2.1 s s r n (x.2.2 a)) ∧
        ((s.region r).debug = false → Yields x.2.1 s s r n (.refuse n 0 9 0))))

/-- Validation gives the lowest reason that applies (R310): a field of the record, the local-store charge, the cores of
the whole budget, the end of the deadline, and `ranks=all` of more than 16 ranks. That the lowest is reported, and what
is charged, is log entry 39. -/
def Sys2Proof.Claims.ValidationReasons : Prop :=
  ∀ (s : State) (l : Launch) (bs image : List Byte),
    let x := l.spec
    let whole (i : Nat) (own : Region → Nat) (n : Nat) : Prop := ∀ r ∈ s.lineage l.region, n ≤ s.effective i own r
    let charge := chargedBytes x (Min.min (if x.place = 0 ∧ x.timed = false then 15 else 1) x.n)
    let needs : Prop := whole 0 Region.cores (coreCount x) ∧ (x.place = 3 →
      rectFits x.rect = true ∧ (s.rectCores x.rect).length = x.n)
    let budgets : Prop := whole 1 Region.slots x.n ∧ whole 2 Region.kib (launchKib x) ∧ whole 4 Region.arb l.descs.length
    let all (off : Nat) : Prop := descNat (image.drop off) 4 4 / 32 % 2 = 0 ∧ descNat (image.drop off) 10 2 = 0 ∧
      ∀ i < 32, descNat (image.drop off) (16 + i) 1 = 0
    (s.refusal? l bs image = some 1 ↔ recordOk bs x = false) ∧
    (s.refusal? l bs image = some 2 ↔ recordOk bs x = true ∧ 0x20000 < charge) ∧
    (s.refusal? l bs image = some 3 ↔ recordOk bs x = true ∧ charge ≤ 0x20000 ∧ ¬ needs) ∧
    (s.refusal? l bs image = some 4 ↔ recordOk bs x = true ∧ charge ≤ 0x20000 ∧ needs ∧ ¬ budgets) ∧
    (s.refusal? l bs image = some 6 ↔ recordOk bs x = true ∧ charge ≤ 0x20000 ∧ needs ∧ budgets ∧
      x.deadline - x.budgetW ≤ s.now) ∧
    (s.refusal? l bs image = some 7 ↔ recordOk bs x = true ∧ charge ≤ 0x20000 ∧ needs ∧ budgets ∧
      s.now < x.deadline - x.budgetW ∧ 16 < x.n ∧ ∃ off ∈ l.descs, all off) ∧
    (s.refusal? l bs image = none → recordOk bs x = true ∧ charge ≤ 0x20000 ∧ needs ∧ budgets ∧
      s.now < x.deadline - x.budgetW)

/-- The front end takes an effect (R303, R306, R309, R317, R325, R326, R358): TAKEN takes its number, and it happens: a
launch whose record is as it was validated is admitted, a refusal recorded, a destroy closes the queue, a process is
halted at an instruction boundary or goes on, a group is told to freeze, or its thaw is set, at least 20 µs ahead. It
waits in a frozen group, but for the thaw; one that is not above TAKEN is ignored. Then firmware writes CURSOR. What
memory reads is said of memory in its canonical form. That one command of a queue is processed at a time is log entry
43; what waits for what, log entries 45 and 46; a record that has changed since validation, log entry 81; a time nearer
than 20 µs, log entry 79. -/
def Sys2Proof.Claims.EffectsAreTaken : Prop :=
  (∀ (s : State) (r n : Nat) (e : Effect) (rest : List (Nat × List Effect)),
    (s.region r).live = true → (s.region r).queueEntries ≠ 0 → s.dead = false → (s.queue r).effects = (n, [e]) :: rest →
    64 ≤ (s.region r).queueBase → n < 2 ^ 64 → memWf s.mem = true →
    let g := s.group (s.colourOf r)
    let frozen := g.frozen = true ∧ g.phase = .stopped
    let free := s.config.freeRun = true ∨
      s.everLocked = true ∧ -1000000 < s.timeOffset.toInt ∧ s.timeOffset.toInt < 1000000
    let taken := dpaBase + (s.region r).queueBase - 64 + 16
    let entry := dpaBase + ((s.region r).queueBase + 64 * (n % (s.region r).queueEntries))
    let kind := memNat s.mem (entry + 8) 1
    let apart (a k : Nat) : Prop := ∀ p ∈ s.pinned, ∀ i < k, dpaBase + p + 8 ≠ a + i
    let u : State := { (s.modQueue r fun q => { q with effects := rest }) with mem := memWrite taken (bytesOfNat 8 n) s.mem }
    let counted (t : State) : Prop := memNat t.mem taken 8 = n ∧ t.ctxs = s.ctxs
    (n ≤ memNat s.mem taken 8 → Completes (.effectTake r) s fun t => t.launches = s.launches ∧ t.ctxs = s.ctxs ∧
      t.net = s.net ∧ (t.queue r).effects = rest) ∧
    (memNat s.mem taken 8 < n →
      (∀ l, e = .admission l → ¬ frozen → free →
        ((∀ rec, u.readLines (s.rootOf r) (memNat u.mem (dpaBase + ((s.region r).queueBase +
            64 * (l.seq % (s.region r).queueEntries)) + 16) 8) 2 = some rec →
            recordOk rec l.spec = true ∧ recordOf rec l.spec.deadline = l.spec) →
          Completes (.effectTake r) s fun t => counted t ∧ t.launch? (l.seq * 256 + r) = some l ∧
            (t.queue r).effects = rest ∧ t.net = s.net) ∧
        (∀ reason, u.copyRecord r l = .inr reason → Completes (.effectTake r) s fun t => t.ctxs = s.ctxs ∧
          t.launches = s.launches ∧ (t.queue r).effects = rest ∧ ∀ w ∈ t.reservations, w.1 ≠ l.seq * 256 + r)) ∧
      (∀ seq record reason index, e = .refuse seq record reason index → ¬ frozen → kind ≠ 1 →
        (offchipLine record = false → apart taken 8 → Completes (.effectTake r) s fun t => counted t ∧
          t.launches = s.launches) ∧
        (∀ d, offchipLine record = true → translate? u.mem (s.rootOf r) record = some d → apart (dpaBase + d) 64 →
          Completes (.effectTake r) s fun t => ∀ i < 64, memGet (dpaBase + d + i) t.mem =
            (recordBytesOf seq 4 reason index s.now).getD i 0)) ∧
      (∀ record, e = .destroy false record → ¬ frozen → kind ≠ 1 → (∃ x ∈ s.launches, x.2.region = r ∧ x.2.phase ≠ .ended) →
        (∀ x ∈ s.launches, x.2.region = r → x.2.phase ≠ .loaded) → Completes (.effectTake r) s fun t => counted t ∧
          (t.queue r).closing = some (false, record, n) ∧ (t.queue r).held = [] ∧ t.launches = s.launches) ∧
      (∀ record l key, e = .destroy true record → ¬ frozen → kind ≠ 1 → s.launches = [(key, l)] → l.region = r →
        l.phase = .running → g.phase ≠ .out → Completes (.effectTake r) s fun t =>
          t.launch? key = some { l with phase := .ended, stopStatus := 5, stopCause := 0, stopPcn := 0 } ∧
          ∀ tid, s.ofLaunch key (s.ctx tid) = true → (t.ctx tid).status = .stopped) ∧
      (∀ key rank tid, e = .halt key rank → ¬ frozen → kind ≠ 1 → s.contextOf? (procKey key rank) = some tid →
        (atBoundary (s.ctx tid) = true → Completes (.effectTake r) s fun t => memNat t.mem taken 8 = n ∧ HaltsAt s t tid true) ∧
        (atBoundary (s.ctx tid) = false → exec (.effectTake r) s = .next s)) ∧
      (∀ key rank tid, e = .resume key rank → ¬ frozen → kind ≠ 1 → s.contextOf? (procKey key rank) = some tid →
        State.badStatus (s.ctx tid) = false → Completes (.effectTake r) s fun t =>
          memNat t.mem taken 8 = n ∧ HaltsAt s t tid false) ∧
      (∀ time, e = .freeze time → g.phase = .running → kind ≠ 1 →
        let at' := Max.max time (s.now + 20000)
        Completes (.effectTake r) s fun t => counted t ∧
          t.group (s.colourOf r) = { g with phase := .notified, time := at', frozen := true } ∧
          t.net = s.net ++ (s.groupCores (s.colourOf r)).map fun pcn =>
            packet .control s.frontEnd pcn none (.switchNotice (s.colourOf r) at')) ∧
      (∀ time, e = .thaw time → g.frozen = true → kind ≠ 1 → Completes (.effectTake r) s fun t => counted t ∧
        t.group (s.colourOf r) = { g with resume := some (Max.max time (s.now + 20000)) } ∧ t.net = s.net) ∧
      (frozen → (∀ time, e ≠ .thaw time) → exec (.effectTake r) s = .next s))) ∧
  (∀ (s : State) (r : Nat), (s.region r).live = true → (s.region r).queueEntries ≠ 0 → s.dead = false →
    (s.queue r).effects = [] →
    let handed := (s.queue r).handed
    (s.cursor r < handed → handed ≤ s.taken r → exec (.effectTake r) s = .next { s with
      mem := memWrite (dpaBase + ((s.region r).queueBase - 64) + 8) (bytesOfNat 8 handed) s.mem }) ∧
    (handed ≤ s.cursor r ∨ s.taken r < handed → exec (.effectTake r) s = .next s))

/-- Firmware processes every command, and validation gives the lowest reason. -/
def Obligations.CommandsAreValidated : Prop :=
  Sys2Proof.Claims.CommandsAreProcessed ∧ Sys2Proof.Claims.ValidationReasons

/-- The front end takes effects in order, each with what it does. -/
def Obligations.EffectsHappen : Prop :=
  Sys2Proof.Claims.EffectsAreTaken


/-! ## Placement and operating points -/

namespace Sys2Proof.Claims

/-- A launch that is ready to be placed (R314, R315): admitted, with no tag outstanding, its group neither out nor frozen, and
before D − W. -/
structure Ready (s : State) (l : Launch) : Prop where
  phase : l.phase = .admitted
  tags : l.waiting = []
  group : s.colourRuns (some (s.colourOf l.region)) = true
  time : s.now < l.spec.deadline - l.spec.budgetW

/-- The window of a launch has opened. -/
def Opened (s : State) (l : Launch) : Prop := ∃ st, l.window = some st ∧ st ≤ s.now

/-- A launch goes before another at a placement unit (R316): less slack, then the higher class, then the lower number. -/
def Before (s : State) (a b : Launch) : Prop :=
  s.slackOf a < s.slackOf b ∨ s.slackOf a = s.slackOf b ∧
    (s.prioOf b.region < s.prioOf a.region ∨ s.prioOf a.region = s.prioOf b.region ∧ a.seq < b.seq)

/-- A die's unit decides for a launch (R316): none that fits on the die goes before it, and at every 64th decision it is the
one that has waited longest. -/
def Decides (s : State) (die key : Nat) (l : Launch) : Prop :=
  ∀ e ∈ s.launches, Ready s e.2 → ¬ Opened s e.2 → e.1 ≠ key →
    if tableGet 0 die s.dieDecisions % 64 = 63 then
      l.validated < e.2.validated ∨ l.validated = e.2.validated ∧ l.seq ≤ e.2.seq
    else ¬ (s.fitsOn die e.1 e.2 = true ∧ Before s e.2 l)

/-- Cores that serve for a launch (R304, R315, R382): free user cores in rising order, as many as it needs, in its shape, within
every budget of its region and the regions above. -/
structure Serve (s : State) (l : Launch) (cores : List Nat) : Prop where
  rising : cores.Pairwise (· < ·)
  free : ∀ p ∈ cores, s.isUser p = true ∧ s.countsFused p = false ∧ s.coreFree p = true
  count : cores.length = coreCount l.spec
  shape : s.shapeOk l.spec cores = true
  budgets : s.budgetsAllow l = true

/-- Cores that a launch needs of a group (R304, R318): those of its rectangle; any, when those that it may take are too few. -/
def Needs (s : State) (l : Launch) (colour : Nat) : Prop :=
  if l.spec.place = 3 then ∃ p ∈ s.groupCores colour, p ∈ s.rectCores l.spec.rect
  else (s.choice l).length < coreCount l.spec ∨ s.opportunisticRoom (coreCount l.spec) = false

/-- Registers of a process at its entry (R29, R305): g2 the end of its allocation, g3 its start, g4 its size. -/
def entryG (l : LaunchRec) (rank : Nat) (r : GReg) : Word :=
  let share := if l.place = 0 ∧ l.timed = false then 15 else 1
  let base := (l.imageLen + 63) / 64 * 64 + rank % share * ((l.lsBytes + 63) / 64 * 64)
  if r = 2 then BitVec.ofNat 64 (base + l.lsBytes)
  else if r = 3 then BitVec.ofNat 64 base
  else if r = 4 then BitVec.ofNat 64 l.lsBytes else 0

end Sys2Proof.Claims

/-- Placement decisions (R314, R316, R318): a ready launch of a guaranteed region is chosen once its window opens;
before that a placement unit chooses it on cores that serve, in least-slack order, and its window moves up; each
decision counts on the dies of its cores. A launch of a region that is not guaranteed, for which the unit finds no
cores, switches out a group of a lower class that holds cores it needs, at a time at least 20 µs away. The cores and the
time come with the decision (log entry 48); which group is switched is log entry 47; a time nearer than 20 µs, log entry
79. -/
def Sys2Proof.Claims.PlacementIsDecided : Prop :=
  ∀ (s : State) (key : Nat) (l : Launch), s.launch? key = some l →
    (Ready s l → Opened s l → exec (.windowOpen key) s = .next (s.setLaunch key { l with phase := .chosen })) ∧
    (¬ Ready s l ∨ ¬ Opened s l → exec (.windowOpen key) s = .next s) ∧
    (∀ (die time : Nat) (cores : List Nat),
      let chosen := Serve s l cores ∧ s.decisionAllowed key l cores = true ∧ die ∈ cores.map dieOf ∧
        ∀ d ∈ cores.map dieOf, Decides s d key l
      let gives (c : Nat) : Prop :=
        s.victim? (fun x => decide (s.groupClass x < s.prioOf l.region) && s.needsCoresOf l x) = some c
      (¬ Ready s l ∨ Opened s l ∨ ¬ Decides s die key l → exec (.placementDecision die key time cores) s = .next s) ∧
      (Ready s l → ¬ Opened s l → Decides s die key l →
        (chosen → Completes (.placementDecision die key time cores) s fun t =>
          t.launch? key = some { l with phase := .chosen, window := if l.window.isSome = true then some s.now else none } ∧
          (∀ d, tableGet 0 d t.dieDecisions = tableGet 0 d s.dieDecisions + if d ∈ cores.map dieOf then 1 else 0) ∧
          { t with launches := s.launches, reservations := s.reservations, dieDecisions := s.dieDecisions } = s) ∧
        (¬ chosen → s.isGuaranteed l.region = true ∨ time < s.now + 20000 ∨ (∀ c, ¬ gives c) →
          exec (.placementDecision die key time cores) s = .next s) ∧
        (∀ c, ¬ chosen → s.isGuaranteed l.region = false → s.now + 20000 ≤ time → gives c →
          exec (.placementDecision die key time cores) s = .next (s.notify c time false) ∧ s.canSwitch c = true ∧
            s.groupClass c < s.prioOf l.region ∧ Needs s l c)))

/-- Placement (R28, R29, R33, R118, R294, R304, R305, R315): before D − W, steps 1 and 2 write the image into every
core, zero above it (the model's choice, notes/assumptions/54.md), and give each rank its place; an image that is not
resident is asked for; step 3, while the group runs, starts every process at its entry, at one device time, once each
die has its frequency class. What memory reads is said of memory in its canonical form. The cores come with the
placement (log entry 48); the slots are log entry 49. -/
def Sys2Proof.Claims.LaunchesArePlaced : Prop :=
  ∀ (s : State) (key : Nat) (l : Launch), s.launch? key = some l →
    let intime := s.now < l.spec.deadline - l.spec.budgetW
    let runs := s.colourRuns (some (s.colourOf l.region)) = true
    (l.phase ≠ .chosen ∨ ¬ intime → ∀ cores, exec (.placement key cores) s = .next s) ∧
    (∀ (cores : List Nat) (image : List Byte), l.phase = .chosen → intime → (∀ p ∈ s.lmap, s.countsFused p = false ∧ p < 4096) →
      (s.readLines (s.rootOf l.region) l.spec.image (l.spec.imageLen / 64) = none →
        exec (.placement key cores) s = .next (s.frontPages l.region (State.pagesOf l.spec.image l.spec.imageLen false)).2) ∧
      (s.readLines (s.rootOf l.region) l.spec.image (l.spec.imageLen / 64) = some image →
        (¬ Serve s l cores → exec (.placement key cores) s = .next (s.setLaunch key { l with phase := .admitted })) ∧
        (Serve s l cores → l.descs = [] → l.spec.rankTab = none → image.length ≤ 0x20000 →
          Completes (.placement key cores) s fun t =>
            t.launch? key = some { l with
              phase := .loaded, cores := cores, lmap := s.lmap, ranks := (List.range l.spec.n).map fun i =>
                let share := if l.spec.place = 0 ∧ l.spec.timed = false then 15 else 1
                cores.getD (i / share) 0 * 16 + 1 + i % share } ∧
            (memWf s.mem = true → ∀ p ∈ cores, ∀ i < 0x20000,
              memGet (0x100000000 + p * 0x20000 + i) t.mem = image.getD i 0) ∧
            (∀ p ∈ cores, (t.core p).spillSize = (if l.spec.spill = 0 then 64 else l.spec.spill) ∧ (t.core p).spillTail = 0 ∧
              (t.core p).spoiled = false) ∧
            (∀ a, dpaBase ≤ a → memGet a t.mem = memGet a s.mem) ∧ t.ctxs = s.ctxs))) ∧
    (l.phase ≠ .loaded ∨ (∃ p ∈ l.cores, tableGet 0 (dieOf p) s.dieFreq < l.spec.freq) ∨ ¬ intime ∨ ¬ runs →
      exec (.placementCommit key) s = .next s) ∧
    (l.phase = .loaded → (∀ p ∈ l.cores, l.spec.freq ≤ tableGet 0 (dieOf p) s.dieFreq) → intime → runs → l.ranks.Nodup →
      Completes (.placementCommit key) s fun t =>
        t.launch? key = some { l with phase := .running, committed := s.now, lastRound := s.now } ∧ t.now = s.now ∧
        (∀ rank tid, l.ranks[rank]? = some tid →
          ∃ (ck jr : Word) (regs : Vector Word 32), t.ctx tid = { Ctx.empty with
            status := .ready, proc := procKey key rank, home := tid, pc := BitVec.ofNat 64 l.spec.entry, pw := 1
            regs := regs, srng := BitVec.ofNat 32 (0x2545F491 ^^^ (rank * 2 ^ 12)), ckring := ck, jring := jr } ∧
            (∀ r : GReg, (t.ctx tid).g r = entryG l.spec rank r) ∧ (l.spec.timed = false → ck = 0 ∧ jr = 0) ∧
            (l.spec.timed = true → ck.toNat / 2 ^ 20 % 2 ^ 12 = l.spec.ckpt % 2 ^ 12 ∧
              jr.toNat / 2 ^ 32 % 2 ^ 16 = l.spec.journal % 2 ^ 16) ∧
            t.proc (procKey key rank) = ⟨some key, rank, tid, l.spec.lvt, l.spec.spawn, 0, false, [], [], false⟩) ∧
        ∀ tid, tid ∉ l.ranks → t.ctx tid = s.ctx tid)

/-- A die takes the operating point that its launches need, down at any time and up within the power limit (R313, R368); a
launch that has not been placed by D − W expires with status 6, whatever its region (a ready launch of a guaranteed region: the
model's choice, notes/assumptions/78.md), and what its load has brought is zeroed; so does a placed one of an opportunistic region
whose group is out (R312, R314, R315). What memory reads is said of memory in its canonical form, and of bytes that hold no pinned
bit that the machine has set. -/
def Sys2Proof.Claims.PointsAndExpiry : Prop :=
  (∀ (s : State) (die : Nat),
    let need := s.neededPoint die
    let old := tableGet 0 die s.dieFreq
    let watts (f : Nat) : Nat := if f = 0 then 180 else if f = 1 then 260 else if f = 2 then 400 else 470
    let power := 200 + ((List.range 4).map fun d => watts (if d = die then need else tableGet 0 d s.dieFreq)).foldl (· + ·) 0
    let moves := die < 4 ∧ (need < old ∨ old < need ∧ power ≤ s.pwrlim)
    (moves → exec (.operatingPointChange die) s = .next { s with dieFreq := tablePut die need s.dieFreq }) ∧
    (¬ moves → exec (.operatingPointChange die) s = .next s) ∧
    (∀ e ∈ s.launches, s.occupies e.2 = true → (∃ p ∈ e.2.cores, dieOf p = die) → e.2.spec.freq ≤ need)) ∧
  (∀ (s : State) (key : Nat) (l : Launch), s.launch? key = some l →
    let g := s.group (s.colourOf l.region)
    let due := l.spec.deadline - l.spec.budgetW ≤ s.now ∧ ¬ (g.frozen = true ∧ g.phase = .stopped)
    let loose := s.isGuaranteed l.region = false
    let open' := (s.queue l.region).closing = none
    let unplaced := l.phase = .admitted ∨ l.phase = .chosen ∨ l.phase = .loaded
    (¬ due ∨ (¬ unplaced ∧ (l.phase ≠ .running ∨ ¬ loose ∨ g.phase ≠ .out)) → exec (.launchExpire key) s = .next s) ∧
    (due → unplaced → open' → (∀ p ∈ l.cores, p < 4096) →
      Completes (.launchExpire key) s fun t => t.launch? key = none ∧ (l.phase ≠ .loaded → t.ctxs = s.ctxs) ∧
        (∀ w ∈ t.reservations, w.1 ≠ key) ∧
        (memWf s.mem = true → l.phase = .loaded → g.phase ≠ .out → ∀ p ∈ l.cores, ∀ i < 0x20000,
          memGet (0x100000000 + p * 0x20000 + i) t.mem = 0) ∧
        ∀ d, memWf s.mem = true → translate? s.mem (s.rootOf l.region) l.spec.record = some d → ∀ i < 64,
          (∀ e ∈ s.pinned, dpaBase + e + 8 ≠ dpaBase + d + i) →
          memGet (dpaBase + d + i) t.mem = (bytesOfNat 8 l.seq ++ bytesOfNat 1 6 ++ bytesOfNat 7 0 ++ bytesOfNat 8 0 ++
            bytesOfNat 8 s.now ++ bytesOfNat 8 0 ++ bytesOfNat 8 l.committed ++ bytesOfNat 8 l.frozen).getD i 0) ∧
    (due → l.phase = .running → loose → g.phase = .out → open' →
      Completes (.launchExpire key) s fun t => ∃ r, t.launch? key = some r ∧ r.phase = .ended ∧ r.stopStatus = 6))

/-- Windows open, placement units decide, operating points move, and launches expire. -/
def Obligations.PlacementDecisions : Prop :=
  Sys2Proof.Claims.PlacementIsDecided ∧ Sys2Proof.Claims.PointsAndExpiry

/-- Placement loads a launch, and its commit starts every process. -/
def Obligations.LaunchesStart : Prop :=
  Sys2Proof.Claims.LaunchesArePlaced


/-! ## Gang switches and region blocks -/

namespace Sys2Proof.Claims

/-- A core that keeps what is its own: its clock, counters, firewall, router and boot registers (R321, R323). -/
structure KeepsOwn (k k' : CoreS) : Prop where
  clock : k'.cyc = k.cyc ∧ k'.lend = k.lend ∧ k'.mxSeq = k.mxSeq ∧ k'.cpSeq = k.cpSeq
  counters : k'.stalecnt = k.stalecnt ∧ k'.ecccor = k.ecccor ∧ k'.eccunc = k.eccunc ∧ k'.ctlerr = k.ctlerr ∧
    k'.fwdrop = k.fwdrop ∧ k'.fwctl = k.fwctl
  router : k'.rcolcfg = k.rcolcfg ∧ k'.rload = k.rload ∧ k'.boot = k.boot ∧ k'.failed = k.failed

/-- The packets of a colour that the routers eject (R320), in the order in which they stand: all but bulk data in motion. -/
def groupPackets (colour : Nat) (net : List Packet) : List Packet :=
  net.filter fun p => p.colour == some colour && p.cls != .bulk

/-- The other packets. -/
def otherPackets (colour : Nat) (net : List Packet) : List Packet :=
  net.filter fun p => !(p.colour == some colour && p.cls != .bulk)

/-- A byte among the n from a DPA up. -/
def Within (a d n : Nat) : Prop := dpaBase + d ≤ a ∧ a < dpaBase + d + n

/-- The flags byte of a control block of a group (R298, R299). -/
def FlagByte (s : State) (colour a : Nat) : Prop := ∃ r ∈ s.groupRegions colour, a = dpaBase + s.regbase + 256 * r + 3

/-- A byte of the log of a group: from where its next entry goes to where its room ends. -/
def LogByte (first last a : Nat) : Prop := dpaBase + first ≤ a ∧ a < dpaBase + last

/-- A cell of a core: of its local store, its accumulators or its vector windows. -/
def CellOf (pcn : Nat) (c : Host.Cell) : Prop :=
  ∃ i, c.1 = localKey pcn i ∧ i < 0x20000 ∨ (c.1 = accKey pcn i ∨ c.1 = vecKey pcn i) ∧ i < 8192

/-- A group may stop (R319, R350): T has come, each of its cores has its notice, none of its contexts is inside a prefix
sequence, none of its cores runs a message, and no reduction of its launches is under way. -/
structure MayStop (s : State) (colour : Nat) : Prop where
  phase : (s.group colour).phase = .notified
  time : (s.group colour).time ≤ s.now
  notices : ∀ p ∈ s.net, ∀ t, p.body ≠ .switchNotice colour t
  sequences : ∀ e ∈ s.ctxs, s.inGroup colour e.2 = true → e.2.pfx.first = none ∨ e.2.held ≠ none
  messages : ∀ p ∈ s.groupCores colour, (s.core p).running = none
  rounds : ∀ e ∈ s.groupLaunches colour, e.2.round = none

/-- A block in a save area that its return can put back (R323): it is as the core wrote it, and it holds the cells and the contexts
of its own core, each once, none of them with a bad XSTAT. -/
structure Whole (s : State) (b : SavedCore) : Prop where
  core : b.pcn < 4096
  clean : b.core.spoiled = false
  intact : s.blockIntact b = true
  form : memWf b.cells = true
  cells : ∀ c ∈ b.cells, CellOf b.pcn c
  once : (b.ctxs.map Prod.fst).Nodup
  own : ∀ e ∈ b.ctxs, e.1 / 16 = b.pcn ∧ State.badStatus e.2 = false

end Sys2Proof.Claims

/-- The stop of a gang switch (R319, R320, R322, R350): a core takes its notice; at T, with every notice taken and no
sequence, message or reduction under way, the group's contexts stand still, and its packets leave the mesh for the log
in their order, with the circuits that they hold; after a freeze the regions' frozen flags are set; a packet of the
colour that comes later goes to the log after those before it, and waits while the log has no room. Memory is said of
its canonical form; what bytes an entry of the log has is the model's choice (notes/assumptions/80.md). When it stops is
log entry 50. -/
def Sys2Proof.Claims.GangStops : Prop :=
  (∀ (s s1 : State) (n colour time : Nat) (p : Packet), Arrives s n p s1 → p.body = .switchNotice colour time →
    exec (.switchNotice n) s = .next s1) ∧
  (∀ (s : State) (colour : Nat),
    let g := s.group colour
    let cores := s.groupCores colour
    let mine (c : Ctx) : Prop := s.inGroup colour c = true ∧ (c.status = .ready ∨ c.status = .waiting)
    let x := s.region ((s.groupRegions colour).headD 0)
    let first := x.saveBase + 0x40000 * cores.length
    let last := x.saveBase + x.saveSize
    (MayStop s colour → s.groupLaunches colour ≠ [] ∨ g.frozen = true → ∃ t, exec (.gangStop colour) s = .next t ∧
      (t.group colour).phase = .stopped ∧
      (t.group colour).log.map LogEntry.packet = g.log.map LogEntry.packet ++ groupPackets colour s.net ∧
      (t.group colour).logNext = first + ((groupPackets colour s.net).map State.logSize).foldl (· + ·) 0 ∧
      (t.group colour).logEnd = last ∧ t.net = otherPackets colour s.net ∧
      (∀ c ∈ t.circuits, c ∈ s.circuits ∧ ∀ p ∈ groupPackets colour s.net, ¬ (p.src = c.1 ∧ p.dst = c.2)) ∧
      (∀ tid, mine (s.ctx tid) → t.ctx tid = { s.ctx tid with parked := true }) ∧
      (∀ tid, ¬ mine (s.ctx tid) → t.ctx tid = s.ctx tid) ∧ t.cores = s.cores ∧ t.launches = s.launches ∧
      (memWf s.mem = true → ∀ a, ¬ LogByte first last a → g.frozen = false ∨ ¬ FlagByte s colour a →
        memGet a t.mem = memGet a s.mem) ∧
      (g.frozen = true → ∀ r ∈ s.groupRegions colour, (t.region r).frozen = true ∧
        (memWf s.mem = true → memNat t.mem (dpaBase + s.regbase + 256 * r + 3) 1 / 4 % 2 = 1))) ∧
    (MayStop s colour → s.groupLaunches colour = [] → g.frozen = false →
      exec (.gangStop colour) s = .next (s.modGroup colour fun g => { g with phase := .running })) ∧
    (¬ MayStop s colour → exec (.gangStop colour) s = .next s)) ∧
  (∀ (s : State) (n colour : Nat) (p : Packet), s.net[n]? = some p → p.colour = some colour →
    let g := s.group colour
    let waits := s.colourRuns (some colour) = true ∨ p.cls = .bulk ∨ g.logEnd < g.logNext + State.logSize p ∨
      ∃ q ∈ s.net.take n, q.colour = some colour ∧ q.cls ≠ .bulk
    (¬ waits → ∃ t, exec (.latePacketLog n) s = .next t ∧ t.net = s.net.eraseIdx n ∧
      (∃ e : LogEntry, e.packet = p ∧
        t.group colour = { g with log := g.log ++ [e], logNext := g.logNext + State.logSize p }) ∧
      t.ctxs = s.ctxs ∧ t.cores = s.cores ∧
      (memWf s.mem = true → ∀ a, ¬ Within a g.logNext (State.logSize p) → memGet a t.mem = memGet a s.mem)) ∧
    (waits → exec (.latePacketLog n) s = .next s)) ∧
  (∀ (s : State) (n : Nat), s.net[n]? = none ∨ (∃ p, s.net[n]? = some p ∧ p.colour = none) →
    exec (.latePacketLog n) s = .next s)

/-- The save of a gang switch (R293, R320, R321, R323): once every core of a stopped group that no freeze stopped is at
rest, each core writes its block to its place in the save area and is zeroed, and keeps what is its own; the packets
left go to the log; the group is out. Memory is said of its canonical form; what bytes a block has is a free value. What
a save area holds is the model's choice (log entries 35 and 80). -/
def Sys2Proof.Claims.GangSaves : Prop :=
  ∀ (s : State) (colour : Nat),
    let g := s.group colour
    let cores := s.groupCores colour
    let may := g.phase = .stopped ∧ g.frozen = false ∧ ∀ p ∈ cores, s.atRest p = true
    let inBlock (p a : Nat) : Prop := Within a (s.blockPlace colour cores p) 0x40000
    (¬ may → exec (.gangSave colour) s = .next s) ∧
    (may → ∃ t, exec (.gangSave colour) s = .next t ∧ t = s.saveGroup colour ∧ (t.group colour).phase = .out ∧
      t.net = otherPackets colour s.net ∧
      (t.group colour).log.map LogEntry.packet = g.log.map LogEntry.packet ++ groupPackets colour s.net ∧
      (t.group colour).saved.map SavedCore.pcn = g.saved.map SavedCore.pcn ++ cores ∧
      (∀ r ∈ s.groupRegions colour, (t.region r).out = true) ∧
      (∀ tid, tid / 16 ∉ cores → t.ctx tid = s.ctx tid) ∧ (∀ k, k ∉ cores → t.core k = s.core k) ∧
      (∀ p ∈ cores, (∀ k < 16, t.ctx (p * 16 + k) = Ctx.zero) ∧ KeepsOwn (s.core p) (t.core p) ∧ (t.core p).arb = [] ∧
        (t.core p).mxQueue = [] ∧ (t.core p).cpQueue = [] ∧ (t.core p).handler = []) ∧
      (memWf s.mem = true → (∀ p ∈ cores, p < 4096) →
        (∀ p ∈ cores, (∀ i < 0x20000, memGet (localKey p i) t.mem = 0) ∧
          (∀ i < 8192, memGet (accKey p i) t.mem = 0 ∧ memGet (vecKey p i) t.mem = 0) ∧
          ∃ b ∈ (t.group colour).saved, b.pcn = p ∧ b.dpa = s.blockPlace colour cores p ∧ b.cells = s.coreCells p ∧
            b.ctxs = s.ctxs.filter (fun e => e.1 / 16 == p) ∧ b.core.handler = (s.core p).handler ∧
            b.core.mxQueue = (s.core p).mxQueue ∧ b.core.arb = (s.core p).arb ∧
            ∀ j < 0x40000, let a := dpaBase + b.dpa + j
              (∀ q ∈ cores, q ≠ p → ¬ inBlock q a) → ¬ LogByte g.logNext g.logEnd a → ¬ FlagByte s colour a →
              memGet a t.mem = Config.savedByte b j) ∧
        ∀ a, dpaBase ≤ a → (∀ p ∈ cores, ¬ inBlock p a) → ¬ LogByte g.logNext g.logEnd a → ¬ FlagByte s colour a →
          memGet a t.mem = memGet a s.mem))

/-- The return of a gang switch (R316, R323, R324, R325): a return is announced at least 20 µs ahead, once the group's
cores are free and no window needs them; at T′ the blocks and the log are back, the log ahead of newer packets, every
core keeps what is its own, and the contexts go on; after a freeze the launches' deadlines and windows and the
reservations have moved by its length. When it returns is log entry 50; what it takes back, log entries 35 and 80; a
time nearer than 20 µs, log entry 79. -/
def Sys2Proof.Claims.GangReturns : Prop :=
  ∀ (s : State) (colour time : Nat),
    let g := s.group colour
    let cores := s.groupCores colour
    let ours (r : Nat) : Prop := s.colourOf r = colour
    let free := (∀ p ∈ cores, s.coreFree p = true) ∧ s.opportunisticMay cores = true
    let runs (c : Ctx) : Ctx := if s.inGroup colour c = true then { c with parked := false } else c
    (g.resume = none → g.phase = .out → free → s.now + 20000 ≤ time →
      exec (.gangResume colour time) s = .next (s.modGroup colour fun g => { g with resume := some time })) ∧
    (g.resume = none → g.phase ≠ .out ∨ time < s.now + 20000 ∨ ¬ free → exec (.gangResume colour time) s = .next s) ∧
    (∀ t, g.resume = some t →
      let d := t - g.time
      let may := t ≤ s.now ∧ (g.phase = .out ∨ g.phase = .stopped ∧ g.frozen = true)
      let quiet := (∀ r ∈ s.groupRegions colour, s.heldIn r = []) ∧ ∀ e ∈ s.ctxs, State.badStatus e.2 = false
      (¬ may → exec (.gangResume colour time) s = .next s) ∧
      (may → exec (.gangResume colour time) s = .next (s.resumeGroup colour t)) ∧
      (may → quiet → g.saved = [] → (s.ctxs.map Prod.fst).Nodup → ∃ u, exec (.gangResume colour time) s = .next u ∧
        (u.group colour).phase ≠ .stopped ∧ (∃ rest, u.net = g.log.map LogEntry.packet ++ s.net ++ rest) ∧
        (∀ tid, u.ctx tid = runs (s.ctx tid)) ∧
        (∀ r ∈ s.groupRegions colour, (u.region r).frozen = false ∧ (u.region r).out = false) ∧
        (g.frozen = true →
          (∀ key l, s.launch? key = some l → u.launch? key = some (if ours l.region then { l with
            spec := { l.spec with deadline := l.spec.deadline + d }, window := l.window.map (· + d)
            frozen := l.frozen + d } else l)) ∧
          u.reservations = s.reservations.map fun w =>
            if ours w.2.1 then (w.1, w.2.1, w.2.2.1 + d, w.2.2.2.1 + d, w.2.2.2.2) else w)) ∧
      (may → quiet → g.frozen = false → memWf s.mem = true → (g.saved.map SavedCore.pcn).Nodup → (∀ b ∈ g.saved, Whole s b) →
        ∃ u, exec (.gangResume colour time) s = .next u ∧ (u.group colour).phase ≠ .out ∧
          (∃ rest, u.net = g.log.map LogEntry.packet ++ s.net ++ rest) ∧
          ∀ b ∈ g.saved, KeepsOwn (s.core b.pcn) (u.core b.pcn) ∧ (u.core b.pcn).handler = b.core.handler ∧
            (u.core b.pcn).arb = b.core.arb ∧ (u.core b.pcn).mxQueue = b.core.mxQueue ∧
            (∀ tid c, (tid, c) ∈ b.ctxs → u.ctx tid = runs c) ∧
            ∀ i, (i < 0x20000 → memGet (localKey b.pcn i) u.mem = memGet (localKey b.pcn i) b.cells) ∧
              (i < 8192 → memGet (accKey b.pcn i) u.mem = memGet (accKey b.pcn i) b.cells ∧
                memGet (vecKey b.pcn i) u.mem = memGet (vecKey b.pcn i) b.cells)))

/-- A block takes effect when its live flag is set (R298, R299, R300, R301, R321): it lies in memory, its fields are within their
limits, its place in the tree and its budgets nest, guaranteed cores and colours agree over all live regions, and its region holds
no launch that is placed or ready; else nothing changes. What memory reads is said of memory in its canonical form. -/
def Sys2Proof.Claims.BlocksTakeEffect : Prop :=
  ∀ (s : State) (r : Nat), (256 ≤ r → exec (.regionLiveSet r) s = .next s) ∧
  (∀ bs : List Byte, r < 256 → bs = memBytes s.mem (dpaBase + s.regbase + 256 * r) 256 →
    let x := regionOfBytes bs
    let s1 : State := { s with regions := tablePut r x s.regions }
    let idle := ∀ e ∈ s.launches, e.2.region = r → State.holdsResources e.2 = false ∧ e.2.waiting ≠ []
    let may := dpaMapped (s.regbase + 256 * r) = true ∧ blockOk r bs = true ∧ s1.regionsOk = true ∧ idle
    (x.live = true ∧ x.parent = descNat bs 1 1 ∧ x.depth = descNat bs 2 1 ∧ x.mask = descNat bs 4 4 ∧
      x.cores = descNat bs 8 2 ∧ x.slots = descNat bs 10 2 ∧ x.kib = descNat bs 12 4 ∧ x.hbm = descNat bs 16 8 ∧
      x.arb = descNat bs 24 4 ∧ x.share = descNat bs 28 1 ∧ x.prio = descNat bs 29 1 ∧ x.domain = descNat bs 30 1 ∧
      x.colour = descNat bs 31 1 ∧ x.root = descNat bs 32 8 ∧ x.space = descNat bs 40 2 ∧
      x.guaranteed = descNat bs 42 2 ∧ x.saveBase = descNat bs 48 8 ∧ x.saveSize = descNat bs 56 8 ∧
      x.queueBase = descNat bs 64 8 ∧ x.queueEntries = descNat bs 72 4) ∧
    (may → ∃ t, exec (.regionLiveSet r) s = .next t ∧
      t.region r = x ∧ (∀ k, k ≠ r → t.region k = s.region k) ∧
      (memWf s.mem = true → memNat t.mem (dpaBase + s.regbase + 256 * r + 3) 1 % 2 = 1 ∧
        ∀ a, a ≠ dpaBase + s.regbase + 256 * r + 3 → memGet a t.mem = memGet a s.mem) ∧
      { t with regions := s.regions, mem := s.mem } = s) ∧
    (¬ may → exec (.regionLiveSet r) s = .next s) ∧
    (blockOk r bs = true → descNat bs 0 1 = r ∧ descNat bs 3 1 < 16 ∧ x.mask < 2 ^ 11 ∧ (r = 0 → x.mask = 2 ^ 11 - 1) ∧
      (x.mask % 2 = 1 → x.cores ≤ 4096) ∧ (x.mask / 2 % 2 = 1 → x.slots ≤ 61440) ∧
      (x.mask / 2 ^ 3 % 2 = 1 → x.hbm % 2 ^ 16 = 0) ∧
      (x.mask / 2 ^ 5 % 2 = 1 → 1 ≤ x.share ∧ x.share ≤ 64) ∧ (x.mask / 2 ^ 6 % 2 = 1 → x.prio ≤ 7) ∧
      (x.mask / 2 ^ 7 % 2 = 1 → x.domain ≤ 63) ∧ (x.mask / 2 ^ 8 % 2 = 1 → x.colour ≤ 63) ∧
      (x.mask / 2 ^ 10 % 2 = 1 → x.space ≤ 255) ∧ descNat bs 44 4 = 0 ∧ x.saveBase % 2 ^ 16 = 0 ∧
      x.queueBase % 4096 = 0 ∧ (x.queueEntries ≠ 0 → x.queueBase < 0xC000000000 ∧ ∃ i < 11, x.queueEntries = 2 ^ (6 + i))) ∧
    (s1.regionsOk = true → (∀ k y, (k, y) ∈ s1.regions → y.live = true →
      (k = 0 → (s1.region 0).parent = 0 ∧ (s1.region 0).depth = 0) ∧
      (k ≠ 0 → (s1.region (s1.region k).parent).live = true ∧
        (s1.region k).depth = (s1.region (s1.region k).parent).depth + 1 ∧ (s1.region k).depth ≤ 3) ∧
      s1.effective 0 Region.cores k ≤ s1.effective 0 Region.cores (s1.region k).parent ∧
      s1.effective 0 Region.cores k * 2 ^ 18 + 2 ^ 20 ≤ (s1.region k).saveSize ∧
      ∀ j z, (j, z) ∈ s1.regions → z.live = true → s1.isGuaranteed k = s1.isGuaranteed j ∨ s1.colourOf k ≠ s1.colourOf j) ∧
      s1.sumGuaranteed ≤ s1.userCount))

/-- The stop of a gang switch: notices, the stop at T, the packet log and late packets. -/
def Obligations.GroupsStop : Prop :=
  Sys2Proof.Claims.GangStops

/-- The save of a stopped group, and its return or thaw. -/
def Obligations.GroupsAreSavedAndReturn : Prop :=
  Sys2Proof.Claims.GangSaves ∧ Sys2Proof.Claims.GangReturns

/-- A region block takes effect only within its limits. -/
def Obligations.RegionBlocks : Prop :=
  Sys2Proof.Claims.BlocksTakeEffect


/-! ## Control space -/

namespace Sys2Proof.Claims

/-- A core's count of refused accesses to images and SLOTGO has gone up by one, up to all ones (R292, R293). -/
def CountsRefusal (s t : State) (pcn : Nat) : Prop :=
  OnlyOneCore s t pcn { s.core pcn with
    ctlerr := if (s.core pcn).ctlerr < 0xFFFFFFFF then (s.core pcn).ctlerr + 1 else (s.core pcn).ctlerr }

/-- An image may be read and written: its slot is not slot 0, and is empty or stopped (R293). -/
def ImageOpen (s : State) (tid : Nat) : Prop :=
  tid % 16 ≠ 0 ∧ ((s.ctx tid).status = .empty ∨ (s.ctx tid).status = .stopped ∨
    ((s.ctx tid).status = .ready ∨ (s.ctx tid).status = .waiting) ∧ ((s.ctx tid).halted = true ∨ (s.ctx tid).parked = true))

/-- The registers of R284 and R294 in an image, by the offset of their doubleword (R293). -/
def imageRegisters : List (Nat × Nat) :=
  [(8, 0x100), (24, 0x102), (32, 0x103), (40, 0x104), (48, 0x105), (80, 0x110), (88, 0x111), (96, 0x112), (104, 0x113),
   (112, 0x114)]

/-- Only one context differs. -/
def OnlyCtx (s t : State) (tid : Nat) (c : Ctx) : Prop :=
  t.ctx tid = c ∧ (∀ k, k ≠ tid → t.ctx k = s.ctx k) ∧ { t with ctxs := s.ctxs } = s

end Sys2Proof.Claims

/-- Context images (R5, R284, R292, R293, R294): an image of an empty or stopped slot reads and takes the context's registers at
their offsets, but for its state, which is read-only; a write that holds a reserved bit changes nothing; any other access reads all
ones or is discarded, and CTLERR counts it, and so is a write that breaks a limit of R294. A slot that has never been written shows
its reset values. -/
def Sys2Proof.Claims.ContextImages : Prop :=
  ∀ (s : State) (tid off v : Nat), off % 8 = 0 → off < 1024 → v < 2 ^ 64 →
    let c := s.imageCtx tid
    let pcn := tid / 16
    let w := BitVec.ofNat 64 v
    let read : Instr := .contextImageRead tid off
    let write : Instr := .contextImageWrite tid off v
    let reads (x : Word) : Prop := s.readImage tid off = (x, s)
    let u : State := { s with cur := tid, ctxs := tablePut tid c s.ctxs }
    let proc := if c.status = .empty then State.bareKey tid else c.proc
    let p := s.proc proc
    (pcn < 4096 → s.readControl (0x400000000 + pcn * 2 ^ 15 + 0x4000 + tid % 16 * 1024 + off) = s.readImage tid off) ∧
    (¬ ImageOpen s tid → (s.readImage tid off).1 = BitVec.allOnes 64 ∧ CountsRefusal s (s.readImage tid off).2 pcn ∧
      (Completes read s fun t => CountsRefusal s t pcn) ∧ Completes write s fun t => CountsRefusal s t pcn) ∧
    (ImageOpen s tid → exec read s = .next s ∧
      (off = 0 → reads c.pc ∧ Completes write s fun t =>
        OnlyCtx s t tid { c with pc := w &&& ~~~(3 : Word), pfx := .none, held := none }) ∧
      (off = 16 → ∃ x : Word, reads x ∧ (∀ b, b ≠ 3 → x.getLsbD b = c.xstat.getLsbD b) ∧ x.getLsbD 3 = !c.late.isEmpty ∧
        Completes write s fun t => OnlyCtx s t tid { c with xstat := w &&& ~~~(8 : Word) }) ∧
      (off = 56 → reads (BitVec.ofNat 64 p.lvt) ∧ Completes write s fun t => t.proc proc = { p with lvt := v } ∧
        (∀ k, k ≠ proc → t.proc k = s.proc k) ∧ { t with procs := s.procs } = s) ∧
      (off = 64 → w &&& 0xF80000 ≠ 0 → exec write s = .next s) ∧
      (off = 64 → reads (BitVec.ofNat 64 (c.pw.toNat + c.rmode.toNat * 2 ^ 16 + c.fflags.toNat * 2 ^ 24 + c.srng.toNat * 2 ^ 32)) ∧
        (w &&& 0xF80000 = 0 → Completes write s fun t => OnlyCtx s t tid { c with
          pw := w.setWidth 16, rmode := (w >>> 16).setWidth 3, fflags := (w >>> 24).setWidth 8 &&& 0xBF
          srng := if (w >>> 32).setWidth 32 = (0 : BitVec 32) then 1 else (w >>> 32).setWidth 32 })) ∧
      (off = 72 → (c.status = .empty → c.late = [] → reads 0) ∧ (c.status = .stopped → c.late = [] → reads 3) ∧
        Completes write s fun t => OnlyCtx s t tid c) ∧
      (off = 120 → reads (BitVec.ofNat 64 (p.spawnLimit % 2 ^ 12 + p.live % 2 ^ 12 * 2 ^ 16)) ∧
        (w &&& 0xFFFFFFFFF000F000 ≠ 0 → exec write s = .next s) ∧
        (w &&& 0xFFFFFFFFF000F000 = 0 → Completes write s fun t =>
          t.proc proc = { p with spawnLimit := v % 2 ^ 12, live := v / 2 ^ 16 % 2 ^ 12 } ∧
          (∀ k, k ≠ proc → t.proc k = s.proc k) ∧ { t with procs := s.procs } = s)) ∧
      (∀ r : GReg, r ≠ 0 → off = 120 + 8 * r.val → reads (c.g r) ∧
        Completes write s fun t => OnlyCtx s t tid (c.setG r w)) ∧
      (∀ m : MReg, m ≠ 0 → off = 376 + 8 * m.val → reads c.masks[m] ∧
        Completes write s fun t => OnlyCtx s t tid (c.setM m w)) ∧
      (off = 376 ∨ 408 ≤ off ∧ off < 512 → reads 0 ∧ Completes write s fun t => OnlyCtx s t tid c) ∧
      (512 ≤ off → reads (BitVec.ofNat 64 (memNat s.mem (vecKey pcn (tid % 16 * 512 + (off - 512))) 8)) ∧
        exec write s = .next { s with
          mem := memWrite (vecKey pcn (tid % 16 * 512 + (off - 512))) (bytesOfNat 8 v) s.mem }) ∧
      (∀ x ∈ imageRegisters, off = x.1 → ∀ y ∈ writable u, y.1 = x.2 →
        (∀ z ∈ readable u ++ ringRegisters u, z.1 = x.2 → reads z.2) ∧
        (x.2 ≠ 0x100 → w &&& ~~~y.2.1 ≠ 0 → exec write s = .next s) ∧
        (x.2 = 0x100 ∨ w &&& ~~~y.2.1 = 0 → match y.2.2 (w &&& y.2.1) with
          | some d => ∃ r, (Completes write s fun t => OnlyCtx s t tid { d with ringsWritten := r }) ∧
              (SameRings c d → r = c.ringsWritten)
          | none => Completes write s fun t => CountsRefusal s t pcn)))

/-- The registers of control space (R4, R5, R292, R295, R298, R344, R359, R373): REGBASE takes any value; FWCTL takes its fields until its lock is set, PWRLIM
a value from 600 to 2,000, a counter a write of 0, RCOLCFG 17 bits, RRQ a write of 1 as a clear, and the peer table its
fields; a write with a reserved bit set changes nothing. -/
def Sys2Proof.Claims.ControlRegisters : Prop :=
  ∀ (s : State) (pcn v : Nat), v < 2 ^ 64 → pcn < 4096 →
    let k := s.core pcn
    let page (off : Nat) : Nat := 0x400000000 + pcn * 2 ^ 15 + off
    let device (off : Nat) : Nat := 0x408000000 + off
    let write (a : Nat) : Instr := .controlRegisterWrite a v
    let cleared (old : Nat) : Nat := if v = 0 then 0 else old
    (s.isSystem pcn = true → k.fwctl.getLsbD 63 = false → Completes (.fwctlWrite pcn v) s fun t =>
      OnlyOneCore s t pcn { k with fwctl := BitVec.ofNat 64 v &&& 0x800000000000001F }) ∧
    (s.isSystem pcn = false ∨ k.fwctl.getLsbD 63 = true → exec (.fwctlWrite pcn v) s = .next s) ∧
    (600 ≤ v → v ≤ 2000 → exec (.pwrlimWrite v) s = .next { s with pwrlim := v }) ∧
    (v < 600 ∨ 2000 < v → exec (.pwrlimWrite v) s = .next s) ∧
    (Completes (write (page 0x100)) s fun t => OnlyOneCore s t pcn { k with stalecnt := cleared k.stalecnt }) ∧
    (Completes (write (page 0x108)) s fun t => OnlyOneCore s t pcn { k with ecccor := cleared k.ecccor }) ∧
    (Completes (write (page 0x110)) s fun t => OnlyOneCore s t pcn { k with eccunc := cleared k.eccunc }) ∧
    (Completes (write (page 0x118)) s fun t => OnlyOneCore s t pcn { k with ctlerr := cleared k.ctlerr }) ∧
    (Completes (write (page 0x120)) s fun t => OnlyOneCore s t pcn { k with fwdrop := cleared k.fwdrop }) ∧
    (∀ c < 64, v < 2 ^ 17 → Completes (write (page (0xA00 + 8 * c))) s fun t =>
      OnlyOneCore s t pcn { k with rcolcfg := tablePut c (BitVec.ofNat 17 v) k.rcolcfg }) ∧
    (∀ c < 64, 2 ^ 17 ≤ v → exec (write (page (0xA00 + 8 * c))) s = .next s) ∧
    (v % 2 = 1 → v / 2 % 2 ^ 15 = 0 → v < 2 ^ 28 → exec (write (device 0x10)) s = .next { s with rrq := false }) ∧
    (v % 2 = 0 ∨ v / 2 % 2 ^ 15 ≠ 0 ∨ 2 ^ 28 ≤ v → exec (write (device 0x10)) s = .next s) ∧
    (∀ i < 255, ∀ j < 4,
      let e := tableGet (List.replicate 32 0) i s.peers
      (j < 2 ∨ j = 2 ∧ v < 2 ^ 9 ∨ j = 3 ∧ v = 0 → exec (write (device (0x1000 + 32 * i + 8 * j))) s = .next { s with
        peers := tablePut i (e.take (8 * j) ++ bytesOfNat 8 v ++ e.drop (8 * j + 8)) s.peers }) ∧
      (j = 2 ∧ 2 ^ 9 ≤ v ∨ j = 3 ∧ v ≠ 0 → exec (write (device (0x1000 + 32 * i + 8 * j))) s = .next s)) ∧
    (∀ off ∈ [0x0, 0x8, 0x20, 0x28], exec (write (device off)) s = .next s) ∧
    (∀ off < 0x100, exec (write (page off)) s = .next s) ∧
    (s.readControl (page 0x100)).1 = BitVec.ofNat 64 k.stalecnt ∧ (s.readControl (page 0x120)).1 = BitVec.ofNat 64 k.fwdrop ∧
    (s.readControl (page 0x200)).1 = k.fwctl ∧ (s.readControl (page 0xC00)).1 = k.rload ∧
    (s.readControl (device 0x0)).1 = BitVec.ofNat 64 (s.tstat + s.timeOffset.toNat * 2 ^ 32) ∧
    (s.readControl (device 0x8)).1 = BitVec.ofNat 64 (s.lifecycle + if s.wiping = true then 4 else 0) ∧
    (s.readControl (device 0x18)).1 = BitVec.ofNat 64 s.pwrlim ∧
    (s.readControl (device 0x10)).1 = BitVec.ofNat 64 ((if s.rrq = true then 1 else 0) + s.userCount % 2 ^ 12 * 2 ^ 16) ∧
    (∀ c < 64, (∀ p ∈ s.net, p.colour ≠ some c) → (s.readControl (page (0x800 + 8 * c))).1 = 0) ∧
    (s.bootMode = true → (s.readControl (page 0x3010)).1.getLsbD 19 = s.isFused pcn) ∧
    exec (write regbaseName) s = .next { s with regbase := v } ∧
    (∀ a, (∃ n, (s.readControl a).2 = { s with fresh := s.fresh + n }) ∨
      ∃ p, CountsRefusal s (s.readControl a).2 p)

/-- Context images and the memory-mapped control registers. -/
def Obligations.ControlSpace : Prop :=
  Sys2Proof.Claims.ContextImages ∧ Sys2Proof.Claims.ControlRegisters


/-! ## Lifecycle, reset and boot -/

namespace Sys2Proof.Claims

/-- The device after a reset or a change of its lifecycle state (R4, R363, R364, R365): the reset state, but for its fuses with
the retirements made since, and that lifecycle state. -/
structure Restarted (s t : State) (lifecycle : Nat) (owner : KeyHashes) (deviceKeys : Bool) : Prop where
  state : { t with lifecycle := Machine.State.reset.lifecycle, fuses := Machine.State.reset.fuses
                   fresh := Machine.State.reset.fresh
                   agenda := Machine.State.reset.agenda } = Machine.State.reset
  lifecycle : t.lifecycle = lifecycle
  fuses : { t.fuses with retiredCores := s.fuses.retiredCores, newRetired := s.fuses.newRetired } =
    { s.fuses with owner := owner, deviceKeys := deviceKeys }
  retired : (∀ p, p ∈ t.fuses.retiredCores ↔ p ∈ s.fuses.retiredCores ∨ p ∈ s.fuses.newRetired) ∧ t.fuses.newRetired = []

/-- Bytes that carry both signatures under key hashes (R361): the hashes of its keys are those, and each signature verifies. -/
def Genuine (keys : KeyHashes) (x : Signed) : Prop :=
  signedKeys x = keys ∧ ecdsaVerify x.ecdsaKey x.bytes x.ecdsaSig = true ∧ hssVerify x.hssKey x.bytes x.hssSig = true

/-- The key hashes in force (R361, R363): the owner's in the provisioned and deployed states, else the vendor's. -/
def inForce (s : State) : KeyHashes := if s.lifecycle = 1 ∨ s.lifecycle = 2 then s.fuses.owner else s.fuses.vendor

/-- The transitions of R363. -/
def transitions : List (Nat × Nat) := [(0, 1), (1, 2), (2, 1), (1, 3), (2, 3), (3, 0)]

/-- Only the boot registers of one core differ, and packets have been sent. -/
structure BootOnly (s t : State) (pcn : Nat) (b : BootPos) (sent : List Packet) : Prop where
  core : t.core pcn = { s.core pcn with boot := b }
  others : ∀ k, k ≠ pcn → t.core k = s.core k
  device : { t with cores := s.cores, net := s.net } = s
  net : t.net = s.net ++ sent

/-- A control packet of the flood. -/
def flood (src dst : Nat) (body : Body) : Packet := packet .control src dst none body

/-- The tinders that a position sends: to each neighbour on its die but its parent's, with its own coordinates (R375). -/
def tinders (pcn origin : Nat) (b : BootPos) : List Packet :=
  ((neighbours pcn).filter fun n => b.parent = 0 || n.1 != behindPort pcn b.parent).map fun n =>
    flood pcn n.1 (.tinder origin b.x b.y b.hops n.2)

/-- The answer of a position, once its tinders have been answered and its self-check has ended (R375 steps 5 and 6): the
origin records the end, any other sends its count to its parent. -/
def answered (b : BootPos) : BootPos :=
  if b.seen = true ∧ b.awaiting = 0 ∧ b.checkEnded = true ∧ b.answered = false then
    if b.parent = 0 then { b with answered := true, done := true, count := 1 + b.sum } else { b with answered := true }
  else b

/-- What it sends then. -/
def answer (pcn origin : Nat) (b : BootPos) : List Packet :=
  if b.seen = true ∧ b.awaiting = 0 ∧ b.checkEnded = true ∧ b.answered = false ∧ b.parent ≠ 0 then
    [flood pcn (behindPort pcn b.parent) (.tinderDone origin (1 + b.sum))]
  else []

/-- A slot runs a context that belongs to no launch, at system level (R372, R376). -/
structure StartsBare (t : State) (tid : Nat) (c : Ctx) : Prop where
  ctx : t.ctx tid = { c with
    status := .ready, proc := State.bareKey tid, home := tid, spawned := false, away := false, xstat := c.xstat ||| 1 }
  alone : t.launchOf tid = none

/-- A core runs an image from PC 0 of its slot 1, every register zero but PW, which holds only p0 (R372). What memory reads is said
of memory in its canonical form. -/
structure RunsImage (s t : State) (pcn : Nat) (image : List Byte) : Prop where
  slot : StartsBare t (pcn * 16 + 1) { Ctx.zero with pw := 1, lastIssue := (s.ctx (pcn * 16 + 1)).lastIssue }
  bytes : memWf s.mem = true → ∀ j < Min.min image.length 0x20000,
    memGet (0x100000000 + pcn * 0x20000 + j) t.mem = image.getD j 0

end Sys2Proof.Claims

/-- Reset, wipe and lifecycle (R14, R361, R362, R363, R364, R365, R366, R369): a command signed under the keys in force
moves the lifecycle along its table while nothing runs, fuses the owner's key hashes when it provisions the device, and
restarts it, as a reset does; the device keeps its fuses; the wipe zeroes memory and retires what fails its read-back; a
core's self-check retires it when it fails, and a system core's role passes to the next spare. The lifecycle state
survives a reset (log entry 32); the results of self-checks and of the read-back come with the events (log entry 37);
the signature schemes and a key's hash are log entry 62. -/
def Sys2Proof.Claims.LifecycleAndReset : Prop :=
  ∀ (s : State),
    (∀ (target : Nat) (command : Signed) (keys : KeyHashes),
      let allowed := (s.lifecycle, target) ∈ transitions ∧ Genuine (inForce s) command ∧ s.busy = false ∧ s.wiping = false
      (allowed → Completes (.lifecycleCommand target command keys) s fun t =>
        Restarted s t target (if s.lifecycle = 0 ∧ target = 1 then keys else s.fuses.owner)
          (s.fuses.deviceKeys || decide (target = 1))) ∧
      (¬ allowed → exec (.lifecycleCommand target command keys) s = .next s)) ∧
    (s.busy = false → (∀ e ∈ s.launches, e.2.phase = .ended) ∧
      ∀ e ∈ s.regions, s.hasQueue e.1 = true → s.latched e.1 ≤ s.taken e.1) ∧
    (Completes .reset s fun t => Restarted s t s.lifecycle s.fuses.owner s.fuses.deviceKeys) ∧
    (∀ cores frames : List Nat,
      (s.wiping = true → Completes (.wipeDone cores frames) s fun t => t.mem = [] ∧ t.wiping = false ∧ t.phase = 3 ∧
        (∀ p ∈ cores, s.isFused p = false → p ∈ t.fuses.newRetired) ∧ (∀ f ∈ frames, f ∈ t.fuses.retiredFrames) ∧
        t.ctxs = s.ctxs) ∧
      (s.wiping = false → exec (.wipeDone cores frames) s = .next s)) ∧
    (∀ pcn ok : Nat,
      let k := s.core pcn
      let idle := if s.isSystem pcn = true then s.isFused pcn = false ∧ ∀ j < 16, (s.ctx (pcn * 16 + j)).status = .empty
        else s.isUser pcn = true ∧ s.coreFree pcn = true
      let due := s.bootMode = false ∧ pcn < 4096 ∧ idle ∧ (k.checked = false ∨ k.idleSince + 10000000000 ≤ s.now)
      (¬ due → exec (.selfCheck pcn ok) s = .next s) ∧
      (due → ok = 1 → Completes (.selfCheck pcn ok) s fun t =>
        OnlyOneCore s t pcn { k with checked := true, idleSince := s.now }) ∧
      (due → ok ≠ 1 → s.countsFused pcn = false → Completes (.selfCheck pcn ok) s fun t =>
        t.core pcn = { k with checked := true, idleSince := s.now, failed := true } ∧
        t.fuses.newRetired = s.fuses.newRetired ++ [pcn] ∧ (∃ more, t.uetOut = s.uetOut ++ [.retirement pcn] ++ more) ∧
        (∀ role sp, s.isSystem pcn = true → s.config.roles.find? (fun r => r.1 == pcn) = some (pcn, role) → role ≠ 5 →
          (sp, 5) ∈ s.config.roles → s.isFused sp = false → pcn < sp →
          (∀ r ∈ s.config.roles, r.2 = 5 → s.isFused r.1 = false → pcn < r.1 → sp ≤ r.1) → (sp, role) ∈ t.config.roles)))

/-- Verification (R14, R360, R361, R370, R371, R372): an image and a table that are signed under the keys in force, with
the right version, fused list, width and role map, begin boot mode: slot 1 of each die's first user position runs the
stage image, and slot 1 of each firmware-role core the firmware image; anything else leaves the device in phase 3, until
the management interface supplies another image. What memory reads is said of memory in its canonical form. That a power
limit outside 600 to 2,000 W is taken is the model's choice (notes/assumptions/77.md). The signature schemes, a key's
hash and the image's parts are log entry 62. -/
def Sys2Proof.Claims.FirmwareIsVerified : Prop :=
  ∀ (s : State) (stageAt stageLen : Nat) (firmware table : Signed),
    let i : BootImage := s.supplied.getD ⟨stageAt, stageLen, firmware, table⟩
    let bs := i.table.bytes
    let c := parseTable bs
    let good := Genuine (inForce s) i.firmware ∧ Genuine (inForce s) i.table ∧ bs.length = 1296 ∧ descNat bs 0 4 = 0x43564354 ∧
      s.fuses.minVersion ≤ descNat bs 4 4 ∧ (∀ p, p ∈ c.fused ↔ p ∈ s.fuses.fused) ∧
      (c.w = 1 ∨ c.w = 2 ∨ c.w = 4) ∧ ∀ r ∈ c.roles, r.1 ∉ c.fused
    let verify : Instr := .firmwareVerify stageAt stageLen firmware.bytes table.bytes (firmware.signatures, table.signatures)
    let supply : Instr := .oobImage stageAt stageLen firmware.bytes table.bytes (firmware.signatures, table.signatures)
    (s.phase ≠ 3 ∨ s.bootFailed = true → exec verify s = .next s) ∧
    (s.phase = 3 → s.bootFailed = false → ¬ good →
      exec verify s = .next { s with bootFailed := true, supplied := none }) ∧
    (s.phase = 3 → s.bootFailed = false → good → Completes verify s fun t =>
      t.pwrlim = c.power % 2 ^ 12 ∧ t.bootMode = true ∧ t.phase = 5 ∧ t.phaseTime = s.now ∧ t.running = some i ∧
      ((∀ r ∈ c.roles, r.1 ∉ s.fuses.retiredCores) → t.config = c) ∧
      (∀ d < 4, ∀ p rest,
        ((List.range 1024).map (d * 1024 + ·)).filter (fun p => decide (p % 32 < 32 - c.w) && !t.isFused p) = p :: rest →
        p ∉ t.roleCores 1 → RunsImage s t p ((i.firmware.bytes.drop i.stageAt).take i.stageLen)) ∧
      (∀ p ∈ t.roleCores 1, RunsImage s t p i.firmware.bytes)) ∧
    (s.phase = 3 → s.bootFailed = true → exec supply s = .next { s with
      bootFailed := false, phaseTime := s.now, supplied := some ⟨stageAt, stageLen, firmware, table⟩ }) ∧
    (s.phase ≠ 3 ∨ s.bootFailed = false → exec supply s = .next s)

/-- The flood (R373, R374, R375): it starts at the boot core; a position that a tinder finds takes its coordinates, hops and
parent from it and sends tinders on; one that has been found refuses; a position answers its parent once its own tinders are
answered and its self-check has ended, and the origin then records the count. -/
def Sys2Proof.Claims.TheFlood : Prop :=
  (∀ (s : State) (pcn v : Nat),
    let old := (s.core pcn).boot
    let b : BootPos := { old with
      started := true, seen := true, coordok := true, x := xOf pcn, y := yOf pcn, hops := 0, parent := 0
      selfok := false, awaiting := (neighbours pcn).length }
    let may := s.bootMode = true ∧ v = 1 ∧ s.bootCore? (dieOf pcn) = some pcn ∧ old.started = false
    (may → Completes (.tinderGo pcn v) s fun t => BootOnly s t pcn (answered b) (tinders pcn pcn b ++ answer pcn pcn b)) ∧
    (¬ may → exec (.tinderGo pcn v) s = .next s)) ∧
  (∀ (s s1 : State) (n origin x y hops port : Nat) (p : Packet), Arrives s n p s1 → p.body = .tinder origin x y hops port →
    let pcn := p.dst
    let old := (s1.core pcn).boot
    let x' := if port = 4 then x + 1 else if port = 2 then x - 1 else x
    let y' := if port = 3 then y + 1 else if port = 1 then y - 1 else y
    let b : BootPos := { old with
      seen := true, x := x', y := y', hops := hops + 1, parent := port
      coordok := decide (x' = xOf pcn) && decide (y' = yOf pcn) }
    let b' : BootPos := { b with awaiting := (tinders pcn origin b).length }
    (old.seen = true → exec (.tinder n) s = .next { s1 with net := s1.net ++ [flood pcn p.src (.tinderRefuse origin)] }) ∧
    (old.seen = false → Completes (.tinder n) s fun t =>
      BootOnly s1 t pcn (answered b') (tinders pcn origin b' ++ answer pcn origin b'))) ∧
  (∀ (s s1 : State) (n origin count : Nat) (p : Packet), Arrives s n p s1 →
    let old := (s1.core p.dst).boot
    let b (more : Nat) : BootPos := { old with awaiting := old.awaiting - 1, sum := old.sum + more }
    (p.body = .tinderRefuse origin → Completes (.tinderRefuse n) s fun t =>
      BootOnly s1 t p.dst (answered (b 0)) (answer p.dst origin (b 0))) ∧
    (p.body = .tinderDone origin count → Completes (.tinderDone n) s fun t =>
      BootOnly s1 t p.dst (answered (b count)) (answer p.dst origin (b count)))) ∧
  (∀ (s : State) (pcn ok : Nat),
    let old := (s.core pcn).boot
    let b : BootPos := { old with checkEnded := true, selfok := decide (ok = 1) && !s.isFused pcn }
    (old.seen = false ∨ old.checkEnded = true → exec (.selfCheckEnd pcn ok) s = .next s) ∧
    (old.seen = true → old.checkEnded = false → ok = 1 → Completes (.selfCheckEnd pcn ok) s fun t =>
      ∃ origin, BootOnly s t pcn (answered b) (answer pcn origin b)) ∧
    (old.seen = true → old.checkEnded = false → ok ≠ 1 → Completes (.selfCheckEnd pcn ok) s fun t =>
      t.core pcn = { s.core pcn with failed := true, boot := answered b } ∧
      (s.countsFused pcn = false → pcn ∈ t.fuses.newRetired)))

/-- Slots and the end of boot mode (R365, R367, R373, R376, R377, R378): SLOTGO starts an empty slot with its image, at
system level (one whose XSTAT holds a reserved bit stops with bad-status), and counts any other write; boot mode ends
when every system core's firewall is locked: user slots empty and take user level, their memories are zero, and the
logical map takes the positions that discovery has proved; a die whose discovery lasts 10 ms loses its user positions.
Which slots have SRNG's 1 is log entry 33, the logical map log entry 34. -/
def Sys2Proof.Claims.BootModeEnds : Prop :=
  ∀ (s : State) (pcn v : Nat),
    let tid := pcn * 16 + v
    let c := s.imageCtx tid
    let ok := 1 ≤ v ∧ v ≤ 15 ∧ (s.ctx tid).status = .empty ∧ s.isFused pcn = false
    let locked := ∀ p < 4096, 32 - s.config.w ≤ xOf p → s.isFused p = false → (s.core p).fwctl.getLsbD 63 = true
    let ends := s.bootMode = true ∧ v < 4 ∧ v / 2 = 1 ∧ locked
    let user (p : Nat) : Prop := p < 4096 ∧ s.isSystem p = false ∧ s.isFused p = false
    let proved (p : Nat) : Prop := (s.core p).boot.seen = true ∧ (s.core p).boot.coordok = true ∧
      (s.core p).boot.selfok = true ∧ s.countsFused p = false
    let lost (die : Nat) : Prop := s.bootMode = true ∧ s.phase = 5 ∧ s.phaseTime + 10000000 ≤ s.now ∧
      ∃ p, user p ∧ dieOf p = die ∧ ∃ k < 16, (s.ctx (p * 16 + k)).status ≠ .empty
    (s.bootMode = false → exec (.slotgo pcn v) s = .next s ∧ exec (.bootctlEnd v) s = .next s) ∧
    (s.bootMode = true → ok → c.xstat >>> 4 = 0 →
      Completes (.slotgo pcn v) s fun t => StartsBare t tid c ∧ t.mem = s.mem ∧ t.cores = s.cores ∧
        ∀ k, k ≠ tid → t.ctx k = s.ctx k) ∧
    (s.bootMode = true → ok → c.xstat >>> 4 ≠ 0 →
      Completes (.slotgo pcn v) s fun t => (t.ctx tid).status = .stopped ∧ (t.ctx tid).regs = c.regs) ∧
    (s.bootMode = true → ¬ ok → Completes (.slotgo pcn v) s fun t => CountsRefusal s t pcn) ∧
    (¬ ends → exec (.bootctlEnd v) s = .next s) ∧
    (ends → Completes (.bootctlEnd v) s fun t => t.bootMode = false ∧ t.phase = 7 ∧
      (∀ p, p ∈ t.lmap ↔ user p ∧ proved p) ∧ t.lmap.Pairwise (· < ·) ∧
      (∀ k, s.isSystem (k / 16) = false → t.ctx k = if (s.ctx k).status = .empty then { s.ctx k with xstat := (s.ctx k).xstat &&& ~~~1 } else Ctx.zero) ∧
      (∀ k, s.isSystem (k / 16) = true → t.ctx k = s.ctx k) ∧
      (∀ p < 4096, s.isSystem p = false → ∀ i < 0x20000, memGet (0x100000000 + p * 0x20000 + i) t.mem = 0) ∧
      (∀ p < 4096, s.isSystem p = true → ∀ i < 0x20000, memGet (0x100000000 + p * 0x20000 + i) t.mem =
        memGet (0x100000000 + p * 0x20000 + i) s.mem) ∧
      (∀ a, dpaBase ≤ a → memGet a t.mem = memGet a s.mem) ∧
      (∀ p, user p → ¬ proved p → s.countsFused p = false → p ∈ t.fuses.newRetired)) ∧
    (∀ die < 4,
      (lost die → Completes (.bootTimeout die) s fun t => t.rrq = true ∧ t.mem = s.mem ∧ t.ctxs = s.ctxs ∧
        ∀ p, user p → dieOf p = die → t.countsFused p = true) ∧
      (¬ lost die → exec (.bootTimeout die) s = .next s))

/-- Lifecycle commands, reset, the wipe, self-checks and device time. -/
def Obligations.ResetAndTime : Prop :=
  Sys2Proof.Claims.LifecycleAndReset ∧ Sys2Proof.Claims.DeviceTime

/-- Firmware is verified and boot mode begins, or the device stays shut. -/
def Obligations.FirmwareVerification : Prop :=
  Sys2Proof.Claims.FirmwareIsVerified

/-- The boot flood, SLOTGO, the end of boot mode, and the boot timeout. -/
def Obligations.BootModeRuns : Prop :=
  Sys2Proof.Claims.TheFlood ∧ Sys2Proof.Claims.BootModeEnds


/-! ## Encodings, steps and the state after reset -/

namespace Sys2Proof.Claims

/-- The flags of a job with none given. -/
def plain : JobFlags := ⟨.th, false, false⟩

/-- Words written out from the encodings of R141 to R166, with the instructions that they are. -/
def words : List (BitVec 32 × Instr) :=
  [(0x04A6380B, .div 5 6 7), (0x04A638D3, .sel 5 6 7 3), (0x1D690003, .shri 11 9 3), (0x3425FFFF, .cmpiLtu 1 5 0xFFFF),
   (0x38432003, .pandn 2 3 4), (0x48800003, .bz 4 3), (0x54000040, .jal 64), (0x58290001, .jalr 1 9),
   (0x7D430010, .ldQ 10 3 16), (0x8A711060, .stW 19 17 0x1060), (0x95240601, .stX6 9 4 6),
   (0x98A60001, .aadd 5 6 .dword), (0xA0A63C90, .fadd 5 6 7 .f32 .rz), (0xA4253481, .fcmpLt 1 5 6 .f32),
   (0xA8A60548, .cvt 5 6 .bf16 .f32 .rn), (0xACAA4000, .fli 5 .bf16 0x4000), (0xC8001000, .vld 0 0 0x1000),
   (0xD4250080, .vbcast 1 5 .i16 0), (0xC4400578, .vcvt 2 0 0 0 .bf16 .e2m3 .rn),
   (0xB4620D02, .vfmul 3 2 1 .bf16 0 .rn), (0xD4A0048B, .vfredAdd 5 0 .f32 0), (0xE8053000, .mxCfg 5 6),
   (0xE96C6804, .mxDist 11 12 13 plain), (0xE9600006, .mxZero 11 0 0 plain),
   (0xECE84B61, .cpCopy 7 8 9 ⟨.dv, true, true⟩), (0xF0A63800, .evNew 5 6 7), (0xF1442804, .offerT 10 4 5),
   (0xF4A63800, .spawn 5 6 7), (0xF4050021, .mig 5 .g16), (0xF5063802, .msg 8 6 7), (0xF40000EA, .trap 7),
   (0xF4000029, .brk 1), (0xF9200800, .crr 9 0x020), (0xF8051001, .crw 5 0x040), (0xF8000002, .rett),
   (0xF8054043, .crset 5 0x101), (0xFD000030, .ext 0x30), (0x09200000, .addi 9 0 0), (0x4020FFF0, .bt 1 0xFFF0)]

/-- Words that are no instruction (R142, R149 to R167): a reserved major opcode, a field that is to be zero, a register, type,
rounding or size that the form does not take. -/
def noWords : List (BitVec 32) :=
  [0x00000000, 0x3C000000, 0x5C000000, 0x9C000000, 0xDC000000, 0xE0000000, 0xE4000000, 0x95240200, 0x7C030010,
   0x7D630010, 0x1D690043, 0x98A60801, 0x04A63C13, 0xA0A63E00, 0xA0A63CD0, 0xA0A63CF6, 0xC0011102, 0xC4404578,
   0xB1011100, 0xF0200008, 0xF2040023, 0xF000000B, 0xF400000B, 0xF4000025, 0xF9410040, 0xF8010002]

/-- The state in which a cycle's instruction issues: device time has moved on, the slot that issues is current and has its
issue recorded, and a lent cycle moves the lending pointer (R10, R35, R106). -/
structure Issuing (s s1 : State) (rest : List Move) (dt pcn slot : Nat) : Prop where
  time : s1.now = (s.now + dt) % 2 ^ 64
  current : s1.cur = 16 * pcn + slot
  me : s1.ctx (16 * pcn + slot) = { s.ctx (16 * pcn + slot) with lastIssue := some (s.core pcn).cyc }
  others : ∀ k, k ≠ 16 * pcn + slot → s1.ctx k = s.ctx k
  core : { s1.core pcn with lend := (s.core pcn).lend } = s.core pcn
  cores : ∀ k, k ≠ pcn → s1.core k = s.core k
  lend : (s1.core pcn).lend = if slot = (s.core pcn).cyc % 16 then (s.core pcn).lend else slot
  device : { s1 with now := s.now, cur := s.cur, ctxs := s.ctxs, cores := s.cores, agenda := s.agenda } = s
  agenda : s1.agenda = rest

end Sys2Proof.Claims

/-- Words of every family decode to the instructions they stand for, and words that R167 does not accept are none. -/
def Sys2Proof.Claims.WordsDecode : Prop :=
  (∀ x ∈ words, decodeWord x.1 = .ok x.2 ∧ encode x.2 = some x.1 ∧ decodeTableWord 32 x.1.toNat = some x.2) ∧
  ∀ w ∈ noWords, (decodeWord w).toOption = none

/-- Encoding then decoding gives back every well-formed instruction that has a word, with every operand (R141, R167). -/
def Obligations.DecodingUndoesEncoding : Prop :=
  ∀ (i : Instr) (w : BitVec 32), i.wf = true → encode i = some w → decodeWord w = .ok i

/-- A word that decodes is the word of a well-formed instruction (R167): no bit of it is dropped, so a word that sets a bit
of no field is no instruction. -/
def Obligations.EncodingUndoesDecoding : Prop :=
  ∀ (i : Instr) (w : BitVec 32), decodeWord w = .ok i → i.wf = true ∧ encode i = some w

/-- A word with a reserved major opcode is no instruction, and so is the all-zero word (R149). -/
def Sys2Proof.Claims.ReservedMajorsAreIllegal : Prop :=
  ∀ w : BitVec 32, w.toNat / 2 ^ 26 ∈ [0x00, 0x0F, 0x17, 0x27, 0x37, 0x38, 0x39] → (decodeWord w).toOption = none

/-- A cycle (R35, R59, R147, R167, R168): the slot that issues fetches the word at its PC and runs the instruction that
it decodes to, where its prefixes may govern it; a word that is none, and a fetch past the window, trap; an instruction
that is held runs again. Then CYC counts the cycle. Which core's cycle comes next is the model's agenda (log entry 2),
and an instruction that waits is held (log entry 27). -/
def Sys2Proof.Claims.StepRunsTheFetched : Prop :=
  ∀ (s : State) (dt pcn slot : Nat) (lent : Bool) (rest : List Move), s.agenda = ⟨dt, .cycle pcn⟩ :: rest → pcn < 4096 →
    let s0 : State := { s with agenda := rest, now := (s.now + dt) % 2 ^ 64 }
    (s0.issuer pcn = none → step s = .next (s0.endCycle pcn)) ∧
    (s0.issuer pcn = some (slot, lent) → ∃ s1, Issuing s s1 rest dt pcn slot ∧
      (slot = 0 → ∃ t, exec (.carrierMessage pcn) s1 = .next t ∧ step s = .next (t.endCycle pcn)) ∧
      (slot ≠ 0 →
        let c := s1.me
        let ends (r : Res) : Prop := step s = closeCycle pcn r ∧
          ∀ t, r = .next t → step s = .next (t.modCore pcn fun k => { k with cyc := k.cyc + 1 })
        (∀ tr, c.trapping = some tr → ends (.next (s1.takeTrapAt s1.cur tr))) ∧
        (c.trapping = none → s1.boundaryDue s1.cur = true → ends (exec (.lateTrap s1.cur) s1)) ∧
        (c.trapping = none → s1.boundaryDue s1.cur = false →
          (∀ i, c.held = some i → waitsForRegister c i = false → ends (exec i s1)) ∧
          (c.held = none →
            (0x20000 ≤ c.pc.toNat → ends (exec (.unmappedFetch s1.cur) s1)) ∧
            (∀ i, c.pc.toNat < 0x20000 →
              decodeBytes (memBytes s1.mem (0x100000000 + pcn * 0x20000 + c.pc.toNat) 4) = .ok (i, []) →
              (prefixOk c.pfx i = true → waitsForRegister c i = false → ends (exec i s1)) ∧
              (prefixOk c.pfx i = true → waitsForRegister c i = true →
                ends (.next (s1.modMe fun c => { c with held := some i, wait := .register, status := .waiting }))) ∧
              (prefixOk c.pfx i = false → ends (exec (.illegalInstruction s1.cur) s1))) ∧
            (c.pc.toNat < 0x20000 →
              (decodeBytes (memBytes s1.mem (0x100000000 + pcn * 0x20000 + c.pc.toNat) 4)).toOption = none →
              ends (exec (.illegalInstruction s1.cur) s1))))))

/-- A step without a word that comes next on the agenda is taken, where it is one that the machine or the world outside
takes between the cycles; device time moves on first (R10, R106). The model's own order of moves stands in the agenda.
The agenda is the model's choice (log entry 2). -/
def Sys2Proof.Claims.StepTakesTheEvent : Prop :=
  ∀ (s : State) (dt : Nat) (i : Instr) (rest : List Move), s.agenda = ⟨dt, .event i⟩ :: rest →
    let s0 : State := { s with agenda := rest, now := (s.now + dt) % 2 ^ 64 }
    (spontaneous i = true → step s = exec i s0) ∧ (spontaneous i = false → step s = .next s0) ∧
    (∀ w, encode i = some w → spontaneous i = false)

/-- Every instruction and every step of the machine ends in a next state, whatever the state: nothing that the spec gives an
effect stops the model. -/
def Obligations.NothingStops : Prop :=
  (∀ (i : Instr) (s : State), ∃ t, exec i s = .next t) ∧ ∀ s : State, ∃ t, step s = .next t

/-- Every step keeps memory in its canonical form, and the lifecycle, time and boot states among those that the spec names
(R357, R363, R369). -/
def Obligations.StepsKeepTheInvariant : Prop := ∀ s t : State, s.Inv → step s = .next t → t.Inv

/-- The state after reset has the invariant that every step keeps. -/
def Sys2Proof.Claims.ResetHasTheInvariant : Prop := State.reset.Inv

/-- The values that the registers take at reset (R35, R106, R107, R283, R292, R294, R295, R359, R373, R377), with memory
zero, every slot empty, no launch placed, and the wipe to come. FQHEAD's 0 and the white queues are values the model
names (log entry 6), and memory that reads zero before the wipe ends is log entry 4; the others the spec gives. -/
def Sys2Proof.Claims.ResetState : Prop :=
  let s := State.reset
  s.wiping = true ∧ s.pwrlim = 2000 ∧ s.rrq = false ∧ s.igdrop = 0 ∧ s.iglate = 0 ∧ s.tstat = 0 ∧ s.timeOffset = 0 ∧
  s.bootMode = true ∧ s.phase = 1 ∧ s.now = 0 ∧ s.net = [] ∧ s.launches = [] ∧ (∀ a, memGet a s.mem = 0) ∧
  (∀ tid, (s.ctx tid).status = .empty ∧ (s.ctx tid).regs = Vector.replicate 32 0 ∧ (s.ctx tid).xvec = 0 ∧
    (s.ctx tid).ckring = 0 ∧ (s.ctx tid).jring = 0 ∧ (s.ctx tid).fflags = 0 ∧ (s.ctx tid).rmode = 0) ∧
  (∀ pcn, (s.core pcn).fwctl = 0x1C ∧ (s.core pcn).cyc = 0 ∧ (s.core pcn).lend = 0 ∧ (s.core pcn).stalecnt = 0 ∧
    (s.core pcn).ecccor = 0 ∧ (s.core pcn).eccunc = 0 ∧ (s.core pcn).ctlerr = 0 ∧ (s.core pcn).fwdrop = 0 ∧
    (s.core pcn).ring = [] ∧ (s.core pcn).boot.started = false ∧ (s.core pcn).boot.seen = false ∧
    (s.core pcn).fqhead = 0 ∧ ∀ c, s.colourConfig pcn c = 0xFFFF) ∧
  (∀ r, (s.region r).live = false ∧ (s.queue r).held = []) ∧ ∀ pcn i, (s.entry pcn i).state = .free

/-- Words of every family decode as the spec encodes them; reserved words are none. -/
def Obligations.WordsMeanTheirInstructions : Prop :=
  Sys2Proof.Claims.WordsDecode ∧ Sys2Proof.Claims.ReservedMajorsAreIllegal

/-- A step runs the instruction that its cycle fetches, or takes the event that comes next. -/
def Obligations.StepsRunInstructions : Prop :=
  Sys2Proof.Claims.StepRunsTheFetched ∧ Sys2Proof.Claims.StepTakesTheEvent

/-- The state after reset: the registers the spec gives, and the invariant. -/
def Obligations.StateAfterReset : Prop :=
  Sys2Proof.Claims.ResetState ∧ Sys2Proof.Claims.ResetHasTheInvariant
end

