-- ==== Sys2Proof/Laws/Encoding.lean ====
section
/-!
SUPPORT. The codes and fields of 09_encoding read back what was put in them.
-/

namespace Sys2Proof

/-! ## Codes -/

@[simp] theorem ITy.ofCode_code (t : ITy) : ITy.ofCode t.code = .ok t := by cases t <;> rfl
@[simp] theorem FTy.ofCode_code (t : FTy) : FTy.ofCode t.code = .ok t := by cases t <;> rfl
@[simp] theorem Ty.ofCode_code (t : Ty) : Ty.ofCode t.code = .ok t := by cases t <;> rfl
@[simp] theorem LaneTy.ofCode_code (t : LaneTy) : LaneTy.ofCode t.code = .ok t := by
  rcases t with t | t <;> cases t <;> rfl
@[simp] theorem Rm.ofCode_code (r : Rm) : Rm.ofCode r.code = .ok r := by cases r <;> rfl
@[simp] theorem Scope.ofCode_code (s : Scope) : Scope.ofCode s.code = .ok s := by cases s <;> rfl
@[simp] theorem AWidth.ofCode_code (w : AWidth) : AWidth.ofCode w.code = w := by cases w <;> rfl
@[simp] theorem LaneSize.ofCode_code (z : LaneSize) : LaneSize.ofCode z.code = z := by cases z <;> rfl
@[simp] theorem MigSize.ofCode_code (z : MigSize) : MigSize.ofCode z.code = .ok z := by cases z <;> rfl

theorem ITy.code_lt (t : ITy) : t.code < 4 := by cases t <;> decide
theorem FTy.code_lt (t : FTy) : t.code < 16 := by cases t <;> decide
theorem Ty.code_lt (t : Ty) : t.code < 16 := by cases t <;> decide
theorem LaneTy.code_lt (t : LaneTy) : t.code < 16 := by rcases t with t | t <;> cases t <;> decide
theorem Rm.code_lt (r : Rm) : r.code < 8 := by cases r <;> decide
theorem Scope.code_lt (s : Scope) : s.code < 11 := by cases s <;> decide
theorem AWidth.code_lt (w : AWidth) : w.code < 2 := by cases w <;> decide
theorem LaneSize.code_lt (z : LaneSize) : z.code < 4 := by cases z <;> decide
theorem MigSize.code_lt (z : MigSize) : z.code < 3 := by cases z <;> decide
theorem JobFlags.code_lt (f : JobFlags) : f.code < 64 := by
  rcases f with ⟨s, x, y⟩
  cases s <;> cases x <;> cases y <;> decide

/-- The flags of a job form read back, when its scope is 0 or a flag is set (R145). -/
theorem JobFlags.ofCode_code (f : JobFlags) (h : f.wf = true) : JobFlags.ofCode f.code = .ok f := by
  rcases f with ⟨s, x, y⟩
  cases s <;> cases x <;> cases y <;> first | rfl | (exact absurd h (by decide))

/-! ## Fields -/

@[simp] theorem gField_val (d : GReg) : gField d = d := Fin.ext (Nat.mod_eq_of_lt d.isLt)
@[simp] theorem pField_val (d : PReg) : pField d = .ok d := by simp [pField]
@[simp] theorem vField_val (d : VReg) : vField d = .ok d := by simp [vField]
@[simp] theorem mField_val (d : MReg) : mField d = .ok d := by simp [mField]

theorem mDest_val (d : MReg) (h : d ≠ 0) : mDest d = .ok d := by
  simp only [mDest, mField_val, bind, Except.bind]
  exact if_neg h

theorem maskField_of (n : Nat) (k : MReg) (h : n % 4 = k.val) : maskField n = k := Fin.ext h

theorem fin16_of (n : Nat) (k : PReg) (h : n % 16 = k.val) : Fin.ofNat 16 n = k := Fin.ext h

theorem fin8_of (n : Nat) (k : Fin 8) (h : n % 8 = k.val) : Fin.ofNat 8 n = k := Fin.ext h

@[simp] theorem imm16_hi_lo (i : BitVec 16) : imm16 (hi i) (lo i) = i := by
  apply BitVec.eq_of_toNat_eq
  have := i.isLt
  simp only [imm16, hi, lo, BitVec.toNat_ofNat]
  omega

theorem hi_lt (i : BitVec 16) : hi i < 32 := by
  have := i.isLt
  simp only [hi]
  omega

theorem lo_lt (i : BitVec 16) : lo i < 2048 := by simp only [lo]; omega

theorem creg_of (c : BitVec 10) (b fn : Nat) (h : b * 32 + fn / 64 = c.toNat) : creg b fn = c := by
  apply BitVec.eq_of_toNat_eq
  have := c.isLt
  simp only [creg, BitVec.toNat_ofNat, h]
  omega

theorem ofNat_toNat_of (w n : Nat) (c : BitVec w) (h : n = c.toNat) : BitVec.ofNat w n = c := by
  subst h
  exact BitVec.ofNat_toNat w c ▸ by simp

/-! ## Words -/

/-- Each field of a word lies within its bits. -/
structure Fields.Fits (f : Fields) : Prop where
  op : f.op < 64
  d : f.d < 32
  a : f.a < 32
  b : f.b < 32
  fn : f.fn < 2048

/-- The fields of a word are those that made it. -/
theorem Fields.ofWord_toWord (f : Fields) (h : f.Fits) : Fields.ofWord f.toWord = f := by
  obtain ⟨op, d, a, b, fn⟩ := f
  obtain ⟨h1, h2, h3, h4, h5⟩ := h
  simp only at h1 h2 h3 h4 h5
  have hn : (op * 2 ^ 26 + d * 2 ^ 21 + a * 2 ^ 16 + b * 2 ^ 11 + fn) % 2 ^ 32
      = op * 2 ^ 26 + d * 2 ^ 21 + a * 2 ^ 16 + b * 2 ^ 11 + fn := by omega
  simp only [Fields.ofWord, Fields.toWord, BitVec.toNat_ofNat, hn, Fields.mk.injEq]
  refine ⟨?_, ?_, ?_, ?_, ?_⟩ <;> omega

/-- Fields that decode to an instruction decode to it from its word. -/
theorem decodeWord_of_fields {i : Instr} {f : Fields} (hf : i.fields = some f) (fit : f.Fits) (hd : f.decode = .ok i)
    (w : BitVec 32) (he : encode i = some w) : decodeWord w = .ok i := by
  simp only [encode, hf, Option.map_some, Option.some.injEq] at he
  subst he
  rw [decodeWord, Fields.ofWord_toWord f fit, hd]

end Sys2Proof
end

