-- ==== Sys2Proof/Laws/Memory.lean ====
section
/-!
SUPPORT. Memory: a read after a write, what a write leaves alone, and that every operation keeps the canonical form.
-/

namespace Sys2Proof.Machine

/-! ## The canonical form -/

theorem memWfFrom_weaken {lo lo' : Nat} (h : lo' ≤ lo) {m : Mem} (w : memWfFrom lo m = true) : memWfFrom lo' m = true := by
  cases m with
  | nil => rfl
  | cons c t =>
    obtain ⟨a, v⟩ := c
    simp only [memWfFrom, Bool.and_eq_true, decide_eq_true_eq] at w ⊢
    exact ⟨⟨le_trans h w.1.1, w.1.2⟩, w.2⟩

theorem memPut_wfFrom {lo a : Nat} (v : Byte) (h : lo ≤ a) {m : Mem} (w : memWfFrom lo m = true) :
    memWfFrom lo (memPut a v m) = true := by
  induction m generalizing lo with
  | nil =>
    by_cases hv : v = 0#8 <;> simp [memPut, memWfFrom, hv, h]
  | cons c t ih =>
    obtain ⟨b, u⟩ := c
    simp only [memWfFrom, Bool.and_eq_true, decide_eq_true_eq] at w
    obtain ⟨⟨w1, w2⟩, w3⟩ := w
    have hu : ¬u = 0#8 := by simpa using w2
    by_cases h1 : b = a
    · subst h1
      by_cases hv : v = 0#8
      · simpa [memPut, hv] using memWfFrom_weaken (by omega) w3
      · simp [memPut, memWfFrom, hv, w3, h]
    · by_cases h2 : a < b
      · by_cases hv : v = 0#8
        · simp [memPut, memWfFrom, h1, h2, hv, w1, w3, hu]
        · simp [memPut, memWfFrom, h1, h2, hv, h, w3, hu, Nat.succ_le_of_lt h2]
      · have := ih (lo := b + 1) (by omega) w3
        simp [memPut, memWfFrom, h1, h2, w1, this, hu]

/-- Writing a byte keeps the canonical form. -/
@[simp] theorem memPut_wf (a : Nat) (v : Byte) {m : Mem} (w : memWf m = true) : memWf (memPut a v m) = true :=
  memPut_wfFrom v (Nat.zero_le a) w

/-- Writing bytes keeps the canonical form. -/
@[simp] theorem memWrite_wf (a : Nat) (bs : List Byte) {m : Mem} (w : memWf m = true) : memWf (memWrite a bs m) = true := by
  induction bs generalizing a m with
  | nil => exact w
  | cons v t ih => exact ih (a + 1) (memPut_wf a v w)

/-- Writing a number keeps the canonical form. -/
@[simp] theorem memPutNat_wf (a n v : Nat) {m : Mem} (w : memWf m = true) : memWf (memPutNat a n v m) = true := memWrite_wf _ _ w

/-- Putting cells in keeps the canonical form. -/
@[simp] theorem memRestore_wf (cs : List Host.Cell) {m : Mem} (w : memWf m = true) : memWf (memRestore cs m) = true := by
  induction cs generalizing m with
  | nil => exact w
  | cons c t ih => exact ih (memPut_wf c.1 c.2 w)

theorem memFilter_wfFrom (f : Host.Cell → Bool) {lo : Nat} {m : Mem} (w : memWfFrom lo m = true) :
    memWfFrom lo (m.filter f) = true := by
  induction m generalizing lo with
  | nil => rfl
  | cons c t ih =>
    obtain ⟨a, v⟩ := c
    simp only [memWfFrom, Bool.and_eq_true, decide_eq_true_eq] at w
    obtain ⟨⟨w1, w2⟩, w3⟩ := w
    have hu : ¬v = 0#8 := by simpa using w2
    by_cases hf : f (a, v) = true
    · have := ih w3
      simp [hf, memWfFrom, w1, hu, this]
    · simpa [hf] using ih (memWfFrom_weaken (by omega) w3)

/-- Taking cells out keeps the canonical form. -/
@[simp] theorem memFilter_wf (f : Host.Cell → Bool) {m : Mem} (w : memWf m = true) : memWf (m.filter f) = true :=
  memFilter_wfFrom f w

/-- Zeroing a range keeps the canonical form. -/
@[simp] theorem memZero_wf (a n : Nat) {m : Mem} (w : memWf m = true) : memWf (memZero a n m) = true := memFilter_wf _ w

/-! ## Reads after writes -/

theorem memGet_below {lo a : Nat} (h : a < lo) {m : Mem} (w : memWfFrom lo m = true) : memGet a m = 0 := by
  induction m generalizing lo with
  | nil => rfl
  | cons c t ih =>
    obtain ⟨b, v⟩ := c
    simp only [memWfFrom, Bool.and_eq_true, decide_eq_true_eq] at w
    have hb : b ≠ a := by omega
    simpa [memGet, hb] using ih (lo := b + 1) (by omega) w.2

theorem memGet_put_sameFrom {lo : Nat} (a : Nat) (v : Byte) {m : Mem} (w : memWfFrom lo m = true) :
    memGet a (memPut a v m) = v := by
  induction m generalizing lo with
  | nil => by_cases hv : v = 0#8 <;> simp [memPut, memGet, hv]
  | cons c t ih =>
    obtain ⟨b, u⟩ := c
    simp only [memWfFrom, Bool.and_eq_true, decide_eq_true_eq] at w
    by_cases h1 : b = a
    · subst h1
      by_cases hv : v = 0#8
      · simpa [memPut, hv] using memGet_below (Nat.lt_succ_self b) w.2
      · simp [memPut, memGet, hv]
    · by_cases h2 : a < b
      · by_cases hv : v = 0#8
        · have := memGet_below (Nat.lt_succ_of_lt h2) w.2
          simp [memPut, memGet, h1, h2, hv, this]
        · simp [memPut, memGet, h1, h2, hv]
      · simpa [memPut, memGet, h1, h2] using ih w.2

/-- A byte reads as written. -/
theorem memGet_put_same (a : Nat) (v : Byte) {m : Mem} (w : memWf m = true) : memGet a (memPut a v m) = v :=
  memGet_put_sameFrom a v w

/-- A write to one byte leaves every other alone. -/
theorem memGet_put_other {a b : Nat} (h : b ≠ a) (v : Byte) (m : Mem) : memGet b (memPut a v m) = memGet b m := by
  induction m with
  | nil => by_cases hv : v = 0#8 <;> simp [memPut, memGet, hv, Ne.symm h]
  | cons c t ih =>
    obtain ⟨d, u⟩ := c
    by_cases h1 : d = a
    · subst h1
      by_cases hv : v = 0#8 <;> simp [memPut, memGet, hv, Ne.symm h]
    · by_cases h3 : d = b
      · subst h3
        by_cases h2 : a < d <;> by_cases hv : v = 0#8 <;> simp [memPut, memGet, h1, h2, hv, Ne.symm h]
      · by_cases h2 : a < d
        · by_cases hv : v = 0#8 <;> simp [memPut, memGet, h1, h2, hv, h3, Ne.symm h]
        · simp [memPut, memGet, h1, h2, h3, ih]

/-- Bytes written outside an address leave it alone. -/
theorem memGet_write_other {a b : Nat} (bs : List Byte) (m : Mem) (h : b < a ∨ a + bs.length ≤ b) :
    memGet b (memWrite a bs m) = memGet b m := by
  induction bs generalizing a m with
  | nil => rfl
  | cons v t ih =>
    simp only [List.length_cons] at h
    have h1 : b ≠ a := by omega
    rw [memWrite, ih _ (by omega), memGet_put_other h1]

/-- A byte of a range reads as written. -/
theorem memGet_write_same {a : Nat} (bs : List Byte) {m : Mem} (w : memWf m = true) (k : Nat) (h : k < bs.length) :
    memGet (a + k) (memWrite a bs m) = bs[k] := by
  induction bs generalizing a m k with
  | nil => simp at h
  | cons v t ih =>
    cases k with
    | zero => rw [memWrite, Nat.add_zero, memGet_write_other t _ (by omega), memGet_put_same a v w]; rfl
    | succ k =>
      have := ih (a := a + 1) (memPut_wf a v w) k (by simpa using h)
      rw [memWrite, show a + (k + 1) = a + 1 + k by omega, this]; rfl

theorem memGet_filter_keep (f : Host.Cell → Bool) {lo b : Nat} {m : Mem} (w : memWfFrom lo m = true)
    (h : ∀ v, f (b, v) = true) : memGet b (m.filter f) = memGet b m := by
  induction m generalizing lo with
  | nil => rfl
  | cons c t ih =>
    obtain ⟨a, v⟩ := c
    simp only [memWfFrom, Bool.and_eq_true, decide_eq_true_eq] at w
    by_cases hb : a = b
    · subst hb; simp [h v, memGet]
    · by_cases hf : f (a, v) = true
      · simpa [hf, memGet, hb] using ih w.2
      · simpa [hf, memGet, hb] using ih w.2

/-- Zeroing a range leaves the bytes outside it alone. -/
theorem memGet_zero_other {a n b : Nat} {m : Mem} (w : memWf m = true) (h : b < a ∨ a + n ≤ b) :
    memGet b (memZero a n m) = memGet b m :=
  memGet_filter_keep _ w fun v => by simpa using h

/-- A zeroed byte reads 0. -/
theorem memGet_zero_same {a n b : Nat} (m : Mem) (h : a ≤ b) (h' : b < a + n) : memGet b (memZero a n m) = 0 := by
  induction m with
  | nil => rfl
  | cons c t ih =>
    obtain ⟨d, v⟩ := c
    simp only [memZero] at ih ⊢
    by_cases hf : (decide (d < a) || decide (a + n ≤ d)) = true
    · have hd : d ≠ b := by
        simp only [Bool.or_eq_true, decide_eq_true_eq] at hf
        omega
      simpa [List.filter_cons, hf, memGet, hd] using ih
    · simpa [List.filter_cons, hf] using ih

/-- Memory after reset has the canonical form. -/
theorem reset_mem_wf : memWf State.reset.mem = true := rfl

/-! ## Numbers in bytes -/

@[simp] theorem length_bytesOfNat (n v : Nat) : (bytesOfNat n v).length = n := by
  induction n generalizing v with
  | zero => rfl
  | succ n ih => simp [bytesOfNat, ih]

@[simp] theorem length_memBytes (m : Mem) (a n : Nat) : (memBytes m a n).length = n := by
  induction n generalizing a with
  | zero => rfl
  | succ n ih => simp [memBytes, ih]

/-- A number that fits its bytes reads back. -/
theorem natOfBytes_bytesOfNat (n v : Nat) (h : v < 256 ^ n) : natOfBytes (bytesOfNat n v) = v := by
  induction n generalizing v with
  | zero => simp [bytesOfNat, natOfBytes]; omega
  | succ n ih =>
    have h2 : v / 256 < 256 ^ n := by
      rw [Nat.div_lt_iff_lt_mul (by decide)]; rw [pow_succ] at h; exact h
    simp only [bytesOfNat, natOfBytes, ih _ h2, BitVec.toNat_ofNat]
    omega

/-- Bytes written read back. -/
theorem memBytes_write_same {m : Mem} (w : memWf m = true) (a : Nat) (bs : List Byte) :
    memBytes (memWrite a bs m) a bs.length = bs := by
  have key : ∀ (n k : Nat), n + k = bs.length → memBytes (memWrite a bs m) (a + k) n = bs.drop k := by
    intro n
    induction n with
    | zero => intro k hk; simp [memBytes]; omega
    | succ n ih =>
      intro k hk
      have hl : k < bs.length := by omega
      rw [memBytes, memGet_write_same bs w k hl, show a + k + 1 = a + (k + 1) by omega, ih (k + 1) (by omega)]
      exact (List.drop_eq_getElem_cons hl).symm
  simpa using key bs.length 0 (by omega)

end Sys2Proof.Machine
end

