-- ==== Sys2Proof/Laws/Table.lean ====
section
/-!
SUPPORT. Reading a table after it has been written, and lists with one element replaced or taken out.
-/

namespace Sys2Proof.Machine

variable {α : Type}

@[simp] theorem tableFind_put_same (k : Nat) (v : α) (t : Table α) : tableFind k (tablePut k v t) = some v := by
  induction t with
  | nil => simp [tablePut, tableFind]
  | cons e t ih =>
    obtain ⟨j, w⟩ := e
    by_cases h : j = k
    · simp [tablePut, tableFind, h]
    · by_cases h' : k < j <;> simp [tablePut, tableFind, h, h', ih]

theorem tableFind_put_other {j k : Nat} (h : j ≠ k) (v : α) (t : Table α) :
    tableFind j (tablePut k v t) = tableFind j t := by
  induction t with
  | nil => simp [tablePut, tableFind, Ne.symm h]
  | cons e t ih =>
    obtain ⟨i, w⟩ := e
    by_cases h1 : i = k
    · subst h1; simp [tablePut, tableFind, Ne.symm h]
    · by_cases h3 : i = j
      · subst h3
        by_cases h2 : k < i <;> simp [tablePut, tableFind, h1, h2, Ne.symm h]
      · by_cases h2 : k < i <;> simp [tablePut, tableFind, h1, h2, h3, ih, Ne.symm h]

@[simp] theorem tableGet_put_same (d : α) (k : Nat) (v : α) (t : Table α) : tableGet d k (tablePut k v t) = v := by
  simp [tableGet]

theorem tableGet_put_other (d : α) {j k : Nat} (h : j ≠ k) (v : α) (t : Table α) :
    tableGet d j (tablePut k v t) = tableGet d j t := by simp [tableGet, tableFind_put_other h]

theorem tableGet_put (d : α) (j k : Nat) (v : α) (t : Table α) :
    tableGet d j (tablePut k v t) = if j = k then v else tableGet d j t := by
  by_cases h : j = k
  · simp [h]
  · simp [tableGet_put_other d h, h]

/-- Two writes to one key: the second stands. -/
@[simp] theorem tablePut_put (k : Nat) (v w : α) (t : Table α) : tablePut k w (tablePut k v t) = tablePut k w t := by
  induction t with
  | nil => simp [tablePut]
  | cons e t ih =>
    obtain ⟨j, u⟩ := e
    by_cases h : j = k
    · simp [tablePut, h]
    · by_cases h' : k < j <;> simp [tablePut, h, h', ih]

theorem tableFind_map (f : Nat → α → α) (k : Nat) (t : Table α) :
    tableFind k (tableMap f t) = (tableFind k t).map (f k) := by
  induction t with
  | nil => rfl
  | cons e t ih =>
    obtain ⟨j, v⟩ := e
    by_cases h : j = k
    · subst h; simp [tableMap, tableFind]
    · have : tableFind k (tableMap f ((j, v) :: t)) = tableFind k (tableMap f t) := by simp [tableMap, tableFind, h]
      simp [this, ih, tableFind, h]

theorem tableFind_drop (k j : Nat) (t : Table α) :
    tableFind j (tableDrop k t) = if j = k then none else tableFind j t := by
  induction t with
  | nil => simp [tableDrop, tableFind]
  | cons e t ih =>
    obtain ⟨i, v⟩ := e
    simp only [tableDrop] at ih
    by_cases h : i = k
    · subst h
      by_cases h2 : j = i
      · subst h2; simpa [tableDrop, tableFind] using ih
      · simpa [tableDrop, tableFind, h2, Ne.symm h2] using ih
    · by_cases h2 : i = j
      · subst h2; simp [tableDrop, tableFind, h]
      · simpa [tableDrop, tableFind, h, h2] using ih

@[simp] theorem length_listPut (n : Nat) (v : α) (t : List α) : (listPut n v t).length = t.length := by
  induction t generalizing n with
  | nil => simp [listPut]
  | cons x t ih => cases n <;> simp [listPut, ih]

end Sys2Proof.Machine
end

