-- ==== Sys2Proof/Laws/State.lean ====
section
/-!
SUPPORT. What each update of the state leaves alone: one lemma per field and update, true by unfolding; and what a read
gives after a write.
-/

set_option Elab.async false
set_option linter.all false

namespace Sys2Proof.Machine

/-! ### setCtx -/

@[simp] theorem State.setCtx_mem (s : State) (tid : Nat) (c : Ctx) : (s.setCtx tid c).mem = s.mem := rfl
@[simp] theorem State.setCtx_ctxs (s : State) (tid : Nat) (c : Ctx) : (s.setCtx tid c).ctxs = tablePut tid c s.ctxs := rfl
@[simp] theorem State.setCtx_procs (s : State) (tid : Nat) (c : Ctx) : (s.setCtx tid c).procs = s.procs := rfl
@[simp] theorem State.setCtx_cores (s : State) (tid : Nat) (c : Ctx) : (s.setCtx tid c).cores = s.cores := rfl
@[simp] theorem State.setCtx_clusters (s : State) (tid : Nat) (c : Ctx) : (s.setCtx tid c).clusters = s.clusters := rfl
@[simp] theorem State.setCtx_banks (s : State) (tid : Nat) (c : Ctx) : (s.setCtx tid c).banks = s.banks := rfl
@[simp] theorem State.setCtx_offbuf (s : State) (tid : Nat) (c : Ctx) : (s.setCtx tid c).offbuf = s.offbuf := rfl
@[simp] theorem State.setCtx_net (s : State) (tid : Nat) (c : Ctx) : (s.setCtx tid c).net = s.net := rfl
@[simp] theorem State.setCtx_circuits (s : State) (tid : Nat) (c : Ctx) : (s.setCtx tid c).circuits = s.circuits := rfl
@[simp] theorem State.setCtx_regions (s : State) (tid : Nat) (c : Ctx) : (s.setCtx tid c).regions = s.regions := rfl
@[simp] theorem State.setCtx_regbase (s : State) (tid : Nat) (c : Ctx) : (s.setCtx tid c).regbase = s.regbase := rfl
@[simp] theorem State.setCtx_jobCount (s : State) (tid : Nat) (c : Ctx) : (s.setCtx tid c).jobCount = s.jobCount := rfl
@[simp] theorem State.setCtx_frontFaults (s : State) (tid : Nat) (c : Ctx) : (s.setCtx tid c).frontFaults = s.frontFaults := rfl
@[simp] theorem State.setCtx_recordPins (s : State) (tid : Nat) (c : Ctx) : (s.setCtx tid c).recordPins = s.recordPins := rfl
@[simp] theorem State.setCtx_pinned (s : State) (tid : Nat) (c : Ctx) : (s.setCtx tid c).pinned = s.pinned := rfl
@[simp] theorem State.setCtx_queues (s : State) (tid : Nat) (c : Ctx) : (s.setCtx tid c).queues = s.queues := rfl
@[simp] theorem State.setCtx_launches (s : State) (tid : Nat) (c : Ctx) : (s.setCtx tid c).launches = s.launches := rfl
@[simp] theorem State.setCtx_reservations (s : State) (tid : Nat) (c : Ctx) : (s.setCtx tid c).reservations = s.reservations := rfl
@[simp] theorem State.setCtx_groups (s : State) (tid : Nat) (c : Ctx) : (s.setCtx tid c).groups = s.groups := rfl
@[simp] theorem State.setCtx_bindings (s : State) (tid : Nat) (c : Ctx) : (s.setCtx tid c).bindings = s.bindings := rfl
@[simp] theorem State.setCtx_ingress (s : State) (tid : Nat) (c : Ctx) : (s.setCtx tid c).ingress = s.ingress := rfl
@[simp] theorem State.setCtx_dieFreq (s : State) (tid : Nat) (c : Ctx) : (s.setCtx tid c).dieFreq = s.dieFreq := rfl
@[simp] theorem State.setCtx_dieDecisions (s : State) (tid : Nat) (c : Ctx) : (s.setCtx tid c).dieDecisions = s.dieDecisions := rfl
@[simp] theorem State.setCtx_now (s : State) (tid : Nat) (c : Ctx) : (s.setCtx tid c).now = s.now := rfl
@[simp] theorem State.setCtx_tstat (s : State) (tid : Nat) (c : Ctx) : (s.setCtx tid c).tstat = s.tstat := rfl
@[simp] theorem State.setCtx_timeOffset (s : State) (tid : Nat) (c : Ctx) : (s.setCtx tid c).timeOffset = s.timeOffset := rfl
@[simp] theorem State.setCtx_everLocked (s : State) (tid : Nat) (c : Ctx) : (s.setCtx tid c).everLocked = s.everLocked := rfl
@[simp] theorem State.setCtx_holdoverSince (s : State) (tid : Nat) (c : Ctx) : (s.setCtx tid c).holdoverSince = s.holdoverSince := rfl
@[simp] theorem State.setCtx_lifecycle (s : State) (tid : Nat) (c : Ctx) : (s.setCtx tid c).lifecycle = s.lifecycle := rfl
@[simp] theorem State.setCtx_wiping (s : State) (tid : Nat) (c : Ctx) : (s.setCtx tid c).wiping = s.wiping := rfl
@[simp] theorem State.setCtx_rrq (s : State) (tid : Nat) (c : Ctx) : (s.setCtx tid c).rrq = s.rrq := rfl
@[simp] theorem State.setCtx_pwrlim (s : State) (tid : Nat) (c : Ctx) : (s.setCtx tid c).pwrlim = s.pwrlim := rfl
@[simp] theorem State.setCtx_igdrop (s : State) (tid : Nat) (c : Ctx) : (s.setCtx tid c).igdrop = s.igdrop := rfl
@[simp] theorem State.setCtx_iglate (s : State) (tid : Nat) (c : Ctx) : (s.setCtx tid c).iglate = s.iglate := rfl
@[simp] theorem State.setCtx_peers (s : State) (tid : Nat) (c : Ctx) : (s.setCtx tid c).peers = s.peers := rfl
@[simp] theorem State.setCtx_bootMode (s : State) (tid : Nat) (c : Ctx) : (s.setCtx tid c).bootMode = s.bootMode := rfl
@[simp] theorem State.setCtx_phase (s : State) (tid : Nat) (c : Ctx) : (s.setCtx tid c).phase = s.phase := rfl
@[simp] theorem State.setCtx_phaseTime (s : State) (tid : Nat) (c : Ctx) : (s.setCtx tid c).phaseTime = s.phaseTime := rfl
@[simp] theorem State.setCtx_bootFailed (s : State) (tid : Nat) (c : Ctx) : (s.setCtx tid c).bootFailed = s.bootFailed := rfl
@[simp] theorem State.setCtx_supplied (s : State) (tid : Nat) (c : Ctx) : (s.setCtx tid c).supplied = s.supplied := rfl
@[simp] theorem State.setCtx_running (s : State) (tid : Nat) (c : Ctx) : (s.setCtx tid c).running = s.running := rfl
@[simp] theorem State.setCtx_dead (s : State) (tid : Nat) (c : Ctx) : (s.setCtx tid c).dead = s.dead := rfl
@[simp] theorem State.setCtx_config (s : State) (tid : Nat) (c : Ctx) : (s.setCtx tid c).config = s.config := rfl
@[simp] theorem State.setCtx_fuses (s : State) (tid : Nat) (c : Ctx) : (s.setCtx tid c).fuses = s.fuses := rfl
@[simp] theorem State.setCtx_lmap (s : State) (tid : Nat) (c : Ctx) : (s.setCtx tid c).lmap = s.lmap := rfl
@[simp] theorem State.setCtx_uetOut (s : State) (tid : Nat) (c : Ctx) : (s.setCtx tid c).uetOut = s.uetOut := rfl
@[simp] theorem State.setCtx_agenda (s : State) (tid : Nat) (c : Ctx) : (s.setCtx tid c).agenda = s.agenda := rfl
@[simp] theorem State.setCtx_cur (s : State) (tid : Nat) (c : Ctx) : (s.setCtx tid c).cur = s.cur := rfl
@[simp] theorem State.setCtx_fresh (s : State) (tid : Nat) (c : Ctx) : (s.setCtx tid c).fresh = s.fresh := rfl

/-! ### modCtx -/

@[simp] theorem State.modCtx_mem (s : State) (tid : Nat) (f : Ctx → Ctx) : (s.modCtx tid f).mem = s.mem := rfl
@[simp] theorem State.modCtx_ctxs (s : State) (tid : Nat) (f : Ctx → Ctx) : (s.modCtx tid f).ctxs = tablePut tid (f (s.ctx tid)) s.ctxs := rfl
@[simp] theorem State.modCtx_procs (s : State) (tid : Nat) (f : Ctx → Ctx) : (s.modCtx tid f).procs = s.procs := rfl
@[simp] theorem State.modCtx_cores (s : State) (tid : Nat) (f : Ctx → Ctx) : (s.modCtx tid f).cores = s.cores := rfl
@[simp] theorem State.modCtx_clusters (s : State) (tid : Nat) (f : Ctx → Ctx) : (s.modCtx tid f).clusters = s.clusters := rfl
@[simp] theorem State.modCtx_banks (s : State) (tid : Nat) (f : Ctx → Ctx) : (s.modCtx tid f).banks = s.banks := rfl
@[simp] theorem State.modCtx_offbuf (s : State) (tid : Nat) (f : Ctx → Ctx) : (s.modCtx tid f).offbuf = s.offbuf := rfl
@[simp] theorem State.modCtx_net (s : State) (tid : Nat) (f : Ctx → Ctx) : (s.modCtx tid f).net = s.net := rfl
@[simp] theorem State.modCtx_circuits (s : State) (tid : Nat) (f : Ctx → Ctx) : (s.modCtx tid f).circuits = s.circuits := rfl
@[simp] theorem State.modCtx_regions (s : State) (tid : Nat) (f : Ctx → Ctx) : (s.modCtx tid f).regions = s.regions := rfl
@[simp] theorem State.modCtx_regbase (s : State) (tid : Nat) (f : Ctx → Ctx) : (s.modCtx tid f).regbase = s.regbase := rfl
@[simp] theorem State.modCtx_jobCount (s : State) (tid : Nat) (f : Ctx → Ctx) : (s.modCtx tid f).jobCount = s.jobCount := rfl
@[simp] theorem State.modCtx_frontFaults (s : State) (tid : Nat) (f : Ctx → Ctx) : (s.modCtx tid f).frontFaults = s.frontFaults := rfl
@[simp] theorem State.modCtx_recordPins (s : State) (tid : Nat) (f : Ctx → Ctx) : (s.modCtx tid f).recordPins = s.recordPins := rfl
@[simp] theorem State.modCtx_pinned (s : State) (tid : Nat) (f : Ctx → Ctx) : (s.modCtx tid f).pinned = s.pinned := rfl
@[simp] theorem State.modCtx_queues (s : State) (tid : Nat) (f : Ctx → Ctx) : (s.modCtx tid f).queues = s.queues := rfl
@[simp] theorem State.modCtx_launches (s : State) (tid : Nat) (f : Ctx → Ctx) : (s.modCtx tid f).launches = s.launches := rfl
@[simp] theorem State.modCtx_reservations (s : State) (tid : Nat) (f : Ctx → Ctx) : (s.modCtx tid f).reservations = s.reservations := rfl
@[simp] theorem State.modCtx_groups (s : State) (tid : Nat) (f : Ctx → Ctx) : (s.modCtx tid f).groups = s.groups := rfl
@[simp] theorem State.modCtx_bindings (s : State) (tid : Nat) (f : Ctx → Ctx) : (s.modCtx tid f).bindings = s.bindings := rfl
@[simp] theorem State.modCtx_ingress (s : State) (tid : Nat) (f : Ctx → Ctx) : (s.modCtx tid f).ingress = s.ingress := rfl
@[simp] theorem State.modCtx_dieFreq (s : State) (tid : Nat) (f : Ctx → Ctx) : (s.modCtx tid f).dieFreq = s.dieFreq := rfl
@[simp] theorem State.modCtx_dieDecisions (s : State) (tid : Nat) (f : Ctx → Ctx) : (s.modCtx tid f).dieDecisions = s.dieDecisions := rfl
@[simp] theorem State.modCtx_now (s : State) (tid : Nat) (f : Ctx → Ctx) : (s.modCtx tid f).now = s.now := rfl
@[simp] theorem State.modCtx_tstat (s : State) (tid : Nat) (f : Ctx → Ctx) : (s.modCtx tid f).tstat = s.tstat := rfl
@[simp] theorem State.modCtx_timeOffset (s : State) (tid : Nat) (f : Ctx → Ctx) : (s.modCtx tid f).timeOffset = s.timeOffset := rfl
@[simp] theorem State.modCtx_everLocked (s : State) (tid : Nat) (f : Ctx → Ctx) : (s.modCtx tid f).everLocked = s.everLocked := rfl
@[simp] theorem State.modCtx_holdoverSince (s : State) (tid : Nat) (f : Ctx → Ctx) : (s.modCtx tid f).holdoverSince = s.holdoverSince := rfl
@[simp] theorem State.modCtx_lifecycle (s : State) (tid : Nat) (f : Ctx → Ctx) : (s.modCtx tid f).lifecycle = s.lifecycle := rfl
@[simp] theorem State.modCtx_wiping (s : State) (tid : Nat) (f : Ctx → Ctx) : (s.modCtx tid f).wiping = s.wiping := rfl
@[simp] theorem State.modCtx_rrq (s : State) (tid : Nat) (f : Ctx → Ctx) : (s.modCtx tid f).rrq = s.rrq := rfl
@[simp] theorem State.modCtx_pwrlim (s : State) (tid : Nat) (f : Ctx → Ctx) : (s.modCtx tid f).pwrlim = s.pwrlim := rfl
@[simp] theorem State.modCtx_igdrop (s : State) (tid : Nat) (f : Ctx → Ctx) : (s.modCtx tid f).igdrop = s.igdrop := rfl
@[simp] theorem State.modCtx_iglate (s : State) (tid : Nat) (f : Ctx → Ctx) : (s.modCtx tid f).iglate = s.iglate := rfl
@[simp] theorem State.modCtx_peers (s : State) (tid : Nat) (f : Ctx → Ctx) : (s.modCtx tid f).peers = s.peers := rfl
@[simp] theorem State.modCtx_bootMode (s : State) (tid : Nat) (f : Ctx → Ctx) : (s.modCtx tid f).bootMode = s.bootMode := rfl
@[simp] theorem State.modCtx_phase (s : State) (tid : Nat) (f : Ctx → Ctx) : (s.modCtx tid f).phase = s.phase := rfl
@[simp] theorem State.modCtx_phaseTime (s : State) (tid : Nat) (f : Ctx → Ctx) : (s.modCtx tid f).phaseTime = s.phaseTime := rfl
@[simp] theorem State.modCtx_bootFailed (s : State) (tid : Nat) (f : Ctx → Ctx) : (s.modCtx tid f).bootFailed = s.bootFailed := rfl
@[simp] theorem State.modCtx_supplied (s : State) (tid : Nat) (f : Ctx → Ctx) : (s.modCtx tid f).supplied = s.supplied := rfl
@[simp] theorem State.modCtx_running (s : State) (tid : Nat) (f : Ctx → Ctx) : (s.modCtx tid f).running = s.running := rfl
@[simp] theorem State.modCtx_dead (s : State) (tid : Nat) (f : Ctx → Ctx) : (s.modCtx tid f).dead = s.dead := rfl
@[simp] theorem State.modCtx_config (s : State) (tid : Nat) (f : Ctx → Ctx) : (s.modCtx tid f).config = s.config := rfl
@[simp] theorem State.modCtx_fuses (s : State) (tid : Nat) (f : Ctx → Ctx) : (s.modCtx tid f).fuses = s.fuses := rfl
@[simp] theorem State.modCtx_lmap (s : State) (tid : Nat) (f : Ctx → Ctx) : (s.modCtx tid f).lmap = s.lmap := rfl
@[simp] theorem State.modCtx_uetOut (s : State) (tid : Nat) (f : Ctx → Ctx) : (s.modCtx tid f).uetOut = s.uetOut := rfl
@[simp] theorem State.modCtx_agenda (s : State) (tid : Nat) (f : Ctx → Ctx) : (s.modCtx tid f).agenda = s.agenda := rfl
@[simp] theorem State.modCtx_cur (s : State) (tid : Nat) (f : Ctx → Ctx) : (s.modCtx tid f).cur = s.cur := rfl
@[simp] theorem State.modCtx_fresh (s : State) (tid : Nat) (f : Ctx → Ctx) : (s.modCtx tid f).fresh = s.fresh := rfl

/-! ### setMe -/

@[simp] theorem State.setMe_mem (s : State) (c : Ctx) : (s.setMe c).mem = s.mem := rfl
@[simp] theorem State.setMe_ctxs (s : State) (c : Ctx) : (s.setMe c).ctxs = tablePut s.cur c s.ctxs := rfl
@[simp] theorem State.setMe_procs (s : State) (c : Ctx) : (s.setMe c).procs = s.procs := rfl
@[simp] theorem State.setMe_cores (s : State) (c : Ctx) : (s.setMe c).cores = s.cores := rfl
@[simp] theorem State.setMe_clusters (s : State) (c : Ctx) : (s.setMe c).clusters = s.clusters := rfl
@[simp] theorem State.setMe_banks (s : State) (c : Ctx) : (s.setMe c).banks = s.banks := rfl
@[simp] theorem State.setMe_offbuf (s : State) (c : Ctx) : (s.setMe c).offbuf = s.offbuf := rfl
@[simp] theorem State.setMe_net (s : State) (c : Ctx) : (s.setMe c).net = s.net := rfl
@[simp] theorem State.setMe_circuits (s : State) (c : Ctx) : (s.setMe c).circuits = s.circuits := rfl
@[simp] theorem State.setMe_regions (s : State) (c : Ctx) : (s.setMe c).regions = s.regions := rfl
@[simp] theorem State.setMe_regbase (s : State) (c : Ctx) : (s.setMe c).regbase = s.regbase := rfl
@[simp] theorem State.setMe_jobCount (s : State) (c : Ctx) : (s.setMe c).jobCount = s.jobCount := rfl
@[simp] theorem State.setMe_frontFaults (s : State) (c : Ctx) : (s.setMe c).frontFaults = s.frontFaults := rfl
@[simp] theorem State.setMe_recordPins (s : State) (c : Ctx) : (s.setMe c).recordPins = s.recordPins := rfl
@[simp] theorem State.setMe_pinned (s : State) (c : Ctx) : (s.setMe c).pinned = s.pinned := rfl
@[simp] theorem State.setMe_queues (s : State) (c : Ctx) : (s.setMe c).queues = s.queues := rfl
@[simp] theorem State.setMe_launches (s : State) (c : Ctx) : (s.setMe c).launches = s.launches := rfl
@[simp] theorem State.setMe_reservations (s : State) (c : Ctx) : (s.setMe c).reservations = s.reservations := rfl
@[simp] theorem State.setMe_groups (s : State) (c : Ctx) : (s.setMe c).groups = s.groups := rfl
@[simp] theorem State.setMe_bindings (s : State) (c : Ctx) : (s.setMe c).bindings = s.bindings := rfl
@[simp] theorem State.setMe_ingress (s : State) (c : Ctx) : (s.setMe c).ingress = s.ingress := rfl
@[simp] theorem State.setMe_dieFreq (s : State) (c : Ctx) : (s.setMe c).dieFreq = s.dieFreq := rfl
@[simp] theorem State.setMe_dieDecisions (s : State) (c : Ctx) : (s.setMe c).dieDecisions = s.dieDecisions := rfl
@[simp] theorem State.setMe_now (s : State) (c : Ctx) : (s.setMe c).now = s.now := rfl
@[simp] theorem State.setMe_tstat (s : State) (c : Ctx) : (s.setMe c).tstat = s.tstat := rfl
@[simp] theorem State.setMe_timeOffset (s : State) (c : Ctx) : (s.setMe c).timeOffset = s.timeOffset := rfl
@[simp] theorem State.setMe_everLocked (s : State) (c : Ctx) : (s.setMe c).everLocked = s.everLocked := rfl
@[simp] theorem State.setMe_holdoverSince (s : State) (c : Ctx) : (s.setMe c).holdoverSince = s.holdoverSince := rfl
@[simp] theorem State.setMe_lifecycle (s : State) (c : Ctx) : (s.setMe c).lifecycle = s.lifecycle := rfl
@[simp] theorem State.setMe_wiping (s : State) (c : Ctx) : (s.setMe c).wiping = s.wiping := rfl
@[simp] theorem State.setMe_rrq (s : State) (c : Ctx) : (s.setMe c).rrq = s.rrq := rfl
@[simp] theorem State.setMe_pwrlim (s : State) (c : Ctx) : (s.setMe c).pwrlim = s.pwrlim := rfl
@[simp] theorem State.setMe_igdrop (s : State) (c : Ctx) : (s.setMe c).igdrop = s.igdrop := rfl
@[simp] theorem State.setMe_iglate (s : State) (c : Ctx) : (s.setMe c).iglate = s.iglate := rfl
@[simp] theorem State.setMe_peers (s : State) (c : Ctx) : (s.setMe c).peers = s.peers := rfl
@[simp] theorem State.setMe_bootMode (s : State) (c : Ctx) : (s.setMe c).bootMode = s.bootMode := rfl
@[simp] theorem State.setMe_phase (s : State) (c : Ctx) : (s.setMe c).phase = s.phase := rfl
@[simp] theorem State.setMe_phaseTime (s : State) (c : Ctx) : (s.setMe c).phaseTime = s.phaseTime := rfl
@[simp] theorem State.setMe_bootFailed (s : State) (c : Ctx) : (s.setMe c).bootFailed = s.bootFailed := rfl
@[simp] theorem State.setMe_supplied (s : State) (c : Ctx) : (s.setMe c).supplied = s.supplied := rfl
@[simp] theorem State.setMe_running (s : State) (c : Ctx) : (s.setMe c).running = s.running := rfl
@[simp] theorem State.setMe_dead (s : State) (c : Ctx) : (s.setMe c).dead = s.dead := rfl
@[simp] theorem State.setMe_config (s : State) (c : Ctx) : (s.setMe c).config = s.config := rfl
@[simp] theorem State.setMe_fuses (s : State) (c : Ctx) : (s.setMe c).fuses = s.fuses := rfl
@[simp] theorem State.setMe_lmap (s : State) (c : Ctx) : (s.setMe c).lmap = s.lmap := rfl
@[simp] theorem State.setMe_uetOut (s : State) (c : Ctx) : (s.setMe c).uetOut = s.uetOut := rfl
@[simp] theorem State.setMe_agenda (s : State) (c : Ctx) : (s.setMe c).agenda = s.agenda := rfl
@[simp] theorem State.setMe_cur (s : State) (c : Ctx) : (s.setMe c).cur = s.cur := rfl
@[simp] theorem State.setMe_fresh (s : State) (c : Ctx) : (s.setMe c).fresh = s.fresh := rfl

/-! ### modMe -/

@[simp] theorem State.modMe_mem (s : State) (f : Ctx → Ctx) : (s.modMe f).mem = s.mem := rfl
@[simp] theorem State.modMe_ctxs (s : State) (f : Ctx → Ctx) : (s.modMe f).ctxs = tablePut s.cur (f s.me) s.ctxs := rfl
@[simp] theorem State.modMe_procs (s : State) (f : Ctx → Ctx) : (s.modMe f).procs = s.procs := rfl
@[simp] theorem State.modMe_cores (s : State) (f : Ctx → Ctx) : (s.modMe f).cores = s.cores := rfl
@[simp] theorem State.modMe_clusters (s : State) (f : Ctx → Ctx) : (s.modMe f).clusters = s.clusters := rfl
@[simp] theorem State.modMe_banks (s : State) (f : Ctx → Ctx) : (s.modMe f).banks = s.banks := rfl
@[simp] theorem State.modMe_offbuf (s : State) (f : Ctx → Ctx) : (s.modMe f).offbuf = s.offbuf := rfl
@[simp] theorem State.modMe_net (s : State) (f : Ctx → Ctx) : (s.modMe f).net = s.net := rfl
@[simp] theorem State.modMe_circuits (s : State) (f : Ctx → Ctx) : (s.modMe f).circuits = s.circuits := rfl
@[simp] theorem State.modMe_regions (s : State) (f : Ctx → Ctx) : (s.modMe f).regions = s.regions := rfl
@[simp] theorem State.modMe_regbase (s : State) (f : Ctx → Ctx) : (s.modMe f).regbase = s.regbase := rfl
@[simp] theorem State.modMe_jobCount (s : State) (f : Ctx → Ctx) : (s.modMe f).jobCount = s.jobCount := rfl
@[simp] theorem State.modMe_frontFaults (s : State) (f : Ctx → Ctx) : (s.modMe f).frontFaults = s.frontFaults := rfl
@[simp] theorem State.modMe_recordPins (s : State) (f : Ctx → Ctx) : (s.modMe f).recordPins = s.recordPins := rfl
@[simp] theorem State.modMe_pinned (s : State) (f : Ctx → Ctx) : (s.modMe f).pinned = s.pinned := rfl
@[simp] theorem State.modMe_queues (s : State) (f : Ctx → Ctx) : (s.modMe f).queues = s.queues := rfl
@[simp] theorem State.modMe_launches (s : State) (f : Ctx → Ctx) : (s.modMe f).launches = s.launches := rfl
@[simp] theorem State.modMe_reservations (s : State) (f : Ctx → Ctx) : (s.modMe f).reservations = s.reservations := rfl
@[simp] theorem State.modMe_groups (s : State) (f : Ctx → Ctx) : (s.modMe f).groups = s.groups := rfl
@[simp] theorem State.modMe_bindings (s : State) (f : Ctx → Ctx) : (s.modMe f).bindings = s.bindings := rfl
@[simp] theorem State.modMe_ingress (s : State) (f : Ctx → Ctx) : (s.modMe f).ingress = s.ingress := rfl
@[simp] theorem State.modMe_dieFreq (s : State) (f : Ctx → Ctx) : (s.modMe f).dieFreq = s.dieFreq := rfl
@[simp] theorem State.modMe_dieDecisions (s : State) (f : Ctx → Ctx) : (s.modMe f).dieDecisions = s.dieDecisions := rfl
@[simp] theorem State.modMe_now (s : State) (f : Ctx → Ctx) : (s.modMe f).now = s.now := rfl
@[simp] theorem State.modMe_tstat (s : State) (f : Ctx → Ctx) : (s.modMe f).tstat = s.tstat := rfl
@[simp] theorem State.modMe_timeOffset (s : State) (f : Ctx → Ctx) : (s.modMe f).timeOffset = s.timeOffset := rfl
@[simp] theorem State.modMe_everLocked (s : State) (f : Ctx → Ctx) : (s.modMe f).everLocked = s.everLocked := rfl
@[simp] theorem State.modMe_holdoverSince (s : State) (f : Ctx → Ctx) : (s.modMe f).holdoverSince = s.holdoverSince := rfl
@[simp] theorem State.modMe_lifecycle (s : State) (f : Ctx → Ctx) : (s.modMe f).lifecycle = s.lifecycle := rfl
@[simp] theorem State.modMe_wiping (s : State) (f : Ctx → Ctx) : (s.modMe f).wiping = s.wiping := rfl
@[simp] theorem State.modMe_rrq (s : State) (f : Ctx → Ctx) : (s.modMe f).rrq = s.rrq := rfl
@[simp] theorem State.modMe_pwrlim (s : State) (f : Ctx → Ctx) : (s.modMe f).pwrlim = s.pwrlim := rfl
@[simp] theorem State.modMe_igdrop (s : State) (f : Ctx → Ctx) : (s.modMe f).igdrop = s.igdrop := rfl
@[simp] theorem State.modMe_iglate (s : State) (f : Ctx → Ctx) : (s.modMe f).iglate = s.iglate := rfl
@[simp] theorem State.modMe_peers (s : State) (f : Ctx → Ctx) : (s.modMe f).peers = s.peers := rfl
@[simp] theorem State.modMe_bootMode (s : State) (f : Ctx → Ctx) : (s.modMe f).bootMode = s.bootMode := rfl
@[simp] theorem State.modMe_phase (s : State) (f : Ctx → Ctx) : (s.modMe f).phase = s.phase := rfl
@[simp] theorem State.modMe_phaseTime (s : State) (f : Ctx → Ctx) : (s.modMe f).phaseTime = s.phaseTime := rfl
@[simp] theorem State.modMe_bootFailed (s : State) (f : Ctx → Ctx) : (s.modMe f).bootFailed = s.bootFailed := rfl
@[simp] theorem State.modMe_supplied (s : State) (f : Ctx → Ctx) : (s.modMe f).supplied = s.supplied := rfl
@[simp] theorem State.modMe_running (s : State) (f : Ctx → Ctx) : (s.modMe f).running = s.running := rfl
@[simp] theorem State.modMe_dead (s : State) (f : Ctx → Ctx) : (s.modMe f).dead = s.dead := rfl
@[simp] theorem State.modMe_config (s : State) (f : Ctx → Ctx) : (s.modMe f).config = s.config := rfl
@[simp] theorem State.modMe_fuses (s : State) (f : Ctx → Ctx) : (s.modMe f).fuses = s.fuses := rfl
@[simp] theorem State.modMe_lmap (s : State) (f : Ctx → Ctx) : (s.modMe f).lmap = s.lmap := rfl
@[simp] theorem State.modMe_uetOut (s : State) (f : Ctx → Ctx) : (s.modMe f).uetOut = s.uetOut := rfl
@[simp] theorem State.modMe_agenda (s : State) (f : Ctx → Ctx) : (s.modMe f).agenda = s.agenda := rfl
@[simp] theorem State.modMe_cur (s : State) (f : Ctx → Ctx) : (s.modMe f).cur = s.cur := rfl
@[simp] theorem State.modMe_fresh (s : State) (f : Ctx → Ctx) : (s.modMe f).fresh = s.fresh := rfl

/-! ### setCore -/

@[simp] theorem State.setCore_mem (s : State) (p : Nat) (c : CoreS) : (s.setCore p c).mem = s.mem := rfl
@[simp] theorem State.setCore_ctxs (s : State) (p : Nat) (c : CoreS) : (s.setCore p c).ctxs = s.ctxs := rfl
@[simp] theorem State.setCore_procs (s : State) (p : Nat) (c : CoreS) : (s.setCore p c).procs = s.procs := rfl
@[simp] theorem State.setCore_cores (s : State) (p : Nat) (c : CoreS) : (s.setCore p c).cores = tablePut p c s.cores := rfl
@[simp] theorem State.setCore_clusters (s : State) (p : Nat) (c : CoreS) : (s.setCore p c).clusters = s.clusters := rfl
@[simp] theorem State.setCore_banks (s : State) (p : Nat) (c : CoreS) : (s.setCore p c).banks = s.banks := rfl
@[simp] theorem State.setCore_offbuf (s : State) (p : Nat) (c : CoreS) : (s.setCore p c).offbuf = s.offbuf := rfl
@[simp] theorem State.setCore_net (s : State) (p : Nat) (c : CoreS) : (s.setCore p c).net = s.net := rfl
@[simp] theorem State.setCore_circuits (s : State) (p : Nat) (c : CoreS) : (s.setCore p c).circuits = s.circuits := rfl
@[simp] theorem State.setCore_regions (s : State) (p : Nat) (c : CoreS) : (s.setCore p c).regions = s.regions := rfl
@[simp] theorem State.setCore_regbase (s : State) (p : Nat) (c : CoreS) : (s.setCore p c).regbase = s.regbase := rfl
@[simp] theorem State.setCore_jobCount (s : State) (p : Nat) (c : CoreS) : (s.setCore p c).jobCount = s.jobCount := rfl
@[simp] theorem State.setCore_frontFaults (s : State) (p : Nat) (c : CoreS) : (s.setCore p c).frontFaults = s.frontFaults := rfl
@[simp] theorem State.setCore_recordPins (s : State) (p : Nat) (c : CoreS) : (s.setCore p c).recordPins = s.recordPins := rfl
@[simp] theorem State.setCore_pinned (s : State) (p : Nat) (c : CoreS) : (s.setCore p c).pinned = s.pinned := rfl
@[simp] theorem State.setCore_queues (s : State) (p : Nat) (c : CoreS) : (s.setCore p c).queues = s.queues := rfl
@[simp] theorem State.setCore_launches (s : State) (p : Nat) (c : CoreS) : (s.setCore p c).launches = s.launches := rfl
@[simp] theorem State.setCore_reservations (s : State) (p : Nat) (c : CoreS) : (s.setCore p c).reservations = s.reservations := rfl
@[simp] theorem State.setCore_groups (s : State) (p : Nat) (c : CoreS) : (s.setCore p c).groups = s.groups := rfl
@[simp] theorem State.setCore_bindings (s : State) (p : Nat) (c : CoreS) : (s.setCore p c).bindings = s.bindings := rfl
@[simp] theorem State.setCore_ingress (s : State) (p : Nat) (c : CoreS) : (s.setCore p c).ingress = s.ingress := rfl
@[simp] theorem State.setCore_dieFreq (s : State) (p : Nat) (c : CoreS) : (s.setCore p c).dieFreq = s.dieFreq := rfl
@[simp] theorem State.setCore_dieDecisions (s : State) (p : Nat) (c : CoreS) : (s.setCore p c).dieDecisions = s.dieDecisions := rfl
@[simp] theorem State.setCore_now (s : State) (p : Nat) (c : CoreS) : (s.setCore p c).now = s.now := rfl
@[simp] theorem State.setCore_tstat (s : State) (p : Nat) (c : CoreS) : (s.setCore p c).tstat = s.tstat := rfl
@[simp] theorem State.setCore_timeOffset (s : State) (p : Nat) (c : CoreS) : (s.setCore p c).timeOffset = s.timeOffset := rfl
@[simp] theorem State.setCore_everLocked (s : State) (p : Nat) (c : CoreS) : (s.setCore p c).everLocked = s.everLocked := rfl
@[simp] theorem State.setCore_holdoverSince (s : State) (p : Nat) (c : CoreS) : (s.setCore p c).holdoverSince = s.holdoverSince := rfl
@[simp] theorem State.setCore_lifecycle (s : State) (p : Nat) (c : CoreS) : (s.setCore p c).lifecycle = s.lifecycle := rfl
@[simp] theorem State.setCore_wiping (s : State) (p : Nat) (c : CoreS) : (s.setCore p c).wiping = s.wiping := rfl
@[simp] theorem State.setCore_rrq (s : State) (p : Nat) (c : CoreS) : (s.setCore p c).rrq = s.rrq := rfl
@[simp] theorem State.setCore_pwrlim (s : State) (p : Nat) (c : CoreS) : (s.setCore p c).pwrlim = s.pwrlim := rfl
@[simp] theorem State.setCore_igdrop (s : State) (p : Nat) (c : CoreS) : (s.setCore p c).igdrop = s.igdrop := rfl
@[simp] theorem State.setCore_iglate (s : State) (p : Nat) (c : CoreS) : (s.setCore p c).iglate = s.iglate := rfl
@[simp] theorem State.setCore_peers (s : State) (p : Nat) (c : CoreS) : (s.setCore p c).peers = s.peers := rfl
@[simp] theorem State.setCore_bootMode (s : State) (p : Nat) (c : CoreS) : (s.setCore p c).bootMode = s.bootMode := rfl
@[simp] theorem State.setCore_phase (s : State) (p : Nat) (c : CoreS) : (s.setCore p c).phase = s.phase := rfl
@[simp] theorem State.setCore_phaseTime (s : State) (p : Nat) (c : CoreS) : (s.setCore p c).phaseTime = s.phaseTime := rfl
@[simp] theorem State.setCore_bootFailed (s : State) (p : Nat) (c : CoreS) : (s.setCore p c).bootFailed = s.bootFailed := rfl
@[simp] theorem State.setCore_supplied (s : State) (p : Nat) (c : CoreS) : (s.setCore p c).supplied = s.supplied := rfl
@[simp] theorem State.setCore_running (s : State) (p : Nat) (c : CoreS) : (s.setCore p c).running = s.running := rfl
@[simp] theorem State.setCore_dead (s : State) (p : Nat) (c : CoreS) : (s.setCore p c).dead = s.dead := rfl
@[simp] theorem State.setCore_config (s : State) (p : Nat) (c : CoreS) : (s.setCore p c).config = s.config := rfl
@[simp] theorem State.setCore_fuses (s : State) (p : Nat) (c : CoreS) : (s.setCore p c).fuses = s.fuses := rfl
@[simp] theorem State.setCore_lmap (s : State) (p : Nat) (c : CoreS) : (s.setCore p c).lmap = s.lmap := rfl
@[simp] theorem State.setCore_uetOut (s : State) (p : Nat) (c : CoreS) : (s.setCore p c).uetOut = s.uetOut := rfl
@[simp] theorem State.setCore_agenda (s : State) (p : Nat) (c : CoreS) : (s.setCore p c).agenda = s.agenda := rfl
@[simp] theorem State.setCore_cur (s : State) (p : Nat) (c : CoreS) : (s.setCore p c).cur = s.cur := rfl
@[simp] theorem State.setCore_fresh (s : State) (p : Nat) (c : CoreS) : (s.setCore p c).fresh = s.fresh := rfl

/-! ### modCore -/

@[simp] theorem State.modCore_mem (s : State) (p : Nat) (f : CoreS → CoreS) : (s.modCore p f).mem = s.mem := rfl
@[simp] theorem State.modCore_ctxs (s : State) (p : Nat) (f : CoreS → CoreS) : (s.modCore p f).ctxs = s.ctxs := rfl
@[simp] theorem State.modCore_procs (s : State) (p : Nat) (f : CoreS → CoreS) : (s.modCore p f).procs = s.procs := rfl
@[simp] theorem State.modCore_cores (s : State) (p : Nat) (f : CoreS → CoreS) : (s.modCore p f).cores = tablePut p (f (s.core p)) s.cores := rfl
@[simp] theorem State.modCore_clusters (s : State) (p : Nat) (f : CoreS → CoreS) : (s.modCore p f).clusters = s.clusters := rfl
@[simp] theorem State.modCore_banks (s : State) (p : Nat) (f : CoreS → CoreS) : (s.modCore p f).banks = s.banks := rfl
@[simp] theorem State.modCore_offbuf (s : State) (p : Nat) (f : CoreS → CoreS) : (s.modCore p f).offbuf = s.offbuf := rfl
@[simp] theorem State.modCore_net (s : State) (p : Nat) (f : CoreS → CoreS) : (s.modCore p f).net = s.net := rfl
@[simp] theorem State.modCore_circuits (s : State) (p : Nat) (f : CoreS → CoreS) : (s.modCore p f).circuits = s.circuits := rfl
@[simp] theorem State.modCore_regions (s : State) (p : Nat) (f : CoreS → CoreS) : (s.modCore p f).regions = s.regions := rfl
@[simp] theorem State.modCore_regbase (s : State) (p : Nat) (f : CoreS → CoreS) : (s.modCore p f).regbase = s.regbase := rfl
@[simp] theorem State.modCore_jobCount (s : State) (p : Nat) (f : CoreS → CoreS) : (s.modCore p f).jobCount = s.jobCount := rfl
@[simp] theorem State.modCore_frontFaults (s : State) (p : Nat) (f : CoreS → CoreS) : (s.modCore p f).frontFaults = s.frontFaults := rfl
@[simp] theorem State.modCore_recordPins (s : State) (p : Nat) (f : CoreS → CoreS) : (s.modCore p f).recordPins = s.recordPins := rfl
@[simp] theorem State.modCore_pinned (s : State) (p : Nat) (f : CoreS → CoreS) : (s.modCore p f).pinned = s.pinned := rfl
@[simp] theorem State.modCore_queues (s : State) (p : Nat) (f : CoreS → CoreS) : (s.modCore p f).queues = s.queues := rfl
@[simp] theorem State.modCore_launches (s : State) (p : Nat) (f : CoreS → CoreS) : (s.modCore p f).launches = s.launches := rfl
@[simp] theorem State.modCore_reservations (s : State) (p : Nat) (f : CoreS → CoreS) : (s.modCore p f).reservations = s.reservations := rfl
@[simp] theorem State.modCore_groups (s : State) (p : Nat) (f : CoreS → CoreS) : (s.modCore p f).groups = s.groups := rfl
@[simp] theorem State.modCore_bindings (s : State) (p : Nat) (f : CoreS → CoreS) : (s.modCore p f).bindings = s.bindings := rfl
@[simp] theorem State.modCore_ingress (s : State) (p : Nat) (f : CoreS → CoreS) : (s.modCore p f).ingress = s.ingress := rfl
@[simp] theorem State.modCore_dieFreq (s : State) (p : Nat) (f : CoreS → CoreS) : (s.modCore p f).dieFreq = s.dieFreq := rfl
@[simp] theorem State.modCore_dieDecisions (s : State) (p : Nat) (f : CoreS → CoreS) : (s.modCore p f).dieDecisions = s.dieDecisions := rfl
@[simp] theorem State.modCore_now (s : State) (p : Nat) (f : CoreS → CoreS) : (s.modCore p f).now = s.now := rfl
@[simp] theorem State.modCore_tstat (s : State) (p : Nat) (f : CoreS → CoreS) : (s.modCore p f).tstat = s.tstat := rfl
@[simp] theorem State.modCore_timeOffset (s : State) (p : Nat) (f : CoreS → CoreS) : (s.modCore p f).timeOffset = s.timeOffset := rfl
@[simp] theorem State.modCore_everLocked (s : State) (p : Nat) (f : CoreS → CoreS) : (s.modCore p f).everLocked = s.everLocked := rfl
@[simp] theorem State.modCore_holdoverSince (s : State) (p : Nat) (f : CoreS → CoreS) : (s.modCore p f).holdoverSince = s.holdoverSince := rfl
@[simp] theorem State.modCore_lifecycle (s : State) (p : Nat) (f : CoreS → CoreS) : (s.modCore p f).lifecycle = s.lifecycle := rfl
@[simp] theorem State.modCore_wiping (s : State) (p : Nat) (f : CoreS → CoreS) : (s.modCore p f).wiping = s.wiping := rfl
@[simp] theorem State.modCore_rrq (s : State) (p : Nat) (f : CoreS → CoreS) : (s.modCore p f).rrq = s.rrq := rfl
@[simp] theorem State.modCore_pwrlim (s : State) (p : Nat) (f : CoreS → CoreS) : (s.modCore p f).pwrlim = s.pwrlim := rfl
@[simp] theorem State.modCore_igdrop (s : State) (p : Nat) (f : CoreS → CoreS) : (s.modCore p f).igdrop = s.igdrop := rfl
@[simp] theorem State.modCore_iglate (s : State) (p : Nat) (f : CoreS → CoreS) : (s.modCore p f).iglate = s.iglate := rfl
@[simp] theorem State.modCore_peers (s : State) (p : Nat) (f : CoreS → CoreS) : (s.modCore p f).peers = s.peers := rfl
@[simp] theorem State.modCore_bootMode (s : State) (p : Nat) (f : CoreS → CoreS) : (s.modCore p f).bootMode = s.bootMode := rfl
@[simp] theorem State.modCore_phase (s : State) (p : Nat) (f : CoreS → CoreS) : (s.modCore p f).phase = s.phase := rfl
@[simp] theorem State.modCore_phaseTime (s : State) (p : Nat) (f : CoreS → CoreS) : (s.modCore p f).phaseTime = s.phaseTime := rfl
@[simp] theorem State.modCore_bootFailed (s : State) (p : Nat) (f : CoreS → CoreS) : (s.modCore p f).bootFailed = s.bootFailed := rfl
@[simp] theorem State.modCore_supplied (s : State) (p : Nat) (f : CoreS → CoreS) : (s.modCore p f).supplied = s.supplied := rfl
@[simp] theorem State.modCore_running (s : State) (p : Nat) (f : CoreS → CoreS) : (s.modCore p f).running = s.running := rfl
@[simp] theorem State.modCore_dead (s : State) (p : Nat) (f : CoreS → CoreS) : (s.modCore p f).dead = s.dead := rfl
@[simp] theorem State.modCore_config (s : State) (p : Nat) (f : CoreS → CoreS) : (s.modCore p f).config = s.config := rfl
@[simp] theorem State.modCore_fuses (s : State) (p : Nat) (f : CoreS → CoreS) : (s.modCore p f).fuses = s.fuses := rfl
@[simp] theorem State.modCore_lmap (s : State) (p : Nat) (f : CoreS → CoreS) : (s.modCore p f).lmap = s.lmap := rfl
@[simp] theorem State.modCore_uetOut (s : State) (p : Nat) (f : CoreS → CoreS) : (s.modCore p f).uetOut = s.uetOut := rfl
@[simp] theorem State.modCore_agenda (s : State) (p : Nat) (f : CoreS → CoreS) : (s.modCore p f).agenda = s.agenda := rfl
@[simp] theorem State.modCore_cur (s : State) (p : Nat) (f : CoreS → CoreS) : (s.modCore p f).cur = s.cur := rfl
@[simp] theorem State.modCore_fresh (s : State) (p : Nat) (f : CoreS → CoreS) : (s.modCore p f).fresh = s.fresh := rfl

/-! ### setProc -/

@[simp] theorem State.setProc_mem (s : State) (k : Nat) (x : Proc) : (s.setProc k x).mem = s.mem := rfl
@[simp] theorem State.setProc_ctxs (s : State) (k : Nat) (x : Proc) : (s.setProc k x).ctxs = s.ctxs := rfl
@[simp] theorem State.setProc_procs (s : State) (k : Nat) (x : Proc) : (s.setProc k x).procs = tablePut k x s.procs := rfl
@[simp] theorem State.setProc_cores (s : State) (k : Nat) (x : Proc) : (s.setProc k x).cores = s.cores := rfl
@[simp] theorem State.setProc_clusters (s : State) (k : Nat) (x : Proc) : (s.setProc k x).clusters = s.clusters := rfl
@[simp] theorem State.setProc_banks (s : State) (k : Nat) (x : Proc) : (s.setProc k x).banks = s.banks := rfl
@[simp] theorem State.setProc_offbuf (s : State) (k : Nat) (x : Proc) : (s.setProc k x).offbuf = s.offbuf := rfl
@[simp] theorem State.setProc_net (s : State) (k : Nat) (x : Proc) : (s.setProc k x).net = s.net := rfl
@[simp] theorem State.setProc_circuits (s : State) (k : Nat) (x : Proc) : (s.setProc k x).circuits = s.circuits := rfl
@[simp] theorem State.setProc_regions (s : State) (k : Nat) (x : Proc) : (s.setProc k x).regions = s.regions := rfl
@[simp] theorem State.setProc_regbase (s : State) (k : Nat) (x : Proc) : (s.setProc k x).regbase = s.regbase := rfl
@[simp] theorem State.setProc_jobCount (s : State) (k : Nat) (x : Proc) : (s.setProc k x).jobCount = s.jobCount := rfl
@[simp] theorem State.setProc_frontFaults (s : State) (k : Nat) (x : Proc) : (s.setProc k x).frontFaults = s.frontFaults := rfl
@[simp] theorem State.setProc_recordPins (s : State) (k : Nat) (x : Proc) : (s.setProc k x).recordPins = s.recordPins := rfl
@[simp] theorem State.setProc_pinned (s : State) (k : Nat) (x : Proc) : (s.setProc k x).pinned = s.pinned := rfl
@[simp] theorem State.setProc_queues (s : State) (k : Nat) (x : Proc) : (s.setProc k x).queues = s.queues := rfl
@[simp] theorem State.setProc_launches (s : State) (k : Nat) (x : Proc) : (s.setProc k x).launches = s.launches := rfl
@[simp] theorem State.setProc_reservations (s : State) (k : Nat) (x : Proc) : (s.setProc k x).reservations = s.reservations := rfl
@[simp] theorem State.setProc_groups (s : State) (k : Nat) (x : Proc) : (s.setProc k x).groups = s.groups := rfl
@[simp] theorem State.setProc_bindings (s : State) (k : Nat) (x : Proc) : (s.setProc k x).bindings = s.bindings := rfl
@[simp] theorem State.setProc_ingress (s : State) (k : Nat) (x : Proc) : (s.setProc k x).ingress = s.ingress := rfl
@[simp] theorem State.setProc_dieFreq (s : State) (k : Nat) (x : Proc) : (s.setProc k x).dieFreq = s.dieFreq := rfl
@[simp] theorem State.setProc_dieDecisions (s : State) (k : Nat) (x : Proc) : (s.setProc k x).dieDecisions = s.dieDecisions := rfl
@[simp] theorem State.setProc_now (s : State) (k : Nat) (x : Proc) : (s.setProc k x).now = s.now := rfl
@[simp] theorem State.setProc_tstat (s : State) (k : Nat) (x : Proc) : (s.setProc k x).tstat = s.tstat := rfl
@[simp] theorem State.setProc_timeOffset (s : State) (k : Nat) (x : Proc) : (s.setProc k x).timeOffset = s.timeOffset := rfl
@[simp] theorem State.setProc_everLocked (s : State) (k : Nat) (x : Proc) : (s.setProc k x).everLocked = s.everLocked := rfl
@[simp] theorem State.setProc_holdoverSince (s : State) (k : Nat) (x : Proc) : (s.setProc k x).holdoverSince = s.holdoverSince := rfl
@[simp] theorem State.setProc_lifecycle (s : State) (k : Nat) (x : Proc) : (s.setProc k x).lifecycle = s.lifecycle := rfl
@[simp] theorem State.setProc_wiping (s : State) (k : Nat) (x : Proc) : (s.setProc k x).wiping = s.wiping := rfl
@[simp] theorem State.setProc_rrq (s : State) (k : Nat) (x : Proc) : (s.setProc k x).rrq = s.rrq := rfl
@[simp] theorem State.setProc_pwrlim (s : State) (k : Nat) (x : Proc) : (s.setProc k x).pwrlim = s.pwrlim := rfl
@[simp] theorem State.setProc_igdrop (s : State) (k : Nat) (x : Proc) : (s.setProc k x).igdrop = s.igdrop := rfl
@[simp] theorem State.setProc_iglate (s : State) (k : Nat) (x : Proc) : (s.setProc k x).iglate = s.iglate := rfl
@[simp] theorem State.setProc_peers (s : State) (k : Nat) (x : Proc) : (s.setProc k x).peers = s.peers := rfl
@[simp] theorem State.setProc_bootMode (s : State) (k : Nat) (x : Proc) : (s.setProc k x).bootMode = s.bootMode := rfl
@[simp] theorem State.setProc_phase (s : State) (k : Nat) (x : Proc) : (s.setProc k x).phase = s.phase := rfl
@[simp] theorem State.setProc_phaseTime (s : State) (k : Nat) (x : Proc) : (s.setProc k x).phaseTime = s.phaseTime := rfl
@[simp] theorem State.setProc_bootFailed (s : State) (k : Nat) (x : Proc) : (s.setProc k x).bootFailed = s.bootFailed := rfl
@[simp] theorem State.setProc_supplied (s : State) (k : Nat) (x : Proc) : (s.setProc k x).supplied = s.supplied := rfl
@[simp] theorem State.setProc_running (s : State) (k : Nat) (x : Proc) : (s.setProc k x).running = s.running := rfl
@[simp] theorem State.setProc_dead (s : State) (k : Nat) (x : Proc) : (s.setProc k x).dead = s.dead := rfl
@[simp] theorem State.setProc_config (s : State) (k : Nat) (x : Proc) : (s.setProc k x).config = s.config := rfl
@[simp] theorem State.setProc_fuses (s : State) (k : Nat) (x : Proc) : (s.setProc k x).fuses = s.fuses := rfl
@[simp] theorem State.setProc_lmap (s : State) (k : Nat) (x : Proc) : (s.setProc k x).lmap = s.lmap := rfl
@[simp] theorem State.setProc_uetOut (s : State) (k : Nat) (x : Proc) : (s.setProc k x).uetOut = s.uetOut := rfl
@[simp] theorem State.setProc_agenda (s : State) (k : Nat) (x : Proc) : (s.setProc k x).agenda = s.agenda := rfl
@[simp] theorem State.setProc_cur (s : State) (k : Nat) (x : Proc) : (s.setProc k x).cur = s.cur := rfl
@[simp] theorem State.setProc_fresh (s : State) (k : Nat) (x : Proc) : (s.setProc k x).fresh = s.fresh := rfl

/-! ### modProc -/

@[simp] theorem State.modProc_mem (s : State) (k : Nat) (f : Proc → Proc) : (s.modProc k f).mem = s.mem := rfl
@[simp] theorem State.modProc_ctxs (s : State) (k : Nat) (f : Proc → Proc) : (s.modProc k f).ctxs = s.ctxs := rfl
@[simp] theorem State.modProc_procs (s : State) (k : Nat) (f : Proc → Proc) : (s.modProc k f).procs = tablePut k (f (s.proc k)) s.procs := rfl
@[simp] theorem State.modProc_cores (s : State) (k : Nat) (f : Proc → Proc) : (s.modProc k f).cores = s.cores := rfl
@[simp] theorem State.modProc_clusters (s : State) (k : Nat) (f : Proc → Proc) : (s.modProc k f).clusters = s.clusters := rfl
@[simp] theorem State.modProc_banks (s : State) (k : Nat) (f : Proc → Proc) : (s.modProc k f).banks = s.banks := rfl
@[simp] theorem State.modProc_offbuf (s : State) (k : Nat) (f : Proc → Proc) : (s.modProc k f).offbuf = s.offbuf := rfl
@[simp] theorem State.modProc_net (s : State) (k : Nat) (f : Proc → Proc) : (s.modProc k f).net = s.net := rfl
@[simp] theorem State.modProc_circuits (s : State) (k : Nat) (f : Proc → Proc) : (s.modProc k f).circuits = s.circuits := rfl
@[simp] theorem State.modProc_regions (s : State) (k : Nat) (f : Proc → Proc) : (s.modProc k f).regions = s.regions := rfl
@[simp] theorem State.modProc_regbase (s : State) (k : Nat) (f : Proc → Proc) : (s.modProc k f).regbase = s.regbase := rfl
@[simp] theorem State.modProc_jobCount (s : State) (k : Nat) (f : Proc → Proc) : (s.modProc k f).jobCount = s.jobCount := rfl
@[simp] theorem State.modProc_frontFaults (s : State) (k : Nat) (f : Proc → Proc) : (s.modProc k f).frontFaults = s.frontFaults := rfl
@[simp] theorem State.modProc_recordPins (s : State) (k : Nat) (f : Proc → Proc) : (s.modProc k f).recordPins = s.recordPins := rfl
@[simp] theorem State.modProc_pinned (s : State) (k : Nat) (f : Proc → Proc) : (s.modProc k f).pinned = s.pinned := rfl
@[simp] theorem State.modProc_queues (s : State) (k : Nat) (f : Proc → Proc) : (s.modProc k f).queues = s.queues := rfl
@[simp] theorem State.modProc_launches (s : State) (k : Nat) (f : Proc → Proc) : (s.modProc k f).launches = s.launches := rfl
@[simp] theorem State.modProc_reservations (s : State) (k : Nat) (f : Proc → Proc) : (s.modProc k f).reservations = s.reservations := rfl
@[simp] theorem State.modProc_groups (s : State) (k : Nat) (f : Proc → Proc) : (s.modProc k f).groups = s.groups := rfl
@[simp] theorem State.modProc_bindings (s : State) (k : Nat) (f : Proc → Proc) : (s.modProc k f).bindings = s.bindings := rfl
@[simp] theorem State.modProc_ingress (s : State) (k : Nat) (f : Proc → Proc) : (s.modProc k f).ingress = s.ingress := rfl
@[simp] theorem State.modProc_dieFreq (s : State) (k : Nat) (f : Proc → Proc) : (s.modProc k f).dieFreq = s.dieFreq := rfl
@[simp] theorem State.modProc_dieDecisions (s : State) (k : Nat) (f : Proc → Proc) : (s.modProc k f).dieDecisions = s.dieDecisions := rfl
@[simp] theorem State.modProc_now (s : State) (k : Nat) (f : Proc → Proc) : (s.modProc k f).now = s.now := rfl
@[simp] theorem State.modProc_tstat (s : State) (k : Nat) (f : Proc → Proc) : (s.modProc k f).tstat = s.tstat := rfl
@[simp] theorem State.modProc_timeOffset (s : State) (k : Nat) (f : Proc → Proc) : (s.modProc k f).timeOffset = s.timeOffset := rfl
@[simp] theorem State.modProc_everLocked (s : State) (k : Nat) (f : Proc → Proc) : (s.modProc k f).everLocked = s.everLocked := rfl
@[simp] theorem State.modProc_holdoverSince (s : State) (k : Nat) (f : Proc → Proc) : (s.modProc k f).holdoverSince = s.holdoverSince := rfl
@[simp] theorem State.modProc_lifecycle (s : State) (k : Nat) (f : Proc → Proc) : (s.modProc k f).lifecycle = s.lifecycle := rfl
@[simp] theorem State.modProc_wiping (s : State) (k : Nat) (f : Proc → Proc) : (s.modProc k f).wiping = s.wiping := rfl
@[simp] theorem State.modProc_rrq (s : State) (k : Nat) (f : Proc → Proc) : (s.modProc k f).rrq = s.rrq := rfl
@[simp] theorem State.modProc_pwrlim (s : State) (k : Nat) (f : Proc → Proc) : (s.modProc k f).pwrlim = s.pwrlim := rfl
@[simp] theorem State.modProc_igdrop (s : State) (k : Nat) (f : Proc → Proc) : (s.modProc k f).igdrop = s.igdrop := rfl
@[simp] theorem State.modProc_iglate (s : State) (k : Nat) (f : Proc → Proc) : (s.modProc k f).iglate = s.iglate := rfl
@[simp] theorem State.modProc_peers (s : State) (k : Nat) (f : Proc → Proc) : (s.modProc k f).peers = s.peers := rfl
@[simp] theorem State.modProc_bootMode (s : State) (k : Nat) (f : Proc → Proc) : (s.modProc k f).bootMode = s.bootMode := rfl
@[simp] theorem State.modProc_phase (s : State) (k : Nat) (f : Proc → Proc) : (s.modProc k f).phase = s.phase := rfl
@[simp] theorem State.modProc_phaseTime (s : State) (k : Nat) (f : Proc → Proc) : (s.modProc k f).phaseTime = s.phaseTime := rfl
@[simp] theorem State.modProc_bootFailed (s : State) (k : Nat) (f : Proc → Proc) : (s.modProc k f).bootFailed = s.bootFailed := rfl
@[simp] theorem State.modProc_supplied (s : State) (k : Nat) (f : Proc → Proc) : (s.modProc k f).supplied = s.supplied := rfl
@[simp] theorem State.modProc_running (s : State) (k : Nat) (f : Proc → Proc) : (s.modProc k f).running = s.running := rfl
@[simp] theorem State.modProc_dead (s : State) (k : Nat) (f : Proc → Proc) : (s.modProc k f).dead = s.dead := rfl
@[simp] theorem State.modProc_config (s : State) (k : Nat) (f : Proc → Proc) : (s.modProc k f).config = s.config := rfl
@[simp] theorem State.modProc_fuses (s : State) (k : Nat) (f : Proc → Proc) : (s.modProc k f).fuses = s.fuses := rfl
@[simp] theorem State.modProc_lmap (s : State) (k : Nat) (f : Proc → Proc) : (s.modProc k f).lmap = s.lmap := rfl
@[simp] theorem State.modProc_uetOut (s : State) (k : Nat) (f : Proc → Proc) : (s.modProc k f).uetOut = s.uetOut := rfl
@[simp] theorem State.modProc_agenda (s : State) (k : Nat) (f : Proc → Proc) : (s.modProc k f).agenda = s.agenda := rfl
@[simp] theorem State.modProc_cur (s : State) (k : Nat) (f : Proc → Proc) : (s.modProc k f).cur = s.cur := rfl
@[simp] theorem State.modProc_fresh (s : State) (k : Nat) (f : Proc → Proc) : (s.modProc k f).fresh = s.fresh := rfl

/-! ### modCluster -/

@[simp] theorem State.modCluster_mem (s : State) (k : Nat) (f : ClusterS → ClusterS) : (s.modCluster k f).mem = s.mem := rfl
@[simp] theorem State.modCluster_ctxs (s : State) (k : Nat) (f : ClusterS → ClusterS) : (s.modCluster k f).ctxs = s.ctxs := rfl
@[simp] theorem State.modCluster_procs (s : State) (k : Nat) (f : ClusterS → ClusterS) : (s.modCluster k f).procs = s.procs := rfl
@[simp] theorem State.modCluster_cores (s : State) (k : Nat) (f : ClusterS → ClusterS) : (s.modCluster k f).cores = s.cores := rfl
@[simp] theorem State.modCluster_clusters (s : State) (k : Nat) (f : ClusterS → ClusterS) : (s.modCluster k f).clusters = tablePut k (f (s.cluster k)) s.clusters := rfl
@[simp] theorem State.modCluster_banks (s : State) (k : Nat) (f : ClusterS → ClusterS) : (s.modCluster k f).banks = s.banks := rfl
@[simp] theorem State.modCluster_offbuf (s : State) (k : Nat) (f : ClusterS → ClusterS) : (s.modCluster k f).offbuf = s.offbuf := rfl
@[simp] theorem State.modCluster_net (s : State) (k : Nat) (f : ClusterS → ClusterS) : (s.modCluster k f).net = s.net := rfl
@[simp] theorem State.modCluster_circuits (s : State) (k : Nat) (f : ClusterS → ClusterS) : (s.modCluster k f).circuits = s.circuits := rfl
@[simp] theorem State.modCluster_regions (s : State) (k : Nat) (f : ClusterS → ClusterS) : (s.modCluster k f).regions = s.regions := rfl
@[simp] theorem State.modCluster_regbase (s : State) (k : Nat) (f : ClusterS → ClusterS) : (s.modCluster k f).regbase = s.regbase := rfl
@[simp] theorem State.modCluster_jobCount (s : State) (k : Nat) (f : ClusterS → ClusterS) : (s.modCluster k f).jobCount = s.jobCount := rfl
@[simp] theorem State.modCluster_frontFaults (s : State) (k : Nat) (f : ClusterS → ClusterS) : (s.modCluster k f).frontFaults = s.frontFaults := rfl
@[simp] theorem State.modCluster_recordPins (s : State) (k : Nat) (f : ClusterS → ClusterS) : (s.modCluster k f).recordPins = s.recordPins := rfl
@[simp] theorem State.modCluster_pinned (s : State) (k : Nat) (f : ClusterS → ClusterS) : (s.modCluster k f).pinned = s.pinned := rfl
@[simp] theorem State.modCluster_queues (s : State) (k : Nat) (f : ClusterS → ClusterS) : (s.modCluster k f).queues = s.queues := rfl
@[simp] theorem State.modCluster_launches (s : State) (k : Nat) (f : ClusterS → ClusterS) : (s.modCluster k f).launches = s.launches := rfl
@[simp] theorem State.modCluster_reservations (s : State) (k : Nat) (f : ClusterS → ClusterS) : (s.modCluster k f).reservations = s.reservations := rfl
@[simp] theorem State.modCluster_groups (s : State) (k : Nat) (f : ClusterS → ClusterS) : (s.modCluster k f).groups = s.groups := rfl
@[simp] theorem State.modCluster_bindings (s : State) (k : Nat) (f : ClusterS → ClusterS) : (s.modCluster k f).bindings = s.bindings := rfl
@[simp] theorem State.modCluster_ingress (s : State) (k : Nat) (f : ClusterS → ClusterS) : (s.modCluster k f).ingress = s.ingress := rfl
@[simp] theorem State.modCluster_dieFreq (s : State) (k : Nat) (f : ClusterS → ClusterS) : (s.modCluster k f).dieFreq = s.dieFreq := rfl
@[simp] theorem State.modCluster_dieDecisions (s : State) (k : Nat) (f : ClusterS → ClusterS) : (s.modCluster k f).dieDecisions = s.dieDecisions := rfl
@[simp] theorem State.modCluster_now (s : State) (k : Nat) (f : ClusterS → ClusterS) : (s.modCluster k f).now = s.now := rfl
@[simp] theorem State.modCluster_tstat (s : State) (k : Nat) (f : ClusterS → ClusterS) : (s.modCluster k f).tstat = s.tstat := rfl
@[simp] theorem State.modCluster_timeOffset (s : State) (k : Nat) (f : ClusterS → ClusterS) : (s.modCluster k f).timeOffset = s.timeOffset := rfl
@[simp] theorem State.modCluster_everLocked (s : State) (k : Nat) (f : ClusterS → ClusterS) : (s.modCluster k f).everLocked = s.everLocked := rfl
@[simp] theorem State.modCluster_holdoverSince (s : State) (k : Nat) (f : ClusterS → ClusterS) : (s.modCluster k f).holdoverSince = s.holdoverSince := rfl
@[simp] theorem State.modCluster_lifecycle (s : State) (k : Nat) (f : ClusterS → ClusterS) : (s.modCluster k f).lifecycle = s.lifecycle := rfl
@[simp] theorem State.modCluster_wiping (s : State) (k : Nat) (f : ClusterS → ClusterS) : (s.modCluster k f).wiping = s.wiping := rfl
@[simp] theorem State.modCluster_rrq (s : State) (k : Nat) (f : ClusterS → ClusterS) : (s.modCluster k f).rrq = s.rrq := rfl
@[simp] theorem State.modCluster_pwrlim (s : State) (k : Nat) (f : ClusterS → ClusterS) : (s.modCluster k f).pwrlim = s.pwrlim := rfl
@[simp] theorem State.modCluster_igdrop (s : State) (k : Nat) (f : ClusterS → ClusterS) : (s.modCluster k f).igdrop = s.igdrop := rfl
@[simp] theorem State.modCluster_iglate (s : State) (k : Nat) (f : ClusterS → ClusterS) : (s.modCluster k f).iglate = s.iglate := rfl
@[simp] theorem State.modCluster_peers (s : State) (k : Nat) (f : ClusterS → ClusterS) : (s.modCluster k f).peers = s.peers := rfl
@[simp] theorem State.modCluster_bootMode (s : State) (k : Nat) (f : ClusterS → ClusterS) : (s.modCluster k f).bootMode = s.bootMode := rfl
@[simp] theorem State.modCluster_phase (s : State) (k : Nat) (f : ClusterS → ClusterS) : (s.modCluster k f).phase = s.phase := rfl
@[simp] theorem State.modCluster_phaseTime (s : State) (k : Nat) (f : ClusterS → ClusterS) : (s.modCluster k f).phaseTime = s.phaseTime := rfl
@[simp] theorem State.modCluster_bootFailed (s : State) (k : Nat) (f : ClusterS → ClusterS) : (s.modCluster k f).bootFailed = s.bootFailed := rfl
@[simp] theorem State.modCluster_supplied (s : State) (k : Nat) (f : ClusterS → ClusterS) : (s.modCluster k f).supplied = s.supplied := rfl
@[simp] theorem State.modCluster_running (s : State) (k : Nat) (f : ClusterS → ClusterS) : (s.modCluster k f).running = s.running := rfl
@[simp] theorem State.modCluster_dead (s : State) (k : Nat) (f : ClusterS → ClusterS) : (s.modCluster k f).dead = s.dead := rfl
@[simp] theorem State.modCluster_config (s : State) (k : Nat) (f : ClusterS → ClusterS) : (s.modCluster k f).config = s.config := rfl
@[simp] theorem State.modCluster_fuses (s : State) (k : Nat) (f : ClusterS → ClusterS) : (s.modCluster k f).fuses = s.fuses := rfl
@[simp] theorem State.modCluster_lmap (s : State) (k : Nat) (f : ClusterS → ClusterS) : (s.modCluster k f).lmap = s.lmap := rfl
@[simp] theorem State.modCluster_uetOut (s : State) (k : Nat) (f : ClusterS → ClusterS) : (s.modCluster k f).uetOut = s.uetOut := rfl
@[simp] theorem State.modCluster_agenda (s : State) (k : Nat) (f : ClusterS → ClusterS) : (s.modCluster k f).agenda = s.agenda := rfl
@[simp] theorem State.modCluster_cur (s : State) (k : Nat) (f : ClusterS → ClusterS) : (s.modCluster k f).cur = s.cur := rfl
@[simp] theorem State.modCluster_fresh (s : State) (k : Nat) (f : ClusterS → ClusterS) : (s.modCluster k f).fresh = s.fresh := rfl

/-! ### modRegion -/

@[simp] theorem State.modRegion_mem (s : State) (r : Nat) (f : Region → Region) : (s.modRegion r f).mem = s.mem := rfl
@[simp] theorem State.modRegion_ctxs (s : State) (r : Nat) (f : Region → Region) : (s.modRegion r f).ctxs = s.ctxs := rfl
@[simp] theorem State.modRegion_procs (s : State) (r : Nat) (f : Region → Region) : (s.modRegion r f).procs = s.procs := rfl
@[simp] theorem State.modRegion_cores (s : State) (r : Nat) (f : Region → Region) : (s.modRegion r f).cores = s.cores := rfl
@[simp] theorem State.modRegion_clusters (s : State) (r : Nat) (f : Region → Region) : (s.modRegion r f).clusters = s.clusters := rfl
@[simp] theorem State.modRegion_banks (s : State) (r : Nat) (f : Region → Region) : (s.modRegion r f).banks = s.banks := rfl
@[simp] theorem State.modRegion_offbuf (s : State) (r : Nat) (f : Region → Region) : (s.modRegion r f).offbuf = s.offbuf := rfl
@[simp] theorem State.modRegion_net (s : State) (r : Nat) (f : Region → Region) : (s.modRegion r f).net = s.net := rfl
@[simp] theorem State.modRegion_circuits (s : State) (r : Nat) (f : Region → Region) : (s.modRegion r f).circuits = s.circuits := rfl
@[simp] theorem State.modRegion_regions (s : State) (r : Nat) (f : Region → Region) : (s.modRegion r f).regions = tablePut r (f (s.region r)) s.regions := rfl
@[simp] theorem State.modRegion_regbase (s : State) (r : Nat) (f : Region → Region) : (s.modRegion r f).regbase = s.regbase := rfl
@[simp] theorem State.modRegion_jobCount (s : State) (r : Nat) (f : Region → Region) : (s.modRegion r f).jobCount = s.jobCount := rfl
@[simp] theorem State.modRegion_frontFaults (s : State) (r : Nat) (f : Region → Region) : (s.modRegion r f).frontFaults = s.frontFaults := rfl
@[simp] theorem State.modRegion_recordPins (s : State) (r : Nat) (f : Region → Region) : (s.modRegion r f).recordPins = s.recordPins := rfl
@[simp] theorem State.modRegion_pinned (s : State) (r : Nat) (f : Region → Region) : (s.modRegion r f).pinned = s.pinned := rfl
@[simp] theorem State.modRegion_queues (s : State) (r : Nat) (f : Region → Region) : (s.modRegion r f).queues = s.queues := rfl
@[simp] theorem State.modRegion_launches (s : State) (r : Nat) (f : Region → Region) : (s.modRegion r f).launches = s.launches := rfl
@[simp] theorem State.modRegion_reservations (s : State) (r : Nat) (f : Region → Region) : (s.modRegion r f).reservations = s.reservations := rfl
@[simp] theorem State.modRegion_groups (s : State) (r : Nat) (f : Region → Region) : (s.modRegion r f).groups = s.groups := rfl
@[simp] theorem State.modRegion_bindings (s : State) (r : Nat) (f : Region → Region) : (s.modRegion r f).bindings = s.bindings := rfl
@[simp] theorem State.modRegion_ingress (s : State) (r : Nat) (f : Region → Region) : (s.modRegion r f).ingress = s.ingress := rfl
@[simp] theorem State.modRegion_dieFreq (s : State) (r : Nat) (f : Region → Region) : (s.modRegion r f).dieFreq = s.dieFreq := rfl
@[simp] theorem State.modRegion_dieDecisions (s : State) (r : Nat) (f : Region → Region) : (s.modRegion r f).dieDecisions = s.dieDecisions := rfl
@[simp] theorem State.modRegion_now (s : State) (r : Nat) (f : Region → Region) : (s.modRegion r f).now = s.now := rfl
@[simp] theorem State.modRegion_tstat (s : State) (r : Nat) (f : Region → Region) : (s.modRegion r f).tstat = s.tstat := rfl
@[simp] theorem State.modRegion_timeOffset (s : State) (r : Nat) (f : Region → Region) : (s.modRegion r f).timeOffset = s.timeOffset := rfl
@[simp] theorem State.modRegion_everLocked (s : State) (r : Nat) (f : Region → Region) : (s.modRegion r f).everLocked = s.everLocked := rfl
@[simp] theorem State.modRegion_holdoverSince (s : State) (r : Nat) (f : Region → Region) : (s.modRegion r f).holdoverSince = s.holdoverSince := rfl
@[simp] theorem State.modRegion_lifecycle (s : State) (r : Nat) (f : Region → Region) : (s.modRegion r f).lifecycle = s.lifecycle := rfl
@[simp] theorem State.modRegion_wiping (s : State) (r : Nat) (f : Region → Region) : (s.modRegion r f).wiping = s.wiping := rfl
@[simp] theorem State.modRegion_rrq (s : State) (r : Nat) (f : Region → Region) : (s.modRegion r f).rrq = s.rrq := rfl
@[simp] theorem State.modRegion_pwrlim (s : State) (r : Nat) (f : Region → Region) : (s.modRegion r f).pwrlim = s.pwrlim := rfl
@[simp] theorem State.modRegion_igdrop (s : State) (r : Nat) (f : Region → Region) : (s.modRegion r f).igdrop = s.igdrop := rfl
@[simp] theorem State.modRegion_iglate (s : State) (r : Nat) (f : Region → Region) : (s.modRegion r f).iglate = s.iglate := rfl
@[simp] theorem State.modRegion_peers (s : State) (r : Nat) (f : Region → Region) : (s.modRegion r f).peers = s.peers := rfl
@[simp] theorem State.modRegion_bootMode (s : State) (r : Nat) (f : Region → Region) : (s.modRegion r f).bootMode = s.bootMode := rfl
@[simp] theorem State.modRegion_phase (s : State) (r : Nat) (f : Region → Region) : (s.modRegion r f).phase = s.phase := rfl
@[simp] theorem State.modRegion_phaseTime (s : State) (r : Nat) (f : Region → Region) : (s.modRegion r f).phaseTime = s.phaseTime := rfl
@[simp] theorem State.modRegion_bootFailed (s : State) (r : Nat) (f : Region → Region) : (s.modRegion r f).bootFailed = s.bootFailed := rfl
@[simp] theorem State.modRegion_supplied (s : State) (r : Nat) (f : Region → Region) : (s.modRegion r f).supplied = s.supplied := rfl
@[simp] theorem State.modRegion_running (s : State) (r : Nat) (f : Region → Region) : (s.modRegion r f).running = s.running := rfl
@[simp] theorem State.modRegion_dead (s : State) (r : Nat) (f : Region → Region) : (s.modRegion r f).dead = s.dead := rfl
@[simp] theorem State.modRegion_config (s : State) (r : Nat) (f : Region → Region) : (s.modRegion r f).config = s.config := rfl
@[simp] theorem State.modRegion_fuses (s : State) (r : Nat) (f : Region → Region) : (s.modRegion r f).fuses = s.fuses := rfl
@[simp] theorem State.modRegion_lmap (s : State) (r : Nat) (f : Region → Region) : (s.modRegion r f).lmap = s.lmap := rfl
@[simp] theorem State.modRegion_uetOut (s : State) (r : Nat) (f : Region → Region) : (s.modRegion r f).uetOut = s.uetOut := rfl
@[simp] theorem State.modRegion_agenda (s : State) (r : Nat) (f : Region → Region) : (s.modRegion r f).agenda = s.agenda := rfl
@[simp] theorem State.modRegion_cur (s : State) (r : Nat) (f : Region → Region) : (s.modRegion r f).cur = s.cur := rfl
@[simp] theorem State.modRegion_fresh (s : State) (r : Nat) (f : Region → Region) : (s.modRegion r f).fresh = s.fresh := rfl

/-! ### setLaunch -/

@[simp] theorem State.setLaunch_mem (s : State) (l : Nat) (x : Launch) : (s.setLaunch l x).mem = s.mem := rfl
@[simp] theorem State.setLaunch_ctxs (s : State) (l : Nat) (x : Launch) : (s.setLaunch l x).ctxs = s.ctxs := rfl
@[simp] theorem State.setLaunch_procs (s : State) (l : Nat) (x : Launch) : (s.setLaunch l x).procs = s.procs := rfl
@[simp] theorem State.setLaunch_cores (s : State) (l : Nat) (x : Launch) : (s.setLaunch l x).cores = s.cores := rfl
@[simp] theorem State.setLaunch_clusters (s : State) (l : Nat) (x : Launch) : (s.setLaunch l x).clusters = s.clusters := rfl
@[simp] theorem State.setLaunch_banks (s : State) (l : Nat) (x : Launch) : (s.setLaunch l x).banks = s.banks := rfl
@[simp] theorem State.setLaunch_offbuf (s : State) (l : Nat) (x : Launch) : (s.setLaunch l x).offbuf = s.offbuf := rfl
@[simp] theorem State.setLaunch_net (s : State) (l : Nat) (x : Launch) : (s.setLaunch l x).net = s.net := rfl
@[simp] theorem State.setLaunch_circuits (s : State) (l : Nat) (x : Launch) : (s.setLaunch l x).circuits = s.circuits := rfl
@[simp] theorem State.setLaunch_regions (s : State) (l : Nat) (x : Launch) : (s.setLaunch l x).regions = s.regions := rfl
@[simp] theorem State.setLaunch_regbase (s : State) (l : Nat) (x : Launch) : (s.setLaunch l x).regbase = s.regbase := rfl
@[simp] theorem State.setLaunch_jobCount (s : State) (l : Nat) (x : Launch) : (s.setLaunch l x).jobCount = s.jobCount := rfl
@[simp] theorem State.setLaunch_frontFaults (s : State) (l : Nat) (x : Launch) : (s.setLaunch l x).frontFaults = s.frontFaults := rfl
@[simp] theorem State.setLaunch_recordPins (s : State) (l : Nat) (x : Launch) : (s.setLaunch l x).recordPins = s.recordPins := rfl
@[simp] theorem State.setLaunch_pinned (s : State) (l : Nat) (x : Launch) : (s.setLaunch l x).pinned = s.pinned := rfl
@[simp] theorem State.setLaunch_queues (s : State) (l : Nat) (x : Launch) : (s.setLaunch l x).queues = s.queues := rfl
@[simp] theorem State.setLaunch_launches (s : State) (l : Nat) (x : Launch) : (s.setLaunch l x).launches = tablePut l x s.launches := rfl
@[simp] theorem State.setLaunch_reservations (s : State) (l : Nat) (x : Launch) : (s.setLaunch l x).reservations = s.reservations := rfl
@[simp] theorem State.setLaunch_groups (s : State) (l : Nat) (x : Launch) : (s.setLaunch l x).groups = s.groups := rfl
@[simp] theorem State.setLaunch_bindings (s : State) (l : Nat) (x : Launch) : (s.setLaunch l x).bindings = s.bindings := rfl
@[simp] theorem State.setLaunch_ingress (s : State) (l : Nat) (x : Launch) : (s.setLaunch l x).ingress = s.ingress := rfl
@[simp] theorem State.setLaunch_dieFreq (s : State) (l : Nat) (x : Launch) : (s.setLaunch l x).dieFreq = s.dieFreq := rfl
@[simp] theorem State.setLaunch_dieDecisions (s : State) (l : Nat) (x : Launch) : (s.setLaunch l x).dieDecisions = s.dieDecisions := rfl
@[simp] theorem State.setLaunch_now (s : State) (l : Nat) (x : Launch) : (s.setLaunch l x).now = s.now := rfl
@[simp] theorem State.setLaunch_tstat (s : State) (l : Nat) (x : Launch) : (s.setLaunch l x).tstat = s.tstat := rfl
@[simp] theorem State.setLaunch_timeOffset (s : State) (l : Nat) (x : Launch) : (s.setLaunch l x).timeOffset = s.timeOffset := rfl
@[simp] theorem State.setLaunch_everLocked (s : State) (l : Nat) (x : Launch) : (s.setLaunch l x).everLocked = s.everLocked := rfl
@[simp] theorem State.setLaunch_holdoverSince (s : State) (l : Nat) (x : Launch) : (s.setLaunch l x).holdoverSince = s.holdoverSince := rfl
@[simp] theorem State.setLaunch_lifecycle (s : State) (l : Nat) (x : Launch) : (s.setLaunch l x).lifecycle = s.lifecycle := rfl
@[simp] theorem State.setLaunch_wiping (s : State) (l : Nat) (x : Launch) : (s.setLaunch l x).wiping = s.wiping := rfl
@[simp] theorem State.setLaunch_rrq (s : State) (l : Nat) (x : Launch) : (s.setLaunch l x).rrq = s.rrq := rfl
@[simp] theorem State.setLaunch_pwrlim (s : State) (l : Nat) (x : Launch) : (s.setLaunch l x).pwrlim = s.pwrlim := rfl
@[simp] theorem State.setLaunch_igdrop (s : State) (l : Nat) (x : Launch) : (s.setLaunch l x).igdrop = s.igdrop := rfl
@[simp] theorem State.setLaunch_iglate (s : State) (l : Nat) (x : Launch) : (s.setLaunch l x).iglate = s.iglate := rfl
@[simp] theorem State.setLaunch_peers (s : State) (l : Nat) (x : Launch) : (s.setLaunch l x).peers = s.peers := rfl
@[simp] theorem State.setLaunch_bootMode (s : State) (l : Nat) (x : Launch) : (s.setLaunch l x).bootMode = s.bootMode := rfl
@[simp] theorem State.setLaunch_phase (s : State) (l : Nat) (x : Launch) : (s.setLaunch l x).phase = s.phase := rfl
@[simp] theorem State.setLaunch_phaseTime (s : State) (l : Nat) (x : Launch) : (s.setLaunch l x).phaseTime = s.phaseTime := rfl
@[simp] theorem State.setLaunch_bootFailed (s : State) (l : Nat) (x : Launch) : (s.setLaunch l x).bootFailed = s.bootFailed := rfl
@[simp] theorem State.setLaunch_supplied (s : State) (l : Nat) (x : Launch) : (s.setLaunch l x).supplied = s.supplied := rfl
@[simp] theorem State.setLaunch_running (s : State) (l : Nat) (x : Launch) : (s.setLaunch l x).running = s.running := rfl
@[simp] theorem State.setLaunch_dead (s : State) (l : Nat) (x : Launch) : (s.setLaunch l x).dead = s.dead := rfl
@[simp] theorem State.setLaunch_config (s : State) (l : Nat) (x : Launch) : (s.setLaunch l x).config = s.config := rfl
@[simp] theorem State.setLaunch_fuses (s : State) (l : Nat) (x : Launch) : (s.setLaunch l x).fuses = s.fuses := rfl
@[simp] theorem State.setLaunch_lmap (s : State) (l : Nat) (x : Launch) : (s.setLaunch l x).lmap = s.lmap := rfl
@[simp] theorem State.setLaunch_uetOut (s : State) (l : Nat) (x : Launch) : (s.setLaunch l x).uetOut = s.uetOut := rfl
@[simp] theorem State.setLaunch_agenda (s : State) (l : Nat) (x : Launch) : (s.setLaunch l x).agenda = s.agenda := rfl
@[simp] theorem State.setLaunch_cur (s : State) (l : Nat) (x : Launch) : (s.setLaunch l x).cur = s.cur := rfl
@[simp] theorem State.setLaunch_fresh (s : State) (l : Nat) (x : Launch) : (s.setLaunch l x).fresh = s.fresh := rfl

/-! ### modGroup -/

@[simp] theorem State.modGroup_mem (s : State) (k : Nat) (f : Group → Group) : (s.modGroup k f).mem = s.mem := rfl
@[simp] theorem State.modGroup_ctxs (s : State) (k : Nat) (f : Group → Group) : (s.modGroup k f).ctxs = s.ctxs := rfl
@[simp] theorem State.modGroup_procs (s : State) (k : Nat) (f : Group → Group) : (s.modGroup k f).procs = s.procs := rfl
@[simp] theorem State.modGroup_cores (s : State) (k : Nat) (f : Group → Group) : (s.modGroup k f).cores = s.cores := rfl
@[simp] theorem State.modGroup_clusters (s : State) (k : Nat) (f : Group → Group) : (s.modGroup k f).clusters = s.clusters := rfl
@[simp] theorem State.modGroup_banks (s : State) (k : Nat) (f : Group → Group) : (s.modGroup k f).banks = s.banks := rfl
@[simp] theorem State.modGroup_offbuf (s : State) (k : Nat) (f : Group → Group) : (s.modGroup k f).offbuf = s.offbuf := rfl
@[simp] theorem State.modGroup_net (s : State) (k : Nat) (f : Group → Group) : (s.modGroup k f).net = s.net := rfl
@[simp] theorem State.modGroup_circuits (s : State) (k : Nat) (f : Group → Group) : (s.modGroup k f).circuits = s.circuits := rfl
@[simp] theorem State.modGroup_regions (s : State) (k : Nat) (f : Group → Group) : (s.modGroup k f).regions = s.regions := rfl
@[simp] theorem State.modGroup_regbase (s : State) (k : Nat) (f : Group → Group) : (s.modGroup k f).regbase = s.regbase := rfl
@[simp] theorem State.modGroup_jobCount (s : State) (k : Nat) (f : Group → Group) : (s.modGroup k f).jobCount = s.jobCount := rfl
@[simp] theorem State.modGroup_frontFaults (s : State) (k : Nat) (f : Group → Group) : (s.modGroup k f).frontFaults = s.frontFaults := rfl
@[simp] theorem State.modGroup_recordPins (s : State) (k : Nat) (f : Group → Group) : (s.modGroup k f).recordPins = s.recordPins := rfl
@[simp] theorem State.modGroup_pinned (s : State) (k : Nat) (f : Group → Group) : (s.modGroup k f).pinned = s.pinned := rfl
@[simp] theorem State.modGroup_queues (s : State) (k : Nat) (f : Group → Group) : (s.modGroup k f).queues = s.queues := rfl
@[simp] theorem State.modGroup_launches (s : State) (k : Nat) (f : Group → Group) : (s.modGroup k f).launches = s.launches := rfl
@[simp] theorem State.modGroup_reservations (s : State) (k : Nat) (f : Group → Group) : (s.modGroup k f).reservations = s.reservations := rfl
@[simp] theorem State.modGroup_groups (s : State) (k : Nat) (f : Group → Group) : (s.modGroup k f).groups = tablePut k (f (s.group k)) s.groups := rfl
@[simp] theorem State.modGroup_bindings (s : State) (k : Nat) (f : Group → Group) : (s.modGroup k f).bindings = s.bindings := rfl
@[simp] theorem State.modGroup_ingress (s : State) (k : Nat) (f : Group → Group) : (s.modGroup k f).ingress = s.ingress := rfl
@[simp] theorem State.modGroup_dieFreq (s : State) (k : Nat) (f : Group → Group) : (s.modGroup k f).dieFreq = s.dieFreq := rfl
@[simp] theorem State.modGroup_dieDecisions (s : State) (k : Nat) (f : Group → Group) : (s.modGroup k f).dieDecisions = s.dieDecisions := rfl
@[simp] theorem State.modGroup_now (s : State) (k : Nat) (f : Group → Group) : (s.modGroup k f).now = s.now := rfl
@[simp] theorem State.modGroup_tstat (s : State) (k : Nat) (f : Group → Group) : (s.modGroup k f).tstat = s.tstat := rfl
@[simp] theorem State.modGroup_timeOffset (s : State) (k : Nat) (f : Group → Group) : (s.modGroup k f).timeOffset = s.timeOffset := rfl
@[simp] theorem State.modGroup_everLocked (s : State) (k : Nat) (f : Group → Group) : (s.modGroup k f).everLocked = s.everLocked := rfl
@[simp] theorem State.modGroup_holdoverSince (s : State) (k : Nat) (f : Group → Group) : (s.modGroup k f).holdoverSince = s.holdoverSince := rfl
@[simp] theorem State.modGroup_lifecycle (s : State) (k : Nat) (f : Group → Group) : (s.modGroup k f).lifecycle = s.lifecycle := rfl
@[simp] theorem State.modGroup_wiping (s : State) (k : Nat) (f : Group → Group) : (s.modGroup k f).wiping = s.wiping := rfl
@[simp] theorem State.modGroup_rrq (s : State) (k : Nat) (f : Group → Group) : (s.modGroup k f).rrq = s.rrq := rfl
@[simp] theorem State.modGroup_pwrlim (s : State) (k : Nat) (f : Group → Group) : (s.modGroup k f).pwrlim = s.pwrlim := rfl
@[simp] theorem State.modGroup_igdrop (s : State) (k : Nat) (f : Group → Group) : (s.modGroup k f).igdrop = s.igdrop := rfl
@[simp] theorem State.modGroup_iglate (s : State) (k : Nat) (f : Group → Group) : (s.modGroup k f).iglate = s.iglate := rfl
@[simp] theorem State.modGroup_peers (s : State) (k : Nat) (f : Group → Group) : (s.modGroup k f).peers = s.peers := rfl
@[simp] theorem State.modGroup_bootMode (s : State) (k : Nat) (f : Group → Group) : (s.modGroup k f).bootMode = s.bootMode := rfl
@[simp] theorem State.modGroup_phase (s : State) (k : Nat) (f : Group → Group) : (s.modGroup k f).phase = s.phase := rfl
@[simp] theorem State.modGroup_phaseTime (s : State) (k : Nat) (f : Group → Group) : (s.modGroup k f).phaseTime = s.phaseTime := rfl
@[simp] theorem State.modGroup_bootFailed (s : State) (k : Nat) (f : Group → Group) : (s.modGroup k f).bootFailed = s.bootFailed := rfl
@[simp] theorem State.modGroup_supplied (s : State) (k : Nat) (f : Group → Group) : (s.modGroup k f).supplied = s.supplied := rfl
@[simp] theorem State.modGroup_running (s : State) (k : Nat) (f : Group → Group) : (s.modGroup k f).running = s.running := rfl
@[simp] theorem State.modGroup_dead (s : State) (k : Nat) (f : Group → Group) : (s.modGroup k f).dead = s.dead := rfl
@[simp] theorem State.modGroup_config (s : State) (k : Nat) (f : Group → Group) : (s.modGroup k f).config = s.config := rfl
@[simp] theorem State.modGroup_fuses (s : State) (k : Nat) (f : Group → Group) : (s.modGroup k f).fuses = s.fuses := rfl
@[simp] theorem State.modGroup_lmap (s : State) (k : Nat) (f : Group → Group) : (s.modGroup k f).lmap = s.lmap := rfl
@[simp] theorem State.modGroup_uetOut (s : State) (k : Nat) (f : Group → Group) : (s.modGroup k f).uetOut = s.uetOut := rfl
@[simp] theorem State.modGroup_agenda (s : State) (k : Nat) (f : Group → Group) : (s.modGroup k f).agenda = s.agenda := rfl
@[simp] theorem State.modGroup_cur (s : State) (k : Nat) (f : Group → Group) : (s.modGroup k f).cur = s.cur := rfl
@[simp] theorem State.modGroup_fresh (s : State) (k : Nat) (f : Group → Group) : (s.modGroup k f).fresh = s.fresh := rfl

/-! ### setBank -/

@[simp] theorem State.setBank_mem (s : State) (b : Nat) (q : List QueuedPart) : (s.setBank b q).mem = s.mem := rfl
@[simp] theorem State.setBank_ctxs (s : State) (b : Nat) (q : List QueuedPart) : (s.setBank b q).ctxs = s.ctxs := rfl
@[simp] theorem State.setBank_procs (s : State) (b : Nat) (q : List QueuedPart) : (s.setBank b q).procs = s.procs := rfl
@[simp] theorem State.setBank_cores (s : State) (b : Nat) (q : List QueuedPart) : (s.setBank b q).cores = s.cores := rfl
@[simp] theorem State.setBank_clusters (s : State) (b : Nat) (q : List QueuedPart) : (s.setBank b q).clusters = s.clusters := rfl
@[simp] theorem State.setBank_banks (s : State) (b : Nat) (q : List QueuedPart) : (s.setBank b q).banks = tablePut b q s.banks := rfl
@[simp] theorem State.setBank_offbuf (s : State) (b : Nat) (q : List QueuedPart) : (s.setBank b q).offbuf = s.offbuf := rfl
@[simp] theorem State.setBank_net (s : State) (b : Nat) (q : List QueuedPart) : (s.setBank b q).net = s.net := rfl
@[simp] theorem State.setBank_circuits (s : State) (b : Nat) (q : List QueuedPart) : (s.setBank b q).circuits = s.circuits := rfl
@[simp] theorem State.setBank_regions (s : State) (b : Nat) (q : List QueuedPart) : (s.setBank b q).regions = s.regions := rfl
@[simp] theorem State.setBank_regbase (s : State) (b : Nat) (q : List QueuedPart) : (s.setBank b q).regbase = s.regbase := rfl
@[simp] theorem State.setBank_jobCount (s : State) (b : Nat) (q : List QueuedPart) : (s.setBank b q).jobCount = s.jobCount := rfl
@[simp] theorem State.setBank_frontFaults (s : State) (b : Nat) (q : List QueuedPart) : (s.setBank b q).frontFaults = s.frontFaults := rfl
@[simp] theorem State.setBank_recordPins (s : State) (b : Nat) (q : List QueuedPart) : (s.setBank b q).recordPins = s.recordPins := rfl
@[simp] theorem State.setBank_pinned (s : State) (b : Nat) (q : List QueuedPart) : (s.setBank b q).pinned = s.pinned := rfl
@[simp] theorem State.setBank_queues (s : State) (b : Nat) (q : List QueuedPart) : (s.setBank b q).queues = s.queues := rfl
@[simp] theorem State.setBank_launches (s : State) (b : Nat) (q : List QueuedPart) : (s.setBank b q).launches = s.launches := rfl
@[simp] theorem State.setBank_reservations (s : State) (b : Nat) (q : List QueuedPart) : (s.setBank b q).reservations = s.reservations := rfl
@[simp] theorem State.setBank_groups (s : State) (b : Nat) (q : List QueuedPart) : (s.setBank b q).groups = s.groups := rfl
@[simp] theorem State.setBank_bindings (s : State) (b : Nat) (q : List QueuedPart) : (s.setBank b q).bindings = s.bindings := rfl
@[simp] theorem State.setBank_ingress (s : State) (b : Nat) (q : List QueuedPart) : (s.setBank b q).ingress = s.ingress := rfl
@[simp] theorem State.setBank_dieFreq (s : State) (b : Nat) (q : List QueuedPart) : (s.setBank b q).dieFreq = s.dieFreq := rfl
@[simp] theorem State.setBank_dieDecisions (s : State) (b : Nat) (q : List QueuedPart) : (s.setBank b q).dieDecisions = s.dieDecisions := rfl
@[simp] theorem State.setBank_now (s : State) (b : Nat) (q : List QueuedPart) : (s.setBank b q).now = s.now := rfl
@[simp] theorem State.setBank_tstat (s : State) (b : Nat) (q : List QueuedPart) : (s.setBank b q).tstat = s.tstat := rfl
@[simp] theorem State.setBank_timeOffset (s : State) (b : Nat) (q : List QueuedPart) : (s.setBank b q).timeOffset = s.timeOffset := rfl
@[simp] theorem State.setBank_everLocked (s : State) (b : Nat) (q : List QueuedPart) : (s.setBank b q).everLocked = s.everLocked := rfl
@[simp] theorem State.setBank_holdoverSince (s : State) (b : Nat) (q : List QueuedPart) : (s.setBank b q).holdoverSince = s.holdoverSince := rfl
@[simp] theorem State.setBank_lifecycle (s : State) (b : Nat) (q : List QueuedPart) : (s.setBank b q).lifecycle = s.lifecycle := rfl
@[simp] theorem State.setBank_wiping (s : State) (b : Nat) (q : List QueuedPart) : (s.setBank b q).wiping = s.wiping := rfl
@[simp] theorem State.setBank_rrq (s : State) (b : Nat) (q : List QueuedPart) : (s.setBank b q).rrq = s.rrq := rfl
@[simp] theorem State.setBank_pwrlim (s : State) (b : Nat) (q : List QueuedPart) : (s.setBank b q).pwrlim = s.pwrlim := rfl
@[simp] theorem State.setBank_igdrop (s : State) (b : Nat) (q : List QueuedPart) : (s.setBank b q).igdrop = s.igdrop := rfl
@[simp] theorem State.setBank_iglate (s : State) (b : Nat) (q : List QueuedPart) : (s.setBank b q).iglate = s.iglate := rfl
@[simp] theorem State.setBank_peers (s : State) (b : Nat) (q : List QueuedPart) : (s.setBank b q).peers = s.peers := rfl
@[simp] theorem State.setBank_bootMode (s : State) (b : Nat) (q : List QueuedPart) : (s.setBank b q).bootMode = s.bootMode := rfl
@[simp] theorem State.setBank_phase (s : State) (b : Nat) (q : List QueuedPart) : (s.setBank b q).phase = s.phase := rfl
@[simp] theorem State.setBank_phaseTime (s : State) (b : Nat) (q : List QueuedPart) : (s.setBank b q).phaseTime = s.phaseTime := rfl
@[simp] theorem State.setBank_bootFailed (s : State) (b : Nat) (q : List QueuedPart) : (s.setBank b q).bootFailed = s.bootFailed := rfl
@[simp] theorem State.setBank_supplied (s : State) (b : Nat) (q : List QueuedPart) : (s.setBank b q).supplied = s.supplied := rfl
@[simp] theorem State.setBank_running (s : State) (b : Nat) (q : List QueuedPart) : (s.setBank b q).running = s.running := rfl
@[simp] theorem State.setBank_dead (s : State) (b : Nat) (q : List QueuedPart) : (s.setBank b q).dead = s.dead := rfl
@[simp] theorem State.setBank_config (s : State) (b : Nat) (q : List QueuedPart) : (s.setBank b q).config = s.config := rfl
@[simp] theorem State.setBank_fuses (s : State) (b : Nat) (q : List QueuedPart) : (s.setBank b q).fuses = s.fuses := rfl
@[simp] theorem State.setBank_lmap (s : State) (b : Nat) (q : List QueuedPart) : (s.setBank b q).lmap = s.lmap := rfl
@[simp] theorem State.setBank_uetOut (s : State) (b : Nat) (q : List QueuedPart) : (s.setBank b q).uetOut = s.uetOut := rfl
@[simp] theorem State.setBank_agenda (s : State) (b : Nat) (q : List QueuedPart) : (s.setBank b q).agenda = s.agenda := rfl
@[simp] theorem State.setBank_cur (s : State) (b : Nat) (q : List QueuedPart) : (s.setBank b q).cur = s.cur := rfl
@[simp] theorem State.setBank_fresh (s : State) (b : Nat) (q : List QueuedPart) : (s.setBank b q).fresh = s.fresh := rfl

/-! ### setEntry -/

@[simp] theorem State.setEntry_mem (s : State) (p e : Nat) (x : ArbEntry) : (s.setEntry p e x).mem = s.mem := rfl
@[simp] theorem State.setEntry_ctxs (s : State) (p e : Nat) (x : ArbEntry) : (s.setEntry p e x).ctxs = s.ctxs := rfl
@[simp] theorem State.setEntry_procs (s : State) (p e : Nat) (x : ArbEntry) : (s.setEntry p e x).procs = s.procs := rfl
@[simp] theorem State.setEntry_clusters (s : State) (p e : Nat) (x : ArbEntry) : (s.setEntry p e x).clusters = s.clusters := rfl
@[simp] theorem State.setEntry_banks (s : State) (p e : Nat) (x : ArbEntry) : (s.setEntry p e x).banks = s.banks := rfl
@[simp] theorem State.setEntry_offbuf (s : State) (p e : Nat) (x : ArbEntry) : (s.setEntry p e x).offbuf = s.offbuf := rfl
@[simp] theorem State.setEntry_net (s : State) (p e : Nat) (x : ArbEntry) : (s.setEntry p e x).net = s.net := rfl
@[simp] theorem State.setEntry_circuits (s : State) (p e : Nat) (x : ArbEntry) : (s.setEntry p e x).circuits = s.circuits := rfl
@[simp] theorem State.setEntry_regions (s : State) (p e : Nat) (x : ArbEntry) : (s.setEntry p e x).regions = s.regions := rfl
@[simp] theorem State.setEntry_regbase (s : State) (p e : Nat) (x : ArbEntry) : (s.setEntry p e x).regbase = s.regbase := rfl
@[simp] theorem State.setEntry_jobCount (s : State) (p e : Nat) (x : ArbEntry) : (s.setEntry p e x).jobCount = s.jobCount := rfl
@[simp] theorem State.setEntry_frontFaults (s : State) (p e : Nat) (x : ArbEntry) : (s.setEntry p e x).frontFaults = s.frontFaults := rfl
@[simp] theorem State.setEntry_recordPins (s : State) (p e : Nat) (x : ArbEntry) : (s.setEntry p e x).recordPins = s.recordPins := rfl
@[simp] theorem State.setEntry_pinned (s : State) (p e : Nat) (x : ArbEntry) : (s.setEntry p e x).pinned = s.pinned := rfl
@[simp] theorem State.setEntry_queues (s : State) (p e : Nat) (x : ArbEntry) : (s.setEntry p e x).queues = s.queues := rfl
@[simp] theorem State.setEntry_launches (s : State) (p e : Nat) (x : ArbEntry) : (s.setEntry p e x).launches = s.launches := rfl
@[simp] theorem State.setEntry_reservations (s : State) (p e : Nat) (x : ArbEntry) : (s.setEntry p e x).reservations = s.reservations := rfl
@[simp] theorem State.setEntry_groups (s : State) (p e : Nat) (x : ArbEntry) : (s.setEntry p e x).groups = s.groups := rfl
@[simp] theorem State.setEntry_bindings (s : State) (p e : Nat) (x : ArbEntry) : (s.setEntry p e x).bindings = s.bindings := rfl
@[simp] theorem State.setEntry_ingress (s : State) (p e : Nat) (x : ArbEntry) : (s.setEntry p e x).ingress = s.ingress := rfl
@[simp] theorem State.setEntry_dieFreq (s : State) (p e : Nat) (x : ArbEntry) : (s.setEntry p e x).dieFreq = s.dieFreq := rfl
@[simp] theorem State.setEntry_dieDecisions (s : State) (p e : Nat) (x : ArbEntry) : (s.setEntry p e x).dieDecisions = s.dieDecisions := rfl
@[simp] theorem State.setEntry_now (s : State) (p e : Nat) (x : ArbEntry) : (s.setEntry p e x).now = s.now := rfl
@[simp] theorem State.setEntry_tstat (s : State) (p e : Nat) (x : ArbEntry) : (s.setEntry p e x).tstat = s.tstat := rfl
@[simp] theorem State.setEntry_timeOffset (s : State) (p e : Nat) (x : ArbEntry) : (s.setEntry p e x).timeOffset = s.timeOffset := rfl
@[simp] theorem State.setEntry_everLocked (s : State) (p e : Nat) (x : ArbEntry) : (s.setEntry p e x).everLocked = s.everLocked := rfl
@[simp] theorem State.setEntry_holdoverSince (s : State) (p e : Nat) (x : ArbEntry) : (s.setEntry p e x).holdoverSince = s.holdoverSince := rfl
@[simp] theorem State.setEntry_lifecycle (s : State) (p e : Nat) (x : ArbEntry) : (s.setEntry p e x).lifecycle = s.lifecycle := rfl
@[simp] theorem State.setEntry_wiping (s : State) (p e : Nat) (x : ArbEntry) : (s.setEntry p e x).wiping = s.wiping := rfl
@[simp] theorem State.setEntry_rrq (s : State) (p e : Nat) (x : ArbEntry) : (s.setEntry p e x).rrq = s.rrq := rfl
@[simp] theorem State.setEntry_pwrlim (s : State) (p e : Nat) (x : ArbEntry) : (s.setEntry p e x).pwrlim = s.pwrlim := rfl
@[simp] theorem State.setEntry_igdrop (s : State) (p e : Nat) (x : ArbEntry) : (s.setEntry p e x).igdrop = s.igdrop := rfl
@[simp] theorem State.setEntry_iglate (s : State) (p e : Nat) (x : ArbEntry) : (s.setEntry p e x).iglate = s.iglate := rfl
@[simp] theorem State.setEntry_peers (s : State) (p e : Nat) (x : ArbEntry) : (s.setEntry p e x).peers = s.peers := rfl
@[simp] theorem State.setEntry_bootMode (s : State) (p e : Nat) (x : ArbEntry) : (s.setEntry p e x).bootMode = s.bootMode := rfl
@[simp] theorem State.setEntry_phase (s : State) (p e : Nat) (x : ArbEntry) : (s.setEntry p e x).phase = s.phase := rfl
@[simp] theorem State.setEntry_phaseTime (s : State) (p e : Nat) (x : ArbEntry) : (s.setEntry p e x).phaseTime = s.phaseTime := rfl
@[simp] theorem State.setEntry_bootFailed (s : State) (p e : Nat) (x : ArbEntry) : (s.setEntry p e x).bootFailed = s.bootFailed := rfl
@[simp] theorem State.setEntry_supplied (s : State) (p e : Nat) (x : ArbEntry) : (s.setEntry p e x).supplied = s.supplied := rfl
@[simp] theorem State.setEntry_running (s : State) (p e : Nat) (x : ArbEntry) : (s.setEntry p e x).running = s.running := rfl
@[simp] theorem State.setEntry_dead (s : State) (p e : Nat) (x : ArbEntry) : (s.setEntry p e x).dead = s.dead := rfl
@[simp] theorem State.setEntry_config (s : State) (p e : Nat) (x : ArbEntry) : (s.setEntry p e x).config = s.config := rfl
@[simp] theorem State.setEntry_fuses (s : State) (p e : Nat) (x : ArbEntry) : (s.setEntry p e x).fuses = s.fuses := rfl
@[simp] theorem State.setEntry_lmap (s : State) (p e : Nat) (x : ArbEntry) : (s.setEntry p e x).lmap = s.lmap := rfl
@[simp] theorem State.setEntry_uetOut (s : State) (p e : Nat) (x : ArbEntry) : (s.setEntry p e x).uetOut = s.uetOut := rfl
@[simp] theorem State.setEntry_agenda (s : State) (p e : Nat) (x : ArbEntry) : (s.setEntry p e x).agenda = s.agenda := rfl
@[simp] theorem State.setEntry_cur (s : State) (p e : Nat) (x : ArbEntry) : (s.setEntry p e x).cur = s.cur := rfl
@[simp] theorem State.setEntry_fresh (s : State) (p e : Nat) (x : ArbEntry) : (s.setEntry p e x).fresh = s.fresh := rfl

/-! ### modEntry -/

@[simp] theorem State.modEntry_mem (s : State) (p e : Nat) (f : ArbEntry → ArbEntry) : (s.modEntry p e f).mem = s.mem := rfl
@[simp] theorem State.modEntry_ctxs (s : State) (p e : Nat) (f : ArbEntry → ArbEntry) : (s.modEntry p e f).ctxs = s.ctxs := rfl
@[simp] theorem State.modEntry_procs (s : State) (p e : Nat) (f : ArbEntry → ArbEntry) : (s.modEntry p e f).procs = s.procs := rfl
@[simp] theorem State.modEntry_clusters (s : State) (p e : Nat) (f : ArbEntry → ArbEntry) : (s.modEntry p e f).clusters = s.clusters := rfl
@[simp] theorem State.modEntry_banks (s : State) (p e : Nat) (f : ArbEntry → ArbEntry) : (s.modEntry p e f).banks = s.banks := rfl
@[simp] theorem State.modEntry_offbuf (s : State) (p e : Nat) (f : ArbEntry → ArbEntry) : (s.modEntry p e f).offbuf = s.offbuf := rfl
@[simp] theorem State.modEntry_net (s : State) (p e : Nat) (f : ArbEntry → ArbEntry) : (s.modEntry p e f).net = s.net := rfl
@[simp] theorem State.modEntry_circuits (s : State) (p e : Nat) (f : ArbEntry → ArbEntry) : (s.modEntry p e f).circuits = s.circuits := rfl
@[simp] theorem State.modEntry_regions (s : State) (p e : Nat) (f : ArbEntry → ArbEntry) : (s.modEntry p e f).regions = s.regions := rfl
@[simp] theorem State.modEntry_regbase (s : State) (p e : Nat) (f : ArbEntry → ArbEntry) : (s.modEntry p e f).regbase = s.regbase := rfl
@[simp] theorem State.modEntry_jobCount (s : State) (p e : Nat) (f : ArbEntry → ArbEntry) : (s.modEntry p e f).jobCount = s.jobCount := rfl
@[simp] theorem State.modEntry_frontFaults (s : State) (p e : Nat) (f : ArbEntry → ArbEntry) : (s.modEntry p e f).frontFaults = s.frontFaults := rfl
@[simp] theorem State.modEntry_recordPins (s : State) (p e : Nat) (f : ArbEntry → ArbEntry) : (s.modEntry p e f).recordPins = s.recordPins := rfl
@[simp] theorem State.modEntry_pinned (s : State) (p e : Nat) (f : ArbEntry → ArbEntry) : (s.modEntry p e f).pinned = s.pinned := rfl
@[simp] theorem State.modEntry_queues (s : State) (p e : Nat) (f : ArbEntry → ArbEntry) : (s.modEntry p e f).queues = s.queues := rfl
@[simp] theorem State.modEntry_launches (s : State) (p e : Nat) (f : ArbEntry → ArbEntry) : (s.modEntry p e f).launches = s.launches := rfl
@[simp] theorem State.modEntry_reservations (s : State) (p e : Nat) (f : ArbEntry → ArbEntry) : (s.modEntry p e f).reservations = s.reservations := rfl
@[simp] theorem State.modEntry_groups (s : State) (p e : Nat) (f : ArbEntry → ArbEntry) : (s.modEntry p e f).groups = s.groups := rfl
@[simp] theorem State.modEntry_bindings (s : State) (p e : Nat) (f : ArbEntry → ArbEntry) : (s.modEntry p e f).bindings = s.bindings := rfl
@[simp] theorem State.modEntry_ingress (s : State) (p e : Nat) (f : ArbEntry → ArbEntry) : (s.modEntry p e f).ingress = s.ingress := rfl
@[simp] theorem State.modEntry_dieFreq (s : State) (p e : Nat) (f : ArbEntry → ArbEntry) : (s.modEntry p e f).dieFreq = s.dieFreq := rfl
@[simp] theorem State.modEntry_dieDecisions (s : State) (p e : Nat) (f : ArbEntry → ArbEntry) : (s.modEntry p e f).dieDecisions = s.dieDecisions := rfl
@[simp] theorem State.modEntry_now (s : State) (p e : Nat) (f : ArbEntry → ArbEntry) : (s.modEntry p e f).now = s.now := rfl
@[simp] theorem State.modEntry_tstat (s : State) (p e : Nat) (f : ArbEntry → ArbEntry) : (s.modEntry p e f).tstat = s.tstat := rfl
@[simp] theorem State.modEntry_timeOffset (s : State) (p e : Nat) (f : ArbEntry → ArbEntry) : (s.modEntry p e f).timeOffset = s.timeOffset := rfl
@[simp] theorem State.modEntry_everLocked (s : State) (p e : Nat) (f : ArbEntry → ArbEntry) : (s.modEntry p e f).everLocked = s.everLocked := rfl
@[simp] theorem State.modEntry_holdoverSince (s : State) (p e : Nat) (f : ArbEntry → ArbEntry) : (s.modEntry p e f).holdoverSince = s.holdoverSince := rfl
@[simp] theorem State.modEntry_lifecycle (s : State) (p e : Nat) (f : ArbEntry → ArbEntry) : (s.modEntry p e f).lifecycle = s.lifecycle := rfl
@[simp] theorem State.modEntry_wiping (s : State) (p e : Nat) (f : ArbEntry → ArbEntry) : (s.modEntry p e f).wiping = s.wiping := rfl
@[simp] theorem State.modEntry_rrq (s : State) (p e : Nat) (f : ArbEntry → ArbEntry) : (s.modEntry p e f).rrq = s.rrq := rfl
@[simp] theorem State.modEntry_pwrlim (s : State) (p e : Nat) (f : ArbEntry → ArbEntry) : (s.modEntry p e f).pwrlim = s.pwrlim := rfl
@[simp] theorem State.modEntry_igdrop (s : State) (p e : Nat) (f : ArbEntry → ArbEntry) : (s.modEntry p e f).igdrop = s.igdrop := rfl
@[simp] theorem State.modEntry_iglate (s : State) (p e : Nat) (f : ArbEntry → ArbEntry) : (s.modEntry p e f).iglate = s.iglate := rfl
@[simp] theorem State.modEntry_peers (s : State) (p e : Nat) (f : ArbEntry → ArbEntry) : (s.modEntry p e f).peers = s.peers := rfl
@[simp] theorem State.modEntry_bootMode (s : State) (p e : Nat) (f : ArbEntry → ArbEntry) : (s.modEntry p e f).bootMode = s.bootMode := rfl
@[simp] theorem State.modEntry_phase (s : State) (p e : Nat) (f : ArbEntry → ArbEntry) : (s.modEntry p e f).phase = s.phase := rfl
@[simp] theorem State.modEntry_phaseTime (s : State) (p e : Nat) (f : ArbEntry → ArbEntry) : (s.modEntry p e f).phaseTime = s.phaseTime := rfl
@[simp] theorem State.modEntry_bootFailed (s : State) (p e : Nat) (f : ArbEntry → ArbEntry) : (s.modEntry p e f).bootFailed = s.bootFailed := rfl
@[simp] theorem State.modEntry_supplied (s : State) (p e : Nat) (f : ArbEntry → ArbEntry) : (s.modEntry p e f).supplied = s.supplied := rfl
@[simp] theorem State.modEntry_running (s : State) (p e : Nat) (f : ArbEntry → ArbEntry) : (s.modEntry p e f).running = s.running := rfl
@[simp] theorem State.modEntry_dead (s : State) (p e : Nat) (f : ArbEntry → ArbEntry) : (s.modEntry p e f).dead = s.dead := rfl
@[simp] theorem State.modEntry_config (s : State) (p e : Nat) (f : ArbEntry → ArbEntry) : (s.modEntry p e f).config = s.config := rfl
@[simp] theorem State.modEntry_fuses (s : State) (p e : Nat) (f : ArbEntry → ArbEntry) : (s.modEntry p e f).fuses = s.fuses := rfl
@[simp] theorem State.modEntry_lmap (s : State) (p e : Nat) (f : ArbEntry → ArbEntry) : (s.modEntry p e f).lmap = s.lmap := rfl
@[simp] theorem State.modEntry_uetOut (s : State) (p e : Nat) (f : ArbEntry → ArbEntry) : (s.modEntry p e f).uetOut = s.uetOut := rfl
@[simp] theorem State.modEntry_agenda (s : State) (p e : Nat) (f : ArbEntry → ArbEntry) : (s.modEntry p e f).agenda = s.agenda := rfl
@[simp] theorem State.modEntry_cur (s : State) (p e : Nat) (f : ArbEntry → ArbEntry) : (s.modEntry p e f).cur = s.cur := rfl
@[simp] theorem State.modEntry_fresh (s : State) (p e : Nat) (f : ArbEntry → ArbEntry) : (s.modEntry p e f).fresh = s.fresh := rfl

/-! ### send -/

@[simp] theorem State.send_mem (s : State) (x : Packet) : (s.send x).mem = s.mem := rfl
@[simp] theorem State.send_ctxs (s : State) (x : Packet) : (s.send x).ctxs = s.ctxs := rfl
@[simp] theorem State.send_procs (s : State) (x : Packet) : (s.send x).procs = s.procs := rfl
@[simp] theorem State.send_cores (s : State) (x : Packet) : (s.send x).cores = s.cores := rfl
@[simp] theorem State.send_clusters (s : State) (x : Packet) : (s.send x).clusters = s.clusters := rfl
@[simp] theorem State.send_banks (s : State) (x : Packet) : (s.send x).banks = s.banks := rfl
@[simp] theorem State.send_offbuf (s : State) (x : Packet) : (s.send x).offbuf = s.offbuf := rfl
@[simp] theorem State.send_net (s : State) (x : Packet) : (s.send x).net = s.net ++ [x] := rfl
@[simp] theorem State.send_circuits (s : State) (x : Packet) : (s.send x).circuits = s.circuits := rfl
@[simp] theorem State.send_regions (s : State) (x : Packet) : (s.send x).regions = s.regions := rfl
@[simp] theorem State.send_regbase (s : State) (x : Packet) : (s.send x).regbase = s.regbase := rfl
@[simp] theorem State.send_jobCount (s : State) (x : Packet) : (s.send x).jobCount = s.jobCount := rfl
@[simp] theorem State.send_frontFaults (s : State) (x : Packet) : (s.send x).frontFaults = s.frontFaults := rfl
@[simp] theorem State.send_recordPins (s : State) (x : Packet) : (s.send x).recordPins = s.recordPins := rfl
@[simp] theorem State.send_pinned (s : State) (x : Packet) : (s.send x).pinned = s.pinned := rfl
@[simp] theorem State.send_queues (s : State) (x : Packet) : (s.send x).queues = s.queues := rfl
@[simp] theorem State.send_launches (s : State) (x : Packet) : (s.send x).launches = s.launches := rfl
@[simp] theorem State.send_reservations (s : State) (x : Packet) : (s.send x).reservations = s.reservations := rfl
@[simp] theorem State.send_groups (s : State) (x : Packet) : (s.send x).groups = s.groups := rfl
@[simp] theorem State.send_bindings (s : State) (x : Packet) : (s.send x).bindings = s.bindings := rfl
@[simp] theorem State.send_ingress (s : State) (x : Packet) : (s.send x).ingress = s.ingress := rfl
@[simp] theorem State.send_dieFreq (s : State) (x : Packet) : (s.send x).dieFreq = s.dieFreq := rfl
@[simp] theorem State.send_dieDecisions (s : State) (x : Packet) : (s.send x).dieDecisions = s.dieDecisions := rfl
@[simp] theorem State.send_now (s : State) (x : Packet) : (s.send x).now = s.now := rfl
@[simp] theorem State.send_tstat (s : State) (x : Packet) : (s.send x).tstat = s.tstat := rfl
@[simp] theorem State.send_timeOffset (s : State) (x : Packet) : (s.send x).timeOffset = s.timeOffset := rfl
@[simp] theorem State.send_everLocked (s : State) (x : Packet) : (s.send x).everLocked = s.everLocked := rfl
@[simp] theorem State.send_holdoverSince (s : State) (x : Packet) : (s.send x).holdoverSince = s.holdoverSince := rfl
@[simp] theorem State.send_lifecycle (s : State) (x : Packet) : (s.send x).lifecycle = s.lifecycle := rfl
@[simp] theorem State.send_wiping (s : State) (x : Packet) : (s.send x).wiping = s.wiping := rfl
@[simp] theorem State.send_rrq (s : State) (x : Packet) : (s.send x).rrq = s.rrq := rfl
@[simp] theorem State.send_pwrlim (s : State) (x : Packet) : (s.send x).pwrlim = s.pwrlim := rfl
@[simp] theorem State.send_igdrop (s : State) (x : Packet) : (s.send x).igdrop = s.igdrop := rfl
@[simp] theorem State.send_iglate (s : State) (x : Packet) : (s.send x).iglate = s.iglate := rfl
@[simp] theorem State.send_peers (s : State) (x : Packet) : (s.send x).peers = s.peers := rfl
@[simp] theorem State.send_bootMode (s : State) (x : Packet) : (s.send x).bootMode = s.bootMode := rfl
@[simp] theorem State.send_phase (s : State) (x : Packet) : (s.send x).phase = s.phase := rfl
@[simp] theorem State.send_phaseTime (s : State) (x : Packet) : (s.send x).phaseTime = s.phaseTime := rfl
@[simp] theorem State.send_bootFailed (s : State) (x : Packet) : (s.send x).bootFailed = s.bootFailed := rfl
@[simp] theorem State.send_supplied (s : State) (x : Packet) : (s.send x).supplied = s.supplied := rfl
@[simp] theorem State.send_running (s : State) (x : Packet) : (s.send x).running = s.running := rfl
@[simp] theorem State.send_dead (s : State) (x : Packet) : (s.send x).dead = s.dead := rfl
@[simp] theorem State.send_config (s : State) (x : Packet) : (s.send x).config = s.config := rfl
@[simp] theorem State.send_fuses (s : State) (x : Packet) : (s.send x).fuses = s.fuses := rfl
@[simp] theorem State.send_lmap (s : State) (x : Packet) : (s.send x).lmap = s.lmap := rfl
@[simp] theorem State.send_uetOut (s : State) (x : Packet) : (s.send x).uetOut = s.uetOut := rfl
@[simp] theorem State.send_agenda (s : State) (x : Packet) : (s.send x).agenda = s.agenda := rfl
@[simp] theorem State.send_cur (s : State) (x : Packet) : (s.send x).cur = s.cur := rfl
@[simp] theorem State.send_fresh (s : State) (x : Packet) : (s.send x).fresh = s.fresh := rfl

/-! ### setMem -/

@[simp] theorem State.setMem_mem (s : State) (m : Mem) : (s.setMem m).mem = m := rfl
@[simp] theorem State.setMem_ctxs (s : State) (m : Mem) : (s.setMem m).ctxs = s.ctxs := rfl
@[simp] theorem State.setMem_procs (s : State) (m : Mem) : (s.setMem m).procs = s.procs := rfl
@[simp] theorem State.setMem_cores (s : State) (m : Mem) : (s.setMem m).cores = s.cores := rfl
@[simp] theorem State.setMem_clusters (s : State) (m : Mem) : (s.setMem m).clusters = s.clusters := rfl
@[simp] theorem State.setMem_banks (s : State) (m : Mem) : (s.setMem m).banks = s.banks := rfl
@[simp] theorem State.setMem_offbuf (s : State) (m : Mem) : (s.setMem m).offbuf = s.offbuf := rfl
@[simp] theorem State.setMem_net (s : State) (m : Mem) : (s.setMem m).net = s.net := rfl
@[simp] theorem State.setMem_circuits (s : State) (m : Mem) : (s.setMem m).circuits = s.circuits := rfl
@[simp] theorem State.setMem_regions (s : State) (m : Mem) : (s.setMem m).regions = s.regions := rfl
@[simp] theorem State.setMem_regbase (s : State) (m : Mem) : (s.setMem m).regbase = s.regbase := rfl
@[simp] theorem State.setMem_jobCount (s : State) (m : Mem) : (s.setMem m).jobCount = s.jobCount := rfl
@[simp] theorem State.setMem_frontFaults (s : State) (m : Mem) : (s.setMem m).frontFaults = s.frontFaults := rfl
@[simp] theorem State.setMem_recordPins (s : State) (m : Mem) : (s.setMem m).recordPins = s.recordPins := rfl
@[simp] theorem State.setMem_pinned (s : State) (m : Mem) : (s.setMem m).pinned = s.pinned := rfl
@[simp] theorem State.setMem_queues (s : State) (m : Mem) : (s.setMem m).queues = s.queues := rfl
@[simp] theorem State.setMem_launches (s : State) (m : Mem) : (s.setMem m).launches = s.launches := rfl
@[simp] theorem State.setMem_reservations (s : State) (m : Mem) : (s.setMem m).reservations = s.reservations := rfl
@[simp] theorem State.setMem_groups (s : State) (m : Mem) : (s.setMem m).groups = s.groups := rfl
@[simp] theorem State.setMem_bindings (s : State) (m : Mem) : (s.setMem m).bindings = s.bindings := rfl
@[simp] theorem State.setMem_ingress (s : State) (m : Mem) : (s.setMem m).ingress = s.ingress := rfl
@[simp] theorem State.setMem_dieFreq (s : State) (m : Mem) : (s.setMem m).dieFreq = s.dieFreq := rfl
@[simp] theorem State.setMem_dieDecisions (s : State) (m : Mem) : (s.setMem m).dieDecisions = s.dieDecisions := rfl
@[simp] theorem State.setMem_now (s : State) (m : Mem) : (s.setMem m).now = s.now := rfl
@[simp] theorem State.setMem_tstat (s : State) (m : Mem) : (s.setMem m).tstat = s.tstat := rfl
@[simp] theorem State.setMem_timeOffset (s : State) (m : Mem) : (s.setMem m).timeOffset = s.timeOffset := rfl
@[simp] theorem State.setMem_everLocked (s : State) (m : Mem) : (s.setMem m).everLocked = s.everLocked := rfl
@[simp] theorem State.setMem_holdoverSince (s : State) (m : Mem) : (s.setMem m).holdoverSince = s.holdoverSince := rfl
@[simp] theorem State.setMem_lifecycle (s : State) (m : Mem) : (s.setMem m).lifecycle = s.lifecycle := rfl
@[simp] theorem State.setMem_wiping (s : State) (m : Mem) : (s.setMem m).wiping = s.wiping := rfl
@[simp] theorem State.setMem_rrq (s : State) (m : Mem) : (s.setMem m).rrq = s.rrq := rfl
@[simp] theorem State.setMem_pwrlim (s : State) (m : Mem) : (s.setMem m).pwrlim = s.pwrlim := rfl
@[simp] theorem State.setMem_igdrop (s : State) (m : Mem) : (s.setMem m).igdrop = s.igdrop := rfl
@[simp] theorem State.setMem_iglate (s : State) (m : Mem) : (s.setMem m).iglate = s.iglate := rfl
@[simp] theorem State.setMem_peers (s : State) (m : Mem) : (s.setMem m).peers = s.peers := rfl
@[simp] theorem State.setMem_bootMode (s : State) (m : Mem) : (s.setMem m).bootMode = s.bootMode := rfl
@[simp] theorem State.setMem_phase (s : State) (m : Mem) : (s.setMem m).phase = s.phase := rfl
@[simp] theorem State.setMem_phaseTime (s : State) (m : Mem) : (s.setMem m).phaseTime = s.phaseTime := rfl
@[simp] theorem State.setMem_bootFailed (s : State) (m : Mem) : (s.setMem m).bootFailed = s.bootFailed := rfl
@[simp] theorem State.setMem_supplied (s : State) (m : Mem) : (s.setMem m).supplied = s.supplied := rfl
@[simp] theorem State.setMem_running (s : State) (m : Mem) : (s.setMem m).running = s.running := rfl
@[simp] theorem State.setMem_dead (s : State) (m : Mem) : (s.setMem m).dead = s.dead := rfl
@[simp] theorem State.setMem_config (s : State) (m : Mem) : (s.setMem m).config = s.config := rfl
@[simp] theorem State.setMem_fuses (s : State) (m : Mem) : (s.setMem m).fuses = s.fuses := rfl
@[simp] theorem State.setMem_lmap (s : State) (m : Mem) : (s.setMem m).lmap = s.lmap := rfl
@[simp] theorem State.setMem_uetOut (s : State) (m : Mem) : (s.setMem m).uetOut = s.uetOut := rfl
@[simp] theorem State.setMem_agenda (s : State) (m : Mem) : (s.setMem m).agenda = s.agenda := rfl
@[simp] theorem State.setMem_cur (s : State) (m : Mem) : (s.setMem m).cur = s.cur := rfl
@[simp] theorem State.setMem_fresh (s : State) (m : Mem) : (s.setMem m).fresh = s.fresh := rfl

/-! ### modLaunch -/

@[simp] theorem State.modLaunch_mem (s : State) (l : Nat) (f : Launch → Launch) : (s.modLaunch l f).mem = s.mem := by
  unfold State.modLaunch; split <;> rfl
@[simp] theorem State.modLaunch_ctxs (s : State) (l : Nat) (f : Launch → Launch) : (s.modLaunch l f).ctxs = s.ctxs := by
  unfold State.modLaunch; split <;> rfl
@[simp] theorem State.modLaunch_procs (s : State) (l : Nat) (f : Launch → Launch) : (s.modLaunch l f).procs = s.procs := by
  unfold State.modLaunch; split <;> rfl
@[simp] theorem State.modLaunch_cores (s : State) (l : Nat) (f : Launch → Launch) : (s.modLaunch l f).cores = s.cores := by
  unfold State.modLaunch; split <;> rfl
@[simp] theorem State.modLaunch_clusters (s : State) (l : Nat) (f : Launch → Launch) : (s.modLaunch l f).clusters = s.clusters := by
  unfold State.modLaunch; split <;> rfl
@[simp] theorem State.modLaunch_banks (s : State) (l : Nat) (f : Launch → Launch) : (s.modLaunch l f).banks = s.banks := by
  unfold State.modLaunch; split <;> rfl
@[simp] theorem State.modLaunch_offbuf (s : State) (l : Nat) (f : Launch → Launch) : (s.modLaunch l f).offbuf = s.offbuf := by
  unfold State.modLaunch; split <;> rfl
@[simp] theorem State.modLaunch_net (s : State) (l : Nat) (f : Launch → Launch) : (s.modLaunch l f).net = s.net := by
  unfold State.modLaunch; split <;> rfl
@[simp] theorem State.modLaunch_circuits (s : State) (l : Nat) (f : Launch → Launch) : (s.modLaunch l f).circuits = s.circuits := by
  unfold State.modLaunch; split <;> rfl
@[simp] theorem State.modLaunch_regions (s : State) (l : Nat) (f : Launch → Launch) : (s.modLaunch l f).regions = s.regions := by
  unfold State.modLaunch; split <;> rfl
@[simp] theorem State.modLaunch_regbase (s : State) (l : Nat) (f : Launch → Launch) : (s.modLaunch l f).regbase = s.regbase := by
  unfold State.modLaunch; split <;> rfl
@[simp] theorem State.modLaunch_jobCount (s : State) (l : Nat) (f : Launch → Launch) : (s.modLaunch l f).jobCount = s.jobCount := by
  unfold State.modLaunch; split <;> rfl
@[simp] theorem State.modLaunch_frontFaults (s : State) (l : Nat) (f : Launch → Launch) : (s.modLaunch l f).frontFaults = s.frontFaults := by
  unfold State.modLaunch; split <;> rfl
@[simp] theorem State.modLaunch_recordPins (s : State) (l : Nat) (f : Launch → Launch) : (s.modLaunch l f).recordPins = s.recordPins := by
  unfold State.modLaunch; split <;> rfl
@[simp] theorem State.modLaunch_pinned (s : State) (l : Nat) (f : Launch → Launch) : (s.modLaunch l f).pinned = s.pinned := by
  unfold State.modLaunch; split <;> rfl
@[simp] theorem State.modLaunch_queues (s : State) (l : Nat) (f : Launch → Launch) : (s.modLaunch l f).queues = s.queues := by
  unfold State.modLaunch; split <;> rfl
@[simp] theorem State.modLaunch_reservations (s : State) (l : Nat) (f : Launch → Launch) : (s.modLaunch l f).reservations = s.reservations := by
  unfold State.modLaunch; split <;> rfl
@[simp] theorem State.modLaunch_groups (s : State) (l : Nat) (f : Launch → Launch) : (s.modLaunch l f).groups = s.groups := by
  unfold State.modLaunch; split <;> rfl
@[simp] theorem State.modLaunch_bindings (s : State) (l : Nat) (f : Launch → Launch) : (s.modLaunch l f).bindings = s.bindings := by
  unfold State.modLaunch; split <;> rfl
@[simp] theorem State.modLaunch_ingress (s : State) (l : Nat) (f : Launch → Launch) : (s.modLaunch l f).ingress = s.ingress := by
  unfold State.modLaunch; split <;> rfl
@[simp] theorem State.modLaunch_dieFreq (s : State) (l : Nat) (f : Launch → Launch) : (s.modLaunch l f).dieFreq = s.dieFreq := by
  unfold State.modLaunch; split <;> rfl
@[simp] theorem State.modLaunch_dieDecisions (s : State) (l : Nat) (f : Launch → Launch) : (s.modLaunch l f).dieDecisions = s.dieDecisions := by
  unfold State.modLaunch; split <;> rfl
@[simp] theorem State.modLaunch_now (s : State) (l : Nat) (f : Launch → Launch) : (s.modLaunch l f).now = s.now := by
  unfold State.modLaunch; split <;> rfl
@[simp] theorem State.modLaunch_tstat (s : State) (l : Nat) (f : Launch → Launch) : (s.modLaunch l f).tstat = s.tstat := by
  unfold State.modLaunch; split <;> rfl
@[simp] theorem State.modLaunch_timeOffset (s : State) (l : Nat) (f : Launch → Launch) : (s.modLaunch l f).timeOffset = s.timeOffset := by
  unfold State.modLaunch; split <;> rfl
@[simp] theorem State.modLaunch_everLocked (s : State) (l : Nat) (f : Launch → Launch) : (s.modLaunch l f).everLocked = s.everLocked := by
  unfold State.modLaunch; split <;> rfl
@[simp] theorem State.modLaunch_holdoverSince (s : State) (l : Nat) (f : Launch → Launch) : (s.modLaunch l f).holdoverSince = s.holdoverSince := by
  unfold State.modLaunch; split <;> rfl
@[simp] theorem State.modLaunch_lifecycle (s : State) (l : Nat) (f : Launch → Launch) : (s.modLaunch l f).lifecycle = s.lifecycle := by
  unfold State.modLaunch; split <;> rfl
@[simp] theorem State.modLaunch_wiping (s : State) (l : Nat) (f : Launch → Launch) : (s.modLaunch l f).wiping = s.wiping := by
  unfold State.modLaunch; split <;> rfl
@[simp] theorem State.modLaunch_rrq (s : State) (l : Nat) (f : Launch → Launch) : (s.modLaunch l f).rrq = s.rrq := by
  unfold State.modLaunch; split <;> rfl
@[simp] theorem State.modLaunch_pwrlim (s : State) (l : Nat) (f : Launch → Launch) : (s.modLaunch l f).pwrlim = s.pwrlim := by
  unfold State.modLaunch; split <;> rfl
@[simp] theorem State.modLaunch_igdrop (s : State) (l : Nat) (f : Launch → Launch) : (s.modLaunch l f).igdrop = s.igdrop := by
  unfold State.modLaunch; split <;> rfl
@[simp] theorem State.modLaunch_iglate (s : State) (l : Nat) (f : Launch → Launch) : (s.modLaunch l f).iglate = s.iglate := by
  unfold State.modLaunch; split <;> rfl
@[simp] theorem State.modLaunch_peers (s : State) (l : Nat) (f : Launch → Launch) : (s.modLaunch l f).peers = s.peers := by
  unfold State.modLaunch; split <;> rfl
@[simp] theorem State.modLaunch_bootMode (s : State) (l : Nat) (f : Launch → Launch) : (s.modLaunch l f).bootMode = s.bootMode := by
  unfold State.modLaunch; split <;> rfl
@[simp] theorem State.modLaunch_phase (s : State) (l : Nat) (f : Launch → Launch) : (s.modLaunch l f).phase = s.phase := by
  unfold State.modLaunch; split <;> rfl
@[simp] theorem State.modLaunch_phaseTime (s : State) (l : Nat) (f : Launch → Launch) : (s.modLaunch l f).phaseTime = s.phaseTime := by
  unfold State.modLaunch; split <;> rfl
@[simp] theorem State.modLaunch_bootFailed (s : State) (l : Nat) (f : Launch → Launch) : (s.modLaunch l f).bootFailed = s.bootFailed := by
  unfold State.modLaunch; split <;> rfl
@[simp] theorem State.modLaunch_supplied (s : State) (l : Nat) (f : Launch → Launch) : (s.modLaunch l f).supplied = s.supplied := by
  unfold State.modLaunch; split <;> rfl
@[simp] theorem State.modLaunch_running (s : State) (l : Nat) (f : Launch → Launch) : (s.modLaunch l f).running = s.running := by
  unfold State.modLaunch; split <;> rfl
@[simp] theorem State.modLaunch_dead (s : State) (l : Nat) (f : Launch → Launch) : (s.modLaunch l f).dead = s.dead := by
  unfold State.modLaunch; split <;> rfl
@[simp] theorem State.modLaunch_config (s : State) (l : Nat) (f : Launch → Launch) : (s.modLaunch l f).config = s.config := by
  unfold State.modLaunch; split <;> rfl
@[simp] theorem State.modLaunch_fuses (s : State) (l : Nat) (f : Launch → Launch) : (s.modLaunch l f).fuses = s.fuses := by
  unfold State.modLaunch; split <;> rfl
@[simp] theorem State.modLaunch_lmap (s : State) (l : Nat) (f : Launch → Launch) : (s.modLaunch l f).lmap = s.lmap := by
  unfold State.modLaunch; split <;> rfl
@[simp] theorem State.modLaunch_uetOut (s : State) (l : Nat) (f : Launch → Launch) : (s.modLaunch l f).uetOut = s.uetOut := by
  unfold State.modLaunch; split <;> rfl
@[simp] theorem State.modLaunch_agenda (s : State) (l : Nat) (f : Launch → Launch) : (s.modLaunch l f).agenda = s.agenda := by
  unfold State.modLaunch; split <;> rfl
@[simp] theorem State.modLaunch_cur (s : State) (l : Nat) (f : Launch → Launch) : (s.modLaunch l f).cur = s.cur := by
  unfold State.modLaunch; split <;> rfl
@[simp] theorem State.modLaunch_fresh (s : State) (l : Nat) (f : Launch → Launch) : (s.modLaunch l f).fresh = s.fresh := by
  unfold State.modLaunch; split <;> rfl

/-! ## Contexts -/

/-! ### setG -/

@[simp] theorem Ctx.setG_status (c : Ctx) (d : GReg) (v : Word) : (c.setG d v).status = c.status := by
  unfold Ctx.setG; split <;> rfl
@[simp] theorem Ctx.setG_proc (c : Ctx) (d : GReg) (v : Word) : (c.setG d v).proc = c.proc := by
  unfold Ctx.setG; split <;> rfl
@[simp] theorem Ctx.setG_spawned (c : Ctx) (d : GReg) (v : Word) : (c.setG d v).spawned = c.spawned := by
  unfold Ctx.setG; split <;> rfl
@[simp] theorem Ctx.setG_home (c : Ctx) (d : GReg) (v : Word) : (c.setG d v).home = c.home := by
  unfold Ctx.setG; split <;> rfl
@[simp] theorem Ctx.setG_away (c : Ctx) (d : GReg) (v : Word) : (c.setG d v).away = c.away := by
  unfold Ctx.setG; split <;> rfl
@[simp] theorem Ctx.setG_migSize (c : Ctx) (d : GReg) (v : Word) : (c.setG d v).migSize = c.migSize := by
  unfold Ctx.setG; split <;> rfl
@[simp] theorem Ctx.setG_pc (c : Ctx) (d : GReg) (v : Word) : (c.setG d v).pc = c.pc := by
  unfold Ctx.setG; split <;> rfl
@[simp] theorem Ctx.setG_pfx (c : Ctx) (d : GReg) (v : Word) : (c.setG d v).pfx = c.pfx := by
  unfold Ctx.setG; split <;> rfl
@[simp] theorem Ctx.setG_pw (c : Ctx) (d : GReg) (v : Word) : (c.setG d v).pw = c.pw := by
  unfold Ctx.setG; split <;> rfl
@[simp] theorem Ctx.setG_masks (c : Ctx) (d : GReg) (v : Word) : (c.setG d v).masks = c.masks := by
  unfold Ctx.setG; split <;> rfl
@[simp] theorem Ctx.setG_rmode (c : Ctx) (d : GReg) (v : Word) : (c.setG d v).rmode = c.rmode := by
  unfold Ctx.setG; split <;> rfl
@[simp] theorem Ctx.setG_fflags (c : Ctx) (d : GReg) (v : Word) : (c.setG d v).fflags = c.fflags := by
  unfold Ctx.setG; split <;> rfl
@[simp] theorem Ctx.setG_srng (c : Ctx) (d : GReg) (v : Word) : (c.setG d v).srng = c.srng := by
  unfold Ctx.setG; split <;> rfl
@[simp] theorem Ctx.setG_xpc (c : Ctx) (d : GReg) (v : Word) : (c.setG d v).xpc = c.xpc := by
  unfold Ctx.setG; split <;> rfl
@[simp] theorem Ctx.setG_xstat (c : Ctx) (d : GReg) (v : Word) : (c.setG d v).xstat = c.xstat := by
  unfold Ctx.setG; split <;> rfl
@[simp] theorem Ctx.setG_xcause (c : Ctx) (d : GReg) (v : Word) : (c.setG d v).xcause = c.xcause := by
  unfold Ctx.setG; split <;> rfl
@[simp] theorem Ctx.setG_xaddr (c : Ctx) (d : GReg) (v : Word) : (c.setG d v).xaddr = c.xaddr := by
  unfold Ctx.setG; split <;> rfl
@[simp] theorem Ctx.setG_xvec (c : Ctx) (d : GReg) (v : Word) : (c.setG d v).xvec = c.xvec := by
  unfold Ctx.setG; split <;> rfl
@[simp] theorem Ctx.setG_xring (c : Ctx) (d : GReg) (v : Word) : (c.setG d v).xring = c.xring := by
  unfold Ctx.setG; split <;> rfl
@[simp] theorem Ctx.setG_ckring (c : Ctx) (d : GReg) (v : Word) : (c.setG d v).ckring = c.ckring := by
  unfold Ctx.setG; split <;> rfl
@[simp] theorem Ctx.setG_ckpos (c : Ctx) (d : GReg) (v : Word) : (c.setG d v).ckpos = c.ckpos := by
  unfold Ctx.setG; split <;> rfl
@[simp] theorem Ctx.setG_ckseq (c : Ctx) (d : GReg) (v : Word) : (c.setG d v).ckseq = c.ckseq := by
  unfold Ctx.setG; split <;> rfl
@[simp] theorem Ctx.setG_jring (c : Ctx) (d : GReg) (v : Word) : (c.setG d v).jring = c.jring := by
  unfold Ctx.setG; split <;> rfl
@[simp] theorem Ctx.setG_jpos (c : Ctx) (d : GReg) (v : Word) : (c.setG d v).jpos = c.jpos := by
  unfold Ctx.setG; split <;> rfl
@[simp] theorem Ctx.setG_ringsWritten (c : Ctx) (d : GReg) (v : Word) : (c.setG d v).ringsWritten = c.ringsWritten := by
  unfold Ctx.setG; split <;> rfl
@[simp] theorem Ctx.setG_late (c : Ctx) (d : GReg) (v : Word) : (c.setG d v).late = c.late := by
  unfold Ctx.setG; split <;> rfl
@[simp] theorem Ctx.setG_faults (c : Ctx) (d : GReg) (v : Word) : (c.setG d v).faults = c.faults := by
  unfold Ctx.setG; split <;> rfl
@[simp] theorem Ctx.setG_wait (c : Ctx) (d : GReg) (v : Word) : (c.setG d v).wait = c.wait := by
  unfold Ctx.setG; split <;> rfl
@[simp] theorem Ctx.setG_held (c : Ctx) (d : GReg) (v : Word) : (c.setG d v).held = c.held := by
  unfold Ctx.setG; split <;> rfl
@[simp] theorem Ctx.setG_trapping (c : Ctx) (d : GReg) (v : Word) : (c.setG d v).trapping = c.trapping := by
  unfold Ctx.setG; split <;> rfl
@[simp] theorem Ctx.setG_port (c : Ctx) (d : GReg) (v : Word) : (c.setG d v).port = c.port := by
  unfold Ctx.setG; split <;> rfl
@[simp] theorem Ctx.setG_relaxed (c : Ctx) (d : GReg) (v : Word) : (c.setG d v).relaxed = c.relaxed := by
  unfold Ctx.setG; split <;> rfl
@[simp] theorem Ctx.setG_nextSerial (c : Ctx) (d : GReg) (v : Word) : (c.setG d v).nextSerial = c.nextSerial := by
  unfold Ctx.setG; split <;> rfl
@[simp] theorem Ctx.setG_relaxedMsgs (c : Ctx) (d : GReg) (v : Word) : (c.setG d v).relaxedMsgs = c.relaxedMsgs := by
  unfold Ctx.setG; split <;> rfl
@[simp] theorem Ctx.setG_msgFaults (c : Ctx) (d : GReg) (v : Word) : (c.setG d v).msgFaults = c.msgFaults := by
  unfold Ctx.setG; split <;> rfl
@[simp] theorem Ctx.setG_dest (c : Ctx) (d : GReg) (v : Word) : (c.setG d v).dest = c.dest := by
  unfold Ctx.setG; split <;> rfl
@[simp] theorem Ctx.setG_target (c : Ctx) (d : GReg) (v : Word) : (c.setG d v).target = c.target := by
  unfold Ctx.setG; split <;> rfl
@[simp] theorem Ctx.setG_offer (c : Ctx) (d : GReg) (v : Word) : (c.setG d v).offer = c.offer := by
  unfold Ctx.setG; split <;> rfl
@[simp] theorem Ctx.setG_mx (c : Ctx) (d : GReg) (v : Word) : (c.setG d v).mx = c.mx := by
  unfold Ctx.setG; split <;> rfl
@[simp] theorem Ctx.setG_cp (c : Ctx) (d : GReg) (v : Word) : (c.setG d v).cp = c.cp := by
  unfold Ctx.setG; split <;> rfl
@[simp] theorem Ctx.setG_lastIssue (c : Ctx) (d : GReg) (v : Word) : (c.setG d v).lastIssue = c.lastIssue := by
  unfold Ctx.setG; split <;> rfl
@[simp] theorem Ctx.setG_notBefore (c : Ctx) (d : GReg) (v : Word) : (c.setG d v).notBefore = c.notBefore := by
  unfold Ctx.setG; split <;> rfl
@[simp] theorem Ctx.setG_halted (c : Ctx) (d : GReg) (v : Word) : (c.setG d v).halted = c.halted := by
  unfold Ctx.setG; split <;> rfl
@[simp] theorem Ctx.setG_parked (c : Ctx) (d : GReg) (v : Word) : (c.setG d v).parked = c.parked := by
  unfold Ctx.setG; split <;> rfl
@[simp] theorem Ctx.setG_wrapStop (c : Ctx) (d : GReg) (v : Word) : (c.setG d v).wrapStop = c.wrapStop := by
  unfold Ctx.setG; split <;> rfl
@[simp] theorem Ctx.setG_divert (c : Ctx) (d : GReg) (v : Word) : (c.setG d v).divert = c.divert := by
  unfold Ctx.setG; split <;> rfl

/-! ### setP -/

@[simp] theorem Ctx.setP_status (c : Ctx) (d : PReg) (v : Bool) : (c.setP d v).status = c.status := by
  unfold Ctx.setP; split <;> rfl
@[simp] theorem Ctx.setP_proc (c : Ctx) (d : PReg) (v : Bool) : (c.setP d v).proc = c.proc := by
  unfold Ctx.setP; split <;> rfl
@[simp] theorem Ctx.setP_spawned (c : Ctx) (d : PReg) (v : Bool) : (c.setP d v).spawned = c.spawned := by
  unfold Ctx.setP; split <;> rfl
@[simp] theorem Ctx.setP_home (c : Ctx) (d : PReg) (v : Bool) : (c.setP d v).home = c.home := by
  unfold Ctx.setP; split <;> rfl
@[simp] theorem Ctx.setP_away (c : Ctx) (d : PReg) (v : Bool) : (c.setP d v).away = c.away := by
  unfold Ctx.setP; split <;> rfl
@[simp] theorem Ctx.setP_migSize (c : Ctx) (d : PReg) (v : Bool) : (c.setP d v).migSize = c.migSize := by
  unfold Ctx.setP; split <;> rfl
@[simp] theorem Ctx.setP_pc (c : Ctx) (d : PReg) (v : Bool) : (c.setP d v).pc = c.pc := by
  unfold Ctx.setP; split <;> rfl
@[simp] theorem Ctx.setP_pfx (c : Ctx) (d : PReg) (v : Bool) : (c.setP d v).pfx = c.pfx := by
  unfold Ctx.setP; split <;> rfl
@[simp] theorem Ctx.setP_regs (c : Ctx) (d : PReg) (v : Bool) : (c.setP d v).regs = c.regs := by
  unfold Ctx.setP; split <;> rfl
@[simp] theorem Ctx.setP_masks (c : Ctx) (d : PReg) (v : Bool) : (c.setP d v).masks = c.masks := by
  unfold Ctx.setP; split <;> rfl
@[simp] theorem Ctx.setP_rmode (c : Ctx) (d : PReg) (v : Bool) : (c.setP d v).rmode = c.rmode := by
  unfold Ctx.setP; split <;> rfl
@[simp] theorem Ctx.setP_fflags (c : Ctx) (d : PReg) (v : Bool) : (c.setP d v).fflags = c.fflags := by
  unfold Ctx.setP; split <;> rfl
@[simp] theorem Ctx.setP_srng (c : Ctx) (d : PReg) (v : Bool) : (c.setP d v).srng = c.srng := by
  unfold Ctx.setP; split <;> rfl
@[simp] theorem Ctx.setP_xpc (c : Ctx) (d : PReg) (v : Bool) : (c.setP d v).xpc = c.xpc := by
  unfold Ctx.setP; split <;> rfl
@[simp] theorem Ctx.setP_xstat (c : Ctx) (d : PReg) (v : Bool) : (c.setP d v).xstat = c.xstat := by
  unfold Ctx.setP; split <;> rfl
@[simp] theorem Ctx.setP_xcause (c : Ctx) (d : PReg) (v : Bool) : (c.setP d v).xcause = c.xcause := by
  unfold Ctx.setP; split <;> rfl
@[simp] theorem Ctx.setP_xaddr (c : Ctx) (d : PReg) (v : Bool) : (c.setP d v).xaddr = c.xaddr := by
  unfold Ctx.setP; split <;> rfl
@[simp] theorem Ctx.setP_xvec (c : Ctx) (d : PReg) (v : Bool) : (c.setP d v).xvec = c.xvec := by
  unfold Ctx.setP; split <;> rfl
@[simp] theorem Ctx.setP_xring (c : Ctx) (d : PReg) (v : Bool) : (c.setP d v).xring = c.xring := by
  unfold Ctx.setP; split <;> rfl
@[simp] theorem Ctx.setP_ckring (c : Ctx) (d : PReg) (v : Bool) : (c.setP d v).ckring = c.ckring := by
  unfold Ctx.setP; split <;> rfl
@[simp] theorem Ctx.setP_ckpos (c : Ctx) (d : PReg) (v : Bool) : (c.setP d v).ckpos = c.ckpos := by
  unfold Ctx.setP; split <;> rfl
@[simp] theorem Ctx.setP_ckseq (c : Ctx) (d : PReg) (v : Bool) : (c.setP d v).ckseq = c.ckseq := by
  unfold Ctx.setP; split <;> rfl
@[simp] theorem Ctx.setP_jring (c : Ctx) (d : PReg) (v : Bool) : (c.setP d v).jring = c.jring := by
  unfold Ctx.setP; split <;> rfl
@[simp] theorem Ctx.setP_jpos (c : Ctx) (d : PReg) (v : Bool) : (c.setP d v).jpos = c.jpos := by
  unfold Ctx.setP; split <;> rfl
@[simp] theorem Ctx.setP_ringsWritten (c : Ctx) (d : PReg) (v : Bool) : (c.setP d v).ringsWritten = c.ringsWritten := by
  unfold Ctx.setP; split <;> rfl
@[simp] theorem Ctx.setP_late (c : Ctx) (d : PReg) (v : Bool) : (c.setP d v).late = c.late := by
  unfold Ctx.setP; split <;> rfl
@[simp] theorem Ctx.setP_faults (c : Ctx) (d : PReg) (v : Bool) : (c.setP d v).faults = c.faults := by
  unfold Ctx.setP; split <;> rfl
@[simp] theorem Ctx.setP_wait (c : Ctx) (d : PReg) (v : Bool) : (c.setP d v).wait = c.wait := by
  unfold Ctx.setP; split <;> rfl
@[simp] theorem Ctx.setP_held (c : Ctx) (d : PReg) (v : Bool) : (c.setP d v).held = c.held := by
  unfold Ctx.setP; split <;> rfl
@[simp] theorem Ctx.setP_trapping (c : Ctx) (d : PReg) (v : Bool) : (c.setP d v).trapping = c.trapping := by
  unfold Ctx.setP; split <;> rfl
@[simp] theorem Ctx.setP_port (c : Ctx) (d : PReg) (v : Bool) : (c.setP d v).port = c.port := by
  unfold Ctx.setP; split <;> rfl
@[simp] theorem Ctx.setP_relaxed (c : Ctx) (d : PReg) (v : Bool) : (c.setP d v).relaxed = c.relaxed := by
  unfold Ctx.setP; split <;> rfl
@[simp] theorem Ctx.setP_nextSerial (c : Ctx) (d : PReg) (v : Bool) : (c.setP d v).nextSerial = c.nextSerial := by
  unfold Ctx.setP; split <;> rfl
@[simp] theorem Ctx.setP_relaxedMsgs (c : Ctx) (d : PReg) (v : Bool) : (c.setP d v).relaxedMsgs = c.relaxedMsgs := by
  unfold Ctx.setP; split <;> rfl
@[simp] theorem Ctx.setP_msgFaults (c : Ctx) (d : PReg) (v : Bool) : (c.setP d v).msgFaults = c.msgFaults := by
  unfold Ctx.setP; split <;> rfl
@[simp] theorem Ctx.setP_dest (c : Ctx) (d : PReg) (v : Bool) : (c.setP d v).dest = c.dest := by
  unfold Ctx.setP; split <;> rfl
@[simp] theorem Ctx.setP_target (c : Ctx) (d : PReg) (v : Bool) : (c.setP d v).target = c.target := by
  unfold Ctx.setP; split <;> rfl
@[simp] theorem Ctx.setP_offer (c : Ctx) (d : PReg) (v : Bool) : (c.setP d v).offer = c.offer := by
  unfold Ctx.setP; split <;> rfl
@[simp] theorem Ctx.setP_mx (c : Ctx) (d : PReg) (v : Bool) : (c.setP d v).mx = c.mx := by
  unfold Ctx.setP; split <;> rfl
@[simp] theorem Ctx.setP_cp (c : Ctx) (d : PReg) (v : Bool) : (c.setP d v).cp = c.cp := by
  unfold Ctx.setP; split <;> rfl
@[simp] theorem Ctx.setP_lastIssue (c : Ctx) (d : PReg) (v : Bool) : (c.setP d v).lastIssue = c.lastIssue := by
  unfold Ctx.setP; split <;> rfl
@[simp] theorem Ctx.setP_notBefore (c : Ctx) (d : PReg) (v : Bool) : (c.setP d v).notBefore = c.notBefore := by
  unfold Ctx.setP; split <;> rfl
@[simp] theorem Ctx.setP_halted (c : Ctx) (d : PReg) (v : Bool) : (c.setP d v).halted = c.halted := by
  unfold Ctx.setP; split <;> rfl
@[simp] theorem Ctx.setP_parked (c : Ctx) (d : PReg) (v : Bool) : (c.setP d v).parked = c.parked := by
  unfold Ctx.setP; split <;> rfl
@[simp] theorem Ctx.setP_wrapStop (c : Ctx) (d : PReg) (v : Bool) : (c.setP d v).wrapStop = c.wrapStop := by
  unfold Ctx.setP; split <;> rfl
@[simp] theorem Ctx.setP_divert (c : Ctx) (d : PReg) (v : Bool) : (c.setP d v).divert = c.divert := by
  unfold Ctx.setP; split <;> rfl

/-! ### setM -/

@[simp] theorem Ctx.setM_status (c : Ctx) (d : MReg) (v : Word) : (c.setM d v).status = c.status := by
  unfold Ctx.setM; split <;> rfl
@[simp] theorem Ctx.setM_proc (c : Ctx) (d : MReg) (v : Word) : (c.setM d v).proc = c.proc := by
  unfold Ctx.setM; split <;> rfl
@[simp] theorem Ctx.setM_spawned (c : Ctx) (d : MReg) (v : Word) : (c.setM d v).spawned = c.spawned := by
  unfold Ctx.setM; split <;> rfl
@[simp] theorem Ctx.setM_home (c : Ctx) (d : MReg) (v : Word) : (c.setM d v).home = c.home := by
  unfold Ctx.setM; split <;> rfl
@[simp] theorem Ctx.setM_away (c : Ctx) (d : MReg) (v : Word) : (c.setM d v).away = c.away := by
  unfold Ctx.setM; split <;> rfl
@[simp] theorem Ctx.setM_migSize (c : Ctx) (d : MReg) (v : Word) : (c.setM d v).migSize = c.migSize := by
  unfold Ctx.setM; split <;> rfl
@[simp] theorem Ctx.setM_pc (c : Ctx) (d : MReg) (v : Word) : (c.setM d v).pc = c.pc := by
  unfold Ctx.setM; split <;> rfl
@[simp] theorem Ctx.setM_pfx (c : Ctx) (d : MReg) (v : Word) : (c.setM d v).pfx = c.pfx := by
  unfold Ctx.setM; split <;> rfl
@[simp] theorem Ctx.setM_regs (c : Ctx) (d : MReg) (v : Word) : (c.setM d v).regs = c.regs := by
  unfold Ctx.setM; split <;> rfl
@[simp] theorem Ctx.setM_pw (c : Ctx) (d : MReg) (v : Word) : (c.setM d v).pw = c.pw := by
  unfold Ctx.setM; split <;> rfl
@[simp] theorem Ctx.setM_rmode (c : Ctx) (d : MReg) (v : Word) : (c.setM d v).rmode = c.rmode := by
  unfold Ctx.setM; split <;> rfl
@[simp] theorem Ctx.setM_fflags (c : Ctx) (d : MReg) (v : Word) : (c.setM d v).fflags = c.fflags := by
  unfold Ctx.setM; split <;> rfl
@[simp] theorem Ctx.setM_srng (c : Ctx) (d : MReg) (v : Word) : (c.setM d v).srng = c.srng := by
  unfold Ctx.setM; split <;> rfl
@[simp] theorem Ctx.setM_xpc (c : Ctx) (d : MReg) (v : Word) : (c.setM d v).xpc = c.xpc := by
  unfold Ctx.setM; split <;> rfl
@[simp] theorem Ctx.setM_xstat (c : Ctx) (d : MReg) (v : Word) : (c.setM d v).xstat = c.xstat := by
  unfold Ctx.setM; split <;> rfl
@[simp] theorem Ctx.setM_xcause (c : Ctx) (d : MReg) (v : Word) : (c.setM d v).xcause = c.xcause := by
  unfold Ctx.setM; split <;> rfl
@[simp] theorem Ctx.setM_xaddr (c : Ctx) (d : MReg) (v : Word) : (c.setM d v).xaddr = c.xaddr := by
  unfold Ctx.setM; split <;> rfl
@[simp] theorem Ctx.setM_xvec (c : Ctx) (d : MReg) (v : Word) : (c.setM d v).xvec = c.xvec := by
  unfold Ctx.setM; split <;> rfl
@[simp] theorem Ctx.setM_xring (c : Ctx) (d : MReg) (v : Word) : (c.setM d v).xring = c.xring := by
  unfold Ctx.setM; split <;> rfl
@[simp] theorem Ctx.setM_ckring (c : Ctx) (d : MReg) (v : Word) : (c.setM d v).ckring = c.ckring := by
  unfold Ctx.setM; split <;> rfl
@[simp] theorem Ctx.setM_ckpos (c : Ctx) (d : MReg) (v : Word) : (c.setM d v).ckpos = c.ckpos := by
  unfold Ctx.setM; split <;> rfl
@[simp] theorem Ctx.setM_ckseq (c : Ctx) (d : MReg) (v : Word) : (c.setM d v).ckseq = c.ckseq := by
  unfold Ctx.setM; split <;> rfl
@[simp] theorem Ctx.setM_jring (c : Ctx) (d : MReg) (v : Word) : (c.setM d v).jring = c.jring := by
  unfold Ctx.setM; split <;> rfl
@[simp] theorem Ctx.setM_jpos (c : Ctx) (d : MReg) (v : Word) : (c.setM d v).jpos = c.jpos := by
  unfold Ctx.setM; split <;> rfl
@[simp] theorem Ctx.setM_ringsWritten (c : Ctx) (d : MReg) (v : Word) : (c.setM d v).ringsWritten = c.ringsWritten := by
  unfold Ctx.setM; split <;> rfl
@[simp] theorem Ctx.setM_late (c : Ctx) (d : MReg) (v : Word) : (c.setM d v).late = c.late := by
  unfold Ctx.setM; split <;> rfl
@[simp] theorem Ctx.setM_faults (c : Ctx) (d : MReg) (v : Word) : (c.setM d v).faults = c.faults := by
  unfold Ctx.setM; split <;> rfl
@[simp] theorem Ctx.setM_wait (c : Ctx) (d : MReg) (v : Word) : (c.setM d v).wait = c.wait := by
  unfold Ctx.setM; split <;> rfl
@[simp] theorem Ctx.setM_held (c : Ctx) (d : MReg) (v : Word) : (c.setM d v).held = c.held := by
  unfold Ctx.setM; split <;> rfl
@[simp] theorem Ctx.setM_trapping (c : Ctx) (d : MReg) (v : Word) : (c.setM d v).trapping = c.trapping := by
  unfold Ctx.setM; split <;> rfl
@[simp] theorem Ctx.setM_port (c : Ctx) (d : MReg) (v : Word) : (c.setM d v).port = c.port := by
  unfold Ctx.setM; split <;> rfl
@[simp] theorem Ctx.setM_relaxed (c : Ctx) (d : MReg) (v : Word) : (c.setM d v).relaxed = c.relaxed := by
  unfold Ctx.setM; split <;> rfl
@[simp] theorem Ctx.setM_nextSerial (c : Ctx) (d : MReg) (v : Word) : (c.setM d v).nextSerial = c.nextSerial := by
  unfold Ctx.setM; split <;> rfl
@[simp] theorem Ctx.setM_relaxedMsgs (c : Ctx) (d : MReg) (v : Word) : (c.setM d v).relaxedMsgs = c.relaxedMsgs := by
  unfold Ctx.setM; split <;> rfl
@[simp] theorem Ctx.setM_msgFaults (c : Ctx) (d : MReg) (v : Word) : (c.setM d v).msgFaults = c.msgFaults := by
  unfold Ctx.setM; split <;> rfl
@[simp] theorem Ctx.setM_dest (c : Ctx) (d : MReg) (v : Word) : (c.setM d v).dest = c.dest := by
  unfold Ctx.setM; split <;> rfl
@[simp] theorem Ctx.setM_target (c : Ctx) (d : MReg) (v : Word) : (c.setM d v).target = c.target := by
  unfold Ctx.setM; split <;> rfl
@[simp] theorem Ctx.setM_offer (c : Ctx) (d : MReg) (v : Word) : (c.setM d v).offer = c.offer := by
  unfold Ctx.setM; split <;> rfl
@[simp] theorem Ctx.setM_mx (c : Ctx) (d : MReg) (v : Word) : (c.setM d v).mx = c.mx := by
  unfold Ctx.setM; split <;> rfl
@[simp] theorem Ctx.setM_cp (c : Ctx) (d : MReg) (v : Word) : (c.setM d v).cp = c.cp := by
  unfold Ctx.setM; split <;> rfl
@[simp] theorem Ctx.setM_lastIssue (c : Ctx) (d : MReg) (v : Word) : (c.setM d v).lastIssue = c.lastIssue := by
  unfold Ctx.setM; split <;> rfl
@[simp] theorem Ctx.setM_notBefore (c : Ctx) (d : MReg) (v : Word) : (c.setM d v).notBefore = c.notBefore := by
  unfold Ctx.setM; split <;> rfl
@[simp] theorem Ctx.setM_halted (c : Ctx) (d : MReg) (v : Word) : (c.setM d v).halted = c.halted := by
  unfold Ctx.setM; split <;> rfl
@[simp] theorem Ctx.setM_parked (c : Ctx) (d : MReg) (v : Word) : (c.setM d v).parked = c.parked := by
  unfold Ctx.setM; split <;> rfl
@[simp] theorem Ctx.setM_wrapStop (c : Ctx) (d : MReg) (v : Word) : (c.setM d v).wrapStop = c.wrapStop := by
  unfold Ctx.setM; split <;> rfl
@[simp] theorem Ctx.setM_divert (c : Ctx) (d : MReg) (v : Word) : (c.setM d v).divert = c.divert := by
  unfold Ctx.setM; split <;> rfl

/-! ### raise -/

@[simp] theorem Ctx.raise_status (c : Ctx) (f : FlagSet) : (c.raise f).status = c.status := rfl
@[simp] theorem Ctx.raise_proc (c : Ctx) (f : FlagSet) : (c.raise f).proc = c.proc := rfl
@[simp] theorem Ctx.raise_spawned (c : Ctx) (f : FlagSet) : (c.raise f).spawned = c.spawned := rfl
@[simp] theorem Ctx.raise_home (c : Ctx) (f : FlagSet) : (c.raise f).home = c.home := rfl
@[simp] theorem Ctx.raise_away (c : Ctx) (f : FlagSet) : (c.raise f).away = c.away := rfl
@[simp] theorem Ctx.raise_migSize (c : Ctx) (f : FlagSet) : (c.raise f).migSize = c.migSize := rfl
@[simp] theorem Ctx.raise_pc (c : Ctx) (f : FlagSet) : (c.raise f).pc = c.pc := rfl
@[simp] theorem Ctx.raise_pfx (c : Ctx) (f : FlagSet) : (c.raise f).pfx = c.pfx := rfl
@[simp] theorem Ctx.raise_regs (c : Ctx) (f : FlagSet) : (c.raise f).regs = c.regs := rfl
@[simp] theorem Ctx.raise_pw (c : Ctx) (f : FlagSet) : (c.raise f).pw = c.pw := rfl
@[simp] theorem Ctx.raise_masks (c : Ctx) (f : FlagSet) : (c.raise f).masks = c.masks := rfl
@[simp] theorem Ctx.raise_rmode (c : Ctx) (f : FlagSet) : (c.raise f).rmode = c.rmode := rfl
@[simp] theorem Ctx.raise_srng (c : Ctx) (f : FlagSet) : (c.raise f).srng = c.srng := rfl
@[simp] theorem Ctx.raise_xpc (c : Ctx) (f : FlagSet) : (c.raise f).xpc = c.xpc := rfl
@[simp] theorem Ctx.raise_xstat (c : Ctx) (f : FlagSet) : (c.raise f).xstat = c.xstat := rfl
@[simp] theorem Ctx.raise_xcause (c : Ctx) (f : FlagSet) : (c.raise f).xcause = c.xcause := rfl
@[simp] theorem Ctx.raise_xaddr (c : Ctx) (f : FlagSet) : (c.raise f).xaddr = c.xaddr := rfl
@[simp] theorem Ctx.raise_xvec (c : Ctx) (f : FlagSet) : (c.raise f).xvec = c.xvec := rfl
@[simp] theorem Ctx.raise_xring (c : Ctx) (f : FlagSet) : (c.raise f).xring = c.xring := rfl
@[simp] theorem Ctx.raise_ckring (c : Ctx) (f : FlagSet) : (c.raise f).ckring = c.ckring := rfl
@[simp] theorem Ctx.raise_ckpos (c : Ctx) (f : FlagSet) : (c.raise f).ckpos = c.ckpos := rfl
@[simp] theorem Ctx.raise_ckseq (c : Ctx) (f : FlagSet) : (c.raise f).ckseq = c.ckseq := rfl
@[simp] theorem Ctx.raise_jring (c : Ctx) (f : FlagSet) : (c.raise f).jring = c.jring := rfl
@[simp] theorem Ctx.raise_jpos (c : Ctx) (f : FlagSet) : (c.raise f).jpos = c.jpos := rfl
@[simp] theorem Ctx.raise_ringsWritten (c : Ctx) (f : FlagSet) : (c.raise f).ringsWritten = c.ringsWritten := rfl
@[simp] theorem Ctx.raise_late (c : Ctx) (f : FlagSet) : (c.raise f).late = c.late := rfl
@[simp] theorem Ctx.raise_faults (c : Ctx) (f : FlagSet) : (c.raise f).faults = c.faults := rfl
@[simp] theorem Ctx.raise_wait (c : Ctx) (f : FlagSet) : (c.raise f).wait = c.wait := rfl
@[simp] theorem Ctx.raise_held (c : Ctx) (f : FlagSet) : (c.raise f).held = c.held := rfl
@[simp] theorem Ctx.raise_trapping (c : Ctx) (f : FlagSet) : (c.raise f).trapping = c.trapping := rfl
@[simp] theorem Ctx.raise_port (c : Ctx) (f : FlagSet) : (c.raise f).port = c.port := rfl
@[simp] theorem Ctx.raise_relaxed (c : Ctx) (f : FlagSet) : (c.raise f).relaxed = c.relaxed := rfl
@[simp] theorem Ctx.raise_nextSerial (c : Ctx) (f : FlagSet) : (c.raise f).nextSerial = c.nextSerial := rfl
@[simp] theorem Ctx.raise_relaxedMsgs (c : Ctx) (f : FlagSet) : (c.raise f).relaxedMsgs = c.relaxedMsgs := rfl
@[simp] theorem Ctx.raise_msgFaults (c : Ctx) (f : FlagSet) : (c.raise f).msgFaults = c.msgFaults := rfl
@[simp] theorem Ctx.raise_dest (c : Ctx) (f : FlagSet) : (c.raise f).dest = c.dest := rfl
@[simp] theorem Ctx.raise_target (c : Ctx) (f : FlagSet) : (c.raise f).target = c.target := rfl
@[simp] theorem Ctx.raise_offer (c : Ctx) (f : FlagSet) : (c.raise f).offer = c.offer := rfl
@[simp] theorem Ctx.raise_mx (c : Ctx) (f : FlagSet) : (c.raise f).mx = c.mx := rfl
@[simp] theorem Ctx.raise_cp (c : Ctx) (f : FlagSet) : (c.raise f).cp = c.cp := rfl
@[simp] theorem Ctx.raise_lastIssue (c : Ctx) (f : FlagSet) : (c.raise f).lastIssue = c.lastIssue := rfl
@[simp] theorem Ctx.raise_notBefore (c : Ctx) (f : FlagSet) : (c.raise f).notBefore = c.notBefore := rfl
@[simp] theorem Ctx.raise_halted (c : Ctx) (f : FlagSet) : (c.raise f).halted = c.halted := rfl
@[simp] theorem Ctx.raise_parked (c : Ctx) (f : FlagSet) : (c.raise f).parked = c.parked := rfl
@[simp] theorem Ctx.raise_wrapStop (c : Ctx) (f : FlagSet) : (c.raise f).wrapStop = c.wrapStop := rfl
@[simp] theorem Ctx.raise_divert (c : Ctx) (f : FlagSet) : (c.raise f).divert = c.divert := rfl

/-! ### goto -/

@[simp] theorem Ctx.goto_proc (c : Ctx) (a : Word) : (c.goto a).proc = c.proc := rfl
@[simp] theorem Ctx.goto_spawned (c : Ctx) (a : Word) : (c.goto a).spawned = c.spawned := rfl
@[simp] theorem Ctx.goto_home (c : Ctx) (a : Word) : (c.goto a).home = c.home := rfl
@[simp] theorem Ctx.goto_away (c : Ctx) (a : Word) : (c.goto a).away = c.away := rfl
@[simp] theorem Ctx.goto_migSize (c : Ctx) (a : Word) : (c.goto a).migSize = c.migSize := rfl
@[simp] theorem Ctx.goto_regs (c : Ctx) (a : Word) : (c.goto a).regs = c.regs := rfl
@[simp] theorem Ctx.goto_pw (c : Ctx) (a : Word) : (c.goto a).pw = c.pw := rfl
@[simp] theorem Ctx.goto_masks (c : Ctx) (a : Word) : (c.goto a).masks = c.masks := rfl
@[simp] theorem Ctx.goto_rmode (c : Ctx) (a : Word) : (c.goto a).rmode = c.rmode := rfl
@[simp] theorem Ctx.goto_fflags (c : Ctx) (a : Word) : (c.goto a).fflags = c.fflags := rfl
@[simp] theorem Ctx.goto_srng (c : Ctx) (a : Word) : (c.goto a).srng = c.srng := rfl
@[simp] theorem Ctx.goto_xpc (c : Ctx) (a : Word) : (c.goto a).xpc = c.xpc := rfl
@[simp] theorem Ctx.goto_xstat (c : Ctx) (a : Word) : (c.goto a).xstat = c.xstat := rfl
@[simp] theorem Ctx.goto_xcause (c : Ctx) (a : Word) : (c.goto a).xcause = c.xcause := rfl
@[simp] theorem Ctx.goto_xaddr (c : Ctx) (a : Word) : (c.goto a).xaddr = c.xaddr := rfl
@[simp] theorem Ctx.goto_xvec (c : Ctx) (a : Word) : (c.goto a).xvec = c.xvec := rfl
@[simp] theorem Ctx.goto_xring (c : Ctx) (a : Word) : (c.goto a).xring = c.xring := rfl
@[simp] theorem Ctx.goto_ckring (c : Ctx) (a : Word) : (c.goto a).ckring = c.ckring := rfl
@[simp] theorem Ctx.goto_ckpos (c : Ctx) (a : Word) : (c.goto a).ckpos = c.ckpos := rfl
@[simp] theorem Ctx.goto_ckseq (c : Ctx) (a : Word) : (c.goto a).ckseq = c.ckseq := rfl
@[simp] theorem Ctx.goto_jring (c : Ctx) (a : Word) : (c.goto a).jring = c.jring := rfl
@[simp] theorem Ctx.goto_jpos (c : Ctx) (a : Word) : (c.goto a).jpos = c.jpos := rfl
@[simp] theorem Ctx.goto_ringsWritten (c : Ctx) (a : Word) : (c.goto a).ringsWritten = c.ringsWritten := rfl
@[simp] theorem Ctx.goto_late (c : Ctx) (a : Word) : (c.goto a).late = c.late := rfl
@[simp] theorem Ctx.goto_faults (c : Ctx) (a : Word) : (c.goto a).faults = c.faults := rfl
@[simp] theorem Ctx.goto_trapping (c : Ctx) (a : Word) : (c.goto a).trapping = c.trapping := rfl
@[simp] theorem Ctx.goto_port (c : Ctx) (a : Word) : (c.goto a).port = c.port := rfl
@[simp] theorem Ctx.goto_relaxed (c : Ctx) (a : Word) : (c.goto a).relaxed = c.relaxed := rfl
@[simp] theorem Ctx.goto_nextSerial (c : Ctx) (a : Word) : (c.goto a).nextSerial = c.nextSerial := rfl
@[simp] theorem Ctx.goto_relaxedMsgs (c : Ctx) (a : Word) : (c.goto a).relaxedMsgs = c.relaxedMsgs := rfl
@[simp] theorem Ctx.goto_msgFaults (c : Ctx) (a : Word) : (c.goto a).msgFaults = c.msgFaults := rfl
@[simp] theorem Ctx.goto_dest (c : Ctx) (a : Word) : (c.goto a).dest = c.dest := rfl
@[simp] theorem Ctx.goto_target (c : Ctx) (a : Word) : (c.goto a).target = c.target := rfl
@[simp] theorem Ctx.goto_offer (c : Ctx) (a : Word) : (c.goto a).offer = c.offer := rfl
@[simp] theorem Ctx.goto_mx (c : Ctx) (a : Word) : (c.goto a).mx = c.mx := rfl
@[simp] theorem Ctx.goto_cp (c : Ctx) (a : Word) : (c.goto a).cp = c.cp := rfl
@[simp] theorem Ctx.goto_lastIssue (c : Ctx) (a : Word) : (c.goto a).lastIssue = c.lastIssue := rfl
@[simp] theorem Ctx.goto_notBefore (c : Ctx) (a : Word) : (c.goto a).notBefore = c.notBefore := rfl
@[simp] theorem Ctx.goto_halted (c : Ctx) (a : Word) : (c.goto a).halted = c.halted := rfl
@[simp] theorem Ctx.goto_parked (c : Ctx) (a : Word) : (c.goto a).parked = c.parked := rfl
@[simp] theorem Ctx.goto_wrapStop (c : Ctx) (a : Word) : (c.goto a).wrapStop = c.wrapStop := rfl
@[simp] theorem Ctx.goto_divert (c : Ctx) (a : Word) : (c.goto a).divert = c.divert := rfl

/-! ### advance -/

@[simp] theorem Ctx.advance_proc (c : Ctx) : (c.advance).proc = c.proc := rfl
@[simp] theorem Ctx.advance_spawned (c : Ctx) : (c.advance).spawned = c.spawned := rfl
@[simp] theorem Ctx.advance_home (c : Ctx) : (c.advance).home = c.home := rfl
@[simp] theorem Ctx.advance_away (c : Ctx) : (c.advance).away = c.away := rfl
@[simp] theorem Ctx.advance_migSize (c : Ctx) : (c.advance).migSize = c.migSize := rfl
@[simp] theorem Ctx.advance_regs (c : Ctx) : (c.advance).regs = c.regs := rfl
@[simp] theorem Ctx.advance_pw (c : Ctx) : (c.advance).pw = c.pw := rfl
@[simp] theorem Ctx.advance_masks (c : Ctx) : (c.advance).masks = c.masks := rfl
@[simp] theorem Ctx.advance_rmode (c : Ctx) : (c.advance).rmode = c.rmode := rfl
@[simp] theorem Ctx.advance_fflags (c : Ctx) : (c.advance).fflags = c.fflags := rfl
@[simp] theorem Ctx.advance_srng (c : Ctx) : (c.advance).srng = c.srng := rfl
@[simp] theorem Ctx.advance_xpc (c : Ctx) : (c.advance).xpc = c.xpc := rfl
@[simp] theorem Ctx.advance_xstat (c : Ctx) : (c.advance).xstat = c.xstat := rfl
@[simp] theorem Ctx.advance_xcause (c : Ctx) : (c.advance).xcause = c.xcause := rfl
@[simp] theorem Ctx.advance_xaddr (c : Ctx) : (c.advance).xaddr = c.xaddr := rfl
@[simp] theorem Ctx.advance_xvec (c : Ctx) : (c.advance).xvec = c.xvec := rfl
@[simp] theorem Ctx.advance_xring (c : Ctx) : (c.advance).xring = c.xring := rfl
@[simp] theorem Ctx.advance_ckring (c : Ctx) : (c.advance).ckring = c.ckring := rfl
@[simp] theorem Ctx.advance_ckpos (c : Ctx) : (c.advance).ckpos = c.ckpos := rfl
@[simp] theorem Ctx.advance_ckseq (c : Ctx) : (c.advance).ckseq = c.ckseq := rfl
@[simp] theorem Ctx.advance_jring (c : Ctx) : (c.advance).jring = c.jring := rfl
@[simp] theorem Ctx.advance_jpos (c : Ctx) : (c.advance).jpos = c.jpos := rfl
@[simp] theorem Ctx.advance_ringsWritten (c : Ctx) : (c.advance).ringsWritten = c.ringsWritten := rfl
@[simp] theorem Ctx.advance_late (c : Ctx) : (c.advance).late = c.late := rfl
@[simp] theorem Ctx.advance_faults (c : Ctx) : (c.advance).faults = c.faults := rfl
@[simp] theorem Ctx.advance_trapping (c : Ctx) : (c.advance).trapping = c.trapping := rfl
@[simp] theorem Ctx.advance_port (c : Ctx) : (c.advance).port = c.port := rfl
@[simp] theorem Ctx.advance_relaxed (c : Ctx) : (c.advance).relaxed = c.relaxed := rfl
@[simp] theorem Ctx.advance_nextSerial (c : Ctx) : (c.advance).nextSerial = c.nextSerial := rfl
@[simp] theorem Ctx.advance_relaxedMsgs (c : Ctx) : (c.advance).relaxedMsgs = c.relaxedMsgs := rfl
@[simp] theorem Ctx.advance_msgFaults (c : Ctx) : (c.advance).msgFaults = c.msgFaults := rfl
@[simp] theorem Ctx.advance_dest (c : Ctx) : (c.advance).dest = c.dest := rfl
@[simp] theorem Ctx.advance_target (c : Ctx) : (c.advance).target = c.target := rfl
@[simp] theorem Ctx.advance_offer (c : Ctx) : (c.advance).offer = c.offer := rfl
@[simp] theorem Ctx.advance_mx (c : Ctx) : (c.advance).mx = c.mx := rfl
@[simp] theorem Ctx.advance_cp (c : Ctx) : (c.advance).cp = c.cp := rfl
@[simp] theorem Ctx.advance_lastIssue (c : Ctx) : (c.advance).lastIssue = c.lastIssue := rfl
@[simp] theorem Ctx.advance_notBefore (c : Ctx) : (c.advance).notBefore = c.notBefore := rfl
@[simp] theorem Ctx.advance_halted (c : Ctx) : (c.advance).halted = c.halted := rfl
@[simp] theorem Ctx.advance_parked (c : Ctx) : (c.advance).parked = c.parked := rfl
@[simp] theorem Ctx.advance_wrapStop (c : Ctx) : (c.advance).wrapStop = c.wrapStop := rfl
@[simp] theorem Ctx.advance_divert (c : Ctx) : (c.advance).divert = c.divert := rfl

/-! ### hold -/

@[simp] theorem Ctx.hold_proc (c : Ctx) (i : Instr) (w : Wait) : (c.hold i w).proc = c.proc := rfl
@[simp] theorem Ctx.hold_spawned (c : Ctx) (i : Instr) (w : Wait) : (c.hold i w).spawned = c.spawned := rfl
@[simp] theorem Ctx.hold_home (c : Ctx) (i : Instr) (w : Wait) : (c.hold i w).home = c.home := rfl
@[simp] theorem Ctx.hold_away (c : Ctx) (i : Instr) (w : Wait) : (c.hold i w).away = c.away := rfl
@[simp] theorem Ctx.hold_migSize (c : Ctx) (i : Instr) (w : Wait) : (c.hold i w).migSize = c.migSize := rfl
@[simp] theorem Ctx.hold_pc (c : Ctx) (i : Instr) (w : Wait) : (c.hold i w).pc = c.pc := rfl
@[simp] theorem Ctx.hold_pfx (c : Ctx) (i : Instr) (w : Wait) : (c.hold i w).pfx = c.pfx := rfl
@[simp] theorem Ctx.hold_regs (c : Ctx) (i : Instr) (w : Wait) : (c.hold i w).regs = c.regs := rfl
@[simp] theorem Ctx.hold_pw (c : Ctx) (i : Instr) (w : Wait) : (c.hold i w).pw = c.pw := rfl
@[simp] theorem Ctx.hold_masks (c : Ctx) (i : Instr) (w : Wait) : (c.hold i w).masks = c.masks := rfl
@[simp] theorem Ctx.hold_rmode (c : Ctx) (i : Instr) (w : Wait) : (c.hold i w).rmode = c.rmode := rfl
@[simp] theorem Ctx.hold_fflags (c : Ctx) (i : Instr) (w : Wait) : (c.hold i w).fflags = c.fflags := rfl
@[simp] theorem Ctx.hold_srng (c : Ctx) (i : Instr) (w : Wait) : (c.hold i w).srng = c.srng := rfl
@[simp] theorem Ctx.hold_xpc (c : Ctx) (i : Instr) (w : Wait) : (c.hold i w).xpc = c.xpc := rfl
@[simp] theorem Ctx.hold_xstat (c : Ctx) (i : Instr) (w : Wait) : (c.hold i w).xstat = c.xstat := rfl
@[simp] theorem Ctx.hold_xcause (c : Ctx) (i : Instr) (w : Wait) : (c.hold i w).xcause = c.xcause := rfl
@[simp] theorem Ctx.hold_xaddr (c : Ctx) (i : Instr) (w : Wait) : (c.hold i w).xaddr = c.xaddr := rfl
@[simp] theorem Ctx.hold_xvec (c : Ctx) (i : Instr) (w : Wait) : (c.hold i w).xvec = c.xvec := rfl
@[simp] theorem Ctx.hold_xring (c : Ctx) (i : Instr) (w : Wait) : (c.hold i w).xring = c.xring := rfl
@[simp] theorem Ctx.hold_ckring (c : Ctx) (i : Instr) (w : Wait) : (c.hold i w).ckring = c.ckring := rfl
@[simp] theorem Ctx.hold_ckpos (c : Ctx) (i : Instr) (w : Wait) : (c.hold i w).ckpos = c.ckpos := rfl
@[simp] theorem Ctx.hold_ckseq (c : Ctx) (i : Instr) (w : Wait) : (c.hold i w).ckseq = c.ckseq := rfl
@[simp] theorem Ctx.hold_jring (c : Ctx) (i : Instr) (w : Wait) : (c.hold i w).jring = c.jring := rfl
@[simp] theorem Ctx.hold_jpos (c : Ctx) (i : Instr) (w : Wait) : (c.hold i w).jpos = c.jpos := rfl
@[simp] theorem Ctx.hold_ringsWritten (c : Ctx) (i : Instr) (w : Wait) : (c.hold i w).ringsWritten = c.ringsWritten := rfl
@[simp] theorem Ctx.hold_late (c : Ctx) (i : Instr) (w : Wait) : (c.hold i w).late = c.late := rfl
@[simp] theorem Ctx.hold_faults (c : Ctx) (i : Instr) (w : Wait) : (c.hold i w).faults = c.faults := rfl
@[simp] theorem Ctx.hold_trapping (c : Ctx) (i : Instr) (w : Wait) : (c.hold i w).trapping = c.trapping := rfl
@[simp] theorem Ctx.hold_port (c : Ctx) (i : Instr) (w : Wait) : (c.hold i w).port = c.port := rfl
@[simp] theorem Ctx.hold_relaxed (c : Ctx) (i : Instr) (w : Wait) : (c.hold i w).relaxed = c.relaxed := rfl
@[simp] theorem Ctx.hold_nextSerial (c : Ctx) (i : Instr) (w : Wait) : (c.hold i w).nextSerial = c.nextSerial := rfl
@[simp] theorem Ctx.hold_relaxedMsgs (c : Ctx) (i : Instr) (w : Wait) : (c.hold i w).relaxedMsgs = c.relaxedMsgs := rfl
@[simp] theorem Ctx.hold_msgFaults (c : Ctx) (i : Instr) (w : Wait) : (c.hold i w).msgFaults = c.msgFaults := rfl
@[simp] theorem Ctx.hold_dest (c : Ctx) (i : Instr) (w : Wait) : (c.hold i w).dest = c.dest := rfl
@[simp] theorem Ctx.hold_target (c : Ctx) (i : Instr) (w : Wait) : (c.hold i w).target = c.target := rfl
@[simp] theorem Ctx.hold_offer (c : Ctx) (i : Instr) (w : Wait) : (c.hold i w).offer = c.offer := rfl
@[simp] theorem Ctx.hold_mx (c : Ctx) (i : Instr) (w : Wait) : (c.hold i w).mx = c.mx := rfl
@[simp] theorem Ctx.hold_cp (c : Ctx) (i : Instr) (w : Wait) : (c.hold i w).cp = c.cp := rfl
@[simp] theorem Ctx.hold_lastIssue (c : Ctx) (i : Instr) (w : Wait) : (c.hold i w).lastIssue = c.lastIssue := rfl
@[simp] theorem Ctx.hold_notBefore (c : Ctx) (i : Instr) (w : Wait) : (c.hold i w).notBefore = c.notBefore := rfl
@[simp] theorem Ctx.hold_halted (c : Ctx) (i : Instr) (w : Wait) : (c.hold i w).halted = c.halted := rfl
@[simp] theorem Ctx.hold_parked (c : Ctx) (i : Instr) (w : Wait) : (c.hold i w).parked = c.parked := rfl
@[simp] theorem Ctx.hold_wrapStop (c : Ctx) (i : Instr) (w : Wait) : (c.hold i w).wrapStop = c.wrapStop := rfl
@[simp] theorem Ctx.hold_divert (c : Ctx) (i : Instr) (w : Wait) : (c.hold i w).divert = c.divert := rfl

@[simp] theorem Ctx.goto_pc (c : Ctx) (a : Word) : (c.goto a).pc = a := rfl
@[simp] theorem Ctx.advance_pc (c : Ctx) : c.advance.pc = c.pc + 4 := rfl
@[simp] theorem Ctx.goto_pfx (c : Ctx) (a : Word) : (c.goto a).pfx = .none := rfl
@[simp] theorem Ctx.advance_pfx (c : Ctx) : c.advance.pfx = .none := rfl
@[simp] theorem Ctx.goto_held (c : Ctx) (a : Word) : (c.goto a).held = none := rfl
@[simp] theorem Ctx.advance_held (c : Ctx) : c.advance.held = none := rfl
@[simp] theorem Ctx.goto_wait (c : Ctx) (a : Word) : (c.goto a).wait = .none := rfl
@[simp] theorem Ctx.advance_wait (c : Ctx) : c.advance.wait = .none := rfl
@[simp] theorem Ctx.goto_status (c : Ctx) (a : Word) : (c.goto a).status = .ready := rfl
@[simp] theorem Ctx.advance_status (c : Ctx) : c.advance.status = .ready := rfl
@[simp] theorem Ctx.hold_held (c : Ctx) (i : Instr) (w : Wait) : (c.hold i w).held = some i := rfl
@[simp] theorem Ctx.hold_wait (c : Ctx) (i : Instr) (w : Wait) : (c.hold i w).wait = w := rfl
@[simp] theorem Ctx.hold_status (c : Ctx) (i : Instr) (w : Wait) : (c.hold i w).status = .waiting := rfl
@[simp] theorem Ctx.raise_fflags (c : Ctx) (f : FlagSet) : (c.raise f).fflags = c.fflags ||| (f &&& fflagsMask) := rfl

/-! ## Reading what was written -/

@[simp] theorem State.ctx_setCtx_same (s : State) (tid : Nat) (c : Ctx) : (s.setCtx tid c).ctx tid = c := by
  simp [State.ctx]

theorem State.ctx_setCtx_other (s : State) {tid t : Nat} (h : t ≠ tid) (c : Ctx) : (s.setCtx tid c).ctx t = s.ctx t := by
  simp [State.ctx, tableGet_put_other _ h]

@[simp] theorem State.ctx_modCtx_same (s : State) (tid : Nat) (f : Ctx → Ctx) : (s.modCtx tid f).ctx tid = f (s.ctx tid) := by
  simp [State.ctx]

theorem State.ctx_modCtx_other (s : State) {tid t : Nat} (h : t ≠ tid) (f : Ctx → Ctx) :
    (s.modCtx tid f).ctx t = s.ctx t := by
  simp [State.ctx, tableGet_put_other _ h]

@[simp] theorem State.me_setMe (s : State) (c : Ctx) : (s.setMe c).me = c := by simp [State.me, State.ctx]

@[simp] theorem State.me_modMe (s : State) (f : Ctx → Ctx) : (s.modMe f).me = f s.me := by simp [State.me, State.ctx]

theorem State.ctx_modMe_other (s : State) {t : Nat} (h : t ≠ s.cur) (f : Ctx → Ctx) : (s.modMe f).ctx t = s.ctx t := by
  simp [State.ctx, tableGet_put_other _ h]

@[simp] theorem State.core_setCore_same (s : State) (p : Nat) (c : CoreS) : (s.setCore p c).core p = c := by
  simp [State.core]

theorem State.core_setCore_other (s : State) {p q : Nat} (h : q ≠ p) (c : CoreS) : (s.setCore p c).core q = s.core q := by
  simp [State.core, tableGet_put_other _ h]

@[simp] theorem State.core_modCore_same (s : State) (p : Nat) (f : CoreS → CoreS) :
    (s.modCore p f).core p = f (s.core p) := by simp [State.core]

theorem State.core_modCore_other (s : State) {p q : Nat} (h : q ≠ p) (f : CoreS → CoreS) :
    (s.modCore p f).core q = s.core q := by simp [State.core, tableGet_put_other _ h]

@[simp] theorem State.proc_setProc_same (s : State) (k : Nat) (x : Proc) : (s.setProc k x).proc k = x := by
  simp [State.proc]

theorem State.proc_setProc_other (s : State) {j k : Nat} (h : j ≠ k) (x : Proc) : (s.setProc k x).proc j = s.proc j := by
  simp [State.proc, tableGet_put_other _ h]

@[simp] theorem State.launch_setLaunch_same (s : State) (l : Nat) (x : Launch) : (s.setLaunch l x).launch? l = some x := by
  simp [State.launch?]

theorem State.launch_setLaunch_other (s : State) {l k : Nat} (h : k ≠ l) (x : Launch) :
    (s.setLaunch l x).launch? k = s.launch? k := by simp [State.launch?, tableFind_put_other h]

@[simp] theorem State.entry_setEntry_same (s : State) (p e : Nat) (x : ArbEntry) : (s.setEntry p e x).entry p e = x := by
  simp [State.entry, State.setEntry, State.core]

theorem State.entry_setEntry_other (s : State) {p e q f : Nat} (h : q ≠ p ∨ f ≠ e) (x : ArbEntry) :
    (s.setEntry p e x).entry q f = s.entry q f := by
  by_cases hq : q = p
  · subst hq
    simp [State.entry, State.setEntry, State.core, tableGet_put_other _ (h.resolve_left (by simp))]
  · simp [State.entry, State.setEntry, State.core_modCore_other s hq]

/-- g0 reads 0 (R171). -/
@[simp] theorem State.g_zero (s : State) : s.g 0 = 0 := rfl

/-- p0 reads true (R171). -/
@[simp] theorem State.p_zero (s : State) : s.p 0 = true := rfl

/-- m0 reads all ones (R220). -/
@[simp] theorem State.m_zero (s : State) : s.m 0 = BitVec.allOnes 64 := rfl

@[simp] theorem Ctx.g_zero (c : Ctx) : c.g 0 = 0 := rfl

/-- A register reads as written; a write to g0 is discarded (R142, R171). -/
theorem Ctx.g_setG (c : Ctx) (d r : GReg) (v : Word) : (c.setG d v).g r = if r = d ∧ d ≠ 0 then v else c.g r := by
  by_cases hd : d = 0
  · simp [Ctx.setG, hd]
  · by_cases hr : r = 0
    · simp [Ctx.setG, Ctx.g, hd, hr, Ne.symm hd]
    · by_cases h : r = d
      · subst h; simp [Ctx.setG, Ctx.g, hr]
      · have : d.val ≠ r.val := fun e => h (Fin.ext e.symm)
        simp [Ctx.setG, Ctx.g, hd, hr, h, this]

/-- A write to a general register leaves p and m alone, and what follows (R171). -/
theorem State.g_eq (s : State) (r : GReg) : s.g r = s.me.g r := rfl

end Sys2Proof.Machine
end

