-- ==== Sys2Proof/Laws/Frames.lean ====
section
/-!
SUPPORT. What the shared ends of instructions do: each lemma says once, in the words of Safety, what an end writes and what
it leaves alone.
-/

namespace Sys2Proof.Machine

/-! ## Parts of the state after an update -/

theorem State.ctx_setMe_other (s : State) (c : Ctx) {k : Nat} (h : k ≠ s.cur) : (s.setMe c).ctx k = s.ctx k := by
  simp [State.ctx, tableGet_put_other _ h]

@[simp] theorem State.bank_setBank_same (s : State) (b : Nat) (q : List QueuedPart) : (s.setBank b q).bank b = q := by
  simp [State.bank]

theorem State.bank_setBank_other (s : State) {b k : Nat} (h : k ≠ b) (q : List QueuedPart) :
    (s.setBank b q).bank k = s.bank k := by simp [State.bank, tableGet_put_other _ h]

@[simp] theorem State.ctx_setCore (s : State) (k : Nat) (p : Nat) (c : CoreS) : (s.setCore p c).ctx k = s.ctx k := rfl
@[simp] theorem State.ctx_modCore (s : State) (k : Nat) (p : Nat) (f : CoreS → CoreS) : (s.modCore p f).ctx k = s.ctx k := rfl
@[simp] theorem State.ctx_setProc (s : State) (k : Nat) (j : Nat) (x : Proc) : (s.setProc j x).ctx k = s.ctx k := rfl
@[simp] theorem State.ctx_modProc (s : State) (k : Nat) (j : Nat) (f : Proc → Proc) : (s.modProc j f).ctx k = s.ctx k := rfl
@[simp] theorem State.ctx_setBank (s : State) (k : Nat) (b : Nat) (q : List QueuedPart) : (s.setBank b q).ctx k = s.ctx k := rfl
@[simp] theorem State.ctx_setEntry (s : State) (k : Nat) (p e : Nat) (x : ArbEntry) : (s.setEntry p e x).ctx k = s.ctx k := rfl
@[simp] theorem State.ctx_modEntry (s : State) (k : Nat) (p e : Nat) (f : ArbEntry → ArbEntry) : (s.modEntry p e f).ctx k = s.ctx k := rfl
@[simp] theorem State.ctx_send (s : State) (k : Nat) (x : Packet) : (s.send x).ctx k = s.ctx k := rfl
@[simp] theorem State.ctx_setMem (s : State) (k : Nat) (m : Mem) : (s.setMem m).ctx k = s.ctx k := rfl
@[simp] theorem State.core_setCtx (s : State) (k : Nat) (tid : Nat) (c : Ctx) : (s.setCtx tid c).core k = s.core k := rfl
@[simp] theorem State.core_modCtx (s : State) (k : Nat) (tid : Nat) (f : Ctx → Ctx) : (s.modCtx tid f).core k = s.core k := rfl
@[simp] theorem State.core_setMe (s : State) (k : Nat) (c : Ctx) : (s.setMe c).core k = s.core k := rfl
@[simp] theorem State.core_modMe (s : State) (k : Nat) (f : Ctx → Ctx) : (s.modMe f).core k = s.core k := rfl
@[simp] theorem State.core_setProc (s : State) (k : Nat) (j : Nat) (x : Proc) : (s.setProc j x).core k = s.core k := rfl
@[simp] theorem State.core_modProc (s : State) (k : Nat) (j : Nat) (f : Proc → Proc) : (s.modProc j f).core k = s.core k := rfl
@[simp] theorem State.core_setBank (s : State) (k : Nat) (b : Nat) (q : List QueuedPart) : (s.setBank b q).core k = s.core k := rfl
@[simp] theorem State.core_send (s : State) (k : Nat) (x : Packet) : (s.send x).core k = s.core k := rfl
@[simp] theorem State.core_setMem (s : State) (k : Nat) (m : Mem) : (s.setMem m).core k = s.core k := rfl
@[simp] theorem State.proc_setCtx (s : State) (k : Nat) (tid : Nat) (c : Ctx) : (s.setCtx tid c).proc k = s.proc k := rfl
@[simp] theorem State.proc_modCtx (s : State) (k : Nat) (tid : Nat) (f : Ctx → Ctx) : (s.modCtx tid f).proc k = s.proc k := rfl
@[simp] theorem State.proc_setMe (s : State) (k : Nat) (c : Ctx) : (s.setMe c).proc k = s.proc k := rfl
@[simp] theorem State.proc_modMe (s : State) (k : Nat) (f : Ctx → Ctx) : (s.modMe f).proc k = s.proc k := rfl
@[simp] theorem State.proc_setCore (s : State) (k : Nat) (p : Nat) (c : CoreS) : (s.setCore p c).proc k = s.proc k := rfl
@[simp] theorem State.proc_modCore (s : State) (k : Nat) (p : Nat) (f : CoreS → CoreS) : (s.modCore p f).proc k = s.proc k := rfl
@[simp] theorem State.proc_setBank (s : State) (k : Nat) (b : Nat) (q : List QueuedPart) : (s.setBank b q).proc k = s.proc k := rfl
@[simp] theorem State.proc_setEntry (s : State) (k : Nat) (p e : Nat) (x : ArbEntry) : (s.setEntry p e x).proc k = s.proc k := rfl
@[simp] theorem State.proc_modEntry (s : State) (k : Nat) (p e : Nat) (f : ArbEntry → ArbEntry) : (s.modEntry p e f).proc k = s.proc k := rfl
@[simp] theorem State.proc_send (s : State) (k : Nat) (x : Packet) : (s.send x).proc k = s.proc k := rfl
@[simp] theorem State.proc_setMem (s : State) (k : Nat) (m : Mem) : (s.setMem m).proc k = s.proc k := rfl
@[simp] theorem State.bank_setCtx (s : State) (k : Nat) (tid : Nat) (c : Ctx) : (s.setCtx tid c).bank k = s.bank k := rfl
@[simp] theorem State.bank_modCtx (s : State) (k : Nat) (tid : Nat) (f : Ctx → Ctx) : (s.modCtx tid f).bank k = s.bank k := rfl
@[simp] theorem State.bank_setMe (s : State) (k : Nat) (c : Ctx) : (s.setMe c).bank k = s.bank k := rfl
@[simp] theorem State.bank_modMe (s : State) (k : Nat) (f : Ctx → Ctx) : (s.modMe f).bank k = s.bank k := rfl
@[simp] theorem State.bank_setCore (s : State) (k : Nat) (p : Nat) (c : CoreS) : (s.setCore p c).bank k = s.bank k := rfl
@[simp] theorem State.bank_modCore (s : State) (k : Nat) (p : Nat) (f : CoreS → CoreS) : (s.modCore p f).bank k = s.bank k := rfl
@[simp] theorem State.bank_setProc (s : State) (k : Nat) (j : Nat) (x : Proc) : (s.setProc j x).bank k = s.bank k := rfl
@[simp] theorem State.bank_modProc (s : State) (k : Nat) (j : Nat) (f : Proc → Proc) : (s.modProc j f).bank k = s.bank k := rfl
@[simp] theorem State.bank_setEntry (s : State) (k : Nat) (p e : Nat) (x : ArbEntry) : (s.setEntry p e x).bank k = s.bank k := rfl
@[simp] theorem State.bank_modEntry (s : State) (k : Nat) (p e : Nat) (f : ArbEntry → ArbEntry) : (s.modEntry p e f).bank k = s.bank k := rfl
@[simp] theorem State.bank_send (s : State) (k : Nat) (x : Packet) : (s.send x).bank k = s.bank k := rfl
@[simp] theorem State.bank_setMem (s : State) (k : Nat) (m : Mem) : (s.setMem m).bank k = s.bank k := rfl
@[simp] theorem State.launch_setCtx (s : State) (k : Nat) (tid : Nat) (c : Ctx) : (s.setCtx tid c).launch? k = s.launch? k := rfl
@[simp] theorem State.launch_modCtx (s : State) (k : Nat) (tid : Nat) (f : Ctx → Ctx) : (s.modCtx tid f).launch? k = s.launch? k := rfl
@[simp] theorem State.launch_setMe (s : State) (k : Nat) (c : Ctx) : (s.setMe c).launch? k = s.launch? k := rfl
@[simp] theorem State.launch_modMe (s : State) (k : Nat) (f : Ctx → Ctx) : (s.modMe f).launch? k = s.launch? k := rfl
@[simp] theorem State.launch_setCore (s : State) (k : Nat) (p : Nat) (c : CoreS) : (s.setCore p c).launch? k = s.launch? k := rfl
@[simp] theorem State.launch_modCore (s : State) (k : Nat) (p : Nat) (f : CoreS → CoreS) : (s.modCore p f).launch? k = s.launch? k := rfl
@[simp] theorem State.launch_setProc (s : State) (k : Nat) (j : Nat) (x : Proc) : (s.setProc j x).launch? k = s.launch? k := rfl
@[simp] theorem State.launch_modProc (s : State) (k : Nat) (j : Nat) (f : Proc → Proc) : (s.modProc j f).launch? k = s.launch? k := rfl
@[simp] theorem State.launch_setBank (s : State) (k : Nat) (b : Nat) (q : List QueuedPart) : (s.setBank b q).launch? k = s.launch? k := rfl
@[simp] theorem State.launch_setEntry (s : State) (k : Nat) (p e : Nat) (x : ArbEntry) : (s.setEntry p e x).launch? k = s.launch? k := rfl
@[simp] theorem State.launch_modEntry (s : State) (k : Nat) (p e : Nat) (f : ArbEntry → ArbEntry) : (s.modEntry p e f).launch? k = s.launch? k := rfl
@[simp] theorem State.launch_send (s : State) (k : Nat) (x : Packet) : (s.send x).launch? k = s.launch? k := rfl
@[simp] theorem State.launch_setMem (s : State) (k : Nat) (m : Mem) : (s.setMem m).launch? k = s.launch? k := rfl

/-- A context that is replaced is all that changes. -/
theorem onlyMe_setMe (s : State) (c : Ctx) : OnlyMe s (s.setMe c) :=
  ⟨rfl, fun _ h => s.ctx_setMe_other c h, fun _ => rfl⟩

theorem goesOnAt_goto (c : Ctx) (pc : Word) : GoesOnAt (c.goto pc) pc := ⟨rfl, rfl, rfl, rfl, rfl⟩

/-- A register after a write, with the condition on the register that is read. -/
theorem Ctx.g_setG_read (c : Ctx) (d r : GReg) (v : Word) :
    (c.setG d v).g r = if r = d ∧ r ≠ 0 then v else c.g r := by
  rw [Ctx.g_setG]
  by_cases h : r = d
  · subst h; rfl
  · simp [h]

/-- An end that writes g[d] and goes on at an address. -/
theorem writesG_setMe (s : State) (d : GReg) (v pc : Word) :
    WritesG s (s.setMe ((s.me.setG d v).goto pc)) d v pc where
  only := onlyMe_setMe s _
  next := by simpa using goesOnAt_goto _ pc
  reg r := by
    rw [State.g_eq, State.g_eq, State.me_setMe]
    exact Ctx.g_setG_read s.me d r v
  mine := by
    rw [State.me_setMe]
    simp only [Ctx.placedAs, Ctx.goto]
    unfold Ctx.setG
    split <;> rfl

/-- `writeG` sets g[d] and ends. -/
theorem writeG_sets (s : State) (d : GReg) (v : Word) :
    ∃ t, s.writeG d v = .next t ∧ WritesG s t d v (s.me.pc + 4) := by
  refine ⟨_, rfl, ?_⟩
  have h : (s.me.setG d v).advance = (s.me.setG d v).goto (s.me.pc + 4) := by
    unfold Ctx.advance Ctx.setG; split <;> rfl
  simpa [State.modMe, h] using writesG_setMe s d v (s.me.pc + 4)

/-- One bit of the predicate word set or cleared. -/
theorem setBit_getLsbD (w : BitVec 16) (d r : Fin 16) (v : Bool) :
    (if v then w ||| (1#16 <<< d.val) else w &&& ~~~(1#16 <<< d.val)).getLsbD r.val
      = if r = d then v else w.getLsbD r.val := by
  have key : (1#16 <<< d.val).getLsbD r.val = decide (r = d) := by
    have : ∀ d r : Fin 16, (1#16 <<< d.val).getLsbD r.val = decide (r = d) := by decide
    exact this d r
  have hr : r.val < 16 := r.isLt
  cases v
  · rw [if_neg (by simp), BitVec.getLsbD_and, BitVec.getLsbD_not, key]
    by_cases h : r = d <;> simp [h, hr]
  · rw [if_pos rfl, BitVec.getLsbD_or, key]
    by_cases h : r = d <;> simp [h]

/-- An end that writes P[d]. -/
theorem writeP_sets (s : State) (d : PReg) (v : Bool) :
    ∃ t, s.writeP d v = .next t ∧ WritesP s t d v (s.me.pc + 4) := by
  refine ⟨_, rfl, onlyMe_setMe s _, ?_, fun r => ?_, ?_⟩
  · rw [State.me_modMe]
    have h : (s.me.setP d v).advance = (s.me.setP d v).goto (s.me.pc + 4) := by
      unfold Ctx.advance Ctx.setP; split <;> rfl
    rw [h]; exact goesOnAt_goto _ _
  · unfold State.p
    rw [State.me_modMe]
    by_cases hr : r = 0
    · simp [hr]
    · have hb : (r == (0 : PReg)) = false := by simpa using hr
      rw [hb]
      by_cases hd : d = 0
      · subst hd; simp [Ctx.setP, Ctx.advance, Ctx.goto, hr]
      · have := setBit_getLsbD s.me.pw d r v
        simp only [Ctx.setP, Ctx.advance, Ctx.goto, hd, if_false, this, Bool.false_or, hr, ne_eq, not_false_eq_true,
          and_true]
  · rw [State.me_modMe]
    simp only [Ctx.placedAs, Ctx.goto, Ctx.advance]
    unfold Ctx.setP
    split <;> rfl

/-- An end that writes m[d]. -/
theorem writeM_sets (s : State) (d : MReg) (v : Word) :
    ∃ t, s.writeM d v = .next t ∧ WritesM s t d v (s.me.pc + 4) := by
  refine ⟨_, rfl, onlyMe_setMe s _, ?_, fun r => ?_, ?_⟩
  · rw [State.me_modMe]
    have h : (s.me.setM d v).advance = (s.me.setM d v).goto (s.me.pc + 4) := by
      unfold Ctx.advance Ctx.setM; split <;> rfl
    rw [h]; exact goesOnAt_goto _ _
  · unfold State.m
    rw [State.me_modMe]
    by_cases hr : r = 0
    · simp [hr]
    · by_cases hd : d = 0
      · subst hd; simp [Ctx.setM, Ctx.advance, Ctx.goto, hr]
      · have hne' : (d.val = r.val) = (r = d) := by simp [Fin.ext_iff, eq_comm]
        simp [Ctx.setM, Ctx.advance, Ctx.goto, hd, hr, Vector.getElem_set, hne']
  · rw [State.me_modMe]
    simp only [Ctx.placedAs, Ctx.goto, Ctx.advance]
    unfold Ctx.setM
    split <;> rfl

/-- An end that goes on at an address and writes nothing. -/
theorem writesNothing_goto (s : State) (pc : Word) : WritesNothing s (s.modMe fun c => c.goto pc) pc where
  only := onlyMe_setMe s _
  next := by rw [State.me_modMe]; exact goesOnAt_goto _ _
  mine := by rw [State.me_modMe]; rfl

/-- An end at the next word that writes nothing. -/
theorem finish_writesNothing (s : State) : WritesNothing s s.finish (s.me.pc + 4) := writesNothing_goto s (s.me.pc + 4)

/-- An instruction that waits. -/
theorem holdWith_waits (s : State) (i : Instr) (w : Wait) :
    OnlyMe s (s.holdWith i w) ∧ (s.holdWith i w).me = { s.me with held := some i, wait := w, status := .waiting } :=
  ⟨onlyMe_setMe s _, by rw [State.holdWith, State.me_modMe]; rfl⟩

/-- The end of a scalar floating-point instruction. -/
theorem writeFp_sets (s : State) (d : GReg) (t : Ty) (r : FpResult) :
    ∃ u, s.writeFp d t r = .next u ∧ WritesFp s u d (asWord t r.bits) r.flags r.srng := by
  refine ⟨_, rfl, onlyMe_setMe s _, ?_, fun x => ?_, ?_, ?_⟩
  · rw [State.me_modMe]
    refine ⟨?_, rfl, rfl, rfl, rfl⟩
    simp only [Ctx.advance, Ctx.goto, Ctx.raise, Ctx.setG]
    split <;> rfl
  · rw [State.g_eq, State.g_eq, State.me_modMe, ← Ctx.g_setG_read]
    rfl
  · constructor <;> rw [State.me_modMe] <;> simp only [Ctx.advance, Ctx.goto, Ctx.raise, Ctx.setG]
    split <;> rfl
  · rw [State.me_modMe]
    simp only [Ctx.placedAs, Ctx.goto, Ctx.advance, Ctx.raise]
    unfold Ctx.setG
    split <;> rfl

/-- An access that has room is issued. -/
theorem issue_issues {s : State} (i : Instr) (kind : AccessKind) (parts : List Part) {rlx : Bool} (h : s.me.hasRoom rlx) :
    ∃ t, s.issue i kind parts rlx = .next t ∧ Issues s t kind parts rlx := by
  cases rlx
  · refine ⟨_, rfl, onlyMe_setMe s _, by simp, fun _ => ?_, ?_, ?_⟩ <;> rw [State.me_setMe]
    · exact ⟨rfl, rfl, rfl, rfl, rfl, rfl, rfl⟩
    · rfl
  · have hn : ¬ 8 ≤ s.me.relaxed.length + s.me.relaxedMsgs.length := by have := h rfl; omega
    refine ⟨_, by unfold State.issue; simp only [if_true]; rw [if_neg hn], onlyMe_setMe s _, fun _ => ?_, by simp, ?_, ?_⟩ <;>
      rw [State.me_setMe]
    · exact ⟨rfl, rfl, rfl, rfl, rfl, rfl, rfl⟩
    · rfl
    · rfl

/-- A relaxed access without room waits for it. -/
theorem issue_waits {s : State} (i : Instr) (kind : AccessKind) (parts : List Part)
    (h : 8 ≤ s.me.relaxed.length + s.me.relaxedMsgs.length) :
    s.issue i kind parts true = .next (s.holdWith i .room) := by
  unfold State.issue; simp only [if_true]; rw [if_pos h]

/-! ## Traps -/

/-- The bits of the status above plvl are kept on entry to a handler. -/
theorem status_above (x : Word) : ((x &&& ~~~(4 : Word)) ||| ((x &&& 1) <<< 2) ||| 2) >>> 3 = x >>> 3 := by
  have h4 : (~~~(4 : Word)) >>> 3 = BitVec.allOnes 64 >>> 3 := by decide
  have h1 : ((x &&& 1) <<< 2) >>> 3 = 0 := by
    rw [BitVec.shiftLeft_and_distrib, BitVec.ushiftRight_and_distrib, show ((1 : Word) <<< 2) >>> 3 = 0 by decide]
    simp
  rw [BitVec.ushiftRight_or_distrib, BitVec.ushiftRight_or_distrib, BitVec.ushiftRight_and_distrib, h1, h4,
    ← BitVec.ushiftRight_and_distrib, BitVec.and_allOnes]
  simp

/-- A context that can trap enters its handler for an exact trap. -/
theorem takeTrapAt_enters {s : State} (h : CanTrap s.me) (cause : Nat) (xpc xaddr : Word) :
    EntersHandler s (s.takeTrapAt s.cur ⟨cause, false, xpc, xaddr, 0⟩) cause xpc xaddr := by
  have hb : State.bufferEmpty s.me = true := by simp [State.bufferEmpty, h.drained.1, h.drained.2]
  have hh : State.handlerMode s.me = false := h.outside
  have ha : s.me.away = false := h.home
  have he : s.takeTrapAt s.cur ⟨cause, false, xpc, xaddr, 0⟩
      = s.setMe (State.enterHandler s.me ⟨cause, false, xpc, xaddr, 0⟩) := by
    unfold State.takeTrapAt
    change (if !State.bufferEmpty s.me then _ else if State.handlerMode s.me then _ else if s.me.xvec &&& 0x1FFFC = 0 then _ else if s.me.away then _ else _) = _
    rw [hb, hh, if_neg h.handler, ha]
    rfl
  rw [he]
  refine ⟨onlyMe_setMe s _, ?_, ?_, ?_, ?_, ?_, ?_, ?_, ?_, ?_, ?_, ?_⟩ <;> rw [State.me_setMe]
  · exact ⟨rfl, rfl, rfl, rfl, rfl⟩
  · rfl
  · rfl
  · rfl
  · rfl
  · simp [State.enterHandler]
  · simp [State.enterHandler]
  · simp [State.enterHandler]
  · exact status_above s.me.xstat
  · rfl
  · rfl

end Sys2Proof.Machine
end

