-- ==== Sys2Proof/Laws/InvariantOps.lean ====
section
/-!
SUPPORT. The operations of the machine keep its invariant (Safety.lean): Ops.
-/

set_option Elab.async false
set_option linter.all false

namespace Sys2Proof.Machine

/-! ## The invariant of a state that is written out, and of one that is folded over a list -/

@[simp] theorem State.inv_mem {s : State} (h : s.Inv) : memWfFrom 0 s.mem = true := h.mem
@[simp] theorem State.inv_lifecycle {s : State} (h : s.Inv) : s.lifecycle ≤ 3 := h.lifecycle
@[simp] theorem State.inv_tstat {s : State} (h : s.Inv) : s.tstat ≤ 4 := h.tstat
@[simp] theorem State.inv_phase {s : State} (h : s.Inv) : s.phase ∈ bootPhases := h.phase

theorem State.inv_congr {s t : State} (h : s.Inv) (h1 : t.mem = s.mem) (h2 : t.lifecycle = s.lifecycle)
    (h3 : t.tstat = s.tstat) (h4 : t.phase = s.phase) : t.Inv :=
  ⟨h1 ▸ h.mem, h2 ▸ h.lifecycle, h3 ▸ h.tstat, h4 ▸ h.phase⟩

theorem inv_foldl {α : Type} {f : State → α → State} {l : List α} {s : State} (h : s.Inv)
    (hf : ∀ t x, t.Inv → (f t x).Inv) : (l.foldl f s).Inv := by
  induction l generalizing s with
  | nil => exact h
  | cons x l ih => exact ih (hf s x h)

@[simp] theorem inv_ite {c : Prop} [Decidable c] {a b : State} (ha : a.Inv) (hb : b.Inv) :
    (if c then a else b).Inv := by split <;> assumption

@[simp] theorem Res.inv_next (s : State) : Res.Inv (.next s) ↔ s.Inv := Iff.rfl

/-- The invariant of a state that is written out. -/
@[simp] theorem State.inv_mk
    (mem : Mem) (ctxs : Table Ctx) (procs : Table Proc) (cores : Table CoreS) (clusters : Table ClusterS) (banks :
    Table (List QueuedPart)) (offbuf : List OffWrite) (net : List Packet) (circuits : List (Nat × Nat)) (regions :
    Table Region) (regbase : Nat) (jobCount : Nat) (frontFaults : List FrontFault) (recordPins : List RecordPin)
    (pinned : List Nat) (queues : Table Queue) (launches : Table Launch) (reservations : List (Nat × Nat × Nat ×
    Nat × Nat)) (groups : Table Group) (bindings : Table (List Binding)) (ingress : Table (List HeldIngress))
    (dieFreq : Table Nat) (dieDecisions : Table Nat) (now : Nat) (tstat : Nat) (timeOffset : BitVec 32)
    (everLocked : Bool) (holdoverSince : Nat) (lifecycle : Nat) (wiping : Bool) (rrq : Bool) (pwrlim : Nat)
    (igdrop : Nat) (iglate : Nat) (peers : Table (List Byte)) (bootMode : Bool) (phase : Nat) (phaseTime : Nat)
    (bootFailed : Bool) (supplied : Option BootImage) (running : Option BootImage) (dead : Bool) (config :
    ConfigTable) (fuses : Fuses) (lmap : List Nat) (uetOut : List UetOut) (agenda : List Move) (cur : Nat) (fresh
    : Nat) :
    (State.mk mem ctxs procs cores clusters banks offbuf net circuits regions regbase jobCount frontFaults
    recordPins pinned queues launches reservations groups bindings ingress dieFreq dieDecisions now tstat
    timeOffset everLocked holdoverSince lifecycle wiping rrq pwrlim igdrop iglate peers bootMode phase phaseTime
    bootFailed supplied running dead config fuses lmap uetOut agenda cur fresh).Inv ↔
      memWfFrom 0 mem = true ∧ lifecycle ≤ 3 ∧ tstat ≤ 4 ∧ phase ∈ bootPhases :=
  ⟨fun h => ⟨h.mem, h.lifecycle, h.tstat, h.phase⟩, fun h => ⟨h.1, h.2.1, h.2.2.1, h.2.2.2⟩⟩

@[simp] theorem storeBytes_wf (key : Nat) (bs : List Byte) {m : Mem} (h : memWfFrom 0 m = true) :
    memWfFrom 0 (storeBytes key bs m) = true := by
  unfold storeBytes; dsimp only; split <;> exact memWrite_wf _ _ h

/-- What an answer that may be missing keeps. -/
def OptInv (r : Option State) : Prop := ∀ t, r = some t → t.Inv

theorem OptInv.of {r : Option State} {t : State} (h : OptInv r) (e : r = some t) : t.Inv := h t e

theorem State.inv_banks {s : State} (b : Table (List QueuedPart)) (h : s.Inv) : State.Inv { s with banks := b } :=
  ⟨h.mem, h.lifecycle, h.tstat, h.phase⟩

theorem State.inv_cur {s : State} (c : Nat) (h : s.Inv) : State.Inv { s with cur := c } :=
  ⟨h.mem, h.lifecycle, h.tstat, h.phase⟩

@[simp] theorem State.setCtx_inv {s : State} (tid : ℕ) (c : Ctx) (h : s.Inv) : (State.setCtx s tid c).Inv := by
  unfold State.setCtx
  repeat' first | assumption | (refine inv_foldl ?_ fun _ _ _ => ?_) | (simp (maxDischargeDepth := 30) [*]; done) | exact ⟨h.mem, h.lifecycle, h.tstat, h.phase⟩ | (simp +contextual (maxDischargeDepth := 30) [*, inv_foldl]; done) | dsimp only | (with_reducible first | apply State.modCore_inv | apply State.setCtx_inv | apply State.modCtx_inv | apply State.setMe_inv | apply State.modMe_inv | apply State.modProc_inv | apply State.modEntry_inv | apply State.setEntry_inv | apply State.send_inv | apply State.modLaunch_inv | apply State.setLaunch_inv) | split

@[simp] theorem State.modCtx_inv {s : State} (tid : ℕ) (f : Ctx → Ctx) (h : s.Inv) : (State.modCtx s tid f).Inv := by
  unfold State.modCtx
  repeat' first | assumption | (refine inv_foldl ?_ fun _ _ _ => ?_) | (simp (maxDischargeDepth := 30) [*]; done) | exact ⟨h.mem, h.lifecycle, h.tstat, h.phase⟩ | (simp +contextual (maxDischargeDepth := 30) [*, inv_foldl]; done) | dsimp only | (with_reducible first | apply State.modCore_inv | apply State.setCtx_inv | apply State.modCtx_inv | apply State.setMe_inv | apply State.modMe_inv | apply State.modProc_inv | apply State.modEntry_inv | apply State.setEntry_inv | apply State.send_inv | apply State.modLaunch_inv | apply State.setLaunch_inv) | split

@[simp] theorem State.setMe_inv {s : State} (c : Ctx) (h : s.Inv) : (State.setMe s c).Inv := by
  unfold State.setMe
  repeat' first | assumption | (refine inv_foldl ?_ fun _ _ _ => ?_) | (simp (maxDischargeDepth := 30) [*]; done) | exact ⟨h.mem, h.lifecycle, h.tstat, h.phase⟩ | (simp +contextual (maxDischargeDepth := 30) [*, inv_foldl]; done) | dsimp only | (with_reducible first | apply State.modCore_inv | apply State.setCtx_inv | apply State.modCtx_inv | apply State.setMe_inv | apply State.modMe_inv | apply State.modProc_inv | apply State.modEntry_inv | apply State.setEntry_inv | apply State.send_inv | apply State.modLaunch_inv | apply State.setLaunch_inv) | split

@[simp] theorem State.modMe_inv {s : State} (f : Ctx → Ctx) (h : s.Inv) : (State.modMe s f).Inv := by
  unfold State.modMe
  repeat' first | assumption | (refine inv_foldl ?_ fun _ _ _ => ?_) | (simp (maxDischargeDepth := 30) [*]; done) | exact ⟨h.mem, h.lifecycle, h.tstat, h.phase⟩ | (simp +contextual (maxDischargeDepth := 30) [*, inv_foldl]; done) | dsimp only | (with_reducible first | apply State.modCore_inv | apply State.setCtx_inv | apply State.modCtx_inv | apply State.setMe_inv | apply State.modMe_inv | apply State.modProc_inv | apply State.modEntry_inv | apply State.setEntry_inv | apply State.send_inv | apply State.modLaunch_inv | apply State.setLaunch_inv) | split

@[simp] theorem State.setCore_inv {s : State} (pcn : ℕ) (c : CoreS) (h : s.Inv) : (State.setCore s pcn c).Inv := by
  unfold State.setCore
  repeat' first | assumption | (refine inv_foldl ?_ fun _ _ _ => ?_) | (simp (maxDischargeDepth := 30) [*]; done) | exact ⟨h.mem, h.lifecycle, h.tstat, h.phase⟩ | (simp +contextual (maxDischargeDepth := 30) [*, inv_foldl]; done) | dsimp only | (with_reducible first | apply State.modCore_inv | apply State.setCtx_inv | apply State.modCtx_inv | apply State.setMe_inv | apply State.modMe_inv | apply State.modProc_inv | apply State.modEntry_inv | apply State.setEntry_inv | apply State.send_inv | apply State.modLaunch_inv | apply State.setLaunch_inv) | split

@[simp] theorem State.modCore_inv {s : State} (pcn : ℕ) (f : CoreS → CoreS) (h : s.Inv) : (State.modCore s pcn f).Inv := by
  unfold State.modCore
  repeat' first | assumption | (refine inv_foldl ?_ fun _ _ _ => ?_) | (simp (maxDischargeDepth := 30) [*]; done) | exact ⟨h.mem, h.lifecycle, h.tstat, h.phase⟩ | (simp +contextual (maxDischargeDepth := 30) [*, inv_foldl]; done) | dsimp only | (with_reducible first | apply State.modCore_inv | apply State.setCtx_inv | apply State.modCtx_inv | apply State.setMe_inv | apply State.modMe_inv | apply State.modProc_inv | apply State.modEntry_inv | apply State.setEntry_inv | apply State.send_inv | apply State.modLaunch_inv | apply State.setLaunch_inv) | split

@[simp] theorem State.setProc_inv {s : State} (k : ℕ) (p : Proc) (h : s.Inv) : (State.setProc s k p).Inv := by
  unfold State.setProc
  repeat' first | assumption | (refine inv_foldl ?_ fun _ _ _ => ?_) | (simp (maxDischargeDepth := 30) [*]; done) | exact ⟨h.mem, h.lifecycle, h.tstat, h.phase⟩ | (simp +contextual (maxDischargeDepth := 30) [*, inv_foldl]; done) | dsimp only | (with_reducible first | apply State.modCore_inv | apply State.setCtx_inv | apply State.modCtx_inv | apply State.setMe_inv | apply State.modMe_inv | apply State.modProc_inv | apply State.modEntry_inv | apply State.setEntry_inv | apply State.send_inv | apply State.modLaunch_inv | apply State.setLaunch_inv) | split

@[simp] theorem State.modProc_inv {s : State} (k : ℕ) (f : Proc → Proc) (h : s.Inv) : (State.modProc s k f).Inv := by
  unfold State.modProc
  repeat' first | assumption | (refine inv_foldl ?_ fun _ _ _ => ?_) | (simp (maxDischargeDepth := 30) [*]; done) | exact ⟨h.mem, h.lifecycle, h.tstat, h.phase⟩ | (simp +contextual (maxDischargeDepth := 30) [*, inv_foldl]; done) | dsimp only | (with_reducible first | apply State.modCore_inv | apply State.setCtx_inv | apply State.modCtx_inv | apply State.setMe_inv | apply State.modMe_inv | apply State.modProc_inv | apply State.modEntry_inv | apply State.setEntry_inv | apply State.send_inv | apply State.modLaunch_inv | apply State.setLaunch_inv) | split

@[simp] theorem State.modCluster_inv {s : State} (c : ℕ) (f : ClusterS → ClusterS) (h : s.Inv) : (State.modCluster s c f).Inv := by
  unfold State.modCluster
  repeat' first | assumption | (refine inv_foldl ?_ fun _ _ _ => ?_) | (simp (maxDischargeDepth := 30) [*]; done) | exact ⟨h.mem, h.lifecycle, h.tstat, h.phase⟩ | (simp +contextual (maxDischargeDepth := 30) [*, inv_foldl]; done) | dsimp only | (with_reducible first | apply State.modCore_inv | apply State.setCtx_inv | apply State.modCtx_inv | apply State.setMe_inv | apply State.modMe_inv | apply State.modProc_inv | apply State.modEntry_inv | apply State.setEntry_inv | apply State.send_inv | apply State.modLaunch_inv | apply State.setLaunch_inv) | split

@[simp] theorem State.modRegion_inv {s : State} (r : ℕ) (f : Region → Region) (h : s.Inv) : (State.modRegion s r f).Inv := by
  unfold State.modRegion
  repeat' first | assumption | (refine inv_foldl ?_ fun _ _ _ => ?_) | (simp (maxDischargeDepth := 30) [*]; done) | exact ⟨h.mem, h.lifecycle, h.tstat, h.phase⟩ | (simp +contextual (maxDischargeDepth := 30) [*, inv_foldl]; done) | dsimp only | (with_reducible first | apply State.modCore_inv | apply State.setCtx_inv | apply State.modCtx_inv | apply State.setMe_inv | apply State.modMe_inv | apply State.modProc_inv | apply State.modEntry_inv | apply State.setEntry_inv | apply State.send_inv | apply State.modLaunch_inv | apply State.setLaunch_inv) | split

@[simp] theorem State.setLaunch_inv {s : State} (l : ℕ) (x2 : Launch) (h : s.Inv) : (State.setLaunch s l x2).Inv := by
  unfold State.setLaunch
  repeat' first | assumption | (refine inv_foldl ?_ fun _ _ _ => ?_) | (simp (maxDischargeDepth := 30) [*]; done) | exact ⟨h.mem, h.lifecycle, h.tstat, h.phase⟩ | (simp +contextual (maxDischargeDepth := 30) [*, inv_foldl]; done) | dsimp only | (with_reducible first | apply State.modCore_inv | apply State.setCtx_inv | apply State.modCtx_inv | apply State.setMe_inv | apply State.modMe_inv | apply State.modProc_inv | apply State.modEntry_inv | apply State.setEntry_inv | apply State.send_inv | apply State.modLaunch_inv | apply State.setLaunch_inv) | split

@[simp] theorem State.modLaunch_inv {s : State} (l : ℕ) (f : Launch → Launch) (h : s.Inv) : (State.modLaunch s l f).Inv := by
  unfold State.modLaunch
  repeat' first | assumption | (refine inv_foldl ?_ fun _ _ _ => ?_) | (simp (maxDischargeDepth := 30) [*]; done) | exact ⟨h.mem, h.lifecycle, h.tstat, h.phase⟩ | (simp +contextual (maxDischargeDepth := 30) [*, inv_foldl]; done) | dsimp only | (with_reducible first | apply State.modCore_inv | apply State.setCtx_inv | apply State.modCtx_inv | apply State.setMe_inv | apply State.modMe_inv | apply State.modProc_inv | apply State.modEntry_inv | apply State.setEntry_inv | apply State.send_inv | apply State.modLaunch_inv | apply State.setLaunch_inv) | split

@[simp] theorem State.modGroup_inv {s : State} (c : ℕ) (f : Group → Group) (h : s.Inv) : (State.modGroup s c f).Inv := by
  unfold State.modGroup
  repeat' first | assumption | (refine inv_foldl ?_ fun _ _ _ => ?_) | (simp (maxDischargeDepth := 30) [*]; done) | exact ⟨h.mem, h.lifecycle, h.tstat, h.phase⟩ | (simp +contextual (maxDischargeDepth := 30) [*, inv_foldl]; done) | dsimp only | (with_reducible first | apply State.modCore_inv | apply State.setCtx_inv | apply State.modCtx_inv | apply State.setMe_inv | apply State.modMe_inv | apply State.modProc_inv | apply State.modEntry_inv | apply State.setEntry_inv | apply State.send_inv | apply State.modLaunch_inv | apply State.setLaunch_inv) | split

@[simp] theorem State.setBank_inv {s : State} (b : ℕ) (q : List QueuedPart) (h : s.Inv) : (State.setBank s b q).Inv := by
  unfold State.setBank
  repeat' first | assumption | (refine inv_foldl ?_ fun _ _ _ => ?_) | (simp (maxDischargeDepth := 30) [*]; done) | exact ⟨h.mem, h.lifecycle, h.tstat, h.phase⟩ | (simp +contextual (maxDischargeDepth := 30) [*, inv_foldl]; done) | dsimp only | (with_reducible first | apply State.modCore_inv | apply State.setCtx_inv | apply State.modCtx_inv | apply State.setMe_inv | apply State.modMe_inv | apply State.modProc_inv | apply State.modEntry_inv | apply State.setEntry_inv | apply State.send_inv | apply State.modLaunch_inv | apply State.setLaunch_inv) | split

@[simp] theorem State.setEntry_inv {s : State} (pcn : ℕ) (e : ℕ) (x3 : ArbEntry) (h : s.Inv) : (State.setEntry s pcn e x3).Inv := by
  unfold State.setEntry
  repeat' first | assumption | (refine inv_foldl ?_ fun _ _ _ => ?_) | (simp (maxDischargeDepth := 30) [*]; done) | exact ⟨h.mem, h.lifecycle, h.tstat, h.phase⟩ | (simp +contextual (maxDischargeDepth := 30) [*, inv_foldl]; done) | dsimp only | (with_reducible first | apply State.modCore_inv | apply State.setCtx_inv | apply State.modCtx_inv | apply State.setMe_inv | apply State.modMe_inv | apply State.modProc_inv | apply State.modEntry_inv | apply State.setEntry_inv | apply State.send_inv | apply State.modLaunch_inv | apply State.setLaunch_inv) | split

@[simp] theorem State.modEntry_inv {s : State} (pcn : ℕ) (e : ℕ) (f : ArbEntry → ArbEntry) (h : s.Inv) : (State.modEntry s pcn e f).Inv := by
  unfold State.modEntry
  repeat' first | assumption | (refine inv_foldl ?_ fun _ _ _ => ?_) | (simp (maxDischargeDepth := 30) [*]; done) | exact ⟨h.mem, h.lifecycle, h.tstat, h.phase⟩ | (simp +contextual (maxDischargeDepth := 30) [*, inv_foldl]; done) | dsimp only | (with_reducible first | apply State.modCore_inv | apply State.setCtx_inv | apply State.modCtx_inv | apply State.setMe_inv | apply State.modMe_inv | apply State.modProc_inv | apply State.modEntry_inv | apply State.setEntry_inv | apply State.send_inv | apply State.modLaunch_inv | apply State.setLaunch_inv) | split

@[simp] theorem State.send_inv {s : State} (p : Packet) (h : s.Inv) : (State.send s p).Inv := by
  unfold State.send
  repeat' first | assumption | (refine inv_foldl ?_ fun _ _ _ => ?_) | (simp (maxDischargeDepth := 30) [*]; done) | exact ⟨h.mem, h.lifecycle, h.tstat, h.phase⟩ | (simp +contextual (maxDischargeDepth := 30) [*, inv_foldl]; done) | dsimp only | (with_reducible first | apply State.modCore_inv | apply State.setCtx_inv | apply State.modCtx_inv | apply State.setMe_inv | apply State.modMe_inv | apply State.modProc_inv | apply State.modEntry_inv | apply State.setEntry_inv | apply State.send_inv | apply State.modLaunch_inv | apply State.setLaunch_inv) | split

@[simp] theorem State.setMem_inv {s : State} {m : Mem} (hm : memWfFrom 0 m = true) (h : s.Inv) : (s.setMem m).Inv :=
  ⟨hm, h.lifecycle, h.tstat, h.phase⟩

@[simp] theorem State.writeG_inv {s : State} (d : GReg) (v : Word) (h : s.Inv) : Res.Inv (State.writeG s d v) := by
  unfold State.writeG
  repeat' first | assumption | (refine inv_foldl ?_ fun _ _ _ => ?_) | (simp (maxDischargeDepth := 30) [*]; done) | exact ⟨h.mem, h.lifecycle, h.tstat, h.phase⟩ | (simp +contextual (maxDischargeDepth := 30) [*, inv_foldl]; done) | dsimp only | (with_reducible first | apply State.modCore_inv | apply State.setCtx_inv | apply State.modCtx_inv | apply State.setMe_inv | apply State.modMe_inv | apply State.modProc_inv | apply State.modEntry_inv | apply State.setEntry_inv | apply State.send_inv | apply State.modLaunch_inv | apply State.setLaunch_inv) | split

@[simp] theorem State.writeP_inv {s : State} (d : PReg) (v : Bool) (h : s.Inv) : Res.Inv (State.writeP s d v) := by
  unfold State.writeP
  repeat' first | assumption | (refine inv_foldl ?_ fun _ _ _ => ?_) | (simp (maxDischargeDepth := 30) [*]; done) | exact ⟨h.mem, h.lifecycle, h.tstat, h.phase⟩ | (simp +contextual (maxDischargeDepth := 30) [*, inv_foldl]; done) | dsimp only | (with_reducible first | apply State.modCore_inv | apply State.setCtx_inv | apply State.modCtx_inv | apply State.setMe_inv | apply State.modMe_inv | apply State.modProc_inv | apply State.modEntry_inv | apply State.setEntry_inv | apply State.send_inv | apply State.modLaunch_inv | apply State.setLaunch_inv) | split

@[simp] theorem State.writeM_inv {s : State} (d : MReg) (v : Word) (h : s.Inv) : Res.Inv (State.writeM s d v) := by
  unfold State.writeM
  repeat' first | assumption | (refine inv_foldl ?_ fun _ _ _ => ?_) | (simp (maxDischargeDepth := 30) [*]; done) | exact ⟨h.mem, h.lifecycle, h.tstat, h.phase⟩ | (simp +contextual (maxDischargeDepth := 30) [*, inv_foldl]; done) | dsimp only | (with_reducible first | apply State.modCore_inv | apply State.setCtx_inv | apply State.modCtx_inv | apply State.setMe_inv | apply State.modMe_inv | apply State.modProc_inv | apply State.modEntry_inv | apply State.setEntry_inv | apply State.send_inv | apply State.modLaunch_inv | apply State.setLaunch_inv) | split

@[simp] theorem State.finish_inv {s : State} (h : s.Inv) : (State.finish s).Inv := by
  unfold State.finish
  repeat' first | assumption | (refine inv_foldl ?_ fun _ _ _ => ?_) | (simp (maxDischargeDepth := 30) [*]; done) | exact ⟨h.mem, h.lifecycle, h.tstat, h.phase⟩ | (simp +contextual (maxDischargeDepth := 30) [*, inv_foldl]; done) | dsimp only | (with_reducible first | apply State.modCore_inv | apply State.setCtx_inv | apply State.modCtx_inv | apply State.setMe_inv | apply State.modMe_inv | apply State.modProc_inv | apply State.modEntry_inv | apply State.setEntry_inv | apply State.send_inv | apply State.modLaunch_inv | apply State.setLaunch_inv) | split

@[simp] theorem State.holdWith_inv {s : State} (i : Instr) (w : Wait) (h : s.Inv) : (State.holdWith s i w).Inv := by
  unfold State.holdWith
  repeat' first | assumption | (refine inv_foldl ?_ fun _ _ _ => ?_) | (simp (maxDischargeDepth := 30) [*]; done) | exact ⟨h.mem, h.lifecycle, h.tstat, h.phase⟩ | (simp +contextual (maxDischargeDepth := 30) [*, inv_foldl]; done) | dsimp only | (with_reducible first | apply State.modCore_inv | apply State.setCtx_inv | apply State.modCtx_inv | apply State.setMe_inv | apply State.modMe_inv | apply State.modProc_inv | apply State.modEntry_inv | apply State.setEntry_inv | apply State.send_inv | apply State.modLaunch_inv | apply State.setLaunch_inv) | split

@[simp] theorem State.freeBytes_inv {s : State} (f : Nat → Byte) (key n : Nat) (h : s.Inv) : (s.freeBytes f key n).Inv := by
  induction n generalizing key s with
  | zero => exact h
  | succ n ih => exact ih _ (by simp [h])

@[simp] theorem State.writeWindow_inv {s : State} (key : ℕ) (bs : List Byte) (h : s.Inv) : (State.writeWindow s key bs).Inv := by
  unfold State.writeWindow
  repeat' first | assumption | (refine inv_foldl ?_ fun _ _ _ => ?_) | (simp (maxDischargeDepth := 30) [*]; done) | exact ⟨h.mem, h.lifecycle, h.tstat, h.phase⟩ | (simp +contextual (maxDischargeDepth := 30) [*, inv_foldl]; done) | dsimp only | (with_reducible first | apply State.modCore_inv | apply State.setCtx_inv | apply State.modCtx_inv | apply State.setMe_inv | apply State.modMe_inv | apply State.modProc_inv | apply State.modEntry_inv | apply State.setEntry_inv | apply State.send_inv | apply State.modLaunch_inv | apply State.setLaunch_inv) | split

@[simp] theorem State.emptySlot_inv {s : State} (tid : ℕ) (h : s.Inv) : (State.emptySlot s tid).Inv := by
  unfold State.emptySlot
  repeat' first | assumption | (refine inv_foldl ?_ fun _ _ _ => ?_) | (simp (maxDischargeDepth := 30) [*]; done) | exact ⟨h.mem, h.lifecycle, h.tstat, h.phase⟩ | (simp +contextual (maxDischargeDepth := 30) [*, inv_foldl]; done) | dsimp only | (with_reducible first | apply State.modCore_inv | apply State.setCtx_inv | apply State.modCtx_inv | apply State.setMe_inv | apply State.modMe_inv | apply State.modProc_inv | apply State.modEntry_inv | apply State.setEntry_inv | apply State.send_inv | apply State.modLaunch_inv | apply State.setLaunch_inv) | split

@[simp] theorem State.goHome_inv {s : State} (tid : ℕ) (trapping : Option TrapRec) (held : Option Instr) (h : s.Inv) : (State.goHome s tid trapping held).Inv := by
  unfold State.goHome
  repeat' first | assumption | (refine inv_foldl ?_ fun _ _ _ => ?_) | (simp (maxDischargeDepth := 30) [*]; done) | exact ⟨h.mem, h.lifecycle, h.tstat, h.phase⟩ | (simp +contextual (maxDischargeDepth := 30) [*, inv_foldl]; done) | dsimp only | (with_reducible first | apply State.modCore_inv | apply State.setCtx_inv | apply State.modCtx_inv | apply State.setMe_inv | apply State.modMe_inv | apply State.modProc_inv | apply State.modEntry_inv | apply State.setEntry_inv | apply State.send_inv | apply State.modLaunch_inv | apply State.setLaunch_inv) | split

@[simp] theorem State.writeOffchip_inv {s : State} (root : ℕ) (va : ℕ) (bytes : List Byte) (h : s.Inv) : (State.writeOffchip s root va bytes).Inv := by
  unfold State.writeOffchip
  repeat' first | assumption | (refine inv_foldl ?_ fun _ _ _ => ?_) | (simp (maxDischargeDepth := 30) [*]; done) | exact ⟨h.mem, h.lifecycle, h.tstat, h.phase⟩ | (simp +contextual (maxDischargeDepth := 30) [*, inv_foldl]; done) | dsimp only | (with_reducible first | apply State.modCore_inv | apply State.setCtx_inv | apply State.modCtx_inv | apply State.setMe_inv | apply State.modMe_inv | apply State.modProc_inv | apply State.modEntry_inv | apply State.setEntry_inv | apply State.send_inv | apply State.modLaunch_inv | apply State.setLaunch_inv) | split

@[simp] theorem State.pinEntry_inv {s : State} (entry : ℕ) (h : s.Inv) : (State.pinEntry s entry).Inv := by
  unfold State.pinEntry
  dsimp only
  split
  · exact h
  · exact ⟨memPut_wf _ _ h.mem, h.lifecycle, h.tstat, h.phase⟩

@[simp] theorem memClear_wf (f : Nat → Nat) (g : Nat → Mem → Byte) (l : List Nat) {m : Mem} (h : memWfFrom 0 m = true) :
    memWfFrom 0 (l.foldl (fun m e => memPut (f e) (g e m) m) m) = true := by
  induction l generalizing m with
  | nil => exact h
  | cons x l ih => exact ih (memPut_wf _ _ h)

@[simp] theorem State.settlePins_inv {s : State} (h : s.Inv) : (State.settlePins s).Inv := by
  unfold State.settlePins
  exact ⟨memClear_wf (fun e => dpaBase + e + 8) (fun e m => memGet (dpaBase + e + 8) m &&& ~~~(4 : Byte)) _ h.mem,
    h.lifecycle, h.tstat, h.phase⟩

@[simp] theorem State.writeRecord_inv {s : State} (key : ℕ) (l : Launch) (status : ℕ) (detail : ℕ) (detail2 : ℕ) (mask : Word) (wrapvt : ℕ) (h : s.Inv) : (State.writeRecord s key l status detail detail2 mask wrapvt).Inv := by
  unfold State.writeRecord
  repeat' first | assumption | (refine inv_foldl ?_ fun _ _ _ => ?_) | (simp (maxDischargeDepth := 30) [*]; done) | exact ⟨h.mem, h.lifecycle, h.tstat, h.phase⟩ | (simp +contextual (maxDischargeDepth := 30) [*, inv_foldl]; done) | dsimp only | (with_reducible first | apply State.modCore_inv | apply State.setCtx_inv | apply State.modCtx_inv | apply State.setMe_inv | apply State.modMe_inv | apply State.modProc_inv | apply State.modEntry_inv | apply State.setEntry_inv | apply State.send_inv | apply State.modLaunch_inv | apply State.setLaunch_inv) | split

@[simp] theorem State.terminate_inv {s : State} (key : ℕ) (status : ℕ) (cause : ℕ) (pcn : ℕ) (h : s.Inv) : (State.terminate s key status cause pcn).Inv := by
  unfold State.terminate
  repeat' first | assumption | (refine inv_foldl ?_ fun _ _ _ => ?_) | (simp (maxDischargeDepth := 30) [*]; done) | exact ⟨h.mem, h.lifecycle, h.tstat, h.phase⟩ | (simp +contextual (maxDischargeDepth := 30) [*, inv_foldl]; done) | dsimp only | (with_reducible first | apply State.modCore_inv | apply State.setCtx_inv | apply State.modCtx_inv | apply State.setMe_inv | apply State.modMe_inv | apply State.modProc_inv | apply State.modEntry_inv | apply State.setEntry_inv | apply State.send_inv | apply State.modLaunch_inv | apply State.setLaunch_inv) | split

@[simp] theorem State.startImage_inv {s : State} (pcn : ℕ) (image : List Byte) (h : s.Inv) : (State.startImage s pcn image).Inv := by
  unfold State.startImage
  repeat' first | assumption | (refine inv_foldl ?_ fun _ _ _ => ?_) | (simp (maxDischargeDepth := 30) [*]; done) | exact ⟨h.mem, h.lifecycle, h.tstat, h.phase⟩ | (simp +contextual (maxDischargeDepth := 30) [*, inv_foldl]; done) | dsimp only | (with_reducible first | apply State.modCore_inv | apply State.setCtx_inv | apply State.modCtx_inv | apply State.setMe_inv | apply State.modMe_inv | apply State.modProc_inv | apply State.modEntry_inv | apply State.setEntry_inv | apply State.send_inv | apply State.modLaunch_inv | apply State.setLaunch_inv) | split

@[simp] theorem State.restartFirmware_inv {s : State} (h : s.Inv) : (State.restartFirmware s).Inv := by
  unfold State.restartFirmware
  repeat' first | assumption | (refine inv_foldl ?_ fun _ _ _ => ?_) | (simp (maxDischargeDepth := 30) [*]; done) | exact ⟨h.mem, h.lifecycle, h.tstat, h.phase⟩ | (simp +contextual (maxDischargeDepth := 30) [*, inv_foldl]; done) | dsimp only | (with_reducible first | apply State.modCore_inv | apply State.setCtx_inv | apply State.modCtx_inv | apply State.setMe_inv | apply State.modMe_inv | apply State.modProc_inv | apply State.modEntry_inv | apply State.setEntry_inv | apply State.send_inv | apply State.modLaunch_inv | apply State.setLaunch_inv) | split

@[simp] theorem State.passRole_inv {s : State} (pcn : ℕ) (h : s.Inv) : (State.passRole s pcn).Inv := by
  unfold State.passRole
  repeat' first | assumption | (refine inv_foldl ?_ fun _ _ _ => ?_) | (simp (maxDischargeDepth := 30) [*]; done) | exact ⟨h.mem, h.lifecycle, h.tstat, h.phase⟩ | (simp +contextual (maxDischargeDepth := 30) [*, inv_foldl]; done) | dsimp only | (with_reducible first | apply State.modCore_inv | apply State.setCtx_inv | apply State.modCtx_inv | apply State.setMe_inv | apply State.modMe_inv | apply State.modProc_inv | apply State.modEntry_inv | apply State.setEntry_inv | apply State.send_inv | apply State.modLaunch_inv | apply State.setLaunch_inv) | split

@[simp] theorem State.stopContext_inv {s : State} (tid : ℕ) (cause : ℕ) (xaddr : Option Word) (h : s.Inv) : (State.stopContext s tid cause xaddr).Inv := by
  unfold State.stopContext
  repeat' first | assumption | (refine inv_foldl ?_ fun _ _ _ => ?_) | (simp (maxDischargeDepth := 30) [*]; done) | exact ⟨h.mem, h.lifecycle, h.tstat, h.phase⟩ | (simp +contextual (maxDischargeDepth := 30) [*, inv_foldl]; done) | dsimp only | (with_reducible first | apply State.modCore_inv | apply State.setCtx_inv | apply State.modCtx_inv | apply State.setMe_inv | apply State.modMe_inv | apply State.modProc_inv | apply State.modEntry_inv | apply State.setEntry_inv | apply State.send_inv | apply State.modLaunch_inv | apply State.setLaunch_inv) | split

@[simp] theorem State.takeTrapAt_inv {s : State} (tid : ℕ) (t : TrapRec) (h : s.Inv) : (State.takeTrapAt s tid t).Inv := by
  unfold State.takeTrapAt
  repeat' first | assumption | (refine inv_foldl ?_ fun _ _ _ => ?_) | (simp (maxDischargeDepth := 30) [*]; done) | exact ⟨h.mem, h.lifecycle, h.tstat, h.phase⟩ | (simp +contextual (maxDischargeDepth := 30) [*, inv_foldl]; done) | dsimp only | (with_reducible first | apply State.modCore_inv | apply State.setCtx_inv | apply State.modCtx_inv | apply State.setMe_inv | apply State.modMe_inv | apply State.modProc_inv | apply State.modEntry_inv | apply State.setEntry_inv | apply State.send_inv | apply State.modLaunch_inv | apply State.setLaunch_inv) | split

@[simp] theorem State.trapHere_inv {s : State} (cause : ℕ) (xaddr : Word) (h : s.Inv) : Res.Inv (State.trapHere s cause xaddr) := by
  unfold State.trapHere
  repeat' first | assumption | (refine inv_foldl ?_ fun _ _ _ => ?_) | (simp (maxDischargeDepth := 30) [*]; done) | exact ⟨h.mem, h.lifecycle, h.tstat, h.phase⟩ | (simp +contextual (maxDischargeDepth := 30) [*, inv_foldl]; done) | dsimp only | (with_reducible first | apply State.modCore_inv | apply State.setCtx_inv | apply State.modCtx_inv | apply State.setMe_inv | apply State.modMe_inv | apply State.modProc_inv | apply State.modEntry_inv | apply State.setEntry_inv | apply State.send_inv | apply State.modLaunch_inv | apply State.setLaunch_inv) | split

@[simp] theorem State.trapNext_inv {s : State} (cause : ℕ) (xaddr : Word) (h : s.Inv) : Res.Inv (State.trapNext s cause xaddr) := by
  unfold State.trapNext
  repeat' first | assumption | (refine inv_foldl ?_ fun _ _ _ => ?_) | (simp (maxDischargeDepth := 30) [*]; done) | exact ⟨h.mem, h.lifecycle, h.tstat, h.phase⟩ | (simp +contextual (maxDischargeDepth := 30) [*, inv_foldl]; done) | dsimp only | (with_reducible first | apply State.modCore_inv | apply State.setCtx_inv | apply State.modCtx_inv | apply State.setMe_inv | apply State.modMe_inv | apply State.modProc_inv | apply State.modEntry_inv | apply State.setEntry_inv | apply State.send_inv | apply State.modLaunch_inv | apply State.setLaunch_inv) | split

@[simp] theorem State.illegal_inv {s : State} (h : s.Inv) : Res.Inv (State.illegal s) := by
  unfold State.illegal
  repeat' first | assumption | (refine inv_foldl ?_ fun _ _ _ => ?_) | (simp (maxDischargeDepth := 30) [*]; done) | exact ⟨h.mem, h.lifecycle, h.tstat, h.phase⟩ | (simp +contextual (maxDischargeDepth := 30) [*, inv_foldl]; done) | dsimp only | (with_reducible first | apply State.modCore_inv | apply State.setCtx_inv | apply State.modCtx_inv | apply State.setMe_inv | apply State.modMe_inv | apply State.modProc_inv | apply State.modEntry_inv | apply State.setEntry_inv | apply State.send_inv | apply State.modLaunch_inv | apply State.setLaunch_inv) | split

@[simp] theorem State.trapAccess_inv {s : State} (cause : ℕ) (ea : Word) (h : s.Inv) : Res.Inv (State.trapAccess s cause ea) := by
  unfold State.trapAccess
  repeat' first | assumption | (refine inv_foldl ?_ fun _ _ _ => ?_) | (simp (maxDischargeDepth := 30) [*]; done) | exact ⟨h.mem, h.lifecycle, h.tstat, h.phase⟩ | (simp +contextual (maxDischargeDepth := 30) [*, inv_foldl]; done) | dsimp only | (with_reducible first | apply State.modCore_inv | apply State.setCtx_inv | apply State.modCtx_inv | apply State.setMe_inv | apply State.modMe_inv | apply State.modProc_inv | apply State.modEntry_inv | apply State.setEntry_inv | apply State.send_inv | apply State.modLaunch_inv | apply State.setLaunch_inv) | split

@[simp] theorem State.returnFromTrap_inv {s : State} (h : s.Inv) : Res.Inv (State.returnFromTrap s) := by
  unfold State.returnFromTrap
  repeat' first | assumption | (refine inv_foldl ?_ fun _ _ _ => ?_) | (simp (maxDischargeDepth := 30) [*]; done) | exact ⟨h.mem, h.lifecycle, h.tstat, h.phase⟩ | (simp +contextual (maxDischargeDepth := 30) [*, inv_foldl]; done) | dsimp only | (with_reducible first | apply State.modCore_inv | apply State.setCtx_inv | apply State.modCtx_inv | apply State.setMe_inv | apply State.modMe_inv | apply State.modProc_inv | apply State.modEntry_inv | apply State.setEntry_inv | apply State.send_inv | apply State.modLaunch_inv | apply State.setLaunch_inv) | split

@[simp] theorem State.endThread_inv {s : State} (tid : ℕ) (h : s.Inv) : (State.endThread s tid).Inv := by
  unfold State.endThread
  repeat' first | assumption | (refine inv_foldl ?_ fun _ _ _ => ?_) | (simp (maxDischargeDepth := 30) [*]; done) | exact ⟨h.mem, h.lifecycle, h.tstat, h.phase⟩ | (simp +contextual (maxDischargeDepth := 30) [*, inv_foldl]; done) | dsimp only | (with_reducible first | apply State.modCore_inv | apply State.setCtx_inv | apply State.modCtx_inv | apply State.setMe_inv | apply State.modMe_inv | apply State.modProc_inv | apply State.modEntry_inv | apply State.setEntry_inv | apply State.send_inv | apply State.modLaunch_inv | apply State.setLaunch_inv) | split

@[simp] theorem execAdd_inv (d : GReg) (a : GReg) (b : GReg) {s : State} (h : s.Inv) : Res.Inv (execAdd d a b s) := by
  unfold execAdd
  repeat' first | assumption | (refine inv_foldl ?_ fun _ _ _ => ?_) | (simp (maxDischargeDepth := 30) [*]; done) | exact ⟨h.mem, h.lifecycle, h.tstat, h.phase⟩ | (simp +contextual (maxDischargeDepth := 30) [*, inv_foldl]; done) | dsimp only | (with_reducible first | apply State.modCore_inv | apply State.setCtx_inv | apply State.modCtx_inv | apply State.setMe_inv | apply State.modMe_inv | apply State.modProc_inv | apply State.modEntry_inv | apply State.setEntry_inv | apply State.send_inv | apply State.modLaunch_inv | apply State.setLaunch_inv) | split

@[simp] theorem execSub_inv (d : GReg) (a : GReg) (b : GReg) {s : State} (h : s.Inv) : Res.Inv (execSub d a b s) := by
  unfold execSub
  repeat' first | assumption | (refine inv_foldl ?_ fun _ _ _ => ?_) | (simp (maxDischargeDepth := 30) [*]; done) | exact ⟨h.mem, h.lifecycle, h.tstat, h.phase⟩ | (simp +contextual (maxDischargeDepth := 30) [*, inv_foldl]; done) | dsimp only | (with_reducible first | apply State.modCore_inv | apply State.setCtx_inv | apply State.modCtx_inv | apply State.setMe_inv | apply State.modMe_inv | apply State.modProc_inv | apply State.modEntry_inv | apply State.setEntry_inv | apply State.send_inv | apply State.modLaunch_inv | apply State.setLaunch_inv) | split

@[simp] theorem execAnd_inv (d : GReg) (a : GReg) (b : GReg) {s : State} (h : s.Inv) : Res.Inv (execAnd d a b s) := by
  unfold execAnd
  repeat' first | assumption | (refine inv_foldl ?_ fun _ _ _ => ?_) | (simp (maxDischargeDepth := 30) [*]; done) | exact ⟨h.mem, h.lifecycle, h.tstat, h.phase⟩ | (simp +contextual (maxDischargeDepth := 30) [*, inv_foldl]; done) | dsimp only | (with_reducible first | apply State.modCore_inv | apply State.setCtx_inv | apply State.modCtx_inv | apply State.setMe_inv | apply State.modMe_inv | apply State.modProc_inv | apply State.modEntry_inv | apply State.setEntry_inv | apply State.send_inv | apply State.modLaunch_inv | apply State.setLaunch_inv) | split

@[simp] theorem execOr_inv (d : GReg) (a : GReg) (b : GReg) {s : State} (h : s.Inv) : Res.Inv (execOr d a b s) := by
  unfold execOr
  repeat' first | assumption | (refine inv_foldl ?_ fun _ _ _ => ?_) | (simp (maxDischargeDepth := 30) [*]; done) | exact ⟨h.mem, h.lifecycle, h.tstat, h.phase⟩ | (simp +contextual (maxDischargeDepth := 30) [*, inv_foldl]; done) | dsimp only | (with_reducible first | apply State.modCore_inv | apply State.setCtx_inv | apply State.modCtx_inv | apply State.setMe_inv | apply State.modMe_inv | apply State.modProc_inv | apply State.modEntry_inv | apply State.setEntry_inv | apply State.send_inv | apply State.modLaunch_inv | apply State.setLaunch_inv) | split

@[simp] theorem execXor_inv (d : GReg) (a : GReg) (b : GReg) {s : State} (h : s.Inv) : Res.Inv (execXor d a b s) := by
  unfold execXor
  repeat' first | assumption | (refine inv_foldl ?_ fun _ _ _ => ?_) | (simp (maxDischargeDepth := 30) [*]; done) | exact ⟨h.mem, h.lifecycle, h.tstat, h.phase⟩ | (simp +contextual (maxDischargeDepth := 30) [*, inv_foldl]; done) | dsimp only | (with_reducible first | apply State.modCore_inv | apply State.setCtx_inv | apply State.modCtx_inv | apply State.setMe_inv | apply State.modMe_inv | apply State.modProc_inv | apply State.modEntry_inv | apply State.setEntry_inv | apply State.send_inv | apply State.modLaunch_inv | apply State.setLaunch_inv) | split

@[simp] theorem execShl_inv (d : GReg) (a : GReg) (b : GReg) {s : State} (h : s.Inv) : Res.Inv (execShl d a b s) := by
  unfold execShl
  repeat' first | assumption | (refine inv_foldl ?_ fun _ _ _ => ?_) | (simp (maxDischargeDepth := 30) [*]; done) | exact ⟨h.mem, h.lifecycle, h.tstat, h.phase⟩ | (simp +contextual (maxDischargeDepth := 30) [*, inv_foldl]; done) | dsimp only | (with_reducible first | apply State.modCore_inv | apply State.setCtx_inv | apply State.modCtx_inv | apply State.setMe_inv | apply State.modMe_inv | apply State.modProc_inv | apply State.modEntry_inv | apply State.setEntry_inv | apply State.send_inv | apply State.modLaunch_inv | apply State.setLaunch_inv) | split

@[simp] theorem execShr_inv (d : GReg) (a : GReg) (b : GReg) {s : State} (h : s.Inv) : Res.Inv (execShr d a b s) := by
  unfold execShr
  repeat' first | assumption | (refine inv_foldl ?_ fun _ _ _ => ?_) | (simp (maxDischargeDepth := 30) [*]; done) | exact ⟨h.mem, h.lifecycle, h.tstat, h.phase⟩ | (simp +contextual (maxDischargeDepth := 30) [*, inv_foldl]; done) | dsimp only | (with_reducible first | apply State.modCore_inv | apply State.setCtx_inv | apply State.modCtx_inv | apply State.setMe_inv | apply State.modMe_inv | apply State.modProc_inv | apply State.modEntry_inv | apply State.setEntry_inv | apply State.send_inv | apply State.modLaunch_inv | apply State.setLaunch_inv) | split

@[simp] theorem execSra_inv (d : GReg) (a : GReg) (b : GReg) {s : State} (h : s.Inv) : Res.Inv (execSra d a b s) := by
  unfold execSra
  repeat' first | assumption | (refine inv_foldl ?_ fun _ _ _ => ?_) | (simp (maxDischargeDepth := 30) [*]; done) | exact ⟨h.mem, h.lifecycle, h.tstat, h.phase⟩ | (simp +contextual (maxDischargeDepth := 30) [*, inv_foldl]; done) | dsimp only | (with_reducible first | apply State.modCore_inv | apply State.setCtx_inv | apply State.modCtx_inv | apply State.setMe_inv | apply State.modMe_inv | apply State.modProc_inv | apply State.modEntry_inv | apply State.setEntry_inv | apply State.send_inv | apply State.modLaunch_inv | apply State.setLaunch_inv) | split

@[simp] theorem execMul_inv (d : GReg) (a : GReg) (b : GReg) {s : State} (h : s.Inv) : Res.Inv (execMul d a b s) := by
  unfold execMul
  repeat' first | assumption | (refine inv_foldl ?_ fun _ _ _ => ?_) | (simp (maxDischargeDepth := 30) [*]; done) | exact ⟨h.mem, h.lifecycle, h.tstat, h.phase⟩ | (simp +contextual (maxDischargeDepth := 30) [*, inv_foldl]; done) | dsimp only | (with_reducible first | apply State.modCore_inv | apply State.setCtx_inv | apply State.modCtx_inv | apply State.setMe_inv | apply State.modMe_inv | apply State.modProc_inv | apply State.modEntry_inv | apply State.setEntry_inv | apply State.send_inv | apply State.modLaunch_inv | apply State.setLaunch_inv) | split

@[simp] theorem execMulh_inv (d : GReg) (a : GReg) (b : GReg) {s : State} (h : s.Inv) : Res.Inv (execMulh d a b s) := by
  unfold execMulh
  repeat' first | assumption | (refine inv_foldl ?_ fun _ _ _ => ?_) | (simp (maxDischargeDepth := 30) [*]; done) | exact ⟨h.mem, h.lifecycle, h.tstat, h.phase⟩ | (simp +contextual (maxDischargeDepth := 30) [*, inv_foldl]; done) | dsimp only | (with_reducible first | apply State.modCore_inv | apply State.setCtx_inv | apply State.modCtx_inv | apply State.setMe_inv | apply State.modMe_inv | apply State.modProc_inv | apply State.modEntry_inv | apply State.setEntry_inv | apply State.send_inv | apply State.modLaunch_inv | apply State.setLaunch_inv) | split

@[simp] theorem execMulhu_inv (d : GReg) (a : GReg) (b : GReg) {s : State} (h : s.Inv) : Res.Inv (execMulhu d a b s) := by
  unfold execMulhu
  repeat' first | assumption | (refine inv_foldl ?_ fun _ _ _ => ?_) | (simp (maxDischargeDepth := 30) [*]; done) | exact ⟨h.mem, h.lifecycle, h.tstat, h.phase⟩ | (simp +contextual (maxDischargeDepth := 30) [*, inv_foldl]; done) | dsimp only | (with_reducible first | apply State.modCore_inv | apply State.setCtx_inv | apply State.modCtx_inv | apply State.setMe_inv | apply State.modMe_inv | apply State.modProc_inv | apply State.modEntry_inv | apply State.setEntry_inv | apply State.send_inv | apply State.modLaunch_inv | apply State.setLaunch_inv) | split

@[simp] theorem execDiv_inv (d : GReg) (a : GReg) (b : GReg) {s : State} (h : s.Inv) : Res.Inv (execDiv d a b s) := by
  unfold execDiv
  repeat' first | assumption | (refine inv_foldl ?_ fun _ _ _ => ?_) | (simp (maxDischargeDepth := 30) [*]; done) | exact ⟨h.mem, h.lifecycle, h.tstat, h.phase⟩ | (simp +contextual (maxDischargeDepth := 30) [*, inv_foldl]; done) | dsimp only | (with_reducible first | apply State.modCore_inv | apply State.setCtx_inv | apply State.modCtx_inv | apply State.setMe_inv | apply State.modMe_inv | apply State.modProc_inv | apply State.modEntry_inv | apply State.setEntry_inv | apply State.send_inv | apply State.modLaunch_inv | apply State.setLaunch_inv) | split

@[simp] theorem execDivu_inv (d : GReg) (a : GReg) (b : GReg) {s : State} (h : s.Inv) : Res.Inv (execDivu d a b s) := by
  unfold execDivu
  repeat' first | assumption | (refine inv_foldl ?_ fun _ _ _ => ?_) | (simp (maxDischargeDepth := 30) [*]; done) | exact ⟨h.mem, h.lifecycle, h.tstat, h.phase⟩ | (simp +contextual (maxDischargeDepth := 30) [*, inv_foldl]; done) | dsimp only | (with_reducible first | apply State.modCore_inv | apply State.setCtx_inv | apply State.modCtx_inv | apply State.setMe_inv | apply State.modMe_inv | apply State.modProc_inv | apply State.modEntry_inv | apply State.setEntry_inv | apply State.send_inv | apply State.modLaunch_inv | apply State.setLaunch_inv) | split

@[simp] theorem execRem_inv (d : GReg) (a : GReg) (b : GReg) {s : State} (h : s.Inv) : Res.Inv (execRem d a b s) := by
  unfold execRem
  repeat' first | assumption | (refine inv_foldl ?_ fun _ _ _ => ?_) | (simp (maxDischargeDepth := 30) [*]; done) | exact ⟨h.mem, h.lifecycle, h.tstat, h.phase⟩ | (simp +contextual (maxDischargeDepth := 30) [*, inv_foldl]; done) | dsimp only | (with_reducible first | apply State.modCore_inv | apply State.setCtx_inv | apply State.modCtx_inv | apply State.setMe_inv | apply State.modMe_inv | apply State.modProc_inv | apply State.modEntry_inv | apply State.setEntry_inv | apply State.send_inv | apply State.modLaunch_inv | apply State.setLaunch_inv) | split

@[simp] theorem execRemu_inv (d : GReg) (a : GReg) (b : GReg) {s : State} (h : s.Inv) : Res.Inv (execRemu d a b s) := by
  unfold execRemu
  repeat' first | assumption | (refine inv_foldl ?_ fun _ _ _ => ?_) | (simp (maxDischargeDepth := 30) [*]; done) | exact ⟨h.mem, h.lifecycle, h.tstat, h.phase⟩ | (simp +contextual (maxDischargeDepth := 30) [*, inv_foldl]; done) | dsimp only | (with_reducible first | apply State.modCore_inv | apply State.setCtx_inv | apply State.modCtx_inv | apply State.setMe_inv | apply State.modMe_inv | apply State.modProc_inv | apply State.modEntry_inv | apply State.setEntry_inv | apply State.send_inv | apply State.modLaunch_inv | apply State.setLaunch_inv) | split

@[simp] theorem execMin_inv (d : GReg) (a : GReg) (b : GReg) {s : State} (h : s.Inv) : Res.Inv (execMin d a b s) := by
  unfold execMin
  repeat' first | assumption | (refine inv_foldl ?_ fun _ _ _ => ?_) | (simp (maxDischargeDepth := 30) [*]; done) | exact ⟨h.mem, h.lifecycle, h.tstat, h.phase⟩ | (simp +contextual (maxDischargeDepth := 30) [*, inv_foldl]; done) | dsimp only | (with_reducible first | apply State.modCore_inv | apply State.setCtx_inv | apply State.modCtx_inv | apply State.setMe_inv | apply State.modMe_inv | apply State.modProc_inv | apply State.modEntry_inv | apply State.setEntry_inv | apply State.send_inv | apply State.modLaunch_inv | apply State.setLaunch_inv) | split

@[simp] theorem execMax_inv (d : GReg) (a : GReg) (b : GReg) {s : State} (h : s.Inv) : Res.Inv (execMax d a b s) := by
  unfold execMax
  repeat' first | assumption | (refine inv_foldl ?_ fun _ _ _ => ?_) | (simp (maxDischargeDepth := 30) [*]; done) | exact ⟨h.mem, h.lifecycle, h.tstat, h.phase⟩ | (simp +contextual (maxDischargeDepth := 30) [*, inv_foldl]; done) | dsimp only | (with_reducible first | apply State.modCore_inv | apply State.setCtx_inv | apply State.modCtx_inv | apply State.setMe_inv | apply State.modMe_inv | apply State.modProc_inv | apply State.modEntry_inv | apply State.setEntry_inv | apply State.send_inv | apply State.modLaunch_inv | apply State.setLaunch_inv) | split

@[simp] theorem execMinu_inv (d : GReg) (a : GReg) (b : GReg) {s : State} (h : s.Inv) : Res.Inv (execMinu d a b s) := by
  unfold execMinu
  repeat' first | assumption | (refine inv_foldl ?_ fun _ _ _ => ?_) | (simp (maxDischargeDepth := 30) [*]; done) | exact ⟨h.mem, h.lifecycle, h.tstat, h.phase⟩ | (simp +contextual (maxDischargeDepth := 30) [*, inv_foldl]; done) | dsimp only | (with_reducible first | apply State.modCore_inv | apply State.setCtx_inv | apply State.modCtx_inv | apply State.setMe_inv | apply State.modMe_inv | apply State.modProc_inv | apply State.modEntry_inv | apply State.setEntry_inv | apply State.send_inv | apply State.modLaunch_inv | apply State.setLaunch_inv) | split

@[simp] theorem execMaxu_inv (d : GReg) (a : GReg) (b : GReg) {s : State} (h : s.Inv) : Res.Inv (execMaxu d a b s) := by
  unfold execMaxu
  repeat' first | assumption | (refine inv_foldl ?_ fun _ _ _ => ?_) | (simp (maxDischargeDepth := 30) [*]; done) | exact ⟨h.mem, h.lifecycle, h.tstat, h.phase⟩ | (simp +contextual (maxDischargeDepth := 30) [*, inv_foldl]; done) | dsimp only | (with_reducible first | apply State.modCore_inv | apply State.setCtx_inv | apply State.modCtx_inv | apply State.setMe_inv | apply State.modMe_inv | apply State.modProc_inv | apply State.modEntry_inv | apply State.setEntry_inv | apply State.send_inv | apply State.modLaunch_inv | apply State.setLaunch_inv) | split

@[simp] theorem execSel_inv (d : GReg) (a : GReg) (b : GReg) (k : PReg) {s : State} (h : s.Inv) : Res.Inv (execSel d a b k s) := by
  unfold execSel
  repeat' first | assumption | (refine inv_foldl ?_ fun _ _ _ => ?_) | (simp (maxDischargeDepth := 30) [*]; done) | exact ⟨h.mem, h.lifecycle, h.tstat, h.phase⟩ | (simp +contextual (maxDischargeDepth := 30) [*, inv_foldl]; done) | dsimp only | (with_reducible first | apply State.modCore_inv | apply State.setCtx_inv | apply State.modCtx_inv | apply State.setMe_inv | apply State.modMe_inv | apply State.modProc_inv | apply State.modEntry_inv | apply State.setEntry_inv | apply State.send_inv | apply State.modLaunch_inv | apply State.setLaunch_inv) | split

@[simp] theorem execClz_inv (d : GReg) (a : GReg) {s : State} (h : s.Inv) : Res.Inv (execClz d a s) := by
  unfold execClz
  repeat' first | assumption | (refine inv_foldl ?_ fun _ _ _ => ?_) | (simp (maxDischargeDepth := 30) [*]; done) | exact ⟨h.mem, h.lifecycle, h.tstat, h.phase⟩ | (simp +contextual (maxDischargeDepth := 30) [*, inv_foldl]; done) | dsimp only | (with_reducible first | apply State.modCore_inv | apply State.setCtx_inv | apply State.modCtx_inv | apply State.setMe_inv | apply State.modMe_inv | apply State.modProc_inv | apply State.modEntry_inv | apply State.setEntry_inv | apply State.send_inv | apply State.modLaunch_inv | apply State.setLaunch_inv) | split

@[simp] theorem execCtz_inv (d : GReg) (a : GReg) {s : State} (h : s.Inv) : Res.Inv (execCtz d a s) := by
  unfold execCtz
  repeat' first | assumption | (refine inv_foldl ?_ fun _ _ _ => ?_) | (simp (maxDischargeDepth := 30) [*]; done) | exact ⟨h.mem, h.lifecycle, h.tstat, h.phase⟩ | (simp +contextual (maxDischargeDepth := 30) [*, inv_foldl]; done) | dsimp only | (with_reducible first | apply State.modCore_inv | apply State.setCtx_inv | apply State.modCtx_inv | apply State.setMe_inv | apply State.modMe_inv | apply State.modProc_inv | apply State.modEntry_inv | apply State.setEntry_inv | apply State.send_inv | apply State.modLaunch_inv | apply State.setLaunch_inv) | split

@[simp] theorem execPopc_inv (d : GReg) (a : GReg) {s : State} (h : s.Inv) : Res.Inv (execPopc d a s) := by
  unfold execPopc
  repeat' first | assumption | (refine inv_foldl ?_ fun _ _ _ => ?_) | (simp (maxDischargeDepth := 30) [*]; done) | exact ⟨h.mem, h.lifecycle, h.tstat, h.phase⟩ | (simp +contextual (maxDischargeDepth := 30) [*, inv_foldl]; done) | dsimp only | (with_reducible first | apply State.modCore_inv | apply State.setCtx_inv | apply State.modCtx_inv | apply State.setMe_inv | apply State.modMe_inv | apply State.modProc_inv | apply State.modEntry_inv | apply State.setEntry_inv | apply State.send_inv | apply State.modLaunch_inv | apply State.setLaunch_inv) | split

@[simp] theorem execSextB_inv (d : GReg) (a : GReg) {s : State} (h : s.Inv) : Res.Inv (execSextB d a s) := by
  unfold execSextB
  repeat' first | assumption | (refine inv_foldl ?_ fun _ _ _ => ?_) | (simp (maxDischargeDepth := 30) [*]; done) | exact ⟨h.mem, h.lifecycle, h.tstat, h.phase⟩ | (simp +contextual (maxDischargeDepth := 30) [*, inv_foldl]; done) | dsimp only | (with_reducible first | apply State.modCore_inv | apply State.setCtx_inv | apply State.modCtx_inv | apply State.setMe_inv | apply State.modMe_inv | apply State.modProc_inv | apply State.modEntry_inv | apply State.setEntry_inv | apply State.send_inv | apply State.modLaunch_inv | apply State.setLaunch_inv) | split

@[simp] theorem execSextH_inv (d : GReg) (a : GReg) {s : State} (h : s.Inv) : Res.Inv (execSextH d a s) := by
  unfold execSextH
  repeat' first | assumption | (refine inv_foldl ?_ fun _ _ _ => ?_) | (simp (maxDischargeDepth := 30) [*]; done) | exact ⟨h.mem, h.lifecycle, h.tstat, h.phase⟩ | (simp +contextual (maxDischargeDepth := 30) [*, inv_foldl]; done) | dsimp only | (with_reducible first | apply State.modCore_inv | apply State.setCtx_inv | apply State.modCtx_inv | apply State.setMe_inv | apply State.modMe_inv | apply State.modProc_inv | apply State.modEntry_inv | apply State.setEntry_inv | apply State.send_inv | apply State.modLaunch_inv | apply State.setLaunch_inv) | split

@[simp] theorem execSextW_inv (d : GReg) (a : GReg) {s : State} (h : s.Inv) : Res.Inv (execSextW d a s) := by
  unfold execSextW
  repeat' first | assumption | (refine inv_foldl ?_ fun _ _ _ => ?_) | (simp (maxDischargeDepth := 30) [*]; done) | exact ⟨h.mem, h.lifecycle, h.tstat, h.phase⟩ | (simp +contextual (maxDischargeDepth := 30) [*, inv_foldl]; done) | dsimp only | (with_reducible first | apply State.modCore_inv | apply State.setCtx_inv | apply State.modCtx_inv | apply State.setMe_inv | apply State.modMe_inv | apply State.modProc_inv | apply State.modEntry_inv | apply State.setEntry_inv | apply State.send_inv | apply State.modLaunch_inv | apply State.setLaunch_inv) | split

@[simp] theorem execZextB_inv (d : GReg) (a : GReg) {s : State} (h : s.Inv) : Res.Inv (execZextB d a s) := by
  unfold execZextB
  repeat' first | assumption | (refine inv_foldl ?_ fun _ _ _ => ?_) | (simp (maxDischargeDepth := 30) [*]; done) | exact ⟨h.mem, h.lifecycle, h.tstat, h.phase⟩ | (simp +contextual (maxDischargeDepth := 30) [*, inv_foldl]; done) | dsimp only | (with_reducible first | apply State.modCore_inv | apply State.setCtx_inv | apply State.modCtx_inv | apply State.setMe_inv | apply State.modMe_inv | apply State.modProc_inv | apply State.modEntry_inv | apply State.setEntry_inv | apply State.send_inv | apply State.modLaunch_inv | apply State.setLaunch_inv) | split

@[simp] theorem execZextH_inv (d : GReg) (a : GReg) {s : State} (h : s.Inv) : Res.Inv (execZextH d a s) := by
  unfold execZextH
  repeat' first | assumption | (refine inv_foldl ?_ fun _ _ _ => ?_) | (simp (maxDischargeDepth := 30) [*]; done) | exact ⟨h.mem, h.lifecycle, h.tstat, h.phase⟩ | (simp +contextual (maxDischargeDepth := 30) [*, inv_foldl]; done) | dsimp only | (with_reducible first | apply State.modCore_inv | apply State.setCtx_inv | apply State.modCtx_inv | apply State.setMe_inv | apply State.modMe_inv | apply State.modProc_inv | apply State.modEntry_inv | apply State.setEntry_inv | apply State.send_inv | apply State.modLaunch_inv | apply State.setLaunch_inv) | split

@[simp] theorem execZextW_inv (d : GReg) (a : GReg) {s : State} (h : s.Inv) : Res.Inv (execZextW d a s) := by
  unfold execZextW
  repeat' first | assumption | (refine inv_foldl ?_ fun _ _ _ => ?_) | (simp (maxDischargeDepth := 30) [*]; done) | exact ⟨h.mem, h.lifecycle, h.tstat, h.phase⟩ | (simp +contextual (maxDischargeDepth := 30) [*, inv_foldl]; done) | dsimp only | (with_reducible first | apply State.modCore_inv | apply State.setCtx_inv | apply State.modCtx_inv | apply State.setMe_inv | apply State.modMe_inv | apply State.modProc_inv | apply State.modEntry_inv | apply State.setEntry_inv | apply State.send_inv | apply State.modLaunch_inv | apply State.setLaunch_inv) | split

@[simp] theorem execAddi_inv (d : GReg) (a : GReg) (i : BitVec 16) {s : State} (h : s.Inv) : Res.Inv (execAddi d a i s) := by
  unfold execAddi
  repeat' first | assumption | (refine inv_foldl ?_ fun _ _ _ => ?_) | (simp (maxDischargeDepth := 30) [*]; done) | exact ⟨h.mem, h.lifecycle, h.tstat, h.phase⟩ | (simp +contextual (maxDischargeDepth := 30) [*, inv_foldl]; done) | dsimp only | (with_reducible first | apply State.modCore_inv | apply State.setCtx_inv | apply State.modCtx_inv | apply State.setMe_inv | apply State.modMe_inv | apply State.modProc_inv | apply State.modEntry_inv | apply State.setEntry_inv | apply State.send_inv | apply State.modLaunch_inv | apply State.setLaunch_inv) | split

@[simp] theorem execAndi_inv (d : GReg) (a : GReg) (i : BitVec 16) {s : State} (h : s.Inv) : Res.Inv (execAndi d a i s) := by
  unfold execAndi
  repeat' first | assumption | (refine inv_foldl ?_ fun _ _ _ => ?_) | (simp (maxDischargeDepth := 30) [*]; done) | exact ⟨h.mem, h.lifecycle, h.tstat, h.phase⟩ | (simp +contextual (maxDischargeDepth := 30) [*, inv_foldl]; done) | dsimp only | (with_reducible first | apply State.modCore_inv | apply State.setCtx_inv | apply State.modCtx_inv | apply State.setMe_inv | apply State.modMe_inv | apply State.modProc_inv | apply State.modEntry_inv | apply State.setEntry_inv | apply State.send_inv | apply State.modLaunch_inv | apply State.setLaunch_inv) | split

@[simp] theorem execOri_inv (d : GReg) (a : GReg) (i : BitVec 16) {s : State} (h : s.Inv) : Res.Inv (execOri d a i s) := by
  unfold execOri
  repeat' first | assumption | (refine inv_foldl ?_ fun _ _ _ => ?_) | (simp (maxDischargeDepth := 30) [*]; done) | exact ⟨h.mem, h.lifecycle, h.tstat, h.phase⟩ | (simp +contextual (maxDischargeDepth := 30) [*, inv_foldl]; done) | dsimp only | (with_reducible first | apply State.modCore_inv | apply State.setCtx_inv | apply State.modCtx_inv | apply State.setMe_inv | apply State.modMe_inv | apply State.modProc_inv | apply State.modEntry_inv | apply State.setEntry_inv | apply State.send_inv | apply State.modLaunch_inv | apply State.setLaunch_inv) | split

@[simp] theorem execXori_inv (d : GReg) (a : GReg) (i : BitVec 16) {s : State} (h : s.Inv) : Res.Inv (execXori d a i s) := by
  unfold execXori
  repeat' first | assumption | (refine inv_foldl ?_ fun _ _ _ => ?_) | (simp (maxDischargeDepth := 30) [*]; done) | exact ⟨h.mem, h.lifecycle, h.tstat, h.phase⟩ | (simp +contextual (maxDischargeDepth := 30) [*, inv_foldl]; done) | dsimp only | (with_reducible first | apply State.modCore_inv | apply State.setCtx_inv | apply State.modCtx_inv | apply State.setMe_inv | apply State.modMe_inv | apply State.modProc_inv | apply State.modEntry_inv | apply State.setEntry_inv | apply State.send_inv | apply State.modLaunch_inv | apply State.setLaunch_inv) | split

@[simp] theorem execMuli_inv (d : GReg) (a : GReg) (i : BitVec 16) {s : State} (h : s.Inv) : Res.Inv (execMuli d a i s) := by
  unfold execMuli
  repeat' first | assumption | (refine inv_foldl ?_ fun _ _ _ => ?_) | (simp (maxDischargeDepth := 30) [*]; done) | exact ⟨h.mem, h.lifecycle, h.tstat, h.phase⟩ | (simp +contextual (maxDischargeDepth := 30) [*, inv_foldl]; done) | dsimp only | (with_reducible first | apply State.modCore_inv | apply State.setCtx_inv | apply State.modCtx_inv | apply State.setMe_inv | apply State.modMe_inv | apply State.modProc_inv | apply State.modEntry_inv | apply State.setEntry_inv | apply State.send_inv | apply State.modLaunch_inv | apply State.setLaunch_inv) | split

@[simp] theorem execShli_inv (d : GReg) (a : GReg) (n : BitVec 6) {s : State} (h : s.Inv) : Res.Inv (execShli d a n s) := by
  unfold execShli
  repeat' first | assumption | (refine inv_foldl ?_ fun _ _ _ => ?_) | (simp (maxDischargeDepth := 30) [*]; done) | exact ⟨h.mem, h.lifecycle, h.tstat, h.phase⟩ | (simp +contextual (maxDischargeDepth := 30) [*, inv_foldl]; done) | dsimp only | (with_reducible first | apply State.modCore_inv | apply State.setCtx_inv | apply State.modCtx_inv | apply State.setMe_inv | apply State.modMe_inv | apply State.modProc_inv | apply State.modEntry_inv | apply State.setEntry_inv | apply State.send_inv | apply State.modLaunch_inv | apply State.setLaunch_inv) | split

@[simp] theorem execShri_inv (d : GReg) (a : GReg) (n : BitVec 6) {s : State} (h : s.Inv) : Res.Inv (execShri d a n s) := by
  unfold execShri
  repeat' first | assumption | (refine inv_foldl ?_ fun _ _ _ => ?_) | (simp (maxDischargeDepth := 30) [*]; done) | exact ⟨h.mem, h.lifecycle, h.tstat, h.phase⟩ | (simp +contextual (maxDischargeDepth := 30) [*, inv_foldl]; done) | dsimp only | (with_reducible first | apply State.modCore_inv | apply State.setCtx_inv | apply State.modCtx_inv | apply State.setMe_inv | apply State.modMe_inv | apply State.modProc_inv | apply State.modEntry_inv | apply State.setEntry_inv | apply State.send_inv | apply State.modLaunch_inv | apply State.setLaunch_inv) | split

@[simp] theorem execSrai_inv (d : GReg) (a : GReg) (n : BitVec 6) {s : State} (h : s.Inv) : Res.Inv (execSrai d a n s) := by
  unfold execSrai
  repeat' first | assumption | (refine inv_foldl ?_ fun _ _ _ => ?_) | (simp (maxDischargeDepth := 30) [*]; done) | exact ⟨h.mem, h.lifecycle, h.tstat, h.phase⟩ | (simp +contextual (maxDischargeDepth := 30) [*, inv_foldl]; done) | dsimp only | (with_reducible first | apply State.modCore_inv | apply State.setCtx_inv | apply State.modCtx_inv | apply State.setMe_inv | apply State.modMe_inv | apply State.modProc_inv | apply State.modEntry_inv | apply State.setEntry_inv | apply State.send_inv | apply State.modLaunch_inv | apply State.setLaunch_inv) | split

@[simp] theorem execCmpEq_inv (d : PReg) (a : GReg) (b : GReg) {s : State} (h : s.Inv) : Res.Inv (execCmpEq d a b s) := by
  unfold execCmpEq
  repeat' first | assumption | (refine inv_foldl ?_ fun _ _ _ => ?_) | (simp (maxDischargeDepth := 30) [*]; done) | exact ⟨h.mem, h.lifecycle, h.tstat, h.phase⟩ | (simp +contextual (maxDischargeDepth := 30) [*, inv_foldl]; done) | dsimp only | (with_reducible first | apply State.modCore_inv | apply State.setCtx_inv | apply State.modCtx_inv | apply State.setMe_inv | apply State.modMe_inv | apply State.modProc_inv | apply State.modEntry_inv | apply State.setEntry_inv | apply State.send_inv | apply State.modLaunch_inv | apply State.setLaunch_inv) | split

@[simp] theorem execCmpNe_inv (d : PReg) (a : GReg) (b : GReg) {s : State} (h : s.Inv) : Res.Inv (execCmpNe d a b s) := by
  unfold execCmpNe
  repeat' first | assumption | (refine inv_foldl ?_ fun _ _ _ => ?_) | (simp (maxDischargeDepth := 30) [*]; done) | exact ⟨h.mem, h.lifecycle, h.tstat, h.phase⟩ | (simp +contextual (maxDischargeDepth := 30) [*, inv_foldl]; done) | dsimp only | (with_reducible first | apply State.modCore_inv | apply State.setCtx_inv | apply State.modCtx_inv | apply State.setMe_inv | apply State.modMe_inv | apply State.modProc_inv | apply State.modEntry_inv | apply State.setEntry_inv | apply State.send_inv | apply State.modLaunch_inv | apply State.setLaunch_inv) | split

@[simp] theorem execCmpLt_inv (d : PReg) (a : GReg) (b : GReg) {s : State} (h : s.Inv) : Res.Inv (execCmpLt d a b s) := by
  unfold execCmpLt
  repeat' first | assumption | (refine inv_foldl ?_ fun _ _ _ => ?_) | (simp (maxDischargeDepth := 30) [*]; done) | exact ⟨h.mem, h.lifecycle, h.tstat, h.phase⟩ | (simp +contextual (maxDischargeDepth := 30) [*, inv_foldl]; done) | dsimp only | (with_reducible first | apply State.modCore_inv | apply State.setCtx_inv | apply State.modCtx_inv | apply State.setMe_inv | apply State.modMe_inv | apply State.modProc_inv | apply State.modEntry_inv | apply State.setEntry_inv | apply State.send_inv | apply State.modLaunch_inv | apply State.setLaunch_inv) | split

@[simp] theorem execCmpLe_inv (d : PReg) (a : GReg) (b : GReg) {s : State} (h : s.Inv) : Res.Inv (execCmpLe d a b s) := by
  unfold execCmpLe
  repeat' first | assumption | (refine inv_foldl ?_ fun _ _ _ => ?_) | (simp (maxDischargeDepth := 30) [*]; done) | exact ⟨h.mem, h.lifecycle, h.tstat, h.phase⟩ | (simp +contextual (maxDischargeDepth := 30) [*, inv_foldl]; done) | dsimp only | (with_reducible first | apply State.modCore_inv | apply State.setCtx_inv | apply State.modCtx_inv | apply State.setMe_inv | apply State.modMe_inv | apply State.modProc_inv | apply State.modEntry_inv | apply State.setEntry_inv | apply State.send_inv | apply State.modLaunch_inv | apply State.setLaunch_inv) | split

@[simp] theorem execCmpGt_inv (d : PReg) (a : GReg) (b : GReg) {s : State} (h : s.Inv) : Res.Inv (execCmpGt d a b s) := by
  unfold execCmpGt
  repeat' first | assumption | (refine inv_foldl ?_ fun _ _ _ => ?_) | (simp (maxDischargeDepth := 30) [*]; done) | exact ⟨h.mem, h.lifecycle, h.tstat, h.phase⟩ | (simp +contextual (maxDischargeDepth := 30) [*, inv_foldl]; done) | dsimp only | (with_reducible first | apply State.modCore_inv | apply State.setCtx_inv | apply State.modCtx_inv | apply State.setMe_inv | apply State.modMe_inv | apply State.modProc_inv | apply State.modEntry_inv | apply State.setEntry_inv | apply State.send_inv | apply State.modLaunch_inv | apply State.setLaunch_inv) | split

@[simp] theorem execCmpGe_inv (d : PReg) (a : GReg) (b : GReg) {s : State} (h : s.Inv) : Res.Inv (execCmpGe d a b s) := by
  unfold execCmpGe
  repeat' first | assumption | (refine inv_foldl ?_ fun _ _ _ => ?_) | (simp (maxDischargeDepth := 30) [*]; done) | exact ⟨h.mem, h.lifecycle, h.tstat, h.phase⟩ | (simp +contextual (maxDischargeDepth := 30) [*, inv_foldl]; done) | dsimp only | (with_reducible first | apply State.modCore_inv | apply State.setCtx_inv | apply State.modCtx_inv | apply State.setMe_inv | apply State.modMe_inv | apply State.modProc_inv | apply State.modEntry_inv | apply State.setEntry_inv | apply State.send_inv | apply State.modLaunch_inv | apply State.setLaunch_inv) | split

@[simp] theorem execCmpLtu_inv (d : PReg) (a : GReg) (b : GReg) {s : State} (h : s.Inv) : Res.Inv (execCmpLtu d a b s) := by
  unfold execCmpLtu
  repeat' first | assumption | (refine inv_foldl ?_ fun _ _ _ => ?_) | (simp (maxDischargeDepth := 30) [*]; done) | exact ⟨h.mem, h.lifecycle, h.tstat, h.phase⟩ | (simp +contextual (maxDischargeDepth := 30) [*, inv_foldl]; done) | dsimp only | (with_reducible first | apply State.modCore_inv | apply State.setCtx_inv | apply State.modCtx_inv | apply State.setMe_inv | apply State.modMe_inv | apply State.modProc_inv | apply State.modEntry_inv | apply State.setEntry_inv | apply State.send_inv | apply State.modLaunch_inv | apply State.setLaunch_inv) | split

@[simp] theorem execCmpLeu_inv (d : PReg) (a : GReg) (b : GReg) {s : State} (h : s.Inv) : Res.Inv (execCmpLeu d a b s) := by
  unfold execCmpLeu
  repeat' first | assumption | (refine inv_foldl ?_ fun _ _ _ => ?_) | (simp (maxDischargeDepth := 30) [*]; done) | exact ⟨h.mem, h.lifecycle, h.tstat, h.phase⟩ | (simp +contextual (maxDischargeDepth := 30) [*, inv_foldl]; done) | dsimp only | (with_reducible first | apply State.modCore_inv | apply State.setCtx_inv | apply State.modCtx_inv | apply State.setMe_inv | apply State.modMe_inv | apply State.modProc_inv | apply State.modEntry_inv | apply State.setEntry_inv | apply State.send_inv | apply State.modLaunch_inv | apply State.setLaunch_inv) | split

@[simp] theorem execCmpGtu_inv (d : PReg) (a : GReg) (b : GReg) {s : State} (h : s.Inv) : Res.Inv (execCmpGtu d a b s) := by
  unfold execCmpGtu
  repeat' first | assumption | (refine inv_foldl ?_ fun _ _ _ => ?_) | (simp (maxDischargeDepth := 30) [*]; done) | exact ⟨h.mem, h.lifecycle, h.tstat, h.phase⟩ | (simp +contextual (maxDischargeDepth := 30) [*, inv_foldl]; done) | dsimp only | (with_reducible first | apply State.modCore_inv | apply State.setCtx_inv | apply State.modCtx_inv | apply State.setMe_inv | apply State.modMe_inv | apply State.modProc_inv | apply State.modEntry_inv | apply State.setEntry_inv | apply State.send_inv | apply State.modLaunch_inv | apply State.setLaunch_inv) | split

@[simp] theorem execCmpGeu_inv (d : PReg) (a : GReg) (b : GReg) {s : State} (h : s.Inv) : Res.Inv (execCmpGeu d a b s) := by
  unfold execCmpGeu
  repeat' first | assumption | (refine inv_foldl ?_ fun _ _ _ => ?_) | (simp (maxDischargeDepth := 30) [*]; done) | exact ⟨h.mem, h.lifecycle, h.tstat, h.phase⟩ | (simp +contextual (maxDischargeDepth := 30) [*, inv_foldl]; done) | dsimp only | (with_reducible first | apply State.modCore_inv | apply State.setCtx_inv | apply State.modCtx_inv | apply State.setMe_inv | apply State.modMe_inv | apply State.modProc_inv | apply State.modEntry_inv | apply State.setEntry_inv | apply State.send_inv | apply State.modLaunch_inv | apply State.setLaunch_inv) | split

@[simp] theorem execCmpiEq_inv (d : PReg) (a : GReg) (i : BitVec 16) {s : State} (h : s.Inv) : Res.Inv (execCmpiEq d a i s) := by
  unfold execCmpiEq
  repeat' first | assumption | (refine inv_foldl ?_ fun _ _ _ => ?_) | (simp (maxDischargeDepth := 30) [*]; done) | exact ⟨h.mem, h.lifecycle, h.tstat, h.phase⟩ | (simp +contextual (maxDischargeDepth := 30) [*, inv_foldl]; done) | dsimp only | (with_reducible first | apply State.modCore_inv | apply State.setCtx_inv | apply State.modCtx_inv | apply State.setMe_inv | apply State.modMe_inv | apply State.modProc_inv | apply State.modEntry_inv | apply State.setEntry_inv | apply State.send_inv | apply State.modLaunch_inv | apply State.setLaunch_inv) | split

@[simp] theorem execCmpiLt_inv (d : PReg) (a : GReg) (i : BitVec 16) {s : State} (h : s.Inv) : Res.Inv (execCmpiLt d a i s) := by
  unfold execCmpiLt
  repeat' first | assumption | (refine inv_foldl ?_ fun _ _ _ => ?_) | (simp (maxDischargeDepth := 30) [*]; done) | exact ⟨h.mem, h.lifecycle, h.tstat, h.phase⟩ | (simp +contextual (maxDischargeDepth := 30) [*, inv_foldl]; done) | dsimp only | (with_reducible first | apply State.modCore_inv | apply State.setCtx_inv | apply State.modCtx_inv | apply State.setMe_inv | apply State.modMe_inv | apply State.modProc_inv | apply State.modEntry_inv | apply State.setEntry_inv | apply State.send_inv | apply State.modLaunch_inv | apply State.setLaunch_inv) | split

@[simp] theorem execCmpiLtu_inv (d : PReg) (a : GReg) (i : BitVec 16) {s : State} (h : s.Inv) : Res.Inv (execCmpiLtu d a i s) := by
  unfold execCmpiLtu
  repeat' first | assumption | (refine inv_foldl ?_ fun _ _ _ => ?_) | (simp (maxDischargeDepth := 30) [*]; done) | exact ⟨h.mem, h.lifecycle, h.tstat, h.phase⟩ | (simp +contextual (maxDischargeDepth := 30) [*, inv_foldl]; done) | dsimp only | (with_reducible first | apply State.modCore_inv | apply State.setCtx_inv | apply State.modCtx_inv | apply State.setMe_inv | apply State.modMe_inv | apply State.modProc_inv | apply State.modEntry_inv | apply State.setEntry_inv | apply State.send_inv | apply State.modLaunch_inv | apply State.setLaunch_inv) | split

@[simp] theorem execPand_inv (d : PReg) (a : PReg) (b : PReg) {s : State} (h : s.Inv) : Res.Inv (execPand d a b s) := by
  unfold execPand
  repeat' first | assumption | (refine inv_foldl ?_ fun _ _ _ => ?_) | (simp (maxDischargeDepth := 30) [*]; done) | exact ⟨h.mem, h.lifecycle, h.tstat, h.phase⟩ | (simp +contextual (maxDischargeDepth := 30) [*, inv_foldl]; done) | dsimp only | (with_reducible first | apply State.modCore_inv | apply State.setCtx_inv | apply State.modCtx_inv | apply State.setMe_inv | apply State.modMe_inv | apply State.modProc_inv | apply State.modEntry_inv | apply State.setEntry_inv | apply State.send_inv | apply State.modLaunch_inv | apply State.setLaunch_inv) | split

@[simp] theorem execPor_inv (d : PReg) (a : PReg) (b : PReg) {s : State} (h : s.Inv) : Res.Inv (execPor d a b s) := by
  unfold execPor
  repeat' first | assumption | (refine inv_foldl ?_ fun _ _ _ => ?_) | (simp (maxDischargeDepth := 30) [*]; done) | exact ⟨h.mem, h.lifecycle, h.tstat, h.phase⟩ | (simp +contextual (maxDischargeDepth := 30) [*, inv_foldl]; done) | dsimp only | (with_reducible first | apply State.modCore_inv | apply State.setCtx_inv | apply State.modCtx_inv | apply State.setMe_inv | apply State.modMe_inv | apply State.modProc_inv | apply State.modEntry_inv | apply State.setEntry_inv | apply State.send_inv | apply State.modLaunch_inv | apply State.setLaunch_inv) | split

@[simp] theorem execPxor_inv (d : PReg) (a : PReg) (b : PReg) {s : State} (h : s.Inv) : Res.Inv (execPxor d a b s) := by
  unfold execPxor
  repeat' first | assumption | (refine inv_foldl ?_ fun _ _ _ => ?_) | (simp (maxDischargeDepth := 30) [*]; done) | exact ⟨h.mem, h.lifecycle, h.tstat, h.phase⟩ | (simp +contextual (maxDischargeDepth := 30) [*, inv_foldl]; done) | dsimp only | (with_reducible first | apply State.modCore_inv | apply State.setCtx_inv | apply State.modCtx_inv | apply State.setMe_inv | apply State.modMe_inv | apply State.modProc_inv | apply State.modEntry_inv | apply State.setEntry_inv | apply State.send_inv | apply State.modLaunch_inv | apply State.setLaunch_inv) | split

@[simp] theorem execPandn_inv (d : PReg) (a : PReg) (b : PReg) {s : State} (h : s.Inv) : Res.Inv (execPandn d a b s) := by
  unfold execPandn
  repeat' first | assumption | (refine inv_foldl ?_ fun _ _ _ => ?_) | (simp (maxDischargeDepth := 30) [*]; done) | exact ⟨h.mem, h.lifecycle, h.tstat, h.phase⟩ | (simp +contextual (maxDischargeDepth := 30) [*, inv_foldl]; done) | dsimp only | (with_reducible first | apply State.modCore_inv | apply State.setCtx_inv | apply State.modCtx_inv | apply State.setMe_inv | apply State.modMe_inv | apply State.modProc_inv | apply State.modEntry_inv | apply State.setEntry_inv | apply State.send_inv | apply State.modLaunch_inv | apply State.setLaunch_inv) | split

@[simp] theorem execPnot_inv (d : PReg) (a : PReg) {s : State} (h : s.Inv) : Res.Inv (execPnot d a s) := by
  unfold execPnot
  repeat' first | assumption | (refine inv_foldl ?_ fun _ _ _ => ?_) | (simp (maxDischargeDepth := 30) [*]; done) | exact ⟨h.mem, h.lifecycle, h.tstat, h.phase⟩ | (simp +contextual (maxDischargeDepth := 30) [*, inv_foldl]; done) | dsimp only | (with_reducible first | apply State.modCore_inv | apply State.setCtx_inv | apply State.modCtx_inv | apply State.setMe_inv | apply State.modMe_inv | apply State.modProc_inv | apply State.modEntry_inv | apply State.setEntry_inv | apply State.send_inv | apply State.modLaunch_inv | apply State.setLaunch_inv) | split

@[simp] theorem execPmov_inv (d : PReg) (a : PReg) {s : State} (h : s.Inv) : Res.Inv (execPmov d a s) := by
  unfold execPmov
  repeat' first | assumption | (refine inv_foldl ?_ fun _ _ _ => ?_) | (simp (maxDischargeDepth := 30) [*]; done) | exact ⟨h.mem, h.lifecycle, h.tstat, h.phase⟩ | (simp +contextual (maxDischargeDepth := 30) [*, inv_foldl]; done) | dsimp only | (with_reducible first | apply State.modCore_inv | apply State.setCtx_inv | apply State.modCtx_inv | apply State.setMe_inv | apply State.modMe_inv | apply State.modProc_inv | apply State.modEntry_inv | apply State.setEntry_inv | apply State.send_inv | apply State.modLaunch_inv | apply State.setLaunch_inv) | split

@[simp] theorem execPset_inv (d : PReg) {s : State} (h : s.Inv) : Res.Inv (execPset d s) := by
  unfold execPset
  repeat' first | assumption | (refine inv_foldl ?_ fun _ _ _ => ?_) | (simp (maxDischargeDepth := 30) [*]; done) | exact ⟨h.mem, h.lifecycle, h.tstat, h.phase⟩ | (simp +contextual (maxDischargeDepth := 30) [*, inv_foldl]; done) | dsimp only | (with_reducible first | apply State.modCore_inv | apply State.setCtx_inv | apply State.modCtx_inv | apply State.setMe_inv | apply State.modMe_inv | apply State.modProc_inv | apply State.modEntry_inv | apply State.setEntry_inv | apply State.send_inv | apply State.modLaunch_inv | apply State.setLaunch_inv) | split

@[simp] theorem execPclr_inv (d : PReg) {s : State} (h : s.Inv) : Res.Inv (execPclr d s) := by
  unfold execPclr
  repeat' first | assumption | (refine inv_foldl ?_ fun _ _ _ => ?_) | (simp (maxDischargeDepth := 30) [*]; done) | exact ⟨h.mem, h.lifecycle, h.tstat, h.phase⟩ | (simp +contextual (maxDischargeDepth := 30) [*, inv_foldl]; done) | dsimp only | (with_reducible first | apply State.modCore_inv | apply State.setCtx_inv | apply State.modCtx_inv | apply State.setMe_inv | apply State.modMe_inv | apply State.modProc_inv | apply State.modEntry_inv | apply State.setEntry_inv | apply State.send_inv | apply State.modLaunch_inv | apply State.setLaunch_inv) | split

@[simp] theorem execPrd_inv (d : GReg) {s : State} (h : s.Inv) : Res.Inv (execPrd d s) := by
  unfold execPrd
  repeat' first | assumption | (refine inv_foldl ?_ fun _ _ _ => ?_) | (simp (maxDischargeDepth := 30) [*]; done) | exact ⟨h.mem, h.lifecycle, h.tstat, h.phase⟩ | (simp +contextual (maxDischargeDepth := 30) [*, inv_foldl]; done) | dsimp only | (with_reducible first | apply State.modCore_inv | apply State.setCtx_inv | apply State.modCtx_inv | apply State.setMe_inv | apply State.modMe_inv | apply State.modProc_inv | apply State.modEntry_inv | apply State.setEntry_inv | apply State.send_inv | apply State.modLaunch_inv | apply State.setLaunch_inv) | split

@[simp] theorem execPwr_inv (a : GReg) {s : State} (h : s.Inv) : Res.Inv (execPwr a s) := by
  unfold execPwr
  repeat' first | assumption | (refine inv_foldl ?_ fun _ _ _ => ?_) | (simp (maxDischargeDepth := 30) [*]; done) | exact ⟨h.mem, h.lifecycle, h.tstat, h.phase⟩ | (simp +contextual (maxDischargeDepth := 30) [*, inv_foldl]; done) | dsimp only | (with_reducible first | apply State.modCore_inv | apply State.setCtx_inv | apply State.modCtx_inv | apply State.setMe_inv | apply State.modMe_inv | apply State.modProc_inv | apply State.modEntry_inv | apply State.setEntry_inv | apply State.send_inv | apply State.modLaunch_inv | apply State.setLaunch_inv) | split

@[simp] theorem State.branch_inv {s : State} (c : Bool) (o : BitVec 16) (h : s.Inv) : Res.Inv (State.branch s c o) := by
  unfold State.branch
  repeat' first | assumption | (refine inv_foldl ?_ fun _ _ _ => ?_) | (simp (maxDischargeDepth := 30) [*]; done) | exact ⟨h.mem, h.lifecycle, h.tstat, h.phase⟩ | (simp +contextual (maxDischargeDepth := 30) [*, inv_foldl]; done) | dsimp only | (with_reducible first | apply State.modCore_inv | apply State.setCtx_inv | apply State.modCtx_inv | apply State.setMe_inv | apply State.modMe_inv | apply State.modProc_inv | apply State.modEntry_inv | apply State.setEntry_inv | apply State.send_inv | apply State.modLaunch_inv | apply State.setLaunch_inv) | split

@[simp] theorem execBt_inv (a : PReg) (o : BitVec 16) {s : State} (h : s.Inv) : Res.Inv (execBt a o s) := by
  unfold execBt
  repeat' first | assumption | (refine inv_foldl ?_ fun _ _ _ => ?_) | (simp (maxDischargeDepth := 30) [*]; done) | exact ⟨h.mem, h.lifecycle, h.tstat, h.phase⟩ | (simp +contextual (maxDischargeDepth := 30) [*, inv_foldl]; done) | dsimp only | (with_reducible first | apply State.modCore_inv | apply State.setCtx_inv | apply State.modCtx_inv | apply State.setMe_inv | apply State.modMe_inv | apply State.modProc_inv | apply State.modEntry_inv | apply State.setEntry_inv | apply State.send_inv | apply State.modLaunch_inv | apply State.setLaunch_inv) | split

@[simp] theorem execBf_inv (a : PReg) (o : BitVec 16) {s : State} (h : s.Inv) : Res.Inv (execBf a o s) := by
  unfold execBf
  repeat' first | assumption | (refine inv_foldl ?_ fun _ _ _ => ?_) | (simp (maxDischargeDepth := 30) [*]; done) | exact ⟨h.mem, h.lifecycle, h.tstat, h.phase⟩ | (simp +contextual (maxDischargeDepth := 30) [*, inv_foldl]; done) | dsimp only | (with_reducible first | apply State.modCore_inv | apply State.setCtx_inv | apply State.modCtx_inv | apply State.setMe_inv | apply State.modMe_inv | apply State.modProc_inv | apply State.modEntry_inv | apply State.setEntry_inv | apply State.send_inv | apply State.modLaunch_inv | apply State.setLaunch_inv) | split

@[simp] theorem execBz_inv (a : GReg) (o : BitVec 16) {s : State} (h : s.Inv) : Res.Inv (execBz a o s) := by
  unfold execBz
  repeat' first | assumption | (refine inv_foldl ?_ fun _ _ _ => ?_) | (simp (maxDischargeDepth := 30) [*]; done) | exact ⟨h.mem, h.lifecycle, h.tstat, h.phase⟩ | (simp +contextual (maxDischargeDepth := 30) [*, inv_foldl]; done) | dsimp only | (with_reducible first | apply State.modCore_inv | apply State.setCtx_inv | apply State.modCtx_inv | apply State.setMe_inv | apply State.modMe_inv | apply State.modProc_inv | apply State.modEntry_inv | apply State.setEntry_inv | apply State.send_inv | apply State.modLaunch_inv | apply State.setLaunch_inv) | split

@[simp] theorem execBnz_inv (a : GReg) (o : BitVec 16) {s : State} (h : s.Inv) : Res.Inv (execBnz a o s) := by
  unfold execBnz
  repeat' first | assumption | (refine inv_foldl ?_ fun _ _ _ => ?_) | (simp (maxDischargeDepth := 30) [*]; done) | exact ⟨h.mem, h.lifecycle, h.tstat, h.phase⟩ | (simp +contextual (maxDischargeDepth := 30) [*, inv_foldl]; done) | dsimp only | (with_reducible first | apply State.modCore_inv | apply State.setCtx_inv | apply State.modCtx_inv | apply State.setMe_inv | apply State.modMe_inv | apply State.modProc_inv | apply State.modEntry_inv | apply State.setEntry_inv | apply State.send_inv | apply State.modLaunch_inv | apply State.setLaunch_inv) | split

@[simp] theorem execJ_inv (o : BitVec 26) {s : State} (h : s.Inv) : Res.Inv (execJ o s) := by
  unfold execJ
  repeat' first | assumption | (refine inv_foldl ?_ fun _ _ _ => ?_) | (simp (maxDischargeDepth := 30) [*]; done) | exact ⟨h.mem, h.lifecycle, h.tstat, h.phase⟩ | (simp +contextual (maxDischargeDepth := 30) [*, inv_foldl]; done) | dsimp only | (with_reducible first | apply State.modCore_inv | apply State.setCtx_inv | apply State.modCtx_inv | apply State.setMe_inv | apply State.modMe_inv | apply State.modProc_inv | apply State.modEntry_inv | apply State.setEntry_inv | apply State.send_inv | apply State.modLaunch_inv | apply State.setLaunch_inv) | split

@[simp] theorem execJal_inv (o : BitVec 26) {s : State} (h : s.Inv) : Res.Inv (execJal o s) := by
  unfold execJal
  repeat' first | assumption | (refine inv_foldl ?_ fun _ _ _ => ?_) | (simp (maxDischargeDepth := 30) [*]; done) | exact ⟨h.mem, h.lifecycle, h.tstat, h.phase⟩ | (simp +contextual (maxDischargeDepth := 30) [*, inv_foldl]; done) | dsimp only | (with_reducible first | apply State.modCore_inv | apply State.setCtx_inv | apply State.modCtx_inv | apply State.setMe_inv | apply State.modMe_inv | apply State.modProc_inv | apply State.modEntry_inv | apply State.setEntry_inv | apply State.send_inv | apply State.modLaunch_inv | apply State.setLaunch_inv) | split

@[simp] theorem execJr_inv (a : GReg) {s : State} (h : s.Inv) : Res.Inv (execJr a s) := by
  unfold execJr
  repeat' first | assumption | (refine inv_foldl ?_ fun _ _ _ => ?_) | (simp (maxDischargeDepth := 30) [*]; done) | exact ⟨h.mem, h.lifecycle, h.tstat, h.phase⟩ | (simp +contextual (maxDischargeDepth := 30) [*, inv_foldl]; done) | dsimp only | (with_reducible first | apply State.modCore_inv | apply State.setCtx_inv | apply State.modCtx_inv | apply State.setMe_inv | apply State.modMe_inv | apply State.modProc_inv | apply State.modEntry_inv | apply State.setEntry_inv | apply State.send_inv | apply State.modLaunch_inv | apply State.setLaunch_inv) | split

@[simp] theorem execJalr_inv (d : GReg) (a : GReg) {s : State} (h : s.Inv) : Res.Inv (execJalr d a s) := by
  unfold execJalr
  repeat' first | assumption | (refine inv_foldl ?_ fun _ _ _ => ?_) | (simp (maxDischargeDepth := 30) [*]; done) | exact ⟨h.mem, h.lifecycle, h.tstat, h.phase⟩ | (simp +contextual (maxDischargeDepth := 30) [*, inv_foldl]; done) | dsimp only | (with_reducible first | apply State.modCore_inv | apply State.setCtx_inv | apply State.modCtx_inv | apply State.setMe_inv | apply State.modMe_inv | apply State.modProc_inv | apply State.modEntry_inv | apply State.setEntry_inv | apply State.send_inv | apply State.modLaunch_inv | apply State.setLaunch_inv) | split

theorem State.journal_inv {s : State} (tid line : Nat) (h : s.Inv) : OptInv (s.journal tid line) := by
  intro t e
  unfold State.journal at e
  dsimp only at e
  split at e
  · simp only [Option.some.injEq] at e; subst e; exact h
  · split at e
    · simp at e
    · simp only [Option.some.injEq] at e; subst e; simp (maxDischargeDepth := 30) [h]

theorem State.journalAll_inv {s : State} (tid : Nat) (ls : List Nat) (h : s.Inv) : OptInv (s.journalAll tid ls) := by
  induction ls generalizing s with
  | nil => intro t e; simp only [State.journalAll, Option.some.injEq] at e; exact e ▸ h
  | cons l ls ih =>
    intro t e
    simp only [State.journalAll, Option.bind_eq_some_iff] at e
    obtain ⟨s', e1, e2⟩ := e
    exact ih (State.journal_inv tid l h s' e1) t e2

@[simp] theorem State.issue_inv {s : State} (i : Instr) (kind : AccessKind) (parts : List Part) (relaxed : Bool) (h : s.Inv) : Res.Inv (State.issue s i kind parts relaxed) := by
  unfold State.issue
  repeat' first | assumption | (refine inv_foldl ?_ fun _ _ _ => ?_) | (simp (maxDischargeDepth := 30) [*]; done) | exact ⟨h.mem, h.lifecycle, h.tstat, h.phase⟩ | (simp +contextual (maxDischargeDepth := 30) [*, inv_foldl]; done) | dsimp only | (with_reducible first | apply State.modCore_inv | apply State.setCtx_inv | apply State.modCtx_inv | apply State.setMe_inv | apply State.modMe_inv | apply State.modProc_inv | apply State.modEntry_inv | apply State.setEntry_inv | apply State.send_inv | apply State.modLaunch_inv | apply State.setLaunch_inv) | split

@[simp] theorem State.load_inv {s : State} (i : Instr) (kind : AccessKind) (n : ℕ) (ea : Word) (h : s.Inv) : Res.Inv (State.load s i kind n ea) := by
  unfold State.load
  repeat' first | assumption | (refine inv_foldl ?_ fun _ _ _ => ?_) | (simp (maxDischargeDepth := 30) [*]; done) | exact ⟨h.mem, h.lifecycle, h.tstat, h.phase⟩ | (simp +contextual (maxDischargeDepth := 30) [*, inv_foldl]; done) | dsimp only | (with_reducible first | apply State.modCore_inv | apply State.setCtx_inv | apply State.modCtx_inv | apply State.setMe_inv | apply State.modMe_inv | apply State.modProc_inv | apply State.modEntry_inv | apply State.setEntry_inv | apply State.send_inv | apply State.modLaunch_inv | apply State.setLaunch_inv) | split

@[simp] theorem State.store_inv {s : State} (i : Instr) (n : ℕ) (data : ℕ) (ea : Word) (h : s.Inv) : Res.Inv (State.store s i n data ea) := by
  unfold State.store
  repeat' first | assumption | (refine inv_foldl ?_ fun _ _ _ => ?_) | (simp (maxDischargeDepth := 30) [*]; done) | (have h2 := State.journalAll_inv _ _ h _ ‹_›; simp (maxDischargeDepth := 30) [*]; done) | exact ⟨h.mem, h.lifecycle, h.tstat, h.phase⟩ | (simp +contextual (maxDischargeDepth := 30) [*, inv_foldl]; done) | dsimp only | (with_reducible first | apply State.modCore_inv | apply State.setCtx_inv | apply State.modCtx_inv | apply State.setMe_inv | apply State.modMe_inv | apply State.modProc_inv | apply State.modEntry_inv | apply State.setEntry_inv | apply State.send_inv | apply State.modLaunch_inv | apply State.setLaunch_inv) | split

@[simp] theorem execLdB_inv (d : GReg) (a : GReg) (i : BitVec 16) {s : State} (h : s.Inv) : Res.Inv (execLdB d a i s) := by
  unfold execLdB
  repeat' first | assumption | (refine inv_foldl ?_ fun _ _ _ => ?_) | (simp (maxDischargeDepth := 30) [*]; done) | exact ⟨h.mem, h.lifecycle, h.tstat, h.phase⟩ | (simp +contextual (maxDischargeDepth := 30) [*, inv_foldl]; done) | dsimp only | (with_reducible first | apply State.modCore_inv | apply State.setCtx_inv | apply State.modCtx_inv | apply State.setMe_inv | apply State.modMe_inv | apply State.modProc_inv | apply State.modEntry_inv | apply State.setEntry_inv | apply State.send_inv | apply State.modLaunch_inv | apply State.setLaunch_inv) | split

@[simp] theorem execLdBu_inv (d : GReg) (a : GReg) (i : BitVec 16) {s : State} (h : s.Inv) : Res.Inv (execLdBu d a i s) := by
  unfold execLdBu
  repeat' first | assumption | (refine inv_foldl ?_ fun _ _ _ => ?_) | (simp (maxDischargeDepth := 30) [*]; done) | exact ⟨h.mem, h.lifecycle, h.tstat, h.phase⟩ | (simp +contextual (maxDischargeDepth := 30) [*, inv_foldl]; done) | dsimp only | (with_reducible first | apply State.modCore_inv | apply State.setCtx_inv | apply State.modCtx_inv | apply State.setMe_inv | apply State.modMe_inv | apply State.modProc_inv | apply State.modEntry_inv | apply State.setEntry_inv | apply State.send_inv | apply State.modLaunch_inv | apply State.setLaunch_inv) | split

@[simp] theorem execLdH_inv (d : GReg) (a : GReg) (i : BitVec 16) {s : State} (h : s.Inv) : Res.Inv (execLdH d a i s) := by
  unfold execLdH
  repeat' first | assumption | (refine inv_foldl ?_ fun _ _ _ => ?_) | (simp (maxDischargeDepth := 30) [*]; done) | exact ⟨h.mem, h.lifecycle, h.tstat, h.phase⟩ | (simp +contextual (maxDischargeDepth := 30) [*, inv_foldl]; done) | dsimp only | (with_reducible first | apply State.modCore_inv | apply State.setCtx_inv | apply State.modCtx_inv | apply State.setMe_inv | apply State.modMe_inv | apply State.modProc_inv | apply State.modEntry_inv | apply State.setEntry_inv | apply State.send_inv | apply State.modLaunch_inv | apply State.setLaunch_inv) | split

@[simp] theorem execLdHu_inv (d : GReg) (a : GReg) (i : BitVec 16) {s : State} (h : s.Inv) : Res.Inv (execLdHu d a i s) := by
  unfold execLdHu
  repeat' first | assumption | (refine inv_foldl ?_ fun _ _ _ => ?_) | (simp (maxDischargeDepth := 30) [*]; done) | exact ⟨h.mem, h.lifecycle, h.tstat, h.phase⟩ | (simp +contextual (maxDischargeDepth := 30) [*, inv_foldl]; done) | dsimp only | (with_reducible first | apply State.modCore_inv | apply State.setCtx_inv | apply State.modCtx_inv | apply State.setMe_inv | apply State.modMe_inv | apply State.modProc_inv | apply State.modEntry_inv | apply State.setEntry_inv | apply State.send_inv | apply State.modLaunch_inv | apply State.setLaunch_inv) | split

@[simp] theorem execLdW_inv (d : GReg) (a : GReg) (i : BitVec 16) {s : State} (h : s.Inv) : Res.Inv (execLdW d a i s) := by
  unfold execLdW
  repeat' first | assumption | (refine inv_foldl ?_ fun _ _ _ => ?_) | (simp (maxDischargeDepth := 30) [*]; done) | exact ⟨h.mem, h.lifecycle, h.tstat, h.phase⟩ | (simp +contextual (maxDischargeDepth := 30) [*, inv_foldl]; done) | dsimp only | (with_reducible first | apply State.modCore_inv | apply State.setCtx_inv | apply State.modCtx_inv | apply State.setMe_inv | apply State.modMe_inv | apply State.modProc_inv | apply State.modEntry_inv | apply State.setEntry_inv | apply State.send_inv | apply State.modLaunch_inv | apply State.setLaunch_inv) | split

@[simp] theorem execLdWu_inv (d : GReg) (a : GReg) (i : BitVec 16) {s : State} (h : s.Inv) : Res.Inv (execLdWu d a i s) := by
  unfold execLdWu
  repeat' first | assumption | (refine inv_foldl ?_ fun _ _ _ => ?_) | (simp (maxDischargeDepth := 30) [*]; done) | exact ⟨h.mem, h.lifecycle, h.tstat, h.phase⟩ | (simp +contextual (maxDischargeDepth := 30) [*, inv_foldl]; done) | dsimp only | (with_reducible first | apply State.modCore_inv | apply State.setCtx_inv | apply State.modCtx_inv | apply State.setMe_inv | apply State.modMe_inv | apply State.modProc_inv | apply State.modEntry_inv | apply State.setEntry_inv | apply State.send_inv | apply State.modLaunch_inv | apply State.setLaunch_inv) | split

@[simp] theorem execLdD_inv (d : GReg) (a : GReg) (i : BitVec 16) {s : State} (h : s.Inv) : Res.Inv (execLdD d a i s) := by
  unfold execLdD
  repeat' first | assumption | (refine inv_foldl ?_ fun _ _ _ => ?_) | (simp (maxDischargeDepth := 30) [*]; done) | exact ⟨h.mem, h.lifecycle, h.tstat, h.phase⟩ | (simp +contextual (maxDischargeDepth := 30) [*, inv_foldl]; done) | dsimp only | (with_reducible first | apply State.modCore_inv | apply State.setCtx_inv | apply State.modCtx_inv | apply State.setMe_inv | apply State.modMe_inv | apply State.modProc_inv | apply State.modEntry_inv | apply State.setEntry_inv | apply State.send_inv | apply State.modLaunch_inv | apply State.setLaunch_inv) | split

@[simp] theorem execLdQ_inv (d : GReg) (a : GReg) (i : BitVec 16) {s : State} (h : s.Inv) : Res.Inv (execLdQ d a i s) := by
  unfold execLdQ
  repeat' first | assumption | (refine inv_foldl ?_ fun _ _ _ => ?_) | (simp (maxDischargeDepth := 30) [*]; done) | exact ⟨h.mem, h.lifecycle, h.tstat, h.phase⟩ | (simp +contextual (maxDischargeDepth := 30) [*, inv_foldl]; done) | dsimp only | (with_reducible first | apply State.modCore_inv | apply State.setCtx_inv | apply State.modCtx_inv | apply State.setMe_inv | apply State.modMe_inv | apply State.modProc_inv | apply State.modEntry_inv | apply State.setEntry_inv | apply State.send_inv | apply State.modLaunch_inv | apply State.setLaunch_inv) | split

@[simp] theorem execStB_inv (d : GReg) (a : GReg) (i : BitVec 16) {s : State} (h : s.Inv) : Res.Inv (execStB d a i s) := by
  unfold execStB
  repeat' first | assumption | (refine inv_foldl ?_ fun _ _ _ => ?_) | (simp (maxDischargeDepth := 30) [*]; done) | exact ⟨h.mem, h.lifecycle, h.tstat, h.phase⟩ | (simp +contextual (maxDischargeDepth := 30) [*, inv_foldl]; done) | dsimp only | (with_reducible first | apply State.modCore_inv | apply State.setCtx_inv | apply State.modCtx_inv | apply State.setMe_inv | apply State.modMe_inv | apply State.modProc_inv | apply State.modEntry_inv | apply State.setEntry_inv | apply State.send_inv | apply State.modLaunch_inv | apply State.setLaunch_inv) | split

@[simp] theorem execStH_inv (d : GReg) (a : GReg) (i : BitVec 16) {s : State} (h : s.Inv) : Res.Inv (execStH d a i s) := by
  unfold execStH
  repeat' first | assumption | (refine inv_foldl ?_ fun _ _ _ => ?_) | (simp (maxDischargeDepth := 30) [*]; done) | exact ⟨h.mem, h.lifecycle, h.tstat, h.phase⟩ | (simp +contextual (maxDischargeDepth := 30) [*, inv_foldl]; done) | dsimp only | (with_reducible first | apply State.modCore_inv | apply State.setCtx_inv | apply State.modCtx_inv | apply State.setMe_inv | apply State.modMe_inv | apply State.modProc_inv | apply State.modEntry_inv | apply State.setEntry_inv | apply State.send_inv | apply State.modLaunch_inv | apply State.setLaunch_inv) | split

@[simp] theorem execStW_inv (d : GReg) (a : GReg) (i : BitVec 16) {s : State} (h : s.Inv) : Res.Inv (execStW d a i s) := by
  unfold execStW
  repeat' first | assumption | (refine inv_foldl ?_ fun _ _ _ => ?_) | (simp (maxDischargeDepth := 30) [*]; done) | exact ⟨h.mem, h.lifecycle, h.tstat, h.phase⟩ | (simp +contextual (maxDischargeDepth := 30) [*, inv_foldl]; done) | dsimp only | (with_reducible first | apply State.modCore_inv | apply State.setCtx_inv | apply State.modCtx_inv | apply State.setMe_inv | apply State.modMe_inv | apply State.modProc_inv | apply State.modEntry_inv | apply State.setEntry_inv | apply State.send_inv | apply State.modLaunch_inv | apply State.setLaunch_inv) | split

@[simp] theorem execStD_inv (d : GReg) (a : GReg) (i : BitVec 16) {s : State} (h : s.Inv) : Res.Inv (execStD d a i s) := by
  unfold execStD
  repeat' first | assumption | (refine inv_foldl ?_ fun _ _ _ => ?_) | (simp (maxDischargeDepth := 30) [*]; done) | exact ⟨h.mem, h.lifecycle, h.tstat, h.phase⟩ | (simp +contextual (maxDischargeDepth := 30) [*, inv_foldl]; done) | dsimp only | (with_reducible first | apply State.modCore_inv | apply State.setCtx_inv | apply State.modCtx_inv | apply State.setMe_inv | apply State.modMe_inv | apply State.modProc_inv | apply State.modEntry_inv | apply State.setEntry_inv | apply State.send_inv | apply State.modLaunch_inv | apply State.setLaunch_inv) | split

@[simp] theorem execStQ_inv (d : GReg) (a : GReg) (i : BitVec 16) {s : State} (h : s.Inv) : Res.Inv (execStQ d a i s) := by
  unfold execStQ
  repeat' first | assumption | (refine inv_foldl ?_ fun _ _ _ => ?_) | (simp (maxDischargeDepth := 30) [*]; done) | exact ⟨h.mem, h.lifecycle, h.tstat, h.phase⟩ | (simp +contextual (maxDischargeDepth := 30) [*, inv_foldl]; done) | dsimp only | (with_reducible first | apply State.modCore_inv | apply State.setCtx_inv | apply State.modCtx_inv | apply State.setMe_inv | apply State.modMe_inv | apply State.modProc_inv | apply State.modEntry_inv | apply State.setEntry_inv | apply State.send_inv | apply State.modLaunch_inv | apply State.setLaunch_inv) | split

@[simp] theorem State.subByte_inv {s : State} (i : Instr) (q : ℕ) (k : ℕ) (d : GReg) (a : GReg) (h : s.Inv) : Res.Inv (State.subByte s i q k d a) := by
  unfold State.subByte
  repeat' first | assumption | (refine inv_foldl ?_ fun _ _ _ => ?_) | (simp (maxDischargeDepth := 30) [*]; done) | (have h2 := State.journalAll_inv _ _ h _ ‹_›; simp (maxDischargeDepth := 30) [*]; done) | exact ⟨h.mem, h.lifecycle, h.tstat, h.phase⟩ | (simp +contextual (maxDischargeDepth := 30) [*, inv_foldl]; done) | dsimp only | (with_reducible first | apply State.modCore_inv | apply State.setCtx_inv | apply State.modCtx_inv | apply State.setMe_inv | apply State.modMe_inv | apply State.modProc_inv | apply State.modEntry_inv | apply State.setEntry_inv | apply State.send_inv | apply State.modLaunch_inv | apply State.setLaunch_inv) | split

@[simp] theorem execStX4_inv (d : GReg) (a : GReg) (q : Bool) {s : State} (h : s.Inv) : Res.Inv (execStX4 d a q s) := by
  unfold execStX4
  repeat' first | assumption | (refine inv_foldl ?_ fun _ _ _ => ?_) | (simp (maxDischargeDepth := 30) [*]; done) | exact ⟨h.mem, h.lifecycle, h.tstat, h.phase⟩ | (simp +contextual (maxDischargeDepth := 30) [*, inv_foldl]; done) | dsimp only | (with_reducible first | apply State.modCore_inv | apply State.setCtx_inv | apply State.modCtx_inv | apply State.setMe_inv | apply State.modMe_inv | apply State.modProc_inv | apply State.modEntry_inv | apply State.setEntry_inv | apply State.send_inv | apply State.modLaunch_inv | apply State.setLaunch_inv) | split

@[simp] theorem execStX6_inv (d : GReg) (a : GReg) (q : Fin 8) {s : State} (h : s.Inv) : Res.Inv (execStX6 d a q s) := by
  unfold execStX6
  repeat' first | assumption | (refine inv_foldl ?_ fun _ _ _ => ?_) | (simp (maxDischargeDepth := 30) [*]; done) | exact ⟨h.mem, h.lifecycle, h.tstat, h.phase⟩ | (simp +contextual (maxDischargeDepth := 30) [*, inv_foldl]; done) | dsimp only | (with_reducible first | apply State.modCore_inv | apply State.setCtx_inv | apply State.modCtx_inv | apply State.setMe_inv | apply State.modMe_inv | apply State.modProc_inv | apply State.modEntry_inv | apply State.setEntry_inv | apply State.send_inv | apply State.modLaunch_inv | apply State.setLaunch_inv) | split

@[simp] theorem State.atomic_inv {s : State} (i : Instr) (f : ℕ) (d : GReg) (a : GReg) (w : AWidth) (h : s.Inv) : Res.Inv (State.atomic s i f d a w) := by
  unfold State.atomic
  repeat' first | assumption | (refine inv_foldl ?_ fun _ _ _ => ?_) | (simp (maxDischargeDepth := 30) [*]; done) | exact ⟨h.mem, h.lifecycle, h.tstat, h.phase⟩ | (simp +contextual (maxDischargeDepth := 30) [*, inv_foldl]; done) | dsimp only | (with_reducible first | apply State.modCore_inv | apply State.setCtx_inv | apply State.modCtx_inv | apply State.setMe_inv | apply State.modMe_inv | apply State.modProc_inv | apply State.modEntry_inv | apply State.setEntry_inv | apply State.send_inv | apply State.modLaunch_inv | apply State.setLaunch_inv) | split

@[simp] theorem execAadd_inv (d : GReg) (a : GReg) (w : AWidth) {s : State} (h : s.Inv) : Res.Inv (execAadd d a w s) := by
  unfold execAadd
  repeat' first | assumption | (refine inv_foldl ?_ fun _ _ _ => ?_) | (simp (maxDischargeDepth := 30) [*]; done) | exact ⟨h.mem, h.lifecycle, h.tstat, h.phase⟩ | (simp +contextual (maxDischargeDepth := 30) [*, inv_foldl]; done) | dsimp only | (with_reducible first | apply State.modCore_inv | apply State.setCtx_inv | apply State.modCtx_inv | apply State.setMe_inv | apply State.modMe_inv | apply State.modProc_inv | apply State.modEntry_inv | apply State.setEntry_inv | apply State.send_inv | apply State.modLaunch_inv | apply State.setLaunch_inv) | split

@[simp] theorem execAmin_inv (d : GReg) (a : GReg) (w : AWidth) {s : State} (h : s.Inv) : Res.Inv (execAmin d a w s) := by
  unfold execAmin
  repeat' first | assumption | (refine inv_foldl ?_ fun _ _ _ => ?_) | (simp (maxDischargeDepth := 30) [*]; done) | exact ⟨h.mem, h.lifecycle, h.tstat, h.phase⟩ | (simp +contextual (maxDischargeDepth := 30) [*, inv_foldl]; done) | dsimp only | (with_reducible first | apply State.modCore_inv | apply State.setCtx_inv | apply State.modCtx_inv | apply State.setMe_inv | apply State.modMe_inv | apply State.modProc_inv | apply State.modEntry_inv | apply State.setEntry_inv | apply State.send_inv | apply State.modLaunch_inv | apply State.setLaunch_inv) | split

@[simp] theorem execAmax_inv (d : GReg) (a : GReg) (w : AWidth) {s : State} (h : s.Inv) : Res.Inv (execAmax d a w s) := by
  unfold execAmax
  repeat' first | assumption | (refine inv_foldl ?_ fun _ _ _ => ?_) | (simp (maxDischargeDepth := 30) [*]; done) | exact ⟨h.mem, h.lifecycle, h.tstat, h.phase⟩ | (simp +contextual (maxDischargeDepth := 30) [*, inv_foldl]; done) | dsimp only | (with_reducible first | apply State.modCore_inv | apply State.setCtx_inv | apply State.modCtx_inv | apply State.setMe_inv | apply State.modMe_inv | apply State.modProc_inv | apply State.modEntry_inv | apply State.setEntry_inv | apply State.send_inv | apply State.modLaunch_inv | apply State.setLaunch_inv) | split

@[simp] theorem execAminu_inv (d : GReg) (a : GReg) (w : AWidth) {s : State} (h : s.Inv) : Res.Inv (execAminu d a w s) := by
  unfold execAminu
  repeat' first | assumption | (refine inv_foldl ?_ fun _ _ _ => ?_) | (simp (maxDischargeDepth := 30) [*]; done) | exact ⟨h.mem, h.lifecycle, h.tstat, h.phase⟩ | (simp +contextual (maxDischargeDepth := 30) [*, inv_foldl]; done) | dsimp only | (with_reducible first | apply State.modCore_inv | apply State.setCtx_inv | apply State.modCtx_inv | apply State.setMe_inv | apply State.modMe_inv | apply State.modProc_inv | apply State.modEntry_inv | apply State.setEntry_inv | apply State.send_inv | apply State.modLaunch_inv | apply State.setLaunch_inv) | split

@[simp] theorem execAmaxu_inv (d : GReg) (a : GReg) (w : AWidth) {s : State} (h : s.Inv) : Res.Inv (execAmaxu d a w s) := by
  unfold execAmaxu
  repeat' first | assumption | (refine inv_foldl ?_ fun _ _ _ => ?_) | (simp (maxDischargeDepth := 30) [*]; done) | exact ⟨h.mem, h.lifecycle, h.tstat, h.phase⟩ | (simp +contextual (maxDischargeDepth := 30) [*, inv_foldl]; done) | dsimp only | (with_reducible first | apply State.modCore_inv | apply State.setCtx_inv | apply State.modCtx_inv | apply State.setMe_inv | apply State.modMe_inv | apply State.modProc_inv | apply State.modEntry_inv | apply State.setEntry_inv | apply State.send_inv | apply State.modLaunch_inv | apply State.setLaunch_inv) | split

@[simp] theorem execAand_inv (d : GReg) (a : GReg) (w : AWidth) {s : State} (h : s.Inv) : Res.Inv (execAand d a w s) := by
  unfold execAand
  repeat' first | assumption | (refine inv_foldl ?_ fun _ _ _ => ?_) | (simp (maxDischargeDepth := 30) [*]; done) | exact ⟨h.mem, h.lifecycle, h.tstat, h.phase⟩ | (simp +contextual (maxDischargeDepth := 30) [*, inv_foldl]; done) | dsimp only | (with_reducible first | apply State.modCore_inv | apply State.setCtx_inv | apply State.modCtx_inv | apply State.setMe_inv | apply State.modMe_inv | apply State.modProc_inv | apply State.modEntry_inv | apply State.setEntry_inv | apply State.send_inv | apply State.modLaunch_inv | apply State.setLaunch_inv) | split

@[simp] theorem execAor_inv (d : GReg) (a : GReg) (w : AWidth) {s : State} (h : s.Inv) : Res.Inv (execAor d a w s) := by
  unfold execAor
  repeat' first | assumption | (refine inv_foldl ?_ fun _ _ _ => ?_) | (simp (maxDischargeDepth := 30) [*]; done) | exact ⟨h.mem, h.lifecycle, h.tstat, h.phase⟩ | (simp +contextual (maxDischargeDepth := 30) [*, inv_foldl]; done) | dsimp only | (with_reducible first | apply State.modCore_inv | apply State.setCtx_inv | apply State.modCtx_inv | apply State.setMe_inv | apply State.modMe_inv | apply State.modProc_inv | apply State.modEntry_inv | apply State.setEntry_inv | apply State.send_inv | apply State.modLaunch_inv | apply State.setLaunch_inv) | split

@[simp] theorem execAxor_inv (d : GReg) (a : GReg) (w : AWidth) {s : State} (h : s.Inv) : Res.Inv (execAxor d a w s) := by
  unfold execAxor
  repeat' first | assumption | (refine inv_foldl ?_ fun _ _ _ => ?_) | (simp (maxDischargeDepth := 30) [*]; done) | exact ⟨h.mem, h.lifecycle, h.tstat, h.phase⟩ | (simp +contextual (maxDischargeDepth := 30) [*, inv_foldl]; done) | dsimp only | (with_reducible first | apply State.modCore_inv | apply State.setCtx_inv | apply State.modCtx_inv | apply State.setMe_inv | apply State.modMe_inv | apply State.modProc_inv | apply State.modEntry_inv | apply State.setEntry_inv | apply State.send_inv | apply State.modLaunch_inv | apply State.setLaunch_inv) | split

@[simp] theorem State.enqueuePart_inv {s : State} (q : QueuedPart) (p : Part) (h : s.Inv) : (State.enqueuePart s q p).Inv := by
  unfold State.enqueuePart
  repeat' first | assumption | (refine inv_foldl ?_ fun _ _ _ => ?_) | (simp (maxDischargeDepth := 30) [*]; done) | exact ⟨h.mem, h.lifecycle, h.tstat, h.phase⟩ | (simp +contextual (maxDischargeDepth := 30) [*, inv_foldl]; done) | dsimp only | (with_reducible first | apply State.modCore_inv | apply State.setCtx_inv | apply State.modCtx_inv | apply State.setMe_inv | apply State.modMe_inv | apply State.modProc_inv | apply State.modEntry_inv | apply State.setEntry_inv | apply State.send_inv | apply State.modLaunch_inv | apply State.setLaunch_inv) | split

@[simp] theorem State.drainTrap_inv {s : State} (tid : ℕ) (h : s.Inv) : (State.drainTrap s tid).Inv := by
  unfold State.drainTrap
  repeat' first | assumption | (refine inv_foldl ?_ fun _ _ _ => ?_) | (simp (maxDischargeDepth := 30) [*]; done) | exact ⟨h.mem, h.lifecycle, h.tstat, h.phase⟩ | (simp +contextual (maxDischargeDepth := 30) [*, inv_foldl]; done) | dsimp only | (with_reducible first | apply State.modCore_inv | apply State.setCtx_inv | apply State.modCtx_inv | apply State.setMe_inv | apply State.modMe_inv | apply State.modProc_inv | apply State.modEntry_inv | apply State.setEntry_inv | apply State.send_inv | apply State.modLaunch_inv | apply State.setLaunch_inv) | split

@[simp] theorem State.dropRequest_inv {s : State} (tid : ℕ) (dst : ℕ) (acc : Access) (h : s.Inv) : (State.dropRequest s tid dst acc).Inv := by
  unfold State.dropRequest
  repeat' first | assumption | (refine inv_foldl ?_ fun _ _ _ => ?_) | (simp (maxDischargeDepth := 30) [*]; done) | exact ⟨h.mem, h.lifecycle, h.tstat, h.phase⟩ | (simp +contextual (maxDischargeDepth := 30) [*, inv_foldl]; done) | dsimp only | (with_reducible first | apply State.modCore_inv | apply State.setCtx_inv | apply State.modCtx_inv | apply State.setMe_inv | apply State.modMe_inv | apply State.modProc_inv | apply State.modEntry_inv | apply State.setEntry_inv | apply State.send_inv | apply State.modLaunch_inv | apply State.setLaunch_inv) | split

@[simp] theorem State.travel_inv {s : State} (tid : ℕ) (k : ℕ) (acc : Access) (h : s.Inv) : (State.travel s tid k acc).Inv := by
  unfold State.travel
  repeat' first | assumption | (refine inv_foldl ?_ fun _ _ _ => ?_) | (simp (maxDischargeDepth := 30) [*]; done) | exact ⟨h.mem, h.lifecycle, h.tstat, h.phase⟩ | (simp +contextual (maxDischargeDepth := 30) [*, inv_foldl]; done) | dsimp only | (with_reducible first | apply State.modCore_inv | apply State.setCtx_inv | apply State.modCtx_inv | apply State.setMe_inv | apply State.modMe_inv | apply State.modProc_inv | apply State.modEntry_inv | apply State.setEntry_inv | apply State.send_inv | apply State.modLaunch_inv | apply State.setLaunch_inv) | split

@[simp] theorem State.performPart_inv {s : State} (tid : ℕ) (kind : AccessKind) (p : Part) (h : s.Inv) : (State.performPart s tid kind p).Inv := by
  unfold State.performPart
  repeat' first | assumption | (refine inv_foldl ?_ fun _ _ _ => ?_) | (simp (maxDischargeDepth := 30) [*]; done) | exact ⟨h.mem, h.lifecycle, h.tstat, h.phase⟩ | (simp +contextual (maxDischargeDepth := 30) [*, inv_foldl]; done) | dsimp only | (with_reducible first | apply State.modCore_inv | apply State.setCtx_inv | apply State.modCtx_inv | apply State.setMe_inv | apply State.modMe_inv | apply State.modProc_inv | apply State.modEntry_inv | apply State.setEntry_inv | apply State.send_inv | apply State.modLaunch_inv | apply State.setLaunch_inv) | split

@[simp] theorem State.writeFp_inv {s : State} (d : GReg) (t : Ty) (r : FpResult) (h : s.Inv) : Res.Inv (State.writeFp s d t r) := by
  unfold State.writeFp
  repeat' first | assumption | (refine inv_foldl ?_ fun _ _ _ => ?_) | (simp (maxDischargeDepth := 30) [*]; done) | exact ⟨h.mem, h.lifecycle, h.tstat, h.phase⟩ | (simp +contextual (maxDischargeDepth := 30) [*, inv_foldl]; done) | dsimp only | (with_reducible first | apply State.modCore_inv | apply State.setCtx_inv | apply State.modCtx_inv | apply State.setMe_inv | apply State.modMe_inv | apply State.modProc_inv | apply State.modEntry_inv | apply State.setEntry_inv | apply State.send_inv | apply State.modLaunch_inv | apply State.setLaunch_inv) | split

@[simp] theorem State.arith_inv {s : State} (d : GReg) (t : FTy) (r : Rm) (operands : List Num) (o : Outc) (h : s.Inv) : Res.Inv (State.arith s d t r operands o) := by
  unfold State.arith
  repeat' first | assumption | (refine inv_foldl ?_ fun _ _ _ => ?_) | (simp (maxDischargeDepth := 30) [*]; done) | exact ⟨h.mem, h.lifecycle, h.tstat, h.phase⟩ | (simp +contextual (maxDischargeDepth := 30) [*, inv_foldl]; done) | dsimp only | (with_reducible first | apply State.modCore_inv | apply State.setCtx_inv | apply State.modCtx_inv | apply State.setMe_inv | apply State.modMe_inv | apply State.modProc_inv | apply State.modEntry_inv | apply State.setEntry_inv | apply State.send_inv | apply State.modLaunch_inv | apply State.setLaunch_inv) | split

@[simp] theorem execFadd_inv (d : GReg) (a : GReg) (b : GReg) (t : FTy) (r : Rm) {s : State} (h : s.Inv) : Res.Inv (execFadd d a b t r s) := by
  unfold execFadd
  repeat' first | assumption | (refine inv_foldl ?_ fun _ _ _ => ?_) | (simp (maxDischargeDepth := 30) [*]; done) | exact ⟨h.mem, h.lifecycle, h.tstat, h.phase⟩ | (simp +contextual (maxDischargeDepth := 30) [*, inv_foldl]; done) | dsimp only | (with_reducible first | apply State.modCore_inv | apply State.setCtx_inv | apply State.modCtx_inv | apply State.setMe_inv | apply State.modMe_inv | apply State.modProc_inv | apply State.modEntry_inv | apply State.setEntry_inv | apply State.send_inv | apply State.modLaunch_inv | apply State.setLaunch_inv) | split

@[simp] theorem execFsub_inv (d : GReg) (a : GReg) (b : GReg) (t : FTy) (r : Rm) {s : State} (h : s.Inv) : Res.Inv (execFsub d a b t r s) := by
  unfold execFsub
  repeat' first | assumption | (refine inv_foldl ?_ fun _ _ _ => ?_) | (simp (maxDischargeDepth := 30) [*]; done) | exact ⟨h.mem, h.lifecycle, h.tstat, h.phase⟩ | (simp +contextual (maxDischargeDepth := 30) [*, inv_foldl]; done) | dsimp only | (with_reducible first | apply State.modCore_inv | apply State.setCtx_inv | apply State.modCtx_inv | apply State.setMe_inv | apply State.modMe_inv | apply State.modProc_inv | apply State.modEntry_inv | apply State.setEntry_inv | apply State.send_inv | apply State.modLaunch_inv | apply State.setLaunch_inv) | split

@[simp] theorem execFmul_inv (d : GReg) (a : GReg) (b : GReg) (t : FTy) (r : Rm) {s : State} (h : s.Inv) : Res.Inv (execFmul d a b t r s) := by
  unfold execFmul
  repeat' first | assumption | (refine inv_foldl ?_ fun _ _ _ => ?_) | (simp (maxDischargeDepth := 30) [*]; done) | exact ⟨h.mem, h.lifecycle, h.tstat, h.phase⟩ | (simp +contextual (maxDischargeDepth := 30) [*, inv_foldl]; done) | dsimp only | (with_reducible first | apply State.modCore_inv | apply State.setCtx_inv | apply State.modCtx_inv | apply State.setMe_inv | apply State.modMe_inv | apply State.modProc_inv | apply State.modEntry_inv | apply State.setEntry_inv | apply State.send_inv | apply State.modLaunch_inv | apply State.setLaunch_inv) | split

@[simp] theorem execFdiv_inv (d : GReg) (a : GReg) (b : GReg) (t : FTy) (r : Rm) {s : State} (h : s.Inv) : Res.Inv (execFdiv d a b t r s) := by
  unfold execFdiv
  repeat' first | assumption | (refine inv_foldl ?_ fun _ _ _ => ?_) | (simp (maxDischargeDepth := 30) [*]; done) | exact ⟨h.mem, h.lifecycle, h.tstat, h.phase⟩ | (simp +contextual (maxDischargeDepth := 30) [*, inv_foldl]; done) | dsimp only | (with_reducible first | apply State.modCore_inv | apply State.setCtx_inv | apply State.modCtx_inv | apply State.setMe_inv | apply State.modMe_inv | apply State.modProc_inv | apply State.modEntry_inv | apply State.setEntry_inv | apply State.send_inv | apply State.modLaunch_inv | apply State.setLaunch_inv) | split

@[simp] theorem execFsqrt_inv (d : GReg) (a : GReg) (t : FTy) (r : Rm) {s : State} (h : s.Inv) : Res.Inv (execFsqrt d a t r s) := by
  unfold execFsqrt
  repeat' first | assumption | (refine inv_foldl ?_ fun _ _ _ => ?_) | (simp (maxDischargeDepth := 30) [*]; done) | exact ⟨h.mem, h.lifecycle, h.tstat, h.phase⟩ | (simp +contextual (maxDischargeDepth := 30) [*, inv_foldl]; done) | dsimp only | (with_reducible first | apply State.modCore_inv | apply State.setCtx_inv | apply State.modCtx_inv | apply State.setMe_inv | apply State.modMe_inv | apply State.modProc_inv | apply State.modEntry_inv | apply State.setEntry_inv | apply State.send_inv | apply State.modLaunch_inv | apply State.setLaunch_inv) | split

@[simp] theorem execFmac_inv (d : GReg) (a : GReg) (b : GReg) (t : FTy) (r : Rm) {s : State} (h : s.Inv) : Res.Inv (execFmac d a b t r s) := by
  unfold execFmac
  repeat' first | assumption | (refine inv_foldl ?_ fun _ _ _ => ?_) | (simp (maxDischargeDepth := 30) [*]; done) | exact ⟨h.mem, h.lifecycle, h.tstat, h.phase⟩ | (simp +contextual (maxDischargeDepth := 30) [*, inv_foldl]; done) | dsimp only | (with_reducible first | apply State.modCore_inv | apply State.setCtx_inv | apply State.modCtx_inv | apply State.setMe_inv | apply State.modMe_inv | apply State.modProc_inv | apply State.modEntry_inv | apply State.setEntry_inv | apply State.send_inv | apply State.modLaunch_inv | apply State.setLaunch_inv) | split

@[simp] theorem State.writeFpPlain_inv {s : State} (d : GReg) (t : FTy) (r : ℕ × FlagSet) (h : s.Inv) : Res.Inv (State.writeFpPlain s d t r) := by
  unfold State.writeFpPlain
  repeat' first | assumption | (refine inv_foldl ?_ fun _ _ _ => ?_) | (simp (maxDischargeDepth := 30) [*]; done) | exact ⟨h.mem, h.lifecycle, h.tstat, h.phase⟩ | (simp +contextual (maxDischargeDepth := 30) [*, inv_foldl]; done) | dsimp only | (with_reducible first | apply State.modCore_inv | apply State.setCtx_inv | apply State.modCtx_inv | apply State.setMe_inv | apply State.modMe_inv | apply State.modProc_inv | apply State.modEntry_inv | apply State.setEntry_inv | apply State.send_inv | apply State.modLaunch_inv | apply State.setLaunch_inv) | split

@[simp] theorem execFmin_inv (d : GReg) (a : GReg) (b : GReg) (t : FTy) {s : State} (h : s.Inv) : Res.Inv (execFmin d a b t s) := by
  unfold execFmin
  repeat' first | assumption | (refine inv_foldl ?_ fun _ _ _ => ?_) | (simp (maxDischargeDepth := 30) [*]; done) | exact ⟨h.mem, h.lifecycle, h.tstat, h.phase⟩ | (simp +contextual (maxDischargeDepth := 30) [*, inv_foldl]; done) | dsimp only | (with_reducible first | apply State.modCore_inv | apply State.setCtx_inv | apply State.modCtx_inv | apply State.setMe_inv | apply State.modMe_inv | apply State.modProc_inv | apply State.modEntry_inv | apply State.setEntry_inv | apply State.send_inv | apply State.modLaunch_inv | apply State.setLaunch_inv) | split

@[simp] theorem execFmax_inv (d : GReg) (a : GReg) (b : GReg) (t : FTy) {s : State} (h : s.Inv) : Res.Inv (execFmax d a b t s) := by
  unfold execFmax
  repeat' first | assumption | (refine inv_foldl ?_ fun _ _ _ => ?_) | (simp (maxDischargeDepth := 30) [*]; done) | exact ⟨h.mem, h.lifecycle, h.tstat, h.phase⟩ | (simp +contextual (maxDischargeDepth := 30) [*, inv_foldl]; done) | dsimp only | (with_reducible first | apply State.modCore_inv | apply State.setCtx_inv | apply State.modCtx_inv | apply State.setMe_inv | apply State.modMe_inv | apply State.modProc_inv | apply State.modEntry_inv | apply State.setEntry_inv | apply State.send_inv | apply State.modLaunch_inv | apply State.setLaunch_inv) | split

@[simp] theorem execFabs_inv (d : GReg) (a : GReg) (t : FTy) {s : State} (h : s.Inv) : Res.Inv (execFabs d a t s) := by
  unfold execFabs
  repeat' first | assumption | (refine inv_foldl ?_ fun _ _ _ => ?_) | (simp (maxDischargeDepth := 30) [*]; done) | exact ⟨h.mem, h.lifecycle, h.tstat, h.phase⟩ | (simp +contextual (maxDischargeDepth := 30) [*, inv_foldl]; done) | dsimp only | (with_reducible first | apply State.modCore_inv | apply State.setCtx_inv | apply State.modCtx_inv | apply State.setMe_inv | apply State.modMe_inv | apply State.modProc_inv | apply State.modEntry_inv | apply State.setEntry_inv | apply State.send_inv | apply State.modLaunch_inv | apply State.setLaunch_inv) | split

@[simp] theorem execFneg_inv (d : GReg) (a : GReg) (t : FTy) {s : State} (h : s.Inv) : Res.Inv (execFneg d a t s) := by
  unfold execFneg
  repeat' first | assumption | (refine inv_foldl ?_ fun _ _ _ => ?_) | (simp (maxDischargeDepth := 30) [*]; done) | exact ⟨h.mem, h.lifecycle, h.tstat, h.phase⟩ | (simp +contextual (maxDischargeDepth := 30) [*, inv_foldl]; done) | dsimp only | (with_reducible first | apply State.modCore_inv | apply State.setCtx_inv | apply State.modCtx_inv | apply State.setMe_inv | apply State.modMe_inv | apply State.modProc_inv | apply State.modEntry_inv | apply State.setEntry_inv | apply State.send_inv | apply State.modLaunch_inv | apply State.setLaunch_inv) | split

@[simp] theorem State.fcmp_inv {s : State} (c : Cond) (d : PReg) (a : GReg) (b : GReg) (t : FTy) (h : s.Inv) : Res.Inv (State.fcmp s c d a b t) := by
  unfold State.fcmp
  repeat' first | assumption | (refine inv_foldl ?_ fun _ _ _ => ?_) | (simp (maxDischargeDepth := 30) [*]; done) | exact ⟨h.mem, h.lifecycle, h.tstat, h.phase⟩ | (simp +contextual (maxDischargeDepth := 30) [*, inv_foldl]; done) | dsimp only | (with_reducible first | apply State.modCore_inv | apply State.setCtx_inv | apply State.modCtx_inv | apply State.setMe_inv | apply State.modMe_inv | apply State.modProc_inv | apply State.modEntry_inv | apply State.setEntry_inv | apply State.send_inv | apply State.modLaunch_inv | apply State.setLaunch_inv) | split

@[simp] theorem execFcmpEq_inv (d : PReg) (a : GReg) (b : GReg) (t : FTy) {s : State} (h : s.Inv) : Res.Inv (execFcmpEq d a b t s) := by
  unfold execFcmpEq
  repeat' first | assumption | (refine inv_foldl ?_ fun _ _ _ => ?_) | (simp (maxDischargeDepth := 30) [*]; done) | exact ⟨h.mem, h.lifecycle, h.tstat, h.phase⟩ | (simp +contextual (maxDischargeDepth := 30) [*, inv_foldl]; done) | dsimp only | (with_reducible first | apply State.modCore_inv | apply State.setCtx_inv | apply State.modCtx_inv | apply State.setMe_inv | apply State.modMe_inv | apply State.modProc_inv | apply State.modEntry_inv | apply State.setEntry_inv | apply State.send_inv | apply State.modLaunch_inv | apply State.setLaunch_inv) | split

@[simp] theorem execFcmpLt_inv (d : PReg) (a : GReg) (b : GReg) (t : FTy) {s : State} (h : s.Inv) : Res.Inv (execFcmpLt d a b t s) := by
  unfold execFcmpLt
  repeat' first | assumption | (refine inv_foldl ?_ fun _ _ _ => ?_) | (simp (maxDischargeDepth := 30) [*]; done) | exact ⟨h.mem, h.lifecycle, h.tstat, h.phase⟩ | (simp +contextual (maxDischargeDepth := 30) [*, inv_foldl]; done) | dsimp only | (with_reducible first | apply State.modCore_inv | apply State.setCtx_inv | apply State.modCtx_inv | apply State.setMe_inv | apply State.modMe_inv | apply State.modProc_inv | apply State.modEntry_inv | apply State.setEntry_inv | apply State.send_inv | apply State.modLaunch_inv | apply State.setLaunch_inv) | split

@[simp] theorem execFcmpLe_inv (d : PReg) (a : GReg) (b : GReg) (t : FTy) {s : State} (h : s.Inv) : Res.Inv (execFcmpLe d a b t s) := by
  unfold execFcmpLe
  repeat' first | assumption | (refine inv_foldl ?_ fun _ _ _ => ?_) | (simp (maxDischargeDepth := 30) [*]; done) | exact ⟨h.mem, h.lifecycle, h.tstat, h.phase⟩ | (simp +contextual (maxDischargeDepth := 30) [*, inv_foldl]; done) | dsimp only | (with_reducible first | apply State.modCore_inv | apply State.setCtx_inv | apply State.modCtx_inv | apply State.setMe_inv | apply State.modMe_inv | apply State.modProc_inv | apply State.modEntry_inv | apply State.setEntry_inv | apply State.send_inv | apply State.modLaunch_inv | apply State.setLaunch_inv) | split

@[simp] theorem execFcmpUn_inv (d : PReg) (a : GReg) (b : GReg) (t : FTy) {s : State} (h : s.Inv) : Res.Inv (execFcmpUn d a b t s) := by
  unfold execFcmpUn
  repeat' first | assumption | (refine inv_foldl ?_ fun _ _ _ => ?_) | (simp (maxDischargeDepth := 30) [*]; done) | exact ⟨h.mem, h.lifecycle, h.tstat, h.phase⟩ | (simp +contextual (maxDischargeDepth := 30) [*, inv_foldl]; done) | dsimp only | (with_reducible first | apply State.modCore_inv | apply State.setCtx_inv | apply State.modCtx_inv | apply State.setMe_inv | apply State.modMe_inv | apply State.modProc_inv | apply State.modEntry_inv | apply State.setEntry_inv | apply State.send_inv | apply State.modLaunch_inv | apply State.setLaunch_inv) | split

@[simp] theorem execCvt_inv (d : GReg) (a : GReg) (t : Ty) (src : Ty) (r : Rm) {s : State} (h : s.Inv) : Res.Inv (execCvt d a t src r s) := by
  unfold execCvt
  repeat' first | assumption | (refine inv_foldl ?_ fun _ _ _ => ?_) | (simp (maxDischargeDepth := 30) [*]; done) | exact ⟨h.mem, h.lifecycle, h.tstat, h.phase⟩ | (simp +contextual (maxDischargeDepth := 30) [*, inv_foldl]; done) | dsimp only | (with_reducible first | apply State.modCore_inv | apply State.setCtx_inv | apply State.modCtx_inv | apply State.setMe_inv | apply State.modMe_inv | apply State.modProc_inv | apply State.modEntry_inv | apply State.setEntry_inv | apply State.send_inv | apply State.modLaunch_inv | apply State.setLaunch_inv) | split

@[simp] theorem execFli_inv (d : GReg) (t : Ty) (x2 : BitVec 16) {s : State} (h : s.Inv) : Res.Inv (execFli d t x2 s) := by
  unfold execFli
  repeat' first | assumption | (refine inv_foldl ?_ fun _ _ _ => ?_) | (simp (maxDischargeDepth := 30) [*]; done) | exact ⟨h.mem, h.lifecycle, h.tstat, h.phase⟩ | (simp +contextual (maxDischargeDepth := 30) [*, inv_foldl]; done) | dsimp only | (with_reducible first | apply State.modCore_inv | apply State.setCtx_inv | apply State.modCtx_inv | apply State.setMe_inv | apply State.modMe_inv | apply State.modProc_inv | apply State.modEntry_inv | apply State.setEntry_inv | apply State.send_inv | apply State.modLaunch_inv | apply State.setLaunch_inv) | split

@[simp] theorem State.setV_inv {s : State} (d : VReg) (v : ℕ) (h : s.Inv) : (State.setV s d v).Inv := by
  unfold State.setV
  repeat' first | assumption | (refine inv_foldl ?_ fun _ _ _ => ?_) | (simp (maxDischargeDepth := 30) [*]; done) | exact ⟨h.mem, h.lifecycle, h.tstat, h.phase⟩ | (simp +contextual (maxDischargeDepth := 30) [*, inv_foldl]; done) | dsimp only | (with_reducible first | apply State.modCore_inv | apply State.setCtx_inv | apply State.modCtx_inv | apply State.setMe_inv | apply State.modMe_inv | apply State.modProc_inv | apply State.modEntry_inv | apply State.setEntry_inv | apply State.send_inv | apply State.modLaunch_inv | apply State.setLaunch_inv) | split

@[simp] theorem State.writeVFp_inv {s : State} (d : VReg) (r : LaneAcc) (h : s.Inv) : Res.Inv (State.writeVFp s d r) := by
  unfold State.writeVFp
  repeat' first | assumption | (refine inv_foldl ?_ fun _ _ _ => ?_) | (simp (maxDischargeDepth := 30) [*]; done) | exact ⟨h.mem, h.lifecycle, h.tstat, h.phase⟩ | (simp +contextual (maxDischargeDepth := 30) [*, inv_foldl]; done) | dsimp only | (with_reducible first | apply State.modCore_inv | apply State.setCtx_inv | apply State.modCtx_inv | apply State.setMe_inv | apply State.modMe_inv | apply State.modProc_inv | apply State.modEntry_inv | apply State.setEntry_inv | apply State.send_inv | apply State.modLaunch_inv | apply State.setLaunch_inv) | split

@[simp] theorem State.lanes_inv {s : State} (d : VReg) (w : ℕ) (k : MReg) (f : ℕ → BitVec 32 → FpResult) (h : s.Inv) : Res.Inv (State.lanes s d w k f) := by
  unfold State.lanes
  repeat' first | assumption | (refine inv_foldl ?_ fun _ _ _ => ?_) | (simp (maxDischargeDepth := 30) [*]; done) | exact ⟨h.mem, h.lifecycle, h.tstat, h.phase⟩ | (simp +contextual (maxDischargeDepth := 30) [*, inv_foldl]; done) | dsimp only | (with_reducible first | apply State.modCore_inv | apply State.setCtx_inv | apply State.modCtx_inv | apply State.setMe_inv | apply State.modMe_inv | apply State.modProc_inv | apply State.modEntry_inv | apply State.setEntry_inv | apply State.send_inv | apply State.modLaunch_inv | apply State.setLaunch_inv) | split

@[simp] theorem State.vint_inv {s : State} (d : VReg) (a : VReg) (b : VReg) (t : ITy) (k : MReg) (f : ℕ → ℕ → ℕ → ℕ → ℤ × FlagSet) (h : s.Inv) : Res.Inv (State.vint s d a b t k f) := by
  unfold State.vint
  repeat' first | assumption | (refine inv_foldl ?_ fun _ _ _ => ?_) | (simp (maxDischargeDepth := 30) [*]; done) | exact ⟨h.mem, h.lifecycle, h.tstat, h.phase⟩ | (simp +contextual (maxDischargeDepth := 30) [*, inv_foldl]; done) | dsimp only | (with_reducible first | apply State.modCore_inv | apply State.setCtx_inv | apply State.modCtx_inv | apply State.setMe_inv | apply State.modMe_inv | apply State.modProc_inv | apply State.modEntry_inv | apply State.setEntry_inv | apply State.send_inv | apply State.modLaunch_inv | apply State.setLaunch_inv) | split

@[simp] theorem execVadd_inv (d : VReg) (a : VReg) (b : VReg) (t : ITy) (k : MReg) {s : State} (h : s.Inv) : Res.Inv (execVadd d a b t k s) := by
  unfold execVadd
  repeat' first | assumption | (refine inv_foldl ?_ fun _ _ _ => ?_) | (simp (maxDischargeDepth := 30) [*]; done) | exact ⟨h.mem, h.lifecycle, h.tstat, h.phase⟩ | (simp +contextual (maxDischargeDepth := 30) [*, inv_foldl]; done) | dsimp only | (with_reducible first | apply State.modCore_inv | apply State.setCtx_inv | apply State.modCtx_inv | apply State.setMe_inv | apply State.modMe_inv | apply State.modProc_inv | apply State.modEntry_inv | apply State.setEntry_inv | apply State.send_inv | apply State.modLaunch_inv | apply State.setLaunch_inv) | split

@[simp] theorem execVsub_inv (d : VReg) (a : VReg) (b : VReg) (t : ITy) (k : MReg) {s : State} (h : s.Inv) : Res.Inv (execVsub d a b t k s) := by
  unfold execVsub
  repeat' first | assumption | (refine inv_foldl ?_ fun _ _ _ => ?_) | (simp (maxDischargeDepth := 30) [*]; done) | exact ⟨h.mem, h.lifecycle, h.tstat, h.phase⟩ | (simp +contextual (maxDischargeDepth := 30) [*, inv_foldl]; done) | dsimp only | (with_reducible first | apply State.modCore_inv | apply State.setCtx_inv | apply State.modCtx_inv | apply State.setMe_inv | apply State.modMe_inv | apply State.modProc_inv | apply State.modEntry_inv | apply State.setEntry_inv | apply State.send_inv | apply State.modLaunch_inv | apply State.setLaunch_inv) | split

@[simp] theorem execVmul_inv (d : VReg) (a : VReg) (b : VReg) (t : ITy) (k : MReg) {s : State} (h : s.Inv) : Res.Inv (execVmul d a b t k s) := by
  unfold execVmul
  repeat' first | assumption | (refine inv_foldl ?_ fun _ _ _ => ?_) | (simp (maxDischargeDepth := 30) [*]; done) | exact ⟨h.mem, h.lifecycle, h.tstat, h.phase⟩ | (simp +contextual (maxDischargeDepth := 30) [*, inv_foldl]; done) | dsimp only | (with_reducible first | apply State.modCore_inv | apply State.setCtx_inv | apply State.modCtx_inv | apply State.setMe_inv | apply State.modMe_inv | apply State.modProc_inv | apply State.modEntry_inv | apply State.setEntry_inv | apply State.send_inv | apply State.modLaunch_inv | apply State.setLaunch_inv) | split

@[simp] theorem execVmulh_inv (d : VReg) (a : VReg) (b : VReg) (t : ITy) (k : MReg) {s : State} (h : s.Inv) : Res.Inv (execVmulh d a b t k s) := by
  unfold execVmulh
  repeat' first | assumption | (refine inv_foldl ?_ fun _ _ _ => ?_) | (simp (maxDischargeDepth := 30) [*]; done) | exact ⟨h.mem, h.lifecycle, h.tstat, h.phase⟩ | (simp +contextual (maxDischargeDepth := 30) [*, inv_foldl]; done) | dsimp only | (with_reducible first | apply State.modCore_inv | apply State.setCtx_inv | apply State.modCtx_inv | apply State.setMe_inv | apply State.modMe_inv | apply State.modProc_inv | apply State.modEntry_inv | apply State.setEntry_inv | apply State.send_inv | apply State.modLaunch_inv | apply State.setLaunch_inv) | split

@[simp] theorem execVmin_inv (d : VReg) (a : VReg) (b : VReg) (t : ITy) (k : MReg) {s : State} (h : s.Inv) : Res.Inv (execVmin d a b t k s) := by
  unfold execVmin
  repeat' first | assumption | (refine inv_foldl ?_ fun _ _ _ => ?_) | (simp (maxDischargeDepth := 30) [*]; done) | exact ⟨h.mem, h.lifecycle, h.tstat, h.phase⟩ | (simp +contextual (maxDischargeDepth := 30) [*, inv_foldl]; done) | dsimp only | (with_reducible first | apply State.modCore_inv | apply State.setCtx_inv | apply State.modCtx_inv | apply State.setMe_inv | apply State.modMe_inv | apply State.modProc_inv | apply State.modEntry_inv | apply State.setEntry_inv | apply State.send_inv | apply State.modLaunch_inv | apply State.setLaunch_inv) | split

@[simp] theorem execVmax_inv (d : VReg) (a : VReg) (b : VReg) (t : ITy) (k : MReg) {s : State} (h : s.Inv) : Res.Inv (execVmax d a b t k s) := by
  unfold execVmax
  repeat' first | assumption | (refine inv_foldl ?_ fun _ _ _ => ?_) | (simp (maxDischargeDepth := 30) [*]; done) | exact ⟨h.mem, h.lifecycle, h.tstat, h.phase⟩ | (simp +contextual (maxDischargeDepth := 30) [*, inv_foldl]; done) | dsimp only | (with_reducible first | apply State.modCore_inv | apply State.setCtx_inv | apply State.modCtx_inv | apply State.setMe_inv | apply State.modMe_inv | apply State.modProc_inv | apply State.modEntry_inv | apply State.setEntry_inv | apply State.send_inv | apply State.modLaunch_inv | apply State.setLaunch_inv) | split

@[simp] theorem execVminu_inv (d : VReg) (a : VReg) (b : VReg) (t : ITy) (k : MReg) {s : State} (h : s.Inv) : Res.Inv (execVminu d a b t k s) := by
  unfold execVminu
  repeat' first | assumption | (refine inv_foldl ?_ fun _ _ _ => ?_) | (simp (maxDischargeDepth := 30) [*]; done) | exact ⟨h.mem, h.lifecycle, h.tstat, h.phase⟩ | (simp +contextual (maxDischargeDepth := 30) [*, inv_foldl]; done) | dsimp only | (with_reducible first | apply State.modCore_inv | apply State.setCtx_inv | apply State.modCtx_inv | apply State.setMe_inv | apply State.modMe_inv | apply State.modProc_inv | apply State.modEntry_inv | apply State.setEntry_inv | apply State.send_inv | apply State.modLaunch_inv | apply State.setLaunch_inv) | split

@[simp] theorem execVmaxu_inv (d : VReg) (a : VReg) (b : VReg) (t : ITy) (k : MReg) {s : State} (h : s.Inv) : Res.Inv (execVmaxu d a b t k s) := by
  unfold execVmaxu
  repeat' first | assumption | (refine inv_foldl ?_ fun _ _ _ => ?_) | (simp (maxDischargeDepth := 30) [*]; done) | exact ⟨h.mem, h.lifecycle, h.tstat, h.phase⟩ | (simp +contextual (maxDischargeDepth := 30) [*, inv_foldl]; done) | dsimp only | (with_reducible first | apply State.modCore_inv | apply State.setCtx_inv | apply State.modCtx_inv | apply State.setMe_inv | apply State.modMe_inv | apply State.modProc_inv | apply State.modEntry_inv | apply State.setEntry_inv | apply State.send_inv | apply State.modLaunch_inv | apply State.setLaunch_inv) | split

@[simp] theorem execVand_inv (d : VReg) (a : VReg) (b : VReg) (t : ITy) (k : MReg) {s : State} (h : s.Inv) : Res.Inv (execVand d a b t k s) := by
  unfold execVand
  repeat' first | assumption | (refine inv_foldl ?_ fun _ _ _ => ?_) | (simp (maxDischargeDepth := 30) [*]; done) | exact ⟨h.mem, h.lifecycle, h.tstat, h.phase⟩ | (simp +contextual (maxDischargeDepth := 30) [*, inv_foldl]; done) | dsimp only | (with_reducible first | apply State.modCore_inv | apply State.setCtx_inv | apply State.modCtx_inv | apply State.setMe_inv | apply State.modMe_inv | apply State.modProc_inv | apply State.modEntry_inv | apply State.setEntry_inv | apply State.send_inv | apply State.modLaunch_inv | apply State.setLaunch_inv) | split

@[simp] theorem execVor_inv (d : VReg) (a : VReg) (b : VReg) (t : ITy) (k : MReg) {s : State} (h : s.Inv) : Res.Inv (execVor d a b t k s) := by
  unfold execVor
  repeat' first | assumption | (refine inv_foldl ?_ fun _ _ _ => ?_) | (simp (maxDischargeDepth := 30) [*]; done) | exact ⟨h.mem, h.lifecycle, h.tstat, h.phase⟩ | (simp +contextual (maxDischargeDepth := 30) [*, inv_foldl]; done) | dsimp only | (with_reducible first | apply State.modCore_inv | apply State.setCtx_inv | apply State.modCtx_inv | apply State.setMe_inv | apply State.modMe_inv | apply State.modProc_inv | apply State.modEntry_inv | apply State.setEntry_inv | apply State.send_inv | apply State.modLaunch_inv | apply State.setLaunch_inv) | split

@[simp] theorem execVxor_inv (d : VReg) (a : VReg) (b : VReg) (t : ITy) (k : MReg) {s : State} (h : s.Inv) : Res.Inv (execVxor d a b t k s) := by
  unfold execVxor
  repeat' first | assumption | (refine inv_foldl ?_ fun _ _ _ => ?_) | (simp (maxDischargeDepth := 30) [*]; done) | exact ⟨h.mem, h.lifecycle, h.tstat, h.phase⟩ | (simp +contextual (maxDischargeDepth := 30) [*, inv_foldl]; done) | dsimp only | (with_reducible first | apply State.modCore_inv | apply State.setCtx_inv | apply State.modCtx_inv | apply State.setMe_inv | apply State.modMe_inv | apply State.modProc_inv | apply State.modEntry_inv | apply State.setEntry_inv | apply State.send_inv | apply State.modLaunch_inv | apply State.setLaunch_inv) | split

@[simp] theorem execVshl_inv (d : VReg) (a : VReg) (b : VReg) (t : ITy) (k : MReg) {s : State} (h : s.Inv) : Res.Inv (execVshl d a b t k s) := by
  unfold execVshl
  repeat' first | assumption | (refine inv_foldl ?_ fun _ _ _ => ?_) | (simp (maxDischargeDepth := 30) [*]; done) | exact ⟨h.mem, h.lifecycle, h.tstat, h.phase⟩ | (simp +contextual (maxDischargeDepth := 30) [*, inv_foldl]; done) | dsimp only | (with_reducible first | apply State.modCore_inv | apply State.setCtx_inv | apply State.modCtx_inv | apply State.setMe_inv | apply State.modMe_inv | apply State.modProc_inv | apply State.modEntry_inv | apply State.setEntry_inv | apply State.send_inv | apply State.modLaunch_inv | apply State.setLaunch_inv) | split

@[simp] theorem execVshr_inv (d : VReg) (a : VReg) (b : VReg) (t : ITy) (k : MReg) {s : State} (h : s.Inv) : Res.Inv (execVshr d a b t k s) := by
  unfold execVshr
  repeat' first | assumption | (refine inv_foldl ?_ fun _ _ _ => ?_) | (simp (maxDischargeDepth := 30) [*]; done) | exact ⟨h.mem, h.lifecycle, h.tstat, h.phase⟩ | (simp +contextual (maxDischargeDepth := 30) [*, inv_foldl]; done) | dsimp only | (with_reducible first | apply State.modCore_inv | apply State.setCtx_inv | apply State.modCtx_inv | apply State.setMe_inv | apply State.modMe_inv | apply State.modProc_inv | apply State.modEntry_inv | apply State.setEntry_inv | apply State.send_inv | apply State.modLaunch_inv | apply State.setLaunch_inv) | split

@[simp] theorem execVsra_inv (d : VReg) (a : VReg) (b : VReg) (t : ITy) (k : MReg) {s : State} (h : s.Inv) : Res.Inv (execVsra d a b t k s) := by
  unfold execVsra
  repeat' first | assumption | (refine inv_foldl ?_ fun _ _ _ => ?_) | (simp (maxDischargeDepth := 30) [*]; done) | exact ⟨h.mem, h.lifecycle, h.tstat, h.phase⟩ | (simp +contextual (maxDischargeDepth := 30) [*, inv_foldl]; done) | dsimp only | (with_reducible first | apply State.modCore_inv | apply State.setCtx_inv | apply State.modCtx_inv | apply State.setMe_inv | apply State.modMe_inv | apply State.modProc_inv | apply State.modEntry_inv | apply State.setEntry_inv | apply State.send_inv | apply State.modLaunch_inv | apply State.setLaunch_inv) | split

@[simp] theorem execVabs_inv (d : VReg) (a : VReg) (t : ITy) (k : MReg) {s : State} (h : s.Inv) : Res.Inv (execVabs d a t k s) := by
  unfold execVabs
  repeat' first | assumption | (refine inv_foldl ?_ fun _ _ _ => ?_) | (simp (maxDischargeDepth := 30) [*]; done) | exact ⟨h.mem, h.lifecycle, h.tstat, h.phase⟩ | (simp +contextual (maxDischargeDepth := 30) [*, inv_foldl]; done) | dsimp only | (with_reducible first | apply State.modCore_inv | apply State.setCtx_inv | apply State.modCtx_inv | apply State.setMe_inv | apply State.modMe_inv | apply State.modProc_inv | apply State.modEntry_inv | apply State.setEntry_inv | apply State.send_inv | apply State.modLaunch_inv | apply State.setLaunch_inv) | split

@[simp] theorem execVneg_inv (d : VReg) (a : VReg) (t : ITy) (k : MReg) {s : State} (h : s.Inv) : Res.Inv (execVneg d a t k s) := by
  unfold execVneg
  repeat' first | assumption | (refine inv_foldl ?_ fun _ _ _ => ?_) | (simp (maxDischargeDepth := 30) [*]; done) | exact ⟨h.mem, h.lifecycle, h.tstat, h.phase⟩ | (simp +contextual (maxDischargeDepth := 30) [*, inv_foldl]; done) | dsimp only | (with_reducible first | apply State.modCore_inv | apply State.setCtx_inv | apply State.modCtx_inv | apply State.setMe_inv | apply State.modMe_inv | apply State.modProc_inv | apply State.modEntry_inv | apply State.setEntry_inv | apply State.send_inv | apply State.modLaunch_inv | apply State.setLaunch_inv) | split

@[simp] theorem execVadds_inv (d : VReg) (a : VReg) (b : VReg) (t : ITy) (k : MReg) {s : State} (h : s.Inv) : Res.Inv (execVadds d a b t k s) := by
  unfold execVadds
  repeat' first | assumption | (refine inv_foldl ?_ fun _ _ _ => ?_) | (simp (maxDischargeDepth := 30) [*]; done) | exact ⟨h.mem, h.lifecycle, h.tstat, h.phase⟩ | (simp +contextual (maxDischargeDepth := 30) [*, inv_foldl]; done) | dsimp only | (with_reducible first | apply State.modCore_inv | apply State.setCtx_inv | apply State.modCtx_inv | apply State.setMe_inv | apply State.modMe_inv | apply State.modProc_inv | apply State.modEntry_inv | apply State.setEntry_inv | apply State.send_inv | apply State.modLaunch_inv | apply State.setLaunch_inv) | split

@[simp] theorem execVsubs_inv (d : VReg) (a : VReg) (b : VReg) (t : ITy) (k : MReg) {s : State} (h : s.Inv) : Res.Inv (execVsubs d a b t k s) := by
  unfold execVsubs
  repeat' first | assumption | (refine inv_foldl ?_ fun _ _ _ => ?_) | (simp (maxDischargeDepth := 30) [*]; done) | exact ⟨h.mem, h.lifecycle, h.tstat, h.phase⟩ | (simp +contextual (maxDischargeDepth := 30) [*, inv_foldl]; done) | dsimp only | (with_reducible first | apply State.modCore_inv | apply State.setCtx_inv | apply State.modCtx_inv | apply State.setMe_inv | apply State.modMe_inv | apply State.modProc_inv | apply State.modEntry_inv | apply State.setEntry_inv | apply State.send_inv | apply State.modLaunch_inv | apply State.setLaunch_inv) | split

@[simp] theorem execVmac_inv (d : VReg) (a : VReg) (b : VReg) (t : ITy) (k : MReg) {s : State} (h : s.Inv) : Res.Inv (execVmac d a b t k s) := by
  unfold execVmac
  repeat' first | assumption | (refine inv_foldl ?_ fun _ _ _ => ?_) | (simp (maxDischargeDepth := 30) [*]; done) | exact ⟨h.mem, h.lifecycle, h.tstat, h.phase⟩ | (simp +contextual (maxDischargeDepth := 30) [*, inv_foldl]; done) | dsimp only | (with_reducible first | apply State.modCore_inv | apply State.setCtx_inv | apply State.modCtx_inv | apply State.setMe_inv | apply State.modMe_inv | apply State.modProc_inv | apply State.modEntry_inv | apply State.setEntry_inv | apply State.send_inv | apply State.modLaunch_inv | apply State.setLaunch_inv) | split

@[simp] theorem execVdot4_inv (d : VReg) (a : VReg) (b : VReg) (k : MReg) {s : State} (h : s.Inv) : Res.Inv (execVdot4 d a b k s) := by
  unfold execVdot4
  repeat' first | assumption | (refine inv_foldl ?_ fun _ _ _ => ?_) | (simp (maxDischargeDepth := 30) [*]; done) | exact ⟨h.mem, h.lifecycle, h.tstat, h.phase⟩ | (simp +contextual (maxDischargeDepth := 30) [*, inv_foldl]; done) | dsimp only | (with_reducible first | apply State.modCore_inv | apply State.setCtx_inv | apply State.modCtx_inv | apply State.setMe_inv | apply State.modMe_inv | apply State.modProc_inv | apply State.modEntry_inv | apply State.setEntry_inv | apply State.send_inv | apply State.modLaunch_inv | apply State.setLaunch_inv) | split

@[simp] theorem State.vfp_inv {s : State} (d : VReg) (a : VReg) (b : VReg) (t : FTy) (k : MReg) (mode : RoundMode) (f : Num →   Num → Num → List Num × Outc) (h : s.Inv) : Res.Inv (State.vfp s d a b t k mode f) := by
  unfold State.vfp
  repeat' first | assumption | (refine inv_foldl ?_ fun _ _ _ => ?_) | (simp (maxDischargeDepth := 30) [*]; done) | exact ⟨h.mem, h.lifecycle, h.tstat, h.phase⟩ | (simp +contextual (maxDischargeDepth := 30) [*, inv_foldl]; done) | dsimp only | (with_reducible first | apply State.modCore_inv | apply State.setCtx_inv | apply State.modCtx_inv | apply State.setMe_inv | apply State.modMe_inv | apply State.modProc_inv | apply State.modEntry_inv | apply State.setEntry_inv | apply State.send_inv | apply State.modLaunch_inv | apply State.setLaunch_inv) | split

@[simp] theorem execVfadd_inv (d : VReg) (a : VReg) (b : VReg) (t : FTy) (k : MReg) (r : Rm) {s : State} (h : s.Inv) : Res.Inv (execVfadd d a b t k r s) := by
  unfold execVfadd
  repeat' first | assumption | (refine inv_foldl ?_ fun _ _ _ => ?_) | (simp (maxDischargeDepth := 30) [*]; done) | exact ⟨h.mem, h.lifecycle, h.tstat, h.phase⟩ | (simp +contextual (maxDischargeDepth := 30) [*, inv_foldl]; done) | dsimp only | (with_reducible first | apply State.modCore_inv | apply State.setCtx_inv | apply State.modCtx_inv | apply State.setMe_inv | apply State.modMe_inv | apply State.modProc_inv | apply State.modEntry_inv | apply State.setEntry_inv | apply State.send_inv | apply State.modLaunch_inv | apply State.setLaunch_inv) | split

@[simp] theorem execVfsub_inv (d : VReg) (a : VReg) (b : VReg) (t : FTy) (k : MReg) (r : Rm) {s : State} (h : s.Inv) : Res.Inv (execVfsub d a b t k r s) := by
  unfold execVfsub
  repeat' first | assumption | (refine inv_foldl ?_ fun _ _ _ => ?_) | (simp (maxDischargeDepth := 30) [*]; done) | exact ⟨h.mem, h.lifecycle, h.tstat, h.phase⟩ | (simp +contextual (maxDischargeDepth := 30) [*, inv_foldl]; done) | dsimp only | (with_reducible first | apply State.modCore_inv | apply State.setCtx_inv | apply State.modCtx_inv | apply State.setMe_inv | apply State.modMe_inv | apply State.modProc_inv | apply State.modEntry_inv | apply State.setEntry_inv | apply State.send_inv | apply State.modLaunch_inv | apply State.setLaunch_inv) | split

@[simp] theorem execVfmul_inv (d : VReg) (a : VReg) (b : VReg) (t : FTy) (k : MReg) (r : Rm) {s : State} (h : s.Inv) : Res.Inv (execVfmul d a b t k r s) := by
  unfold execVfmul
  repeat' first | assumption | (refine inv_foldl ?_ fun _ _ _ => ?_) | (simp (maxDischargeDepth := 30) [*]; done) | exact ⟨h.mem, h.lifecycle, h.tstat, h.phase⟩ | (simp +contextual (maxDischargeDepth := 30) [*, inv_foldl]; done) | dsimp only | (with_reducible first | apply State.modCore_inv | apply State.setCtx_inv | apply State.modCtx_inv | apply State.setMe_inv | apply State.modMe_inv | apply State.modProc_inv | apply State.modEntry_inv | apply State.setEntry_inv | apply State.send_inv | apply State.modLaunch_inv | apply State.setLaunch_inv) | split

@[simp] theorem execVfdiv_inv (d : VReg) (a : VReg) (b : VReg) (t : FTy) (k : MReg) (r : Rm) {s : State} (h : s.Inv) : Res.Inv (execVfdiv d a b t k r s) := by
  unfold execVfdiv
  repeat' first | assumption | (refine inv_foldl ?_ fun _ _ _ => ?_) | (simp (maxDischargeDepth := 30) [*]; done) | exact ⟨h.mem, h.lifecycle, h.tstat, h.phase⟩ | (simp +contextual (maxDischargeDepth := 30) [*, inv_foldl]; done) | dsimp only | (with_reducible first | apply State.modCore_inv | apply State.setCtx_inv | apply State.modCtx_inv | apply State.setMe_inv | apply State.modMe_inv | apply State.modProc_inv | apply State.modEntry_inv | apply State.setEntry_inv | apply State.send_inv | apply State.modLaunch_inv | apply State.setLaunch_inv) | split

@[simp] theorem execVfma_inv (d : VReg) (a : VReg) (b : VReg) (t : FTy) (k : MReg) (r : Rm) {s : State} (h : s.Inv) : Res.Inv (execVfma d a b t k r s) := by
  unfold execVfma
  repeat' first | assumption | (refine inv_foldl ?_ fun _ _ _ => ?_) | (simp (maxDischargeDepth := 30) [*]; done) | exact ⟨h.mem, h.lifecycle, h.tstat, h.phase⟩ | (simp +contextual (maxDischargeDepth := 30) [*, inv_foldl]; done) | dsimp only | (with_reducible first | apply State.modCore_inv | apply State.setCtx_inv | apply State.modCtx_inv | apply State.setMe_inv | apply State.modMe_inv | apply State.modProc_inv | apply State.modEntry_inv | apply State.setEntry_inv | apply State.send_inv | apply State.modLaunch_inv | apply State.setLaunch_inv) | split

@[simp] theorem execVfsqrt_inv (d : VReg) (a : VReg) (t : FTy) (k : MReg) (r : Rm) {s : State} (h : s.Inv) : Res.Inv (execVfsqrt d a t k r s) := by
  unfold execVfsqrt
  repeat' first | assumption | (refine inv_foldl ?_ fun _ _ _ => ?_) | (simp (maxDischargeDepth := 30) [*]; done) | exact ⟨h.mem, h.lifecycle, h.tstat, h.phase⟩ | (simp +contextual (maxDischargeDepth := 30) [*, inv_foldl]; done) | dsimp only | (with_reducible first | apply State.modCore_inv | apply State.setCtx_inv | apply State.modCtx_inv | apply State.setMe_inv | apply State.modMe_inv | apply State.modProc_inv | apply State.modEntry_inv | apply State.setEntry_inv | apply State.send_inv | apply State.modLaunch_inv | apply State.setLaunch_inv) | split

@[simp] theorem execVfdist_inv (d : VReg) (a : VReg) (b : VReg) (t : FTy) (k : MReg) {s : State} (h : s.Inv) : Res.Inv (execVfdist d a b t k s) := by
  unfold execVfdist
  repeat' first | assumption | (refine inv_foldl ?_ fun _ _ _ => ?_) | (simp (maxDischargeDepth := 30) [*]; done) | exact ⟨h.mem, h.lifecycle, h.tstat, h.phase⟩ | (simp +contextual (maxDischargeDepth := 30) [*, inv_foldl]; done) | dsimp only | (with_reducible first | apply State.modCore_inv | apply State.setCtx_inv | apply State.modCtx_inv | apply State.setMe_inv | apply State.modMe_inv | apply State.modProc_inv | apply State.modEntry_inv | apply State.setEntry_inv | apply State.send_inv | apply State.modLaunch_inv | apply State.setLaunch_inv) | split

@[simp] theorem State.vfpPlain_inv {s : State} (d : VReg) (a : VReg) (b : VReg) (t : FTy) (k : MReg) (f : ℕ → ℕ → ℕ × FlagSet) (h : s.Inv) : Res.Inv (State.vfpPlain s d a b t k f) := by
  unfold State.vfpPlain
  repeat' first | assumption | (refine inv_foldl ?_ fun _ _ _ => ?_) | (simp (maxDischargeDepth := 30) [*]; done) | exact ⟨h.mem, h.lifecycle, h.tstat, h.phase⟩ | (simp +contextual (maxDischargeDepth := 30) [*, inv_foldl]; done) | dsimp only | (with_reducible first | apply State.modCore_inv | apply State.setCtx_inv | apply State.modCtx_inv | apply State.setMe_inv | apply State.modMe_inv | apply State.modProc_inv | apply State.modEntry_inv | apply State.setEntry_inv | apply State.send_inv | apply State.modLaunch_inv | apply State.setLaunch_inv) | split

@[simp] theorem execVfmin_inv (d : VReg) (a : VReg) (b : VReg) (t : FTy) (k : MReg) {s : State} (h : s.Inv) : Res.Inv (execVfmin d a b t k s) := by
  unfold execVfmin
  repeat' first | assumption | (refine inv_foldl ?_ fun _ _ _ => ?_) | (simp (maxDischargeDepth := 30) [*]; done) | exact ⟨h.mem, h.lifecycle, h.tstat, h.phase⟩ | (simp +contextual (maxDischargeDepth := 30) [*, inv_foldl]; done) | dsimp only | (with_reducible first | apply State.modCore_inv | apply State.setCtx_inv | apply State.modCtx_inv | apply State.setMe_inv | apply State.modMe_inv | apply State.modProc_inv | apply State.modEntry_inv | apply State.setEntry_inv | apply State.send_inv | apply State.modLaunch_inv | apply State.setLaunch_inv) | split

@[simp] theorem execVfmax_inv (d : VReg) (a : VReg) (b : VReg) (t : FTy) (k : MReg) {s : State} (h : s.Inv) : Res.Inv (execVfmax d a b t k s) := by
  unfold execVfmax
  repeat' first | assumption | (refine inv_foldl ?_ fun _ _ _ => ?_) | (simp (maxDischargeDepth := 30) [*]; done) | exact ⟨h.mem, h.lifecycle, h.tstat, h.phase⟩ | (simp +contextual (maxDischargeDepth := 30) [*, inv_foldl]; done) | dsimp only | (with_reducible first | apply State.modCore_inv | apply State.setCtx_inv | apply State.modCtx_inv | apply State.setMe_inv | apply State.modMe_inv | apply State.modProc_inv | apply State.modEntry_inv | apply State.setEntry_inv | apply State.send_inv | apply State.modLaunch_inv | apply State.setLaunch_inv) | split

@[simp] theorem execVfabs_inv (d : VReg) (a : VReg) (t : FTy) (k : MReg) {s : State} (h : s.Inv) : Res.Inv (execVfabs d a t k s) := by
  unfold execVfabs
  repeat' first | assumption | (refine inv_foldl ?_ fun _ _ _ => ?_) | (simp (maxDischargeDepth := 30) [*]; done) | exact ⟨h.mem, h.lifecycle, h.tstat, h.phase⟩ | (simp +contextual (maxDischargeDepth := 30) [*, inv_foldl]; done) | dsimp only | (with_reducible first | apply State.modCore_inv | apply State.setCtx_inv | apply State.modCtx_inv | apply State.setMe_inv | apply State.modMe_inv | apply State.modProc_inv | apply State.modEntry_inv | apply State.setEntry_inv | apply State.send_inv | apply State.modLaunch_inv | apply State.setLaunch_inv) | split

@[simp] theorem execVfneg_inv (d : VReg) (a : VReg) (t : FTy) (k : MReg) {s : State} (h : s.Inv) : Res.Inv (execVfneg d a t k s) := by
  unfold execVfneg
  repeat' first | assumption | (refine inv_foldl ?_ fun _ _ _ => ?_) | (simp (maxDischargeDepth := 30) [*]; done) | exact ⟨h.mem, h.lifecycle, h.tstat, h.phase⟩ | (simp +contextual (maxDischargeDepth := 30) [*, inv_foldl]; done) | dsimp only | (with_reducible first | apply State.modCore_inv | apply State.setCtx_inv | apply State.modCtx_inv | apply State.setMe_inv | apply State.modMe_inv | apply State.modProc_inv | apply State.modEntry_inv | apply State.setEntry_inv | apply State.send_inv | apply State.modLaunch_inv | apply State.setLaunch_inv) | split

@[simp] theorem State.vcmp_inv {s : State} (d : MReg) (a : VReg) (b : VReg) (w : ℕ) (k : MReg) (f : ℕ → ℕ → Bool × FlagSet) (h : s.Inv) : Res.Inv (State.vcmp s d a b w k f) := by
  unfold State.vcmp
  repeat' first | assumption | (refine inv_foldl ?_ fun _ _ _ => ?_) | (simp (maxDischargeDepth := 30) [*]; done) | exact ⟨h.mem, h.lifecycle, h.tstat, h.phase⟩ | (simp +contextual (maxDischargeDepth := 30) [*, inv_foldl]; done) | dsimp only | (with_reducible first | apply State.modCore_inv | apply State.setCtx_inv | apply State.modCtx_inv | apply State.setMe_inv | apply State.modMe_inv | apply State.modProc_inv | apply State.modEntry_inv | apply State.setEntry_inv | apply State.send_inv | apply State.modLaunch_inv | apply State.setLaunch_inv) | split

@[simp] theorem execVcmpEq_inv (d : MReg) (a : VReg) (b : VReg) (t : LaneTy) (k : MReg) {s : State} (h : s.Inv) : Res.Inv (execVcmpEq d a b t k s) := by
  unfold execVcmpEq
  repeat' first | assumption | (refine inv_foldl ?_ fun _ _ _ => ?_) | (simp (maxDischargeDepth := 30) [*]; done) | exact ⟨h.mem, h.lifecycle, h.tstat, h.phase⟩ | (simp +contextual (maxDischargeDepth := 30) [*, inv_foldl]; done) | dsimp only | (with_reducible first | apply State.modCore_inv | apply State.setCtx_inv | apply State.modCtx_inv | apply State.setMe_inv | apply State.modMe_inv | apply State.modProc_inv | apply State.modEntry_inv | apply State.setEntry_inv | apply State.send_inv | apply State.modLaunch_inv | apply State.setLaunch_inv) | split

@[simp] theorem execVcmpNe_inv (d : MReg) (a : VReg) (b : VReg) (t : LaneTy) (k : MReg) {s : State} (h : s.Inv) : Res.Inv (execVcmpNe d a b t k s) := by
  unfold execVcmpNe
  repeat' first | assumption | (refine inv_foldl ?_ fun _ _ _ => ?_) | (simp (maxDischargeDepth := 30) [*]; done) | exact ⟨h.mem, h.lifecycle, h.tstat, h.phase⟩ | (simp +contextual (maxDischargeDepth := 30) [*, inv_foldl]; done) | dsimp only | (with_reducible first | apply State.modCore_inv | apply State.setCtx_inv | apply State.modCtx_inv | apply State.setMe_inv | apply State.modMe_inv | apply State.modProc_inv | apply State.modEntry_inv | apply State.setEntry_inv | apply State.send_inv | apply State.modLaunch_inv | apply State.setLaunch_inv) | split

@[simp] theorem execVcmpLt_inv (d : MReg) (a : VReg) (b : VReg) (t : LaneTy) (k : MReg) {s : State} (h : s.Inv) : Res.Inv (execVcmpLt d a b t k s) := by
  unfold execVcmpLt
  repeat' first | assumption | (refine inv_foldl ?_ fun _ _ _ => ?_) | (simp (maxDischargeDepth := 30) [*]; done) | exact ⟨h.mem, h.lifecycle, h.tstat, h.phase⟩ | (simp +contextual (maxDischargeDepth := 30) [*, inv_foldl]; done) | dsimp only | (with_reducible first | apply State.modCore_inv | apply State.setCtx_inv | apply State.modCtx_inv | apply State.setMe_inv | apply State.modMe_inv | apply State.modProc_inv | apply State.modEntry_inv | apply State.setEntry_inv | apply State.send_inv | apply State.modLaunch_inv | apply State.setLaunch_inv) | split

@[simp] theorem execVcmpLe_inv (d : MReg) (a : VReg) (b : VReg) (t : LaneTy) (k : MReg) {s : State} (h : s.Inv) : Res.Inv (execVcmpLe d a b t k s) := by
  unfold execVcmpLe
  repeat' first | assumption | (refine inv_foldl ?_ fun _ _ _ => ?_) | (simp (maxDischargeDepth := 30) [*]; done) | exact ⟨h.mem, h.lifecycle, h.tstat, h.phase⟩ | (simp +contextual (maxDischargeDepth := 30) [*, inv_foldl]; done) | dsimp only | (with_reducible first | apply State.modCore_inv | apply State.setCtx_inv | apply State.modCtx_inv | apply State.setMe_inv | apply State.modMe_inv | apply State.modProc_inv | apply State.modEntry_inv | apply State.setEntry_inv | apply State.send_inv | apply State.modLaunch_inv | apply State.setLaunch_inv) | split

@[simp] theorem execVcmpGt_inv (d : MReg) (a : VReg) (b : VReg) (t : LaneTy) (k : MReg) {s : State} (h : s.Inv) : Res.Inv (execVcmpGt d a b t k s) := by
  unfold execVcmpGt
  repeat' first | assumption | (refine inv_foldl ?_ fun _ _ _ => ?_) | (simp (maxDischargeDepth := 30) [*]; done) | exact ⟨h.mem, h.lifecycle, h.tstat, h.phase⟩ | (simp +contextual (maxDischargeDepth := 30) [*, inv_foldl]; done) | dsimp only | (with_reducible first | apply State.modCore_inv | apply State.setCtx_inv | apply State.modCtx_inv | apply State.setMe_inv | apply State.modMe_inv | apply State.modProc_inv | apply State.modEntry_inv | apply State.setEntry_inv | apply State.send_inv | apply State.modLaunch_inv | apply State.setLaunch_inv) | split

@[simp] theorem execVcmpGe_inv (d : MReg) (a : VReg) (b : VReg) (t : LaneTy) (k : MReg) {s : State} (h : s.Inv) : Res.Inv (execVcmpGe d a b t k s) := by
  unfold execVcmpGe
  repeat' first | assumption | (refine inv_foldl ?_ fun _ _ _ => ?_) | (simp (maxDischargeDepth := 30) [*]; done) | exact ⟨h.mem, h.lifecycle, h.tstat, h.phase⟩ | (simp +contextual (maxDischargeDepth := 30) [*, inv_foldl]; done) | dsimp only | (with_reducible first | apply State.modCore_inv | apply State.setCtx_inv | apply State.modCtx_inv | apply State.setMe_inv | apply State.modMe_inv | apply State.modProc_inv | apply State.modEntry_inv | apply State.setEntry_inv | apply State.send_inv | apply State.modLaunch_inv | apply State.setLaunch_inv) | split

@[simp] theorem execVcmpLtu_inv (d : MReg) (a : VReg) (b : VReg) (t : ITy) (k : MReg) {s : State} (h : s.Inv) : Res.Inv (execVcmpLtu d a b t k s) := by
  unfold execVcmpLtu
  repeat' first | assumption | (refine inv_foldl ?_ fun _ _ _ => ?_) | (simp (maxDischargeDepth := 30) [*]; done) | exact ⟨h.mem, h.lifecycle, h.tstat, h.phase⟩ | (simp +contextual (maxDischargeDepth := 30) [*, inv_foldl]; done) | dsimp only | (with_reducible first | apply State.modCore_inv | apply State.setCtx_inv | apply State.modCtx_inv | apply State.setMe_inv | apply State.modMe_inv | apply State.modProc_inv | apply State.modEntry_inv | apply State.setEntry_inv | apply State.send_inv | apply State.modLaunch_inv | apply State.setLaunch_inv) | split

@[simp] theorem execVcmpUn_inv (d : MReg) (a : VReg) (b : VReg) (t : FTy) (k : MReg) {s : State} (h : s.Inv) : Res.Inv (execVcmpUn d a b t k s) := by
  unfold execVcmpUn
  repeat' first | assumption | (refine inv_foldl ?_ fun _ _ _ => ?_) | (simp (maxDischargeDepth := 30) [*]; done) | exact ⟨h.mem, h.lifecycle, h.tstat, h.phase⟩ | (simp +contextual (maxDischargeDepth := 30) [*, inv_foldl]; done) | dsimp only | (with_reducible first | apply State.modCore_inv | apply State.setCtx_inv | apply State.modCtx_inv | apply State.setMe_inv | apply State.modMe_inv | apply State.modProc_inv | apply State.modEntry_inv | apply State.setEntry_inv | apply State.send_inv | apply State.modLaunch_inv | apply State.setLaunch_inv) | split

@[simp] theorem execVcvt_inv (d : VReg) (a : VReg) (p : Fin 8) (k : MReg) (t : Ty) (src : Ty) (r : Rm) {s : State} (h : s.Inv) : Res.Inv (execVcvt d a p k t src r s) := by
  unfold execVcvt
  repeat' first | assumption | (refine inv_foldl ?_ fun _ _ _ => ?_) | (simp (maxDischargeDepth := 30) [*]; done) | exact ⟨h.mem, h.lifecycle, h.tstat, h.phase⟩ | (simp +contextual (maxDischargeDepth := 30) [*, inv_foldl]; done) | dsimp only | (with_reducible first | apply State.modCore_inv | apply State.setCtx_inv | apply State.modCtx_inv | apply State.setMe_inv | apply State.modMe_inv | apply State.modProc_inv | apply State.modEntry_inv | apply State.setEntry_inv | apply State.send_inv | apply State.modLaunch_inv | apply State.setLaunch_inv) | split

@[simp] theorem State.moveLanes_inv {s : State} (d : VReg) (w : ℕ) (k : MReg) (f : ℕ → ℕ) (h : s.Inv) : Res.Inv (State.moveLanes s d w k f) := by
  unfold State.moveLanes
  repeat' first | assumption | (refine inv_foldl ?_ fun _ _ _ => ?_) | (simp (maxDischargeDepth := 30) [*]; done) | exact ⟨h.mem, h.lifecycle, h.tstat, h.phase⟩ | (simp +contextual (maxDischargeDepth := 30) [*, inv_foldl]; done) | dsimp only | (with_reducible first | apply State.modCore_inv | apply State.setCtx_inv | apply State.modCtx_inv | apply State.setMe_inv | apply State.modMe_inv | apply State.modProc_inv | apply State.modEntry_inv | apply State.setEntry_inv | apply State.send_inv | apply State.modLaunch_inv | apply State.setLaunch_inv) | split

@[simp] theorem execVbcast_inv (d : VReg) (a : GReg) (t : ITy) (k : MReg) {s : State} (h : s.Inv) : Res.Inv (execVbcast d a t k s) := by
  unfold execVbcast
  repeat' first | assumption | (refine inv_foldl ?_ fun _ _ _ => ?_) | (simp (maxDischargeDepth := 30) [*]; done) | exact ⟨h.mem, h.lifecycle, h.tstat, h.phase⟩ | (simp +contextual (maxDischargeDepth := 30) [*, inv_foldl]; done) | dsimp only | (with_reducible first | apply State.modCore_inv | apply State.setCtx_inv | apply State.modCtx_inv | apply State.setMe_inv | apply State.modMe_inv | apply State.modProc_inv | apply State.modEntry_inv | apply State.setEntry_inv | apply State.send_inv | apply State.modLaunch_inv | apply State.setLaunch_inv) | split

@[simp] theorem execVext_inv (d : GReg) (a : VReg) (b : GReg) (t : ITy) {s : State} (h : s.Inv) : Res.Inv (execVext d a b t s) := by
  unfold execVext
  repeat' first | assumption | (refine inv_foldl ?_ fun _ _ _ => ?_) | (simp (maxDischargeDepth := 30) [*]; done) | exact ⟨h.mem, h.lifecycle, h.tstat, h.phase⟩ | (simp +contextual (maxDischargeDepth := 30) [*, inv_foldl]; done) | dsimp only | (with_reducible first | apply State.modCore_inv | apply State.setCtx_inv | apply State.modCtx_inv | apply State.setMe_inv | apply State.modMe_inv | apply State.modProc_inv | apply State.modEntry_inv | apply State.setEntry_inv | apply State.send_inv | apply State.modLaunch_inv | apply State.setLaunch_inv) | split

@[simp] theorem execVins_inv (d : VReg) (a : GReg) (b : GReg) (t : ITy) {s : State} (h : s.Inv) : Res.Inv (execVins d a b t s) := by
  unfold execVins
  repeat' first | assumption | (refine inv_foldl ?_ fun _ _ _ => ?_) | (simp (maxDischargeDepth := 30) [*]; done) | exact ⟨h.mem, h.lifecycle, h.tstat, h.phase⟩ | (simp +contextual (maxDischargeDepth := 30) [*, inv_foldl]; done) | dsimp only | (with_reducible first | apply State.modCore_inv | apply State.setCtx_inv | apply State.modCtx_inv | apply State.setMe_inv | apply State.modMe_inv | apply State.modProc_inv | apply State.modEntry_inv | apply State.setEntry_inv | apply State.send_inv | apply State.modLaunch_inv | apply State.setLaunch_inv) | split

@[simp] theorem execVperm_inv (d : VReg) (a : VReg) (b : VReg) (t : ITy) (k : MReg) {s : State} (h : s.Inv) : Res.Inv (execVperm d a b t k s) := by
  unfold execVperm
  repeat' first | assumption | (refine inv_foldl ?_ fun _ _ _ => ?_) | (simp (maxDischargeDepth := 30) [*]; done) | exact ⟨h.mem, h.lifecycle, h.tstat, h.phase⟩ | (simp +contextual (maxDischargeDepth := 30) [*, inv_foldl]; done) | dsimp only | (with_reducible first | apply State.modCore_inv | apply State.setCtx_inv | apply State.modCtx_inv | apply State.setMe_inv | apply State.modMe_inv | apply State.modProc_inv | apply State.modEntry_inv | apply State.setEntry_inv | apply State.send_inv | apply State.modLaunch_inv | apply State.setLaunch_inv) | split

@[simp] theorem execVsel_inv (d : VReg) (a : VReg) (b : VReg) (t : ITy) (k : MReg) {s : State} (h : s.Inv) : Res.Inv (execVsel d a b t k s) := by
  unfold execVsel
  repeat' first | assumption | (refine inv_foldl ?_ fun _ _ _ => ?_) | (simp (maxDischargeDepth := 30) [*]; done) | exact ⟨h.mem, h.lifecycle, h.tstat, h.phase⟩ | (simp +contextual (maxDischargeDepth := 30) [*, inv_foldl]; done) | dsimp only | (with_reducible first | apply State.modCore_inv | apply State.setCtx_inv | apply State.modCtx_inv | apply State.setMe_inv | apply State.modMe_inv | apply State.modProc_inv | apply State.modEntry_inv | apply State.setEntry_inv | apply State.send_inv | apply State.modLaunch_inv | apply State.setLaunch_inv) | split

@[simp] theorem execVmov_inv (d : VReg) (a : VReg) (t : ITy) (k : MReg) {s : State} (h : s.Inv) : Res.Inv (execVmov d a t k s) := by
  unfold execVmov
  repeat' first | assumption | (refine inv_foldl ?_ fun _ _ _ => ?_) | (simp (maxDischargeDepth := 30) [*]; done) | exact ⟨h.mem, h.lifecycle, h.tstat, h.phase⟩ | (simp +contextual (maxDischargeDepth := 30) [*, inv_foldl]; done) | dsimp only | (with_reducible first | apply State.modCore_inv | apply State.setCtx_inv | apply State.modCtx_inv | apply State.setMe_inv | apply State.modMe_inv | apply State.modProc_inv | apply State.modEntry_inv | apply State.setEntry_inv | apply State.send_inv | apply State.modLaunch_inv | apply State.setLaunch_inv) | split

@[simp] theorem execVredAdd_inv (d : GReg) (a : VReg) (t : ITy) (k : MReg) {s : State} (h : s.Inv) : Res.Inv (execVredAdd d a t k s) := by
  unfold execVredAdd
  repeat' first | assumption | (refine inv_foldl ?_ fun _ _ _ => ?_) | (simp (maxDischargeDepth := 30) [*]; done) | exact ⟨h.mem, h.lifecycle, h.tstat, h.phase⟩ | (simp +contextual (maxDischargeDepth := 30) [*, inv_foldl]; done) | dsimp only | (with_reducible first | apply State.modCore_inv | apply State.setCtx_inv | apply State.modCtx_inv | apply State.setMe_inv | apply State.modMe_inv | apply State.modProc_inv | apply State.modEntry_inv | apply State.setEntry_inv | apply State.send_inv | apply State.modLaunch_inv | apply State.setLaunch_inv) | split

@[simp] theorem execVredMin_inv (d : GReg) (a : VReg) (t : ITy) (k : MReg) {s : State} (h : s.Inv) : Res.Inv (execVredMin d a t k s) := by
  unfold execVredMin
  repeat' first | assumption | (refine inv_foldl ?_ fun _ _ _ => ?_) | (simp (maxDischargeDepth := 30) [*]; done) | exact ⟨h.mem, h.lifecycle, h.tstat, h.phase⟩ | (simp +contextual (maxDischargeDepth := 30) [*, inv_foldl]; done) | dsimp only | (with_reducible first | apply State.modCore_inv | apply State.setCtx_inv | apply State.modCtx_inv | apply State.setMe_inv | apply State.modMe_inv | apply State.modProc_inv | apply State.modEntry_inv | apply State.setEntry_inv | apply State.send_inv | apply State.modLaunch_inv | apply State.setLaunch_inv) | split

@[simp] theorem execVredMax_inv (d : GReg) (a : VReg) (t : ITy) (k : MReg) {s : State} (h : s.Inv) : Res.Inv (execVredMax d a t k s) := by
  unfold execVredMax
  repeat' first | assumption | (refine inv_foldl ?_ fun _ _ _ => ?_) | (simp (maxDischargeDepth := 30) [*]; done) | exact ⟨h.mem, h.lifecycle, h.tstat, h.phase⟩ | (simp +contextual (maxDischargeDepth := 30) [*, inv_foldl]; done) | dsimp only | (with_reducible first | apply State.modCore_inv | apply State.setCtx_inv | apply State.modCtx_inv | apply State.setMe_inv | apply State.modMe_inv | apply State.modProc_inv | apply State.modEntry_inv | apply State.setEntry_inv | apply State.send_inv | apply State.modLaunch_inv | apply State.setLaunch_inv) | split

@[simp] theorem execVredMinu_inv (d : GReg) (a : VReg) (t : ITy) (k : MReg) {s : State} (h : s.Inv) : Res.Inv (execVredMinu d a t k s) := by
  unfold execVredMinu
  repeat' first | assumption | (refine inv_foldl ?_ fun _ _ _ => ?_) | (simp (maxDischargeDepth := 30) [*]; done) | exact ⟨h.mem, h.lifecycle, h.tstat, h.phase⟩ | (simp +contextual (maxDischargeDepth := 30) [*, inv_foldl]; done) | dsimp only | (with_reducible first | apply State.modCore_inv | apply State.setCtx_inv | apply State.modCtx_inv | apply State.setMe_inv | apply State.modMe_inv | apply State.modProc_inv | apply State.modEntry_inv | apply State.setEntry_inv | apply State.send_inv | apply State.modLaunch_inv | apply State.setLaunch_inv) | split

@[simp] theorem execVredMaxu_inv (d : GReg) (a : VReg) (t : ITy) (k : MReg) {s : State} (h : s.Inv) : Res.Inv (execVredMaxu d a t k s) := by
  unfold execVredMaxu
  repeat' first | assumption | (refine inv_foldl ?_ fun _ _ _ => ?_) | (simp (maxDischargeDepth := 30) [*]; done) | exact ⟨h.mem, h.lifecycle, h.tstat, h.phase⟩ | (simp +contextual (maxDischargeDepth := 30) [*, inv_foldl]; done) | dsimp only | (with_reducible first | apply State.modCore_inv | apply State.setCtx_inv | apply State.modCtx_inv | apply State.setMe_inv | apply State.modMe_inv | apply State.modProc_inv | apply State.modEntry_inv | apply State.setEntry_inv | apply State.send_inv | apply State.modLaunch_inv | apply State.setLaunch_inv) | split

@[simp] theorem execVfredAdd_inv (d : GReg) (a : VReg) (t : FTy) (k : MReg) {s : State} (h : s.Inv) : Res.Inv (execVfredAdd d a t k s) := by
  unfold execVfredAdd
  repeat' first | assumption | (refine inv_foldl ?_ fun _ _ _ => ?_) | (simp (maxDischargeDepth := 30) [*]; done) | exact ⟨h.mem, h.lifecycle, h.tstat, h.phase⟩ | (simp +contextual (maxDischargeDepth := 30) [*, inv_foldl]; done) | dsimp only | (with_reducible first | apply State.modCore_inv | apply State.setCtx_inv | apply State.modCtx_inv | apply State.setMe_inv | apply State.modMe_inv | apply State.modProc_inv | apply State.modEntry_inv | apply State.setEntry_inv | apply State.send_inv | apply State.modLaunch_inv | apply State.setLaunch_inv) | split

@[simp] theorem execVfredMin_inv (d : GReg) (a : VReg) (t : FTy) (k : MReg) {s : State} (h : s.Inv) : Res.Inv (execVfredMin d a t k s) := by
  unfold execVfredMin
  repeat' first | assumption | (refine inv_foldl ?_ fun _ _ _ => ?_) | (simp (maxDischargeDepth := 30) [*]; done) | exact ⟨h.mem, h.lifecycle, h.tstat, h.phase⟩ | (simp +contextual (maxDischargeDepth := 30) [*, inv_foldl]; done) | dsimp only | (with_reducible first | apply State.modCore_inv | apply State.setCtx_inv | apply State.modCtx_inv | apply State.setMe_inv | apply State.modMe_inv | apply State.modProc_inv | apply State.modEntry_inv | apply State.setEntry_inv | apply State.send_inv | apply State.modLaunch_inv | apply State.setLaunch_inv) | split

@[simp] theorem execVfredMax_inv (d : GReg) (a : VReg) (t : FTy) (k : MReg) {s : State} (h : s.Inv) : Res.Inv (execVfredMax d a t k s) := by
  unfold execVfredMax
  repeat' first | assumption | (refine inv_foldl ?_ fun _ _ _ => ?_) | (simp (maxDischargeDepth := 30) [*]; done) | exact ⟨h.mem, h.lifecycle, h.tstat, h.phase⟩ | (simp +contextual (maxDischargeDepth := 30) [*, inv_foldl]; done) | dsimp only | (with_reducible first | apply State.modCore_inv | apply State.setCtx_inv | apply State.modCtx_inv | apply State.setMe_inv | apply State.modMe_inv | apply State.modProc_inv | apply State.modEntry_inv | apply State.setEntry_inv | apply State.send_inv | apply State.modLaunch_inv | apply State.setLaunch_inv) | split

@[simp] theorem execMand_inv (d : MReg) (a : MReg) (b : MReg) {s : State} (h : s.Inv) : Res.Inv (execMand d a b s) := by
  unfold execMand
  repeat' first | assumption | (refine inv_foldl ?_ fun _ _ _ => ?_) | (simp (maxDischargeDepth := 30) [*]; done) | exact ⟨h.mem, h.lifecycle, h.tstat, h.phase⟩ | (simp +contextual (maxDischargeDepth := 30) [*, inv_foldl]; done) | dsimp only | (with_reducible first | apply State.modCore_inv | apply State.setCtx_inv | apply State.modCtx_inv | apply State.setMe_inv | apply State.modMe_inv | apply State.modProc_inv | apply State.modEntry_inv | apply State.setEntry_inv | apply State.send_inv | apply State.modLaunch_inv | apply State.setLaunch_inv) | split

@[simp] theorem execMor_inv (d : MReg) (a : MReg) (b : MReg) {s : State} (h : s.Inv) : Res.Inv (execMor d a b s) := by
  unfold execMor
  repeat' first | assumption | (refine inv_foldl ?_ fun _ _ _ => ?_) | (simp (maxDischargeDepth := 30) [*]; done) | exact ⟨h.mem, h.lifecycle, h.tstat, h.phase⟩ | (simp +contextual (maxDischargeDepth := 30) [*, inv_foldl]; done) | dsimp only | (with_reducible first | apply State.modCore_inv | apply State.setCtx_inv | apply State.modCtx_inv | apply State.setMe_inv | apply State.modMe_inv | apply State.modProc_inv | apply State.modEntry_inv | apply State.setEntry_inv | apply State.send_inv | apply State.modLaunch_inv | apply State.setLaunch_inv) | split

@[simp] theorem execMxor_inv (d : MReg) (a : MReg) (b : MReg) {s : State} (h : s.Inv) : Res.Inv (execMxor d a b s) := by
  unfold execMxor
  repeat' first | assumption | (refine inv_foldl ?_ fun _ _ _ => ?_) | (simp (maxDischargeDepth := 30) [*]; done) | exact ⟨h.mem, h.lifecycle, h.tstat, h.phase⟩ | (simp +contextual (maxDischargeDepth := 30) [*, inv_foldl]; done) | dsimp only | (with_reducible first | apply State.modCore_inv | apply State.setCtx_inv | apply State.modCtx_inv | apply State.setMe_inv | apply State.modMe_inv | apply State.modProc_inv | apply State.modEntry_inv | apply State.setEntry_inv | apply State.send_inv | apply State.modLaunch_inv | apply State.setLaunch_inv) | split

@[simp] theorem execMnot_inv (d : MReg) (a : MReg) {s : State} (h : s.Inv) : Res.Inv (execMnot d a s) := by
  unfold execMnot
  repeat' first | assumption | (refine inv_foldl ?_ fun _ _ _ => ?_) | (simp (maxDischargeDepth := 30) [*]; done) | exact ⟨h.mem, h.lifecycle, h.tstat, h.phase⟩ | (simp +contextual (maxDischargeDepth := 30) [*, inv_foldl]; done) | dsimp only | (with_reducible first | apply State.modCore_inv | apply State.setCtx_inv | apply State.modCtx_inv | apply State.setMe_inv | apply State.modMe_inv | apply State.modProc_inv | apply State.modEntry_inv | apply State.setEntry_inv | apply State.send_inv | apply State.modLaunch_inv | apply State.setLaunch_inv) | split

@[simp] theorem execMmov_inv (d : MReg) (a : MReg) {s : State} (h : s.Inv) : Res.Inv (execMmov d a s) := by
  unfold execMmov
  repeat' first | assumption | (refine inv_foldl ?_ fun _ _ _ => ?_) | (simp (maxDischargeDepth := 30) [*]; done) | exact ⟨h.mem, h.lifecycle, h.tstat, h.phase⟩ | (simp +contextual (maxDischargeDepth := 30) [*, inv_foldl]; done) | dsimp only | (with_reducible first | apply State.modCore_inv | apply State.setCtx_inv | apply State.modCtx_inv | apply State.setMe_inv | apply State.modMe_inv | apply State.modProc_inv | apply State.modEntry_inv | apply State.setEntry_inv | apply State.send_inv | apply State.modLaunch_inv | apply State.setLaunch_inv) | split

@[simp] theorem execMfromg_inv (d : MReg) (a : GReg) {s : State} (h : s.Inv) : Res.Inv (execMfromg d a s) := by
  unfold execMfromg
  repeat' first | assumption | (refine inv_foldl ?_ fun _ _ _ => ?_) | (simp (maxDischargeDepth := 30) [*]; done) | exact ⟨h.mem, h.lifecycle, h.tstat, h.phase⟩ | (simp +contextual (maxDischargeDepth := 30) [*, inv_foldl]; done) | dsimp only | (with_reducible first | apply State.modCore_inv | apply State.setCtx_inv | apply State.modCtx_inv | apply State.setMe_inv | apply State.modMe_inv | apply State.modProc_inv | apply State.modEntry_inv | apply State.setEntry_inv | apply State.send_inv | apply State.modLaunch_inv | apply State.setLaunch_inv) | split

@[simp] theorem execMtog_inv (d : GReg) (a : MReg) {s : State} (h : s.Inv) : Res.Inv (execMtog d a s) := by
  unfold execMtog
  repeat' first | assumption | (refine inv_foldl ?_ fun _ _ _ => ?_) | (simp (maxDischargeDepth := 30) [*]; done) | exact ⟨h.mem, h.lifecycle, h.tstat, h.phase⟩ | (simp +contextual (maxDischargeDepth := 30) [*, inv_foldl]; done) | dsimp only | (with_reducible first | apply State.modCore_inv | apply State.setCtx_inv | apply State.modCtx_inv | apply State.setMe_inv | apply State.modMe_inv | apply State.modProc_inv | apply State.modEntry_inv | apply State.setEntry_inv | apply State.send_inv | apply State.modLaunch_inv | apply State.setLaunch_inv) | split

@[simp] theorem execMpop_inv (d : GReg) (a : MReg) {s : State} (h : s.Inv) : Res.Inv (execMpop d a s) := by
  unfold execMpop
  repeat' first | assumption | (refine inv_foldl ?_ fun _ _ _ => ?_) | (simp (maxDischargeDepth := 30) [*]; done) | exact ⟨h.mem, h.lifecycle, h.tstat, h.phase⟩ | (simp +contextual (maxDischargeDepth := 30) [*, inv_foldl]; done) | dsimp only | (with_reducible first | apply State.modCore_inv | apply State.setCtx_inv | apply State.modCtx_inv | apply State.setMe_inv | apply State.modMe_inv | apply State.modProc_inv | apply State.modEntry_inv | apply State.setEntry_inv | apply State.send_inv | apply State.modLaunch_inv | apply State.setLaunch_inv) | split

@[simp] theorem State.vecLoad_inv {s : State} (i : Instr) (d : VReg) (n : ℕ) (parts : List (Word × ℕ)) (h : s.Inv) : Res.Inv (State.vecLoad s i d n parts) := by
  unfold State.vecLoad
  repeat' first | assumption | (refine inv_foldl ?_ fun _ _ _ => ?_) | (simp (maxDischargeDepth := 30) [*]; done) | exact ⟨h.mem, h.lifecycle, h.tstat, h.phase⟩ | (simp +contextual (maxDischargeDepth := 30) [*, inv_foldl]; done) | dsimp only | (with_reducible first | apply State.modCore_inv | apply State.setCtx_inv | apply State.modCtx_inv | apply State.setMe_inv | apply State.modMe_inv | apply State.modProc_inv | apply State.modEntry_inv | apply State.setEntry_inv | apply State.send_inv | apply State.modLaunch_inv | apply State.setLaunch_inv) | split

@[simp] theorem State.vecStore_inv {s : State} (i : Instr) (d : VReg) (n : ℕ) (parts : List (Word × ℕ)) (h : s.Inv) : Res.Inv (State.vecStore s i d n parts) := by
  unfold State.vecStore
  repeat' first | assumption | (refine inv_foldl ?_ fun _ _ _ => ?_) | (simp (maxDischargeDepth := 30) [*]; done) | (have h2 := State.journalAll_inv _ _ h _ ‹_›; simp (maxDischargeDepth := 30) [*]; done) | exact ⟨h.mem, h.lifecycle, h.tstat, h.phase⟩ | (simp +contextual (maxDischargeDepth := 30) [*, inv_foldl]; done) | dsimp only | (with_reducible first | apply State.modCore_inv | apply State.setCtx_inv | apply State.modCtx_inv | apply State.setMe_inv | apply State.modMe_inv | apply State.modProc_inv | apply State.modEntry_inv | apply State.setEntry_inv | apply State.send_inv | apply State.modLaunch_inv | apply State.setLaunch_inv) | split

@[simp] theorem execVld_inv (d : VReg) (a : GReg) (i : BitVec 16) {s : State} (h : s.Inv) : Res.Inv (execVld d a i s) := by
  unfold execVld
  repeat' first | assumption | (refine inv_foldl ?_ fun _ _ _ => ?_) | (simp (maxDischargeDepth := 30) [*]; done) | exact ⟨h.mem, h.lifecycle, h.tstat, h.phase⟩ | (simp +contextual (maxDischargeDepth := 30) [*, inv_foldl]; done) | dsimp only | (with_reducible first | apply State.modCore_inv | apply State.setCtx_inv | apply State.modCtx_inv | apply State.setMe_inv | apply State.modMe_inv | apply State.modProc_inv | apply State.modEntry_inv | apply State.setEntry_inv | apply State.send_inv | apply State.modLaunch_inv | apply State.setLaunch_inv) | split

@[simp] theorem execVst_inv (d : VReg) (a : GReg) (i : BitVec 16) {s : State} (h : s.Inv) : Res.Inv (execVst d a i s) := by
  unfold execVst
  repeat' first | assumption | (refine inv_foldl ?_ fun _ _ _ => ?_) | (simp (maxDischargeDepth := 30) [*]; done) | exact ⟨h.mem, h.lifecycle, h.tstat, h.phase⟩ | (simp +contextual (maxDischargeDepth := 30) [*, inv_foldl]; done) | dsimp only | (with_reducible first | apply State.modCore_inv | apply State.setCtx_inv | apply State.modCtx_inv | apply State.setMe_inv | apply State.modMe_inv | apply State.modProc_inv | apply State.modEntry_inv | apply State.setEntry_inv | apply State.send_inv | apply State.modLaunch_inv | apply State.setLaunch_inv) | split

@[simp] theorem State.elementLoad_inv {s : State} (i : Instr) (d : VReg) (n : ℕ) (parts : List (Word × ℕ)) (h : s.Inv) : Res.Inv (State.elementLoad s i d n parts) := by
  unfold State.elementLoad
  repeat' first | assumption | (refine inv_foldl ?_ fun _ _ _ => ?_) | (simp (maxDischargeDepth := 30) [*]; done) | exact ⟨h.mem, h.lifecycle, h.tstat, h.phase⟩ | (simp +contextual (maxDischargeDepth := 30) [*, inv_foldl]; done) | dsimp only | (with_reducible first | apply State.modCore_inv | apply State.setCtx_inv | apply State.modCtx_inv | apply State.setMe_inv | apply State.modMe_inv | apply State.modProc_inv | apply State.modEntry_inv | apply State.setEntry_inv | apply State.send_inv | apply State.modLaunch_inv | apply State.setLaunch_inv) | split

@[simp] theorem State.elementStore_inv {s : State} (i : Instr) (d : VReg) (n : ℕ) (parts : List (Word × ℕ)) (h : s.Inv) : Res.Inv (State.elementStore s i d n parts) := by
  unfold State.elementStore
  repeat' first | assumption | (refine inv_foldl ?_ fun _ _ _ => ?_) | (simp (maxDischargeDepth := 30) [*]; done) | exact ⟨h.mem, h.lifecycle, h.tstat, h.phase⟩ | (simp +contextual (maxDischargeDepth := 30) [*, inv_foldl]; done) | dsimp only | (with_reducible first | apply State.modCore_inv | apply State.setCtx_inv | apply State.modCtx_inv | apply State.setMe_inv | apply State.modMe_inv | apply State.modProc_inv | apply State.modEntry_inv | apply State.setEntry_inv | apply State.send_inv | apply State.modLaunch_inv | apply State.setLaunch_inv) | split

@[simp] theorem execVldM_inv (d : VReg) (a : GReg) (z : LaneSize) (k : MReg) {s : State} (h : s.Inv) : Res.Inv (execVldM d a z k s) := by
  unfold execVldM
  repeat' first | assumption | (refine inv_foldl ?_ fun _ _ _ => ?_) | (simp (maxDischargeDepth := 30) [*]; done) | exact ⟨h.mem, h.lifecycle, h.tstat, h.phase⟩ | (simp +contextual (maxDischargeDepth := 30) [*, inv_foldl]; done) | dsimp only | (with_reducible first | apply State.modCore_inv | apply State.setCtx_inv | apply State.modCtx_inv | apply State.setMe_inv | apply State.modMe_inv | apply State.modProc_inv | apply State.modEntry_inv | apply State.setEntry_inv | apply State.send_inv | apply State.modLaunch_inv | apply State.setLaunch_inv) | split

@[simp] theorem execVstM_inv (d : VReg) (a : GReg) (z : LaneSize) (k : MReg) {s : State} (h : s.Inv) : Res.Inv (execVstM d a z k s) := by
  unfold execVstM
  repeat' first | assumption | (refine inv_foldl ?_ fun _ _ _ => ?_) | (simp (maxDischargeDepth := 30) [*]; done) | exact ⟨h.mem, h.lifecycle, h.tstat, h.phase⟩ | (simp +contextual (maxDischargeDepth := 30) [*, inv_foldl]; done) | dsimp only | (with_reducible first | apply State.modCore_inv | apply State.setCtx_inv | apply State.modCtx_inv | apply State.setMe_inv | apply State.modMe_inv | apply State.modProc_inv | apply State.modEntry_inv | apply State.setEntry_inv | apply State.send_inv | apply State.modLaunch_inv | apply State.setLaunch_inv) | split

@[simp] theorem execVlds_inv (d : VReg) (a : GReg) (b : GReg) (z : LaneSize) (k : MReg) {s : State} (h : s.Inv) : Res.Inv (execVlds d a b z k s) := by
  unfold execVlds
  repeat' first | assumption | (refine inv_foldl ?_ fun _ _ _ => ?_) | (simp (maxDischargeDepth := 30) [*]; done) | exact ⟨h.mem, h.lifecycle, h.tstat, h.phase⟩ | (simp +contextual (maxDischargeDepth := 30) [*, inv_foldl]; done) | dsimp only | (with_reducible first | apply State.modCore_inv | apply State.setCtx_inv | apply State.modCtx_inv | apply State.setMe_inv | apply State.modMe_inv | apply State.modProc_inv | apply State.modEntry_inv | apply State.setEntry_inv | apply State.send_inv | apply State.modLaunch_inv | apply State.setLaunch_inv) | split

@[simp] theorem execVsts_inv (d : VReg) (a : GReg) (b : GReg) (z : LaneSize) (k : MReg) {s : State} (h : s.Inv) : Res.Inv (execVsts d a b z k s) := by
  unfold execVsts
  repeat' first | assumption | (refine inv_foldl ?_ fun _ _ _ => ?_) | (simp (maxDischargeDepth := 30) [*]; done) | exact ⟨h.mem, h.lifecycle, h.tstat, h.phase⟩ | (simp +contextual (maxDischargeDepth := 30) [*, inv_foldl]; done) | dsimp only | (with_reducible first | apply State.modCore_inv | apply State.setCtx_inv | apply State.modCtx_inv | apply State.setMe_inv | apply State.modMe_inv | apply State.modProc_inv | apply State.modEntry_inv | apply State.setEntry_inv | apply State.send_inv | apply State.modLaunch_inv | apply State.setLaunch_inv) | split

@[simp] theorem State.modReduction_inv {s : State} (pcn : ℕ) (launch : ℕ) (f : Reduction → Reduction) (h : s.Inv) : (State.modReduction s pcn launch f).Inv := by
  unfold State.modReduction
  repeat' first | assumption | (refine inv_foldl ?_ fun _ _ _ => ?_) | (simp (maxDischargeDepth := 30) [*]; done) | exact ⟨h.mem, h.lifecycle, h.tstat, h.phase⟩ | (simp +contextual (maxDischargeDepth := 30) [*, inv_foldl]; done) | dsimp only | (with_reducible first | apply State.modCore_inv | apply State.setCtx_inv | apply State.modCtx_inv | apply State.setMe_inv | apply State.modMe_inv | apply State.modProc_inv | apply State.modEntry_inv | apply State.setEntry_inv | apply State.send_inv | apply State.modLaunch_inv | apply State.setLaunch_inv) | split

@[simp] theorem State.post_inv {s : State} (cls : PacketClass) (src : ℕ) (dst : ℕ) (colour : Option ℕ) (body : Body) (h : s.Inv) : (State.post s cls src dst colour body).Inv := by
  unfold State.post
  repeat' first | assumption | (refine inv_foldl ?_ fun _ _ _ => ?_) | (simp (maxDischargeDepth := 30) [*]; done) | exact ⟨h.mem, h.lifecycle, h.tstat, h.phase⟩ | (simp +contextual (maxDischargeDepth := 30) [*, inv_foldl]; done) | dsimp only | (with_reducible first | apply State.modCore_inv | apply State.setCtx_inv | apply State.modCtx_inv | apply State.setMe_inv | apply State.modMe_inv | apply State.modProc_inv | apply State.modEntry_inv | apply State.setEntry_inv | apply State.send_inv | apply State.modLaunch_inv | apply State.setLaunch_inv) | split

@[simp] theorem State.postEvent_inv {s : State} (cls : PacketClass) (src : ℕ) (dst : ℕ) (launch : ℕ) (timed : Bool) (vt : ℕ) (body : Body) (h : s.Inv) : (State.postEvent s cls src dst launch timed vt body).Inv := by
  unfold State.postEvent
  repeat' first | assumption | (refine inv_foldl ?_ fun _ _ _ => ?_) | (simp (maxDischargeDepth := 30) [*]; done) | exact ⟨h.mem, h.lifecycle, h.tstat, h.phase⟩ | (simp +contextual (maxDischargeDepth := 30) [*, inv_foldl]; done) | dsimp only | (with_reducible first | apply State.modCore_inv | apply State.setCtx_inv | apply State.modCtx_inv | apply State.setMe_inv | apply State.modMe_inv | apply State.modProc_inv | apply State.modEntry_inv | apply State.setEntry_inv | apply State.send_inv | apply State.modLaunch_inv | apply State.setLaunch_inv) | split

@[simp] theorem State.sweepBulk_inv {s : State} (h : s.Inv) : (State.sweepBulk s).Inv := by
  unfold State.sweepBulk
  repeat' first | assumption | (refine inv_foldl ?_ fun _ _ _ => ?_) | (simp (maxDischargeDepth := 30) [*]; done) | exact ⟨h.mem, h.lifecycle, h.tstat, h.phase⟩ | (simp +contextual (maxDischargeDepth := 30) [*, inv_foldl]; done) | dsimp only | (with_reducible first | apply State.modCore_inv | apply State.setCtx_inv | apply State.modCtx_inv | apply State.setMe_inv | apply State.modMe_inv | apply State.modProc_inv | apply State.modEntry_inv | apply State.setEntry_inv | apply State.send_inv | apply State.modLaunch_inv | apply State.setLaunch_inv) | split

@[simp] theorem State.postBulk_inv {s : State} (src dst : ℕ) (colour : Option ℕ) (owner : ℕ) (h : s.Inv) :
    (State.postBulk s src dst colour owner).Inv := by
  unfold State.postBulk
  dsimp only
  cases colour with
  | none => exact State.send_inv _ h
  | some c =>
    dsimp only
    split
    · exact State.send_inv _ (State.modCore_inv _ _ h)
    · exact State.send_inv _ h

@[simp] theorem State.takePacket_inv {s : State} (n : ℕ) (p : Packet) (h : s.Inv) : (State.takePacket s n p).Inv := by
  unfold State.takePacket
  repeat' first | assumption | (refine inv_foldl ?_ fun _ _ _ => ?_) | (simp (maxDischargeDepth := 30) [*]; done) | exact ⟨h.mem, h.lifecycle, h.tstat, h.phase⟩ | (simp +contextual (maxDischargeDepth := 30) [*, inv_foldl]; done) | dsimp only | (with_reducible first | apply State.modCore_inv | apply State.setCtx_inv | apply State.modCtx_inv | apply State.setMe_inv | apply State.modMe_inv | apply State.modProc_inv | apply State.modEntry_inv | apply State.setEntry_inv | apply State.send_inv | apply State.modLaunch_inv | apply State.setLaunch_inv) | split

theorem State.arrive_inv {s : State} {n : Nat} {p : Packet} {t : State} (h : s.Inv) (e : s.arrive n = some (p, t)) :
    t.Inv := by
  unfold State.arrive at e
  split at e
  · simp at e
  · split at e
    · simp only [Option.some.injEq, Prod.mk.injEq] at e
      exact e.2 ▸ by simp [h]
    · simp at e

@[simp] theorem State.countStale_inv {s : State} (pcn : ℕ) (h : s.Inv) : (State.countStale s pcn).Inv := by
  unfold State.countStale
  repeat' first | assumption | (refine inv_foldl ?_ fun _ _ _ => ?_) | (simp (maxDischargeDepth := 30) [*]; done) | exact ⟨h.mem, h.lifecycle, h.tstat, h.phase⟩ | (simp +contextual (maxDischargeDepth := 30) [*, inv_foldl]; done) | dsimp only | (with_reducible first | apply State.modCore_inv | apply State.setCtx_inv | apply State.modCtx_inv | apply State.setMe_inv | apply State.modMe_inv | apply State.modProc_inv | apply State.modEntry_inv | apply State.setEntry_inv | apply State.send_inv | apply State.modLaunch_inv | apply State.setLaunch_inv) | split

end Sys2Proof.Machine
end

