-- ==== Sys2Proof/Laws/InvariantEvents.lean ====
section
/-!
SUPPORT. The operations of the machine keep its invariant (Safety.lean): Events.
-/

set_option Elab.async false
set_option linter.all false

namespace Sys2Proof.Machine

@[simp] theorem State.modCombining_inv {s : State} (home : ℕ) (idx : ℕ) (gen : ℕ) (f : ℕ → Combining → Combining) (h : s.Inv) : (State.modCombining s home idx gen f).Inv := by
  unfold State.modCombining
  repeat' first | assumption | (refine inv_foldl ?_ fun _ _ _ => ?_) | (simp (maxDischargeDepth := 30) [*]; done) | exact ⟨h.mem, h.lifecycle, h.tstat, h.phase⟩ | (simp +contextual (maxDischargeDepth := 30) [*, inv_foldl]; done) | dsimp only | (with_reducible first | apply State.modCore_inv | apply State.setCtx_inv | apply State.modCtx_inv | apply State.setMe_inv | apply State.modMe_inv | apply State.modProc_inv | apply State.modEntry_inv | apply State.setEntry_inv | apply State.send_inv | apply State.modLaunch_inv | apply State.setLaunch_inv) | split

@[simp] theorem State.programRouters_inv {s : State} (pcn : ℕ) (idx : ℕ) (gen : ℕ) (d : Descriptor) (h : s.Inv) : (State.programRouters s pcn idx gen d).Inv := by
  unfold State.programRouters
  repeat' first | assumption | (refine inv_foldl ?_ fun _ _ _ => ?_) | (simp (maxDischargeDepth := 30) [*]; done) | exact ⟨h.mem, h.lifecycle, h.tstat, h.phase⟩ | (simp +contextual (maxDischargeDepth := 30) [*, inv_foldl]; done) | dsimp only | (with_reducible first | apply State.modCore_inv | apply State.setCtx_inv | apply State.modCtx_inv | apply State.setMe_inv | apply State.modMe_inv | apply State.modProc_inv | apply State.modEntry_inv | apply State.setEntry_inv | apply State.send_inv | apply State.modLaunch_inv | apply State.setLaunch_inv) | split

@[simp] theorem State.releaseRouters_inv {s : State} (pcn : ℕ) (idx : ℕ) (gen : ℕ) (h : s.Inv) : (State.releaseRouters s pcn idx gen).Inv := by
  unfold State.releaseRouters
  repeat' first | assumption | (refine inv_foldl ?_ fun _ _ _ => ?_) | (simp (maxDischargeDepth := 30) [*]; done) | exact ⟨h.mem, h.lifecycle, h.tstat, h.phase⟩ | (simp +contextual (maxDischargeDepth := 30) [*, inv_foldl]; done) | dsimp only | (with_reducible first | apply State.modCore_inv | apply State.setCtx_inv | apply State.modCtx_inv | apply State.setMe_inv | apply State.modMe_inv | apply State.modProc_inv | apply State.modEntry_inv | apply State.setEntry_inv | apply State.send_inv | apply State.modLaunch_inv | apply State.setLaunch_inv) | split

@[simp] theorem State.clearSets_inv {s : State} (pcn : ℕ) (idx : ℕ) (gen : ℕ) (number : ℕ) (h : s.Inv) : (State.clearSets s pcn idx gen number).Inv := by
  unfold State.clearSets
  repeat' first | assumption | (refine inv_foldl ?_ fun _ _ _ => ?_) | (simp (maxDischargeDepth := 30) [*]; done) | exact ⟨h.mem, h.lifecycle, h.tstat, h.phase⟩ | (simp +contextual (maxDischargeDepth := 30) [*, inv_foldl]; done) | dsimp only | (with_reducible first | apply State.modCore_inv | apply State.setCtx_inv | apply State.modCtx_inv | apply State.setMe_inv | apply State.modMe_inv | apply State.modProc_inv | apply State.modEntry_inv | apply State.setEntry_inv | apply State.send_inv | apply State.modLaunch_inv | apply State.setLaunch_inv) | split

@[simp] theorem State.leaveRouters_inv {s : State} (pcn : ℕ) (idx : ℕ) (gen : ℕ) (number : ℕ) (core : ℕ) (h : s.Inv) : (State.leaveRouters s pcn idx gen number core).Inv := by
  unfold State.leaveRouters
  repeat' first | assumption | (refine inv_foldl ?_ fun _ _ _ => ?_) | (simp (maxDischargeDepth := 30) [*]; done) | exact ⟨h.mem, h.lifecycle, h.tstat, h.phase⟩ | (simp +contextual (maxDischargeDepth := 30) [*, inv_foldl]; done) | dsimp only | (with_reducible first | apply State.modCore_inv | apply State.setCtx_inv | apply State.modCtx_inv | apply State.setMe_inv | apply State.modMe_inv | apply State.modProc_inv | apply State.modEntry_inv | apply State.setEntry_inv | apply State.send_inv | apply State.modLaunch_inv | apply State.setLaunch_inv) | split

@[simp] theorem State.combineAt_inv {s : State} (n : ℕ) (p : Packet) (router input idx gen number : ℕ)
    (data : List (ℕ × List Byte)) (h : s.Inv) : (s.combineAt n p router input idx gen number data).1.Inv := by
  unfold State.combineAt
  dsimp only
  split
  · exact h
  · split
    · exact State.takePacket_inv _ _ (State.modCore_inv _ _ h)
    · split
      · exact State.takePacket_inv _ _ (State.modCore_inv _ _ h)
      · exact State.send_inv _ (State.takePacket_inv _ _ (State.modCore_inv _ _ h))

@[simp] theorem State.sendClaim_inv {s : State} (pcn : ℕ) (idx : ℕ) (number : ℕ) (waiting : List ℕ) (h : s.Inv) : (State.sendClaim s pcn idx number waiting).Inv := by
  unfold State.sendClaim
  repeat' first | assumption | (refine inv_foldl ?_ fun _ _ _ => ?_) | (simp (maxDischargeDepth := 30) [*]; done) | exact ⟨h.mem, h.lifecycle, h.tstat, h.phase⟩ | (simp +contextual (maxDischargeDepth := 30) [*, inv_foldl]; done) | dsimp only | (with_reducible first | apply State.modCore_inv | apply State.setCtx_inv | apply State.modCtx_inv | apply State.setMe_inv | apply State.modMe_inv | apply State.modProc_inv | apply State.modEntry_inv | apply State.setEntry_inv | apply State.send_inv | apply State.modLaunch_inv | apply State.setLaunch_inv) | split

@[simp] theorem State.beginResolution_inv {s : State} (pcn : ℕ) (idx : ℕ) (e : ArbEntry) (h : s.Inv) : (State.beginResolution s pcn idx e).Inv := by
  unfold State.beginResolution
  repeat' first | assumption | (refine inv_foldl ?_ fun _ _ _ => ?_) | (simp (maxDischargeDepth := 30) [*]; done) | exact ⟨h.mem, h.lifecycle, h.tstat, h.phase⟩ | (simp +contextual (maxDischargeDepth := 30) [*, inv_foldl]; done) | dsimp only | (with_reducible first | apply State.modCore_inv | apply State.setCtx_inv | apply State.modCtx_inv | apply State.setMe_inv | apply State.modMe_inv | apply State.modProc_inv | apply State.modEntry_inv | apply State.setEntry_inv | apply State.send_inv | apply State.modLaunch_inv | apply State.setLaunch_inv) | split

@[simp] theorem State.tryResolve_inv {s : State} (pcn : ℕ) (idx : ℕ) (h : s.Inv) : (State.tryResolve s pcn idx).Inv := by
  unfold State.tryResolve
  repeat' first | assumption | (refine inv_foldl ?_ fun _ _ _ => ?_) | (simp (maxDischargeDepth := 30) [*]; done) | exact ⟨h.mem, h.lifecycle, h.tstat, h.phase⟩ | (simp +contextual (maxDischargeDepth := 30) [*, inv_foldl]; done) | dsimp only | (with_reducible first | apply State.modCore_inv | apply State.setCtx_inv | apply State.modCtx_inv | apply State.setMe_inv | apply State.modMe_inv | apply State.modProc_inv | apply State.modEntry_inv | apply State.setEntry_inv | apply State.send_inv | apply State.modLaunch_inv | apply State.setLaunch_inv) | split

@[simp] theorem State.tellRanks_inv {s : State} (pcn : ℕ) (e : ArbEntry) (ranks : List ℕ) (body : ℕ → Body) (h : s.Inv) : (State.tellRanks s pcn e ranks body).Inv := by
  unfold State.tellRanks
  repeat' first | assumption | (refine inv_foldl ?_ fun _ _ _ => ?_) | (simp (maxDischargeDepth := 30) [*]; done) | exact ⟨h.mem, h.lifecycle, h.tstat, h.phase⟩ | (simp +contextual (maxDischargeDepth := 30) [*, inv_foldl]; done) | dsimp only | (with_reducible first | apply State.modCore_inv | apply State.setCtx_inv | apply State.modCtx_inv | apply State.setMe_inv | apply State.modMe_inv | apply State.modProc_inv | apply State.modEntry_inv | apply State.setEntry_inv | apply State.send_inv | apply State.modLaunch_inv | apply State.setLaunch_inv) | split

@[simp] theorem State.abortEvent_inv {s : State} (pcn : ℕ) (idx : ℕ) (h : s.Inv) : (State.abortEvent s pcn idx).Inv := by
  unfold State.abortEvent
  repeat' first | assumption | (refine inv_foldl ?_ fun _ _ _ => ?_) | (simp (maxDischargeDepth := 30) [*]; done) | exact ⟨h.mem, h.lifecycle, h.tstat, h.phase⟩ | (simp +contextual (maxDischargeDepth := 30) [*, inv_foldl]; done) | dsimp only | (with_reducible first | apply State.modCore_inv | apply State.setCtx_inv | apply State.modCtx_inv | apply State.setMe_inv | apply State.modMe_inv | apply State.modProc_inv | apply State.modEntry_inv | apply State.setEntry_inv | apply State.send_inv | apply State.modLaunch_inv | apply State.setLaunch_inv) | split

@[simp] theorem State.commitEvent_inv {s : State} (pcn : ℕ) (idx : ℕ) (number : ℕ) (h : s.Inv) : (State.commitEvent s pcn idx number).Inv := by
  unfold State.commitEvent
  repeat' first | assumption | (refine inv_foldl ?_ fun _ _ _ => ?_) | (simp (maxDischargeDepth := 30) [*]; done) | exact ⟨h.mem, h.lifecycle, h.tstat, h.phase⟩ | (simp +contextual (maxDischargeDepth := 30) [*, inv_foldl]; done) | dsimp only | (with_reducible first | apply State.modCore_inv | apply State.setCtx_inv | apply State.modCtx_inv | apply State.setMe_inv | apply State.modMe_inv | apply State.modProc_inv | apply State.modEntry_inv | apply State.setEntry_inv | apply State.send_inv | apply State.modLaunch_inv | apply State.setLaunch_inv) | split

@[simp] theorem State.modLates_inv {s : State} (sel : ℕ → ℕ → Bool) (f : List LateTrap × List JobFault →   List LateTrap × List JobFault) (h : s.Inv) : (State.modLates s sel f).Inv := by
  unfold State.modLates
  repeat' first | assumption | (refine inv_foldl ?_ fun _ _ _ => ?_) | (simp (maxDischargeDepth := 30) [*]; done) | exact ⟨h.mem, h.lifecycle, h.tstat, h.phase⟩ | (simp +contextual (maxDischargeDepth := 30) [*, inv_foldl]; done) | dsimp only | (with_reducible first | apply State.modCore_inv | apply State.setCtx_inv | apply State.modCtx_inv | apply State.setMe_inv | apply State.modMe_inv | apply State.modProc_inv | apply State.modEntry_inv | apply State.setEntry_inv | apply State.send_inv | apply State.modLaunch_inv | apply State.setLaunch_inv) | split

@[simp] theorem State.modLate_inv {s : State} (thread : ℕ) (proc : ℕ) (f : List LateTrap × List JobFault →   List LateTrap × List JobFault) (h : s.Inv) : (State.modLate s thread proc f).Inv := by
  unfold State.modLate
  repeat' first | assumption | (refine inv_foldl ?_ fun _ _ _ => ?_) | (simp (maxDischargeDepth := 30) [*]; done) | exact ⟨h.mem, h.lifecycle, h.tstat, h.phase⟩ | (simp +contextual (maxDischargeDepth := 30) [*, inv_foldl]; done) | dsimp only | (with_reducible first | apply State.modCore_inv | apply State.setCtx_inv | apply State.modCtx_inv | apply State.setMe_inv | apply State.modMe_inv | apply State.modProc_inv | apply State.modEntry_inv | apply State.setEntry_inv | apply State.send_inv | apply State.modLaunch_inv | apply State.setLaunch_inv) | split

@[simp] theorem State.raiseJobFault_inv {s : State} (j : Job) (status : ℕ) (h : s.Inv) : (State.raiseJobFault s j status).Inv := by
  unfold State.raiseJobFault
  repeat' first | assumption | (refine inv_foldl ?_ fun _ _ _ => ?_) | (simp (maxDischargeDepth := 30) [*]; done) | exact ⟨h.mem, h.lifecycle, h.tstat, h.phase⟩ | (simp +contextual (maxDischargeDepth := 30) [*, inv_foldl]; done) | dsimp only | (with_reducible first | apply State.modCore_inv | apply State.setCtx_inv | apply State.modCtx_inv | apply State.setMe_inv | apply State.modMe_inv | apply State.modProc_inv | apply State.modEntry_inv | apply State.setEntry_inv | apply State.send_inv | apply State.modLaunch_inv | apply State.setLaunch_inv) | split

@[simp] theorem State.offerBatch_inv {s : State} (b : Batch) (h : s.Inv) : (State.offerBatch s b).Inv := by
  unfold State.offerBatch
  repeat' first | assumption | (refine inv_foldl ?_ fun _ _ _ => ?_) | (simp (maxDischargeDepth := 30) [*]; done) | exact ⟨h.mem, h.lifecycle, h.tstat, h.phase⟩ | (simp +contextual (maxDischargeDepth := 30) [*, inv_foldl]; done) | dsimp only | (with_reducible first | apply State.modCore_inv | apply State.setCtx_inv | apply State.modCtx_inv | apply State.setMe_inv | apply State.modMe_inv | apply State.modProc_inv | apply State.modEntry_inv | apply State.setEntry_inv | apply State.send_inv | apply State.modLaunch_inv | apply State.setLaunch_inv) | split

@[simp] theorem State.offerBatches_inv {s : State} (cl : ℕ) (h : s.Inv) : (State.offerBatches s cl).Inv := by
  unfold State.offerBatches
  repeat' first | assumption | (refine inv_foldl ?_ fun _ _ _ => ?_) | (simp (maxDischargeDepth := 30) [*]; done) | exact ⟨h.mem, h.lifecycle, h.tstat, h.phase⟩ | (simp +contextual (maxDischargeDepth := 30) [*, inv_foldl]; done) | dsimp only | (with_reducible first | apply State.modCore_inv | apply State.setCtx_inv | apply State.modCtx_inv | apply State.setMe_inv | apply State.modMe_inv | apply State.modProc_inv | apply State.modEntry_inv | apply State.setEntry_inv | apply State.send_inv | apply State.modLaunch_inv | apply State.setLaunch_inv) | split

@[simp] theorem State.closeOn_inv {s : State} (cl : ℕ) (sel : Batch → Bool) (h : s.Inv) : (State.closeOn s cl sel).Inv := by
  unfold State.closeOn
  repeat' first | assumption | (refine inv_foldl ?_ fun _ _ _ => ?_) | (simp (maxDischargeDepth := 30) [*]; done) | exact ⟨h.mem, h.lifecycle, h.tstat, h.phase⟩ | (simp +contextual (maxDischargeDepth := 30) [*, inv_foldl]; done) | dsimp only | (with_reducible first | apply State.modCore_inv | apply State.setCtx_inv | apply State.modCtx_inv | apply State.setMe_inv | apply State.modMe_inv | apply State.modProc_inv | apply State.modEntry_inv | apply State.setEntry_inv | apply State.send_inv | apply State.modLaunch_inv | apply State.setLaunch_inv) | split

@[simp] theorem State.closeBatches_inv {s : State} (thread : ℕ) (h : s.Inv) : (State.closeBatches s thread).Inv := by
  unfold State.closeBatches
  repeat' first | assumption | (refine inv_foldl ?_ fun _ _ _ => ?_) | (simp (maxDischargeDepth := 30) [*]; done) | exact ⟨h.mem, h.lifecycle, h.tstat, h.phase⟩ | (simp +contextual (maxDischargeDepth := 30) [*, inv_foldl]; done) | dsimp only | (with_reducible first | apply State.modCore_inv | apply State.setCtx_inv | apply State.modCtx_inv | apply State.setMe_inv | apply State.modMe_inv | apply State.modProc_inv | apply State.modEntry_inv | apply State.setEntry_inv | apply State.send_inv | apply State.modLaunch_inv | apply State.setLaunch_inv) | split

@[simp] theorem State.requestRound_inv {s : State} (tid : ℕ) (h : s.Inv) : (State.requestRound s tid).Inv := by
  unfold State.requestRound
  repeat' first | assumption | (refine inv_foldl ?_ fun _ _ _ => ?_) | (simp (maxDischargeDepth := 30) [*]; done) | exact ⟨h.mem, h.lifecycle, h.tstat, h.phase⟩ | (simp +contextual (maxDischargeDepth := 30) [*, inv_foldl]; done) | dsimp only | (with_reducible first | apply State.modCore_inv | apply State.setCtx_inv | apply State.modCtx_inv | apply State.setMe_inv | apply State.modMe_inv | apply State.modProc_inv | apply State.modEntry_inv | apply State.setEntry_inv | apply State.send_inv | apply State.modLaunch_inv | apply State.setLaunch_inv) | split

@[simp] theorem State.stopHere_inv {s : State} (h : s.Inv) : (State.stopHere s).Inv := by
  unfold State.stopHere
  repeat' first | assumption | (refine inv_foldl ?_ fun _ _ _ => ?_) | (simp (maxDischargeDepth := 30) [*]; done) | exact ⟨h.mem, h.lifecycle, h.tstat, h.phase⟩ | (simp +contextual (maxDischargeDepth := 30) [*, inv_foldl]; done) | dsimp only | (with_reducible first | apply State.modCore_inv | apply State.setCtx_inv | apply State.modCtx_inv | apply State.setMe_inv | apply State.modMe_inv | apply State.modProc_inv | apply State.modEntry_inv | apply State.setEntry_inv | apply State.send_inv | apply State.modLaunch_inv | apply State.setLaunch_inv) | split

@[simp] theorem State.sendHeaders_inv {s : State} (tid : ℕ) (es : List OfferEntry) (h : s.Inv) : (State.sendHeaders s tid es).Inv := by
  unfold State.sendHeaders
  repeat' first | assumption | (refine inv_foldl ?_ fun _ _ _ => ?_) | (simp (maxDischargeDepth := 30) [*]; done) | exact ⟨h.mem, h.lifecycle, h.tstat, h.phase⟩ | (simp +contextual (maxDischargeDepth := 30) [*, inv_foldl]; done) | dsimp only | (with_reducible first | apply State.modCore_inv | apply State.setCtx_inv | apply State.modCtx_inv | apply State.setMe_inv | apply State.modMe_inv | apply State.modProc_inv | apply State.modEntry_inv | apply State.setEntry_inv | apply State.send_inv | apply State.modLaunch_inv | apply State.setLaunch_inv) | split

@[simp] theorem State.openOffer_inv {s : State} (d : GReg) (deadline : Option ℕ) (es : List OfferEntry) (w : Wait) (h : s.Inv) : (State.openOffer s d deadline es w).Inv := by
  unfold State.openOffer
  repeat' first | assumption | (refine inv_foldl ?_ fun _ _ _ => ?_) | (simp (maxDischargeDepth := 30) [*]; done) | exact ⟨h.mem, h.lifecycle, h.tstat, h.phase⟩ | (simp +contextual (maxDischargeDepth := 30) [*, inv_foldl]; done) | dsimp only | (with_reducible first | apply State.modCore_inv | apply State.setCtx_inv | apply State.modCtx_inv | apply State.setMe_inv | apply State.modMe_inv | apply State.modProc_inv | apply State.modEntry_inv | apply State.setEntry_inv | apply State.send_inv | apply State.modLaunch_inv | apply State.setLaunch_inv) | split

@[simp] theorem State.offerWith_inv {s : State} (i : Instr) (form : OfferForm) (d : GReg) (a : GReg) (deadline : Option ℕ) (h : s.Inv) : Res.Inv (State.offerWith s i form d a deadline) := by
  unfold State.offerWith
  repeat' first | assumption | (refine inv_foldl ?_ fun _ _ _ => ?_) | (simp (maxDischargeDepth := 30) [*]; done) | exact ⟨h.mem, h.lifecycle, h.tstat, h.phase⟩ | (simp +contextual (maxDischargeDepth := 30) [*, inv_foldl]; done) | dsimp only | (with_reducible first | apply State.modCore_inv | apply State.setCtx_inv | apply State.modCtx_inv | apply State.setMe_inv | apply State.modMe_inv | apply State.modProc_inv | apply State.modEntry_inv | apply State.setEntry_inv | apply State.send_inv | apply State.modLaunch_inv | apply State.setLaunch_inv) | split

@[simp] theorem execOffer_inv (d : GReg) (a : GReg) {s : State} (h : s.Inv) : Res.Inv (execOffer d a s) := by
  unfold execOffer
  repeat' first | assumption | (refine inv_foldl ?_ fun _ _ _ => ?_) | (simp (maxDischargeDepth := 30) [*]; done) | exact ⟨h.mem, h.lifecycle, h.tstat, h.phase⟩ | (simp +contextual (maxDischargeDepth := 30) [*, inv_foldl]; done) | dsimp only | (with_reducible first | apply State.modCore_inv | apply State.setCtx_inv | apply State.modCtx_inv | apply State.setMe_inv | apply State.modMe_inv | apply State.modProc_inv | apply State.modEntry_inv | apply State.setEntry_inv | apply State.send_inv | apply State.modLaunch_inv | apply State.setLaunch_inv) | split

@[simp] theorem execOffer1_inv (d : GReg) (a : GReg) {s : State} (h : s.Inv) : Res.Inv (execOffer1 d a s) := by
  unfold execOffer1
  repeat' first | assumption | (refine inv_foldl ?_ fun _ _ _ => ?_) | (simp (maxDischargeDepth := 30) [*]; done) | exact ⟨h.mem, h.lifecycle, h.tstat, h.phase⟩ | (simp +contextual (maxDischargeDepth := 30) [*, inv_foldl]; done) | dsimp only | (with_reducible first | apply State.modCore_inv | apply State.setCtx_inv | apply State.modCtx_inv | apply State.setMe_inv | apply State.modMe_inv | apply State.modProc_inv | apply State.modEntry_inv | apply State.setEntry_inv | apply State.send_inv | apply State.modLaunch_inv | apply State.setLaunch_inv) | split

@[simp] theorem execOfferT_inv (d : GReg) (a : GReg) (b : GReg) {s : State} (h : s.Inv) : Res.Inv (execOfferT d a b s) := by
  unfold execOfferT
  repeat' first | assumption | (refine inv_foldl ?_ fun _ _ _ => ?_) | (simp (maxDischargeDepth := 30) [*]; done) | exact ⟨h.mem, h.lifecycle, h.tstat, h.phase⟩ | (simp +contextual (maxDischargeDepth := 30) [*, inv_foldl]; done) | dsimp only | (with_reducible first | apply State.modCore_inv | apply State.setCtx_inv | apply State.modCtx_inv | apply State.setMe_inv | apply State.modMe_inv | apply State.modProc_inv | apply State.modEntry_inv | apply State.setEntry_inv | apply State.send_inv | apply State.modLaunch_inv | apply State.setLaunch_inv) | split

@[simp] theorem State.emptyLatch_inv {s : State} (pcn : ℕ) (b : ℕ) (h : s.Inv) : (State.emptyLatch s pcn b).Inv := by
  unfold State.emptyLatch
  repeat' first | assumption | (refine inv_foldl ?_ fun _ _ _ => ?_) | (simp (maxDischargeDepth := 30) [*]; done) | exact ⟨h.mem, h.lifecycle, h.tstat, h.phase⟩ | (simp +contextual (maxDischargeDepth := 30) [*, inv_foldl]; done) | dsimp only | (with_reducible first | apply State.modCore_inv | apply State.setCtx_inv | apply State.modCtx_inv | apply State.setMe_inv | apply State.modMe_inv | apply State.modProc_inv | apply State.modEntry_inv | apply State.setEntry_inv | apply State.send_inv | apply State.modLaunch_inv | apply State.setLaunch_inv) | split

@[simp] theorem State.cancelCopy_inv {s : State} (pcn : ℕ) (sel : Job → Bool) (h : s.Inv) :
    (s.cancelCopy pcn sel).Inv := by
  unfold State.cancelCopy
  exact State.settlePins_inv (inv_foldl (State.modCore_inv _ _ h) fun t j ht => by
    dsimp only
    split
    · split
      · exact State.emptyLatch_inv _ _ ht
      · exact ht
    · exact ht)

@[simp] theorem State.writeCheckpoint_inv {s : State} (tid index : Nat) (b : BitVec 32) (o : Occ) (h : s.Inv) :
    (s.writeCheckpoint tid index b o).Inv := by
  unfold State.writeCheckpoint
  exact State.modProc_inv _ _ (State.setCtx_inv _ _ (State.setMem_inv (memWrite_wf _ _ h.mem) h))

@[simp] theorem State.cancelOccurrence_inv {s : State} (pcn : ℕ) (idx : ℕ) (number : ℕ) (keep : Standing → Bool) (h : s.Inv) : (State.cancelOccurrence s pcn idx number keep).Inv := by
  unfold State.cancelOccurrence
  repeat' first | assumption | (refine inv_foldl ?_ fun _ _ _ => ?_) | (simp (maxDischargeDepth := 30) [*]; done) | exact ⟨h.mem, h.lifecycle, h.tstat, h.phase⟩ | (simp +contextual (maxDischargeDepth := 30) [*, inv_foldl]; done) | dsimp only | (with_reducible first | apply State.modCore_inv | apply State.setCtx_inv | apply State.modCtx_inv | apply State.setMe_inv | apply State.modMe_inv | apply State.modProc_inv | apply State.modEntry_inv | apply State.setEntry_inv | apply State.send_inv | apply State.modLaunch_inv | apply State.setLaunch_inv) | split

@[simp] theorem State.takeBackStanding_inv {s : State} (proc : ℕ) (seq : ℕ) (h : s.Inv) : (State.takeBackStanding s proc seq).Inv := by
  unfold State.takeBackStanding
  repeat' first | assumption | (refine inv_foldl ?_ fun _ _ _ => ?_) | (simp (maxDischargeDepth := 30) [*]; done) | exact ⟨h.mem, h.lifecycle, h.tstat, h.phase⟩ | (simp +contextual (maxDischargeDepth := 30) [*, inv_foldl]; done) | dsimp only | (with_reducible first | apply State.modCore_inv | apply State.setCtx_inv | apply State.modCtx_inv | apply State.setMe_inv | apply State.modMe_inv | apply State.modProc_inv | apply State.modEntry_inv | apply State.setEntry_inv | apply State.send_inv | apply State.modLaunch_inv | apply State.setLaunch_inv) | split

@[simp] theorem State.dropJobs_inv {s : State} (pcn : ℕ) (proc : ℕ) (seq : ℕ) (h : s.Inv) : (State.dropJobs s pcn proc seq).Inv := by
  unfold State.dropJobs
  repeat' first | assumption | (refine inv_foldl ?_ fun _ _ _ => ?_) | (simp (maxDischargeDepth := 30) [*]; done) | exact ⟨h.mem, h.lifecycle, h.tstat, h.phase⟩ | (simp +contextual (maxDischargeDepth := 30) [*, inv_foldl]; done) | dsimp only | (with_reducible first | apply State.modCore_inv | apply State.setCtx_inv | apply State.modCtx_inv | apply State.setMe_inv | apply State.modMe_inv | apply State.modProc_inv | apply State.modEntry_inv | apply State.setEntry_inv | apply State.send_inv | apply State.modLaunch_inv | apply State.setLaunch_inv) | split

@[simp] theorem State.undoJournal_wf (tid : Nat) (c : Ctx) {m : Mem} (pos : Nat) (h : memWfFrom 0 m = true) :
    memWfFrom 0 (State.undoJournal tid c m pos) = true := by
  unfold State.undoJournal
  dsimp only
  generalize List.map _ _ = l
  induction l generalizing m with
  | nil => exact h
  | cons i l ih => exact ih (by unfold State.undoEntry; exact memWrite_wf _ _ h)

@[simp] theorem State.spoilRings_inv {s : State} (tid : ℕ) (seq : ℕ) (h : s.Inv) : (State.spoilRings s tid seq).Inv := by
  unfold State.spoilRings
  repeat' first | assumption | (refine inv_foldl ?_ fun _ _ _ => ?_) | (simp (maxDischargeDepth := 30) [*]; done) | exact ⟨h.mem, h.lifecycle, h.tstat, h.phase⟩ | (simp +contextual (maxDischargeDepth := 30) [*, inv_foldl]; done) | dsimp only | (with_reducible first | apply State.modCore_inv | apply State.setCtx_inv | apply State.modCtx_inv | apply State.setMe_inv | apply State.modMe_inv | apply State.modProc_inv | apply State.modEntry_inv | apply State.setEntry_inv | apply State.send_inv | apply State.modLaunch_inv | apply State.setLaunch_inv) | split

@[simp] theorem State.dropQueued_inv {s : State} (tid : ℕ) (h : s.Inv) : (State.dropQueued s tid).Inv := by
  unfold State.dropQueued
  repeat' first | assumption | (refine inv_foldl ?_ fun _ _ _ => ?_) | (simp (maxDischargeDepth := 30) [*]; done) | exact ⟨h.mem, h.lifecycle, h.tstat, h.phase⟩ | (simp +contextual (maxDischargeDepth := 30) [*, inv_foldl]; done) | dsimp only | (with_reducible first | apply State.modCore_inv | apply State.setCtx_inv | apply State.modCtx_inv | apply State.setMe_inv | apply State.modMe_inv | apply State.modProc_inv | apply State.modEntry_inv | apply State.setEntry_inv | apply State.send_inv | apply State.modLaunch_inv | apply State.setLaunch_inv) | split

@[simp] theorem State.takeBackSent_inv {s : State} (p : Proc) (pcn : ℕ) (seq : ℕ) (h : s.Inv) : (State.takeBackSent s p pcn seq).Inv := by
  unfold State.takeBackSent
  repeat' first | assumption | (refine inv_foldl ?_ fun _ _ _ => ?_) | (simp (maxDischargeDepth := 30) [*]; done) | exact ⟨h.mem, h.lifecycle, h.tstat, h.phase⟩ | (simp +contextual (maxDischargeDepth := 30) [*, inv_foldl]; done) | dsimp only | (with_reducible first | apply State.modCore_inv | apply State.setCtx_inv | apply State.modCtx_inv | apply State.setMe_inv | apply State.modMe_inv | apply State.modProc_inv | apply State.modEntry_inv | apply State.setEntry_inv | apply State.send_inv | apply State.modLaunch_inv | apply State.setLaunch_inv) | split

@[simp] theorem State.rollback_inv {s0 : State} (tid : ℕ) (seq : ℕ) (h : s0.Inv) : (State.rollback s0 tid seq).Inv := by
  unfold State.rollback
  repeat' first | assumption | (refine inv_foldl ?_ fun _ _ _ => ?_) | (simp (maxDischargeDepth := 30) [*]; done) | exact ⟨h.mem, h.lifecycle, h.tstat, h.phase⟩ | (simp +contextual (maxDischargeDepth := 30) [*, inv_foldl]; done) | dsimp only | (with_reducible first | apply State.modCore_inv | apply State.setCtx_inv | apply State.modCtx_inv | apply State.setMe_inv | apply State.modMe_inv | apply State.modProc_inv | apply State.modEntry_inv | apply State.setEntry_inv | apply State.send_inv | apply State.modLaunch_inv | apply State.setLaunch_inv) | split

@[simp] theorem execStragglerClaim_inv (n : ℕ) {s : State} (h : s.Inv) : Res.Inv (execStragglerClaim n s) := by
  unfold execStragglerClaim
  split <;> (try have h2 := State.arrive_inv h ‹_›) <;> repeat' first | assumption | (refine inv_foldl ?_ fun _ _ _ => ?_) | (simp (maxDischargeDepth := 30) [*]; done) | exact ⟨h.mem, h.lifecycle, h.tstat, h.phase⟩ | (simp +contextual (maxDischargeDepth := 30) [*, inv_foldl]; done) | dsimp only | (with_reducible first | apply State.modCore_inv | apply State.setCtx_inv | apply State.modCtx_inv | apply State.setMe_inv | apply State.modMe_inv | apply State.modProc_inv | apply State.modEntry_inv | apply State.setEntry_inv | apply State.send_inv | apply State.modLaunch_inv | apply State.setLaunch_inv) | split

@[simp] theorem State.antiHeader_inv {s : State} (pcn : ℕ) (idx : ℕ) (gen : ℕ) (rank : ℕ) (vt : ℕ) (h : s.Inv) : (State.antiHeader s pcn idx gen rank vt).Inv := by
  unfold State.antiHeader
  repeat' first | assumption | (refine inv_foldl ?_ fun _ _ _ => ?_) | (simp (maxDischargeDepth := 30) [*]; done) | exact ⟨h.mem, h.lifecycle, h.tstat, h.phase⟩ | (simp +contextual (maxDischargeDepth := 30) [*, inv_foldl]; done) | dsimp only | (with_reducible first | apply State.modCore_inv | apply State.setCtx_inv | apply State.modCtx_inv | apply State.setMe_inv | apply State.modMe_inv | apply State.modProc_inv | apply State.modEntry_inv | apply State.setEntry_inv | apply State.send_inv | apply State.modLaunch_inv | apply State.setLaunch_inv) | split

@[simp] theorem State.antiOccurrence_inv {s : State} (tid : ℕ) (home : ℕ) (idx : ℕ) (number : ℕ) (h : s.Inv) : (State.antiOccurrence s tid home idx number).Inv := by
  unfold State.antiOccurrence
  repeat' first | assumption | (refine inv_foldl ?_ fun _ _ _ => ?_) | (simp (maxDischargeDepth := 30) [*]; done) | exact ⟨h.mem, h.lifecycle, h.tstat, h.phase⟩ | (simp +contextual (maxDischargeDepth := 30) [*, inv_foldl]; done) | dsimp only | (with_reducible first | apply State.modCore_inv | apply State.setCtx_inv | apply State.modCtx_inv | apply State.setMe_inv | apply State.modMe_inv | apply State.modProc_inv | apply State.modEntry_inv | apply State.setEntry_inv | apply State.send_inv | apply State.modLaunch_inv | apply State.setLaunch_inv) | split

@[simp] theorem State.antiPayload_inv {s : State} (pcn : ℕ) (idx : ℕ) (gen : ℕ) (number : ℕ) (rank : ℕ) (h : s.Inv) : (State.antiPayload s pcn idx gen number rank).Inv := by
  unfold State.antiPayload
  repeat' first | assumption | (refine inv_foldl ?_ fun _ _ _ => ?_) | (simp (maxDischargeDepth := 30) [*]; done) | exact ⟨h.mem, h.lifecycle, h.tstat, h.phase⟩ | (simp +contextual (maxDischargeDepth := 30) [*, inv_foldl]; done) | dsimp only | (with_reducible first | apply State.modCore_inv | apply State.setCtx_inv | apply State.modCtx_inv | apply State.setMe_inv | apply State.modMe_inv | apply State.modProc_inv | apply State.modEntry_inv | apply State.setEntry_inv | apply State.send_inv | apply State.modLaunch_inv | apply State.setLaunch_inv) | split

@[simp] theorem execAntiMessage_inv (n : ℕ) {s : State} (h : s.Inv) : Res.Inv (execAntiMessage n s) := by
  unfold execAntiMessage
  split <;> (try have h2 := State.arrive_inv h ‹_›) <;> repeat' first | assumption | (refine inv_foldl ?_ fun _ _ _ => ?_) | (simp (maxDischargeDepth := 30) [*]; done) | exact ⟨h.mem, h.lifecycle, h.tstat, h.phase⟩ | (simp +contextual (maxDischargeDepth := 30) [*, inv_foldl]; done) | dsimp only | (with_reducible first | apply State.modCore_inv | apply State.setCtx_inv | apply State.modCtx_inv | apply State.setMe_inv | apply State.modMe_inv | apply State.modProc_inv | apply State.modEntry_inv | apply State.setEntry_inv | apply State.send_inv | apply State.modLaunch_inv | apply State.setLaunch_inv) | split

@[simp] theorem State.sendResults_inv {s : State} (pcn : ℕ) (idx : ℕ) (h : s.Inv) : (State.sendResults s pcn idx).Inv := by
  unfold State.sendResults
  repeat' first | assumption | (refine inv_foldl ?_ fun _ _ _ => ?_) | (simp (maxDischargeDepth := 30) [*]; done) | exact ⟨h.mem, h.lifecycle, h.tstat, h.phase⟩ | (simp +contextual (maxDischargeDepth := 30) [*, inv_foldl]; done) | dsimp only | (with_reducible first | apply State.modCore_inv | apply State.setCtx_inv | apply State.modCtx_inv | apply State.setMe_inv | apply State.modMe_inv | apply State.modProc_inv | apply State.modEntry_inv | apply State.setEntry_inv | apply State.send_inv | apply State.modLaunch_inv | apply State.setLaunch_inv) | split

@[simp] theorem State.startResults_inv {s : State} (pcn : ℕ) (idx : ℕ) (h : s.Inv) : (State.startResults s pcn idx).Inv := by
  unfold State.startResults
  repeat' first | assumption | (refine inv_foldl ?_ fun _ _ _ => ?_) | (simp (maxDischargeDepth := 30) [*]; done) | exact ⟨h.mem, h.lifecycle, h.tstat, h.phase⟩ | (simp +contextual (maxDischargeDepth := 30) [*, inv_foldl]; done) | dsimp only | (with_reducible first | apply State.modCore_inv | apply State.setCtx_inv | apply State.modCtx_inv | apply State.setMe_inv | apply State.modMe_inv | apply State.modProc_inv | apply State.modEntry_inv | apply State.setEntry_inv | apply State.send_inv | apply State.modLaunch_inv | apply State.setLaunch_inv) | split

@[simp] theorem State.takeAnswer_inv {s : State} (pcn : ℕ) (idx : ℕ) (gen : ℕ) (tid : ℕ) (number : ℕ) (granted : Bool) (colour : Option ℕ) (h : s.Inv) : (State.takeAnswer s pcn idx gen tid number granted colour).Inv := by
  unfold State.takeAnswer
  repeat' first | assumption | (refine inv_foldl ?_ fun _ _ _ => ?_) | (simp (maxDischargeDepth := 30) [*]; done) | exact ⟨h.mem, h.lifecycle, h.tstat, h.phase⟩ | (simp +contextual (maxDischargeDepth := 30) [*, inv_foldl]; done) | dsimp only | (with_reducible first | apply State.modCore_inv | apply State.setCtx_inv | apply State.modCtx_inv | apply State.setMe_inv | apply State.modMe_inv | apply State.modProc_inv | apply State.modEntry_inv | apply State.setEntry_inv | apply State.send_inv | apply State.modLaunch_inv | apply State.setLaunch_inv) | split

@[simp] theorem State.takeHeader_inv {s : State} (pcn : ℕ) (idx : ℕ) (gen : ℕ) (x4 : Header) (colour : Option ℕ) (h : s.Inv) : (State.takeHeader s pcn idx gen x4 colour).Inv := by
  unfold State.takeHeader
  repeat' first | assumption | (refine inv_foldl ?_ fun _ _ _ => ?_) | (simp (maxDischargeDepth := 30) [*]; done) | exact ⟨h.mem, h.lifecycle, h.tstat, h.phase⟩ | (simp +contextual (maxDischargeDepth := 30) [*, inv_foldl]; done) | dsimp only | (with_reducible first | apply State.modCore_inv | apply State.setCtx_inv | apply State.modCtx_inv | apply State.setMe_inv | apply State.modMe_inv | apply State.modProc_inv | apply State.modEntry_inv | apply State.setEntry_inv | apply State.send_inv | apply State.modLaunch_inv | apply State.setLaunch_inv) | split

@[simp] theorem State.takeClaim_inv {s : State} (tid : ℕ) (q : Claim) (colour : Option ℕ) (h : s.Inv) : (State.takeClaim s tid q colour).Inv := by
  unfold State.takeClaim
  repeat' first | assumption | (refine inv_foldl ?_ fun _ _ _ => ?_) | (simp (maxDischargeDepth := 30) [*]; done) | exact ⟨h.mem, h.lifecycle, h.tstat, h.phase⟩ | (simp +contextual (maxDischargeDepth := 30) [*, inv_foldl]; done) | dsimp only | (with_reducible first | apply State.modCore_inv | apply State.setCtx_inv | apply State.modCtx_inv | apply State.setMe_inv | apply State.modMe_inv | apply State.modProc_inv | apply State.modEntry_inv | apply State.setEntry_inv | apply State.send_inv | apply State.modLaunch_inv | apply State.setLaunch_inv) | split

@[simp] theorem State.refuseQueued_inv {s : State} (tid : ℕ) (qs : List Claim) (colour : Option ℕ) (h : s.Inv) : (State.refuseQueued s tid qs colour).Inv := by
  unfold State.refuseQueued
  repeat' first | assumption | (refine inv_foldl ?_ fun _ _ _ => ?_) | (simp (maxDischargeDepth := 30) [*]; done) | exact ⟨h.mem, h.lifecycle, h.tstat, h.phase⟩ | (simp +contextual (maxDischargeDepth := 30) [*, inv_foldl]; done) | dsimp only | (with_reducible first | apply State.modCore_inv | apply State.setCtx_inv | apply State.modCtx_inv | apply State.setMe_inv | apply State.modMe_inv | apply State.modProc_inv | apply State.modEntry_inv | apply State.setEntry_inv | apply State.send_inv | apply State.modLaunch_inv | apply State.setLaunch_inv) | split

@[simp] theorem State.withdrawHeaders_inv {s : State} (tid : ℕ) (keep : Option ℕ) (cause : WithdrawCause) (h : s.Inv) : (State.withdrawHeaders s tid keep cause).Inv := by
  unfold State.withdrawHeaders
  repeat' first | assumption | (refine inv_foldl ?_ fun _ _ _ => ?_) | (simp (maxDischargeDepth := 30) [*]; done) | exact ⟨h.mem, h.lifecycle, h.tstat, h.phase⟩ | (simp +contextual (maxDischargeDepth := 30) [*, inv_foldl]; done) | dsimp only | (with_reducible first | apply State.modCore_inv | apply State.setCtx_inv | apply State.modCtx_inv | apply State.setMe_inv | apply State.modMe_inv | apply State.modProc_inv | apply State.modEntry_inv | apply State.setEntry_inv | apply State.send_inv | apply State.modLaunch_inv | apply State.setLaunch_inv) | split

@[simp] theorem State.closeOffer_inv {s : State} (tid : ℕ) (returns : Bool) (h : s.Inv) : (State.closeOffer s tid returns).Inv := by
  unfold State.closeOffer
  repeat' first | assumption | (refine inv_foldl ?_ fun _ _ _ => ?_) | (simp (maxDischargeDepth := 30) [*]; done) | exact ⟨h.mem, h.lifecycle, h.tstat, h.phase⟩ | (simp +contextual (maxDischargeDepth := 30) [*, inv_foldl]; done) | dsimp only | (with_reducible first | apply State.modCore_inv | apply State.setCtx_inv | apply State.modCtx_inv | apply State.setMe_inv | apply State.modMe_inv | apply State.modProc_inv | apply State.modEntry_inv | apply State.setEntry_inv | apply State.send_inv | apply State.modLaunch_inv | apply State.setLaunch_inv) | split

@[simp] theorem State.reopened_inv {s : State} (tid : ℕ) (h : s.Inv) : (State.reopened s tid).Inv := by
  unfold State.reopened
  repeat' first | assumption | (refine inv_foldl ?_ fun _ _ _ => ?_) | (simp (maxDischargeDepth := 30) [*]; done) | exact ⟨h.mem, h.lifecycle, h.tstat, h.phase⟩ | (simp +contextual (maxDischargeDepth := 30) [*, inv_foldl]; done) | dsimp only | (with_reducible first | apply State.modCore_inv | apply State.setCtx_inv | apply State.modCtx_inv | apply State.setMe_inv | apply State.modMe_inv | apply State.modProc_inv | apply State.modEntry_inv | apply State.setEntry_inv | apply State.send_inv | apply State.modLaunch_inv | apply State.setLaunch_inv) | split

@[simp] theorem State.takeRelease_inv {s : State} (tid : ℕ) (home : ℕ) (idx : ℕ) (number : ℕ) (colour : Option ℕ) (h : s.Inv) : (State.takeRelease s tid home idx number colour).Inv := by
  unfold State.takeRelease
  repeat' first | assumption | (refine inv_foldl ?_ fun _ _ _ => ?_) | (simp (maxDischargeDepth := 30) [*]; done) | exact ⟨h.mem, h.lifecycle, h.tstat, h.phase⟩ | (simp +contextual (maxDischargeDepth := 30) [*, inv_foldl]; done) | dsimp only | (with_reducible first | apply State.modCore_inv | apply State.setCtx_inv | apply State.modCtx_inv | apply State.setMe_inv | apply State.modMe_inv | apply State.modProc_inv | apply State.modEntry_inv | apply State.setEntry_inv | apply State.send_inv | apply State.modLaunch_inv | apply State.setLaunch_inv) | split

theorem State.takeCommit_inv {s : State} (tid home idx gen vt number : Nat) (colour : Option Nat) (h : s.Inv) :
    OptInv (s.takeCommit tid home idx gen vt number colour) := by
  have key : ∀ (a : Option Nat) (qs : List Claim) (f : Ctx → Ctx) (i : Nat) (b : BitVec 32) (o : Occ) (k : Nat) (g : Proc → Proc)
      (c : Bool) (t : State),
      t = (if c = true then
        ((((s.withdrawHeaders tid a .commit).refuseQueued tid qs colour).modCtx tid f).writeCheckpoint tid i b o).modProc k g
        else ((s.withdrawHeaders tid a .commit).refuseQueued tid qs colour).modCtx tid f) → t.Inv := by
    intro a qs f i b o k g c t e
    subst e
    have h3 := State.modCtx_inv tid f (State.refuseQueued_inv tid qs colour (State.withdrawHeaders_inv tid a .commit h))
    split
    · exact State.modProc_inv _ _ (State.writeCheckpoint_inv _ _ _ _ h3)
    · exact h3
  intro t e
  unfold State.takeCommit at e
  dsimp only at e
  split at e
  · simp only [Option.some.injEq] at e; exact e ▸ h
  · split at e
    · simp only [Option.some.injEq] at e; exact e ▸ h
    · split at e
      · simp only [Option.some.injEq] at e; exact e ▸ h
      · split at e
        · cases e
        · split at e
          · simp only [Option.some.injEq] at e
            subst e
            exact State.postEvent_inv _ _ _ _ _ _ _ (key _ _ _ _ _ _ _ _ _ _ rfl)
          · simp only [Option.some.injEq] at e
            exact key _ _ _ _ _ _ _ _ _ _ e.symm

@[simp] theorem State.takeWithdrawal_inv {s : State} (pcn : ℕ) (idx : ℕ) (gen : ℕ) (rank : ℕ) (serial : ℕ) (vt : ℕ) (cause : WithdrawCause) (h : s.Inv) : (State.takeWithdrawal s pcn idx gen rank serial vt cause).Inv := by
  unfold State.takeWithdrawal
  repeat' first | assumption | (refine inv_foldl ?_ fun _ _ _ => ?_) | (simp (maxDischargeDepth := 30) [*]; done) | exact ⟨h.mem, h.lifecycle, h.tstat, h.phase⟩ | (simp +contextual (maxDischargeDepth := 30) [*, inv_foldl]; done) | dsimp only | (with_reducible first | apply State.modCore_inv | apply State.setCtx_inv | apply State.modCtx_inv | apply State.setMe_inv | apply State.modMe_inv | apply State.modProc_inv | apply State.modEntry_inv | apply State.setEntry_inv | apply State.send_inv | apply State.modLaunch_inv | apply State.setLaunch_inv) | split

@[simp] theorem State.takeHeaderGone_inv {s : State} (tid : ℕ) (home : ℕ) (idx : ℕ) (gen : ℕ) (h : s.Inv) : (State.takeHeaderGone s tid home idx gen).Inv := by
  unfold State.takeHeaderGone
  repeat' first | assumption | (refine inv_foldl ?_ fun _ _ _ => ?_) | (simp (maxDischargeDepth := 30) [*]; done) | exact ⟨h.mem, h.lifecycle, h.tstat, h.phase⟩ | (simp +contextual (maxDischargeDepth := 30) [*, inv_foldl]; done) | dsimp only | (with_reducible first | apply State.modCore_inv | apply State.setCtx_inv | apply State.modCtx_inv | apply State.setMe_inv | apply State.modMe_inv | apply State.modProc_inv | apply State.modEntry_inv | apply State.setEntry_inv | apply State.send_inv | apply State.modLaunch_inv | apply State.setLaunch_inv) | split

@[simp] theorem execOfferHeader_inv (n : ℕ) {s : State} (h : s.Inv) : Res.Inv (execOfferHeader n s) := by
  unfold execOfferHeader
  split <;> (try have h2 := State.arrive_inv h ‹_›) <;> repeat' first | assumption | (refine inv_foldl ?_ fun _ _ _ => ?_) | (simp (maxDischargeDepth := 30) [*]; done) | exact ⟨h.mem, h.lifecycle, h.tstat, h.phase⟩ | (simp +contextual (maxDischargeDepth := 30) [*, inv_foldl]; done) | dsimp only | (with_reducible first | apply State.modCore_inv | apply State.setCtx_inv | apply State.modCtx_inv | apply State.setMe_inv | apply State.modMe_inv | apply State.modProc_inv | apply State.modEntry_inv | apply State.setEntry_inv | apply State.send_inv | apply State.modLaunch_inv | apply State.setLaunch_inv) | split

@[simp] theorem execClaim_inv (n : ℕ) {s : State} (h : s.Inv) : Res.Inv (execClaim n s) := by
  unfold execClaim
  split <;> (try have h2 := State.arrive_inv h ‹_›) <;> repeat' first | assumption | (refine inv_foldl ?_ fun _ _ _ => ?_) | (simp (maxDischargeDepth := 30) [*]; done) | exact ⟨h.mem, h.lifecycle, h.tstat, h.phase⟩ | (simp +contextual (maxDischargeDepth := 30) [*, inv_foldl]; done) | dsimp only | (with_reducible first | apply State.modCore_inv | apply State.setCtx_inv | apply State.modCtx_inv | apply State.setMe_inv | apply State.modMe_inv | apply State.modProc_inv | apply State.modEntry_inv | apply State.setEntry_inv | apply State.send_inv | apply State.modLaunch_inv | apply State.setLaunch_inv) | split

@[simp] theorem execClaimAnswer_inv (n : ℕ) {s : State} (h : s.Inv) : Res.Inv (execClaimAnswer n s) := by
  unfold execClaimAnswer
  split <;> (try have h2 := State.arrive_inv h ‹_›) <;> repeat' first | assumption | (refine inv_foldl ?_ fun _ _ _ => ?_) | (simp (maxDischargeDepth := 30) [*]; done) | exact ⟨h.mem, h.lifecycle, h.tstat, h.phase⟩ | (simp +contextual (maxDischargeDepth := 30) [*, inv_foldl]; done) | dsimp only | (with_reducible first | apply State.modCore_inv | apply State.setCtx_inv | apply State.modCtx_inv | apply State.setMe_inv | apply State.modMe_inv | apply State.modProc_inv | apply State.modEntry_inv | apply State.setEntry_inv | apply State.send_inv | apply State.modLaunch_inv | apply State.setLaunch_inv) | split

@[simp] theorem execCommitNotice_inv (n : Nat) {s : State} (h : s.Inv) : Res.Inv (execCommitNotice n s) := by
  unfold execCommitNotice
  split
  · rename_i tid home idx gen vt number s1 e
    have h1 : s1.Inv := State.arrive_inv h e
    show ((s1.takeCommit tid home idx gen vt number _).getD s).Inv
    cases e2 : s1.takeCommit tid home idx gen vt number _ with
    | none => exact h
    | some t => exact State.takeCommit_inv _ _ _ _ _ _ _ h1 t e2
  · exact h

@[simp] theorem execSlotRelease_inv (n : ℕ) {s : State} (h : s.Inv) : Res.Inv (execSlotRelease n s) := by
  unfold execSlotRelease
  split <;> (try have h2 := State.arrive_inv h ‹_›) <;> repeat' first | assumption | (refine inv_foldl ?_ fun _ _ _ => ?_) | (simp (maxDischargeDepth := 30) [*]; done) | exact ⟨h.mem, h.lifecycle, h.tstat, h.phase⟩ | (simp +contextual (maxDischargeDepth := 30) [*, inv_foldl]; done) | dsimp only | (with_reducible first | apply State.modCore_inv | apply State.setCtx_inv | apply State.modCtx_inv | apply State.setMe_inv | apply State.modMe_inv | apply State.modProc_inv | apply State.modEntry_inv | apply State.setEntry_inv | apply State.send_inv | apply State.modLaunch_inv | apply State.setLaunch_inv) | split

@[simp] theorem execHeaderWithdrawal_inv (n : ℕ) {s : State} (h : s.Inv) : Res.Inv (execHeaderWithdrawal n s) := by
  unfold execHeaderWithdrawal
  split <;> (try have h2 := State.arrive_inv h ‹_›) <;> repeat' first | assumption | (refine inv_foldl ?_ fun _ _ _ => ?_) | (simp (maxDischargeDepth := 30) [*]; done) | exact ⟨h.mem, h.lifecycle, h.tstat, h.phase⟩ | (simp +contextual (maxDischargeDepth := 30) [*, inv_foldl]; done) | dsimp only | (with_reducible first | apply State.modCore_inv | apply State.setCtx_inv | apply State.modCtx_inv | apply State.setMe_inv | apply State.modMe_inv | apply State.modProc_inv | apply State.modEntry_inv | apply State.setEntry_inv | apply State.send_inv | apply State.modLaunch_inv | apply State.setLaunch_inv) | split

@[simp] theorem State.takeContribution_inv {s : State} (pcn : ℕ) (idx : ℕ) (gen : ℕ) (number : ℕ) (data : List (ℕ × List Byte)) (h : s.Inv) : (State.takeContribution s pcn idx gen number data).Inv := by
  unfold State.takeContribution
  repeat' first | assumption | (refine inv_foldl ?_ fun _ _ _ => ?_) | (simp (maxDischargeDepth := 30) [*]; done) | exact ⟨h.mem, h.lifecycle, h.tstat, h.phase⟩ | (simp +contextual (maxDischargeDepth := 30) [*, inv_foldl]; done) | dsimp only | (with_reducible first | apply State.modCore_inv | apply State.setCtx_inv | apply State.modCtx_inv | apply State.setMe_inv | apply State.modMe_inv | apply State.modProc_inv | apply State.modEntry_inv | apply State.setEntry_inv | apply State.send_inv | apply State.modLaunch_inv | apply State.setLaunch_inv) | split

@[simp] theorem State.contributionAt_inv {s : State} (n : ℕ) (p : Packet) (router idx gen number : ℕ)
    (data : List (ℕ × List Byte)) (h : s.Inv) : (s.contributionAt n p router idx gen number data).Inv := by
  unfold State.contributionAt
  dsimp only
  split
  · split
    · exact h
    · split
      · exact State.clearSets_inv _ _ _ _ (State.takePacket_inv _ _ h)
      · split
        · exact State.combineAt_inv _ _ _ _ _ _ _ _ h
        · exact State.takeContribution_inv _ _ _ _ _ (State.combineAt_inv _ _ _ _ _ _ _ _ h)
  · split
    · exact State.takeContribution_inv _ _ _ _ _ (State.takePacket_inv _ _ h)
    · exact h

@[simp] theorem execCombineContribution_inv (n router : Nat) {s : State} (h : s.Inv) :
    Res.Inv (execCombineContribution n router s) := by
  unfold execCombineContribution
  split
  · split
    · split
      · refine State.contributionAt_inv _ _ _ _ _ _ _ ?_
        split
        · exact ⟨h.mem, h.lifecycle, h.tstat, h.phase⟩
        · exact h
      · exact h
    · exact h
  · exact h

@[simp] theorem execStreamCircuit_inv (n : ℕ) {s : State} (h : s.Inv) : Res.Inv (execStreamCircuit n s) := by
  unfold execStreamCircuit
  repeat' first | assumption | (refine inv_foldl ?_ fun _ _ _ => ?_) | (simp (maxDischargeDepth := 30) [*]; done) | exact ⟨h.mem, h.lifecycle, h.tstat, h.phase⟩ | (simp +contextual (maxDischargeDepth := 30) [*, inv_foldl]; done) | dsimp only | (with_reducible first | apply State.modCore_inv | apply State.setCtx_inv | apply State.modCtx_inv | apply State.setMe_inv | apply State.modMe_inv | apply State.modProc_inv | apply State.modEntry_inv | apply State.setEntry_inv | apply State.send_inv | apply State.modLaunch_inv | apply State.setLaunch_inv) | split

theorem State.journalPayload_inv {s : State} (tid line : Nat) (h : s.Inv) : OptInv (s.journalPayload tid line) := by
  intro t e
  unfold State.journalPayload at e
  split at e
  · exact State.journal_inv tid line h t e
  · simp only [Option.some.injEq] at e; exact e ▸ h

@[simp] theorem State.writePayload_inv {s : State} (n : Nat) (p : Packet) (tid home idx number : Nat) (h : s.Inv) :
    (s.writePayload n p tid home idx number).Inv := by
  unfold State.writePayload
  dsimp only
  split
  · exact State.takePacket_inv _ _ h
  · split
    · exact State.takePacket_inv _ _ h
    · split
      · split
        · exact h
        · split
          · exact h
          · rename_i e
            have h1 := State.journalPayload_inv _ _ h _ e
            have h4 := fun k bs e => State.leaveRouters_inv home idx (s.entry home idx).gen number (coreOfTid tid)
              (State.setEntry_inv home idx e (State.writeWindow_inv k bs h1))
            split
            · exact State.modCtx_inv _ _ (State.takePacket_inv _ _ (h4 _ _ _))
            · exact h4 _ _ _
      · exact State.takePacket_inv _ _ h
      · exact h

@[simp] theorem execPayloadArrival_inv (n : ℕ) {s : State} (h : s.Inv) : Res.Inv (execPayloadArrival n s) := by
  unfold execPayloadArrival
  repeat' first | assumption | (refine inv_foldl ?_ fun _ _ _ => ?_) | (simp (maxDischargeDepth := 30) [*]; done) | exact ⟨h.mem, h.lifecycle, h.tstat, h.phase⟩ | (simp +contextual (maxDischargeDepth := 30) [*, inv_foldl]; done) | dsimp only | (with_reducible first | apply State.modCore_inv | apply State.setCtx_inv | apply State.modCtx_inv | apply State.setMe_inv | apply State.modMe_inv | apply State.modProc_inv | apply State.modEntry_inv | apply State.setEntry_inv | apply State.send_inv | apply State.modLaunch_inv | apply State.setLaunch_inv) | split

@[simp] theorem State.resumeParticipant_inv {s : State} (tid : ℕ) (batch : Option ℕ) (h : s.Inv) : (State.resumeParticipant s tid batch).Inv := by
  unfold State.resumeParticipant
  repeat' first | assumption | (refine inv_foldl ?_ fun _ _ _ => ?_) | (simp (maxDischargeDepth := 30) [*]; done) | exact ⟨h.mem, h.lifecycle, h.tstat, h.phase⟩ | (simp +contextual (maxDischargeDepth := 30) [*, inv_foldl]; done) | dsimp only | (with_reducible first | apply State.modCore_inv | apply State.setCtx_inv | apply State.modCtx_inv | apply State.setMe_inv | apply State.modMe_inv | apply State.modProc_inv | apply State.modEntry_inv | apply State.setEntry_inv | apply State.send_inv | apply State.modLaunch_inv | apply State.setLaunch_inv) | split

@[simp] theorem execEventOccur_inv (pcn : ℕ) (idx : ℕ) {s : State} (h : s.Inv) : Res.Inv (execEventOccur pcn idx s) := by
  unfold execEventOccur
  repeat' first | assumption | (refine inv_foldl ?_ fun _ _ _ => ?_) | (simp (maxDischargeDepth := 30) [*]; done) | exact ⟨h.mem, h.lifecycle, h.tstat, h.phase⟩ | (simp +contextual (maxDischargeDepth := 30) [*, inv_foldl]; done) | dsimp only | (with_reducible first | apply State.modCore_inv | apply State.setCtx_inv | apply State.modCtx_inv | apply State.setMe_inv | apply State.modMe_inv | apply State.modProc_inv | apply State.modEntry_inv | apply State.setEntry_inv | apply State.send_inv | apply State.modLaunch_inv | apply State.setLaunch_inv) | split

@[simp] theorem State.dropSaved_inv {s : State} (colour : ℕ) (cores : List ℕ) (h : s.Inv) : (State.dropSaved s colour cores).Inv := by
  unfold State.dropSaved
  repeat' first | assumption | (refine inv_foldl ?_ fun _ _ _ => ?_) | (simp (maxDischargeDepth := 30) [*]; done) | exact ⟨h.mem, h.lifecycle, h.tstat, h.phase⟩ | (simp +contextual (maxDischargeDepth := 30) [*, inv_foldl]; done) | dsimp only | (with_reducible first | apply State.modCore_inv | apply State.setCtx_inv | apply State.modCtx_inv | apply State.setMe_inv | apply State.modMe_inv | apply State.modProc_inv | apply State.modEntry_inv | apply State.setEntry_inv | apply State.send_inv | apply State.modLaunch_inv | apply State.setLaunch_inv) | split

@[simp] theorem State.endLaunch_inv {s : State} (key : ℕ) (status : ℕ) (cause : ℕ) (pcn : ℕ) (h : s.Inv) : (State.endLaunch s key status cause pcn).Inv := by
  unfold State.endLaunch
  repeat' first | assumption | (refine inv_foldl ?_ fun _ _ _ => ?_) | (simp (maxDischargeDepth := 30) [*]; done) | exact ⟨h.mem, h.lifecycle, h.tstat, h.phase⟩ | (simp +contextual (maxDischargeDepth := 30) [*, inv_foldl]; done) | dsimp only | (with_reducible first | apply State.modCore_inv | apply State.setCtx_inv | apply State.modCtx_inv | apply State.setMe_inv | apply State.modMe_inv | apply State.modProc_inv | apply State.modEntry_inv | apply State.setEntry_inv | apply State.send_inv | apply State.modLaunch_inv | apply State.setLaunch_inv) | split

@[simp] theorem State.emit_inv {s : State} (o : UetOut) (h : s.Inv) : (State.emit s o).Inv := by
  unfold State.emit
  repeat' first | assumption | (refine inv_foldl ?_ fun _ _ _ => ?_) | (simp (maxDischargeDepth := 30) [*]; done) | exact ⟨h.mem, h.lifecycle, h.tstat, h.phase⟩ | (simp +contextual (maxDischargeDepth := 30) [*, inv_foldl]; done) | dsimp only | (with_reducible first | apply State.modCore_inv | apply State.setCtx_inv | apply State.modCtx_inv | apply State.setMe_inv | apply State.modMe_inv | apply State.modProc_inv | apply State.modEntry_inv | apply State.setEntry_inv | apply State.send_inv | apply State.modLaunch_inv | apply State.setLaunch_inv) | split

@[simp] theorem State.putBinding_inv {s : State} (region : ℕ) (b : Binding) (h : s.Inv) : (State.putBinding s region b).Inv := by
  unfold State.putBinding
  repeat' first | assumption | (refine inv_foldl ?_ fun _ _ _ => ?_) | (simp (maxDischargeDepth := 30) [*]; done) | exact ⟨h.mem, h.lifecycle, h.tstat, h.phase⟩ | (simp +contextual (maxDischargeDepth := 30) [*, inv_foldl]; done) | dsimp only | (with_reducible first | apply State.modCore_inv | apply State.setCtx_inv | apply State.modCtx_inv | apply State.setMe_inv | apply State.modMe_inv | apply State.modProc_inv | apply State.modEntry_inv | apply State.setEntry_inv | apply State.send_inv | apply State.modLaunch_inv | apply State.setLaunch_inv) | split

@[simp] theorem State.dropIngress_inv {s : State} (flow : ℕ) (h : s.Inv) : (State.dropIngress s flow).Inv := by
  unfold State.dropIngress
  repeat' first | assumption | (refine inv_foldl ?_ fun _ _ _ => ?_) | (simp (maxDischargeDepth := 30) [*]; done) | exact ⟨h.mem, h.lifecycle, h.tstat, h.phase⟩ | (simp +contextual (maxDischargeDepth := 30) [*, inv_foldl]; done) | dsimp only | (with_reducible first | apply State.modCore_inv | apply State.setCtx_inv | apply State.modCtx_inv | apply State.setMe_inv | apply State.modMe_inv | apply State.modProc_inv | apply State.modEntry_inv | apply State.setEntry_inv | apply State.send_inv | apply State.modLaunch_inv | apply State.setLaunch_inv) | split

@[simp] theorem State.applyIngress_inv {s : State} (region : ℕ) (b : Binding) (m : HeldIngress) (h : s.Inv) : (State.applyIngress s region b m).Inv := by
  unfold State.applyIngress
  repeat' first | assumption | (refine inv_foldl ?_ fun _ _ _ => ?_) | (simp (maxDischargeDepth := 30) [*]; done) | exact ⟨h.mem, h.lifecycle, h.tstat, h.phase⟩ | (simp +contextual (maxDischargeDepth := 30) [*, inv_foldl]; done) | dsimp only | (with_reducible first | apply State.modCore_inv | apply State.setCtx_inv | apply State.modCtx_inv | apply State.setMe_inv | apply State.modMe_inv | apply State.modProc_inv | apply State.modEntry_inv | apply State.setEntry_inv | apply State.send_inv | apply State.modLaunch_inv | apply State.setLaunch_inv) | split

@[simp] theorem State.holdIngress_inv {s : State} (region : ℕ) (m : HeldIngress) (h : s.Inv) : (State.holdIngress s region m).Inv := by
  unfold State.holdIngress
  repeat' first | assumption | (refine inv_foldl ?_ fun _ _ _ => ?_) | (simp (maxDischargeDepth := 30) [*]; done) | exact ⟨h.mem, h.lifecycle, h.tstat, h.phase⟩ | (simp +contextual (maxDischargeDepth := 30) [*, inv_foldl]; done) | dsimp only | (with_reducible first | apply State.modCore_inv | apply State.setCtx_inv | apply State.modCtx_inv | apply State.setMe_inv | apply State.modMe_inv | apply State.modProc_inv | apply State.modEntry_inv | apply State.setEntry_inv | apply State.send_inv | apply State.modLaunch_inv | apply State.setLaunch_inv) | split

@[simp] theorem State.takeIngress_inv {s : State} (region : ℕ) (m : HeldIngress) (h : s.Inv) : (State.takeIngress s region m).Inv := by
  unfold State.takeIngress
  repeat' first | assumption | (refine inv_foldl ?_ fun _ _ _ => ?_) | (simp (maxDischargeDepth := 30) [*]; done) | exact ⟨h.mem, h.lifecycle, h.tstat, h.phase⟩ | (simp +contextual (maxDischargeDepth := 30) [*, inv_foldl]; done) | dsimp only | (with_reducible first | apply State.modCore_inv | apply State.setCtx_inv | apply State.modCtx_inv | apply State.setMe_inv | apply State.modMe_inv | apply State.modProc_inv | apply State.modEntry_inv | apply State.setEntry_inv | apply State.send_inv | apply State.modLaunch_inv | apply State.setLaunch_inv) | split

@[simp] theorem State.applyHeld_inv {s : State} (region : ℕ) (h : s.Inv) : (State.applyHeld s region).Inv := by
  unfold State.applyHeld
  repeat' first | assumption | (refine inv_foldl ?_ fun _ _ _ => ?_) | (simp (maxDischargeDepth := 30) [*]; done) | exact ⟨h.mem, h.lifecycle, h.tstat, h.phase⟩ | (simp +contextual (maxDischargeDepth := 30) [*, inv_foldl]; done) | dsimp only | (with_reducible first | apply State.modCore_inv | apply State.setCtx_inv | apply State.modCtx_inv | apply State.setMe_inv | apply State.modMe_inv | apply State.modProc_inv | apply State.modEntry_inv | apply State.setEntry_inv | apply State.send_inv | apply State.modLaunch_inv | apply State.setLaunch_inv) | split

@[simp] theorem State.bindTag_inv {s : State} (region : ℕ) (tag : ℕ) (home : ℕ) (idx : ℕ) (gen : ℕ) (h : s.Inv) : (State.bindTag s region tag home idx gen).Inv := by
  unfold State.bindTag
  repeat' first | assumption | (refine inv_foldl ?_ fun _ _ _ => ?_) | (simp (maxDischargeDepth := 30) [*]; done) | exact ⟨h.mem, h.lifecycle, h.tstat, h.phase⟩ | (simp +contextual (maxDischargeDepth := 30) [*, inv_foldl]; done) | dsimp only | (with_reducible first | apply State.modCore_inv | apply State.setCtx_inv | apply State.modCtx_inv | apply State.setMe_inv | apply State.modMe_inv | apply State.modProc_inv | apply State.modEntry_inv | apply State.setEntry_inv | apply State.send_inv | apply State.modLaunch_inv | apply State.setLaunch_inv) | split

@[simp] theorem State.dropHeld_inv {s : State} (region : ℕ) (tag : ℕ) (h : s.Inv) : (State.dropHeld s region tag).Inv := by
  unfold State.dropHeld
  repeat' first | assumption | (refine inv_foldl ?_ fun _ _ _ => ?_) | (simp (maxDischargeDepth := 30) [*]; done) | exact ⟨h.mem, h.lifecycle, h.tstat, h.phase⟩ | (simp +contextual (maxDischargeDepth := 30) [*, inv_foldl]; done) | dsimp only | (with_reducible first | apply State.modCore_inv | apply State.setCtx_inv | apply State.modCtx_inv | apply State.setMe_inv | apply State.modMe_inv | apply State.modProc_inv | apply State.modEntry_inv | apply State.setEntry_inv | apply State.send_inv | apply State.modLaunch_inv | apply State.setLaunch_inv) | split

@[simp] theorem State.unbindEvent_inv {s : State} (region : ℕ) (home : ℕ) (idx : ℕ) (h : s.Inv) : (State.unbindEvent s region home idx).Inv := by
  unfold State.unbindEvent
  repeat' first | assumption | (refine inv_foldl ?_ fun _ _ _ => ?_) | (simp (maxDischargeDepth := 30) [*]; done) | exact ⟨h.mem, h.lifecycle, h.tstat, h.phase⟩ | (simp +contextual (maxDischargeDepth := 30) [*, inv_foldl]; done) | dsimp only | (with_reducible first | apply State.modCore_inv | apply State.setCtx_inv | apply State.modCtx_inv | apply State.setMe_inv | apply State.modMe_inv | apply State.modProc_inv | apply State.modEntry_inv | apply State.setEntry_inv | apply State.send_inv | apply State.modLaunch_inv | apply State.setLaunch_inv) | split

@[simp] theorem State.readBlock_inv {s : State} (kind : AccessKind) (a : Word) (n : ℕ) (h : s.Inv) : Res.Inv (State.readBlock s kind a n) := by
  unfold State.readBlock
  repeat' first | assumption | (refine inv_foldl ?_ fun _ _ _ => ?_) | (simp (maxDischargeDepth := 30) [*]; done) | exact ⟨h.mem, h.lifecycle, h.tstat, h.phase⟩ | (simp +contextual (maxDischargeDepth := 30) [*, inv_foldl]; done) | dsimp only | (with_reducible first | apply State.modCore_inv | apply State.setCtx_inv | apply State.modCtx_inv | apply State.setMe_inv | apply State.modMe_inv | apply State.modProc_inv | apply State.modEntry_inv | apply State.setEntry_inv | apply State.send_inv | apply State.modLaunch_inv | apply State.setLaunch_inv) | split

@[simp] theorem execEvNew_inv (d : GReg) (a : GReg) (b : GReg) {s : State} (h : s.Inv) : Res.Inv (execEvNew d a b s) := by
  unfold execEvNew
  repeat' first | assumption | (refine inv_foldl ?_ fun _ _ _ => ?_) | (simp (maxDischargeDepth := 30) [*]; done) | exact ⟨h.mem, h.lifecycle, h.tstat, h.phase⟩ | (simp +contextual (maxDischargeDepth := 30) [*, inv_foldl]; done) | dsimp only | (with_reducible first | apply State.modCore_inv | apply State.setCtx_inv | apply State.modCtx_inv | apply State.setMe_inv | apply State.modMe_inv | apply State.modProc_inv | apply State.modEntry_inv | apply State.setEntry_inv | apply State.send_inv | apply State.modLaunch_inv | apply State.setLaunch_inv) | split

@[simp] theorem State.finishDescriptor_inv {s : State} (tid : Nat) (bs : List Byte) (d : GReg) (sel : Word) (h : s.Inv) :
    (s.finishDescriptor tid bs d sel).Inv := by
  unfold State.finishDescriptor
  dsimp only
  have ht := fun r => State.takeTrapAt_inv tid r h
  split
  · exact ht _
  · split
    · exact ht _
    · generalize (if sel >>> 22 = 0 then parseDescriptor s _ bs else none) = d1
      cases d1 with
      | none => exact ht _
      | some desc =>
        dsimp only
        generalize (if sel.getLsbD 21 = true then some (coreOfTid tid) else s.coreOfLogical? tid (sel.toNat % 2 ^ 12)) = d2
        cases d2 with
        | none => exact ht _
        | some pcn =>
          dsimp only
          split
          · exact ht _
          · exact State.post_inv _ _ _ _ _ (State.setCtx_inv _ _ h)

@[simp] theorem State.createEvent_inv {s : State} (pcn : ℕ) (idx : ℕ) (d : Descriptor) (space : ℕ) (key : ℕ) (h : s.Inv) : (State.createEvent s pcn idx d space key).Inv := by
  unfold State.createEvent
  repeat' first | assumption | (refine inv_foldl ?_ fun _ _ _ => ?_) | (simp (maxDischargeDepth := 30) [*]; done) | exact ⟨h.mem, h.lifecycle, h.tstat, h.phase⟩ | (simp +contextual (maxDischargeDepth := 30) [*, inv_foldl]; done) | dsimp only | (with_reducible first | apply State.modCore_inv | apply State.setCtx_inv | apply State.modCtx_inv | apply State.setMe_inv | apply State.modMe_inv | apply State.modProc_inv | apply State.modEntry_inv | apply State.setEntry_inv | apply State.send_inv | apply State.modLaunch_inv | apply State.setLaunch_inv) | split

@[simp] theorem State.takeEvNew_inv {s : State} (pcn : ℕ) (tid : ℕ) (idx : ℕ) (any : Bool) (d : Descriptor) (space : ℕ) (key : ℕ) (region : ℕ) (colour : Option ℕ) (h : s.Inv) : (State.takeEvNew s pcn tid idx any d space key region colour).Inv := by
  unfold State.takeEvNew
  repeat' first | assumption | (refine inv_foldl ?_ fun _ _ _ => ?_) | (simp (maxDischargeDepth := 30) [*]; done) | exact ⟨h.mem, h.lifecycle, h.tstat, h.phase⟩ | (simp +contextual (maxDischargeDepth := 30) [*, inv_foldl]; done) | dsimp only | (with_reducible first | apply State.modCore_inv | apply State.setCtx_inv | apply State.modCtx_inv | apply State.setMe_inv | apply State.modMe_inv | apply State.modProc_inv | apply State.modEntry_inv | apply State.setEntry_inv | apply State.send_inv | apply State.modLaunch_inv | apply State.setLaunch_inv) | split

@[simp] theorem execEvNewRequest_inv (n : ℕ) {s : State} (h : s.Inv) : Res.Inv (execEvNewRequest n s) := by
  unfold execEvNewRequest
  split <;> (try have h2 := State.arrive_inv h ‹_›) <;> repeat' first | assumption | (refine inv_foldl ?_ fun _ _ _ => ?_) | (simp (maxDischargeDepth := 30) [*]; done) | exact ⟨h.mem, h.lifecycle, h.tstat, h.phase⟩ | (simp +contextual (maxDischargeDepth := 30) [*, inv_foldl]; done) | dsimp only | (with_reducible first | apply State.modCore_inv | apply State.setCtx_inv | apply State.modCtx_inv | apply State.setMe_inv | apply State.modMe_inv | apply State.modProc_inv | apply State.modEntry_inv | apply State.setEntry_inv | apply State.send_inv | apply State.modLaunch_inv | apply State.setLaunch_inv) | split

@[simp] theorem execEvNewAnswer_inv (n : ℕ) {s : State} (h : s.Inv) : Res.Inv (execEvNewAnswer n s) := by
  unfold execEvNewAnswer
  split <;> (try have h2 := State.arrive_inv h ‹_›) <;> repeat' first | assumption | (refine inv_foldl ?_ fun _ _ _ => ?_) | (simp (maxDischargeDepth := 30) [*]; done) | exact ⟨h.mem, h.lifecycle, h.tstat, h.phase⟩ | (simp +contextual (maxDischargeDepth := 30) [*, inv_foldl]; done) | dsimp only | (with_reducible first | apply State.modCore_inv | apply State.setCtx_inv | apply State.modCtx_inv | apply State.setMe_inv | apply State.modMe_inv | apply State.modProc_inv | apply State.modEntry_inv | apply State.setEntry_inv | apply State.send_inv | apply State.modLaunch_inv | apply State.setLaunch_inv) | split

@[simp] theorem execEvFree_inv (a : GReg) {s : State} (h : s.Inv) : Res.Inv (execEvFree a s) := by
  unfold execEvFree
  repeat' first | assumption | (refine inv_foldl ?_ fun _ _ _ => ?_) | (simp (maxDischargeDepth := 30) [*]; done) | exact ⟨h.mem, h.lifecycle, h.tstat, h.phase⟩ | (simp +contextual (maxDischargeDepth := 30) [*, inv_foldl]; done) | dsimp only | (with_reducible first | apply State.modCore_inv | apply State.setCtx_inv | apply State.modCtx_inv | apply State.setMe_inv | apply State.modMe_inv | apply State.modProc_inv | apply State.modEntry_inv | apply State.setEntry_inv | apply State.send_inv | apply State.modLaunch_inv | apply State.setLaunch_inv) | split

@[simp] theorem State.releaseFaults_inv {s : State} (x1 : BitVec 32) (key : ℕ) (h : s.Inv) : (State.releaseFaults s x1 key).Inv := by
  unfold State.releaseFaults
  repeat' first | assumption | (refine inv_foldl ?_ fun _ _ _ => ?_) | (simp (maxDischargeDepth := 30) [*]; done) | exact ⟨h.mem, h.lifecycle, h.tstat, h.phase⟩ | (simp +contextual (maxDischargeDepth := 30) [*, inv_foldl]; done) | dsimp only | (with_reducible first | apply State.modCore_inv | apply State.setCtx_inv | apply State.modCtx_inv | apply State.setMe_inv | apply State.modMe_inv | apply State.modProc_inv | apply State.modEntry_inv | apply State.setEntry_inv | apply State.send_inv | apply State.modLaunch_inv | apply State.setLaunch_inv) | split

@[simp] theorem State.freeEvent_inv {s : State} (pcn : ℕ) (idx : ℕ) (h : s.Inv) : (State.freeEvent s pcn idx).Inv := by
  unfold State.freeEvent
  repeat' first | assumption | (refine inv_foldl ?_ fun _ _ _ => ?_) | (simp (maxDischargeDepth := 30) [*]; done) | exact ⟨h.mem, h.lifecycle, h.tstat, h.phase⟩ | (simp +contextual (maxDischargeDepth := 30) [*, inv_foldl]; done) | dsimp only | (with_reducible first | apply State.modCore_inv | apply State.setCtx_inv | apply State.modCtx_inv | apply State.setMe_inv | apply State.modMe_inv | apply State.modProc_inv | apply State.modEntry_inv | apply State.setEntry_inv | apply State.send_inv | apply State.modLaunch_inv | apply State.setLaunch_inv) | split

@[simp] theorem execEvFreeRequest_inv (n : ℕ) {s : State} (h : s.Inv) : Res.Inv (execEvFreeRequest n s) := by
  unfold execEvFreeRequest
  split <;> (try have h2 := State.arrive_inv h ‹_›) <;> repeat' first | assumption | (refine inv_foldl ?_ fun _ _ _ => ?_) | (simp (maxDischargeDepth := 30) [*]; done) | exact ⟨h.mem, h.lifecycle, h.tstat, h.phase⟩ | (simp +contextual (maxDischargeDepth := 30) [*, inv_foldl]; done) | dsimp only | (with_reducible first | apply State.modCore_inv | apply State.setCtx_inv | apply State.modCtx_inv | apply State.setMe_inv | apply State.modMe_inv | apply State.modProc_inv | apply State.modEntry_inv | apply State.setEntry_inv | apply State.send_inv | apply State.modLaunch_inv | apply State.setLaunch_inv) | split

@[simp] theorem execEntryFreed_inv (pcn : ℕ) (idx : ℕ) {s : State} (h : s.Inv) : Res.Inv (execEntryFreed pcn idx s) := by
  unfold execEntryFreed
  repeat' first | assumption | (refine inv_foldl ?_ fun _ _ _ => ?_) | (simp (maxDischargeDepth := 30) [*]; done) | exact ⟨h.mem, h.lifecycle, h.tstat, h.phase⟩ | (simp +contextual (maxDischargeDepth := 30) [*, inv_foldl]; done) | dsimp only | (with_reducible first | apply State.modCore_inv | apply State.setCtx_inv | apply State.modCtx_inv | apply State.setMe_inv | apply State.modMe_inv | apply State.modProc_inv | apply State.modEntry_inv | apply State.setEntry_inv | apply State.send_inv | apply State.modLaunch_inv | apply State.setLaunch_inv) | split

@[simp] theorem State.timeOut_inv {s : State} (tid : ℕ) (h : s.Inv) : (State.timeOut s tid).Inv := by
  unfold State.timeOut
  repeat' first | assumption | (refine inv_foldl ?_ fun _ _ _ => ?_) | (simp (maxDischargeDepth := 30) [*]; done) | exact ⟨h.mem, h.lifecycle, h.tstat, h.phase⟩ | (simp +contextual (maxDischargeDepth := 30) [*, inv_foldl]; done) | dsimp only | (with_reducible first | apply State.modCore_inv | apply State.setCtx_inv | apply State.modCtx_inv | apply State.setMe_inv | apply State.modMe_inv | apply State.modProc_inv | apply State.modEntry_inv | apply State.setEntry_inv | apply State.send_inv | apply State.modLaunch_inv | apply State.setLaunch_inv) | split

@[simp] theorem execOfferTimeout_inv (tid : ℕ) {s : State} (h : s.Inv) : Res.Inv (execOfferTimeout tid s) := by
  unfold execOfferTimeout
  repeat' first | assumption | (refine inv_foldl ?_ fun _ _ _ => ?_) | (simp (maxDischargeDepth := 30) [*]; done) | exact ⟨h.mem, h.lifecycle, h.tstat, h.phase⟩ | (simp +contextual (maxDischargeDepth := 30) [*, inv_foldl]; done) | dsimp only | (with_reducible first | apply State.modCore_inv | apply State.setCtx_inv | apply State.modCtx_inv | apply State.setMe_inv | apply State.modMe_inv | apply State.modProc_inv | apply State.modEntry_inv | apply State.setEntry_inv | apply State.send_inv | apply State.modLaunch_inv | apply State.setLaunch_inv) | split

end Sys2Proof.Machine
end

