-- ==== Sys2Proof/Laws/InvariantEngines.lean ====
section
/-!
SUPPORT. The operations of the machine keep its invariant (Safety.lean): Engines.
-/

set_option Elab.async false
set_option linter.all false

namespace Sys2Proof.Machine

@[simp] theorem State.cfg_inv {s : State} (copy : Bool) (a : GReg) (b : GReg) (h : s.Inv) : Res.Inv (State.cfg s copy a b) := by
  unfold State.cfg
  repeat' first | assumption | (refine inv_foldl ?_ fun _ _ _ => ?_) | (simp (maxDischargeDepth := 30) [*]; done) | exact ⟨h.mem, h.lifecycle, h.tstat, h.phase⟩ | (simp +contextual (maxDischargeDepth := 30) [*, inv_foldl]; done) | dsimp only | (with_reducible first | apply State.modCore_inv | apply State.setCtx_inv | apply State.modCtx_inv | apply State.setMe_inv | apply State.modMe_inv | apply State.modProc_inv | apply State.modEntry_inv | apply State.setEntry_inv | apply State.send_inv | apply State.modLaunch_inv | apply State.setLaunch_inv) | split

@[simp] theorem execMxCfg_inv (a : GReg) (b : GReg) {s : State} (h : s.Inv) : Res.Inv (execMxCfg a b s) := by
  unfold execMxCfg
  repeat' first | assumption | (refine inv_foldl ?_ fun _ _ _ => ?_) | (simp (maxDischargeDepth := 30) [*]; done) | exact ⟨h.mem, h.lifecycle, h.tstat, h.phase⟩ | (simp +contextual (maxDischargeDepth := 30) [*, inv_foldl]; done) | dsimp only | (with_reducible first | apply State.modCore_inv | apply State.setCtx_inv | apply State.modCtx_inv | apply State.setMe_inv | apply State.modMe_inv | apply State.modProc_inv | apply State.modEntry_inv | apply State.setEntry_inv | apply State.send_inv | apply State.modLaunch_inv | apply State.setLaunch_inv) | split

@[simp] theorem execCpCfg_inv (a : GReg) (b : GReg) {s : State} (h : s.Inv) : Res.Inv (execCpCfg a b s) := by
  unfold execCpCfg
  repeat' first | assumption | (refine inv_foldl ?_ fun _ _ _ => ?_) | (simp (maxDischargeDepth := 30) [*]; done) | exact ⟨h.mem, h.lifecycle, h.tstat, h.phase⟩ | (simp +contextual (maxDischargeDepth := 30) [*, inv_foldl]; done) | dsimp only | (with_reducible first | apply State.modCore_inv | apply State.setCtx_inv | apply State.modCtx_inv | apply State.setMe_inv | apply State.modMe_inv | apply State.modProc_inv | apply State.modEntry_inv | apply State.setEntry_inv | apply State.send_inv | apply State.modLaunch_inv | apply State.setLaunch_inv) | split

@[simp] theorem State.finishConfig_inv {s : State} (tid : ℕ) (copy : Bool) (bs : List Byte) (h : s.Inv) : (State.finishConfig s tid copy bs).Inv := by
  unfold State.finishConfig
  repeat' first | assumption | (refine inv_foldl ?_ fun _ _ _ => ?_) | (simp (maxDischargeDepth := 30) [*]; done) | exact ⟨h.mem, h.lifecycle, h.tstat, h.phase⟩ | (simp +contextual (maxDischargeDepth := 30) [*, inv_foldl]; done) | dsimp only | (with_reducible first | apply State.modCore_inv | apply State.setCtx_inv | apply State.modCtx_inv | apply State.setMe_inv | apply State.modMe_inv | apply State.modProc_inv | apply State.modEntry_inv | apply State.setEntry_inv | apply State.send_inv | apply State.modLaunch_inv | apply State.setLaunch_inv) | split

@[simp] theorem execMxGet_inv (d : GReg) (a : GReg) {s : State} (h : s.Inv) : Res.Inv (execMxGet d a s) := by
  unfold execMxGet
  repeat' first | assumption | (refine inv_foldl ?_ fun _ _ _ => ?_) | (simp (maxDischargeDepth := 30) [*]; done) | exact ⟨h.mem, h.lifecycle, h.tstat, h.phase⟩ | (simp +contextual (maxDischargeDepth := 30) [*, inv_foldl]; done) | dsimp only | (with_reducible first | apply State.modCore_inv | apply State.setCtx_inv | apply State.modCtx_inv | apply State.setMe_inv | apply State.modMe_inv | apply State.modProc_inv | apply State.modEntry_inv | apply State.setEntry_inv | apply State.send_inv | apply State.modLaunch_inv | apply State.setLaunch_inv) | split

@[simp] theorem execCpStat_inv (d a : GReg) {s : State} (h : s.Inv) : Res.Inv (execCpStat d a s) := by
  unfold execCpStat
  dsimp only
  split
  · split
    · exact State.writeG_inv _ _ h
    · exact State.trapHere_inv _ _ h
  · generalize List.find? _ _ = r
    cases r with
    | none => exact State.writeG_inv _ _ h
    | some j => exact State.writeG_inv _ _ h

theorem State.joinBatch_inv {s : State} (pcn : Nat) (e : Engine) (thread proc ckseq : Nat) (timed : Bool)
    (b id : BitVec 32) (lvt : Nat) (h : s.Inv) : (s.joinBatch pcn e thread proc ckseq timed b id lvt).1.Inv := by
  unfold State.joinBatch
  dsimp only
  split
  · exact State.closeOn_inv _ _ h
  · split
    · simp (maxDischargeDepth := 30) [h]
    · simp (maxDischargeDepth := 30) [h]

@[simp] theorem State.acceptJob_inv {s : State} (e : Engine) (f : JobForm) (d : GReg) (a b : Word) (fl : JobFlags)
    (hd : BitVec 32) (h : s.Inv) : Res.Inv (s.acceptJob e f d a b fl hd) := by
  unfold State.acceptJob
  exact State.writeG_inv _ _ (State.modCore_inv _ _ (State.joinBatch_inv _ _ _ _ _ _ _ _ _ ⟨h.mem, h.lifecycle, h.tstat, h.phase⟩))

@[simp] theorem State.submit_inv {s : State} (i : Instr) (e : Engine) (f : JobForm) (d : GReg) (a : Word) (b : Word) (fl : JobFlags) (x8 : BitVec 32) (con : Option Constraint) (bases : List Word) (ranges : List ByteRange) (h : s.Inv) : Res.Inv (State.submit s i e f d a b fl x8 con bases ranges) := by
  unfold State.submit
  repeat' first | assumption | (refine inv_foldl ?_ fun _ _ _ => ?_) | (simp (maxDischargeDepth := 30) [*]; done) | exact ⟨h.mem, h.lifecycle, h.tstat, h.phase⟩ | (simp +contextual (maxDischargeDepth := 30) [*, inv_foldl]; done) | dsimp only | (with_reducible first | apply State.modCore_inv | apply State.setCtx_inv | apply State.modCtx_inv | apply State.setMe_inv | apply State.modMe_inv | apply State.modProc_inv | apply State.modEntry_inv | apply State.setEntry_inv | apply State.send_inv | apply State.modLaunch_inv | apply State.setLaunch_inv) | split

@[simp] theorem State.submitMx_inv {s : State} (i : Instr) (f : JobForm) (d : GReg) (a : GReg) (b : GReg) (fl : JobFlags) (h : s.Inv) : Res.Inv (State.submitMx s i f d a b fl) := by
  unfold State.submitMx
  repeat' first | assumption | (refine inv_foldl ?_ fun _ _ _ => ?_) | (simp (maxDischargeDepth := 30) [*]; done) | exact ⟨h.mem, h.lifecycle, h.tstat, h.phase⟩ | (simp +contextual (maxDischargeDepth := 30) [*, inv_foldl]; done) | dsimp only | (with_reducible first | apply State.modCore_inv | apply State.setCtx_inv | apply State.modCtx_inv | apply State.setMe_inv | apply State.modMe_inv | apply State.modProc_inv | apply State.modEntry_inv | apply State.setEntry_inv | apply State.send_inv | apply State.modLaunch_inv | apply State.setLaunch_inv) | split

@[simp] theorem State.submitCp_inv {s : State} (i : Instr) (f : JobForm) (d : GReg) (a : GReg) (b : GReg) (fl : JobFlags) (h : s.Inv) : Res.Inv (State.submitCp s i f d a b fl) := by
  unfold State.submitCp
  repeat' first | assumption | (refine inv_foldl ?_ fun _ _ _ => ?_) | (simp (maxDischargeDepth := 30) [*]; done) | exact ⟨h.mem, h.lifecycle, h.tstat, h.phase⟩ | (simp +contextual (maxDischargeDepth := 30) [*, inv_foldl]; done) | dsimp only | (with_reducible first | apply State.modCore_inv | apply State.setCtx_inv | apply State.modCtx_inv | apply State.setMe_inv | apply State.modMe_inv | apply State.modProc_inv | apply State.modEntry_inv | apply State.setEntry_inv | apply State.send_inv | apply State.modLaunch_inv | apply State.setLaunch_inv) | split

@[simp] theorem execMxMma_inv (d : GReg) (a : GReg) (b : GReg) (f : JobFlags) {s : State} (h : s.Inv) : Res.Inv (execMxMma d a b f s) := by
  unfold execMxMma
  repeat' first | assumption | (refine inv_foldl ?_ fun _ _ _ => ?_) | (simp (maxDischargeDepth := 30) [*]; done) | exact ⟨h.mem, h.lifecycle, h.tstat, h.phase⟩ | (simp +contextual (maxDischargeDepth := 30) [*, inv_foldl]; done) | dsimp only | (with_reducible first | apply State.modCore_inv | apply State.setCtx_inv | apply State.modCtx_inv | apply State.setMe_inv | apply State.modMe_inv | apply State.modProc_inv | apply State.modEntry_inv | apply State.setEntry_inv | apply State.send_inv | apply State.modLaunch_inv | apply State.setLaunch_inv) | split

@[simp] theorem execMxMmb_inv (d : GReg) (a : GReg) (b : GReg) (f : JobFlags) {s : State} (h : s.Inv) : Res.Inv (execMxMmb d a b f s) := by
  unfold execMxMmb
  repeat' first | assumption | (refine inv_foldl ?_ fun _ _ _ => ?_) | (simp (maxDischargeDepth := 30) [*]; done) | exact ⟨h.mem, h.lifecycle, h.tstat, h.phase⟩ | (simp +contextual (maxDischargeDepth := 30) [*, inv_foldl]; done) | dsimp only | (with_reducible first | apply State.modCore_inv | apply State.setCtx_inv | apply State.modCtx_inv | apply State.setMe_inv | apply State.modMe_inv | apply State.modProc_inv | apply State.modEntry_inv | apply State.setEntry_inv | apply State.send_inv | apply State.modLaunch_inv | apply State.setLaunch_inv) | split

@[simp] theorem execMxDist_inv (d : GReg) (a : GReg) (b : GReg) (f : JobFlags) {s : State} (h : s.Inv) : Res.Inv (execMxDist d a b f s) := by
  unfold execMxDist
  repeat' first | assumption | (refine inv_foldl ?_ fun _ _ _ => ?_) | (simp (maxDischargeDepth := 30) [*]; done) | exact ⟨h.mem, h.lifecycle, h.tstat, h.phase⟩ | (simp +contextual (maxDischargeDepth := 30) [*, inv_foldl]; done) | dsimp only | (with_reducible first | apply State.modCore_inv | apply State.setCtx_inv | apply State.modCtx_inv | apply State.setMe_inv | apply State.modMe_inv | apply State.modProc_inv | apply State.modEntry_inv | apply State.setEntry_inv | apply State.send_inv | apply State.modLaunch_inv | apply State.setLaunch_inv) | split

@[simp] theorem execMxTopk_inv (d : GReg) (a : GReg) (b : GReg) (f : JobFlags) {s : State} (h : s.Inv) : Res.Inv (execMxTopk d a b f s) := by
  unfold execMxTopk
  repeat' first | assumption | (refine inv_foldl ?_ fun _ _ _ => ?_) | (simp (maxDischargeDepth := 30) [*]; done) | exact ⟨h.mem, h.lifecycle, h.tstat, h.phase⟩ | (simp +contextual (maxDischargeDepth := 30) [*, inv_foldl]; done) | dsimp only | (with_reducible first | apply State.modCore_inv | apply State.setCtx_inv | apply State.modCtx_inv | apply State.setMe_inv | apply State.modMe_inv | apply State.modProc_inv | apply State.modEntry_inv | apply State.setEntry_inv | apply State.send_inv | apply State.modLaunch_inv | apply State.setLaunch_inv) | split

@[simp] theorem execMxZero_inv (d : GReg) (a : GReg) (b : GReg) (f : JobFlags) {s : State} (h : s.Inv) : Res.Inv (execMxZero d a b f s) := by
  unfold execMxZero
  repeat' first | assumption | (refine inv_foldl ?_ fun _ _ _ => ?_) | (simp (maxDischargeDepth := 30) [*]; done) | exact ⟨h.mem, h.lifecycle, h.tstat, h.phase⟩ | (simp +contextual (maxDischargeDepth := 30) [*, inv_foldl]; done) | dsimp only | (with_reducible first | apply State.modCore_inv | apply State.setCtx_inv | apply State.modCtx_inv | apply State.setMe_inv | apply State.modMe_inv | apply State.modProc_inv | apply State.modEntry_inv | apply State.setEntry_inv | apply State.send_inv | apply State.modLaunch_inv | apply State.setLaunch_inv) | split

@[simp] theorem execMxLd_inv (d : GReg) (a : GReg) (b : GReg) (f : JobFlags) {s : State} (h : s.Inv) : Res.Inv (execMxLd d a b f s) := by
  unfold execMxLd
  repeat' first | assumption | (refine inv_foldl ?_ fun _ _ _ => ?_) | (simp (maxDischargeDepth := 30) [*]; done) | exact ⟨h.mem, h.lifecycle, h.tstat, h.phase⟩ | (simp +contextual (maxDischargeDepth := 30) [*, inv_foldl]; done) | dsimp only | (with_reducible first | apply State.modCore_inv | apply State.setCtx_inv | apply State.modCtx_inv | apply State.setMe_inv | apply State.modMe_inv | apply State.modProc_inv | apply State.modEntry_inv | apply State.setEntry_inv | apply State.send_inv | apply State.modLaunch_inv | apply State.setLaunch_inv) | split

@[simp] theorem execMxSt_inv (d : GReg) (a : GReg) (b : GReg) (f : JobFlags) {s : State} (h : s.Inv) : Res.Inv (execMxSt d a b f s) := by
  unfold execMxSt
  repeat' first | assumption | (refine inv_foldl ?_ fun _ _ _ => ?_) | (simp (maxDischargeDepth := 30) [*]; done) | exact ⟨h.mem, h.lifecycle, h.tstat, h.phase⟩ | (simp +contextual (maxDischargeDepth := 30) [*, inv_foldl]; done) | dsimp only | (with_reducible first | apply State.modCore_inv | apply State.setCtx_inv | apply State.modCtx_inv | apply State.setMe_inv | apply State.modMe_inv | apply State.modProc_inv | apply State.modEntry_inv | apply State.setEntry_inv | apply State.send_inv | apply State.modLaunch_inv | apply State.setLaunch_inv) | split

@[simp] theorem execCpCopy_inv (d : GReg) (a : GReg) (b : GReg) (f : JobFlags) {s : State} (h : s.Inv) : Res.Inv (execCpCopy d a b f s) := by
  unfold execCpCopy
  repeat' first | assumption | (refine inv_foldl ?_ fun _ _ _ => ?_) | (simp (maxDischargeDepth := 30) [*]; done) | exact ⟨h.mem, h.lifecycle, h.tstat, h.phase⟩ | (simp +contextual (maxDischargeDepth := 30) [*, inv_foldl]; done) | dsimp only | (with_reducible first | apply State.modCore_inv | apply State.setCtx_inv | apply State.modCtx_inv | apply State.setMe_inv | apply State.modMe_inv | apply State.modProc_inv | apply State.modEntry_inv | apply State.setEntry_inv | apply State.send_inv | apply State.modLaunch_inv | apply State.setLaunch_inv) | split

@[simp] theorem execCpStream_inv (d : GReg) (a : GReg) (b : GReg) (f : JobFlags) {s : State} (h : s.Inv) : Res.Inv (execCpStream d a b f s) := by
  unfold execCpStream
  repeat' first | assumption | (refine inv_foldl ?_ fun _ _ _ => ?_) | (simp (maxDischargeDepth := 30) [*]; done) | exact ⟨h.mem, h.lifecycle, h.tstat, h.phase⟩ | (simp +contextual (maxDischargeDepth := 30) [*, inv_foldl]; done) | dsimp only | (with_reducible first | apply State.modCore_inv | apply State.setCtx_inv | apply State.modCtx_inv | apply State.setMe_inv | apply State.modMe_inv | apply State.modProc_inv | apply State.modEntry_inv | apply State.setEntry_inv | apply State.send_inv | apply State.modLaunch_inv | apply State.setLaunch_inv) | split

@[simp] theorem execCpCancel_inv (a : GReg) {s : State} (h : s.Inv) : Res.Inv (execCpCancel a s) := by
  unfold execCpCancel
  repeat' first | assumption | (refine inv_foldl ?_ fun _ _ _ => ?_) | (simp (maxDischargeDepth := 30) [*]; done) | exact ⟨h.mem, h.lifecycle, h.tstat, h.phase⟩ | (simp +contextual (maxDischargeDepth := 30) [*, inv_foldl]; done) | dsimp only | (with_reducible first | apply State.modCore_inv | apply State.setCtx_inv | apply State.modCtx_inv | apply State.setMe_inv | apply State.modMe_inv | apply State.modProc_inv | apply State.modEntry_inv | apply State.setEntry_inv | apply State.send_inv | apply State.modLaunch_inv | apply State.setLaunch_inv) | split

@[simp] theorem State.modCopy_inv {s : State} (pcn : ℕ) (id : BitVec 32) (f : Job → Job) (h : s.Inv) : (State.modCopy s pcn id f).Inv := by
  unfold State.modCopy
  repeat' first | assumption | (refine inv_foldl ?_ fun _ _ _ => ?_) | (simp (maxDischargeDepth := 30) [*]; done) | exact ⟨h.mem, h.lifecycle, h.tstat, h.phase⟩ | (simp +contextual (maxDischargeDepth := 30) [*, inv_foldl]; done) | dsimp only | (with_reducible first | apply State.modCore_inv | apply State.setCtx_inv | apply State.modCtx_inv | apply State.setMe_inv | apply State.modMe_inv | apply State.modProc_inv | apply State.modEntry_inv | apply State.setEntry_inv | apply State.send_inv | apply State.modLaunch_inv | apply State.setLaunch_inv) | split

@[simp] theorem State.failCopy_inv {s : State} (pcn : ℕ) (j : Job) (status : ℕ) (h : s.Inv) : (State.failCopy s pcn j status).Inv := by
  unfold State.failCopy
  repeat' first | assumption | (refine inv_foldl ?_ fun _ _ _ => ?_) | (simp (maxDischargeDepth := 30) [*]; done) | exact ⟨h.mem, h.lifecycle, h.tstat, h.phase⟩ | (simp +contextual (maxDischargeDepth := 30) [*, inv_foldl]; done) | dsimp only | (with_reducible first | apply State.modCore_inv | apply State.setCtx_inv | apply State.modCtx_inv | apply State.setMe_inv | apply State.modMe_inv | apply State.modProc_inv | apply State.modEntry_inv | apply State.setEntry_inv | apply State.send_inv | apply State.modLaunch_inv | apply State.setLaunch_inv) | split

@[simp] theorem State.raiseFault_inv {s : State} (pcn : ℕ) (j : Job) (root : ℕ) (va : ℕ) (write : Bool) (absent : Bool) (ts : List Translation) (h : s.Inv) : (State.raiseFault s pcn j root va write absent ts).Inv := by
  unfold State.raiseFault
  repeat' first | assumption | (refine inv_foldl ?_ fun _ _ _ => ?_) | (simp (maxDischargeDepth := 30) [*]; done) | exact ⟨h.mem, h.lifecycle, h.tstat, h.phase⟩ | (simp +contextual (maxDischargeDepth := 30) [*, inv_foldl]; done) | dsimp only | (with_reducible first | apply State.modCore_inv | apply State.setCtx_inv | apply State.modCtx_inv | apply State.setMe_inv | apply State.modMe_inv | apply State.modProc_inv | apply State.modEntry_inv | apply State.setEntry_inv | apply State.send_inv | apply State.modLaunch_inv | apply State.setLaunch_inv) | split

@[simp] theorem State.countDrop_inv {s : State} (pcn : ℕ) (h : s.Inv) : (State.countDrop s pcn).Inv := by
  unfold State.countDrop
  repeat' first | assumption | (refine inv_foldl ?_ fun _ _ _ => ?_) | (simp (maxDischargeDepth := 30) [*]; done) | exact ⟨h.mem, h.lifecycle, h.tstat, h.phase⟩ | (simp +contextual (maxDischargeDepth := 30) [*, inv_foldl]; done) | dsimp only | (with_reducible first | apply State.modCore_inv | apply State.setCtx_inv | apply State.modCtx_inv | apply State.setMe_inv | apply State.modMe_inv | apply State.modProc_inv | apply State.modEntry_inv | apply State.setEntry_inv | apply State.send_inv | apply State.modLaunch_inv | apply State.setLaunch_inv) | split

@[simp] theorem execFaultRecord_inv (n : ℕ) {s : State} (h : s.Inv) : Res.Inv (execFaultRecord n s) := by
  unfold execFaultRecord
  split <;> (try have h2 := State.arrive_inv h ‹_›) <;> repeat' first | assumption | (refine inv_foldl ?_ fun _ _ _ => ?_) | (simp (maxDischargeDepth := 30) [*]; done) | exact ⟨h.mem, h.lifecycle, h.tstat, h.phase⟩ | (simp +contextual (maxDischargeDepth := 30) [*, inv_foldl]; done) | dsimp only | (with_reducible first | apply State.modCore_inv | apply State.setCtx_inv | apply State.modCtx_inv | apply State.setMe_inv | apply State.modMe_inv | apply State.modProc_inv | apply State.modEntry_inv | apply State.setEntry_inv | apply State.send_inv | apply State.modLaunch_inv | apply State.setLaunch_inv) | split

@[simp] theorem State.writeFqhead_inv {s : State} (pcn : ℕ) (v : ℕ) (h : s.Inv) : (State.writeFqhead s pcn v).Inv := by
  unfold State.writeFqhead
  repeat' first | assumption | (refine inv_foldl ?_ fun _ _ _ => ?_) | (simp (maxDischargeDepth := 30) [*]; done) | exact ⟨h.mem, h.lifecycle, h.tstat, h.phase⟩ | (simp +contextual (maxDischargeDepth := 30) [*, inv_foldl]; done) | dsimp only | (with_reducible first | apply State.modCore_inv | apply State.setCtx_inv | apply State.modCtx_inv | apply State.setMe_inv | apply State.modMe_inv | apply State.modProc_inv | apply State.modEntry_inv | apply State.setEntry_inv | apply State.send_inv | apply State.modLaunch_inv | apply State.setLaunch_inv) | split

@[simp] theorem State.writeFreply_inv {s : State} (pcn : ℕ) (v : ℕ) (h : s.Inv) : (State.writeFreply s pcn v).Inv := by
  unfold State.writeFreply
  repeat' first | assumption | (refine inv_foldl ?_ fun _ _ _ => ?_) | (simp (maxDischargeDepth := 30) [*]; done) | exact ⟨h.mem, h.lifecycle, h.tstat, h.phase⟩ | (simp +contextual (maxDischargeDepth := 30) [*, inv_foldl]; done) | dsimp only | (with_reducible first | apply State.modCore_inv | apply State.setCtx_inv | apply State.modCtx_inv | apply State.setMe_inv | apply State.modMe_inv | apply State.modProc_inv | apply State.modEntry_inv | apply State.setEntry_inv | apply State.send_inv | apply State.modLaunch_inv | apply State.setLaunch_inv) | split

@[simp] theorem State.takeFrontReply_inv {s : State} (cl : ℕ) (slot : ℕ) (outcome : ℕ) (h : s.Inv) : (State.takeFrontReply s cl slot outcome).Inv := by
  unfold State.takeFrontReply
  repeat' first | assumption | (refine inv_foldl ?_ fun _ _ _ => ?_) | (simp (maxDischargeDepth := 30) [*]; done) | exact ⟨h.mem, h.lifecycle, h.tstat, h.phase⟩ | (simp +contextual (maxDischargeDepth := 30) [*, inv_foldl]; done) | dsimp only | (with_reducible first | apply State.modCore_inv | apply State.setCtx_inv | apply State.modCtx_inv | apply State.setMe_inv | apply State.modMe_inv | apply State.modProc_inv | apply State.modEntry_inv | apply State.setEntry_inv | apply State.send_inv | apply State.modLaunch_inv | apply State.setLaunch_inv) | split

@[simp] theorem State.takeReply_inv {s : State} (cl : ℕ) (slot : ℕ) (seq : ℕ) (outcome : ℕ) (h : s.Inv) : (State.takeReply s cl slot seq outcome).Inv := by
  unfold State.takeReply
  repeat' first | assumption | (refine inv_foldl ?_ fun _ _ _ => ?_) | (simp (maxDischargeDepth := 30) [*]; done) | exact ⟨h.mem, h.lifecycle, h.tstat, h.phase⟩ | (simp +contextual (maxDischargeDepth := 30) [*, inv_foldl]; done) | dsimp only | (with_reducible first | apply State.modCore_inv | apply State.setCtx_inv | apply State.modCtx_inv | apply State.setMe_inv | apply State.modMe_inv | apply State.modProc_inv | apply State.modEntry_inv | apply State.setEntry_inv | apply State.send_inv | apply State.modLaunch_inv | apply State.setLaunch_inv) | split

@[simp] theorem State.writeTcinvRoot_inv {s : State} (pcn : ℕ) (v : ℕ) (h : s.Inv) : (State.writeTcinvRoot s pcn v).Inv := by
  unfold State.writeTcinvRoot
  repeat' first | assumption | (refine inv_foldl ?_ fun _ _ _ => ?_) | (simp (maxDischargeDepth := 30) [*]; done) | exact ⟨h.mem, h.lifecycle, h.tstat, h.phase⟩ | (simp +contextual (maxDischargeDepth := 30) [*, inv_foldl]; done) | dsimp only | (with_reducible first | apply State.modCore_inv | apply State.setCtx_inv | apply State.modCtx_inv | apply State.setMe_inv | apply State.modMe_inv | apply State.modProc_inv | apply State.modEntry_inv | apply State.setEntry_inv | apply State.send_inv | apply State.modLaunch_inv | apply State.setLaunch_inv) | split

@[simp] theorem State.writeTcinvPage_inv {s : State} (pcn : ℕ) (v : ℕ) (h : s.Inv) : (State.writeTcinvPage s pcn v).Inv := by
  unfold State.writeTcinvPage
  repeat' first | assumption | (refine inv_foldl ?_ fun _ _ _ => ?_) | (simp (maxDischargeDepth := 30) [*]; done) | exact ⟨h.mem, h.lifecycle, h.tstat, h.phase⟩ | (simp +contextual (maxDischargeDepth := 30) [*, inv_foldl]; done) | dsimp only | (with_reducible first | apply State.modCore_inv | apply State.setCtx_inv | apply State.modCtx_inv | apply State.setMe_inv | apply State.modMe_inv | apply State.modProc_inv | apply State.modEntry_inv | apply State.setEntry_inv | apply State.send_inv | apply State.modLaunch_inv | apply State.setLaunch_inv) | split

@[simp] theorem execFqheadWrite_inv (pcn : ℕ) (v : ℕ) {s : State} (h : s.Inv) : Res.Inv (execFqheadWrite pcn v s) := by
  unfold execFqheadWrite
  repeat' first | assumption | (refine inv_foldl ?_ fun _ _ _ => ?_) | (simp (maxDischargeDepth := 30) [*]; done) | exact ⟨h.mem, h.lifecycle, h.tstat, h.phase⟩ | (simp +contextual (maxDischargeDepth := 30) [*, inv_foldl]; done) | dsimp only | (with_reducible first | apply State.modCore_inv | apply State.setCtx_inv | apply State.modCtx_inv | apply State.setMe_inv | apply State.modMe_inv | apply State.modProc_inv | apply State.modEntry_inv | apply State.setEntry_inv | apply State.send_inv | apply State.modLaunch_inv | apply State.setLaunch_inv) | split

@[simp] theorem execFreplyWrite_inv (pcn : ℕ) (v : ℕ) {s : State} (h : s.Inv) : Res.Inv (execFreplyWrite pcn v s) := by
  unfold execFreplyWrite
  repeat' first | assumption | (refine inv_foldl ?_ fun _ _ _ => ?_) | (simp (maxDischargeDepth := 30) [*]; done) | exact ⟨h.mem, h.lifecycle, h.tstat, h.phase⟩ | (simp +contextual (maxDischargeDepth := 30) [*, inv_foldl]; done) | dsimp only | (with_reducible first | apply State.modCore_inv | apply State.setCtx_inv | apply State.modCtx_inv | apply State.setMe_inv | apply State.modMe_inv | apply State.modProc_inv | apply State.modEntry_inv | apply State.setEntry_inv | apply State.send_inv | apply State.modLaunch_inv | apply State.setLaunch_inv) | split

@[simp] theorem execFaultReply_inv (n : ℕ) {s : State} (h : s.Inv) : Res.Inv (execFaultReply n s) := by
  unfold execFaultReply
  split <;> (try have h2 := State.arrive_inv h ‹_›) <;> repeat' first | assumption | (refine inv_foldl ?_ fun _ _ _ => ?_) | (simp (maxDischargeDepth := 30) [*]; done) | exact ⟨h.mem, h.lifecycle, h.tstat, h.phase⟩ | (simp +contextual (maxDischargeDepth := 30) [*, inv_foldl]; done) | dsimp only | (with_reducible first | apply State.modCore_inv | apply State.setCtx_inv | apply State.modCtx_inv | apply State.setMe_inv | apply State.modMe_inv | apply State.modProc_inv | apply State.modEntry_inv | apply State.setEntry_inv | apply State.send_inv | apply State.modLaunch_inv | apply State.setLaunch_inv) | split

@[simp] theorem execTcinvRootWrite_inv (pcn : ℕ) (v : ℕ) {s : State} (h : s.Inv) : Res.Inv (execTcinvRootWrite pcn v s) := by
  unfold execTcinvRootWrite
  repeat' first | assumption | (refine inv_foldl ?_ fun _ _ _ => ?_) | (simp (maxDischargeDepth := 30) [*]; done) | exact ⟨h.mem, h.lifecycle, h.tstat, h.phase⟩ | (simp +contextual (maxDischargeDepth := 30) [*, inv_foldl]; done) | dsimp only | (with_reducible first | apply State.modCore_inv | apply State.setCtx_inv | apply State.modCtx_inv | apply State.setMe_inv | apply State.modMe_inv | apply State.modProc_inv | apply State.modEntry_inv | apply State.setEntry_inv | apply State.send_inv | apply State.modLaunch_inv | apply State.setLaunch_inv) | split

@[simp] theorem execTcinvPageWrite_inv (pcn : ℕ) (v : ℕ) {s : State} (h : s.Inv) : Res.Inv (execTcinvPageWrite pcn v s) := by
  unfold execTcinvPageWrite
  repeat' first | assumption | (refine inv_foldl ?_ fun _ _ _ => ?_) | (simp (maxDischargeDepth := 30) [*]; done) | exact ⟨h.mem, h.lifecycle, h.tstat, h.phase⟩ | (simp +contextual (maxDischargeDepth := 30) [*, inv_foldl]; done) | dsimp only | (with_reducible first | apply State.modCore_inv | apply State.setCtx_inv | apply State.modCtx_inv | apply State.setMe_inv | apply State.modMe_inv | apply State.modProc_inv | apply State.modEntry_inv | apply State.setEntry_inv | apply State.send_inv | apply State.modLaunch_inv | apply State.setLaunch_inv) | split

@[simp] theorem State.growWrite_inv {s : State} (i : ℕ) (h : s.Inv) : (State.growWrite s i).Inv := by
  unfold State.growWrite
  repeat' first | assumption | (refine inv_foldl ?_ fun _ _ _ => ?_) | (simp (maxDischargeDepth := 30) [*]; done) | exact ⟨h.mem, h.lifecycle, h.tstat, h.phase⟩ | (simp +contextual (maxDischargeDepth := 30) [*, inv_foldl]; done) | dsimp only | (with_reducible first | apply State.modCore_inv | apply State.setCtx_inv | apply State.modCtx_inv | apply State.setMe_inv | apply State.modMe_inv | apply State.modProc_inv | apply State.modEntry_inv | apply State.setEntry_inv | apply State.send_inv | apply State.modLaunch_inv | apply State.setLaunch_inv) | split

@[simp] theorem State.growNth_inv {s : State} (cluster : ℕ) (n : ℕ) (h : s.Inv) : (State.growNth s cluster n).Inv := by
  unfold State.growNth
  repeat' first | assumption | (refine inv_foldl ?_ fun _ _ _ => ?_) | (simp (maxDischargeDepth := 30) [*]; done) | exact ⟨h.mem, h.lifecycle, h.tstat, h.phase⟩ | (simp +contextual (maxDischargeDepth := 30) [*, inv_foldl]; done) | dsimp only | (with_reducible first | apply State.modCore_inv | apply State.setCtx_inv | apply State.modCtx_inv | apply State.setMe_inv | apply State.modMe_inv | apply State.modProc_inv | apply State.modEntry_inv | apply State.setEntry_inv | apply State.send_inv | apply State.modLaunch_inv | apply State.setLaunch_inv) | split

@[simp] theorem State.setDirty_inv {s : State} (cluster : ℕ) (entry : ℕ) (h : s.Inv) : (State.setDirty s cluster entry).Inv := by
  unfold State.setDirty
  repeat' first | assumption | (refine inv_foldl ?_ fun _ _ _ => ?_) | (simp (maxDischargeDepth := 30) [*]; done) | exact ⟨h.mem, h.lifecycle, h.tstat, h.phase⟩ | (simp +contextual (maxDischargeDepth := 30) [*, inv_foldl]; done) | dsimp only | (with_reducible first | apply State.modCore_inv | apply State.setCtx_inv | apply State.modCtx_inv | apply State.setMe_inv | apply State.modMe_inv | apply State.modProc_inv | apply State.modEntry_inv | apply State.setEntry_inv | apply State.send_inv | apply State.modLaunch_inv | apply State.setLaunch_inv) | split

@[simp] theorem State.performOffchip_inv {s : State} (cluster : ℕ) (thread : ℕ) (job : BitVec 32) (order : ℕ) (dpa : ℕ) (entry : ℕ) (d : WriteData) (h : s.Inv) : (State.performOffchip s cluster thread job order dpa entry d).Inv := by
  unfold State.performOffchip
  repeat' first | assumption | (refine inv_foldl ?_ fun _ _ _ => ?_) | (simp (maxDischargeDepth := 30) [*]; done) | exact ⟨h.mem, h.lifecycle, h.tstat, h.phase⟩ | (simp +contextual (maxDischargeDepth := 30) [*, inv_foldl]; done) | dsimp only | (with_reducible first | apply State.modCore_inv | apply State.setCtx_inv | apply State.modCtx_inv | apply State.setMe_inv | apply State.modMe_inv | apply State.modProc_inv | apply State.modEntry_inv | apply State.setEntry_inv | apply State.send_inv | apply State.modLaunch_inv | apply State.setLaunch_inv) | split

@[simp] theorem State.sendToPeer_inv {s : State} (pcn : ℕ) (job : BitVec 32) (b : Word) (vt : ℕ) (floor : ℕ) (bytes : List Byte) (h : s.Inv) : (State.sendToPeer s pcn job b vt floor bytes).Inv := by
  unfold State.sendToPeer
  repeat' first | assumption | (refine inv_foldl ?_ fun _ _ _ => ?_) | (simp (maxDischargeDepth := 30) [*]; done) | exact ⟨h.mem, h.lifecycle, h.tstat, h.phase⟩ | (simp +contextual (maxDischargeDepth := 30) [*, inv_foldl]; done) | dsimp only | (with_reducible first | apply State.modCore_inv | apply State.setCtx_inv | apply State.modCtx_inv | apply State.setMe_inv | apply State.modMe_inv | apply State.modProc_inv | apply State.modEntry_inv | apply State.setEntry_inv | apply State.send_inv | apply State.modLaunch_inv | apply State.setLaunch_inv) | split

@[simp] theorem State.finishSend_inv {s : State} (pcn : ℕ) (j : Job) (h : s.Inv) : (State.finishSend s pcn j).Inv := by
  unfold State.finishSend
  repeat' first | assumption | (refine inv_foldl ?_ fun _ _ _ => ?_) | (simp (maxDischargeDepth := 30) [*]; done) | exact ⟨h.mem, h.lifecycle, h.tstat, h.phase⟩ | (simp +contextual (maxDischargeDepth := 30) [*, inv_foldl]; done) | dsimp only | (with_reducible first | apply State.modCore_inv | apply State.setCtx_inv | apply State.modCtx_inv | apply State.setMe_inv | apply State.modMe_inv | apply State.modProc_inv | apply State.modEntry_inv | apply State.setEntry_inv | apply State.send_inv | apply State.modLaunch_inv | apply State.setLaunch_inv) | split

@[simp] theorem State.modJob_inv {s : State} (pcn : ℕ) (e : Engine) (id : BitVec 32) (f : Job → Job) (h : s.Inv) : (State.modJob s pcn e id f).Inv := by
  unfold State.modJob
  repeat' first | assumption | (refine inv_foldl ?_ fun _ _ _ => ?_) | (simp (maxDischargeDepth := 30) [*]; done) | exact ⟨h.mem, h.lifecycle, h.tstat, h.phase⟩ | (simp +contextual (maxDischargeDepth := 30) [*, inv_foldl]; done) | dsimp only | (with_reducible first | apply State.modCore_inv | apply State.setCtx_inv | apply State.modCtx_inv | apply State.setMe_inv | apply State.modMe_inv | apply State.modProc_inv | apply State.modEntry_inv | apply State.setEntry_inv | apply State.send_inv | apply State.modLaunch_inv | apply State.setLaunch_inv) | split

@[simp] theorem State.releaseLatch_inv {s : State} (pcn : Nat) (j : Job) (h : s.Inv) : (s.releaseLatch pcn j).Inv := by
  unfold State.releaseLatch
  cases latchRead? j with
  | none => exact h
  | some b =>
    dsimp only
    split
    · exact h
    · exact State.modCore_inv _ _ h

@[simp] theorem State.postGrant_inv {s : State} (pcn : ℕ) (j : Job) (out : Bool) (dpas : List ℕ) (h : s.Inv) : (State.postGrant s pcn j out dpas).Inv := by
  unfold State.postGrant
  repeat' first | assumption | (refine inv_foldl ?_ fun _ _ _ => ?_) | (simp (maxDischargeDepth := 30) [*]; done) | exact ⟨h.mem, h.lifecycle, h.tstat, h.phase⟩ | (simp +contextual (maxDischargeDepth := 30) [*, inv_foldl]; done) | dsimp only | (with_reducible first | apply State.modCore_inv | apply State.setCtx_inv | apply State.modCtx_inv | apply State.setMe_inv | apply State.modMe_inv | apply State.modProc_inv | apply State.modEntry_inv | apply State.setEntry_inv | apply State.send_inv | apply State.modLaunch_inv | apply State.setLaunch_inv) | split

@[simp] theorem State.beginGrant_inv {s : State} (pcn : Nat) (e : Engine) (j : Job) (h : s.Inv) :
    (s.beginGrant pcn e j).Inv := by
  cases e with
  | mxe =>
    simp only [State.beginGrant]
    split
    · exact State.releaseLatch_inv _ _ (State.modJob_inv _ _ _ _ h)
    · exact State.modJob_inv _ _ _ _ h
  | copy =>
    simp only [State.beginGrant]
    generalize translatePages _ _ _ _ _ = r
    cases r <;> (try dsimp only) <;> (try split) <;> simp (maxDischargeDepth := 30) [h]

@[simp] theorem State.computeGrant_inv {s : State} (pcn : Nat) (e : Engine) (j : Job) (h : s.Inv) :
    (s.computeGrant pcn e j).Inv := by
  cases e with
  | mxe => exact State.releaseLatch_inv _ _ (State.modJob_inv _ _ _ _ h)
  | copy => exact State.postGrant_inv _ _ _ _ (State.modJob_inv _ _ _ _ h)

@[simp] theorem State.endGrant_inv {s : State} (pcn : ℕ) (e : Engine) (j : Job) (h : s.Inv) : (State.endGrant s pcn e j).Inv := by
  unfold State.endGrant
  repeat' first | assumption | (refine inv_foldl ?_ fun _ _ _ => ?_) | (simp (maxDischargeDepth := 30) [*]; done) | exact ⟨h.mem, h.lifecycle, h.tstat, h.phase⟩ | (simp +contextual (maxDischargeDepth := 30) [*, inv_foldl]; done) | dsimp only | (with_reducible first | apply State.modCore_inv | apply State.setCtx_inv | apply State.modCtx_inv | apply State.setMe_inv | apply State.modMe_inv | apply State.modProc_inv | apply State.modEntry_inv | apply State.setEntry_inv | apply State.send_inv | apply State.modLaunch_inv | apply State.setLaunch_inv) | split

@[simp] theorem State.enqueueLine_inv {s : State} (pcn : ℕ) (e : Engine) (id : BitVec 32) (key : ℕ) (name : ℕ) (h : s.Inv) : (State.enqueueLine s pcn e id key name).Inv := by
  unfold State.enqueueLine
  repeat' first | assumption | (refine inv_foldl ?_ fun _ _ _ => ?_) | (simp (maxDischargeDepth := 30) [*]; done) | exact ⟨h.mem, h.lifecycle, h.tstat, h.phase⟩ | (simp +contextual (maxDischargeDepth := 30) [*, inv_foldl]; done) | dsimp only | (with_reducible first | apply State.modCore_inv | apply State.setCtx_inv | apply State.modCtx_inv | apply State.setMe_inv | apply State.modMe_inv | apply State.modProc_inv | apply State.modEntry_inv | apply State.setEntry_inv | apply State.send_inv | apply State.modLaunch_inv | apply State.setLaunch_inv) | split

@[simp] theorem State.writeDirect_inv {s : State} (pcn : ℕ) (j : Job) (w : JobWrite) (h : s.Inv) : (State.writeDirect s pcn j w).Inv := by
  unfold State.writeDirect
  repeat' first | assumption | (refine inv_foldl ?_ fun _ _ _ => ?_) | (simp (maxDischargeDepth := 30) [*]; done) | exact ⟨h.mem, h.lifecycle, h.tstat, h.phase⟩ | (simp +contextual (maxDischargeDepth := 30) [*, inv_foldl]; done) | dsimp only | (with_reducible first | apply State.modCore_inv | apply State.setCtx_inv | apply State.modCtx_inv | apply State.setMe_inv | apply State.modMe_inv | apply State.modProc_inv | apply State.modEntry_inv | apply State.setEntry_inv | apply State.send_inv | apply State.modLaunch_inv | apply State.setLaunch_inv) | split

theorem State.performWrite_inv {s : State} (pcn : ℕ) (j : Job) (key : ℕ) (d : WriteData) (h : s.Inv) :
    OptInv (s.performWrite pcn j key d) := by
  intro t e
  unfold State.performWrite at e
  simp only [Option.map_eq_some_iff] at e
  obtain ⟨u, e1, rfl⟩ := e
  have hu : u.Inv := by
    split at e1
    · exact State.journal_inv _ _ h u e1
    · simp only [Option.some.injEq] at e1; exact e1 ▸ h
  exact State.writeWindow_inv _ _ hu

theorem State.performLine_inv {s : State} (pcn : ℕ) (e : Engine) (id : BitVec 32) (key name : ℕ) (h : s.Inv) :
    OptInv (s.performLine pcn e id key name) := by
  intro t eq
  unfold State.performLine at eq
  split at eq
  · simp only [Option.some.injEq] at eq; exact eq ▸ h
  · split at eq
    · split at eq
      · simp only [Option.some.injEq] at eq; exact eq ▸ State.modJob_inv _ _ _ _ h
      · simp only [Option.some.injEq] at eq; exact eq ▸ h
    · split at eq
      · simp only [Option.map_eq_some_iff] at eq
        obtain ⟨u, e1, rfl⟩ := eq
        exact State.modJob_inv _ _ _ _ (State.performWrite_inv _ _ _ _ h u e1)
      · simp only [Option.some.injEq] at eq; exact eq ▸ h
    · simp only [Option.some.injEq] at eq; exact eq ▸ h
    · simp only [Option.some.injEq] at eq; exact eq ▸ h

@[simp] theorem State.stepGrant_inv {s : State} (pcn : ℕ) (e : Engine) (j : Job) (line : ℕ) (h : s.Inv) : (State.stepGrant s pcn e j line).Inv := by
  unfold State.stepGrant
  repeat' first | assumption | (refine inv_foldl ?_ fun _ _ _ => ?_) | (simp (maxDischargeDepth := 30) [*]; done) | exact ⟨h.mem, h.lifecycle, h.tstat, h.phase⟩ | (simp +contextual (maxDischargeDepth := 30) [*, inv_foldl]; done) | dsimp only | (with_reducible first | apply State.modCore_inv | apply State.setCtx_inv | apply State.modCtx_inv | apply State.setMe_inv | apply State.modMe_inv | apply State.modProc_inv | apply State.modEntry_inv | apply State.setEntry_inv | apply State.send_inv | apply State.modLaunch_inv | apply State.setLaunch_inv) | split

@[simp] theorem State.stepEngine_inv {s : State} (cluster : ℕ) (e : Engine) (line : ℕ) (h : s.Inv) : (State.stepEngine s cluster e line).Inv := by
  unfold State.stepEngine
  repeat' first | assumption | (refine inv_foldl ?_ fun _ _ _ => ?_) | (simp (maxDischargeDepth := 30) [*]; done) | exact ⟨h.mem, h.lifecycle, h.tstat, h.phase⟩ | (simp +contextual (maxDischargeDepth := 30) [*, inv_foldl]; done) | dsimp only | (with_reducible first | apply State.modCore_inv | apply State.setCtx_inv | apply State.modCtx_inv | apply State.setMe_inv | apply State.modMe_inv | apply State.modProc_inv | apply State.modEntry_inv | apply State.setEntry_inv | apply State.send_inv | apply State.modLaunch_inv | apply State.setLaunch_inv) | split

@[simp] theorem execEngineGrant_inv (cluster : ℕ) (engine : ℕ) (choice : GrantChoice) {s : State} (h : s.Inv) : Res.Inv (execEngineGrant cluster engine choice s) := by
  unfold execEngineGrant
  repeat' first | assumption | (refine inv_foldl ?_ fun _ _ _ => ?_) | (simp (maxDischargeDepth := 30) [*]; done) | exact ⟨h.mem, h.lifecycle, h.tstat, h.phase⟩ | (simp +contextual (maxDischargeDepth := 30) [*, inv_foldl]; done) | dsimp only | (with_reducible first | apply State.modCore_inv | apply State.setCtx_inv | apply State.modCtx_inv | apply State.setMe_inv | apply State.modMe_inv | apply State.modProc_inv | apply State.modEntry_inv | apply State.setEntry_inv | apply State.send_inv | apply State.modLaunch_inv | apply State.setLaunch_inv) | split

@[simp] theorem execStreamStart_inv (pcn : ℕ) {s : State} (h : s.Inv) : Res.Inv (execStreamStart pcn s) := by
  unfold execStreamStart
  repeat' first | assumption | (refine inv_foldl ?_ fun _ _ _ => ?_) | (simp (maxDischargeDepth := 30) [*]; done) | exact ⟨h.mem, h.lifecycle, h.tstat, h.phase⟩ | (simp +contextual (maxDischargeDepth := 30) [*, inv_foldl]; done) | dsimp only | (with_reducible first | apply State.modCore_inv | apply State.setCtx_inv | apply State.modCtx_inv | apply State.setMe_inv | apply State.modMe_inv | apply State.modProc_inv | apply State.modEntry_inv | apply State.setEntry_inv | apply State.send_inv | apply State.modLaunch_inv | apply State.setLaunch_inv) | split

@[simp] theorem State.endWaitingLatch_inv {s : State} (pcn : ℕ) (h : s.Inv) : (State.endWaitingLatch s pcn).Inv := by
  unfold State.endWaitingLatch
  repeat' first | assumption | (refine inv_foldl ?_ fun _ _ _ => ?_) | (simp (maxDischargeDepth := 30) [*]; done) | exact ⟨h.mem, h.lifecycle, h.tstat, h.phase⟩ | (simp +contextual (maxDischargeDepth := 30) [*, inv_foldl]; done) | dsimp only | (with_reducible first | apply State.modCore_inv | apply State.setCtx_inv | apply State.modCtx_inv | apply State.setMe_inv | apply State.modMe_inv | apply State.modProc_inv | apply State.modEntry_inv | apply State.setEntry_inv | apply State.send_inv | apply State.modLaunch_inv | apply State.setLaunch_inv) | split

@[simp] theorem State.completeJob_inv {s : State} (pcn : ℕ) (e : Engine) (j : Job) (h : s.Inv) : (State.completeJob s pcn e j).Inv := by
  unfold State.completeJob
  repeat' first | assumption | (refine inv_foldl ?_ fun _ _ _ => ?_) | (simp (maxDischargeDepth := 30) [*]; done) | exact ⟨h.mem, h.lifecycle, h.tstat, h.phase⟩ | (simp +contextual (maxDischargeDepth := 30) [*, inv_foldl]; done) | dsimp only | (with_reducible first | apply State.modCore_inv | apply State.setCtx_inv | apply State.modCtx_inv | apply State.setMe_inv | apply State.modMe_inv | apply State.modProc_inv | apply State.modEntry_inv | apply State.setEntry_inv | apply State.send_inv | apply State.modLaunch_inv | apply State.setLaunch_inv) | split

@[simp] theorem execJobComplete_inv (pcn : ℕ) (engine : ℕ) {s : State} (h : s.Inv) : Res.Inv (execJobComplete pcn engine s) := by
  unfold execJobComplete
  repeat' first | assumption | (refine inv_foldl ?_ fun _ _ _ => ?_) | (simp (maxDischargeDepth := 30) [*]; done) | exact ⟨h.mem, h.lifecycle, h.tstat, h.phase⟩ | (simp +contextual (maxDischargeDepth := 30) [*, inv_foldl]; done) | dsimp only | (with_reducible first | apply State.modCore_inv | apply State.setCtx_inv | apply State.modCtx_inv | apply State.setMe_inv | apply State.modMe_inv | apply State.modProc_inv | apply State.modEntry_inv | apply State.setEntry_inv | apply State.send_inv | apply State.modLaunch_inv | apply State.setLaunch_inv) | split

@[simp] theorem execCopyOverdue_inv (pcn : ℕ) {s : State} (h : s.Inv) : Res.Inv (execCopyOverdue pcn s) := by
  unfold execCopyOverdue
  repeat' first | assumption | (refine inv_foldl ?_ fun _ _ _ => ?_) | (simp (maxDischargeDepth := 30) [*]; done) | exact ⟨h.mem, h.lifecycle, h.tstat, h.phase⟩ | (simp +contextual (maxDischargeDepth := 30) [*, inv_foldl]; done) | dsimp only | (with_reducible first | apply State.modCore_inv | apply State.setCtx_inv | apply State.modCtx_inv | apply State.setMe_inv | apply State.modMe_inv | apply State.modProc_inv | apply State.modEntry_inv | apply State.setEntry_inv | apply State.send_inv | apply State.modLaunch_inv | apply State.setLaunch_inv) | split

@[simp] theorem State.performDeferred_inv {s : State} (pcn : ℕ) (d : Deferred) (h : s.Inv) : (State.performDeferred s pcn d).Inv := by
  unfold State.performDeferred
  repeat' first | assumption | (refine inv_foldl ?_ fun _ _ _ => ?_) | (simp (maxDischargeDepth := 30) [*]; done) | exact ⟨h.mem, h.lifecycle, h.tstat, h.phase⟩ | (simp +contextual (maxDischargeDepth := 30) [*, inv_foldl]; done) | dsimp only | (with_reducible first | apply State.modCore_inv | apply State.setCtx_inv | apply State.modCtx_inv | apply State.setMe_inv | apply State.modMe_inv | apply State.modProc_inv | apply State.modEntry_inv | apply State.setEntry_inv | apply State.send_inv | apply State.modLaunch_inv | apply State.setLaunch_inv) | split

@[simp] theorem execDeferredAction_inv (pcn : ℕ) {s : State} (h : s.Inv) : Res.Inv (execDeferredAction pcn s) := by
  unfold execDeferredAction
  repeat' first | assumption | (refine inv_foldl ?_ fun _ _ _ => ?_) | (simp (maxDischargeDepth := 30) [*]; done) | exact ⟨h.mem, h.lifecycle, h.tstat, h.phase⟩ | (simp +contextual (maxDischargeDepth := 30) [*, inv_foldl]; done) | dsimp only | (with_reducible first | apply State.modCore_inv | apply State.setCtx_inv | apply State.modCtx_inv | apply State.setMe_inv | apply State.modMe_inv | apply State.modProc_inv | apply State.modEntry_inv | apply State.setEntry_inv | apply State.send_inv | apply State.modLaunch_inv | apply State.setLaunch_inv) | split

@[simp] theorem State.settleSend_inv {s : State} (pcn : ℕ) (job : ℕ) (f : Job → Job) (h : s.Inv) : (State.settleSend s pcn job f).Inv := by
  unfold State.settleSend
  repeat' first | assumption | (refine inv_foldl ?_ fun _ _ _ => ?_) | (simp (maxDischargeDepth := 30) [*]; done) | exact ⟨h.mem, h.lifecycle, h.tstat, h.phase⟩ | (simp +contextual (maxDischargeDepth := 30) [*, inv_foldl]; done) | dsimp only | (with_reducible first | apply State.modCore_inv | apply State.setCtx_inv | apply State.modCtx_inv | apply State.setMe_inv | apply State.modMe_inv | apply State.modProc_inv | apply State.modEntry_inv | apply State.setEntry_inv | apply State.send_inv | apply State.modLaunch_inv | apply State.setLaunch_inv) | split

@[simp] theorem execPeerSendAck_inv (pcn : ℕ) (job : ℕ) {s : State} (h : s.Inv) : Res.Inv (execPeerSendAck pcn job s) := by
  unfold execPeerSendAck
  repeat' first | assumption | (refine inv_foldl ?_ fun _ _ _ => ?_) | (simp (maxDischargeDepth := 30) [*]; done) | exact ⟨h.mem, h.lifecycle, h.tstat, h.phase⟩ | (simp +contextual (maxDischargeDepth := 30) [*, inv_foldl]; done) | dsimp only | (with_reducible first | apply State.modCore_inv | apply State.setCtx_inv | apply State.modCtx_inv | apply State.setMe_inv | apply State.modMe_inv | apply State.modProc_inv | apply State.modEntry_inv | apply State.setEntry_inv | apply State.send_inv | apply State.modLaunch_inv | apply State.setLaunch_inv) | split

@[simp] theorem execUetSendAbandon_inv (pcn : ℕ) (job : ℕ) {s : State} (h : s.Inv) : Res.Inv (execUetSendAbandon pcn job s) := by
  unfold execUetSendAbandon
  repeat' first | assumption | (refine inv_foldl ?_ fun _ _ _ => ?_) | (simp (maxDischargeDepth := 30) [*]; done) | exact ⟨h.mem, h.lifecycle, h.tstat, h.phase⟩ | (simp +contextual (maxDischargeDepth := 30) [*, inv_foldl]; done) | dsimp only | (with_reducible first | apply State.modCore_inv | apply State.setCtx_inv | apply State.modCtx_inv | apply State.setMe_inv | apply State.modMe_inv | apply State.modProc_inv | apply State.modEntry_inv | apply State.setEntry_inv | apply State.send_inv | apply State.modLaunch_inv | apply State.setLaunch_inv) | split

end Sys2Proof.Machine
end

