-- ==== Sys2Proof/Laws/InvariantThreads.lean ====
section
/-!
SUPPORT. The operations of the machine keep its invariant (Safety.lean): Threads.
-/

set_option Elab.async false
set_option linter.all false

namespace Sys2Proof.Machine

@[simp] theorem State.dropAccept_inv {s : State} (tid : ℕ) (h : s.Inv) : (State.dropAccept s tid).Inv := by
  unfold State.dropAccept
  repeat' first | assumption | (refine inv_foldl ?_ fun _ _ _ => ?_) | (simp (maxDischargeDepth := 30) [*]; done) | exact ⟨h.mem, h.lifecycle, h.tstat, h.phase⟩ | (simp +contextual (maxDischargeDepth := 30) [*, inv_foldl]; done) | dsimp only | (with_reducible first | apply State.modCore_inv | apply State.setCtx_inv | apply State.modCtx_inv | apply State.setMe_inv | apply State.modMe_inv | apply State.modProc_inv | apply State.modEntry_inv | apply State.setEntry_inv | apply State.send_inv | apply State.modLaunch_inv | apply State.setLaunch_inv) | split

@[simp] theorem State.enterHome_inv {s : State} (e : Ember) (h : s.Inv) : (State.enterHome s e).Inv := by
  unfold State.enterHome
  repeat' first | assumption | (refine inv_foldl ?_ fun _ _ _ => ?_) | (simp (maxDischargeDepth := 30) [*]; done) | exact ⟨h.mem, h.lifecycle, h.tstat, h.phase⟩ | (simp +contextual (maxDischargeDepth := 30) [*, inv_foldl]; done) | dsimp only | (with_reducible first | apply State.modCore_inv | apply State.setCtx_inv | apply State.modCtx_inv | apply State.setMe_inv | apply State.modMe_inv | apply State.modProc_inv | apply State.modEntry_inv | apply State.setEntry_inv | apply State.send_inv | apply State.modLaunch_inv | apply State.setLaunch_inv) | split

@[simp] theorem State.acceptEmber_inv {s : State} (pcn : ℕ) (e : Ember) (h : s.Inv) : (State.acceptEmber s pcn e).Inv := by
  unfold State.acceptEmber
  repeat' first | assumption | (refine inv_foldl ?_ fun _ _ _ => ?_) | (simp (maxDischargeDepth := 30) [*]; done) | exact ⟨h.mem, h.lifecycle, h.tstat, h.phase⟩ | (simp +contextual (maxDischargeDepth := 30) [*, inv_foldl]; done) | dsimp only | (with_reducible first | apply State.modCore_inv | apply State.setCtx_inv | apply State.modCtx_inv | apply State.setMe_inv | apply State.modMe_inv | apply State.modProc_inv | apply State.modEntry_inv | apply State.setEntry_inv | apply State.send_inv | apply State.modLaunch_inv | apply State.setLaunch_inv) | split

@[simp] theorem State.spillEmber_inv {s : State} (pcn : ℕ) (e : Ember) (h : s.Inv) : (s.spillEmber pcn e).Inv := by
  unfold State.spillEmber
  dsimp only
  refine State.acceptEmber_inv _ _ (State.modCore_inv _ _ ?_)
  split
  · exact State.setMem_inv (memWrite_wf _ _ h.mem) h
  · exact h

@[simp] theorem State.queueEmber_inv {s : State} (pcn : ℕ) (e : Ember) (h : s.Inv) : (State.queueEmber s pcn e).Inv := by
  unfold State.queueEmber
  repeat' first | assumption | (refine inv_foldl ?_ fun _ _ _ => ?_) | (simp (maxDischargeDepth := 30) [*]; done) | exact ⟨h.mem, h.lifecycle, h.tstat, h.phase⟩ | (simp +contextual (maxDischargeDepth := 30) [*, inv_foldl]; done) | dsimp only | (with_reducible first | apply State.modCore_inv | apply State.setCtx_inv | apply State.modCtx_inv | apply State.setMe_inv | apply State.modMe_inv | apply State.modProc_inv | apply State.modEntry_inv | apply State.setEntry_inv | apply State.send_inv | apply State.modLaunch_inv | apply State.setLaunch_inv) | split

@[simp] theorem State.spilledEmber_inv {s : State} (pcn : ℕ) (e : Ember) (h : s.Inv) : (s.spilledEmber pcn e).2.Inv := by
  unfold State.spilledEmber
  split
  · exact ⟨h.mem, h.lifecycle, h.tstat, h.phase⟩
  · exact h

@[simp] theorem State.moveUp_inv {s : State} (pcn n : Nat) (h : s.Inv) : (s.moveUp pcn n).Inv := by
  induction n generalizing s with
  | zero => exact h
  | succ n ih =>
    unfold State.moveUp
    dsimp only
    repeat' first
      | exact h
      | exact ih (State.modCore_inv _ _ (State.spilledEmber_inv _ _ h))
      | exact ih (State.spillEmber_inv _ _ (State.modCore_inv _ _ h))
      | exact ih (State.acceptEmber_inv _ _ (State.modCore_inv _ _ h))
      | split

@[simp] theorem State.releaseSender_inv {s : State} (tid : ℕ) (h : s.Inv) : (State.releaseSender s tid).Inv := by
  unfold State.releaseSender
  repeat' first | assumption | (refine inv_foldl ?_ fun _ _ _ => ?_) | (simp (maxDischargeDepth := 30) [*]; done) | exact ⟨h.mem, h.lifecycle, h.tstat, h.phase⟩ | (simp +contextual (maxDischargeDepth := 30) [*, inv_foldl]; done) | dsimp only | (with_reducible first | apply State.modCore_inv | apply State.setCtx_inv | apply State.modCtx_inv | apply State.setMe_inv | apply State.modMe_inv | apply State.modProc_inv | apply State.modEntry_inv | apply State.setEntry_inv | apply State.send_inv | apply State.modLaunch_inv | apply State.setLaunch_inv) | split

@[simp] theorem State.admitEmber_inv {s : State} (pcn : ℕ) (h : s.Inv) : (State.admitEmber s pcn).Inv := by
  unfold State.admitEmber
  repeat' first | assumption | (refine inv_foldl ?_ fun _ _ _ => ?_) | (simp (maxDischargeDepth := 30) [*]; done) | exact ⟨h.mem, h.lifecycle, h.tstat, h.phase⟩ | (simp +contextual (maxDischargeDepth := 30) [*, inv_foldl]; done) | dsimp only | (with_reducible first | apply State.modCore_inv | apply State.setCtx_inv | apply State.modCtx_inv | apply State.setMe_inv | apply State.modMe_inv | apply State.modProc_inv | apply State.modEntry_inv | apply State.setEntry_inv | apply State.send_inv | apply State.modLaunch_inv | apply State.setLaunch_inv) | split

@[simp] theorem execEmberArrival_inv (n : ℕ) {s : State} (h : s.Inv) : Res.Inv (execEmberArrival n s) := by
  unfold execEmberArrival
  split <;> (try have h2 := State.arrive_inv h ‹_›) <;> repeat' first | assumption | (refine inv_foldl ?_ fun _ _ _ => ?_) | (simp (maxDischargeDepth := 30) [*]; done) | exact ⟨h.mem, h.lifecycle, h.tstat, h.phase⟩ | (simp +contextual (maxDischargeDepth := 30) [*, inv_foldl]; done) | dsimp only | (with_reducible first | apply State.modCore_inv | apply State.setCtx_inv | apply State.modCtx_inv | apply State.setMe_inv | apply State.modMe_inv | apply State.modProc_inv | apply State.modEntry_inv | apply State.setEntry_inv | apply State.send_inv | apply State.modLaunch_inv | apply State.setLaunch_inv) | split

@[simp] theorem execMigAccept_inv (n : ℕ) {s : State} (h : s.Inv) : Res.Inv (execMigAccept n s) := by
  unfold execMigAccept
  split <;> (try have h2 := State.arrive_inv h ‹_›) <;> repeat' first | assumption | (refine inv_foldl ?_ fun _ _ _ => ?_) | (simp (maxDischargeDepth := 30) [*]; done) | exact ⟨h.mem, h.lifecycle, h.tstat, h.phase⟩ | (simp +contextual (maxDischargeDepth := 30) [*, inv_foldl]; done) | dsimp only | (with_reducible first | apply State.modCore_inv | apply State.setCtx_inv | apply State.modCtx_inv | apply State.setMe_inv | apply State.modMe_inv | apply State.modProc_inv | apply State.modEntry_inv | apply State.setEntry_inv | apply State.send_inv | apply State.modLaunch_inv | apply State.setLaunch_inv) | split

@[simp] theorem execEmberAdmit_inv (pcn : ℕ) {s : State} (h : s.Inv) : Res.Inv (execEmberAdmit pcn s) := by
  unfold execEmberAdmit
  repeat' first | assumption | (refine inv_foldl ?_ fun _ _ _ => ?_) | (simp (maxDischargeDepth := 30) [*]; done) | exact ⟨h.mem, h.lifecycle, h.tstat, h.phase⟩ | (simp +contextual (maxDischargeDepth := 30) [*, inv_foldl]; done) | dsimp only | (with_reducible first | apply State.modCore_inv | apply State.setCtx_inv | apply State.modCtx_inv | apply State.setMe_inv | apply State.modMe_inv | apply State.modProc_inv | apply State.modEntry_inv | apply State.setEntry_inv | apply State.send_inv | apply State.modLaunch_inv | apply State.setLaunch_inv) | split

@[simp] theorem State.dropEmber_inv {s : State} (tid : ℕ) (h : s.Inv) : (State.dropEmber s tid).Inv := by
  unfold State.dropEmber
  repeat' first | assumption | (refine inv_foldl ?_ fun _ _ _ => ?_) | (simp (maxDischargeDepth := 30) [*]; done) | exact ⟨h.mem, h.lifecycle, h.tstat, h.phase⟩ | (simp +contextual (maxDischargeDepth := 30) [*, inv_foldl]; done) | dsimp only | (with_reducible first | apply State.modCore_inv | apply State.setCtx_inv | apply State.modCtx_inv | apply State.setMe_inv | apply State.modMe_inv | apply State.modProc_inv | apply State.modEntry_inv | apply State.setEntry_inv | apply State.send_inv | apply State.modLaunch_inv | apply State.setLaunch_inv) | split

theorem State.boundary_inv {s : State} (tid : Nat) (h : s.Inv) : OptInv (s.boundary? tid) := by
  intro t e
  unfold State.boundary? at e
  dsimp only at e
  repeat' first
    | contradiction
    | split at e
  all_goals first
    | (cases e; done)
    | (simp only [Option.some.injEq] at e; subst e; simp (maxDischargeDepth := 30) [h])

@[simp] theorem State.markTimedOut_inv {s : State} (tid : ℕ) (h : s.Inv) : (State.markTimedOut s tid).Inv := by
  unfold State.markTimedOut
  repeat' first | assumption | (refine inv_foldl ?_ fun _ _ _ => ?_) | (simp (maxDischargeDepth := 30) [*]; done) | exact ⟨h.mem, h.lifecycle, h.tstat, h.phase⟩ | (simp +contextual (maxDischargeDepth := 30) [*, inv_foldl]; done) | dsimp only | (with_reducible first | apply State.modCore_inv | apply State.setCtx_inv | apply State.modCtx_inv | apply State.setMe_inv | apply State.modMe_inv | apply State.modProc_inv | apply State.modEntry_inv | apply State.setEntry_inv | apply State.send_inv | apply State.modLaunch_inv | apply State.setLaunch_inv) | split

@[simp] theorem State.enterWrap_inv {s : State} (tid : ℕ) (l : Launch) (h : s.Inv) : (State.enterWrap s tid l).Inv := by
  unfold State.enterWrap
  repeat' first | assumption | (refine inv_foldl ?_ fun _ _ _ => ?_) | (simp (maxDischargeDepth := 30) [*]; done) | exact ⟨h.mem, h.lifecycle, h.tstat, h.phase⟩ | (simp +contextual (maxDischargeDepth := 30) [*, inv_foldl]; done) | dsimp only | (with_reducible first | apply State.modCore_inv | apply State.setCtx_inv | apply State.modCtx_inv | apply State.setMe_inv | apply State.modMe_inv | apply State.modProc_inv | apply State.modEntry_inv | apply State.setEntry_inv | apply State.send_inv | apply State.modLaunch_inv | apply State.setLaunch_inv) | split

@[simp] theorem State.takeLate_inv {s : State} (tid : Nat) (h : s.Inv) : (s.takeLate tid).Inv := by
  unfold State.takeLate
  dsimp only
  split
  · exact h
  · split
    · split
      · rename_i e _
        have h1 := State.boundary_inv _ h _ e
        split
        · exact State.enterWrap_inv _ _ h1
        · exact State.modCtx_inv _ _ h1
      · exact State.markTimedOut_inv _ h
    · split
      · split
        · rename_i e _
          have h1 := State.boundary_inv _ h _ e
          exact State.takeTrapAt_inv _ _ (State.setCtx_inv _ _ h1)
        · exact State.markTimedOut_inv _ h
      · exact h

@[simp] theorem execLateTrap_inv (tid : ℕ) {s : State} (h : s.Inv) : Res.Inv (execLateTrap tid s) := by
  unfold execLateTrap
  repeat' first | assumption | (refine inv_foldl ?_ fun _ _ _ => ?_) | (simp (maxDischargeDepth := 30) [*]; done) | exact ⟨h.mem, h.lifecycle, h.tstat, h.phase⟩ | (simp +contextual (maxDischargeDepth := 30) [*, inv_foldl]; done) | dsimp only | (with_reducible first | apply State.modCore_inv | apply State.setCtx_inv | apply State.modCtx_inv | apply State.setMe_inv | apply State.modMe_inv | apply State.modProc_inv | apply State.modEntry_inv | apply State.setEntry_inv | apply State.send_inv | apply State.modLaunch_inv | apply State.setLaunch_inv) | split

@[simp] theorem State.returnEmber_inv {s : State} (e : Ember) (h : s.Inv) : (State.returnEmber s e).Inv := by
  unfold State.returnEmber
  repeat' first | assumption | (refine inv_foldl ?_ fun _ _ _ => ?_) | (simp (maxDischargeDepth := 30) [*]; done) | exact ⟨h.mem, h.lifecycle, h.tstat, h.phase⟩ | (simp +contextual (maxDischargeDepth := 30) [*, inv_foldl]; done) | dsimp only | (with_reducible first | apply State.modCore_inv | apply State.setCtx_inv | apply State.modCtx_inv | apply State.setMe_inv | apply State.modMe_inv | apply State.modProc_inv | apply State.modEntry_inv | apply State.setEntry_inv | apply State.send_inv | apply State.modLaunch_inv | apply State.setLaunch_inv) | split

@[simp] theorem State.recallEmbers_inv {s : State} (key : ℕ) (h : s.Inv) : (State.recallEmbers s key).Inv := by
  unfold State.recallEmbers
  repeat' first | assumption | (refine inv_foldl ?_ fun _ _ _ => ?_) | (simp (maxDischargeDepth := 30) [*]; done) | exact ⟨h.mem, h.lifecycle, h.tstat, h.phase⟩ | (simp +contextual (maxDischargeDepth := 30) [*, inv_foldl]; done) | dsimp only | (with_reducible first | apply State.modCore_inv | apply State.setCtx_inv | apply State.modCtx_inv | apply State.setMe_inv | apply State.modMe_inv | apply State.modProc_inv | apply State.modEntry_inv | apply State.setEntry_inv | apply State.send_inv | apply State.modLaunch_inv | apply State.setLaunch_inv) | split

@[simp] theorem State.divertThread_inv {s : State} (tid : ℕ) (h : s.Inv) : (State.divertThread s tid).Inv := by
  unfold State.divertThread
  repeat' first | assumption | (refine inv_foldl ?_ fun _ _ _ => ?_) | (simp (maxDischargeDepth := 30) [*]; done) | exact ⟨h.mem, h.lifecycle, h.tstat, h.phase⟩ | (simp +contextual (maxDischargeDepth := 30) [*, inv_foldl]; done) | dsimp only | (with_reducible first | apply State.modCore_inv | apply State.setCtx_inv | apply State.modCtx_inv | apply State.setMe_inv | apply State.modMe_inv | apply State.modProc_inv | apply State.modEntry_inv | apply State.setEntry_inv | apply State.send_inv | apply State.modLaunch_inv | apply State.setLaunch_inv) | split

@[simp] theorem State.stopTimed_inv {s : State} (tid : ℕ) (h : s.Inv) : (State.stopTimed s tid).Inv := by
  unfold State.stopTimed
  repeat' first | assumption | (refine inv_foldl ?_ fun _ _ _ => ?_) | (simp (maxDischargeDepth := 30) [*]; done) | exact ⟨h.mem, h.lifecycle, h.tstat, h.phase⟩ | (simp +contextual (maxDischargeDepth := 30) [*, inv_foldl]; done) | dsimp only | (with_reducible first | apply State.modCore_inv | apply State.setCtx_inv | apply State.modCtx_inv | apply State.setMe_inv | apply State.modMe_inv | apply State.modProc_inv | apply State.modEntry_inv | apply State.setEntry_inv | apply State.send_inv | apply State.modLaunch_inv | apply State.setLaunch_inv) | split

@[simp] theorem State.endLatchJobs_inv {s : State} (key : ℕ) (h : s.Inv) : (State.endLatchJobs s key).Inv := by
  unfold State.endLatchJobs
  repeat' first | assumption | (refine inv_foldl ?_ fun _ _ _ => ?_) | (simp (maxDischargeDepth := 30) [*]; done) | exact ⟨h.mem, h.lifecycle, h.tstat, h.phase⟩ | (simp +contextual (maxDischargeDepth := 30) [*, inv_foldl]; done) | dsimp only | (with_reducible first | apply State.modCore_inv | apply State.setCtx_inv | apply State.modCtx_inv | apply State.setMe_inv | apply State.modMe_inv | apply State.modProc_inv | apply State.modEntry_inv | apply State.setEntry_inv | apply State.send_inv | apply State.modLaunch_inv | apply State.setLaunch_inv) | split

@[simp] theorem State.wrapCopies_inv {s : State} (key : ℕ) (l : Launch) (h : s.Inv) : (State.wrapCopies s key l).Inv := by
  unfold State.wrapCopies
  repeat' first | assumption | (refine inv_foldl ?_ fun _ _ _ => ?_) | (simp (maxDischargeDepth := 30) [*]; done) | exact ⟨h.mem, h.lifecycle, h.tstat, h.phase⟩ | (simp +contextual (maxDischargeDepth := 30) [*, inv_foldl]; done) | dsimp only | (with_reducible first | apply State.modCore_inv | apply State.setCtx_inv | apply State.modCtx_inv | apply State.setMe_inv | apply State.modMe_inv | apply State.modProc_inv | apply State.modEntry_inv | apply State.setEntry_inv | apply State.send_inv | apply State.modLaunch_inv | apply State.setLaunch_inv) | split

@[simp] theorem State.unhalt_inv {s : State} (key : ℕ) (h : s.Inv) : (State.unhalt s key).Inv := by
  unfold State.unhalt
  repeat' first | assumption | (refine inv_foldl ?_ fun _ _ _ => ?_) | (simp (maxDischargeDepth := 30) [*]; done) | exact ⟨h.mem, h.lifecycle, h.tstat, h.phase⟩ | (simp +contextual (maxDischargeDepth := 30) [*, inv_foldl]; done) | dsimp only | (with_reducible first | apply State.modCore_inv | apply State.setCtx_inv | apply State.modCtx_inv | apply State.setMe_inv | apply State.modMe_inv | apply State.modProc_inv | apply State.modEntry_inv | apply State.setEntry_inv | apply State.send_inv | apply State.modLaunch_inv | apply State.setLaunch_inv) | split

@[simp] theorem State.beginWrapUp_inv {s : State} (key : ℕ) (h : s.Inv) : (State.beginWrapUp s key).Inv := by
  unfold State.beginWrapUp
  repeat' first | assumption | (refine inv_foldl ?_ fun _ _ _ => ?_) | (simp (maxDischargeDepth := 30) [*]; done) | exact ⟨h.mem, h.lifecycle, h.tstat, h.phase⟩ | (simp +contextual (maxDischargeDepth := 30) [*, inv_foldl]; done) | dsimp only | (with_reducible first | apply State.modCore_inv | apply State.setCtx_inv | apply State.modCtx_inv | apply State.setMe_inv | apply State.modMe_inv | apply State.modProc_inv | apply State.modEntry_inv | apply State.setEntry_inv | apply State.send_inv | apply State.modLaunch_inv | apply State.setLaunch_inv) | split

@[simp] theorem execWrapUp_inv (launch : ℕ) {s : State} (h : s.Inv) : Res.Inv (execWrapUp launch s) := by
  unfold execWrapUp
  repeat' first | assumption | (refine inv_foldl ?_ fun _ _ _ => ?_) | (simp (maxDischargeDepth := 30) [*]; done) | exact ⟨h.mem, h.lifecycle, h.tstat, h.phase⟩ | (simp +contextual (maxDischargeDepth := 30) [*, inv_foldl]; done) | dsimp only | (with_reducible first | apply State.modCore_inv | apply State.setCtx_inv | apply State.modCtx_inv | apply State.setMe_inv | apply State.modMe_inv | apply State.modProc_inv | apply State.modEntry_inv | apply State.setEntry_inv | apply State.send_inv | apply State.modLaunch_inv | apply State.setLaunch_inv) | split

@[simp] theorem execDeadlineOverrun_inv (launch : ℕ) {s : State} (h : s.Inv) : Res.Inv (execDeadlineOverrun launch s) := by
  unfold execDeadlineOverrun
  repeat' first | assumption | (refine inv_foldl ?_ fun _ _ _ => ?_) | (simp (maxDischargeDepth := 30) [*]; done) | exact ⟨h.mem, h.lifecycle, h.tstat, h.phase⟩ | (simp +contextual (maxDischargeDepth := 30) [*, inv_foldl]; done) | dsimp only | (with_reducible first | apply State.modCore_inv | apply State.setCtx_inv | apply State.modCtx_inv | apply State.setMe_inv | apply State.modMe_inv | apply State.modProc_inv | apply State.modEntry_inv | apply State.setEntry_inv | apply State.send_inv | apply State.modLaunch_inv | apply State.setLaunch_inv) | split

@[simp] theorem State.reportPass_inv {s : State} (pcn : ℕ) (root : ℕ) (key : ℕ) (round : ℕ) (pass : ℕ) (h : s.Inv) : (State.reportPass s pcn root key round pass).Inv := by
  unfold State.reportPass
  repeat' first | assumption | (refine inv_foldl ?_ fun _ _ _ => ?_) | (simp (maxDischargeDepth := 30) [*]; done) | exact ⟨h.mem, h.lifecycle, h.tstat, h.phase⟩ | (simp +contextual (maxDischargeDepth := 30) [*, inv_foldl]; done) | dsimp only | (with_reducible first | apply State.modCore_inv | apply State.setCtx_inv | apply State.modCtx_inv | apply State.setMe_inv | apply State.modMe_inv | apply State.modProc_inv | apply State.modEntry_inv | apply State.setEntry_inv | apply State.send_inv | apply State.modLaunch_inv | apply State.setLaunch_inv) | split

@[simp] theorem State.tellCores_inv {s : State} (src : ℕ) (l : Launch) (body : Body) (h : s.Inv) : (State.tellCores s src l body).Inv := by
  unfold State.tellCores
  repeat' first | assumption | (refine inv_foldl ?_ fun _ _ _ => ?_) | (simp (maxDischargeDepth := 30) [*]; done) | exact ⟨h.mem, h.lifecycle, h.tstat, h.phase⟩ | (simp +contextual (maxDischargeDepth := 30) [*, inv_foldl]; done) | dsimp only | (with_reducible first | apply State.modCore_inv | apply State.setCtx_inv | apply State.modCtx_inv | apply State.setMe_inv | apply State.modMe_inv | apply State.modProc_inv | apply State.modEntry_inv | apply State.setEntry_inv | apply State.send_inv | apply State.modLaunch_inv | apply State.setLaunch_inv) | split

@[simp] theorem State.openPass_inv {s : State} (root : ℕ) (key : ℕ) (h : s.Inv) : (State.openPass s root key).Inv := by
  unfold State.openPass
  repeat' first | assumption | (refine inv_foldl ?_ fun _ _ _ => ?_) | (simp (maxDischargeDepth := 30) [*]; done) | exact ⟨h.mem, h.lifecycle, h.tstat, h.phase⟩ | (simp +contextual (maxDischargeDepth := 30) [*, inv_foldl]; done) | dsimp only | (with_reducible first | apply State.modCore_inv | apply State.setCtx_inv | apply State.modCtx_inv | apply State.setMe_inv | apply State.modMe_inv | apply State.modProc_inv | apply State.modEntry_inv | apply State.setEntry_inv | apply State.send_inv | apply State.modLaunch_inv | apply State.setLaunch_inv) | split

@[simp] theorem execGvtRoundStart_inv (launch : ℕ) {s : State} (h : s.Inv) : Res.Inv (execGvtRoundStart launch s) := by
  unfold execGvtRoundStart
  repeat' first | assumption | (refine inv_foldl ?_ fun _ _ _ => ?_) | (simp (maxDischargeDepth := 30) [*]; done) | exact ⟨h.mem, h.lifecycle, h.tstat, h.phase⟩ | (simp +contextual (maxDischargeDepth := 30) [*, inv_foldl]; done) | dsimp only | (with_reducible first | apply State.modCore_inv | apply State.setCtx_inv | apply State.modCtx_inv | apply State.setMe_inv | apply State.modMe_inv | apply State.modProc_inv | apply State.modEntry_inv | apply State.setEntry_inv | apply State.send_inv | apply State.modLaunch_inv | apply State.setLaunch_inv) | split

@[simp] theorem execGvtStartPacket_inv (n : ℕ) {s : State} (h : s.Inv) : Res.Inv (execGvtStartPacket n s) := by
  unfold execGvtStartPacket
  split <;> (try have h2 := State.arrive_inv h ‹_›) <;> repeat' first | assumption | (refine inv_foldl ?_ fun _ _ _ => ?_) | (simp (maxDischargeDepth := 30) [*]; done) | exact ⟨h.mem, h.lifecycle, h.tstat, h.phase⟩ | (simp +contextual (maxDischargeDepth := 30) [*, inv_foldl]; done) | dsimp only | (with_reducible first | apply State.modCore_inv | apply State.setCtx_inv | apply State.modCtx_inv | apply State.setMe_inv | apply State.modMe_inv | apply State.modProc_inv | apply State.modEntry_inv | apply State.setEntry_inv | apply State.send_inv | apply State.modLaunch_inv | apply State.setLaunch_inv) | split

@[simp] theorem State.takeReport_inv {s : State} (root : ℕ) (key : ℕ) (round : ℕ) (pass : ℕ) (least : Option ℕ) (sum : ℤ) (cores : ℕ) (h : s.Inv) : (State.takeReport s root key round pass least sum cores).Inv := by
  unfold State.takeReport
  repeat' first | assumption | (refine inv_foldl ?_ fun _ _ _ => ?_) | (simp (maxDischargeDepth := 30) [*]; done) | exact ⟨h.mem, h.lifecycle, h.tstat, h.phase⟩ | (simp +contextual (maxDischargeDepth := 30) [*, inv_foldl]; done) | dsimp only | (with_reducible first | apply State.modCore_inv | apply State.setCtx_inv | apply State.modCtx_inv | apply State.setMe_inv | apply State.modMe_inv | apply State.modProc_inv | apply State.modEntry_inv | apply State.setEntry_inv | apply State.send_inv | apply State.modLaunch_inv | apply State.setLaunch_inv) | split

@[simp] theorem State.combineReport_inv {s : State} (n : ℕ) (p : Packet) (router : ℕ) (key : ℕ) (round : ℕ) (pass : ℕ) (least : Option ℕ) (sum : ℤ) (cores : ℕ) (h : s.Inv) : (State.combineReport s n p router key round pass least sum cores).Inv := by
  unfold State.combineReport
  repeat' first | assumption | (refine inv_foldl ?_ fun _ _ _ => ?_) | (simp (maxDischargeDepth := 30) [*]; done) | exact ⟨h.mem, h.lifecycle, h.tstat, h.phase⟩ | (simp +contextual (maxDischargeDepth := 30) [*, inv_foldl]; done) | dsimp only | (with_reducible first | apply State.modCore_inv | apply State.setCtx_inv | apply State.modCtx_inv | apply State.setMe_inv | apply State.modMe_inv | apply State.modProc_inv | apply State.modEntry_inv | apply State.setEntry_inv | apply State.send_inv | apply State.modLaunch_inv | apply State.setLaunch_inv) | split

@[simp] theorem execGvtPassReport_inv (n router : Nat) {s : State} (h : s.Inv) : Res.Inv (execGvtPassReport n router s) := by
  unfold execGvtPassReport
  split
  · split
    · split
      · split
        · rename_i e
          have h1 := State.arrive_inv h e
          split
          · exact State.takeReport_inv _ _ _ _ _ _ _ h1
          · exact State.countDrop_inv _ h1
        · exact h
      · exact State.combineReport_inv _ _ _ _ _ _ _ _ _ h
    · exact h
  · exact h

@[simp] theorem State.freeCheckpoints_inv {s : State} (tid gvt n : Nat) (h : s.Inv) : (s.freeCheckpoints tid gvt n).Inv := by
  induction n generalizing s with
  | zero => exact h
  | succ n ih =>
    unfold State.freeCheckpoints
    dsimp only
    split
    · exact h
    · split
      · exact h
      · exact ih (State.modProc_inv _ _ (State.setCtx_inv _ _ h))

@[simp] theorem State.deliverGvt_inv {s : State} (pcn key gvt : Nat) (h : s.Inv) : (s.deliverGvt pcn key gvt).Inv := by
  unfold State.deliverGvt
  generalize 4096 = n
  refine inv_foldl (State.modCore_inv _ _ (State.modLaunch_inv _ _ (State.modReduction_inv _ _ _ h))) fun t x ht => ?_
  split
  · exact State.freeCheckpoints_inv _ _ _ ht
  · exact ht

@[simp] theorem execGvtResult_inv (n : Nat) {s : State} (h : s.Inv) : Res.Inv (execGvtResult n s) := by
  unfold execGvtResult
  split
  · rename_i e
    split
    · exact State.deliverGvt_inv _ _ _ (State.arrive_inv h e)
    · exact h
  · exact h

@[simp] theorem State.undoAfter_inv {s : State} (tid : ℕ) (cut : ℕ) (h : s.Inv) : (State.undoAfter s tid cut).Inv := by
  unfold State.undoAfter
  repeat' first | assumption | (refine inv_foldl ?_ fun _ _ _ => ?_) | (simp (maxDischargeDepth := 30) [*]; done) | exact ⟨h.mem, h.lifecycle, h.tstat, h.phase⟩ | (simp +contextual (maxDischargeDepth := 30) [*, inv_foldl]; done) | dsimp only | (with_reducible first | apply State.modCore_inv | apply State.setCtx_inv | apply State.modCtx_inv | apply State.setMe_inv | apply State.modMe_inv | apply State.modProc_inv | apply State.modEntry_inv | apply State.setEntry_inv | apply State.send_inv | apply State.modLaunch_inv | apply State.setLaunch_inv) | split

@[simp] theorem State.cancelAfter_inv {s : State} (key : ℕ) (cut : ℕ) (h : s.Inv) : (State.cancelAfter s key cut).Inv := by
  unfold State.cancelAfter
  repeat' first | assumption | (refine inv_foldl ?_ fun _ _ _ => ?_) | (simp (maxDischargeDepth := 30) [*]; done) | exact ⟨h.mem, h.lifecycle, h.tstat, h.phase⟩ | (simp +contextual (maxDischargeDepth := 30) [*, inv_foldl]; done) | dsimp only | (with_reducible first | apply State.modCore_inv | apply State.setCtx_inv | apply State.modCtx_inv | apply State.setMe_inv | apply State.modMe_inv | apply State.modProc_inv | apply State.modEntry_inv | apply State.setEntry_inv | apply State.send_inv | apply State.modLaunch_inv | apply State.setLaunch_inv) | split

@[simp] theorem State.discardDeferred_inv {s : State} (key : ℕ) (cut : ℕ) (h : s.Inv) : (State.discardDeferred s key cut).Inv := by
  unfold State.discardDeferred
  repeat' first | assumption | (refine inv_foldl ?_ fun _ _ _ => ?_) | (simp (maxDischargeDepth := 30) [*]; done) | exact ⟨h.mem, h.lifecycle, h.tstat, h.phase⟩ | (simp +contextual (maxDischargeDepth := 30) [*, inv_foldl]; done) | dsimp only | (with_reducible first | apply State.modCore_inv | apply State.setCtx_inv | apply State.modCtx_inv | apply State.setMe_inv | apply State.modMe_inv | apply State.modProc_inv | apply State.modEntry_inv | apply State.setEntry_inv | apply State.send_inv | apply State.modLaunch_inv | apply State.setLaunch_inv) | split

@[simp] theorem State.performRetained_inv {s : State} (key : ℕ) (h : s.Inv) : (State.performRetained s key).Inv := by
  unfold State.performRetained
  repeat' first | assumption | (refine inv_foldl ?_ fun _ _ _ => ?_) | (simp (maxDischargeDepth := 30) [*]; done) | exact ⟨h.mem, h.lifecycle, h.tstat, h.phase⟩ | (simp +contextual (maxDischargeDepth := 30) [*, inv_foldl]; done) | dsimp only | (with_reducible first | apply State.modCore_inv | apply State.setCtx_inv | apply State.modCtx_inv | apply State.setMe_inv | apply State.modMe_inv | apply State.modProc_inv | apply State.modEntry_inv | apply State.setEntry_inv | apply State.send_inv | apply State.modLaunch_inv | apply State.setLaunch_inv) | split

@[simp] theorem State.wrapCut_inv {s : State} (key : ℕ) (cut : ℕ) (l : Launch) (h : s.Inv) : (State.wrapCut s key cut l).Inv := by
  unfold State.wrapCut
  repeat' first | assumption | (refine inv_foldl ?_ fun _ _ _ => ?_) | (simp (maxDischargeDepth := 30) [*]; done) | exact ⟨h.mem, h.lifecycle, h.tstat, h.phase⟩ | (simp +contextual (maxDischargeDepth := 30) [*, inv_foldl]; done) | dsimp only | (with_reducible first | apply State.modCore_inv | apply State.setCtx_inv | apply State.modCtx_inv | apply State.setMe_inv | apply State.modMe_inv | apply State.modProc_inv | apply State.modEntry_inv | apply State.setEntry_inv | apply State.send_inv | apply State.modLaunch_inv | apply State.setLaunch_inv) | split

@[simp] theorem execWrapupCut_inv (launch : ℕ) {s : State} (h : s.Inv) : Res.Inv (execWrapupCut launch s) := by
  unfold execWrapupCut
  repeat' first | assumption | (refine inv_foldl ?_ fun _ _ _ => ?_) | (simp (maxDischargeDepth := 30) [*]; done) | exact ⟨h.mem, h.lifecycle, h.tstat, h.phase⟩ | (simp +contextual (maxDischargeDepth := 30) [*, inv_foldl]; done) | dsimp only | (with_reducible first | apply State.modCore_inv | apply State.setCtx_inv | apply State.modCtx_inv | apply State.setMe_inv | apply State.modMe_inv | apply State.modProc_inv | apply State.modEntry_inv | apply State.setEntry_inv | apply State.send_inv | apply State.modLaunch_inv | apply State.setLaunch_inv) | split

@[simp] theorem execVtSet_inv (a : GReg) {s : State} (h : s.Inv) : Res.Inv (execVtSet a s) := by
  unfold execVtSet
  repeat' first | assumption | (refine inv_foldl ?_ fun _ _ _ => ?_) | (simp (maxDischargeDepth := 30) [*]; done) | exact ⟨h.mem, h.lifecycle, h.tstat, h.phase⟩ | (simp +contextual (maxDischargeDepth := 30) [*, inv_foldl]; done) | dsimp only | (with_reducible first | apply State.modCore_inv | apply State.setCtx_inv | apply State.modCtx_inv | apply State.setMe_inv | apply State.modMe_inv | apply State.modProc_inv | apply State.modEntry_inv | apply State.setEntry_inv | apply State.send_inv | apply State.modLaunch_inv | apply State.setLaunch_inv) | split

@[simp] theorem execVtGet_inv (d : GReg) {s : State} (h : s.Inv) : Res.Inv (execVtGet d s) := by
  unfold execVtGet
  repeat' first | assumption | (refine inv_foldl ?_ fun _ _ _ => ?_) | (simp (maxDischargeDepth := 30) [*]; done) | exact ⟨h.mem, h.lifecycle, h.tstat, h.phase⟩ | (simp +contextual (maxDischargeDepth := 30) [*, inv_foldl]; done) | dsimp only | (with_reducible first | apply State.modCore_inv | apply State.setCtx_inv | apply State.modCtx_inv | apply State.setMe_inv | apply State.modMe_inv | apply State.modProc_inv | apply State.modEntry_inv | apply State.setEntry_inv | apply State.send_inv | apply State.modLaunch_inv | apply State.setLaunch_inv) | split

@[simp] theorem execGvt_inv (d : GReg) {s : State} (h : s.Inv) : Res.Inv (execGvt d s) := by
  unfold execGvt
  repeat' first | assumption | (refine inv_foldl ?_ fun _ _ _ => ?_) | (simp (maxDischargeDepth := 30) [*]; done) | exact ⟨h.mem, h.lifecycle, h.tstat, h.phase⟩ | (simp +contextual (maxDischargeDepth := 30) [*, inv_foldl]; done) | dsimp only | (with_reducible first | apply State.modCore_inv | apply State.setCtx_inv | apply State.modCtx_inv | apply State.setMe_inv | apply State.modMe_inv | apply State.modProc_inv | apply State.modEntry_inv | apply State.setEntry_inv | apply State.send_inv | apply State.modLaunch_inv | apply State.setLaunch_inv) | split

@[simp] theorem execSettle_inv {s : State} (h : s.Inv) : Res.Inv (execSettle s) := by
  unfold execSettle
  repeat' first | assumption | (refine inv_foldl ?_ fun _ _ _ => ?_) | (simp (maxDischargeDepth := 30) [*]; done) | exact ⟨h.mem, h.lifecycle, h.tstat, h.phase⟩ | (simp +contextual (maxDischargeDepth := 30) [*, inv_foldl]; done) | dsimp only | (with_reducible first | apply State.modCore_inv | apply State.setCtx_inv | apply State.modCtx_inv | apply State.setMe_inv | apply State.modMe_inv | apply State.modProc_inv | apply State.modEntry_inv | apply State.setEntry_inv | apply State.send_inv | apply State.modLaunch_inv | apply State.setLaunch_inv) | split

@[simp] theorem execWrap_inv {s : State} (h : s.Inv) : Res.Inv (execWrap s) := by
  unfold execWrap
  repeat' first | assumption | (refine inv_foldl ?_ fun _ _ _ => ?_) | (simp (maxDischargeDepth := 30) [*]; done) | exact ⟨h.mem, h.lifecycle, h.tstat, h.phase⟩ | (simp +contextual (maxDischargeDepth := 30) [*, inv_foldl]; done) | dsimp only | (with_reducible first | apply State.modCore_inv | apply State.setCtx_inv | apply State.modCtx_inv | apply State.setMe_inv | apply State.modMe_inv | apply State.modProc_inv | apply State.modEntry_inv | apply State.setEntry_inv | apply State.send_inv | apply State.modLaunch_inv | apply State.setLaunch_inv) | split

@[simp] theorem State.finishThread_inv {s : State} (tid : ℕ) (h : s.Inv) : (State.finishThread s tid).Inv := by
  unfold State.finishThread
  repeat' first | assumption | (refine inv_foldl ?_ fun _ _ _ => ?_) | (simp (maxDischargeDepth := 30) [*]; done) | exact ⟨h.mem, h.lifecycle, h.tstat, h.phase⟩ | (simp +contextual (maxDischargeDepth := 30) [*, inv_foldl]; done) | dsimp only | (with_reducible first | apply State.modCore_inv | apply State.setCtx_inv | apply State.modCtx_inv | apply State.setMe_inv | apply State.modMe_inv | apply State.modProc_inv | apply State.modEntry_inv | apply State.setEntry_inv | apply State.send_inv | apply State.modLaunch_inv | apply State.setLaunch_inv) | split

@[simp] theorem State.haltWith_inv {s : State} (i : Instr) (h : s.Inv) : Res.Inv (State.haltWith s i) := by
  unfold State.haltWith
  repeat' first | assumption | (refine inv_foldl ?_ fun _ _ _ => ?_) | (simp (maxDischargeDepth := 30) [*]; done) | exact ⟨h.mem, h.lifecycle, h.tstat, h.phase⟩ | (simp +contextual (maxDischargeDepth := 30) [*, inv_foldl]; done) | dsimp only | (with_reducible first | apply State.modCore_inv | apply State.setCtx_inv | apply State.modCtx_inv | apply State.setMe_inv | apply State.modMe_inv | apply State.modProc_inv | apply State.modEntry_inv | apply State.setEntry_inv | apply State.send_inv | apply State.modLaunch_inv | apply State.setLaunch_inv) | split

@[simp] theorem execHalt_inv {s : State} (h : s.Inv) : Res.Inv (execHalt s) := by
  unfold execHalt
  repeat' first | assumption | (refine inv_foldl ?_ fun _ _ _ => ?_) | (simp (maxDischargeDepth := 30) [*]; done) | exact ⟨h.mem, h.lifecycle, h.tstat, h.phase⟩ | (simp +contextual (maxDischargeDepth := 30) [*, inv_foldl]; done) | dsimp only | (with_reducible first | apply State.modCore_inv | apply State.setCtx_inv | apply State.modCtx_inv | apply State.setMe_inv | apply State.modMe_inv | apply State.modProc_inv | apply State.modEntry_inv | apply State.setEntry_inv | apply State.send_inv | apply State.modLaunch_inv | apply State.setLaunch_inv) | split

@[simp] theorem execWrapDone_inv (a : GReg) {s : State} (h : s.Inv) : Res.Inv (execWrapDone a s) := by
  unfold execWrapDone
  repeat' first | assumption | (refine inv_foldl ?_ fun _ _ _ => ?_) | (simp (maxDischargeDepth := 30) [*]; done) | exact ⟨h.mem, h.lifecycle, h.tstat, h.phase⟩ | (simp +contextual (maxDischargeDepth := 30) [*, inv_foldl]; done) | dsimp only | (with_reducible first | apply State.modCore_inv | apply State.setCtx_inv | apply State.modCtx_inv | apply State.setMe_inv | apply State.modMe_inv | apply State.modProc_inv | apply State.modEntry_inv | apply State.setEntry_inv | apply State.send_inv | apply State.modLaunch_inv | apply State.setLaunch_inv) | split

@[simp] theorem State.createThread_inv {s : State} (slot : ℕ) (pc : Word) (arg : Word) (h : s.Inv) : (State.createThread s slot pc arg).Inv := by
  unfold State.createThread
  repeat' first | assumption | (refine inv_foldl ?_ fun _ _ _ => ?_) | (simp (maxDischargeDepth := 30) [*]; done) | exact ⟨h.mem, h.lifecycle, h.tstat, h.phase⟩ | (simp +contextual (maxDischargeDepth := 30) [*, inv_foldl]; done) | dsimp only | (with_reducible first | apply State.modCore_inv | apply State.setCtx_inv | apply State.modCtx_inv | apply State.setMe_inv | apply State.modMe_inv | apply State.modProc_inv | apply State.modEntry_inv | apply State.setEntry_inv | apply State.send_inv | apply State.modLaunch_inv | apply State.setLaunch_inv) | split

@[simp] theorem execSpawn_inv (d a b : GReg) {s : State} (h : s.Inv) : Res.Inv (execSpawn d a b s) := by
  have h1 := State.admitEmber_inv s.here h
  unfold execSpawn
  generalize s.admitEmber s.here = s1 at h1 ⊢
  dsimp only
  repeat' first
    | exact State.holdWith_inv _ _ h
    | exact State.trapHere_inv _ _ h
    | exact State.writeG_inv _ _ (State.createThread_inv _ _ _ h1)
    | exact State.writeG_inv _ _ h1
    | exact State.writeG_inv _ _ h
    | split

@[simp] theorem execMig_inv (a : GReg) (size : MigSize) {s : State} (h : s.Inv) : Res.Inv (execMig a size s) := by
  unfold execMig
  repeat' first | assumption | (refine inv_foldl ?_ fun _ _ _ => ?_) | (simp (maxDischargeDepth := 30) [*]; done) | exact ⟨h.mem, h.lifecycle, h.tstat, h.phase⟩ | (simp +contextual (maxDischargeDepth := 30) [*, inv_foldl]; done) | dsimp only | (with_reducible first | apply State.modCore_inv | apply State.setCtx_inv | apply State.modCtx_inv | apply State.setMe_inv | apply State.modMe_inv | apply State.modProc_inv | apply State.modEntry_inv | apply State.setEntry_inv | apply State.send_inv | apply State.modLaunch_inv | apply State.setLaunch_inv) | split

@[simp] theorem State.sendMessage_inv {s : State} (d : GReg) (a : GReg) (b : GReg) (h : s.Inv) : (State.sendMessage s d a b).Inv := by
  unfold State.sendMessage
  repeat' first | assumption | (refine inv_foldl ?_ fun _ _ _ => ?_) | (simp (maxDischargeDepth := 30) [*]; done) | exact ⟨h.mem, h.lifecycle, h.tstat, h.phase⟩ | (simp +contextual (maxDischargeDepth := 30) [*, inv_foldl]; done) | dsimp only | (with_reducible first | apply State.modCore_inv | apply State.setCtx_inv | apply State.modCtx_inv | apply State.setMe_inv | apply State.modMe_inv | apply State.modProc_inv | apply State.modEntry_inv | apply State.setEntry_inv | apply State.send_inv | apply State.modLaunch_inv | apply State.setLaunch_inv) | split

@[simp] theorem execMsg_inv (d : GReg) (a : GReg) (b : GReg) {s : State} (h : s.Inv) : Res.Inv (execMsg d a b s) := by
  unfold execMsg
  repeat' first | assumption | (refine inv_foldl ?_ fun _ _ _ => ?_) | (simp (maxDischargeDepth := 30) [*]; done) | exact ⟨h.mem, h.lifecycle, h.tstat, h.phase⟩ | (simp +contextual (maxDischargeDepth := 30) [*, inv_foldl]; done) | dsimp only | (with_reducible first | apply State.modCore_inv | apply State.setCtx_inv | apply State.modCtx_inv | apply State.setMe_inv | apply State.modMe_inv | apply State.modProc_inv | apply State.modEntry_inv | apply State.setEntry_inv | apply State.send_inv | apply State.modLaunch_inv | apply State.setLaunch_inv) | split

@[simp] theorem execReply_inv (x0 : GReg) {s : State} (h : s.Inv) : Res.Inv (execReply x0 s) := by
  unfold execReply
  repeat' first | assumption | (refine inv_foldl ?_ fun _ _ _ => ?_) | (simp (maxDischargeDepth := 30) [*]; done) | exact ⟨h.mem, h.lifecycle, h.tstat, h.phase⟩ | (simp +contextual (maxDischargeDepth := 30) [*, inv_foldl]; done) | dsimp only | (with_reducible first | apply State.modCore_inv | apply State.setCtx_inv | apply State.modCtx_inv | apply State.setMe_inv | apply State.modMe_inv | apply State.modProc_inv | apply State.modEntry_inv | apply State.setEntry_inv | apply State.send_inv | apply State.modLaunch_inv | apply State.setLaunch_inv) | split

@[simp] theorem execYield_inv {s : State} (h : s.Inv) : Res.Inv (execYield s) := by
  unfold execYield
  repeat' first | assumption | (refine inv_foldl ?_ fun _ _ _ => ?_) | (simp (maxDischargeDepth := 30) [*]; done) | exact ⟨h.mem, h.lifecycle, h.tstat, h.phase⟩ | (simp +contextual (maxDischargeDepth := 30) [*, inv_foldl]; done) | dsimp only | (with_reducible first | apply State.modCore_inv | apply State.setCtx_inv | apply State.modCtx_inv | apply State.setMe_inv | apply State.modMe_inv | apply State.modProc_inv | apply State.modEntry_inv | apply State.setEntry_inv | apply State.send_inv | apply State.modLaunch_inv | apply State.setLaunch_inv) | split

@[simp] theorem execRsync_inv {s : State} (h : s.Inv) : Res.Inv (execRsync s) := by
  unfold execRsync
  repeat' first | assumption | (refine inv_foldl ?_ fun _ _ _ => ?_) | (simp (maxDischargeDepth := 30) [*]; done) | exact ⟨h.mem, h.lifecycle, h.tstat, h.phase⟩ | (simp +contextual (maxDischargeDepth := 30) [*, inv_foldl]; done) | dsimp only | (with_reducible first | apply State.modCore_inv | apply State.setCtx_inv | apply State.modCtx_inv | apply State.setMe_inv | apply State.modMe_inv | apply State.modProc_inv | apply State.modEntry_inv | apply State.setEntry_inv | apply State.send_inv | apply State.modLaunch_inv | apply State.setLaunch_inv) | split

@[simp] theorem execNow_inv (d : GReg) {s : State} (h : s.Inv) : Res.Inv (execNow d s) := by
  unfold execNow
  repeat' first | assumption | (refine inv_foldl ?_ fun _ _ _ => ?_) | (simp (maxDischargeDepth := 30) [*]; done) | exact ⟨h.mem, h.lifecycle, h.tstat, h.phase⟩ | (simp +contextual (maxDischargeDepth := 30) [*, inv_foldl]; done) | dsimp only | (with_reducible first | apply State.modCore_inv | apply State.setCtx_inv | apply State.modCtx_inv | apply State.setMe_inv | apply State.modMe_inv | apply State.modProc_inv | apply State.modEntry_inv | apply State.setEntry_inv | apply State.send_inv | apply State.modLaunch_inv | apply State.setLaunch_inv) | split

@[simp] theorem execCyc_inv (d : GReg) {s : State} (h : s.Inv) : Res.Inv (execCyc d s) := by
  unfold execCyc
  repeat' first | assumption | (refine inv_foldl ?_ fun _ _ _ => ?_) | (simp (maxDischargeDepth := 30) [*]; done) | exact ⟨h.mem, h.lifecycle, h.tstat, h.phase⟩ | (simp +contextual (maxDischargeDepth := 30) [*, inv_foldl]; done) | dsimp only | (with_reducible first | apply State.modCore_inv | apply State.setCtx_inv | apply State.modCtx_inv | apply State.setMe_inv | apply State.modMe_inv | apply State.modProc_inv | apply State.modEntry_inv | apply State.setEntry_inv | apply State.send_inv | apply State.modLaunch_inv | apply State.setLaunch_inv) | split

@[simp] theorem execBrk_inv (c : BitVec 6) {s : State} (h : s.Inv) : Res.Inv (execBrk c s) := by
  unfold execBrk
  repeat' first | assumption | (refine inv_foldl ?_ fun _ _ _ => ?_) | (simp (maxDischargeDepth := 30) [*]; done) | exact ⟨h.mem, h.lifecycle, h.tstat, h.phase⟩ | (simp +contextual (maxDischargeDepth := 30) [*, inv_foldl]; done) | dsimp only | (with_reducible first | apply State.modCore_inv | apply State.setCtx_inv | apply State.modCtx_inv | apply State.setMe_inv | apply State.modMe_inv | apply State.modProc_inv | apply State.modEntry_inv | apply State.setEntry_inv | apply State.send_inv | apply State.modLaunch_inv | apply State.setLaunch_inv) | split

@[simp] theorem execTrap_inv (c : BitVec 6) {s : State} (h : s.Inv) : Res.Inv (execTrap c s) := by
  unfold execTrap
  repeat' first | assumption | (refine inv_foldl ?_ fun _ _ _ => ?_) | (simp (maxDischargeDepth := 30) [*]; done) | exact ⟨h.mem, h.lifecycle, h.tstat, h.phase⟩ | (simp +contextual (maxDischargeDepth := 30) [*, inv_foldl]; done) | dsimp only | (with_reducible first | apply State.modCore_inv | apply State.setCtx_inv | apply State.modCtx_inv | apply State.setMe_inv | apply State.modMe_inv | apply State.modProc_inv | apply State.modEntry_inv | apply State.setEntry_inv | apply State.send_inv | apply State.modLaunch_inv | apply State.setLaunch_inv) | split

@[simp] theorem execRlx_inv {s : State} (h : s.Inv) : Res.Inv (execRlx s) := by
  unfold execRlx
  repeat' first | assumption | (refine inv_foldl ?_ fun _ _ _ => ?_) | (simp (maxDischargeDepth := 30) [*]; done) | exact ⟨h.mem, h.lifecycle, h.tstat, h.phase⟩ | (simp +contextual (maxDischargeDepth := 30) [*, inv_foldl]; done) | dsimp only | (with_reducible first | apply State.modCore_inv | apply State.setCtx_inv | apply State.modCtx_inv | apply State.setMe_inv | apply State.modMe_inv | apply State.modProc_inv | apply State.modEntry_inv | apply State.setEntry_inv | apply State.send_inv | apply State.modLaunch_inv | apply State.setLaunch_inv) | split

@[simp] theorem execExt_inv (x0 : BitVec 24) {s : State} (h : s.Inv) : Res.Inv (execExt x0 s) := by
  unfold execExt
  repeat' first | assumption | (refine inv_foldl ?_ fun _ _ _ => ?_) | (simp (maxDischargeDepth := 30) [*]; done) | exact ⟨h.mem, h.lifecycle, h.tstat, h.phase⟩ | (simp +contextual (maxDischargeDepth := 30) [*, inv_foldl]; done) | dsimp only | (with_reducible first | apply State.modCore_inv | apply State.setCtx_inv | apply State.modCtx_inv | apply State.setMe_inv | apply State.modMe_inv | apply State.modProc_inv | apply State.modEntry_inv | apply State.setEntry_inv | apply State.send_inv | apply State.modLaunch_inv | apply State.setLaunch_inv) | split

@[simp] theorem State.answerMessage_inv {s : State} (pcn : ℕ) (m : Message) (value : Option Word) (fault : Bool) (h : s.Inv) : (State.answerMessage s pcn m value fault).Inv := by
  unfold State.answerMessage
  repeat' first | assumption | (refine inv_foldl ?_ fun _ _ _ => ?_) | (simp (maxDischargeDepth := 30) [*]; done) | exact ⟨h.mem, h.lifecycle, h.tstat, h.phase⟩ | (simp +contextual (maxDischargeDepth := 30) [*, inv_foldl]; done) | dsimp only | (with_reducible first | apply State.modCore_inv | apply State.setCtx_inv | apply State.modCtx_inv | apply State.setMe_inv | apply State.modMe_inv | apply State.modProc_inv | apply State.modEntry_inv | apply State.setEntry_inv | apply State.send_inv | apply State.modLaunch_inv | apply State.setLaunch_inv) | split

@[simp] theorem State.travelMessage_inv {s : State} (tid : ℕ) (h : s.Inv) : (State.travelMessage s tid).Inv := by
  unfold State.travelMessage
  repeat' first | assumption | (refine inv_foldl ?_ fun _ _ _ => ?_) | (simp (maxDischargeDepth := 30) [*]; done) | exact ⟨h.mem, h.lifecycle, h.tstat, h.phase⟩ | (simp +contextual (maxDischargeDepth := 30) [*, inv_foldl]; done) | dsimp only | (with_reducible first | apply State.modCore_inv | apply State.setCtx_inv | apply State.modCtx_inv | apply State.setMe_inv | apply State.modMe_inv | apply State.modProc_inv | apply State.modEntry_inv | apply State.setEntry_inv | apply State.send_inv | apply State.modLaunch_inv | apply State.setLaunch_inv) | split

@[simp] theorem execAccessTravel_inv (tid : ℕ) (n : ℕ) (k : ℕ) {s : State} (h : s.Inv) : Res.Inv (execAccessTravel tid n k s) := by
  unfold execAccessTravel
  repeat' first | assumption | (refine inv_foldl ?_ fun _ _ _ => ?_) | (simp (maxDischargeDepth := 30) [*]; done) | exact ⟨h.mem, h.lifecycle, h.tstat, h.phase⟩ | (simp +contextual (maxDischargeDepth := 30) [*, inv_foldl]; done) | dsimp only | (with_reducible first | apply State.modCore_inv | apply State.setCtx_inv | apply State.modCtx_inv | apply State.setMe_inv | apply State.modMe_inv | apply State.modProc_inv | apply State.modEntry_inv | apply State.setEntry_inv | apply State.send_inv | apply State.modLaunch_inv | apply State.setLaunch_inv) | split



theorem carrierAlu_inv (i : Instr) {s : State} (h : s.Inv) {r : Res} (e : carrierAlu? i s = some r) : Res.Inv r := by
  unfold carrierAlu? at e
  split at e
  all_goals first
    | (cases e; done)
    | (simp only [Option.some.injEq] at e; subst e; simp only [execAdd_inv, execSub_inv, execAnd_inv, execOr_inv, execXor_inv,
        execShl_inv, execShr_inv, execSra_inv, execMul_inv, execMulh_inv, execMulhu_inv, execDiv_inv, execDivu_inv, execRem_inv,
        execRemu_inv, execMin_inv, execMax_inv, execMinu_inv, execMaxu_inv, execSel_inv, execClz_inv, execCtz_inv, execPopc_inv,
        execSextB_inv, execSextH_inv, execSextW_inv, execZextB_inv, execZextH_inv, execZextW_inv, execAddi_inv, execAndi_inv,
        execOri_inv, execXori_inv, execShli_inv, execShri_inv, execSrai_inv, execMuli_inv, h])

@[simp] theorem State.startMessage_inv {s : State} (pcn : ℕ) (m : Message) (h : s.Inv) : (State.startMessage s pcn m).Inv := by
  unfold State.startMessage
  repeat' first | assumption | (refine inv_foldl ?_ fun _ _ _ => ?_) | (simp (maxDischargeDepth := 30) [*]; done) | exact ⟨h.mem, h.lifecycle, h.tstat, h.phase⟩ | (simp +contextual (maxDischargeDepth := 30) [*, inv_foldl]; done) | dsimp only | (with_reducible first | apply State.modCore_inv | apply State.setCtx_inv | apply State.modCtx_inv | apply State.setMe_inv | apply State.modMe_inv | apply State.modProc_inv | apply State.modEntry_inv | apply State.setEntry_inv | apply State.send_inv | apply State.modLaunch_inv | apply State.setLaunch_inv) | split

@[simp] theorem State.endMessage_inv {s : State} (pcn : ℕ) (m : Message) (value : Option Word) (fault : Bool) (h : s.Inv) : (State.endMessage s pcn m value fault).Inv := by
  unfold State.endMessage
  repeat' first | assumption | (refine inv_foldl ?_ fun _ _ _ => ?_) | (simp (maxDischargeDepth := 30) [*]; done) | exact ⟨h.mem, h.lifecycle, h.tstat, h.phase⟩ | (simp +contextual (maxDischargeDepth := 30) [*, inv_foldl]; done) | dsimp only | (with_reducible first | apply State.modCore_inv | apply State.setCtx_inv | apply State.modCtx_inv | apply State.setMe_inv | apply State.modMe_inv | apply State.modProc_inv | apply State.modEntry_inv | apply State.setEntry_inv | apply State.send_inv | apply State.modLaunch_inv | apply State.setLaunch_inv) | split

/-- What a word of a message keeps. -/
def WordEnd.Inv (r : WordEnd) : Prop :=
  match r with
  | .done t | .replied t _ => t.Inv
  | .fault => True

theorem State.carrierWord_inv {s : State} (pcn : Nat) (w : BitVec 32) (h : s.Inv) : (s.carrierWord pcn w).Inv := by
  have h1 : State.Inv { s with cur := 16 * pcn } := State.inv_cur _ h
  unfold State.carrierWord
  dsimp only
  split
  · trivial
  · split
    · exact h
    · split
      · rename_i e
        have h2 : State.Inv _ := carrierAlu_inv _ h1 e
        exact State.inv_cur _ h2
      · split
        · exact State.inv_cur _ (State.performPart_inv _ _ _ h1)
        · trivial
      · trivial

@[simp] theorem State.runWord_inv {s : State} (pcn : Nat) (m : Message) (n : Nat) (h : s.Inv) : (s.runWord pcn m n).Inv := by
  have h1 := State.carrierWord_inv pcn (m.words.getD n 0) h
  unfold State.runWord
  split
  · exact h
  · split
    · exact State.endMessage_inv _ _ _ _ h
    · rename_i e; rw [e] at h1; exact State.endMessage_inv _ _ _ _ h1
    · rename_i e
      rw [e] at h1
      split
      · exact State.endMessage_inv _ _ _ _ h1
      · exact State.modCore_inv _ _ h1

@[simp] theorem State.handOver_inv {s : State} (q : QueuedPart) (h : s.Inv) : (State.handOver s q).Inv := by
  unfold State.handOver
  repeat' first | assumption | (refine inv_foldl ?_ fun _ _ _ => ?_) | (simp (maxDischargeDepth := 30) [*]; done) | exact ⟨h.mem, h.lifecycle, h.tstat, h.phase⟩ | (simp +contextual (maxDischargeDepth := 30) [*, inv_foldl]; done) | dsimp only | (with_reducible first | apply State.modCore_inv | apply State.setCtx_inv | apply State.modCtx_inv | apply State.setMe_inv | apply State.modMe_inv | apply State.modProc_inv | apply State.modEntry_inv | apply State.setEntry_inv | apply State.send_inv | apply State.modLaunch_inv | apply State.setLaunch_inv) | split

@[simp] theorem State.handlerCycle_inv {s : State} (pcn : ℕ) (h : s.Inv) : (State.handlerCycle s pcn).Inv := by
  unfold State.handlerCycle
  repeat' first | assumption | (refine inv_foldl ?_ fun _ _ _ => ?_) | (simp (maxDischargeDepth := 30) [*]; done) | exact ⟨h.mem, h.lifecycle, h.tstat, h.phase⟩ | (simp +contextual (maxDischargeDepth := 30) [*, inv_foldl]; done) | dsimp only | (with_reducible first | apply State.modCore_inv | apply State.setCtx_inv | apply State.modCtx_inv | apply State.setMe_inv | apply State.modMe_inv | apply State.modProc_inv | apply State.modEntry_inv | apply State.setEntry_inv | apply State.send_inv | apply State.modLaunch_inv | apply State.setLaunch_inv) | split

@[simp] theorem execCarrierMessage_inv (pcn : ℕ) {s : State} (h : s.Inv) : Res.Inv (execCarrierMessage pcn s) := by
  unfold execCarrierMessage
  repeat' first | assumption | (refine inv_foldl ?_ fun _ _ _ => ?_) | (simp (maxDischargeDepth := 30) [*]; done) | exact ⟨h.mem, h.lifecycle, h.tstat, h.phase⟩ | (simp +contextual (maxDischargeDepth := 30) [*, inv_foldl]; done) | dsimp only | (with_reducible first | apply State.modCore_inv | apply State.setCtx_inv | apply State.modCtx_inv | apply State.setMe_inv | apply State.modMe_inv | apply State.modProc_inv | apply State.modEntry_inv | apply State.setEntry_inv | apply State.send_inv | apply State.modLaunch_inv | apply State.setLaunch_inv) | split

@[simp] theorem State.takeMsgReply_inv {s : State} (tid : ℕ) (serial : ℕ) (relaxed : Bool) (value : Option Word) (fault : Bool) (h : s.Inv) : (State.takeMsgReply s tid serial relaxed value fault).Inv := by
  unfold State.takeMsgReply
  repeat' first | assumption | (refine inv_foldl ?_ fun _ _ _ => ?_) | (simp (maxDischargeDepth := 30) [*]; done) | exact ⟨h.mem, h.lifecycle, h.tstat, h.phase⟩ | (simp +contextual (maxDischargeDepth := 30) [*, inv_foldl]; done) | dsimp only | (with_reducible first | apply State.modCore_inv | apply State.setCtx_inv | apply State.modCtx_inv | apply State.setMe_inv | apply State.modMe_inv | apply State.modProc_inv | apply State.modEntry_inv | apply State.setEntry_inv | apply State.send_inv | apply State.modLaunch_inv | apply State.setLaunch_inv) | split

@[simp] theorem execMsgReply_inv (n : ℕ) {s : State} (h : s.Inv) : Res.Inv (execMsgReply n s) := by
  unfold execMsgReply
  split <;> (try have h2 := State.arrive_inv h ‹_›) <;> repeat' first | assumption | (refine inv_foldl ?_ fun _ _ _ => ?_) | (simp (maxDischargeDepth := 30) [*]; done) | exact ⟨h.mem, h.lifecycle, h.tstat, h.phase⟩ | (simp +contextual (maxDischargeDepth := 30) [*, inv_foldl]; done) | dsimp only | (with_reducible first | apply State.modCore_inv | apply State.setCtx_inv | apply State.modCtx_inv | apply State.setMe_inv | apply State.modMe_inv | apply State.modProc_inv | apply State.modEntry_inv | apply State.setEntry_inv | apply State.send_inv | apply State.modLaunch_inv | apply State.setLaunch_inv) | split

@[simp] theorem execCrr_inv (d : GReg) (c : BitVec 10) {s : State} (h : s.Inv) : Res.Inv (execCrr d c s) := by
  unfold execCrr
  repeat' first | assumption | (refine inv_foldl ?_ fun _ _ _ => ?_) | (simp (maxDischargeDepth := 30) [*]; done) | exact ⟨h.mem, h.lifecycle, h.tstat, h.phase⟩ | (simp +contextual (maxDischargeDepth := 30) [*, inv_foldl]; done) | dsimp only | (with_reducible first | apply State.modCore_inv | apply State.setCtx_inv | apply State.modCtx_inv | apply State.setMe_inv | apply State.modMe_inv | apply State.modProc_inv | apply State.modEntry_inv | apply State.setEntry_inv | apply State.send_inv | apply State.modLaunch_inv | apply State.setLaunch_inv) | split

@[simp] theorem execCrw_inv (a : GReg) (c : BitVec 10) {s : State} (h : s.Inv) : Res.Inv (execCrw a c s) := by
  unfold execCrw
  repeat' first | assumption | (refine inv_foldl ?_ fun _ _ _ => ?_) | (simp (maxDischargeDepth := 30) [*]; done) | exact ⟨h.mem, h.lifecycle, h.tstat, h.phase⟩ | (simp +contextual (maxDischargeDepth := 30) [*, inv_foldl]; done) | dsimp only | (with_reducible first | apply State.modCore_inv | apply State.setCtx_inv | apply State.modCtx_inv | apply State.setMe_inv | apply State.modMe_inv | apply State.modProc_inv | apply State.modEntry_inv | apply State.setEntry_inv | apply State.send_inv | apply State.modLaunch_inv | apply State.setLaunch_inv) | split

@[simp] theorem State.changeCreg_inv {s : State} (n : ℕ) (f : Word → Word) (h : s.Inv) : Res.Inv (State.changeCreg s n f) := by
  unfold State.changeCreg
  repeat' first | assumption | (refine inv_foldl ?_ fun _ _ _ => ?_) | (simp (maxDischargeDepth := 30) [*]; done) | exact ⟨h.mem, h.lifecycle, h.tstat, h.phase⟩ | (simp +contextual (maxDischargeDepth := 30) [*, inv_foldl]; done) | dsimp only | (with_reducible first | apply State.modCore_inv | apply State.setCtx_inv | apply State.modCtx_inv | apply State.setMe_inv | apply State.modMe_inv | apply State.modProc_inv | apply State.modEntry_inv | apply State.setEntry_inv | apply State.send_inv | apply State.modLaunch_inv | apply State.setLaunch_inv) | split

@[simp] theorem execCrset_inv (a : GReg) (c : BitVec 10) {s : State} (h : s.Inv) : Res.Inv (execCrset a c s) := by
  unfold execCrset
  repeat' first | assumption | (refine inv_foldl ?_ fun _ _ _ => ?_) | (simp (maxDischargeDepth := 30) [*]; done) | exact ⟨h.mem, h.lifecycle, h.tstat, h.phase⟩ | (simp +contextual (maxDischargeDepth := 30) [*, inv_foldl]; done) | dsimp only | (with_reducible first | apply State.modCore_inv | apply State.setCtx_inv | apply State.modCtx_inv | apply State.setMe_inv | apply State.modMe_inv | apply State.modProc_inv | apply State.modEntry_inv | apply State.setEntry_inv | apply State.send_inv | apply State.modLaunch_inv | apply State.setLaunch_inv) | split

@[simp] theorem execCrclr_inv (a : GReg) (c : BitVec 10) {s : State} (h : s.Inv) : Res.Inv (execCrclr a c s) := by
  unfold execCrclr
  repeat' first | assumption | (refine inv_foldl ?_ fun _ _ _ => ?_) | (simp (maxDischargeDepth := 30) [*]; done) | exact ⟨h.mem, h.lifecycle, h.tstat, h.phase⟩ | (simp +contextual (maxDischargeDepth := 30) [*, inv_foldl]; done) | dsimp only | (with_reducible first | apply State.modCore_inv | apply State.setCtx_inv | apply State.modCtx_inv | apply State.setMe_inv | apply State.modMe_inv | apply State.modProc_inv | apply State.modEntry_inv | apply State.setEntry_inv | apply State.send_inv | apply State.modLaunch_inv | apply State.setLaunch_inv) | split

@[simp] theorem execRett_inv {s : State} (h : s.Inv) : Res.Inv (execRett s) := by
  unfold execRett
  repeat' first | assumption | (refine inv_foldl ?_ fun _ _ _ => ?_) | (simp (maxDischargeDepth := 30) [*]; done) | exact ⟨h.mem, h.lifecycle, h.tstat, h.phase⟩ | (simp +contextual (maxDischargeDepth := 30) [*, inv_foldl]; done) | dsimp only | (with_reducible first | apply State.modCore_inv | apply State.setCtx_inv | apply State.modCtx_inv | apply State.setMe_inv | apply State.modMe_inv | apply State.modProc_inv | apply State.modEntry_inv | apply State.setEntry_inv | apply State.send_inv | apply State.modLaunch_inv | apply State.setLaunch_inv) | split

@[simp] theorem execIllegalInstruction_inv (tid : ℕ) {s : State} (h : s.Inv) : Res.Inv (execIllegalInstruction tid s) := by
  unfold execIllegalInstruction
  repeat' first | assumption | (refine inv_foldl ?_ fun _ _ _ => ?_) | (simp (maxDischargeDepth := 30) [*]; done) | exact ⟨h.mem, h.lifecycle, h.tstat, h.phase⟩ | (simp +contextual (maxDischargeDepth := 30) [*, inv_foldl]; done) | dsimp only | (with_reducible first | apply State.modCore_inv | apply State.setCtx_inv | apply State.modCtx_inv | apply State.setMe_inv | apply State.modMe_inv | apply State.modProc_inv | apply State.modEntry_inv | apply State.setEntry_inv | apply State.send_inv | apply State.modLaunch_inv | apply State.setLaunch_inv) | split

@[simp] theorem execUnmappedFetch_inv (tid : ℕ) {s : State} (h : s.Inv) : Res.Inv (execUnmappedFetch tid s) := by
  unfold execUnmappedFetch
  repeat' first | assumption | (refine inv_foldl ?_ fun _ _ _ => ?_) | (simp (maxDischargeDepth := 30) [*]; done) | exact ⟨h.mem, h.lifecycle, h.tstat, h.phase⟩ | (simp +contextual (maxDischargeDepth := 30) [*, inv_foldl]; done) | dsimp only | (with_reducible first | apply State.modCore_inv | apply State.setCtx_inv | apply State.modCtx_inv | apply State.setMe_inv | apply State.modMe_inv | apply State.modProc_inv | apply State.modEntry_inv | apply State.setEntry_inv | apply State.send_inv | apply State.modLaunch_inv | apply State.setLaunch_inv) | split

@[simp] theorem State.beginIssue_inv {s : State} (pcn : ℕ) (slot : ℕ) (lent : Bool) (h : s.Inv) : (State.beginIssue s pcn slot lent).Inv := by
  unfold State.beginIssue
  repeat' first | assumption | (refine inv_foldl ?_ fun _ _ _ => ?_) | (simp (maxDischargeDepth := 30) [*]; done) | exact ⟨h.mem, h.lifecycle, h.tstat, h.phase⟩ | (simp +contextual (maxDischargeDepth := 30) [*, inv_foldl]; done) | dsimp only | (with_reducible first | apply State.modCore_inv | apply State.setCtx_inv | apply State.modCtx_inv | apply State.setMe_inv | apply State.modMe_inv | apply State.modProc_inv | apply State.modEntry_inv | apply State.setEntry_inv | apply State.send_inv | apply State.modLaunch_inv | apply State.setLaunch_inv) | split

@[simp] theorem State.endCycle_inv {s : State} (pcn : ℕ) (h : s.Inv) : (State.endCycle s pcn).Inv := by
  unfold State.endCycle
  repeat' first | assumption | (refine inv_foldl ?_ fun _ _ _ => ?_) | (simp (maxDischargeDepth := 30) [*]; done) | exact ⟨h.mem, h.lifecycle, h.tstat, h.phase⟩ | (simp +contextual (maxDischargeDepth := 30) [*, inv_foldl]; done) | dsimp only | (with_reducible first | apply State.modCore_inv | apply State.setCtx_inv | apply State.modCtx_inv | apply State.setMe_inv | apply State.modMe_inv | apply State.modProc_inv | apply State.modEntry_inv | apply State.setEntry_inv | apply State.send_inv | apply State.modLaunch_inv | apply State.setLaunch_inv) | split

end Sys2Proof.Machine
end

