-- ==== Sys2Proof/Laws/InvariantDevice.lean ====
section
/-!
SUPPORT. The operations of the machine keep its invariant (Safety.lean): Device.
-/

set_option Elab.async false
set_option linter.all false

namespace Sys2Proof.Machine

@[simp] theorem State.requestReplacement_inv {s : State} (h : s.Inv) : (State.requestReplacement s).Inv := by
  unfold State.requestReplacement
  repeat' first | assumption | (refine inv_foldl ?_ fun _ _ _ => ?_) | (simp (maxDischargeDepth := 30) [*]; done) | exact ⟨h.mem, h.lifecycle, h.tstat, h.phase⟩ | (simp +contextual (maxDischargeDepth := 30) [*, inv_foldl]; done) | dsimp only | (with_reducible first | apply State.modCore_inv | apply State.setCtx_inv | apply State.modCtx_inv | apply State.setMe_inv | apply State.modMe_inv | apply State.modProc_inv | apply State.modEntry_inv | apply State.setEntry_inv | apply State.send_inv | apply State.modLaunch_inv | apply State.setLaunch_inv) | split

@[simp] theorem State.retireCores_inv {s : State} (pcns : List ℕ) (h : s.Inv) : (State.retireCores s pcns).Inv := by
  unfold State.retireCores
  repeat' first | assumption | (refine inv_foldl ?_ fun _ _ _ => ?_) | (simp (maxDischargeDepth := 30) [*]; done) | exact ⟨h.mem, h.lifecycle, h.tstat, h.phase⟩ | (simp +contextual (maxDischargeDepth := 30) [*, inv_foldl]; done) | dsimp only | (with_reducible first | apply State.modCore_inv | apply State.setCtx_inv | apply State.modCtx_inv | apply State.setMe_inv | apply State.modMe_inv | apply State.modProc_inv | apply State.modEntry_inv | apply State.setEntry_inv | apply State.send_inv | apply State.modLaunch_inv | apply State.setLaunch_inv) | split

@[simp] theorem State.retireFrame_inv {s : State} (frame : ℕ) (h : s.Inv) : (State.retireFrame s frame).Inv := by
  unfold State.retireFrame
  repeat' first | assumption | (refine inv_foldl ?_ fun _ _ _ => ?_) | (simp (maxDischargeDepth := 30) [*]; done) | exact ⟨h.mem, h.lifecycle, h.tstat, h.phase⟩ | (simp +contextual (maxDischargeDepth := 30) [*, inv_foldl]; done) | dsimp only | (with_reducible first | apply State.modCore_inv | apply State.setCtx_inv | apply State.modCtx_inv | apply State.setMe_inv | apply State.modMe_inv | apply State.modProc_inv | apply State.modEntry_inv | apply State.setEntry_inv | apply State.send_inv | apply State.modLaunch_inv | apply State.setLaunch_inv) | split

@[simp] theorem State.installMap_inv {s : State} (map : List ℕ) (h : s.Inv) : (State.installMap s map).Inv := by
  unfold State.installMap
  repeat' first | assumption | (refine inv_foldl ?_ fun _ _ _ => ?_) | (simp (maxDischargeDepth := 30) [*]; done) | exact ⟨h.mem, h.lifecycle, h.tstat, h.phase⟩ | (simp +contextual (maxDischargeDepth := 30) [*, inv_foldl]; done) | dsimp only | (with_reducible first | apply State.modCore_inv | apply State.setCtx_inv | apply State.modCtx_inv | apply State.setMe_inv | apply State.modMe_inv | apply State.modProc_inv | apply State.modEntry_inv | apply State.setEntry_inv | apply State.send_inv | apply State.modLaunch_inv | apply State.setLaunch_inv) | split

@[simp] theorem State.refreshMap_inv {s : State} (h : s.Inv) : (State.refreshMap s).Inv := by
  unfold State.refreshMap
  repeat' first | assumption | (refine inv_foldl ?_ fun _ _ _ => ?_) | (simp (maxDischargeDepth := 30) [*]; done) | exact ⟨h.mem, h.lifecycle, h.tstat, h.phase⟩ | (simp +contextual (maxDischargeDepth := 30) [*, inv_foldl]; done) | dsimp only | (with_reducible first | apply State.modCore_inv | apply State.setCtx_inv | apply State.modCtx_inv | apply State.setMe_inv | apply State.modMe_inv | apply State.modProc_inv | apply State.modEntry_inv | apply State.setEntry_inv | apply State.send_inv | apply State.modLaunch_inv | apply State.setLaunch_inv) | split

@[simp] theorem State.startBare_inv {s : State} (tid : ℕ) (c : Ctx) (h : s.Inv) : (State.startBare s tid c).Inv := by
  unfold State.startBare
  repeat' first | assumption | (refine inv_foldl ?_ fun _ _ _ => ?_) | (simp (maxDischargeDepth := 30) [*]; done) | exact ⟨h.mem, h.lifecycle, h.tstat, h.phase⟩ | (simp +contextual (maxDischargeDepth := 30) [*, inv_foldl]; done) | dsimp only | (with_reducible first | apply State.modCore_inv | apply State.setCtx_inv | apply State.modCtx_inv | apply State.setMe_inv | apply State.modMe_inv | apply State.modProc_inv | apply State.modEntry_inv | apply State.setEntry_inv | apply State.send_inv | apply State.modLaunch_inv | apply State.setLaunch_inv) | split

@[simp] theorem State.startBoot_inv {s : State} (i : BootImage) (h : s.Inv) : (s.startBoot i).Inv := by
  unfold State.startBoot
  dsimp only
  have h0 : ∀ (l : List (Nat × Nat)) (t : State), t.Inv → (l.foldl (fun t r => t.passRole r.1) t).Inv :=
    fun l t ht => inv_foldl ht fun t r ht => State.passRole_inv _ ht
  generalize (parseTable i.table.bytes).power % 2 ^ 12 = w
  have h1 : State.Inv { s with
      config := parseTable i.table.bytes, pwrlim := w, bootMode := true, phase := 5
      phaseTime := s.now, supplied := none, running := none } :=
    ⟨h.mem, h.lifecycle, h.tstat, by simp [bootPhases]⟩
  revert h1
  generalize ({ s with
      config := parseTable i.table.bytes, pwrlim := w, bootMode := true, phase := 5
      phaseTime := s.now, supplied := none, running := none } : State) = s0
  intro h1
  have h2 := h0 ((parseTable i.table.bytes).roles.filter fun r => s0.isFused r.1) _ h1
  generalize List.foldl _ s0 _ = s1 at h2 ⊢
  refine inv_foldl (inv_foldl ⟨h2.mem, h2.lifecycle, h2.tstat, h2.phase⟩ fun t d ht => ?_) fun t r ht =>
    State.startImage_inv _ _ ht
  generalize t.bootCore? d = b
  cases b with
  | none => exact ht
  | some p => exact State.startImage_inv _ _ ht

@[simp] theorem execFirmwareVerify_inv (stageAt stageLen : ℕ) (firmware table : List Byte) (signatures : Signatures × Signatures) {s : State} (h : s.Inv) :
    Res.Inv (execFirmwareVerify stageAt stageLen firmware table signatures s) := by
  unfold execFirmwareVerify
  repeat' first | assumption | (refine inv_foldl ?_ fun _ _ _ => ?_) | (simp (maxDischargeDepth := 30) [*]; done) | exact ⟨h.mem, h.lifecycle, h.tstat, h.phase⟩ | (simp +contextual (maxDischargeDepth := 30) [*, inv_foldl]; done) | dsimp only | (with_reducible first | apply State.modCore_inv | apply State.setCtx_inv | apply State.modCtx_inv | apply State.setMe_inv | apply State.modMe_inv | apply State.modProc_inv | apply State.modEntry_inv | apply State.setEntry_inv | apply State.send_inv | apply State.modLaunch_inv | apply State.setLaunch_inv) | split

@[simp] theorem execOobImage_inv (stageAt stageLen : ℕ) (firmware table : List Byte) (signatures : Signatures × Signatures) {s : State} (h : s.Inv) :
    Res.Inv (execOobImage stageAt stageLen firmware table signatures s) := by
  unfold execOobImage
  repeat' first | assumption | (refine inv_foldl ?_ fun _ _ _ => ?_) | (simp (maxDischargeDepth := 30) [*]; done) | exact ⟨h.mem, h.lifecycle, h.tstat, h.phase⟩ | (simp +contextual (maxDischargeDepth := 30) [*, inv_foldl]; done) | dsimp only | (with_reducible first | apply State.modCore_inv | apply State.setCtx_inv | apply State.modCtx_inv | apply State.setMe_inv | apply State.modMe_inv | apply State.modProc_inv | apply State.modEntry_inv | apply State.setEntry_inv | apply State.send_inv | apply State.modLaunch_inv | apply State.setLaunch_inv) | split

theorem State.restart_inv {s : State} (lifecycle : Nat) (h : lifecycle ≤ 3) : (s.restart lifecycle).Inv :=
  ⟨rfl, h, Nat.zero_le 4, by simp [State.restart, State.reset, bootPhases]⟩

theorem lifecycleAllows_le {a b : Nat} (e : lifecycleAllows a b = true) : b ≤ 3 := by
  simp only [lifecycleAllows, Bool.or_eq_true, beq_iff_eq, Prod.mk.injEq] at e
  omega

@[simp] theorem execLifecycleCommand_inv (target : ℕ) (command : Signed) (keys : KeyHashes) {s : State} (h : s.Inv) :
    Res.Inv (execLifecycleCommand target command keys s) := by
  unfold execLifecycleCommand
  split
  · rename_i e
    simp only [Bool.and_eq_true] at e
    exact State.restart_inv _ (lifecycleAllows_le e.1.1.2)
  · exact h

@[simp] theorem execReset_inv {s : State} (h : s.Inv) : Res.Inv (execReset s) := State.restart_inv _ h.lifecycle

@[simp] theorem execWipeDone_inv (cores frames : List Nat) {s : State} (h : s.Inv) : Res.Inv (execWipeDone cores frames s) := by
  unfold execWipeDone
  split
  · exact h
  · refine inv_foldl (State.retireCores_inv _ ?_) fun t f ht => State.retireFrame_inv f ht
    exact ⟨rfl, h.lifecycle, h.tstat, by simp [bootPhases]⟩

@[simp] theorem execSelfCheck_inv (pcn : ℕ) (ok : ℕ) {s : State} (h : s.Inv) : Res.Inv (execSelfCheck pcn ok s) := by
  unfold execSelfCheck
  repeat' first | assumption | (refine inv_foldl ?_ fun _ _ _ => ?_) | (simp (maxDischargeDepth := 30) [*]; done) | exact ⟨h.mem, h.lifecycle, h.tstat, h.phase⟩ | (simp +contextual (maxDischargeDepth := 30) [*, inv_foldl]; done) | dsimp only | (with_reducible first | apply State.modCore_inv | apply State.setCtx_inv | apply State.modCtx_inv | apply State.setMe_inv | apply State.modMe_inv | apply State.modProc_inv | apply State.modEntry_inv | apply State.setEntry_inv | apply State.send_inv | apply State.modLaunch_inv | apply State.setLaunch_inv) | split

@[simp] theorem State.modBoot_inv {s : State} (pcn : ℕ) (f : BootPos → BootPos) (h : s.Inv) : (State.modBoot s pcn f).Inv := by
  unfold State.modBoot
  repeat' first | assumption | (refine inv_foldl ?_ fun _ _ _ => ?_) | (simp (maxDischargeDepth := 30) [*]; done) | exact ⟨h.mem, h.lifecycle, h.tstat, h.phase⟩ | (simp +contextual (maxDischargeDepth := 30) [*, inv_foldl]; done) | dsimp only | (with_reducible first | apply State.modCore_inv | apply State.setCtx_inv | apply State.modCtx_inv | apply State.setMe_inv | apply State.modMe_inv | apply State.modProc_inv | apply State.modEntry_inv | apply State.setEntry_inv | apply State.send_inv | apply State.modLaunch_inv | apply State.setLaunch_inv) | split

@[simp] theorem State.answerFlood_inv {s : State} (pcn : ℕ) (origin : ℕ) (h : s.Inv) : (State.answerFlood s pcn origin).Inv := by
  unfold State.answerFlood
  repeat' first | assumption | (refine inv_foldl ?_ fun _ _ _ => ?_) | (simp (maxDischargeDepth := 30) [*]; done) | exact ⟨h.mem, h.lifecycle, h.tstat, h.phase⟩ | (simp +contextual (maxDischargeDepth := 30) [*, inv_foldl]; done) | dsimp only | (with_reducible first | apply State.modCore_inv | apply State.setCtx_inv | apply State.modCtx_inv | apply State.setMe_inv | apply State.modMe_inv | apply State.modProc_inv | apply State.modEntry_inv | apply State.setEntry_inv | apply State.send_inv | apply State.modLaunch_inv | apply State.setLaunch_inv) | split

@[simp] theorem State.sendTinders_inv {s : State} (pcn : ℕ) (origin : ℕ) (h : s.Inv) : (State.sendTinders s pcn origin).Inv := by
  unfold State.sendTinders
  repeat' first | assumption | (refine inv_foldl ?_ fun _ _ _ => ?_) | (simp (maxDischargeDepth := 30) [*]; done) | exact ⟨h.mem, h.lifecycle, h.tstat, h.phase⟩ | (simp +contextual (maxDischargeDepth := 30) [*, inv_foldl]; done) | dsimp only | (with_reducible first | apply State.modCore_inv | apply State.setCtx_inv | apply State.modCtx_inv | apply State.setMe_inv | apply State.modMe_inv | apply State.modProc_inv | apply State.modEntry_inv | apply State.setEntry_inv | apply State.send_inv | apply State.modLaunch_inv | apply State.setLaunch_inv) | split

@[simp] theorem State.writeTinder_inv {s : State} (pcn : ℕ) (v : ℕ) (h : s.Inv) : (State.writeTinder s pcn v).Inv := by
  unfold State.writeTinder
  repeat' first | assumption | (refine inv_foldl ?_ fun _ _ _ => ?_) | (simp (maxDischargeDepth := 30) [*]; done) | exact ⟨h.mem, h.lifecycle, h.tstat, h.phase⟩ | (simp +contextual (maxDischargeDepth := 30) [*, inv_foldl]; done) | dsimp only | (with_reducible first | apply State.modCore_inv | apply State.setCtx_inv | apply State.modCtx_inv | apply State.setMe_inv | apply State.modMe_inv | apply State.modProc_inv | apply State.modEntry_inv | apply State.setEntry_inv | apply State.send_inv | apply State.modLaunch_inv | apply State.setLaunch_inv) | split

@[simp] theorem State.takeTinder_inv {s : State} (pcn : ℕ) (src : ℕ) (origin : ℕ) (x4 : ℕ) (y : ℕ) (hops : ℕ) (port : ℕ) (h : s.Inv) : (State.takeTinder s pcn src origin x4 y hops port).Inv := by
  unfold State.takeTinder
  repeat' first | assumption | (refine inv_foldl ?_ fun _ _ _ => ?_) | (simp (maxDischargeDepth := 30) [*]; done) | exact ⟨h.mem, h.lifecycle, h.tstat, h.phase⟩ | (simp +contextual (maxDischargeDepth := 30) [*, inv_foldl]; done) | dsimp only | (with_reducible first | apply State.modCore_inv | apply State.setCtx_inv | apply State.modCtx_inv | apply State.setMe_inv | apply State.modMe_inv | apply State.modProc_inv | apply State.modEntry_inv | apply State.setEntry_inv | apply State.send_inv | apply State.modLaunch_inv | apply State.setLaunch_inv) | split

@[simp] theorem State.takeFloodAnswer_inv {s : State} (pcn : ℕ) (origin : ℕ) (count : ℕ) (h : s.Inv) : (State.takeFloodAnswer s pcn origin count).Inv := by
  unfold State.takeFloodAnswer
  repeat' first | assumption | (refine inv_foldl ?_ fun _ _ _ => ?_) | (simp (maxDischargeDepth := 30) [*]; done) | exact ⟨h.mem, h.lifecycle, h.tstat, h.phase⟩ | (simp +contextual (maxDischargeDepth := 30) [*, inv_foldl]; done) | dsimp only | (with_reducible first | apply State.modCore_inv | apply State.setCtx_inv | apply State.modCtx_inv | apply State.setMe_inv | apply State.modMe_inv | apply State.modProc_inv | apply State.modEntry_inv | apply State.setEntry_inv | apply State.send_inv | apply State.modLaunch_inv | apply State.setLaunch_inv) | split

@[simp] theorem execTinderGo_inv (pcn : ℕ) (v : ℕ) {s : State} (h : s.Inv) : Res.Inv (execTinderGo pcn v s) := by
  unfold execTinderGo
  repeat' first | assumption | (refine inv_foldl ?_ fun _ _ _ => ?_) | (simp (maxDischargeDepth := 30) [*]; done) | exact ⟨h.mem, h.lifecycle, h.tstat, h.phase⟩ | (simp +contextual (maxDischargeDepth := 30) [*, inv_foldl]; done) | dsimp only | (with_reducible first | apply State.modCore_inv | apply State.setCtx_inv | apply State.modCtx_inv | apply State.setMe_inv | apply State.modMe_inv | apply State.modProc_inv | apply State.modEntry_inv | apply State.setEntry_inv | apply State.send_inv | apply State.modLaunch_inv | apply State.setLaunch_inv) | split

@[simp] theorem execTinder_inv (n : ℕ) {s : State} (h : s.Inv) : Res.Inv (execTinder n s) := by
  unfold execTinder
  split <;> (try have h2 := State.arrive_inv h ‹_›) <;> repeat' first | assumption | (refine inv_foldl ?_ fun _ _ _ => ?_) | (simp (maxDischargeDepth := 30) [*]; done) | exact ⟨h.mem, h.lifecycle, h.tstat, h.phase⟩ | (simp +contextual (maxDischargeDepth := 30) [*, inv_foldl]; done) | dsimp only | (with_reducible first | apply State.modCore_inv | apply State.setCtx_inv | apply State.modCtx_inv | apply State.setMe_inv | apply State.modMe_inv | apply State.modProc_inv | apply State.modEntry_inv | apply State.setEntry_inv | apply State.send_inv | apply State.modLaunch_inv | apply State.setLaunch_inv) | split

@[simp] theorem execTinderRefuse_inv (n : ℕ) {s : State} (h : s.Inv) : Res.Inv (execTinderRefuse n s) := by
  unfold execTinderRefuse
  split <;> (try have h2 := State.arrive_inv h ‹_›) <;> repeat' first | assumption | (refine inv_foldl ?_ fun _ _ _ => ?_) | (simp (maxDischargeDepth := 30) [*]; done) | exact ⟨h.mem, h.lifecycle, h.tstat, h.phase⟩ | (simp +contextual (maxDischargeDepth := 30) [*, inv_foldl]; done) | dsimp only | (with_reducible first | apply State.modCore_inv | apply State.setCtx_inv | apply State.modCtx_inv | apply State.setMe_inv | apply State.modMe_inv | apply State.modProc_inv | apply State.modEntry_inv | apply State.setEntry_inv | apply State.send_inv | apply State.modLaunch_inv | apply State.setLaunch_inv) | split

@[simp] theorem execTinderDone_inv (n : ℕ) {s : State} (h : s.Inv) : Res.Inv (execTinderDone n s) := by
  unfold execTinderDone
  split <;> (try have h2 := State.arrive_inv h ‹_›) <;> repeat' first | assumption | (refine inv_foldl ?_ fun _ _ _ => ?_) | (simp (maxDischargeDepth := 30) [*]; done) | exact ⟨h.mem, h.lifecycle, h.tstat, h.phase⟩ | (simp +contextual (maxDischargeDepth := 30) [*, inv_foldl]; done) | dsimp only | (with_reducible first | apply State.modCore_inv | apply State.setCtx_inv | apply State.modCtx_inv | apply State.setMe_inv | apply State.modMe_inv | apply State.modProc_inv | apply State.modEntry_inv | apply State.setEntry_inv | apply State.send_inv | apply State.modLaunch_inv | apply State.setLaunch_inv) | split

@[simp] theorem execSelfCheckEnd_inv (pcn : ℕ) (ok : ℕ) {s : State} (h : s.Inv) : Res.Inv (execSelfCheckEnd pcn ok s) := by
  unfold execSelfCheckEnd
  repeat' first | assumption | (refine inv_foldl ?_ fun _ _ _ => ?_) | (simp (maxDischargeDepth := 30) [*]; done) | exact ⟨h.mem, h.lifecycle, h.tstat, h.phase⟩ | (simp +contextual (maxDischargeDepth := 30) [*, inv_foldl]; done) | dsimp only | (with_reducible first | apply State.modCore_inv | apply State.setCtx_inv | apply State.modCtx_inv | apply State.setMe_inv | apply State.modMe_inv | apply State.modProc_inv | apply State.modEntry_inv | apply State.setEntry_inv | apply State.send_inv | apply State.modLaunch_inv | apply State.setLaunch_inv) | split

@[simp] theorem State.countCtlerr_inv {s : State} (pcn : ℕ) (h : s.Inv) : (State.countCtlerr s pcn).Inv := by
  unfold State.countCtlerr
  repeat' first | assumption | (refine inv_foldl ?_ fun _ _ _ => ?_) | (simp (maxDischargeDepth := 30) [*]; done) | exact ⟨h.mem, h.lifecycle, h.tstat, h.phase⟩ | (simp +contextual (maxDischargeDepth := 30) [*, inv_foldl]; done) | dsimp only | (with_reducible first | apply State.modCore_inv | apply State.setCtx_inv | apply State.modCtx_inv | apply State.setMe_inv | apply State.modMe_inv | apply State.modProc_inv | apply State.modEntry_inv | apply State.setEntry_inv | apply State.send_inv | apply State.modLaunch_inv | apply State.setLaunch_inv) | split

@[simp] theorem State.writeSlotgo_inv {s : State} (pcn : ℕ) (v : ℕ) (h : s.Inv) : (State.writeSlotgo s pcn v).Inv := by
  unfold State.writeSlotgo
  repeat' first | assumption | (refine inv_foldl ?_ fun _ _ _ => ?_) | (simp (maxDischargeDepth := 30) [*]; done) | exact ⟨h.mem, h.lifecycle, h.tstat, h.phase⟩ | (simp +contextual (maxDischargeDepth := 30) [*, inv_foldl]; done) | dsimp only | (with_reducible first | apply State.modCore_inv | apply State.setCtx_inv | apply State.modCtx_inv | apply State.setMe_inv | apply State.modMe_inv | apply State.modProc_inv | apply State.modEntry_inv | apply State.setEntry_inv | apply State.send_inv | apply State.modLaunch_inv | apply State.setLaunch_inv) | split

@[simp] theorem State.endBoot_inv {s : State} (h : s.Inv) : s.endBoot.Inv := by
  unfold State.endBoot
  dsimp only
  exact State.installMap_inv _ (State.retireCores_inv _ ⟨memFilter_wf _ h.mem, h.lifecycle, h.tstat, by simp [bootPhases]⟩)

@[simp] theorem State.writeBootctl_inv {s : State} (v : Nat) (h : s.Inv) : (s.writeBootctl v).Inv := by
  unfold State.writeBootctl
  dsimp only
  generalize (_ && _ && _ && _ : Bool) = c
  cases c
  · exact h
  · exact State.endBoot_inv h

@[simp] theorem execSlotgo_inv (pcn : ℕ) (v : ℕ) {s : State} (h : s.Inv) : Res.Inv (execSlotgo pcn v s) := by
  unfold execSlotgo
  repeat' first | assumption | (refine inv_foldl ?_ fun _ _ _ => ?_) | (simp (maxDischargeDepth := 30) [*]; done) | exact ⟨h.mem, h.lifecycle, h.tstat, h.phase⟩ | (simp +contextual (maxDischargeDepth := 30) [*, inv_foldl]; done) | dsimp only | (with_reducible first | apply State.modCore_inv | apply State.setCtx_inv | apply State.modCtx_inv | apply State.setMe_inv | apply State.modMe_inv | apply State.modProc_inv | apply State.modEntry_inv | apply State.setEntry_inv | apply State.send_inv | apply State.modLaunch_inv | apply State.setLaunch_inv) | split

@[simp] theorem execBootctlEnd_inv (v : ℕ) {s : State} (h : s.Inv) : Res.Inv (execBootctlEnd v s) := by
  unfold execBootctlEnd
  repeat' first | assumption | (refine inv_foldl ?_ fun _ _ _ => ?_) | (simp (maxDischargeDepth := 30) [*]; done) | exact ⟨h.mem, h.lifecycle, h.tstat, h.phase⟩ | (simp +contextual (maxDischargeDepth := 30) [*, inv_foldl]; done) | dsimp only | (with_reducible first | apply State.modCore_inv | apply State.setCtx_inv | apply State.modCtx_inv | apply State.setMe_inv | apply State.modMe_inv | apply State.modProc_inv | apply State.modEntry_inv | apply State.setEntry_inv | apply State.send_inv | apply State.modLaunch_inv | apply State.setLaunch_inv) | split

@[simp] theorem execBootTimeout_inv (die : ℕ) {s : State} (h : s.Inv) : Res.Inv (execBootTimeout die s) := by
  unfold execBootTimeout
  repeat' first | assumption | (refine inv_foldl ?_ fun _ _ _ => ?_) | (simp (maxDischargeDepth := 30) [*]; done) | exact ⟨h.mem, h.lifecycle, h.tstat, h.phase⟩ | (simp +contextual (maxDischargeDepth := 30) [*, inv_foldl]; done) | dsimp only | (with_reducible first | apply State.modCore_inv | apply State.setCtx_inv | apply State.modCtx_inv | apply State.setMe_inv | apply State.modMe_inv | apply State.modProc_inv | apply State.modEntry_inv | apply State.setEntry_inv | apply State.send_inv | apply State.modLaunch_inv | apply State.setLaunch_inv) | split

@[simp] theorem State.readImage_inv {s : State} (tid off : Nat) (h : s.Inv) : (s.readImage tid off).2.Inv := by
  unfold State.readImage
  split
  · exact h
  · exact State.countCtlerr_inv _ h

@[simp] theorem State.writeImage_inv {s : State} (tid : ℕ) (off : ℕ) (v : Word) (h : s.Inv) : (State.writeImage s tid off v).Inv := by
  unfold State.writeImage
  repeat' first | assumption | (refine inv_foldl ?_ fun _ _ _ => ?_) | (simp (maxDischargeDepth := 30) [*]; done) | exact ⟨h.mem, h.lifecycle, h.tstat, h.phase⟩ | (simp +contextual (maxDischargeDepth := 30) [*, inv_foldl]; done) | dsimp only | (with_reducible first | apply State.modCore_inv | apply State.setCtx_inv | apply State.modCtx_inv | apply State.setMe_inv | apply State.modMe_inv | apply State.modProc_inv | apply State.modEntry_inv | apply State.setEntry_inv | apply State.send_inv | apply State.modLaunch_inv | apply State.setLaunch_inv) | split

@[simp] theorem execContextImageRead_inv (tid : ℕ) (off : ℕ) {s : State} (h : s.Inv) : Res.Inv (execContextImageRead tid off s) := by
  unfold execContextImageRead
  repeat' first | assumption | (refine inv_foldl ?_ fun _ _ _ => ?_) | (simp (maxDischargeDepth := 30) [*]; done) | exact ⟨h.mem, h.lifecycle, h.tstat, h.phase⟩ | (simp +contextual (maxDischargeDepth := 30) [*, inv_foldl]; done) | dsimp only | (with_reducible first | apply State.modCore_inv | apply State.setCtx_inv | apply State.modCtx_inv | apply State.setMe_inv | apply State.modMe_inv | apply State.modProc_inv | apply State.modEntry_inv | apply State.setEntry_inv | apply State.send_inv | apply State.modLaunch_inv | apply State.setLaunch_inv) | split

@[simp] theorem execContextImageWrite_inv (tid : ℕ) (off : ℕ) (v : ℕ) {s : State} (h : s.Inv) : Res.Inv (execContextImageWrite tid off v s) := by
  unfold execContextImageWrite
  repeat' first | assumption | (refine inv_foldl ?_ fun _ _ _ => ?_) | (simp (maxDischargeDepth := 30) [*]; done) | exact ⟨h.mem, h.lifecycle, h.tstat, h.phase⟩ | (simp +contextual (maxDischargeDepth := 30) [*, inv_foldl]; done) | dsimp only | (with_reducible first | apply State.modCore_inv | apply State.setCtx_inv | apply State.modCtx_inv | apply State.setMe_inv | apply State.modMe_inv | apply State.modProc_inv | apply State.modEntry_inv | apply State.setEntry_inv | apply State.send_inv | apply State.modLaunch_inv | apply State.setLaunch_inv) | split

@[simp] theorem State.readControl_inv {s : State} (a : Nat) (h : s.Inv) : (s.readControl a).2.Inv := by
  unfold State.readControl
  dsimp only
  repeat' first
    | exact h
    | exact State.readImage_inv _ _ h
    | exact ⟨h.mem, h.lifecycle, h.tstat, h.phase⟩
    | split

@[simp] theorem State.writeFwctl_inv {s : State} (pcn v : Nat) (h : s.Inv) : (s.writeFwctl pcn v).Inv := by
  unfold State.writeFwctl
  generalize BitVec.getLsbD _ _ = c
  split
  · exact h
  · exact State.modCore_inv _ _ h

@[simp] theorem State.writePwrlim_inv {s : State} (v : ℕ) (h : s.Inv) : (State.writePwrlim s v).Inv := by
  unfold State.writePwrlim
  repeat' first | assumption | (refine inv_foldl ?_ fun _ _ _ => ?_) | (simp (maxDischargeDepth := 30) [*]; done) | exact ⟨h.mem, h.lifecycle, h.tstat, h.phase⟩ | (simp +contextual (maxDischargeDepth := 30) [*, inv_foldl]; done) | dsimp only | (with_reducible first | apply State.modCore_inv | apply State.setCtx_inv | apply State.modCtx_inv | apply State.setMe_inv | apply State.modMe_inv | apply State.modProc_inv | apply State.modEntry_inv | apply State.setEntry_inv | apply State.send_inv | apply State.modLaunch_inv | apply State.setLaunch_inv) | split

@[simp] theorem State.writeCounters_inv {s : State} (pcn : ℕ) (off : ℕ) (v : ℕ) (h : s.Inv) : (State.writeCounters s pcn off v).Inv := by
  unfold State.writeCounters
  repeat' first | assumption | (refine inv_foldl ?_ fun _ _ _ => ?_) | (simp (maxDischargeDepth := 30) [*]; done) | exact ⟨h.mem, h.lifecycle, h.tstat, h.phase⟩ | (simp +contextual (maxDischargeDepth := 30) [*, inv_foldl]; done) | dsimp only | (with_reducible first | apply State.modCore_inv | apply State.setCtx_inv | apply State.modCtx_inv | apply State.setMe_inv | apply State.modMe_inv | apply State.modProc_inv | apply State.modEntry_inv | apply State.setEntry_inv | apply State.send_inv | apply State.modLaunch_inv | apply State.setLaunch_inv) | split

@[simp] theorem State.writePeer_inv {s : State} (i : ℕ) (off : ℕ) (v : ℕ) (h : s.Inv) : (State.writePeer s i off v).Inv := by
  unfold State.writePeer
  repeat' first | assumption | (refine inv_foldl ?_ fun _ _ _ => ?_) | (simp (maxDischargeDepth := 30) [*]; done) | exact ⟨h.mem, h.lifecycle, h.tstat, h.phase⟩ | (simp +contextual (maxDischargeDepth := 30) [*, inv_foldl]; done) | dsimp only | (with_reducible first | apply State.modCore_inv | apply State.setCtx_inv | apply State.modCtx_inv | apply State.setMe_inv | apply State.modMe_inv | apply State.modProc_inv | apply State.modEntry_inv | apply State.setEntry_inv | apply State.send_inv | apply State.modLaunch_inv | apply State.setLaunch_inv) | split

@[simp] theorem State.writeDevice_inv {s : State} (off : ℕ) (v : ℕ) (h : s.Inv) : (State.writeDevice s off v).Inv := by
  unfold State.writeDevice
  repeat' first | assumption | (refine inv_foldl ?_ fun _ _ _ => ?_) | (simp (maxDischargeDepth := 30) [*]; done) | exact ⟨h.mem, h.lifecycle, h.tstat, h.phase⟩ | (simp +contextual (maxDischargeDepth := 30) [*, inv_foldl]; done) | dsimp only | (with_reducible first | apply State.modCore_inv | apply State.setCtx_inv | apply State.modCtx_inv | apply State.setMe_inv | apply State.modMe_inv | apply State.modProc_inv | apply State.modEntry_inv | apply State.setEntry_inv | apply State.send_inv | apply State.modLaunch_inv | apply State.setLaunch_inv) | split

@[simp] theorem State.writeControl_inv {s : State} (a v : Nat) (h : s.Inv) : (s.writeControl a v).Inv := by
  unfold State.writeControl
  dsimp only
  split
  · generalize a - 0x408000000 = off
    split
    · exact State.writePwrlim_inv _ h
    · exact State.writeBootctl_inv _ h
    · exact State.writeDevice_inv _ _ h
  · split
    · exact State.writeImage_inv _ _ _ h
    · generalize a % 2 ^ 15 = off
      split
      · exact State.writeFwctl_inv _ _ h
      · exact State.writeTcinvRoot_inv _ _ h
      · exact State.writeTcinvPage_inv _ _ h
      · exact State.writeFreply_inv _ _ h
      · exact State.writeFqhead_inv _ _ h
      · exact State.writeTinder_inv _ _ h
      · exact State.writeSlotgo_inv _ _ h
      · exact State.writeCounters_inv _ _ _ h

@[simp] theorem execFwctlWrite_inv (pcn : ℕ) (v : ℕ) {s : State} (h : s.Inv) : Res.Inv (execFwctlWrite pcn v s) := by
  unfold execFwctlWrite
  repeat' first | assumption | (refine inv_foldl ?_ fun _ _ _ => ?_) | (simp (maxDischargeDepth := 30) [*]; done) | exact ⟨h.mem, h.lifecycle, h.tstat, h.phase⟩ | (simp +contextual (maxDischargeDepth := 30) [*, inv_foldl]; done) | dsimp only | (with_reducible first | apply State.modCore_inv | apply State.setCtx_inv | apply State.modCtx_inv | apply State.setMe_inv | apply State.modMe_inv | apply State.modProc_inv | apply State.modEntry_inv | apply State.setEntry_inv | apply State.send_inv | apply State.modLaunch_inv | apply State.setLaunch_inv) | split

@[simp] theorem execPwrlimWrite_inv (v : ℕ) {s : State} (h : s.Inv) : Res.Inv (execPwrlimWrite v s) := by
  unfold execPwrlimWrite
  repeat' first | assumption | (refine inv_foldl ?_ fun _ _ _ => ?_) | (simp (maxDischargeDepth := 30) [*]; done) | exact ⟨h.mem, h.lifecycle, h.tstat, h.phase⟩ | (simp +contextual (maxDischargeDepth := 30) [*, inv_foldl]; done) | dsimp only | (with_reducible first | apply State.modCore_inv | apply State.setCtx_inv | apply State.modCtx_inv | apply State.setMe_inv | apply State.modMe_inv | apply State.modProc_inv | apply State.modEntry_inv | apply State.setEntry_inv | apply State.send_inv | apply State.modLaunch_inv | apply State.setLaunch_inv) | split

@[simp] theorem execControlRegisterWrite_inv (addr v : Nat) {s : State} (h : s.Inv) :
    Res.Inv (execControlRegisterWrite addr v s) := by
  unfold execControlRegisterWrite
  generalize regbaseName = m
  generalize 2 ^ 64 = k
  split
  · exact ⟨h.mem, h.lifecycle, h.tstat, h.phase⟩
  · split
    · exact h
    · split
      · exact State.writeDevice_inv _ _ h
      · exact State.writeCounters_inv _ _ _ h

@[simp] theorem State.applyPart_inv {s : State} (tid : ℕ) (kind : AccessKind) (p : Part) (h : s.Inv) : (State.applyPart s tid kind p).Inv := by
  unfold State.applyPart
  repeat' first | assumption | (refine inv_foldl ?_ fun _ _ _ => ?_) | (simp (maxDischargeDepth := 30) [*]; done) | exact ⟨h.mem, h.lifecycle, h.tstat, h.phase⟩ | (simp +contextual (maxDischargeDepth := 30) [*, inv_foldl]; done) | dsimp only | (with_reducible first | apply State.modCore_inv | apply State.setCtx_inv | apply State.modCtx_inv | apply State.setMe_inv | apply State.modMe_inv | apply State.modProc_inv | apply State.modEntry_inv | apply State.setEntry_inv | apply State.send_inv | apply State.modLaunch_inv | apply State.setLaunch_inv) | split

@[simp] theorem State.countCorrected_inv {s : State} (key : ℕ) (h : s.Inv) : (State.countCorrected s key).Inv := by
  unfold State.countCorrected
  repeat' first | assumption | (refine inv_foldl ?_ fun _ _ _ => ?_) | (simp (maxDischargeDepth := 30) [*]; done) | exact ⟨h.mem, h.lifecycle, h.tstat, h.phase⟩ | (simp +contextual (maxDischargeDepth := 30) [*, inv_foldl]; done) | dsimp only | (with_reducible first | apply State.modCore_inv | apply State.setCtx_inv | apply State.modCtx_inv | apply State.setMe_inv | apply State.modMe_inv | apply State.modProc_inv | apply State.modEntry_inv | apply State.setEntry_inv | apply State.send_inv | apply State.modLaunch_inv | apply State.setLaunch_inv) | split

@[simp] theorem State.completeAccess_inv {s : State} (tid : ℕ) (acc : Access) (h : s.Inv) : (State.completeAccess s tid acc).Inv := by
  unfold State.completeAccess
  repeat' first | assumption | (refine inv_foldl ?_ fun _ _ _ => ?_) | (simp (maxDischargeDepth := 30) [*]; done) | exact ⟨h.mem, h.lifecycle, h.tstat, h.phase⟩ | (simp +contextual (maxDischargeDepth := 30) [*, inv_foldl]; done) | dsimp only | (with_reducible first | apply State.modCore_inv | apply State.setCtx_inv | apply State.modCtx_inv | apply State.setMe_inv | apply State.modMe_inv | apply State.modProc_inv | apply State.modEntry_inv | apply State.setEntry_inv | apply State.send_inv | apply State.modLaunch_inv | apply State.setLaunch_inv) | split

@[simp] theorem State.performEntry_inv {s : State} (tid : ℕ) (acc : Access) (k : ℕ) (p : Part) (h : s.Inv) : (State.performEntry s tid acc k p).Inv := by
  unfold State.performEntry
  repeat' first | assumption | (refine inv_foldl ?_ fun _ _ _ => ?_) | (simp (maxDischargeDepth := 30) [*]; done) | exact ⟨h.mem, h.lifecycle, h.tstat, h.phase⟩ | (simp +contextual (maxDischargeDepth := 30) [*, inv_foldl]; done) | dsimp only | (with_reducible first | apply State.modCore_inv | apply State.setCtx_inv | apply State.modCtx_inv | apply State.setMe_inv | apply State.modMe_inv | apply State.modProc_inv | apply State.modEntry_inv | apply State.setEntry_inv | apply State.send_inv | apply State.modLaunch_inv | apply State.setLaunch_inv) | split

@[simp] theorem State.performHead_inv {s : State} (bank : ℕ) (ecc : Bool) (h : s.Inv) : (s.performHead bank ecc).Inv := by
  unfold State.performHead
  dsimp only
  split
  · exact h
  · split
    · split
      · rename_i e
        have h1 := State.performLine_inv _ _ _ _ _ (State.setBank_inv _ _ h) _ e
        split
        · exact State.countCorrected_inv _ h1
        · exact h1
      · exact h
    · split
      · exact State.setBank_inv _ _ h
      · split
        · have h1 := fun tid acc k p => State.performEntry_inv tid acc k p h
          split
          · exact State.countCorrected_inv _ (h1 _ _ _ _)
          · exact h1 _ _ _ _
        · exact h

@[simp] theorem State.correctElsewhere_inv {s : State} (pcn : ℕ) (h : s.Inv) : (State.correctElsewhere s pcn).Inv := by
  unfold State.correctElsewhere
  repeat' first | assumption | (refine inv_foldl ?_ fun _ _ _ => ?_) | (simp (maxDischargeDepth := 30) [*]; done) | exact ⟨h.mem, h.lifecycle, h.tstat, h.phase⟩ | (simp +contextual (maxDischargeDepth := 30) [*, inv_foldl]; done) | dsimp only | (with_reducible first | apply State.modCore_inv | apply State.setCtx_inv | apply State.modCtx_inv | apply State.setMe_inv | apply State.modMe_inv | apply State.modProc_inv | apply State.modEntry_inv | apply State.setEntry_inv | apply State.send_inv | apply State.modLaunch_inv | apply State.setLaunch_inv) | split

@[simp] theorem execAccessPerform_inv (bank : ℕ) (ecc : ℕ) {s : State} (h : s.Inv) : Res.Inv (execAccessPerform bank ecc s) := by
  unfold execAccessPerform
  repeat' first | assumption | (refine inv_foldl ?_ fun _ _ _ => ?_) | (simp (maxDischargeDepth := 30) [*]; done) | exact ⟨h.mem, h.lifecycle, h.tstat, h.phase⟩ | (simp +contextual (maxDischargeDepth := 30) [*, inv_foldl]; done) | dsimp only | (with_reducible first | apply State.modCore_inv | apply State.setCtx_inv | apply State.modCtx_inv | apply State.setMe_inv | apply State.modMe_inv | apply State.modProc_inv | apply State.modEntry_inv | apply State.setEntry_inv | apply State.send_inv | apply State.modLaunch_inv | apply State.setLaunch_inv) | split

@[simp] theorem State.askPage_inv {s : State} (region : ℕ) (root : ℕ) (va : ℕ) (write : Bool) (h : s.Inv) : (State.askPage s region root va write).Inv := by
  unfold State.askPage
  repeat' first | assumption | (refine inv_foldl ?_ fun _ _ _ => ?_) | (simp (maxDischargeDepth := 30) [*]; done) | exact ⟨h.mem, h.lifecycle, h.tstat, h.phase⟩ | (simp +contextual (maxDischargeDepth := 30) [*, inv_foldl]; done) | dsimp only | (with_reducible first | apply State.modCore_inv | apply State.setCtx_inv | apply State.modCtx_inv | apply State.setMe_inv | apply State.modMe_inv | apply State.modProc_inv | apply State.modEntry_inv | apply State.setEntry_inv | apply State.send_inv | apply State.modLaunch_inv | apply State.setLaunch_inv) | split

@[simp] theorem State.frontPages_inv {s : State} (region : ℕ) (ps : List (ℕ × Bool)) (h : s.Inv) :
    (s.frontPages region ps).2.Inv := by
  induction ps with
  | nil => exact h
  | cons p ps ih =>
    unfold State.frontPages
    dsimp only
    split
    · exact ih
    · exact h
    · split
      · exact ⟨h.mem, h.lifecycle, h.tstat, h.phase⟩
      · exact State.askPage_inv _ _ _ _ h

theorem State.frontPages_inv' {s t : State} {region : ℕ} {ps : List (ℕ × Bool)} {r : FrontPages} (h : s.Inv)
    (e : s.frontPages region ps = (r, t)) : t.Inv := by
  have := State.frontPages_inv region ps h
  rwa [e] at this

theorem State.admit_inv {s : State} {l : Launch} {p : Launch × State} (h : s.Inv) (e : s.admission? l = some p) : p.2.Inv := by
  unfold State.admission? at e
  split at e
  · split at e
    · simp only [Option.some.injEq] at e; exact e ▸ h
    · simp only [Option.map_eq_some_iff] at e
      obtain ⟨st, _, e2⟩ := e
      subst e2
      exact ⟨h.mem, h.lifecycle, h.tstat, h.phase⟩
  · simp only [Option.some.injEq] at e; exact e ▸ h

@[simp] theorem State.dropWindows_inv {s : State} (keys : List ℕ) (h : s.Inv) : (State.dropWindows s keys).Inv := by
  unfold State.dropWindows
  repeat' first | assumption | (refine inv_foldl ?_ fun _ _ _ => ?_) | (simp (maxDischargeDepth := 30) [*]; done) | exact ⟨h.mem, h.lifecycle, h.tstat, h.phase⟩ | (simp +contextual (maxDischargeDepth := 30) [*, inv_foldl]; done) | dsimp only | (with_reducible first | apply State.modCore_inv | apply State.setCtx_inv | apply State.modCtx_inv | apply State.setMe_inv | apply State.modMe_inv | apply State.modProc_inv | apply State.modEntry_inv | apply State.setEntry_inv | apply State.send_inv | apply State.modLaunch_inv | apply State.setLaunch_inv) | split

@[simp] theorem State.writeRecordAt_inv {s : State} (region : ℕ) (va : ℕ) (bs : List Byte) (h : s.Inv) : (State.writeRecordAt s region va bs).Inv := by
  unfold State.writeRecordAt
  repeat' first | assumption | (refine inv_foldl ?_ fun _ _ _ => ?_) | (simp (maxDischargeDepth := 30) [*]; done) | exact ⟨h.mem, h.lifecycle, h.tstat, h.phase⟩ | (simp +contextual (maxDischargeDepth := 30) [*, inv_foldl]; done) | dsimp only | (with_reducible first | apply State.modCore_inv | apply State.setCtx_inv | apply State.modCtx_inv | apply State.setMe_inv | apply State.modMe_inv | apply State.modProc_inv | apply State.modEntry_inv | apply State.setEntry_inv | apply State.send_inv | apply State.modLaunch_inv | apply State.setLaunch_inv) | split

@[simp] theorem State.pinRecord_inv {s : State} (region : ℕ) (seq : ℕ) (va : ℕ) (h : s.Inv) : (State.pinRecord s region seq va).Inv := by
  unfold State.pinRecord
  repeat' first | assumption | (refine inv_foldl ?_ fun _ _ _ => ?_) | (simp (maxDischargeDepth := 30) [*]; done) | exact ⟨h.mem, h.lifecycle, h.tstat, h.phase⟩ | (simp +contextual (maxDischargeDepth := 30) [*, inv_foldl]; done) | dsimp only | (with_reducible first | apply State.modCore_inv | apply State.setCtx_inv | apply State.modCtx_inv | apply State.setMe_inv | apply State.modMe_inv | apply State.modProc_inv | apply State.modEntry_inv | apply State.setEntry_inv | apply State.send_inv | apply State.modLaunch_inv | apply State.setLaunch_inv) | split

@[simp] theorem State.unpinRecords_inv {s : State} (keys : List ℕ) (h : s.Inv) : (State.unpinRecords s keys).Inv := by
  unfold State.unpinRecords
  repeat' first | assumption | (refine inv_foldl ?_ fun _ _ _ => ?_) | (simp (maxDischargeDepth := 30) [*]; done) | exact ⟨h.mem, h.lifecycle, h.tstat, h.phase⟩ | (simp +contextual (maxDischargeDepth := 30) [*, inv_foldl]; done) | dsimp only | (with_reducible first | apply State.modCore_inv | apply State.setCtx_inv | apply State.modCtx_inv | apply State.setMe_inv | apply State.modMe_inv | apply State.modProc_inv | apply State.modEntry_inv | apply State.setEntry_inv | apply State.send_inv | apply State.modLaunch_inv | apply State.setLaunch_inv) | split

@[simp] theorem State.writeRefusal_inv {s : State} (region : ℕ) (seq : ℕ) (va : ℕ) (reason : ℕ) (index : ℕ) (h : s.Inv) : (State.writeRefusal s region seq va reason index).Inv := by
  unfold State.writeRefusal
  repeat' first | assumption | (refine inv_foldl ?_ fun _ _ _ => ?_) | (simp (maxDischargeDepth := 30) [*]; done) | exact ⟨h.mem, h.lifecycle, h.tstat, h.phase⟩ | (simp +contextual (maxDischargeDepth := 30) [*, inv_foldl]; done) | dsimp only | (with_reducible first | apply State.modCore_inv | apply State.setCtx_inv | apply State.modCtx_inv | apply State.setMe_inv | apply State.modMe_inv | apply State.modProc_inv | apply State.modEntry_inv | apply State.setEntry_inv | apply State.send_inv | apply State.modLaunch_inv | apply State.setLaunch_inv) | split

@[simp] theorem State.endUnplaced_inv {s : State} (key : ℕ) (l : Launch) (status : ℕ) (reason : ℕ) (h : s.Inv) : (State.endUnplaced s key l status reason).Inv := by
  unfold State.endUnplaced
  repeat' first | assumption | (refine inv_foldl ?_ fun _ _ _ => ?_) | (simp (maxDischargeDepth := 30) [*]; done) | exact ⟨h.mem, h.lifecycle, h.tstat, h.phase⟩ | (simp +contextual (maxDischargeDepth := 30) [*, inv_foldl]; done) | dsimp only | (with_reducible first | apply State.modCore_inv | apply State.setCtx_inv | apply State.modCtx_inv | apply State.setMe_inv | apply State.modMe_inv | apply State.modProc_inv | apply State.modEntry_inv | apply State.setEntry_inv | apply State.send_inv | apply State.modLaunch_inv | apply State.setLaunch_inv) | split

@[simp] theorem State.postTag_inv {s : State} (region : ℕ) (tag : ℕ) (h : s.Inv) : (State.postTag s region tag).Inv := by
  unfold State.postTag
  repeat' first | assumption | (refine inv_foldl ?_ fun _ _ _ => ?_) | (simp (maxDischargeDepth := 30) [*]; done) | exact ⟨h.mem, h.lifecycle, h.tstat, h.phase⟩ | (simp +contextual (maxDischargeDepth := 30) [*, inv_foldl]; done) | dsimp only | (with_reducible first | apply State.modCore_inv | apply State.setCtx_inv | apply State.modCtx_inv | apply State.setMe_inv | apply State.modMe_inv | apply State.modProc_inv | apply State.modEntry_inv | apply State.setEntry_inv | apply State.send_inv | apply State.modLaunch_inv | apply State.setLaunch_inv) | split

@[simp] theorem State.notify_inv {s : State} (colour : ℕ) (time : ℕ) (frozen : Bool) (h : s.Inv) : (State.notify s colour time frozen).Inv := by
  unfold State.notify
  repeat' first | assumption | (refine inv_foldl ?_ fun _ _ _ => ?_) | (simp (maxDischargeDepth := 30) [*]; done) | exact ⟨h.mem, h.lifecycle, h.tstat, h.phase⟩ | (simp +contextual (maxDischargeDepth := 30) [*, inv_foldl]; done) | dsimp only | (with_reducible first | apply State.modCore_inv | apply State.setCtx_inv | apply State.modCtx_inv | apply State.setMe_inv | apply State.modMe_inv | apply State.modProc_inv | apply State.modEntry_inv | apply State.setEntry_inv | apply State.send_inv | apply State.modLaunch_inv | apply State.setLaunch_inv) | split

@[simp] theorem State.switchFor_inv {s : State} (start : ℕ) (need : List ℕ) (n : ℕ) (h : s.Inv) :
    (s.switchFor start need n).Inv := by
  induction n generalizing s with
  | zero => exact h
  | succ n ih =>
    unfold State.switchFor
    dsimp only
    split
    · exact h
    · split
      · exact ih (State.notify_inv _ _ _ h)
      · exact h

@[simp] theorem State.switchForWindows_inv {s : State} (h : s.Inv) : s.switchForWindows.Inv := by
  unfold State.switchForWindows
  generalize 64 = n
  exact inv_foldl h fun t w ht => State.switchFor_inv _ _ _ ht

@[simp] theorem State.countDecision_inv {s : State} (cores : List ℕ) (h : s.Inv) : (State.countDecision s cores).Inv := by
  unfold State.countDecision
  repeat' first | assumption | (refine inv_foldl ?_ fun _ _ _ => ?_) | (simp (maxDischargeDepth := 30) [*]; done) | exact ⟨h.mem, h.lifecycle, h.tstat, h.phase⟩ | (simp +contextual (maxDischargeDepth := 30) [*, inv_foldl]; done) | dsimp only | (with_reducible first | apply State.modCore_inv | apply State.setCtx_inv | apply State.modCtx_inv | apply State.setMe_inv | apply State.modMe_inv | apply State.modProc_inv | apply State.modEntry_inv | apply State.setEntry_inv | apply State.send_inv | apply State.modLaunch_inv | apply State.setLaunch_inv) | split

@[simp] theorem State.moveWindow_inv {s : State} (key : ℕ) (l : Launch) (h : s.Inv) : (State.moveWindow s key l).Inv := by
  unfold State.moveWindow
  repeat' first | assumption | (refine inv_foldl ?_ fun _ _ _ => ?_) | (simp (maxDischargeDepth := 30) [*]; done) | exact ⟨h.mem, h.lifecycle, h.tstat, h.phase⟩ | (simp +contextual (maxDischargeDepth := 30) [*, inv_foldl]; done) | dsimp only | (with_reducible first | apply State.modCore_inv | apply State.setCtx_inv | apply State.modCtx_inv | apply State.setMe_inv | apply State.modMe_inv | apply State.modProc_inv | apply State.modEntry_inv | apply State.setEntry_inv | apply State.send_inv | apply State.modLaunch_inv | apply State.setLaunch_inv) | split

@[simp] theorem State.switchForLaunch_inv {s : State} (l : Launch) (time : ℕ) (h : s.Inv) : (s.switchForLaunch l time).Inv := by
  unfold State.switchForLaunch
  repeat' first | exact h | exact State.switchFor_inv _ _ _ h | exact State.notify_inv _ _ _ h | split | dsimp only

@[simp] theorem execPlacementDecision_inv (die : ℕ) (launch : ℕ) (time : ℕ) (cores : List ℕ) {s : State} (h : s.Inv) : Res.Inv (execPlacementDecision die launch time cores s) := by
  unfold execPlacementDecision
  repeat' first | assumption | (refine inv_foldl ?_ fun _ _ _ => ?_) | (simp (maxDischargeDepth := 30) [*]; done) | exact ⟨h.mem, h.lifecycle, h.tstat, h.phase⟩ | (simp +contextual (maxDischargeDepth := 30) [*, inv_foldl]; done) | dsimp only | (with_reducible first | apply State.modCore_inv | apply State.setCtx_inv | apply State.modCtx_inv | apply State.setMe_inv | apply State.modMe_inv | apply State.modProc_inv | apply State.modEntry_inv | apply State.setEntry_inv | apply State.send_inv | apply State.modLaunch_inv | apply State.setLaunch_inv) | split

@[simp] theorem execWindowOpen_inv (launch : ℕ) {s : State} (h : s.Inv) : Res.Inv (execWindowOpen launch s) := by
  unfold execWindowOpen
  repeat' first | assumption | (refine inv_foldl ?_ fun _ _ _ => ?_) | (simp (maxDischargeDepth := 30) [*]; done) | exact ⟨h.mem, h.lifecycle, h.tstat, h.phase⟩ | (simp +contextual (maxDischargeDepth := 30) [*, inv_foldl]; done) | dsimp only | (with_reducible first | apply State.modCore_inv | apply State.setCtx_inv | apply State.modCtx_inv | apply State.setMe_inv | apply State.modMe_inv | apply State.modProc_inv | apply State.modEntry_inv | apply State.setEntry_inv | apply State.send_inv | apply State.modLaunch_inv | apply State.setLaunch_inv) | split

theorem putLocal_wf (pcn off : Nat) (bs : List Byte) {m : Mem} (h : memWfFrom 0 m = true) :
    memWfFrom 0 (putLocal pcn off bs m) = true := memWrite_wf _ _ h

theorem memFoldl_wf {α : Type} {f : Mem → α → Mem} {l : List α} {m : Mem} (h : memWfFrom 0 m = true)
    (hf : ∀ m x, memWfFrom 0 m = true → memWfFrom 0 (f m x) = true) : memWfFrom 0 (l.foldl f m) = true := by
  induction l generalizing m with
  | nil => exact h
  | cons x l ih => exact ih (hf m x h)

@[simp] theorem zeroCores_wf (cores : List Nat) {m : Mem} (h : memWfFrom 0 m = true) :
    memWfFrom 0 (State.zeroCores cores m) = true := by
  induction cores generalizing m with
  | nil => exact h
  | cons p cores ih => exact ih (memZero_wf _ _ (memZero_wf _ _ (memZero_wf _ _ h)))

@[simp] theorem State.loadImage_inv {s : State} (l : Launch) (image : List Byte) (h : s.Inv) : (s.loadImage l image).Inv := by
  unfold State.loadImage
  refine inv_foldl h fun t pcn ht => ?_
  dsimp only
  have h2 := memFoldl_wf (l := l.descs.map fun off => (off, resolveAll l.spec.n (descriptorAt image off)))
    (f := fun m d => putLocal pcn d.1 d.2 m) (putLocal_wf pcn 0 image (memZero_wf (localKey pcn 0) 0x20000 ht.mem)) fun m d hm => putLocal_wf _ _ _ hm
  refine State.modCore_inv _ _ (State.setMem_inv ?_ ht)
  split
  · exact putLocal_wf _ _ _ h2
  · exact h2

@[simp] theorem State.postImage_inv {s : State} (key : ℕ) (l : Launch) (h : s.Inv) : (State.postImage s key l).Inv := by
  unfold State.postImage
  repeat' first | assumption | (refine inv_foldl ?_ fun _ _ _ => ?_) | (simp (maxDischargeDepth := 30) [*]; done) | exact ⟨h.mem, h.lifecycle, h.tstat, h.phase⟩ | (simp +contextual (maxDischargeDepth := 30) [*, inv_foldl]; done) | dsimp only | (with_reducible first | apply State.modCore_inv | apply State.setCtx_inv | apply State.modCtx_inv | apply State.setMe_inv | apply State.modMe_inv | apply State.modProc_inv | apply State.modEntry_inv | apply State.setEntry_inv | apply State.send_inv | apply State.modLaunch_inv | apply State.setLaunch_inv) | split

@[simp] theorem State.finishDestroy_inv {s : State} (r : ℕ) (h : s.Inv) : (State.finishDestroy s r).Inv := by
  unfold State.finishDestroy
  repeat' first | assumption | (refine inv_foldl ?_ fun _ _ _ => ?_) | (simp (maxDischargeDepth := 30) [*]; done) | exact ⟨h.mem, h.lifecycle, h.tstat, h.phase⟩ | (simp +contextual (maxDischargeDepth := 30) [*, inv_foldl]; done) | dsimp only | (with_reducible first | apply State.modCore_inv | apply State.setCtx_inv | apply State.modCtx_inv | apply State.setMe_inv | apply State.modMe_inv | apply State.modProc_inv | apply State.modEntry_inv | apply State.setEntry_inv | apply State.send_inv | apply State.modLaunch_inv | apply State.setLaunch_inv) | split

theorem State.createEvents_inv {s t : State} (key : Nat) (l : Launch) (image : List Byte) (offs : List Nat) (h : s.Inv)
    (e : s.createEvents key l image offs = .done t) : t.Inv := by
  induction offs generalizing s with
  | nil => simp only [State.createEvents, State.Loaded.done.injEq] at e; exact e ▸ h
  | cons off offs ih =>
    unfold State.createEvents at e
    split at e
    · cases e
    · dsimp only at e
      split at e
      · cases e
      · exact ih (State.setMem_inv (memFoldl_wf (State.createEvent_inv _ _ _ _ _ h).mem fun m c hm => putLocal_wf _ _ _ hm)
          (State.createEvent_inv _ _ _ _ _ h)) e

@[simp] theorem State.rollBack_inv {s : State} (key : ℕ) (l : Launch) (cores : List ℕ) (h : s.Inv) :
    (s.rollBack key l cores).Inv :=
  State.setMem_inv (zeroCores_wf _ h.mem) (State.setLaunch_inv _ _ h)

@[simp] theorem State.place_inv {s : State} (key : Nat) (l : Launch) (cores : List Nat) (image : List Byte) (h : s.Inv) :
    (s.place key l cores image).Inv := by
  unfold State.place
  dsimp only
  split
  · rename_i e
    exact State.postImage_inv _ _ (State.createEvents_inv _ _ _ _ (State.loadImage_inv _ _ (State.setLaunch_inv _ _ h)) e)
  · exact State.rollBack_inv _ _ _ h
  · exact State.finishDestroy_inv _ (State.endUnplaced_inv _ _ _ _ (State.rollBack_inv _ _ _ h))

@[simp] theorem execPlacement_inv (launch : ℕ) (cores : List ℕ) {s : State} (h : s.Inv) :
    Res.Inv (execPlacement launch cores s) := by
  unfold execPlacement
  dsimp only
  repeat' first
    | exact h
    | exact State.frontPages_inv _ _ h
    | exact State.place_inv _ _ _ _ (State.refreshMap_inv h)
    | exact State.setLaunch_inv _ _ h
    | split

@[simp] theorem State.startProcess_inv {s : State} (key : ℕ) (l : Launch) (rank : ℕ) (tid : ℕ) (h : s.Inv) : (State.startProcess s key l rank tid).Inv := by
  unfold State.startProcess
  repeat' first | assumption | (refine inv_foldl ?_ fun _ _ _ => ?_) | (simp (maxDischargeDepth := 30) [*]; done) | exact ⟨h.mem, h.lifecycle, h.tstat, h.phase⟩ | (simp +contextual (maxDischargeDepth := 30) [*, inv_foldl]; done) | dsimp only | (with_reducible first | apply State.modCore_inv | apply State.setCtx_inv | apply State.modCtx_inv | apply State.setMe_inv | apply State.modMe_inv | apply State.modProc_inv | apply State.modEntry_inv | apply State.setEntry_inv | apply State.send_inv | apply State.modLaunch_inv | apply State.setLaunch_inv) | split

@[simp] theorem State.commitLaunch_inv {s : State} (key : ℕ) (l : Launch) (h : s.Inv) : (State.commitLaunch s key l).Inv := by
  unfold State.commitLaunch
  repeat' first | assumption | (refine inv_foldl ?_ fun _ _ _ => ?_) | (simp (maxDischargeDepth := 30) [*]; done) | exact ⟨h.mem, h.lifecycle, h.tstat, h.phase⟩ | (simp +contextual (maxDischargeDepth := 30) [*, inv_foldl]; done) | dsimp only | (with_reducible first | apply State.modCore_inv | apply State.setCtx_inv | apply State.modCtx_inv | apply State.setMe_inv | apply State.modMe_inv | apply State.modProc_inv | apply State.modEntry_inv | apply State.setEntry_inv | apply State.send_inv | apply State.modLaunch_inv | apply State.setLaunch_inv) | split

@[simp] theorem execPlacementCommit_inv (launch : ℕ) {s : State} (h : s.Inv) : Res.Inv (execPlacementCommit launch s) := by
  unfold execPlacementCommit
  repeat' first | assumption | (refine inv_foldl ?_ fun _ _ _ => ?_) | (simp (maxDischargeDepth := 30) [*]; done) | exact ⟨h.mem, h.lifecycle, h.tstat, h.phase⟩ | (simp +contextual (maxDischargeDepth := 30) [*, inv_foldl]; done) | dsimp only | (with_reducible first | apply State.modCore_inv | apply State.setCtx_inv | apply State.modCtx_inv | apply State.setMe_inv | apply State.modMe_inv | apply State.modProc_inv | apply State.modEntry_inv | apply State.setEntry_inv | apply State.send_inv | apply State.modLaunch_inv | apply State.setLaunch_inv) | split

@[simp] theorem execOperatingPointChange_inv (die : ℕ) {s : State} (h : s.Inv) : Res.Inv (execOperatingPointChange die s) := by
  unfold execOperatingPointChange
  repeat' first | assumption | (refine inv_foldl ?_ fun _ _ _ => ?_) | (simp (maxDischargeDepth := 30) [*]; done) | exact ⟨h.mem, h.lifecycle, h.tstat, h.phase⟩ | (simp +contextual (maxDischargeDepth := 30) [*, inv_foldl]; done) | dsimp only | (with_reducible first | apply State.modCore_inv | apply State.setCtx_inv | apply State.modCtx_inv | apply State.setMe_inv | apply State.modMe_inv | apply State.modProc_inv | apply State.modEntry_inv | apply State.setEntry_inv | apply State.send_inv | apply State.modLaunch_inv | apply State.setLaunch_inv) | split

@[simp] theorem State.release_inv {s : State} (key : ℕ) (l : Launch) (h : s.Inv) : (State.release s key l).Inv := by
  unfold State.release
  repeat' first | assumption | (refine inv_foldl ?_ fun _ _ _ => ?_) | (simp (maxDischargeDepth := 30) [*]; done) | exact ⟨h.mem, h.lifecycle, h.tstat, h.phase⟩ | (simp +contextual (maxDischargeDepth := 30) [*, inv_foldl]; done) | dsimp only | (with_reducible first | apply State.modCore_inv | apply State.setCtx_inv | apply State.modCtx_inv | apply State.setMe_inv | apply State.modMe_inv | apply State.modProc_inv | apply State.modEntry_inv | apply State.setEntry_inv | apply State.send_inv | apply State.modLaunch_inv | apply State.setLaunch_inv) | split

@[simp] theorem State.complete_inv {s : State} (key : ℕ) (l : Launch) (h : s.Inv) : (State.complete s key l).Inv := by
  unfold State.complete
  repeat' first | assumption | (refine inv_foldl ?_ fun _ _ _ => ?_) | (simp (maxDischargeDepth := 30) [*]; done) | exact ⟨h.mem, h.lifecycle, h.tstat, h.phase⟩ | (simp +contextual (maxDischargeDepth := 30) [*, inv_foldl]; done) | dsimp only | (with_reducible first | apply State.modCore_inv | apply State.setCtx_inv | apply State.modCtx_inv | apply State.setMe_inv | apply State.modMe_inv | apply State.modProc_inv | apply State.modEntry_inv | apply State.setEntry_inv | apply State.send_inv | apply State.modLaunch_inv | apply State.setLaunch_inv) | split

@[simp] theorem execLaunchComplete_inv (launch : ℕ) {s : State} (h : s.Inv) : Res.Inv (execLaunchComplete launch s) := by
  unfold execLaunchComplete
  repeat' first | assumption | (refine inv_foldl ?_ fun _ _ _ => ?_) | (simp (maxDischargeDepth := 30) [*]; done) | exact ⟨h.mem, h.lifecycle, h.tstat, h.phase⟩ | (simp +contextual (maxDischargeDepth := 30) [*, inv_foldl]; done) | dsimp only | (with_reducible first | apply State.modCore_inv | apply State.setCtx_inv | apply State.modCtx_inv | apply State.setMe_inv | apply State.modMe_inv | apply State.modProc_inv | apply State.modEntry_inv | apply State.setEntry_inv | apply State.send_inv | apply State.modLaunch_inv | apply State.setLaunch_inv) | split

@[simp] theorem State.unload_inv {s : State} (key : ℕ) (l : Launch) (h : s.Inv) : (State.unload s key l).Inv := by
  unfold State.unload
  repeat' first | assumption | (refine inv_foldl ?_ fun _ _ _ => ?_) | (simp (maxDischargeDepth := 30) [*]; done) | exact ⟨h.mem, h.lifecycle, h.tstat, h.phase⟩ | (simp +contextual (maxDischargeDepth := 30) [*, inv_foldl]; done) | dsimp only | (with_reducible first | apply State.modCore_inv | apply State.setCtx_inv | apply State.modCtx_inv | apply State.setMe_inv | apply State.modMe_inv | apply State.modProc_inv | apply State.modEntry_inv | apply State.setEntry_inv | apply State.send_inv | apply State.modLaunch_inv | apply State.setLaunch_inv) | split

@[simp] theorem State.expire_inv {s : State} (key : ℕ) (l : Launch) (status : ℕ) (reason : ℕ) (h : s.Inv) : (State.expire s key l status reason).Inv := by
  unfold State.expire
  repeat' first | assumption | (refine inv_foldl ?_ fun _ _ _ => ?_) | (simp (maxDischargeDepth := 30) [*]; done) | exact ⟨h.mem, h.lifecycle, h.tstat, h.phase⟩ | (simp +contextual (maxDischargeDepth := 30) [*, inv_foldl]; done) | dsimp only | (with_reducible first | apply State.modCore_inv | apply State.setCtx_inv | apply State.modCtx_inv | apply State.setMe_inv | apply State.modMe_inv | apply State.modProc_inv | apply State.modEntry_inv | apply State.setEntry_inv | apply State.send_inv | apply State.modLaunch_inv | apply State.setLaunch_inv) | split

@[simp] theorem execLaunchExpire_inv (launch : ℕ) {s : State} (h : s.Inv) : Res.Inv (execLaunchExpire launch s) := by
  unfold execLaunchExpire
  repeat' first | assumption | (refine inv_foldl ?_ fun _ _ _ => ?_) | (simp (maxDischargeDepth := 30) [*]; done) | exact ⟨h.mem, h.lifecycle, h.tstat, h.phase⟩ | (simp +contextual (maxDischargeDepth := 30) [*, inv_foldl]; done) | dsimp only | (with_reducible first | apply State.modCore_inv | apply State.setCtx_inv | apply State.modCtx_inv | apply State.setMe_inv | apply State.modMe_inv | apply State.modProc_inv | apply State.modEntry_inv | apply State.setEntry_inv | apply State.send_inv | apply State.modLaunch_inv | apply State.setLaunch_inv) | split

theorem State.takeSend_inv {s : State} (sender kind : Nat) (msg : List Byte) (f : State → State) (h : s.Inv)
    (hf : (f s).Inv) : (s.takeSend sender kind msg f).Inv := by
  unfold State.takeSend
  repeat' first | exact State.emit_inv _ h | exact hf | exact h | split

@[simp] theorem State.modQueue_inv {s : State} (r : ℕ) (f : Queue → Queue) (h : s.Inv) : (State.modQueue s r f).Inv := by
  unfold State.modQueue
  repeat' first | assumption | (refine inv_foldl ?_ fun _ _ _ => ?_) | (simp (maxDischargeDepth := 30) [*]; done) | exact ⟨h.mem, h.lifecycle, h.tstat, h.phase⟩ | (simp +contextual (maxDischargeDepth := 30) [*, inv_foldl]; done) | dsimp only | (with_reducible first | apply State.modCore_inv | apply State.setCtx_inv | apply State.modCtx_inv | apply State.setMe_inv | apply State.modMe_inv | apply State.modProc_inv | apply State.modEntry_inv | apply State.setEntry_inv | apply State.send_inv | apply State.modLaunch_inv | apply State.setLaunch_inv) | split

@[simp] theorem State.putQueueWord_inv {s : State} (r : ℕ) (off : ℕ) (v : ℕ) (h : s.Inv) : (State.putQueueWord s r off v).Inv := by
  unfold State.putQueueWord
  repeat' first | assumption | (refine inv_foldl ?_ fun _ _ _ => ?_) | (simp (maxDischargeDepth := 30) [*]; done) | exact ⟨h.mem, h.lifecycle, h.tstat, h.phase⟩ | (simp +contextual (maxDischargeDepth := 30) [*, inv_foldl]; done) | dsimp only | (with_reducible first | apply State.modCore_inv | apply State.setCtx_inv | apply State.modCtx_inv | apply State.setMe_inv | apply State.modMe_inv | apply State.modProc_inv | apply State.modEntry_inv | apply State.setEntry_inv | apply State.send_inv | apply State.modLaunch_inv | apply State.setLaunch_inv) | split

@[simp] theorem State.latchOne_inv {s : State} (r : ℕ) (seq : ℕ) (bs : List Byte) (h : s.Inv) : (State.latchOne s r seq bs).Inv := by
  unfold State.latchOne
  repeat' first | assumption | (refine inv_foldl ?_ fun _ _ _ => ?_) | (simp (maxDischargeDepth := 30) [*]; done) | exact ⟨h.mem, h.lifecycle, h.tstat, h.phase⟩ | (simp +contextual (maxDischargeDepth := 30) [*, inv_foldl]; done) | dsimp only | (with_reducible first | apply State.modCore_inv | apply State.setCtx_inv | apply State.modCtx_inv | apply State.setMe_inv | apply State.modMe_inv | apply State.modProc_inv | apply State.modEntry_inv | apply State.setEntry_inv | apply State.send_inv | apply State.modLaunch_inv | apply State.setLaunch_inv) | split

@[simp] theorem State.latchHeld_inv {s : State} (r n : Nat) (h : s.Inv) : (s.latchHeld r n).Inv := by
  induction n generalizing s with
  | zero => exact h
  | succ n ih =>
    unfold State.latchHeld
    split
    · exact h
    · exact ih (State.modQueue_inv _ _ (State.latchOne_inv _ _ _ h))

@[simp] theorem State.latch_inv {s : State} (sender : ℕ) (r : ℕ) (seq : ℕ) (bs : List Byte) (h : s.Inv) : (State.latch s sender r seq bs).Inv := by
  unfold State.latch
  repeat' first | assumption | (refine inv_foldl ?_ fun _ _ _ => ?_) | (simp (maxDischargeDepth := 30) [*]; done) | exact ⟨h.mem, h.lifecycle, h.tstat, h.phase⟩ | (simp +contextual (maxDischargeDepth := 30) [*, inv_foldl]; done) | dsimp only | (with_reducible first | apply State.modCore_inv | apply State.setCtx_inv | apply State.modCtx_inv | apply State.setMe_inv | apply State.modMe_inv | apply State.modProc_inv | apply State.modEntry_inv | apply State.setEntry_inv | apply State.send_inv | apply State.modLaunch_inv | apply State.setLaunch_inv) | split

@[simp] theorem execCommandSubmission_inv (sender : ℕ) (msg : List Byte) {s : State} (h : s.Inv) : Res.Inv (execCommandSubmission sender msg s) := by
  unfold execCommandSubmission
  repeat' first | assumption | (refine inv_foldl ?_ fun _ _ _ => ?_) | (simp (maxDischargeDepth := 30) [*]; done) | (refine State.takeSend_inv _ _ _ _ h ?_) | exact ⟨h.mem, h.lifecycle, h.tstat, h.phase⟩ | (simp +contextual (maxDischargeDepth := 30) [*, inv_foldl]; done) | dsimp only | (with_reducible first | apply State.modCore_inv | apply State.setCtx_inv | apply State.modCtx_inv | apply State.setMe_inv | apply State.modMe_inv | apply State.modProc_inv | apply State.modEntry_inv | apply State.setEntry_inv | apply State.send_inv | apply State.modLaunch_inv | apply State.setLaunch_inv) | split

@[simp] theorem State.yieldEffect_inv {s : State} (r : ℕ) (n : ℕ) (e : Effect) (h : s.Inv) : (State.yieldEffect s r n e).Inv := by
  unfold State.yieldEffect
  repeat' first | assumption | (refine inv_foldl ?_ fun _ _ _ => ?_) | (simp (maxDischargeDepth := 30) [*]; done) | exact ⟨h.mem, h.lifecycle, h.tstat, h.phase⟩ | (simp +contextual (maxDischargeDepth := 30) [*, inv_foldl]; done) | dsimp only | (with_reducible first | apply State.modCore_inv | apply State.setCtx_inv | apply State.modCtx_inv | apply State.setMe_inv | apply State.modMe_inv | apply State.modProc_inv | apply State.modEntry_inv | apply State.setEntry_inv | apply State.send_inv | apply State.modLaunch_inv | apply State.setLaunch_inv) | split

@[simp] theorem State.admitChecked_inv {s : State} (r : ℕ) (l : Launch) (h : s.Inv) : (s.admitChecked r l).2.Inv := by
  unfold State.admitChecked
  split
  · exact h
  · split
    · rename_i e; exact State.admit_inv h e
    · exact h

@[simp] theorem State.validate_inv {s : State} (r n : ℕ) (bs : List Byte) (descs : List ℕ) (h : s.Inv) :
    (s.validate r n bs descs).2.Inv := by
  have hp : ∀ va (c : Prop) [Decidable c], (if c then s else s.pinRecord r n va).Inv := by
    intro va c _
    split
    · exact h
    · exact State.pinRecord_inv _ _ _ h
  unfold State.validate
  dsimp only
  split
  · exact h
  · split
    · rename_i e; exact State.frontPages_inv' h e
    · rename_i e; exact State.frontPages_inv' h e
    · split
      · rename_i e; exact State.frontPages_inv' h e
      · rename_i e; exact State.frontPages_inv' h e
      · split
        · exact hp _ _
        · split
          · exact hp _ _
          · split
            · exact hp _ _
            · exact State.admitChecked_inv _ _ (hp _ _)

theorem State.validate_inv' {s t : State} {r n : ℕ} {bs : List Byte} {descs : List ℕ} {o : Option Effect} (h : s.Inv)
    (e : s.validate r n bs descs = (o, t)) : t.Inv := by
  have := State.validate_inv r n bs descs h
  rwa [e] at this

@[simp] theorem execLaunch_inv (region : Nat) (descs : List Nat) {s : State} (h : s.Inv) : Res.Inv (execLaunch region descs s) := by
  unfold execLaunch
  split
  · split
    · exact State.yieldEffect_inv _ _ _ h
    · split
      · exact h
      · split
        · rename_i e; exact State.switchForWindows_inv (State.yieldEffect_inv _ _ _ (State.validate_inv' h e))
        · rename_i e; exact State.validate_inv' h e
  · exact h

@[simp] theorem execBegin_inv (region : ℕ) {s : State} (h : s.Inv) : Res.Inv (execBegin region s) := by
  unfold execBegin
  repeat' first | assumption | (refine inv_foldl ?_ fun _ _ _ => ?_) | (simp (maxDischargeDepth := 30) [*]; done) | exact ⟨h.mem, h.lifecycle, h.tstat, h.phase⟩ | (simp +contextual (maxDischargeDepth := 30) [*, inv_foldl]; done) | dsimp only | (with_reducible first | apply State.modCore_inv | apply State.setCtx_inv | apply State.modCtx_inv | apply State.setMe_inv | apply State.modMe_inv | apply State.modProc_inv | apply State.modEntry_inv | apply State.setEntry_inv | apply State.send_inv | apply State.modLaunch_inv | apply State.setLaunch_inv) | split

theorem State.admitAllMembers_inv {s : State} (ms : List (Nat × Effect)) (i : Nat) (done : List Effect)
    {p : List Effect × State} (h : s.Inv) (e : s.admitAllMembers ms i done = .inl p) : p.2.Inv := by
  induction ms generalizing s i done with
  | nil => simp only [State.admitAllMembers, Sum.inl.injEq] at e; exact e ▸ h
  | cons m ms ih =>
    unfold State.admitAllMembers at e
    split at e
    · cases ‹_ :: _ = []›
    · rename_i e0
      simp only [List.cons.injEq] at e0
      split at e
      · rename_i e1
        exact ih _ _ (State.admit_inv h e1) (e0.2 ▸ e)
      · cases e
    · rename_i e0
      simp only [List.cons.injEq] at e0
      exact ih _ _ h (e0.2 ▸ e)

@[simp] theorem State.commitBatch_inv {s : State} (r n record : Nat) (h : s.Inv) : (s.commitBatch r n record).Inv := by
  unfold State.commitBatch
  dsimp only
  split
  · exact State.modQueue_inv _ _ h
  · split
    · rename_i e
      exact State.switchForWindows_inv (State.modQueue_inv _ _ (State.admitAllMembers_inv _ _ _ h e))
    · exact State.modQueue_inv _ _ h

@[simp] theorem execCommit_inv (region : ℕ) {s : State} (h : s.Inv) : Res.Inv (execCommit region s) := by
  unfold execCommit
  repeat' first | assumption | (refine inv_foldl ?_ fun _ _ _ => ?_) | (simp (maxDischargeDepth := 30) [*]; done) | exact ⟨h.mem, h.lifecycle, h.tstat, h.phase⟩ | (simp +contextual (maxDischargeDepth := 30) [*, inv_foldl]; done) | dsimp only | (with_reducible first | apply State.modCore_inv | apply State.setCtx_inv | apply State.modCtx_inv | apply State.setMe_inv | apply State.modMe_inv | apply State.modProc_inv | apply State.modEntry_inv | apply State.setEntry_inv | apply State.send_inv | apply State.modLaunch_inv | apply State.setLaunch_inv) | split

@[simp] theorem execDestroy_inv (region : ℕ) {s : State} (h : s.Inv) : Res.Inv (execDestroy region s) := by
  unfold execDestroy
  repeat' first | assumption | (refine inv_foldl ?_ fun _ _ _ => ?_) | (simp (maxDischargeDepth := 30) [*]; done) | exact ⟨h.mem, h.lifecycle, h.tstat, h.phase⟩ | (simp +contextual (maxDischargeDepth := 30) [*, inv_foldl]; done) | dsimp only | (with_reducible first | apply State.modCore_inv | apply State.setCtx_inv | apply State.modCtx_inv | apply State.setMe_inv | apply State.modMe_inv | apply State.modProc_inv | apply State.modEntry_inv | apply State.setEntry_inv | apply State.send_inv | apply State.modLaunch_inv | apply State.setLaunch_inv) | split

@[simp] theorem State.processCommand_inv {s : State} (r : ℕ) (kind : ℕ) (effect : ℕ → ℕ → Effect) (h : s.Inv) : (State.processCommand s r kind effect).Inv := by
  unfold State.processCommand
  repeat' first | assumption | (refine inv_foldl ?_ fun _ _ _ => ?_) | (simp (maxDischargeDepth := 30) [*]; done) | exact ⟨h.mem, h.lifecycle, h.tstat, h.phase⟩ | (simp +contextual (maxDischargeDepth := 30) [*, inv_foldl]; done) | dsimp only | (with_reducible first | apply State.modCore_inv | apply State.setCtx_inv | apply State.modCtx_inv | apply State.setMe_inv | apply State.modMe_inv | apply State.modProc_inv | apply State.modEntry_inv | apply State.setEntry_inv | apply State.send_inv | apply State.modLaunch_inv | apply State.setLaunch_inv) | split

@[simp] theorem State.freezeCommand_inv {s : State} (r : ℕ) (kind : ℕ) (effect : ℕ → Effect) (h : s.Inv) : (State.freezeCommand s r kind effect).Inv := by
  unfold State.freezeCommand
  repeat' first | assumption | (refine inv_foldl ?_ fun _ _ _ => ?_) | (simp (maxDischargeDepth := 30) [*]; done) | exact ⟨h.mem, h.lifecycle, h.tstat, h.phase⟩ | (simp +contextual (maxDischargeDepth := 30) [*, inv_foldl]; done) | dsimp only | (with_reducible first | apply State.modCore_inv | apply State.setCtx_inv | apply State.modCtx_inv | apply State.setMe_inv | apply State.modMe_inv | apply State.modProc_inv | apply State.modEntry_inv | apply State.setEntry_inv | apply State.send_inv | apply State.modLaunch_inv | apply State.setLaunch_inv) | split

@[simp] theorem execHaltProcess_inv (region : ℕ) {s : State} (h : s.Inv) : Res.Inv (execHaltProcess region s) := by
  unfold execHaltProcess
  repeat' first | assumption | (refine inv_foldl ?_ fun _ _ _ => ?_) | (simp (maxDischargeDepth := 30) [*]; done) | exact ⟨h.mem, h.lifecycle, h.tstat, h.phase⟩ | (simp +contextual (maxDischargeDepth := 30) [*, inv_foldl]; done) | dsimp only | (with_reducible first | apply State.modCore_inv | apply State.setCtx_inv | apply State.modCtx_inv | apply State.setMe_inv | apply State.modMe_inv | apply State.modProc_inv | apply State.modEntry_inv | apply State.setEntry_inv | apply State.send_inv | apply State.modLaunch_inv | apply State.setLaunch_inv) | split

@[simp] theorem execResumeProcess_inv (region : ℕ) {s : State} (h : s.Inv) : Res.Inv (execResumeProcess region s) := by
  unfold execResumeProcess
  repeat' first | assumption | (refine inv_foldl ?_ fun _ _ _ => ?_) | (simp (maxDischargeDepth := 30) [*]; done) | exact ⟨h.mem, h.lifecycle, h.tstat, h.phase⟩ | (simp +contextual (maxDischargeDepth := 30) [*, inv_foldl]; done) | dsimp only | (with_reducible first | apply State.modCore_inv | apply State.setCtx_inv | apply State.modCtx_inv | apply State.setMe_inv | apply State.modMe_inv | apply State.modProc_inv | apply State.modEntry_inv | apply State.setEntry_inv | apply State.send_inv | apply State.modLaunch_inv | apply State.setLaunch_inv) | split

@[simp] theorem execFreeze_inv (region : ℕ) {s : State} (h : s.Inv) : Res.Inv (execFreeze region s) := by
  unfold execFreeze
  repeat' first | assumption | (refine inv_foldl ?_ fun _ _ _ => ?_) | (simp (maxDischargeDepth := 30) [*]; done) | exact ⟨h.mem, h.lifecycle, h.tstat, h.phase⟩ | (simp +contextual (maxDischargeDepth := 30) [*, inv_foldl]; done) | dsimp only | (with_reducible first | apply State.modCore_inv | apply State.setCtx_inv | apply State.modCtx_inv | apply State.setMe_inv | apply State.modMe_inv | apply State.modProc_inv | apply State.modEntry_inv | apply State.setEntry_inv | apply State.send_inv | apply State.modLaunch_inv | apply State.setLaunch_inv) | split

@[simp] theorem execThaw_inv (region : ℕ) {s : State} (h : s.Inv) : Res.Inv (execThaw region s) := by
  unfold execThaw
  repeat' first | assumption | (refine inv_foldl ?_ fun _ _ _ => ?_) | (simp (maxDischargeDepth := 30) [*]; done) | exact ⟨h.mem, h.lifecycle, h.tstat, h.phase⟩ | (simp +contextual (maxDischargeDepth := 30) [*, inv_foldl]; done) | dsimp only | (with_reducible first | apply State.modCore_inv | apply State.setCtx_inv | apply State.modCtx_inv | apply State.setMe_inv | apply State.modMe_inv | apply State.modProc_inv | apply State.modEntry_inv | apply State.setEntry_inv | apply State.send_inv | apply State.modLaunch_inv | apply State.setLaunch_inv) | split

@[simp] theorem State.abortAll_inv {s : State} (r : ℕ) (h : s.Inv) : (State.abortAll s r).Inv := by
  unfold State.abortAll
  repeat' first | assumption | (refine inv_foldl ?_ fun _ _ _ => ?_) | (simp (maxDischargeDepth := 30) [*]; done) | exact ⟨h.mem, h.lifecycle, h.tstat, h.phase⟩ | (simp +contextual (maxDischargeDepth := 30) [*, inv_foldl]; done) | dsimp only | (with_reducible first | apply State.modCore_inv | apply State.setCtx_inv | apply State.modCtx_inv | apply State.setMe_inv | apply State.modMe_inv | apply State.modProc_inv | apply State.modEntry_inv | apply State.setEntry_inv | apply State.send_inv | apply State.modLaunch_inv | apply State.setLaunch_inv) | split

@[simp] theorem State.setHalted_inv {s : State} (proc : ℕ) (halted : Bool) (h : s.Inv) : (State.setHalted s proc halted).Inv := by
  unfold State.setHalted
  repeat' first | assumption | (refine inv_foldl ?_ fun _ _ _ => ?_) | (simp (maxDischargeDepth := 30) [*]; done) | exact ⟨h.mem, h.lifecycle, h.tstat, h.phase⟩ | (simp +contextual (maxDischargeDepth := 30) [*, inv_foldl]; done) | dsimp only | (with_reducible first | apply State.modCore_inv | apply State.setCtx_inv | apply State.modCtx_inv | apply State.setMe_inv | apply State.modMe_inv | apply State.modProc_inv | apply State.modEntry_inv | apply State.setEntry_inv | apply State.send_inv | apply State.modLaunch_inv | apply State.setLaunch_inv) | split

@[simp] theorem State.takeAdmission_inv {s : State} (r : ℕ) (l : Launch) (h : s.Inv) : (s.takeAdmission r l).Inv := by
  unfold State.takeAdmission
  dsimp only
  split
  · exact State.writeRefusal_inv _ _ _ _ _ (State.dropWindows_inv _ h)
  · split
    · exact State.setLaunch_inv _ _ h
    · have h1 := fun seq va => State.pinRecord_inv r seq va (State.dropWindows_inv [launchKey r l.seq] h)
      split
      · rename_i e
        exact State.switchForWindows_inv (State.setLaunch_inv _ _ (State.admit_inv (h1 _ _) e))
      · exact State.writeRefusal_inv _ _ _ _ _ (h1 _ _)

@[simp] theorem State.applyEffect_inv {s : State} (r : ℕ) (n : ℕ) (e : Effect) (h : s.Inv) : (State.applyEffect s r n e).Inv := by
  unfold State.applyEffect
  repeat' first | assumption | (refine inv_foldl ?_ fun _ _ _ => ?_) | (simp (maxDischargeDepth := 30) [*]; done) | exact ⟨h.mem, h.lifecycle, h.tstat, h.phase⟩ | (simp +contextual (maxDischargeDepth := 30) [*, inv_foldl]; done) | dsimp only | (with_reducible first | apply State.modCore_inv | apply State.setCtx_inv | apply State.modCtx_inv | apply State.setMe_inv | apply State.modMe_inv | apply State.modProc_inv | apply State.modEntry_inv | apply State.setEntry_inv | apply State.send_inv | apply State.modLaunch_inv | apply State.setLaunch_inv) | split

@[simp] theorem State.ignoreEffect_inv {s : State} (r : ℕ) (es : List Effect) (h : s.Inv) : (State.ignoreEffect s r es).Inv := by
  unfold State.ignoreEffect
  repeat' first | assumption | (refine inv_foldl ?_ fun _ _ _ => ?_) | (simp (maxDischargeDepth := 30) [*]; done) | exact ⟨h.mem, h.lifecycle, h.tstat, h.phase⟩ | (simp +contextual (maxDischargeDepth := 30) [*, inv_foldl]; done) | dsimp only | (with_reducible first | apply State.modCore_inv | apply State.setCtx_inv | apply State.modCtx_inv | apply State.setMe_inv | apply State.modMe_inv | apply State.modProc_inv | apply State.modEntry_inv | apply State.setEntry_inv | apply State.send_inv | apply State.modLaunch_inv | apply State.setLaunch_inv) | split

@[simp] theorem execEffectTake_inv (region : Nat) {s : State} (h : s.Inv) : Res.Inv (execEffectTake region s) := by
  unfold execEffectTake
  dsimp only
  split
  · have h1 := fun f => State.modQueue_inv region f h
    repeat' first
      | exact h
      | exact State.ignoreEffect_inv _ _ (h1 _)
      | exact inv_foldl (State.putQueueWord_inv _ _ _ (h1 _)) fun t e ht => State.applyEffect_inv _ _ _ ht
      | split
  · split
    · exact State.putQueueWord_inv _ _ _ h
    · exact h

@[simp] theorem State.takeEventSend_inv {s : State} (sender : ℕ) (kind : ℕ) (msg : List Byte) (h : s.Inv) : (State.takeEventSend s sender kind msg).Inv := by
  unfold State.takeEventSend
  repeat' first | assumption | (refine inv_foldl ?_ fun _ _ _ => ?_) | (simp (maxDischargeDepth := 30) [*]; done) | exact ⟨h.mem, h.lifecycle, h.tstat, h.phase⟩ | (simp +contextual (maxDischargeDepth := 30) [*, inv_foldl]; done) | dsimp only | (with_reducible first | apply State.modCore_inv | apply State.setCtx_inv | apply State.modCtx_inv | apply State.setMe_inv | apply State.modMe_inv | apply State.modProc_inv | apply State.modEntry_inv | apply State.setEntry_inv | apply State.send_inv | apply State.modLaunch_inv | apply State.setLaunch_inv) | split

@[simp] theorem execEventIngress_inv (sender : ℕ) (msg : List Byte) {s : State} (h : s.Inv) : Res.Inv (execEventIngress sender msg s) := by
  unfold execEventIngress
  repeat' first | assumption | (refine inv_foldl ?_ fun _ _ _ => ?_) | (simp (maxDischargeDepth := 30) [*]; done) | (refine State.takeSend_inv _ _ _ _ h ?_) | exact ⟨h.mem, h.lifecycle, h.tstat, h.phase⟩ | (simp +contextual (maxDischargeDepth := 30) [*, inv_foldl]; done) | dsimp only | (with_reducible first | apply State.modCore_inv | apply State.setCtx_inv | apply State.modCtx_inv | apply State.setMe_inv | apply State.modMe_inv | apply State.modProc_inv | apply State.modEntry_inv | apply State.setEntry_inv | apply State.send_inv | apply State.modLaunch_inv | apply State.setLaunch_inv) | split

@[simp] theorem execTagPost_inv (sender : ℕ) (msg : List Byte) {s : State} (h : s.Inv) : Res.Inv (execTagPost sender msg s) := by
  unfold execTagPost
  repeat' first | assumption | (refine inv_foldl ?_ fun _ _ _ => ?_) | (simp (maxDischargeDepth := 30) [*]; done) | (refine State.takeSend_inv _ _ _ _ h ?_) | exact ⟨h.mem, h.lifecycle, h.tstat, h.phase⟩ | (simp +contextual (maxDischargeDepth := 30) [*, inv_foldl]; done) | dsimp only | (with_reducible first | apply State.modCore_inv | apply State.setCtx_inv | apply State.modCtx_inv | apply State.setMe_inv | apply State.modMe_inv | apply State.modProc_inv | apply State.modEntry_inv | apply State.setEntry_inv | apply State.send_inv | apply State.modLaunch_inv | apply State.setLaunch_inv) | split

@[simp] theorem execFloorOnly_inv (sender : ℕ) (msg : List Byte) {s : State} (h : s.Inv) : Res.Inv (execFloorOnly sender msg s) := by
  unfold execFloorOnly
  repeat' first | assumption | (refine inv_foldl ?_ fun _ _ _ => ?_) | (simp (maxDischargeDepth := 30) [*]; done) | (refine State.takeSend_inv _ _ _ _ h ?_) | exact ⟨h.mem, h.lifecycle, h.tstat, h.phase⟩ | (simp +contextual (maxDischargeDepth := 30) [*, inv_foldl]; done) | dsimp only | (with_reducible first | apply State.modCore_inv | apply State.setCtx_inv | apply State.modCtx_inv | apply State.setMe_inv | apply State.modMe_inv | apply State.modProc_inv | apply State.modEntry_inv | apply State.setEntry_inv | apply State.send_inv | apply State.modLaunch_inv | apply State.setLaunch_inv) | split

@[simp] theorem State.attest_inv {s : State} (sender : ℕ) (nonce : List Byte) (h : s.Inv) : (State.attest s sender nonce).Inv := by
  unfold State.attest
  repeat' first | assumption | (refine inv_foldl ?_ fun _ _ _ => ?_) | (simp (maxDischargeDepth := 30) [*]; done) | exact ⟨h.mem, h.lifecycle, h.tstat, h.phase⟩ | (simp +contextual (maxDischargeDepth := 30) [*, inv_foldl]; done) | dsimp only | (with_reducible first | apply State.modCore_inv | apply State.setCtx_inv | apply State.modCtx_inv | apply State.setMe_inv | apply State.modMe_inv | apply State.modProc_inv | apply State.modEntry_inv | apply State.setEntry_inv | apply State.send_inv | apply State.modLaunch_inv | apply State.setLaunch_inv) | split

@[simp] theorem execAttestationRequest_inv (sender : ℕ) (msg : List Byte) {s : State} (h : s.Inv) : Res.Inv (execAttestationRequest sender msg s) := by
  unfold execAttestationRequest
  repeat' first | assumption | (refine inv_foldl ?_ fun _ _ _ => ?_) | (simp (maxDischargeDepth := 30) [*]; done) | (refine State.takeSend_inv _ _ _ _ h ?_) | exact ⟨h.mem, h.lifecycle, h.tstat, h.phase⟩ | (simp +contextual (maxDischargeDepth := 30) [*, inv_foldl]; done) | dsimp only | (with_reducible first | apply State.modCore_inv | apply State.setCtx_inv | apply State.modCtx_inv | apply State.setMe_inv | apply State.modMe_inv | apply State.modProc_inv | apply State.modEntry_inv | apply State.setEntry_inv | apply State.send_inv | apply State.modLaunch_inv | apply State.setLaunch_inv) | split

@[simp] theorem State.rmaPut_inv {s : State} (root : ℕ) (va : ℕ) (b : Byte) (h : s.Inv) : (State.rmaPut s root va b).Inv := by
  unfold State.rmaPut
  repeat' first | assumption | (refine inv_foldl ?_ fun _ _ _ => ?_) | (simp (maxDischargeDepth := 30) [*]; done) | exact ⟨h.mem, h.lifecycle, h.tstat, h.phase⟩ | (simp +contextual (maxDischargeDepth := 30) [*, inv_foldl]; done) | dsimp only | (with_reducible first | apply State.modCore_inv | apply State.setCtx_inv | apply State.modCtx_inv | apply State.setMe_inv | apply State.modMe_inv | apply State.modProc_inv | apply State.modEntry_inv | apply State.setEntry_inv | apply State.send_inv | apply State.modLaunch_inv | apply State.setLaunch_inv) | split

@[simp] theorem State.rmaWrite_inv {s : State} (root : ℕ) (va : ℕ) (bs : List Byte) (h : s.Inv) : (State.rmaWrite s root va bs).Inv := by
  unfold State.rmaWrite
  repeat' first | assumption | (refine inv_foldl ?_ fun _ _ _ => ?_) | (simp (maxDischargeDepth := 30) [*]; done) | exact ⟨h.mem, h.lifecycle, h.tstat, h.phase⟩ | (simp +contextual (maxDischargeDepth := 30) [*, inv_foldl]; done) | dsimp only | (with_reducible first | apply State.modCore_inv | apply State.setCtx_inv | apply State.modCtx_inv | apply State.setMe_inv | apply State.modMe_inv | apply State.modProc_inv | apply State.modEntry_inv | apply State.setEntry_inv | apply State.send_inv | apply State.modLaunch_inv | apply State.setLaunch_inv) | split

theorem State.rma_inv {s : State} (sender mode region va n : ℕ) (write : Bool) (f : State → State) (h : s.Inv)
    (hf : ∀ t : State, t.Inv → (f t).Inv) : (s.rma sender mode region va n write f).Inv := by
  unfold State.rma
  split
  · exact State.emit_inv _ h
  · split
    · rename_i e; exact hf _ (State.frontPages_inv' h e)
    · rename_i e; exact State.frontPages_inv' h e
    · rename_i e; exact State.emit_inv _ (State.frontPages_inv' h e)

@[simp] theorem execRmaWrite_inv (request : RmaRequest) (region va : ℕ) (bytes : List Byte) {s : State} (h : s.Inv) :
    Res.Inv (execRmaWrite request region va bytes s) :=
  State.rma_inv _ _ _ _ _ _ _ h fun _ ht => State.emit_inv _ (State.rmaWrite_inv _ _ _ ht)

@[simp] theorem execRmaRead_inv (request : RmaRequest) (region va len : ℕ) {s : State} (h : s.Inv) :
    Res.Inv (execRmaRead request region va len s) :=
  State.rma_inv _ _ _ _ _ _ _ h fun _ ht => State.emit_inv _ ht

@[simp] theorem State.stepTo_inv {s : State} (time : ℕ) (h : s.Inv) : (State.stepTo s time).Inv := by
  unfold State.stepTo
  repeat' first | assumption | (refine inv_foldl ?_ fun _ _ _ => ?_) | (simp (maxDischargeDepth := 30) [*]; done) | exact ⟨h.mem, h.lifecycle, h.tstat, h.phase⟩ | (simp +contextual (maxDischargeDepth := 30) [*, inv_foldl]; done) | dsimp only | (with_reducible first | apply State.modCore_inv | apply State.setCtx_inv | apply State.modCtx_inv | apply State.setMe_inv | apply State.modMe_inv | apply State.modProc_inv | apply State.modEntry_inv | apply State.setEntry_inv | apply State.send_inv | apply State.modLaunch_inv | apply State.setLaunch_inv) | split

@[simp] theorem execPtpMessage_inv (time : ℕ) (locked : ℕ) {s : State} (h : s.Inv) : Res.Inv (execPtpMessage time locked s) := by
  unfold execPtpMessage
  repeat' first | assumption | (refine inv_foldl ?_ fun _ _ _ => ?_) | (simp (maxDischargeDepth := 30) [*]; done) | exact ⟨h.mem, h.lifecycle, h.tstat, h.phase⟩ | (simp +contextual (maxDischargeDepth := 30) [*, inv_foldl]; done) | dsimp only | (with_reducible first | apply State.modCore_inv | apply State.setCtx_inv | apply State.modCtx_inv | apply State.setMe_inv | apply State.modMe_inv | apply State.modProc_inv | apply State.modEntry_inv | apply State.setEntry_inv | apply State.send_inv | apply State.modLaunch_inv | apply State.setLaunch_inv) | split

@[simp] theorem execNowStep_inv (time : ℕ) {s : State} (h : s.Inv) : Res.Inv (execNowStep time s) := by
  unfold execNowStep
  repeat' first | assumption | (refine inv_foldl ?_ fun _ _ _ => ?_) | (simp (maxDischargeDepth := 30) [*]; done) | exact ⟨h.mem, h.lifecycle, h.tstat, h.phase⟩ | (simp +contextual (maxDischargeDepth := 30) [*, inv_foldl]; done) | dsimp only | (with_reducible first | apply State.modCore_inv | apply State.setCtx_inv | apply State.modCtx_inv | apply State.setMe_inv | apply State.modMe_inv | apply State.modProc_inv | apply State.modEntry_inv | apply State.setEntry_inv | apply State.send_inv | apply State.modLaunch_inv | apply State.setLaunch_inv) | split

@[simp] theorem execMasterLost_inv {s : State} (h : s.Inv) : Res.Inv (execMasterLost s) := by
  unfold execMasterLost
  repeat' first | assumption | (refine inv_foldl ?_ fun _ _ _ => ?_) | (simp (maxDischargeDepth := 30) [*]; done) | exact ⟨h.mem, h.lifecycle, h.tstat, h.phase⟩ | (simp +contextual (maxDischargeDepth := 30) [*, inv_foldl]; done) | dsimp only | (with_reducible first | apply State.modCore_inv | apply State.setCtx_inv | apply State.modCtx_inv | apply State.setMe_inv | apply State.modMe_inv | apply State.modProc_inv | apply State.modEntry_inv | apply State.setEntry_inv | apply State.send_inv | apply State.modLaunch_inv | apply State.setLaunch_inv) | split

@[simp] theorem execHoldoverExpire_inv {s : State} (h : s.Inv) : Res.Inv (execHoldoverExpire s) := by
  unfold execHoldoverExpire
  repeat' first | assumption | (refine inv_foldl ?_ fun _ _ _ => ?_) | (simp (maxDischargeDepth := 30) [*]; done) | exact ⟨h.mem, h.lifecycle, h.tstat, h.phase⟩ | (simp +contextual (maxDischargeDepth := 30) [*, inv_foldl]; done) | dsimp only | (with_reducible first | apply State.modCore_inv | apply State.setCtx_inv | apply State.modCtx_inv | apply State.setMe_inv | apply State.modMe_inv | apply State.modProc_inv | apply State.modEntry_inv | apply State.setEntry_inv | apply State.send_inv | apply State.modLaunch_inv | apply State.setLaunch_inv) | split

@[simp] theorem State.faultLaunch_inv {s : State} (key : ℕ) (pcn : ℕ) (l : Launch) (h : s.Inv) : (State.faultLaunch s key pcn l).Inv := by
  unfold State.faultLaunch
  repeat' first | assumption | (refine inv_foldl ?_ fun _ _ _ => ?_) | (simp (maxDischargeDepth := 30) [*]; done) | exact ⟨h.mem, h.lifecycle, h.tstat, h.phase⟩ | (simp +contextual (maxDischargeDepth := 30) [*, inv_foldl]; done) | dsimp only | (with_reducible first | apply State.modCore_inv | apply State.setCtx_inv | apply State.modCtx_inv | apply State.setMe_inv | apply State.modMe_inv | apply State.modProc_inv | apply State.modEntry_inv | apply State.setEntry_inv | apply State.send_inv | apply State.modLaunch_inv | apply State.setLaunch_inv) | split

@[simp] theorem State.stopDomains_inv {s : State} (hit : ℕ → Bool) (pcn : ℕ) (h : s.Inv) : (State.stopDomains s hit pcn).Inv := by
  unfold State.stopDomains
  repeat' first | assumption | (refine inv_foldl ?_ fun _ _ _ => ?_) | (simp (maxDischargeDepth := 30) [*]; done) | exact ⟨h.mem, h.lifecycle, h.tstat, h.phase⟩ | (simp +contextual (maxDischargeDepth := 30) [*, inv_foldl]; done) | dsimp only | (with_reducible first | apply State.modCore_inv | apply State.setCtx_inv | apply State.modCtx_inv | apply State.setMe_inv | apply State.modMe_inv | apply State.modProc_inv | apply State.modEntry_inv | apply State.setEntry_inv | apply State.send_inv | apply State.modLaunch_inv | apply State.setLaunch_inv) | split

@[simp] theorem State.countUncorrectable_inv {s : State} (pcn : ℕ) (h : s.Inv) : (State.countUncorrectable s pcn).Inv := by
  unfold State.countUncorrectable
  repeat' first | assumption | (refine inv_foldl ?_ fun _ _ _ => ?_) | (simp (maxDischargeDepth := 30) [*]; done) | exact ⟨h.mem, h.lifecycle, h.tstat, h.phase⟩ | (simp +contextual (maxDischargeDepth := 30) [*, inv_foldl]; done) | dsimp only | (with_reducible first | apply State.modCore_inv | apply State.setCtx_inv | apply State.modCtx_inv | apply State.setMe_inv | apply State.modMe_inv | apply State.modProc_inv | apply State.modEntry_inv | apply State.setEntry_inv | apply State.send_inv | apply State.modLaunch_inv | apply State.setLaunch_inv) | split

@[simp] theorem State.strike_inv {s : State} (x1 : Struck) (at' : ℕ) (h : s.Inv) : (State.strike s x1 at').Inv := by
  unfold State.strike
  repeat' first | assumption | (refine inv_foldl ?_ fun _ _ _ => ?_) | (simp (maxDischargeDepth := 30) [*]; done) | exact ⟨h.mem, h.lifecycle, h.tstat, h.phase⟩ | (simp +contextual (maxDischargeDepth := 30) [*, inv_foldl]; done) | dsimp only | (with_reducible first | apply State.modCore_inv | apply State.setCtx_inv | apply State.modCtx_inv | apply State.setMe_inv | apply State.modMe_inv | apply State.modProc_inv | apply State.modEntry_inv | apply State.setEntry_inv | apply State.send_inv | apply State.modLaunch_inv | apply State.setLaunch_inv) | split

@[simp] theorem State.stopAgent_inv {s : State} (tid : ℕ) (place : ℕ) (h : s.Inv) : (State.stopAgent s tid place).Inv := by
  unfold State.stopAgent
  repeat' first | assumption | (refine inv_foldl ?_ fun _ _ _ => ?_) | (simp (maxDischargeDepth := 30) [*]; done) | exact ⟨h.mem, h.lifecycle, h.tstat, h.phase⟩ | (simp +contextual (maxDischargeDepth := 30) [*, inv_foldl]; done) | dsimp only | (with_reducible first | apply State.modCore_inv | apply State.setCtx_inv | apply State.modCtx_inv | apply State.setMe_inv | apply State.modMe_inv | apply State.modProc_inv | apply State.modEntry_inv | apply State.setEntry_inv | apply State.send_inv | apply State.modLaunch_inv | apply State.setLaunch_inv) | split

@[simp] theorem State.stopMet_inv {s : State} (tids : List ℕ) (place : ℕ) (h : s.Inv) : (State.stopMet s tids place).Inv := by
  unfold State.stopMet
  repeat' first | assumption | (refine inv_foldl ?_ fun _ _ _ => ?_) | (simp (maxDischargeDepth := 30) [*]; done) | exact ⟨h.mem, h.lifecycle, h.tstat, h.phase⟩ | (simp +contextual (maxDischargeDepth := 30) [*, inv_foldl]; done) | dsimp only | (with_reducible first | apply State.modCore_inv | apply State.setCtx_inv | apply State.modCtx_inv | apply State.setMe_inv | apply State.modMe_inv | apply State.modProc_inv | apply State.modEntry_inv | apply State.setEntry_inv | apply State.send_inv | apply State.modLaunch_inv | apply State.setLaunch_inv) | split

@[simp] theorem State.errorAt_inv {s : State} (key : ℕ) (h : s.Inv) : (State.errorAt s key).Inv := by
  unfold State.errorAt
  repeat' first | assumption | (refine inv_foldl ?_ fun _ _ _ => ?_) | (simp (maxDischargeDepth := 30) [*]; done) | exact ⟨h.mem, h.lifecycle, h.tstat, h.phase⟩ | (simp +contextual (maxDischargeDepth := 30) [*, inv_foldl]; done) | dsimp only | (with_reducible first | apply State.modCore_inv | apply State.setCtx_inv | apply State.modCtx_inv | apply State.setMe_inv | apply State.modMe_inv | apply State.modProc_inv | apply State.modEntry_inv | apply State.setEntry_inv | apply State.send_inv | apply State.modLaunch_inv | apply State.setLaunch_inv) | split

@[simp] theorem State.errorIn_inv {s : State} (x1 : Struck) (pcn : ℕ) (h : s.Inv) : (State.errorIn s x1 pcn).Inv := by
  unfold State.errorIn
  repeat' first | assumption | (refine inv_foldl ?_ fun _ _ _ => ?_) | (simp (maxDischargeDepth := 30) [*]; done) | exact ⟨h.mem, h.lifecycle, h.tstat, h.phase⟩ | (simp +contextual (maxDischargeDepth := 30) [*, inv_foldl]; done) | dsimp only | (with_reducible first | apply State.modCore_inv | apply State.setCtx_inv | apply State.modCtx_inv | apply State.setMe_inv | apply State.modMe_inv | apply State.modProc_inv | apply State.modEntry_inv | apply State.setEntry_inv | apply State.send_inv | apply State.modLaunch_inv | apply State.setLaunch_inv) | split

@[simp] theorem execUncorrectableError_inv (kind : ℕ) (at' : ℕ) {s : State} (h : s.Inv) : Res.Inv (execUncorrectableError kind at' s) := by
  unfold execUncorrectableError
  repeat' first | assumption | (refine inv_foldl ?_ fun _ _ _ => ?_) | (simp (maxDischargeDepth := 30) [*]; done) | exact ⟨h.mem, h.lifecycle, h.tstat, h.phase⟩ | (simp +contextual (maxDischargeDepth := 30) [*, inv_foldl]; done) | dsimp only | (with_reducible first | apply State.modCore_inv | apply State.setCtx_inv | apply State.modCtx_inv | apply State.setMe_inv | apply State.modMe_inv | apply State.modProc_inv | apply State.modEntry_inv | apply State.setEntry_inv | apply State.send_inv | apply State.modLaunch_inv | apply State.setLaunch_inv) | split

@[simp] theorem execThermalTrip_inv {s : State} (h : s.Inv) : Res.Inv (execThermalTrip s) := by
  unfold execThermalTrip
  repeat' first | assumption | (refine inv_foldl ?_ fun _ _ _ => ?_) | (simp (maxDischargeDepth := 30) [*]; done) | exact ⟨h.mem, h.lifecycle, h.tstat, h.phase⟩ | (simp +contextual (maxDischargeDepth := 30) [*, inv_foldl]; done) | dsimp only | (with_reducible first | apply State.modCore_inv | apply State.setCtx_inv | apply State.modCtx_inv | apply State.setMe_inv | apply State.modMe_inv | apply State.modProc_inv | apply State.modEntry_inv | apply State.setEntry_inv | apply State.send_inv | apply State.modLaunch_inv | apply State.setLaunch_inv) | split

@[simp] theorem execLoadWindowEnd_inv (pcn : ℕ) (north : ℕ) (east : ℕ) (south : ℕ) (west : ℕ) {s : State} (h : s.Inv) : Res.Inv (execLoadWindowEnd pcn north east south west s) := by
  unfold execLoadWindowEnd
  repeat' first | assumption | (refine inv_foldl ?_ fun _ _ _ => ?_) | (simp (maxDischargeDepth := 30) [*]; done) | exact ⟨h.mem, h.lifecycle, h.tstat, h.phase⟩ | (simp +contextual (maxDischargeDepth := 30) [*, inv_foldl]; done) | dsimp only | (with_reducible first | apply State.modCore_inv | apply State.setCtx_inv | apply State.modCtx_inv | apply State.setMe_inv | apply State.modMe_inv | apply State.modProc_inv | apply State.modEntry_inv | apply State.setEntry_inv | apply State.send_inv | apply State.modLaunch_inv | apply State.setLaunch_inv) | split

@[simp] theorem State.putFlag_inv {s : State} (r : ℕ) (bit : ℕ) (v : Bool) (h : s.Inv) : (State.putFlag s r bit v).Inv := by
  unfold State.putFlag
  repeat' first | assumption | (refine inv_foldl ?_ fun _ _ _ => ?_) | (simp (maxDischargeDepth := 30) [*]; done) | exact ⟨h.mem, h.lifecycle, h.tstat, h.phase⟩ | (simp +contextual (maxDischargeDepth := 30) [*, inv_foldl]; done) | dsimp only | (with_reducible first | apply State.modCore_inv | apply State.setCtx_inv | apply State.modCtx_inv | apply State.setMe_inv | apply State.modMe_inv | apply State.modProc_inv | apply State.modEntry_inv | apply State.setEntry_inv | apply State.send_inv | apply State.modLaunch_inv | apply State.setLaunch_inv) | split

@[simp] theorem State.setLive_inv {s : State} (r : ℕ) (h : s.Inv) : (State.setLive s r).Inv := by
  unfold State.setLive
  repeat' first | assumption | (refine inv_foldl ?_ fun _ _ _ => ?_) | (simp (maxDischargeDepth := 30) [*]; done) | exact ⟨h.mem, h.lifecycle, h.tstat, h.phase⟩ | (simp +contextual (maxDischargeDepth := 30) [*, inv_foldl]; done) | dsimp only | (with_reducible first | apply State.modCore_inv | apply State.setCtx_inv | apply State.modCtx_inv | apply State.setMe_inv | apply State.modMe_inv | apply State.modProc_inv | apply State.modEntry_inv | apply State.setEntry_inv | apply State.send_inv | apply State.modLaunch_inv | apply State.setLaunch_inv) | split

@[simp] theorem execRegionLiveSet_inv (region : ℕ) {s : State} (h : s.Inv) : Res.Inv (execRegionLiveSet region s) := by
  unfold execRegionLiveSet
  repeat' first | assumption | (refine inv_foldl ?_ fun _ _ _ => ?_) | (simp (maxDischargeDepth := 30) [*]; done) | exact ⟨h.mem, h.lifecycle, h.tstat, h.phase⟩ | (simp +contextual (maxDischargeDepth := 30) [*, inv_foldl]; done) | dsimp only | (with_reducible first | apply State.modCore_inv | apply State.setCtx_inv | apply State.modCtx_inv | apply State.setMe_inv | apply State.modMe_inv | apply State.modProc_inv | apply State.modEntry_inv | apply State.setEntry_inv | apply State.send_inv | apply State.modLaunch_inv | apply State.setLaunch_inv) | split

@[simp] theorem execSwitchNotice_inv (n : ℕ) {s : State} (h : s.Inv) : Res.Inv (execSwitchNotice n s) := by
  unfold execSwitchNotice
  split <;> (try have h2 := State.arrive_inv h ‹_›) <;> repeat' first | assumption | (refine inv_foldl ?_ fun _ _ _ => ?_) | (simp (maxDischargeDepth := 30) [*]; done) | exact ⟨h.mem, h.lifecycle, h.tstat, h.phase⟩ | (simp +contextual (maxDischargeDepth := 30) [*, inv_foldl]; done) | dsimp only | (with_reducible first | apply State.modCore_inv | apply State.setCtx_inv | apply State.modCtx_inv | apply State.setMe_inv | apply State.modMe_inv | apply State.modProc_inv | apply State.modEntry_inv | apply State.setEntry_inv | apply State.send_inv | apply State.modLaunch_inv | apply State.setLaunch_inv) | split

@[simp] theorem State.flagRegions_inv {s : State} (colour : ℕ) (bit : ℕ) (v : Bool) (h : s.Inv) : (State.flagRegions s colour bit v).Inv := by
  unfold State.flagRegions
  repeat' first | assumption | (refine inv_foldl ?_ fun _ _ _ => ?_) | (simp (maxDischargeDepth := 30) [*]; done) | exact ⟨h.mem, h.lifecycle, h.tstat, h.phase⟩ | (simp +contextual (maxDischargeDepth := 30) [*, inv_foldl]; done) | dsimp only | (with_reducible first | apply State.modCore_inv | apply State.setCtx_inv | apply State.modCtx_inv | apply State.setMe_inv | apply State.modMe_inv | apply State.modProc_inv | apply State.modEntry_inv | apply State.setEntry_inv | apply State.send_inv | apply State.modLaunch_inv | apply State.setLaunch_inv) | split

@[simp] theorem State.logPacket_inv {s : State} (colour : ℕ) (x2 : LogEntry) (h : s.Inv) : (State.logPacket s colour x2).Inv := by
  unfold State.logPacket
  repeat' first | assumption | (refine inv_foldl ?_ fun _ _ _ => ?_) | (simp (maxDischargeDepth := 30) [*]; done) | exact ⟨h.mem, h.lifecycle, h.tstat, h.phase⟩ | (simp +contextual (maxDischargeDepth := 30) [*, inv_foldl]; done) | dsimp only | (with_reducible first | apply State.modCore_inv | apply State.setCtx_inv | apply State.modCtx_inv | apply State.setMe_inv | apply State.modMe_inv | apply State.modProc_inv | apply State.modEntry_inv | apply State.setEntry_inv | apply State.send_inv | apply State.modLaunch_inv | apply State.setLaunch_inv) | split

@[simp] theorem State.drain_inv {s : State} (colour : ℕ) (h : s.Inv) : (State.drain s colour).Inv := by
  unfold State.drain
  repeat' first | assumption | (refine inv_foldl ?_ fun _ _ _ => ?_) | (simp (maxDischargeDepth := 30) [*]; done) | exact ⟨h.mem, h.lifecycle, h.tstat, h.phase⟩ | (simp +contextual (maxDischargeDepth := 30) [*, inv_foldl]; done) | dsimp only | (with_reducible first | apply State.modCore_inv | apply State.setCtx_inv | apply State.modCtx_inv | apply State.setMe_inv | apply State.modMe_inv | apply State.modProc_inv | apply State.modEntry_inv | apply State.setEntry_inv | apply State.send_inv | apply State.modLaunch_inv | apply State.setLaunch_inv) | split

@[simp] theorem State.stopGroup_inv {s : State} (colour : ℕ) (h : s.Inv) : (State.stopGroup s colour).Inv := by
  unfold State.stopGroup
  repeat' first | assumption | (refine inv_foldl ?_ fun _ _ _ => ?_) | (simp (maxDischargeDepth := 30) [*]; done) | exact ⟨h.mem, h.lifecycle, h.tstat, h.phase⟩ | (simp +contextual (maxDischargeDepth := 30) [*, inv_foldl]; done) | dsimp only | (with_reducible first | apply State.modCore_inv | apply State.setCtx_inv | apply State.modCtx_inv | apply State.setMe_inv | apply State.modMe_inv | apply State.modProc_inv | apply State.modEntry_inv | apply State.setEntry_inv | apply State.send_inv | apply State.modLaunch_inv | apply State.setLaunch_inv) | split

@[simp] theorem execGangStop_inv (colour : ℕ) {s : State} (h : s.Inv) : Res.Inv (execGangStop colour s) := by
  unfold execGangStop
  repeat' first | assumption | (refine inv_foldl ?_ fun _ _ _ => ?_) | (simp (maxDischargeDepth := 30) [*]; done) | exact ⟨h.mem, h.lifecycle, h.tstat, h.phase⟩ | (simp +contextual (maxDischargeDepth := 30) [*, inv_foldl]; done) | dsimp only | (with_reducible first | apply State.modCore_inv | apply State.setCtx_inv | apply State.modCtx_inv | apply State.setMe_inv | apply State.modMe_inv | apply State.modProc_inv | apply State.modEntry_inv | apply State.setEntry_inv | apply State.send_inv | apply State.modLaunch_inv | apply State.setLaunch_inv) | split

@[simp] theorem State.saveCore_inv {s : State} (colour : ℕ) (cores : List ℕ) (pcn : ℕ) (h : s.Inv) :
    (s.saveCore colour cores pcn).Inv := by
  unfold State.saveCore
  dsimp only
  generalize State.blockBytes _ = bs
  exact State.modGroup_inv _ _ (State.setCore_inv _ _
    ⟨memWrite_wf _ _ (zeroCores_wf _ h.mem), h.lifecycle, h.tstat, h.phase⟩)

@[simp] theorem State.saveGroup_inv {s : State} (colour : ℕ) (h : s.Inv) : (State.saveGroup s colour).Inv := by
  unfold State.saveGroup
  repeat' first | assumption | (refine inv_foldl ?_ fun _ _ _ => ?_) | (simp (maxDischargeDepth := 30) [*]; done) | exact ⟨h.mem, h.lifecycle, h.tstat, h.phase⟩ | (simp +contextual (maxDischargeDepth := 30) [*, inv_foldl]; done) | dsimp only | (with_reducible first | apply State.modCore_inv | apply State.setCtx_inv | apply State.modCtx_inv | apply State.setMe_inv | apply State.modMe_inv | apply State.modProc_inv | apply State.modEntry_inv | apply State.setEntry_inv | apply State.send_inv | apply State.modLaunch_inv | apply State.setLaunch_inv) | split

@[simp] theorem execGangSave_inv (colour : ℕ) {s : State} (h : s.Inv) : Res.Inv (execGangSave colour s) := by
  unfold execGangSave
  repeat' first | assumption | (refine inv_foldl ?_ fun _ _ _ => ?_) | (simp (maxDischargeDepth := 30) [*]; done) | exact ⟨h.mem, h.lifecycle, h.tstat, h.phase⟩ | (simp +contextual (maxDischargeDepth := 30) [*, inv_foldl]; done) | dsimp only | (with_reducible first | apply State.modCore_inv | apply State.setCtx_inv | apply State.modCtx_inv | apply State.setMe_inv | apply State.modMe_inv | apply State.modProc_inv | apply State.modEntry_inv | apply State.setEntry_inv | apply State.send_inv | apply State.modLaunch_inv | apply State.setLaunch_inv) | split

@[simp] theorem execLatePacketLog_inv (n : ℕ) {s : State} (h : s.Inv) : Res.Inv (execLatePacketLog n s) := by
  unfold execLatePacketLog
  repeat' first | assumption | (refine inv_foldl ?_ fun _ _ _ => ?_) | (simp (maxDischargeDepth := 30) [*]; done) | exact ⟨h.mem, h.lifecycle, h.tstat, h.phase⟩ | (simp +contextual (maxDischargeDepth := 30) [*, inv_foldl]; done) | dsimp only | (with_reducible first | apply State.modCore_inv | apply State.setCtx_inv | apply State.modCtx_inv | apply State.setMe_inv | apply State.modMe_inv | apply State.modProc_inv | apply State.modEntry_inv | apply State.setEntry_inv | apply State.send_inv | apply State.modLaunch_inv | apply State.setLaunch_inv) | split

@[simp] theorem State.spoilCtx_inv {s : State} (tid : ℕ) (h : s.Inv) : (State.spoilCtx s tid).Inv := by
  unfold State.spoilCtx
  repeat' first | assumption | (refine inv_foldl ?_ fun _ _ _ => ?_) | (simp (maxDischargeDepth := 30) [*]; done) | exact ⟨h.mem, h.lifecycle, h.tstat, h.phase⟩ | (simp +contextual (maxDischargeDepth := 30) [*, inv_foldl]; done) | dsimp only | (with_reducible first | apply State.modCore_inv | apply State.setCtx_inv | apply State.modCtx_inv | apply State.setMe_inv | apply State.modMe_inv | apply State.modProc_inv | apply State.modEntry_inv | apply State.setEntry_inv | apply State.send_inv | apply State.modLaunch_inv | apply State.setLaunch_inv) | split

@[simp] theorem State.spoilCore_inv {s : State} (pcn : ℕ) (tids : List ℕ) (h : s.Inv) : (s.spoilCore pcn tids).Inv := by
  unfold State.spoilCore
  have h1 := State.freeBytes_inv Config.reservedByte (localKey pcn 0) 0x20000 h
  exact inv_foldl h1 fun t x ht => State.spoilCtx_inv _ ht

@[simp] theorem State.restoreCore_inv {s : State} (b : SavedCore) (h : s.Inv) : (State.restoreCore s b).Inv := by
  unfold State.restoreCore
  repeat' first | assumption | (refine inv_foldl ?_ fun _ _ _ => ?_) | (simp (maxDischargeDepth := 30) [*]; done) | exact ⟨h.mem, h.lifecycle, h.tstat, h.phase⟩ | (simp +contextual (maxDischargeDepth := 30) [*, inv_foldl]; done) | dsimp only | (with_reducible first | apply State.modCore_inv | apply State.setCtx_inv | apply State.modCtx_inv | apply State.setMe_inv | apply State.modMe_inv | apply State.modProc_inv | apply State.modEntry_inv | apply State.setEntry_inv | apply State.send_inv | apply State.modLaunch_inv | apply State.setLaunch_inv) | split

@[simp] theorem State.unpark_inv {s : State} (colour : ℕ) (h : s.Inv) : (State.unpark s colour).Inv := by
  unfold State.unpark
  repeat' first | assumption | (refine inv_foldl ?_ fun _ _ _ => ?_) | (simp (maxDischargeDepth := 30) [*]; done) | exact ⟨h.mem, h.lifecycle, h.tstat, h.phase⟩ | (simp +contextual (maxDischargeDepth := 30) [*, inv_foldl]; done) | dsimp only | (with_reducible first | apply State.modCore_inv | apply State.setCtx_inv | apply State.modCtx_inv | apply State.setMe_inv | apply State.modMe_inv | apply State.modProc_inv | apply State.modEntry_inv | apply State.setEntry_inv | apply State.send_inv | apply State.modLaunch_inv | apply State.setLaunch_inv) | split

@[simp] theorem State.laterPromises_inv {s : State} (colour : ℕ) (d : ℕ) (h : s.Inv) : (State.laterPromises s colour d).Inv := by
  unfold State.laterPromises
  repeat' first | assumption | (refine inv_foldl ?_ fun _ _ _ => ?_) | (simp (maxDischargeDepth := 30) [*]; done) | exact ⟨h.mem, h.lifecycle, h.tstat, h.phase⟩ | (simp +contextual (maxDischargeDepth := 30) [*, inv_foldl]; done) | dsimp only | (with_reducible first | apply State.modCore_inv | apply State.setCtx_inv | apply State.modCtx_inv | apply State.setMe_inv | apply State.modMe_inv | apply State.modProc_inv | apply State.modEntry_inv | apply State.setEntry_inv | apply State.send_inv | apply State.modLaunch_inv | apply State.setLaunch_inv) | split

@[simp] theorem State.laterDeadlines_inv {s : State} (colour : ℕ) (d : ℕ) (h : s.Inv) : (State.laterDeadlines s colour d).Inv := by
  unfold State.laterDeadlines
  repeat' first | assumption | (refine inv_foldl ?_ fun _ _ _ => ?_) | (simp (maxDischargeDepth := 30) [*]; done) | exact ⟨h.mem, h.lifecycle, h.tstat, h.phase⟩ | (simp +contextual (maxDischargeDepth := 30) [*, inv_foldl]; done) | dsimp only | (with_reducible first | apply State.modCore_inv | apply State.setCtx_inv | apply State.modCtx_inv | apply State.setMe_inv | apply State.modMe_inv | apply State.modProc_inv | apply State.modEntry_inv | apply State.setEntry_inv | apply State.send_inv | apply State.modLaunch_inv | apply State.setLaunch_inv) | split

@[simp] theorem State.resumeGroup_inv {s : State} (colour : ℕ) (time : ℕ) (h : s.Inv) : (State.resumeGroup s colour time).Inv := by
  unfold State.resumeGroup
  repeat' first | assumption | (refine inv_foldl ?_ fun _ _ _ => ?_) | (simp (maxDischargeDepth := 30) [*]; done) | exact ⟨h.mem, h.lifecycle, h.tstat, h.phase⟩ | (simp +contextual (maxDischargeDepth := 30) [*, inv_foldl]; done) | dsimp only | (with_reducible first | apply State.modCore_inv | apply State.setCtx_inv | apply State.modCtx_inv | apply State.setMe_inv | apply State.modMe_inv | apply State.modProc_inv | apply State.modEntry_inv | apply State.setEntry_inv | apply State.send_inv | apply State.modLaunch_inv | apply State.setLaunch_inv) | split

@[simp] theorem execGangResume_inv (colour : ℕ) (time : ℕ) {s : State} (h : s.Inv) : Res.Inv (execGangResume colour time s) := by
  unfold execGangResume
  repeat' first | assumption | (refine inv_foldl ?_ fun _ _ _ => ?_) | (simp (maxDischargeDepth := 30) [*]; done) | exact ⟨h.mem, h.lifecycle, h.tstat, h.phase⟩ | (simp +contextual (maxDischargeDepth := 30) [*, inv_foldl]; done) | dsimp only | (with_reducible first | apply State.modCore_inv | apply State.setCtx_inv | apply State.modCtx_inv | apply State.setMe_inv | apply State.modMe_inv | apply State.modProc_inv | apply State.modEntry_inv | apply State.setEntry_inv | apply State.send_inv | apply State.modLaunch_inv | apply State.setLaunch_inv) | split

end Sys2Proof.Machine
end

