-- ==== Sys2Proof/Laws/Lanes.lean ====
section
/-!
SUPPORT. Elements of a vector register: an element after another has been replaced, a register after it has been written,
and what a run over the active lanes gives each of them.
-/

namespace Sys2Proof.Machine

theorem testBit_elem (v w i n : Nat) : (elem v w i).testBit n = (decide (n < w) && v.testBit (w * i + n)) := by
  simp [elem, Nat.testBit_mod_two_pow, Nat.testBit_div_two_pow, Nat.add_comm]

theorem testBit_setElem (v w i x n : Nat) :
    (setElem v w i x).testBit n =
      if n < w * i then v.testBit n else if n < w * i + w then x.testBit (n - w * i) else v.testBit n := by
  have e : setElem v w i x = 2 ^ (w * i) * (2 ^ w * (v / 2 ^ (w * i + w)) + x % 2 ^ w) + v % 2 ^ (w * i) := by
    unfold setElem; ring
  rw [e, Nat.testBit_two_pow_mul_add _ (Nat.mod_lt _ (by positivity)),
    Nat.testBit_two_pow_mul_add _ (Nat.mod_lt _ (by positivity))]
  by_cases h1 : n < w * i
  · simp [h1, Nat.testBit_mod_two_pow]
  · by_cases h2 : n < w * i + w
    · have h3 : n - w * i < w := by omega
      simp [h1, h2, h3, Nat.testBit_mod_two_pow]
    · have h3 : ¬ n - w * i < w := by omega
      simp only [h1, h2, h3, if_false, Nat.testBit_div_two_pow]
      congr 1; omega

theorem elem_setElem_same (v w i x : Nat) : elem (setElem v w i x) w i = x % 2 ^ w := by
  apply Nat.eq_of_testBit_eq
  intro n
  rw [testBit_elem, testBit_setElem, Nat.testBit_mod_two_pow]
  by_cases h : n < w
  · simp [h]
  · simp [h]

theorem elem_setElem_other (v w x : Nat) {i j : Nat} (h : j ≠ i) : elem (setElem v w i x) w j = elem v w j := by
  apply Nat.eq_of_testBit_eq
  intro n
  rw [testBit_elem, testBit_elem, testBit_setElem]
  by_cases hn : n < w
  · rcases Nat.lt_or_gt_of_ne h with h1 | h1
    · have : w * j + w ≤ w * i := by
        calc w * j + w = w * (j + 1) := by ring
          _ ≤ w * i := Nat.mul_le_mul_left _ h1
      have h2 : w * j + n < w * i := by omega
      simp [h2]
    · have : w * i + w ≤ w * j := by
        calc w * i + w = w * (i + 1) := by ring
          _ ≤ w * j := Nat.mul_le_mul_left _ h1
      have h2 : ¬ w * j + n < w * i := by omega
      have h3 : ¬ w * j + n < w * i + w := by omega
      simp [h2, h3]
  · simp [hn]

/-- What lies above an element stays. -/
theorem setElem_above (v w x : Nat) {i b : Nat} (h : w * i + w ≤ b) : setElem v w i x / 2 ^ b = v / 2 ^ b := by
  apply Nat.eq_of_testBit_eq
  intro n
  rw [Nat.testBit_div_two_pow, Nat.testBit_div_two_pow, testBit_setElem]
  have h1 : ¬ n + b < w * i := by omega
  have h2 : ¬ n + b < w * i + w := by omega
  simp [h1, h2]

theorem setElem_lt (v w x : Nat) {i b : Nat} (h : w * i + w ≤ b) (hv : v < 2 ^ b) : setElem v w i x < 2 ^ b := by
  have := setElem_above v w x h
  rw [Nat.div_eq_of_lt hv] at this
  exact (Nat.div_eq_zero_iff_lt (by positivity)).mp this

/-! ## Registers -/

theorem State.vKey_eq (s t : State) (h : t.cur = s.cur) (d : VReg) : t.vKey d = s.vKey d := by
  simp [State.vKey, State.here, h]

theorem vKey_slot0 (s : State) (d : VReg) (hs : slotOfTid s.cur ≠ 0) : isSlot0Vector (s.vKey d) = false := by
  have hd : d.val < 8 := d.isLt
  have h16 : slotOfTid s.cur < 16 := Nat.mod_lt _ (by norm_num)
  rw [Bool.eq_false_iff]
  intro h
  simp only [isSlot0Vector, Bool.and_eq_true, decide_eq_true_eq] at h
  obtain ⟨⟨h1, h2⟩, h3⟩ := h
  unfold State.vKey vecKey at h1 h2 h3
  omega

/-- A vector register reads as written. -/
theorem State.v_setV (s : State) (d : VReg) (v : Nat) (w : memWf s.mem = true) (hs : slotOfTid s.cur ≠ 0)
    (hv : v < 2 ^ 512) : (s.setV d v).v d = v := by
  unfold State.v memNat
  have hk : (s.setV d v).vKey d = s.vKey d := rfl
  rw [hk]
  unfold State.setV storeBytes
  rw [vKey_slot0 s d hs]
  simp only [State.setMem, Bool.false_eq_true, if_false]
  have h := memBytes_write_same w (s.vKey d) (bytesOfNat 64 v)
  rw [length_bytesOfNat] at h
  rw [h]
  exact natOfBytes_bytesOfNat 64 v (by rw [show (256 : Nat) = 2 ^ 8 from rfl, ← pow_mul]; exact hv)

theorem memNat_lt (m : Mem) (a n : Nat) : memNat m a n < 256 ^ n := by
  unfold memNat
  induction n generalizing a with
  | zero => simp [memBytes, natOfBytes]
  | succ n ih =>
    have := ih (a + 1)
    have hb := (memGet a m).isLt
    simp only [memBytes, natOfBytes, pow_succ]
    omega

theorem State.v_lt (s : State) (d : VReg) : s.v d < 2 ^ 512 := by
  have := memNat_lt s.mem (s.vKey d) 64
  rw [show (256 : Nat) = 2 ^ 8 from rfl, ← pow_mul] at this
  exact this

/-- Bytes outside a vector register stay when it is written. -/
theorem State.setV_frame (s : State) (d : VReg) (v a : Nat)
    (h : a < s.vKey d ∨ s.vKey d + 64 ≤ a ∨ (slotOfTid s.cur = 0 ∧ s.cur < 65536)) :
    memGet a (s.setV d v).mem = memGet a s.mem := by
  unfold State.setV storeBytes
  split
  · have hd : d.val < 8 := d.isLt
    have : (bytesOfNat 64 v).drop (512 - s.vKey d % 512) = [] := by
      apply List.drop_eq_nil_of_le
      rw [length_bytesOfNat]
      unfold State.vKey vecKey
      omega
    simp only [this, State.setMem, memWrite]
  · rename_i h0
    simp only [State.setMem]
    rcases h with h | h | h
    · exact memGet_write_other _ _ (Or.inl h)
    · exact memGet_write_other _ _ (Or.inr (by rw [length_bytesOfNat]; exact h))
    · exfalso; apply h0
      have hd : d.val < 8 := d.isLt
      simp only [isSlot0Vector, State.vKey, vecKey, State.here, h.1, coreOfTid, Bool.and_eq_true, decide_eq_true_eq]
      have h2 := h.2
      refine ⟨⟨by omega, by omega⟩, by omega⟩

/-! ## A run over lanes -/

/-- The generator before pair j. -/
def laneGen (on : Nat → Bool) (f : Nat → BitVec 32 → FpResult) (g0 : BitVec 32) : Nat → BitVec 32
  | 0 => g0
  | j + 1 => if on j then (f j (laneGen on f g0 j)).srng else laneGen on f g0 j

/-- The run over the first n pairs. -/
def laneRun (w : Nat) (on : Nat → Bool) (place : Nat → Nat) (f : Nat → BitVec 32 → FpResult) (n : Nat) (acc : LaneAcc) :
    LaneAcc :=
  (List.range n).foldl (fun a j =>
    if on j then
      let r := f j a.srng
      ⟨setElem a.value w (place j) r.bits, a.flags ||| r.flags, r.srng⟩
    else a) acc

theorem laneRun_succ (w : Nat) (on : Nat → Bool) (place : Nat → Nat) (f : Nat → BitVec 32 → FpResult) (n : Nat)
    (acc : LaneAcc) :
    laneRun w on place f (n + 1) acc =
      let a := laneRun w on place f n acc
      if on n then
        let r := f n a.srng
        ⟨setElem a.value w (place n) r.bits, a.flags ||| r.flags, r.srng⟩
      else a := by
  simp [laneRun, List.range_succ]

theorem laneRun_srng (w : Nat) (on : Nat → Bool) (place : Nat → Nat) (f : Nat → BitVec 32 → FpResult) (n : Nat)
    (acc : LaneAcc) : (laneRun w on place f n acc).srng = laneGen on f acc.srng n := by
  induction n with
  | zero => rfl
  | succ n ih =>
    rw [laneRun_succ]
    simp only [laneGen]
    split <;> simp [ih]

theorem laneRun_flags (w : Nat) (on : Nat → Bool) (place : Nat → Nat) (f : Nat → BitVec 32 → FpResult) (n : Nat)
    (acc : LaneAcc) (b : Nat) :
    (laneRun w on place f n acc).flags.getLsbD b =
      (acc.flags.getLsbD b || (List.range n).any fun j => on j && (f j (laneGen on f acc.srng j)).flags.getLsbD b) := by
  induction n with
  | zero => simp [laneRun]
  | succ n ih =>
    have hs := laneRun_srng w on place f n acc
    rw [laneRun_succ]
    cases h : on n
    · simp [h, ih, List.range_succ]
    · simp [h, ih, List.range_succ, hs, Bool.or_assoc]

theorem laneRun_place {w n : Nat} {on : Nat → Bool} {place : Nat → Nat} (f : Nat → BitVec 32 → FpResult) (acc : LaneAcc)
    (inj : ∀ i j, i < n → j < n → on i = true → on j = true → place i = place j → i = j) :
    ∀ j < n, on j = true →
      elem (laneRun w on place f n acc).value w (place j) = (f j (laneGen on f acc.srng j)).bits % 2 ^ w := by
  induction n with
  | zero => intro j h; omega
  | succ n ih =>
    intro j hj hon
    have hs := laneRun_srng w on place f n acc
    rw [laneRun_succ]
    by_cases h : j = n
    · subst h; simp [hon, elem_setElem_same, hs]
    · have ih' := ih (fun i j hi hj => inj i j (by omega) (by omega)) j (by omega) hon
      cases hn : on n
      · simpa [hn] using ih'
      · have hne : place j ≠ place n := fun e => h (inj j n hj (by omega) hon hn e)
        simp only [if_true]
        rw [elem_setElem_other _ _ _ hne]
        exact ih'

theorem laneRun_other {w n e : Nat} {on : Nat → Bool} {place : Nat → Nat} (f : Nat → BitVec 32 → FpResult) (acc : LaneAcc)
    (h : ∀ j < n, on j = true → place j ≠ e) : elem (laneRun w on place f n acc).value w e = elem acc.value w e := by
  induction n with
  | zero => rfl
  | succ n ih =>
    have ih' := ih fun j hj => h j (by omega)
    rw [laneRun_succ]
    cases hn : on n
    · simpa [hn] using ih'
    · simp only [if_true]
      rw [elem_setElem_other _ _ _ (Ne.symm (h n (by omega) hn))]
      exact ih'

theorem laneRun_above {w n b : Nat} {on : Nat → Bool} {place : Nat → Nat} (f : Nat → BitVec 32 → FpResult) (acc : LaneAcc)
    (h : ∀ j < n, on j = true → w * place j + w ≤ b) :
    (laneRun w on place f n acc).value / 2 ^ b = acc.value / 2 ^ b := by
  induction n with
  | zero => rfl
  | succ n ih =>
    have ih' := ih fun j hj => h j (by omega)
    rw [laneRun_succ]
    cases hn : on n
    · simpa [hn] using ih'
    · simp only [if_true]
      rw [setElem_above _ _ _ (h n (by omega) hn)]
      exact ih'

/-- A run over lanes that is written to v[d] writes lanes. -/
theorem writeVFp_lanes {i : Instr} {s : State} {d : VReg} {w n : Nat} {on : Nat → Bool} {place : Nat → Nat}
    {f : Nat → BitVec 32 → FpResult}
    (he : exec i s = s.writeVFp d (laneRun w on place f n ⟨s.v d, 0, s.me.srng⟩))
    (hp : ∀ j < n, on j = true → w * place j + w ≤ 512 / w * w)
    (inj : ∀ i j, i < n → j < n → on i = true → on j = true → place i = place j → i = j) :
    SetsLanes i s d w n on place f := by
  refine ⟨laneGen on f s.me.srng, rfl, fun _ => rfl, _, he, ?_⟩
  generalize hr : laneRun w on place f n ⟨s.v d, 0, s.me.srng⟩ = r
  have hme : (s.setV d r.value).me = s.me := rfl
  have hc : (s.setV d r.value).cur = s.cur := rfl
  have e1 := laneRun_srng w on place f n ⟨s.v d, 0, s.me.srng⟩
  have e2 := laneRun_flags w on place f n ⟨s.v d, 0, s.me.srng⟩
  have e3 := laneRun_place (w := w) f ⟨s.v d, 0, s.me.srng⟩ inj
  have e4 := fun e => laneRun_other (w := w) (n := n) (e := e) (on := on) (place := place) f ⟨s.v d, 0, s.me.srng⟩
  have e5 := laneRun_above (w := w) (b := 512 / w * w) f ⟨s.v d, 0, s.me.srng⟩ hp
  rw [hr] at e1 e2 e3 e5
  have e4' : ∀ e, (∀ j < n, on j = true → place j ≠ e) → elem r.value w e = elem (s.v d) w e := by
    intro e h; have := e4 e h; rw [hr] at this; exact this
  refine ⟨⟨rfl, ?_, ?_, ?_, ?_⟩, ?_, ?_, ?_⟩
  · intro k hk
    rw [State.ctx_modMe_other _ (by rw [hc]; exact hk)]; rfl
  · intro a ha
    rw [State.modMe_mem]
    exact s.setV_frame d r.value a ha
  · rw [State.me_modMe]; exact ⟨rfl, rfl, rfl, rfl, rfl⟩
  · rw [State.me_modMe, hme]; rfl
  · rw [State.me_modMe, Ctx.advance_srng, Ctx.raise_srng]
    exact e1
  · intro b
    rw [State.me_modMe, hme]
    simp only [Ctx.advance_fflags, Ctx.raise_fflags, BitVec.getLsbD_or, BitVec.getLsbD_and]
    rw [e2]
    simp [Bool.and_comm]
  · intro hw hs
    have hlt : r.value < 2 ^ 512 := by
      have h5 : s.v d < 2 ^ 512 := s.v_lt d
      have hb : 512 / w * w ≤ 512 := Nat.div_mul_le_self _ _
      have h6 : r.value / 2 ^ 512 = s.v d / 2 ^ 512 := by
        have a1 := laneRun_above (w := w) (b := 512) f ⟨s.v d, 0, s.me.srng⟩ (fun j hj h => le_trans (hp j hj h) hb)
        rw [hr] at a1; exact a1
      rw [Nat.div_eq_of_lt h5] at h6
      exact (Nat.div_eq_zero_iff_lt (by positivity)).mp h6
    have hv : ((s.setV d r.value).modMe fun c => ({ c with srng := r.srng }.raise r.flags).advance).v d = r.value := by
      exact s.v_setV d r.value hw hs hlt
    rw [hv]
    exact ⟨e3, fun e _ h => e4' e h, e5⟩

end Sys2Proof.Machine
end

