-- ==== Sys2Proof/Laws/PerInstr.lean ====
section
/-!
SUPPORT. Statements made per instruction: RoundTrip says that the decoder reads a well-formed instruction back from the
word that the encoder gives it.
-/

set_option Elab.async false
set_option linter.all false

namespace Sys2Proof.Laws

/-- The word of a well-formed instruction, if it has one, decodes to it. -/
def RoundTrip.Statement (i : Instr) : Prop := i.wf = true → ∀ w, encode i = some w → decodeWord w = .ok i

/-- A step without a word has none to decode. -/
theorem roundTrip_none {i : Instr} (h : i.fields = none) : RoundTrip.Statement i := by
  intro _ w he
  simp [encode, h] at he

theorem RoundTrip.add (d : GReg) (a : GReg) (b : GReg) : RoundTrip.Statement (.add d a b) := by
  intro wf x he
  have h_d := d.isLt
  have h_a := a.isLt
  have h_b := b.isLt
  refine decodeWord_of_fields rfl ?_ ?_ x he
  · constructor <;> simp only [] <;> omega
  · simp only [Fields.decode, decodeAlu, zero, gField_val, pField_val, vField_val, mField_val, imm16_hi_lo, bind, Except.bind, pure, Except.pure, if_true, if_false, ne_eq, not_true_eq_false, not_false_eq_true, reduceIte, Nat.add_zero, and_self, or_self, decide_true]

theorem RoundTrip.sub (d : GReg) (a : GReg) (b : GReg) : RoundTrip.Statement (.sub d a b) := by
  intro wf x he
  have h_d := d.isLt
  have h_a := a.isLt
  have h_b := b.isLt
  refine decodeWord_of_fields rfl ?_ ?_ x he
  · constructor <;> simp only [] <;> omega
  · simp only [Fields.decode, decodeAlu, zero, gField_val, pField_val, vField_val, mField_val, imm16_hi_lo, bind, Except.bind, pure, Except.pure, if_true, if_false, ne_eq, not_true_eq_false, not_false_eq_true, reduceIte, Nat.add_zero, and_self, or_self, decide_true]

theorem RoundTrip.and (d : GReg) (a : GReg) (b : GReg) : RoundTrip.Statement (.and d a b) := by
  intro wf x he
  have h_d := d.isLt
  have h_a := a.isLt
  have h_b := b.isLt
  refine decodeWord_of_fields rfl ?_ ?_ x he
  · constructor <;> simp only [] <;> omega
  · simp only [Fields.decode, decodeAlu, zero, gField_val, pField_val, vField_val, mField_val, imm16_hi_lo, bind, Except.bind, pure, Except.pure, if_true, if_false, ne_eq, not_true_eq_false, not_false_eq_true, reduceIte, Nat.add_zero, and_self, or_self, decide_true]

theorem RoundTrip.or (d : GReg) (a : GReg) (b : GReg) : RoundTrip.Statement (.or d a b) := by
  intro wf x he
  have h_d := d.isLt
  have h_a := a.isLt
  have h_b := b.isLt
  refine decodeWord_of_fields rfl ?_ ?_ x he
  · constructor <;> simp only [] <;> omega
  · simp only [Fields.decode, decodeAlu, zero, gField_val, pField_val, vField_val, mField_val, imm16_hi_lo, bind, Except.bind, pure, Except.pure, if_true, if_false, ne_eq, not_true_eq_false, not_false_eq_true, reduceIte, Nat.add_zero, and_self, or_self, decide_true]

theorem RoundTrip.xor (d : GReg) (a : GReg) (b : GReg) : RoundTrip.Statement (.xor d a b) := by
  intro wf x he
  have h_d := d.isLt
  have h_a := a.isLt
  have h_b := b.isLt
  refine decodeWord_of_fields rfl ?_ ?_ x he
  · constructor <;> simp only [] <;> omega
  · simp only [Fields.decode, decodeAlu, zero, gField_val, pField_val, vField_val, mField_val, imm16_hi_lo, bind, Except.bind, pure, Except.pure, if_true, if_false, ne_eq, not_true_eq_false, not_false_eq_true, reduceIte, Nat.add_zero, and_self, or_self, decide_true]

theorem RoundTrip.shl (d : GReg) (a : GReg) (b : GReg) : RoundTrip.Statement (.shl d a b) := by
  intro wf x he
  have h_d := d.isLt
  have h_a := a.isLt
  have h_b := b.isLt
  refine decodeWord_of_fields rfl ?_ ?_ x he
  · constructor <;> simp only [] <;> omega
  · simp only [Fields.decode, decodeAlu, zero, gField_val, pField_val, vField_val, mField_val, imm16_hi_lo, bind, Except.bind, pure, Except.pure, if_true, if_false, ne_eq, not_true_eq_false, not_false_eq_true, reduceIte, Nat.add_zero, and_self, or_self, decide_true]

theorem RoundTrip.shr (d : GReg) (a : GReg) (b : GReg) : RoundTrip.Statement (.shr d a b) := by
  intro wf x he
  have h_d := d.isLt
  have h_a := a.isLt
  have h_b := b.isLt
  refine decodeWord_of_fields rfl ?_ ?_ x he
  · constructor <;> simp only [] <;> omega
  · simp only [Fields.decode, decodeAlu, zero, gField_val, pField_val, vField_val, mField_val, imm16_hi_lo, bind, Except.bind, pure, Except.pure, if_true, if_false, ne_eq, not_true_eq_false, not_false_eq_true, reduceIte, Nat.add_zero, and_self, or_self, decide_true]

theorem RoundTrip.sra (d : GReg) (a : GReg) (b : GReg) : RoundTrip.Statement (.sra d a b) := by
  intro wf x he
  have h_d := d.isLt
  have h_a := a.isLt
  have h_b := b.isLt
  refine decodeWord_of_fields rfl ?_ ?_ x he
  · constructor <;> simp only [] <;> omega
  · simp only [Fields.decode, decodeAlu, zero, gField_val, pField_val, vField_val, mField_val, imm16_hi_lo, bind, Except.bind, pure, Except.pure, if_true, if_false, ne_eq, not_true_eq_false, not_false_eq_true, reduceIte, Nat.add_zero, and_self, or_self, decide_true]

theorem RoundTrip.mul (d : GReg) (a : GReg) (b : GReg) : RoundTrip.Statement (.mul d a b) := by
  intro wf x he
  have h_d := d.isLt
  have h_a := a.isLt
  have h_b := b.isLt
  refine decodeWord_of_fields rfl ?_ ?_ x he
  · constructor <;> simp only [] <;> omega
  · simp only [Fields.decode, decodeAlu, zero, gField_val, pField_val, vField_val, mField_val, imm16_hi_lo, bind, Except.bind, pure, Except.pure, if_true, if_false, ne_eq, not_true_eq_false, not_false_eq_true, reduceIte, Nat.add_zero, and_self, or_self, decide_true]

theorem RoundTrip.mulh (d : GReg) (a : GReg) (b : GReg) : RoundTrip.Statement (.mulh d a b) := by
  intro wf x he
  have h_d := d.isLt
  have h_a := a.isLt
  have h_b := b.isLt
  refine decodeWord_of_fields rfl ?_ ?_ x he
  · constructor <;> simp only [] <;> omega
  · simp only [Fields.decode, decodeAlu, zero, gField_val, pField_val, vField_val, mField_val, imm16_hi_lo, bind, Except.bind, pure, Except.pure, if_true, if_false, ne_eq, not_true_eq_false, not_false_eq_true, reduceIte, Nat.add_zero, and_self, or_self, decide_true]

theorem RoundTrip.mulhu (d : GReg) (a : GReg) (b : GReg) : RoundTrip.Statement (.mulhu d a b) := by
  intro wf x he
  have h_d := d.isLt
  have h_a := a.isLt
  have h_b := b.isLt
  refine decodeWord_of_fields rfl ?_ ?_ x he
  · constructor <;> simp only [] <;> omega
  · simp only [Fields.decode, decodeAlu, zero, gField_val, pField_val, vField_val, mField_val, imm16_hi_lo, bind, Except.bind, pure, Except.pure, if_true, if_false, ne_eq, not_true_eq_false, not_false_eq_true, reduceIte, Nat.add_zero, and_self, or_self, decide_true]

theorem RoundTrip.div (d : GReg) (a : GReg) (b : GReg) : RoundTrip.Statement (.div d a b) := by
  intro wf x he
  have h_d := d.isLt
  have h_a := a.isLt
  have h_b := b.isLt
  refine decodeWord_of_fields rfl ?_ ?_ x he
  · constructor <;> simp only [] <;> omega
  · simp only [Fields.decode, decodeAlu, zero, gField_val, pField_val, vField_val, mField_val, imm16_hi_lo, bind, Except.bind, pure, Except.pure, if_true, if_false, ne_eq, not_true_eq_false, not_false_eq_true, reduceIte, Nat.add_zero, and_self, or_self, decide_true]

theorem RoundTrip.divu (d : GReg) (a : GReg) (b : GReg) : RoundTrip.Statement (.divu d a b) := by
  intro wf x he
  have h_d := d.isLt
  have h_a := a.isLt
  have h_b := b.isLt
  refine decodeWord_of_fields rfl ?_ ?_ x he
  · constructor <;> simp only [] <;> omega
  · simp only [Fields.decode, decodeAlu, zero, gField_val, pField_val, vField_val, mField_val, imm16_hi_lo, bind, Except.bind, pure, Except.pure, if_true, if_false, ne_eq, not_true_eq_false, not_false_eq_true, reduceIte, Nat.add_zero, and_self, or_self, decide_true]

theorem RoundTrip.rem (d : GReg) (a : GReg) (b : GReg) : RoundTrip.Statement (.rem d a b) := by
  intro wf x he
  have h_d := d.isLt
  have h_a := a.isLt
  have h_b := b.isLt
  refine decodeWord_of_fields rfl ?_ ?_ x he
  · constructor <;> simp only [] <;> omega
  · simp only [Fields.decode, decodeAlu, zero, gField_val, pField_val, vField_val, mField_val, imm16_hi_lo, bind, Except.bind, pure, Except.pure, if_true, if_false, ne_eq, not_true_eq_false, not_false_eq_true, reduceIte, Nat.add_zero, and_self, or_self, decide_true]

theorem RoundTrip.remu (d : GReg) (a : GReg) (b : GReg) : RoundTrip.Statement (.remu d a b) := by
  intro wf x he
  have h_d := d.isLt
  have h_a := a.isLt
  have h_b := b.isLt
  refine decodeWord_of_fields rfl ?_ ?_ x he
  · constructor <;> simp only [] <;> omega
  · simp only [Fields.decode, decodeAlu, zero, gField_val, pField_val, vField_val, mField_val, imm16_hi_lo, bind, Except.bind, pure, Except.pure, if_true, if_false, ne_eq, not_true_eq_false, not_false_eq_true, reduceIte, Nat.add_zero, and_self, or_self, decide_true]

theorem RoundTrip.min (d : GReg) (a : GReg) (b : GReg) : RoundTrip.Statement (.min d a b) := by
  intro wf x he
  have h_d := d.isLt
  have h_a := a.isLt
  have h_b := b.isLt
  refine decodeWord_of_fields rfl ?_ ?_ x he
  · constructor <;> simp only [] <;> omega
  · simp only [Fields.decode, decodeAlu, zero, gField_val, pField_val, vField_val, mField_val, imm16_hi_lo, bind, Except.bind, pure, Except.pure, if_true, if_false, ne_eq, not_true_eq_false, not_false_eq_true, reduceIte, Nat.add_zero, and_self, or_self, decide_true]

theorem RoundTrip.max (d : GReg) (a : GReg) (b : GReg) : RoundTrip.Statement (.max d a b) := by
  intro wf x he
  have h_d := d.isLt
  have h_a := a.isLt
  have h_b := b.isLt
  refine decodeWord_of_fields rfl ?_ ?_ x he
  · constructor <;> simp only [] <;> omega
  · simp only [Fields.decode, decodeAlu, zero, gField_val, pField_val, vField_val, mField_val, imm16_hi_lo, bind, Except.bind, pure, Except.pure, if_true, if_false, ne_eq, not_true_eq_false, not_false_eq_true, reduceIte, Nat.add_zero, and_self, or_self, decide_true]

theorem RoundTrip.minu (d : GReg) (a : GReg) (b : GReg) : RoundTrip.Statement (.minu d a b) := by
  intro wf x he
  have h_d := d.isLt
  have h_a := a.isLt
  have h_b := b.isLt
  refine decodeWord_of_fields rfl ?_ ?_ x he
  · constructor <;> simp only [] <;> omega
  · simp only [Fields.decode, decodeAlu, zero, gField_val, pField_val, vField_val, mField_val, imm16_hi_lo, bind, Except.bind, pure, Except.pure, if_true, if_false, ne_eq, not_true_eq_false, not_false_eq_true, reduceIte, Nat.add_zero, and_self, or_self, decide_true]

theorem RoundTrip.maxu (d : GReg) (a : GReg) (b : GReg) : RoundTrip.Statement (.maxu d a b) := by
  intro wf x he
  have h_d := d.isLt
  have h_a := a.isLt
  have h_b := b.isLt
  refine decodeWord_of_fields rfl ?_ ?_ x he
  · constructor <;> simp only [] <;> omega
  · simp only [Fields.decode, decodeAlu, zero, gField_val, pField_val, vField_val, mField_val, imm16_hi_lo, bind, Except.bind, pure, Except.pure, if_true, if_false, ne_eq, not_true_eq_false, not_false_eq_true, reduceIte, Nat.add_zero, and_self, or_self, decide_true]

theorem RoundTrip.sel (d : GReg) (a : GReg) (b : GReg) (k : PReg) : RoundTrip.Statement (.sel d a b k) := by
  intro wf x he
  have h_d := d.isLt
  have h_a := a.isLt
  have h_b := b.isLt
  have h_k := k.isLt
  refine decodeWord_of_fields rfl ?_ ?_ x he
  · constructor <;> simp only [] <;> omega
  · fin_cases k <;> simp [Fields.decode, decodeAlu, zero, gField_val, pField_val, vField_val, mField_val, imm16_hi_lo, bind, Except.bind, pure, Except.pure] <;> rfl

theorem RoundTrip.clz (d : GReg) (a : GReg) : RoundTrip.Statement (.clz d a) := by
  intro wf x he
  have h_d := d.isLt
  have h_a := a.isLt
  refine decodeWord_of_fields rfl ?_ ?_ x he
  · constructor <;> simp only [] <;> omega
  · simp only [Fields.decode, decodeAlu, zero, gField_val, pField_val, vField_val, mField_val, imm16_hi_lo, bind, Except.bind, pure, Except.pure, if_true, if_false, ne_eq, not_true_eq_false, not_false_eq_true, reduceIte, Nat.add_zero, and_self, or_self, decide_true]

theorem RoundTrip.ctz (d : GReg) (a : GReg) : RoundTrip.Statement (.ctz d a) := by
  intro wf x he
  have h_d := d.isLt
  have h_a := a.isLt
  refine decodeWord_of_fields rfl ?_ ?_ x he
  · constructor <;> simp only [] <;> omega
  · simp only [Fields.decode, decodeAlu, zero, gField_val, pField_val, vField_val, mField_val, imm16_hi_lo, bind, Except.bind, pure, Except.pure, if_true, if_false, ne_eq, not_true_eq_false, not_false_eq_true, reduceIte, Nat.add_zero, and_self, or_self, decide_true]

theorem RoundTrip.popc (d : GReg) (a : GReg) : RoundTrip.Statement (.popc d a) := by
  intro wf x he
  have h_d := d.isLt
  have h_a := a.isLt
  refine decodeWord_of_fields rfl ?_ ?_ x he
  · constructor <;> simp only [] <;> omega
  · simp only [Fields.decode, decodeAlu, zero, gField_val, pField_val, vField_val, mField_val, imm16_hi_lo, bind, Except.bind, pure, Except.pure, if_true, if_false, ne_eq, not_true_eq_false, not_false_eq_true, reduceIte, Nat.add_zero, and_self, or_self, decide_true]

theorem RoundTrip.sextB (d : GReg) (a : GReg) : RoundTrip.Statement (.sextB d a) := by
  intro wf x he
  have h_d := d.isLt
  have h_a := a.isLt
  refine decodeWord_of_fields rfl ?_ ?_ x he
  · constructor <;> simp only [] <;> omega
  · simp only [Fields.decode, decodeAlu, zero, gField_val, pField_val, vField_val, mField_val, imm16_hi_lo, bind, Except.bind, pure, Except.pure, if_true, if_false, ne_eq, not_true_eq_false, not_false_eq_true, reduceIte, Nat.add_zero, and_self, or_self, decide_true]

theorem RoundTrip.sextH (d : GReg) (a : GReg) : RoundTrip.Statement (.sextH d a) := by
  intro wf x he
  have h_d := d.isLt
  have h_a := a.isLt
  refine decodeWord_of_fields rfl ?_ ?_ x he
  · constructor <;> simp only [] <;> omega
  · simp only [Fields.decode, decodeAlu, zero, gField_val, pField_val, vField_val, mField_val, imm16_hi_lo, bind, Except.bind, pure, Except.pure, if_true, if_false, ne_eq, not_true_eq_false, not_false_eq_true, reduceIte, Nat.add_zero, and_self, or_self, decide_true]

theorem RoundTrip.sextW (d : GReg) (a : GReg) : RoundTrip.Statement (.sextW d a) := by
  intro wf x he
  have h_d := d.isLt
  have h_a := a.isLt
  refine decodeWord_of_fields rfl ?_ ?_ x he
  · constructor <;> simp only [] <;> omega
  · simp only [Fields.decode, decodeAlu, zero, gField_val, pField_val, vField_val, mField_val, imm16_hi_lo, bind, Except.bind, pure, Except.pure, if_true, if_false, ne_eq, not_true_eq_false, not_false_eq_true, reduceIte, Nat.add_zero, and_self, or_self, decide_true]

theorem RoundTrip.zextB (d : GReg) (a : GReg) : RoundTrip.Statement (.zextB d a) := by
  intro wf x he
  have h_d := d.isLt
  have h_a := a.isLt
  refine decodeWord_of_fields rfl ?_ ?_ x he
  · constructor <;> simp only [] <;> omega
  · simp only [Fields.decode, decodeAlu, zero, gField_val, pField_val, vField_val, mField_val, imm16_hi_lo, bind, Except.bind, pure, Except.pure, if_true, if_false, ne_eq, not_true_eq_false, not_false_eq_true, reduceIte, Nat.add_zero, and_self, or_self, decide_true]

theorem RoundTrip.zextH (d : GReg) (a : GReg) : RoundTrip.Statement (.zextH d a) := by
  intro wf x he
  have h_d := d.isLt
  have h_a := a.isLt
  refine decodeWord_of_fields rfl ?_ ?_ x he
  · constructor <;> simp only [] <;> omega
  · simp only [Fields.decode, decodeAlu, zero, gField_val, pField_val, vField_val, mField_val, imm16_hi_lo, bind, Except.bind, pure, Except.pure, if_true, if_false, ne_eq, not_true_eq_false, not_false_eq_true, reduceIte, Nat.add_zero, and_self, or_self, decide_true]

theorem RoundTrip.zextW (d : GReg) (a : GReg) : RoundTrip.Statement (.zextW d a) := by
  intro wf x he
  have h_d := d.isLt
  have h_a := a.isLt
  refine decodeWord_of_fields rfl ?_ ?_ x he
  · constructor <;> simp only [] <;> omega
  · simp only [Fields.decode, decodeAlu, zero, gField_val, pField_val, vField_val, mField_val, imm16_hi_lo, bind, Except.bind, pure, Except.pure, if_true, if_false, ne_eq, not_true_eq_false, not_false_eq_true, reduceIte, Nat.add_zero, and_self, or_self, decide_true]

theorem RoundTrip.addi (d : GReg) (a : GReg) (i : BitVec 16) : RoundTrip.Statement (.addi d a i) := by
  intro wf x he
  have h_d := d.isLt
  have h_a := a.isLt
  have h_i := hi_lt i
  have h'_i := lo_lt i
  refine decodeWord_of_fields rfl ?_ ?_ x he
  · constructor <;> simp only [] <;> omega
  · simp only [Fields.decode, zero, gField_val, pField_val, vField_val, mField_val, imm16_hi_lo, bind, Except.bind, pure, Except.pure, if_true, if_false, ne_eq, not_true_eq_false, not_false_eq_true, reduceIte, Nat.add_zero, and_self, or_self, decide_true]

theorem RoundTrip.andi (d : GReg) (a : GReg) (i : BitVec 16) : RoundTrip.Statement (.andi d a i) := by
  intro wf x he
  have h_d := d.isLt
  have h_a := a.isLt
  have h_i := hi_lt i
  have h'_i := lo_lt i
  refine decodeWord_of_fields rfl ?_ ?_ x he
  · constructor <;> simp only [] <;> omega
  · simp only [Fields.decode, zero, gField_val, pField_val, vField_val, mField_val, imm16_hi_lo, bind, Except.bind, pure, Except.pure, if_true, if_false, ne_eq, not_true_eq_false, not_false_eq_true, reduceIte, Nat.add_zero, and_self, or_self, decide_true]

theorem RoundTrip.ori (d : GReg) (a : GReg) (i : BitVec 16) : RoundTrip.Statement (.ori d a i) := by
  intro wf x he
  have h_d := d.isLt
  have h_a := a.isLt
  have h_i := hi_lt i
  have h'_i := lo_lt i
  refine decodeWord_of_fields rfl ?_ ?_ x he
  · constructor <;> simp only [] <;> omega
  · simp only [Fields.decode, zero, gField_val, pField_val, vField_val, mField_val, imm16_hi_lo, bind, Except.bind, pure, Except.pure, if_true, if_false, ne_eq, not_true_eq_false, not_false_eq_true, reduceIte, Nat.add_zero, and_self, or_self, decide_true]

theorem RoundTrip.xori (d : GReg) (a : GReg) (i : BitVec 16) : RoundTrip.Statement (.xori d a i) := by
  intro wf x he
  have h_d := d.isLt
  have h_a := a.isLt
  have h_i := hi_lt i
  have h'_i := lo_lt i
  refine decodeWord_of_fields rfl ?_ ?_ x he
  · constructor <;> simp only [] <;> omega
  · simp only [Fields.decode, zero, gField_val, pField_val, vField_val, mField_val, imm16_hi_lo, bind, Except.bind, pure, Except.pure, if_true, if_false, ne_eq, not_true_eq_false, not_false_eq_true, reduceIte, Nat.add_zero, and_self, or_self, decide_true]

theorem RoundTrip.shli (d : GReg) (a : GReg) (n : BitVec 6) : RoundTrip.Statement (.shli d a n) := by
  intro wf x he
  have h_d := d.isLt
  have h_a := a.isLt
  have h_n := n.isLt
  refine decodeWord_of_fields rfl ?_ ?_ x he
  · constructor <;> simp only [] <;> omega
  · simp only [Fields.decode, shiftImm, zero, gField_val, pField_val, vField_val, mField_val, imm16_hi_lo, bind, Except.bind, pure, Except.pure, ofNat_toNat_of 6 n.toNat n rfl, h_n, if_true, if_false, ne_eq, not_true_eq_false, not_false_eq_true, reduceIte, Nat.add_zero, and_self, or_self, decide_true]

theorem RoundTrip.shri (d : GReg) (a : GReg) (n : BitVec 6) : RoundTrip.Statement (.shri d a n) := by
  intro wf x he
  have h_d := d.isLt
  have h_a := a.isLt
  have h_n := n.isLt
  refine decodeWord_of_fields rfl ?_ ?_ x he
  · constructor <;> simp only [] <;> omega
  · simp only [Fields.decode, shiftImm, zero, gField_val, pField_val, vField_val, mField_val, imm16_hi_lo, bind, Except.bind, pure, Except.pure, ofNat_toNat_of 6 n.toNat n rfl, h_n, if_true, if_false, ne_eq, not_true_eq_false, not_false_eq_true, reduceIte, Nat.add_zero, and_self, or_self, decide_true]

theorem RoundTrip.srai (d : GReg) (a : GReg) (n : BitVec 6) : RoundTrip.Statement (.srai d a n) := by
  intro wf x he
  have h_d := d.isLt
  have h_a := a.isLt
  have h_n := n.isLt
  refine decodeWord_of_fields rfl ?_ ?_ x he
  · constructor <;> simp only [] <;> omega
  · simp only [Fields.decode, shiftImm, zero, gField_val, pField_val, vField_val, mField_val, imm16_hi_lo, bind, Except.bind, pure, Except.pure, ofNat_toNat_of 6 n.toNat n rfl, h_n, if_true, if_false, ne_eq, not_true_eq_false, not_false_eq_true, reduceIte, Nat.add_zero, and_self, or_self, decide_true]

theorem RoundTrip.muli (d : GReg) (a : GReg) (i : BitVec 16) : RoundTrip.Statement (.muli d a i) := by
  intro wf x he
  have h_d := d.isLt
  have h_a := a.isLt
  have h_i := hi_lt i
  have h'_i := lo_lt i
  refine decodeWord_of_fields rfl ?_ ?_ x he
  · constructor <;> simp only [] <;> omega
  · simp only [Fields.decode, zero, gField_val, pField_val, vField_val, mField_val, imm16_hi_lo, bind, Except.bind, pure, Except.pure, if_true, if_false, ne_eq, not_true_eq_false, not_false_eq_true, reduceIte, Nat.add_zero, and_self, or_self, decide_true]

theorem RoundTrip.cmpEq (d : PReg) (a : GReg) (b : GReg) : RoundTrip.Statement (.cmpEq d a b) := by
  intro wf x he
  have h_d := d.isLt
  have h_a := a.isLt
  have h_b := b.isLt
  refine decodeWord_of_fields rfl ?_ ?_ x he
  · constructor <;> simp only [] <;> omega
  · simp only [Fields.decode, decodeCmp, zero, gField_val, pField_val, vField_val, mField_val, imm16_hi_lo, bind, Except.bind, pure, Except.pure, if_true, if_false, ne_eq, not_true_eq_false, not_false_eq_true, reduceIte, Nat.add_zero, and_self, or_self, decide_true]

theorem RoundTrip.cmpNe (d : PReg) (a : GReg) (b : GReg) : RoundTrip.Statement (.cmpNe d a b) := by
  intro wf x he
  have h_d := d.isLt
  have h_a := a.isLt
  have h_b := b.isLt
  refine decodeWord_of_fields rfl ?_ ?_ x he
  · constructor <;> simp only [] <;> omega
  · simp only [Fields.decode, decodeCmp, zero, gField_val, pField_val, vField_val, mField_val, imm16_hi_lo, bind, Except.bind, pure, Except.pure, if_true, if_false, ne_eq, not_true_eq_false, not_false_eq_true, reduceIte, Nat.add_zero, and_self, or_self, decide_true]

theorem RoundTrip.cmpLt (d : PReg) (a : GReg) (b : GReg) : RoundTrip.Statement (.cmpLt d a b) := by
  intro wf x he
  have h_d := d.isLt
  have h_a := a.isLt
  have h_b := b.isLt
  refine decodeWord_of_fields rfl ?_ ?_ x he
  · constructor <;> simp only [] <;> omega
  · simp only [Fields.decode, decodeCmp, zero, gField_val, pField_val, vField_val, mField_val, imm16_hi_lo, bind, Except.bind, pure, Except.pure, if_true, if_false, ne_eq, not_true_eq_false, not_false_eq_true, reduceIte, Nat.add_zero, and_self, or_self, decide_true]

theorem RoundTrip.cmpLe (d : PReg) (a : GReg) (b : GReg) : RoundTrip.Statement (.cmpLe d a b) := by
  intro wf x he
  have h_d := d.isLt
  have h_a := a.isLt
  have h_b := b.isLt
  refine decodeWord_of_fields rfl ?_ ?_ x he
  · constructor <;> simp only [] <;> omega
  · simp only [Fields.decode, decodeCmp, zero, gField_val, pField_val, vField_val, mField_val, imm16_hi_lo, bind, Except.bind, pure, Except.pure, if_true, if_false, ne_eq, not_true_eq_false, not_false_eq_true, reduceIte, Nat.add_zero, and_self, or_self, decide_true]

theorem RoundTrip.cmpGt (d : PReg) (a : GReg) (b : GReg) : RoundTrip.Statement (.cmpGt d a b) := by
  intro wf x he
  have h_d := d.isLt
  have h_a := a.isLt
  have h_b := b.isLt
  refine decodeWord_of_fields rfl ?_ ?_ x he
  · constructor <;> simp only [] <;> omega
  · simp only [Fields.decode, decodeCmp, zero, gField_val, pField_val, vField_val, mField_val, imm16_hi_lo, bind, Except.bind, pure, Except.pure, if_true, if_false, ne_eq, not_true_eq_false, not_false_eq_true, reduceIte, Nat.add_zero, and_self, or_self, decide_true]

theorem RoundTrip.cmpGe (d : PReg) (a : GReg) (b : GReg) : RoundTrip.Statement (.cmpGe d a b) := by
  intro wf x he
  have h_d := d.isLt
  have h_a := a.isLt
  have h_b := b.isLt
  refine decodeWord_of_fields rfl ?_ ?_ x he
  · constructor <;> simp only [] <;> omega
  · simp only [Fields.decode, decodeCmp, zero, gField_val, pField_val, vField_val, mField_val, imm16_hi_lo, bind, Except.bind, pure, Except.pure, if_true, if_false, ne_eq, not_true_eq_false, not_false_eq_true, reduceIte, Nat.add_zero, and_self, or_self, decide_true]

theorem RoundTrip.cmpLtu (d : PReg) (a : GReg) (b : GReg) : RoundTrip.Statement (.cmpLtu d a b) := by
  intro wf x he
  have h_d := d.isLt
  have h_a := a.isLt
  have h_b := b.isLt
  refine decodeWord_of_fields rfl ?_ ?_ x he
  · constructor <;> simp only [] <;> omega
  · simp only [Fields.decode, decodeCmp, zero, gField_val, pField_val, vField_val, mField_val, imm16_hi_lo, bind, Except.bind, pure, Except.pure, if_true, if_false, ne_eq, not_true_eq_false, not_false_eq_true, reduceIte, Nat.add_zero, and_self, or_self, decide_true]

theorem RoundTrip.cmpLeu (d : PReg) (a : GReg) (b : GReg) : RoundTrip.Statement (.cmpLeu d a b) := by
  intro wf x he
  have h_d := d.isLt
  have h_a := a.isLt
  have h_b := b.isLt
  refine decodeWord_of_fields rfl ?_ ?_ x he
  · constructor <;> simp only [] <;> omega
  · simp only [Fields.decode, decodeCmp, zero, gField_val, pField_val, vField_val, mField_val, imm16_hi_lo, bind, Except.bind, pure, Except.pure, if_true, if_false, ne_eq, not_true_eq_false, not_false_eq_true, reduceIte, Nat.add_zero, and_self, or_self, decide_true]

theorem RoundTrip.cmpGtu (d : PReg) (a : GReg) (b : GReg) : RoundTrip.Statement (.cmpGtu d a b) := by
  intro wf x he
  have h_d := d.isLt
  have h_a := a.isLt
  have h_b := b.isLt
  refine decodeWord_of_fields rfl ?_ ?_ x he
  · constructor <;> simp only [] <;> omega
  · simp only [Fields.decode, decodeCmp, zero, gField_val, pField_val, vField_val, mField_val, imm16_hi_lo, bind, Except.bind, pure, Except.pure, if_true, if_false, ne_eq, not_true_eq_false, not_false_eq_true, reduceIte, Nat.add_zero, and_self, or_self, decide_true]

theorem RoundTrip.cmpGeu (d : PReg) (a : GReg) (b : GReg) : RoundTrip.Statement (.cmpGeu d a b) := by
  intro wf x he
  have h_d := d.isLt
  have h_a := a.isLt
  have h_b := b.isLt
  refine decodeWord_of_fields rfl ?_ ?_ x he
  · constructor <;> simp only [] <;> omega
  · simp only [Fields.decode, decodeCmp, zero, gField_val, pField_val, vField_val, mField_val, imm16_hi_lo, bind, Except.bind, pure, Except.pure, if_true, if_false, ne_eq, not_true_eq_false, not_false_eq_true, reduceIte, Nat.add_zero, and_self, or_self, decide_true]

theorem RoundTrip.cmpiEq (d : PReg) (a : GReg) (i : BitVec 16) : RoundTrip.Statement (.cmpiEq d a i) := by
  intro wf x he
  have h_d := d.isLt
  have h_a := a.isLt
  have h_i := hi_lt i
  have h'_i := lo_lt i
  refine decodeWord_of_fields rfl ?_ ?_ x he
  · constructor <;> simp only [] <;> omega
  · simp only [Fields.decode, zero, gField_val, pField_val, vField_val, mField_val, imm16_hi_lo, bind, Except.bind, pure, Except.pure, if_true, if_false, ne_eq, not_true_eq_false, not_false_eq_true, reduceIte, Nat.add_zero, and_self, or_self, decide_true]

theorem RoundTrip.cmpiLt (d : PReg) (a : GReg) (i : BitVec 16) : RoundTrip.Statement (.cmpiLt d a i) := by
  intro wf x he
  have h_d := d.isLt
  have h_a := a.isLt
  have h_i := hi_lt i
  have h'_i := lo_lt i
  refine decodeWord_of_fields rfl ?_ ?_ x he
  · constructor <;> simp only [] <;> omega
  · simp only [Fields.decode, zero, gField_val, pField_val, vField_val, mField_val, imm16_hi_lo, bind, Except.bind, pure, Except.pure, if_true, if_false, ne_eq, not_true_eq_false, not_false_eq_true, reduceIte, Nat.add_zero, and_self, or_self, decide_true]

theorem RoundTrip.cmpiLtu (d : PReg) (a : GReg) (i : BitVec 16) : RoundTrip.Statement (.cmpiLtu d a i) := by
  intro wf x he
  have h_d := d.isLt
  have h_a := a.isLt
  have h_i := hi_lt i
  have h'_i := lo_lt i
  refine decodeWord_of_fields rfl ?_ ?_ x he
  · constructor <;> simp only [] <;> omega
  · simp only [Fields.decode, zero, gField_val, pField_val, vField_val, mField_val, imm16_hi_lo, bind, Except.bind, pure, Except.pure, if_true, if_false, ne_eq, not_true_eq_false, not_false_eq_true, reduceIte, Nat.add_zero, and_self, or_self, decide_true]

theorem RoundTrip.pand (d : PReg) (a : PReg) (b : PReg) : RoundTrip.Statement (.pand d a b) := by
  intro wf x he
  have h_d := d.isLt
  have h_a := a.isLt
  have h_b := b.isLt
  refine decodeWord_of_fields rfl ?_ ?_ x he
  · constructor <;> simp only [] <;> omega
  · simp only [Fields.decode, decodePred, pred3, zero, gField_val, pField_val, vField_val, mField_val, imm16_hi_lo, bind, Except.bind, pure, Except.pure, if_true, if_false, ne_eq, not_true_eq_false, not_false_eq_true, reduceIte, Nat.add_zero, and_self, or_self, decide_true]

theorem RoundTrip.por (d : PReg) (a : PReg) (b : PReg) : RoundTrip.Statement (.por d a b) := by
  intro wf x he
  have h_d := d.isLt
  have h_a := a.isLt
  have h_b := b.isLt
  refine decodeWord_of_fields rfl ?_ ?_ x he
  · constructor <;> simp only [] <;> omega
  · simp only [Fields.decode, decodePred, pred3, zero, gField_val, pField_val, vField_val, mField_val, imm16_hi_lo, bind, Except.bind, pure, Except.pure, if_true, if_false, ne_eq, not_true_eq_false, not_false_eq_true, reduceIte, Nat.add_zero, and_self, or_self, decide_true]

theorem RoundTrip.pxor (d : PReg) (a : PReg) (b : PReg) : RoundTrip.Statement (.pxor d a b) := by
  intro wf x he
  have h_d := d.isLt
  have h_a := a.isLt
  have h_b := b.isLt
  refine decodeWord_of_fields rfl ?_ ?_ x he
  · constructor <;> simp only [] <;> omega
  · simp only [Fields.decode, decodePred, pred3, zero, gField_val, pField_val, vField_val, mField_val, imm16_hi_lo, bind, Except.bind, pure, Except.pure, if_true, if_false, ne_eq, not_true_eq_false, not_false_eq_true, reduceIte, Nat.add_zero, and_self, or_self, decide_true]

theorem RoundTrip.pandn (d : PReg) (a : PReg) (b : PReg) : RoundTrip.Statement (.pandn d a b) := by
  intro wf x he
  have h_d := d.isLt
  have h_a := a.isLt
  have h_b := b.isLt
  refine decodeWord_of_fields rfl ?_ ?_ x he
  · constructor <;> simp only [] <;> omega
  · simp only [Fields.decode, decodePred, pred3, zero, gField_val, pField_val, vField_val, mField_val, imm16_hi_lo, bind, Except.bind, pure, Except.pure, if_true, if_false, ne_eq, not_true_eq_false, not_false_eq_true, reduceIte, Nat.add_zero, and_self, or_self, decide_true]

theorem RoundTrip.pnot (d : PReg) (a : PReg) : RoundTrip.Statement (.pnot d a) := by
  intro wf x he
  have h_d := d.isLt
  have h_a := a.isLt
  refine decodeWord_of_fields rfl ?_ ?_ x he
  · constructor <;> simp only [] <;> omega
  · simp only [Fields.decode, decodePred, pred3, zero, gField_val, pField_val, vField_val, mField_val, imm16_hi_lo, bind, Except.bind, pure, Except.pure, if_true, if_false, ne_eq, not_true_eq_false, not_false_eq_true, reduceIte, Nat.add_zero, and_self, or_self, decide_true]

theorem RoundTrip.pmov (d : PReg) (a : PReg) : RoundTrip.Statement (.pmov d a) := by
  intro wf x he
  have h_d := d.isLt
  have h_a := a.isLt
  refine decodeWord_of_fields rfl ?_ ?_ x he
  · constructor <;> simp only [] <;> omega
  · simp only [Fields.decode, decodePred, pred3, zero, gField_val, pField_val, vField_val, mField_val, imm16_hi_lo, bind, Except.bind, pure, Except.pure, if_true, if_false, ne_eq, not_true_eq_false, not_false_eq_true, reduceIte, Nat.add_zero, and_self, or_self, decide_true]

theorem RoundTrip.pset (d : PReg) : RoundTrip.Statement (.pset d) := by
  intro wf x he
  have h_d := d.isLt
  refine decodeWord_of_fields rfl ?_ ?_ x he
  · constructor <;> simp only [] <;> omega
  · simp only [Fields.decode, decodePred, pred3, zero, gField_val, pField_val, vField_val, mField_val, imm16_hi_lo, bind, Except.bind, pure, Except.pure, if_true, if_false, ne_eq, not_true_eq_false, not_false_eq_true, reduceIte, Nat.add_zero, and_self, or_self, decide_true]

theorem RoundTrip.pclr (d : PReg) : RoundTrip.Statement (.pclr d) := by
  intro wf x he
  have h_d := d.isLt
  refine decodeWord_of_fields rfl ?_ ?_ x he
  · constructor <;> simp only [] <;> omega
  · simp only [Fields.decode, decodePred, pred3, zero, gField_val, pField_val, vField_val, mField_val, imm16_hi_lo, bind, Except.bind, pure, Except.pure, if_true, if_false, ne_eq, not_true_eq_false, not_false_eq_true, reduceIte, Nat.add_zero, and_self, or_self, decide_true]

theorem RoundTrip.prd (d : GReg) : RoundTrip.Statement (.prd d) := by
  intro wf x he
  have h_d := d.isLt
  refine decodeWord_of_fields rfl ?_ ?_ x he
  · constructor <;> simp only [] <;> omega
  · simp only [Fields.decode, decodePred, pred3, zero, gField_val, pField_val, vField_val, mField_val, imm16_hi_lo, bind, Except.bind, pure, Except.pure, if_true, if_false, ne_eq, not_true_eq_false, not_false_eq_true, reduceIte, Nat.add_zero, and_self, or_self, decide_true]

theorem RoundTrip.pwr (a : GReg) : RoundTrip.Statement (.pwr a) := by
  intro wf x he
  have h_a := a.isLt
  refine decodeWord_of_fields rfl ?_ ?_ x he
  · constructor <;> simp only [] <;> omega
  · simp only [Fields.decode, decodePred, pred3, zero, gField_val, pField_val, vField_val, mField_val, imm16_hi_lo, bind, Except.bind, pure, Except.pure, if_true, if_false, ne_eq, not_true_eq_false, not_false_eq_true, reduceIte, Nat.add_zero, and_self, or_self, decide_true]

theorem RoundTrip.bt (a : PReg) (o : BitVec 16) : RoundTrip.Statement (.bt a o) := by
  intro wf x he
  have h_a := a.isLt
  have h_o := hi_lt o
  have h'_o := lo_lt o
  refine decodeWord_of_fields rfl ?_ ?_ x he
  · constructor <;> simp only [] <;> omega
  · simp only [Fields.decode, zero, gField_val, pField_val, vField_val, mField_val, imm16_hi_lo, bind, Except.bind, pure, Except.pure, if_true, if_false, ne_eq, not_true_eq_false, not_false_eq_true, reduceIte, Nat.add_zero, and_self, or_self, decide_true]

theorem RoundTrip.bf (a : PReg) (o : BitVec 16) : RoundTrip.Statement (.bf a o) := by
  intro wf x he
  have h_a := a.isLt
  have h_o := hi_lt o
  have h'_o := lo_lt o
  refine decodeWord_of_fields rfl ?_ ?_ x he
  · constructor <;> simp only [] <;> omega
  · simp only [Fields.decode, zero, gField_val, pField_val, vField_val, mField_val, imm16_hi_lo, bind, Except.bind, pure, Except.pure, if_true, if_false, ne_eq, not_true_eq_false, not_false_eq_true, reduceIte, Nat.add_zero, and_self, or_self, decide_true]

theorem RoundTrip.bz (a : GReg) (o : BitVec 16) : RoundTrip.Statement (.bz a o) := by
  intro wf x he
  have h_a := a.isLt
  have h_o := hi_lt o
  have h'_o := lo_lt o
  refine decodeWord_of_fields rfl ?_ ?_ x he
  · constructor <;> simp only [] <;> omega
  · simp only [Fields.decode, zero, gField_val, pField_val, vField_val, mField_val, imm16_hi_lo, bind, Except.bind, pure, Except.pure, if_true, if_false, ne_eq, not_true_eq_false, not_false_eq_true, reduceIte, Nat.add_zero, and_self, or_self, decide_true]

theorem RoundTrip.bnz (a : GReg) (o : BitVec 16) : RoundTrip.Statement (.bnz a o) := by
  intro wf x he
  have h_a := a.isLt
  have h_o := hi_lt o
  have h'_o := lo_lt o
  refine decodeWord_of_fields rfl ?_ ?_ x he
  · constructor <;> simp only [] <;> omega
  · simp only [Fields.decode, zero, gField_val, pField_val, vField_val, mField_val, imm16_hi_lo, bind, Except.bind, pure, Except.pure, if_true, if_false, ne_eq, not_true_eq_false, not_false_eq_true, reduceIte, Nat.add_zero, and_self, or_self, decide_true]

theorem RoundTrip.j (o : BitVec 26) : RoundTrip.Statement (.j o) := by
  intro wf x he
  have h_o := o.isLt
  refine decodeWord_of_fields rfl ?_ ?_ x he
  · constructor <;> simp only [] <;> omega
  · simp only [Fields.decode, zero, gField_val, pField_val, vField_val, mField_val, imm16_hi_lo, bind, Except.bind, pure, Except.pure, ofNat_toNat_of 26 (o.toNat / 2 ^ 21 * 2 ^ 21 + o.toNat / 2 ^ 16 % 32 * 2 ^ 16 + o.toNat / 2 ^ 11 % 32 * 2 ^ 11 + o.toNat % 2 ^ 11) o (by omega), if_true, if_false, ne_eq, not_true_eq_false, not_false_eq_true, reduceIte, Nat.add_zero, and_self, or_self, decide_true]

theorem RoundTrip.jal (o : BitVec 26) : RoundTrip.Statement (.jal o) := by
  intro wf x he
  have h_o := o.isLt
  refine decodeWord_of_fields rfl ?_ ?_ x he
  · constructor <;> simp only [] <;> omega
  · simp only [Fields.decode, zero, gField_val, pField_val, vField_val, mField_val, imm16_hi_lo, bind, Except.bind, pure, Except.pure, ofNat_toNat_of 26 (o.toNat / 2 ^ 21 * 2 ^ 21 + o.toNat / 2 ^ 16 % 32 * 2 ^ 16 + o.toNat / 2 ^ 11 % 32 * 2 ^ 11 + o.toNat % 2 ^ 11) o (by omega), if_true, if_false, ne_eq, not_true_eq_false, not_false_eq_true, reduceIte, Nat.add_zero, and_self, or_self, decide_true]

theorem RoundTrip.jr (a : GReg) : RoundTrip.Statement (.jr a) := by
  intro wf x he
  have h_a := a.isLt
  refine decodeWord_of_fields rfl ?_ ?_ x he
  · constructor <;> simp only [] <;> omega
  · simp only [Fields.decode, decodeJump, zero, gField_val, pField_val, vField_val, mField_val, imm16_hi_lo, bind, Except.bind, pure, Except.pure, if_true, if_false, ne_eq, not_true_eq_false, not_false_eq_true, reduceIte, Nat.add_zero, and_self, or_self, decide_true]

theorem RoundTrip.jalr (d : GReg) (a : GReg) : RoundTrip.Statement (.jalr d a) := by
  intro wf x he
  have h_d := d.isLt
  have h_a := a.isLt
  refine decodeWord_of_fields rfl ?_ ?_ x he
  · constructor <;> simp only [] <;> omega
  · simp only [Fields.decode, decodeJump, zero, gField_val, pField_val, vField_val, mField_val, imm16_hi_lo, bind, Except.bind, pure, Except.pure, if_true, if_false, ne_eq, not_true_eq_false, not_false_eq_true, reduceIte, Nat.add_zero, and_self, or_self, decide_true]

theorem RoundTrip.ldB (d : GReg) (a : GReg) (i : BitVec 16) : RoundTrip.Statement (.ldB d a i) := by
  intro wf x he
  have h_d := d.isLt
  have h_a := a.isLt
  have h_i := hi_lt i
  have h'_i := lo_lt i
  refine decodeWord_of_fields rfl ?_ ?_ x he
  · constructor <;> simp only [] <;> omega
  · simp only [Fields.decode, zero, gField_val, pField_val, vField_val, mField_val, imm16_hi_lo, bind, Except.bind, pure, Except.pure, if_true, if_false, ne_eq, not_true_eq_false, not_false_eq_true, reduceIte, Nat.add_zero, and_self, or_self, decide_true]

theorem RoundTrip.ldBu (d : GReg) (a : GReg) (i : BitVec 16) : RoundTrip.Statement (.ldBu d a i) := by
  intro wf x he
  have h_d := d.isLt
  have h_a := a.isLt
  have h_i := hi_lt i
  have h'_i := lo_lt i
  refine decodeWord_of_fields rfl ?_ ?_ x he
  · constructor <;> simp only [] <;> omega
  · simp only [Fields.decode, zero, gField_val, pField_val, vField_val, mField_val, imm16_hi_lo, bind, Except.bind, pure, Except.pure, if_true, if_false, ne_eq, not_true_eq_false, not_false_eq_true, reduceIte, Nat.add_zero, and_self, or_self, decide_true]

theorem RoundTrip.ldH (d : GReg) (a : GReg) (i : BitVec 16) : RoundTrip.Statement (.ldH d a i) := by
  intro wf x he
  have h_d := d.isLt
  have h_a := a.isLt
  have h_i := hi_lt i
  have h'_i := lo_lt i
  refine decodeWord_of_fields rfl ?_ ?_ x he
  · constructor <;> simp only [] <;> omega
  · simp only [Fields.decode, zero, gField_val, pField_val, vField_val, mField_val, imm16_hi_lo, bind, Except.bind, pure, Except.pure, if_true, if_false, ne_eq, not_true_eq_false, not_false_eq_true, reduceIte, Nat.add_zero, and_self, or_self, decide_true]

theorem RoundTrip.ldHu (d : GReg) (a : GReg) (i : BitVec 16) : RoundTrip.Statement (.ldHu d a i) := by
  intro wf x he
  have h_d := d.isLt
  have h_a := a.isLt
  have h_i := hi_lt i
  have h'_i := lo_lt i
  refine decodeWord_of_fields rfl ?_ ?_ x he
  · constructor <;> simp only [] <;> omega
  · simp only [Fields.decode, zero, gField_val, pField_val, vField_val, mField_val, imm16_hi_lo, bind, Except.bind, pure, Except.pure, if_true, if_false, ne_eq, not_true_eq_false, not_false_eq_true, reduceIte, Nat.add_zero, and_self, or_self, decide_true]

theorem RoundTrip.ldW (d : GReg) (a : GReg) (i : BitVec 16) : RoundTrip.Statement (.ldW d a i) := by
  intro wf x he
  have h_d := d.isLt
  have h_a := a.isLt
  have h_i := hi_lt i
  have h'_i := lo_lt i
  refine decodeWord_of_fields rfl ?_ ?_ x he
  · constructor <;> simp only [] <;> omega
  · simp only [Fields.decode, zero, gField_val, pField_val, vField_val, mField_val, imm16_hi_lo, bind, Except.bind, pure, Except.pure, if_true, if_false, ne_eq, not_true_eq_false, not_false_eq_true, reduceIte, Nat.add_zero, and_self, or_self, decide_true]

theorem RoundTrip.ldWu (d : GReg) (a : GReg) (i : BitVec 16) : RoundTrip.Statement (.ldWu d a i) := by
  intro wf x he
  have h_d := d.isLt
  have h_a := a.isLt
  have h_i := hi_lt i
  have h'_i := lo_lt i
  refine decodeWord_of_fields rfl ?_ ?_ x he
  · constructor <;> simp only [] <;> omega
  · simp only [Fields.decode, zero, gField_val, pField_val, vField_val, mField_val, imm16_hi_lo, bind, Except.bind, pure, Except.pure, if_true, if_false, ne_eq, not_true_eq_false, not_false_eq_true, reduceIte, Nat.add_zero, and_self, or_self, decide_true]

theorem RoundTrip.ldD (d : GReg) (a : GReg) (i : BitVec 16) : RoundTrip.Statement (.ldD d a i) := by
  intro wf x he
  have h_d := d.isLt
  have h_a := a.isLt
  have h_i := hi_lt i
  have h'_i := lo_lt i
  refine decodeWord_of_fields rfl ?_ ?_ x he
  · constructor <;> simp only [] <;> omega
  · simp only [Fields.decode, zero, gField_val, pField_val, vField_val, mField_val, imm16_hi_lo, bind, Except.bind, pure, Except.pure, if_true, if_false, ne_eq, not_true_eq_false, not_false_eq_true, reduceIte, Nat.add_zero, and_self, or_self, decide_true]

theorem RoundTrip.ldQ (d : GReg) (a : GReg) (i : BitVec 16) : RoundTrip.Statement (.ldQ d a i) := by
  intro wf x he
  have h_d := d.isLt
  have h_a := a.isLt
  have h_i := hi_lt i
  have h'_i := lo_lt i
  have q : d.val % 2 = 0 ∧ ¬d = 0 := by simpa [Instr.wf] using wf
  refine decodeWord_of_fields rfl ?_ ?_ x he
  · constructor <;> simp only [] <;> omega
  · simp only [Fields.decode, zero, gField_val, pField_val, vField_val, mField_val, imm16_hi_lo, bind, Except.bind, pure, Except.pure, pairField, q.1, q.2, if_true, if_false, ne_eq, not_true_eq_false, not_false_eq_true, reduceIte, Nat.add_zero, and_self, or_self, decide_true]

theorem RoundTrip.stB (d : GReg) (a : GReg) (i : BitVec 16) : RoundTrip.Statement (.stB d a i) := by
  intro wf x he
  have h_d := d.isLt
  have h_a := a.isLt
  have h_i := hi_lt i
  have h'_i := lo_lt i
  refine decodeWord_of_fields rfl ?_ ?_ x he
  · constructor <;> simp only [] <;> omega
  · simp only [Fields.decode, zero, gField_val, pField_val, vField_val, mField_val, imm16_hi_lo, bind, Except.bind, pure, Except.pure, if_true, if_false, ne_eq, not_true_eq_false, not_false_eq_true, reduceIte, Nat.add_zero, and_self, or_self, decide_true]

theorem RoundTrip.stH (d : GReg) (a : GReg) (i : BitVec 16) : RoundTrip.Statement (.stH d a i) := by
  intro wf x he
  have h_d := d.isLt
  have h_a := a.isLt
  have h_i := hi_lt i
  have h'_i := lo_lt i
  refine decodeWord_of_fields rfl ?_ ?_ x he
  · constructor <;> simp only [] <;> omega
  · simp only [Fields.decode, zero, gField_val, pField_val, vField_val, mField_val, imm16_hi_lo, bind, Except.bind, pure, Except.pure, if_true, if_false, ne_eq, not_true_eq_false, not_false_eq_true, reduceIte, Nat.add_zero, and_self, or_self, decide_true]

theorem RoundTrip.stW (d : GReg) (a : GReg) (i : BitVec 16) : RoundTrip.Statement (.stW d a i) := by
  intro wf x he
  have h_d := d.isLt
  have h_a := a.isLt
  have h_i := hi_lt i
  have h'_i := lo_lt i
  refine decodeWord_of_fields rfl ?_ ?_ x he
  · constructor <;> simp only [] <;> omega
  · simp only [Fields.decode, zero, gField_val, pField_val, vField_val, mField_val, imm16_hi_lo, bind, Except.bind, pure, Except.pure, if_true, if_false, ne_eq, not_true_eq_false, not_false_eq_true, reduceIte, Nat.add_zero, and_self, or_self, decide_true]

theorem RoundTrip.stD (d : GReg) (a : GReg) (i : BitVec 16) : RoundTrip.Statement (.stD d a i) := by
  intro wf x he
  have h_d := d.isLt
  have h_a := a.isLt
  have h_i := hi_lt i
  have h'_i := lo_lt i
  refine decodeWord_of_fields rfl ?_ ?_ x he
  · constructor <;> simp only [] <;> omega
  · simp only [Fields.decode, zero, gField_val, pField_val, vField_val, mField_val, imm16_hi_lo, bind, Except.bind, pure, Except.pure, if_true, if_false, ne_eq, not_true_eq_false, not_false_eq_true, reduceIte, Nat.add_zero, and_self, or_self, decide_true]

theorem RoundTrip.stQ (d : GReg) (a : GReg) (i : BitVec 16) : RoundTrip.Statement (.stQ d a i) := by
  intro wf x he
  have h_d := d.isLt
  have h_a := a.isLt
  have h_i := hi_lt i
  have h'_i := lo_lt i
  have q : d.val % 2 = 0 := by simpa [Instr.wf] using wf
  refine decodeWord_of_fields rfl ?_ ?_ x he
  · constructor <;> simp only [] <;> omega
  · simp only [Fields.decode, zero, gField_val, pField_val, vField_val, mField_val, imm16_hi_lo, bind, Except.bind, pure, Except.pure, pairField, q, if_true, if_false, ne_eq, not_true_eq_false, not_false_eq_true, reduceIte, Nat.add_zero, and_self, or_self, decide_true]

theorem RoundTrip.stX4 (d : GReg) (a : GReg) (q : Bool) : RoundTrip.Statement (.stX4 d a q) := by
  intro wf x he
  have h_d := d.isLt
  have h_a := a.isLt
  refine decodeWord_of_fields rfl ?_ ?_ x he
  · constructor <;> simp only [] <;> first | omega | (split <;> omega)
  · cases q <;> simp [Fields.decode, decodeSubByte, zero, gField_val, pField_val, vField_val, mField_val, imm16_hi_lo, bind, Except.bind, pure, Except.pure]

theorem RoundTrip.stX6 (d : GReg) (a : GReg) (q : Fin 8) : RoundTrip.Statement (.stX6 d a q) := by
  intro wf x he
  have h_d := d.isLt
  have h_a := a.isLt
  have h_q := q.isLt
  have e0 : (q.val * 256 + 1) % 2 = 1 := by omega
  have e1 : (q.val * 256 + 1) / 2 % 128 = 0 := by omega
  have e2 : (q.val * 256 + 1) / 256 = q.val := by omega
  refine decodeWord_of_fields rfl ?_ ?_ x he
  · constructor <;> simp only [] <;> omega
  · simp only [Fields.decode, decodeSubByte, zero, gField_val, pField_val, vField_val, mField_val, imm16_hi_lo, bind, Except.bind, pure, Except.pure, e0, e1, e2, fin8_of q.val q (Nat.mod_eq_of_lt q.isLt), Nat.one_ne_zero, if_true, if_false, ne_eq, not_true_eq_false, not_false_eq_true, reduceIte, Nat.add_zero, and_self, or_self, decide_true]

theorem RoundTrip.aadd (d : GReg) (a : GReg) (w : AWidth) : RoundTrip.Statement (.aadd d a w) := by
  intro wf x he
  have h_d := d.isLt
  have h_a := a.isLt
  have h_w := w.code_lt
  have e0 : (0 + w.code) % 2 = w.code := by omega
  have e1 : (0 + w.code) / 2 = 0 := by omega
  refine decodeWord_of_fields rfl ?_ ?_ x he
  · constructor <;> simp only [] <;> omega
  · simp only [Fields.decode, decodeAtomic, zero, gField_val, pField_val, vField_val, mField_val, imm16_hi_lo, bind, Except.bind, pure, Except.pure, e0, e1, AWidth.ofCode_code, if_true, if_false, ne_eq, not_true_eq_false, not_false_eq_true, reduceIte, Nat.add_zero, and_self, or_self, decide_true]

theorem RoundTrip.amin (d : GReg) (a : GReg) (w : AWidth) : RoundTrip.Statement (.amin d a w) := by
  intro wf x he
  have h_d := d.isLt
  have h_a := a.isLt
  have h_w := w.code_lt
  have e0 : (2 + w.code) % 2 = w.code := by omega
  have e1 : (2 + w.code) / 2 = 1 := by omega
  refine decodeWord_of_fields rfl ?_ ?_ x he
  · constructor <;> simp only [] <;> omega
  · simp only [Fields.decode, decodeAtomic, zero, gField_val, pField_val, vField_val, mField_val, imm16_hi_lo, bind, Except.bind, pure, Except.pure, e0, e1, AWidth.ofCode_code, if_true, if_false, ne_eq, not_true_eq_false, not_false_eq_true, reduceIte, Nat.add_zero, and_self, or_self, decide_true]

theorem RoundTrip.amax (d : GReg) (a : GReg) (w : AWidth) : RoundTrip.Statement (.amax d a w) := by
  intro wf x he
  have h_d := d.isLt
  have h_a := a.isLt
  have h_w := w.code_lt
  have e0 : (4 + w.code) % 2 = w.code := by omega
  have e1 : (4 + w.code) / 2 = 2 := by omega
  refine decodeWord_of_fields rfl ?_ ?_ x he
  · constructor <;> simp only [] <;> omega
  · simp only [Fields.decode, decodeAtomic, zero, gField_val, pField_val, vField_val, mField_val, imm16_hi_lo, bind, Except.bind, pure, Except.pure, e0, e1, AWidth.ofCode_code, if_true, if_false, ne_eq, not_true_eq_false, not_false_eq_true, reduceIte, Nat.add_zero, and_self, or_self, decide_true]

theorem RoundTrip.aminu (d : GReg) (a : GReg) (w : AWidth) : RoundTrip.Statement (.aminu d a w) := by
  intro wf x he
  have h_d := d.isLt
  have h_a := a.isLt
  have h_w := w.code_lt
  have e0 : (6 + w.code) % 2 = w.code := by omega
  have e1 : (6 + w.code) / 2 = 3 := by omega
  refine decodeWord_of_fields rfl ?_ ?_ x he
  · constructor <;> simp only [] <;> omega
  · simp only [Fields.decode, decodeAtomic, zero, gField_val, pField_val, vField_val, mField_val, imm16_hi_lo, bind, Except.bind, pure, Except.pure, e0, e1, AWidth.ofCode_code, if_true, if_false, ne_eq, not_true_eq_false, not_false_eq_true, reduceIte, Nat.add_zero, and_self, or_self, decide_true]

theorem RoundTrip.amaxu (d : GReg) (a : GReg) (w : AWidth) : RoundTrip.Statement (.amaxu d a w) := by
  intro wf x he
  have h_d := d.isLt
  have h_a := a.isLt
  have h_w := w.code_lt
  have e0 : (8 + w.code) % 2 = w.code := by omega
  have e1 : (8 + w.code) / 2 = 4 := by omega
  refine decodeWord_of_fields rfl ?_ ?_ x he
  · constructor <;> simp only [] <;> omega
  · simp only [Fields.decode, decodeAtomic, zero, gField_val, pField_val, vField_val, mField_val, imm16_hi_lo, bind, Except.bind, pure, Except.pure, e0, e1, AWidth.ofCode_code, if_true, if_false, ne_eq, not_true_eq_false, not_false_eq_true, reduceIte, Nat.add_zero, and_self, or_self, decide_true]

theorem RoundTrip.aand (d : GReg) (a : GReg) (w : AWidth) : RoundTrip.Statement (.aand d a w) := by
  intro wf x he
  have h_d := d.isLt
  have h_a := a.isLt
  have h_w := w.code_lt
  have e0 : (10 + w.code) % 2 = w.code := by omega
  have e1 : (10 + w.code) / 2 = 5 := by omega
  refine decodeWord_of_fields rfl ?_ ?_ x he
  · constructor <;> simp only [] <;> omega
  · simp only [Fields.decode, decodeAtomic, zero, gField_val, pField_val, vField_val, mField_val, imm16_hi_lo, bind, Except.bind, pure, Except.pure, e0, e1, AWidth.ofCode_code, if_true, if_false, ne_eq, not_true_eq_false, not_false_eq_true, reduceIte, Nat.add_zero, and_self, or_self, decide_true]

theorem RoundTrip.aor (d : GReg) (a : GReg) (w : AWidth) : RoundTrip.Statement (.aor d a w) := by
  intro wf x he
  have h_d := d.isLt
  have h_a := a.isLt
  have h_w := w.code_lt
  have e0 : (12 + w.code) % 2 = w.code := by omega
  have e1 : (12 + w.code) / 2 = 6 := by omega
  refine decodeWord_of_fields rfl ?_ ?_ x he
  · constructor <;> simp only [] <;> omega
  · simp only [Fields.decode, decodeAtomic, zero, gField_val, pField_val, vField_val, mField_val, imm16_hi_lo, bind, Except.bind, pure, Except.pure, e0, e1, AWidth.ofCode_code, if_true, if_false, ne_eq, not_true_eq_false, not_false_eq_true, reduceIte, Nat.add_zero, and_self, or_self, decide_true]

theorem RoundTrip.axor (d : GReg) (a : GReg) (w : AWidth) : RoundTrip.Statement (.axor d a w) := by
  intro wf x he
  have h_d := d.isLt
  have h_a := a.isLt
  have h_w := w.code_lt
  have e0 : (14 + w.code) % 2 = w.code := by omega
  have e1 : (14 + w.code) / 2 = 7 := by omega
  refine decodeWord_of_fields rfl ?_ ?_ x he
  · constructor <;> simp only [] <;> omega
  · simp only [Fields.decode, decodeAtomic, zero, gField_val, pField_val, vField_val, mField_val, imm16_hi_lo, bind, Except.bind, pure, Except.pure, e0, e1, AWidth.ofCode_code, if_true, if_false, ne_eq, not_true_eq_false, not_false_eq_true, reduceIte, Nat.add_zero, and_self, or_self, decide_true]

theorem RoundTrip.fadd (d : GReg) (a : GReg) (b : GReg) (t : FTy) (r : Rm) : RoundTrip.Statement (.fadd d a b t r) := by
  intro wf x he
  have h_d := d.isLt
  have h_a := a.isLt
  have h_b := b.isLt
  have h_t := t.code_lt
  have h_r := r.code_lt
  have e0 : (t.code * 128 + r.code * 16) / 128 = t.code := by omega
  have e1 : (t.code * 128 + r.code * 16) / 16 % 8 = r.code := by omega
  have e2 : (t.code * 128 + r.code * 16) % 16 = 0 := by omega
  refine decodeWord_of_fields rfl ?_ ?_ x he
  · constructor <;> simp only [] <;> omega
  · simp only [Fields.decode, decodeFp, noRounding, zero, gField_val, pField_val, vField_val, mField_val, imm16_hi_lo, bind, Except.bind, pure, Except.pure, e0, e1, e2, FTy.ofCode_code, Rm.ofCode_code, if_true, if_false, ne_eq, not_true_eq_false, not_false_eq_true, reduceIte, Nat.add_zero, and_self, or_self, decide_true]

theorem RoundTrip.fsub (d : GReg) (a : GReg) (b : GReg) (t : FTy) (r : Rm) : RoundTrip.Statement (.fsub d a b t r) := by
  intro wf x he
  have h_d := d.isLt
  have h_a := a.isLt
  have h_b := b.isLt
  have h_t := t.code_lt
  have h_r := r.code_lt
  have e0 : (t.code * 128 + r.code * 16 + 1) / 128 = t.code := by omega
  have e1 : (t.code * 128 + r.code * 16 + 1) / 16 % 8 = r.code := by omega
  have e2 : (t.code * 128 + r.code * 16 + 1) % 16 = 1 := by omega
  refine decodeWord_of_fields rfl ?_ ?_ x he
  · constructor <;> simp only [] <;> omega
  · simp only [Fields.decode, decodeFp, noRounding, zero, gField_val, pField_val, vField_val, mField_val, imm16_hi_lo, bind, Except.bind, pure, Except.pure, e0, e1, e2, FTy.ofCode_code, Rm.ofCode_code, if_true, if_false, ne_eq, not_true_eq_false, not_false_eq_true, reduceIte, Nat.add_zero, and_self, or_self, decide_true]

theorem RoundTrip.fmul (d : GReg) (a : GReg) (b : GReg) (t : FTy) (r : Rm) : RoundTrip.Statement (.fmul d a b t r) := by
  intro wf x he
  have h_d := d.isLt
  have h_a := a.isLt
  have h_b := b.isLt
  have h_t := t.code_lt
  have h_r := r.code_lt
  have e0 : (t.code * 128 + r.code * 16 + 2) / 128 = t.code := by omega
  have e1 : (t.code * 128 + r.code * 16 + 2) / 16 % 8 = r.code := by omega
  have e2 : (t.code * 128 + r.code * 16 + 2) % 16 = 2 := by omega
  refine decodeWord_of_fields rfl ?_ ?_ x he
  · constructor <;> simp only [] <;> omega
  · simp only [Fields.decode, decodeFp, noRounding, zero, gField_val, pField_val, vField_val, mField_val, imm16_hi_lo, bind, Except.bind, pure, Except.pure, e0, e1, e2, FTy.ofCode_code, Rm.ofCode_code, if_true, if_false, ne_eq, not_true_eq_false, not_false_eq_true, reduceIte, Nat.add_zero, and_self, or_self, decide_true]

theorem RoundTrip.fdiv (d : GReg) (a : GReg) (b : GReg) (t : FTy) (r : Rm) : RoundTrip.Statement (.fdiv d a b t r) := by
  intro wf x he
  have h_d := d.isLt
  have h_a := a.isLt
  have h_b := b.isLt
  have h_t := t.code_lt
  have h_r := r.code_lt
  have e0 : (t.code * 128 + r.code * 16 + 3) / 128 = t.code := by omega
  have e1 : (t.code * 128 + r.code * 16 + 3) / 16 % 8 = r.code := by omega
  have e2 : (t.code * 128 + r.code * 16 + 3) % 16 = 3 := by omega
  refine decodeWord_of_fields rfl ?_ ?_ x he
  · constructor <;> simp only [] <;> omega
  · simp only [Fields.decode, decodeFp, noRounding, zero, gField_val, pField_val, vField_val, mField_val, imm16_hi_lo, bind, Except.bind, pure, Except.pure, e0, e1, e2, FTy.ofCode_code, Rm.ofCode_code, if_true, if_false, ne_eq, not_true_eq_false, not_false_eq_true, reduceIte, Nat.add_zero, and_self, or_self, decide_true]

theorem RoundTrip.fsqrt (d : GReg) (a : GReg) (t : FTy) (r : Rm) : RoundTrip.Statement (.fsqrt d a t r) := by
  intro wf x he
  have h_d := d.isLt
  have h_a := a.isLt
  have h_t := t.code_lt
  have h_r := r.code_lt
  have e0 : (t.code * 128 + r.code * 16 + 4) / 128 = t.code := by omega
  have e1 : (t.code * 128 + r.code * 16 + 4) / 16 % 8 = r.code := by omega
  have e2 : (t.code * 128 + r.code * 16 + 4) % 16 = 4 := by omega
  refine decodeWord_of_fields rfl ?_ ?_ x he
  · constructor <;> simp only [] <;> omega
  · simp only [Fields.decode, decodeFp, noRounding, zero, gField_val, pField_val, vField_val, mField_val, imm16_hi_lo, bind, Except.bind, pure, Except.pure, e0, e1, e2, FTy.ofCode_code, Rm.ofCode_code, if_true, if_false, ne_eq, not_true_eq_false, not_false_eq_true, reduceIte, Nat.add_zero, and_self, or_self, decide_true]

theorem RoundTrip.fmac (d : GReg) (a : GReg) (b : GReg) (t : FTy) (r : Rm) : RoundTrip.Statement (.fmac d a b t r) := by
  intro wf x he
  have h_d := d.isLt
  have h_a := a.isLt
  have h_b := b.isLt
  have h_t := t.code_lt
  have h_r := r.code_lt
  have e0 : (t.code * 128 + r.code * 16 + 5) / 128 = t.code := by omega
  have e1 : (t.code * 128 + r.code * 16 + 5) / 16 % 8 = r.code := by omega
  have e2 : (t.code * 128 + r.code * 16 + 5) % 16 = 5 := by omega
  refine decodeWord_of_fields rfl ?_ ?_ x he
  · constructor <;> simp only [] <;> omega
  · simp only [Fields.decode, decodeFp, noRounding, zero, gField_val, pField_val, vField_val, mField_val, imm16_hi_lo, bind, Except.bind, pure, Except.pure, e0, e1, e2, FTy.ofCode_code, Rm.ofCode_code, if_true, if_false, ne_eq, not_true_eq_false, not_false_eq_true, reduceIte, Nat.add_zero, and_self, or_self, decide_true]

theorem RoundTrip.fmin (d : GReg) (a : GReg) (b : GReg) (t : FTy) : RoundTrip.Statement (.fmin d a b t) := by
  intro wf x he
  have h_d := d.isLt
  have h_a := a.isLt
  have h_b := b.isLt
  have h_t := t.code_lt
  have e0 : (t.code * 128 + 6) / 128 = t.code := by omega
  have e1 : (t.code * 128 + 6) / 16 % 8 = 0 := by omega
  have e2 : (t.code * 128 + 6) % 16 = 6 := by omega
  refine decodeWord_of_fields rfl ?_ ?_ x he
  · constructor <;> simp only [] <;> omega
  · simp only [Fields.decode, decodeFp, noRounding, zero, gField_val, pField_val, vField_val, mField_val, imm16_hi_lo, bind, Except.bind, pure, Except.pure, e0, e1, e2, FTy.ofCode_code, show Rm.ofCode 0 = .ok .rn from rfl, if_true, if_false, ne_eq, not_true_eq_false, not_false_eq_true, reduceIte, Nat.add_zero, and_self, or_self, decide_true]

theorem RoundTrip.fmax (d : GReg) (a : GReg) (b : GReg) (t : FTy) : RoundTrip.Statement (.fmax d a b t) := by
  intro wf x he
  have h_d := d.isLt
  have h_a := a.isLt
  have h_b := b.isLt
  have h_t := t.code_lt
  have e0 : (t.code * 128 + 7) / 128 = t.code := by omega
  have e1 : (t.code * 128 + 7) / 16 % 8 = 0 := by omega
  have e2 : (t.code * 128 + 7) % 16 = 7 := by omega
  refine decodeWord_of_fields rfl ?_ ?_ x he
  · constructor <;> simp only [] <;> omega
  · simp only [Fields.decode, decodeFp, noRounding, zero, gField_val, pField_val, vField_val, mField_val, imm16_hi_lo, bind, Except.bind, pure, Except.pure, e0, e1, e2, FTy.ofCode_code, show Rm.ofCode 0 = .ok .rn from rfl, if_true, if_false, ne_eq, not_true_eq_false, not_false_eq_true, reduceIte, Nat.add_zero, and_self, or_self, decide_true]

theorem RoundTrip.fabs (d : GReg) (a : GReg) (t : FTy) : RoundTrip.Statement (.fabs d a t) := by
  intro wf x he
  have h_d := d.isLt
  have h_a := a.isLt
  have h_t := t.code_lt
  have e0 : (t.code * 128 + 8) / 128 = t.code := by omega
  have e1 : (t.code * 128 + 8) / 16 % 8 = 0 := by omega
  have e2 : (t.code * 128 + 8) % 16 = 8 := by omega
  refine decodeWord_of_fields rfl ?_ ?_ x he
  · constructor <;> simp only [] <;> omega
  · simp only [Fields.decode, decodeFp, noRounding, zero, gField_val, pField_val, vField_val, mField_val, imm16_hi_lo, bind, Except.bind, pure, Except.pure, e0, e1, e2, FTy.ofCode_code, show Rm.ofCode 0 = .ok .rn from rfl, if_true, if_false, ne_eq, not_true_eq_false, not_false_eq_true, reduceIte, Nat.add_zero, and_self, or_self, decide_true]

theorem RoundTrip.fneg (d : GReg) (a : GReg) (t : FTy) : RoundTrip.Statement (.fneg d a t) := by
  intro wf x he
  have h_d := d.isLt
  have h_a := a.isLt
  have h_t := t.code_lt
  have e0 : (t.code * 128 + 9) / 128 = t.code := by omega
  have e1 : (t.code * 128 + 9) / 16 % 8 = 0 := by omega
  have e2 : (t.code * 128 + 9) % 16 = 9 := by omega
  refine decodeWord_of_fields rfl ?_ ?_ x he
  · constructor <;> simp only [] <;> omega
  · simp only [Fields.decode, decodeFp, noRounding, zero, gField_val, pField_val, vField_val, mField_val, imm16_hi_lo, bind, Except.bind, pure, Except.pure, e0, e1, e2, FTy.ofCode_code, show Rm.ofCode 0 = .ok .rn from rfl, if_true, if_false, ne_eq, not_true_eq_false, not_false_eq_true, reduceIte, Nat.add_zero, and_self, or_self, decide_true]

theorem RoundTrip.fcmpEq (d : PReg) (a : GReg) (b : GReg) (t : FTy) : RoundTrip.Statement (.fcmpEq d a b t) := by
  intro wf x he
  have h_d := d.isLt
  have h_a := a.isLt
  have h_b := b.isLt
  have h_t := t.code_lt
  have e0 : (t.code * 128) / 128 = t.code := by omega
  have e1 : (t.code * 128) % 128 = 0 := by omega
  refine decodeWord_of_fields rfl ?_ ?_ x he
  · constructor <;> simp only [] <;> omega
  · simp only [Fields.decode, decodeFcmp, zero, gField_val, pField_val, vField_val, mField_val, imm16_hi_lo, bind, Except.bind, pure, Except.pure, e0, e1, FTy.ofCode_code, if_true, if_false, ne_eq, not_true_eq_false, not_false_eq_true, reduceIte, Nat.add_zero, and_self, or_self, decide_true]

theorem RoundTrip.fcmpLt (d : PReg) (a : GReg) (b : GReg) (t : FTy) : RoundTrip.Statement (.fcmpLt d a b t) := by
  intro wf x he
  have h_d := d.isLt
  have h_a := a.isLt
  have h_b := b.isLt
  have h_t := t.code_lt
  have e0 : (t.code * 128 + 1) / 128 = t.code := by omega
  have e1 : (t.code * 128 + 1) % 128 = 1 := by omega
  refine decodeWord_of_fields rfl ?_ ?_ x he
  · constructor <;> simp only [] <;> omega
  · simp only [Fields.decode, decodeFcmp, zero, gField_val, pField_val, vField_val, mField_val, imm16_hi_lo, bind, Except.bind, pure, Except.pure, e0, e1, FTy.ofCode_code, if_true, if_false, ne_eq, not_true_eq_false, not_false_eq_true, reduceIte, Nat.add_zero, and_self, or_self, decide_true]

theorem RoundTrip.fcmpLe (d : PReg) (a : GReg) (b : GReg) (t : FTy) : RoundTrip.Statement (.fcmpLe d a b t) := by
  intro wf x he
  have h_d := d.isLt
  have h_a := a.isLt
  have h_b := b.isLt
  have h_t := t.code_lt
  have e0 : (t.code * 128 + 2) / 128 = t.code := by omega
  have e1 : (t.code * 128 + 2) % 128 = 2 := by omega
  refine decodeWord_of_fields rfl ?_ ?_ x he
  · constructor <;> simp only [] <;> omega
  · simp only [Fields.decode, decodeFcmp, zero, gField_val, pField_val, vField_val, mField_val, imm16_hi_lo, bind, Except.bind, pure, Except.pure, e0, e1, FTy.ofCode_code, if_true, if_false, ne_eq, not_true_eq_false, not_false_eq_true, reduceIte, Nat.add_zero, and_self, or_self, decide_true]

theorem RoundTrip.fcmpUn (d : PReg) (a : GReg) (b : GReg) (t : FTy) : RoundTrip.Statement (.fcmpUn d a b t) := by
  intro wf x he
  have h_d := d.isLt
  have h_a := a.isLt
  have h_b := b.isLt
  have h_t := t.code_lt
  have e0 : (t.code * 128 + 3) / 128 = t.code := by omega
  have e1 : (t.code * 128 + 3) % 128 = 3 := by omega
  refine decodeWord_of_fields rfl ?_ ?_ x he
  · constructor <;> simp only [] <;> omega
  · simp only [Fields.decode, decodeFcmp, zero, gField_val, pField_val, vField_val, mField_val, imm16_hi_lo, bind, Except.bind, pure, Except.pure, e0, e1, FTy.ofCode_code, if_true, if_false, ne_eq, not_true_eq_false, not_false_eq_true, reduceIte, Nat.add_zero, and_self, or_self, decide_true]

theorem RoundTrip.cvt (d : GReg) (a : GReg) (t : Ty) (s : Ty) (r : Rm) : RoundTrip.Statement (.cvt d a t s r) := by
  intro wf x he
  have h_d := d.isLt
  have h_a := a.isLt
  have h_t := t.code_lt
  have h_s := s.code_lt
  have h_r := r.code_lt
  have e0 : (t.code * 128 + s.code * 8 + r.code) / 128 = t.code := by omega
  have e1 : (t.code * 128 + s.code * 8 + r.code) / 8 % 16 = s.code := by omega
  have e2 : (t.code * 128 + s.code * 8 + r.code) % 8 = r.code := by omega
  refine decodeWord_of_fields rfl ?_ ?_ x he
  · constructor <;> simp only [] <;> omega
  · simp only [Fields.decode, decodeCvt, zero, gField_val, pField_val, vField_val, mField_val, imm16_hi_lo, bind, Except.bind, pure, Except.pure, e0, e1, e2, (show ¬t = s by simpa [Instr.wf] using wf), Ty.ofCode_code, Rm.ofCode_code, if_true, if_false, ne_eq, not_true_eq_false, not_false_eq_true, reduceIte, Nat.add_zero, and_self, or_self, decide_true]

theorem RoundTrip.fli (d : GReg) (t : Ty) (h : BitVec 16) : RoundTrip.Statement (.fli d t h) := by
  intro wf x he
  have h_d := d.isLt
  have h_t := t.code_lt
  have h_h := hi_lt h
  have h'_h := lo_lt h
  refine decodeWord_of_fields rfl ?_ ?_ x he
  · constructor <;> simp only [] <;> omega
  · simp only [Fields.decode, decodeFli, zero, gField_val, pField_val, vField_val, mField_val, imm16_hi_lo, bind, Except.bind, pure, Except.pure, (show t.isFloat = true from wf), Ty.ofCode_code, if_true, if_false, ne_eq, not_true_eq_false, not_false_eq_true, reduceIte, Nat.add_zero, and_self, or_self, decide_true]

theorem RoundTrip.vadd (d : VReg) (a : VReg) (b : VReg) (t : ITy) (k : MReg) : RoundTrip.Statement (.vadd d a b t k) := by
  intro wf x he
  have h_d := d.isLt
  have h_a := a.isLt
  have h_b := b.isLt
  have h_t := t.code_lt
  have h_k := k.isLt
  have e0 : (t.code * 128 + k.val * 32) / 128 = t.code := by omega
  have m0 : maskField ((t.code * 128 + k.val * 32) / 32) = k := maskField_of _ _ (by omega)
  have e2 : (t.code * 128 + k.val * 32) % 32 = 0 := by omega
  refine decodeWord_of_fields rfl ?_ ?_ x he
  · constructor <;> simp only [] <;> omega
  · simp only [Fields.decode, decodeVint, vec3, vec2, zero, gField_val, pField_val, vField_val, mField_val, imm16_hi_lo, bind, Except.bind, pure, Except.pure, e0, m0, e2, ITy.ofCode_code, if_true, if_false, ne_eq, not_true_eq_false, not_false_eq_true, reduceIte, Nat.add_zero, and_self, or_self, decide_true]

theorem RoundTrip.vsub (d : VReg) (a : VReg) (b : VReg) (t : ITy) (k : MReg) : RoundTrip.Statement (.vsub d a b t k) := by
  intro wf x he
  have h_d := d.isLt
  have h_a := a.isLt
  have h_b := b.isLt
  have h_t := t.code_lt
  have h_k := k.isLt
  have e0 : (t.code * 128 + k.val * 32 + 1) / 128 = t.code := by omega
  have m0 : maskField ((t.code * 128 + k.val * 32 + 1) / 32) = k := maskField_of _ _ (by omega)
  have e2 : (t.code * 128 + k.val * 32 + 1) % 32 = 1 := by omega
  refine decodeWord_of_fields rfl ?_ ?_ x he
  · constructor <;> simp only [] <;> omega
  · simp only [Fields.decode, decodeVint, vec3, vec2, zero, gField_val, pField_val, vField_val, mField_val, imm16_hi_lo, bind, Except.bind, pure, Except.pure, e0, m0, e2, ITy.ofCode_code, if_true, if_false, ne_eq, not_true_eq_false, not_false_eq_true, reduceIte, Nat.add_zero, and_self, or_self, decide_true]

theorem RoundTrip.vmul (d : VReg) (a : VReg) (b : VReg) (t : ITy) (k : MReg) : RoundTrip.Statement (.vmul d a b t k) := by
  intro wf x he
  have h_d := d.isLt
  have h_a := a.isLt
  have h_b := b.isLt
  have h_t := t.code_lt
  have h_k := k.isLt
  have e0 : (t.code * 128 + k.val * 32 + 2) / 128 = t.code := by omega
  have m0 : maskField ((t.code * 128 + k.val * 32 + 2) / 32) = k := maskField_of _ _ (by omega)
  have e2 : (t.code * 128 + k.val * 32 + 2) % 32 = 2 := by omega
  refine decodeWord_of_fields rfl ?_ ?_ x he
  · constructor <;> simp only [] <;> omega
  · simp only [Fields.decode, decodeVint, vec3, vec2, zero, gField_val, pField_val, vField_val, mField_val, imm16_hi_lo, bind, Except.bind, pure, Except.pure, e0, m0, e2, ITy.ofCode_code, if_true, if_false, ne_eq, not_true_eq_false, not_false_eq_true, reduceIte, Nat.add_zero, and_self, or_self, decide_true]

theorem RoundTrip.vmulh (d : VReg) (a : VReg) (b : VReg) (t : ITy) (k : MReg) : RoundTrip.Statement (.vmulh d a b t k) := by
  intro wf x he
  have h_d := d.isLt
  have h_a := a.isLt
  have h_b := b.isLt
  have h_t := t.code_lt
  have h_k := k.isLt
  have e0 : (t.code * 128 + k.val * 32 + 3) / 128 = t.code := by omega
  have m0 : maskField ((t.code * 128 + k.val * 32 + 3) / 32) = k := maskField_of _ _ (by omega)
  have e2 : (t.code * 128 + k.val * 32 + 3) % 32 = 3 := by omega
  refine decodeWord_of_fields rfl ?_ ?_ x he
  · constructor <;> simp only [] <;> omega
  · simp only [Fields.decode, decodeVint, vec3, vec2, zero, gField_val, pField_val, vField_val, mField_val, imm16_hi_lo, bind, Except.bind, pure, Except.pure, e0, m0, e2, ITy.ofCode_code, if_true, if_false, ne_eq, not_true_eq_false, not_false_eq_true, reduceIte, Nat.add_zero, and_self, or_self, decide_true]

theorem RoundTrip.vmin (d : VReg) (a : VReg) (b : VReg) (t : ITy) (k : MReg) : RoundTrip.Statement (.vmin d a b t k) := by
  intro wf x he
  have h_d := d.isLt
  have h_a := a.isLt
  have h_b := b.isLt
  have h_t := t.code_lt
  have h_k := k.isLt
  have e0 : (t.code * 128 + k.val * 32 + 4) / 128 = t.code := by omega
  have m0 : maskField ((t.code * 128 + k.val * 32 + 4) / 32) = k := maskField_of _ _ (by omega)
  have e2 : (t.code * 128 + k.val * 32 + 4) % 32 = 4 := by omega
  refine decodeWord_of_fields rfl ?_ ?_ x he
  · constructor <;> simp only [] <;> omega
  · simp only [Fields.decode, decodeVint, vec3, vec2, zero, gField_val, pField_val, vField_val, mField_val, imm16_hi_lo, bind, Except.bind, pure, Except.pure, e0, m0, e2, ITy.ofCode_code, if_true, if_false, ne_eq, not_true_eq_false, not_false_eq_true, reduceIte, Nat.add_zero, and_self, or_self, decide_true]

theorem RoundTrip.vmax (d : VReg) (a : VReg) (b : VReg) (t : ITy) (k : MReg) : RoundTrip.Statement (.vmax d a b t k) := by
  intro wf x he
  have h_d := d.isLt
  have h_a := a.isLt
  have h_b := b.isLt
  have h_t := t.code_lt
  have h_k := k.isLt
  have e0 : (t.code * 128 + k.val * 32 + 5) / 128 = t.code := by omega
  have m0 : maskField ((t.code * 128 + k.val * 32 + 5) / 32) = k := maskField_of _ _ (by omega)
  have e2 : (t.code * 128 + k.val * 32 + 5) % 32 = 5 := by omega
  refine decodeWord_of_fields rfl ?_ ?_ x he
  · constructor <;> simp only [] <;> omega
  · simp only [Fields.decode, decodeVint, vec3, vec2, zero, gField_val, pField_val, vField_val, mField_val, imm16_hi_lo, bind, Except.bind, pure, Except.pure, e0, m0, e2, ITy.ofCode_code, if_true, if_false, ne_eq, not_true_eq_false, not_false_eq_true, reduceIte, Nat.add_zero, and_self, or_self, decide_true]

theorem RoundTrip.vminu (d : VReg) (a : VReg) (b : VReg) (t : ITy) (k : MReg) : RoundTrip.Statement (.vminu d a b t k) := by
  intro wf x he
  have h_d := d.isLt
  have h_a := a.isLt
  have h_b := b.isLt
  have h_t := t.code_lt
  have h_k := k.isLt
  have e0 : (t.code * 128 + k.val * 32 + 6) / 128 = t.code := by omega
  have m0 : maskField ((t.code * 128 + k.val * 32 + 6) / 32) = k := maskField_of _ _ (by omega)
  have e2 : (t.code * 128 + k.val * 32 + 6) % 32 = 6 := by omega
  refine decodeWord_of_fields rfl ?_ ?_ x he
  · constructor <;> simp only [] <;> omega
  · simp only [Fields.decode, decodeVint, vec3, vec2, zero, gField_val, pField_val, vField_val, mField_val, imm16_hi_lo, bind, Except.bind, pure, Except.pure, e0, m0, e2, ITy.ofCode_code, if_true, if_false, ne_eq, not_true_eq_false, not_false_eq_true, reduceIte, Nat.add_zero, and_self, or_self, decide_true]

theorem RoundTrip.vmaxu (d : VReg) (a : VReg) (b : VReg) (t : ITy) (k : MReg) : RoundTrip.Statement (.vmaxu d a b t k) := by
  intro wf x he
  have h_d := d.isLt
  have h_a := a.isLt
  have h_b := b.isLt
  have h_t := t.code_lt
  have h_k := k.isLt
  have e0 : (t.code * 128 + k.val * 32 + 7) / 128 = t.code := by omega
  have m0 : maskField ((t.code * 128 + k.val * 32 + 7) / 32) = k := maskField_of _ _ (by omega)
  have e2 : (t.code * 128 + k.val * 32 + 7) % 32 = 7 := by omega
  refine decodeWord_of_fields rfl ?_ ?_ x he
  · constructor <;> simp only [] <;> omega
  · simp only [Fields.decode, decodeVint, vec3, vec2, zero, gField_val, pField_val, vField_val, mField_val, imm16_hi_lo, bind, Except.bind, pure, Except.pure, e0, m0, e2, ITy.ofCode_code, if_true, if_false, ne_eq, not_true_eq_false, not_false_eq_true, reduceIte, Nat.add_zero, and_self, or_self, decide_true]

theorem RoundTrip.vand (d : VReg) (a : VReg) (b : VReg) (t : ITy) (k : MReg) : RoundTrip.Statement (.vand d a b t k) := by
  intro wf x he
  have h_d := d.isLt
  have h_a := a.isLt
  have h_b := b.isLt
  have h_t := t.code_lt
  have h_k := k.isLt
  have e0 : (t.code * 128 + k.val * 32 + 8) / 128 = t.code := by omega
  have m0 : maskField ((t.code * 128 + k.val * 32 + 8) / 32) = k := maskField_of _ _ (by omega)
  have e2 : (t.code * 128 + k.val * 32 + 8) % 32 = 8 := by omega
  refine decodeWord_of_fields rfl ?_ ?_ x he
  · constructor <;> simp only [] <;> omega
  · simp only [Fields.decode, decodeVint, vec3, vec2, zero, gField_val, pField_val, vField_val, mField_val, imm16_hi_lo, bind, Except.bind, pure, Except.pure, e0, m0, e2, ITy.ofCode_code, if_true, if_false, ne_eq, not_true_eq_false, not_false_eq_true, reduceIte, Nat.add_zero, and_self, or_self, decide_true]

theorem RoundTrip.vor (d : VReg) (a : VReg) (b : VReg) (t : ITy) (k : MReg) : RoundTrip.Statement (.vor d a b t k) := by
  intro wf x he
  have h_d := d.isLt
  have h_a := a.isLt
  have h_b := b.isLt
  have h_t := t.code_lt
  have h_k := k.isLt
  have e0 : (t.code * 128 + k.val * 32 + 9) / 128 = t.code := by omega
  have m0 : maskField ((t.code * 128 + k.val * 32 + 9) / 32) = k := maskField_of _ _ (by omega)
  have e2 : (t.code * 128 + k.val * 32 + 9) % 32 = 9 := by omega
  refine decodeWord_of_fields rfl ?_ ?_ x he
  · constructor <;> simp only [] <;> omega
  · simp only [Fields.decode, decodeVint, vec3, vec2, zero, gField_val, pField_val, vField_val, mField_val, imm16_hi_lo, bind, Except.bind, pure, Except.pure, e0, m0, e2, ITy.ofCode_code, if_true, if_false, ne_eq, not_true_eq_false, not_false_eq_true, reduceIte, Nat.add_zero, and_self, or_self, decide_true]

theorem RoundTrip.vxor (d : VReg) (a : VReg) (b : VReg) (t : ITy) (k : MReg) : RoundTrip.Statement (.vxor d a b t k) := by
  intro wf x he
  have h_d := d.isLt
  have h_a := a.isLt
  have h_b := b.isLt
  have h_t := t.code_lt
  have h_k := k.isLt
  have e0 : (t.code * 128 + k.val * 32 + 10) / 128 = t.code := by omega
  have m0 : maskField ((t.code * 128 + k.val * 32 + 10) / 32) = k := maskField_of _ _ (by omega)
  have e2 : (t.code * 128 + k.val * 32 + 10) % 32 = 10 := by omega
  refine decodeWord_of_fields rfl ?_ ?_ x he
  · constructor <;> simp only [] <;> omega
  · simp only [Fields.decode, decodeVint, vec3, vec2, zero, gField_val, pField_val, vField_val, mField_val, imm16_hi_lo, bind, Except.bind, pure, Except.pure, e0, m0, e2, ITy.ofCode_code, if_true, if_false, ne_eq, not_true_eq_false, not_false_eq_true, reduceIte, Nat.add_zero, and_self, or_self, decide_true]

theorem RoundTrip.vshl (d : VReg) (a : VReg) (b : VReg) (t : ITy) (k : MReg) : RoundTrip.Statement (.vshl d a b t k) := by
  intro wf x he
  have h_d := d.isLt
  have h_a := a.isLt
  have h_b := b.isLt
  have h_t := t.code_lt
  have h_k := k.isLt
  have e0 : (t.code * 128 + k.val * 32 + 11) / 128 = t.code := by omega
  have m0 : maskField ((t.code * 128 + k.val * 32 + 11) / 32) = k := maskField_of _ _ (by omega)
  have e2 : (t.code * 128 + k.val * 32 + 11) % 32 = 11 := by omega
  refine decodeWord_of_fields rfl ?_ ?_ x he
  · constructor <;> simp only [] <;> omega
  · simp only [Fields.decode, decodeVint, vec3, vec2, zero, gField_val, pField_val, vField_val, mField_val, imm16_hi_lo, bind, Except.bind, pure, Except.pure, e0, m0, e2, ITy.ofCode_code, if_true, if_false, ne_eq, not_true_eq_false, not_false_eq_true, reduceIte, Nat.add_zero, and_self, or_self, decide_true]

theorem RoundTrip.vshr (d : VReg) (a : VReg) (b : VReg) (t : ITy) (k : MReg) : RoundTrip.Statement (.vshr d a b t k) := by
  intro wf x he
  have h_d := d.isLt
  have h_a := a.isLt
  have h_b := b.isLt
  have h_t := t.code_lt
  have h_k := k.isLt
  have e0 : (t.code * 128 + k.val * 32 + 12) / 128 = t.code := by omega
  have m0 : maskField ((t.code * 128 + k.val * 32 + 12) / 32) = k := maskField_of _ _ (by omega)
  have e2 : (t.code * 128 + k.val * 32 + 12) % 32 = 12 := by omega
  refine decodeWord_of_fields rfl ?_ ?_ x he
  · constructor <;> simp only [] <;> omega
  · simp only [Fields.decode, decodeVint, vec3, vec2, zero, gField_val, pField_val, vField_val, mField_val, imm16_hi_lo, bind, Except.bind, pure, Except.pure, e0, m0, e2, ITy.ofCode_code, if_true, if_false, ne_eq, not_true_eq_false, not_false_eq_true, reduceIte, Nat.add_zero, and_self, or_self, decide_true]

theorem RoundTrip.vsra (d : VReg) (a : VReg) (b : VReg) (t : ITy) (k : MReg) : RoundTrip.Statement (.vsra d a b t k) := by
  intro wf x he
  have h_d := d.isLt
  have h_a := a.isLt
  have h_b := b.isLt
  have h_t := t.code_lt
  have h_k := k.isLt
  have e0 : (t.code * 128 + k.val * 32 + 13) / 128 = t.code := by omega
  have m0 : maskField ((t.code * 128 + k.val * 32 + 13) / 32) = k := maskField_of _ _ (by omega)
  have e2 : (t.code * 128 + k.val * 32 + 13) % 32 = 13 := by omega
  refine decodeWord_of_fields rfl ?_ ?_ x he
  · constructor <;> simp only [] <;> omega
  · simp only [Fields.decode, decodeVint, vec3, vec2, zero, gField_val, pField_val, vField_val, mField_val, imm16_hi_lo, bind, Except.bind, pure, Except.pure, e0, m0, e2, ITy.ofCode_code, if_true, if_false, ne_eq, not_true_eq_false, not_false_eq_true, reduceIte, Nat.add_zero, and_self, or_self, decide_true]

theorem RoundTrip.vabs (d : VReg) (a : VReg) (t : ITy) (k : MReg) : RoundTrip.Statement (.vabs d a t k) := by
  intro wf x he
  have h_d := d.isLt
  have h_a := a.isLt
  have h_t := t.code_lt
  have h_k := k.isLt
  have e0 : (t.code * 128 + k.val * 32 + 14) / 128 = t.code := by omega
  have m0 : maskField ((t.code * 128 + k.val * 32 + 14) / 32) = k := maskField_of _ _ (by omega)
  have e2 : (t.code * 128 + k.val * 32 + 14) % 32 = 14 := by omega
  refine decodeWord_of_fields rfl ?_ ?_ x he
  · constructor <;> simp only [] <;> omega
  · simp only [Fields.decode, decodeVint, vec3, vec2, zero, gField_val, pField_val, vField_val, mField_val, imm16_hi_lo, bind, Except.bind, pure, Except.pure, e0, m0, e2, ITy.ofCode_code, if_true, if_false, ne_eq, not_true_eq_false, not_false_eq_true, reduceIte, Nat.add_zero, and_self, or_self, decide_true]

theorem RoundTrip.vneg (d : VReg) (a : VReg) (t : ITy) (k : MReg) : RoundTrip.Statement (.vneg d a t k) := by
  intro wf x he
  have h_d := d.isLt
  have h_a := a.isLt
  have h_t := t.code_lt
  have h_k := k.isLt
  have e0 : (t.code * 128 + k.val * 32 + 15) / 128 = t.code := by omega
  have m0 : maskField ((t.code * 128 + k.val * 32 + 15) / 32) = k := maskField_of _ _ (by omega)
  have e2 : (t.code * 128 + k.val * 32 + 15) % 32 = 15 := by omega
  refine decodeWord_of_fields rfl ?_ ?_ x he
  · constructor <;> simp only [] <;> omega
  · simp only [Fields.decode, decodeVint, vec3, vec2, zero, gField_val, pField_val, vField_val, mField_val, imm16_hi_lo, bind, Except.bind, pure, Except.pure, e0, m0, e2, ITy.ofCode_code, if_true, if_false, ne_eq, not_true_eq_false, not_false_eq_true, reduceIte, Nat.add_zero, and_self, or_self, decide_true]

theorem RoundTrip.vadds (d : VReg) (a : VReg) (b : VReg) (t : ITy) (k : MReg) : RoundTrip.Statement (.vadds d a b t k) := by
  intro wf x he
  have h_d := d.isLt
  have h_a := a.isLt
  have h_b := b.isLt
  have h_t := t.code_lt
  have h_k := k.isLt
  have e0 : (t.code * 128 + k.val * 32 + 16) / 128 = t.code := by omega
  have m0 : maskField ((t.code * 128 + k.val * 32 + 16) / 32) = k := maskField_of _ _ (by omega)
  have e2 : (t.code * 128 + k.val * 32 + 16) % 32 = 16 := by omega
  refine decodeWord_of_fields rfl ?_ ?_ x he
  · constructor <;> simp only [] <;> omega
  · simp only [Fields.decode, decodeVint, vec3, vec2, zero, gField_val, pField_val, vField_val, mField_val, imm16_hi_lo, bind, Except.bind, pure, Except.pure, e0, m0, e2, ITy.ofCode_code, if_true, if_false, ne_eq, not_true_eq_false, not_false_eq_true, reduceIte, Nat.add_zero, and_self, or_self, decide_true]

theorem RoundTrip.vsubs (d : VReg) (a : VReg) (b : VReg) (t : ITy) (k : MReg) : RoundTrip.Statement (.vsubs d a b t k) := by
  intro wf x he
  have h_d := d.isLt
  have h_a := a.isLt
  have h_b := b.isLt
  have h_t := t.code_lt
  have h_k := k.isLt
  have e0 : (t.code * 128 + k.val * 32 + 17) / 128 = t.code := by omega
  have m0 : maskField ((t.code * 128 + k.val * 32 + 17) / 32) = k := maskField_of _ _ (by omega)
  have e2 : (t.code * 128 + k.val * 32 + 17) % 32 = 17 := by omega
  refine decodeWord_of_fields rfl ?_ ?_ x he
  · constructor <;> simp only [] <;> omega
  · simp only [Fields.decode, decodeVint, vec3, vec2, zero, gField_val, pField_val, vField_val, mField_val, imm16_hi_lo, bind, Except.bind, pure, Except.pure, e0, m0, e2, ITy.ofCode_code, if_true, if_false, ne_eq, not_true_eq_false, not_false_eq_true, reduceIte, Nat.add_zero, and_self, or_self, decide_true]

theorem RoundTrip.vmac (d : VReg) (a : VReg) (b : VReg) (t : ITy) (k : MReg) : RoundTrip.Statement (.vmac d a b t k) := by
  intro wf x he
  have h_d := d.isLt
  have h_a := a.isLt
  have h_b := b.isLt
  have h_t := t.code_lt
  have h_k := k.isLt
  have e0 : (t.code * 128 + k.val * 32 + 18) / 128 = t.code := by omega
  have m0 : maskField ((t.code * 128 + k.val * 32 + 18) / 32) = k := maskField_of _ _ (by omega)
  have e2 : (t.code * 128 + k.val * 32 + 18) % 32 = 18 := by omega
  refine decodeWord_of_fields rfl ?_ ?_ x he
  · constructor <;> simp only [] <;> omega
  · simp only [Fields.decode, decodeVint, vec3, vec2, zero, gField_val, pField_val, vField_val, mField_val, imm16_hi_lo, bind, Except.bind, pure, Except.pure, e0, m0, e2, ITy.ofCode_code, if_true, if_false, ne_eq, not_true_eq_false, not_false_eq_true, reduceIte, Nat.add_zero, and_self, or_self, decide_true]

theorem RoundTrip.vdot4 (d : VReg) (a : VReg) (b : VReg) (k : MReg) : RoundTrip.Statement (.vdot4 d a b k) := by
  intro wf x he
  have h_d := d.isLt
  have h_a := a.isLt
  have h_b := b.isLt
  have h_k := k.isLt
  have q0 : ITy.ofCode ((256 + k.val * 32 + 19) / 128) = .ok .i32 := by rw [show (256 + k.val * 32 + 19) / 128 = 2 by omega]; rfl
  have m0 : maskField ((256 + k.val * 32 + 19) / 32) = k := maskField_of _ _ (by omega)
  have e2 : (256 + k.val * 32 + 19) % 32 = 19 := by omega
  refine decodeWord_of_fields rfl ?_ ?_ x he
  · constructor <;> simp only [] <;> omega
  · simp only [Fields.decode, decodeVint, vec3, vec2, zero, gField_val, pField_val, vField_val, mField_val, imm16_hi_lo, bind, Except.bind, pure, Except.pure, q0, m0, e2, if_true, if_false, ne_eq, not_true_eq_false, not_false_eq_true, reduceIte, Nat.add_zero, and_self, or_self, decide_true]

theorem RoundTrip.vfadd (d : VReg) (a : VReg) (b : VReg) (t : FTy) (k : MReg) (r : Rm) : RoundTrip.Statement (.vfadd d a b t k r) := by
  intro wf x he
  have h_d := d.isLt
  have h_a := a.isLt
  have h_b := b.isLt
  have h_t := t.code_lt
  have h_k := k.isLt
  have h_r := r.code_lt
  have e0 : (t.code * 128 + k.val * 32 + r.code * 4) / 128 = t.code := by omega
  have m0 : maskField ((t.code * 128 + k.val * 32 + r.code * 4) / 32) = k := maskField_of _ _ (by omega)
  have e2 : (t.code * 128 + k.val * 32 + r.code * 4) / 4 % 8 = r.code := by omega
  have e3 : (t.code * 128 + k.val * 32 + r.code * 4) % 4 = 0 := by omega
  refine decodeWord_of_fields rfl ?_ ?_ x he
  · constructor <;> simp only [] <;> omega
  · simp only [Fields.decode, decodeVfpA, vec3, zero, gField_val, pField_val, vField_val, mField_val, imm16_hi_lo, bind, Except.bind, pure, Except.pure, e0, m0, e2, e3, FTy.ofCode_code, Rm.ofCode_code, if_true, if_false, ne_eq, not_true_eq_false, not_false_eq_true, reduceIte, Nat.add_zero, and_self, or_self, decide_true]

theorem RoundTrip.vfsub (d : VReg) (a : VReg) (b : VReg) (t : FTy) (k : MReg) (r : Rm) : RoundTrip.Statement (.vfsub d a b t k r) := by
  intro wf x he
  have h_d := d.isLt
  have h_a := a.isLt
  have h_b := b.isLt
  have h_t := t.code_lt
  have h_k := k.isLt
  have h_r := r.code_lt
  have e0 : (t.code * 128 + k.val * 32 + r.code * 4 + 1) / 128 = t.code := by omega
  have m0 : maskField ((t.code * 128 + k.val * 32 + r.code * 4 + 1) / 32) = k := maskField_of _ _ (by omega)
  have e2 : (t.code * 128 + k.val * 32 + r.code * 4 + 1) / 4 % 8 = r.code := by omega
  have e3 : (t.code * 128 + k.val * 32 + r.code * 4 + 1) % 4 = 1 := by omega
  refine decodeWord_of_fields rfl ?_ ?_ x he
  · constructor <;> simp only [] <;> omega
  · simp only [Fields.decode, decodeVfpA, vec3, zero, gField_val, pField_val, vField_val, mField_val, imm16_hi_lo, bind, Except.bind, pure, Except.pure, e0, m0, e2, e3, FTy.ofCode_code, Rm.ofCode_code, if_true, if_false, ne_eq, not_true_eq_false, not_false_eq_true, reduceIte, Nat.add_zero, and_self, or_self, decide_true]

theorem RoundTrip.vfmul (d : VReg) (a : VReg) (b : VReg) (t : FTy) (k : MReg) (r : Rm) : RoundTrip.Statement (.vfmul d a b t k r) := by
  intro wf x he
  have h_d := d.isLt
  have h_a := a.isLt
  have h_b := b.isLt
  have h_t := t.code_lt
  have h_k := k.isLt
  have h_r := r.code_lt
  have e0 : (t.code * 128 + k.val * 32 + r.code * 4 + 2) / 128 = t.code := by omega
  have m0 : maskField ((t.code * 128 + k.val * 32 + r.code * 4 + 2) / 32) = k := maskField_of _ _ (by omega)
  have e2 : (t.code * 128 + k.val * 32 + r.code * 4 + 2) / 4 % 8 = r.code := by omega
  have e3 : (t.code * 128 + k.val * 32 + r.code * 4 + 2) % 4 = 2 := by omega
  refine decodeWord_of_fields rfl ?_ ?_ x he
  · constructor <;> simp only [] <;> omega
  · simp only [Fields.decode, decodeVfpA, vec3, zero, gField_val, pField_val, vField_val, mField_val, imm16_hi_lo, bind, Except.bind, pure, Except.pure, e0, m0, e2, e3, FTy.ofCode_code, Rm.ofCode_code, if_true, if_false, ne_eq, not_true_eq_false, not_false_eq_true, reduceIte, Nat.add_zero, and_self, or_self, decide_true]

theorem RoundTrip.vfdiv (d : VReg) (a : VReg) (b : VReg) (t : FTy) (k : MReg) (r : Rm) : RoundTrip.Statement (.vfdiv d a b t k r) := by
  intro wf x he
  have h_d := d.isLt
  have h_a := a.isLt
  have h_b := b.isLt
  have h_t := t.code_lt
  have h_k := k.isLt
  have h_r := r.code_lt
  have e0 : (t.code * 128 + k.val * 32 + r.code * 4 + 3) / 128 = t.code := by omega
  have m0 : maskField ((t.code * 128 + k.val * 32 + r.code * 4 + 3) / 32) = k := maskField_of _ _ (by omega)
  have e2 : (t.code * 128 + k.val * 32 + r.code * 4 + 3) / 4 % 8 = r.code := by omega
  have e3 : (t.code * 128 + k.val * 32 + r.code * 4 + 3) % 4 = 3 := by omega
  refine decodeWord_of_fields rfl ?_ ?_ x he
  · constructor <;> simp only [] <;> omega
  · simp only [Fields.decode, decodeVfpA, vec3, zero, gField_val, pField_val, vField_val, mField_val, imm16_hi_lo, bind, Except.bind, pure, Except.pure, e0, m0, e2, e3, FTy.ofCode_code, Rm.ofCode_code, if_true, if_false, ne_eq, not_true_eq_false, not_false_eq_true, reduceIte, Nat.add_zero, and_self, or_self, decide_true]

theorem RoundTrip.vfma (d : VReg) (a : VReg) (b : VReg) (t : FTy) (k : MReg) (r : Rm) : RoundTrip.Statement (.vfma d a b t k r) := by
  intro wf x he
  have h_d := d.isLt
  have h_a := a.isLt
  have h_b := b.isLt
  have h_t := t.code_lt
  have h_k := k.isLt
  have h_r := r.code_lt
  have e0 : (t.code * 128 + k.val * 32 + r.code * 4) / 128 = t.code := by omega
  have m0 : maskField ((t.code * 128 + k.val * 32 + r.code * 4) / 32) = k := maskField_of _ _ (by omega)
  have e2 : (t.code * 128 + k.val * 32 + r.code * 4) / 4 % 8 = r.code := by omega
  have e3 : (t.code * 128 + k.val * 32 + r.code * 4) % 4 = 0 := by omega
  refine decodeWord_of_fields rfl ?_ ?_ x he
  · constructor <;> simp only [] <;> omega
  · simp only [Fields.decode, decodeVfpB, vec3, vec2, noRounding, zero, gField_val, pField_val, vField_val, mField_val, imm16_hi_lo, bind, Except.bind, pure, Except.pure, e0, m0, e2, e3, FTy.ofCode_code, Rm.ofCode_code, if_true, if_false, ne_eq, not_true_eq_false, not_false_eq_true, reduceIte, Nat.add_zero, and_self, or_self, decide_true]

theorem RoundTrip.vfmin (d : VReg) (a : VReg) (b : VReg) (t : FTy) (k : MReg) : RoundTrip.Statement (.vfmin d a b t k) := by
  intro wf x he
  have h_d := d.isLt
  have h_a := a.isLt
  have h_b := b.isLt
  have h_t := t.code_lt
  have h_k := k.isLt
  have e0 : (t.code * 128 + k.val * 32 + 1) / 128 = t.code := by omega
  have m0 : maskField ((t.code * 128 + k.val * 32 + 1) / 32) = k := maskField_of _ _ (by omega)
  have e2 : (t.code * 128 + k.val * 32 + 1) / 4 % 8 = 0 := by omega
  have e3 : (t.code * 128 + k.val * 32 + 1) % 4 = 1 := by omega
  refine decodeWord_of_fields rfl ?_ ?_ x he
  · constructor <;> simp only [] <;> omega
  · simp only [Fields.decode, decodeVfpB, vec3, vec2, noRounding, zero, gField_val, pField_val, vField_val, mField_val, imm16_hi_lo, bind, Except.bind, pure, Except.pure, e0, m0, e2, e3, FTy.ofCode_code, show Rm.ofCode 0 = .ok .rn from rfl, if_true, if_false, ne_eq, not_true_eq_false, not_false_eq_true, reduceIte, Nat.add_zero, and_self, or_self, decide_true]

theorem RoundTrip.vfmax (d : VReg) (a : VReg) (b : VReg) (t : FTy) (k : MReg) : RoundTrip.Statement (.vfmax d a b t k) := by
  intro wf x he
  have h_d := d.isLt
  have h_a := a.isLt
  have h_b := b.isLt
  have h_t := t.code_lt
  have h_k := k.isLt
  have e0 : (t.code * 128 + k.val * 32 + 2) / 128 = t.code := by omega
  have m0 : maskField ((t.code * 128 + k.val * 32 + 2) / 32) = k := maskField_of _ _ (by omega)
  have e2 : (t.code * 128 + k.val * 32 + 2) / 4 % 8 = 0 := by omega
  have e3 : (t.code * 128 + k.val * 32 + 2) % 4 = 2 := by omega
  refine decodeWord_of_fields rfl ?_ ?_ x he
  · constructor <;> simp only [] <;> omega
  · simp only [Fields.decode, decodeVfpB, vec3, vec2, noRounding, zero, gField_val, pField_val, vField_val, mField_val, imm16_hi_lo, bind, Except.bind, pure, Except.pure, e0, m0, e2, e3, FTy.ofCode_code, show Rm.ofCode 0 = .ok .rn from rfl, if_true, if_false, ne_eq, not_true_eq_false, not_false_eq_true, reduceIte, Nat.add_zero, and_self, or_self, decide_true]

theorem RoundTrip.vfsqrt (d : VReg) (a : VReg) (t : FTy) (k : MReg) (r : Rm) : RoundTrip.Statement (.vfsqrt d a t k r) := by
  intro wf x he
  have h_d := d.isLt
  have h_a := a.isLt
  have h_t := t.code_lt
  have h_k := k.isLt
  have h_r := r.code_lt
  have e0 : (t.code * 128 + k.val * 32 + r.code * 4 + 3) / 128 = t.code := by omega
  have m0 : maskField ((t.code * 128 + k.val * 32 + r.code * 4 + 3) / 32) = k := maskField_of _ _ (by omega)
  have e2 : (t.code * 128 + k.val * 32 + r.code * 4 + 3) / 4 % 8 = r.code := by omega
  have e3 : (t.code * 128 + k.val * 32 + r.code * 4 + 3) % 4 = 3 := by omega
  refine decodeWord_of_fields rfl ?_ ?_ x he
  · constructor <;> simp only [] <;> omega
  · simp only [Fields.decode, decodeVfpB, vec3, vec2, noRounding, zero, gField_val, pField_val, vField_val, mField_val, imm16_hi_lo, bind, Except.bind, pure, Except.pure, e0, m0, e2, e3, FTy.ofCode_code, Rm.ofCode_code, if_true, if_false, ne_eq, not_true_eq_false, not_false_eq_true, reduceIte, Nat.add_zero, and_self, or_self, decide_true]

theorem RoundTrip.vfabs (d : VReg) (a : VReg) (t : FTy) (k : MReg) : RoundTrip.Statement (.vfabs d a t k) := by
  intro wf x he
  have h_d := d.isLt
  have h_a := a.isLt
  have h_t := t.code_lt
  have h_k := k.isLt
  have e0 : (t.code * 128 + k.val * 32) / 128 = t.code := by omega
  have m0 : maskField ((t.code * 128 + k.val * 32) / 32) = k := maskField_of _ _ (by omega)
  have e2 : (t.code * 128 + k.val * 32) % 32 = 0 := by omega
  refine decodeWord_of_fields rfl ?_ ?_ x he
  · constructor <;> simp only [] <;> omega
  · simp only [Fields.decode, decodeVfpU, vec3, vec2, zero, gField_val, pField_val, vField_val, mField_val, imm16_hi_lo, bind, Except.bind, pure, Except.pure, e0, m0, e2, FTy.ofCode_code, if_true, if_false, ne_eq, not_true_eq_false, not_false_eq_true, reduceIte, Nat.add_zero, and_self, or_self, decide_true]

theorem RoundTrip.vfneg (d : VReg) (a : VReg) (t : FTy) (k : MReg) : RoundTrip.Statement (.vfneg d a t k) := by
  intro wf x he
  have h_d := d.isLt
  have h_a := a.isLt
  have h_t := t.code_lt
  have h_k := k.isLt
  have e0 : (t.code * 128 + k.val * 32 + 1) / 128 = t.code := by omega
  have m0 : maskField ((t.code * 128 + k.val * 32 + 1) / 32) = k := maskField_of _ _ (by omega)
  have e2 : (t.code * 128 + k.val * 32 + 1) % 32 = 1 := by omega
  refine decodeWord_of_fields rfl ?_ ?_ x he
  · constructor <;> simp only [] <;> omega
  · simp only [Fields.decode, decodeVfpU, vec3, vec2, zero, gField_val, pField_val, vField_val, mField_val, imm16_hi_lo, bind, Except.bind, pure, Except.pure, e0, m0, e2, FTy.ofCode_code, if_true, if_false, ne_eq, not_true_eq_false, not_false_eq_true, reduceIte, Nat.add_zero, and_self, or_self, decide_true]

theorem RoundTrip.vfdist (d : VReg) (a : VReg) (b : VReg) (t : FTy) (k : MReg) : RoundTrip.Statement (.vfdist d a b t k) := by
  intro wf x he
  have h_d := d.isLt
  have h_a := a.isLt
  have h_b := b.isLt
  have h_t := t.code_lt
  have h_k := k.isLt
  have e0 : (t.code * 128 + k.val * 32 + 2) / 128 = t.code := by omega
  have m0 : maskField ((t.code * 128 + k.val * 32 + 2) / 32) = k := maskField_of _ _ (by omega)
  have e2 : (t.code * 128 + k.val * 32 + 2) % 32 = 2 := by omega
  refine decodeWord_of_fields rfl ?_ ?_ x he
  · constructor <;> simp only [] <;> omega
  · simp only [Fields.decode, decodeVfpU, vec3, vec2, zero, gField_val, pField_val, vField_val, mField_val, imm16_hi_lo, bind, Except.bind, pure, Except.pure, e0, m0, e2, FTy.ofCode_code, if_true, if_false, ne_eq, not_true_eq_false, not_false_eq_true, reduceIte, Nat.add_zero, and_self, or_self, decide_true]

theorem RoundTrip.vcmpEq (d : MReg) (a : VReg) (b : VReg) (t : LaneTy) (k : MReg) : RoundTrip.Statement (.vcmpEq d a b t k) := by
  intro wf x he
  have h_d := d.isLt
  have h_a := a.isLt
  have h_b := b.isLt
  have h_t := t.code_lt
  have h_k := k.isLt
  have e0 : (t.code * 128 + k.val * 32) / 128 = t.code := by omega
  have m0 : maskField ((t.code * 128 + k.val * 32) / 32) = k := maskField_of _ _ (by omega)
  have e2 : (t.code * 128 + k.val * 32) % 32 = 0 := by omega
  have q := mDest_val d (by simpa [Instr.wf] using wf)
  refine decodeWord_of_fields rfl ?_ ?_ x he
  · constructor <;> simp only [] <;> omega
  · simp only [Fields.decode, decodeVcmp, vcmp3, zero, gField_val, pField_val, vField_val, mField_val, imm16_hi_lo, bind, Except.bind, pure, Except.pure, e0, m0, e2, q, LaneTy.ofCode_code, if_true, if_false, ne_eq, not_true_eq_false, not_false_eq_true, reduceIte, Nat.add_zero, and_self, or_self, decide_true]

theorem RoundTrip.vcmpNe (d : MReg) (a : VReg) (b : VReg) (t : LaneTy) (k : MReg) : RoundTrip.Statement (.vcmpNe d a b t k) := by
  intro wf x he
  have h_d := d.isLt
  have h_a := a.isLt
  have h_b := b.isLt
  have h_t := t.code_lt
  have h_k := k.isLt
  have e0 : (t.code * 128 + k.val * 32 + 1) / 128 = t.code := by omega
  have m0 : maskField ((t.code * 128 + k.val * 32 + 1) / 32) = k := maskField_of _ _ (by omega)
  have e2 : (t.code * 128 + k.val * 32 + 1) % 32 = 1 := by omega
  have q := mDest_val d (by simpa [Instr.wf] using wf)
  refine decodeWord_of_fields rfl ?_ ?_ x he
  · constructor <;> simp only [] <;> omega
  · simp only [Fields.decode, decodeVcmp, vcmp3, zero, gField_val, pField_val, vField_val, mField_val, imm16_hi_lo, bind, Except.bind, pure, Except.pure, e0, m0, e2, q, LaneTy.ofCode_code, if_true, if_false, ne_eq, not_true_eq_false, not_false_eq_true, reduceIte, Nat.add_zero, and_self, or_self, decide_true]

theorem RoundTrip.vcmpLt (d : MReg) (a : VReg) (b : VReg) (t : LaneTy) (k : MReg) : RoundTrip.Statement (.vcmpLt d a b t k) := by
  intro wf x he
  have h_d := d.isLt
  have h_a := a.isLt
  have h_b := b.isLt
  have h_t := t.code_lt
  have h_k := k.isLt
  have e0 : (t.code * 128 + k.val * 32 + 2) / 128 = t.code := by omega
  have m0 : maskField ((t.code * 128 + k.val * 32 + 2) / 32) = k := maskField_of _ _ (by omega)
  have e2 : (t.code * 128 + k.val * 32 + 2) % 32 = 2 := by omega
  have q := mDest_val d (by simpa [Instr.wf] using wf)
  refine decodeWord_of_fields rfl ?_ ?_ x he
  · constructor <;> simp only [] <;> omega
  · simp only [Fields.decode, decodeVcmp, vcmp3, zero, gField_val, pField_val, vField_val, mField_val, imm16_hi_lo, bind, Except.bind, pure, Except.pure, e0, m0, e2, q, LaneTy.ofCode_code, if_true, if_false, ne_eq, not_true_eq_false, not_false_eq_true, reduceIte, Nat.add_zero, and_self, or_self, decide_true]

theorem RoundTrip.vcmpLe (d : MReg) (a : VReg) (b : VReg) (t : LaneTy) (k : MReg) : RoundTrip.Statement (.vcmpLe d a b t k) := by
  intro wf x he
  have h_d := d.isLt
  have h_a := a.isLt
  have h_b := b.isLt
  have h_t := t.code_lt
  have h_k := k.isLt
  have e0 : (t.code * 128 + k.val * 32 + 3) / 128 = t.code := by omega
  have m0 : maskField ((t.code * 128 + k.val * 32 + 3) / 32) = k := maskField_of _ _ (by omega)
  have e2 : (t.code * 128 + k.val * 32 + 3) % 32 = 3 := by omega
  have q := mDest_val d (by simpa [Instr.wf] using wf)
  refine decodeWord_of_fields rfl ?_ ?_ x he
  · constructor <;> simp only [] <;> omega
  · simp only [Fields.decode, decodeVcmp, vcmp3, zero, gField_val, pField_val, vField_val, mField_val, imm16_hi_lo, bind, Except.bind, pure, Except.pure, e0, m0, e2, q, LaneTy.ofCode_code, if_true, if_false, ne_eq, not_true_eq_false, not_false_eq_true, reduceIte, Nat.add_zero, and_self, or_self, decide_true]

theorem RoundTrip.vcmpGt (d : MReg) (a : VReg) (b : VReg) (t : LaneTy) (k : MReg) : RoundTrip.Statement (.vcmpGt d a b t k) := by
  intro wf x he
  have h_d := d.isLt
  have h_a := a.isLt
  have h_b := b.isLt
  have h_t := t.code_lt
  have h_k := k.isLt
  have e0 : (t.code * 128 + k.val * 32 + 4) / 128 = t.code := by omega
  have m0 : maskField ((t.code * 128 + k.val * 32 + 4) / 32) = k := maskField_of _ _ (by omega)
  have e2 : (t.code * 128 + k.val * 32 + 4) % 32 = 4 := by omega
  have q := mDest_val d (by simpa [Instr.wf] using wf)
  refine decodeWord_of_fields rfl ?_ ?_ x he
  · constructor <;> simp only [] <;> omega
  · simp only [Fields.decode, decodeVcmp, vcmp3, zero, gField_val, pField_val, vField_val, mField_val, imm16_hi_lo, bind, Except.bind, pure, Except.pure, e0, m0, e2, q, LaneTy.ofCode_code, if_true, if_false, ne_eq, not_true_eq_false, not_false_eq_true, reduceIte, Nat.add_zero, and_self, or_self, decide_true]

theorem RoundTrip.vcmpGe (d : MReg) (a : VReg) (b : VReg) (t : LaneTy) (k : MReg) : RoundTrip.Statement (.vcmpGe d a b t k) := by
  intro wf x he
  have h_d := d.isLt
  have h_a := a.isLt
  have h_b := b.isLt
  have h_t := t.code_lt
  have h_k := k.isLt
  have e0 : (t.code * 128 + k.val * 32 + 5) / 128 = t.code := by omega
  have m0 : maskField ((t.code * 128 + k.val * 32 + 5) / 32) = k := maskField_of _ _ (by omega)
  have e2 : (t.code * 128 + k.val * 32 + 5) % 32 = 5 := by omega
  have q := mDest_val d (by simpa [Instr.wf] using wf)
  refine decodeWord_of_fields rfl ?_ ?_ x he
  · constructor <;> simp only [] <;> omega
  · simp only [Fields.decode, decodeVcmp, vcmp3, zero, gField_val, pField_val, vField_val, mField_val, imm16_hi_lo, bind, Except.bind, pure, Except.pure, e0, m0, e2, q, LaneTy.ofCode_code, if_true, if_false, ne_eq, not_true_eq_false, not_false_eq_true, reduceIte, Nat.add_zero, and_self, or_self, decide_true]

theorem RoundTrip.vcmpLtu (d : MReg) (a : VReg) (b : VReg) (t : ITy) (k : MReg) : RoundTrip.Statement (.vcmpLtu d a b t k) := by
  intro wf x he
  have h_d := d.isLt
  have h_a := a.isLt
  have h_b := b.isLt
  have h_t := t.code_lt
  have h_k := k.isLt
  have e0 : (t.code * 128 + k.val * 32 + 6) / 128 = t.code := by omega
  have m0 : maskField ((t.code * 128 + k.val * 32 + 6) / 32) = k := maskField_of _ _ (by omega)
  have e2 : (t.code * 128 + k.val * 32 + 6) % 32 = 6 := by omega
  have q := mDest_val d (by simpa [Instr.wf] using wf)
  refine decodeWord_of_fields rfl ?_ ?_ x he
  · constructor <;> simp only [] <;> omega
  · simp only [Fields.decode, decodeVcmp, vcmp3, zero, gField_val, pField_val, vField_val, mField_val, imm16_hi_lo, bind, Except.bind, pure, Except.pure, e0, m0, e2, q, ITy.ofCode_code, if_true, if_false, ne_eq, not_true_eq_false, not_false_eq_true, reduceIte, Nat.add_zero, and_self, or_self, decide_true]

theorem RoundTrip.vcmpUn (d : MReg) (a : VReg) (b : VReg) (t : FTy) (k : MReg) : RoundTrip.Statement (.vcmpUn d a b t k) := by
  intro wf x he
  have h_d := d.isLt
  have h_a := a.isLt
  have h_b := b.isLt
  have h_t := t.code_lt
  have h_k := k.isLt
  have e0 : (t.code * 128 + k.val * 32 + 7) / 128 = t.code := by omega
  have m0 : maskField ((t.code * 128 + k.val * 32 + 7) / 32) = k := maskField_of _ _ (by omega)
  have e2 : (t.code * 128 + k.val * 32 + 7) % 32 = 7 := by omega
  have q := mDest_val d (by simpa [Instr.wf] using wf)
  refine decodeWord_of_fields rfl ?_ ?_ x he
  · constructor <;> simp only [] <;> omega
  · simp only [Fields.decode, decodeVcmp, vcmp3, zero, gField_val, pField_val, vField_val, mField_val, imm16_hi_lo, bind, Except.bind, pure, Except.pure, e0, m0, e2, q, FTy.ofCode_code, if_true, if_false, ne_eq, not_true_eq_false, not_false_eq_true, reduceIte, Nat.add_zero, and_self, or_self, decide_true]

theorem RoundTrip.vcvt (d : VReg) (a : VReg) (p : Fin 8) (k : MReg) (t : Ty) (s : Ty) (r : Rm) : RoundTrip.Statement (.vcvt d a p k t s r) := by
  intro wf x he
  have h_d := d.isLt
  have h_a := a.isLt
  have h_p := p.isLt
  have h_k := k.isLt
  have h_t := t.code_lt
  have h_s := s.code_lt
  have h_r := r.code_lt
  have e0 : (t.code * 128 + s.code * 8 + r.code) / 128 = t.code := by omega
  have e1 : (t.code * 128 + s.code * 8 + r.code) / 8 % 16 = s.code := by omega
  have e2 : (t.code * 128 + s.code * 8 + r.code) % 8 = r.code := by omega
  have e3 : (p.val * 4 + k.val) / 4 = p.val := by omega
  have m0 : maskField (p.val * 4 + k.val) = k := maskField_of _ _ (by omega)
  have q : ¬t = s ∧ p.val < vcvtParts t s := by simpa [Instr.wf] using wf
  refine decodeWord_of_fields rfl ?_ ?_ x he
  · constructor <;> simp only [] <;> omega
  · simp only [Fields.decode, decodeVcvt, zero, gField_val, pField_val, vField_val, mField_val, imm16_hi_lo, bind, Except.bind, pure, Except.pure, e0, e1, e2, e3, m0, q.1, q.2, fin8_of p.val p (Nat.mod_eq_of_lt p.isLt), Ty.ofCode_code, Rm.ofCode_code, if_true, if_false, ne_eq, not_true_eq_false, not_false_eq_true, reduceIte, Nat.add_zero, and_self, or_self, decide_true]

theorem RoundTrip.vld (d : VReg) (a : GReg) (i : BitVec 16) : RoundTrip.Statement (.vld d a i) := by
  intro wf x he
  have h_d := d.isLt
  have h_a := a.isLt
  have h_i := hi_lt i
  have h'_i := lo_lt i
  refine decodeWord_of_fields rfl ?_ ?_ x he
  · constructor <;> simp only [] <;> omega
  · simp only [Fields.decode, zero, gField_val, pField_val, vField_val, mField_val, imm16_hi_lo, bind, Except.bind, pure, Except.pure, if_true, if_false, ne_eq, not_true_eq_false, not_false_eq_true, reduceIte, Nat.add_zero, and_self, or_self, decide_true]

theorem RoundTrip.vst (d : VReg) (a : GReg) (i : BitVec 16) : RoundTrip.Statement (.vst d a i) := by
  intro wf x he
  have h_d := d.isLt
  have h_a := a.isLt
  have h_i := hi_lt i
  have h'_i := lo_lt i
  refine decodeWord_of_fields rfl ?_ ?_ x he
  · constructor <;> simp only [] <;> omega
  · simp only [Fields.decode, zero, gField_val, pField_val, vField_val, mField_val, imm16_hi_lo, bind, Except.bind, pure, Except.pure, if_true, if_false, ne_eq, not_true_eq_false, not_false_eq_true, reduceIte, Nat.add_zero, and_self, or_self, decide_true]

theorem RoundTrip.vldM (d : VReg) (a : GReg) (z : LaneSize) (k : MReg) : RoundTrip.Statement (.vldM d a z k) := by
  intro wf x he
  have h_d := d.isLt
  have h_a := a.isLt
  have h_z := z.code_lt
  have h_k := k.isLt
  have e0 : (z.code * 16 + k.val * 4) / 16 % 4 = z.code := by omega
  have m0 : maskField ((z.code * 16 + k.val * 4) / 4) = k := maskField_of _ _ (by omega)
  have e2 : (z.code * 16 + k.val * 4) / 64 = 0 := by omega
  have e3 : (z.code * 16 + k.val * 4) % 4 = 0 := by omega
  refine decodeWord_of_fields rfl ?_ ?_ x he
  · constructor <;> simp only [] <;> omega
  · simp only [Fields.decode, decodeVmem, zero, gField_val, pField_val, vField_val, mField_val, imm16_hi_lo, bind, Except.bind, pure, Except.pure, e0, m0, e2, e3, LaneSize.ofCode_code, if_true, if_false, ne_eq, not_true_eq_false, not_false_eq_true, reduceIte, Nat.add_zero, and_self, or_self, decide_true]

theorem RoundTrip.vstM (d : VReg) (a : GReg) (z : LaneSize) (k : MReg) : RoundTrip.Statement (.vstM d a z k) := by
  intro wf x he
  have h_d := d.isLt
  have h_a := a.isLt
  have h_z := z.code_lt
  have h_k := k.isLt
  have e0 : (z.code * 16 + k.val * 4 + 1) / 16 % 4 = z.code := by omega
  have m0 : maskField ((z.code * 16 + k.val * 4 + 1) / 4) = k := maskField_of _ _ (by omega)
  have e2 : (z.code * 16 + k.val * 4 + 1) / 64 = 0 := by omega
  have e3 : (z.code * 16 + k.val * 4 + 1) % 4 = 1 := by omega
  refine decodeWord_of_fields rfl ?_ ?_ x he
  · constructor <;> simp only [] <;> omega
  · simp only [Fields.decode, decodeVmem, zero, gField_val, pField_val, vField_val, mField_val, imm16_hi_lo, bind, Except.bind, pure, Except.pure, e0, m0, e2, e3, LaneSize.ofCode_code, if_true, if_false, ne_eq, not_true_eq_false, not_false_eq_true, reduceIte, Nat.add_zero, and_self, or_self, decide_true]

theorem RoundTrip.vlds (d : VReg) (a : GReg) (b : GReg) (z : LaneSize) (k : MReg) : RoundTrip.Statement (.vlds d a b z k) := by
  intro wf x he
  have h_d := d.isLt
  have h_a := a.isLt
  have h_b := b.isLt
  have h_z := z.code_lt
  have h_k := k.isLt
  have e0 : (z.code * 16 + k.val * 4 + 2) / 16 % 4 = z.code := by omega
  have m0 : maskField ((z.code * 16 + k.val * 4 + 2) / 4) = k := maskField_of _ _ (by omega)
  have e2 : (z.code * 16 + k.val * 4 + 2) / 64 = 0 := by omega
  have e3 : (z.code * 16 + k.val * 4 + 2) % 4 = 2 := by omega
  refine decodeWord_of_fields rfl ?_ ?_ x he
  · constructor <;> simp only [] <;> omega
  · simp only [Fields.decode, decodeVmem, zero, gField_val, pField_val, vField_val, mField_val, imm16_hi_lo, bind, Except.bind, pure, Except.pure, e0, m0, e2, e3, LaneSize.ofCode_code, if_true, if_false, ne_eq, not_true_eq_false, not_false_eq_true, reduceIte, Nat.add_zero, and_self, or_self, decide_true]

theorem RoundTrip.vsts (d : VReg) (a : GReg) (b : GReg) (z : LaneSize) (k : MReg) : RoundTrip.Statement (.vsts d a b z k) := by
  intro wf x he
  have h_d := d.isLt
  have h_a := a.isLt
  have h_b := b.isLt
  have h_z := z.code_lt
  have h_k := k.isLt
  have e0 : (z.code * 16 + k.val * 4 + 3) / 16 % 4 = z.code := by omega
  have m0 : maskField ((z.code * 16 + k.val * 4 + 3) / 4) = k := maskField_of _ _ (by omega)
  have e2 : (z.code * 16 + k.val * 4 + 3) / 64 = 0 := by omega
  have e3 : (z.code * 16 + k.val * 4 + 3) % 4 = 3 := by omega
  refine decodeWord_of_fields rfl ?_ ?_ x he
  · constructor <;> simp only [] <;> omega
  · simp only [Fields.decode, decodeVmem, zero, gField_val, pField_val, vField_val, mField_val, imm16_hi_lo, bind, Except.bind, pure, Except.pure, e0, m0, e2, e3, LaneSize.ofCode_code, if_true, if_false, ne_eq, not_true_eq_false, not_false_eq_true, reduceIte, Nat.add_zero, and_self, or_self, decide_true]

theorem RoundTrip.vbcast (d : VReg) (a : GReg) (t : ITy) (k : MReg) : RoundTrip.Statement (.vbcast d a t k) := by
  intro wf x he
  have h_d := d.isLt
  have h_a := a.isLt
  have h_t := t.code_lt
  have h_k := k.isLt
  have e0 : (t.code * 128 + k.val * 32) / 128 = t.code := by omega
  have m0 : maskField ((t.code * 128 + k.val * 32) / 32) = k := maskField_of _ _ (by omega)
  have e2 : (t.code * 128 + k.val * 32) % 32 = 0 := by omega
  refine decodeWord_of_fields rfl ?_ ?_ x he
  · constructor <;> simp only [] <;> omega
  · simp only [Fields.decode, decodeVlane, vec3, vec2, vred, vfred, zero, gField_val, pField_val, vField_val, mField_val, imm16_hi_lo, bind, Except.bind, pure, Except.pure, e0, m0, e2, ITy.ofCode_code, if_true, if_false, ne_eq, not_true_eq_false, not_false_eq_true, reduceIte, Nat.add_zero, and_self, or_self, decide_true]

theorem RoundTrip.vext (d : GReg) (a : VReg) (b : GReg) (t : ITy) : RoundTrip.Statement (.vext d a b t) := by
  intro wf x he
  have h_d := d.isLt
  have h_a := a.isLt
  have h_b := b.isLt
  have h_t := t.code_lt
  have e0 : (t.code * 128 + 1) / 128 = t.code := by omega
  have e1 : (t.code * 128 + 1) / 32 % 4 = 0 := by omega
  have e2 : (t.code * 128 + 1) % 32 = 1 := by omega
  refine decodeWord_of_fields rfl ?_ ?_ x he
  · constructor <;> simp only [] <;> omega
  · simp only [Fields.decode, decodeVlane, vec3, vec2, vred, vfred, zero, gField_val, pField_val, vField_val, mField_val, imm16_hi_lo, bind, Except.bind, pure, Except.pure, e0, e1, e2, ITy.ofCode_code, if_true, if_false, ne_eq, not_true_eq_false, not_false_eq_true, reduceIte, Nat.add_zero, and_self, or_self, decide_true]

theorem RoundTrip.vins (d : VReg) (a : GReg) (b : GReg) (t : ITy) : RoundTrip.Statement (.vins d a b t) := by
  intro wf x he
  have h_d := d.isLt
  have h_a := a.isLt
  have h_b := b.isLt
  have h_t := t.code_lt
  have e0 : (t.code * 128 + 2) / 128 = t.code := by omega
  have e1 : (t.code * 128 + 2) / 32 % 4 = 0 := by omega
  have e2 : (t.code * 128 + 2) % 32 = 2 := by omega
  refine decodeWord_of_fields rfl ?_ ?_ x he
  · constructor <;> simp only [] <;> omega
  · simp only [Fields.decode, decodeVlane, vec3, vec2, vred, vfred, zero, gField_val, pField_val, vField_val, mField_val, imm16_hi_lo, bind, Except.bind, pure, Except.pure, e0, e1, e2, ITy.ofCode_code, if_true, if_false, ne_eq, not_true_eq_false, not_false_eq_true, reduceIte, Nat.add_zero, and_self, or_self, decide_true]

theorem RoundTrip.vperm (d : VReg) (a : VReg) (b : VReg) (t : ITy) (k : MReg) : RoundTrip.Statement (.vperm d a b t k) := by
  intro wf x he
  have h_d := d.isLt
  have h_a := a.isLt
  have h_b := b.isLt
  have h_t := t.code_lt
  have h_k := k.isLt
  have e0 : (t.code * 128 + k.val * 32 + 3) / 128 = t.code := by omega
  have m0 : maskField ((t.code * 128 + k.val * 32 + 3) / 32) = k := maskField_of _ _ (by omega)
  have e2 : (t.code * 128 + k.val * 32 + 3) % 32 = 3 := by omega
  refine decodeWord_of_fields rfl ?_ ?_ x he
  · constructor <;> simp only [] <;> omega
  · simp only [Fields.decode, decodeVlane, vec3, vec2, vred, vfred, zero, gField_val, pField_val, vField_val, mField_val, imm16_hi_lo, bind, Except.bind, pure, Except.pure, e0, m0, e2, ITy.ofCode_code, if_true, if_false, ne_eq, not_true_eq_false, not_false_eq_true, reduceIte, Nat.add_zero, and_self, or_self, decide_true]

theorem RoundTrip.vsel (d : VReg) (a : VReg) (b : VReg) (t : ITy) (k : MReg) : RoundTrip.Statement (.vsel d a b t k) := by
  intro wf x he
  have h_d := d.isLt
  have h_a := a.isLt
  have h_b := b.isLt
  have h_t := t.code_lt
  have h_k := k.isLt
  have e0 : (t.code * 128 + k.val * 32 + 4) / 128 = t.code := by omega
  have m0 : maskField ((t.code * 128 + k.val * 32 + 4) / 32) = k := maskField_of _ _ (by omega)
  have e2 : (t.code * 128 + k.val * 32 + 4) % 32 = 4 := by omega
  refine decodeWord_of_fields rfl ?_ ?_ x he
  · constructor <;> simp only [] <;> omega
  · simp only [Fields.decode, decodeVlane, vec3, vec2, vred, vfred, zero, gField_val, pField_val, vField_val, mField_val, imm16_hi_lo, bind, Except.bind, pure, Except.pure, e0, m0, e2, ITy.ofCode_code, if_true, if_false, ne_eq, not_true_eq_false, not_false_eq_true, reduceIte, Nat.add_zero, and_self, or_self, decide_true]

theorem RoundTrip.vmov (d : VReg) (a : VReg) (t : ITy) (k : MReg) : RoundTrip.Statement (.vmov d a t k) := by
  intro wf x he
  have h_d := d.isLt
  have h_a := a.isLt
  have h_t := t.code_lt
  have h_k := k.isLt
  have e0 : (t.code * 128 + k.val * 32 + 5) / 128 = t.code := by omega
  have m0 : maskField ((t.code * 128 + k.val * 32 + 5) / 32) = k := maskField_of _ _ (by omega)
  have e2 : (t.code * 128 + k.val * 32 + 5) % 32 = 5 := by omega
  refine decodeWord_of_fields rfl ?_ ?_ x he
  · constructor <;> simp only [] <;> omega
  · simp only [Fields.decode, decodeVlane, vec3, vec2, vred, vfred, zero, gField_val, pField_val, vField_val, mField_val, imm16_hi_lo, bind, Except.bind, pure, Except.pure, e0, m0, e2, ITy.ofCode_code, if_true, if_false, ne_eq, not_true_eq_false, not_false_eq_true, reduceIte, Nat.add_zero, and_self, or_self, decide_true]

theorem RoundTrip.vredAdd (d : GReg) (a : VReg) (t : ITy) (k : MReg) : RoundTrip.Statement (.vredAdd d a t k) := by
  intro wf x he
  have h_d := d.isLt
  have h_a := a.isLt
  have h_t := t.code_lt
  have h_k := k.isLt
  have e0 : (t.code * 128 + k.val * 32 + 6) / 128 = t.code := by omega
  have m0 : maskField ((t.code * 128 + k.val * 32 + 6) / 32) = k := maskField_of _ _ (by omega)
  have e2 : (t.code * 128 + k.val * 32 + 6) % 32 = 6 := by omega
  refine decodeWord_of_fields rfl ?_ ?_ x he
  · constructor <;> simp only [] <;> omega
  · simp only [Fields.decode, decodeVlane, vec3, vec2, vred, vfred, zero, gField_val, pField_val, vField_val, mField_val, imm16_hi_lo, bind, Except.bind, pure, Except.pure, e0, m0, e2, ITy.ofCode_code, if_true, if_false, ne_eq, not_true_eq_false, not_false_eq_true, reduceIte, Nat.add_zero, and_self, or_self, decide_true]

theorem RoundTrip.vredMin (d : GReg) (a : VReg) (t : ITy) (k : MReg) : RoundTrip.Statement (.vredMin d a t k) := by
  intro wf x he
  have h_d := d.isLt
  have h_a := a.isLt
  have h_t := t.code_lt
  have h_k := k.isLt
  have e0 : (t.code * 128 + k.val * 32 + 7) / 128 = t.code := by omega
  have m0 : maskField ((t.code * 128 + k.val * 32 + 7) / 32) = k := maskField_of _ _ (by omega)
  have e2 : (t.code * 128 + k.val * 32 + 7) % 32 = 7 := by omega
  refine decodeWord_of_fields rfl ?_ ?_ x he
  · constructor <;> simp only [] <;> omega
  · simp only [Fields.decode, decodeVlane, vec3, vec2, vred, vfred, zero, gField_val, pField_val, vField_val, mField_val, imm16_hi_lo, bind, Except.bind, pure, Except.pure, e0, m0, e2, ITy.ofCode_code, if_true, if_false, ne_eq, not_true_eq_false, not_false_eq_true, reduceIte, Nat.add_zero, and_self, or_self, decide_true]

theorem RoundTrip.vredMax (d : GReg) (a : VReg) (t : ITy) (k : MReg) : RoundTrip.Statement (.vredMax d a t k) := by
  intro wf x he
  have h_d := d.isLt
  have h_a := a.isLt
  have h_t := t.code_lt
  have h_k := k.isLt
  have e0 : (t.code * 128 + k.val * 32 + 8) / 128 = t.code := by omega
  have m0 : maskField ((t.code * 128 + k.val * 32 + 8) / 32) = k := maskField_of _ _ (by omega)
  have e2 : (t.code * 128 + k.val * 32 + 8) % 32 = 8 := by omega
  refine decodeWord_of_fields rfl ?_ ?_ x he
  · constructor <;> simp only [] <;> omega
  · simp only [Fields.decode, decodeVlane, vec3, vec2, vred, vfred, zero, gField_val, pField_val, vField_val, mField_val, imm16_hi_lo, bind, Except.bind, pure, Except.pure, e0, m0, e2, ITy.ofCode_code, if_true, if_false, ne_eq, not_true_eq_false, not_false_eq_true, reduceIte, Nat.add_zero, and_self, or_self, decide_true]

theorem RoundTrip.vredMinu (d : GReg) (a : VReg) (t : ITy) (k : MReg) : RoundTrip.Statement (.vredMinu d a t k) := by
  intro wf x he
  have h_d := d.isLt
  have h_a := a.isLt
  have h_t := t.code_lt
  have h_k := k.isLt
  have e0 : (t.code * 128 + k.val * 32 + 9) / 128 = t.code := by omega
  have m0 : maskField ((t.code * 128 + k.val * 32 + 9) / 32) = k := maskField_of _ _ (by omega)
  have e2 : (t.code * 128 + k.val * 32 + 9) % 32 = 9 := by omega
  refine decodeWord_of_fields rfl ?_ ?_ x he
  · constructor <;> simp only [] <;> omega
  · simp only [Fields.decode, decodeVlane, vec3, vec2, vred, vfred, zero, gField_val, pField_val, vField_val, mField_val, imm16_hi_lo, bind, Except.bind, pure, Except.pure, e0, m0, e2, ITy.ofCode_code, if_true, if_false, ne_eq, not_true_eq_false, not_false_eq_true, reduceIte, Nat.add_zero, and_self, or_self, decide_true]

theorem RoundTrip.vredMaxu (d : GReg) (a : VReg) (t : ITy) (k : MReg) : RoundTrip.Statement (.vredMaxu d a t k) := by
  intro wf x he
  have h_d := d.isLt
  have h_a := a.isLt
  have h_t := t.code_lt
  have h_k := k.isLt
  have e0 : (t.code * 128 + k.val * 32 + 10) / 128 = t.code := by omega
  have m0 : maskField ((t.code * 128 + k.val * 32 + 10) / 32) = k := maskField_of _ _ (by omega)
  have e2 : (t.code * 128 + k.val * 32 + 10) % 32 = 10 := by omega
  refine decodeWord_of_fields rfl ?_ ?_ x he
  · constructor <;> simp only [] <;> omega
  · simp only [Fields.decode, decodeVlane, vec3, vec2, vred, vfred, zero, gField_val, pField_val, vField_val, mField_val, imm16_hi_lo, bind, Except.bind, pure, Except.pure, e0, m0, e2, ITy.ofCode_code, if_true, if_false, ne_eq, not_true_eq_false, not_false_eq_true, reduceIte, Nat.add_zero, and_self, or_self, decide_true]

theorem RoundTrip.vfredAdd (d : GReg) (a : VReg) (t : FTy) (k : MReg) : RoundTrip.Statement (.vfredAdd d a t k) := by
  intro wf x he
  have h_d := d.isLt
  have h_a := a.isLt
  have h_t := t.code_lt
  have h_k := k.isLt
  have e0 : (t.code * 128 + k.val * 32 + 11) / 128 = t.code := by omega
  have m0 : maskField ((t.code * 128 + k.val * 32 + 11) / 32) = k := maskField_of _ _ (by omega)
  have e2 : (t.code * 128 + k.val * 32 + 11) % 32 = 11 := by omega
  refine decodeWord_of_fields rfl ?_ ?_ x he
  · constructor <;> simp only [] <;> omega
  · simp only [Fields.decode, decodeVlane, vec3, vec2, vred, vfred, zero, gField_val, pField_val, vField_val, mField_val, imm16_hi_lo, bind, Except.bind, pure, Except.pure, e0, m0, e2, FTy.ofCode_code, if_true, if_false, ne_eq, not_true_eq_false, not_false_eq_true, reduceIte, Nat.add_zero, and_self, or_self, decide_true]

theorem RoundTrip.vfredMin (d : GReg) (a : VReg) (t : FTy) (k : MReg) : RoundTrip.Statement (.vfredMin d a t k) := by
  intro wf x he
  have h_d := d.isLt
  have h_a := a.isLt
  have h_t := t.code_lt
  have h_k := k.isLt
  have e0 : (t.code * 128 + k.val * 32 + 12) / 128 = t.code := by omega
  have m0 : maskField ((t.code * 128 + k.val * 32 + 12) / 32) = k := maskField_of _ _ (by omega)
  have e2 : (t.code * 128 + k.val * 32 + 12) % 32 = 12 := by omega
  refine decodeWord_of_fields rfl ?_ ?_ x he
  · constructor <;> simp only [] <;> omega
  · simp only [Fields.decode, decodeVlane, vec3, vec2, vred, vfred, zero, gField_val, pField_val, vField_val, mField_val, imm16_hi_lo, bind, Except.bind, pure, Except.pure, e0, m0, e2, FTy.ofCode_code, if_true, if_false, ne_eq, not_true_eq_false, not_false_eq_true, reduceIte, Nat.add_zero, and_self, or_self, decide_true]

theorem RoundTrip.vfredMax (d : GReg) (a : VReg) (t : FTy) (k : MReg) : RoundTrip.Statement (.vfredMax d a t k) := by
  intro wf x he
  have h_d := d.isLt
  have h_a := a.isLt
  have h_t := t.code_lt
  have h_k := k.isLt
  have e0 : (t.code * 128 + k.val * 32 + 13) / 128 = t.code := by omega
  have m0 : maskField ((t.code * 128 + k.val * 32 + 13) / 32) = k := maskField_of _ _ (by omega)
  have e2 : (t.code * 128 + k.val * 32 + 13) % 32 = 13 := by omega
  refine decodeWord_of_fields rfl ?_ ?_ x he
  · constructor <;> simp only [] <;> omega
  · simp only [Fields.decode, decodeVlane, vec3, vec2, vred, vfred, zero, gField_val, pField_val, vField_val, mField_val, imm16_hi_lo, bind, Except.bind, pure, Except.pure, e0, m0, e2, FTy.ofCode_code, if_true, if_false, ne_eq, not_true_eq_false, not_false_eq_true, reduceIte, Nat.add_zero, and_self, or_self, decide_true]

theorem RoundTrip.mand (d : MReg) (a : MReg) (b : MReg) : RoundTrip.Statement (.mand d a b) := by
  intro wf x he
  have h_d := d.isLt
  have h_a := a.isLt
  have h_b := b.isLt
  have q := mDest_val d (by simpa [Instr.wf] using wf)
  refine decodeWord_of_fields rfl ?_ ?_ x he
  · constructor <;> simp only [] <;> omega
  · simp only [Fields.decode, decodeMask, zero, gField_val, pField_val, vField_val, mField_val, imm16_hi_lo, bind, Except.bind, pure, Except.pure, q, if_true, if_false, ne_eq, not_true_eq_false, not_false_eq_true, reduceIte, Nat.add_zero, and_self, or_self, decide_true]

theorem RoundTrip.mor (d : MReg) (a : MReg) (b : MReg) : RoundTrip.Statement (.mor d a b) := by
  intro wf x he
  have h_d := d.isLt
  have h_a := a.isLt
  have h_b := b.isLt
  have q := mDest_val d (by simpa [Instr.wf] using wf)
  refine decodeWord_of_fields rfl ?_ ?_ x he
  · constructor <;> simp only [] <;> omega
  · simp only [Fields.decode, decodeMask, zero, gField_val, pField_val, vField_val, mField_val, imm16_hi_lo, bind, Except.bind, pure, Except.pure, q, if_true, if_false, ne_eq, not_true_eq_false, not_false_eq_true, reduceIte, Nat.add_zero, and_self, or_self, decide_true]

theorem RoundTrip.mxor (d : MReg) (a : MReg) (b : MReg) : RoundTrip.Statement (.mxor d a b) := by
  intro wf x he
  have h_d := d.isLt
  have h_a := a.isLt
  have h_b := b.isLt
  have q := mDest_val d (by simpa [Instr.wf] using wf)
  refine decodeWord_of_fields rfl ?_ ?_ x he
  · constructor <;> simp only [] <;> omega
  · simp only [Fields.decode, decodeMask, zero, gField_val, pField_val, vField_val, mField_val, imm16_hi_lo, bind, Except.bind, pure, Except.pure, q, if_true, if_false, ne_eq, not_true_eq_false, not_false_eq_true, reduceIte, Nat.add_zero, and_self, or_self, decide_true]

theorem RoundTrip.mnot (d : MReg) (a : MReg) : RoundTrip.Statement (.mnot d a) := by
  intro wf x he
  have h_d := d.isLt
  have h_a := a.isLt
  have q := mDest_val d (by simpa [Instr.wf] using wf)
  refine decodeWord_of_fields rfl ?_ ?_ x he
  · constructor <;> simp only [] <;> omega
  · simp only [Fields.decode, decodeMask, zero, gField_val, pField_val, vField_val, mField_val, imm16_hi_lo, bind, Except.bind, pure, Except.pure, q, if_true, if_false, ne_eq, not_true_eq_false, not_false_eq_true, reduceIte, Nat.add_zero, and_self, or_self, decide_true]

theorem RoundTrip.mmov (d : MReg) (a : MReg) : RoundTrip.Statement (.mmov d a) := by
  intro wf x he
  have h_d := d.isLt
  have h_a := a.isLt
  have q := mDest_val d (by simpa [Instr.wf] using wf)
  refine decodeWord_of_fields rfl ?_ ?_ x he
  · constructor <;> simp only [] <;> omega
  · simp only [Fields.decode, decodeMask, zero, gField_val, pField_val, vField_val, mField_val, imm16_hi_lo, bind, Except.bind, pure, Except.pure, q, if_true, if_false, ne_eq, not_true_eq_false, not_false_eq_true, reduceIte, Nat.add_zero, and_self, or_self, decide_true]

theorem RoundTrip.mfromg (d : MReg) (a : GReg) : RoundTrip.Statement (.mfromg d a) := by
  intro wf x he
  have h_d := d.isLt
  have h_a := a.isLt
  have q := mDest_val d (by simpa [Instr.wf] using wf)
  refine decodeWord_of_fields rfl ?_ ?_ x he
  · constructor <;> simp only [] <;> omega
  · simp only [Fields.decode, decodeMask, zero, gField_val, pField_val, vField_val, mField_val, imm16_hi_lo, bind, Except.bind, pure, Except.pure, q, if_true, if_false, ne_eq, not_true_eq_false, not_false_eq_true, reduceIte, Nat.add_zero, and_self, or_self, decide_true]

theorem RoundTrip.mtog (d : GReg) (a : MReg) : RoundTrip.Statement (.mtog d a) := by
  intro wf x he
  have h_d := d.isLt
  have h_a := a.isLt
  refine decodeWord_of_fields rfl ?_ ?_ x he
  · constructor <;> simp only [] <;> omega
  · simp only [Fields.decode, decodeMask, zero, gField_val, pField_val, vField_val, mField_val, imm16_hi_lo, bind, Except.bind, pure, Except.pure, if_true, if_false, ne_eq, not_true_eq_false, not_false_eq_true, reduceIte, Nat.add_zero, and_self, or_self, decide_true]

theorem RoundTrip.mpop (d : GReg) (a : MReg) : RoundTrip.Statement (.mpop d a) := by
  intro wf x he
  have h_d := d.isLt
  have h_a := a.isLt
  refine decodeWord_of_fields rfl ?_ ?_ x he
  · constructor <;> simp only [] <;> omega
  · simp only [Fields.decode, decodeMask, zero, gField_val, pField_val, vField_val, mField_val, imm16_hi_lo, bind, Except.bind, pure, Except.pure, if_true, if_false, ne_eq, not_true_eq_false, not_false_eq_true, reduceIte, Nat.add_zero, and_self, or_self, decide_true]

theorem RoundTrip.mxCfg (a : GReg) (b : GReg) : RoundTrip.Statement (.mxCfg a b) := by
  intro wf x he
  have h_a := a.isLt
  have h_b := b.isLt
  refine decodeWord_of_fields rfl ?_ ?_ x he
  · constructor <;> simp only [] <;> omega
  · simp only [Fields.decode, decodeMx, job, zero, gField_val, pField_val, vField_val, mField_val, imm16_hi_lo, bind, Except.bind, pure, Except.pure, if_true, if_false, ne_eq, not_true_eq_false, not_false_eq_true, reduceIte, Nat.add_zero, and_self, or_self, decide_true]

theorem RoundTrip.mxGet (d : GReg) (a : GReg) : RoundTrip.Statement (.mxGet d a) := by
  intro wf x he
  have h_d := d.isLt
  have h_a := a.isLt
  refine decodeWord_of_fields rfl ?_ ?_ x he
  · constructor <;> simp only [] <;> omega
  · simp only [Fields.decode, decodeMx, job, zero, gField_val, pField_val, vField_val, mField_val, imm16_hi_lo, bind, Except.bind, pure, Except.pure, if_true, if_false, ne_eq, not_true_eq_false, not_false_eq_true, reduceIte, Nat.add_zero, and_self, or_self, decide_true]

theorem RoundTrip.mxMma (d : GReg) (a : GReg) (b : GReg) (f : JobFlags) : RoundTrip.Statement (.mxMma d a b f) := by
  intro wf x he
  have h_d := d.isLt
  have h_a := a.isLt
  have h_b := b.isLt
  have h_f := f.code_lt
  have e0 : (f.code * 32 + 2) % 32 = 2 := by omega
  have e1 : (f.code * 32 + 2) / 32 = f.code := by omega
  refine decodeWord_of_fields rfl ?_ ?_ x he
  · constructor <;> simp only [] <;> omega
  · simp only [Fields.decode, decodeMx, job, zero, gField_val, pField_val, vField_val, mField_val, imm16_hi_lo, bind, Except.bind, pure, Except.pure, e0, e1, JobFlags.ofCode_code f wf, if_true, if_false, ne_eq, not_true_eq_false, not_false_eq_true, reduceIte, Nat.add_zero, and_self, or_self, decide_true]

theorem RoundTrip.mxMmb (d : GReg) (a : GReg) (b : GReg) (f : JobFlags) : RoundTrip.Statement (.mxMmb d a b f) := by
  intro wf x he
  have h_d := d.isLt
  have h_a := a.isLt
  have h_b := b.isLt
  have h_f := f.code_lt
  have e0 : (f.code * 32 + 3) % 32 = 3 := by omega
  have e1 : (f.code * 32 + 3) / 32 = f.code := by omega
  refine decodeWord_of_fields rfl ?_ ?_ x he
  · constructor <;> simp only [] <;> omega
  · simp only [Fields.decode, decodeMx, job, zero, gField_val, pField_val, vField_val, mField_val, imm16_hi_lo, bind, Except.bind, pure, Except.pure, e0, e1, JobFlags.ofCode_code f wf, if_true, if_false, ne_eq, not_true_eq_false, not_false_eq_true, reduceIte, Nat.add_zero, and_self, or_self, decide_true]

theorem RoundTrip.mxDist (d : GReg) (a : GReg) (b : GReg) (f : JobFlags) : RoundTrip.Statement (.mxDist d a b f) := by
  intro wf x he
  have h_d := d.isLt
  have h_a := a.isLt
  have h_b := b.isLt
  have h_f := f.code_lt
  have e0 : (f.code * 32 + 4) % 32 = 4 := by omega
  have e1 : (f.code * 32 + 4) / 32 = f.code := by omega
  refine decodeWord_of_fields rfl ?_ ?_ x he
  · constructor <;> simp only [] <;> omega
  · simp only [Fields.decode, decodeMx, job, zero, gField_val, pField_val, vField_val, mField_val, imm16_hi_lo, bind, Except.bind, pure, Except.pure, e0, e1, JobFlags.ofCode_code f wf, if_true, if_false, ne_eq, not_true_eq_false, not_false_eq_true, reduceIte, Nat.add_zero, and_self, or_self, decide_true]

theorem RoundTrip.mxTopk (d : GReg) (a : GReg) (b : GReg) (f : JobFlags) : RoundTrip.Statement (.mxTopk d a b f) := by
  intro wf x he
  have h_d := d.isLt
  have h_a := a.isLt
  have h_b := b.isLt
  have h_f := f.code_lt
  have e0 : (f.code * 32 + 5) % 32 = 5 := by omega
  have e1 : (f.code * 32 + 5) / 32 = f.code := by omega
  refine decodeWord_of_fields rfl ?_ ?_ x he
  · constructor <;> simp only [] <;> omega
  · simp only [Fields.decode, decodeMx, job, zero, gField_val, pField_val, vField_val, mField_val, imm16_hi_lo, bind, Except.bind, pure, Except.pure, e0, e1, JobFlags.ofCode_code f wf, if_true, if_false, ne_eq, not_true_eq_false, not_false_eq_true, reduceIte, Nat.add_zero, and_self, or_self, decide_true]

theorem RoundTrip.mxZero (d : GReg) (a : GReg) (b : GReg) (f : JobFlags) : RoundTrip.Statement (.mxZero d a b f) := by
  intro wf x he
  have h_d := d.isLt
  have h_a := a.isLt
  have h_b := b.isLt
  have h_f := f.code_lt
  have e0 : (f.code * 32 + 6) % 32 = 6 := by omega
  have e1 : (f.code * 32 + 6) / 32 = f.code := by omega
  refine decodeWord_of_fields rfl ?_ ?_ x he
  · constructor <;> simp only [] <;> omega
  · simp only [Fields.decode, decodeMx, job, zero, gField_val, pField_val, vField_val, mField_val, imm16_hi_lo, bind, Except.bind, pure, Except.pure, e0, e1, JobFlags.ofCode_code f wf, if_true, if_false, ne_eq, not_true_eq_false, not_false_eq_true, reduceIte, Nat.add_zero, and_self, or_self, decide_true]

theorem RoundTrip.mxLd (d : GReg) (a : GReg) (b : GReg) (f : JobFlags) : RoundTrip.Statement (.mxLd d a b f) := by
  intro wf x he
  have h_d := d.isLt
  have h_a := a.isLt
  have h_b := b.isLt
  have h_f := f.code_lt
  have e0 : (f.code * 32 + 7) % 32 = 7 := by omega
  have e1 : (f.code * 32 + 7) / 32 = f.code := by omega
  refine decodeWord_of_fields rfl ?_ ?_ x he
  · constructor <;> simp only [] <;> omega
  · simp only [Fields.decode, decodeMx, job, zero, gField_val, pField_val, vField_val, mField_val, imm16_hi_lo, bind, Except.bind, pure, Except.pure, e0, e1, JobFlags.ofCode_code f wf, if_true, if_false, ne_eq, not_true_eq_false, not_false_eq_true, reduceIte, Nat.add_zero, and_self, or_self, decide_true]

theorem RoundTrip.mxSt (d : GReg) (a : GReg) (b : GReg) (f : JobFlags) : RoundTrip.Statement (.mxSt d a b f) := by
  intro wf x he
  have h_d := d.isLt
  have h_a := a.isLt
  have h_b := b.isLt
  have h_f := f.code_lt
  have e0 : (f.code * 32 + 8) % 32 = 8 := by omega
  have e1 : (f.code * 32 + 8) / 32 = f.code := by omega
  refine decodeWord_of_fields rfl ?_ ?_ x he
  · constructor <;> simp only [] <;> omega
  · simp only [Fields.decode, decodeMx, job, zero, gField_val, pField_val, vField_val, mField_val, imm16_hi_lo, bind, Except.bind, pure, Except.pure, e0, e1, JobFlags.ofCode_code f wf, if_true, if_false, ne_eq, not_true_eq_false, not_false_eq_true, reduceIte, Nat.add_zero, and_self, or_self, decide_true]

theorem RoundTrip.cpCfg (a : GReg) (b : GReg) : RoundTrip.Statement (.cpCfg a b) := by
  intro wf x he
  have h_a := a.isLt
  have h_b := b.isLt
  refine decodeWord_of_fields rfl ?_ ?_ x he
  · constructor <;> simp only [] <;> omega
  · simp only [Fields.decode, decodeCp, job, zero, gField_val, pField_val, vField_val, mField_val, imm16_hi_lo, bind, Except.bind, pure, Except.pure, if_true, if_false, ne_eq, not_true_eq_false, not_false_eq_true, reduceIte, Nat.add_zero, and_self, or_self, decide_true]

theorem RoundTrip.cpCopy (d : GReg) (a : GReg) (b : GReg) (f : JobFlags) : RoundTrip.Statement (.cpCopy d a b f) := by
  intro wf x he
  have h_d := d.isLt
  have h_a := a.isLt
  have h_b := b.isLt
  have h_f := f.code_lt
  have e0 : (f.code * 32 + 1) % 32 = 1 := by omega
  have e1 : (f.code * 32 + 1) / 32 = f.code := by omega
  refine decodeWord_of_fields rfl ?_ ?_ x he
  · constructor <;> simp only [] <;> omega
  · simp only [Fields.decode, decodeCp, job, zero, gField_val, pField_val, vField_val, mField_val, imm16_hi_lo, bind, Except.bind, pure, Except.pure, e0, e1, JobFlags.ofCode_code f wf, if_true, if_false, ne_eq, not_true_eq_false, not_false_eq_true, reduceIte, Nat.add_zero, and_self, or_self, decide_true]

theorem RoundTrip.cpStream (d : GReg) (a : GReg) (b : GReg) (f : JobFlags) : RoundTrip.Statement (.cpStream d a b f) := by
  intro wf x he
  have h_d := d.isLt
  have h_a := a.isLt
  have h_b := b.isLt
  have h_f := f.code_lt
  have e0 : (f.code * 32 + 2) % 32 = 2 := by omega
  have e1 : (f.code * 32 + 2) / 32 = f.code := by omega
  refine decodeWord_of_fields rfl ?_ ?_ x he
  · constructor <;> simp only [] <;> omega
  · simp only [Fields.decode, decodeCp, job, zero, gField_val, pField_val, vField_val, mField_val, imm16_hi_lo, bind, Except.bind, pure, Except.pure, e0, e1, JobFlags.ofCode_code f wf, if_true, if_false, ne_eq, not_true_eq_false, not_false_eq_true, reduceIte, Nat.add_zero, and_self, or_self, decide_true]

theorem RoundTrip.cpCancel (a : GReg) : RoundTrip.Statement (.cpCancel a) := by
  intro wf x he
  have h_a := a.isLt
  refine decodeWord_of_fields rfl ?_ ?_ x he
  · constructor <;> simp only [] <;> omega
  · simp only [Fields.decode, decodeCp, job, zero, gField_val, pField_val, vField_val, mField_val, imm16_hi_lo, bind, Except.bind, pure, Except.pure, if_true, if_false, ne_eq, not_true_eq_false, not_false_eq_true, reduceIte, Nat.add_zero, and_self, or_self, decide_true]

theorem RoundTrip.cpStat (d : GReg) (a : GReg) : RoundTrip.Statement (.cpStat d a) := by
  intro wf x he
  have h_d := d.isLt
  have h_a := a.isLt
  refine decodeWord_of_fields rfl ?_ ?_ x he
  · constructor <;> simp only [] <;> omega
  · simp only [Fields.decode, decodeCp, job, zero, gField_val, pField_val, vField_val, mField_val, imm16_hi_lo, bind, Except.bind, pure, Except.pure, if_true, if_false, ne_eq, not_true_eq_false, not_false_eq_true, reduceIte, Nat.add_zero, and_self, or_self, decide_true]

theorem RoundTrip.evNew (d : GReg) (a : GReg) (b : GReg) : RoundTrip.Statement (.evNew d a b) := by
  intro wf x he
  have h_d := d.isLt
  have h_a := a.isLt
  have h_b := b.isLt
  refine decodeWord_of_fields rfl ?_ ?_ x he
  · constructor <;> simp only [] <;> omega
  · simp only [Fields.decode, decodeEvent, zero, gField_val, pField_val, vField_val, mField_val, imm16_hi_lo, bind, Except.bind, pure, Except.pure, if_true, if_false, ne_eq, not_true_eq_false, not_false_eq_true, reduceIte, Nat.add_zero, and_self, or_self, decide_true]

theorem RoundTrip.evFree (a : GReg) : RoundTrip.Statement (.evFree a) := by
  intro wf x he
  have h_a := a.isLt
  refine decodeWord_of_fields rfl ?_ ?_ x he
  · constructor <;> simp only [] <;> omega
  · simp only [Fields.decode, decodeEvent, zero, gField_val, pField_val, vField_val, mField_val, imm16_hi_lo, bind, Except.bind, pure, Except.pure, if_true, if_false, ne_eq, not_true_eq_false, not_false_eq_true, reduceIte, Nat.add_zero, and_self, or_self, decide_true]

theorem RoundTrip.offer (d : GReg) (a : GReg) : RoundTrip.Statement (.offer d a) := by
  intro wf x he
  have h_d := d.isLt
  have h_a := a.isLt
  refine decodeWord_of_fields rfl ?_ ?_ x he
  · constructor <;> simp only [] <;> omega
  · simp only [Fields.decode, decodeEvent, zero, gField_val, pField_val, vField_val, mField_val, imm16_hi_lo, bind, Except.bind, pure, Except.pure, if_true, if_false, ne_eq, not_true_eq_false, not_false_eq_true, reduceIte, Nat.add_zero, and_self, or_self, decide_true]

theorem RoundTrip.offer1 (d : GReg) (a : GReg) : RoundTrip.Statement (.offer1 d a) := by
  intro wf x he
  have h_d := d.isLt
  have h_a := a.isLt
  refine decodeWord_of_fields rfl ?_ ?_ x he
  · constructor <;> simp only [] <;> omega
  · simp only [Fields.decode, decodeEvent, zero, gField_val, pField_val, vField_val, mField_val, imm16_hi_lo, bind, Except.bind, pure, Except.pure, if_true, if_false, ne_eq, not_true_eq_false, not_false_eq_true, reduceIte, Nat.add_zero, and_self, or_self, decide_true]

theorem RoundTrip.offerT (d : GReg) (a : GReg) (b : GReg) : RoundTrip.Statement (.offerT d a b) := by
  intro wf x he
  have h_d := d.isLt
  have h_a := a.isLt
  have h_b := b.isLt
  refine decodeWord_of_fields rfl ?_ ?_ x he
  · constructor <;> simp only [] <;> omega
  · simp only [Fields.decode, decodeEvent, zero, gField_val, pField_val, vField_val, mField_val, imm16_hi_lo, bind, Except.bind, pure, Except.pure, if_true, if_false, ne_eq, not_true_eq_false, not_false_eq_true, reduceIte, Nat.add_zero, and_self, or_self, decide_true]

theorem RoundTrip.vtSet (a : GReg) : RoundTrip.Statement (.vtSet a) := by
  intro wf x he
  have h_a := a.isLt
  refine decodeWord_of_fields rfl ?_ ?_ x he
  · constructor <;> simp only [] <;> omega
  · simp only [Fields.decode, decodeEvent, zero, gField_val, pField_val, vField_val, mField_val, imm16_hi_lo, bind, Except.bind, pure, Except.pure, if_true, if_false, ne_eq, not_true_eq_false, not_false_eq_true, reduceIte, Nat.add_zero, and_self, or_self, decide_true]

theorem RoundTrip.vtGet (d : GReg) : RoundTrip.Statement (.vtGet d) := by
  intro wf x he
  have h_d := d.isLt
  refine decodeWord_of_fields rfl ?_ ?_ x he
  · constructor <;> simp only [] <;> omega
  · simp only [Fields.decode, decodeEvent, zero, gField_val, pField_val, vField_val, mField_val, imm16_hi_lo, bind, Except.bind, pure, Except.pure, if_true, if_false, ne_eq, not_true_eq_false, not_false_eq_true, reduceIte, Nat.add_zero, and_self, or_self, decide_true]

theorem RoundTrip.gvt (d : GReg) : RoundTrip.Statement (.gvt d) := by
  intro wf x he
  have h_d := d.isLt
  refine decodeWord_of_fields rfl ?_ ?_ x he
  · constructor <;> simp only [] <;> omega
  · simp only [Fields.decode, decodeEvent, zero, gField_val, pField_val, vField_val, mField_val, imm16_hi_lo, bind, Except.bind, pure, Except.pure, if_true, if_false, ne_eq, not_true_eq_false, not_false_eq_true, reduceIte, Nat.add_zero, and_self, or_self, decide_true]

theorem RoundTrip.settle : RoundTrip.Statement (.settle) := by
  intro wf x he
  refine decodeWord_of_fields rfl ?_ ?_ x he
  · constructor <;> simp only [] <;> omega
  · simp only [Fields.decode, decodeEvent, zero, gField_val, pField_val, vField_val, mField_val, imm16_hi_lo, bind, Except.bind, pure, Except.pure, if_true, if_false, ne_eq, not_true_eq_false, not_false_eq_true, reduceIte, Nat.add_zero, and_self, or_self, decide_true]

theorem RoundTrip.wrap : RoundTrip.Statement (.wrap) := by
  intro wf x he
  refine decodeWord_of_fields rfl ?_ ?_ x he
  · constructor <;> simp only [] <;> omega
  · simp only [Fields.decode, decodeEvent, zero, gField_val, pField_val, vField_val, mField_val, imm16_hi_lo, bind, Except.bind, pure, Except.pure, if_true, if_false, ne_eq, not_true_eq_false, not_false_eq_true, reduceIte, Nat.add_zero, and_self, or_self, decide_true]

theorem RoundTrip.wrapDone (a : GReg) : RoundTrip.Statement (.wrapDone a) := by
  intro wf x he
  have h_a := a.isLt
  refine decodeWord_of_fields rfl ?_ ?_ x he
  · constructor <;> simp only [] <;> omega
  · simp only [Fields.decode, decodeEvent, zero, gField_val, pField_val, vField_val, mField_val, imm16_hi_lo, bind, Except.bind, pure, Except.pure, if_true, if_false, ne_eq, not_true_eq_false, not_false_eq_true, reduceIte, Nat.add_zero, and_self, or_self, decide_true]

theorem RoundTrip.spawn (d : GReg) (a : GReg) (b : GReg) : RoundTrip.Statement (.spawn d a b) := by
  intro wf x he
  have h_d := d.isLt
  have h_a := a.isLt
  have h_b := b.isLt
  refine decodeWord_of_fields rfl ?_ ?_ x he
  · constructor <;> simp only [] <;> omega
  · simp only [Fields.decode, decodeThread, zero, gField_val, pField_val, vField_val, mField_val, imm16_hi_lo, bind, Except.bind, pure, Except.pure, if_true, if_false, ne_eq, not_true_eq_false, not_false_eq_true, reduceIte, Nat.add_zero, and_self, or_self, decide_true]

theorem RoundTrip.mig (a : GReg) (s : MigSize) : RoundTrip.Statement (.mig a s) := by
  intro wf x he
  have h_a := a.isLt
  have h_s := s.code_lt
  have e0 : (s.code * 32 + 1) % 32 = 1 := by omega
  have e1 : (s.code * 32 + 1) / 32 = s.code := by omega
  have e2 : (s.code * 32 + 1) / 128 = 0 := by omega
  refine decodeWord_of_fields rfl ?_ ?_ x he
  · constructor <;> simp only [] <;> omega
  · simp only [Fields.decode, decodeThread, zero, gField_val, pField_val, vField_val, mField_val, imm16_hi_lo, bind, Except.bind, pure, Except.pure, e0, e1, e2, MigSize.ofCode_code, if_true, if_false, ne_eq, not_true_eq_false, not_false_eq_true, reduceIte, Nat.add_zero, and_self, or_self, decide_true]

theorem RoundTrip.msg (d : GReg) (a : GReg) (b : GReg) : RoundTrip.Statement (.msg d a b) := by
  intro wf x he
  have h_d := d.isLt
  have h_a := a.isLt
  have h_b := b.isLt
  refine decodeWord_of_fields rfl ?_ ?_ x he
  · constructor <;> simp only [] <;> omega
  · simp only [Fields.decode, decodeThread, zero, gField_val, pField_val, vField_val, mField_val, imm16_hi_lo, bind, Except.bind, pure, Except.pure, if_true, if_false, ne_eq, not_true_eq_false, not_false_eq_true, reduceIte, Nat.add_zero, and_self, or_self, decide_true]

theorem RoundTrip.reply (a : GReg) : RoundTrip.Statement (.reply a) := by
  intro wf x he
  have h_a := a.isLt
  refine decodeWord_of_fields rfl ?_ ?_ x he
  · constructor <;> simp only [] <;> omega
  · simp only [Fields.decode, decodeThread, zero, gField_val, pField_val, vField_val, mField_val, imm16_hi_lo, bind, Except.bind, pure, Except.pure, if_true, if_false, ne_eq, not_true_eq_false, not_false_eq_true, reduceIte, Nat.add_zero, and_self, or_self, decide_true]

theorem RoundTrip.yield : RoundTrip.Statement (.yield) := by
  intro wf x he
  refine decodeWord_of_fields rfl ?_ ?_ x he
  · constructor <;> simp only [] <;> omega
  · simp only [Fields.decode, decodeThread, zero, gField_val, pField_val, vField_val, mField_val, imm16_hi_lo, bind, Except.bind, pure, Except.pure, if_true, if_false, ne_eq, not_true_eq_false, not_false_eq_true, reduceIte, Nat.add_zero, and_self, or_self, decide_true]

theorem RoundTrip.halt : RoundTrip.Statement (.halt) := by
  intro wf x he
  refine decodeWord_of_fields rfl ?_ ?_ x he
  · constructor <;> simp only [] <;> omega
  · simp only [Fields.decode, decodeThread, zero, gField_val, pField_val, vField_val, mField_val, imm16_hi_lo, bind, Except.bind, pure, Except.pure, if_true, if_false, ne_eq, not_true_eq_false, not_false_eq_true, reduceIte, Nat.add_zero, and_self, or_self, decide_true]

theorem RoundTrip.now (d : GReg) : RoundTrip.Statement (.now d) := by
  intro wf x he
  have h_d := d.isLt
  refine decodeWord_of_fields rfl ?_ ?_ x he
  · constructor <;> simp only [] <;> omega
  · simp only [Fields.decode, decodeThread, zero, gField_val, pField_val, vField_val, mField_val, imm16_hi_lo, bind, Except.bind, pure, Except.pure, if_true, if_false, ne_eq, not_true_eq_false, not_false_eq_true, reduceIte, Nat.add_zero, and_self, or_self, decide_true]

theorem RoundTrip.cyc (d : GReg) : RoundTrip.Statement (.cyc d) := by
  intro wf x he
  have h_d := d.isLt
  refine decodeWord_of_fields rfl ?_ ?_ x he
  · constructor <;> simp only [] <;> omega
  · simp only [Fields.decode, decodeThread, zero, gField_val, pField_val, vField_val, mField_val, imm16_hi_lo, bind, Except.bind, pure, Except.pure, if_true, if_false, ne_eq, not_true_eq_false, not_false_eq_true, reduceIte, Nat.add_zero, and_self, or_self, decide_true]

theorem RoundTrip.rsync : RoundTrip.Statement (.rsync) := by
  intro wf x he
  refine decodeWord_of_fields rfl ?_ ?_ x he
  · constructor <;> simp only [] <;> omega
  · simp only [Fields.decode, decodeThread, zero, gField_val, pField_val, vField_val, mField_val, imm16_hi_lo, bind, Except.bind, pure, Except.pure, if_true, if_false, ne_eq, not_true_eq_false, not_false_eq_true, reduceIte, Nat.add_zero, and_self, or_self, decide_true]

theorem RoundTrip.brk (c : BitVec 6) : RoundTrip.Statement (.brk c) := by
  intro wf x he
  have h_c := c.isLt
  have e0 : (c.toNat * 32 + 9) % 32 = 9 := by omega
  have e1 : (c.toNat * 32 + 9) / 32 = c.toNat := by omega
  refine decodeWord_of_fields rfl ?_ ?_ x he
  · constructor <;> simp only [] <;> omega
  · simp only [Fields.decode, decodeThread, zero, gField_val, pField_val, vField_val, mField_val, imm16_hi_lo, bind, Except.bind, pure, Except.pure, e0, e1, ofNat_toNat_of 6 c.toNat c rfl, if_true, if_false, ne_eq, not_true_eq_false, not_false_eq_true, reduceIte, Nat.add_zero, and_self, or_self, decide_true]

theorem RoundTrip.trap (c : BitVec 6) : RoundTrip.Statement (.trap c) := by
  intro wf x he
  have h_c := c.isLt
  have e0 : (c.toNat * 32 + 10) % 32 = 10 := by omega
  have e1 : (c.toNat * 32 + 10) / 32 = c.toNat := by omega
  refine decodeWord_of_fields rfl ?_ ?_ x he
  · constructor <;> simp only [] <;> omega
  · simp only [Fields.decode, decodeThread, zero, gField_val, pField_val, vField_val, mField_val, imm16_hi_lo, bind, Except.bind, pure, Except.pure, e0, e1, ofNat_toNat_of 6 c.toNat c rfl, if_true, if_false, ne_eq, not_true_eq_false, not_false_eq_true, reduceIte, Nat.add_zero, and_self, or_self, decide_true]

theorem RoundTrip.crr (d : GReg) (c : BitVec 10) : RoundTrip.Statement (.crr d c) := by
  intro wf x he
  have h_d := d.isLt
  have h_c := c.isLt
  have e0 : (c.toNat % 32 * 64) % 64 = 0 := by omega
  have c0 : creg (c.toNat / 32) (c.toNat % 32 * 64) = c := creg_of c _ _ (by omega)
  refine decodeWord_of_fields rfl ?_ ?_ x he
  · constructor <;> simp only [] <;> omega
  · simp only [Fields.decode, decodeSystem, zero, gField_val, pField_val, vField_val, mField_val, imm16_hi_lo, bind, Except.bind, pure, Except.pure, e0, c0, if_true, if_false, ne_eq, not_true_eq_false, not_false_eq_true, reduceIte, Nat.add_zero, and_self, or_self, decide_true]

theorem RoundTrip.crw (a : GReg) (c : BitVec 10) : RoundTrip.Statement (.crw a c) := by
  intro wf x he
  have h_a := a.isLt
  have h_c := c.isLt
  have e0 : (c.toNat % 32 * 64 + 1) % 64 = 1 := by omega
  have c0 : creg (c.toNat / 32) (c.toNat % 32 * 64 + 1) = c := creg_of c _ _ (by omega)
  refine decodeWord_of_fields rfl ?_ ?_ x he
  · constructor <;> simp only [] <;> omega
  · simp only [Fields.decode, decodeSystem, zero, gField_val, pField_val, vField_val, mField_val, imm16_hi_lo, bind, Except.bind, pure, Except.pure, e0, c0, if_true, if_false, ne_eq, not_true_eq_false, not_false_eq_true, reduceIte, Nat.add_zero, and_self, or_self, decide_true]

theorem RoundTrip.rett : RoundTrip.Statement (.rett) := by
  intro wf x he
  refine decodeWord_of_fields rfl ?_ ?_ x he
  · constructor <;> simp only [] <;> omega
  · simp only [Fields.decode, decodeSystem, zero, gField_val, pField_val, vField_val, mField_val, imm16_hi_lo, bind, Except.bind, pure, Except.pure, if_true, if_false, ne_eq, not_true_eq_false, not_false_eq_true, reduceIte, Nat.add_zero, and_self, or_self, decide_true]

theorem RoundTrip.crset (a : GReg) (c : BitVec 10) : RoundTrip.Statement (.crset a c) := by
  intro wf x he
  have h_a := a.isLt
  have h_c := c.isLt
  have e0 : (c.toNat % 32 * 64 + 3) % 64 = 3 := by omega
  have c0 : creg (c.toNat / 32) (c.toNat % 32 * 64 + 3) = c := creg_of c _ _ (by omega)
  refine decodeWord_of_fields rfl ?_ ?_ x he
  · constructor <;> simp only [] <;> omega
  · simp only [Fields.decode, decodeSystem, zero, gField_val, pField_val, vField_val, mField_val, imm16_hi_lo, bind, Except.bind, pure, Except.pure, e0, c0, if_true, if_false, ne_eq, not_true_eq_false, not_false_eq_true, reduceIte, Nat.add_zero, and_self, or_self, decide_true]

theorem RoundTrip.crclr (a : GReg) (c : BitVec 10) : RoundTrip.Statement (.crclr a c) := by
  intro wf x he
  have h_a := a.isLt
  have h_c := c.isLt
  have e0 : (c.toNat % 32 * 64 + 4) % 64 = 4 := by omega
  have c0 : creg (c.toNat / 32) (c.toNat % 32 * 64 + 4) = c := creg_of c _ _ (by omega)
  refine decodeWord_of_fields rfl ?_ ?_ x he
  · constructor <;> simp only [] <;> omega
  · simp only [Fields.decode, decodeSystem, zero, gField_val, pField_val, vField_val, mField_val, imm16_hi_lo, bind, Except.bind, pure, Except.pure, e0, c0, if_true, if_false, ne_eq, not_true_eq_false, not_false_eq_true, reduceIte, Nat.add_zero, and_self, or_self, decide_true]

theorem RoundTrip.rlx : RoundTrip.Statement (.rlx) := by
  intro wf x he
  refine decodeWord_of_fields rfl ?_ ?_ x he
  · constructor <;> simp only [] <;> omega
  · simp only [Fields.decode, decodePfx, zero, gField_val, pField_val, vField_val, mField_val, imm16_hi_lo, bind, Except.bind, pure, Except.pure, if_true, if_false, ne_eq, not_true_eq_false, not_false_eq_true, reduceIte, Nat.add_zero, and_self, or_self, decide_true]

theorem RoundTrip.ext (h : BitVec 24) : RoundTrip.Statement (.ext h) := by
  intro wf x he
  have h_h := h.isLt
  have e0 : (8 + h.toNat / 2 ^ 21) / 8 = 1 := by omega
  refine decodeWord_of_fields rfl ?_ ?_ x he
  · constructor <;> simp only [] <;> omega
  · simp only [Fields.decode, decodePfx, zero, gField_val, pField_val, vField_val, mField_val, imm16_hi_lo, bind, Except.bind, pure, Except.pure, e0, ofNat_toNat_of 24 ((8 + h.toNat / 2 ^ 21) % 8 * 2 ^ 21 + h.toNat / 2 ^ 16 % 32 * 2 ^ 16 + h.toNat / 2 ^ 11 % 32 * 2 ^ 11 + h.toNat % 2 ^ 11) h (by omega), if_true, if_false, ne_eq, not_true_eq_false, not_false_eq_true, reduceIte, Nat.add_zero, and_self, or_self, decide_true]

theorem RoundTrip.lateTrap (tid : Nat) : RoundTrip.Statement (.lateTrap tid) := roundTrip_none rfl

theorem RoundTrip.accessTravel (tid : Nat) (n : Nat) (k : Nat) : RoundTrip.Statement (.accessTravel tid n k) := roundTrip_none rfl

theorem RoundTrip.accessPerform (bank : Nat) (ecc : Nat) : RoundTrip.Statement (.accessPerform bank ecc) := roundTrip_none rfl

theorem RoundTrip.uncorrectableError (kind : Nat) (at' : Nat) : RoundTrip.Statement (.uncorrectableError kind at') := roundTrip_none rfl

theorem RoundTrip.carrierMessage (pcn : Nat) : RoundTrip.Statement (.carrierMessage pcn) := roundTrip_none rfl

theorem RoundTrip.msgReply (n : Nat) : RoundTrip.Statement (.msgReply n) := roundTrip_none rfl

theorem RoundTrip.emberArrival (n : Nat) : RoundTrip.Statement (.emberArrival n) := roundTrip_none rfl

theorem RoundTrip.migAccept (n : Nat) : RoundTrip.Statement (.migAccept n) := roundTrip_none rfl

theorem RoundTrip.emberAdmit (pcn : Nat) : RoundTrip.Statement (.emberAdmit pcn) := roundTrip_none rfl

theorem RoundTrip.offerHeader (n : Nat) : RoundTrip.Statement (.offerHeader n) := roundTrip_none rfl

theorem RoundTrip.claim (n : Nat) : RoundTrip.Statement (.claim n) := roundTrip_none rfl

theorem RoundTrip.claimAnswer (n : Nat) : RoundTrip.Statement (.claimAnswer n) := roundTrip_none rfl

theorem RoundTrip.commitNotice (n : Nat) : RoundTrip.Statement (.commitNotice n) := roundTrip_none rfl

theorem RoundTrip.slotRelease (n : Nat) : RoundTrip.Statement (.slotRelease n) := roundTrip_none rfl

theorem RoundTrip.headerWithdrawal (n : Nat) : RoundTrip.Statement (.headerWithdrawal n) := roundTrip_none rfl

theorem RoundTrip.combineContribution (n : Nat) (router : Nat) : RoundTrip.Statement (.combineContribution n router) := roundTrip_none rfl

theorem RoundTrip.streamCircuit (n : Nat) : RoundTrip.Statement (.streamCircuit n) := roundTrip_none rfl

theorem RoundTrip.payloadArrival (n : Nat) : RoundTrip.Statement (.payloadArrival n) := roundTrip_none rfl

theorem RoundTrip.eventOccur (pcn : Nat) (idx : Nat) : RoundTrip.Statement (.eventOccur pcn idx) := roundTrip_none rfl

theorem RoundTrip.offerTimeout (tid : Nat) : RoundTrip.Statement (.offerTimeout tid) := roundTrip_none rfl

theorem RoundTrip.evNewRequest (n : Nat) : RoundTrip.Statement (.evNewRequest n) := roundTrip_none rfl

theorem RoundTrip.evNewAnswer (n : Nat) : RoundTrip.Statement (.evNewAnswer n) := roundTrip_none rfl

theorem RoundTrip.evFreeRequest (n : Nat) : RoundTrip.Statement (.evFreeRequest n) := roundTrip_none rfl

theorem RoundTrip.entryFreed (pcn : Nat) (idx : Nat) : RoundTrip.Statement (.entryFreed pcn idx) := roundTrip_none rfl

theorem RoundTrip.stragglerClaim (n : Nat) : RoundTrip.Statement (.stragglerClaim n) := roundTrip_none rfl

theorem RoundTrip.antiMessage (n : Nat) : RoundTrip.Statement (.antiMessage n) := roundTrip_none rfl

theorem RoundTrip.gvtRoundStart (launch : Nat) : RoundTrip.Statement (.gvtRoundStart launch) := roundTrip_none rfl

theorem RoundTrip.gvtStartPacket (n : Nat) : RoundTrip.Statement (.gvtStartPacket n) := roundTrip_none rfl

theorem RoundTrip.gvtPassReport (n : Nat) (router : Nat) : RoundTrip.Statement (.gvtPassReport n router) := roundTrip_none rfl

theorem RoundTrip.gvtResult (n : Nat) : RoundTrip.Statement (.gvtResult n) := roundTrip_none rfl

theorem RoundTrip.deferredAction (pcn : Nat) : RoundTrip.Statement (.deferredAction pcn) := roundTrip_none rfl

theorem RoundTrip.wrapUp (launch : Nat) : RoundTrip.Statement (.wrapUp launch) := roundTrip_none rfl

theorem RoundTrip.wrapupCut (launch : Nat) : RoundTrip.Statement (.wrapupCut launch) := roundTrip_none rfl

theorem RoundTrip.deadlineOverrun (launch : Nat) : RoundTrip.Statement (.deadlineOverrun launch) := roundTrip_none rfl

theorem RoundTrip.launchComplete (launch : Nat) : RoundTrip.Statement (.launchComplete launch) := roundTrip_none rfl

theorem RoundTrip.engineGrant (cluster : Nat) (engine : Nat) (choice : GrantChoice) : RoundTrip.Statement (.engineGrant cluster engine choice) := roundTrip_none rfl

theorem RoundTrip.streamStart (pcn : Nat) : RoundTrip.Statement (.streamStart pcn) := roundTrip_none rfl

theorem RoundTrip.jobComplete (pcn : Nat) (engine : Nat) : RoundTrip.Statement (.jobComplete pcn engine) := roundTrip_none rfl

theorem RoundTrip.copyOverdue (pcn : Nat) : RoundTrip.Statement (.copyOverdue pcn) := roundTrip_none rfl

theorem RoundTrip.faultRecord (n : Nat) : RoundTrip.Statement (.faultRecord n) := roundTrip_none rfl

theorem RoundTrip.fqheadWrite (pcn : Nat) (v : Nat) : RoundTrip.Statement (.fqheadWrite pcn v) := roundTrip_none rfl

theorem RoundTrip.freplyWrite (pcn : Nat) (v : Nat) : RoundTrip.Statement (.freplyWrite pcn v) := roundTrip_none rfl

theorem RoundTrip.faultReply (n : Nat) : RoundTrip.Statement (.faultReply n) := roundTrip_none rfl

theorem RoundTrip.tcinvRootWrite (pcn : Nat) (v : Nat) : RoundTrip.Statement (.tcinvRootWrite pcn v) := roundTrip_none rfl

theorem RoundTrip.tcinvPageWrite (pcn : Nat) (v : Nat) : RoundTrip.Statement (.tcinvPageWrite pcn v) := roundTrip_none rfl

theorem RoundTrip.loadWindowEnd (pcn : Nat) (north : Nat) (east : Nat) (south : Nat) (west : Nat) : RoundTrip.Statement (.loadWindowEnd pcn north east south west) := roundTrip_none rfl

theorem RoundTrip.commandSubmission (sender : Nat) (msg : List Byte) : RoundTrip.Statement (.commandSubmission sender msg) := roundTrip_none rfl

theorem RoundTrip.eventIngress (sender : Nat) (msg : List Byte) : RoundTrip.Statement (.eventIngress sender msg) := roundTrip_none rfl

theorem RoundTrip.tagPost (sender : Nat) (msg : List Byte) : RoundTrip.Statement (.tagPost sender msg) := roundTrip_none rfl

theorem RoundTrip.floorOnly (sender : Nat) (msg : List Byte) : RoundTrip.Statement (.floorOnly sender msg) := roundTrip_none rfl

theorem RoundTrip.attestationRequest (sender : Nat) (msg : List Byte) : RoundTrip.Statement (.attestationRequest sender msg) := roundTrip_none rfl

theorem RoundTrip.rmaWrite (request : RmaRequest) (region : Nat) (va : Nat) (bytes : List Byte) : RoundTrip.Statement (.rmaWrite request region va bytes) := roundTrip_none rfl

theorem RoundTrip.rmaRead (request : RmaRequest) (region : Nat) (va : Nat) (len : Nat) : RoundTrip.Statement (.rmaRead request region va len) := roundTrip_none rfl

theorem RoundTrip.peerSendAck (pcn : Nat) (job : Nat) : RoundTrip.Statement (.peerSendAck pcn job) := roundTrip_none rfl

theorem RoundTrip.effectTake (region : Nat) : RoundTrip.Statement (.effectTake region) := roundTrip_none rfl

theorem RoundTrip.launch (region : Nat) (descs : List Nat) : RoundTrip.Statement (.launch region descs) := roundTrip_none rfl

theorem RoundTrip.begin (region : Nat) : RoundTrip.Statement (.begin region) := roundTrip_none rfl

theorem RoundTrip.commit (region : Nat) : RoundTrip.Statement (.commit region) := roundTrip_none rfl

theorem RoundTrip.destroy (region : Nat) : RoundTrip.Statement (.destroy region) := roundTrip_none rfl

theorem RoundTrip.haltProcess (region : Nat) : RoundTrip.Statement (.haltProcess region) := roundTrip_none rfl

theorem RoundTrip.resumeProcess (region : Nat) : RoundTrip.Statement (.resumeProcess region) := roundTrip_none rfl

theorem RoundTrip.freeze (region : Nat) : RoundTrip.Statement (.freeze region) := roundTrip_none rfl

theorem RoundTrip.thaw (region : Nat) : RoundTrip.Statement (.thaw region) := roundTrip_none rfl

theorem RoundTrip.windowOpen (launch : Nat) : RoundTrip.Statement (.windowOpen launch) := roundTrip_none rfl

theorem RoundTrip.placementDecision (die : Nat) (launch : Nat) (time : Nat) (cores : List Nat) : RoundTrip.Statement (.placementDecision die launch time cores) := roundTrip_none rfl

theorem RoundTrip.placement (launch : Nat) (cores : List Nat) : RoundTrip.Statement (.placement launch cores) := roundTrip_none rfl

theorem RoundTrip.placementCommit (launch : Nat) : RoundTrip.Statement (.placementCommit launch) := roundTrip_none rfl

theorem RoundTrip.operatingPointChange (die : Nat) : RoundTrip.Statement (.operatingPointChange die) := roundTrip_none rfl

theorem RoundTrip.launchExpire (launch : Nat) : RoundTrip.Statement (.launchExpire launch) := roundTrip_none rfl

theorem RoundTrip.switchNotice (n : Nat) : RoundTrip.Statement (.switchNotice n) := roundTrip_none rfl

theorem RoundTrip.gangStop (colour : Nat) : RoundTrip.Statement (.gangStop colour) := roundTrip_none rfl

theorem RoundTrip.gangSave (colour : Nat) : RoundTrip.Statement (.gangSave colour) := roundTrip_none rfl

theorem RoundTrip.latePacketLog (n : Nat) : RoundTrip.Statement (.latePacketLog n) := roundTrip_none rfl

theorem RoundTrip.gangResume (colour : Nat) (time : Nat) : RoundTrip.Statement (.gangResume colour time) := roundTrip_none rfl

theorem RoundTrip.regionLiveSet (region : Nat) : RoundTrip.Statement (.regionLiveSet region) := roundTrip_none rfl

theorem RoundTrip.contextImageRead (tid : Nat) (off : Nat) : RoundTrip.Statement (.contextImageRead tid off) := roundTrip_none rfl

theorem RoundTrip.contextImageWrite (tid : Nat) (off : Nat) (v : Nat) : RoundTrip.Statement (.contextImageWrite tid off v) := roundTrip_none rfl

theorem RoundTrip.fwctlWrite (pcn : Nat) (v : Nat) : RoundTrip.Statement (.fwctlWrite pcn v) := roundTrip_none rfl

theorem RoundTrip.pwrlimWrite (v : Nat) : RoundTrip.Statement (.pwrlimWrite v) := roundTrip_none rfl

theorem RoundTrip.controlRegisterWrite (addr : Nat) (v : Nat) : RoundTrip.Statement (.controlRegisterWrite addr v) := roundTrip_none rfl

theorem RoundTrip.ptpMessage (time : Nat) (locked : Nat) : RoundTrip.Statement (.ptpMessage time locked) := roundTrip_none rfl

theorem RoundTrip.nowStep (time : Nat) : RoundTrip.Statement (.nowStep time) := roundTrip_none rfl

theorem RoundTrip.holdoverExpire : RoundTrip.Statement (.holdoverExpire) := roundTrip_none rfl

theorem RoundTrip.lifecycleCommand (target : Nat) (command : Signed) (keys : KeyHashes) : RoundTrip.Statement (.lifecycleCommand target command keys) := roundTrip_none rfl

theorem RoundTrip.reset : RoundTrip.Statement (.reset) := roundTrip_none rfl

theorem RoundTrip.wipeDone (cores : List Nat) (frames : List Nat) : RoundTrip.Statement (.wipeDone cores frames) := roundTrip_none rfl

theorem RoundTrip.firmwareVerify (stageAt : Nat) (stageLen : Nat) (firmware : List Byte) (table : List Byte) (signatures : Signatures × Signatures) : RoundTrip.Statement (.firmwareVerify stageAt stageLen firmware table signatures) := roundTrip_none rfl

theorem RoundTrip.oobImage (stageAt : Nat) (stageLen : Nat) (firmware : List Byte) (table : List Byte) (signatures : Signatures × Signatures) : RoundTrip.Statement (.oobImage stageAt stageLen firmware table signatures) := roundTrip_none rfl

theorem RoundTrip.selfCheck (pcn : Nat) (ok : Nat) : RoundTrip.Statement (.selfCheck pcn ok) := roundTrip_none rfl

theorem RoundTrip.thermalTrip : RoundTrip.Statement (.thermalTrip) := roundTrip_none rfl

theorem RoundTrip.tinderGo (pcn : Nat) (v : Nat) : RoundTrip.Statement (.tinderGo pcn v) := roundTrip_none rfl

theorem RoundTrip.tinder (n : Nat) : RoundTrip.Statement (.tinder n) := roundTrip_none rfl

theorem RoundTrip.tinderRefuse (n : Nat) : RoundTrip.Statement (.tinderRefuse n) := roundTrip_none rfl

theorem RoundTrip.tinderDone (n : Nat) : RoundTrip.Statement (.tinderDone n) := roundTrip_none rfl

theorem RoundTrip.selfCheckEnd (pcn : Nat) (ok : Nat) : RoundTrip.Statement (.selfCheckEnd pcn ok) := roundTrip_none rfl

theorem RoundTrip.slotgo (pcn : Nat) (v : Nat) : RoundTrip.Statement (.slotgo pcn v) := roundTrip_none rfl

theorem RoundTrip.bootctlEnd (v : Nat) : RoundTrip.Statement (.bootctlEnd v) := roundTrip_none rfl

theorem RoundTrip.bootTimeout (die : Nat) : RoundTrip.Statement (.bootTimeout die) := roundTrip_none rfl

theorem RoundTrip.illegalInstruction (tid : Nat) : RoundTrip.Statement (.illegalInstruction tid) := roundTrip_none rfl

theorem RoundTrip.unmappedFetch (tid : Nat) : RoundTrip.Statement (.unmappedFetch tid) := roundTrip_none rfl

theorem RoundTrip.masterLost : RoundTrip.Statement (.masterLost) := roundTrip_none rfl

theorem RoundTrip.uetSendAbandon (pcn : Nat) (job : Nat) : RoundTrip.Statement (.uetSendAbandon pcn job) := roundTrip_none rfl

end Sys2Proof.Laws
end

