-- ==== Sys2Proof/Tests/Slice0.lean ====
section
/-!
SUPPORT. Tests of the model against the worked examples of the spec, and for each statement states and operands that meet
its hypotheses. Every expected value is one that the spec's text or tables give.
-/

open Sys2Proof Sys2Proof.Machine Sys2Proof.Claims

namespace Sys2Proof.Tests

set_option linter.all false
set_option Elab.async false
set_option maxErrors 1000

/-! ## States for the tests -/

/-- A context of slot 1 of core 1 that belongs to no launch, with a handler, and g6 and g7 given. -/
def ctxOf (a b : Word) : Ctx :=
  { Ctx.empty with
    status := .ready, proc := State.bareKey 17, home := 17, pc := 0x100, pw := 1, xvec := 0x400, srng := 1
    regs := ((Vector.replicate 32 (0 : Word)).set 6 a).set 7 b }

/-- A device in which that context issues. -/
def dev (a b : Word) : State := { State.reset with ctxs := [(17, ctxOf a b)], cur := 17 }

/-- The same, with the context changed. -/
def devOf (a b : Word) (f : Ctx → Ctx) : State := { dev a b with ctxs := [(17, f (ctxOf a b))] }

/-- The state after an instruction. -/
def after (i : Instr) (s : State) : State := match exec i s with | .next t => t | _ => s

/-- A launch record of two processes on cores of their own, with wrap-up from 80 µs on. -/
def spec (timed : Bool) : LaunchRec where
  image := 0x1000000000000
  imageLen := 0x2000
  entry := 0x100
  wrappc := 0x200
  rankTab := none
  n := 2
  place := 2
  timed := timed
  cancelCopies := true
  freq := 0
  rect := 0
  lsBytes := 0x100
  ckpt := if timed then 4 else 0
  journal := if timed then 64 else 0
  spill := 0
  spawn := 2
  tag0 := 0
  tag1 := 0
  lvt := 0
  deadline := 100000
  budgetW := 20000
  budgetE := 10000
  record := 0x1000000100000
  doneTag := 0

/-- A launch of region 1 that runs on cores 1 and 2. -/
def launch (timed : Bool) : Launch where
  seq := 1
  region := 1
  spec := spec timed
  descs := []
  phase := .running
  validated := 0
  waiting := []
  window := none
  ranks := [17, 33]
  cores := [1, 2]
  lmap := [1, 2, 3, 4]
  events := []
  committed := 0
  wrapTime := 0
  wrapvt := 0
  cutRound := none
  cutVt := none
  wrapJobs := 0
  diverted := false
  mask := 0
  frozen := 0
  round := none
  pass := 0
  nextRound := 1
  requested := false
  gvt := 0
  lastRound := 0
  stopStatus := 0
  stopCause := 0
  stopPcn := 0

/-- A process of that launch at home in a context. -/
def process (rank tid : Nat) : Proc := ⟨some 257, rank, tid, 0, 2, 0, false, [], [], false⟩

/-- Its context, with the rings of a timed process above the private allocation. -/
def member (timed : Bool) (rank tid : Nat) (a b : Word) : Ctx :=
  { ctxOf a b with
    proc := procKey 257 rank, home := tid
    ckring := if timed then BitVec.ofNat 64 (0x4000 + 4 * 2 ^ 20) else 0
    jring := if timed then BitVec.ofNat 64 (0x6000 + 64 * 2 ^ 32) else 0 }

/-- Region 1: its own budgets, page table, queue and colour. -/
def region1 : Region :=
  { Region.none with
    live := true, depth := 1, mask := 2 ^ 11 - 1, cores := 8, slots := 64, kib := 4096, hbm := 2 ^ 30, arb := 64, share := 8
    prio := 3, domain := 1, colour := 5, space := 1, queueBase := 0x10000, queueEntries := 64, saveSize := 2 ^ 24
    debug := true }

/-- The root region. -/
def region0 : Region :=
  { Region.none with
    live := true, mask := 2 ^ 11 - 1, cores := 4096, slots := 61440, kib := 2 ^ 19, hbm := 2 ^ 37, arb := 2 ^ 20
    saveSize := 2 ^ 31 }

/-- A device after boot on which that launch runs and the process of rank 0 issues. -/
def world (timed : Bool) (a b : Word) : State :=
  { State.reset with
    wiping := false, bootMode := false, phase := 7, lifecycle := 2, tstat := 2, everLocked := true
    lmap := [1, 2, 3, 4], regions := [(0, region0), (1, region1)], regbase := 0x1000000
    launches := [(257, launch timed)]
    procs := [(procKey 257 0, process 0 17), (procKey 257 1, process 1 33)]
    ctxs := [(17, member timed 0 17 a b), (33, member timed 1 33 a b)], cur := 17 }

/-- The same, with the context that issues changed. -/
def worldOf (timed : Bool) (a b : Word) (f : Ctx → Ctx) : State :=
  { world timed a b with ctxs := [(17, f (member timed 0 17 a b)), (33, member timed 1 33 a b)] }

theorem dev_can_trap (a b : Word) : CanTrap (dev a b).me := ⟨⟨rfl, rfl⟩, show (0 : Word).getLsbD 1 = false by decide, show (0x400 : Word) &&& 0x1FFFC ≠ 0 by decide, rfl⟩

theorem world_can_trap (timed : Bool) (a b : Word) : CanTrap (world timed a b).me :=
  ⟨⟨rfl, rfl⟩, show (0 : Word).getLsbD 1 = false by decide, show (0x400 : Word) &&& 0x1FFFC ≠ 0 by decide, rfl⟩

/-! ## Words written out from the encodings of R141 to R166 (the tables of worked encodings) -/

theorem test_decode_div : decodeWord 0x04A6380B = .ok (.div 5 6 7) := by decide
theorem test_decode_sel : decodeWord 0x04A638D3 = .ok (.sel 5 6 7 3) := by decide
theorem test_decode_shri : decodeWord 0x1D690003 = .ok (.shri 11 9 3) := by decide
theorem test_decode_cmpiLtu : decodeWord 0x3425FFFF = .ok (.cmpiLtu 1 5 0xFFFF) := by decide
theorem test_decode_pandn : decodeWord 0x38432003 = .ok (.pandn 2 3 4) := by decide
theorem test_decode_bz : decodeWord 0x48800003 = .ok (.bz 4 3) := by decide
theorem test_decode_jal : decodeWord 0x54000040 = .ok (.jal 64) := by decide
theorem test_decode_jalr : decodeWord 0x58290001 = .ok (.jalr 1 9) := by decide
theorem test_decode_ldQ : decodeWord 0x7D430010 = .ok (.ldQ 10 3 16) := by decide
theorem test_decode_stW : decodeWord 0x8A711060 = .ok (.stW 19 17 0x1060) := by decide
theorem test_decode_stX6 : decodeWord 0x95240601 = .ok (.stX6 9 4 6) := by decide
theorem test_decode_aadd : decodeWord 0x98A60001 = .ok (.aadd 5 6 .dword) := by decide
theorem test_decode_fadd : decodeWord 0xA0A63C90 = .ok (.fadd 5 6 7 .f32 .rz) := by decide
theorem test_decode_fcmpLt : decodeWord 0xA4253481 = .ok (.fcmpLt 1 5 6 .f32) := by decide
theorem test_decode_cvt : decodeWord 0xA8A60548 = .ok (.cvt 5 6 .bf16 .f32 .rn) := by decide
theorem test_decode_fli : decodeWord 0xACAA4000 = .ok (.fli 5 .bf16 0x4000) := by decide
theorem test_decode_vld : decodeWord 0xC8001000 = .ok (.vld 0 0 0x1000) := by decide
theorem test_decode_vbcast : decodeWord 0xD4250080 = .ok (.vbcast 1 5 .i16 0) := by decide
theorem test_decode_vcvt : decodeWord 0xC4400578 = .ok (.vcvt 2 0 0 0 .bf16 .e2m3 .rn) := by decide
theorem test_decode_vfmul : decodeWord 0xB4620D02 = .ok (.vfmul 3 2 1 .bf16 0 .rn) := by decide
theorem test_decode_vfredAdd : decodeWord 0xD4A0048B = .ok (.vfredAdd 5 0 .f32 0) := by decide
theorem test_decode_mxCfg : decodeWord 0xE8053000 = .ok (.mxCfg 5 6) := by decide
theorem test_decode_mxDist : decodeWord 0xE96C6804 = .ok (.mxDist 11 12 13 ⟨.th, false, false⟩) := by decide
theorem test_decode_mxZero : decodeWord 0xE9600006 = .ok (.mxZero 11 0 0 ⟨.th, false, false⟩) := by decide
theorem test_decode_cpCopy : decodeWord 0xECE84B61 = .ok (.cpCopy 7 8 9 ⟨.dv, true, true⟩) := by decide
theorem test_decode_evNew : decodeWord 0xF0A63800 = .ok (.evNew 5 6 7) := by decide
theorem test_decode_offerT : decodeWord 0xF1442804 = .ok (.offerT 10 4 5) := by decide
theorem test_decode_spawn : decodeWord 0xF4A63800 = .ok (.spawn 5 6 7) := by decide
theorem test_decode_mig : decodeWord 0xF4050021 = .ok (.mig 5 .g16) := by decide
theorem test_decode_msg : decodeWord 0xF5063802 = .ok (.msg 8 6 7) := by decide
theorem test_decode_trap : decodeWord 0xF40000EA = .ok (.trap 7) := by decide
theorem test_decode_brk : decodeWord 0xF4000029 = .ok (.brk 1) := by decide
theorem test_decode_crr : decodeWord 0xF9200800 = .ok (.crr 9 0x020) := by decide
theorem test_decode_crw : decodeWord 0xF8051001 = .ok (.crw 5 0x040) := by decide
theorem test_decode_rett : decodeWord 0xF8000002 = .ok (.rett) := by decide
theorem test_decode_crset : decodeWord 0xF8054043 = .ok (.crset 5 0x101) := by decide
theorem test_decode_ext : decodeWord 0xFD000030 = .ok (.ext 0x30) := by decide
theorem test_decode_addi : decodeWord 0x09200000 = .ok (.addi 9 0 0) := by decide
theorem test_decode_bt : decodeWord 0x4020FFF0 = .ok (.bt 1 0xFFF0) := by decide

theorem test_no_word_zero : (decodeWord 0x00000000).toOption = none := by decide
theorem test_no_word_major0F : (decodeWord 0x3C000000).toOption = none := by decide
theorem test_no_word_major17 : (decodeWord 0x5C000000).toOption = none := by decide
theorem test_no_word_major27 : (decodeWord 0x9C000000).toOption = none := by decide
theorem test_no_word_major37 : (decodeWord 0xDC000000).toOption = none := by decide
theorem test_no_word_st_x4_q2 : (decodeWord 0x95240200).toOption = none := by decide
theorem test_no_word_ld_q_d0 : (decodeWord 0x7C030010).toOption = none := by decide
theorem test_no_word_ld_q_odd : (decodeWord 0x7D630010).toOption = none := by decide
theorem test_no_word_shri_high : (decodeWord 0x1D690043).toOption = none := by decide
theorem test_no_word_aadd_b1 : (decodeWord 0x98A60801).toOption = none := by decide
theorem test_no_word_sel_fn10 : (decodeWord 0x04A63C13).toOption = none := by decide
theorem test_no_word_alu_fn21 : (decodeWord 0x04E74061).toOption = none := by decide
theorem test_no_word_bt_p17 : (decodeWord 0x4220FFF7).toOption = none := by decide
theorem test_no_word_bt_b16 : (decodeWord 0x4030FFF7).toOption = none := by decide
theorem test_no_word_mig_size3 : (decodeWord 0xF4000061).toOption = none := by decide
theorem test_no_word_copy_scope : (decodeWord 0xED000101).toOption = none := by decide
theorem test_no_word_mma_scope : (decodeWord 0xE9000102).toOption = none := by decide

theorem test_table_word : decodeTableWord 32 0x04A6380B = some (.div 5 6 7) := by decide

theorem test_encode_ldW : encode (.ldW 7 3 0) = some 0x70E30000 := by decide

/-! ## Terms that are no instruction (R142, R145, R155, R158, R162, R213) -/

theorem test_ill_formed_ldQ_odd : (Instr.ldQ 11 3 16).wf = false := by decide
theorem test_ill_formed_ldQ_zero : (Instr.ldQ 0 3 16).wf = false := by decide
theorem test_ill_formed_stQ_odd : (Instr.stQ 11 3 16).wf = false := by decide
theorem test_ill_formed_cvt_same : (Instr.cvt 5 6 .f32 .f32 .rn).wf = false := by decide
theorem test_ill_formed_fli_integer : (Instr.fli 5 .i32 0x3F80).wf = false := by decide
theorem test_ill_formed_vcmp_m0 : (Instr.vcmpEq 0 1 2 (.int .i32) 0).wf = false := by decide
theorem test_ill_formed_vcmpUn_m0 : (Instr.vcmpUn 0 1 2 .f32 0).wf = false := by decide
theorem test_ill_formed_vcvt_part : (Instr.vcvt 2 0 4 0 .bf16 .e2m3 .rn).wf = false := by decide
theorem test_ill_formed_vcvt_same : (Instr.vcvt 2 0 0 0 .f32 .f32 .rn).wf = false := by decide
theorem test_ill_formed_mand_m0 : (Instr.mand 0 1 2).wf = false := by decide
theorem test_ill_formed_job_scope : (Instr.mxMma 8 0 0 ⟨.cl, false, false⟩).wf = false := by decide
theorem test_well_formed_job_scope : (Instr.cpCopy 8 0 0 ⟨.cl, false, true⟩).wf = true := by decide

/-! ## Integer, predicate and branch forms (R174 to R184) -/

theorem test_div_7_m2 : (after (.div 5 6 7) (dev 7 (-2))).g 5 = -3 := by decide
theorem test_rem_m7_2 : (after (.rem 5 6 7) (dev (-7) 2)).g 5 = -1 := by decide
theorem test_divu_m7_2 : (after (.divu 5 6 7) (dev (-7) 2)).g 5 = 0x7FFFFFFFFFFFFFFC := by decide
theorem test_remu_5_0 : (after (.remu 5 6 7) (dev 5 0)).g 5 = 5 := by decide
theorem test_div_overflow : (after (.div 5 6 7) (dev 0x8000000000000000 (-1))).g 5 = 0x8000000000000000 := by decide
theorem test_rem_overflow : (after (.rem 5 6 7) (dev 0x8000000000000000 (-1))).g 5 = 0 := by decide
theorem test_add_wraps : (after (.add 5 6 7) (dev 0xFFFFFFFFFFFFFFFF 1)).g 5 = 0 := by decide
theorem test_sub_borrows : (after (.sub 5 6 7) (dev 0 1)).g 5 = 0xFFFFFFFFFFFFFFFF := by decide
theorem test_mulh_signed : (after (.mulh 5 6 7) (dev (-1) (-1))).g 5 = 0 := by decide
theorem test_mulhu_unsigned : (after (.mulhu 5 6 7) (dev (-1) (-1))).g 5 = 0xFFFFFFFFFFFFFFFE := by decide
theorem test_sra_fills : (after (.sra 5 6 7) (dev 0x8000000000000000 65)).g 5 = 0xC000000000000000 := by decide
theorem test_shr_zeros : (after (.shr 5 6 7) (dev 0x8000000000000000 65)).g 5 = 0x4000000000000000 := by decide
theorem test_clz_zero : (after (.clz 5 6) (dev 0 0)).g 5 = 64 := by decide
theorem test_ctz : (after (.ctz 5 6) (dev 8 0)).g 5 = 3 := by decide
theorem test_popc : (after (.popc 5 6) (dev (-1) 0)).g 5 = 64 := by decide
theorem test_sextB : (after (.sextB 5 6) (dev 0x180 0)).g 5 = 0xFFFFFFFFFFFFFF80 := by decide
theorem test_zextW : (after (.zextW 5 6) (dev (-1) 0)).g 5 = 0xFFFFFFFF := by decide
theorem test_min_signed : (after (.min 5 6 7) (dev (-1) 1)).g 5 = -1 := by decide
theorem test_minu_unsigned : (after (.minu 5 6 7) (dev (-1) 1)).g 5 = 1 := by decide
theorem test_sel_p0 : (after (.sel 5 6 7 0) (dev 3 4)).g 5 = 3 := by decide
theorem test_sel_p1_clear : (after (.sel 5 6 7 1) (dev 3 4)).g 5 = 4 := by decide
theorem test_andi_m16 : (after (.andi 5 6 0xFFF0) (dev 0x1237 0)).g 5 = 0x1230 := by decide
theorem test_shli : (after (.shli 5 6 34) (dev 1 0)).g 5 = 0x400000000 := by decide
theorem test_addi_ext : (after (.addi 5 0 0x2345) (devOf 0 0 fun c => { c with pfx := ⟨some 0x100, false, some 1⟩ })).g 5 = 0x12345 := by decide
theorem test_addi_ext_negative :
    (after (.addi 5 0 0x7960) (devOf 0 0 fun c => { c with pfx := ⟨some 0x100, false, some 0xFFFFFE⟩ })).g 5 = -100000 := by decide
theorem test_g0_discards : (after (.add 0 6 7) (dev 1 2)).g 0 = 0 := by decide
theorem test_source_is_destination : (after (.sub 6 7 6) (dev 1 5)).g 6 = 4 := by decide
theorem test_cmpLt_signed : (after (.cmpLt 1 6 7) (dev (-1) 1)).p 1 = true := by decide
theorem test_cmpLtu_unsigned : (after (.cmpLtu 1 6 7) (dev (-1) 1)).p 1 = false := by decide
theorem test_cmpiLtu_all_ones : (after (.cmpiLtu 1 6 0xFFFF) (dev (-1) 0)).p 1 = false := by decide
theorem test_cmpiLtu_below : (after (.cmpiLtu 1 6 0xFFFF) (dev (-2) 0)).p 1 = true := by decide
theorem test_pandn : (after (.pandn 1 0 2) (dev 0 0)).p 1 = true := by decide
theorem test_pset_p0 : (after (.pclr 0) (dev 0 0)).p 0 = true := by decide
theorem test_prd : (after (.prd 5) (dev 0 0)).g 5 = 1 := by decide
theorem test_pwr : (after (.pwr 6) (dev 0xFFFFF002 0)).me.pw = 0xF003 := by decide
theorem test_bt_back : (after (.bt 0 0xFFF7) (dev 0 0)).me.pc = 0xDC := by decide
theorem test_bz_not_taken : (after (.bz 6 3) (dev 1 0)).me.pc = 0x104 := by decide
theorem test_jal_link : (after (.jal 64) (dev 0 0)).g 1 = 0x104 := by decide
theorem test_jal_target : (after (.jal 64) (dev 0 0)).me.pc = 0x200 := by decide
theorem test_jalr_reads_first : (after (.jalr 6 6) (dev 0x300 0)).me.pc = 0x300 := by decide
theorem test_jr_misaligned : (after (.jr 6) (dev 0x302 0)).me.xaddr = 0x302 := by decide

/-! ## Loads and stores (R186 to R196) -/

theorem test_ldD_misaligned : (after (.ldD 5 6 4) (dev 0x1000 0)).me.xcause = 0x02 := by decide
theorem test_ldB_unmapped : (after (.ldB 5 6 0) (dev 0x20000 0)).me.xcause = 0x03 := by decide
theorem test_stW_waits : (after (.stW 7 6 8) (dev 0x1000 0x55)).me.wait = .access := by decide
theorem test_stX6_two_bytes : ((after (.stX6 7 6 6) (dev 0x1000 0xFF)).me.port.map fun a => a.parts.map Part.size) = some [2] := by decide
theorem test_aadd_relaxed : (after (.aadd 7 6 .word) (dev 0x1000 1)).me.relaxed.length = 1 := by decide
theorem test_timed_atomic : (after (.aadd 7 6 .word) (world true 0x1000 1)).me.xcause = 0x06 := by decide

/-! ## Floating point (the tables of R205, R207) -/

theorem test_fadd_saturates : (after (.fadd 5 6 7 .f32 .rn) (dev 0x7F7FFFFF 0x7F7FFFFF)).g 5 = 0x7F7FFFFF := by decide
theorem test_fadd_saturates_flags : (after (.fadd 5 6 7 .f32 .rn) (dev 0x7F7FFFFF 0x7F7FFFFF)).me.fflags = 0x34 := by decide
theorem test_fadd_f16_nearest : (after (.fadd 5 6 7 .f16 .rn) (dev 0x7BFF 0x4C00)).g 5 = 0x7BFF := by decide
theorem test_fadd_f16_nearest_flags : (after (.fadd 5 6 7 .f16 .rn) (dev 0x7BFF 0x4C00)).me.fflags = 0x34 := by decide
theorem test_fdiv_by_zero : (after (.fdiv 5 6 7 .f32 .rn) (dev 0x3F800000 0)).g 5 = 0x7F800000 := by decide
theorem test_fdiv_by_zero_flags : (after (.fdiv 5 6 7 .f32 .rn) (dev 0x3F800000 0)).me.fflags = 0x02 := by decide
theorem test_fsqrt_minus_zero : (after (.fsqrt 5 6 .f32 .rn) (dev 0x80000000 0)).g 5 = 0x80000000 := by decide
theorem test_fsqrt_minus_zero_flags : (after (.fsqrt 5 6 .f32 .rn) (dev 0x80000000 0)).me.fflags = 0 := by decide
theorem test_fmin_zeros : (after (.fmin 5 6 7 .f32) (dev 0 0x80000000)).g 5 = 0x80000000 := by decide
theorem test_fmin_zeros_flags : (after (.fmin 5 6 7 .f32) (dev 0 0x80000000)).me.fflags = 0 := by decide
theorem test_fneg_signalling : (after (.fneg 5 6 .f32) (dev 0x7F800001 0)).g 5 = 0x7FC00000 := by decide
theorem test_fneg_signalling_flags : (after (.fneg 5 6 .f32) (dev 0x7F800001 0)).me.fflags = 0x01 := by decide
theorem test_cvt_i8_f32 : (after (.cvt 5 6 .i8 .f32 .rn) (dev 0x43488000 0)).g 5 = 0x7F := by decide
theorem test_cvt_i8_f32_flags : (after (.cvt 5 6 .i8 .f32 .rn) (dev 0x43488000 0)).me.fflags = 0x30 := by decide
theorem test_cvt_e2m1_nan : (after (.cvt 5 6 .e2m1 .f32 .rn) (dev 0x7FC00000 0)).g 5 = 0x7 := by decide
theorem test_cvt_e2m1_nan_flags : (after (.cvt 5 6 .e2m1 .f32 .rn) (dev 0x7FC00000 0)).me.fflags = 0x01 := by decide
theorem test_fcmp_nan : (after (.fcmpLt 1 6 7 .f32) (dev 0x7FC00000 0)).me.fflags = 0x01 := by decide
theorem test_fmac_fused : (after (.fmac 7 6 6 .f32 .rn) (dev 0x40000000 0x3F800000)).g 7 = 0x40A00000 := by decide
theorem test_fli_nan : (after (.fli 5 .e2m1 0x7FC0) (dev 0 0)).g 5 = 7 := by decide

/-! ## Vectors and masks (R209 to R220) -/

/-- Slot 1 of core 1 with 2^24, 1 and 1 in the lanes 0 to 2 of v0, the example of R219. -/
def lanes : State :=
  { dev 0 0 with mem := [⟨0x300002202, 0x80⟩, ⟨0x300002203, 0x4B⟩, ⟨0x300002206, 0x80⟩, ⟨0x300002207, 0x3F⟩,
    ⟨0x30000220A, 0x80⟩, ⟨0x30000220B, 0x3F⟩] }

theorem test_vfredAdd_exact : (after (.vfredAdd 5 0 .f32 0) lanes).g 5 = 0x4B800001 := by decide +kernel
theorem test_vfredAdd_no_flag : (after (.vfredAdd 5 0 .f32 0) lanes).me.fflags = 0 := by decide +kernel
theorem test_vext : (after (.vext 5 0 6 .i32) lanes).g 5 = 0x4B800000 := by decide +kernel
theorem test_mmov_m0 : (after (.mmov 1 0) (dev 0 0)).m 1 = 0xFFFFFFFFFFFFFFFF := by decide

/-! ## Engines, events, threads and control registers -/

theorem test_mxGet_reset : (after (.mxGet 5 6) (dev 1 0)).g 5 = 0x10 := by decide
theorem test_mxGet_unassigned : (after (.mxGet 5 6) (dev 0x0D 0)).me.xcause = 0x0B := by decide
theorem test_mxCfg_too_many : (after (.mxCfg 6 7) (dev 0x1000 33)).me.xaddr = 33 := by decide
theorem test_evNew_timed : (after (.evNew 5 6 7) (world true 0x1000 0)).me.xcause = 0x06 := by decide
theorem test_vtSet_raises : ((after (.vtSet 6) (world true 1000 0)).proc (procKey 257 0)).lvt = 1000 := by decide
theorem test_vtSet_last : (after (.vtSet 6) (world true (-1) 0)).me.xcause = 0x06 := by decide
theorem test_trap_xpc : (after (.trap 7) (dev 0 0)).me.xpc = 0x104 := by decide
theorem test_brk_xpc : (after (.brk 1) (dev 0 0)).me.xpc = 0x100 := by decide
theorem test_reply_in_thread : (after (.reply 6) (dev 0 0)).me.xcause = 0x01 := by decide
theorem test_rett_outside : (after .rett (dev 0 0)).me.xcause = 0x01 := by decide
theorem test_rett_returns :
    (after .rett (devOf 0 0 fun c => { c with xstat := 2, xpc := 0x204 })).me.pc = 0x204 := by decide
theorem test_crr_rank : (after (.crr 5 0x001) { world false 0 0 with cur := 33 }).g 5 = 1 := by decide
theorem test_crw_reserved_mode : (after (.crw 6 0x040) (dev 5 0)).me.xcause = 0x01 := by decide
theorem test_crset_user : (after (.crset 6 0x041) (dev 1 0)).me.xcause = 0x01 := by decide
theorem test_yield_fifteen : (after .yield (dev 0 0)).me.notBefore = 16 := by decide

/-! ## A first step: the instruction that is placed where the first fetch reads is run -/

theorem test_first_step :
    (match step (State.reset.withFetchWord 32 0x04000000) with | .next t => t.me.pc | _ => 0) = 4 := by decide

/-! ## States that meet the hypotheses of the statements: integer forms, branches, accesses -/

theorem witness_immediate_plain : (dev 0 0).me.pfx.ext = none := by decide

theorem witness_immediate_ext :
    (devOf 0 0 fun c => { c with pfx := ⟨some 0x100, false, some 0xFFFFFF⟩ }).me.pfx.ext = some 0xFFFFFF := by decide

theorem witness_jump_aligned : ((dev 0x1FFFC 0).g 6).toNat % 4 = 0 := by decide

theorem witness_jump_misaligned : ((dev 0x1FFFD 0).g 6).toNat % 4 ≠ 0 ∧ CanTrap (dev 0x1FFFD 0).me :=
  ⟨by decide, dev_can_trap _ _⟩

theorem witness_address_self : decodeAddr 0x1FFFF = .self 0x1FFFF ∧ decodeAddr 0x20000 = .unmapped := by decide

theorem witness_address_local :
    decodeAddr 0x100000000 = .localStore 0 0 ∧ decodeAddr 0x11FFFFFFF = .localStore 4095 0x1FFFF ∧
      decodeAddr 0x120000000 = .unmapped := by decide

theorem witness_address_accumulator :
    decodeAddr 0x200000000 = .accumulator 0 0 ∧ decodeAddr 0x201FFFFFF = .accumulator 4095 0x1FFF ∧
      decodeAddr 0x202000000 = .unmapped := by decide

theorem witness_address_vector :
    decodeAddr 0x300000000 = .vector 0 0 ∧ decodeAddr 0x301FFFFFF = .vector 4095 0x1FFF ∧
      decodeAddr 0x302000000 = .unmapped := by decide

theorem witness_check_size : (0x1FFFF : Word).toNat % 2 ≠ 0 ∧ (dev 0 0).checkAccess 17 0x1FFFF 2 = some 0x02 := by decide

theorem witness_check_unmapped :
    (0x20000 : Word).toNat % 16 = 0 ∧ decodeAddr 0x20000 = .unmapped ∧ (dev 0 0).checkAccess 17 0x20000 16 = some 0x03 := by
  decide

theorem witness_check_offchip :
    (0x1FFFFFFFFFFF0 : Word).toNat % 16 = 0 ∧ 2 ^ 48 ≤ (0x1FFFFFFFFFFF0 : Word).toNat ∧
      (dev 0 0).checkAccess 17 0x1FFFFFFFFFFF0 16 = some 0x04 := by decide

theorem witness_check_control :
    (0x400000000 : Word).toNat % 8 = 0 ∧ (dev 0 0).isPrivileged 17 = false ∧
      (dev 0 0).checkAccess 17 0x400000000 8 = some 0x04 := by decide

theorem witness_check_region :
    (decodeAddr 0x100040000).owner? 0 = some 2 ∧ (world false 0 0).isPrivileged 17 = false ∧
      (world false 0 0).checkAccess 17 0x100040000 4 = none ∧ (world false 0 0).checkAccess 17 0x100060000 4 = some 0x05 := by
  decide

theorem witness_memory : memWf [⟨0x100000000, 1⟩, ⟨0x100000001, 2⟩] = true := by decide

theorem witness_loads : (dev 0x1000 0).me.hasRoom false ∧
    ∀ x ∈ loads 4 6 0, (dev 0x1000 0).checkScalar ((dev 0x1000 0).g 6 + (dev 0x1000 0).imm 0) x.2.2 true = none :=
  ⟨fun h => Bool.noConfusion h, by decide⟩

/-- A context with the relaxed prefix. -/
def relaxed (c : Ctx) : Ctx := { c with pfx := ⟨some 0x100, true, none⟩ }

theorem witness_loads_relaxed : (devOf 0x1000 0 relaxed).me.hasRoom (devOf 0x1000 0 relaxed).me.pfx.rlx :=
  fun _ => by decide

theorem witness_stores : ∀ x ∈ stores (dev 0x1000 0) 4 6 0,
    (dev 0x1000 0).checkScalar ((dev 0x1000 0).g 6 + (dev 0x1000 0).imm 0) x.2.1 true = none ∧
      ((dev 0x1000 0).journalAll 17 (journalLines (dev 0x1000 0) 0x1000)).isSome = true := by decide

theorem witness_stores_timed :
    (world true 0x1000 0).isTimed 17 = true ∧ (world true 0x1000 0).foreign 0x1000 = false ∧
      ((world true 0x1000 0).journalAll 17 (journalLines (world true 0x1000 0) 0x1000)).isSome = true := by decide

theorem witness_bit_stores : ∀ x ∈ bitStores 7 6 true 7,
    (dev 0x1FFFE 0).checkScalar ((dev 0x1FFFE 0).g 6) 1 false = none ∧ nextInWindow ((dev 0x1FFFE 0).g 6) = true := by decide

theorem witness_bit_store_leaves_window :
    (dev 0x1FFFF 0).checkScalar ((dev 0x1FFFF 0).g 6) 1 false = none ∧ nextInWindow ((dev 0x1FFFF 0).g 6) = false ∧
      8 < 7 + 6 := by decide

theorem witness_atomics : ∀ x ∈ atomics 7 6 .dword,
    (dev 0x1FFF8 0).checkScalar ((dev 0x1FFF8 0).g 6) (widthOf .dword) false = none ∧ (dev 0x1FFF8 0).isTimed 17 = false := by
  decide

theorem witness_access_trap_check : CanTrap (dev 0x1FFFF 0).me ∧
    (dev 0x1FFFF 0).checkScalar ((dev 0x1FFFF 0).g 6 + (dev 0x1FFFF 0).imm 0) 8 true = some 0x02 :=
  ⟨dev_can_trap _ _, by decide⟩

theorem witness_access_trap_foreign : CanTrap (world true 0x100040000 0).me ∧
    (world true 0x100040000 0).checkScalar 0x100040000 4 true = none ∧ (world true 0x100040000 0).isTimed 17 = true ∧
      (world true 0x100040000 0).foreign 0x100040000 = true :=
  ⟨world_can_trap _ _ _, by decide⟩

theorem witness_access_trap_atomic : CanTrap (world true 0x1000 0).me ∧
    (world true 0x1000 0).checkScalar 0x1000 4 false = none ∧ (world true 0x1000 0).isTimed 17 = true :=
  ⟨world_can_trap _ _ _, by decide⟩

/-- A part of an access to the last word of core 1's local store, by its own window or by the global one. -/
def lastPart (window queued : Bool) : Part := ⟨0x10003FFFC, 4, 0x55, 0, window, queued⟩

/-- A context that waits for an access of that part. -/
def waiting (kind : AccessKind) (window queued : Bool) (c : Ctx) : Ctx :=
  { c with port := some ⟨0, kind, false, [lastPart window queued], []⟩, nextSerial := 1, wait := .access, status := .waiting }

theorem witness_access_travels :
    (accessesOf ((devOf 0 0 (waiting .store true false)).ctx 17))[0]? =
        some ⟨0, .store, false, [lastPart true false], []⟩ ∧
      mayTravel ((devOf 0 0 (waiting .store true false)).ctx 17) ⟨0, .store, false, [lastPart true false], []⟩ 0 = true ∧
      ((devOf 0 0 (waiting .store true false)).ctx 17).parked = false ∧
      partBanks (lastPart true false) = [0x1000200F0] ∧
      (devOf 0 0 (waiting .store true false)).firewallDrops 1 1 0 = false ∧
      ((devOf 0 0 (waiting .store true false)).core 1).handler.length < 32 := by decide

/-- A state in which that part stands at the head of its bank's queue. -/
def atHead (kind : AccessKind) : State :=
  { devOf 0 0 (waiting kind false true) with banks := [(0x1000200F0, [⟨.access 17 0, 0x10003FFFC, 0⟩])] }

theorem witness_access_performs (kind : AccessKind) :
    AtHead (atHead kind) 0x1000200F0 17 ⟨0, kind, false, [lastPart false true], []⟩ 0 (lastPart false true) ∧
      (lastPart false true).addr < 0x400000000 ∧ 0 < (lastPart false true).size ∧
      Unwatched (atHead kind) (lastPart false true).addr 4 :=
  ⟨⟨rfl, rfl, by decide⟩, by decide, by decide, fun e h => nomatch h⟩

/-! ## Floating point -/

theorem witness_float_dynamic : (dev 0 0).me.rmode.toNat ≤ 4 := by decide

theorem witness_float_reserved_boundary : (devOf 0 0 fun c => { c with rmode := 4 }).me.rmode.toNat ≤ 4 := by decide

theorem witness_root_of_negative :
    (⟨true, 1, 0, false⟩ : Exact).mag ≠ 0 ∧ (⟨true, 1, 0, false⟩ : Exact).neg = true := by decide

theorem witness_rounding : ftyFmt .f32 ∈ formats ∧ (⟨false, 3, -30, false⟩ : Exact).more = false ∧
    ((ftyFmt .f32).round ⟨false, 3, -30, false⟩ .nearest 1).flags.getLsbD 2 = false ∧
      (ftyFmt .f32).value 0x3F800000 = .fin ⟨false, 0x800000, -23, false⟩ := by decide

theorem witness_min_nan_nan :
    (ftyFmt .f32).value (((dev 0x7FC00000 0x7F800001).g 6).toNat % 2 ^ 32) = .nan false ∧
      (ftyFmt .f32).value (((dev 0x7FC00000 0x7F800001).g 7).toNat % 2 ^ 32) = .nan true := by decide

theorem witness_min_nan_number :
    (ftyFmt .f32).value (((dev 0x7FC00000 0).g 6).toNat % 2 ^ 32) = .nan false ∧
      ((ftyFmt .f32).value (((dev 0x7FC00000 0).g 7).toNat % 2 ^ 32)).isNan = false := by decide

theorem witness_cvt_int_int : tyIntRange? .i8 = some (-128, 127) ∧ tyIntRange? .u64 = some (0, 2 ^ 64 - 1) := by decide

theorem witness_cvt_int_float : tyIntRange? .i8 = some (-128, 127) ∧ tyFmt? .f32 = some (ftyFmt .f32) ∧
    (ftyFmt .f32).value 0x7FC00000 = .nan false ∧ (ftyFmt .f32).value 0xFF800000 = .inf true ∧
      (ftyFmt .f32).value 0 = .fin ⟨false, 0, -149, false⟩ := by decide

theorem witness_cvt_float_int : tyFmt? .f32 = some (ftyFmt .f32) ∧ tyIntRange? .i32 = some (-2 ^ 31, 2 ^ 31 - 1) ∧
    intWidens (ftyFmt .f16) (-2 ^ 31, 2 ^ 31 - 1) = false ∧ intWidens (ftyFmt .f16) (-128, 127) = true := by decide

theorem witness_cvt_float_float : fmtWidens (ftyFmt .bf16) (ftyFmt .f16) = false ∧
    fmtWidens (ftyFmt .f16) ⟨4, 3, 7, .onlyNan⟩ = true ∧ (ftyFmt .bf16).value 0x7F80 = .inf false := by decide

theorem witness_fli : tyFmt? .e2m1 = some ⟨2, 1, 1, .none⟩ ∧ (ftyFmt .bf16).value 0x7FC0 = .nan false ∧
    (ftyFmt .bf16).value 0xFF80 = .inf true ∧ (ftyFmt .bf16).value 0x3F80 = .fin ⟨false, 0x80, -7, false⟩ := by decide

/-! ## Vectors -/

theorem witness_vdot4 : (ITy.i32 : ITy) = .i32 := rfl

theorem witness_vcvt_last_part : (3 : Fin 8).val <
    min 8 (512 / (min 64 (512 / max Ty.f32.width Ty.e4m3.width) * min Ty.f32.width Ty.e4m3.width)) := by decide

theorem witness_reduction_empty :
    ((List.range (512 / 32)).filter fun j => ((devOf 0 0 fun c => { c with masks := Vector.replicate 4 0 }).m 1).getLsbD j) = [] := by
  decide

theorem witness_reduction_some : ((List.range (512 / 32)).filter fun j => ((dev 0 0).m 0).getLsbD j) ≠ [] := by decide

theorem witness_reduction_nan : (ftyFmt .f32).value 0x7F800001 = .nan true := by decide

theorem witness_vector_block : Passes (dev 0x1FFC0 0) 64 true [0x1FFC0] ∧
    ((dev 0x1FFC0 0).journalAll 17 (linesOf (dev 0x1FFC0 0) [0x1FFC0])).isSome = true :=
  ⟨fun ea h => by simp at h; subst h; decide, by decide⟩

/-- A context whose mask m1 has the first and the last of sixteen lanes. -/
def twoLanes (c : Ctx) : Ctx := { c with masks := (Vector.replicate 4 (0 : Word)).set 1 0x8001 }

theorem witness_vector_elements :
    elements (devOf 0x1000 0x20 twoLanes) 0x1000 4 4 1 = [(0x1000, 0), (0x103C, 60)] := by decide

theorem witness_vector_elements_pass :
    (devOf 0x1000 0x20 twoLanes).checkScalar 0x1000 4 false = none ∧
      (devOf 0x1000 0x20 twoLanes).checkScalar 0x103C 4 false = none := by decide

theorem witness_vector_no_element : elements (dev 0x1000 0) 0x1000 4 4 1 = [] := by decide

theorem witness_vector_trap : CanTrap (devOf 0x1FFC4 0 twoLanes).me ∧
    (elements (devOf 0x1FFC4 0 twoLanes) 0x1FFC4 0x3C 4 1).map Prod.fst = [0x1FFC4] ++ (0x20348 : Word) :: [] ∧
      (devOf 0x1FFC4 0 twoLanes).checkScalar 0x1FFC4 4 false = none ∧
      (devOf 0x1FFC4 0 twoLanes).checkScalar 0x20348 4 false = some 0x03 :=
  ⟨⟨⟨rfl, rfl⟩, show (0 : Word).getLsbD 1 = false by decide, show (0x400 : Word) &&& 0x1FFFC ≠ 0 by decide, rfl⟩, by decide⟩

theorem witness_vector_trap_foreign : CanTrap (world true 0x100040000 0).me ∧
    (world true 0x100040000 0).checkScalar 0x100040000 64 false = none ∧ (world true 0x100040000 0).foreign 0x100040000 = true :=
  ⟨world_can_trap _ _ _, by decide⟩

/-! ## Engines -/

theorem witness_config_block : (0x1FE00 : Word).toNat % 16 = 0 ∧ (0x1FE00 : Word).toNat + 16 * 32 ≤ 0x20000 ∧
    (after (.mxCfg 6 7) (dev 0x1FE00 32)).me.wait = .access := by decide

theorem witness_config_misaligned : CanTrap (dev 0x1FE08 1).me ∧ ((dev 0x1FE08 1).g 6).toNat % 16 ≠ 0 :=
  ⟨dev_can_trap _ _, by decide⟩

theorem witness_config_outside : CanTrap (dev 0x1FFF0 2).me ∧ ((dev 0x1FFF0 2).g 6).toNat % 16 = 0 ∧
    0x20000 < ((dev 0x1FFF0 2).g 6).toNat + 16 * ((dev 0x1FFF0 2).g 7).toNat ∧
    (after (.mxCfg 6 7) (dev 0x1FFF0 2)).me.xcause = 0x03 :=
  ⟨dev_can_trap _ _, by decide⟩

theorem witness_config_too_many : CanTrap (dev 0x1000 33).me ∧ 32 < ((dev 0x1000 33).g 7).toNat ∧
    (after (.cpCfg 6 7) (dev 0x1000 33)).me.xcause = 0x0B :=
  ⟨dev_can_trap _ _, by decide⟩

/-- The last 16 bytes of a block have come to the head of their bank: MK is to be 32, or a number that is none. -/
def lastEntry (n : Nat) : State :=
  { devOf 0 0 fun c => { c with
      port := some ⟨0, .config false, false, [⟨0x100021000, 16, 0, 0, false, true⟩], []⟩, nextSerial := 1, wait := .access
      status := .waiting, target := 0x1000 } with
    mem := (if n = 0 then [] else [⟨0x100021000, n⟩]) ++ [⟨0x100021008, 0x20⟩]
    banks := [(0x100020000, [⟨.access 17 0, 0x100021000, 0⟩])] }

theorem witness_config_applied :
    AtHead (lastEntry 1) 0x100020000 17 ⟨0, .config false, false, [⟨0x100021000, 16, 0, 0, false, true⟩], []⟩ 0
        ⟨0x100021000, 16, 0, 0, false, true⟩ ∧
      cfgEntryOk false (memBytes (lastEntry 1).mem 0x100021000 16) = true ∧
      ((after (.accessPerform 0x100020000 0) (lastEntry 1)).ctx 17).mx.mkDim = 0x20 :=
  ⟨⟨rfl, rfl, by decide⟩, by decide⟩

theorem witness_config_refused :
    cfgEntryOk false (memBytes (lastEntry 0x0D).mem 0x100021000 16) = false ∧ CanTrap ((lastEntry 0x0D).ctx 17) ∧
      ((after (.accessPerform 0x100020000 0) (lastEntry 0x0D)).ctx 17).xaddr = 0x1000 :=
  ⟨by decide, ⟨⟨rfl, rfl⟩, show (0 : Word).getLsbD 1 = false by decide, show (0x400 : Word) &&& 0x1FFFC ≠ 0 by decide, rfl⟩,
    by decide⟩

theorem witness_engine_register : (mxMask 0x0C).isSome = true ∧ mxMask 0x0D = none ∧ mxMask 0x01 = some 0x1FF ∧
    cpMask 0x16 = some 0xFFFFFFFF := by decide

/-- A job of the context that issues. -/
def job (e : Engine) (f : JobForm) (id : Nat) : Job where
  engine := e
  form := f
  id := BitVec.ofNat 32 id
  seq := id % 2 ^ 28
  order := id % 2 ^ 28
  tid := 17
  thread := 17
  proc := procKey 257 0
  launch := some 257
  region := 1
  timed := false
  handle := 0
  batch := none
  mx := .reset
  cp := .reset
  a := 0x1000
  b := 0x2000
  flags := ⟨.th, false, false⟩
  lvt := 0
  ckseq := 0
  started := true
  row := 0
  grant := .none
  got := []
  held := []
  status := 0
  raised := 0
  fill := 0
  promise := none
  overdue := false
  finished := false
  cancelled := false
  message := []
  awaitAck := false

/-- The device on which the launch runs, with core 1's queues as given. -/
def queues (a b : Word) (mx cp : List Job) : State :=
  { world false a b with cores := [(1, { CoreS.reset 1 with mxQueue := mx, cpQueue := cp })] }

theorem witness_promise : (queues 0x90000001 0 [] [{ job .copy .copy 0x90000001 with promise := some 5000 }]).g 6 = 0x90000001 ∧
    (after (.cpStat 5 6) (queues 0x90000001 0 [] [{ job .copy .copy 0x90000001 with promise := some 5000 }])).g 5 = 5000 := by
  decide

theorem witness_no_promise : ∀ j ∈ ((world false 0x90000001 0).core 1).cpQueue, j.id.toNat ≠ 0x90000001 := by decide

theorem witness_submission_register : CanTrap (worldOf false 0 0 fun c => { c with mx := { MxRegs.reset with mtype := 1 } }).me ∧
    constraintOf (worldOf false 0 0 fun c => { c with mx := { MxRegs.reset with mtype := 1 } }) .zero 0 0 = some (.register 0) :=
  ⟨⟨⟨rfl, rfl⟩, show (0 : Word).getLsbD 1 = false by decide, show (0x400 : Word) &&& 0x1FFFC ≠ 0 by decide, rfl⟩, by decide⟩

theorem witness_submission_operand : CanTrap (world false 256 0).me ∧
    constraintOf (world false 256 0) .zero 256 0 = some (.operand 256) ∧ constraintOf (world false 255 0) .zero 255 0 = none :=
  ⟨world_can_trap _ _ _, by decide⟩

theorem witness_submission_handle : CanTrap (worldOf false 0 0 fun c => { c with mx := { MxRegs.reset with mevt := 1 } }).me ∧
    (worldOf false 0 0 fun c => { c with mx := { MxRegs.reset with mevt := 1 } }).checkHandle 17 1 = some (0x09, 1) :=
  ⟨⟨⟨rfl, rfl⟩, show (0 : Word).getLsbD 1 = false by decide, show (0x400 : Word) &&& 0x1FFFC ≠ 0 by decide, rfl⟩, by decide⟩

theorem witness_submission_range : CanTrap (world false 0x1FFF8 0).me ∧
    constraintOf (world false 0x1FFF8 0) .ld 0x1FFF8 0 = none ∧ (world false 0x1FFF8 0).checkHandle 17 0 = none ∧
    (rangesOf (world false 0x1FFF8 0) .ld 0x1FFF8 0).isSome = true :=
  ⟨world_can_trap _ _ _, by decide⟩

theorem witness_submission_accepted :
    constraintOf (world false 0 0) .zero 0 0 = none ∧ (world false 0 0).checkHandle 17 0 = none ∧
      rangesOf (world false 0 0) .zero 0 0 = none ∧ State.bufferEmpty (world false 0 0).me = true ∧
      (after (.mxZero 5 6 7 ⟨.th, false, false⟩) (world false 0 0)).g 5 = 0x10000001 := by decide

theorem witness_submission_full : State.queueCap .mxe ≤
    (queueOf ((queues 0 0 ((List.range 32).map (job .mxe .zero)) []).core 1) .mxe).length := by decide

theorem witness_submission_drains : State.bufferEmpty
    (worldOf false 0 0 fun c => { c with relaxed := [⟨0, .store, true, [lastPart false false], []⟩] }).me = false := by decide

theorem witness_cancel : (∀ j ∈ ((queues 0x90000001 0 [] [job .copy .copy 0x90000001]).core 1).cpQueue, j.form = .copy) ∧
    (queues 0x90000001 0 [] [job .copy .copy 0x90000001]).isTimed 17 = false ∧
    ((after (.cpCancel 6) (queues 0x90000001 0 [] [job .copy .copy 0x90000001])).core 1).cpQueue.map Job.status = [1] := by decide

theorem witness_cancel_stream :
    ((queues 0x90000001 0 [] [{ job .copy .stream 0x90000001 with b := 1 }]).core 1).cpQueue =
        [{ job .copy .stream 0x90000001 with b := 1 }] ∧
      latchFilled? { job .copy .stream 0x90000001 with b := 1 } = some 1 ∧
      ((queues 0x90000001 0 [] [{ job .copy .stream 0x90000001 with b := 1 }]).core 1).mxQueue = [] ∧
      ((after (.cpCancel 6) (queues 0x90000001 0 [] [{ job .copy .stream 0x90000001 with b := 1 }])).core 1).cpQueue.map Job.status =
        [1] := by decide

theorem witness_cancel_timed : CanTrap (world true 0 0).me ∧ (world true 0 0).isTimed 17 = true := ⟨world_can_trap _ _ _, by decide⟩

/-- The cluster's MXE moves a job of core 1. -/
def moving (g : Grant) : State := queues 0 0 [{ job .mxe .zero 0x10000001 with grant := g }] []

/-- A line that a job reads from an accumulator window of core 1. -/
def lineRead : LineRead := ⟨0x200002000, 0x200002000, 16, false⟩

theorem witness_grant_reads :
    (moving (.reading [lineRead] [])).movingCore? 0 (engineOf 0) = some 1 ∧
      State.openJob? ((moving (.reading [lineRead] [])).core 1) (engineOf 0) =
        some { job .mxe .zero 0x10000001 with grant := .reading [lineRead] [] } ∧
      (after (.engineGrant 0 0 ⟨0, 0⟩) (moving (.reading [lineRead] []))).bank 0x200002000 =
        [⟨.job 1 .mxe 0x10000001, 0x200002000, 0x200002000⟩] := by decide

theorem witness_grant_reads_offchip :
    ([⟨dpaBase, dpaBase, 16, true⟩] : List LineRead)[7 % 1]? = some ⟨dpaBase, dpaBase, 16, true⟩ ∧
      (moving (.reading [⟨dpaBase, dpaBase, 16, true⟩] [])).movingCore? 0 .mxe = some 1 := by decide

theorem witness_grant_waits : (moving (.reading [] [lineRead])).movingCore? 0 .mxe = some 1 ∧
    (moving (.writing [] [.window 0x200002000 ⟨[1, 2], 0, 0⟩])).movingCore? 0 .mxe = some 1 := by decide

theorem witness_grant_computes : (moving (.reading [] [])).movingCore? 0 .mxe = some 1 ∧
    latchRead? { job .mxe .zero 0x10000001 with grant := .reading [] [] } = none := by decide

theorem witness_grant_writes :
    (moving (.writing [.window 0x200002000 ⟨[1, 2], 0, 0⟩] [])).movingCore? 0 .mxe = some 1 ∧
      (after (.engineGrant 0 0 ⟨0, 0⟩) (moving (.writing [.window 0x200002000 ⟨[1, 2], 0, 0⟩] []))).bank 0x200002000 =
        [⟨.job 1 .mxe 0x10000001, 0x200002000, 0x200002000⟩] := by decide

/-- A line of a job that stands at the head of its bank's queue. -/
def lineAtHead (g : Grant) : State :=
  { moving g with banks := [(0x200002000, [⟨.job 1 .mxe 0x10000001, 0x200002000, 0x200002000⟩])] }

theorem witness_line_read : ((lineAtHead (.reading [] [lineRead])).bank 0x200002000).head? =
      some ⟨.job 1 .mxe 0x10000001, 0x200002000, 0x200002000⟩ ∧
    ((queueOf ((lineAtHead (.reading [] [lineRead])).core 1) .mxe).find? fun x => x.id == 0x10000001) =
      some { job .mxe .zero 0x10000001 with grant := .reading [] [lineRead] } ∧
    ([lineRead].find? fun r => r.addr == 0x200002000 && r.name == 0x200002000) = some lineRead := by decide

theorem witness_line_write : memGet 0x200002001
    (after (.accessPerform 0x200002000 0) (lineAtHead (.writing [] [.window 0x200002000 ⟨[1, 2], 0, 0⟩]))).mem = 2 := by decide

theorem witness_grant_writes_no_table :
    Unwatched (lineAtHead (.writing [] [.window 0x200002000 ⟨[1, 2], 0, 0⟩])) 0x200002000 2 := by
  intro e h r hr
  simp [lineAtHead, moving, queues, world] at h
  subst h
  have none : rankTable? ((8589942784 - 4294967296) / 2 ^ 17) (launch false) = none := by decide
  have apart : ∀ q ∈ reservedArea? ((8589942784 - 4294967296) / 2 ^ 17) (launch false),
      8589942784 + 2 ≤ q.1 ∨ q.1 + q.2 ≤ 8589942784 := by decide
  rcases hr with hr | hr
  · exact absurd (none.symm.trans hr) (by simp)
  · exact apart r hr

/-- A translation of page 0 of an empty root. -/
def pageOf : Translation := ⟨0, false, 0, 0, true, 0, false⟩

theorem witness_grant_defers :
    ({ queues 0 0 [] [{ job .copy .copy 0x90000001 with timed := true, grant := .writing [.offchip 0 pageOf ⟨[1], 0, 0⟩] [] }] with
        now := 5 }).movingCore? 0 (engineOf 1) = some 1 := by decide

theorem witness_grant_ends : (moving (.writing [] [])).movingCore? 0 .mxe = some 1 ∧
    ((after (.engineGrant 0 0 ⟨0, 0⟩) (moving (.writing [] []))).core 1).mxQueue.map Job.finished = [true] := by decide

theorem witness_copy_grant_ends :
    (queues 0 0 [] [{ job .copy .copy 0x90000001 with grant := .writing [] [] }]).movingCore? 0 (engineOf 1) = some 1 ∧
      inSendWindow 0x2000 = false := by decide

theorem witness_grant_starts : (moving .none).movingCore? 0 .mxe = none ∧ (moving .none).pickCore 0 .mxe = some (1, 1) ∧
    1 = coreInCluster 0 1 ∧ State.openJob? ((moving .none).core 1) .mxe = some (job .mxe .zero 0x10000001) ∧
    State.latchMismatch ((moving .none).core 1) (job .mxe .zero 0x10000001) = false := by decide

theorem witness_arbiter_none : (world false 0 0).pickCore 0 .mxe = none := by decide

theorem witness_integer_step : tyFmt? (tyOfCode (mxTc { MxRegs.reset with mtype := 0 })) = none := by decide

theorem witness_float_step : tyFmt? (tyOfCode (mxTc MxRegs.reset)) = some (ftyFmt .f32) ∧ mxBlocks MxRegs.reset = false ∧
    (ftyFmt .f32).value 0x3F800000 = .fin ⟨false, 0x800000, -23, false⟩ := by decide

theorem witness_stream :
    (State.openJob? ((queues 0 0 [] [{ job .copy .stream 0x90000001 with started := false, b := 1 }]).core 1) .copy).map Job.form =
        some .stream ∧
      (queues 0 0 [] [{ job .copy .stream 0x90000001 with started := false, b := 1 }]).jobRuns
        { job .copy .stream 0x90000001 with started := false, b := 1 } = true ∧
      (queues 0 0 [] [{ job .copy .stream 0x90000001 with started := false, b := 1 }]).released
        { job .copy .stream 0x90000001 with started := false, b := 1 } = true ∧
      (latchOf ((queues 0 0 [] [{ job .copy .stream 0x90000001 with started := false, b := 1 }]).core 1) 1).state = .empty ∧
      (latchOf ((after (.streamStart 1) (queues 0 0 [] [{ job .copy .stream 0x90000001 with started := false, b := 1 }])).core 1) 1).state =
        .filling := by decide

theorem witness_completion :
    State.mayComplete (queues 0 0 [{ job .mxe .zero 0x10000001 with finished := true }] []) 1
        { job .mxe .zero 0x10000001 with finished := true } = true ∧
      ((queues 0 0 [{ job .mxe .zero 0x10000001 with finished := true }] []).launch? 257).map Launch.phase = some .running ∧
      ((after (.jobComplete 1 0) (queues 0 0 [{ job .mxe .zero 0x10000001 with finished := true }] [])).core 1).mxQueue = [] := by
  decide

theorem witness_failure :
    ((after (.jobComplete 1 1) (queues 0 0 [] [{ job .copy .copy 0x90000001 with finished := true, status := 2 }])).ctx 17).late.map
      LateTrap.cause = [0x11] := by decide

theorem witness_overdue :
    Overdue { queues 0 0 [] [{ job .copy .copy 0x90000001 with promise := some 5 }] with now := 6 }
      { job .copy .copy 0x90000001 with promise := some 5 } :=
  ⟨rfl, rfl, by decide, 5, rfl, by decide⟩

theorem witness_send_acknowledged :
    ({ queues 0 0 [] [{ job .copy .copy 1 with awaitAck := true }] with uetOut := [.peerSend 0 1 1 0 0 1 1 []] }).uetOut.any
      (isSendOf 1 1) = true := by decide

/-! ## Events: forms and offers -/

theorem witness_event_new : ((world false 0x1FFC0 0).g 6).toNat % 16 = 0 ∧ ((world false 0x1FFC0 0).g 6).toNat + 64 ≤ 0x20000 ∧
    (world false 0x1FFC0 0).isTimed 17 = false ∧ ((world false 0x1FFC0 0).launchOf 17).isSome = true := by decide

theorem witness_event_new_misaligned : CanTrap (world false 0x1008 0).me ∧ ((world false 0x1008 0).g 6).toNat % 16 ≠ 0 :=
  ⟨world_can_trap _ _ _, by decide⟩

theorem witness_event_new_outside : CanTrap (world false 0x1FFD0 0).me ∧ ((world false 0x1FFD0 0).g 6).toNat % 16 = 0 ∧
    0x20000 < ((world false 0x1FFD0 0).g 6).toNat + 64 :=
  ⟨world_can_trap _ _ _, by decide⟩

theorem witness_event_new_timed : CanTrap (world true 0x1000 0).me ∧ (world true 0x1000 0).isTimed 17 = true :=
  ⟨world_can_trap _ _ _, by decide⟩

theorem witness_event_new_bare : CanTrap (dev 0x1000 0).me ∧ (dev 0x1000 0).launchOf 17 = none := ⟨dev_can_trap _ _, by decide⟩

theorem witness_event_free : (world false 0x100001 0).coreOfLogical? 17 (0x100001 / 2 ^ 20) = some 2 ∧
    (world false 0xFFF00001 0).coreOfLogical? 17 (0xFFF00001 / 2 ^ 20) = none := by decide

/-- A channel between the two processes of the launch. -/
def channel (timed : Bool) : Descriptor := ⟨0, timed, false, 0, 0, 16, 0, [(0, 17, 1), (1, 33, 2)]⟩

/-- An arbiter entry that holds it. -/
def entryOf (timed : Bool) : ArbEntry :=
  { ArbEntry.free with state := .live, gen := 1, space := 1, launch := 257, desc := channel timed }

/-- The launch with the channel live in entry 0 of core 1, and the sender's choice entry at 0x1000 of its local store. -/
def channels (timed : Bool) (b : Word) (f : ArbEntry → ArbEntry) : State :=
  { world timed 0x1000 b with
    cores := [(1, { CoreS.reset 1 with arb := [(0, f (entryOf timed))] })]
    mem := [⟨0x100021000, 1⟩, ⟨0x100021004, 1⟩, ⟨0x100021006, 16⟩, ⟨0x100021009, 0x20⟩] ++
      if timed then [⟨0x100021018, 5⟩] else [] }

/-- The sender's choice entry. -/
def sending (timed : Bool) : OfferEntry :=
  ⟨1, 1, 0, 1, 1, false, 16, 0x2000, 0, 0, if timed then 5 else 0, timed, false⟩

theorem witness_offer_entries : (match checkOffer (channels false 0 id) 17 .single 0x1000 with
    | .entries es => decide (es = [sending false]) | .trap _ _ => false) = true := by decide

theorem witness_offer_entries_timed : (match checkOffer (channels true 0 id) 17 .single 0x1000 with
    | .entries es => decide (es = [sending true]) | .trap _ _ => false) = true := by decide

theorem witness_offer : CanOffer (channels false 0 id) ∧ (channels false 0 id).unsettled 17 = false ∧
    NoOpenBatch (channels false 0 id) ∧ (after (.offer1 5 6) (channels false 0 id)).net.length = 1 :=
  ⟨⟨by decide, by decide, by decide⟩, by decide, by
    intro cl b h
    simp [State.cluster, channels, world, State.reset, tableGet, tableFind, ClusterS.reset] at h, by decide⟩

theorem witness_offer_due : ∃ t, checkOffer (channels false 0 id) 17 .timed 0x1000 = .entries [sending false] ∧
    t = ((channels false 0 id).g 7).toNat ∧ t ≤ (channels false 0 id).now := ⟨0, by decide, by decide, by decide⟩

theorem witness_offer_trap : CanTrap (channels false 0 fun e => { e with gen := 2 }).me ∧
    checkOffer (channels false 0 fun e => { e with gen := 2 }) 17 .single 0x1000 = .trap 0x09 1 :=
  ⟨⟨⟨rfl, rfl⟩, show (0 : Word).getLsbD 1 = false by decide, show (0x400 : Word) &&& 0x1FFFC ≠ 0 by decide, rfl⟩, by decide⟩

theorem witness_offer_settles : ({ channels true 0 id with procs := [(procKey 257 0, { process 0 17 with lvt := 3 })] }).unsettled 17 =
    true := by decide

theorem witness_offer_away : (worldOf false 0 0 fun c => { c with away := true, home := 49 }).me.away = true ∧
    State.bufferEmpty (worldOf false 0 0 fun c => { c with away := true, home := 49 }).me = true := by decide

theorem witness_offer_stop_point : ({ world true 0 0 with launches := [(257, { launch true with phase := .stopping })] }).atStopPoint 17 =
    true := by decide

theorem witness_offer_spawned : checkOffer (worldOf false 0x1000 0 fun c => { c with spawned := true }) 17 .single 0x1000 =
    .trap 0x07 0x1000 := by decide

theorem witness_offer_range : checkOffer (world false 0 0) 17 .list 0x1008 = .trap 0x02 0x1008 ∧
    checkOffer (world false 0 0) 17 .list 0x20000 = .trap 0x03 0x20000 := by decide

/-! ## Events: their entries, slots and occurrences -/

/-- A packet as the only one of the network. -/
def arriving (p : Packet) (s : State) : State := { s with net := [p] }

/-- The state in which it has arrived. -/
def arrived (p : Packet) (s : State) : State := (arriving p s).takePacket 0 p

theorem arrives (p : Packet) (s : State) (h : (arriving p s).mayArrive 0 p = true) :
    Arrives (arriving p s) 0 p (arrived p s) := ⟨rfl, h, rfl⟩

/-- The channel's packets between cores 1 and 2. -/
def toHome (b : Body) : Packet := packet .request 2 1 (some 5) b
def toMember (b : Body) : Packet := packet .reply 1 2 (some 5) b

theorem witness_packet_timed :
    (arriving { toHome (.evFree 33 0) with timed := some (257, true, 3) } (world true 0 0)).mayArrive 0
      { toHome (.evFree 33 0) with timed := some (257, true, 3) } = true ∧
    ((arrived { toHome (.evFree 33 0) with timed := some (257, true, 3) } (world true 0 0)).reduction 1 257).recvRed = 1 := by
  decide

theorem witness_event_request :
    (arriving (toHome (.evNew 33 0 true (channel false) 1 257 1)) (world false 0 0)).mayArrive 0
        (toHome (.evNew 33 0 true (channel false) 1 257 1)) = true ∧
      (arrived (toHome (.evNew 33 0 true (channel false) 1 257 1)) (world false 0 0)).freeEntry? 1 = some 0 ∧
      (arrived (toHome (.evNew 33 0 true (channel false) 1 257 1)) (world false 0 0)).arbAllows 1 1 = true ∧
      ((after (.evNewRequest 0) (arriving (toHome (.evNew 33 0 true (channel false) 1 257 1)) (world false 0 0))).entry 1 0).gen =
        1 := by decide

theorem witness_event_request_refused :
    ((arrived (toHome (.evNew 33 0 false (channel false) 1 257 1)) (channels false 0 id)).entry 1 0).state ≠ .free ∧
      ((after (.evNewRequest 0) (arriving (toHome (.evNew 33 0 false (channel false) 1 257 1)) (channels false 0 id))).net.map
        Packet.body) = [.evNewAnswer 33 0] := by decide

/-- The process of rank 1 waits for its home's answer. -/
def asking : State := (world false 0 0).modCtx 33 fun c => { c with wait := .home, status := .waiting, dest := 5 }

theorem witness_event_answer :
    ((arrived (toMember (.evNewAnswer 33 7)) asking).ctx 33).wait = .home ∧
      ((after (.evNewAnswer 0) (arriving (toMember (.evNewAnswer 33 7)) asking)).ctx 33).g 5 = 7 := by decide

theorem witness_event_free_stale :
    (arrived (toHome (.evFree 33 0x100001)) (channels false 0 fun e => { e with gen := 2 })).liveEntry? 33 0x100001 = none := by
  decide

theorem witness_event_free_live :
    (arrived (toHome (.evFree 33 1)) (channels false 0 id)).liveEntry? 33 1 = some (1, 0, 1) ∧
      bindingsOf (arrived (toHome (.evFree 33 1)) (channels false 0 id)) (keyRegion 257) = [] ∧
      ((after (.evFreeRequest 0) (arriving (toHome (.evFree 33 1)) (channels false 0 id))).entry 1 0).state = .draining := by decide

theorem witness_entry_freed :
    ((channels false 0 fun e => { e with state := .draining }).entry 1 0).state = .draining ∧
      ((channels false 0 fun e => { e with state := .draining }).entry 1 0).current = none ∧
      (channels false 0 fun e => { e with state := .draining }).net.any (ofEntry 1 0 1) = false ∧
      ((after (.entryFreed 1 0) (channels false 0 fun e => { e with state := .draining })).entry 1 0).state = .free := by decide

/-- The header of rank r for the channel. -/
def header (r tid vt : Nat) : Header := ⟨r, tid, 0, vt, 0⟩

theorem witness_header_stale :
    ((arrived (toHome (.header 0 1 (header 1 33 0))) (channels false 0 fun e => { e with gen := 2 })).entry 1 0).gen ≠ 1 ∧
      ((after (.offerHeader 0) (arriving (toHome (.header 0 1 (header 1 33 0)))
        (channels false 0 fun e => { e with gen := 2 }))).core 1).stalecnt = 1 := by decide

theorem witness_header_last :
    allHeaders { entryOf false with headers := [header 0 17 0, header 1 33 0] } = true ∧
      standingReady { entryOf false with headers := [header 0 17 0, header 1 33 0] } = true ∧
      ((after (.offerHeader 0) (arriving (toHome (.header 0 1 (header 1 33 0)))
        (channels false 0 fun e => { e with headers := [header 0 17 0] }))).entry 1 0).resolution = .claiming 0 [] [0, 1] false := by
  decide

theorem witness_header_first :
    allHeaders { entryOf false with headers := [header 1 33 0] } = false ∧
      ((after (.offerHeader 0) (arriving (toHome (.header 0 1 (header 1 33 0))) (channels false 0 id))).entry 1 0).headers =
        [header 1 33 0] := by decide

theorem witness_header_timed :
    ∃ q ∈ (entryOf true).desc.parties, ∀ x ∈ [header 1 33 5], x.rank ≠ q.1 := ⟨(0, 17, 1), by decide, by decide⟩

theorem witness_header_shadow :
    ((after (.offerHeader 0) (arriving (toHome (.header 0 1 (header 1 33 0)))
      (channels false 0 fun e => { e with shadows := [header 1 33 0] }))).entry 1 0).shadows = [] := by decide

/-- The channel, and an event of entry 1 with the same participants, of some loss counts. -/
def rivalling (loss rival : Nat) : State :=
  { world false 0 0 with cores := [(1, { CoreS.reset 1 with
      arb := [(0, { entryOf false with loss := loss, headers := [header 0 17 0, header 1 33 0] }),
        (1, { entryOf false with loss := rival, headers := [header 0 17 0, header 1 33 0] })] })] }

theorem witness_header_bound :
    (rivalling 8 8).keepsBound 1 0 { entryOf false with loss := 8, headers := [header 0 17 0, header 1 33 0] } = true ∧
    (rivalling 8 9).keepsBound 1 0 { entryOf false with loss := 8, headers := [header 0 17 0, header 1 33 0] } = true := by
  decide

/-- The slot of rank 1 with the offer of the channel in a state. -/
def offering (timed : Bool) (st : OfferState) (f : ArbEntry → ArbEntry) : State :=
  (channels timed 0 f).modCtx 33 fun c => { c with
    wait := .offer, status := .waiting
    offer := { OfferSlot.none with
      state := st, dest := 5, entries := [⟨1, 1, 0, 1, 2, false, 0, 0, 0x3000, 16, if timed then 5 else 0, timed, false⟩] } }

theorem witness_claim_open :
    ((arrived (toMember (.claim 33 ⟨1, 0, 1, 0, 0, 0⟩)) (offering false .opened id)).ctx 33).offer.state = .opened ∧
      ((after (.claim 0) (arriving (toMember (.claim 33 ⟨1, 0, 1, 0, 0, 0⟩)) (offering false .opened id))).ctx 33).offer.state =
        .locked 1 0 0 := by decide

theorem witness_claim_unlisted :
    ((after (.claim 0) (arriving (toMember (.claim 33 ⟨1, 1, 1, 0, 0, 0⟩)) (offering false .opened id))).net.map Packet.body) =
      [.refuse 1 1 33 0] := by decide

theorem witness_claim_closed :
    ((after (.claim 0) (arriving (toMember (.claim 33 ⟨1, 0, 1, 0, 0, 0⟩)) (offering false .closed id))).net.map Packet.body) =
        [.refuse 0 1 33 0] ∧
      ((after (.claim 0) (arriving (toMember (.claim 33 ⟨1, 0, 1, 0, 0, 0⟩)) (offering false (.committed 0) id))).net.map Packet.body) =
        [.refuse 0 1 33 0] := by decide

theorem witness_claim_locked :
    ((after (.claim 0) (arriving (toMember (.claim 33 ⟨1, 0, 1, 0, 0, 0⟩)) (offering false (.locked 3 0 0) id))).ctx 33).offer.queued =
      [⟨1, 0, 1, 0, 0, 0⟩] := by decide

theorem witness_claim_locked_unlisted :
    ((after (.claim 0) (arriving (toMember (.claim 33 ⟨1, 0, 1, 0, 0, 7⟩)) (offering false (.locked 3 0 0) id))).net.map Packet.body) =
      [.refuse 0 1 33 0] := by decide

/-- The channel's resolution claims, with the ranks granted and those still to claim. -/
def claiming (timed : Bool) (done rest : List Nat) (e : ArbEntry) : ArbEntry :=
  { e with
    resolution := .claiming 0 done rest false, loss := 3, nextNumber := 1
    headers := [header 0 17 (if timed then 5 else 0), header 1 33 (if timed then 5 else 0)] }

theorem witness_grant_next :
    ((after (.claimAnswer 0) (arriving (toHome (.grant 0 1 17 0)) (channels false 0 (claiming false [] [0, 1])))).entry 1 0).resolution =
      .claiming 0 [0] [1] false := by decide

theorem witness_grant_last :
    (arrived (toHome (.grant 0 1 33 0)) (channels false 0 (claiming false [0] [1]))).mayCommit (claiming false [0] [1] (entryOf false)) =
        true ∧
      State.awaited (claiming false [0] [1] (entryOf false)) ≠ 0 ∧
      ((after (.claimAnswer 0) (arriving (toHome (.grant 0 1 33 0)) (channels false 0 (claiming false [0] [1])))).entry 1 0).loss = 0 := by
  decide

theorem witness_grant_stopping :
    State.mayCommit { channels true 0 (claiming true [0] [1]) with launches := [(257, { launch true with phase := .stopping })] }
      (claiming true [0] [1] (entryOf true)) = false := by decide

theorem witness_grant_gone :
    allHeaders { claiming false [0] [1] (entryOf false) with headers := [header 0 17 0] } = false ∧
      ((after (.claimAnswer 0) (arriving (toHome (.grant 0 1 33 0)) (channels false 0 fun e =>
        { claiming false [0] [1] e with headers := [header 0 17 0] }))).net.map Packet.body) =
        [.release 17 1 0 1 0, .release 33 1 0 1 0] := by decide

theorem witness_refusal :
    ((after (.claimAnswer 0) (arriving (toHome (.refuse 0 1 33 0)) (channels false 0 (claiming false [0] [1])))).entry 1 0).loss = 4 := by
  decide

theorem witness_refusal_idle :
    allHeaders { claiming false [0] [1] (entryOf false) with headers := [header 0 17 0] } = false ∧
      ((after (.claimAnswer 0) (arriving (toHome (.refuse 0 1 33 0)) (channels false 0 fun e =>
        { claiming false [0] [1] e with headers := [header 0 17 0] }))).entry 1 0).resolution = .idle := by decide

theorem witness_late_grant :
    ((after (.claimAnswer 0) (arriving (toHome (.grant 0 1 33 7)) (channels false 0 (claiming false [0] [1])))).net.map Packet.body) =
      [.release 33 1 0 1 7] := by decide

theorem witness_commit :
    ((arrived (toMember (.commit 33 1 0 1 0 0)) (offering false (.locked 1 0 0) id)).ctx 33).offer.state = .locked 1 0 0 ∧
      ((after (.commitNotice 0) (arriving (toMember (.commit 33 1 0 1 0 0)) (offering false (.locked 1 0 0) id))).ctx 33).offer.state =
        .committed 0 := by decide

theorem witness_commit_timed :
    State.checkpointFree (arrived (toMember (.commit 33 1 0 1 5 0)) (offering true (.locked 1 0 0) id)) 33 = true ∧
      ((after (.commitNotice 0) (arriving (toMember (.commit 33 1 0 1 5 0)) (offering true (.locked 1 0 0) id))).proc (procKey 257 1)).lvt =
        5 := by decide

theorem witness_commit_waits :
    State.checkpointFree ((offering true (.locked 1 0 0) id).modCtx 33 fun c => { c with ckpos := 4 * 2 ^ 16 }) 33 = false := by decide

theorem witness_release :
    ((after (.slotRelease 0) (arriving (toMember (.release 33 3 0 1 0)) ((offering false (.locked 3 0 0) id).modCtx 33 fun c =>
      { c with offer := { c.offer with queued := [⟨1, 0, 1, 2, 0, 0⟩] } }))).ctx 33).offer.state = .locked 1 0 0 := by decide

theorem witness_release_open :
    ((after (.slotRelease 0) (arriving (toMember (.release 33 1 0 1 0)) (offering false (.locked 1 0 0) id))).ctx 33).offer.state =
      .opened := by decide

theorem witness_release_refuses :
    ((after (.slotRelease 0) (arriving (toMember (.release 33 3 0 1 0)) ((offering false (.locked 3 0 0) id).modCtx 33 fun c =>
      { c with offer := { c.offer with queued := [⟨1, 1, 1, 2, 0, 0⟩] } }))).net.map Packet.body) = [.refuse 1 1 33 0] := by decide

/-- The same, with a deadline that has come. -/
def due (st : OfferState) : State := { (offering false st id).modCtx 33 fun c => { c with
  offer := { c.offer with deadline := some 5 } } with now := 5 }

theorem witness_timeout : ((due .opened).ctx 33).offer.deadline = some 5 ∧ ((due .opened).ctx 33).parked = false ∧
    ((after (.offerTimeout 33) (due .opened)).ctx 33).g 5 = BitVec.allOnes 64 := by decide

theorem witness_timeout_locked : ((after (.offerTimeout 33) (due (.locked 1 0 0))).ctx 33).offer.timedOut = true := by decide

theorem witness_withdrawal_claimed :
    allHeaders (claiming false [0] [1] (entryOf false)) = true ∧
      ((after (.headerWithdrawal 0) (arriving (toHome (.withdraw 0 1 1 0 0 .commit))
        (channels false 0 (claiming false [0] [1])))).entry 1 0).loss = 4 := by decide

theorem witness_withdrawal_idle :
    ((after (.headerWithdrawal 0) (arriving (toHome (.withdraw 0 1 1 0 0 .timeout))
      (channels false 0 fun e => { e with headers := [header 1 33 0] }))).entry 1 0).headers = [] := by decide

theorem witness_withdrawal_early :
    ((after (.headerWithdrawal 0) (arriving (toHome (.withdraw 0 1 1 0 0 .timeout)) (channels false 0 id))).entry 1 0).shadows =
      [header 1 33 0] := by decide

theorem witness_header_gone_last :
    CanTrap ((offering false .opened id).ctx 33) ∧
      ((after (.headerWithdrawal 0) (arriving (toMember (.headerGone 33 1 0 1)) (offering false .opened id))).ctx 33).xcause = 0x09 :=
  ⟨⟨⟨rfl, rfl⟩, show (0 : Word).getLsbD 1 = false by decide, show (0x400 : Word) &&& 0x1FFFC ≠ 0 by decide, rfl⟩, by decide⟩

theorem witness_header_gone_other :
    (((after (.headerWithdrawal 0) (arriving (toMember (.headerGone 33 1 7 1)) (offering false .opened id))).ctx 33).offer.entries.map
      OfferEntry.gone) = [false] := by decide

/-- An occurrence of the channel in progress. -/
def occurring (cs : List (Nat × List Byte)) (ws : List (Nat × Nat × Nat × List Byte)) (e : ArbEntry) : ArbEntry :=
  { e with resolution := .moving, nextNumber := 1, current := some ⟨0, 0, 0, [], none, cs, ws, 0⟩ }

theorem witness_contribution_last :
    State.awaited (occurring [] [] (entryOf false)) = 1 ∧
      ((after (.combineContribution 0 1) (arriving (toHome (.contribution 0 1 0 [(0, [7, 8])])) (channels false 0 (occurring [] [])))).net.map
        Packet.body) = [.payload 33 1 0 1 0] := by decide

/-- The entry of a router whose core sends to the home, with what has come there. -/
def relay (received : List Nat) : Combining :=
  ⟨1, 0, 1, 1, ⟨[2, 3], received, 0, received.map fun x => (x, [])⟩, ⟨[], [], 0, []⟩, ⟨[2, 3], [], 0, []⟩, ⟨[], [], 0, []⟩⟩

/-- A device in which a contribution from core 2 stands in the network and core 2's router has that entry. -/
def relaying (received : List Nat) : State :=
  { channels false 0 (occurring [] []) with
    cores := [(1, { CoreS.reset 1 with arb := [(0, occurring [] [] (entryOf false))] }),
      (2, { CoreS.reset 2 with combining := [relay received] })]
    net := [toHome (.contribution 0 1 0 [(1, [7])])] }

theorem witness_contribution_router :
    State.routePorts 2 1 = [(2, 2), (1, 2)] ∧ awaitsAt (relaying []) 1 0 1 0 (2, 2) = true ∧
      ((((after (.combineContribution 0 2) (relaying [])).core 2).combining.map fun k => (k.up 0).received) = [[2]]) ∧
      ((after (.combineContribution 0 2) (relaying [3])).net.map Packet.src) = [2] := by decide

/-- A contribution has come to the home's own router, whose entry awaits one port or two. -/
def relayingHome (ports : List Nat) : State :=
  { channels false 0 (occurring [] []) with
    cores := [(1, { CoreS.reset 1 with
      arb := [(0, { occurring [] [] (entryOf false) with desc := { channel false with kind := 1, parties := [(0, 17, 0), (1, 33, 0)] } })]
      combining := [{ relay [] with upEven := ⟨ports, [], 0, []⟩ }] })]
    net := [toHome (.contribution 0 1 0 [(1, [7])])] }

theorem witness_contribution_home : awaitsAt (relayingHome [2]) 1 0 1 0 (2, 2) = false ∧
    awaitsAt (relayingHome [2]) 1 0 1 0 (1, 2) = true ∧
    1 ≠ State.awaited ((relayingHome [2]).entry 1 0) ∧
    ((after (.combineContribution 0 1) (relayingHome [2])).entry 1 0).current.map Occurrence.contributions = some [(1, [7])] ∧
    (after (.combineContribution 0 1) (relayingHome [2, 3])).net = [] := by decide

/-- A payload on its way to the second participant. -/
def payload (timed : Bool) (bs : List Byte) : State :=
  arriving (toMember (.payload 33 1 0 1 0))
    (offering timed (.committed 0) (occurring [] [(33, 1, 0, bs)]))

theorem witness_payload_last :
    (payload false [7, 8]).mayArrive 0 (toMember (.payload 33 1 0 1 0)) = true ∧
      memGet (localKey 2 0x3001) (after (.payloadArrival 0) (payload false [7, 8])).mem = 8 ∧
      (after (.payloadArrival 0) (payload false [7, 8])).net = [] := by decide

theorem witness_payload_line :
    (after (.payloadArrival 0) (payload false (List.replicate 17 7))).net.length = 1 := by decide

theorem witness_payload_timed :
    (payload true [7, 8]).isTimed 33 = true ∧ ((payload true [7, 8]).journal 33 0x3000).isSome = true := by decide

theorem witness_payload_waits :
    ((payload true [7, 8]).modCtx 33 fun c => { c with ckpos := 2 ^ 16, jring := 0x6000 + 2 ^ 32 }).journal 33 0x3000 = none := by decide

theorem witness_circuit :
    (after (.streamCircuit 0) (arriving (toHome (.contribution 0 1 0 [(1, [])])) ((offering false (.committed 0) fun e =>
      { e with desc := { channel false with size := 1024 } }).modCtx 33 fun c =>
        { c with offer := { c.offer with entries := c.offer.entries.map fun x => { x with stream := true } } }))).circuits =
      [(2, 1)] := by decide

/-- Both participants have closed their slots on the channel, and its bytes are written. -/
def occurs : State :=
  (offering false (.committed 0) (occurring [(0, [])] [])).modCtx 17 fun c => { c with
    wait := .offer, status := .waiting
    offer := { OfferSlot.none with state := .committed 0, dest := 6, entries := [sending false] } }

theorem witness_occurrence :
    State.awaited (occurs.entry 1 0) ≤ 1 ∧ occurs.participantsReady 1 0 (occurs.entry 1 0) = true ∧
      ((occurs.entry 1 0).desc.parties.map fun p => p.2.1).Nodup ∧ ((after (.eventOccur 1 0) occurs).ctx 33).offer = OfferSlot.none := by
  decide

/-! ## Virtual time, threads, messages, traps and control registers -/

/-- The process of rank 0 with an LVT above GVT. -/
def ahead (f : Launch → Launch) : State :=
  { world true 3 0 with procs := [(procKey 257 0, { process 0 17 with lvt := 3 })], launches := [(257, f (launch true))] }

/-- The launch stops. -/
def stopping (l : Launch) : Launch := { l with phase := .stopping }

/-- The launch is in wrap-up. -/
def wrapping (timed : Bool) (a b : Word) : State :=
  { world timed a b with launches := [(257, { launch timed with phase := .wrapped })] }

theorem witness_unsettled : (ahead id).unsettled 17 = true ∧ (ahead id).atStopPoint 17 = false ∧
    (ahead stopping).unsettled 17 = true ∧ (ahead stopping).atStopPoint 17 = true ∧
    (after .settle (ahead id)).me.wait = .settle ∧ (after .settle (ahead stopping)).me.wrapStop = true := by decide

theorem witness_settled : (world true 0 0).unsettled 17 = false ∧ (world true 0 0).isTimed 17 = true ∧
    (world true 0 0).me.held ≠ some .settle ∧
    ((after .settle (world true 0 0)).launch? 257).map Launch.requested = some true ∧
    ({ ahead id with ctxs := [(17, { member true 0 17 3 0 with held := some .settle })] } : State).me.held = some .settle := by decide

theorem witness_vt_set : ((ahead id).g 6).toNat ≠ 2 ^ 64 - 1 ∧
    ((after (.vtSet 6) (world true 9 0)).proc (procKey 257 0)).lvt = 9 := by decide

theorem witness_vt_set_last : CanTrap (world true (BitVec.allOnes 64) 0).me ∧
    ((world true (BitVec.allOnes 64) 0).g 6).toNat = 2 ^ 64 - 1 := ⟨world_can_trap _ _ _, by decide⟩

theorem witness_gvt : (world false 0 0).isTimed 17 = false ∧ (world true 0 0).isTimed 17 = true ∧
    (world true 0 0).launchOf 17 = some 257 ∧ (dev 0 0).launchOf 17 = none := by decide

theorem witness_wrap : (world true 0 0).unsettled 17 = false ∧ ((world true 0 0).launch? 257).map Launch.phase = some .running ∧
    ((after .wrap (world true 0 0)).launch? 257).map Launch.phase = some .stopping ∧
    ((after .wrap (world false 0 0)).launch? 257).map Launch.phase = some .wrapped := by decide

theorem witness_wrap_again : (wrapping true 0 0).unsettled 17 = false ∧
    ((wrapping true 0 0).launch? 257).map Launch.phase = some .wrapped := by decide

theorem witness_wrap_done : (wrapping false 5 0).inWrapUp 17 = true ∧ (wrapping false 5 0).atStopPoint 17 = false ∧
    State.bufferEmpty (wrapping false 5 0).me = true ∧
    ((after (.wrapDone 6) (wrapping false 5 0)).launch? 257).map Launch.mask = some 5 := by decide

/-- The context that issues has a relaxed store outstanding. -/
def undrained (c : Ctx) : Ctx := { c with relaxed := [⟨0, .store, true, [lastPart false false], []⟩] }

theorem witness_wrap_done_drains :
    State.bufferEmpty ({ worldOf false 5 0 undrained with launches := [(257, { launch false with phase := .wrapped })] } : State).me =
        false ∧
      ({ worldOf false 5 0 undrained with launches := [(257, { launch false with phase := .wrapped })] } : State).inWrapUp 17 = true := by
  decide

theorem witness_halt : State.bufferEmpty (ahead id).me = true ∧ (after .halt (ahead id)).me.wait = .settle ∧
    (after .halt (ahead stopping)).me.wrapStop = true ∧ (world false 0 0).unsettled 17 = false ∧
    (after .halt (world false 0 0)).me.status = .empty := by decide

theorem witness_halt_away : (worldOf false 0 0 fun c => { c with away := true, home := 49 }).me.away = true := by decide

theorem witness_spawn : (world false 0x200 0).freeSlotOf? 1 = some 2 ∧ ((world false 0x200 0).core 1).embers = [] ∧
    (world false 0x200 0).me.proc ≠ State.bareKey 18 ∧ (after (.spawn 5 6 7) (world false 0x200 9)).g 5 = 18 ∧
    ((after (.spawn 5 6 7) (world false 0x200 9)).ctx 18).g 3 = 9 := by decide

theorem witness_spawn_behind : ((after (.spawn 5 6 7) { world false 0x200 9 with cores := [(1, { CoreS.reset 1 with
      embers := [⟨procKey 257 1, false, 33, .g8, 0x104, 1, List.replicate 8 5, 0, 0, 0, 0, 0x400, 0, [], [], none, none, [], 49⟩] })] }).g 5) =
    19 := by decide

theorem witness_spawn_traps : CanTrap (world false 0x201 0).me ∧ ((world false 0x201 0).g 6).toNat % 4 ≠ 0 ∧
    CanTrap (world true 0x200 0).me ∧ (world true 0x200 0).isTimed 17 = true :=
  ⟨world_can_trap _ _ _, by decide, world_can_trap _ _ _, by decide⟩

theorem witness_spawn_limit : ({ world false 0x200 0 with procs := [(procKey 257 0, { process 0 17 with live := 2 })] } : State).proc
    (procKey 257 0) = { process 0 17 with live := 2 } ∧ (process 0 17).spawnLimit ≤ 2 := by decide

theorem witness_spawn_slots : ({ world false 0x200 0 with
    ctxs := (List.range 15).map fun k => (17 + k, { member false 0 17 0x200 0 with home := 17 + k }) } : State).freeSlotOf? 1 = none := by
  decide

theorem witness_mig : (world false 0x100040000 0).checkWindow 0x100040000 = none ∧
    ((decodeAddr 0x100040000).owner? 1).getD 1 = 2 ∧ (world false 0x100040000 0).inWrapUp 17 = false ∧
    (after (.mig 6 .g8) (world false 0x100040000 0)).me.wait = .mig := by decide

theorem witness_mig_own : ((decodeAddr 0x100020000).owner? 1).getD 1 = 1 ∧ (world false 0x100020000 0).checkWindow 0x100020000 = none := by
  decide

theorem witness_mig_traps : CanTrap (world false 0x120000000 0).me ∧ (world false 0x120000000 0).checkWindow 0x120000000 = some 0x03 ∧
    CanTrap (world true 0x100040000 0).me ∧ (world true 0x100040000 0).checkWindow 0x100040000 = none :=
  ⟨world_can_trap _ _ _, by decide, world_can_trap _ _ _, by decide⟩

/-- The words of a message. -/
def wordsOf (is : List Instr) : List (BitVec 32) := is.map fun i => (encode i).getD 0

/-- A message block at 0x1000 of core 1 with some words, for which the context gives its target and the block. -/
def sender (a : Word) (ws : List (BitVec 32)) (f : Ctx → Ctx) : State :=
  { worldOf false a 0x1000 f with mem := memWrite 0x100021000 (ws.flatMap fun w => bytesOfNat 4 w.toNat) [] }

/-- The message that adds its two data words and answers with the sum. -/
def summing : List (BitVec 32) := wordsOf [.add 5 3 4, .reply 5]

theorem witness_message : (sender 0x100040000 summing id).checkWindow 0x100040000 = none ∧
    (checkedWords ((sender 0x100040000 summing id).messageWords 1 0x1000)).all inCarrierSubset = true ∧
    (sender 0x100040000 summing id).isTimed 17 = false ∧ (sender 0x100040000 summing id).me.hasRoom false ∧
    (after (.msg 5 6 7) (sender 0x100040000 summing id)).me.wait = .msg :=
  ⟨by decide, by decide, by decide, fun h => Bool.noConfusion h, by decide⟩

theorem witness_message_relaxed : (sender 0x100040000 summing relaxed).me.hasRoom true ∧
    (after (.msg 5 6 7) (sender 0x100040000 summing relaxed)).me.relaxedMsgs = [(0, 0x100040000)] := ⟨fun _ => by decide, by decide⟩

theorem witness_message_full : 8 ≤ (sender 0x100040000 summing fun c =>
    { relaxed c with relaxedMsgs := List.replicate 8 (0, 0) }).me.relaxedMsgs.length := by decide

theorem witness_message_target : CanTrap (world false 0x20000 0x1000).me ∧
    (world false 0x20000 0x1000).checkWindow 0x20000 = some 0x03 := ⟨world_can_trap _ _ _, by decide⟩

theorem witness_message_block : CanTrap (world false 0x100040000 0x1008).me ∧ (0x1008 : Word).toNat % 16 ≠ 0 ∧
    CanTrap (world false 0x100040000 0x1FFF0).me ∧ 0x20000 < (0x1FFF0 : Word).toNat + 32 :=
  ⟨world_can_trap _ _ _, by decide, world_can_trap _ _ _, by decide⟩

theorem witness_message_words : CanTrap (world false 0x100040000 0x1000).me ∧
    (checkedWords ((world false 0x100040000 0x1000).messageWords 1 0x1000)).all inCarrierSubset = false :=
  ⟨world_can_trap _ _ _, by decide⟩

theorem witness_message_timed : CanTrap (world true 0x100040000 0x1FFE0).me ∧ (world true 0x100040000 0x1FFE0).isTimed 17 = true :=
  ⟨world_can_trap _ _ _, by decide⟩

theorem witness_rsync : State.bufferEmpty (devOf 0 0 fun c => { c with msgFaults := [(2, 8), (1, 7)] }).me = true ∧
    CanTrap (devOf 0 0 fun c => { c with msgFaults := [(2, 8), (1, 7)] }).me ∧ (∀ x ∈ ([] : List (Nat × Word)), 2 ≤ x.1) ∧
    (after .rsync (devOf 0 0 fun c => { c with msgFaults := [(2, 8), (1, 7)] })).me.xaddr = 7 :=
  ⟨by decide, ⟨⟨rfl, rfl⟩, show (0 : Word).getLsbD 1 = false by decide, show (0x400 : Word) &&& 0x1FFFC ≠ 0 by decide, rfl⟩,
    by decide, by decide⟩

theorem witness_rsync_drains : State.bufferEmpty (devOf 0 0 undrained).me = false ∧
    (after .rsync (devOf 0 0 undrained)).me.wait = .drain := by decide

theorem witness_prefixes : (dev 0 0).me.pfx.first = none ∧ (dev 0 0).me.pfx.ext = none ∧
    CanTrap (devOf 0 0 fun c => { c with pfx := ⟨some 0x100, true, some 0x10⟩ }).me :=
  ⟨by decide, by decide, ⟨rfl, rfl⟩, show (0 : Word).getLsbD 1 = false by decide, show (0x400 : Word) &&& 0x1FFFC ≠ 0 by decide, rfl⟩

theorem witness_trap_drains : State.bufferEmpty ((devOf 0 0 undrained).ctx 17) = false := by decide

theorem witness_trap_away : (worldOf false 0 0 fun c => { c with away := true, home := 49 }).me.away = true ∧
    (worldOf false 0 0 fun c => { c with away := true, home := 49 }).me.xvec &&& 0x1FFFC ≠ 0 := by decide

theorem witness_double_trap : (worldOf false 0 0 fun c => { c with xstat := 2 }).me.xstat.getLsbD 1 = true ∧
    (worldOf false 0 0 fun c => { c with xstat := 2 }).launchOf 17 = some 257 ∧
    (((after (.brk 1) (worldOf false 0 0 fun c => { c with xstat := 2 })).launch? 257).map Launch.stopCause) = some 0x18 := by decide

theorem witness_no_handler : (worldOf false 0 0 fun c => { c with xvec := 0 }).me.xvec &&& 0x1FFFC = 0 ∧
    (((after (.brk 1) (worldOf false 0 0 fun c => { c with xvec := 0 })).launch? 257).map Launch.stopCause) = some 0x0E := by decide

theorem witness_rett : (devOf 0 0 fun c => { c with xstat := 7, xpc := 0x203 }).me.xstat >>> 4 = 0 ∧
    (after .rett (devOf 0 0 fun c => { c with xstat := 7, xpc := 0x203 })).me.pc = 0x200 := by decide

theorem witness_rett_reserved : (devOf 0 0 fun c => { c with xstat := 0x12 }).me.xstat >>> 4 ≠ 0 ∧
    (devOf 0 0 fun c => { c with xstat := 6 }).me.xstat.getLsbD 0 = false ∧ (devOf 0 0 fun c => { c with xstat := 6 }).launchOf 17 = none ∧
    (devOf 0 0 fun c => { c with xstat := 6 }).isSystem 1 = false ∧
    (((after .rett (worldOf false 0 0 fun c => { c with xstat := 6 })).launch? 257).map Launch.stopCause) = some 0x19 := by decide

theorem witness_rett_system : (({ dev 0 0 with ctxs := [(497, { ctxOf 0 0 with xstat := 0x12 })], cur := 497 } : State)).isSystem 31 = true ∧
    (({ dev 0 0 with ctxs := [(497, { ctxOf 0 0 with xstat := 0x12 })], cur := 497 } : State)).launchOf 497 = none ∧
    (after .rett { dev 0 0 with ctxs := [(497, { ctxOf 0 0 with xstat := 0x12 })], cur := 497 }).uetOut = [.firmwareFault 31 0x19] := by decide

theorem witness_rett_outside : (dev 0 0).me.xstat.getLsbD 1 = false ∧ CanTrap (dev 0 0).me := ⟨by decide, dev_can_trap _ _⟩

/-- A context at system level. -/
def system (a : Word) : State := devOf a 0 fun c => { c with xstat := 1 }

theorem witness_levels : (dev 0 0).isPrivileged 17 = false ∧ (system 0).isPrivileged 17 = true := by decide

theorem witness_no_register : ∀ x ∈ readable (dev 0 0) ++ ringRegisters (dev 0 0), (0x006 : BitVec 10).toNat ≠ x.1 := by decide

theorem witness_no_write : (∀ x ∈ writable (system 0), (0x001 : BitVec 10).toNat ≠ x.1) ∧ ∃ x ∈ readable (system 0), x.1 = 0x001 :=
  ⟨by intro x h; simp only [writable, List.mem_cons, List.not_mem_nil, or_false] at h; rcases h with h | h | h | h | h | h | h | h | h | h | h | h | h <;> subst h <;> decide,
    (0x001, _), List.mem_cons_self, rfl⟩

theorem witness_reserved_mode : CanTrap (dev 8 0).me ∧ 8 ≤ ((dev 8 0).g 6).toNat ∧ ((dev 4 0).g 6).toNat < 8 :=
  ⟨dev_can_trap _ _, by decide, by decide⟩

theorem witness_write_xstat : (system 0xF).isPrivileged 17 = true ∧ (after (.crw 6 0x101) (system 0xF)).me.xstat.getLsbD 2 = true := by
  decide

/-! ## The handler, embers, and traps without a word -/

/-- Core 1 has that message at the head of its queue, or runs a word of it. -/
def handling (running : Option Nat) (ws : List (BitVec 32)) : State :=
  { dev 0 0 with cores := [(1, { CoreS.reset 1 with
      handler := if running.isNone then [.message ⟨ws, 3, 4, 0, 33, 0, false⟩] else []
      running := running.map fun n => (⟨ws, 3, 4, 0, 33, 0, false⟩, n) })] }

theorem witness_message_starts : ((handling none summing).core 1).running = none ∧
    ((after (.carrierMessage 1) (handling none summing)).ctx 16).g 5 = 7 ∧
    ((after (.carrierMessage 1) (after (.carrierMessage 1) (handling none summing))).net.map Packet.body) =
      [.msgReply 33 0 false (some 7) false] := by decide

/-- The handler of core 1 takes a load of the process of rank 1, or has taken one before a message's word. -/
def takenAccess (running : Option Nat) : State :=
  { world false 0 0 with
    ctxs := [(33, { member false 1 33 0 0 with
      port := some ⟨0, .load 9 false, false, [⟨0x100021000, 8, 0, 0, true, true⟩], []⟩ })]
    banks := if running.isSome then [(bankOf 0x100021000, [⟨.access 33 0, 0x100021000, 0⟩])] else []
    cores := [(1, { CoreS.reset 1 with
      handler := if running.isSome then [] else [.access ⟨.access 33 0, 0x100021000, 0⟩]
      running := running.map fun n => (⟨summing, 3, 4, 0, 33, 0, false⟩, n) })] }

theorem witness_message_access_goes_on :
    ((takenAccess none).queuedPart? 33 0 0x100021000 0).isSome = true ∧
    (after (.carrierMessage 1) (takenAccess none)).bank (bankOf 0x100021000) = [⟨.access 33 0, 0x100021000, 0⟩] ∧
    (takenAccess (some 0)).fromHandler ⟨.access 33 0, 0x100021000, 0⟩ = true := by decide

theorem witness_message_computes : computes (.add 5 3 4) = true ∧ decodeWord (summing.getD 0 0) = .ok (.add 5 3 4) ∧
    decodeWord (summing.getD 1 0) = .ok (.reply 5) := by decide

theorem witness_message_undecodable : (decodeWord (([] : List (BitVec 32)).getD 0 0)).toOption = none := by decide

theorem witness_message_access : ∃ x ∈ handlerAccesses { handling (some 0) [] with cur := 16 } 5 6 8 false 0 .dword,
      x.2.2.2.2.1.toNat + x.2.2.1 ≤ 0x20000 ∧ x.2.2.2.2.1.toNat % x.2.2.1 = 0 :=
  ⟨_, List.mem_append_left _ (List.mem_append_left _ (List.mem_append_left _ List.mem_cons_self)), by decide⟩

theorem witness_message_other : computes (.brk 1) = false := by decide

/-- The process of rank 1 waits for the end of a message. -/
def inMessage : State := (world false 0 0).modCtx 33 fun c => { c with wait := .msg, status := .waiting, dest := 5 }

theorem witness_reply_value : ((arrived (toMember (.msgReply 33 0 false (some 7) false)) inMessage).ctx 33).wait = .msg ∧
    ((after (.msgReply 0) (arriving (toMember (.msgReply 33 0 false (some 7) false)) inMessage)).ctx 33).g 5 = 7 := by decide

theorem witness_reply_fault :
    ((after (.msgReply 0) (arriving (toMember (.msgReply 33 0 false none true)) inMessage)).ctx 33).xcause = 0x0C := by decide

theorem witness_reply_relaxed :
    ((after (.msgReply 0) (arriving (toMember (.msgReply 33 0 true none true))
      ((world false 0 0).modCtx 33 fun c => { c with relaxedMsgs := [(0, 9)] }))).ctx 33).msgFaults = [(0, 9)] := by decide

/-- The process of rank 1 waits for the end of its last relaxed message, at which it traps. -/
def drained : State := (world false 0 0).modCtx 33 fun c => { c with
  relaxedMsgs := [(0, 9)], trapping := some ⟨0x0D, false, 0x104, 7, 0⟩, wait := .drain, status := .waiting }

theorem witness_reply_drains : State.bufferEmpty { (drained.ctx 33) with relaxedMsgs := [] } = true ∧
    ((after (.msgReply 0) (arriving (toMember (.msgReply 33 0 true none false)) drained)).ctx 33).xcause = 0x0D := by decide

/-- A thread in transit. -/
def ember (home : Nat) (tr : Option TrapRec) : Ember :=
  ⟨procKey 257 1, false, home, .g8, 0x104, 1, List.replicate 8 5, 0, 0, 0, 0, 0x400, 0, [], [], tr, none, [], 49⟩

theorem witness_ember_home :
    ((after (.emberArrival 0) (arriving (toMember (.ember (ember 33 none))) (world false 0 0))).ctx 33).g 1 = 5 ∧
    ((after (.emberArrival 0) (arriving (toMember (.ember (ember 33 (some ⟨0x0D, false, 0x104, 7, 0⟩)))) (world false 0 0))).ctx 33).xaddr =
      7 := by decide

theorem witness_ember_queue :
    ((after (.emberArrival 0) (arriving (toMember (.ember (ember 17 none))) (world false 0 0))).core 2).embers.length = 1 := by decide

/-- The arrival queue of core 2 is full, and its spill ring has some places. -/
def crowded (places : Nat) : State :=
  { world false 0 0 with cores := [(2, { CoreS.reset 2 with embers := List.replicate 8 (ember 17 none), spillSize := places })] }

theorem witness_ember_spill :
    ((after (.emberArrival 0) (arriving (toMember (.ember (ember 17 none))) (crowded 1))).core 2).spill.length = 1 ∧
    ((after (.emberArrival 0) (arriving (toMember (.ember (ember 17 none))) (crowded 0))).core 2).waiting.length = 1 := by decide

theorem witness_ember_ring : ((crowded 1).spillRing? 2).isSome = true ∧ (crowded 1).spillRing? 3 = none ∧
    ({ crowded 1 with cores := [(2, { CoreS.reset 2 with waiting := [ember 17 none] })] } : State).spillRing? 2 =
      (crowded 1).spillRing? 2 := by decide

theorem witness_ember_accept :
    ((after (.migAccept 0) (arriving (toMember (.migAccept 33)) ((world false 0 0).modCtx 33 fun c =>
      { c with wait := .mig, status := .waiting }))).ctx 33).status = .reserved := by decide

theorem witness_ember_admit : (crowded 0).freeSlotOf? 2 = some 2 ∧ (crowded 0).senderWaits (ember 17 none) = false ∧
    (crowded 0).colourRuns ((crowded 0).emberColour (ember 17 none)) = true ∧
    ((after (.emberAdmit 2) (crowded 0)).ctx 34).away = true := by decide

/-- Core 2 has a free place in its queue, with an ember in its ring or one that waits, and no free slot. -/
def movingUp (spill waiting : List Ember) : State :=
  { world false 0 0 with
    ctxs := (List.range 15).map fun k => (33 + k, { member false 1 33 0 0 with home := 33 + k })
    cores := [(2, { CoreS.reset 2 with embers := [ember 17 none], spill := spill, waiting := waiting, spillSize := 4 })] }

theorem witness_ember_moves_up : (movingUp [] []).freeSlotOf? 2 = none ∧
    ((after (.emberAdmit 2) (movingUp [ember 49 none] [])).core 2).embers.length = 2 ∧
    ((after (.emberAdmit 2) (movingUp [] [ember 49 none])).core 2).embers.length = 2 ∧
    ((after (.emberAdmit 2) (movingUp [] [ember 49 none])).net.map Packet.body) = [.migAccept 49] := by decide

theorem witness_ember_sender :
    ((crowded 0).modCtx 49 fun _ => { member false 1 33 0 0 with
      away := true, home := 17, wait := .mig, status := .waiting }).senderWaits (ember 17 none) =
      true ∧ (ember 17 none).source ≠ 34 := by decide

/-- The context with a late trap or two, or diverted. -/
def stands (f : Ctx → Ctx) (timed : Bool) : State := worldOf timed 0 0 f

theorem witness_late_trap :
    ((after (.lateTrap 17) (stands (fun c => { c with late := [⟨0x10, 1, 0, 1, 0⟩, ⟨0x11, 0x90000002, 2, 1, 0⟩, ⟨0x11, 0x90000001, 1, 1, 0⟩] })
      false)).me.xaddr = 0x90000001) ∧
    CanTrap (stands (fun c => { c with late := [⟨0x10, 1, 0, 1, 0⟩] }) false).me :=
  ⟨by decide, ⟨rfl, rfl⟩, show (0 : Word).getLsbD 1 = false by decide, show (0x400 : Word) &&& 0x1FFFC ≠ 0 by decide, rfl⟩

theorem witness_divert : (∀ timed, ((stands (fun c => { c with divert := true }) timed).launchRec? 17).map (fun l => l.spec.timed) =
      some timed) ∧
    ∀ timed, (after (.lateTrap 17) (stands (fun c => { c with divert := true }) timed)).me.pc = 0x200 := by decide

theorem witness_no_late_trap : State.alive (stands id false).me = true ∧ (stands id false).me.late = [] := by decide

theorem witness_illegal : fetchAt (dev 0 0) 17 = .illegal ∧ (dev 0 0).me.held = none ∧
    (after (.illegalInstruction 17) (dev 0 0)).me.xcause = 0x01 := by decide

theorem witness_unmapped : 0x20000 ≤ (devOf 0 0 fun c => { c with pc := 0x20000 }).me.pc.toNat ∧
    (after (.unmappedFetch 17) (devOf 0 0 fun c => { c with pc := 0x20000 })).me.xcause = 0x03 := by decide

theorem witness_legal : fetchAt { dev 0 0 with mem := memWrite 0x100020100 [1, 0, 0x29, 0x58] [] } 17 = .word (.jalr 1 9) := by decide

/-! ## Rollback, GVT, the end of launches and errors -/

/-- The process of rank 1 stands after an occurrence at VT 5, whose checkpoint its ring holds: it offered at 0x204 with LVT 4. -/
def advanced (sent : List Sent) : State :=
  let c := member true 1 33 0 0
  { world true 0 0 with
    ctxs := [(17, member true 0 17 0 0), (33, { c with ckpos := 2 ^ 16, ckseq := 1 })]
    procs := [(procKey 257 0, process 0 17),
      (procKey 257 1, { process 1 33 with lvt := 5, occs := [⟨0, 5, 0, 1, 0, 1, 0, [⟨1, 0, 5⟩], none⟩], sent := sent })]
    cores := [(1, { CoreS.reset 1 with arb := [(0, entryOf true)] })]
    mem := [⟨localKey 2 0x4000, 4⟩, ⟨localKey 2 0x4001, 2⟩, ⟨localKey 2 0x4008, 4⟩] }

theorem witness_straggler :
    (arrived (toMember (.straggler 33 1 0 1 3 0 1)) (advanced [])).proc (procKey 257 1) =
        { process 1 33 with lvt := 5, occs := [⟨0, 5, 0, 1, 0, 1, 0, [⟨1, 0, 5⟩], none⟩] } ∧
      precedes 3 0 1 5 0 ((advanced []).handleOf 1 0 ((advanced []).entry 1 0)) = true ∧
      ((advanced []).ctx 33).status = .ready ∧ memWf (advanced []).mem = true ∧ ((advanced []).ctx 33).ringsWritten = false ∧
      ((advanced []).core 2).spoiled = false ∧
      ((after (.stragglerClaim 0) (arriving (toMember (.straggler 33 1 0 1 3 0 1)) (advanced []))).ctx 33).pc = 0x204 ∧
      ((after (.stragglerClaim 0) (arriving (toMember (.straggler 33 1 0 1 3 0 1)) (advanced []))).proc (procKey 257 1)).lvt = 4 := by
  decide +kernel

theorem witness_straggler_late : precedes 6 0 1 5 0 ((advanced []).handleOf 1 0 ((advanced []).entry 1 0)) = false := by decide

theorem witness_anti_occurrence :
    ((advanced [⟨0, 1, 0, 1, 5⟩]).proc (procKey 257 1)).occs.map (fun o => decide (o.home = 1 ∧ o.entry = 0 ∧ o.number = 0)) = [true] ∧
      ((advanced [⟨0, 1, 0, 1, 5⟩]).proc (procKey 257 1)).sent.map Sent.seq = [0] ∧
      ((after (.antiMessage 0) (arriving (toMember (.antiOccurrence 33 1 0 1 0)) (advanced [⟨0, 1, 0, 1, 5⟩]))).net.map Packet.body) =
        [.antiHeader 0 1 1 5] := by decide +kernel

theorem witness_anti_occurrence_none :
    ∀ o ∈ ((offering true (.locked 1 0 0) id).proc (procKey 257 1)).occs, ¬ (o.home = 1 ∧ o.entry = 0 ∧ o.number = 0) := by decide

theorem witness_anti_header :
    ((after (.antiMessage 0) (arriving (toHome (.antiHeader 0 1 1 5))
      (channels true 0 fun e => { e with headers := [header 1 33 5] }))).entry 1 0).headers = [] ∧
    ((after (.antiMessage 0) (arriving (toHome (.antiHeader 0 1 1 5))
      (channels true 0 fun e => { e with shadows := [header 1 33 5] }))).entry 1 0).shadows = [] := by decide

/-- An occurrence of the channel that is past. -/
def occurred : Occurrence := ⟨0, 5, 2, [header 0 17 5, header 1 33 5], none, [], [], 0⟩

theorem witness_anti_header_occurred :
    (([] : List Occurrence) ++ [occurred]).find? (fun o => o.headers.any fun h => h.rank == 1 && h.vt == 5) = some occurred ∧
      [occurred].find? (fun x => x.number == occurred.number) = some occurred ∧
      ((after (.antiMessage 0) (arriving (toHome (.antiHeader 0 1 1 5))
        (channels true 0 fun e => { e with past := [occurred], nextNumber := 1 }))).entry 1 0).loss = 2 := by decide +kernel

theorem witness_anti_payload :
    ((after (.antiMessage 0) (arriving (toHome (.antiPayload 0 1 0 1)) (channels true 0 (occurring [(1, [7])] [])))).entry 1 0).current.map
      Occurrence.contributions = some [] := by decide

theorem witness_journal : jLen { member true 1 33 0 0 with jpos := 3 * 2 ^ 32 } = 64 ∧
    jTail { member true 1 33 0 0 with jpos := 3 * 2 ^ 32 } = 3 := by decide

/-- The same launches on a device whose firmware runs on core 4: it combines GVT reports. -/
def serviced (timed : Bool) (f : Launch → Launch) : State :=
  { world timed 0 0 with
    config := { ConfigTable.reset with roles := [(4, 3), (5, 2)] }, launches := [(257, f (launch timed))], now := 2000 }

theorem witness_gvt_round : (serviced true id).gvtService? = some 4 ∧ (launch true).lastRound + 2000 ≤ (serviced true id).now ∧
    (serviced true id).colourRuns ((serviced true id).launchColour 257) = true ∧
    (after (.gvtRoundStart 257) (serviced true id)).net.length = 2 := by decide

theorem witness_gvt_start :
    ((after (.gvtStartPacket 0) (arriving (packet .control 4 1 none (.gvtStart 257 1)) (serviced true id))).net.map Packet.body) =
        [.gvtReport 257 1 1 (some 1) 0 1] ∧
      ((after (.gvtStartPacket 0) (arriving (packet .control 4 1 none (.gvtPass 257 1 2)) (serviced true id))).net.map Packet.body) =
        [.gvtReport 257 1 2 (some 1) 0 1] := by decide +kernel

/-- The root has combined the report of one core. -/
def combining (sum : Int) (cores : Nat) : State :=
  { serviced true (fun l => { l with round := some 1, pass := 1, nextRound := 2 }) with
    cores := [(4, { CoreS.reset 4 with gvtStages := [⟨257, some 7, sum, cores⟩] })] }

theorem witness_gvt_report :
    ((combining 0 1).core 4).fwctl.getLsbD 3 = true ∧
      ((after (.gvtPassReport 0 4) (arriving (packet .control 2 4 none (.gvtReport 257 1 1 (some 9) 0 1)) (combining 0 0))).core 4).gvtStages =
        [⟨257, some 7, 0, 1⟩] ∧
      ((after (.gvtPassReport 0 4) (arriving (packet .control 2 4 none (.gvtReport 257 1 1 (some 9) 0 1)) (combining 0 1))).net.map
        Packet.body) = [.gvtResult 257 6, .gvtResult 257 6] ∧
      ((after (.gvtPassReport 0 4) (arriving (packet .control 2 4 none (.gvtReport 257 1 1 (some 9) 1 1)) (combining 0 1))).net.map
        Packet.body) = [.gvtPass 257 1 2, .gvtPass 257 1 2] := by decide

theorem witness_gvt_report_firewall :
    ((({ combining 0 0 with cores := [(4, { CoreS.reset 4 with fwctl := 0x14 })] } : State)).core 4).fwctl.getLsbD 3 = false := by
  decide

theorem witness_gvt_result :
    ((after (.gvtResult 0) (arriving (packet .control 4 1 none (.gvtResult 257 6)) (serviced true id))).reduction 1 257).gvt = 6 := by
  decide +kernel

theorem witness_gvt_result_out : ({ serviced true id with groups := [(5, { Group.none with phase := .out })] } : State).colourRuns
    ((serviced true id).launchColour 257) = false := by decide

theorem witness_gvt_cut : ((after (.gvtPassReport 0 4) (arriving (packet .control 2 4 none (.gvtReport 257 1 1 (some 9) 0 1))
    { combining 0 1 with launches := [(257, { launch true with round := some 1, pass := 1, nextRound := 2, cutRound := some 1 })] })).launch?
      257).map Launch.cutVt = some (some 6) := by decide

/-- Core 1 defers an off-chip write at LVT 5. -/
def deferring (gvt : Nat) : State :=
  { world true 0 0 with cores := [(1, { CoreS.reset 1 with
      deferred := [⟨.write 0x90000001 0x200000 pageOf ⟨[7], 0, 0⟩, 5, procKey 257 0, 1, 17, 1⟩]
      reductions := [(257, { Reduction.reset with gvt := gvt })] })] }

theorem witness_deferred : (deferring 5).gvtAt 1 (procKey 257 0) = 5 ∧ ((after (.deferredAction 1) (deferring 5)).core 1).deferred = [] ∧
    ((after (.deferredAction 1) (deferring 4)).core 1).deferred.length = 1 := by decide

/-- The page table of region 1: one page of 2 MiB, which the image and the record stand in. -/
def paged (s : State) : State :=
  { s with
    regions := [(0, region0), (1, { region1 with root := 0x10008 })]
    mem := memWrite (dpaBase + 0x10000) [3] (memWrite (dpaBase + 0x10008) [3, 0, 0x20] s.mem) }

theorem witness_page : translate? (paged (world false 0 0)).mem ((paged (world false 0 0)).rootOf 1) 0x1000000100000 = some 0x300000 := by
  decide

theorem witness_wrap_up : (launch true).phase = .running ∧
    ((after (.wrapUp 257) { world true 0 0 with now := 80000 }).launch? 257).map Launch.phase = some .stopping ∧
    ((after (.wrapUp 257) { world false 0 0 with now := 80000 }).launch? 257).map Launch.wrapTime = some 80000 ∧
    ((after (.wrapUp 257) { world true 0 0 with now := 79999 }).launch? 257).map Launch.phase = some .running := by decide +kernel

/-- Both processes of a stopping launch have reached their stop points. -/
def atStop (f : Launch → Launch) : State :=
  { serviced true (fun l => f (stopping l)) with
    ctxs := [(17, { member true 0 17 0 0 with wrapStop := true, status := .waiting }),
      (33, { member true 1 33 0 0 with wrapStop := true, status := .waiting })] }

theorem witness_cut : (∀ tid ∈ (atStop id).threadsOf 257, ((atStop id).ctx tid).wrapStop = true) ∧
    (atStop id).colourRuns ((atStop id).launchColour 257) = true ∧
    ((after (.wrapupCut 257) (atStop id)).launch? 257).map Launch.cutRound = some (some 1) := by decide +kernel

theorem witness_cut_waits : (after (.wrapupCut 257) (atStop fun l => { l with cutRound := some 1 })).launch? 257 =
    (atStop fun l => { l with cutRound := some 1 }).launch? 257 := by decide +kernel

theorem witness_cut_found :
    ((after (.wrapupCut 257) (atStop fun l => { l with cutRound := some 1, cutVt := some 7 })).launch? 257).map Launch.wrapvt = some 7 ∧
    ((after (.wrapupCut 257) (atStop fun l => { l with cutRound := some 1, cutVt := some 7 })).launch? 257).map Launch.phase =
      some .wrapped := by decide +kernel

theorem witness_overrun :
    ((after (.deadlineOverrun 257) { paged (wrapping false 0 0) with now := 100000 }).launch? 257).map Launch.stopStatus = some 2 ∧
    ((paged (wrapping false 0 0)).group ((paged (wrapping false 0 0)).colourOf 1)).phase = .running := by decide +kernel

theorem witness_completes : ({ paged (world false 0 0) with ctxs := [] } : State).launchOver 257 = true ∧
    (paged (world false 0 0)).launchOver 257 = false ∧
    (after (.launchComplete 257) { paged (world false 0 0) with ctxs := [] }).launch? 257 = none := by decide +kernel

theorem witness_error_core : ((world false 0 0).occupant? 1).map Launch.seq = some 1 ∧ (world false 0 0).occupant? 3 = none ∧
    ((after (.uncorrectableError 2 1) (world false 0 0)).launch? 257).map Launch.stopCause = some 0x1A ∧
    (after (.uncorrectableError 2 3) (world false 0 0)).dead = true := by decide +kernel

theorem witness_error_packet : (arriving (toMember (.migAccept 33)) (world false 0 0)).groupLaunches 5 = [(257, launch false)] ∧
    (arriving (toMember (.migAccept 33)) (world false 0 0)).net.map Packet.colour = [some 5] ∧
    (arriving (packet .control 4 1 none (.gvtResult 257 6)) (world false 0 0)).net.map Packet.colour = [none] := by decide +kernel

theorem witness_error_access : ((({ world false 0 0 with banks := [(bankOf 0x100021000, [⟨.access 17 0, 0x100021000, 0⟩])] } : State).bank
      (bankOf 0x100021000)).head?.map QueuedPart.source) = some (.access 17 0) ∧ ownerOfKey 0x100021000 = 1 := by decide

theorem witness_error_frame : dpaBase ≤ dpaBase + 0x30000 ∧ dpaMapped 0x30000 = true ∧
    (after (.uncorrectableError 0 (dpaBase + 0x30000)) (world false 0 0)).fuses.retiredFrames = [3] := by decide +kernel

/-! ## Translation, ports and time -/

/-- A fault record on its way to the pager. -/
def faulting : Packet := packet .control 0 5 none (.faultRecord 0x10000 0x10008 0x90000001 0 0 1 1 true false [])

theorem witness_fault_record :
    ((after (.faultRecord 0) (arriving faulting (serviced false id))).core 5).faultQueue.length = 1 ∧
      ((serviced false id).core 5).fwctl.getLsbD 2 = true ∧
      (({ CoreS.reset 5 with fwctl := 0x18 } : CoreS).fwctl.getLsbD 2) = false := by decide

theorem witness_pager : (serviced false id).isPager 5 = true ∧ (serviced false id).isPager 4 = false ∧
    ((after (.fqheadWrite 5 3) (serviced false id)).core 5).fqhead = 3 ∧
    ((after (.freplyWrite 5 0x10000) (serviced false id)).net.map Packet.body) = [.faultReply 0 0 1 0] ∧
    ((after (.freplyWrite 5 0x300000000) (serviced false id)).core 5).fwdrop = 1 := by decide

theorem witness_system_core : (world false 0 0).isSystem 31 = true ∧ (world false 0 0).isSystem 1 = false ∧
    ((after (.tcinvRootWrite 31 0x10008) (world false 0 0)).core 31).tcinvRoot = 0x10008 := by decide

/-- A copy of core 1 whose grant moves with page 3 held. -/
def copying (g : Grant) : State :=
  queues 0 0 [] [{ job .copy .copy 0x90000001 with grant := g, held := [⟨0x10008, false, 3, 0x30000, true, 0x10000, true⟩] }]

theorem witness_page_held : (∃ e ∈ (copying (.reading [] [])).cores, ∃ j ∈ e.2.cpQueue, ∃ x y, j.grant = .reading x y) ∧
    ∀ e ∈ (copying .none).cores, ∀ j ∈ e.2.cpQueue, j.grant = .none :=
  ⟨⟨_, List.mem_cons_self, _, List.mem_cons_self, _, _, rfl⟩, by decide⟩

theorem witness_page_deferred : ∃ c ∈ (deferring 5).allCores, ∃ d ∈ c.deferred, ∃ job dpa data,
    d.action = .write job dpa pageOf data :=
  ⟨_, List.mem_cons_self, _, List.mem_cons_self, _, _, _, rfl⟩

/-- The front end waits for the reply to a fault of its own in slot 0 of cluster 0. -/
def fetchingSlot : State := { world false 0 0 with frontFaults := [⟨0, 0, 0, 0x10008, 0x20, false, none⟩] }

theorem witness_fault_reply :
    tableGet (2 ^ 16) 0 ((copying (.faulted (some 0))).cluster 0).slots = 2 ^ 16 ∧
      1 ∈ (List.range 8).map (coreInCluster 0) ∧
      ((copying (.faulted (some 0))).core 1).cpQueue.map (fun j => decide (j.grant = .faulted (some 0))) = [true] ∧
      ∀ outcome < 3, (((after (.faultReply 0) (arriving (packet .control 5 0 none (.faultReply 0 0 1 outcome))
        { copying (.faulted (some 0)) with clusters := [(0, { (copying .none).cluster 0 with slots := [(0, 1)] })] })).core 1).cpQueue.map
          Job.status) = [if outcome = 0 then 0 else outcome + 1] := by decide

theorem witness_fault_reply_front :
    (after (.faultReply 0) (arriving (packet .control 5 0 none (.faultReply 0 0 0 1)) { fetchingSlot with
      clusters := [(0, { fetchingSlot.cluster 0 with slots := [(0, 0)] })] })).frontFaults.map FrontFault.outcome = [some 1] := by decide

theorem witness_ports_open : PortsOpen (world false 0 0) := ⟨rfl, rfl, by decide⟩

/-- A command's block with a sequence number. -/
def command (seq : Nat) : List Byte := bytesOfNat 8 seq ++ List.replicate 56 0

theorem witness_command : (command 1).length = 64 ∧ ((world false 0 0).region 1).live = true ∧ ((world false 0 0).region 1).queueEntries = 64 ∧
    ((world false 0 0).queue 1).closing = none ∧ 64 ≤ ((world false 0 0).region 1).queueBase ∧ descNat (command 1) 0 8 = 1 ∧
    memNat (world false 0 0).mem (dpaBase + 0x10000 - 64) 8 = 0 ∧
    (after (.commandSubmission 9 (sendBytes 1 1 0 0 0 (command 1))) (world false 0 0)).uetOut = [.ack 9] := by decide +kernel

theorem witness_command_held : descNat (command 2) 0 8 = 2 ∧ descNat (command 66) 0 8 = 66 ∧
    (after (.commandSubmission 9 (sendBytes 1 1 0 0 0 (command 2))) (world false 0 0)).uetOut = [.ack 9] ∧
    (after (.commandSubmission 9 (sendBytes 1 1 0 0 0 (command 66))) (world false 0 0)).uetOut = [.nack 9] ∧
    (after (.commandSubmission 9 (sendBytes 1 1 0 0 0 (command 0))) (world false 0 0)).uetOut = [.ack 9] := by decide +kernel

theorem witness_command_shut : (State.queue { world false 0 0 with queues := [(1, { Queue.none with shut := some 1 })] } 1).shut ≠ none ∧
    (after (.commandSubmission 9 (sendBytes 1 1 0 0 0 (command 1)))
      { world false 0 0 with queues := [(1, { Queue.none with shut := some 1 })] }).uetOut = [.nack 9] ∧
    isDestroy (bytesOfNat 8 1 ++ [4] ++ List.replicate 55 0) = true ∧ isDestroy (command 1) = false := by decide +kernel

theorem witness_tag : (after (.tagPost 9 (sendBytes 3 1 7 0 0 [])) (world false 0 0)).uetOut = [.ack 9] ∧
    (after (.tagPost 9 (sendBytes 3 2 7 0 0 [])) (world false 0 0)).uetOut = [.error 9] := by decide

/-- A device whose key pairs have been generated. -/
def keyed : State := { world false 0 0 with fuses := { (world false 0 0).fuses with deviceKeys := true } }

theorem witness_report : keyed.fuses.reports < 2 ^ 20 ∧ keyed.lifecycle ≠ 0 ∧
    (after (.attestationRequest 9 (sendBytes 5 1 0 0 0 (List.replicate 32 0))) keyed).fuses.reports = 1 := by decide +kernel

theorem witness_ports_closed : State.reset.wiping = true ∧
    (after (.tagPost 9 (sendBytes 3 1 7 0 0 [])) State.reset).uetOut = [.nack 9] ∧
    (after (.tagPost 9 (sendBytes 3 1 7 0 0 [])) { State.reset with wiping := false, phase := 3, bootFailed := true }).uetOut =
      [.error 9] := by decide

/-- An event of kind 4 of 16 bytes bound to tag 7 of region 1. -/
def ingress (timed : Bool) : State :=
  { channels timed 0 (fun e => { e with desc := { channel timed with kind := 4 } }) with
    bindings := [(1, [⟨7, 1, 0, 1, [(9, 4)]⟩])] }

theorem witness_ingress_bound : ((ingress true).region 1).live = true ∧ (ingress true).heldIn 1 = [] ∧
    (ingress true).colourRuns (some ((ingress true).colourOf 1)) = true ∧ (ingress true).bindingPast ⟨7, 1, 0, 1, [(9, 4)]⟩ = false ∧
    ((after (.eventIngress 9 (sendBytes 2 1 7 4 6 (List.replicate 16 1))) (ingress true)).entry 1 0).standing.map Standing.vt = [4] ∧
    (after (.eventIngress 9 (sendBytes 2 1 7 3 6 (List.replicate 16 1))) (ingress true)).iglate = 1 ∧
    (after (.eventIngress 9 (sendBytes 2 1 7 4 6 [1])) (ingress true)).igdrop = 1 ∧
    (after (.floorOnly 9 (sendBytes 4 1 7 0 6 [])) (ingress true)).uetOut = [.ack 9] := by decide +kernel

theorem witness_ingress_unbound : (∀ b ∈ bindingsOf (world false 0 0) 1, b.tag ≠ 7) ∧ ((world false 0 0).region 2).live = false ∧
    ((after (.eventIngress 9 (sendBytes 2 1 7 0 0 [1])) (world false 0 0)).heldIn 1).length = 1 ∧
    (after (.eventIngress 9 (sendBytes 2 2 7 0 0 [1])) (world false 0 0)).igdrop = 1 := by decide

theorem witness_ingress_full : 262144 < (({ world false 0 0 with
    ingress := [(1, [⟨9, 7, 2, 0, 0, List.replicate 262144 0⟩])] } : State).heldIn 1).foldl (fun n m => n + (32 + m.body.length)) 0 := by
  rw [show (({ world false 0 0 with ingress := [(1, [⟨9, 7, 2, 0, 0, List.replicate 262144 0⟩])] } : State).heldIn 1) =
    [⟨9, 7, 2, 0, 0, List.replicate 262144 0⟩] from rfl]
  simp only [List.foldl_cons, List.foldl_nil, List.length_replicate]
  omega

theorem witness_rma_closed : ((world false 0 0).region 2).live = false ∧ State.reset.bootMode = true ∧
    0xFF0000000000 / 2 ^ 40 % 256 = 0xFF := by decide

theorem witness_rma : ((paged (world false 0 0)).region 1).live = true ∧ (paged (world false 0 0)).bootMode = false ∧
    pageStarts 0x1000000100000 2 = [0x1000000100000] ∧
    (paged (world false 0 0)).frontPage ((paged (world false 0 0)).rootOf 1) 0x1000000100000 true = .ready ∧
    (world false 0 0).frontPage ((world false 0 0).rootOf 1) 0x1000000100000 true = .refused ∧
    memGet (dpaBase + 0x300001) (after (.rmaWrite ⟨0, 9⟩ 1 0x1000000100000 [1, 2]) (paged (world false 0 0))).mem = 2 ∧
    (after (.rmaRead ⟨0, 9⟩ 1 0x1000000100000 2) (paged (world false 0 0))).uetOut = [.data 9 [0, 0]] ∧
    memGet (dpaBase + 0x10008) (after (.rmaWrite ⟨0, 9⟩ 1 0x1000000100000 [1, 2]) (paged (world false 0 0))).mem = 11 := by
  decide +kernel

/-- The command front end of a device with a pager, with some faults on their way. -/
def fetching (faults : List FrontFault) : State := { paged (serviced false id) with frontFaults := faults }

theorem witness_rma_waits : (fetching []).frontPage ((fetching []).rootOf 1) 0x1000000200000 false = .wait ∧
    pageStarts 0x1000000200000 1 = [0x1000000200000] ∧
    (fetching []).pagerOf? ((fetching []).rootOf 1) (0x1000000200000 % 2 ^ 48) = some 5 ∧
    (fetching []).freeSlot? (clusterOf (fetching []).frontEnd) = some 0 ∧
    ((fetching [⟨0, 0, 0, 0x10008, 0x20, false, none⟩]).frontFault? 0x10008 0x1000000200000).isSome = true ∧
    (after (.rmaRead ⟨0, 9⟩ 1 0x1000000200000 1) (fetching [])).net.map Packet.dst = [5] ∧
    (after (.rmaRead ⟨0, 9⟩ 1 0x1000000200000 1) (fetching [⟨0, 0, 0, 0x10008, 0x20, false, some 1⟩])).uetOut = [.error 9] := by
  decide +kernel

theorem witness_load_window : (dev 0 0 |>.core 65).cyc % 1024 = 0 ∧ 0 < packageX 65 ∧ packageX 65 < 63 ∧ 0 < packageY 65 ∧
    packageY 65 < 63 ∧ ((after (.loadWindowEnd 65 1024 0 3 4) (dev 0 0)).core 65).imbalance = 1024 := by decide

theorem witness_load_window_early : (({ CoreS.reset 65 with cyc := 1 } : CoreS).cyc) % 1024 ≠ 0 := by decide

theorem witness_ptp_first : State.reset.everLocked = false ∧ State.reset.config.freeRun = false ∧ State.reset.launches = [] ∧
    (after (.ptpMessage 77 1) State.reset).now = 77 := by decide

theorem witness_ptp_earlier : (({ State.reset with now := 78 } : State)).now - 77 % 2 ^ 64 < 2 ^ 31 ∧
    (after (.ptpMessage 77 1) { State.reset with now := 78 }).now = 78 ∧
    (after (.ptpMessage 77 1) { State.reset with now := 78 }).timeOffset = 1 := by decide

theorem witness_ptp_later : (world false 0 0).everLocked = true ∧ (after (.ptpMessage 5 1) (world false 0 0)).timeOffset = -5 ∧
    (after (.ptpMessage (2 ^ 40) 0) (world false 0 0)).timeOffset = 0x80000000 ∧
    (after (.ptpMessage 0 0) { world false 0 0 with now := 2 ^ 40 }).timeOffset = 0x7FFFFFFF := by decide

theorem witness_now_step : ({ world false 0 0 with launches := [], timeOffset := 1000000 } : State).timeOffset.toInt = 1000000 ∧
    (after (.nowStep 9) { world false 0 0 with launches := [], timeOffset := 1000000 }).now = 9 ∧
    (after (.nowStep 9) { world false 0 0 with launches := [], timeOffset := 999999 }).now = 0 := by decide

theorem witness_holdover : (world false 0 0).tstat = 2 ∧ (after .masterLost (world false 0 0)).tstat = 3 ∧
    (after .holdoverExpire { world false 0 0 with tstat := 3, now := 60000000000 }).tstat = 4 ∧
    (after .holdoverExpire { world false 0 0 with tstat := 3, now := 59999999999 }).tstat = 3 := by decide

/-! ## Commands, placement, gang switches and region blocks -/

/-- The second command line of region 1 that firmware processes: its number, kind, flags and operands, after one that was
processed before. -/
def commanded (kind flags a b : Nat) : State :=
  let s := paged (world false 0 0)
  { s with
    mem := memWrite (dpaBase + 0x10000 - 64) [1] (memWrite (dpaBase + 0x10040) (commandBytes 1 kind flags a b) s.mem) }

theorem witness_processes (kind : Nat) (h : kind ∈ [1, 2, 3, 4, 5, 6, 7, 8, 9]) : Processes (commanded kind 0 0 0) 1 1 (commandBytes 1 kind 0 0 0) := by
  simp only [List.mem_cons, List.not_mem_nil, or_false] at h
  rcases h with h | h | h | h | h | h | h | h | h <;> subst h <;> constructor <;> decide +kernel

/-- A launch record of two processes with some bytes in each local store. -/
def recordBytes (lsBytes : Nat) : List Byte :=
  bytesOfNat 8 0x1000000000000 ++ bytesOfNat 4 64 ++ bytesOfNat 4 0 ++ bytesOfNat 4 4 ++ bytesOfNat 4 0 ++ bytesOfNat 2 2 ++
    bytesOfNat 1 2 ++ bytesOfNat 1 0 ++ bytesOfNat 4 0 ++ bytesOfNat 4 lsBytes ++ bytesOfNat 2 0 ++ bytesOfNat 2 0 ++
    bytesOfNat 2 0 ++ bytesOfNat 2 2 ++ bytesOfNat 4 0 ++ bytesOfNat 8 0 ++ bytesOfNat 8 0 ++ bytesOfNat 8 20000 ++
    bytesOfNat 8 10000 ++ bytesOfNat 8 0x1000000100000 ++ bytesOfNat 40 0

/-- A launch command for that record, which stands at its completion record's place. -/
def launching (lsBytes D guaranteed : Nat) : State :=
  let s := commanded 1 0 0x1000000100000 D
  { s with
    regions := [(0, region0), (1, { region1 with root := 0x10008, guaranteed := guaranteed })], lmap := List.range 16
    mem := memWrite (dpaBase + 0x300000) (recordBytes lsBytes) s.mem }

theorem witness_launch_command :
    Processes (launching 64 100000 0) 1 1 (commandBytes 1 1 0 0x1000000100000 100000) ∧
      (launching 64 100000 0).readLines ((launching 64 100000 0).rootOf 1) 0x1000000100000 2 = some (recordBytes 64) ∧
      recordOk (recordBytes 64) (recordOf (recordBytes 64) 100000) = true ∧
      (launching 64 100000 0).refusal? (launchOfRecord (launching 64 100000 0) 1 1 [] (recordBytes 64) 100000) (recordBytes 64) [] = none ∧
      (launching 64 20000 0).refusal? (launchOfRecord (launching 64 20000 0) 1 1 [] (recordBytes 64) 20001) (recordBytes 64) [] = none ∧
      (launching 64 100000 0).isGuaranteed 1 = false := by
  refine ⟨by constructor <;> decide +kernel, ?_⟩
  decide +kernel

theorem witness_launch_guaranteed :
    (launching 64 200000 4).isGuaranteed 1 = true ∧
      (launching 64 200000 4).windowStart? (launchOfRecord (launching 64 200000 4) 1 1 [] (recordBytes 64) 200000) = some 60000 ∧
      (launching 64 50000 4).windowStart? (launchOfRecord (launching 64 50000 4) 1 1 [] (recordBytes 64) 50000) = none := by
  decide +kernel

theorem witness_launch_waits : (commanded 1 0 0x1000000200000 9).readLines ((commanded 1 0 0x1000000200000 9).rootOf 1) 0x1000000200000 2 =
    none ∧ offchipLine 0x1000000200000 = true ∧ offchipLine 0x1000000200001 = false := by decide +kernel

theorem witness_batch_commit :
    (State.queue { commanded 3 0 0 0 with queues := [(1, { Queue.none with
        batch := some 0, members := [] })] } 1).batch = some 0 ∧
      ((after (.commit 1) { commanded 3 0 0x1000000100000 0 with
        queues := [(1, { Queue.none with batch := some 0, members := [] })] }).queue 1).effects = [(1, [])] := by decide +kernel

theorem witness_batch_fails :
    failure? (.refuse 5 0 9 0) = some 9 ∧
      ((after (.commit 1) { commanded 3 0 0x1000000100000 0 with
        mem := memWrite (dpaBase + 0x10000 - 64) [2] (memWrite (dpaBase + 0x10080) (commandBytes 2 3 0 0x1000000100000 0) []),
        queues := [(1, { Queue.none with batch := some 0, members := [(1, .refuse 1 0 9 0)] })] }).queue 1).effects =
        [(2, [.refuse 1 0 9 0, .refuse 2 0x1000000100000 9 0])] := by decide +kernel

theorem witness_rank_runs : (commanded 5 0 1 0).rankRuns 257 0 = true ∧ (commanded 5 0 1 2).rankRuns 257 2 = false ∧
    ((commanded 7 0 0 0).region 1).debug = true := by decide

/-- The record of a launch of that region, with the bytes of a record that names it. -/
def admitted (f : Launch → Launch) : Launch :=
  f { launch false with phase := .admitted, cores := [], ranks := [], spec := recordOf (recordBytes 64) 100000 }

theorem witness_reasons :
    recordOk (recordBytes 1) (recordOf (recordBytes 1) 9) = false ∧
      0x20000 < chargedBytes (recordOf (recordBytes 0x20000) 100000) 1 ∧
      chargedBytes (recordOf (recordBytes 64) 100000) 1 ≤ 0x20000 ∧
      (launching 64 100000 0).refusal? (admitted id) (recordBytes 64) [] = none ∧
      (({ launching 64 100000 0 with regions := [(0, region0), (1, { region1 with cores := 1 })] } : State)).refusal? (admitted id)
        (recordBytes 64) [] = some 3 ∧
      (({ launching 64 100000 0 with regions := [(0, region0), (1, { region1 with slots := 1 })] } : State)).refusal? (admitted id)
        (recordBytes 64) [] = some 4 ∧
      ({ launching 64 100000 0 with now := 80000 } : State).refusal? (admitted id) (recordBytes 64) [] = some 6 := by decide +kernel

/-- The front end is to take an effect of command 1. -/
def taking (e : Effect) : State :=
  { commanded 9 0 0 0 with queues := [(1, { Queue.none with effects := [(1, [e])] })], everLocked := true }

theorem witness_take_refusal : memWf (taking (.refuse 1 0 9 0)).mem = true ∧ memNat (taking (.refuse 1 0 9 0)).mem (dpaBase + (0x10000 + 64 * (1 % 64)) + 8) 1 ≠ 1 ∧
    memNat (after (.effectTake 1) (taking (.refuse 1 0 9 0))).mem (dpaBase + 0x10000 - 64 + 16) 8 = 1 := by decide +kernel

theorem witness_take_destroy : (launch false).region = 1 ∧ (taking (.destroy true 0)).launches = [(257, launch false)] ∧
    ((after (.effectTake 1) (taking (.destroy true 0))).launch? 257).map Launch.stopStatus = some 5 ∧
    ((after (.effectTake 1) (taking (.destroy false 0))).queue 1).closing = some (false, 0, 1) := by decide +kernel

theorem witness_take_halt : (taking (.halt 257 0)).contextOf? (procKey 257 0) = some 17 ∧ atBoundary ((taking (.halt 257 0)).ctx 17) = true ∧
    ((after (.effectTake 1) (taking (.halt 257 0))).ctx 17).halted = true ∧ State.badStatus ((taking (.resume 257 0)).ctx 17) = false := by
  decide +kernel

theorem witness_take_halt_waits : atBoundary { ctxOf 0 0 with pfx := ⟨some 0x100, true, none⟩ } = false := by decide

theorem witness_take_freeze : ((after (.effectTake 1) (taking (.freeze 9))).group 5).frozen = true ∧
    ((after (.effectTake 1) { taking (.thaw 9) with groups := [(5, { Group.none with phase := .stopped, frozen := true })] }).group 5).resume =
      some 20000 := by decide +kernel

/-! ## Placement -/

/-- A launch of two processes waits to be placed on cores 1 and 2. -/
def placing (f : Launch → Launch) : State :=
  let s := launching 64 100000 0
  { s with launches := [(257, admitted f)], ctxs := [], procs := [], cur := 0 }

/-- The front end is to take the admission of a launch whose record has so many bytes of local store. -/
def admitting (lsBytes : Nat) : State :=
  { launching lsBytes 100000 0 with launches := [], everLocked := true, queues := [(1, { Queue.none with
      effects := [(1, [.admission (admitted id)])] })] }

theorem witness_take_admission : ((admitting 64).region 1).live = true ∧ ((admitting 64).group 5).frozen = false ∧
    (admitting 64).readLines ((admitting 64).rootOf 1) 0x1000000100000 2 = some (recordBytes 64) ∧
    recordOk (recordBytes 64) (admitted id).spec = true ∧ recordOf (recordBytes 64) 100000 = (admitted id).spec ∧
    ((after (.effectTake 1) (admitting 64)).launch? 257) = some (admitted id) ∧
    (admitting 1).copyRecord 1 (admitted id) = .inr 1 ∧
    (after (.effectTake 1) (admitting 1)).launches = [] := by decide +kernel

theorem witness_cursor : ((admitting 64).queue 1).handed ≤ (admitting 64).cursor 1 ∧
    (State.cursor { commanded 9 0 0 0 with queues := [(1, { Queue.none with handed := 1 })] } 1) = 0 ∧
    (State.taken { commanded 9 0 0 0 with
      mem := memWrite (dpaBase + 0x10000 - 48) [1] [], queues := [(1, { Queue.none with handed := 1 })] } 1) = 1 ∧
    memNat (after (.effectTake 1) { commanded 9 0 0 0 with
      mem := memWrite (dpaBase + 0x10000 - 48) [1] [], queues := [(1, { Queue.none with handed := 1 })] }).mem
        (dpaBase + 0x10000 - 56) 8 = 1 := by decide +kernel

theorem witness_ready : Ready (placing id) (admitted id) := ⟨rfl, rfl, by decide, by decide +kernel⟩

theorem witness_not_opened : ¬ Opened (placing id) (admitted id) := fun ⟨_, h, _⟩ => nomatch h

theorem witness_opened : Ready (placing fun l => { l with window := some 0 }) (admitted fun l => { l with window := some 0 }) ∧
    Opened (placing fun l => { l with window := some 0 }) (admitted fun l => { l with window := some 0 }) :=
  ⟨⟨rfl, rfl, by decide, by decide +kernel⟩, 0, rfl, by decide⟩

theorem witness_decides : Decides (placing id) 0 257 (admitted id) := by
  intro e h _ _ hne
  simp only [placing, List.mem_singleton] at h
  subst h
  exact absurd rfl hne

theorem witness_serve (f : Launch → Launch) (h : f = id ∨ f = fun l => { l with phase := .chosen }) :
    Serve (placing f) (admitted f) [1, 2] := by
  rcases h with h | h <;> subst h <;> constructor <;> decide +kernel

theorem witness_decision : (placing id).decisionAllowed 257 (admitted id) [1, 2] = true ∧ (0 : Nat) ∈ [1, 2].map dieOf ∧
    ((after (.placementDecision 0 257 20000 [1, 2]) (placing id)).launch? 257).map Launch.phase = some .chosen := by decide +kernel

/-- The running launch of region 1 stands on cores 1 and 2, and one of the higher class of region 2 waits for them. -/
def contended : State :=
  let waits : Launch := { admitted id with seq := 2, region := 2 }
  { placing id with
    launches := [(257, launch false), (513, waits)]
    regions := [(0, region0), (1, region1), (2, { region1 with prio := 4, colour := 6 })], lmap := [1, 2] }

theorem witness_victim : (∃ p ∈ [1, 2], contended.coreFree p = false) ∧ contended.prioOf 2 = 4 ∧
    contended.isGuaranteed 2 = false ∧
    contended.victim? (fun x => decide (contended.groupClass x < contended.prioOf 2) &&
      contended.needsCoresOf { admitted id with seq := 2, region := 2 } x) = some 5 := by decide +kernel

theorem witness_placement :
    (∀ p ∈ (placing id).lmap, (placing id).countsFused p = false ∧ p < 4096) ∧ memWf (placing id).mem = true ∧
      (placing fun l => { l with phase := .chosen }).readLines 0x10008 0x1000000000000 1 = some (List.replicate 64 0) ∧
      ((after (.placement 257 [2, 1]) (placing fun l => { l with phase := .chosen })).launch? 257).map Launch.phase = some .admitted := by
  decide +kernel

theorem witness_commits : (∀ p ∈ (launch true).cores, (launch true).spec.freq ≤ tableGet 0 (dieOf p) (world true 0 0).dieFreq) ∧
    (launch true).ranks.Nodup ∧
    ((after (.placementCommit 257) { world true 0 0 with launches := [(257, { launch true with phase := .loaded })], ctxs := [], procs := [] }).ctx
      33).pc = 0x100 := by decide +kernel

theorem witness_point : (world false 0 0).neededPoint 0 = 0 ∧
    (tableGet 0 0 (after (.operatingPointChange 0) { world false 0 0 with dieFreq := [(0, 3)] }).dieFreq) = 0 ∧
    tableGet 0 0 (after (.operatingPointChange 0) { world false 0 0 with
      launches := [(257, { launch false with spec := { spec false with freq := 3 } })] }).dieFreq = 3 ∧
    (tableGet 0 0 (after (.operatingPointChange 0) { world false 0 0 with
      launches := [(257, { launch false with spec := { spec false with freq := 3 } })], pwrlim := 1209 }).dieFreq) = 0 := by decide +kernel

theorem witness_expires : translate? (placing id).mem ((placing id).rootOf 1) (admitted id).spec.record = some 0x300000 ∧ (after (.launchExpire 257) { placing id with now := 80000 }).launch? 257 = none ∧
    ((after (.launchExpire 257) { paged (world false 0 0) with
      now := 80000, groups := [(5, { Group.none with phase := .out })] }).launch? 257).map Launch.stopStatus = some 6 := by decide +kernel

theorem witness_expires_loaded : memWf (placing fun l => { l with phase := .loaded, cores := [1, 2] }).mem = true ∧
    (placing fun l => { l with phase := .loaded, cores := [1, 2] }).pinned = [] ∧
    ((placing fun l => { l with phase := .loaded, cores := [1, 2] }).queue 1).closing = none := by decide +kernel

/-! ## Gang switches and region blocks -/

/-- The group of the launch in a phase, with T at 5. -/
def grouped (phase : GroupPhase) (frozen : Bool) (f : Group → Group) : State :=
  { world false 0 0 with groups := [(5, f { Group.none with phase := phase, time := 5, frozen := frozen })], now := 5 }

theorem witness_may_stop : MayStop (grouped .notified false id) 5 ∧
    (grouped .notified false id).groupLaunches 5 = [(257, launch false)] ∧ memWf (grouped .notified false id).mem = true ∧
    (grouped .notified false id).inGroup 5 ((grouped .notified false id).ctx 17) = true ∧
    ((after (.gangStop 5) (grouped .notified false id)).group 5).phase = .stopped ∧
    ((after (.gangStop 5) (grouped .notified false id)).ctx 17).parked = true :=
  ⟨⟨rfl, by decide, (fun _ h => nomatch h), by decide, by decide, by decide⟩, by decide +kernel⟩

theorem witness_gang_stop_frozen : MayStop (grouped .notified true id) 5 ∧ (grouped .notified true id).groupRegions 5 = [1] ∧
    memNat (after (.gangStop 5) (grouped .notified true id)).mem (dpaBase + 0x1000000 + 256 + 3) 1 = 4 :=
  ⟨⟨rfl, by decide, (fun _ h => nomatch h), by decide, by decide, by decide⟩, by decide +kernel⟩

theorem witness_gang_stop_empty : MayStop { grouped .notified false id with launches := [] } 5 ∧
    ((after (.gangStop 5) { grouped .notified false id with launches := [] }).group 5).phase = .running :=
  ⟨⟨rfl, by decide, (fun _ h => nomatch h), by decide, by decide, by decide⟩, by decide +kernel⟩

theorem witness_gang_stop_waits : ¬ MayStop (grouped .out false id) 5 := fun h => nomatch h.phase

theorem witness_gang_save : ((grouped .stopped false id).group 5).phase = .stopped ∧ (grouped .stopped false id).groupCores 5 = [1, 2] ∧
    (∀ k ∈ [1, 2], (grouped .stopped false id).atRest k = true) ∧ memWf (grouped .stopped false id).mem = true := by decide +kernel

/-- The group is out, its log ends at an address, and a packet of it is still on its way. -/
def late (logEnd : Nat) : State :=
  arriving (toMember (.migAccept 33)) (grouped .out false fun g => { g with logNext := 0x20000, logEnd := logEnd })

theorem witness_late_packet : (late 0x30000).colourRuns (some 5) = false ∧ (late 0x30000).net.map Packet.colour = [some 5] ∧
    (late 0x30000).net.map Packet.cls ≠ [.bulk] ∧ (late 0x30000).net.map State.logSize = [128] ∧
    (after (.latePacketLog 0) (late 0x30000)).net = [] ∧
    (after (.latePacketLog 0) (late 0x20000)).net.length = 1 := by decide +kernel

theorem witness_gang_returns : (∀ k ∈ (grouped .out false id).groupCores 5, (grouped .out false id).coreFree k = true) ∧
    (grouped .out false id).opportunisticMay ((grouped .out false id).groupCores 5) = true ∧
    ((after (.gangResume 5 20005) (grouped .out false id)).group 5).resume = some 20005 := by decide +kernel

theorem witness_gang_thaws :
    ((grouped .stopped true fun g => { g with resume := some 5 }).ctxs.map Prod.fst).Nodup ∧
    (∀ r ∈ (grouped .stopped true id).groupRegions 5, (grouped .stopped true id).heldIn r = []) ∧
    (∀ e ∈ (grouped .stopped true id).ctxs, State.badStatus e.2 = false) ∧
    ((after (.gangResume 5 0) (grouped .stopped true fun g => { g with resume := some 5 })).group 5).phase = .running := by
  decide +kernel

/-- What a switch has saved of core 1, and the state in which it lies in the save area. -/
def savedCore : SavedCore :=
  ⟨1, 0x40000, [⟨localKey 1 8, 3⟩], { CoreS.reset 1 with arb := [(0, entryOf false)] }, [(17, member false 0 17 3 4)], []⟩

theorem length_blockBytes (b : SavedCore) : (State.blockBytes b).length = 2 ^ 18 := by
  simp only [State.blockBytes, List.length_map, List.length_range]

/-- The group is out, with some memory. -/
def savedGroupOf (m : Mem) : State :=
  { grouped .out false (fun g => { g with resume := some 5, saved := [savedCore] }) with
    ctxs := [], mem := m }

/-- The group is out, with that block in its save area. -/
def savedGroup : State := savedGroupOf (memWrite (dpaBase + savedCore.dpa) (State.blockBytes savedCore) [])

theorem savedGroup_mem : savedGroup.mem = memWrite (dpaBase + savedCore.dpa) (State.blockBytes savedCore) [] := by
  rw [savedGroup, savedGroupOf]

theorem blockIntact_of {s : State} {b : SavedCore} (h : s.mem = memWrite (dpaBase + b.dpa) (State.blockBytes b) []) :
    s.blockIntact b = true := by
  have h' := memBytes_write_same (m := []) rfl (dpaBase + b.dpa) (State.blockBytes b)
  rw [length_blockBytes] at h'
  rw [State.blockIntact, h, beq_iff_eq]
  exact h'

theorem witness_whole : Whole savedGroup savedCore where
  core := by decide
  clean := by decide
  intact := blockIntact_of savedGroup_mem
  form := by decide
  cells := by
    intro c h
    rw [show savedCore.cells = [⟨localKey 1 8, 3⟩] from rfl, List.mem_singleton] at h
    exact ⟨8, .inl ⟨by rw [h]; rfl, by decide⟩⟩
  once := by decide
  own := by decide

theorem witness_gang_restores : (savedGroup.group 5).resume = some 5 ∧ savedGroup.now = 5 ∧ (savedGroup.group 5).phase = .out ∧
    (savedGroup.group 5).frozen = false ∧ (savedGroup.group 5).saved = [savedCore] ∧ memWf savedGroup.mem = true :=
  ⟨rfl, rfl, rfl, rfl, rfl, by rw [savedGroup_mem]; exact memWrite_wf _ _ rfl⟩

/-- A control block for region 2, a child of region 0. -/
def block : List Byte :=
  [2, 0, 1, 0] ++ bytesOfNat 4 (2 ^ 11 - 1) ++ bytesOfNat 2 4 ++ bytesOfNat 2 8 ++ bytesOfNat 4 64 ++ bytesOfNat 8 0x10000 ++
    bytesOfNat 4 4 ++ [64, 7, 63, 63] ++ bytesOfNat 8 0 ++ bytesOfNat 2 255 ++ bytesOfNat 14 0 ++ bytesOfNat 8 (2 ^ 22) ++
    bytesOfNat 8 0x40000 ++ bytesOfNat 4 64 ++ List.replicate 180 0

theorem witness_block : block.length = 256 ∧ blockOk 2 block = true ∧ dpaMapped ((world false 0 0).regbase + 512) = true ∧
    State.regionsOk { world false 0 0 with regions := tablePut 2 (regionOfBytes block) (world false 0 0).regions } = true ∧
    (world false 0 0).regionBusy 2 = false ∧ (world false 0 0).regionBusy 1 = true := by decide +kernel

/-- The block stands in memory, where the table of blocks begins. -/
def blocked : State := { world false 0 0 with mem := memWrite (dpaBase + (world false 0 0).regbase + 512) block [] }

theorem witness_block_takes_effect : memBytes blocked.mem (dpaBase + blocked.regbase + 256 * 2) 256 = block ∧ memWf blocked.mem = true ∧
    ((after (.regionLiveSet 2) blocked).region 2).colour = 63 := by decide +kernel

theorem witness_block_refused : blockOk 3 block = false ∧
    State.regionsOk { world false 0 0 with regions := tablePut 2 { regionOfBytes block with saveSize := 0x1FFFFF } (world false 0 0).regions } =
      false := by decide +kernel

/-! ## Control space, lifecycle, boot and steps -/

/-- The context is a stopped one, with registers to show. -/
def stopped (c : Ctx) : Ctx := { c with status := .stopped, wait := .none }

theorem witness_image_open : ImageOpen (devOf 3 0 stopped) 17 ∧ ((devOf 3 0 stopped).readImage 17 (120 + 8 * 6)).1 = 3 ∧
    (after (.contextImageWrite 17 (120 + 8 * 6) 9) (devOf 3 0 stopped)).me.g 6 = 9 :=
  ⟨⟨by decide, .inr (.inl (by decide))⟩, by decide, by decide⟩

theorem witness_image_closed : ¬ ImageOpen (dev 0 0) 17 ∧ ((after (.contextImageWrite 17 0 9) (dev 0 0)).core 1).ctlerr = 1 :=
  ⟨fun h => h.2.elim (by decide) fun h => h.elim (by decide) (by decide), by decide⟩

theorem witness_image_limits : ((0x110, 88) : Nat × Nat).1 = 0x110 ∧
    ((after (.contextImageWrite 17 80 (2 ^ 20)) (devOf 0 0 stopped)).core 1).ctlerr = 1 ∧
    (after (.contextImageWrite 17 80 (2 ^ 21)) (devOf 0 0 stopped)).me.ckring = 2 ^ 21 := by decide

theorem witness_image_registers : ∀ x ∈ imageRegisters, ∃ y ∈ writable { devOf 0 0 stopped with cur := 17 }, y.1 = x.2 := by
  intro x h
  simp only [imageRegisters, List.mem_cons, List.not_mem_nil, or_false] at h
  rcases h with h | h | h | h | h | h | h | h | h | h <;> subst h <;> simp [writable]

theorem witness_firewall : (dev 0 0).isSystem 31 = true ∧ ((dev 0 0).core 31).fwctl.getLsbD 63 = false ∧
    ((after (.fwctlWrite 31 0x8000000000000004) (dev 0 0)).core 31).fwctl = 0x8000000000000004 ∧ (dev 0 0).isSystem 30 = false := by decide

theorem witness_control_registers : (after (.pwrlimWrite 600) (dev 0 0)).pwrlim = 600 ∧ (after (.pwrlimWrite 599) (dev 0 0)).pwrlim = 2000 ∧
    ((after (.controlRegisterWrite (0x400000000 + 2 ^ 15 + 0xA00) 0x1FFFF) (dev 0 0)).core 1).rcolcfg = [(0, 0x1FFFF)] ∧
    ((after (.controlRegisterWrite (0x400000000 + 2 ^ 15 + 0xA00) 0x20000) (dev 0 0)).core 1).rcolcfg = [] ∧
    (after (.controlRegisterWrite 0x408000010 1) { dev 0 0 with rrq := true }).rrq = false ∧
    (after (.controlRegisterWrite 0x408001010 0x1FF) (dev 0 0)).peers.length = 1 ∧
    (after (.controlRegisterWrite 0x408001010 0x200) (dev 0 0)).peers.length = 0 := by decide +kernel



theorem witness_wipe : State.reset.wiping = true ∧ (after (.wipeDone [3] [7]) State.reset).fuses.newRetired = [3] ∧
    (after (.wipeDone [3] [7]) State.reset).phase = 3 := by decide +kernel

/-- Core 3 has been idle for ten seconds. -/
def idle : State := { world false 0 0 with now := 10000000000 }

theorem witness_self_check : idle.bootMode = false ∧ idle.isUser 3 = true ∧ idle.coreFree 3 = true ∧
    (idle.core 3).idleSince + 10000000000 ≤ idle.now ∧ (idle.countsFused 3 = false) ∧
    ((after (.selfCheck 3 1) idle).core 3).idleSince = 10000000000 ∧ (after (.selfCheck 3 0) idle).fuses.newRetired = [3] := by
  decide +kernel

/-- A system core and a spare, idle for as long. -/
def idleSystem : State := { idle with config := { ConfigTable.reset with roles := [(31, 1), (63, 5)] } }

theorem witness_self_check_system : idleSystem.isSystem 31 = true ∧ idleSystem.isFused 31 = false ∧
    (∀ j < 16, (idleSystem.ctx (31 * 16 + j)).status = .empty) ∧ idleSystem.countsFused 31 = false ∧
    idleSystem.isFused 63 = false ∧ (63, 1) ∈ (after (.selfCheck 31 0) idleSystem).config.roles := by decide +kernel

/-- A configuration table of a system column of some width, which verifies at width 1, 2 or 4. -/
def table (w : Nat) : List Byte := bytesOfNat 4 0x43564354 ++ List.replicate 260 0 ++ bytesOfNat 1 w ++ List.replicate 1031 0

theorem witness_table : (table 1).length = 1296 ∧ descNat (table 1) 0 4 = 0x43564354 ∧ descNat (table 1) 4 4 = 0 ∧
    (parseTable (table 1)).w = 1 ∧ (parseTable (table 1)).fused = [] ∧ (parseTable (table 3)).w = 3 := by decide +kernel

theorem natOfBytes_zeros (n : Nat) : natOfBytes (List.replicate n (0 : Byte)) = 0 := by
  induction n with
  | zero => rfl
  | succ n ih => rw [List.replicate_succ, natOfBytes, ih]; rfl

theorem table_tail (w k n : Nat) : descNat (table w) (265 + k) n = 0 := by
  have hl : (bytesOfNat 4 0x43564354 ++ List.replicate 260 (0 : Byte) ++ bytesOfNat 1 w).length = 265 := by
    rw [List.length_append, List.length_append, List.length_replicate]; rfl
  have h : (table w).drop (265 + k) = List.replicate (1031 - k) 0 := by
    rw [table, ← List.drop_drop, List.drop_left' hl, List.drop_replicate]
  rw [descNat, h, List.take_replicate, natOfBytes_zeros]

theorem table_roles (w : Nat) : tableRoles (table w) = [] := by
  rw [tableRoles, List.filterMap_eq_nil_iff]
  intro i _
  have h := table_tail w (7 + 2 * i) 2
  rw [← Nat.add_assoc] at h
  rw [h, if_pos rfl]

theorem roles_of (bs : List Byte) (h : tableRoles bs = []) : ∀ r ∈ (parseTable bs).roles, r.2 ≠ 1 := by
  intro r hr
  simp only [parseTable, h, List.nil_append, List.mem_map] at hr
  obtain ⟨p, -, rfl⟩ := hr
  exact (by decide : (5 : Nat) ≠ 1)

theorem witness_roles : ∀ r ∈ (parseTable (table 1)).roles, r.2 ≠ 1 := roles_of _ (table_roles 1)

theorem length_sha2Block (st : List Nat) (b : List Byte) (h : st.length = 8) : (sha2Block sha256Spec st b).length = 8 := by
  rw [sha2Block, List.length_map, List.length_zip, h]; rfl

theorem length_sha2Blocks (l : List (List Byte)) : ∀ st : List Nat, st.length = 8 →
    (l.foldl (sha2Block sha256Spec) st).length = 8 := by
  induction l with
  | nil => exact fun _ h => h
  | cons b l ih => exact fun st h => ih _ (length_sha2Block st b h)

theorem length_bigWords (l : List Nat) : (l.flatMap (bigOfNat 4)).length = 4 * l.length := by
  induction l with
  | nil => rfl
  | cons x l ih =>
    rw [List.flatMap_cons, List.length_append, ih, bigOfNat, List.length_reverse, length_bytesOfNat, List.length_cons]; omega

theorem length_sha256 (bs : List Byte) : (sha256 bs).length = 32 := by
  have h : (sha2 sha256Spec bs).length = 8 := length_sha2Blocks _ _ rfl
  rw [sha256, length_bigWords, h]

theorem length_lmsRoot (i : List Byte) (path : List (List Byte)) : ∀ (node : Nat) (x : List Byte), x.length = 32 →
    (lmsRoot i node path x).length = 32 := by
  induction path with
  | nil => exact fun _ _ h => h
  | cons y path ih => exact fun _ _ _ => ih _ _ (length_sha256 _)

/-- The start of an LMS public key: its types and an identifier of zeros. -/
def lmsHead : List Byte := bigOfNat 4 6 ++ bigOfNat 4 3 ++ List.replicate 16 0

/-- An LMS signature of leaf 0 all of whose strings are zero. -/
def lmsSig : List Byte :=
  bigOfNat 4 0 ++ (bigOfNat 4 3 ++ List.replicate 2176 0) ++ bigOfNat 4 6 ++ List.replicate 320 0

/-- The public key under which it signs a message: the root that it leads to. -/
def lmsKey (msg : List Byte) : List Byte :=
  lmsHead ++ lmsRoot (List.replicate 16 0) (2 ^ 10 + 0) (pieces 32 10 (List.replicate 320 0))
    (sha256 (List.replicate 16 0 ++ bigOfNat 4 (2 ^ 10 + 0) ++ bigOfNat 2 0x8282 ++
      otsCandidate (List.replicate 16 0) 0 msg (bigOfNat 4 3 ++ List.replicate 2176 0)))

theorem length_lmsKey (msg : List Byte) : (lmsKey msg).length = 56 := by
  rw [lmsKey, List.length_append, length_lmsRoot _ _ _ _ (length_sha256 _)]; rfl

theorem lmsSig_parts : lmsSig.length = 2508 ∧ natOfBig (lmsSig.take 4) = 0 ∧
    (lmsSig.drop 4).take 2180 = bigOfNat 4 3 ++ List.replicate 2176 0 ∧ lmsSig.drop 2188 = List.replicate 320 0 ∧
    natOfBig ((bigOfNat 4 3 ++ List.replicate 2176 (0 : Byte)).take 4) = 3 ∧ natOfBig ((lmsSig.drop 2184).take 4) = 6 := by
  decide +kernel

theorem lmsKey_parts (msg : List Byte) : ((lmsKey msg).drop 8).take 16 = List.replicate 16 0 ∧
    natOfBig ((lmsKey msg).take 4) = 6 ∧ natOfBig (((lmsKey msg).drop 4).take 4) = 3 := ⟨rfl, rfl, rfl⟩

theorem lms_verifies (msg : List Byte) : lmsVerify (lmsKey msg) msg lmsSig = true := by
  obtain ⟨h1, h2, h3, h4, h5, h6⟩ := lmsSig_parts
  obtain ⟨k1, k2, k3⟩ := lmsKey_parts msg
  have h : lmsRoot (List.replicate 16 0) (2 ^ 10 + 0) (pieces 32 10 (List.replicate 320 0))
    (sha256 (List.replicate 16 0 ++ bigOfNat 4 (2 ^ 10 + 0) ++ bigOfNat 2 0x8282 ++
      otsCandidate (List.replicate 16 0) 0 msg (bigOfNat 4 3 ++ List.replicate 2176 0))) = (lmsKey msg).drop 24 := rfl
  simp only [lmsVerify, h1, h2, h3, h4, h5, h6, k1, k2, k3, length_lmsKey, h]
  simp

/-- An HSS public key and a signature of a message, in the same way. -/
def hssKey (msg : List Byte) : List Byte := bigOfNat 4 2 ++ lmsKey (lmsKey msg)

/-- The signature. -/
def hssSig (msg : List Byte) : List Byte := bigOfNat 4 1 ++ (lmsSig ++ (lmsKey msg ++ lmsSig))

theorem hss_verifies (msg : List Byte) : hssVerify (hssKey msg) msg (hssSig msg) = true := by
  have hl : lmsSig.length = 2508 := lmsSig_parts.1
  have h0 : (bigOfNat 4 1).length = 4 := rfl
  have hk : (hssKey msg).length = 60 := by rw [hssKey, List.length_append, length_lmsKey]; rfl
  have hs : (hssSig msg).length = 5076 := by simp [hssSig, hl, h0, length_lmsKey]
  have d4 : (hssSig msg).drop 4 = lmsSig ++ (lmsKey msg ++ lmsSig) := List.drop_left' h0
  have d2512 : (hssSig msg).drop 2512 = lmsKey msg ++ lmsSig := by
    rw [show 2512 = 4 + 2508 from rfl, ← List.drop_drop, d4, List.drop_left' hl]
  have d2568 : (hssSig msg).drop 2568 = lmsSig := by
    rw [show 2568 = 2512 + 56 from rfl, ← List.drop_drop, d2512, List.drop_left' (length_lmsKey msg)]
  have t : (hssSig msg).take 4 = bigOfNat 4 1 := List.take_left' h0
  have n1 : natOfBig ((hssKey msg).take 4) = 2 := rfl
  have n2 : natOfBig ((hssSig msg).take 4) = 1 := by rw [t]; rfl
  have k4 : (hssKey msg).drop 4 = lmsKey (lmsKey msg) := rfl
  simp only [hssVerify, hk, hs, d4, d2512, d2568, n1, n2, k4, List.take_left' hl, List.take_left' (length_lmsKey msg), lms_verifies]
  simp

/-- The ECDSA public key of the signed item, whose private key is 12345678901234567890123456789. -/
def ecdsaKey : List Byte :=
  bigOfNat 48 0xDBA23634C080C17077FF7185A072E75CCF7EAF2C87097A4BA83DD1140AF6C2F0E322B21AD05B136EDD95383C29F116D7 ++
    bigOfNat 48 0xA6631A3A31C88AFFF211C8D3F4F1F29A8B3B8CA573551CE3241FE6C74DEAE457B35C46191A23EFF234D59F72FE04AC1A

/-- Its signature of the configuration table `table 1`, made outside the model. -/
def ecdsaSig : List Byte :=
  bigOfNat 48 0xF314A4F1E7D593DAB20FDB74B6D773DAB42AAC90DABC406E745694F3E47FF0849F69ECF0033667F5CD764D0CDC57A213 ++
    bigOfNat 48 0xD963D9EB2F452EAC395391776C37354EBCC2CE8F73DC485E5ABD4484F76ADCD3EFD55A249EFC7801158960AF65EE27B8

theorem ecdsa_verifies : ecdsaVerify ecdsaKey (table 1) ecdsaSig = true := by decide +kernel

/-- The table as an item that carries both signatures. -/
def signed : Signed := ⟨table 1, ecdsaKey, ecdsaSig, hssKey (table 1), hssSig (table 1)⟩

/-- The device stands in phase 3, and its vendor's keys are those of the item. -/
def verifying : State :=
  { State.reset with wiping := false, phase := 3, fuses := { State.reset.fuses with vendor := signedKeys signed } }

theorem witness_genuine : Genuine (inForce verifying) signed := by
  refine ⟨?_, ecdsa_verifies, hss_verifies _⟩
  rw [inForce, if_neg (by decide)]; rfl

theorem witness_lifecycle : (verifying.lifecycle, 1) ∈ transitions ∧ verifying.busy = false ∧ verifying.wiping = false := by decide

theorem witness_verified : verifying.phase = 3 ∧ verifying.bootFailed = false ∧ verifying.supplied = none ∧
    verifying.fuses.minVersion = 0 ∧ verifying.fuses.fused = [] ∧ verifying.fuses.retiredCores = [] ∧
    memWf verifying.mem = true := by decide

theorem witness_not_verified : ([] : List Byte).length ≠ 1296 ∧
    (after (.oobImage 0 0 signed.bytes signed.bytes (signed.signatures, signed.signatures)) { verifying with bootFailed := true }).supplied = some ⟨0, 0, signed, signed⟩ :=
  ⟨by decide, rfl⟩

/-- Boot mode with discovery under way. -/
def booting : State := { State.reset with wiping := false, phase := 5 }

theorem witness_tinder_go : booting.bootMode = true ∧ booting.bootCore? (dieOf 0) = some 0 ∧ (booting.core 0).boot.started = false ∧
    ((after (.tinderGo 0 1) booting).net.map Packet.dst) = [32, 1] := by decide +kernel

theorem witness_tinder : ((after (.tinder 0) (arriving (flood 0 1 (.tinder 0 0 0 0 4)) booting)).core 1).boot.x = 1 ∧
    ((after (.tinder 0) (arriving (flood 0 1 (.tinder 0 0 0 0 4)) { booting with
      cores := [(1, { CoreS.reset 1 with boot := { (CoreS.reset 1).boot with seen := true } })] })).net.map Packet.body) =
      [.tinderRefuse 0] := by decide +kernel

theorem witness_tinder_answers :
    ((after (.tinderDone 0) (arriving (flood 1 0 (.tinderDone 0 5)) { booting with
      cores := [(0, { CoreS.reset 0 with boot := { (CoreS.reset 0).boot with seen := true, awaiting := 2 } })] })).core 0).boot.sum = 5 ∧
    ((after (.tinderRefuse 0) (arriving (flood 1 0 (.tinderRefuse 0)) { booting with
      cores := [(0, { CoreS.reset 0 with boot := { (CoreS.reset 0).boot with seen := true, awaiting := 2 } })] })).core 0).boot.awaiting = 1 := by
  decide +kernel

theorem witness_check_end : ((after (.selfCheckEnd 1 0) { booting with
      cores := [(1, { CoreS.reset 1 with boot := { (CoreS.reset 1).boot with seen := true, checkEnded := false } })] }).core 1).failed = true ∧
    ((after (.selfCheckEnd 1 1) { booting with
      cores := [(1, { CoreS.reset 1 with boot := { (CoreS.reset 1).boot with seen := true, checkEnded := false } })] }).core 1).failed = false := by
  decide +kernel

theorem witness_slotgo : ((after (.slotgo 1 15) booting).ctx 31).status = .ready ∧ (booting.ctx 31).xstat >>> 4 = 0 ∧
    ((after (.slotgo 1 16) booting).core 1).ctlerr = 1 := by decide +kernel

/-- Boot mode with the firewall of every system core locked. -/
def locked : State :=
  { booting with cores := (List.range 128).map fun k => (32 * k + 31, { CoreS.reset 0 with fwctl := 0x8000000000000004 }) }

theorem witness_locked : (List.range 4096).all (fun p => decide (32 - locked.config.w ≤ xOf p → locked.isFused p = false →
    (locked.core p).fwctl.getLsbD 63 = true)) = true ∧ (2 : Nat) / 2 = 1 := by decide +kernel

theorem witness_boot_timeout : ((({ booting with ctxs := [(17, ctxOf 0 0)], now := 10000000 } : State)).ctx 17).status ≠ .empty ∧
    booting.isSystem 1 = false ∧ booting.isFused 1 = false ∧ booting.phaseTime + 10000000 ≤ 10000000 := by decide

/-! ## Steps -/

/-- The next cycle is that of core 1, on which slot 1 has its turn. -/
def cycling (w : BitVec 32) : State :=
  { dev 0 0 with
    agenda := [⟨3, .cycle 1⟩], cores := [(1, { CoreS.reset 1 with cyc := 1 })]
    mem := memWrite 0x100020100 (bytesOfNat 4 w.toNat) [] }

theorem witness_cycle : ({ cycling 0x09200000 with agenda := [], now := 3 } : State).issuer 1 = some (1, false) ∧
    (cycling 0x09200000).me.trapping = none ∧ (cycling 0x09200000).boundaryDue 17 = false ∧
    prefixOk (cycling 0x09200000).me.pfx (.addi 9 0 0) = true ∧ waitsForRegister (cycling 0x09200000).me (.addi 9 0 0) = false ∧
    (match step (cycling 0x09200000) with | .next t => decide (t.me.pc = 0x104 ∧ t.now = 3 ∧ (t.core 1).cyc = 2) | _ => false) = true := by
  decide +kernel

theorem witness_cycle_handler : ({ handling none summing with cores := [(1, { CoreS.reset 1 with handler := [.access ⟨.access 17 0, 0x100021000, 0⟩] })] } : State).issuer 1 =
    some (0, false) ∧ ({ dev 0 0 with ctxs := [] } : State).issuer 1 = none := by decide +kernel

theorem witness_cycle_waits : waitsForRegister { ctxOf 0 0 with
    port := some ⟨0, .load 9 false, false, [lastPart true false], []⟩ } (.addi 9 9 0) = true ∨
    waitsForRegister (ctxOf 0 0) (.addi 9 9 0) = false := by decide

theorem witness_event : spontaneous .masterLost = true ∧ spontaneous .halt = false ∧
    (match step { world false 0 0 with agenda := [⟨0, .event .masterLost⟩] } with | .next t => t.tstat | _ => 0) = 3 := by decide

theorem witness_invariant : (cycling 0x09200000).Inv := ⟨by decide, by decide, by decide, by decide⟩

end Sys2Proof.Tests
end

/-!
Device control space (R4, R5, R284, R292 to R295, R298, R344, R359, R373): what an access to a context image or to a
memory-mapped register reads, changes and leaves alone.
-/

namespace Sys2Proof.ControlSpace
open Sys2Proof Sys2Proof.Machine Sys2Proof.Claims

/-! ## The instructions of control space -/

theorem exec_contextImageRead (tid off : Nat) (s : State) :
    exec (.contextImageRead tid off) s = .next (s.readImage tid off).2 := by rfl

theorem exec_contextImageWrite (tid off v : Nat) (s : State) :
    exec (.contextImageWrite tid off v) s = .next (s.writeImage tid off (BitVec.ofNat 64 v)) := by rfl

theorem exec_fwctlWrite (pcn v : Nat) (s : State) :
    exec (.fwctlWrite pcn v) s = .next (if s.isSystem pcn then s.writeFwctl pcn v else s) := by rfl

theorem exec_pwrlimWrite (v : Nat) (s : State) : exec (.pwrlimWrite v) s = .next (s.writePwrlim v) := by rfl

theorem exec_controlRegisterWrite (a v : Nat) (s : State) :
    exec (.controlRegisterWrite a v) s = execControlRegisterWrite a v s := by rfl

/-! ## What one update changes -/

theorem onlyOneCore_setCore (s : State) (pcn : Nat) (k : CoreS) : OnlyOneCore s (s.setCore pcn k) pcn k where
  device := rfl
  core := s.core_setCore_same pcn k
  others _ h := s.core_setCore_other h k

theorem countsRefusal_countCtlerr (s : State) (pcn : Nat) : CountsRefusal s (s.countCtlerr pcn) pcn :=
  onlyOneCore_setCore s pcn _

theorem onlyCtx_setCtx (s : State) (tid : Nat) (c : Ctx) : OnlyCtx s (s.setCtx tid c) tid c :=
  ⟨s.ctx_setCtx_same tid c, fun _ h => s.ctx_setCtx_other h c, rfl⟩

/-! ## Ring registers of a context that an image shows (R294) -/

theorem sameRings_iff (c d : Ctx) : sameRings c d = true ↔ SameRings c d := by
  simp [sameRings, SameRings, and_assoc]

/-- A slot that has never been written differs from the default context in its level only. -/
theorem imageCtx_eq (s : State) (tid : Nat) : ∃ x : Word, s.imageCtx tid = { s.ctx tid with xstat := x } := by
  unfold State.imageCtx State.ctx tableGet
  cases tableFind tid s.ctxs with
  | none => exact ⟨s.resetStat tid, rfl⟩
  | some c => exact ⟨c.xstat, rfl⟩

theorem imageCtx_status (s : State) (tid : Nat) : (s.imageCtx tid).status = (s.ctx tid).status := by
  obtain ⟨x, hx⟩ := imageCtx_eq s tid
  rw [hx]

theorem imageCtx_proc (s : State) (tid : Nat) : (s.imageCtx tid).proc = (s.ctx tid).proc := by
  obtain ⟨x, hx⟩ := imageCtx_eq s tid
  rw [hx]

/-- Ring registers that a write leaves as the image shows them are not marked. -/
theorem markRings_of_sameRings {s : State} {tid : Nat} {d : Ctx} (h : SameRings (s.imageCtx tid) d) :
    s.markRings tid d = d := by
  obtain ⟨x, hx⟩ := imageCtx_eq s tid
  have hd : sameRings (s.ctx tid) d = true := by
    rw [hx] at h
    exact (sameRings_iff _ _).2 h
  simp [State.markRings, hd]

theorem markRings_eq (s : State) (tid : Nat) (d : Ctx) : ∃ r, s.markRings tid d = { d with ringsWritten := r } := by
  unfold State.markRings
  lift_lets
  intro c agree
  by_cases ha : agree = true
  · exact ⟨d.ringsWritten, if_pos ha⟩
  · exact ⟨true, if_neg ha⟩

/-! ## Which images are open (R293) -/

/-- A halted or parked context shows the state code of a stopped one. -/
theorem statusCode_eq_zero_or_three_iff (c : Ctx) : statusCode c = 0 ∨ statusCode c = 3 ↔
    c.status = .empty ∨ c.status = .stopped ∨
      (c.status = .ready ∨ c.status = .waiting) ∧ (c.halted = true ∨ c.parked = true) := by
  unfold statusCode
  cases c.status with
  | empty | reserved | stopped => simp
  | ready => cases c.halted <;> cases c.parked <;> cases c.wrapStop <;> simp
  | waiting => cases c.halted <;> cases c.parked <;> simp

theorem imageOpen_iff (s : State) (tid : Nat) : s.imageOpen tid = true ↔ ImageOpen s tid := by
  simp [State.imageOpen, ImageOpen, slotOfTid, ← statusCode_eq_zero_or_three_iff]

theorem readImage_closed {s : State} {tid : Nat} (h : ¬ ImageOpen s tid) (off : Nat) :
    s.readImage tid off = (BitVec.allOnes 64, s.countCtlerr (tid / 16)) :=
  if_neg (mt (imageOpen_iff s tid).1 h)

theorem writeImage_closed {s : State} {tid : Nat} (h : ¬ ImageOpen s tid) (off : Nat) (v : Word) :
    s.writeImage tid off v = s.countCtlerr (tid / 16) := by
  have hc : s.imageOpen tid = false := Bool.eq_false_iff.2 (mt (imageOpen_iff s tid).1 h)
  simp [State.writeImage, hc, coreOfTid]

/-! ## An open image -/

section
variable {s : State} {tid : Nat} (h : ImageOpen s tid)
include h

theorem readImage_open (off : Nat) : s.readImage tid off = (s.imageWord tid off, s) :=
  if_pos ((imageOpen_iff s tid).2 h)

/-- A write with a bit that its doubleword does not have changes nothing (R5). -/
theorem writeImage_reserved {off : Nat} {v : Word} (hk : off / 8 < 64) (hv : v &&& ~~~State.imageMask (off / 8) ≠ 0) :
    s.writeImage tid off v = s := by
  have hc : (!s.imageOpen tid) = false := by simp [(imageOpen_iff s tid).2 h]
  unfold State.writeImage
  rw [hc, if_neg Bool.false_ne_true, if_neg (Nat.not_le.2 hk), if_pos hv]

theorem writeImage_lvt {off : Nat} {v : Word} (hk : off / 8 = 7) :
    s.writeImage tid off v = s.modProc (s.imageProc tid) fun p => { p with lvt := v.toNat } := by
  have hv : v &&& ~~~State.imageMask 7 = 0 := by simp [State.imageMask]
  simp [State.writeImage, (imageOpen_iff s tid).2 h, hk, hv]

theorem writeImage_limits {off : Nat} {v : Word} (hk : off / 8 = 15) (hv : v &&& ~~~State.imageMask 15 = 0) :
    s.writeImage tid off v = s.modProc (s.imageProc tid) fun p =>
      { p with spawnLimit := v.toNat % 2 ^ 12, live := v.toNat / 2 ^ 16 % 2 ^ 12 } := by
  simp [State.writeImage, (imageOpen_iff s tid).2 h, hk, hv]

theorem writeImage_vector {off : Nat} {v : Word} (hk : 64 ≤ off / 8) :
    s.writeImage tid off v = s.setMem
      (memWrite (vecKey (tid / 16) (tid % 16 * 512 + (off / 8 * 8 - 512))) (bytesOfNat 8 v.toNat) s.mem) := by
  simp [State.writeImage, (imageOpen_iff s tid).2 h, hk, coreOfTid, slotOfTid]

/-- A doubleword that the context holds: not the vector window, nor the process's LVT and thread limits. -/
theorem writeImage_context {off k : Nat} {v : Word} (hk : off / 8 = k) (hk' : k < 64 ∧ k ≠ 7 ∧ k ≠ 15)
    (hv : v &&& ~~~State.imageMask k = 0) :
    s.writeImage tid off v = (State.putImage (s.imageCtx tid) k v).elim (s.countCtlerr (tid / 16))
      fun c => s.setCtx tid (s.markRings tid c) := by
  obtain ⟨h64, h7, h15⟩ := hk'
  have hc : (!s.imageOpen tid) = false := by simp [(imageOpen_iff s tid).2 h]
  unfold State.writeImage
  rw [hk, hc, if_neg Bool.false_ne_true, if_neg (Nat.not_le.2 h64), if_neg (not_not.2 hv)]
  split
  · contradiction
  · contradiction
  · cases State.putImage (s.imageCtx tid) k v <;> rfl

end

/-! ## The clauses on context images -/

/-- The image of slot k lies at 0x4000 + 1024 · k of its core's page (R292). -/
theorem readControl_image (s : State) {tid off : Nat} (hoff : off < 1024) (hp : tid / 16 < 4096) :
    s.readControl (0x400000000 + tid / 16 * 2 ^ 15 + 0x4000 + tid % 16 * 1024 + off) = s.readImage tid off := by
  have hslot := Nat.mod_lt tid (by decide : 0 < 16)
  have hdev : ¬ 0x408000000 ≤ 0x400000000 + tid / 16 * 2 ^ 15 + 0x4000 + tid % 16 * 1024 + off := by omega
  have hpcn : (0x400000000 + tid / 16 * 2 ^ 15 + 0x4000 + tid % 16 * 1024 + off) / 2 ^ 15 % 2 ^ 12 = tid / 16 := by omega
  have hpage : (0x400000000 + tid / 16 * 2 ^ 15 + 0x4000 + tid % 16 * 1024 + off) % 2 ^ 15 =
      0x4000 + tid % 16 * 1024 + off := by omega
  unfold State.readControl
  rw [if_neg hdev, hpcn, hpage]
  dsimp only
  rw [if_pos (by omega), show tid / 16 * 16 + (0x4000 + tid % 16 * 1024 + off - 0x4000) / 1024 = tid by omega,
    show (0x4000 + tid % 16 * 1024 + off) % 1024 = off by omega]

/-- A closed image: a read gives all ones, a write is discarded, and each is counted (R293). -/
theorem image_closed {s : State} {tid : Nat} (h : ¬ ImageOpen s tid) (off v : Nat) :
    (s.readImage tid off).1 = BitVec.allOnes 64 ∧ CountsRefusal s (s.readImage tid off).2 (tid / 16) ∧
      (Completes (.contextImageRead tid off) s fun t => CountsRefusal s t (tid / 16)) ∧
      Completes (.contextImageWrite tid off v) s fun t => CountsRefusal s t (tid / 16) := by
  have counted := countsRefusal_countCtlerr s (tid / 16)
  have hr := readImage_closed h off
  have hw := writeImage_closed h off (BitVec.ofNat 64 v)
  exact ⟨congrArg Prod.fst hr, hr ▸ counted, ⟨_, exec_contextImageRead tid off s, hr ▸ counted⟩,
    ⟨_, exec_contextImageWrite tid off v s, hw ▸ counted⟩⟩

/-- The record of the process whose LVT and thread limits an image shows. -/
theorem imageProc_eq (s : State) (tid : Nat) :
    s.imageProc tid = if (s.imageCtx tid).status = .empty then State.bareKey tid else (s.imageCtx tid).proc := by
  rw [imageCtx_status, imageCtx_proc]
  rfl

theorem getLsbD_eight (b : Nat) : (8 : Word).getLsbD b = decide (b = 3) := by
  rw [show (8 : Word) = BitVec.twoPow 64 3 by decide, BitVec.getLsbD_twoPow]
  simp [eq_comm]

/-- Bit 3 of the status register is the pend bit, whatever stands in the register (R284). -/
theorem getLsbD_statusRead (c : Ctx) (b : Nat) :
    (statusRead c).getLsbD b = if b = 3 then !c.late.isEmpty else c.xstat.getLsbD b := by
  have pend : (if c.late.isEmpty then (0 : Word) else 8).getLsbD b = (!c.late.isEmpty && decide (b = 3)) := by
    cases c.late.isEmpty with
    | false => simpa using getLsbD_eight b
    | true => simp
  rw [statusRead, BitVec.getLsbD_or, BitVec.getLsbD_and, BitVec.getLsbD_not, getLsbD_eight, pend]
  by_cases hb : b = 3
  · simp [hb]
  · rcases Nat.lt_or_ge b 64 with hlt | hge
    · simp [hb, hlt]
    · simp [hb, BitVec.getLsbD_of_ge _ _ hge]

/-- Every bit of a general register, of a lane mask and of a doubleword of no register takes a write. -/
theorem imageMask_of_le {k : Nat} (hk : 16 ≤ k) : State.imageMask k = BitVec.allOnes 64 := by
  match k, hk with
  | k + 16, _ => rfl

theorem lateMask_of_late_nil {c : Ctx} (hl : c.late = []) : lateMask c = 0 := by
  simp [lateMask, hl]

section
variable {s : State} {tid off v : Nat} (h : ImageOpen s tid)
include h

theorem exec_read_open : exec (.contextImageRead tid off) s = .next s := by
  rw [exec_contextImageRead, readImage_open h]

theorem readImage_of_word {x : Word} (hx : s.imageWord tid off = x) : s.readImage tid off = (x, s) := by
  rw [readImage_open h, hx]

theorem exec_write_reserved {k : Nat} (hk : off / 8 = k) (hk' : k < 64)
    (hv : BitVec.ofNat 64 v &&& ~~~State.imageMask k ≠ 0) : exec (.contextImageWrite tid off v) s = .next s := by
  subst hk
  rw [exec_contextImageWrite, writeImage_reserved h hk' hv]

/-- A write that the context takes, and that leaves its ring registers as they are, changes nothing else. -/
theorem completes_write {k : Nat} {d : Ctx} (hk : off / 8 = k) (hk' : k < 64 ∧ k ≠ 7 ∧ k ≠ 15)
    (hv : BitVec.ofNat 64 v &&& ~~~State.imageMask k = 0)
    (hd : State.putImage (s.imageCtx tid) k (BitVec.ofNat 64 v) = some d) (hr : SameRings (s.imageCtx tid) d) :
    Completes (.contextImageWrite tid off v) s fun t => OnlyCtx s t tid d := by
  refine ⟨_, exec_contextImageWrite tid off v s, ?_⟩
  rw [writeImage_context h hk hk' hv, hd, Option.elim_some, markRings_of_sameRings hr]
  exact onlyCtx_setCtx s tid d

/-- PC: a write starts the context anew at a word; nothing that it had begun is held. -/
theorem image_pc (ho : off = 0) : s.readImage tid off = ((s.imageCtx tid).pc, s) ∧
    Completes (.contextImageWrite tid off v) s fun t => OnlyCtx s t tid
      { s.imageCtx tid with pc := BitVec.ofNat 64 v &&& ~~~(3 : Word), pfx := .none, held := none } := by
  subst ho
  exact ⟨readImage_of_word h rfl,
    completes_write h (k := 0) rfl (by decide) (by simp [State.imageMask]) rfl ⟨rfl, rfl, rfl, rfl, rfl⟩⟩

/-- XSTAT takes every bit but pend, which the late traps set. -/
theorem image_status (ho : off = 16) : ∃ x : Word, s.readImage tid off = (x, s) ∧
    (∀ b, b ≠ 3 → x.getLsbD b = (s.imageCtx tid).xstat.getLsbD b) ∧ x.getLsbD 3 = !(s.imageCtx tid).late.isEmpty ∧
    Completes (.contextImageWrite tid off v) s fun t => OnlyCtx s t tid
      { s.imageCtx tid with xstat := BitVec.ofNat 64 v &&& ~~~(8 : Word) } := by
  subst ho
  exact ⟨statusRead (s.imageCtx tid), readImage_of_word h rfl, fun b hb => by rw [getLsbD_statusRead, if_neg hb],
    by rw [getLsbD_statusRead, if_pos rfl],
    completes_write h (k := 2) rfl (by decide) (by simp [State.imageMask]) rfl ⟨rfl, rfl, rfl, rfl, rfl⟩⟩

/-- LVT belongs to the process, and so its write leaves every context alone. -/
theorem image_lvt (hv : v < 2 ^ 64) (ho : off = 56) {key : Nat} (hkey : s.imageProc tid = key) :
    s.readImage tid off = (BitVec.ofNat 64 (s.proc key).lvt, s) ∧
      Completes (.contextImageWrite tid off v) s fun t => t.proc key = { s.proc key with lvt := v } ∧
        (∀ k, k ≠ key → t.proc k = s.proc k) ∧ { t with procs := s.procs } = s := by
  subst ho hkey
  refine ⟨readImage_of_word h rfl, _, exec_contextImageWrite tid 56 v s, ?_⟩
  rw [writeImage_lvt h rfl, BitVec.toNat_ofNat, Nat.mod_eq_of_lt hv]
  exact ⟨s.proc_setProc_same _ _, fun k hk => s.proc_setProc_other hk _, rfl⟩

/-- The thread limit and the live threads belong to the process. -/
theorem image_limits (hv : v < 2 ^ 64) (ho : off = 120) {key : Nat} (hkey : s.imageProc tid = key) :
    s.readImage tid off = (BitVec.ofNat 64 ((s.proc key).spawnLimit % 2 ^ 12 + (s.proc key).live % 2 ^ 12 * 2 ^ 16), s) ∧
      (BitVec.ofNat 64 v &&& 0xFFFFFFFFF000F000 ≠ 0 → exec (.contextImageWrite tid off v) s = .next s) ∧
      (BitVec.ofNat 64 v &&& 0xFFFFFFFFF000F000 = 0 → Completes (.contextImageWrite tid off v) s fun t =>
        t.proc key = { s.proc key with spawnLimit := v % 2 ^ 12, live := v / 2 ^ 16 % 2 ^ 12 } ∧
        (∀ k, k ≠ key → t.proc k = s.proc k) ∧ { t with procs := s.procs } = s) := by
  subst ho hkey
  refine ⟨readImage_of_word h rfl, exec_write_reserved h (k := 15) rfl (by decide),
    fun hm => ⟨_, exec_contextImageWrite tid 120 v s, ?_⟩⟩
  rw [writeImage_limits h rfl hm, BitVec.toNat_ofNat, Nat.mod_eq_of_lt hv]
  exact ⟨s.proc_setProc_same _ _, fun k hk => s.proc_setProc_other hk _, rfl⟩

/-- The predicate word with RMODE, the flags and SRNG, which takes 1 for 0 (R118). -/
theorem image_modes (ho : off = 64) :
    s.readImage tid off = (BitVec.ofNat 64 ((s.imageCtx tid).pw.toNat + (s.imageCtx tid).rmode.toNat * 2 ^ 16 +
        (s.imageCtx tid).fflags.toNat * 2 ^ 24 + (s.imageCtx tid).srng.toNat * 2 ^ 32), s) ∧
      (BitVec.ofNat 64 v &&& 0xF80000 = 0 → Completes (.contextImageWrite tid off v) s fun t => OnlyCtx s t tid
        { s.imageCtx tid with
          pw := (BitVec.ofNat 64 v).setWidth 16, rmode := (BitVec.ofNat 64 v >>> 16).setWidth 3
          fflags := (BitVec.ofNat 64 v >>> 24).setWidth 8 &&& 0xBF
          srng := if (BitVec.ofNat 64 v >>> 32).setWidth 32 = (0 : BitVec 32) then 1
            else (BitVec.ofNat 64 v >>> 32).setWidth 32 }) := by
  subst ho
  exact ⟨readImage_of_word h rfl,
    fun hm => completes_write h (k := 8) rfl (by decide) hm rfl ⟨rfl, rfl, rfl, rfl, rfl⟩⟩

/-- The upper half of an image is the slot's vector window. -/
theorem image_vector (hv : v < 2 ^ 64) (h8 : off % 8 = 0) (ho : 512 ≤ off) :
    s.readImage tid off =
        (BitVec.ofNat 64 (memNat s.mem (vecKey (tid / 16) (tid % 16 * 512 + (off - 512))) 8), s) ∧
      exec (.contextImageWrite tid off v) s = .next { s with
        mem := memWrite (vecKey (tid / 16) (tid % 16 * 512 + (off - 512))) (bytesOfNat 8 v) s.mem } := by
  have hk : 64 ≤ off / 8 := by omega
  have hoff : off / 8 * 8 = off := by omega
  constructor
  · apply readImage_of_word h
    unfold State.imageWord
    rw [if_pos hk, hoff]
    rfl
  · rw [exec_contextImageWrite, writeImage_vector h hk, hoff, BitVec.toNat_ofNat, Nat.mod_eq_of_lt hv]
    rfl

/-- A doubleword that holds no field a write takes: the state, which is read-only, and those of no register. -/
theorem completes_write_none {k : Nat} (hk : off / 8 = k) (hro : k = 9 ∨ k = 47 ∨ 51 ≤ k ∧ k < 64) :
    Completes (.contextImageWrite tid off v) s fun t => OnlyCtx s t tid (s.imageCtx tid) := by
  have hm : State.imageMask k = BitVec.allOnes 64 := by
    rcases hro with rfl | rfl | ⟨hlo, hhi⟩
    · rfl
    · rfl
    · exact imageMask_of_le (by omega)
  have hput : State.putImage (s.imageCtx tid) k (BitVec.ofNat 64 v) = some (s.imageCtx tid) := by
    rcases hro with rfl | rfl | ⟨hlo, hhi⟩
    · rfl
    · rfl
    · interval_cases k <;> rfl
  exact completes_write h hk (by omega) (by simp [hm]) hput ⟨rfl, rfl, rfl, rfl, rfl⟩

/-- The state is read-only. -/
theorem image_state (ho : off = 72) :
    ((s.imageCtx tid).status = .empty → (s.imageCtx tid).late = [] → s.readImage tid off = (0, s)) ∧
      ((s.imageCtx tid).status = .stopped → (s.imageCtx tid).late = [] → s.readImage tid off = (3, s)) ∧
      Completes (.contextImageWrite tid off v) s fun t => OnlyCtx s t tid (s.imageCtx tid) := by
  subst ho
  have word : (s.imageCtx tid).late = [] → s.imageWord tid 72 = BitVec.ofNat 64 (statusCode (s.imageCtx tid)) :=
    fun hl => by
      show BitVec.ofNat 64 (statusCode (s.imageCtx tid) + lateMask (s.imageCtx tid) * 2 ^ 8) = _
      rw [lateMask_of_late_nil hl]
      rfl
  refine ⟨fun hst hl => readImage_of_word h ?_, fun hst hl => readImage_of_word h ?_,
    completes_write_none h (k := 9) rfl (.inl rfl)⟩
  · rw [word hl, statusCode, hst]
    rfl
  · rw [word hl, statusCode, hst]
    rfl

theorem image_unassigned (h8 : off % 8 = 0) (ho : off = 376 ∨ 408 ≤ off ∧ off < 512) :
    s.readImage tid off = (0, s) ∧
      Completes (.contextImageWrite tid off v) s fun t => OnlyCtx s t tid (s.imageCtx tid) := by
  obtain ⟨k, rfl⟩ : ∃ k, off = 8 * k := ⟨off / 8, by omega⟩
  have hk : k = 47 ∨ 51 ≤ k ∧ k < 64 := by omega
  refine ⟨readImage_of_word h ?_, completes_write_none h (k := k) (by omega) (.inr hk)⟩
  rcases hk with rfl | ⟨hlo, hhi⟩
  · rfl
  · interval_cases k <;> rfl

/-- The general registers but g0. -/
theorem image_g (r : GReg) (hr : r ≠ 0) (ho : off = 120 + 8 * r.val) :
    s.readImage tid off = ((s.imageCtx tid).g r, s) ∧ Completes (.contextImageWrite tid off v) s fun t =>
      OnlyCtx s t tid ((s.imageCtx tid).setG r (BitVec.ofNat 64 v)) := by
  have hpos : 0 < r.val := Nat.pos_of_ne_zero fun h0 => hr (Fin.ext h0)
  have hk : off / 8 = r.val + 15 := by omega
  have hreg : (16 ≤ r.val + 15 && r.val + 15 ≤ 46) = true := by simp; omega
  have hfin : Fin.ofNat 32 (r.val + 15 - 15) = r := Fin.ext (Nat.mod_eq_of_lt r.isLt)
  constructor
  · apply readImage_of_word h
    unfold State.imageWord
    rw [hk, if_neg (by omega), if_pos hreg, hfin]
  · refine completes_write h hk (by omega) (by simp [imageMask_of_le (show 16 ≤ r.val + 15 by omega)]) ?_
      ⟨?_, ?_, ?_, ?_, ?_⟩
    · unfold State.putImage
      rw [if_pos hreg, hfin]
    all_goals simp

/-- The lane masks but m0. -/
theorem image_m (m : MReg) (hm : m ≠ 0) (ho : off = 376 + 8 * m.val) :
    s.readImage tid off = ((s.imageCtx tid).masks[m], s) ∧ Completes (.contextImageWrite tid off v) s fun t =>
      OnlyCtx s t tid ((s.imageCtx tid).setM m (BitVec.ofNat 64 v)) := by
  have hpos : 0 < m.val := Nat.pos_of_ne_zero fun h0 => hm (Fin.ext h0)
  have hk : off / 8 = m.val + 47 := by omega
  constructor
  · apply readImage_of_word h
    subst ho
    match m, hm with
    | 1, _ | 2, _ | 3, _ => rfl
  · refine completes_write h hk (by omega) (by simp [imageMask_of_le (show 16 ≤ m.val + 47 by omega)]) ?_
      ⟨?_, ?_, ?_, ?_, ?_⟩
    · match m, hm with
      | 1, _ | 2, _ | 3, _ => rfl
    all_goals simp

end

/-! ## Control registers in an image (R284, R294) -/

/-- `crr` of a listed register finds what its entry says. -/
theorem readCreg_of_listed (s : State) : ∀ z ∈ readable s ++ ringRegisters s, s.readCreg z.1 = some z.2 := by
  simp only [readable, ringRegisters, List.cons_append, List.nil_append, List.forall_mem_cons]
  exact ⟨rfl, rfl, rfl, rfl, rfl, rfl, rfl, rfl, rfl, rfl, rfl, rfl, rfl, rfl, rfl, rfl, rfl, rfl, rfl, rfl, rfl, rfl,
    rfl, rfl, rfl, rfl, fun _ hz => absurd hz List.not_mem_nil⟩

theorem putCreg_ckring (c : Ctx) (v : Word) :
    putCreg c 0x110 v = if v.toNat / 2 ^ 20 = 1 then none else some { c with ckring := v } := by
  have limit : (v >>> 20 != 1) = !decide (v.toNat / 2 ^ 20 = 1) := by
    rw [bne, Bool.beq_eq_decide_eq]
    simp [BitVec.toNat_eq, Nat.shiftRight_eq_div_pow]
  by_cases hv : v.toNat / 2 ^ 20 = 1
  · simp only [putCreg, ringLimitOk, limit, hv, decide_true, Bool.not_true, Bool.false_eq_true, if_false, if_true]
  · simp only [putCreg, ringLimitOk, limit, hv, decide_false, Bool.not_false, if_false, if_true]

theorem putCreg_ckpos (c : Ctx) (v : Word) :
    putCreg c 0x111 v = if v.toNat / 2 ^ 16 ≤ c.ckring.toNat / 2 ^ 20 then some { c with ckpos := v } else none := by
  simp [putCreg, ringLimitOk, Nat.shiftRight_eq_div_pow]

theorem putCreg_jring (c : Ctx) (v : Word) : putCreg c 0x113 v =
    if 1 ≤ v.toNat / 2 ^ 32 ∧ v.toNat / 2 ^ 32 < 16 then none else some { c with jring := v } := by
  have limit : ringLimitOk 0x113 v c.ckring = !decide (1 ≤ v.toNat / 2 ^ 32 ∧ v.toNat / 2 ^ 32 < 16) := by
    rw [Bool.eq_iff_iff]
    simp only [ringLimitOk, Bool.or_eq_true, beq_iff_eq, BitVec.toNat_eq, BitVec.toNat_ushiftRight,
      Nat.shiftRight_eq_div_pow, decide_eq_true_eq, Bool.not_eq_true', decide_eq_false_iff_not]
    simp
    omega
  by_cases hv : 1 ≤ v.toNat / 2 ^ 32 ∧ v.toNat / 2 ^ 32 < 16
  · simp only [putCreg, limit, hv, and_self, decide_true, Bool.not_true, Bool.false_eq_true, if_false, if_true]
  · simp only [putCreg, limit, hv, decide_false, Bool.not_false, if_false, if_true]

/-- A listed register has the bits and takes the values that its entry says. -/
theorem putCreg_of_listed (s : State) :
    ∀ y ∈ writable s, cregMask y.1 = some y.2.1 ∧ ∀ v, putCreg s.me y.1 v = y.2.2 v := by
  simp only [writable, List.forall_mem_cons]
  exact ⟨⟨rfl, fun _ => rfl⟩, ⟨rfl, fun _ => rfl⟩, ⟨rfl, fun _ => rfl⟩, ⟨rfl, fun _ => rfl⟩, ⟨rfl, fun _ => rfl⟩,
    ⟨rfl, fun _ => rfl⟩, ⟨rfl, fun _ => rfl⟩, ⟨rfl, fun _ => rfl⟩, ⟨rfl, putCreg_ckring _⟩, ⟨rfl, putCreg_ckpos _⟩,
    ⟨rfl, fun _ => rfl⟩, ⟨rfl, putCreg_jring _⟩, ⟨rfl, fun _ => rfl⟩, fun _ hy => absurd hy List.not_mem_nil⟩

theorem putCreg_ringsWritten {c d : Ctx} {n : Nat} {v : Word} (hd : putCreg c n v = some d) :
    d.ringsWritten = c.ringsWritten := by
  unfold putCreg at hd
  split at hd
  case h_1 | h_10 | h_11 | h_13 => split at hd <;> cases hd; rfl
  all_goals cases hd <;> rfl

/-- The doubleword of a register shows it. -/
theorem imageWord_register {s u : State} {tid : Nat} (hu : u.me = s.imageCtx tid) :
    ∀ x ∈ imageRegisters, u.readCreg x.2 = some (s.imageWord tid x.1) := by
  simp only [imageRegisters, List.forall_mem_cons, State.readCreg, hu]
  exact ⟨rfl, rfl, rfl, rfl, rfl, rfl, rfl, rfl, rfl, rfl, fun _ hx => absurd hx List.not_mem_nil⟩

/-- The bits and the limits of a doubleword of a register are the register's; the low bits of XPC ignore writes. -/
theorem putImage_register (c : Ctx) (v : Word) :
    ∀ x ∈ imageRegisters, State.putImage c (x.1 / 8) v = putCreg c x.2 (if x.2 = 0x100 then v &&& ~~~3 else v) ∧
      some (State.imageMask (x.1 / 8)) = if x.2 = 0x100 then some (BitVec.allOnes 64) else cregMask x.2 := by
  simp only [imageRegisters, List.forall_mem_cons]
  exact ⟨⟨rfl, rfl⟩, ⟨rfl, rfl⟩, ⟨rfl, rfl⟩, ⟨rfl, rfl⟩, ⟨rfl, rfl⟩, ⟨rfl, rfl⟩, ⟨rfl, rfl⟩, ⟨rfl, rfl⟩, ⟨rfl, rfl⟩,
    ⟨rfl, rfl⟩, fun _ hx => absurd hx List.not_mem_nil⟩

theorem imageRegisters_place : ∀ x ∈ imageRegisters, x.1 / 8 < 64 ∧ x.1 / 8 ≠ 7 ∧ x.1 / 8 ≠ 15 := by decide

theorem and_eq_self_of_and_not_eq_zero {w m : Word} (hw : w &&& ~~~m = 0) : w &&& m = w := by
  calc w &&& m = (w &&& m) ||| (w &&& ~~~m) := by rw [hw, BitVec.ofNat_eq_ofNat, BitVec.or_zero]
    _ = w &&& (m ||| ~~~m) := BitVec.and_or_distrib_left.symm
    _ = w := by rw [BitVec.or_not_self, BitVec.and_allOnes]

section
variable {s u : State} {tid v : Nat} {x : Nat × Nat} {y : Nat × Word × (Word → Option Ctx)}
  (h : ImageOpen s tid) (hu : u.me = s.imageCtx tid) (hx : x ∈ imageRegisters)
include h hu hx

theorem readImage_register {z : Nat × Word} (hz : z ∈ readable u ++ ringRegisters u) (hzx : z.1 = x.2) :
    s.readImage tid x.1 = (z.2, s) := by
  have shown := imageWord_register hu x hx
  rw [← hzx, readCreg_of_listed u z hz] at shown
  exact readImage_of_word h (Option.some.inj shown).symm

variable (hy : y ∈ writable u) (hyx : y.1 = x.2)
include hy hyx

omit h in
/-- What the context takes of a write whose bits the register has: the register's value for the register's bits. -/
theorem putImage_listed (hw : x.2 = 0x100 ∨ BitVec.ofNat 64 v &&& ~~~y.2.1 = 0) :
    BitVec.ofNat 64 v &&& ~~~State.imageMask (x.1 / 8) = 0 ∧
      State.putImage (s.imageCtx tid) (x.1 / 8) (BitVec.ofNat 64 v) = y.2.2 (BitVec.ofNat 64 v &&& y.2.1) := by
  obtain ⟨hput, hmask⟩ := putImage_register (s.imageCtx tid) (BitVec.ofNat 64 v) x hx
  obtain ⟨hbits, hval⟩ := putCreg_of_listed u y hy
  rw [hyx] at hbits
  rw [hput, ← hval, hyx, hu]
  by_cases hxpc : x.2 = 0x100
  · rw [if_pos hxpc] at hmask ⊢
    rw [hxpc] at hbits
    have hm : y.2.1 = ~~~3 := (Option.some.inj hbits).symm
    exact ⟨by simp [Option.some.inj hmask], by rw [hm]⟩
  · rw [if_neg hxpc] at hmask ⊢
    have hw0 := hw.resolve_left hxpc
    exact ⟨by rwa [Option.some.inj (hmask.trans hbits)], by rw [and_eq_self_of_and_not_eq_zero hw0]⟩

omit hu in
theorem exec_write_register_reserved (hxpc : x.2 ≠ 0x100) (hw : BitVec.ofNat 64 v &&& ~~~y.2.1 ≠ 0) :
    exec (.contextImageWrite tid x.1 v) s = .next s := by
  obtain ⟨-, hmask⟩ := putImage_register (s.imageCtx tid) (BitVec.ofNat 64 v) x hx
  obtain ⟨hbits, -⟩ := putCreg_of_listed u y hy
  rw [if_neg hxpc, ← hyx, hbits] at hmask
  refine exec_write_reserved h rfl (imageRegisters_place x hx).1 ?_
  rwa [Option.some.inj hmask]

/-- A write that the register takes: only the mark of written rings may differ from what the value gives. -/
theorem write_register {d : Ctx} (hw : x.2 = 0x100 ∨ BitVec.ofNat 64 v &&& ~~~y.2.1 = 0)
    (hd : y.2.2 (BitVec.ofNat 64 v &&& y.2.1) = some d) :
    ∃ r, (Completes (.contextImageWrite tid x.1 v) s fun t => OnlyCtx s t tid { d with ringsWritten := r }) ∧
      (SameRings (s.imageCtx tid) d → r = (s.imageCtx tid).ringsWritten) := by
  obtain ⟨hmask, hput⟩ := putImage_listed hu hx hy hyx hw
  have hwrite : s.writeImage tid x.1 (BitVec.ofNat 64 v) = s.setCtx tid (s.markRings tid d) := by
    rw [writeImage_context h rfl (imageRegisters_place x hx) hmask, hput, hd, Option.elim_some]
  have hkeep : d.ringsWritten = (s.imageCtx tid).ringsWritten := by
    rw [← hu]
    exact putCreg_ringsWritten (((putCreg_of_listed u y hy).2 _).trans hd)
  by_cases hsame : SameRings (s.imageCtx tid) d
  · refine ⟨d.ringsWritten, ⟨_, exec_contextImageWrite tid x.1 v s, ?_⟩, fun _ => hkeep⟩
    rw [hwrite, markRings_of_sameRings hsame]
    exact onlyCtx_setCtx s tid d
  · obtain ⟨r, hr⟩ := markRings_eq s tid d
    refine ⟨r, ⟨_, exec_contextImageWrite tid x.1 v s, ?_⟩, fun hs => absurd hs hsame⟩
    rw [hwrite, hr]
    exact onlyCtx_setCtx s tid _

/-- A write that breaks a limit of R294 is discarded and counted. -/
theorem write_register_refused (hw : x.2 = 0x100 ∨ BitVec.ofNat 64 v &&& ~~~y.2.1 = 0)
    (hd : y.2.2 (BitVec.ofNat 64 v &&& y.2.1) = none) :
    Completes (.contextImageWrite tid x.1 v) s fun t => CountsRefusal s t (tid / 16) := by
  obtain ⟨hmask, hput⟩ := putImage_listed hu hx hy hyx hw
  refine ⟨_, exec_contextImageWrite tid x.1 v s, ?_⟩
  rw [writeImage_context h rfl (imageRegisters_place x hx) hmask, hput, hd, Option.elim_none]
  exact countsRefusal_countCtlerr s (tid / 16)

end

theorem contextImages : ContextImages := by
  intro s tid off v h8 hoff hv c pcn w read write reads u proc p
  have hu : u.me = c := tableGet_put_same _ tid c s.ctxs
  have hproc : s.imageProc tid = proc := imageProc_eq s tid
  refine ⟨readControl_image s hoff, fun h => image_closed h off v, fun h => ⟨exec_read_open h, image_pc h,
    image_status h, fun ho => image_lvt h hv ho hproc, fun ho => exec_write_reserved h (k := 8) (by omega) (by decide),
    image_modes h, image_state h, fun ho => image_limits h hv ho hproc, image_g h, image_m h,
    image_unassigned h h8, image_vector h hv h8, ?_⟩⟩
  intro x hx ho y hy hyx
  subst ho
  refine ⟨fun z hz hzx => readImage_register h hu hx hz hzx, exec_write_register_reserved h hx hy hyx, fun hw => ?_⟩
  split
  next d hd => exact write_register h hu hx hy hyx hw hd
  next hd => exact write_register_refused h hu hx hy hyx hw hd

/-! ## Addresses of control space (R292, R359) -/

/-- The address of a register of a core's page. -/
def pageAddr (pcn off : Nat) : Nat := 0x400000000 + pcn * 2 ^ 15 + off

/-- The address of a register of the device block. -/
def deviceAddr (off : Nat) : Nat := 0x408000000 + off

section
variable {pcn off : Nat} (hp : pcn < 4096) (hoff : off < 2 ^ 15)
include hp hoff

theorem pageAddr_lt : pageAddr pcn off < 0x408000000 := by unfold pageAddr; omega

theorem pageAddr_pcn : pageAddr pcn off / 2 ^ 15 % 2 ^ 12 = pcn := by unfold pageAddr; omega

omit hp in
theorem pageAddr_off : pageAddr pcn off % 2 ^ 15 = off := by unfold pageAddr; omega

end

/-! ## Writes by the row of the registers that have none of their own -/

/-- CONTROL_REGISTER_WRITE reaches the ring entries, counters and colour registers of a page. -/
theorem exec_pageWrite (s : State) {pcn off : Nat} (v : Nat) (hp : pcn < 4096)
    (hoff : off < 0x128 ∨ 0x800 ≤ off ∧ off < 0xC10) :
    exec (.controlRegisterWrite (pageAddr pcn off) v) s = .next (s.writeCounters pcn off v) := by
  have hlt : off < 2 ^ 15 := by omega
  have haddr := pageAddr_lt hp hlt
  have hassigned : s.controlAssigned (pageAddr pcn off) = true := by
    simp only [State.controlAssigned, if_pos haddr, pageAddr_off hlt, Bool.or_eq_true, Bool.and_eq_true, decide_eq_true_eq]
    tauto
  have hname : pageAddr pcn off ≠ regbaseName := by unfold regbaseName; omega
  rw [exec_controlRegisterWrite, execControlRegisterWrite, if_neg hname, hassigned, if_neg (by decide),
    if_neg (Nat.not_le.2 haddr), pageAddr_pcn hp hlt, pageAddr_off hlt]

/-- CONTROL_REGISTER_WRITE reaches the device's registers and the 255 entries of the peer table. -/
theorem exec_deviceWrite (s : State) {off : Nat} (v : Nat)
    (hoff : off < 0x38 ∨ 0x1000 ≤ off ∧ off < 0x1000 + 255 * 32) :
    exec (.controlRegisterWrite (deviceAddr off) v) s = .next (s.writeDevice off v) := by
  have haddr : ¬ deviceAddr off < 0x408000000 := by unfold deviceAddr; omega
  have hassigned : s.controlAssigned (deviceAddr off) = true := by
    simp only [State.controlAssigned, if_neg haddr, Bool.or_eq_true, Bool.and_eq_true, decide_eq_true_eq]
    unfold deviceAddr
    omega
  have hname : deviceAddr off ≠ regbaseName := by unfold deviceAddr regbaseName; omega
  have hdev : deviceAddr off - 0x408000000 = off := by unfold deviceAddr; omega
  rw [exec_controlRegisterWrite, execControlRegisterWrite, if_neg hname, hassigned, if_neg (by decide),
    if_pos (Nat.not_lt.1 haddr), hdev]

theorem exec_regbaseWrite (s : State) {v : Nat} (hv : v < 2 ^ 64) :
    exec (.controlRegisterWrite regbaseName v) s = .next { s with regbase := v } := by
  rw [exec_controlRegisterWrite, execControlRegisterWrite, if_pos rfl, Nat.mod_eq_of_lt hv]

/-- A write to a page that changes one part of its core changes nothing else. -/
theorem completes_pageWrite {s : State} {pcn off v : Nat} {k : CoreS} (hp : pcn < 4096)
    (hoff : off < 0x128 ∨ 0x800 ≤ off ∧ off < 0xC10) (hw : s.writeCounters pcn off v = s.setCore pcn k) :
    Completes (.controlRegisterWrite (pageAddr pcn off) v) s fun t => OnlyOneCore s t pcn k :=
  ⟨_, exec_pageWrite s v hp hoff, hw ▸ onlyOneCore_setCore s pcn k⟩

theorem writeCounters_rcolcfg (s : State) (pcn v : Nat) {c : Nat} (hc : c < 64) :
    s.writeCounters pcn (0xA00 + 8 * c) v =
      if v < 2 ^ 17 then s.modCore pcn fun k => { k with rcolcfg := tablePut c (BitVec.ofNat 17 v) k.rcolcfg } else s := by
  have hoff : (0xA00 ≤ 0xA00 + 8 * c && 0xA00 + 8 * c < 0xC00) = true := by simp; omega
  unfold State.writeCounters
  rw [if_pos hoff, show (0xA00 + 8 * c - 0xA00) / 8 = c by omega]

/-- The ring entries of a page are read-only (R292). -/
theorem writeCounters_ring (s : State) (pcn v : Nat) {off : Nat} (hoff : off < 0x100) :
    s.writeCounters pcn off v = s := by
  unfold State.writeCounters
  rw [if_neg (by simp; omega)]
  split
  case h_6 => rfl
  all_goals omega

theorem writeDevice_rrq (s : State) (v : Nat) : s.writeDevice 0x10 v =
    if v % 2 = 1 ∧ v / 2 % 2 ^ 15 = 0 ∧ v < 2 ^ 28 then { s with rrq := false } else s := by
  simp [State.writeDevice, and_assoc]

/-- The other registers below the peer table take no write by this row (R359). -/
theorem writeDevice_ro (s : State) (v : Nat) {off : Nat} (hoff : off < 0x1000) (hrrq : off ≠ 0x10) :
    s.writeDevice off v = s := by
  simp [State.writeDevice, Nat.not_le.2 hoff, hrrq]

/-- Doubleword j of a peer's entry is written, where its reserved bytes stay zero (R359). -/
theorem writeDevice_peer (s : State) (i v : Nat) {j : Nat} (hj : j < 4) : s.writeDevice (0x1000 + 32 * i + 8 * j) v =
    if j < 2 ∨ j = 2 ∧ v < 2 ^ 9 ∨ v = 0 then
      { s with peers :=
          let e := tableGet (List.replicate 32 0) i s.peers
          tablePut i (e.take (8 * j) ++ bytesOfNat 8 v ++ e.drop (8 * j + 8)) s.peers }
    else s := by
  have hi : (0x1000 + 32 * i + 8 * j - 0x1000) / 32 = i := by omega
  have ho : (0x1000 + 32 * i + 8 * j) % 32 / 8 * 8 = 8 * j := by omega
  have legal : (8 * j < 16 || (8 * j = 16 && decide (v < 2 ^ 9)) || v = 0) = true ↔ j < 2 ∨ j = 2 ∧ v < 2 ^ 9 ∨ v = 0 := by
    simp only [Bool.or_eq_true, Bool.and_eq_true, decide_eq_true_eq]
    omega
  rw [State.writeDevice, if_pos (by omega), hi, ho, State.writePeer]
  simp only [legal]

/-! ## Reads -/

theorem readControl_page (s : State) {pcn off : Nat} (hp : pcn < 4096) (hoff : off < 0x4000)
    (hplain : off < 0x800 ∨ 0xA00 ≤ off ∧ off < 0x1000 ∨ 0x2000 ≤ off) :
    s.readControl (pageAddr pcn off) = (BitVec.ofNat 64 (s.readPage pcn off), s) := by
  have hlt : off < 2 ^ 15 := by omega
  unfold State.readControl
  rw [if_neg (Nat.not_le.2 (pageAddr_lt hp hlt)), pageAddr_pcn hp hlt, pageAddr_off hlt]
  dsimp only
  rw [if_neg (by omega), if_neg (by simp; omega), if_neg (by simp; omega)]

theorem readControl_inFlight (s : State) {pcn c : Nat} (hp : pcn < 4096) (hc : c < 64) :
    (s.readControl (pageAddr pcn (0x800 + 8 * c))).1 = BitVec.ofNat 64 (s.inFlight pcn c) := by
  have hlt : 0x800 + 8 * c < 2 ^ 15 := by omega
  unfold State.readControl
  rw [if_neg (Nat.not_le.2 (pageAddr_lt hp hlt)), pageAddr_pcn hp hlt, pageAddr_off hlt]
  dsimp only
  rw [if_neg (by omega), if_pos (by simp; omega), show (0x800 + 8 * c - 0x800) / 8 = c by omega]

theorem readControl_device (s : State) (off : Nat) :
    s.readControl (deviceAddr off) = (BitVec.ofNat 64 (s.readDevice off), s) := by
  unfold State.readControl deviceAddr
  rw [if_pos (Nat.le_add_right _ _), Nat.add_sub_cancel_left]

/-- A colour that no packet has is in no router's buffers (R344). -/
theorem inFlight_of_absent {s : State} {c : Nat} (h : ∀ p ∈ s.net, p.colour ≠ some c) (pcn : Nat) :
    s.inFlight pcn c = 0 := by
  rw [State.inFlight, List.length_eq_zero_iff, List.filter_eq_nil_iff]
  intro x hx
  simp [h x.1 (List.fst_mem_of_mem_zipIdx hx)]

theorem ite_pow_eq_toNat (x : Bool) (n : Nat) : (if x then 2 ^ n else 0) = x.toNat * 2 ^ n := by
  cases x <;> simp

/-- Bit 19 of BOOTID says whether the position is fused (R373). -/
theorem getLsbD_bootId_fused (b : BootPos) (fused : Bool) : (BitVec.ofNat 64 (bootId b fused)).getLsbD 19 = fused := by
  have hf := Bool.toNat_le fused
  have hbit : bootId b fused / 2 ^ 19 % 2 = fused.toNat := by
    simp only [bootId, ite_pow_eq_toNat]
    omega
  rw [BitVec.getLsbD_ofNat, Nat.testBit_eq_decide_div_mod_eq, hbit]
  cases fused <;> rfl

/-- A read draws values that the rules leave free (R335, R344), or counts a refused image (R293). -/
theorem readControl_changes (s : State) (a : Nat) :
    (∃ n, (s.readControl a).2 = { s with fresh := s.fresh + n }) ∨ ∃ p, CountsRefusal s (s.readControl a).2 p := by
  unfold State.readControl
  split
  · exact .inl ⟨0, rfl⟩
  · dsimp only
    split
    · by_cases h : ImageOpen s (a / 2 ^ 15 % 2 ^ 12 * 16 + (a % 2 ^ 15 - 0x4000) / 1024)
      · exact .inl ⟨0, congrArg Prod.snd (readImage_open h _)⟩
      · exact .inr ⟨_, by rw [readImage_closed h]; exact countsRefusal_countCtlerr s _⟩
    · split
      · exact .inl ⟨s.net.length, rfl⟩
      · split
        · split
          · exact .inl ⟨0, rfl⟩
          · exact .inl ⟨1, rfl⟩
        · exact .inl ⟨0, rfl⟩

/-! ## The clauses on control registers -/

section
variable (s : State) (pcn v : Nat)

theorem fwctl_write (hsys : s.isSystem pcn = true) (hlock : (s.core pcn).fwctl.getLsbD 63 = false) :
    Completes (.fwctlWrite pcn v) s fun t =>
      OnlyOneCore s t pcn { s.core pcn with fwctl := BitVec.ofNat 64 v &&& 0x800000000000001F } := by
  refine ⟨_, exec_fwctlWrite pcn v s, ?_⟩
  rw [if_pos hsys, State.writeFwctl, hlock, if_neg Bool.false_ne_true]
  exact onlyOneCore_setCore s pcn _

/-- A locked firewall, and a core of no system column, which has none (R295). -/
theorem fwctl_write_ignored (h : s.isSystem pcn = false ∨ (s.core pcn).fwctl.getLsbD 63 = true) :
    exec (.fwctlWrite pcn v) s = .next s := by
  rw [exec_fwctlWrite, State.writeFwctl]
  rcases h with h | h
  · simp [h]
  · simp [h]

theorem pwrlim_write (hlo : 600 ≤ v) (hhi : v ≤ 2000) : exec (.pwrlimWrite v) s = .next { s with pwrlim := v } := by
  simp [exec_pwrlimWrite, State.writePwrlim, hlo, hhi]

/-- A power limit outside its range (R359). -/
theorem pwrlim_write_ignored (h : v < 600 ∨ 2000 < v) : exec (.pwrlimWrite v) s = .next s := by
  have hout : ¬ (600 ≤ v ∧ v ≤ 2000) := by omega
  simp [exec_pwrlimWrite, State.writePwrlim, hout]

/-- A doubleword of the peer table takes its fields (R359). -/
theorem peer_write {i j : Nat} (hi : i < 255) (hj : j < 4) :
    let e := tableGet (List.replicate 32 0) i s.peers
    (j < 2 ∨ j = 2 ∧ v < 2 ^ 9 ∨ j = 3 ∧ v = 0 →
      exec (.controlRegisterWrite (deviceAddr (0x1000 + 32 * i + 8 * j)) v) s = .next { s with
        peers := tablePut i (e.take (8 * j) ++ bytesOfNat 8 v ++ e.drop (8 * j + 8)) s.peers }) ∧
    (j = 2 ∧ 2 ^ 9 ≤ v ∨ j = 3 ∧ v ≠ 0 →
      exec (.controlRegisterWrite (deviceAddr (0x1000 + 32 * i + 8 * j)) v) s = .next s) := by
  have hoff : 0x1000 ≤ 0x1000 + 32 * i + 8 * j ∧ 0x1000 + 32 * i + 8 * j < 0x1000 + 255 * 32 := by omega
  rw [exec_deviceWrite s v (.inr hoff), writeDevice_peer s i v hj]
  exact ⟨fun h => by rw [if_pos (by omega)], fun h => by rw [if_neg (by omega)]⟩

end

theorem controlRegisters : ControlRegisters := by
  intro s pcn v hv hp k page device write cleared
  refine ⟨fwctl_write s pcn v, fwctl_write_ignored s pcn v, pwrlim_write s v, pwrlim_write_ignored s v,
    completes_pageWrite (off := 0x100) hp (by decide) rfl, completes_pageWrite (off := 0x108) hp (by decide) rfl,
    completes_pageWrite (off := 0x110) hp (by decide) rfl, completes_pageWrite (off := 0x118) hp (by decide) rfl,
    completes_pageWrite (off := 0x120) hp (by decide) rfl, fun c hc h17 => ?_,
    fun c hc h17 => ?_, fun hbit hres htop => ?_, fun h => ?_,
    fun i hi j hj => peer_write s v hi hj, fun off hoff => ?_, fun off hoff => ?_, ?_, ?_, ?_, ?_, ?_, ?_, ?_, ?_,
    fun c hc habsent => ?_, fun hboot => ?_, exec_regbaseWrite s hv, readControl_changes s⟩
  · exact completes_pageWrite hp (.inr (by omega)) ((writeCounters_rcolcfg s pcn v hc).trans (if_pos h17))
  · refine (exec_pageWrite s v hp (.inr (by omega))).trans ?_
    rw [writeCounters_rcolcfg s pcn v hc, if_neg (Nat.not_lt.2 h17)]
  · refine (exec_deviceWrite s v (.inl (by decide))).trans ?_
    rw [writeDevice_rrq, if_pos ⟨hbit, hres, htop⟩]
  · refine (exec_deviceWrite s v (.inl (by decide))).trans ?_
    rw [writeDevice_rrq, if_neg (by omega)]
  · have hro : off < 0x38 ∧ off ≠ 0x10 := by revert off; decide
    refine (exec_deviceWrite s v (.inl hro.1)).trans ?_
    rw [writeDevice_ro s v (by omega) hro.2]
  · refine (exec_pageWrite s v hp (.inl (by omega))).trans ?_
    rw [writeCounters_ring s pcn v hoff]
  · exact congrArg Prod.fst (readControl_page s hp (by decide) (by decide))
  · exact congrArg Prod.fst (readControl_page s hp (by decide) (by decide))
  · exact (congrArg Prod.fst (readControl_page s hp (by decide) (by decide))).trans (by simp [State.readPage, k])
  · exact (congrArg Prod.fst (readControl_page s hp (by decide) (by decide))).trans (by simp [State.readPage, k])
  · exact congrArg Prod.fst (readControl_device s 0x0)
  · exact congrArg Prod.fst (readControl_device s 0x8)
  · exact congrArg Prod.fst (readControl_device s 0x18)
  · exact congrArg Prod.fst (readControl_device s 0x10)
  · refine (readControl_inFlight s hp hc).trans ?_
    rw [inFlight_of_absent habsent]
    rfl
  · have hread : (s.readControl (pageAddr pcn 0x3010)).1 = BitVec.ofNat 64 (bootId k.boot (s.isFused pcn)) := by
      rw [readControl_page s hp (by decide) (by decide)]
      exact congrArg (BitVec.ofNat 64) (if_pos hboot)
    exact (congrArg (BitVec.getLsbD · 19) hread).trans (getLsbD_bootId_fused _ _)

/-- Settles O50: the clauses on context images, doubleword by doubleword, and those on the registers of a core's page and of
the device block, address by address. -/
theorem controlSpace : Obligations.ControlSpace := ⟨contextImages, controlRegisters⟩

end Sys2Proof.ControlSpace

/-!
Bring-up and device time (R14, R106, R357, R358, R361 to R366, R369): the lifecycle commands and the reset, the wipe, the
self-checks and the roles that pass to spares, and the steps that set NOW and TSTAT.
-/

namespace Sys2Proof.Bringup
open Sys2Proof Sys2Proof.Machine Sys2Proof.Claims

/-! ## The instructions of bring-up and of device time -/

theorem exec_lifecycleCommand (target : Nat) (command : Signed) (keys : KeyHashes) (s : State) :
    exec (.lifecycleCommand target command keys) s = execLifecycleCommand target command keys s := by rfl

theorem exec_reset (s : State) : exec .reset s = .next (s.restart s.lifecycle) := by rfl

theorem exec_wipeDone (cores frames : List Nat) (s : State) :
    exec (.wipeDone cores frames) s = execWipeDone cores frames s := by rfl

theorem exec_selfCheck (pcn ok : Nat) (s : State) : exec (.selfCheck pcn ok) s = execSelfCheck pcn ok s := by rfl

theorem exec_firmwareVerify (stageAt stageLen : Nat) (firmware table : List Byte) (g : Signatures × Signatures)
    (s : State) : exec (.firmwareVerify stageAt stageLen firmware table g) s =
      execFirmwareVerify stageAt stageLen firmware table g s := by rfl

theorem exec_oobImage (stageAt stageLen : Nat) (firmware table : List Byte) (g : Signatures × Signatures) (s : State) :
    exec (.oobImage stageAt stageLen firmware table g) s = execOobImage stageAt stageLen firmware table g s := by rfl

theorem exec_ptpMessage (time locked : Nat) (s : State) :
    exec (.ptpMessage time locked) s = execPtpMessage time locked s := by rfl

theorem exec_nowStep (time : Nat) (s : State) : exec (.nowStep time) s = execNowStep time s := by rfl

theorem exec_masterLost (s : State) : exec .masterLost s = execMasterLost s := by rfl

theorem exec_holdoverExpire (s : State) : exec .holdoverExpire s = execHoldoverExpire s := by rfl

/-! ## Signed items (R361, R363) -/

theorem signedOk_iff_genuine (keys : KeyHashes) (x : Signed) : signedOk keys x = true ↔ Genuine keys x := by
  simp only [signedOk, Genuine, Bool.and_eq_true, beq_iff_eq, and_assoc]

theorem keysInForce_eq_inForce (s : State) : s.keysInForce = inForce s := rfl

@[simp] theorem on_signatures (x : Signed) : x.signatures.on x.bytes = x := rfl

/-! ## Lifecycle and reset (R362, R363, R369) -/

theorem lifecycleAllows_iff (a b : Nat) : lifecycleAllows a b = true ↔ (a, b) ∈ transitions := by
  simp only [lifecycleAllows, transitions, Bool.or_eq_true, beq_iff_eq, List.mem_cons, List.not_mem_nil, or_false,
    or_assoc]
  tauto

/-- A restart keeps the fuses: cores retired since the last reset are among the retired ones then. -/
theorem restart_restarted (s : State) (lifecycle : Nat) (owner : KeyHashes) (deviceKeys : Bool) :
    Restarted s ({ s with fuses := { s.fuses with owner := owner, deviceKeys := deviceKeys } }.restart lifecycle)
      lifecycle owner deviceKeys where
  state := rfl
  lifecycle := rfl
  fuses := rfl
  retired := ⟨fun _ => List.mem_append, rfl⟩

theorem completes_reset (s : State) :
    Completes .reset s fun t => Restarted s t s.lifecycle s.fuses.owner s.fuses.deviceKeys :=
  ⟨_, exec_reset s, restart_restarted s s.lifecycle s.fuses.owner s.fuses.deviceKeys⟩

/-- What a lifecycle command needs (R361, R363). -/
def Commands (s : State) (target : Nat) (command : Signed) : Prop :=
  (s.lifecycle, target) ∈ transitions ∧ Genuine (inForce s) command ∧ s.busy = false ∧ s.wiping = false

theorem commands_iff (s : State) (target : Nat) (command : Signed) :
    (signedOk s.keysInForce command && lifecycleAllows s.lifecycle target && !s.busy && !s.wiping) = true ↔
      Commands s target command := by
  simp only [Commands, Bool.and_eq_true, Bool.not_eq_true', signedOk_iff_genuine, lifecycleAllows_iff,
    keysInForce_eq_inForce]
  tauto

theorem lifecycleFuses_eq (f : Fuses) (a b : Nat) (keys : KeyHashes) : lifecycleFuses f a b keys = { f with
    owner := if a = 0 ∧ b = 1 then keys else f.owner, deviceKeys := f.deviceKeys || decide (b = 1) } := rfl

theorem completes_lifecycleCommand {s : State} {target : Nat} {command : Signed} (keys : KeyHashes)
    (h : Commands s target command) :
    Completes (.lifecycleCommand target command keys) s fun t =>
      Restarted s t target (if s.lifecycle = 0 ∧ target = 1 then keys else s.fuses.owner)
        (s.fuses.deviceKeys || decide (target = 1)) := by
  refine ⟨_, ?_, restart_restarted s target _ _⟩
  rw [exec_lifecycleCommand, execLifecycleCommand, if_pos ((commands_iff s target command).2 h), lifecycleFuses_eq]

theorem lifecycleCommand_ignored {s : State} {target : Nat} {command : Signed} (keys : KeyHashes)
    (h : ¬ Commands s target command) : exec (.lifecycleCommand target command keys) s = .next s := by
  rw [exec_lifecycleCommand, execLifecycleCommand, if_neg (mt (commands_iff s target command).1 h)]

/-- While the device is not busy, every launch has ended and every latched command has been taken. -/
theorem of_not_busy {s : State} (h : s.busy = false) : (∀ e ∈ s.launches, e.2.phase = .ended) ∧
    ∀ e ∈ s.regions, s.hasQueue e.1 = true → s.latched e.1 ≤ s.taken e.1 := by
  obtain ⟨hlaunch, hregion⟩ := Bool.or_eq_false_iff.1 h
  refine ⟨fun e he => by simpa using List.any_eq_false.1 hlaunch e he, fun e he hq => Nat.le_of_not_lt fun hlt => ?_⟩
  exact List.any_eq_false.1 hregion e he (by simp [hq, hlt])

/-! ## Retirement and the wipe (R364, R365, R366) -/

/-- Retiring cores changes the fuses' list of new retirements, what leaves through the ports, and the replacement
request. -/
theorem retireCores_eq (s : State) (pcns : List Nat) :
    let fresh := pcns.filter fun p => !s.countsFused p
    ∃ rrq more, s.retireCores pcns = { s with
      fuses := { s.fuses with newRetired := s.fuses.newRetired ++ fresh }
      uetOut := s.uetOut ++ fresh.map UetOut.retirement ++ more, rrq := rrq } := by
  intro fresh
  dsimp only [State.retireCores]
  split
  · exact ⟨true, [.replacement], rfl⟩
  · exact ⟨s.rrq, [], by rw [List.append_nil]⟩

theorem retireCores_newRetired (s : State) (pcns : List Nat) : (s.retireCores pcns).fuses.newRetired =
    s.fuses.newRetired ++ pcns.filter fun p => !s.countsFused p := by
  obtain ⟨rrq, more, h⟩ := retireCores_eq s pcns
  rw [h]

/-- A core that the fuses do not name yet is among those retired since the last reset. -/
theorem mem_newRetired_retireCores {s : State} {pcns : List Nat} {p : Nat} (hp : p ∈ pcns) (hf : s.isFused p = false) :
    p ∈ (s.retireCores pcns).fuses.newRetired := by
  rw [retireCores_newRetired, List.mem_append, List.mem_filter]
  by_cases hnew : p ∈ s.fuses.newRetired
  · exact .inl hnew
  · exact .inr ⟨hp, by simp [State.countsFused, hf, hnew]⟩

/-- Retiring a frame changes the fuses' list of retired frames and what leaves through the ports. -/
theorem retireFrame_eq (s : State) (f : Nat) : ∃ frames out, f ∈ frames ∧ (∀ g ∈ s.fuses.retiredFrames, g ∈ frames) ∧
    s.retireFrame f = { s with fuses := { s.fuses with retiredFrames := frames }, uetOut := out } := by
  unfold State.retireFrame
  split
  case isTrue h => exact ⟨s.fuses.retiredFrames, s.uetOut, by simpa using h, fun _ hg => hg, rfl⟩
  case isFalse => exact ⟨s.fuses.retiredFrames ++ [f], _, by simp, fun g hg => by simp [hg], rfl⟩

theorem retireFrames_eq (s : State) (fs : List Nat) : ∃ frames out, (∀ f ∈ fs, f ∈ frames) ∧
    (∀ g ∈ s.fuses.retiredFrames, g ∈ frames) ∧ fs.foldl State.retireFrame s =
      { s with fuses := { s.fuses with retiredFrames := frames }, uetOut := out } := by
  induction fs generalizing s with
  | nil => exact ⟨s.fuses.retiredFrames, s.uetOut, by simp, fun _ hg => hg, rfl⟩
  | cons f fs ih =>
    obtain ⟨first, out, hf, hkeep, hstep⟩ := retireFrame_eq s f
    obtain ⟨frames, out', hfs, hold, hrest⟩ := ih (s.retireFrame f)
    rw [hstep] at hold hrest
    exact ⟨frames, out', List.forall_mem_cons.2 ⟨hold f hf, hfs⟩, fun g hg => hold g (hkeep g hg), by
      rw [List.foldl_cons, hstep, hrest]⟩

theorem completes_wipeDone {s : State} (cores frames : List Nat) (h : s.wiping = true) :
    Completes (.wipeDone cores frames) s fun t => t.mem = [] ∧ t.wiping = false ∧ t.phase = 3 ∧
      (∀ p ∈ cores, s.isFused p = false → p ∈ t.fuses.newRetired) ∧ (∀ f ∈ frames, f ∈ t.fuses.retiredFrames) ∧
      t.ctxs = s.ctxs := by
  let wiped : State := { s with mem := [], wiping := false, phase := 3, phaseTime := s.now }
  refine ⟨frames.foldl State.retireFrame (wiped.retireCores cores), ?_, ?_⟩
  · rw [exec_wipeDone, execWipeDone, if_neg (by simp [h])]
  · obtain ⟨retired, out, hframes, -, heq⟩ := retireFrames_eq (wiped.retireCores cores) frames
    obtain ⟨rrq, more, hcores⟩ := retireCores_eq wiped cores
    have hnew : ∀ p ∈ cores, s.isFused p = false → p ∈ (wiped.retireCores cores).fuses.newRetired :=
      fun p hp hf => mem_newRetired_retireCores (s := wiped) hp hf
    rw [heq]
    refine ⟨?_, ?_, ?_, hnew, hframes, ?_⟩ <;> rw [hcores]

theorem wipeDone_ignored {s : State} (cores frames : List Nat) (h : s.wiping = false) :
    exec (.wipeDone cores frames) s = .next s := by
  rw [exec_wipeDone, execWipeDone, if_pos (by simp [h])]

/-! ## Roles that pass to spares (R14) -/

/-- A role map in which a spare has taken over from a core. -/
def movedRoles (roles : List (Nat × Nat)) (pcn sp : Nat) : List (Nat × Nat) :=
  roles.map fun r => if r.1 = pcn then (sp, r.2) else if r.1 = sp then (pcn, 0) else r

/-- What is left where a role has passed from a core to a spare: the role map is the new one, firmware that runs may have
restarted on the spare, and its queues with it. -/
structure Passed (s t : State) (roles : List (Nat × Nat)) : Prop where
  device : { t with config := s.config, queues := s.queues, mem := s.mem, ctxs := s.ctxs, procs := s.procs } = s
  config : t.config = { s.config with roles := roles }
  unloaded : s.running = none → { t with config := s.config, queues := s.queues } = s

theorem Passed.core {s t : State} {roles : List (Nat × Nat)} (h : Passed s t roles) (p : Nat) : t.core p = s.core p :=
  (congrArg (State.core · p) h.device :)

theorem Passed.fuses {s t : State} {roles : List (Nat × Nat)} (h : Passed s t roles) : t.fuses = s.fuses :=
  (congrArg State.fuses h.device :)

theorem Passed.uetOut {s t : State} {roles : List (Nat × Nat)} (h : Passed s t roles) : t.uetOut = s.uetOut :=
  (congrArg State.uetOut h.device :)

theorem passed_restartFirmware {s t : State} {roles : List (Nat × Nat)} (h : Passed s t roles) :
    Passed s t.restartFirmware roles := ⟨h.device, h.config, h.unloaded⟩

theorem passed_startImage {s t : State} {roles : List (Nat × Nat)} (h : Passed s t roles) {i : BootImage}
    (hrun : s.running = some i) (pcn : Nat) (image : List Byte) : Passed s (t.startImage pcn image) roles :=
  ⟨h.device, h.config, fun hnone => by simp [hrun] at hnone⟩

/-- Folding `min` with an optional start is the library's minimum of a list. -/
theorem foldl_least_eq_min? {f : Option Nat → Nat → Option Nat} (hnone : ∀ x, f none x = some x)
    (hsome : ∀ b x, f (some b) x = some (min b x)) (l : List Nat) : l.foldl f none = l.min? := by
  have key : ∀ (l : List Nat) (b : Nat), l.foldl f (some b) = some (l.foldl min b) := by
    intro l
    induction l with
    | nil => exact fun _ => rfl
    | cons x l ih => exact fun b => by rw [List.foldl_cons, hsome, ih, List.foldl_cons]
  cases l with
  | nil => rfl
  | cons x l => rw [List.foldl_cons, hnone, key, List.min?_cons']

/-- The least element above a bound, and the least one of all where none lies above it. -/
def leastAbove (n : Nat) (l : List Nat) : Option Nat := (l.filter fun p => decide (n < p)).min?.or l.min?

theorem eq_nil_of_leastAbove {n : Nat} {l : List Nat} (h : leastAbove n l = none) : l = [] :=
  List.min?_eq_none_iff.1 (Option.or_eq_none_iff.1 h).2

theorem leastAbove_spec {n m : Nat} {l : List Nat} (h : leastAbove n l = some m) {q : Nat} (hq : q ∈ l) (hn : n < q) :
    n < m ∧ m ≤ q ∧ m ∈ l := by
  have hmem : q ∈ l.filter fun p => decide (n < p) := by simp [hq, hn]
  cases hmin : (l.filter fun p => decide (n < p)).min? with
  | none => simp [List.min?_eq_none_iff.1 hmin] at hmem
  | some m' =>
    obtain rfl : m' = m := by simpa [leastAbove, hmin] using h
    obtain ⟨hm, hle⟩ := List.min?_eq_some_iff.1 hmin
    obtain ⟨hl, hlt⟩ := List.mem_filter.1 hm
    exact ⟨by simpa using hlt, hle q hmem, hl⟩

/-- A core that can take over another's role (R14). -/
def IsSpare (s : State) (pcn sp : Nat) : Prop := (sp, 5) ∈ s.config.roles ∧ s.isFused sp = false ∧ sp ≠ pcn

/-- The spares that `passRole` considers. -/
theorem mem_spares_iff (s : State) (pcn sp : Nat) :
    sp ∈ (s.config.roles.filter fun r => r.2 == 5 && !s.isFused r.1 && r.1 != pcn).map Prod.fst ↔ IsSpare s pcn sp := by
  simp [IsSpare, and_assoc]

/-- A core's role in the map: one that it does not list counts as a spare's. -/
def roleOf (s : State) (pcn : Nat) : Nat := ((s.config.roles.find? fun r => r.1 == pcn).map Prod.snd).getD 5

/-- A role stays where it is, since it is a spare's or no spare is left; or it passes on, to the next spare above the core
if there is one. -/
theorem passRole_cases (s : State) (pcn : Nat) :
    (s.passRole pcn = s ∧ (roleOf s pcn = 5 ∨ ∀ q, ¬ IsSpare s pcn q)) ∨
    ∃ sp, Passed s (s.passRole pcn) (movedRoles s.config.roles pcn sp) ∧
      ∀ q, IsSpare s pcn q → pcn < q → pcn < sp ∧ sp ≤ q ∧ IsSpare s pcn sp := by
  dsimp only [State.passRole]
  split
  case h_1 heq =>
    refine .inl ⟨rfl, ?_⟩
    split at heq
    case isTrue hrole => exact .inl hrole
    case isFalse =>
      rw [foldl_least_eq_min? (fun _ => rfl) (fun _ _ => rfl), foldl_least_eq_min? (fun _ => rfl) (fun _ _ => rfl)] at heq
      have hnil := eq_nil_of_leastAbove heq
      exact .inr fun q hq => by simpa [hnil] using (mem_spares_iff s pcn q).2 hq
  case h_2 sp heq =>
    refine .inr ⟨sp, ?_, fun q hq hlt => ?_⟩
    · have moved : Passed s { s with config := { s.config with roles := movedRoles s.config.roles pcn sp } }
        (movedRoles s.config.roles pcn sp) := ⟨rfl, rfl, fun _ => rfl⟩
      split
      case h_1 i hrun => exact passed_restartFirmware (passed_startImage moved hrun sp _)
      case h_2 => exact passed_restartFirmware moved
      case h_3 => exact moved
    · split at heq
      case isTrue => cases heq
      case isFalse =>
        rw [foldl_least_eq_min? (fun _ => rfl) (fun _ _ => rfl),
          foldl_least_eq_min? (fun _ => rfl) (fun _ _ => rfl)] at heq
        obtain ⟨habove, hle, hmem⟩ := leastAbove_spec heq ((mem_spares_iff s pcn q).2 hq) hlt
        exact ⟨habove, hle, (mem_spares_iff s pcn sp).1 hmem⟩

/-- A role passes to the next spare above the core (R14). -/
theorem role_passes {s : State} {pcn role sp : Nat} (hrole : s.config.roles.find? (fun r => r.1 == pcn) = some (pcn, role))
    (h5 : role ≠ 5) (hsp : IsSpare s pcn sp) (hlt : pcn < sp) (hleast : ∀ q, IsSpare s pcn q → pcn < q → sp ≤ q) :
    (sp, role) ∈ (s.passRole pcn).config.roles := by
  rcases passRole_cases s pcn with ⟨-, h | h⟩ | ⟨sp', hpass, hnext⟩
  · exact absurd (by simpa [roleOf, hrole] using h) h5
  · exact absurd hsp (h sp)
  · obtain ⟨habove, hle, hspare⟩ := hnext sp hsp hlt
    obtain rfl : sp' = sp := Nat.le_antisymm hle (hleast sp' hspare habove)
    rw [hpass.config]
    exact List.mem_map.2 ⟨(pcn, role), List.mem_of_find?_eq_some hrole, if_pos rfl⟩

/-- Whether a role passes or not, only the role map, the queues, and what a restarting image replaces can change. -/
theorem passRole_passed (s : State) (pcn : Nat) : ∃ roles, Passed s (s.passRole pcn) roles := by
  rcases passRole_cases s pcn with ⟨heq, -⟩ | ⟨sp, hpass, -⟩
  · exact ⟨s.config.roles, by rw [heq]; exact ⟨rfl, rfl, fun _ => rfl⟩⟩
  · exact ⟨_, hpass⟩

/-! ## The self-check (R365) -/

/-- A core is due for its self-check. -/
def CheckDue (s : State) (pcn : Nat) : Prop :=
  s.bootMode = false ∧ pcn < 4096 ∧
    (if s.isSystem pcn = true then s.isFused pcn = false ∧ ∀ j < 16, (s.ctx (pcn * 16 + j)).status = .empty
      else s.isUser pcn = true ∧ s.coreFree pcn = true) ∧
    ((s.core pcn).checked = false ∨ (s.core pcn).idleSince + 10000000000 ≤ s.now)

theorem coreIdle_iff (s : State) (pcn : Nat) : s.coreIdle pcn = true ↔
    if s.isSystem pcn = true then s.isFused pcn = false ∧ ∀ j < 16, (s.ctx (pcn * 16 + j)).status = .empty
      else s.isUser pcn = true ∧ s.coreFree pcn = true := by
  unfold State.coreIdle
  split <;> simp

theorem checkDue_iff (s : State) (pcn : Nat) : (!s.bootMode && decide (pcn < 4096) && s.coreIdle pcn &&
    (!(s.core pcn).checked || decide ((s.core pcn).idleSince + 10000000000 ≤ s.now))) = true ↔ CheckDue s pcn := by
  simp only [CheckDue, Bool.and_eq_true, Bool.or_eq_true, Bool.not_eq_true', decide_eq_true_eq, coreIdle_iff, and_assoc]

theorem selfCheck_ignored {s : State} {pcn : Nat} (ok : Nat) (h : ¬ CheckDue s pcn) :
    exec (.selfCheck pcn ok) s = .next s := by
  rw [exec_selfCheck, execSelfCheck, if_neg (mt (checkDue_iff s pcn).1 h)]

/-- The state of a core after its self-check. -/
def checkedCore (s : State) (pcn ok : Nat) : CoreS :=
  { s.core pcn with checked := true, idleSince := s.now, failed := (s.core pcn).failed || ok != 1 }

theorem exec_selfCheck_due {s : State} {pcn : Nat} (ok : Nat) (h : CheckDue s pcn) :
    exec (.selfCheck pcn ok) s = .next (
      let checked := s.setCore pcn (checkedCore s pcn ok)
      if ok = 1 then checked
      else if s.isSystem pcn = true then (checked.retireCores [pcn]).passRole pcn else checked.retireCores [pcn]) := by
  rw [exec_selfCheck, execSelfCheck, if_pos ((checkDue_iff s pcn).2 h)]
  rfl

theorem completes_selfCheck_passed {s : State} {pcn : Nat} (h : CheckDue s pcn) :
    Completes (.selfCheck pcn 1) s fun t =>
      OnlyOneCore s t pcn { s.core pcn with checked := true, idleSince := s.now } := by
  refine ⟨_, exec_selfCheck_due 1 h, ?_⟩
  have hcore : checkedCore s pcn 1 = { s.core pcn with checked := true, idleSince := s.now } := by simp [checkedCore]
  rw [← hcore]
  exact ControlSpace.onlyOneCore_setCore s pcn _

/-- A core that the logical map still counts is retired alone, and reported. -/
theorem retireCores_one {s : State} {pcn : Nat} (h : s.countsFused pcn = false) :
    ∃ rrq more, s.retireCores [pcn] = { s with
      fuses := { s.fuses with newRetired := s.fuses.newRetired ++ [pcn] }
      uetOut := s.uetOut ++ [.retirement pcn] ++ more, rrq := rrq } := by
  obtain ⟨rrq, more, heq⟩ := retireCores_eq s [pcn]
  exact ⟨rrq, more, by rw [heq]; simp [h]⟩

theorem completes_selfCheck_failed {s : State} {pcn ok : Nat} (h : CheckDue s pcn) (hok : ok ≠ 1)
    (hnew : s.countsFused pcn = false) : Completes (.selfCheck pcn ok) s fun t =>
      t.core pcn = { s.core pcn with checked := true, idleSince := s.now, failed := true } ∧
      t.fuses.newRetired = s.fuses.newRetired ++ [pcn] ∧ (∃ more, t.uetOut = s.uetOut ++ [.retirement pcn] ++ more) ∧
      (∀ role sp, s.isSystem pcn = true → s.config.roles.find? (fun r => r.1 == pcn) = some (pcn, role) → role ≠ 5 →
        (sp, 5) ∈ s.config.roles → s.isFused sp = false → pcn < sp →
        (∀ r ∈ s.config.roles, r.2 = 5 → s.isFused r.1 = false → pcn < r.1 → sp ≤ r.1) → (sp, role) ∈ t.config.roles) := by
  refine ⟨_, exec_selfCheck_due ok h, ?_⟩
  let checked := s.setCore pcn (checkedCore s pcn ok)
  let retired := checked.retireCores [pcn]
  obtain ⟨rrq, more, hret⟩ := retireCores_one (s := checked) (pcn := pcn) hnew
  have hcore : retired.core pcn = { s.core pcn with checked := true, idleSince := s.now, failed := true } := by
    have hchecked : retired.core pcn = checkedCore s pcn ok :=
      (congrArg (State.core · pcn) hret).trans (s.core_setCore_same pcn _)
    simp [hchecked, checkedCore, hok]
  have hfuses : retired.fuses.newRetired = s.fuses.newRetired ++ [pcn] := (congrArg (·.fuses.newRetired) hret :)
  have hout : retired.uetOut = s.uetOut ++ [.retirement pcn] ++ more := (congrArg State.uetOut hret :)
  have hconfig : retired.config = s.config := (congrArg State.config hret :)
  have hfused (p : Nat) : retired.isFused p = s.isFused p := (congrArg (State.isFused · p) hret :)
  dsimp only
  rw [if_neg hok]
  by_cases hsys : s.isSystem pcn = true
  · obtain ⟨roles, hpass⟩ := passRole_passed retired pcn
    rw [if_pos hsys, hpass.core, hpass.fuses, hpass.uetOut]
    refine ⟨hcore, hfuses, ⟨more, hout⟩, fun role sp _ hrole h5 hmem hf hlt hleast => ?_⟩
    have hspare (q : Nat) : IsSpare retired pcn q ↔ (q, 5) ∈ s.config.roles ∧ s.isFused q = false ∧ q ≠ pcn := by
      rw [IsSpare, hconfig, hfused]
    refine role_passes (by rw [hconfig, hrole]) h5 ((hspare sp).2 ⟨hmem, hf, hlt.ne'⟩) hlt fun q hq hltq => ?_
    obtain ⟨hqmem, hqf, -⟩ := (hspare q).1 hq
    exact hleast (q, 5) hqmem rfl hqf hltq
  · rw [if_neg hsys]
    exact ⟨hcore, hfuses, ⟨more, hout⟩, fun role sp hsystem => absurd hsystem hsys⟩

theorem lifecycleAndReset : LifecycleAndReset := fun s =>
  ⟨fun _ _ keys => ⟨completes_lifecycleCommand keys, lifecycleCommand_ignored keys⟩,
    of_not_busy, completes_reset s,
    fun cores frames => ⟨completes_wipeDone cores frames, wipeDone_ignored cores frames⟩,
    fun _ ok => ⟨selfCheck_ignored ok, fun hdue hok => hok ▸ completes_selfCheck_passed hdue,
      completes_selfCheck_failed⟩⟩

/-! ## Device time (R106, R357, R358) -/

theorem nonePlaced_iff (s : State) : s.nonePlaced = true ↔ ∀ e ∈ s.launches, State.holdsResources e.2 = false := by
  simp [State.nonePlaced]

/-- An offset that fits TSTAT's field is held as it is. -/
theorem offsetField_of_fits {now time : Nat} (hlo : -(2 ^ 31) ≤ (now : Int) - time) (hhi : (now : Int) - time < 2 ^ 31) :
    State.offsetField now time = BitVec.ofInt 32 ((now : Int) - time) := by
  rw [State.offsetField, if_neg (by omega), if_neg (by omega)]

/-- An offset of the device ahead of its master. -/
theorem toNat_offsetField_ahead {now time : Nat} (h : time ≤ now) (hfits : now - time < 2 ^ 31) :
    (State.offsetField now time).toNat = now - time := by
  rw [offsetField_of_fits (by omega) (by omega), show (now : Int) - time = ((now - time : Nat) : Int) by omega,
    BitVec.ofInt_natCast, BitVec.toNat_ofNat]
  omega

theorem offsetField_above {now time : Nat} (h : 2 ^ 31 ≤ (now : Int) - time) :
    State.offsetField now time = 0x7FFFFFFF := by
  rw [State.offsetField, if_neg (by omega), if_pos h]
  rfl

theorem offsetField_below {now time : Nat} (h : (now : Int) - time < -(2 ^ 31)) :
    State.offsetField now time = 0x80000000 := by
  rw [State.offsetField, if_pos h]
  rfl

section
variable {s : State} {time : Nat}

/-- NOW is stepped forward to a time that lies ahead of it. -/
theorem stepTo_ahead (h : s.now ≤ time % 2 ^ 64) : s.stepTo time = { s with now := time % 2 ^ 64, timeOffset := 0 } := by
  have hzero : State.offsetField (time % 2 ^ 64) (time % 2 ^ 64) = 0 := by
    rw [offsetField_of_fits (by omega) (by omega), Int.sub_self]
    rfl
  simp only [State.stepTo, Nat.max_eq_right h, hzero]

/-- NOW stays where it is ahead of the time, and so does the offset. -/
theorem stepTo_behind (h : time % 2 ^ 64 < s.now) :
    s.stepTo time = { s with timeOffset := State.offsetField s.now (time % 2 ^ 64) } := by
  simp only [State.stepTo, Nat.max_eq_left h.le]

/-- The device locks for the first time, and nothing keeps it from stepping NOW (R358). -/
def FirstLock (s : State) : Prop :=
  s.everLocked = false ∧ s.config.freeRun = false ∧ ∀ e ∈ s.launches, State.holdsResources e.2 = false

theorem firstLock_iff (s : State) : (!s.everLocked && !s.config.freeRun && s.nonePlaced) = true ↔ FirstLock s := by
  simp only [FirstLock, Bool.and_eq_true, Bool.not_eq_true', nonePlaced_iff, and_assoc]

theorem exec_ptpMessage_firstLock (time : Nat) (h : FirstLock s) : exec (.ptpMessage time 1) s = .next (
    ({ s with tstat := 2, everLocked := true } : State).stepTo time) := by
  rw [exec_ptpMessage, execPtpMessage, if_pos rfl]
  dsimp only
  rw [if_pos ((firstLock_iff s).2 h)]
  rfl

theorem exec_ptpMessage_lock (time : Nat) (h : ¬ FirstLock s) : exec (.ptpMessage time 1) s = .next { s with
    timeOffset := State.offsetField s.now time, tstat := 2, everLocked := true } := by
  rw [exec_ptpMessage, execPtpMessage, if_pos rfl]
  dsimp only
  rw [if_neg (mt (firstLock_iff s).1 h)]

theorem exec_ptpMessage_unlocked (s : State) (time : Nat) {locked : Nat} (h : locked ≠ 1) :
    exec (.ptpMessage time locked) s = .next { s with
      timeOffset := State.offsetField s.now time, tstat := if s.tstat = 2 then 2 else 1 } := by
  rw [exec_ptpMessage, execPtpMessage, if_neg h]

/-- A step of NOW waits for its cause: an offset of 1 ms or more, on a device that has locked once, does not run free and has
no launch placed. -/
theorem stepDue_iff (s : State) : (s.stepPending && s.nonePlaced) = true ↔ s.everLocked = true ∧ s.config.freeRun = false ∧
    ¬ (s.timeOffset.toInt < 1000000 ∧ -1000000 < s.timeOffset.toInt) ∧
    ∀ e ∈ s.launches, State.holdsResources e.2 = false := by
  simp only [State.stepPending, Bool.and_eq_true, Bool.or_eq_true, Bool.not_eq_true', decide_eq_true_eq, nonePlaced_iff,
    not_and_or, not_lt, and_assoc]

end

theorem deviceTime : DeviceTime := by
  intro s time locked d idle slack
  refine ⟨fun hlock hstay hlo hhi => ?_, fun hlock hnever hfree hidle => ⟨fun hahead => ?_, fun hbehind => ?_⟩,
    fun hlock hlo hhi => ?_, fun h => ?_, fun h => ?_,
    fun hever hfree hslack hidle => ⟨fun hahead => ?_, fun hbehind => ?_⟩, fun hstay => ?_, fun h => ?_, fun h => ?_,
    fun h hsince => ?_, fun h => ?_⟩
  · have hno : ¬ FirstLock s := by
      rintro ⟨hever, hfree, hidle⟩
      rcases hstay with h | h | h
      · simp [hever] at h
      · simp [hfree] at h
      · exact h hidle
    rw [hlock, exec_ptpMessage_lock time hno, offsetField_of_fits hlo hhi]
  · rw [hlock, exec_ptpMessage_firstLock time ⟨hnever, hfree, hidle⟩, stepTo_ahead]
    exact hahead
  · rw [hlock]
    refine ⟨_, exec_ptpMessage_firstLock time ⟨hnever, hfree, hidle⟩, ?_⟩
    rw [stepTo_behind (by exact hbehind)]
    exact ⟨rfl, rfl, rfl, toNat_offsetField_ahead hbehind.le⟩
  · rw [exec_ptpMessage_unlocked s time hlock, offsetField_of_fits hlo hhi]
  · exact ⟨_, exec_ptpMessage_unlocked s time (by decide), offsetField_above h⟩
  · exact ⟨_, exec_ptpMessage_unlocked s time (by decide), offsetField_below h⟩
  · rw [exec_nowStep, execNowStep, if_pos ((stepDue_iff s).2 ⟨hever, hfree, hslack, hidle⟩), stepTo_ahead hahead]
  · refine ⟨s.stepTo time, ?_, ?_⟩
    · rw [exec_nowStep, execNowStep, if_pos ((stepDue_iff s).2 ⟨hever, hfree, hslack, hidle⟩)]
    · rw [stepTo_behind hbehind]
      exact ⟨rfl, toNat_offsetField_ahead hbehind.le⟩
  · refine (exec_nowStep time s).trans (if_neg fun hdue => ?_)
    obtain ⟨hever, hfree, hslack, hidle⟩ := (stepDue_iff s).1 hdue
    rcases hstay with h | h | h | h
    · simp [hever] at h
    · simp [hfree] at h
    · exact hslack h
    · exact h hidle
  · rw [exec_masterLost, execMasterLost, if_pos h]
  · rw [exec_masterLost, execMasterLost, if_neg h]
  · rw [exec_holdoverExpire, execHoldoverExpire, if_pos (by simp [h, hsince])]
  · rw [exec_holdoverExpire, execHoldoverExpire, if_neg (by simp; omega)]

/-- Settles O51: each command, reset, wipe and self-check does what it says, and a step of device time keeps NOW or moves it
forward. -/
theorem resetAndTime : Obligations.ResetAndTime := ⟨lifecycleAndReset, deviceTime⟩

end Sys2Proof.Bringup

/-!
The verification of firmware and the start of boot mode (R14, R360, R361, R370 to R372): which images and tables are
accepted, and which cores then run which image.
-/

namespace Sys2Proof.Firmware
open Sys2Proof Sys2Proof.Machine Sys2Proof.Claims Sys2Proof.Bringup

/-! ## What is verified (R360, R361, R370) -/

/-- An image and a table that the boot ROM accepts. -/
def Accepted (s : State) (i : BootImage) : Prop :=
  let bs := i.table.bytes
  let c := parseTable bs
  Genuine (inForce s) i.firmware ∧ Genuine (inForce s) i.table ∧ bs.length = 1296 ∧ descNat bs 0 4 = 0x43564354 ∧
    s.fuses.minVersion ≤ descNat bs 4 4 ∧ (∀ p, p ∈ c.fused ↔ p ∈ s.fuses.fused) ∧
    (c.w = 1 ∨ c.w = 2 ∨ c.w = 4) ∧ ∀ r ∈ c.roles, r.1 ∉ c.fused

theorem sameSet_iff (a b : List Nat) : sameSet a b = true ↔ ∀ p, p ∈ a ↔ p ∈ b := by
  simp only [sameSet, Bool.and_eq_true, List.all_eq_true, List.contains_iff_mem]
  exact ⟨fun h p => ⟨h.1 p, h.2 p⟩, fun h => ⟨fun p => (h p).1, fun p => (h p).2⟩⟩

theorem imageOk_iff (s : State) (i : BootImage) : s.imageOk i = true ↔ Accepted s i := by
  simp [State.imageOk, State.tableOk, Accepted, signedOk_iff_genuine, keysInForce_eq_inForce, sameSet_iff, and_assoc,
    or_assoc]

/-- What phase 3 verifies: the image that the management interface has supplied, or what the boot flash holds. -/
def candidate (s : State) (stageAt stageLen : Nat) (firmware table : Signed) : BootImage :=
  s.supplied.getD ⟨stageAt, stageLen, firmware, table⟩

theorem exec_firmwareVerify_signed (s : State) (stageAt stageLen : Nat) (firmware table : Signed) :
    exec (.firmwareVerify stageAt stageLen firmware.bytes table.bytes (firmware.signatures, table.signatures)) s =
      if s.phase ≠ 3 ∨ s.bootFailed = true then .next s
      else .next (if s.imageOk (candidate s stageAt stageLen firmware table) = true
        then s.startBoot (candidate s stageAt stageLen firmware table)
        else { s with bootFailed := true, supplied := none }) := by
  rw [exec_firmwareVerify, execFirmwareVerify]
  simp only [ne_eq, Bool.or_eq_true, on_signatures, decide_not, Bool.not_eq_true', decide_eq_false_iff_not]
  rfl

theorem exec_oobImage_signed (s : State) (stageAt stageLen : Nat) (firmware table : Signed) :
    exec (.oobImage stageAt stageLen firmware.bytes table.bytes (firmware.signatures, table.signatures)) s =
      if s.phase = 3 ∧ s.bootFailed = true then .next { s with
        bootFailed := false, phaseTime := s.now, supplied := some ⟨stageAt, stageLen, firmware, table⟩ }
      else .next s := by
  rw [exec_oobImage, execOobImage]
  simp only [Bool.and_eq_true, decide_eq_true_eq, on_signatures]

/-! ## Cores that start an image (R372) -/

/-- The context that starts an image: every register holds zero, and PW only p0. -/
def freshCtx (tid : Nat) (lastIssue : Option Nat) : Ctx :=
  { Ctx.zero with
    status := .ready, proc := State.bareKey tid, home := tid, xstat := 1, pw := 1, lastIssue := lastIssue }

@[simp] theorem ctx_startImage_same (s : State) (p : Nat) (image : List Byte) :
    (s.startImage p image).ctx (p * 16 + 1) = freshCtx (p * 16 + 1) (s.ctx (p * 16 + 1)).lastIssue :=
  State.ctx_setCtx_same _ _ _

theorem ctx_startImage_other (s : State) {p tid : Nat} (h : tid ≠ p * 16 + 1) (image : List Byte) :
    (s.startImage p image).ctx tid = s.ctx tid :=
  State.ctx_setCtx_other _ h _

@[simp] theorem proc_startImage_same (s : State) (p : Nat) (image : List Byte) :
    (s.startImage p image).proc (State.bareKey (p * 16 + 1)) = State.bareProc (p * 16 + 1) :=
  State.proc_setProc_same _ _ _

theorem proc_startImage_other (s : State) {p k : Nat} (h : k ≠ State.bareKey (p * 16 + 1)) (image : List Byte) :
    (s.startImage p image).proc k = s.proc k :=
  State.proc_setProc_other _ h _

theorem mem_startImage (s : State) (p : Nat) (image : List Byte) :
    (s.startImage p image).mem = memWrite (localKey p 0) (image.take 0x20000) s.mem := rfl

/-- An image is started on each core of a list in turn. -/
def startImages (s : State) (cores : List Nat) (image : List Byte) : State :=
  cores.foldl (fun t p => t.startImage p image) s

/-- Starting images changes memory, contexts and processes. -/
theorem startImages_device (s : State) (cores : List Nat) (image : List Byte) :
    { startImages s cores image with mem := s.mem, ctxs := s.ctxs, procs := s.procs } = s := by
  induction cores generalizing s with
  | nil => rfl
  | cons p cores ih =>
    exact (congrArg (fun t : State => { t with mem := s.mem, ctxs := s.ctxs, procs := s.procs })
      (ih (s.startImage p image)) :)

theorem startImages_roleCores (s : State) (cores : List Nat) (image : List Byte) (role : Nat) :
    (startImages s cores image).roleCores role = s.roleCores role :=
  (congrArg (State.roleCores · role) (startImages_device s cores image) :)

/-- What every image that starts leaves as it was: memory's canonical form, and the times at which slots last issued. -/
structure Carried (s t : State) : Prop where
  mem : memWf s.mem = true → memWf t.mem = true
  lastIssue : ∀ tid, (t.ctx tid).lastIssue = (s.ctx tid).lastIssue

theorem Carried.startImage {s t : State} (h : Carried s t) (p : Nat) (image : List Byte) :
    Carried s (t.startImage p image) where
  mem w := memWrite_wf _ _ (h.mem w)
  lastIssue tid := by
    refine Eq.trans ?_ (h.lastIssue tid)
    by_cases htid : tid = p * 16 + 1
    · subst htid
      rw [ctx_startImage_same]
      rfl
    · rw [ctx_startImage_other t htid]

theorem Carried.startImages {s t : State} (h : Carried s t) (cores : List Nat) (image : List Byte) :
    Carried s (startImages t cores image) := by
  induction cores generalizing t with
  | nil => exact h
  | cons p cores ih => exact ih (h.startImage p image)

/-- A core runs the image that it has just started. -/
theorem runsImage_startImage {s t : State} (h : Carried s t) (p : Nat) (image : List Byte) :
    RunsImage s (t.startImage p image) p image where
  slot := by
    refine ⟨?_, ?_⟩
    · have hlevel : Ctx.zero.xstat ||| 1 = 1 := by decide
      rw [ctx_startImage_same, h.lastIssue]
      simp only [freshCtx, hlevel]
      rfl
    · rw [State.launchOf, ctx_startImage_same]
      exact congrArg Proc.launch (proc_startImage_same t p image)
  bytes w j hj := by
    obtain ⟨hlen, hroom⟩ := lt_min_iff.1 hj
    have hread := memGet_write_same (a := localKey p 0) (image.take 0x20000) (h.mem w) j (by simp [hlen, hroom])
    rw [mem_startImage]
    refine Eq.trans hread ?_
    simp [hlen]

/-- A core goes on with its image while another core starts one. -/
theorem runsImage_startImage_other {s t : State} {p q : Nat} {image : List Byte} (hne : p ≠ q) (h : RunsImage s t p image)
    (other : List Byte) : RunsImage s (t.startImage q other) p image where
  slot := by
    have htid : p * 16 + 1 ≠ q * 16 + 1 := by omega
    have hctx : (t.startImage q other).ctx (p * 16 + 1) = t.ctx (p * 16 + 1) := ctx_startImage_other t htid other
    have hproc : (t.ctx (p * 16 + 1)).proc ≠ State.bareKey (q * 16 + 1) := by
      rw [h.slot.ctx]
      simp only [State.bareKey]
      omega
    exact ⟨hctx.trans h.slot.ctx, by
      rw [State.launchOf, hctx, proc_startImage_other t hproc]
      exact h.slot.alone⟩
  bytes w j hj := by
    refine Eq.trans ?_ (h.bytes w j hj)
    have hlen : (other.take 0x20000).length ≤ 0x20000 := List.length_take_le _ _
    rw [mem_startImage]
    refine memGet_write_other _ _ ?_
    simp only [localKey]
    omega

theorem runsImage_startImages_other {s t : State} {p : Nat} {image : List Byte} {cores : List Nat} (hne : p ∉ cores)
    (h : RunsImage s t p image) (other : List Byte) : RunsImage s (startImages t cores other) p image := by
  induction cores generalizing t with
  | nil => exact h
  | cons q cores ih =>
    obtain ⟨hq, hcores⟩ := List.ne_and_not_mem_of_not_mem_cons hne
    exact ih hcores (runsImage_startImage_other hq h other)

/-- Every core of a list runs the image that the list has started. -/
theorem runsImage_startImages {s t : State} (h : Carried s t) {p : Nat} {cores : List Nat} (hp : p ∈ cores)
    (image : List Byte) : RunsImage s (startImages t cores image) p image := by
  induction cores generalizing t with
  | nil => cases hp
  | cons q cores ih =>
    by_cases hlater : p ∈ cores
    · exact ih (h.startImage q image) hlater
    · obtain rfl : p = q := (List.mem_cons.1 hp).resolve_right hlater
      exact runsImage_startImages_other hlater (runsImage_startImage h p image) image

/-! ## Roles that pass before any core runs (R14) -/

/-- While no firmware runs, roles that pass change only the role map and the queues. -/
structure Rerolled (s t : State) : Prop where
  device : { t with config := s.config, queues := s.queues } = s
  config : ∃ roles, t.config = { s.config with roles := roles }

theorem rerolled_refl (s : State) : Rerolled s s := ⟨rfl, s.config.roles, rfl⟩

theorem Rerolled.passRole {s t : State} (hnone : s.running = none) (h : Rerolled s t) (p : Nat) :
    Rerolled s (t.passRole p) := by
  obtain ⟨roles, hpass⟩ := passRole_passed t p
  have hrunning : t.running = none := (congrArg State.running h.device :).trans hnone
  have hdevice := congrArg (fun u : State => { u with config := s.config, queues := s.queues }) (hpass.unloaded hrunning)
  obtain ⟨_, hconfig⟩ := h.config
  exact ⟨hdevice.trans h.device, roles, by rw [hpass.config, hconfig]⟩

theorem rerolled_foldl {s t : State} (hnone : s.running = none) (h : Rerolled s t) (l : List (Nat × Nat)) :
    Rerolled s (l.foldl (fun t r => t.passRole r.1) t) := by
  induction l generalizing t with
  | nil => exact h
  | cons r l ih => exact ih (h.passRole hnone r.1)

theorem Rerolled.withRunning {s t : State} (h : Rerolled s t) (i : Option BootImage) :
    Rerolled { s with running := i } { t with running := i } :=
  ⟨(congrArg (fun u : State => { u with running := i }) h.device :), h.config⟩

/-- The device when a configuration has taken effect, before any role passes. -/
def withTable (s : State) (c : ConfigTable) : State :=
  { s with
    config := c, pwrlim := c.power % 2 ^ 12, bootMode := true, phase := 5, phaseTime := s.now, supplied := none
    running := none }

/-- Then roles of fused positions pass to spares. -/
def configured (s : State) (c : ConfigTable) (i : BootImage) : State :=
  { (c.roles.filter fun r => (withTable s c).isFused r.1).foldl (fun t r => t.passRole r.1) (withTable s c) with
    running := some i }

theorem configured_rerolled (s : State) (c : ConfigTable) (i : BootImage) :
    Rerolled { withTable s c with running := some i } (configured s c i) :=
  (rerolled_foldl rfl (rerolled_refl _) _).withRunning _

/-- With no fused position in the role map, the configuration is the table's. -/
theorem configured_config {s : State} {c : ConfigTable} (h : ∀ r ∈ c.roles, (withTable s c).isFused r.1 = false)
    (i : BootImage) : (configured s c i).config = c := by
  have hnil : (c.roles.filter fun r => (withTable s c).isFused r.1) = [] :=
    List.filter_eq_nil_iff.2 fun r hr => by simp [h r hr]
  rw [configured, hnil]
  rfl

/-! ## The start of boot mode (R369, R372) -/

/-- Boot cores of the dies of a list (R372). -/
def bootCores (s : State) (dies : List Nat) : List Nat := dies.filterMap s.bootCore?

/-- A die's boot core does not change while cores start images. -/
theorem foldl_bootCore (s : State) (dies : List Nat) (image : List Byte) {f : State → Nat → State}
    (hnone : ∀ t d, t.bootCore? d = none → f t d = t)
    (hsome : ∀ t d p, t.bootCore? d = some p → f t d = t.startImage p image) :
    dies.foldl f s = startImages s (bootCores s dies) image := by
  induction dies generalizing s with
  | nil => rfl
  | cons d dies ih =>
    cases hd : s.bootCore? d with
    | none => rw [List.foldl_cons, hnone s d hd, ih, bootCores, bootCores, List.filterMap_cons_none hd]
    | some p =>
      rw [List.foldl_cons, hsome s d p hd, ih, bootCores, bootCores, List.filterMap_cons_some hd]
      rfl

/-- The boot core of each die of a list starts the stage image, and then each core of the firmware role the firmware image. -/
def booted (s : State) (dies : List Nat) (i : BootImage) : State :=
  let s2 := startImages s (bootCores s dies) i.stage
  startImages s2 (s2.roleCores 1) i.firmware.bytes

theorem booted_eq_foldl (s : State) (dies : List Nat) (i : BootImage) {f : State → Nat → State}
    (hnone : ∀ t d, t.bootCore? d = none → f t d = t)
    (hsome : ∀ t d p, t.bootCore? d = some p → f t d = t.startImage p i.stage) :
    booted s dies i = ((dies.foldl f s).roleCores 1).foldl (fun t p => t.startImage p i.firmware.bytes) (dies.foldl f s) := by
  rw [foldl_bootCore s dies i.stage hnone hsome]
  rfl

theorem startBoot_eq (s : State) (i : BootImage) :
    s.startBoot i = booted (configured s (parseTable i.table.bytes) i) (List.range 4) i := by
  unfold State.startBoot
  generalize parseTable i.table.bytes = c
  generalize List.range 4 = dies
  exact (booted_eq_foldl (configured s c i) dies i (fun t d h => by simp only [h]) (fun t d p h => by simp only [h])).symm

/-- Starting images on two lists of cores in turn changes memory, contexts and processes. -/
theorem startImages_startImages_device (s : State) (first second : List Nat) (image other : List Byte) :
    { startImages (startImages s first image) second other with mem := s.mem, ctxs := s.ctxs, procs := s.procs } = s :=
  (congrArg (fun t : State => { t with mem := s.mem, ctxs := s.ctxs, procs := s.procs })
    (startImages_device (startImages s first image) second other) :).trans (startImages_device s first image)

theorem booted_device (s : State) (dies : List Nat) (i : BootImage) :
    { booted s dies i with mem := s.mem, ctxs := s.ctxs, procs := s.procs } = s := by
  dsimp only [booted]
  exact startImages_startImages_device s (bootCores s dies) _ i.stage i.firmware.bytes

theorem booted_roleCores (s : State) (dies : List Nat) (i : BootImage) (role : Nat) :
    (booted s dies i).roleCores role = s.roleCores role :=
  (congrArg (State.roleCores · role) (booted_device s dies i) :)

section
variable {s t : State} {c : ConfigTable} {i : BootImage} {dies : List Nat}

theorem Rerolled.carried (h : Rerolled { withTable s c with running := some i } t) : Carried s t := by
  have hmem : t.mem = s.mem := (congrArg State.mem h.device :)
  have hctxs : t.ctxs = s.ctxs := (congrArg State.ctxs h.device :)
  exact ⟨fun w => by rw [hmem, w], fun tid => by rw [State.ctx, State.ctx, hctxs]⟩

/-- What the start of boot mode sets, beside the role map. -/
theorem Rerolled.booted_fields (h : Rerolled { withTable s c with running := some i } t) :
    (booted t dies i).pwrlim = c.power % 2 ^ 12 ∧ (booted t dies i).bootMode = true ∧ (booted t dies i).phase = 5 ∧
      (booted t dies i).phaseTime = s.now ∧ (booted t dies i).running = some i :=
  have hdevice := booted_device t dies i
  ⟨(congrArg State.pwrlim hdevice :).trans (congrArg State.pwrlim h.device :),
    (congrArg State.bootMode hdevice :).trans (congrArg State.bootMode h.device :),
    (congrArg State.phase hdevice :).trans (congrArg State.phase h.device :),
    (congrArg State.phaseTime hdevice :).trans (congrArg State.phaseTime h.device :),
    (congrArg State.running hdevice :).trans (congrArg State.running h.device :)⟩

/-- Each core of the firmware role runs the firmware image. -/
theorem Rerolled.booted_runs_firmware (h : Rerolled { withTable s c with running := some i } t) {p : Nat}
    (hp : p ∈ (booted t dies i).roleCores 1) : RunsImage s (booted t dies i) p i.firmware.bytes := by
  rw [booted_roleCores] at hp
  refine runsImage_startImages (h.carried.startImages _ i.stage) ?_ _
  rw [startImages_roleCores]
  exact hp

/-- The boot core of each die runs the stage image, unless it has the firmware role. -/
theorem Rerolled.booted_runs_stage (h : Rerolled { withTable s c with running := some i } t) {d p : Nat} (hd : d ∈ dies)
    (hp : t.bootCore? d = some p) (hrole : p ∉ (booted t dies i).roleCores 1) : RunsImage s (booted t dies i) p i.stage := by
  rw [booted_roleCores] at hrole
  have hmem : p ∈ bootCores t dies := List.mem_filterMap.2 ⟨d, hd, hp⟩
  refine runsImage_startImages_other ?_ (runsImage_startImages h.carried hmem _) _
  rw [startImages_roleCores]
  exact hrole

/-- A die's boot core is its first user position that is not fused. -/
theorem bootCore_of_filter {d p : Nat} {rest : List Nat} (h : (((List.range 1024).map (d * 1024 + ·)).filter
    fun p => decide (p % 32 < 32 - t.config.w) && !t.isFused p) = p :: rest) : t.bootCore? d = some p := by
  have hsame : t.userPositions d = p :: rest := by
    rw [← h]
    refine List.filter_congr fun q _ => ?_
    have huser : (!t.isSystem q) = decide (q % 32 < 32 - t.config.w) := by
      rw [State.isSystem, ← decide_not, xOf]
      exact decide_eq_decide.2 (by omega)
    rw [huser]
  rw [State.bootCore?, hsame]
  rfl

/-- A position of the role map of an accepted table is fused only if it has been retired. -/
theorem isFused_role (h : Accepted s i) {r : Nat × Nat} (hr : r ∈ (parseTable i.table.bytes).roles)
    (hretired : r.1 ∉ s.fuses.retiredCores) : (withTable s (parseTable i.table.bytes)).isFused r.1 = false := by
  obtain ⟨-, -, -, -, -, hfused, -, hroles⟩ := h
  have htable : r.1 ∉ (parseTable i.table.bytes).fused := hroles r hr
  have hfuses : r.1 ∉ s.fuses.fused := mt (hfused r.1).2 htable
  simp [State.isFused, withTable, htable, hfuses, hretired]

/-- Boot mode runs an image under a configuration: the stage image on each die's boot core, and the firmware image on the
cores of the firmware role. -/
def Boots (s t : State) (c : ConfigTable) (i : BootImage) : Prop :=
  t.pwrlim = c.power % 2 ^ 12 ∧ t.bootMode = true ∧ t.phase = 5 ∧ t.phaseTime = s.now ∧ t.running = some i ∧
    ((∀ r ∈ c.roles, r.1 ∉ s.fuses.retiredCores) → t.config = c) ∧
    (∀ d < 4, ∀ p rest,
      ((List.range 1024).map (d * 1024 + ·)).filter (fun p => decide (p % 32 < 32 - c.w) && !t.isFused p) = p :: rest →
      p ∉ t.roleCores 1 → RunsImage s t p i.stage) ∧
    (∀ p ∈ t.roleCores 1, RunsImage s t p i.firmware.bytes)

theorem Rerolled.boots (h : Rerolled { withTable s c with running := some i } t)
    (hconfig : (∀ r ∈ c.roles, r.1 ∉ s.fuses.retiredCores) → t.config = c) (hdies : ∀ d < 4, d ∈ dies) :
    Boots s (booted t dies i) c i := by
  obtain ⟨hpwrlim, hboot, hphase, htime, hrunning⟩ := h.booted_fields (dies := dies)
  have hdevice := booted_device t dies i
  have hfused (p : Nat) : (booted t dies i).isFused p = t.isFused p := (congrArg (State.isFused · p) hdevice :)
  have hw : t.config.w = c.w := by
    obtain ⟨roles, hroles⟩ := h.config
    rw [hroles]
    rfl
  refine ⟨hpwrlim, hboot, hphase, htime, hrunning, fun hr => (congrArg State.config hdevice :).trans (hconfig hr),
    fun d hd p rest hfirst hrole => ?_, fun p hp => h.booted_runs_firmware hp⟩
  simp only [hfused, ← hw] at hfirst
  exact h.booted_runs_stage (hdies d hd) (bootCore_of_filter hfirst) hrole

end

/-- An accepted image and table begin boot mode. -/
theorem startBoot_boots {s : State} {i : BootImage} (h : Accepted s i) :
    Boots s (s.startBoot i) (parseTable i.table.bytes) i := by
  rw [startBoot_eq]
  exact (configured_rerolled s _ i).boots
    (fun hretired => configured_config (fun r hr => isFused_role h hr (hretired r hr)) i) fun _ => List.mem_range.2

/-! ## The steps of phase 3 (R369, R370) -/

theorem firmwareIsVerified : FirmwareIsVerified := by
  intro s stageAt stageLen firmware table i bs c good verify supply
  have hverify := exec_firmwareVerify_signed s stageAt stageLen firmware table
  have hok := imageOk_iff s (candidate s stageAt stageLen firmware table)
  have hsupply := exec_oobImage_signed s stageAt stageLen firmware table
  refine ⟨fun h => hverify.trans (if_pos h), fun hphase hfailed hbad => ?_, fun hphase hfailed hgood => ?_,
    fun hphase hfailed => hsupply.trans (if_pos ⟨hphase, hfailed⟩), fun h => hsupply.trans (if_neg ?_)⟩
  · rw [if_neg (by simp [hphase, hfailed]), if_neg (mt hok.1 hbad)] at hverify
    exact hverify
  · rw [if_neg (by simp [hphase, hfailed]), if_pos (hok.2 hgood)] at hverify
    exact ⟨_, hverify, startBoot_boots hgood⟩
  · rintro ⟨hphase, hfailed⟩
    simp [hphase, hfailed] at h

/-- Settles O52: an accepted image and table begin boot mode, whose images stay as they were started; what is refused leaves
the device in phase 3. -/
theorem firmwareVerification : Obligations.FirmwareVerification := firmwareIsVerified

end Sys2Proof.Firmware

/-!
How a launch starts (R28, R29, R118, R294, R304, R305, R315): what placement brings into the cores, and what its commit
makes of every process.
-/

namespace Sys2Proof.LaunchStart
open Sys2Proof Sys2Proof.Machine Sys2Proof.Claims

/-! ## The two instructions -/

theorem exec_placement (key : Nat) (cores : List Nat) (s : State) :
    exec (.placement key cores) s = execPlacement key cores s := by rfl

theorem exec_placementCommit (key : Nat) (s : State) :
    exec (.placementCommit key) s = execPlacementCommit key s := by rfl

/-! ## Folds over a list whose elements keep out of each other's way -/

/-- Each step of a fold sets what its own element asks for, and no later step undoes it: so it holds of every element at the end.
`I` is what every step may rely on. -/
theorem foldl_sets_each {α : Type} {f : State → α → State} {I : State → Prop} {Q : α → State → Prop} {l : List α}
    (keeps : ∀ t, I t → ∀ x ∈ l, I (f t x)) (sets : ∀ t, I t → ∀ x ∈ l, Q x (f t x))
    (apart : l.Pairwise fun x y => ∀ t, Q x t → Q x (f t y)) {s : State} (h : I s) :
    ∀ x ∈ l, Q x (l.foldl f s) := by
  induction l generalizing s with
  | nil => simp
  | cons y l ih =>
    obtain ⟨hy, hl⟩ := List.pairwise_cons.1 apart
    have hfirst : Q y (l.foldl f (f s y)) :=
      List.foldlRecOn l f (sets s h y List.mem_cons_self) fun t ht x hx => hy x hx t ht
    have hrest := ih (fun t ht x hx => keeps t ht x (List.mem_cons_of_mem y hx))
      (fun t ht x hx => sets t ht x (List.mem_cons_of_mem y hx)) hl (keeps s h y List.mem_cons_self)
    intro x hx
    rcases List.mem_cons.1 hx with rfl | hx
    · exact hfirst
    · exact hrest x hx

/-! ## The cores of a placement (R304, R315, R382) -/

theorem rising_iff (l : List Nat) : rising l = true ↔ l.Pairwise (· < ·) := by
  rw [← List.isChain_iff_pairwise]
  induction l with
  | nil => simp [rising]
  | cons x l ih =>
    cases l with
    | nil => simp [rising]
    | cons y l => simp [rising, ih]

theorem coresOk_iff (s : State) (l : Launch) (cores : List Nat) : s.coresOk l cores = true ↔ Serve s l cores := by
  have hfree : cores.all s.placeable = true ↔
      ∀ p ∈ cores, s.isUser p = true ∧ s.countsFused p = false ∧ s.coreFree p = true := by
    simp [State.placeable, and_assoc]
  rw [State.coresOk]
  simp only [Bool.and_eq_true, beq_iff_eq, rising_iff, hfree, and_assoc]
  exact ⟨fun ⟨a, b, c, d, e⟩ => ⟨a, b, c, d, e⟩, fun ⟨a, b, c, d, e⟩ => ⟨a, b, c, d, e⟩⟩

theorem lt_of_serve {s : State} {l : Launch} {cores : List Nat} (h : Serve s l cores) (hmap : ∀ p ∈ s.lmap, p < 4096)
    {p : Nat} (hp : p ∈ cores) : p < 4096 :=
  hmap p (List.contains_iff_mem.1 (h.free p hp).1)

theorem refreshMap_eq_self {s : State} (h : ∀ p ∈ s.lmap, s.countsFused p = false) : s.refreshMap = s := by
  have hmap : (s.lmap.filter fun p => !s.countsFused p) = s.lmap := List.filter_eq_self.2 fun p hp => by simp [h p hp]
  rw [State.refreshMap, hmap]

theorem perCore_eq (l : LaunchRec) : perCore l = if l.place = 0 ∧ l.timed = false then 15 else 1 := by simp [perCore]

/-! ## The image in a core's local store (R28, R315) -/

/-- A local store that holds an image, and zeros above it. -/
def loadLocal (image : List Byte) (p : Nat) (m : Mem) : Mem := putLocal p 0 image (memZero (localKey p 0) 0x20000 m)

/-- Zeroing a range leaves the bytes outside it alone, in a memory of any form. -/
theorem memGet_memZero_outside {a n b : Nat} (m : Mem) (h : b < a ∨ a + n ≤ b) :
    memGet b (memZero a n m) = memGet b m := by
  induction m with
  | nil => rfl
  | cons c m ih =>
    obtain ⟨d, v⟩ := c
    rw [memZero] at ih ⊢
    by_cases hd : d = b
    · subst hd
      simp [h, memGet]
    · by_cases hkept : d < a ∨ a + n ≤ d <;> simp [hkept, memGet, hd, ih]

theorem loadLocal_wf (image : List Byte) (p : Nat) {m : Mem} (w : memWf m = true) : memWf (loadLocal image p m) = true :=
  putLocal_wf _ _ _ (memZero_wf _ _ w)

theorem memGet_loadLocal_outside (image : List Byte) {p a : Nat} (m : Mem)
    (h : a < localKey p 0 ∨ localKey p 0 + 0x20000 ≤ a) : memGet a (loadLocal image p m) = memGet a m := by
  have hlen : (image.take (0x20000 - 0)).length ≤ 0x20000 := List.length_take_le _ _
  rw [loadLocal, putLocal, memGet_write_other _ _ (by omega), memGet_memZero_outside m h]

theorem memGet_loadLocal {image : List Byte} (hlen : image.length ≤ 0x20000) (p : Nat) {m : Mem} (w : memWf m = true)
    {i : Nat} (hi : i < 0x20000) : memGet (localKey p 0 + i) (loadLocal image p m) = image.getD i 0 := by
  rw [loadLocal, putLocal, Nat.sub_zero, List.take_of_length_le hlen]
  by_cases h : i < image.length
  · rw [memGet_write_same image (memZero_wf _ _ w) i h, List.getD_eq_getElem _ _ h]
  · rw [memGet_write_other _ _ (by omega), memGet_zero_same m (by omega) (by omega),
      List.getD_eq_default _ _ (by omega)]

/-! ## The load of all cores (R305, R315) -/

/-- One core of a launch takes the image, and its spill ring is empty. -/
def loadCore (l : LaunchRec) (image : List Byte) (s : State) (p : Nat) : State :=
  (s.setMem (loadLocal image p s.mem)).modCore p fun k =>
    { k with spillSize := spillEntries l, spillTail := 0, spoiled := false }

theorem loadImage_eq_foldl (s : State) {l : Launch} (image : List Byte) (hdescs : l.descs = [])
    (htab : l.spec.rankTab = none) : s.loadImage l image = l.cores.foldl (loadCore l.spec image) s := by
  simp only [State.loadImage, hdescs, htab, List.map_nil, List.foldl_nil]
  rfl

/-- A load changes memory and the cores. -/
theorem loadCores_device (l : LaunchRec) (image : List Byte) (cores : List Nat) (s : State) :
    { cores.foldl (loadCore l image) s with mem := s.mem, cores := s.cores } = s :=
  List.foldlRecOn (motive := fun t : State => { t with mem := s.mem, cores := s.cores } = s) cores _ rfl fun _ h _ _ => h

/-- Every core that a load names holds the image, and zeros above it. -/
theorem memGet_loadCores (l : LaunchRec) {image : List Byte} (hlen : image.length ≤ 0x20000) {cores : List Nat}
    (hcores : cores.Pairwise (· < ·)) {s : State} (w : memWf s.mem = true) :
    ∀ p ∈ cores, ∀ i < 0x20000, memGet (localKey p 0 + i) (cores.foldl (loadCore l image) s).mem = image.getD i 0 := by
  refine foldl_sets_each (I := fun t => memWf t.mem = true)
    (Q := fun p t => ∀ i < 0x20000, memGet (localKey p 0 + i) t.mem = image.getD i 0)
    (fun t ht p _ => loadLocal_wf image p ht) (fun t ht p _ i hi => memGet_loadLocal hlen p ht hi) ?_ w
  refine hcores.imp fun {p q} hpq t ht i hi => ?_
  have hout : localKey p 0 + i < localKey q 0 := by unfold localKey; omega
  exact (memGet_loadLocal_outside image t.mem (.inl hout)).trans (ht i hi)

/-- No byte of off-chip memory changes in a load. -/
theorem memGet_loadCores_offchip (l : LaunchRec) (image : List Byte) {cores : List Nat} (hlt : ∀ p ∈ cores, p < 4096)
    (s : State) {a : Nat} (ha : dpaBase ≤ a) : memGet a (cores.foldl (loadCore l image) s).mem = memGet a s.mem := by
  refine List.foldlRecOn (motive := fun t : State => memGet a t.mem = memGet a s.mem) cores _ rfl fun t ht p hp => ?_
  have hp := hlt p hp
  have hout : localKey p 0 + 0x20000 ≤ a := by unfold localKey; unfold dpaBase at ha; omega
  exact (memGet_loadLocal_outside image t.mem (.inr hout)).trans ht

/-- The spill ring of a core has its size, is empty, and no program has written into the core's reserved area. -/
def FreshRing (l : LaunchRec) (k : CoreS) : Prop :=
  k.spillSize = (if l.spill = 0 then 64 else l.spill) ∧ k.spillTail = 0 ∧ k.spoiled = false

theorem freshRing_loadCores (l : LaunchRec) (image : List Byte) {cores : List Nat} (hcores : cores.Pairwise (· < ·))
    (s : State) : ∀ p ∈ cores, FreshRing l ((cores.foldl (loadCore l image) s).core p) := by
  refine foldl_sets_each (I := fun _ => True) (Q := fun p t => FreshRing l (t.core p)) (fun _ _ _ _ => trivial)
    (fun t _ p _ => ?_) ?_ trivial
  · rw [loadCore, State.core_modCore_same]
    exact ⟨rfl, rfl, rfl⟩
  · refine hcores.imp fun {p q} hpq t ht => ?_
    rw [loadCore, State.core_modCore_other _ (Nat.ne_of_lt hpq)]
    exact ht

/-! ## The packets that carry the image (R341, R343) -/

/-- Only the network, and what routers draw of their generators, differ. -/
structure OnlyRouted (s t : State) : Prop where
  device : { t with net := s.net, cores := s.cores } = s
  core : ∀ p, ∃ x, t.core p = { s.core p with xorshift := x }

theorem OnlyRouted.refl (s : State) : OnlyRouted s s := ⟨rfl, fun _ => ⟨_, rfl⟩⟩

theorem OnlyRouted.send {s t : State} (h : OnlyRouted s t) (p : Packet) : OnlyRouted s (t.send p) := ⟨h.device, h.core⟩

theorem OnlyRouted.draw {s t : State} (h : OnlyRouted s t) (src : Nat) (x : BitVec 32) :
    OnlyRouted s (t.modCore src fun k => { k with xorshift := x }) where
  device := h.device
  core p := by
    obtain ⟨y, hy⟩ := h.core p
    by_cases hp : p = src
    · subst hp
      exact ⟨x, by rw [State.core_modCore_same, hy]⟩
    · exact ⟨y, by rw [State.core_modCore_other _ hp, hy]⟩

theorem OnlyRouted.postBulk {s t : State} (h : OnlyRouted s t) (src dst : Nat) (colour : Option Nat) (owner : Nat) :
    OnlyRouted s (t.postBulk src dst colour owner) := by
  cases colour with
  | none => exact h.send _
  | some c =>
    unfold State.postBulk
    dsimp only
    split
    · exact (h.draw _ _).send _
    · exact h.send _

theorem onlyRouted_postImage (s : State) (key : Nat) (l : Launch) : OnlyRouted s (s.postImage key l) := by
  rw [State.postImage]
  exact List.foldlRecOn l.cores _ (OnlyRouted.refl s) fun t ht p _ =>
    List.foldlRecOn (List.range _) _ ht fun u hu _ _ => hu.postBulk _ _ _ _

/-! ## Steps 1 and 2 of placement -/

/-- A launch once it has been loaded. -/
def loaded (s : State) (l : Launch) (cores : List Nat) : Launch :=
  { l with phase := .loaded, cores := cores, ranks := rankPlaces l.spec cores, lmap := s.lmap }

theorem place_eq (s : State) (key : Nat) {l : Launch} (cores : List Nat) (image : List Byte) (hdescs : l.descs = [])
    (htab : l.spec.rankTab = none) : s.place key l cores image =
      (cores.foldl (loadCore l.spec image) (s.setLaunch key (loaded s l cores))).postImage key (loaded s l cores) := by
  have hload := loadImage_eq_foldl (s.setLaunch key (loaded s l cores)) (l := loaded s l cores) image hdescs htab
  simp only [loaded] at hload ⊢
  simp only [State.place, hload]
  simp only [hdescs, State.createEvents]

/-- What a placement has brought: the launch with its places, the image in every core, and empty spill rings. -/
structure Loads (s t : State) (key : Nat) (l : Launch) (cores : List Nat) (image : List Byte) : Prop where
  launch : t.launch? key = some (loaded s l cores)
  bytes : memWf s.mem = true → ∀ p ∈ cores, ∀ i < 0x20000, memGet (localKey p 0 + i) t.mem = image.getD i 0
  rings : ∀ p ∈ cores, FreshRing l.spec (t.core p)
  offchip : ∀ a, dpaBase ≤ a → memGet a t.mem = memGet a s.mem
  ctxs : t.ctxs = s.ctxs

theorem loads_place {s : State} (key : Nat) {l : Launch} {cores : List Nat} {image : List Byte} (hserve : Serve s l cores)
    (hmap : ∀ p ∈ s.lmap, p < 4096) (hdescs : l.descs = []) (htab : l.spec.rankTab = none)
    (hlen : image.length ≤ 0x20000) : Loads s (s.place key l cores image) key l cores image := by
  rw [place_eq s key cores image hdescs htab]
  let s1 := s.setLaunch key (loaded s l cores)
  have hdevice := loadCores_device l.spec image cores s1
  have hposted := onlyRouted_postImage (cores.foldl (loadCore l.spec image) s1) key (loaded s l cores)
  have hmem := congrArg State.mem hposted.device
  refine ⟨?_, fun w p hp i hi => ?_, fun p hp => ?_, fun a ha => ?_, ?_⟩
  · have hlaunches := (congrArg State.launches hposted.device).trans (congrArg State.launches hdevice :)
    exact (congrArg (tableFind key) hlaunches :).trans (State.launch_setLaunch_same s key _)
  · exact (congrArg (memGet _) hmem).trans (memGet_loadCores l.spec hlen hserve.rising (s := s1) w p hp i hi)
  · obtain ⟨x, hx⟩ := hposted.core p
    rw [hx]
    exact freshRing_loadCores l.spec image hserve.rising s1 p hp
  · exact (congrArg (memGet a) hmem).trans
      (memGet_loadCores_offchip l.spec image (fun p hp => lt_of_serve hserve hmap hp) s1 ha)
  · exact (congrArg State.ctxs hposted.device).trans (congrArg State.ctxs hdevice :)

section
variable {s : State} {key : Nat} {l : Launch} (hl : s.launch? key = some l)
include hl

theorem exec_placement_ignored (h : l.phase ≠ .chosen ∨ ¬ s.now < l.spec.deadline - l.spec.budgetW) (cores : List Nat) :
    exec (.placement key cores) s = .next s := by
  have hskip : (decide (l.phase ≠ .chosen) || !inTime s l) = true := by simpa [inTime] using h
  simp only [exec_placement, execPlacement, hl, hskip, if_true]

section
variable (hphase : l.phase = .chosen) (htime : s.now < l.spec.deadline - l.spec.budgetW)
  (hmap : ∀ p ∈ s.lmap, s.countsFused p = false) (cores : List Nat)
include hphase htime hmap

/-- An image that is not resident is asked for. -/
theorem exec_placement_absent
    (h : s.readLines (s.rootOf l.region) l.spec.image (l.spec.imageLen / 64) = none) :
    exec (.placement key cores) s =
      .next (s.frontPages l.region (State.pagesOf l.spec.image l.spec.imageLen false)).2 := by
  simp [exec_placement, execPlacement, hl, inTime, hphase, htime, refreshMap_eq_self hmap, h]

theorem exec_placement_resident {image : List Byte}
    (h : s.readLines (s.rootOf l.region) l.spec.image (l.spec.imageLen / 64) = some image) :
    exec (.placement key cores) s =
      if s.coresOk l cores = true then .next (s.place key l cores image)
      else .next (s.setLaunch key { l with phase := .admitted }) := by
  simp [exec_placement, execPlacement, hl, inTime, hphase, htime, refreshMap_eq_self hmap, h]

end
end

/-! ## The commit (R29, R118, R294, R315) -/

theorem diesReady_iff (s : State) (l : Launch) :
    s.diesReady l = true ↔ ∀ p ∈ l.cores, l.spec.freq ≤ tableGet 0 (dieOf p) s.dieFreq := by
  simp [State.diesReady, State.diesOf]

section
variable {s : State} {key : Nat} {l : Launch} (hl : s.launch? key = some l)
include hl

theorem exec_placementCommit_ignored (h : l.phase ≠ .loaded ∨
      (∃ p ∈ l.cores, tableGet 0 (dieOf p) s.dieFreq < l.spec.freq) ∨ ¬ s.now < l.spec.deadline - l.spec.budgetW ∨
      ¬ s.colourRuns (some (s.colourOf l.region)) = true) :
    exec (.placementCommit key) s = .next s := by
  have hdies : (∃ p ∈ l.cores, tableGet 0 (dieOf p) s.dieFreq < l.spec.freq) ↔ ¬ s.diesReady l = true := by
    rw [diesReady_iff]
    simp
  rw [hdies] at h
  rw [exec_placementCommit, execPlacementCommit, hl]
  refine if_neg ?_
  simp only [Bool.and_eq_true, decide_eq_true_eq, inTime]
  tauto

theorem exec_placementCommit_loaded (hphase : l.phase = .loaded)
    (hdies : ∀ p ∈ l.cores, l.spec.freq ≤ tableGet 0 (dieOf p) s.dieFreq)
    (htime : s.now < l.spec.deadline - l.spec.budgetW) (hruns : s.colourRuns (some (s.colourOf l.region)) = true) :
    exec (.placementCommit key) s = .next (s.commitLaunch key l).sweepBulk := by
  simp [exec_placementCommit, execPlacementCommit, hl, hphase, (diesReady_iff s l).2 hdies, inTime, htime, hruns]

end

/-! ### The switches that a commit announces (R318) -/

theorem notify_device (s : State) (colour time : Nat) (frozen : Bool) :
    { s.notify colour time frozen with groups := s.groups, net := s.net } = s :=
  List.foldlRecOn (motive := fun t : State => { t with groups := s.groups, net := s.net } = s) (s.groupCores colour) _ rfl
    fun _ h _ _ => h

theorem switchFor_device (s : State) (start : Nat) (need : List Nat) (fuel : Nat) :
    { s.switchFor start need fuel with groups := s.groups, net := s.net } = s := by
  induction fuel generalizing s with
  | zero => rfl
  | succ fuel ih =>
    unfold State.switchFor
    dsimp only
    split
    · rfl
    · split
      next c _ =>
        let s1 := s.notify c (start - 30000) false
        exact (congrArg (fun t : State => { t with groups := s.groups, net := s.net }) (ih s1) :).trans
          (notify_device s c _ false)
      · rfl

/-- Switches change colour groups and the network. -/
theorem switchForWindows_device (s : State) : { s.switchForWindows with groups := s.groups, net := s.net } = s := by
  unfold State.switchForWindows
  refine List.foldlRecOn (motive := fun t : State => { t with groups := s.groups, net := s.net } = s) _ _ rfl
    fun t h w _ => ?_
  exact (congrArg (fun u : State => { u with groups := s.groups, net := s.net }) (switchFor_device t _ _ _) :).trans h

/-! ### The processes (R29, R118, R294) -/

/-- A process of a launch as its commit makes it. -/
def entryProc (key : Nat) (l : Launch) (rank tid : Nat) : Proc :=
  ⟨some key, rank, tid, l.spec.lvt, l.spec.spawn, 0, false, [], [], false⟩

section
variable (s : State) (key : Nat) (l : Launch) (rank tid : Nat)

theorem ctx_startProcess_same : (s.startProcess key l rank tid).ctx tid = entryCtx key l rank tid :=
  State.ctx_setCtx_same _ _ _

theorem proc_startProcess_same : (s.startProcess key l rank tid).proc (procKey key rank) = entryProc key l rank tid :=
  State.proc_setProc_same _ _ _

variable {rank tid}

theorem ctx_startProcess_other {k : Nat} (h : k ≠ tid) : (s.startProcess key l rank tid).ctx k = s.ctx k :=
  (State.ctx_setCtx_other _ h _).trans (State.ctx_setCtx_other s h _)

/-- Another rank's process stays as it is: the record that leaves with a slot's old context has an odd key. -/
theorem proc_startProcess_other {r : Nat} (h : r ≠ rank) :
    (s.startProcess key l rank tid).proc (procKey key r) = s.proc (procKey key r) := by
  have hkey : procKey key r ≠ procKey key rank := by unfold procKey; omega
  have hbare : procKey key r ≠ State.bareKey tid := by unfold procKey State.bareKey; omega
  refine (State.proc_setProc_other _ hkey _).trans ?_
  change (tableFind (procKey key r) (tableDrop (State.bareKey tid) s.procs)).getD Proc.none = _
  rw [tableFind_drop, if_neg hbare]
  rfl

/-- The processes of a launch, each started in its place. -/
def startProcesses : State := l.ranks.zipIdx.foldl (fun t x => t.startProcess key l x.2 x.1) s

/-- The start of processes changes memory, contexts and processes. -/
theorem startProcesses_device :
    { startProcesses s key l with mem := s.mem, ctxs := s.ctxs, procs := s.procs } = s :=
  List.foldlRecOn (motive := fun t : State => { t with mem := s.mem, ctxs := s.ctxs, procs := s.procs } = s)
    l.ranks.zipIdx _ rfl fun _ h _ _ => h

theorem ctx_startProcesses_other (h : tid ∉ l.ranks) : (startProcesses s key l).ctx tid = s.ctx tid := by
  refine List.foldlRecOn (motive := fun t : State => t.ctx tid = s.ctx tid) l.ranks.zipIdx _ rfl fun t ht x hx => ?_
  have hne : tid ≠ x.1 := fun heq => h (heq ▸ List.fst_mem_of_mem_zipIdx hx)
  exact (ctx_startProcess_other t key l hne).trans ht

/-- Two entries of a list of places differ in place and in rank. -/
theorem pairwise_zipIdx_ne {ranks : List Nat} (h : ranks.Nodup) :
    ranks.zipIdx.Pairwise fun x y => x.1 ≠ y.1 ∧ x.2 ≠ y.2 := by
  have hplaces : ranks.zipIdx.Pairwise fun x y => x.1 ≠ y.1 := by
    rw [← List.pairwise_map (f := Prod.fst), List.zipIdx_map_fst]
    exact h
  have hranks : ranks.zipIdx.Pairwise fun x y => x.2 ≠ y.2 := by
    rw [← List.pairwise_map (f := Prod.snd), List.zipIdx_map_snd]
    exact List.nodup_range'
  exact hplaces.and hranks

theorem startProcesses_sets (h : l.ranks.Nodup) (hrank : l.ranks[rank]? = some tid) :
    (startProcesses s key l).ctx tid = entryCtx key l rank tid ∧
      (startProcesses s key l).proc (procKey key rank) = entryProc key l rank tid := by
  refine foldl_sets_each (I := fun _ => True)
    (Q := fun x t => t.ctx x.1 = entryCtx key l x.2 x.1 ∧ t.proc (procKey key x.2) = entryProc key l x.2 x.1)
    (fun _ _ _ _ => trivial)
    (fun t _ x _ => ⟨ctx_startProcess_same t key l x.2 x.1, proc_startProcess_same t key l x.2 x.1⟩) ?_ trivial
    (tid, rank) (List.mk_mem_zipIdx_iff_getElem?.2 hrank)
  refine (pairwise_zipIdx_ne h).imp fun {x y} hne t ht => ?_
  exact ⟨(ctx_startProcess_other t key l hne.1).trans ht.1, (proc_startProcess_other t key l hne.2).trans ht.2⟩

end

/-! ### Registers at the entry (R29, R294, R305) -/

theorem g_entryCtx (key : Nat) (l : Launch) (rank tid : Nat) (r : GReg) :
    (entryCtx key l rank tid).g r = entryG l.spec rank r := by
  have hoff : allocOffset l.spec (procIndex l.spec rank) = (l.spec.imageLen + 63) / 64 * 64 +
      rank % (if l.spec.place = 0 ∧ l.spec.timed = false then 15 else 1) * ((l.spec.lsBytes + 63) / 64 * 64) := by
    rw [allocOffset, procIndex, perCore_eq]
    rfl
  simp only [Ctx.g, entryCtx, entryRegs, entryG, hoff]
  by_cases h0 : r = 0
  · simp [h0]
  by_cases h2 : r = 2
  · simp [h2]
  by_cases h3 : r = 3
  · simp [h3]
  by_cases h4 : r = 4
  · simp [h4]
  have hne (k : GReg) (h : r ≠ k) : ¬ k.val = r.val := fun heq => h (Fin.ext heq.symm)
  simp [h0, h2, h3, h4, show ¬ 2 = r.val from hne 2 h2, show ¬ 3 = r.val from hne 3 h3,
    show ¬ 4 = r.val from hne 4 h4]

theorem rings_untimed {l : LaunchRec} (h : l.timed = false) (n k : Nat) : ckringOf l n k = 0 ∧ jringOf l n k = 0 := by
  simp [ckringOf, jringOf, h]

/-- The sizes of a timed process's rings stand in CKRING and JRING above their offsets. -/
theorem rings_timed {l : LaunchRec} (h : l.timed = true) (n k : Nat) :
    (ckringOf l n k).toNat / 2 ^ 20 % 2 ^ 12 = l.ckpt % 2 ^ 12 ∧
      (jringOf l n k).toNat / 2 ^ 32 % 2 ^ 16 = l.journal % 2 ^ 16 := by
  simp only [ckringOf, jringOf, h, if_true, BitVec.toNat_ofNat]
  omega

/-! ### What a commit leaves -/

/-- The launch once it has been committed. -/
def committed (s : State) (l : Launch) : Launch := { l with phase := .running, committed := s.now, lastRound := s.now }

/-- Once its processes stand, a commit changes colour groups and the network. -/
theorem commitLaunch_device (s : State) (key : Nat) (l : Launch) :
    let t := startProcesses (s.setLaunch key (committed s l)) key l
    { (s.commitLaunch key l).sweepBulk with groups := t.groups, net := t.net } = t := by
  intro t
  have hcommit : s.commitLaunch key l = if s.isGuaranteed l.region then t else t.switchForWindows := rfl
  rw [hcommit]
  split
  · rfl
  · exact switchForWindows_device t

/-- What a commit has started: the launch runs, and each of its processes stands at its entry; no other context differs. -/
structure Starts (s t : State) (key : Nat) (l : Launch) : Prop where
  launch : t.launch? key = some (committed s l)
  now : t.now = s.now
  processes : ∀ rank tid, l.ranks[rank]? = some tid →
    t.ctx tid = entryCtx key l rank tid ∧ t.proc (procKey key rank) = entryProc key l rank tid
  others : ∀ tid, tid ∉ l.ranks → t.ctx tid = s.ctx tid

theorem starts_commitLaunch (s : State) (key : Nat) {l : Launch} (hnodup : l.ranks.Nodup) :
    Starts s (s.commitLaunch key l).sweepBulk key l := by
  let s1 := s.setLaunch key (committed s l)
  have hdevice := commitLaunch_device s key l
  have hstarted := startProcesses_device s1 key l
  refine ⟨?_, ?_, fun rank tid hrank => ?_, fun tid htid => ?_⟩
  · have hlaunches := (congrArg State.launches hdevice).trans (congrArg State.launches hstarted :)
    exact (congrArg (tableFind key) hlaunches :).trans (State.launch_setLaunch_same s key _)
  · exact (congrArg State.now hdevice).trans (congrArg State.now hstarted :)
  · obtain ⟨hctx, hproc⟩ := startProcesses_sets s1 key l hnodup hrank
    exact ⟨(congrArg (State.ctx · tid) hdevice :).trans hctx, (congrArg (State.proc · _) hdevice :).trans hproc⟩
  · exact (congrArg (State.ctx · tid) hdevice :).trans (ctx_startProcesses_other s1 key l htid)

theorem launchesArePlaced : LaunchesArePlaced := by
  intro s key l hl intime runs
  refine ⟨fun h cores => exec_placement_ignored hl h cores, fun cores image hphase htime hmap => ⟨fun h => ?_, fun h =>
    ⟨fun hserve => ?_, fun hserve hdescs htab hlen => ?_⟩⟩, exec_placementCommit_ignored hl,
    fun hphase hdies htime hruns hnodup => ?_⟩
  · exact exec_placement_absent hl hphase htime (fun p hp => (hmap p hp).1) cores h
  · have hexec := exec_placement_resident hl hphase htime (fun p hp => (hmap p hp).1) cores h
    rwa [if_neg (mt (coresOk_iff s l cores).1 hserve)] at hexec
  · have hexec := exec_placement_resident hl hphase htime (fun p hp => (hmap p hp).1) cores h
    rw [if_pos ((coresOk_iff s l cores).2 hserve)] at hexec
    obtain ⟨hlaunch, hbytes, hrings, hoffchip, hctxs⟩ :=
      loads_place key hserve (fun p hp => (hmap p hp).2) hdescs htab hlen
    refine ⟨_, hexec, ?_, hbytes, hrings, hoffchip, hctxs⟩
    rw [hlaunch, loaded, rankPlaces, perCore_eq]
  · obtain ⟨hlaunch, hnow, hprocesses, hothers⟩ := starts_commitLaunch s key hnodup
    refine ⟨_, exec_placementCommit_loaded hl hphase hdies htime hruns, hlaunch, hnow, fun rank tid hrank => ?_, hothers⟩
    obtain ⟨hctx, hproc⟩ := hprocesses rank tid hrank
    refine ⟨_, _, _, hctx, fun r => ?_, fun h => rings_untimed h _ _, fun h => rings_timed h _ _, hproc⟩
    rw [hctx, g_entryCtx]

/-- Settles O46: a load sets each core of the launch on its own, and the commit each rank's slot on its own, so each holds at the
end what its own step gave it. -/
theorem launchesStart : Obligations.LaunchesStart := launchesArePlaced

end Sys2Proof.LaunchStart

/-!
PROOFS. The state after reset (R35, R106, R107, R283, R292, R294, R295, R359, R373, R377): O60.
-/

namespace Sys2Proof.Reset
open Sys2Proof Sys2Proof.Machine Sys2Proof.Claims

/-! ## Parts that no table lists read their defaults -/

@[simp] theorem ctx_reset (tid : Nat) : State.reset.ctx tid = Ctx.empty := rfl
@[simp] theorem core_reset (pcn : Nat) : State.reset.core pcn = CoreS.reset pcn := rfl
@[simp] theorem region_reset (r : Nat) : State.reset.region r = Region.none := rfl
@[simp] theorem queue_reset (r : Nat) : State.reset.queue r = Queue.none := rfl
@[simp] theorem entry_reset (pcn i : Nat) : State.reset.entry pcn i = ArbEntry.free := rfl
@[simp] theorem colourConfig_reset (pcn c : Nat) : State.reset.colourConfig pcn c = 0xFFFF := rfl

theorem resetState : ResetState := by
  refine ⟨rfl, rfl, rfl, rfl, rfl, rfl, rfl, rfl, rfl, rfl, rfl, rfl, fun _ => rfl, fun tid => ?_, fun pcn => ?_, fun r => ?_,
    fun pcn i => ?_⟩
  · rw [ctx_reset]; exact ⟨rfl, rfl, rfl, rfl, rfl, rfl, rfl⟩
  · simp only [core_reset, colourConfig_reset]
    exact ⟨rfl, rfl, rfl, rfl, rfl, rfl, rfl, rfl, rfl, rfl, rfl, rfl, fun _ => trivial⟩
  · rw [region_reset, queue_reset]; exact ⟨rfl, rfl⟩
  · rw [entry_reset]; rfl

theorem resetHasTheInvariant : ResetHasTheInvariant where
  mem := reset_mem_wf
  lifecycle := by decide
  tstat := by decide
  phase := by decide

/-- Settles O60: every table is empty after reset, so each part reads its default, and the registers stand in the state. -/
theorem stateAfterReset : Obligations.StateAfterReset := ⟨resetState, resetHasTheInvariant⟩

end Sys2Proof.Reset

/-!
PROOFS. Steps (R10, R35, R59, R106, R147, R167, R168): a cycle issues what its slot's context stands at, and an event of the
agenda is taken where it is one that happens between the cycles (O57).
-/

namespace Sys2Proof.Steps
open Sys2Proof Sys2Proof.Machine Sys2Proof.Claims

/-! ## The move at hand -/

/-- A step makes the agenda's first move once device time has moved on. -/
theorem step_of_agenda {s : State} {dt : Nat} {m : MoveKind} {rest : List Move} (h : s.agenda = ⟨dt, m⟩ :: rest) :
    step s = runMove m { s with agenda := rest, now := (s.now + dt) % 2 ^ 64 } := by
  simp [step, nextMove, passTime, h]

section
variable {s : State} {pcn slot : Nat} {lent : Bool}

/-! ## The slot that issues (R35) -/

/-- The slot that issues is the cycle's owner, or another to which the cycle is lent. -/
theorem issuer_cases (h : s.issuer pcn = some (slot, lent)) :
    slot < 16 ∧ (lent = true ↔ slot ≠ (s.core pcn).cyc % 16) := by
  simp only [State.issuer] at h
  split at h
  case isTrue =>
    obtain ⟨rfl, rfl⟩ := by simpa using h
    exact ⟨Nat.mod_lt _ (by decide), by simp⟩
  case isFalse howner =>
    obtain ⟨x, hx, hpair⟩ := Option.map_eq_some_iff.1 h
    obtain ⟨rfl, rfl⟩ := Prod.mk.inj hpair
    obtain ⟨n, -, hn⟩ := List.mem_map.1 (List.mem_of_find?_eq_some hx)
    have hready := List.find?_some hx
    exact ⟨hn ▸ Nat.mod_lt _ (by decide), by simp only [true_iff]; rintro rfl; exact howner hready⟩

theorem coreCycle_idle (h : s.issuer pcn = none) : coreCycle pcn s = .next (s.endCycle pcn) := by
  simp [coreCycle, h]

theorem coreCycle_handler (h : s.issuer pcn = some (0, lent)) :
    coreCycle pcn s = .next (((s.beginIssue pcn 0 lent).handlerCycle pcn).endCycle pcn) := by
  simp [coreCycle, h, execCarrierMessage, closeCycle]

theorem coreCycle_issue (h : s.issuer pcn = some (slot, lent)) (hslot : slot ≠ 0) :
    coreCycle pcn s = closeCycle pcn (issue (16 * pcn + slot) (s.beginIssue pcn slot lent)) := by
  simp [coreCycle, h, hslot]

end

/-- A cycle begins in the state that the statements call `Issuing`. -/
theorem issuing_beginIssue {s : State} {rest : List Move} {dt pcn slot : Nat} {lent : Bool}
    (hlent : lent = true ↔ slot ≠ (s.core pcn).cyc % 16) :
    Issuing s (({ s with agenda := rest, now := (s.now + dt) % 2 ^ 64 } : State).beginIssue pcn slot lent) rest dt pcn slot where
  time := rfl
  current := rfl
  me := by rw [State.beginIssue, State.ctx_modCore, State.ctx_modCtx_same]; rfl
  others k hk := by rw [State.beginIssue, State.ctx_modCore, State.ctx_modCtx_other _ hk]; rfl
  core := by
    rw [State.beginIssue, State.core_modCore_same]
    cases lent <;> rfl
  cores k hk := State.core_modCore_other _ hk _
  lend := by
    rw [State.beginIssue, State.core_modCore_same]
    by_cases howner : slot = (s.core pcn).cyc % 16
    · rw [if_pos howner, if_neg (mt hlent.1 (not_not.2 howner))]; rfl
    · rw [if_neg howner, if_pos (hlent.2 howner)]
  device := rfl
  agenda := rfl

/-! ## What a context issues (R59, R147, R167, R168, R287, R288) -/

section
variable {s : State} {tid : Nat}

theorem issue_trap {tr : TrapRec} (h : (s.ctx tid).trapping = some tr) : issue tid s = .next (s.takeTrapAt tid tr) := by
  simp [issue, nextIssue, h]

variable (htrap : (s.ctx tid).trapping = none)
include htrap

theorem issue_late (hdue : s.boundaryDue tid = true) : issue tid s = exec (.lateTrap tid) s := by
  have hnext : nextIssue s tid = .late := by simp [nextIssue, htrap, hdue]
  rw [issue, hnext]; rfl

variable (hdue : s.boundaryDue tid = false)
include hdue

theorem issue_held {i : Instr} (h : (s.ctx tid).held = some i) (hregs : waitsForRegister (s.ctx tid) i = false) :
    issue tid s = exec i s := by
  have hnext : nextIssue s tid = .run i := by simp [nextIssue, htrap, hdue, h, issueOf, hregs]
  rw [issue, hnext]

variable (hheld : (s.ctx tid).held = none)
include hheld

theorem issue_unmapped (h : fetchAt s tid = .unmapped) : issue tid s = exec (.unmappedFetch tid) s := by
  have hnext : nextIssue s tid = .unmapped := by simp [nextIssue, htrap, hdue, hheld, h]
  rw [issue, hnext]; rfl

theorem issue_illegal (h : fetchAt s tid = .illegal) : issue tid s = exec (.illegalInstruction tid) s := by
  have hnext : nextIssue s tid = .illegal := by simp [nextIssue, htrap, hdue, hheld, h]
  rw [issue, hnext]; rfl

theorem issue_word {i : Instr} (h : fetchAt s tid = .word i) :
    issue tid s = if waitsForRegister (s.ctx tid) i then .next (s.holdWith i .register) else exec i s := by
  have hnext : nextIssue s tid = issueOf (s.ctx tid) i := by simp [nextIssue, htrap, hdue, hheld, h]
  rw [issue, hnext, issueOf]
  cases waitsForRegister (s.ctx tid) i <;> rfl

end

/-! ## The fetch (R167, R168) -/

section
variable {s : State} {tid : Nat}

theorem eq_error_of_toOption_eq_none {ε α : Type} {x : Except ε α} (h : x.toOption = none) : ∃ e, x = .error e := by
  cases x with
  | error e => exact ⟨e, rfl⟩
  | ok a => simp [Except.toOption] at h

theorem fetchAt_outside (h : 0x20000 ≤ (s.ctx tid).pc.toNat) : fetchAt s tid = .unmapped := by simp [fetchAt, h]

variable (hpc : (s.ctx tid).pc.toNat < 0x20000)
include hpc

theorem fetchAt_word {i : Instr} {bytes : List Byte} (h : decodeBytes (fetchBytes s tid) = .ok (i, bytes)) :
    fetchAt s tid = if prefixOk (s.ctx tid).pfx i then .word i else .illegal := by
  simp [fetchAt, hpc, h]

theorem fetchAt_noWord (h : (decodeBytes (fetchBytes s tid)).toOption = none) : fetchAt s tid = .illegal := by
  obtain ⟨e, hdecode⟩ := eq_error_of_toOption_eq_none h
  simp [fetchAt, hpc, hdecode]

end

/-- The word at a context's PC lies in the local store of the slot's core. -/
theorem fetchBytes_slot (s : State) (pcn : Nat) {slot : Nat} (h : slot < 16) :
    fetchBytes s (16 * pcn + slot) = memBytes s.mem (0x100000000 + pcn * 0x20000 + (s.ctx (16 * pcn + slot)).pc.toNat) 4 := by
  have hcore : coreOfTid (16 * pcn + slot) = pcn := by unfold coreOfTid; omega
  simp [fetchBytes, localKey, hcore]

/-! ## A cycle -/

theorem stepRunsTheFetched : StepRunsTheFetched := by
  intro s dt pcn slot lent rest hagenda hpcn s0
  have hstep : step s = coreCycle pcn s0 := by rw [step_of_agenda hagenda, runMove, if_pos hpcn]
  refine ⟨fun hidle => hstep.trans (coreCycle_idle hidle), fun hissuer => ?_⟩
  obtain ⟨hslot, hlent⟩ := issuer_cases hissuer
  refine ⟨s0.beginIssue pcn slot lent, issuing_beginIssue hlent, ?_, ?_⟩
  · rintro rfl
    exact ⟨_, rfl, hstep.trans (coreCycle_handler hissuer)⟩
  · intro hne c ends
    have hends {r : Res} (h : issue (16 * pcn + slot) (s0.beginIssue pcn slot lent) = r) : ends r := by
      have hclose : step s = closeCycle pcn r := by rw [hstep, coreCycle_issue hissuer hne, h]
      exact ⟨hclose, fun t ht => by rw [hclose, ht]; rfl⟩
    have hbytes := fetchBytes_slot (s0.beginIssue pcn slot lent) pcn hslot
    refine ⟨fun tr htr => hends (issue_trap htr), fun htrap hdue => hends (issue_late htrap hdue), fun htrap hdue =>
      ⟨fun i hi hregs => hends (issue_held htrap hdue hi hregs), fun hheld => ⟨fun hpc => ?_, fun i hpc hdecode => ?_,
        fun hpc hdecode => ?_⟩⟩⟩
    · exact hends (issue_unmapped htrap hdue hheld (fetchAt_outside hpc))
    · have hfetch := fetchAt_word hpc (hbytes.symm ▸ hdecode)
      refine ⟨fun hpfx hregs => hends ?_, fun hpfx hregs => hends ?_, fun hpfx => hends ?_⟩
      · exact (issue_word htrap hdue hheld (hfetch.trans (if_pos hpfx))).trans (if_neg (Bool.not_eq_true _ ▸ hregs))
      · exact (issue_word htrap hdue hheld (hfetch.trans (if_pos hpfx))).trans (if_pos hregs)
      · exact issue_illegal htrap hdue hheld (hfetch.trans (if_neg (Bool.not_eq_true _ ▸ hpfx)))
    · exact hends (issue_illegal htrap hdue hheld (fetchAt_noWord hpc (hbytes.symm ▸ hdecode)))

/-! ## An event -/

/-- What happens between the cycles has no word. -/
theorem fields_of_spontaneous {i : Instr} (h : spontaneous i = true) : i.fields = none := by
  unfold spontaneous at h
  split at h <;> simp at h
  exact h

theorem stepTakesTheEvent : StepTakesTheEvent := by
  intro s dt i rest hagenda s0
  have hstep : step s = if spontaneous i then exec i s0 else .next s0 := step_of_agenda hagenda
  refine ⟨fun h => hstep.trans (if_pos h), fun h => hstep.trans (if_neg (by simp [h])), fun w hw => ?_⟩
  by_contra h
  simp [encode, fields_of_spontaneous (Bool.not_eq_false _ ▸ h)] at hw

/-- Settles O57: by the move that the agenda gives, and in a cycle by what the context of the slot that issues stands at. -/
theorem stepsRunInstructions : Obligations.StepsRunInstructions := ⟨stepRunsTheFetched, stepTakesTheEvent⟩

end Sys2Proof.Steps

/-!
PROOFS. Travel and perform (R50, R58, R186, R193, R195, R288, R295): a part goes to the tail of its bank's queue or of its owner's
handler queue, and takes its effect at the head of the bank's queue (O6).
-/

namespace Sys2Proof.Accesses
open Sys2Proof Sys2Proof.Machine Sys2Proof.Claims

theorem exec_accessTravel (tid n k : Nat) (s : State) : exec (.accessTravel tid n k) s = execAccessTravel tid n k s := by rfl
theorem exec_accessPerform (bank : Nat) (s : State) : exec (.accessPerform bank 0) s = .next (s.performHead bank false) := by rfl

/-! ## Travel (R50, R58, R295) -/

/-- Part k of an access, which is p, on its way: its thread's access holds it as queued. -/
def onItsWay (s : State) (tid k : Nat) (acc : Access) (p : Part) : State :=
  s.setCtx tid (putAccess (s.ctx tid) { acc with parts := listPut k { p with queued := true } acc.parts })

@[simp] theorem bank_onItsWay (s : State) (tid k : Nat) (acc : Access) (p : Part) (b : Nat) :
    (onItsWay s tid k acc p).bank b = s.bank b := rfl
@[simp] theorem core_onItsWay (s : State) (tid k : Nat) (acc : Access) (p : Part) (c : Nat) :
    (onItsWay s tid k acc p).core c = s.core c := rfl

section
variable {s : State} {tid n k : Nat} {acc : Access} {p : Part}

/-- A part behind an open firewall travels once its handler queue, where it goes through a window, has room. -/
theorem exec_accessTravel_open (hacc : (accessesOf (s.ctx tid))[n]? = some acc) (hpart : acc.parts[k]? = some p)
    (hmay : mayTravel (s.ctx tid) acc k = true) (hparked : (s.ctx tid).parked = false)
    (hopen : s.firewallDrops (coreOfTid tid) ((requestOwner? p).getD (coreOfTid tid)) 0 = false)
    (hroom : p.window = true → (s.core (ownerOfKey p.addr)).handler.length < 32) :
    exec (.accessTravel tid n k) s = .next (
      let q : QueuedPart := ⟨.access tid acc.serial, p.addr, p.off⟩
      if p.window then (onItsWay s tid k acc p).modCore (ownerOfKey p.addr) fun x => { x with handler := x.handler ++ [.access q] }
      else (onItsWay s tid k acc p).enqueuePart q p) := by
  rw [exec_accessTravel, execAccessTravel, hacc]
  simp only [hparked, State.travel, hmay, if_true, hpart, hopen, Bool.false_eq_true, if_false]
  by_cases hwindow : p.window = true
  · have howner : requestOwner? p = some (ownerOfKey p.addr) := if_pos hwindow
    have hroom' : s.handlerRoom (ownerOfKey p.addr) = true := decide_eq_true (hroom hwindow)
    simp only [howner, Option.getD_some, hroom', Bool.not_true, Bool.and_false, Bool.false_eq_true, if_false]
    rfl
  · simp [hwindow, onItsWay]

end

theorem enqueuePart_one (s : State) (q : QueuedPart) {p : Part} {bank : Nat} (h : partBanks p = [bank]) :
    s.enqueuePart q p = s.setBank bank (s.bank bank ++ [q]) := by
  simp [State.enqueuePart, h]

theorem bank_enqueuePart (s : State) (q : QueuedPart) {p : Part} {bank : Nat} (h : partBanks p = [bank]) (b : Nat) :
    (s.enqueuePart q p).bank b = if b = bank then s.bank b ++ [q] else s.bank b := by
  rw [enqueuePart_one s q h]
  split
  · next hb => rw [hb, State.bank_setBank_same]
  · next hb => rw [State.bank_setBank_other s hb]

theorem core_modCore (s : State) (p k : Nat) (f : CoreS → CoreS) :
    (s.modCore p f).core k = if k = p then f (s.core k) else s.core k := by
  split
  · next h => rw [h, State.core_modCore_same]
  · next h => rw [State.core_modCore_other s h]

theorem accessTravels : AccessTravels := by
  intro s tid n k bank acc p hacc hpart hmay hparked hbanks hopen owner q hroom
  refine ⟨_, exec_accessTravel_open hacc hpart hmay hparked hopen hroom, ?_⟩
  have hme : (onItsWay s tid k acc p).ctx tid =
      putAccess (s.ctx tid) { acc with parts := listPut k { p with queued := true } acc.parts } := State.ctx_setCtx_same s tid _
  have hothers (i : Nat) (hi : i ≠ tid) : (onItsWay s tid k acc p).ctx i = s.ctx i := State.ctx_setCtx_other s hi _
  by_cases hwindow : p.window = true
  · simp only [hwindow, if_true, and_true, Bool.true_eq_false, and_false, if_false]
    exact ⟨rfl, fun b => rfl, hwindow ▸ hme, hothers, fun c => core_modCore _ _ _ _⟩
  · rw [if_neg hwindow]
    have hbank (b : Nat) := bank_enqueuePart (onItsWay s tid k acc p) q hbanks b
    rw [enqueuePart_one _ _ hbanks] at hbank ⊢
    exact ⟨rfl, fun b => by simpa [hwindow] using hbank b, hme, hothers, fun c => by simp [hwindow]⟩

/-! ## Writes to a window that no table and no reserved area watches (R33, R53) -/

/-- Bytes that lie clear of a range do not touch it. -/
theorem touches_eq_false {key n : Nat} {r : Nat × Nat} (h : key + n ≤ r.1 ∨ r.1 + r.2 ≤ key) :
    (decide (key < r.1 + r.2) && decide (r.1 < key + n)) = false := by
  simp only [Bool.and_eq_false_iff, decide_eq_false_iff_not]
  omega

theorem writeWindow_unwatched {s : State} {key : Nat} {bs : List Byte} (h : Unwatched s key bs.length) :
    s.writeWindow key bs = s.setMem (storeBytes key bs s.mem) := by
  have hclear {place : Launch → Option (Nat × Nat)} (hplace : ∀ l r, place l = some r →
      rankTable? ((key - 0x100000000) / 2 ^ 17) l = some r ∨ reservedArea? ((key - 0x100000000) / 2 ^ 17) l = some r)
      (r : Nat × Nat) (hr : r ∈ s.launches.filterMap fun e => place e.2) :
      ¬ (decide (key < r.1 + r.2) && decide (r.1 < key + bs.length)) = true := by
    obtain ⟨e, he, her⟩ := List.mem_filterMap.1 hr
    exact Bool.eq_false_iff.1 (touches_eq_false (h e he r (hplace e.2 r her)))
  unfold State.writeWindow
  split
  · rfl
  · have hhit := List.filter_eq_nil_iff.2 (hclear fun _ _ => .inl)
    have hspoiled := List.any_eq_false.2 (hclear fun _ _ => .inr)
    dsimp only
    rw [hhit, if_neg (Bool.eq_false_iff.1 hspoiled), List.foldl_nil]

/-! ## The part at the head of its bank (R58) -/

theorem modCtx_modCtx (s : State) (tid : Nat) (f g : Ctx → Ctx) :
    (s.modCtx tid f).modCtx tid g = s.modCtx tid fun c => g (f c) := by
  simp [State.modCtx, State.setCtx, State.ctx]

@[simp] theorem putAccess_trapping (c : Ctx) (acc : Access) : (putAccess c acc).trapping = c.trapping := by
  unfold putAccess; split <;> rfl

section
variable {s : State} {bank tid k : Nat} {acc : Access} {p : Part}

theorem exec_accessPerform_atHead (h : AtHead s bank tid acc k p) (haddr : p.addr < 0x400000000) :
    exec (.accessPerform bank 0) s = .next (s.performEntry tid acc k p) := by
  have hhead : s.headEverywhere ⟨.access tid acc.serial, p.addr, p.off⟩ p = true := by
    simp [State.headEverywhere, h.alone, h.head]
  have hready : s.controlReady p.addr p.data = true := by simp [State.controlReady, Nat.not_le.2 haddr]
  rw [exec_accessPerform, State.performHead, h.head]
  simp [h.found, hhead, hready]

/-- An access that takes effect part by part: its thread goes on once it is complete. -/
theorem completeAccess_eq {u : State} (hkind : acc.kind.sequential = false) (htrap : (u.ctx tid).trapping = none) :
    u.completeAccess tid acc = if acc.relaxed then u else u.modCtx tid State.stopWaiting := by
  have hdrain : u.drainTrap tid = u := by simp [State.drainTrap, htrap]
  unfold State.completeAccess
  split
  · next h => simp [h, AccessKind.sequential] at hkind
  · next h => simp [h, AccessKind.sequential] at hkind
  · rw [hdrain]

/-- A part of an access of a thread that waits for no trap leaves its queue and its access, and the thread goes on where the
access is complete. -/
theorem performEntry_eq (hbanks : partBanks p = [bank]) (haddr : p.addr < 0x400000000) (hkind : acc.kind.sequential = false)
    (htrap : (((s.setBank bank (s.bank bank).tail).performPart tid acc.kind p).ctx tid).trapping = none) :
    s.performEntry tid acc k p =
      ((s.setBank bank (s.bank bank).tail).performPart tid acc.kind p).modCtx tid fun c => c.performed acc k := by
  set u := (s.setBank bank (s.bank bank).tail).performPart tid acc.kind p with hu
  have happly : (s.setBank bank (s.bank bank).tail).applyPart tid acc.kind p = u := by simp [State.applyPart, haddr, hu]
  simp only [State.performEntry, hbanks, List.foldl_cons, List.foldl_nil, happly, hkind, Bool.false_eq_true, if_false]
  rw [completeAccess_eq (acc := { acc with parts := listDrop k acc.parts }) hkind (by simpa using htrap)]
  cases hrest : (listDrop k acc.parts).isEmpty with
  | false => simp [Ctx.performed, hrest]
  | true => cases hrelaxed : acc.relaxed <;> simp [Ctx.performed, hrest, hrelaxed, modCtx_modCtx]

/-- The state after a perform: the entry has left its queue, and memory and the context are as given. -/
def afterPerform (s : State) (bank tid : Nat) (m : Mem) (c : Ctx) : State :=
  ((s.setBank bank (s.bank bank).tail).setMem m).setCtx tid c

theorem onlyPerforms_afterPerform (s : State) (bank tid : Nat) (m : Mem) (c : Ctx) :
    OnlyPerforms s (afterPerform s bank tid m c) bank tid c ∧ (afterPerform s bank tid m c).mem = m :=
  ⟨⟨rfl, State.ctx_setCtx_same _ _ _, fun _ hj => State.ctx_setCtx_other _ hj _, State.bank_setBank_same _ _ _,
    fun _ hb => State.bank_setBank_other _ hb _⟩, rfl⟩

section
variable (h : AtHead s bank tid acc k p) (haddr : p.addr < 0x400000000) (htrap : (s.ctx tid).trapping = none)
include h haddr htrap

/-- A part that writes registers only: its thread takes them. -/
theorem completes_load {f : Ctx → Ctx} (hkind : acc.kind.sequential = false) (hf : ∀ c : Ctx, (f c).trapping = c.trapping)
    (hload : (s.setBank bank (s.bank bank).tail).performPart tid acc.kind p =
      (s.setBank bank (s.bank bank).tail).modCtx tid f) :
    Completes (.accessPerform bank 0) s fun t =>
      OnlyPerforms s t bank tid ((f (s.ctx tid)).performed acc k) ∧ t.mem = s.mem := by
  refine ⟨afterPerform s bank tid s.mem ((f (s.ctx tid)).performed acc k), ?_, onlyPerforms_afterPerform _ _ _ _ _⟩
  rw [exec_accessPerform_atHead h haddr, performEntry_eq h.alone haddr hkind (by rw [hload]; simp [hf, htrap]), hload,
    modCtx_modCtx]
  rfl

/-- A part that writes a number where nothing watches: memory takes its bytes. -/
theorem completes_store {v : Nat} (hkind : acc.kind.sequential = false)
    (hstore : (s.setBank bank (s.bank bank).tail).performPart tid acc.kind p =
      (s.setBank bank (s.bank bank).tail).writeWindow p.addr (bytesOfNat p.size v)) (hfree : Unwatched s p.addr p.size) :
    Completes (.accessPerform bank 0) s fun t =>
      OnlyPerforms s t bank tid ((s.ctx tid).performed acc k) ∧ t.mem = storeBytes p.addr (bytesOfNat p.size v) s.mem := by
  have hwrite : (s.setBank bank (s.bank bank).tail).performPart tid acc.kind p =
      (s.setBank bank (s.bank bank).tail).setMem (storeBytes p.addr (bytesOfNat p.size v) s.mem) :=
    hstore.trans (writeWindow_unwatched (by rw [length_bytesOfNat]; exact hfree))
  refine ⟨afterPerform s bank tid _ ((s.ctx tid).performed acc k), ?_, onlyPerforms_afterPerform _ _ _ _ _⟩
  rw [exec_accessPerform_atHead h haddr, performEntry_eq h.alone haddr hkind (by rw [hwrite]; simpa using htrap), hwrite]
  rfl

end
end

/-- A signed load takes its number's sign from its highest bit. -/
theorem extendLoad_signed (n v : Nat) : extendLoad true n v = BitVec.ofInt 64 (signedElem (8 * n) v) := by
  unfold extendLoad signedElem
  by_cases hv : v < 2 ^ (8 * n - 1)
  · simp [hv]
  · simp [hv, Nat.not_lt.1 hv]

theorem accessPerforms : AccessPerforms := by
  intro s bank tid k acc p h haddr htrap c old loaded stored
  have hloads {f : Ctx → Ctx} (hkind : acc.kind.sequential = false) (hf : ∀ c : Ctx, (f c).trapping = c.trapping)
      (hload : (s.setBank bank (s.bank bank).tail).performPart tid acc.kind p =
        (s.setBank bank (s.bank bank).tail).modCtx tid f) : loaded (f c) := completes_load h haddr htrap hkind hf hload
  have hstores {v : Nat} (hkind : acc.kind.sequential = false)
      (hstore : (s.setBank bank (s.bank bank).tail).performPart tid acc.kind p =
        (s.setBank bank (s.bank bank).tail).writeWindow p.addr (bytesOfNat p.size v)) : stored v :=
    completes_store h haddr htrap hkind hstore
  have hatomics {f : Nat} (hk : acc.kind = .atomic f) : stored (atomicValue f p.size old p.data) :=
    hstores (by rw [hk]; rfl) (by rw [hk]; rfl)
  refine ⟨fun d hk => ?_, fun d hk _ => ?_, fun d hk => ?_, fun hk => ?_, fun q w hk => ?_, hatomics, hatomics, hatomics,
    hatomics, hatomics, hatomics, hatomics, hatomics⟩
  · exact hloads (f := (·.setG d (BitVec.ofNat 64 old))) (by rw [hk]; rfl) (by simp) (by rw [hk]; rfl)
  · rw [← extendLoad_signed]
    exact hloads (f := (·.setG d (extendLoad true p.size old))) (by rw [hk]; rfl) (by simp) (by rw [hk]; rfl)
  · exact hloads (f := fun c => (c.setG d (BitVec.ofNat 64 (memNat s.mem p.addr 8))).setG (d + 1)
      (BitVec.ofNat 64 (memNat s.mem (p.addr + 8) 8))) (by rw [hk]; rfl) (by simp) (by rw [hk]; rfl)
  · exact hstores (by rw [hk]; rfl) (by rw [hk]; rfl)
  · exact hstores (by rw [hk]; rfl) (by rw [hk]; rfl)

/-- Settles O6: a part that travels changes its thread's record of it and the tail of one queue; a part at the head leaves its
queue and its access, and its kind gives what its thread or memory takes. -/
theorem accessesArePerformed : Obligations.AccessesArePerformed := ⟨accessTravels, accessPerforms⟩

end Sys2Proof.Accesses

/-!
PROOFS. Embers (R40 to R44, R282): home at once, else into the queue, the spill ring or among those that wait; and from the queue
into a slot (O34).
-/

namespace Sys2Proof.EmberTravel
open Sys2Proof Sys2Proof.Machine Sys2Proof.Claims

/-! ## The instructions -/

theorem exec_emberAdmit (pcn : Nat) (s : State) : exec (.emberAdmit pcn) s = .next (s.admitEmber pcn) := by rfl

section
variable {s s1 : State} {n : Nat} {p : Packet}

theorem arrive_eq (h : Arrives s n p s1) : s.arrive n = some (p, s1) := by
  simp [State.arrive, h.there, h.may, h.left]

theorem exec_emberArrival {e : Ember} (h : Arrives s n p s1) (hbody : p.body = .ember e) :
    exec (.emberArrival n) s = .next (if coreOfTid e.home = p.dst then s1.enterHome e else s1.queueEmber p.dst e) := by
  have hexec : exec (.emberArrival n) s = execEmberArrival n s := by rfl
  obtain ⟨cls, src, dst, colour, timed, body⟩ := p
  subst hbody
  rw [hexec, execEmberArrival, arrive_eq h]

theorem exec_migAccept {tid : Nat} (h : Arrives s n p s1) (hbody : p.body = .migAccept tid) (hwait : (s1.ctx tid).wait = .mig) :
    exec (.migAccept n) s = .next (s1.releaseSender tid) := by
  have hexec : exec (.migAccept n) s = execMigAccept n s := by rfl
  obtain ⟨cls, src, dst, colour, timed, body⟩ := p
  subst hbody
  rw [hexec, execMigAccept, arrive_eq h]
  exact congrArg Host.Outcome.next (if_pos hwait)

end

/-! ## Contexts -/

/-- A context that takes over an ember carries it. -/
theorem carries_takeEmber (c : Ctx) (e : Ember) (away : Bool) : Carries (takeEmber c e away) c e away where
  place := by cases away <;> exact ⟨rfl, rfl, rfl, rfl, rfl, rfl⟩
  regs r := by
    have hregs : (takeEmber c e away).regs = carryRegs c.regs e.regs := by cases away <;> rfl
    by_cases hr : r = 0
    · simp [Ctx.g, hr]
    · simp [Ctx.g, hr, hregs, carryRegs]
  traps := by cases away <;> rfl
  waiting := by cases away <;> exact ⟨rfl, rfl, rfl⟩
  who := by cases away <;> exact ⟨rfl, rfl, rfl, rfl, rfl⟩
  kept := by cases away <;> rfl

/-- What an accepted ember leaves of its sender's context: the home slot stays reserved, any other becomes free (R42, R44). -/
def released (c : Ctx) : Ctx :=
  if c.away = true then Ctx.zero
  else { c with status := .reserved, wait := .none, held := none, late := [], faults := [], msgFaults := [] }

section
variable (s : State) (tid : Nat)

theorem ctx_emptySlot_same : (s.emptySlot tid).ctx tid = Ctx.zero := State.ctx_setCtx_same s tid _

theorem ctx_emptySlot_other {j : Nat} (h : j ≠ tid) : (s.emptySlot tid).ctx j = s.ctx j := State.ctx_setCtx_other s h _

theorem ctx_releaseSender_same : (s.releaseSender tid).ctx tid = released (s.ctx tid) := by
  unfold State.releaseSender released
  dsimp only
  split
  · exact ctx_emptySlot_same s tid
  · exact State.ctx_setCtx_same s tid _

theorem ctx_releaseSender_other {j : Nat} (h : j ≠ tid) : (s.releaseSender tid).ctx j = s.ctx j := by
  unfold State.releaseSender
  dsimp only
  split
  · exact ctx_emptySlot_other s tid h
  · exact State.ctx_setCtx_other s h _

/-- A sender's release touches its context, its process record and its vector window. -/
theorem releaseSender_device :
    { s.releaseSender tid with ctxs := s.ctxs, mem := s.mem, procs := s.procs } = s := by
  unfold State.releaseSender
  dsimp only
  split <;> rfl

end

theorem migAccepted {s s1 : State} {n tid : Nat} {p : Packet} (h : Arrives s n p s1) (hbody : p.body = .migAccept tid)
    (hwait : (s1.ctx tid).wait = .mig) :
    Completes (.migAccept n) s fun t =>
      (∀ j, j ≠ tid → t.ctx j = s1.ctx j) ∧ t.net = s1.net ∧ t.cores = s1.cores ∧ t.ctx tid = released (s1.ctx tid) :=
  have hdevice := releaseSender_device s1 tid
  ⟨_, exec_migAccept h hbody hwait, fun _ hj => ctx_releaseSender_other s1 tid hj, (congrArg State.net hdevice :),
    (congrArg State.cores hdevice :), ctx_releaseSender_same s1 tid⟩

/-! ## Home (R42, R288) -/

/-- The state in which an ember's thread stands in its home slot, before a trap that brought it home is taken. -/
def atHome (s : State) (e : Ember) : State :=
  let s1 := s.dropAccept e.source
  (if s1.senderWaits e && e.source != e.home then s1.emptySlot e.source else s1).modCtx e.home fun c => takeEmber c e false

theorem ctx_atHome (s : State) (e : Ember) : (atHome s e).ctx e.home = takeEmber (s.ctx e.home) e false := by
  unfold atHome
  dsimp only
  rw [State.ctx_modCtx_same]
  split
  · next h =>
    have hne : e.home ≠ e.source := fun heq => by simp [heq] at h
    rw [ctx_emptySlot_other _ _ hne]; rfl
  · rfl

theorem enterHome_eq {e : Ember} (s : State) (h : e.trapping = none) : s.enterHome e = atHome s e := by
  rw [State.enterHome, h]; rfl

theorem enterHome_trapping {e : Ember} {tr : TrapRec} (s : State) (h : e.trapping = some tr) :
    s.enterHome e = (atHome s e).takeTrapAt e.home tr := by
  rw [State.enterHome, h]; rfl

theorem carries_atHome (s : State) (e : Ember) : Carries ((atHome s e).ctx e.home) (s.ctx e.home) e false := by
  rw [ctx_atHome]
  exact carries_takeEmber _ e false

/-! ## Elsewhere (R43, R44, R282) -/

section
variable (s : State) (pcn : Nat) (e : Ember)

/-- The ember's acceptance, as a core sends it to its sender. -/
def acceptance : Packet := packet .reply pcn (coreOfTid e.source) (s.emberColour e) (.migAccept e.source)

/-- Of the whole device one core is now as given, and the memory and the network may differ. -/
def Puts (s t : State) (pcn : Nat) (k : CoreS) : Prop :=
  t.core pcn = k ∧ (∀ j, j ≠ pcn → t.core j = s.core j) ∧ { t with cores := s.cores, net := s.net, mem := s.mem } = s

theorem puts_setMem_modCore (m : Mem) (f : CoreS → CoreS) : Puts s ((s.setMem m).modCore pcn f) pcn (f (s.core pcn)) :=
  ⟨State.core_modCore_same (s.setMem m) pcn f, fun _ hj => State.core_modCore_other (s.setMem m) hj f, rfl⟩

theorem puts_modCore (f : CoreS → CoreS) : Puts s (s.modCore pcn f) pcn (f (s.core pcn)) := puts_setMem_modCore s pcn s.mem f

theorem puts_acceptEmber {s t : State} {pcn : Nat} {k : CoreS} (h : Puts s t pcn k) (e : Ember) :
    Puts s (t.acceptEmber pcn e) pcn k := h

/-- The ring takes the ember at its tail, and its entry's bytes are written where the ring has a place in memory. -/
theorem spillEmber_eq : ∃ m : Mem,
    s.spillEmber pcn e = (((s.setMem m).modCore pcn fun k =>
      { k with spill := k.spill ++ [e], spillTail := (k.spillTail + 1) % k.spillSize }).acceptEmber pcn e) ∧
    (s.spillRing? pcn = none → m = s.mem) ∧
    ∀ ring, s.spillRing? pcn = some ring → ∃ bytes : List Byte, bytes.length = 256 ∧
      m = memWrite (ring + 256 * (s.core pcn).spillTail) bytes s.mem := by
  cases hring : s.spillRing? pcn with
  | none => exact ⟨s.mem, by rw [State.spillEmber, hring]; rfl, fun _ => rfl, by simp⟩
  | some ring =>
    refine ⟨_, by rw [State.spillEmber, hring], by simp, fun ring' h => ?_⟩
    obtain rfl := Option.some.inj h
    exact ⟨_, by simp, rfl⟩

variable {s pcn e}

/-- The arrival queue takes no ember that arrives while it is full or the ring holds one. -/
theorem queue_closed (h : 8 ≤ (s.core pcn).embers.length ∨ (s.core pcn).spill ≠ []) :
    ¬ ((s.core pcn).embers.length < 8 ∧ (s.core pcn).spill = []) := by
  rintro ⟨hroom, hspill⟩
  exact h.elim (Nat.not_le.2 hroom) fun hne => hne hspill

theorem queueEmber_room (hwaiting : (s.core pcn).waiting = []) (hroom : (s.core pcn).embers.length < 8)
    (hspill : (s.core pcn).spill = []) :
    s.queueEmber pcn e = (s.modCore pcn fun k => { k with embers := k.embers ++ [e] }).acceptEmber pcn e := by
  simp [State.queueEmber, hwaiting, hroom, hspill]

theorem queueEmber_spill (hwaiting : (s.core pcn).waiting = [])
    (hfull : 8 ≤ (s.core pcn).embers.length ∨ (s.core pcn).spill ≠ [])
    (hring : (s.core pcn).spill.length < (s.core pcn).spillSize) : s.queueEmber pcn e = s.spillEmber pcn e := by
  simp [State.queueEmber, hwaiting, queue_closed hfull, hring]

theorem queueEmber_wait (h : (s.core pcn).waiting ≠ [] ∨
    ((8 ≤ (s.core pcn).embers.length ∨ (s.core pcn).spill ≠ []) ∧ (s.core pcn).spillSize ≤ (s.core pcn).spill.length)) :
    s.queueEmber pcn e = s.modCore pcn fun k => { k with waiting := k.waiting ++ [e] } := by
  by_cases hwaiting : (s.core pcn).waiting = []
  · obtain ⟨hfull, hring⟩ := h.resolve_left (not_not.2 hwaiting)
    simp [State.queueEmber, hwaiting, queue_closed hfull, Nat.not_lt.2 hring]
  · simp [State.queueEmber, hwaiting]

end

/-! ## An ember arrives -/

section
variable {s s1 : State} {n : Nat} {p : Packet} {e : Ember} (h : Arrives s n p s1) (hbody : p.body = .ember e)
include h hbody

theorem completes_home (hhome : coreOfTid e.home = p.dst) (htrap : e.trapping = none) :
    Completes (.emberArrival n) s fun t => Carries (t.ctx e.home) (s1.ctx e.home) e false :=
  ⟨_, (exec_emberArrival h hbody).trans (congrArg _ ((if_pos hhome).trans (enterHome_eq s1 htrap))), carries_atHome s1 e⟩

theorem exec_emberArrival_trapping {tr : TrapRec} (hhome : coreOfTid e.home = p.dst) (htrap : e.trapping = some tr) :
    ∃ u : State, Carries (u.ctx e.home) (s1.ctx e.home) e false ∧
      exec (.emberArrival n) s = .next (u.takeTrapAt e.home tr) :=
  ⟨_, carries_atHome s1 e, (exec_emberArrival h hbody).trans (congrArg _ ((if_pos hhome).trans (enterHome_trapping s1 htrap)))⟩

variable (haway : coreOfTid e.home ≠ p.dst)
include haway

theorem exec_emberArrival_away : exec (.emberArrival n) s = .next (s1.queueEmber p.dst e) :=
  (exec_emberArrival h hbody).trans (congrArg _ (if_neg haway))

theorem completes_queued (hwaiting : (s1.core p.dst).waiting = []) (hroom : (s1.core p.dst).embers.length < 8)
    (hspill : (s1.core p.dst).spill = []) :
    Completes (.emberArrival n) s fun t =>
      Puts s1 t p.dst { s1.core p.dst with embers := (s1.core p.dst).embers ++ [e] } ∧ t.mem = s1.mem ∧
        t.net = s1.net ++ [acceptance s1 p.dst e] :=
  ⟨_, (exec_emberArrival_away h hbody haway).trans (congrArg _ (queueEmber_room hwaiting hroom hspill)),
    puts_acceptEmber (puts_modCore s1 p.dst _) e, rfl, rfl⟩

theorem completes_spilled (hwaiting : (s1.core p.dst).waiting = [])
    (hfull : 8 ≤ (s1.core p.dst).embers.length ∨ (s1.core p.dst).spill ≠ [])
    (hring : (s1.core p.dst).spill.length < (s1.core p.dst).spillSize) :
    Completes (.emberArrival n) s fun t =>
      Puts s1 t p.dst { s1.core p.dst with
        spill := (s1.core p.dst).spill ++ [e]
        spillTail := ((s1.core p.dst).spillTail + 1) % (s1.core p.dst).spillSize } ∧
      t.net = s1.net ++ [acceptance s1 p.dst e] ∧ (s1.spillRing? p.dst = none → t.mem = s1.mem) ∧
      ∀ ring, s1.spillRing? p.dst = some ring → ∃ bytes : List Byte, bytes.length = 256 ∧
        t.mem = memWrite (ring + 256 * (s1.core p.dst).spillTail) bytes s1.mem := by
  obtain ⟨m, hspilled, hmem⟩ := spillEmber_eq s1 p.dst e
  exact ⟨_, (exec_emberArrival_away h hbody haway).trans (congrArg _ ((queueEmber_spill hwaiting hfull hring).trans hspilled)),
    puts_acceptEmber (puts_setMem_modCore s1 p.dst m _) e, rfl, hmem⟩

theorem completes_waiting (hwait : (s1.core p.dst).waiting ≠ [] ∨
    ((8 ≤ (s1.core p.dst).embers.length ∨ (s1.core p.dst).spill ≠ []) ∧
      (s1.core p.dst).spillSize ≤ (s1.core p.dst).spill.length)) :
    Completes (.emberArrival n) s fun t =>
      Puts s1 t p.dst { s1.core p.dst with waiting := (s1.core p.dst).waiting ++ [e] } ∧ t.mem = s1.mem ∧ t.net = s1.net :=
  ⟨_, (exec_emberArrival_away h hbody haway).trans (congrArg _ (queueEmber_wait hwait)), puts_modCore s1 p.dst _, rfl, rfl⟩

end

/-! ## Into a slot (R43, R44, R282) -/

/-- Nothing moves up where nothing has spilled and nothing waits. -/
theorem moveUp_done {s : State} {pcn : Nat} (hspill : (s.core pcn).spill = []) (hwaiting : (s.core pcn).waiting = [])
    (fuel : Nat) : s.moveUp pcn fuel = s := by
  cases fuel with
  | zero => rfl
  | succ fuel => simp [State.moveUp, hspill, hwaiting]

section
variable {s : State} {pcn k : Nat} {e : Ember} {rest : List Ember}

/-- The state once the sender of an ember has given up its slot, where it still waits. -/
def withoutSender (s : State) (e : Ember) : State :=
  if s.senderWaits e then (s.dropAccept e.source).releaseSender e.source else s

theorem core_withoutSender (j : Nat) : (withoutSender s e).core j = s.core j := by
  unfold withoutSender
  split
  · exact (congrArg (State.core · j) (releaseSender_device (s.dropAccept e.source) e.source) :)
  · rfl

theorem ctx_withoutSender_other {j : Nat} (h : s.senderWaits e = true → j ≠ e.source) : (withoutSender s e).ctx j = s.ctx j := by
  unfold withoutSender
  split
  · next hwaits => exact ctx_releaseSender_other (s.dropAccept e.source) e.source (h hwaits)
  · rfl

theorem withoutSender_idle (h : s.senderWaits e = false) : withoutSender s e = s := if_neg (by simp [h])

theorem ctx_withoutSender_sender (h : s.senderWaits e = true) : (withoutSender s e).ctx e.source = released (s.ctx e.source) := by
  rw [withoutSender, if_pos h]
  exact ctx_releaseSender_same (s.dropAccept e.source) e.source

theorem net_withoutSender (h : s.senderWaits e = true) {q : Packet} (hq : q ∈ (withoutSender s e).net) :
    q ∈ s.net ∧ q.body ≠ .migAccept e.source := by
  have hnet : (withoutSender s e).net = (s.dropAccept e.source).net := by
    rw [withoutSender, if_pos h]
    exact (congrArg State.net (releaseSender_device (s.dropAccept e.source) e.source) :)
  rw [hnet] at hq
  obtain ⟨hmem, hkeep⟩ := List.mem_filter.1 hq
  exact ⟨hmem, fun hbody => by simp [hbody] at hkeep⟩

/-- The state once the head of a core's queue, before `rest`, has taken a slot. -/
def admitted (s : State) (pcn slot : Nat) (e : Ember) (rest : List Ember) : State :=
  (((withoutSender s e).emptySlot slot).modCore pcn fun k => { k with embers := rest }).setCtx slot (takeEmber .empty e true)

theorem core_admitted (s : State) (pcn slot : Nat) (e : Ember) (rest : List Ember) :
    (admitted s pcn slot e rest).core pcn = { s.core pcn with embers := rest } := by
  have hcore : ((withoutSender s e).emptySlot slot).core pcn = s.core pcn := core_withoutSender pcn
  rw [admitted, State.core_setCtx, State.core_modCore_same, hcore]

theorem ctx_admitted_same (s : State) (pcn slot : Nat) (e : Ember) (rest : List Ember) :
    (admitted s pcn slot e rest).ctx slot = takeEmber .empty e true := State.ctx_setCtx_same _ _ _

theorem ctx_admitted_other (s : State) (pcn : Nat) {slot j : Nat} (h : j ≠ slot) (e : Ember) (rest : List Ember) :
    (admitted s pcn slot e rest).ctx j = (withoutSender s e).ctx j :=
  (State.ctx_setCtx_other _ h _).trans (ctx_emptySlot_other _ _ h)

/-- The queue's head takes the lowest free slot; nothing moves up behind it. -/
theorem admitEmber_eq (hqueue : (s.core pcn).embers = e :: rest) (hfree : s.freeSlotOf? pcn = some k)
    (hruns : s.colourRuns (s.emberColour e) = true) (hspill : (s.core pcn).spill = []) (hwaiting : (s.core pcn).waiting = []) :
    s.admitEmber pcn = admitted s pcn (pcn * 16 + k) e rest := by
  have hstays : (admitted s pcn (pcn * 16 + k) e rest).moveUp pcn 64 = admitted s pcn (pcn * 16 + k) e rest :=
    moveUp_done (by rw [core_admitted]; exact hspill) (by rw [core_admitted]; exact hwaiting) 64
  rw [State.admitEmber, hqueue, hfree]
  simp only [hruns, Bool.not_true, Bool.false_eq_true, if_false]
  exact hstays

theorem completes_admit (hqueue : (s.core pcn).embers = e :: rest) (hfree : s.freeSlotOf? pcn = some k)
    (hruns : s.colourRuns (s.emberColour e) = true) (hspill : (s.core pcn).spill = []) (hwaiting : (s.core pcn).waiting = [])
    (hsource : e.source ≠ pcn * 16 + k) :
    Completes (.emberAdmit pcn) s fun t =>
      Carries (t.ctx (pcn * 16 + k)) Ctx.empty e true ∧ t.core pcn = { s.core pcn with embers := rest } ∧
      (∀ j, j ≠ pcn * 16 + k → (s.senderWaits e = true → j ≠ e.source) → t.ctx j = s.ctx j) ∧
      (s.senderWaits e = false → t.net = s.net) ∧
      (s.senderWaits e = true → (∀ q ∈ t.net, q ∈ s.net ∧ q.body ≠ .migAccept e.source) ∧
        t.ctx e.source = released (s.ctx e.source)) :=
  ⟨_, (exec_emberAdmit pcn s).trans (congrArg _ (admitEmber_eq hqueue hfree hruns hspill hwaiting)),
    ctx_admitted_same s pcn _ e rest ▸ carries_takeEmber _ e true, core_admitted s pcn _ e rest,
    fun _ hj hsender => (ctx_admitted_other s pcn hj e rest).trans (ctx_withoutSender_other hsender),
    fun hidle => (congrArg State.net (withoutSender_idle hidle) :), fun hwaits =>
    ⟨fun _ hq => net_withoutSender hwaits hq,
      (ctx_admitted_other s pcn hsource e rest).trans (ctx_withoutSender_sender hwaits)⟩⟩

/-! ## What moves up (R43, R282) -/

theorem admitEmber_none (h : (s.core pcn).embers = [] ∨ s.freeSlotOf? pcn = none) : s.admitEmber pcn = s.moveUp pcn 64 := by
  rcases h with h | h <;> simp [State.admitEmber, h]

/-- The ring's only ember moves up into the queue. -/
theorem moveUp_spilled (fuel : Nat) (hroom : (s.core pcn).embers.length < 8) (hspill : (s.core pcn).spill = [e])
    (hwaiting : (s.core pcn).waiting = []) (hintact : (s.core pcn).spoiled = false) :
    s.moveUp pcn (fuel + 1) = s.modCore pcn fun k => { k with embers := k.embers ++ [e], spill := [] } := by
  simp only [State.moveUp, hspill, hroom, if_true, State.spilledEmber, hintact, Bool.false_eq_true, if_false]
  exact moveUp_done (by simp) (by simpa using hwaiting) fuel

/-- The only ember that waits moves up into the queue, and is accepted. -/
theorem moveUp_waiting (fuel : Nat) (hroom : (s.core pcn).embers.length < 8) (hspill : (s.core pcn).spill = [])
    (hwaiting : (s.core pcn).waiting = [e]) :
    s.moveUp pcn (fuel + 1) =
      (s.modCore pcn fun k => { k with embers := k.embers ++ [e], waiting := [] }).acceptEmber pcn e := by
  simp only [State.moveUp, hspill, hwaiting, hroom, if_true]
  exact moveUp_done (by simpa [State.acceptEmber, State.post] using hspill) (by simp [State.acceptEmber, State.post]) fuel

end

theorem embersTravel : EmbersTravel := by
  refine ⟨?_, fun s s1 n tid p h hbody hwait => migAccepted h hbody hwait, ?_, ?_⟩
  · intro s s1 n p e h hbody
    exact ⟨completes_home h hbody, fun tr => exec_emberArrival_trapping h hbody, fun haway =>
      ⟨completes_queued h hbody haway, completes_spilled h hbody haway, completes_waiting h hbody haway⟩⟩
  · intro s pcn k e rest hqueue hfree hruns hspill hwaiting slot hsource
    exact completes_admit hqueue hfree hruns hspill hwaiting hsource
  · intro s pcn hnone k others
    have hexec := (exec_emberAdmit pcn s).trans (congrArg _ (admitEmber_none hnone))
    refine ⟨fun hspill hwaiting => ?_, fun e hroom hspill hwaiting hintact => ?_, fun w hroom hspill hwaiting => ?_⟩
    · rw [hexec, moveUp_done hspill hwaiting]
    · rw [moveUp_spilled 63 hroom hspill hwaiting hintact] at hexec
      obtain ⟨hhere, hothers, -⟩ := puts_modCore s pcn fun k => { k with embers := k.embers ++ [e], spill := [] }
      exact ⟨_, hexec, ⟨rfl, rfl, hothers⟩, rfl, hhere⟩
    · rw [moveUp_waiting 63 hroom hspill hwaiting] at hexec
      obtain ⟨hhere, hothers, -⟩ := puts_modCore s pcn fun k => { k with embers := k.embers ++ [w], waiting := [] }
      exact ⟨_, hexec, ⟨rfl, rfl, hothers⟩, hhere, rfl⟩

/-- Settles O34: each place that an ember can go to changes one core, and its sender's slot is given up once. -/
theorem embersMigrate : Obligations.EmbersMigrate := embersTravel

end Sys2Proof.EmberTravel

/-!
PROOFS. The address map, the order of the access checks, and memory (R2, R51, R52, R56): the map and the checks are as stated; a
write that begins in slot 0's vector window and runs past its end stores what lies past it (O4).
-/

namespace Sys2Proof.AddressMap
open Sys2Proof Sys2Proof.Machine Sys2Proof.Claims

/-! ## What an address names (R51) -/

section
variable {a : Word}

theorem decodeAddr_self (h : a.toNat < 0x20000) : decodeAddr a = .self a.toNat := if_pos h

theorem decodeAddr_localStore (hlo : 0x100000000 ≤ a.toNat) (hhi : a.toNat < 0x120000000) :
    decodeAddr a = .localStore ((a.toNat - 0x100000000) / 2 ^ 17) (a.toNat % 2 ^ 17) := by
  have hpcn : a.toNat / 2 ^ 17 % 2 ^ 12 = (a.toNat - 0x100000000) / 2 ^ 17 := by omega
  rw [decodeAddr]
  iterate 2 rw [if_neg (by omega)]
  rw [if_pos hhi, hpcn]

theorem decodeAddr_accumulator (hlo : 0x200000000 ≤ a.toNat) (hhi : a.toNat < 0x202000000) :
    decodeAddr a = .accumulator ((a.toNat - 0x200000000) / 2 ^ 13) (a.toNat % 2 ^ 13) := by
  have hpcn : a.toNat / 2 ^ 13 % 2 ^ 12 = (a.toNat - 0x200000000) / 2 ^ 13 := by omega
  rw [decodeAddr]
  iterate 4 rw [if_neg (by omega)]
  rw [if_pos hhi, hpcn]

theorem decodeAddr_vector (hlo : 0x300000000 ≤ a.toNat) (hhi : a.toNat < 0x302000000) :
    decodeAddr a = .vector ((a.toNat - 0x300000000) / 2 ^ 13) (a.toNat % 2 ^ 13) := by
  have hpcn : a.toNat / 2 ^ 13 % 2 ^ 12 = (a.toNat - 0x300000000) / 2 ^ 13 := by omega
  rw [decodeAddr]
  iterate 6 rw [if_neg (by omega)]
  rw [if_pos hhi, hpcn]

theorem decodeAddr_control (hlo : 0x400000000 ≤ a.toNat) (hhi : a.toNat < 2 ^ 48) : decodeAddr a = .control a.toNat := by
  rw [decodeAddr]
  iterate 8 rw [if_neg (by omega)]
  exact if_pos hhi

theorem decodeAddr_offchip (hlo : 2 ^ 48 ≤ a.toNat) (hhi : a.toNat < 2 ^ 49) : decodeAddr a = .offchip (a.toNat % 2 ^ 48) := by
  rw [decodeAddr]
  iterate 9 rw [if_neg (by omega)]
  exact if_pos hhi

/-- Above the self window an address names no core's own store. -/
theorem decodeAddr_ne_self (h : 0x20000 ≤ a.toNat) (off : Nat) : decodeAddr a ≠ .self off := by
  rw [decodeAddr, if_neg (Nat.not_lt.2 h)]
  split_ifs <;> exact Target.noConfusion

end

/-! ## The checks in their order (R52) -/

section
variable {s : State} {tid n : Nat} {a : Word}

theorem checkAccess_misaligned (h : a.toNat % n ≠ 0) : s.checkAccess tid a n = some 0x02 := if_pos h

theorem checkAccess_aligned (h : a.toNat % n = 0) : s.checkAccess tid a n = s.checkTarget tid (decodeAddr a) :=
  if_neg (not_not.2 h)

/-- At user level a window of another core is open where its position is neither fused nor a system core, and in the region. -/
theorem checkTarget_window {t : Target} {pcn : Nat} (howner : t.owner? 0 = some pcn) (hself : ∀ off, t ≠ .self off)
    (huser : s.isPrivileged tid = false) : s.checkTarget tid t =
      if s.isFused pcn ∨ s.isSystem pcn ∨ s.coreInRegion (s.regionOf tid) pcn = false then some 0x05 else none := by
  cases t with
  | self off => exact absurd rfl (hself off)
  | localStore | accumulator | vector =>
    obtain rfl := Option.some.inj howner
    simp [State.checkTarget, huser, causeRegion, or_assoc]
  | control | offchip | unmapped => cases howner

end

theorem addressMapAndChecks : AddressMapAndChecks := by
  intro s tid n a
  refine ⟨decodeAddr_self, decodeAddr_localStore, decodeAddr_accumulator, decodeAddr_vector, checkAccess_misaligned,
    fun h hhole => ?_, fun h hlo hhi => ?_, fun h hlo hhi huser => ?_, fun h hlo => ?_, fun pcn h howner hlo huser => ?_⟩
  · rw [checkAccess_aligned h, hhole]
    rfl
  · rw [checkAccess_aligned h, decodeAddr_offchip hlo hhi]
    rfl
  · rw [checkAccess_aligned h, decodeAddr_control hlo hhi, State.checkTarget, huser]
    rfl
  · rw [checkAccess_aligned h, decodeAddr_self hlo]
    rfl
  · rw [checkAccess_aligned h, checkTarget_window howner (decodeAddr_ne_self hlo) huser]

/-! ## Slot 0's vector window (R56) -/

/-- Refutes O4: of the two bytes of 256, written from the last byte of a slot 0 window on, the second lies in slot 1's window and is
stored, so that memory changes although the address reads zero and discards what is written (R56). -/
theorem not_addressesAndMemory : ¬ Obligations.AddressesAndMemory := by
  rintro ⟨-, hreads⟩
  obtain ⟨-, hdiscards, -⟩ := hreads [] (vecKey 0 511) 2 256 rfl
  have hstored : storeBytes (vecKey 0 511) (bytesOfNat 2 256) [] = [(vecKey 0 512, 1)] := by decide
  exact absurd (hstored.symm.trans (hdiscards (by decide))) (List.cons_ne_nil _ _)

end Sys2Proof.AddressMap

/-!
PROOFS. What a home's look at an event leaves alone (R83, R95, R99), for the steps that end in one.
-/

namespace Sys2Proof.Resolutions
open Sys2Proof Sys2Proof.Machine Sys2Proof.Accesses

/-- Homes have looked at events and may have begun to resolve them: of the device only cores, packets and the counter of free values
may differ, and of a core only its arbiter entries and its reductions; in an entry, what has occurred stays. -/
structure OnlyResolves (s t : State) : Prop where
  device : { t with cores := s.cores, net := s.net, fresh := s.fresh } = s
  core : ∀ k, { t.core k with arb := (s.core k).arb, reductions := (s.core k).reductions } = s.core k
  occurrences : ∀ k i, (t.entry k i).current = (s.entry k i).current ∧ (t.entry k i).past = (s.entry k i).past

namespace OnlyResolves
variable {s t : State}

theorem refl (s : State) : OnlyResolves s s := ⟨rfl, fun _ => rfl, fun _ _ => ⟨rfl, rfl⟩⟩

section
variable (h : OnlyResolves s t)
include h

theorem mem : t.mem = s.mem := (congrArg State.mem h.device :)
theorem ctxs : t.ctxs = s.ctxs := (congrArg State.ctxs h.device :)
theorem clusters : t.clusters = s.clusters := (congrArg State.clusters h.device :)
theorem launches : t.launches = s.launches := (congrArg State.launches h.device :)
theorem ctx (tid : Nat) : t.ctx tid = s.ctx tid := congrArg (tableGet Ctx.empty tid) h.ctxs
theorem queueOf (k : Nat) (e : Engine) : queueOf (t.core k) e = queueOf (s.core k) e := by
  rw [← h.core k]
  cases e <;> rfl

theorem send (p : Packet) : OnlyResolves s (t.send p) := ⟨h.device, h.core, h.occurrences⟩

theorem draw (n : Nat) : OnlyResolves s { t with fresh := n } := ⟨h.device, h.core, h.occurrences⟩

theorem setEntry {k i : Nat} {x : ArbEntry} (hcurrent : x.current = (t.entry k i).current)
    (hpast : x.past = (t.entry k i).past) : OnlyResolves s (t.setEntry k i x) where
  device := h.device
  core j := by
    rw [State.setEntry, core_modCore]
    split <;> exact h.core j
  occurrences j n := by
    by_cases hat : j = k ∧ n = i
    · obtain ⟨rfl, rfl⟩ := hat
      rw [State.entry_setEntry_same, hcurrent, hpast]
      exact h.occurrences j n
    · rw [State.entry_setEntry_other t (Decidable.not_and_iff_or_not.1 hat)]
      exact h.occurrences j n

theorem modReduction (k launch : Nat) (f : Reduction → Reduction) : OnlyResolves s (t.modReduction k launch f) where
  device := h.device
  core j := by
    rw [State.modReduction, core_modCore]
    split <;> exact h.core j
  occurrences j n := by
    rw [State.entry, State.modReduction, core_modCore]
    split <;> exact h.occurrences j n

theorem postEvent (cls : PacketClass) (src dst launch : Nat) (timed : Bool) (vt : Nat) (body : Body) :
    OnlyResolves s (t.postEvent cls src dst launch timed vt body) := by
  unfold State.postEvent
  split
  · exact (h.modReduction _ _ _).send _
  · exact h.send _

theorem sendClaim (k i number : Nat) (waiting : List Nat) : OnlyResolves s (t.sendClaim k i number waiting) := by
  unfold State.sendClaim
  split
  · exact h
  · dsimp only
    split
    · exact h
    · exact h.postEvent ..

theorem beginResolution {k i : Nat} {e : ArbEntry} (hcurrent : e.current = (t.entry k i).current)
    (hpast : e.past = (t.entry k i).past) : OnlyResolves s (t.beginResolution k i e) := by
  have hset : OnlyResolves s (t.setEntry k i { e with
      resolution := .claiming e.nextNumber [] (e.desc.parties.map Prod.fst) false, nextNumber := e.nextNumber + 1 }) :=
    h.setEntry hcurrent hpast
  exact hset.sendClaim ..

theorem tryResolve (k i : Nat) : OnlyResolves s (t.tryResolve k i) := by
  have hlook (loss : Nat) : OnlyResolves s (t.setEntry k i { t.entry k i with loss := loss }) := h.setEntry rfl rfl
  unfold State.tryResolve
  dsimp only
  split
  · exact h
  · split
    · split
      · exact h.beginResolution rfl rfl
      · exact h
    · split
      · exact h
      · split
        · exact List.foldlRecOn _ _ (hlook _) fun _ ht _ _ => ht.postEvent ..
        · split
          · exact (hlook _).beginResolution (by rw [State.entry_setEntry_same]) (by rw [State.entry_setEntry_same])
          · exact (hlook _).draw _

end
end OnlyResolves

end Sys2Proof.Resolutions

/-!
PROOFS. Occurrences (R58, R89, R100, R232, R256): the participants of an event resume one after the other, each on its own, and the
entry of the event is free for the next resolution (O27).
-/

namespace Sys2Proof.Occurrences
open Sys2Proof Sys2Proof.Machine Sys2Proof.Claims Sys2Proof.Resolutions

theorem exec_eventOccur (pcn idx : Nat) (s : State) : exec (.eventOccur pcn idx) s = execEventOccur pcn idx s := by rfl

/-! ## Participants that resume (R232, R256) -/

/-- An occurrence that carries the status record of a batch carries a fault: one of that batch, or one that is due. -/
def carries (batch : Option Nat) (f : JobFault) : Bool := some f.batch == batch || f.due

/-- A context that goes on after the offer that an occurrence closed at an entry. -/
def resumedAt (batch : Option Nat) (i : Nat) (c : Ctx) : Ctx :=
  { ((c.setG c.offer.dest (BitVec.ofNat 64 i)).advance) with
    offer := OfferSlot.none, faults := c.faults.filter fun f => !carries batch f
    late := c.late ++ (c.faults.filter (carries batch)).map State.lateOfFault }

/-- A context after an occurrence: it goes on if its slot is closed. -/
def resumed (batch : Option Nat) (c : Ctx) : Ctx :=
  match c.offer.state with
  | .committed i => resumedAt batch i c
  | _ => c

theorem resumed_committed {batch : Option Nat} {i : Nat} {c : Ctx} (h : c.offer.state = .committed i) :
    resumed batch c = resumedAt batch i c := by
  simp only [resumed, h]

/-- All contexts of a list resume. -/
def resumeAll (s : State) (batch : Option Nat) (tids : List Nat) : State :=
  tids.foldl (fun t tid => t.modCtx tid (resumed batch)) s

theorem resumeParticipant_eq (s : State) (tid : Nat) (batch : Option Nat) :
    s.resumeParticipant tid batch = s.modCtx tid (resumed batch) := by
  rfl

theorem resumeAll_device (s : State) (batch : Option Nat) (tids : List Nat) :
    { resumeAll s batch tids with ctxs := s.ctxs } = s :=
  List.foldlRecOn (motive := fun t : State => { t with ctxs := s.ctxs } = s) tids _ rfl fun _ h _ _ => h

theorem ctx_resumeAll_other {s : State} {batch : Option Nat} {tids : List Nat} {tid : Nat} (h : tid ∉ tids) :
    (resumeAll s batch tids).ctx tid = s.ctx tid :=
  List.foldlRecOn (motive := fun t : State => t.ctx tid = s.ctx tid) tids _ rfl fun _ ht x hx =>
    (State.ctx_modCtx_other _ (fun (heq : tid = x) => h (heq ▸ hx)) _).trans ht

/-- Each context of a list without repeats resumes once. -/
theorem ctx_resumeAll_mem {s : State} {batch : Option Nat} {tids : List Nat} (hnodup : tids.Nodup) {tid : Nat} (h : tid ∈ tids) :
    (resumeAll s batch tids).ctx tid = resumed batch (s.ctx tid) := by
  induction tids generalizing s with
  | nil => cases h
  | cons x tids ih =>
    obtain ⟨hx, hrest⟩ := List.nodup_cons.1 hnodup
    change (resumeAll (s.modCtx x (resumed batch)) batch tids).ctx tid = _
    rcases List.mem_cons.1 h with rfl | h
    · rw [ctx_resumeAll_other hx, State.ctx_modCtx_same]
    · rw [ih hrest h, State.ctx_modCtx_other _ (fun (heq : tid = x) => hx (heq ▸ h))]

/-! ## The entry afterwards (R100, R346) -/

theorem entry_clearSets (s : State) (home idx gen number k i : Nat) :
    (s.clearSets home idx gen number).entry k i = s.entry k i := by
  have hcore : ((s.clearSets home idx gen number).core k).arb = (s.core k).arb := by
    simp only [State.core, tableGet, State.clearSets, State.modCombining, tableFind_map]
    cases tableFind k s.cores <;> rfl
  rw [State.entry, hcore, State.entry]

/-- An entry whose occurrence has ended, free for its next resolution; a timed occurrence is kept. -/
def afterOccurrence (e : ArbEntry) (o : Occurrence) : ArbEntry :=
  { e with current := none, resolution := .idle, past := if e.desc.timed then e.past ++ [o] else [] }

/-- The batch whose status record an occurrence carries. -/
def batchOf (o : Occurrence) : Option Nat := (o.standing.bind Standing.source).map StandingSource.batch

/-- What an occurrence leaves before its home looks at the event again. -/
def occurred (s : State) (pcn idx : Nat) (o : Occurrence) : State :=
  let e := s.entry pcn idx
  ((resumeAll s (batchOf o) (e.desc.parties.map fun p => p.2.1)).setEntry pcn idx (afterOccurrence e o)).clearSets pcn idx e.gen
    o.number

theorem exec_eventOccur_ready {s : State} {pcn idx : Nat} {o : Occurrence} (hcurrent : (s.entry pcn idx).current = some o)
    (hwrites : o.writes = []) (hawaited : State.awaited (s.entry pcn idx) ≤ o.contributions.length)
    (hready : s.participantsReady pcn idx (s.entry pcn idx) = true) :
    exec (.eventOccur pcn idx) s = .next ((occurred s pcn idx o).tryResolve pcn idx) := by
  rw [exec_eventOccur, execEventOccur]
  simp only [hcurrent, hwrites, hready, List.isEmpty_nil, Bool.not_true, Bool.or_false, Bool.false_or, decide_eq_true_eq,
    Nat.not_lt.2 hawaited, if_false, resumeParticipant_eq, occurred, resumeAll, List.foldl_map]
  rfl

theorem carries_eq (o : Occurrence) : carries (batchOf o) = fun f => f.due || match o.standing.bind Standing.source with
    | some x => x.batch == f.batch
    | none => false := by
  funext f
  unfold carries batchOf
  cases o.standing.bind Standing.source with
  | none => simp
  | some x => rw [Bool.or_comm, Option.map_some, Option.some_beq_some, Bool.beq_comm]

theorem eventsOccur : EventsOccur := by
  intro s pcn idx tid i o e c carried hcurrent hwrites hawaited hready hnodup
  have hlook : OnlyResolves (occurred s pcn idx o) ((occurred s pcn idx o).tryResolve pcn idx) :=
    (OnlyResolves.refl _).tryResolve pcn idx
  have hctx (tid : Nat) : ((occurred s pcn idx o).tryResolve pcn idx).ctx tid =
      (resumeAll s (batchOf o) (e.desc.parties.map fun p => p.2.1)).ctx tid := hlook.ctx tid
  have hentry : (occurred s pcn idx o).entry pcn idx = afterOccurrence e o := by
    rw [occurred, entry_clearSets, State.entry_setEntry_same]
  have hcarried : carries (batchOf o) = carried := carries_eq o
  obtain ⟨hnone, hpast⟩ := hlook.occurrences pcn idx
  refine ⟨_, exec_eventOccur_ready hcurrent hwrites hawaited hready, fun hparty hclosed => ?_, fun hnot => ?_, ?_, ?_, ?_⟩
  · rw [hctx, ctx_resumeAll_mem hnodup (List.mem_map.2 hparty), resumed_committed hclosed, resumedAt, hcarried]
    rfl
  · rw [hctx, ctx_resumeAll_other fun hmem => (List.mem_map.1 hmem).elim fun p hp => hnot p hp.1 hp.2]
  · exact hlook.mem.trans (congrArg State.mem (resumeAll_device s _ _) :)
  · rw [hnone, hentry, afterOccurrence]
  · rw [hpast, hentry, afterOccurrence]

/-- Settles O27: the participants resume one after the other, each by its own context alone, and the home's next look at the event
leaves contexts, memory and what has occurred alone. -/
theorem occurrencesEnd : Obligations.OccurrencesEnd := eventsOccur

end Sys2Proof.Occurrences

/-!
PROOFS. Queues of jobs and late traps: what a change of a core's jobs, or of a thread's late traps, leaves alone (R228, R232).
-/

namespace Sys2Proof.JobQueues
open Sys2Proof Sys2Proof.Machine Sys2Proof.Claims

/-! ## A core's queues and latch buffers -/

@[simp] theorem queueOf_setQueue_same (k : CoreS) (e : Engine) (q : List Job) : queueOf (setQueue k e q) e = q := by
  cases e <;> rfl

@[simp] theorem latchOf_setLatch_same (k : CoreS) (b : Nat) (l : Latch) : latchOf (setLatch k b l) b = l := by
  unfold latchOf setLatch
  split <;> rfl

@[simp] theorem cpQueue_setLatch (k : CoreS) (b : Nat) (l : Latch) : (setLatch k b l).cpQueue = k.cpQueue := by
  unfold setLatch
  split <;> rfl

/-! ## A change of one core or of its jobs -/

theorem onlyCore_modCore (s : State) (pcn : Nat) (f : CoreS → CoreS) : OnlyCore s (s.modCore pcn f) pcn :=
  ⟨rfl, fun _ hk => State.core_modCore_other s hk f⟩

theorem jobChanges_modJob (s : State) (pcn : Nat) (e : Engine) (id : BitVec 32) (f : Job → Job) :
    JobChanges s (s.modJob pcn e id f) pcn e id f :=
  State.core_modCore_same s pcn _

theorem onlyCore_modJob (s : State) (pcn : Nat) (e : Engine) (id : BitVec 32) (f : Job → Job) :
    OnlyCore s (s.modJob pcn e id f) pcn :=
  onlyCore_modCore s pcn _

theorem cluster_modCluster_same (s : State) (cl : Nat) (f : ClusterS → ClusterS) :
    (s.modCluster cl f).cluster cl = f (s.cluster cl) :=
  tableGet_put_same _ _ _ _

/-! ## Late traps (R232) -/

theorem queueOf_modLates (s : State) (sel : Nat → Nat → Bool)
    (f : List LateTrap × List JobFault → List LateTrap × List JobFault) (k : Nat) (e : Engine) :
    queueOf ((s.modLates sel f).core k) e = queueOf (s.core k) e := by
  simp only [State.core, tableGet, State.modLates, tableFind_map]
  cases tableFind k s.cores <;> cases e <;> rfl

/-- A thread at home takes a change of its late traps. -/
theorem ctx_modLate {s : State} {thread proc : Nat} (f : List LateTrap × List JobFault → List LateTrap × List JobFault)
    (hhome : (s.ctx thread).away = false) (hproc : (s.ctx thread).proc = proc) (hempty : (s.ctx thread).status ≠ .empty)
    (hreserved : (s.ctx thread).status ≠ .reserved) :
    (s.modLate thread proc f).ctx thread = { s.ctx thread with
      late := (f ((s.ctx thread).late, (s.ctx thread).faults)).1, faults := (f ((s.ctx thread).late, (s.ctx thread).faults)).2 } := by
  simp only [State.modLate, State.modLates, State.ctx, tableGet, tableFind_map] at *
  cases hfind : tableFind thread s.ctxs with
  | none => simp [hfind, Ctx.empty] at hempty
  | some c =>
    simp only [hfind, Option.getD_some] at hhome hproc hempty hreserved
    simp [hhome, hproc, hempty, hreserved]

/-- A late trap added for the thread of a job is the last that the thread, where it is at home, lists. -/
theorem lateFor_modLate {s u t : State} {j : Job} {trap : LateTrap} (hbefore : u.ctxs = s.ctxs)
    (hafter : t.ctxs = (u.modLate j.thread j.proc fun x => (x.1 ++ [trap], x.2)).ctxs) : LateFor s t j trap := by
  have hctx (tid : Nat) : u.ctx tid = s.ctx tid := congrArg (tableGet Ctx.empty tid) hbefore
  intro hhome hproc hempty hreserved
  calc t.ctx j.thread
      = (u.modLate j.thread j.proc fun x => (x.1 ++ [trap], x.2)).ctx j.thread := congrArg (tableGet Ctx.empty j.thread) hafter
    _ = { u.ctx j.thread with late := (u.ctx j.thread).late ++ [trap] } := by
      rw [← hctx] at hhome hproc hempty hreserved
      exact ctx_modLate _ hhome hproc hempty hreserved
    _ = { s.ctx j.thread with late := (s.ctx j.thread).late ++ [trap] } := by rw [hctx]

end Sys2Proof.JobQueues

/-!
PROOFS. Streams start, jobs complete, promises pass and sends are settled (R67, R230 to R233, R240, R247, R356): the batches that a
completion offers, and the homes that look at their events, leave contexts, memory and job queues alone (O19).
-/

namespace Sys2Proof.JobEnds
open Sys2Proof Sys2Proof.Machine Sys2Proof.Claims Sys2Proof.Resolutions Sys2Proof.JobQueues

theorem exec_streamStart (pcn : Nat) (s : State) : exec (.streamStart pcn) s = execStreamStart pcn s := by rfl
theorem exec_jobComplete (pcn n : Nat) (s : State) : exec (.jobComplete pcn n) s = execJobComplete pcn n s := by rfl
theorem exec_copyOverdue (pcn : Nat) (s : State) : exec (.copyOverdue pcn) s = execCopyOverdue pcn s := by rfl
theorem exec_peerSendAck (pcn job : Nat) (s : State) : exec (.peerSendAck pcn job) s = .next (s.settleSend pcn job fun j => j) := by
  rfl
theorem exec_uetSendAbandon (pcn job : Nat) (s : State) :
    exec (.uetSendAbandon pcn job) s = .next (s.settleSend pcn job (endedWith 3)) := by rfl

/-! ## Streams (R67, R233, R240) -/

section
variable {s : State} {pcn : Nat} {j : Job}

/-- A stream has its latch buffer, which is Filling. -/
def streaming (s : State) (pcn : Nat) (j : Job) : State :=
  (s.modCore pcn fun k => setLatch k (j.b.toNat % 2)
      ⟨.filling, j.cp.cconv.toNat / 256 % 16, dstMx j.cp, cpTil j.cp 0, [], []⟩).modCopy pcn j.id fun x =>
    { x with started := true, promise := some (s.promiseOf pcn x) }

theorem exec_streamStart_ready (hopen : State.openJob? (s.core pcn) .copy = some j) (hform : j.form = .stream)
    (hwaits : j.started = false) (hruns : s.jobRuns j = true) (hreleased : s.released j = true)
    (hempty : (latchOf (s.core pcn) (j.b.toNat % 2)).state = .empty) :
    exec (.streamStart pcn) s = .next (streaming s pcn j) := by
  have hlatch : latchFilled? j = some (j.b.toNat % 2) := if_pos hform
  simp [exec_streamStart, execStreamStart, hopen, hlatch, hwaits, hruns, hreleased, hempty, streaming]

theorem core_streaming : (streaming s pcn j).core pcn =
    { setLatch (s.core pcn) (j.b.toNat % 2) ⟨.filling, j.cp.cconv.toNat / 256 % 16, dstMx j.cp, cpTil j.cp 0, [], []⟩ with
      cpQueue := (s.core pcn).cpQueue.map fun x =>
        if x.id = j.id then { x with started := true, promise := some (s.promiseOf pcn x) } else x } := by
  rw [streaming, State.modCopy, State.core_modCore_same, State.core_modCore_same, cpQueue_setLatch]

theorem onlyCore_streaming : OnlyCore s (streaming s pcn j) pcn :=
  ⟨rfl, fun _ hk => (State.core_modCore_other _ hk _).trans (State.core_modCore_other s hk _)⟩

end

/-! ## Batches (R230, R231) -/

/-- A batch that is open stays with its cluster. -/
theorem mem_readyBatches_of_open {b : Batch} (hopen : b.closed = false) {bs : List Batch} (h : b ∈ bs)
    (blocked : List (BitVec 32)) : b ∈ (State.readyBatches bs blocked).2 := by
  induction bs generalizing blocked with
  | nil => cases h
  | cons x bs ih =>
    rw [State.readyBatches]
    rcases List.mem_cons.1 h with rfl | h
    · simp [hopen]
    · split
      · exact ih h _
      · exact List.mem_cons_of_mem _ (ih h _)

theorem onlyResolves_offerBatch {s t : State} (h : OnlyResolves s t) (b : Batch) : OnlyResolves s (t.offerBatch b) := by
  unfold State.offerBatch
  split
  · exact h
  · refine OnlyResolves.tryResolve ?_ ..
    exact h.setEntry rfl rfl

/-- A cluster without the batches that are ready to be offered. -/
def withoutReady (s : State) (cl : Nat) : State :=
  s.modCluster cl fun c => { c with batches := (State.readyBatches (s.cluster cl).batches []).2 }

theorem onlyResolves_offerBatches (s : State) (cl : Nat) : OnlyResolves (withoutReady s cl) (s.offerBatches cl) :=
  List.foldlRecOn _ _ (OnlyResolves.refl _) fun _ h b _ => onlyResolves_offerBatch h b

/-! ## A latch job that waits when its launch is in wrap-up (R233) -/

theorem onlyCore_endWaitingLatch (s : State) (pcn : Nat) : OnlyCore s (s.endWaitingLatch pcn) pcn := by
  unfold State.endWaitingLatch
  split
  · exact ⟨rfl, fun _ _ => rfl⟩
  · exact iteInduction (motive := fun t => OnlyCore s t pcn) (fun _ => onlyCore_modJob ..) fun _ => ⟨rfl, fun _ _ => rfl⟩

theorem endWaitingLatch_of_running {s : State} {pcn : Nat}
    (h : ∀ x ∈ (s.core pcn).mxQueue, ∀ key l, x.launch = some key → s.launch? key = some l → l.phase = .running) :
    s.endWaitingLatch pcn = s := by
  unfold State.endWaitingLatch
  split
  · rfl
  · next j hhead =>
    have hphase : ∀ l ∈ j.launch.bind s.launch?, l.phase = .running := fun l hl => by
      obtain ⟨key, hkey, hlaunch⟩ := Option.bind_eq_some_iff.1 hl
      exact h j (List.mem_of_mem_head? hhead) key l hkey hlaunch
    cases hlaunch : j.launch.bind s.launch? with
    | none => simp
    | some l => simp [hphase l hlaunch]

/-! ## Completion (R230 to R232) -/

section
variable {s : State} {pcn : Nat} {e : Engine} {j : Job} {rest : List Job}

/-- The first job of a queue has left it and counts in its batch. -/
def counted (s : State) (pcn : Nat) (e : Engine) (j : Job) : State :=
  (s.modCore pcn fun k => setQueue k e ((queueOf k e).drop 1)).modCluster (clusterOf pcn) fun k =>
    { k with batches := k.batches.map fun b => if some b.number = j.batch then s.addToBatch j b else b }

/-- A completion has told the thread of a job that failed. -/
def told (s : State) (pcn : Nat) (e : Engine) (j : Job) : State :=
  if 2 ≤ j.status && !j.cancelled then (counted s pcn e j).raiseJobFault j j.status else counted s pcn e j

theorem exec_jobComplete_first {n : Nat} (hqueue : queueOf (s.core pcn) (engineOf n) = j :: rest)
    (hmay : s.mayComplete pcn j = true) : exec (.jobComplete pcn n) s =
      .next (((told s pcn (engineOf n) j).offerBatches (clusterOf pcn)).endWaitingLatch pcn) := by
  simp only [exec_jobComplete, execJobComplete, hqueue, List.head?_cons, hmay, if_true]
  rfl

theorem told_device : { told s pcn e j with ctxs := s.ctxs, cores := s.cores, clusters := s.clusters, net := s.net } = s := by
  unfold told
  split <;> rfl

theorem told_clusters : (told s pcn e j).clusters = (counted s pcn e j).clusters := by
  unfold told
  split <;> rfl

theorem queueOf_told (e' : Engine) : queueOf ((told s pcn e j).core pcn) e' =
    queueOf (setQueue (s.core pcn) e ((queueOf (s.core pcn) e).drop 1)) e' := by
  have hcounted : (counted s pcn e j).core pcn = setQueue (s.core pcn) e ((queueOf (s.core pcn) e).drop 1) :=
    State.core_modCore_same s pcn fun k => setQueue k e ((queueOf k e).drop 1)
  unfold told
  split
  · rw [State.raiseJobFault, State.modLate, queueOf_modLates, hcounted]
  · rw [hcounted]

/-- What is left of a core's MXE queue was in it. -/
theorem mem_mxQueue_told {x : Job} (h : x ∈ queueOf ((told s pcn e j).core pcn) .mxe) : x ∈ (s.core pcn).mxQueue := by
  rw [queueOf_told] at h
  cases e with
  | mxe => exact List.mem_of_mem_drop h
  | copy => exact h

theorem told_ctxs (h : j.status < 2 ∨ j.cancelled = true) : (told s pcn e j).ctxs = s.ctxs := by
  have hquiet : ¬ (decide (2 ≤ j.status) && !j.cancelled) = true := by
    rcases h with h | h <;> simp [h]
  rw [told, if_neg hquiet]
  rfl

/-- A job that failed without an event has told its thread at once. -/
theorem told_eq_modLate (hstatus : 2 ≤ j.status) (hcancelled : j.cancelled = false) (hhandle : j.handle = 0) :
    told s pcn e j = (counted s pcn e j).modLate j.thread j.proc fun x =>
      (x.1 ++ [⟨if j.status = 2 then 0x11 else 0x12, j.id, j.order, coreOfTid j.tid, j.ckseq⟩], x.2) := by
  simp only [told, hstatus, hcancelled, decide_true, Bool.not_false, Bool.and_self, if_true, State.raiseJobFault, hhandle]
  simp [State.causeOfStatus, causeCopyFailed, causeEngineFault]

/-- An open batch counts a job that has completed, and stays with its cluster. -/
theorem addToBatch_mem {b : Batch} (h : b ∈ (s.cluster (clusterOf pcn)).batches) (hnumber : some b.number = j.batch)
    (hopen : b.closed = false) :
    s.addToBatch j b ∈ ((withoutReady (told s pcn e j) (clusterOf pcn)).cluster (clusterOf pcn)).batches := by
  have hcluster : (told s pcn e j).cluster (clusterOf pcn) = (counted s pcn e j).cluster (clusterOf pcn) :=
    congrArg (tableGet ClusterS.reset (clusterOf pcn)) told_clusters
  rw [withoutReady, cluster_modCluster_same, hcluster, counted, cluster_modCluster_same]
  have hcounts : s.addToBatch j b ∈ (s.cluster (clusterOf pcn)).batches.map fun b =>
      if some b.number = j.batch then s.addToBatch j b else b := List.mem_map.2 ⟨b, h, if_pos hnumber⟩
  exact mem_readyBatches_of_open (b := s.addToBatch j b) hopen hcounts []

theorem addToBatch_eq (s : State) (j : Job) (b : Batch) : s.addToBatch j b = { b with
    pending := b.pending - 1, status := max b.status j.status, raised := b.raised ||| (j.raised &&& 0x3F)
    passed := b.passed || (j.promise.map fun p => decide (p < s.now)).getD false
    fill := (b.fill + j.fill) % 2 ^ 32, time := s.now % 2 ^ 32 } := by
  unfold State.addToBatch
  cases j.promise <;> rfl

end

/-! ## Promises (R240) -/

/-- A copy has passed its promise, and its thread is still to be told. -/
def isOverdue (s : State) (j : Job) : Bool :=
  !j.overdue && !j.timed && s.jobRuns j && match j.promise with
    | some p => decide (p < s.now)
    | none => false

theorem isOverdue_iff (s : State) (j : Job) : isOverdue s j = true ↔ Overdue s j := by
  unfold isOverdue Overdue
  cases j.promise <;> simp [and_assoc]

theorem exec_copyOverdue_first {s : State} {pcn : Nat} {j : Job} (h : (s.core pcn).cpQueue.find? (isOverdue s) = some j) :
    exec (.copyOverdue pcn) s = .next ((s.modCopy pcn j.id fun x => { x with overdue := true }).modLate j.thread j.proc fun x =>
      (x.1 ++ [⟨0x10, j.id, j.promise.getD 0, pcn, j.ckseq⟩], x.2)) := by
  rw [exec_copyOverdue, execCopyOverdue]
  dsimp only
  split
  · next x hx =>
    obtain rfl : x = j := Option.some.inj (hx.symm.trans h)
    rfl
  · next hx => exact absurd (hx.symm.trans h) (Option.some_ne_none j).symm

/-! ## The statement's clauses -/

theorem completes_streamStart {s : State} {pcn : Nat} {j : Job} (hopen : State.openJob? (s.core pcn) .copy = some j)
    (hform : j.form = .stream) (hwaits : j.started = false) (hruns : s.jobRuns j = true) (hreleased : s.released j = true)
    (hempty : (latchOf (s.core pcn) (j.b.toNat % 2)).state = .empty) :
    Completes (.streamStart pcn) s fun t => OnlyCore s t pcn ∧
      latchOf (t.core pcn) (j.b.toNat % 2) =
        ⟨.filling, j.cp.cconv.toNat / 256 % 16, j.cp.cconv.getLsbD 12, cpTil j.cp 0, [], []⟩ ∧
      (t.core pcn).cpQueue = (s.core pcn).cpQueue.map fun x => if x.id = j.id then
        { x with started := true, promise := some (s.promiseOf pcn x) } else x := by
  refine ⟨_, exec_streamStart_ready hopen hform hwaits hruns hreleased hempty, onlyCore_streaming, ?_, ?_⟩
  · rw [core_streaming]
    exact latchOf_setLatch_same _ _ _
  · rw [core_streaming]

/-- What a completion leaves: its homes' looks change neither contexts, memory, clusters nor queues, and a waiting latch job ends
only where its launch is in wrap-up. -/
theorem completes_jobComplete {s : State} {pcn n : Nat} {j : Job} {rest : List Job}
    (hqueue : queueOf (s.core pcn) (engineOf n) = j :: rest) (hmay : s.mayComplete pcn j = true) :
    Completes (.jobComplete pcn n) s fun t => t.mem = s.mem ∧
      ((∀ x ∈ (s.core pcn).mxQueue, ∀ key l, x.launch = some key → s.launch? key = some l → l.phase = .running) →
        queueOf (t.core pcn) (engineOf n) = rest) ∧
      t.ctxs = (told s pcn (engineOf n) j).ctxs ∧
      t.clusters = (withoutReady (told s pcn (engineOf n) j) (clusterOf pcn)).clusters := by
  have hlook := onlyResolves_offerBatches (told s pcn (engineOf n) j) (clusterOf pcn)
  have hlatch := (onlyCore_endWaitingLatch ((told s pcn (engineOf n) j).offerBatches (clusterOf pcn)) pcn).device
  have hqueues (e : Engine) : queueOf (((told s pcn (engineOf n) j).offerBatches (clusterOf pcn)).core pcn) e =
      queueOf ((told s pcn (engineOf n) j).core pcn) e := hlook.queueOf pcn e
  refine ⟨_, exec_jobComplete_first hqueue hmay, ?_, fun hrunning => ?_, ?_, ?_⟩
  · calc _ = ((told s pcn (engineOf n) j).offerBatches (clusterOf pcn)).mem := (congrArg State.mem hlatch :)
      _ = (told s pcn (engineOf n) j).mem := hlook.mem
      _ = s.mem := (congrArg State.mem told_device :)
  · have hlaunches : ((told s pcn (engineOf n) j).offerBatches (clusterOf pcn)).launches = s.launches :=
      hlook.launches.trans (congrArg State.launches told_device :)
    rw [endWaitingLatch_of_running, hqueues, queueOf_told, queueOf_setQueue_same, hqueue, List.drop_one, List.tail_cons]
    intro x hx key l hkey hlaunch
    have hleft : x ∈ queueOf ((told s pcn (engineOf n) j).core pcn) .mxe := by rwa [← hqueues .mxe]
    exact hrunning x (mem_mxQueue_told hleft) key l hkey ((congrArg (tableFind key) hlaunches).symm.trans hlaunch)
  · exact (congrArg State.ctxs hlatch :).trans hlook.ctxs
  · exact (congrArg State.clusters hlatch :).trans hlook.clusters

theorem completes_copyOverdue {s : State} {pcn : Nat} {j : Job} {before after : List Job}
    (hqueue : (s.core pcn).cpQueue = before ++ j :: after) (hbefore : ∀ x ∈ before, ¬ Overdue s x) (h : Overdue s j) :
    Completes (.copyOverdue pcn) s fun t => t.mem = s.mem ∧
      (t.core pcn).cpQueue = (s.core pcn).cpQueue.map (fun x => if x.id = j.id then { x with overdue := true } else x) ∧
      LateFor s t j ⟨0x10, j.id, j.promise.getD 0, pcn, j.ckseq⟩ := by
  have hfirst : (s.core pcn).cpQueue.find? (isOverdue s) = some j :=
    List.find?_eq_some_iff_append.2 ⟨(isOverdue_iff s j).2 h, before, after, hqueue, fun x hx => by
      simpa using mt (isOverdue_iff s x).1 (hbefore x hx)⟩
  refine ⟨_, exec_copyOverdue_first hfirst, rfl, ?_, lateFor_modLate rfl rfl⟩
  exact (queueOf_modLates _ _ _ pcn .copy).trans (congrArg CoreS.cpQueue (State.core_modCore_same s pcn _))

theorem completes_settleSend {s : State} {pcn job : Nat} {i : Instr} {f : Job → Job}
    (hexec : exec i s = .next (s.settleSend pcn job f)) (hsent : s.uetOut.any (isSendOf pcn job) = true) :
    Completes i s fun t => { t with cores := s.cores, uetOut := s.uetOut } = s ∧ (∀ c, c ≠ pcn → t.core c = s.core c) ∧
      t.uetOut = (s.uetOut.filter fun u => !isSendOf pcn job u) ∧
      t.core pcn = { s.core pcn with
        cpQueue := (s.core pcn).cpQueue.map fun x =>
          if x.id = BitVec.ofNat 32 job then if x.awaitAck then f { x with awaitAck := false } else x else x } := by
  rw [State.settleSend, if_pos hsent] at hexec
  exact ⟨_, hexec, rfl, fun _ hc => State.core_modCore_other _ hc _, rfl, State.core_modCore_same _ _ _⟩

theorem engineEvents : EngineEvents := by
  intro s pcn n job j e k
  refine ⟨completes_streamStart, fun rest hqueue hmay => ?_, fun before after => completes_copyOverdue, fun hsent => ?_⟩
  · obtain ⟨t, hexec, hmem, hleft, hctxs, hclusters⟩ := completes_jobComplete hqueue hmay
    refine ⟨t, hexec, hmem, hleft, fun hquiet => hctxs.trans (told_ctxs hquiet), fun hstatus hcancelled hhandle => ?_,
      fun b hb hnumber hopen => ?_⟩
    · exact lateFor_modLate (u := counted s pcn e j) rfl (hctxs.trans (by rw [told_eq_modLate hstatus hcancelled hhandle]))
    · rw [← addToBatch_eq, State.cluster, hclusters]
      exact addToBatch_mem hb hnumber hopen
  · exact ⟨completes_settleSend (exec_peerSendAck pcn job s) hsent, completes_settleSend (exec_uetSendAbandon pcn job s) hsent⟩

/-- Settles O19: each of these steps changes one core's queue, and a completion also its batch, its thread's late traps and the
events that homes then look at. -/
theorem jobsEnd : Obligations.JobsEnd := engineEvents

end Sys2Proof.JobEnds

/-!
PROOFS. Grants of the engines and the arbiter (R58, R228, R229, R239, R244): a job's line at the head of a bank's queue, and the
arbiter's choice, are as stated; the start of a grant has every job under the ID read its own operands (O17).
-/

namespace Sys2Proof.EngineGrants
open Sys2Proof Sys2Proof.Machine Sys2Proof.Claims Sys2Proof.Accesses Sys2Proof.JobQueues

theorem exec_engineGrant (cluster n line : Nat) (s : State) :
    exec (.engineGrant cluster n ⟨0, line⟩) s = .next (s.stepEngine cluster (engineOf n) line) := by rfl

/-! ## Two jobs with one ID (R228, R229) -/

/-- A job of core 1 that belongs to no launch and has not started. -/
def waitingJob (f : JobForm) : Job where
  engine := .mxe
  form := f
  id := 1
  seq := 1
  order := 0
  tid := 17
  thread := 17
  proc := State.bareKey 17
  launch := none
  region := 0
  timed := false
  handle := 0
  batch := none
  mx := .reset
  cp := .reset
  a := 0
  b := 0
  flags := ⟨.th, false, false⟩
  lvt := 0
  ckseq := 0
  started := false
  row := 0
  grant := .none
  got := []
  held := []
  status := 0
  raised := 0
  fill := 0
  promise := none
  overdue := false
  finished := false
  cancelled := false
  message := []
  awaitAck := false

/-- The device after reset, but for an `mx.zero`, which reads nothing, and an `mx.st`, which reads its tile, that wait on core 1's
MXE under one ID: no state that submissions lead to (R228), but one that the statement covers. -/
def twins : State := State.reset.setCore 1 { CoreS.reset 1 with mxQueue := [waitingJob .zero, waitingJob .st] }

/-- The grants of core 1's MXE jobs. -/
def grants (t : State) : List Grant := (t.core 1).mxQueue.map Job.grant

/-- The step that starts the first job's grant has the second read its own tile. -/
theorem second_twin_reads : (grants (twins.stepEngine 0 .mxe 0))[1]? ≠ some (.reading [] []) := by decide

/-- The clause on a grant that starts fails: it has every job with the ID read what the first reads. -/
theorem not_engineGrants : ¬ EngineGrants := by
  intro h
  obtain ⟨t, hexec, -, -, -, hchange⟩ :=
    (h twins 0 0 0 1 (waitingJob .zero)).2 1 1 rfl (by decide) (by decide) rfl (by decide) (by decide)
  obtain rfl : twins.stepEngine 0 .mxe 0 = t := Host.Outcome.next.inj hexec
  have hclaimed : (grants (twins.stepEngine 0 .mxe 0))[1]? = some (.reading [] []) := by
    rw [grants, hchange]
    decide
  exact second_twin_reads hclaimed

/-! ## Bytes that a job reads (R239) -/

/-- What a job has read, with bytes put under a name. -/
def putBytes (name : Nat) (bs : List Byte) (got : List (Nat × Byte)) : List (Nat × Byte) :=
  bs.zipIdx.foldl (fun t x => tablePut (name + x.2) x.1 t) got

theorem putBytes_concat (name : Nat) (bs : List Byte) (b : Byte) (got : List (Nat × Byte)) :
    putBytes name (bs ++ [b]) got = tablePut (name + bs.length) b (putBytes name bs got) := by
  simp [putBytes, List.zipIdx_append]

theorem gets_putBytes (name : Nat) (bs : List Byte) : Gets (putBytes name bs) name bs := by
  intro got
  induction bs using List.reverseRecOn with
  | nil => exact ⟨fun i hi => absurd hi (Nat.not_lt_zero i), fun k _ => rfl⟩
  | append_singleton bs b ih =>
    obtain ⟨hinside, houtside⟩ := ih
    rw [putBytes_concat, List.length_append, List.length_singleton]
    constructor
    · intro i hi
      rcases Nat.lt_succ_iff_lt_or_eq.1 hi with hi | rfl
      · rw [tableFind_put_other (by omega), hinside i hi, List.getElem?_append_left hi]
      · rw [tableFind_put_same, List.getElem?_concat_length]
    · intro k hk
      rw [tableFind_put_other (by omega), houtside k (by omega)]

/-! ## Lines at the head of a bank's queue (R58, R239, R244) -/

section
variable {s : State} {bank pcn key name : Nat} {e : Engine} {j : Job}

/-- The state without the entry at the head of a bank's queue. -/
def popped (s : State) (bank : Nat) : State := s.setBank bank (s.bank bank).tail

theorem bank_popped (s : State) (bank b : Nat) : (popped s bank).bank b = if b = bank then (s.bank b).tail else s.bank b := by
  split
  · next hb => rw [hb, popped, State.bank_setBank_same]
  · next hb => exact State.bank_setBank_other s hb _

theorem exec_accessPerform_line {t : State} (hhead : (s.bank bank).head? = some ⟨.job pcn e j.id, key, name⟩)
    (hline : (popped s bank).performLine pcn e j.id key name = some t) : exec (.accessPerform bank 0) s = .next t := by
  rw [popped] at hline
  simp [exec_accessPerform, State.performHead, hhead, hline]

theorem performLine_read {todo waits : List LineRead} {r : LineRead}
    (hjob : ((queueOf (s.core pcn) e).find? fun x => x.id == j.id) = some j) (hgrant : j.grant = .reading todo waits)
    (hwait : (waits.find? fun r => r.addr == key && r.name == name) = some r) :
    s.performLine pcn e j.id key name = some (s.modJob pcn e j.id fun x => { x with
      got := putBytes r.name (memBytes s.mem r.addr r.size) x.got, grant := .reading todo (waits.erase r) }) := by
  simp only [State.performLine, hjob, hgrant, hwait]
  rfl

/-- A write to a window at an address. -/
def writesAt (key : Nat) (w : JobWrite) : Bool :=
  match w with
  | .window k _ => k == key
  | _ => false

theorem performLine_write {todo waits : List JobWrite} {d : WriteData}
    (hjob : ((queueOf (s.core pcn) e).find? fun x => x.id == j.id) = some j) (hgrant : j.grant = .writing todo waits)
    (hwait : waits.find? (writesAt key) = some (.window key d)) (htimed : j.timed = false) :
    s.performLine pcn e j.id key name =
      some ((s.writeWindow key (mergeData (memBytes s.mem key d.bytes.length) d)).modJob pcn e j.id fun x =>
        { x with grant := .writing todo (waits.erase (.window key d)) }) := by
  simp only [State.performLine, hjob, hgrant]
  split
  · next k d' hfound =>
    cases hfound.symm.trans hwait
    simp [State.performWrite, htimed]
  · next hother => exact absurd hwait (hother key d)

theorem leavesBank_modJob {m : Mem} (f : Job → Job) :
    LeavesBank s (((popped s bank).setMem m).modJob pcn e j.id f) pcn bank ∧
      JobChanges s (((popped s bank).setMem m).modJob pcn e j.id f) pcn e j.id f :=
  ⟨⟨rfl, (onlyCore_modJob _ pcn e j.id f).others, bank_popped s bank⟩,
    jobChanges_modJob ((popped s bank).setMem m) pcn e j.id f⟩

@[simp] theorem length_mergeData (old : List Byte) (d : WriteData) : (mergeData old d).length = d.bytes.length :=
  length_bytesOfNat _ _

end

theorem jobLinesPerform : JobLinesPerform := by
  intro s bank pcn key name e j hhead hjob
  have hjob' : ((queueOf ((popped s bank).core pcn) e).find? fun x => x.id == j.id) = some j := hjob
  refine ⟨fun todo waits r hgrant hwait => ⟨_, gets_putBytes _ _, _,
    exec_accessPerform_line hhead (performLine_read hjob' hgrant hwait), ?_⟩,
    fun todo before after d hgrant hbefore htimed hfree => ?_⟩
  · obtain ⟨hleaves, hchanges⟩ := leavesBank_modJob (s := s) (bank := bank) (pcn := pcn) (e := e) (j := j) (m := s.mem) _
    exact ⟨hleaves, rfl, hchanges⟩
  · have hnot : JobWrite.window key d ∉ before := fun h => hbefore _ h d rfl
    have hwait : (before ++ .window key d :: after).find? (writesAt key) = some (.window key d) := by
      refine List.find?_eq_some_iff_append.2 ⟨by simp [writesAt], before, after, rfl, fun w hw => ?_⟩
      cases w with
      | window k d' =>
        have hk : k ≠ key := fun h => hbefore _ hw d' (h ▸ rfl)
        simpa [writesAt] using hk
      | latch => rfl
      | offchip => rfl
    have hstore := writeWindow_unwatched (s := popped s bank) (bs := mergeData (memBytes s.mem key d.bytes.length) d)
      (by rw [length_mergeData]; exact hfree)
    have hline := performLine_write (name := name) hjob' hgrant hwait htimed
    rw [List.erase_append_right _ hnot, List.erase_cons_head] at hline
    obtain ⟨hleaves, hchanges⟩ := leavesBank_modJob (s := s) (bank := bank) (pcn := pcn) (e := e) (j := j)
      (m := storeBytes key (mergeData (memBytes s.mem key d.bytes.length) d) s.mem) fun x =>
        { x with grant := .writing todo (before ++ after) }
    have hstored := hline.trans (congrArg (fun t : State => some (t.modJob pcn e j.id _)) hstore)
    exact ⟨_, exec_accessPerform_line hhead hstored, hleaves, rfl, hchanges⟩

/-! ## The arbiter (R229, R302) -/

theorem weight_pos (s : State) (pcn : Nat) (e : Engine) : 1 ≤ s.weight pcn e := by
  unfold State.weight
  split
  · split <;> omega
  · exact le_rfl

theorem weight_le (s : State) (pcn : Nat) (e : Engine) : s.weight pcn e ≤ 8 := by
  unfold State.weight
  split
  · split <;> omega
  · decide

/-- The cores of a cluster in rotation, from the one after a place on. -/
def rotation (p : Nat) : List Nat := (List.range 8).map fun i => (p + 1 + i) % 8

theorem mem_rotation {p k : Nat} (hk : k < 8) : k ∈ rotation p := by
  refine List.mem_map.2 ⟨(k + 7 * (p + 1)) % 8, List.mem_range.2 (by omega), by omega⟩

/-- The first core in rotation that passes a test. -/
theorem find?_rotation {p i : Nat} {ready : Nat → Bool} (h : (rotation p).find? ready = some i) :
    ready i = true ∧ ∃ k < 8, i = (p + 1 + k) % 8 ∧ ∀ m < k, ready ((p + 1 + m) % 8) = false := by
  obtain ⟨hready, n, hn, hat, hbefore⟩ := List.find?_eq_some_iff_getElem.1 h
  simp only [rotation, List.length_map, List.length_range, List.getElem_map, List.getElem_range] at hn hat hbefore
  exact ⟨hready, n, hn, hat.symm, fun m hm => by simpa using hbefore m hm⟩

theorem arbiterChoice : ArbiterChoice := by
  intro s cluster n i c e p ready stays
  have hpick : s.pickCore cluster e =
      if stays then some (p.1, p.2 + 1) else ((rotation p.1).find? ready).map fun i => (i, 1) := rfl
  refine ⟨fun hsome => ?_, fun hnone k hk => ?_, weight_pos s _ e, weight_le s _ e⟩
  · rw [hpick] at hsome
    by_cases hstays : stays = true
    · rw [if_pos hstays] at hsome
      obtain ⟨rfl, rfl⟩ := Prod.mk.inj (Option.some.inj hsome)
      obtain ⟨hready, hweight⟩ := Bool.and_eq_true_iff.1 hstays
      have hlt := of_decide_eq_true hweight
      exact ⟨hready, by omega, fun _ => ⟨rfl, rfl⟩, fun h => absurd hstays (Bool.eq_false_iff.1 h)⟩
    · rw [if_neg hstays] at hsome
      obtain ⟨x, hfind, hx⟩ := Option.map_eq_some_iff.1 hsome
      obtain ⟨rfl, rfl⟩ := Prod.mk.inj hx
      obtain ⟨hready, hrotation⟩ := find?_rotation hfind
      exact ⟨hready, le_max_left _ _, fun h => absurd h hstays, fun _ => ⟨rfl, hrotation⟩⟩
  · rw [hpick] at hnone
    by_cases hstays : stays = true
    · rw [if_pos hstays] at hnone
      cases hnone
    · rw [if_neg hstays, Option.map_eq_none_iff] at hnone
      simpa using List.find?_eq_none.1 hnone k (mem_rotation hk)

/-- Refutes O17: in a queue that holds two jobs under one ID, the step that starts the first job's grant changes each by what it
reads itself, where the statement has both read what the first reads. The lines at a bank's head and the arbiter's choice are as
stated. -/
theorem not_engineGrantsAndArbiter : ¬ Obligations.EngineGrantsAndArbiter := fun h => not_engineGrants h.1

end Sys2Proof.EngineGrants

/-!
PROOFS. The packets of events: what arrives goes to the home or to the slot that it names, and a list of packets sent leaves the rest
of the device alone (R82, R83, R342).
-/

namespace Sys2Proof.EventPackets
open Sys2Proof Sys2Proof.Machine Sys2Proof.Claims

/-! ## Packets that arrive -/

section
variable {s s1 : State} {n : Nat} {p : Packet}

theorem exec_offerHeader {idx gen : Nat} {h : Header} (ha : Arrives s n p s1) (hbody : p.body = .header idx gen h) :
    exec (.offerHeader n) s = .next (s1.takeHeader p.dst idx gen h p.colour) := by
  obtain ⟨cls, src, dst, colour, timed, body⟩ := p
  subst hbody
  change execOfferHeader n s = _
  rw [execOfferHeader, EmberTravel.arrive_eq ha]

theorem exec_claim {tid : Nat} {q : Claim} (ha : Arrives s n p s1) (hbody : p.body = .claim tid q) :
    exec (.claim n) s = .next (s1.takeClaim tid q p.colour) := by
  obtain ⟨cls, src, dst, colour, timed, body⟩ := p
  subst hbody
  change execClaim n s = _
  rw [execClaim, EmberTravel.arrive_eq ha]

theorem exec_claimAnswer {idx gen tid number : Nat} {granted : Bool} (ha : Arrives s n p s1)
    (hbody : p.body = if granted then .grant idx gen tid number else .refuse idx gen tid number) :
    exec (.claimAnswer n) s = .next (s1.takeAnswer p.dst idx gen tid number granted p.colour) := by
  obtain ⟨cls, src, dst, colour, timed, body⟩ := p
  subst hbody
  change execClaimAnswer n s = _
  rw [execClaimAnswer, EmberTravel.arrive_eq ha]
  cases granted <;> rfl

theorem exec_commitNotice {tid home idx gen vt number : Nat} (ha : Arrives s n p s1)
    (hbody : p.body = .commit tid home idx gen vt number) :
    exec (.commitNotice n) s = .next ((s1.takeCommit tid home idx gen vt number p.colour).getD s) := by
  obtain ⟨cls, src, dst, colour, timed, body⟩ := p
  subst hbody
  change execCommitNotice n s = _
  rw [execCommitNotice, EmberTravel.arrive_eq ha]

theorem exec_slotRelease {tid home idx gen number : Nat} (ha : Arrives s n p s1) (hbody : p.body = .release tid home idx gen number) :
    exec (.slotRelease n) s = .next (s1.takeRelease tid home idx number p.colour) := by
  obtain ⟨cls, src, dst, colour, timed, body⟩ := p
  subst hbody
  change execSlotRelease n s = _
  rw [execSlotRelease, EmberTravel.arrive_eq ha]

theorem exec_headerWithdrawal_withdraw {idx gen rank serial vt : Nat} {cause : WithdrawCause} (ha : Arrives s n p s1)
    (hbody : p.body = .withdraw idx gen rank serial vt cause) :
    exec (.headerWithdrawal n) s = .next (s1.takeWithdrawal p.dst idx gen rank serial vt cause) := by
  obtain ⟨cls, src, dst, colour, timed, body⟩ := p
  subst hbody
  change execHeaderWithdrawal n s = _
  rw [execHeaderWithdrawal, EmberTravel.arrive_eq ha]

theorem exec_headerWithdrawal_gone {tid home idx gen : Nat} (ha : Arrives s n p s1) (hbody : p.body = .headerGone tid home idx gen) :
    exec (.headerWithdrawal n) s = .next (s1.takeHeaderGone tid home idx gen) := by
  obtain ⟨cls, src, dst, colour, timed, body⟩ := p
  subst hbody
  change execHeaderWithdrawal n s = _
  rw [execHeaderWithdrawal, EmberTravel.arrive_eq ha]

end

theorem exec_offerTimeout {s : State} {tid d : Nat} (hdeadline : (s.ctx tid).offer.deadline = some d) (hdue : d ≤ s.now)
    (hparked : (s.ctx tid).parked = false) : exec (.offerTimeout tid) s = .next (s.timeOut tid) := by
  have hexec : exec (.offerTimeout tid) s = execOfferTimeout tid s := by rfl
  simp [hexec, execOfferTimeout, hdeadline, hdue, hparked]

/-! ## Packets that leave -/

/-- Packets have been sent, in the order of the list. -/
def sends (s : State) (ps : List Packet) : State := { s with net := s.net ++ ps }

@[simp] theorem sends_nil (s : State) : sends s [] = s := by simp [sends]

theorem sends_sends (s : State) (ps qs : List Packet) : sends (sends s ps) qs = sends s (ps ++ qs) := by
  simp [sends]

theorem post_eq_sends (s : State) (cls : PacketClass) (src dst : Nat) (colour : Option Nat) (body : Body) :
    s.post cls src dst colour body = sends s [packet cls src dst colour body] := rfl

/-- A packet sent for each element of a list. -/
theorem foldl_sends {α : Type} (g : α → Packet) (s : State) (xs : List α) :
    xs.foldl (fun t x => sends t [g x]) s = sends s (xs.map g) := by
  induction xs generalizing s with
  | nil => simp
  | cons x xs ih => rw [List.foldl_cons, ih, sends_sends, List.map_cons, List.singleton_append]

theorem tellRanks_eq_sends (s : State) (pcn : Nat) (e : ArbEntry) (ranks : List Nat) (body : Nat → Body) :
    s.tellRanks pcn e ranks body = sends s (tell s pcn e ranks body) :=
  foldl_sends (fun p : Nat × Nat × Nat => eventPacket s .reply pcn p.2.1 e (body p.2.1)) s _

theorem refuseQueued_eq_sends (s : State) (tid : Nat) (qs : List Claim) (colour : Option Nat) :
    s.refuseQueued tid qs colour =
      sends s (qs.map fun q => packet .reply (coreOfTid tid) q.home colour (.refuse q.entry q.gen tid q.number)) :=
  foldl_sends _ s qs

theorem withdrawHeaders_eq_sends (s : State) (tid : Nat) (keep : Option Nat) (cause : WithdrawCause) :
    s.withdrawHeaders tid keep cause = sends s (withdrawals s tid keep cause) := by
  rw [withdrawals, ← foldl_sends, List.foldl_filter, State.withdrawHeaders]
  congr 1
  funext t x
  by_cases h : some x.2 = keep
  · simp [h]
  · cases hgone : x.1.gone <;> simp [h]
    rfl

/-- A home sends the claim of a prompt event for the first rank that waits. -/
theorem sendClaim_eq_sends (s : State) (pcn idx number : Nat) (waiting : List Nat) (h : (s.entry pcn idx).desc.timed = false) :
    s.sendClaim pcn idx number waiting = sends s (match waiting with
      | r :: _ => claimOf s pcn idx number r (s.entry pcn idx)
      | [] => []) := by
  cases waiting with
  | nil => simp [State.sendClaim]
  | cons r rest =>
    unfold State.sendClaim claimOf
    dsimp only
    cases (s.entry pcn idx).desc.parties.find? fun p => p.1 == r with
    | none => simp
    | some p => simp only [State.postEvent, h]; rfl

end Sys2Proof.EventPackets

/-!
PROOFS. A home's look at an event (R83 to R85): what it begins, what it leaves, and what headers and answers make of its entry (O23,
O24).
-/

namespace Sys2Proof.HomeLooks
open Sys2Proof Sys2Proof.Machine Sys2Proof.Claims Sys2Proof.EventPackets

/-! ## One entry and the packets of its home -/

/-- Of the device only one entry has changed, into the given one, and packets have been sent. -/
def EntryNow (s t : State) (pcn idx : Nat) (e : ArbEntry) (ps : List Packet) : Prop :=
  OnlyEntry s t pcn idx ∧ t.entry pcn idx = e ∧ t.net = s.net ++ ps

namespace EntryNow
variable {s t : State} {pcn idx : Nat} {e : ArbEntry} {ps : List Packet}

theorem refl (s : State) (pcn idx : Nat) : EntryNow s s pcn idx (s.entry pcn idx) [] :=
  ⟨⟨rfl, fun _ _ => rfl, rfl, fun _ _ => rfl⟩, rfl, (List.append_nil _).symm⟩

theorem setEntry (h : EntryNow s t pcn idx e ps) (x : ArbEntry) : EntryNow s (t.setEntry pcn idx x) pcn idx x ps := by
  obtain ⟨⟨hdevice, hothers, hcore, hentries⟩, -, hnet⟩ := h
  refine ⟨⟨hdevice, fun k hk => ?_, ?_, fun k hk => ?_⟩, State.entry_setEntry_same t pcn idx x, hnet⟩
  · exact (State.core_modCore_other t hk _).trans (hothers k hk)
  · rw [State.setEntry, State.core_modCore_same]
    exact hcore
  · exact (State.entry_setEntry_other t (.inr hk) x).trans (hentries k hk)

theorem sends (h : EntryNow s t pcn idx e ps) (qs : List Packet) :
    EntryNow s (sends t qs) pcn idx e (ps ++ qs) := by
  obtain ⟨⟨hdevice, hothers, hcore, hentries⟩, hentry, hnet⟩ := h
  refine ⟨⟨hdevice, hothers, hcore, hentries⟩, hentry, ?_⟩
  rw [← List.append_assoc, ← hnet]
  rfl

theorem entry_eq (h : EntryNow s t pcn idx e ps) : t.entry pcn idx = e := by
  obtain ⟨-, hentry, -⟩ := h
  exact hentry

end EntryNow

/-- An entry replaced, and packets sent. -/
theorem entryNow_setEntry_sends (s : State) (pcn idx : Nat) (e : ArbEntry) (ps : List Packet) :
    EntryNow s (sends (s.setEntry pcn idx e) ps) pcn idx e ps :=
  ((EntryNow.refl s pcn idx).setEntry e).sends ps

theorem entryNow_setEntry (s : State) (pcn idx : Nat) (e : ArbEntry) : EntryNow s (s.setEntry pcn idx e) pcn idx e [] :=
  (EntryNow.refl s pcn idx).setEntry e

/-! ## What a look does -/

theorem mayCommit_prompt (s : State) {e : ArbEntry} (h : e.desc.timed = false) : s.mayCommit e = true := by
  simp [State.mayCommit, h]

/-- A header or a shadow of a participant of a timed event has not come (R95). -/
def Missing (e : ArbEntry) : Prop := ∃ q ∈ e.desc.parties, ∀ x ∈ e.headers ++ e.shadows, x.rank ≠ q.1

/-- Why a home that looks at an entry leaves it: it is not live or in resolution already, its launch is in wrap-up, or what it waits for
is not there (R83, R85, R95, R108). -/
inductive Rests (s : State) (pcn idx : Nat) (e : ArbEntry) : Prop where
  | ended (h : e.state ≠ .live)
  | resolving (h : e.resolution ≠ .idle)
  | barred (h : s.mayCommit e = false)
  | prompt (h : e.desc.timed = false)
      (hwaits : allHeaders e = false ∨ standingReady e = false ∨ s.keepsBound pcn idx e = false)
  | timed (h : e.desc.timed = true) (hwaits : Missing e)

section
variable {s : State} {pcn idx : Nat} {e : ArbEntry}

theorem tryResolve_rests (hentry : s.entry pcn idx = e) (h : Rests s pcn idx e) : s.tryResolve pcn idx = s := by
  unfold State.tryResolve
  dsimp only
  rw [hentry]
  cases h with
  | ended h => simp [h]
  | resolving h => simp [h]
  | barred h => simp [h]
  | prompt h hwaits =>
    have hnot : (allHeaders e && standingReady e && s.keepsBound pcn idx e) = false := by
      rcases hwaits with h | h | h <;> simp [h]
    simp [h, hnot]
  | timed h hwaits =>
    obtain ⟨q, hq, hnone⟩ := hwaits
    have hnot : (e.desc.parties.all fun p => (e.headers ++ e.shadows).any fun h => h.rank == p.1) = false := by
      refine Bool.eq_false_iff.2 fun hall => ?_
      obtain ⟨x, hx, hrank⟩ := List.any_eq_true.1 (List.all_eq_true.1 hall q hq)
      exact hnone x hx (beq_iff_eq.1 hrank)
    split
    · rfl
    · rw [if_neg (by simp [h]), hnot, Bool.not_false, if_pos rfl]

/-- A prompt event that is live and idle, with all that it needs, is ready to be resolved. -/
structure Ready (e : ArbEntry) : Prop where
  live : e.state = .live
  idle : e.resolution = .idle
  prompt : e.desc.timed = false
  headers : allHeaders e = true
  standing : standingReady e = true

theorem tryResolve_ready (hentry : s.entry pcn idx = e) (h : Ready e) :
    s.tryResolve pcn idx = if s.keepsBound pcn idx e then s.beginResolution pcn idx e else s := by
  simp [State.tryResolve, hentry, h.live, h.idle, h.prompt, h.headers, h.standing, mayCommit_prompt s h.prompt]

end

/-- An event whose resolution begins: every participant's slot is still to be claimed (R83). -/
def begun (e : ArbEntry) : ArbEntry :=
  { e with resolution := .claiming e.nextNumber [] (e.desc.parties.map Prod.fst) false, nextNumber := e.nextNumber + 1 }

/-- The first claim of its resolution. -/
def firstClaim (s : State) (pcn idx : Nat) (e : ArbEntry) : List Packet :=
  match e.desc.parties.map Prod.fst with
  | r :: _ => claimOf s pcn idx e.nextNumber r e
  | [] => []

theorem beginResolution_prompt (s : State) (pcn idx : Nat) {e : ArbEntry} (h : e.desc.timed = false) :
    s.beginResolution pcn idx e = sends (s.setEntry pcn idx (begun e)) (firstClaim s pcn idx e) := by
  have hentry : (s.setEntry pcn idx (begun e)).entry pcn idx = begun e := State.entry_setEntry_same ..
  have hclaim := sendClaim_eq_sends (s.setEntry pcn idx (begun e)) pcn idx e.nextNumber (e.desc.parties.map Prod.fst)
    (by rw [hentry]; exact h)
  rw [hentry] at hclaim
  exact hclaim

section
variable {s t : State} {pcn idx : Nat} {e : ArbEntry} {ps : List Packet}

/-- The home of an event that is ready begins or, while the bound of seven losses keeps it, waits (R85). -/
theorem EntryNow.tryResolve_ready (h : EntryNow s t pcn idx e ps) (hready : Ready e) :
    EntryNow s (t.tryResolve pcn idx) pcn idx (if t.keepsBound pcn idx e then begun e else e)
      (if t.keepsBound pcn idx e then ps ++ firstClaim t pcn idx e else ps) := by
  rw [HomeLooks.tryResolve_ready h.entry_eq hready]
  split
  · rw [beginResolution_prompt t pcn idx hready.prompt]
    exact (h.setEntry _).sends _
  · exact h

/-- The home of an event that it cannot begin leaves it. -/
theorem EntryNow.tryResolve_rests (h : EntryNow s t pcn idx e ps) (hrests : Rests t pcn idx e) :
    EntryNow s (t.tryResolve pcn idx) pcn idx e ps :=
  (HomeLooks.tryResolve_rests h.entry_eq hrests).symm ▸ h

end

/-! ## Headers (R83, R255) -/

section
variable (s : State) (pcn idx : Nat) (h : Header) (colour : Option Nat)

theorem takeHeader_stale {gen : Nat} (hstale : (s.entry pcn idx).state ≠ .live ∨ (s.entry pcn idx).gen ≠ gen) :
    s.takeHeader pcn idx gen h colour = sends (s.countStale pcn)
      [packet .reply pcn (coreOfTid h.tid) colour (.headerGone h.tid pcn idx gen)] := by
  unfold State.takeHeader
  dsimp only
  rw [if_pos (by simpa using hstale)]
  rfl

theorem takeHeader_withdrawn (hlive : (s.entry pcn idx).state = .live)
    (hgone : ((s.entry pcn idx).shadows.any fun x => x.rank == h.rank && x.serial == h.serial) = true)
    (hprompt : (s.entry pcn idx).desc.timed = false) :
    s.takeHeader pcn idx (s.entry pcn idx).gen h colour = s.setEntry pcn idx { s.entry pcn idx with
      shadows := (s.entry pcn idx).shadows.filter fun x => !(x.rank == h.rank && x.serial == h.serial) } := by
  unfold State.takeHeader
  dsimp only
  rw [if_neg (by simp [hlive]), if_pos hgone, hprompt]
  rfl

theorem takeHeader_kept (hlive : (s.entry pcn idx).state = .live)
    (hnew : ((s.entry pcn idx).shadows.any fun x => x.rank == h.rank && x.serial == h.serial) = false) :
    s.takeHeader pcn idx (s.entry pcn idx).gen h colour =
      (s.setEntry pcn idx (State.putHeader (s.entry pcn idx) h)).tryResolve pcn idx := by
  unfold State.takeHeader
  dsimp only
  rw [if_neg (by simp [hlive]), hnew]
  rfl

end

theorem headersArrive : HeadersArrive := by
  intro s s1 n idx gen p h home e e1 ranks kept ha hbody
  have hexec := exec_offerHeader ha hbody
  refine ⟨fun hstale => ⟨_, hexec, ?_⟩, ?_, ?_⟩
  · rw [takeHeader_stale s1 home idx h _ hstale]
    have hsame : (s1.countStale home).core home = _ := State.core_modCore_same s1 home _
    have hother (k : Nat) (hk : k ≠ home) : (s1.countStale home).core k = s1.core k := State.core_modCore_other s1 hk _
    exact ⟨rfl, hother, hsame, rfl⟩
  · rintro hlive rfl hgone hprompt
    refine ⟨_, hexec, ?_⟩
    rw [takeHeader_withdrawn s1 home idx h _ hlive hgone hprompt]
    exact entryNow_setEntry s1 home idx _
  · rintro hlive rfl hnew may
    rw [takeHeader_kept s1 home idx h _ hlive hnew] at hexec
    have hnow : EntryNow s1 (s1.setEntry home idx e1) home idx e1 [] := entryNow_setEntry s1 home idx e1
    refine ⟨fun hprompt hidle hheaders hstanding hmay => ⟨_, hexec, ?_⟩, fun hprompt hwaits => ⟨_, hexec, ?_⟩,
      fun htimed hmissing => ⟨_, hexec, hnow.tryResolve_rests (.timed htimed hmissing)⟩⟩
    · have hbegins := hnow.tryResolve_ready ⟨hlive, hidle, hprompt, hheaders, hstanding⟩
      rw [if_pos hmay, if_pos hmay] at hbegins
      exact hbegins
    · refine hnow.tryResolve_rests ?_
      rcases hwaits with h | h | h | h
      · exact .prompt hprompt (.inl h)
      · exact .prompt hprompt (.inr (.inl h))
      · exact .resolving h
      · exact .prompt hprompt (.inr (.inr h))

/-- Settles O23: a header that is kept becomes its rank's only one, and the home's look at the entry then begins the resolution exactly
when nothing keeps the entry at rest. -/
theorem headersBeginResolutions : Obligations.HeadersBeginResolutions := headersArrive

/-! ## Answers (R83, R84, R85) -/

section
variable (s : State) (pcn idx tid number : Nat) (colour : Option Nat) {rank : Nat} {done rest : List Nat} {counted : Bool}

theorem takeAnswer_grant_next {r : Nat} (hclaiming : (s.entry pcn idx).resolution = .claiming number done (rank :: r :: rest) counted) :
    s.takeAnswer pcn idx (s.entry pcn idx).gen tid number true colour =
      (s.setEntry pcn idx { s.entry pcn idx with
        resolution := .claiming number (done ++ [rank]) (r :: rest) counted }).sendClaim pcn idx number (r :: rest) := by
  simp [State.takeAnswer, hclaiming]

theorem takeAnswer_grant_last (hclaiming : (s.entry pcn idx).resolution = .claiming number done [rank] counted) :
    s.takeAnswer pcn idx (s.entry pcn idx).gen tid number true colour =
      if s.mayCommit (s.entry pcn idx) && allHeaders (s.entry pcn idx) then (s.commitEvent pcn idx number).startResults pcn idx
      else (s.setEntry pcn idx { s.entry pcn idx with resolution := .idle }).tellRanks pcn (s.entry pcn idx) (done ++ [rank])
        fun k => .release k pcn idx (s.entry pcn idx).gen number := by
  simp [State.takeAnswer, hclaiming]

theorem takeAnswer_refuse (hclaiming : (s.entry pcn idx).resolution = .claiming number done (rank :: rest) counted) :
    s.takeAnswer pcn idx (s.entry pcn idx).gen tid number false colour = s.abortEvent pcn idx := by
  simp [State.takeAnswer, hclaiming]

theorem takeAnswer_over {m : Nat} (hclaiming : (s.entry pcn idx).resolution = .claiming number done (rank :: rest) counted)
    (hm : m ≠ number) :
    s.takeAnswer pcn idx (s.entry pcn idx).gen tid m true colour =
      sends s [packet .reply pcn (coreOfTid tid) colour (.release tid pcn idx (s.entry pcn idx).gen m)] := by
  simp [State.takeAnswer, hclaiming, Ne.symm hm, post_eq_sends]

end

/-- An event after its commit: the occurrence takes the headers and the first standing offer. -/
def committed (e : ArbEntry) (number : Nat) : ArbEntry :=
  { e with
    resolution := .moving, loss := 0, headers := [], standing := e.standing.drop 1
    current := some ⟨number, if e.desc.timed = true then occurrenceVt e else 0, e.loss, e.headers, e.standing.head?, [], [], 0⟩ }

/-- An event after an abort: its loss is counted once for the resolution. -/
def aborted (e : ArbEntry) (counted : Bool) : ArbEntry :=
  { e with resolution := .idle, loss := if counted = true ∨ e.desc.timed = true then e.loss else min 15 (e.loss + 1) }

theorem commitEvent_eq (s : State) (pcn idx number : Nat) :
    s.commitEvent pcn idx number =
      let e := s.entry pcn idx
      let vt := if e.desc.timed = true then occurrenceVt e else 0
      sends (s.setEntry pcn idx (committed e number))
        (tell s pcn e (e.desc.parties.map Prod.fst) fun k => .commit k pcn idx e.gen vt number) := by
  rw [State.commitEvent, tellRanks_eq_sends]
  rfl

theorem startResults_awaiting {s : State} {pcn idx : Nat} (h : State.awaited (s.entry pcn idx) ≠ 0) :
    s.startResults pcn idx = s := if_neg h

theorem abortEvent_eq {s : State} {pcn idx number rank : Nat} {done rest : List Nat} {counted : Bool}
    (hclaiming : (s.entry pcn idx).resolution = .claiming number done (rank :: rest) counted) :
    s.abortEvent pcn idx =
      (sends (s.setEntry pcn idx (aborted (s.entry pcn idx) counted))
        (tell s pcn (s.entry pcn idx) done fun k => .release k pcn idx (s.entry pcn idx).gen number)).tryResolve pcn idx := by
  have hloss : (if counted then (s.entry pcn idx).loss else State.lossOf (s.entry pcn idx)) =
      if counted = true ∨ (s.entry pcn idx).desc.timed = true then (s.entry pcn idx).loss
      else min 15 ((s.entry pcn idx).loss + 1) := by
    cases counted <;> simp [State.lossOf, State.lossPlus]
  simp only [State.abortEvent, hclaiming, hloss, tellRanks_eq_sends]
  rfl

theorem answersReachHomes : AnswersReachHomes := by
  rintro s s1 n idx _ tid number rank p done rest counted home e loss after ha rfl hclaiming
  refine ⟨fun hgrant => ?_, fun hrefuse => ?_, fun m hm hgrant => ⟨_, exec_claimAnswer (granted := true) ha hgrant, ?_⟩⟩
  · have hexec := exec_claimAnswer (granted := true) ha hgrant
    refine ⟨?_, ?_, ?_⟩
    · rintro r u rfl hprompt
      rw [takeAnswer_grant_next s1 home idx tid number _ hclaiming, sendClaim_eq_sends _ _ _ _ _ (by
        rw [State.entry_setEntry_same]; exact hprompt), State.entry_setEntry_same] at hexec
      exact ⟨_, hexec, entryNow_setEntry_sends s1 home idx _ _⟩
    · rintro rfl hmay hheaders hawaited
      have hnow := entryNow_setEntry_sends s1 home idx (committed e number)
      rw [takeAnswer_grant_last s1 home idx tid number _ hclaiming, hmay, hheaders, Bool.and_self, if_pos rfl, commitEvent_eq,
        startResults_awaiting (by rw [(hnow _).entry_eq]; exact hawaited)] at hexec
      exact ⟨_, hexec, hnow _⟩
    · rintro rfl hwaits
      have hnot : (s1.mayCommit (s1.entry home idx) && allHeaders (s1.entry home idx)) = false := Bool.and_eq_false_iff.2 hwaits
      rw [takeAnswer_grant_last s1 home idx tid number _ hclaiming, hnot, if_neg Bool.false_ne_true, tellRanks_eq_sends] at hexec
      exact ⟨_, hexec, entryNow_setEntry_sends s1 home idx _ _⟩
  · have hexec := exec_claimAnswer (granted := false) ha hrefuse
    rw [takeAnswer_refuse s1 home idx tid number _ hclaiming, abortEvent_eq hclaiming] at hexec
    have hnow := entryNow_setEntry_sends s1 home idx (aborted e counted)
      (tell s1 home e done fun k => .release k home idx e.gen number)
    refine ⟨fun hrests => ⟨_, hexec, hnow.tryResolve_rests ?_⟩, fun hlive hprompt hheaders hstanding => ⟨_, hexec, ?_⟩⟩
    · rcases hrests with h | h | ⟨hprompt, h⟩ | ⟨htimed, h⟩
      · exact .ended h
      · exact .barred h
      · exact .prompt hprompt (h.imp_right .inl)
      · exact .timed htimed h
    · obtain ⟨honly, hentry, hnet⟩ := hnow.tryResolve_ready ⟨hlive, rfl, hprompt, hheaders, hstanding⟩
      refine ⟨honly, ?_⟩
      split at hentry
      · next hmay =>
        rw [if_pos hmay, ← List.append_assoc] at hnet
        exact .inr ⟨hentry, hnet⟩
      · next hmay =>
        rw [if_neg hmay] at hnet
        exact .inl ⟨hentry, hnet⟩
  · rw [takeAnswer_over s1 home idx tid number _ hclaiming hm]
    exact ⟨rfl, rfl⟩

end Sys2Proof.HomeLooks

/-!
PROOFS. Slots (R82, R85, R86, R92, R255): claims lock them, commits close them, releases pass them on, and timeouts and withdrawals end
their offers (O24, O25).
-/

namespace Sys2Proof.Slots
open Sys2Proof Sys2Proof.Machine Sys2Proof.Claims Sys2Proof.EventPackets Sys2Proof.HomeLooks

/-! ## One context and the packets of its slot -/

/-- Of the device only one context has changed, into the given one, and packets have been sent. -/
def CtxNow (s t : State) (tid : Nat) (c : Ctx) (ps : List Packet) : Prop :=
  OnlyCtxNet s t tid ∧ t.ctx tid = c ∧ t.net = s.net ++ ps

namespace CtxNow
variable {s t : State} {tid : Nat} {c : Ctx} {ps : List Packet}

theorem refl (s : State) (tid : Nat) : CtxNow s s tid (s.ctx tid) [] :=
  ⟨⟨rfl, fun _ _ => rfl⟩, rfl, (List.append_nil _).symm⟩

theorem setCtx (h : CtxNow s t tid c ps) (x : Ctx) : CtxNow s (t.setCtx tid x) tid x ps := by
  obtain ⟨⟨hdevice, hothers⟩, -, hnet⟩ := h
  exact ⟨⟨hdevice, fun k hk => (State.ctx_setCtx_other t hk x).trans (hothers k hk)⟩, State.ctx_setCtx_same t tid x, hnet⟩

theorem sends (h : CtxNow s t tid c ps) (qs : List Packet) : CtxNow s (sends t qs) tid c (ps ++ qs) := by
  obtain ⟨⟨hdevice, hothers⟩, hctx, hnet⟩ := h
  refine ⟨⟨hdevice, hothers⟩, hctx, ?_⟩
  rw [← List.append_assoc, ← hnet]
  rfl

theorem ctx_eq (h : CtxNow s t tid c ps) : t.ctx tid = c := by
  obtain ⟨-, hctx, -⟩ := h
  exact hctx

end CtxNow

theorem ctxNow_setCtx_sends (s : State) (tid : Nat) (c : Ctx) (ps : List Packet) :
    CtxNow s (sends (s.setCtx tid c) ps) tid c ps :=
  ((CtxNow.refl s tid).setCtx c).sends ps

/-! ## What an offer lists -/

/-- An entry of an offer names an event that is not gone. -/
def namesEvent (home idx gen : Nat) (x : OfferEntry) : Bool := x.home == home && x.entry == idx && x.gen == gen && !x.gone

theorem namesEvent_iff {home idx gen : Nat} {x : OfferEntry} :
    namesEvent home idx gen x = true ↔ x.home = home ∧ x.entry = idx ∧ x.gen = gen ∧ x.gone = false := by
  simp [namesEvent, and_assoc]

theorem listed?_isSome (o : OfferSlot) (home idx gen : Nat) :
    (State.listed? o home idx gen).isSome = o.entries.any (namesEvent home idx gen) := by
  have hfirst : o.entries.findIdx (namesEvent home idx gen) < o.entries.length ↔ o.entries.any (namesEvent home idx gen) = true := by
    rw [List.findIdx_lt_length, List.any_eq_true]
  unfold State.listed?
  change (if o.entries.findIdx (namesEvent home idx gen) < o.entries.length then _ else _ : Option Nat).isSome = _
  split
  · next h => exact (hfirst.1 h).symm
  · next h => exact (Bool.eq_false_iff.2 (h ∘ hfirst.2)).symm

/-- The first entry that names an event is the one that lists it. -/
theorem listed?_eq_some {o : OfferSlot} {home idx gen i : Nat} {x : OfferEntry} (hat : o.entries[i]? = some x)
    (hnames : namesEvent home idx gen x = true) (hbefore : ∀ y ∈ o.entries.take i, namesEvent home idx gen y = false) :
    State.listed? o home idx gen = some i := by
  obtain ⟨hi, rfl⟩ := List.getElem?_eq_some_iff.1 hat
  have hfirst : o.entries.findIdx (namesEvent home idx gen) = i :=
    (List.findIdx_eq hi).2 ⟨hnames, fun j hj => hbefore _ (List.mem_take_iff_getElem.2 ⟨j, by omega, rfl⟩)⟩
  unfold State.listed?
  change (if o.entries.findIdx (namesEvent home idx gen) < o.entries.length then _ else _ : Option Nat) = _
  rw [hfirst, if_pos hi]
  exact congrArg some hfirst

/-! ## Claims (R82) -/

/-- The offer lists a claim's event, by the header that the claim names. -/
def Lists (o : OfferSlot) (q : Claim) : Prop :=
  o.serial = q.serial ∧ ∃ x ∈ o.entries, x.home = q.home ∧ x.entry = q.entry ∧ x.gen = q.gen ∧ x.gone = false

theorem lists_iff (o : OfferSlot) (q : Claim) :
    ((State.listed? o q.home q.entry q.gen).isSome && o.serial == q.serial) = true ↔ Lists o q := by
  rw [listed?_isSome, Bool.and_eq_true, List.any_eq_true, beq_iff_eq, and_comm]
  simp only [namesEvent_iff, Lists]

section
variable {s : State} {tid : Nat} {q : Claim} (colour : Option Nat)

theorem takeClaim_granted (hopen : (s.ctx tid).offer.state = .opened) (hlists : Lists (s.ctx tid).offer q) :
    s.takeClaim tid q colour = sends (s.setCtx tid { s.ctx tid with
      offer := { (s.ctx tid).offer with state := .locked q.home q.entry q.number } })
      [packet .reply (coreOfTid tid) q.home colour (.grant q.entry q.gen tid q.number)] := by
  simp only [State.takeClaim, (lists_iff _ _).2 hlists, hopen, if_true]
  rfl

theorem takeClaim_queued {a b m : Nat} (hlocked : (s.ctx tid).offer.state = .locked a b m) (hlists : Lists (s.ctx tid).offer q) :
    s.takeClaim tid q colour = s.setCtx tid { s.ctx tid with
      offer := { (s.ctx tid).offer with queued := (s.ctx tid).offer.queued ++ [q] } } := by
  simp only [State.takeClaim, (lists_iff _ _).2 hlists, hlocked, if_true]

theorem takeClaim_refused (h : ¬ Lists (s.ctx tid).offer q ∨ (s.ctx tid).offer.state = .closed ∨
      ∃ i, (s.ctx tid).offer.state = .committed i) :
    s.takeClaim tid q colour =
      sends s [packet .reply (coreOfTid tid) q.home colour (.refuse q.entry q.gen tid q.number)] := by
  rcases h with h | h | ⟨i, h⟩
  · have hnot := Bool.eq_false_iff.2 (h ∘ (lists_iff _ _).1)
    simp only [State.takeClaim, hnot, Bool.false_eq_true, if_false]
    split <;> rfl
  · simp only [State.takeClaim, h]
    rfl
  · simp only [State.takeClaim, h]
    rfl

end

theorem claimsReachSlots : ClaimsReachSlots := by
  intro s s1 n tid p q c o lists reply ha hbody
  have hexec := exec_claim ha hbody
  refine ⟨fun hopen hlists => ⟨_, hexec, ?_⟩, fun hrefuses => ⟨_, hexec, ?_⟩, fun a b m hlocked hlists => ⟨_, hexec, ?_⟩⟩
  · rw [takeClaim_granted _ hopen hlists]
    exact ctxNow_setCtx_sends s1 tid _ _
  · rw [takeClaim_refused _ (hrefuses.imp_left And.right)]
    exact ⟨rfl, rfl⟩
  · rw [takeClaim_queued _ hlocked hlists]
    exact ⟨⟨rfl, fun _ hk => State.ctx_setCtx_other s1 hk _⟩, State.ctx_setCtx_same s1 tid _, rfl⟩

/-- Settles O24: a slot answers a claim by its own state and its list alone; at the home, the answers move the resolution along its
ranks to the commit or the abort. -/
theorem claimsAndAnswers : Obligations.ClaimsAndAnswers := ⟨claimsReachSlots, answersReachHomes⟩

/-! ## Commits (R82, R94, R96) -/

/-- A context whose slot has closed on an entry of its offer. -/
def closedOn (c : Ctx) (i : Nat) : Ctx := { c with offer := { c.offer with state := .committed i, queued := [] } }

/-- The refusals of claims that a slot keeps. -/
def refusals (tid : Nat) (colour : Option Nat) (qs : List Claim) : List Packet :=
  qs.map fun q => packet .reply (coreOfTid tid) q.home colour (.refuse q.entry q.gen tid q.number)

/-- A slot has closed on an entry, its other headers are withdrawn, and the claims that it keeps are refused. -/
def closeSlot (s : State) (tid i : Nat) (colour : Option Nat) : State :=
  sends (s.setCtx tid (closedOn (s.ctx tid) i))
    (withdrawals s tid (some i) .commit ++ refusals tid colour (s.ctx tid).offer.queued)

/-- A contributor's source bytes go to the home (R88). -/
def contribute (s u : State) (tid home idx gen vt number : Nat) (x : OfferEntry) : State :=
  if contributes (s.entry home idx).desc x.role then
    u.postEvent .payload (coreOfTid tid) home (s.entry home idx).launch x.timed vt
      (.contribution idx gen number [(s.rankOf tid, s.sourceBytes tid x)])
  else u

section
variable {s : State} {tid home idx gen vt number i : Nat} {x : OfferEntry} (colour : Option Nat)
  (hlocked : (s.ctx tid).offer.state = .locked home idx number) (hlisted : State.listed? (s.ctx tid).offer home idx gen = some i)
  (hat : (s.ctx tid).offer.entries[i]? = some x)
include hlocked hlisted hat

theorem takeCommit_prompt (hprompt : x.timed = false) :
    s.takeCommit tid home idx gen vt number colour =
      some (contribute s (closeSlot s tid i colour) tid home idx gen vt number x) := by
  simp only [State.takeCommit, hlisted, hlocked, hat, hprompt, withdrawHeaders_eq_sends, refuseQueued_eq_sends, sends_sends,
    contribute, ne_eq, not_true_eq_false, Bool.false_and, Bool.false_eq_true, if_false]
  split <;> rfl

theorem takeCommit_full (htimed : x.timed = true) (hfull : State.checkpointFree s tid = false) :
    s.takeCommit tid home idx gen vt number colour = none := by
  simp [State.takeCommit, hlisted, hlocked, hat, htimed, hfull]

/-- A timed process takes its checkpoint, with a record of the occurrence, and its VT. -/
theorem takeCommit_timed (htimed : x.timed = true) (hfree : State.checkpointFree s tid = true) :
    ∃ o : Occ, o.vt = vt ∧ s.takeCommit tid home idx gen vt number colour =
      some (contribute s (((closeSlot s tid i colour).writeCheckpoint tid i x.handle o).modProc (s.ctx tid).proc
        fun p => { p with lvt := vt, careful := false }) tid home idx gen vt number x) := by
  refine ⟨⟨0, vt, ((State.occurrence? (s.entry home idx) number).map Occurrence.loss).getD 0, home, idx, gen, number,
    ((s.ctx tid).offer.entries.filter fun y => y.timed && !y.gone).map OfferEntry.timedOffer,
    ((State.occurrence? (s.entry home idx) number).bind Occurrence.standing).map fun y => (y.vt, y.source)⟩, rfl, ?_⟩
  simp only [State.takeCommit, hlisted, hlocked, hat, htimed, hfree, withdrawHeaders_eq_sends, refuseQueued_eq_sends, sends_sends,
    contribute, ne_eq, not_true_eq_false, Bool.not_true, Bool.and_false, Bool.false_eq_true, if_false, if_true]
  split <;> rfl

end

/-- A contribution is a packet, and changes no context, process or memory. -/
structure Contributed (u t : State) (bodies : List Body) : Prop where
  ctx : ∀ k, t.ctx k = u.ctx k
  proc : ∀ k, t.proc k = u.proc k
  mem : t.mem = u.mem
  net : ∃ ps : List Packet, t.net = u.net ++ ps ∧ ps.map Packet.body = bodies

theorem contributed_postEvent (u : State) (cls : PacketClass) (src dst launch : Nat) (timed : Bool) (vt : Nat) (body : Body) :
    Contributed u (u.postEvent cls src dst launch timed vt body) [body] := by
  unfold State.postEvent
  split <;> exact ⟨fun _ => rfl, fun _ => rfl, rfl, _, rfl, rfl⟩

theorem contributed_contribute (s u : State) (tid home idx gen vt number : Nat) (x : OfferEntry) :
    Contributed u (contribute s u tid home idx gen vt number x)
      (if contributes (s.entry home idx).desc x.role = true then
        [.contribution idx gen number [(s.rankOf tid, s.sourceBytes tid x)]] else []) := by
  unfold contribute
  split
  · exact contributed_postEvent ..
  · exact ⟨fun _ => rfl, fun _ => rfl, rfl, [], (List.append_nil _).symm, rfl⟩

/-- The contribution of a prompt process is no timed packet. -/
theorem contribute_prompt (s u : State) (tid home idx gen vt number : Nat) {x : OfferEntry} (h : x.timed = false) :
    contribute s u tid home idx gen vt number x = sends u (if contributes (s.entry home idx).desc x.role = true then
      [packet .payload (coreOfTid tid) home (u.launchColour (s.entry home idx).launch)
        (.contribution idx gen number [(s.rankOf tid, s.sourceBytes tid x)])] else []) := by
  unfold contribute
  split
  · rw [h]
    rfl
  · rw [sends_nil]

theorem checkpointBytes_sends (s : State) (ps : List Packet) (tid vt handle index : Nat) :
    checkpointBytes (sends s ps) tid vt handle index = checkpointBytes s tid vt handle index := by
  unfold checkpointBytes
  rfl

section
variable (s : State) (tid i : Nat) (h : BitVec 32) (o : Occ)

theorem ctx_writeCheckpoint_same : (s.writeCheckpoint tid i h o).ctx tid = { s.ctx tid with
    ckpos := setField (s.ctx tid).ckpos 16 12 (ckLive (s.ctx tid) + 1), ckseq := (s.ctx tid).ckseq + 1 } := by
  unfold State.writeCheckpoint
  rw [State.ctx_modProc, State.ctx_setCtx_same]

theorem ctx_writeCheckpoint_other {k : Nat} (hk : k ≠ tid) : (s.writeCheckpoint tid i h o).ctx k = s.ctx k := by
  unfold State.writeCheckpoint
  rw [State.ctx_modProc, State.ctx_setCtx_other _ hk, State.ctx_setMem]

theorem mem_writeCheckpoint : (s.writeCheckpoint tid i h o).mem =
    memWrite (ckEntryKey tid (s.ctx tid) (ckHead (s.ctx tid) + ckLive (s.ctx tid)))
      (checkpointBytes s tid o.vt h.toNat i) s.mem := by
  unfold State.writeCheckpoint
  rw [State.modProc_mem, State.setCtx_mem]
  simp only [State.setMem_mem]

theorem net_writeCheckpoint : (s.writeCheckpoint tid i h o).net = s.net := by
  unfold State.writeCheckpoint
  simp

theorem ckEntryKey_closedOn (c : Ctx) (k : Nat) : ckEntryKey tid (closedOn c i) k = ckEntryKey tid c k := by
  unfold ckEntryKey
  rfl

theorem ckLive_closedOn (c : Ctx) : ckLive (closedOn c i) = ckLive c := by
  unfold ckLive
  rfl

theorem ckHead_closedOn (c : Ctx) : ckHead (closedOn c i) = ckHead c := by
  unfold ckHead
  rfl

end

/-- A slot that closes changes its context, and sends its withdrawals and refusals. -/
theorem ctxNow_closeSlot (s : State) (tid i : Nat) (colour : Option Nat) :
    CtxNow s (closeSlot s tid i colour) tid (closedOn (s.ctx tid) i)
      (withdrawals s tid (some i) .commit ++ refusals tid colour (s.ctx tid).offer.queued) :=
  ctxNow_setCtx_sends s tid _ _

theorem launchColour_closeSlot (s : State) (tid i : Nat) (colour : Option Nat) (l : Nat) :
    (closeSlot s tid i colour).launchColour l = s.launchColour l := rfl

theorem mem_closeSlot (s : State) (tid i : Nat) (colour : Option Nat) : (closeSlot s tid i colour).mem = s.mem := rfl

theorem commitsReachSlots : CommitsReachSlots := by
  intro s s1 n tid home idx gen vt number i p x c e refuse data closed ha hbody hlocked hat hhome hentry hgen hgone hbefore
  have hlisted : State.listed? c.offer home idx gen = some i :=
    listed?_eq_some hat (namesEvent_iff.2 ⟨hhome, hentry, hgen, hgone⟩)
      fun y hy => Bool.eq_false_iff.2 fun h => hbefore y hy (namesEvent_iff.1 h)
  have hexec := exec_commitNotice ha hbody
  have hclose := ctxNow_closeSlot s1 tid i p.colour
  refine ⟨fun hprompt => ?_, fun htimed hfree => ?_, fun htimed hfull => ?_⟩
  · rw [takeCommit_prompt _ hlocked hlisted hat hprompt, contribute_prompt _ _ _ _ _ _ _ _ hprompt] at hexec
    rw [launchColour_closeSlot] at hexec
    obtain ⟨⟨hdevice, hothers⟩, hctx, hnet⟩ := hclose
    exact ⟨_, hexec, ⟨hdevice, hothers⟩, hctx, congrArg (· ++ _) (hnet.trans (List.append_assoc _ _ _).symm)⟩
  · obtain ⟨o, rfl, htake⟩ := takeCommit_timed (vt := vt) p.colour hlocked hlisted hat htimed hfree
    rw [htake] at hexec
    obtain ⟨⟨-, hothers⟩, hctx, hnet⟩ := hclose
    obtain ⟨hcontext, hproc, hmem, ps, hps, hbodies⟩ := contributed_contribute s1 (((closeSlot s1 tid i p.colour).writeCheckpoint
      tid i x.handle o).modProc c.proc fun q => { q with lvt := o.vt, careful := false }) tid home idx gen o.vt number x
    refine ⟨_, hexec, ?_, ?_, fun k hk => ?_, ?_, ?_⟩ <;> rw [Option.getD_some]
    · rw [hcontext, State.ctx_modProc, ctx_writeCheckpoint_same, hctx, ckLive_closedOn]
      rfl
    · rw [hproc, State.modProc, State.proc_setProc_same]
    · rw [hcontext, State.ctx_modProc, ctx_writeCheckpoint_other _ _ _ _ _ hk, hothers k hk]
    · rw [hmem, State.modProc_mem, mem_writeCheckpoint, hctx, ckEntryKey_closedOn, ckLive_closedOn, ckHead_closedOn, mem_closeSlot,
        closeSlot, checkpointBytes_sends]
      rfl
    · rw [hps, State.modProc_net, net_writeCheckpoint, hnet, List.append_assoc, List.drop_left, List.map_append, hbodies]
      rfl
  · rw [takeCommit_full _ hlocked hlisted hat htimed hfull] at hexec
    exact ⟨_, hexec, rfl⟩

/-! ## Releases (R82, R85) -/

theorem mem_of_bestClaim {q : Claim} : ∀ {qs : List Claim}, State.bestClaim qs = some q → q ∈ qs
  | [], h => by simp [State.bestClaim] at h
  | x :: qs, h => by
    rw [State.bestClaim] at h
    cases hrest : State.bestClaim qs with
    | none =>
      simp only [hrest, Option.some.injEq] at h
      exact h ▸ List.mem_cons_self
    | some r =>
      simp only [hrest] at h
      split at h
      · exact List.mem_cons_of_mem _ (Option.some.inj h ▸ mem_of_bestClaim hrest)
      · exact Option.some.inj h ▸ List.mem_cons_self

/-- The best claim has the highest loss count and is the first of its equals. -/
theorem bestClaim_eq_some {q : Claim} {after : List Claim} (hafter : ∀ r ∈ after, r.loss ≤ q.loss) {before : List Claim}
    (hbefore : ∀ r ∈ before, r.loss < q.loss) : State.bestClaim (before ++ q :: after) = some q := by
  induction before with
  | nil =>
    rw [List.nil_append, State.bestClaim]
    cases hrest : State.bestClaim after with
    | none => rfl
    | some r => exact if_neg (Nat.not_lt.2 (hafter r (mem_of_bestClaim hrest)))
  | cons x before ih =>
    rw [List.cons_append, State.bestClaim, ih fun r hr => hbefore r (List.mem_cons_of_mem _ hr)]
    exact if_pos (hbefore x List.mem_cons_self)

/-- An Open slot that still has an event to wait for stays open. -/
theorem reopened_stays {s : State} {tid : Nat} (hlisted : ∃ x ∈ (s.ctx tid).offer.entries, x.gone = false)
    (hintime : (s.ctx tid).offer.timedOut = false) :
    s.reopened tid = s.setCtx tid { s.ctx tid with offer := { (s.ctx tid).offer with state := .opened } } := by
  obtain ⟨x, hx, hgone⟩ := hlisted
  have hsome : (s.ctx tid).offer.entries.all (·.gone) = false :=
    Bool.eq_false_iff.2 fun hall => by simp [List.all_eq_true.1 hall x hx] at hgone
  simp [State.reopened, hsome, hintime]

/-- An offer lists the event of a claim. -/
def listsClaim (o : OfferSlot) (q : Claim) : Bool := o.entries.any (namesEvent q.home q.entry q.gen)

theorem listed?_isSome_claim (o : OfferSlot) (q : Claim) : (State.listed? o q.home q.entry q.gen).isSome = listsClaim o q :=
  listed?_isSome ..

theorem CtxNow.reopened_stays {s t : State} {tid : Nat} {c : Ctx} {ps : List Packet} (h : CtxNow s t tid c ps)
    (hlisted : ∃ x ∈ c.offer.entries, x.gone = false) (hintime : c.offer.timedOut = false) :
    CtxNow s (t.reopened tid) tid { c with offer := { c.offer with state := .opened } } ps := by
  have hctx : t.ctx tid = c := h.ctx_eq
  rw [Slots.reopened_stays (hctx ▸ hlisted) (hctx ▸ hintime), hctx]
  exact h.setCtx _

section
variable {s : State} {tid home idx number : Nat} (colour : Option Nat)
  (hlocked : (s.ctx tid).offer.state = .locked home idx number)
include hlocked

theorem takeRelease_granted {q : Claim}
    (hbest : State.bestClaim ((s.ctx tid).offer.queued.filter (listsClaim (s.ctx tid).offer)) = some q) :
    s.takeRelease tid home idx number colour =
      let o := (s.ctx tid).offer
      sends (s.setCtx tid { s.ctx tid with offer := { o with
          state := .locked q.home q.entry q.number, queued := (o.queued.filter (listsClaim o)).filter (· != q) } })
        (refusals tid colour (o.queued.filter fun q => !listsClaim o q) ++
          [packet .reply (coreOfTid tid) q.home colour (.grant q.entry q.gen tid q.number)]) := by
  simp only [State.takeRelease, hlocked, ne_eq, not_true_eq_false, if_false, listed?_isSome_claim, hbest, refuseQueued_eq_sends]
  rw [← sends_sends]
  rfl

theorem takeRelease_reopens (hnone : (s.ctx tid).offer.queued.filter (listsClaim (s.ctx tid).offer) = []) :
    s.takeRelease tid home idx number colour =
      ((sends s (refusals tid colour ((s.ctx tid).offer.queued.filter fun q => !listsClaim (s.ctx tid).offer q))).setCtx tid
        { s.ctx tid with offer := { (s.ctx tid).offer with state := .opened, queued := [] } }).reopened tid := by
  simp only [State.takeRelease, hlocked, ne_eq, not_true_eq_false, if_false, listed?_isSome_claim, hnone, State.bestClaim,
    refuseQueued_eq_sends]
  rfl

end

/-! ## Deadlines (R86) -/

theorem closeOffer_returns (s : State) (tid : Nat) :
    s.closeOffer tid true = sends (s.setCtx tid (returned (s.ctx tid))) (withdrawals s tid none .timeout) := by
  have hreturned (c : Ctx) : (Ctx.setG { c with offer := .none, wait := .none, status := .ready, held := none } c.offer.dest
      (BitVec.allOnes 64)).advance = returned c := by
    unfold returned Ctx.setG
    split <;> rfl
  rw [State.closeOffer, withdrawHeaders_eq_sends]
  simp only [State.modCtx, if_true, hreturned]
  rfl

theorem timeOut_opened {s : State} {tid : Nat} (hopen : (s.ctx tid).offer.state = .opened) :
    s.timeOut tid = s.closeOffer tid true := by
  simp only [State.timeOut, hopen]

theorem timeOut_locked {s : State} {tid a b m : Nat} (hlocked : (s.ctx tid).offer.state = .locked a b m) :
    s.timeOut tid = s.setCtx tid { s.ctx tid with offer := { (s.ctx tid).offer with timedOut := true } } := by
  simp only [State.timeOut, hlocked]

theorem slotsAreReleased : SlotsAreReleased := by
  intro s s1 n tid home idx gen number p
  refine ⟨?_, ?_⟩
  · intro ha hbody c o listed live refuse hlocked
    have hexec := exec_slotRelease ha hbody
    refine ⟨fun before q after hlive hbefore hafter => ?_, fun hnone hintime hlisted => ?_⟩
    · have hbest : State.bestClaim live = some q := hlive ▸ bestClaim_eq_some hafter hbefore
      rw [takeRelease_granted _ hlocked hbest] at hexec
      obtain ⟨honly, hctx, hnet⟩ := ctxNow_setCtx_sends s1 tid { c with offer := { o with
        state := .locked q.home q.entry q.number, queued := live.filter (· != q) } } (refuse ++
          [packet .reply (coreOfTid tid) q.home p.colour (.grant q.entry q.gen tid q.number)])
      exact ⟨_, hexec, honly, hctx, hnet.trans (List.append_assoc _ _ _).symm⟩
    · have hnow := ((CtxNow.refl s1 tid).sends refuse).setCtx { c with offer := { o with state := .opened, queued := [] } }
      rw [takeRelease_reopens _ hlocked hnone] at hexec
      obtain ⟨honly, hctx, hnet⟩ := hnow.reopened_stays hlisted hintime
      exact ⟨_, hexec, honly, hnet, hctx⟩
  · intro c d hdeadline hdue hparked
    have hexec := exec_offerTimeout hdeadline hdue hparked
    refine ⟨fun hopen => ⟨_, hexec, ?_⟩, fun a b m hlocked => ⟨_, hexec, ?_⟩⟩
    · rw [timeOut_opened hopen, closeOffer_returns]
      exact ctxNow_setCtx_sends s tid _ _
    · rw [timeOut_locked hlocked]
      exact ⟨⟨rfl, fun _ hk => State.ctx_setCtx_other s hk _⟩, rfl, State.ctx_setCtx_same s tid _⟩

/-! ## Withdrawals (R82, R85) -/

/-- The header of an offer of a rank. -/
def isHeader (rank serial : Nat) (h : Header) : Bool := h.rank == rank && h.serial == serial

/-- What a prompt event remembers of a withdrawal: nothing when its header was there (R82). -/
def overtaken (e : ArbEntry) (rank serial vt : Nat) : List Header :=
  if e.headers.any (isHeader rank serial) = true then []
  else ((e.desc.parties.find? fun q => q.1 == rank).map fun q => (⟨rank, q.2.1, 0, vt, serial⟩ : Header)).toList

/-- A withdrawal by another event's commit is a loss of an event whose headers are all there (R85). -/
def loses (e : ArbEntry) (cause : WithdrawCause) (counted : Bool) : Bool :=
  decide (cause = .commit) && allHeaders e && !counted

/-- An event with the loss of a withdrawal counted, once for its resolution (R85). -/
def lossCounted (e : ArbEntry) (cause : WithdrawCause) : ArbEntry :=
  match e.resolution with
  | .claiming n done rest counted => { e with
      resolution := .claiming n done rest (counted || loses e cause counted)
      loss := if loses e cause counted = true then min 15 (e.loss + 1) else e.loss }
  | .idle | .moving => e

theorem lossCounted_idle {e : ArbEntry} (cause : WithdrawCause) (h : e.resolution = .idle) : lossCounted e cause = e := by
  simp only [lossCounted, h]

theorem lossCounted_claiming {e : ArbEntry} (cause : WithdrawCause) {number : Nat} {done rest : List Nat} {counted : Bool}
    (h : e.resolution = .claiming number done rest counted) : lossCounted e cause = { e with
      resolution := .claiming number done rest (counted || loses e cause counted)
      loss := if loses e cause counted = true then min 15 (e.loss + 1) else e.loss } := by
  simp only [lossCounted, h]

/-- A prompt event that a header has left. -/
def withdrawn (e : ArbEntry) (rank serial vt : Nat) (cause : WithdrawCause) : ArbEntry :=
  { lossCounted e cause with
    headers := e.headers.filter fun h => !isHeader rank serial h, shadows := e.shadows ++ overtaken e rank serial vt }

theorem takeWithdrawal_prompt {s : State} {pcn idx : Nat} {e : ArbEntry} (rank serial vt : Nat) (cause : WithdrawCause)
    (hentry : s.entry pcn idx = e) (hkept : e.state ≠ .free) (hprompt : e.desc.timed = false) :
    s.takeWithdrawal pcn idx e.gen rank serial vt cause =
      (s.setEntry pcn idx (withdrawn e rank serial vt cause)).tryResolve pcn idx := by
  unfold State.takeWithdrawal
  dsimp only
  rw [hentry, if_neg (by simpa using hkept)]
  refine (congrArg (fun x : ArbEntry => State.tryResolve (s.setEntry pcn idx { x with headers := _, shadows := _ }) pcn idx)
    (?_ : _ = lossCounted e cause)).trans ?_
  · cases hresolution : e.resolution with
    | idle => exact (lossCounted_idle cause hresolution).symm
    | moving => simp only [lossCounted, hresolution]
    | claiming n done rest counted =>
      rw [lossCounted_claiming cause hresolution]
      cases counted with
      | true => simp [loses, ← hresolution]
      | false =>
        by_cases hloses : cause = .commit ∧ allHeaders e = true
        · simp [loses, hloses, State.lossOf, State.lossPlus, hprompt]
        · rcases not_and_or.1 hloses with h | h <;> simp [loses, h, ← hresolution]
  · unfold withdrawn
    refine congrArg (fun x : List Header => State.tryResolve (s.setEntry pcn idx { lossCounted e cause with
      headers := e.headers.filter fun h => !(h.rank == rank && h.serial == serial), shadows := e.shadows ++ x }) pcn idx)
      (?_ : _ = overtaken e rank serial vt)
    unfold overtaken
    by_cases hthere : e.headers.any (isHeader rank serial) = true
    · rw [if_pos hthere]
      exact if_pos (by rw [hprompt]; exact hthere)
    · have hnone : e.headers.find? (fun h => h.rank == rank && h.serial == serial) = none :=
        List.find?_eq_none.2 fun h hh hsame => hthere (List.any_eq_true.2 ⟨h, hh, hsame⟩)
      rw [if_neg hthere, if_neg (by rw [hprompt]; exact hthere), hnone]
      cases e.desc.parties.find? fun q => q.1 == rank <;> rfl

/-! ## Slots whose event is gone (R92, R255) -/

/-- An offer whose entries for an event are gone. -/
def without (home idx gen : Nat) (o : OfferSlot) : OfferSlot :=
  { o with entries := o.entries.map fun x =>
      if x.home = home ∧ x.entry = idx ∧ x.gen = gen then { x with gone := true } else x }

/-- A context that can trap enters its handler. -/
theorem ctx_takeTrapAt {s : State} {tid : Nat} (h : CanTrap (s.ctx tid)) (r : TrapRec) :
    (s.takeTrapAt tid r).ctx tid = State.enterHandler (s.ctx tid) r := by
  obtain ⟨⟨hrelaxed, hmsgs⟩, hmode, hhandler, hhome⟩ := h
  have hbuffer : State.bufferEmpty (s.ctx tid) = true := by simp [State.bufferEmpty, hrelaxed, hmsgs]
  have houtside : State.handlerMode (s.ctx tid) = false := hmode
  unfold State.takeTrapAt
  dsimp only
  rw [hbuffer, houtside, if_neg hhandler, hhome]
  exact State.ctx_setCtx_same s tid _

theorem takeHeaderGone_eq (s : State) (tid home idx gen : Nat) :
    s.takeHeaderGone tid home idx gen =
      let t := s.setCtx tid { s.ctx tid with offer := without home idx gen (s.ctx tid).offer }
      if (s.ctx tid).offer.state = .opened then t.reopened tid else t := by
  simp only [State.takeHeaderGone, State.ctx_modCtx_same, Bool.and_eq_true, decide_eq_true_eq, and_assoc]
  rfl

/-- An Open slot without an event to wait for traps (R92, R255), with the handle of its last entry (log entry 69). -/
theorem ctx_reopened_stale {s : State} {tid : Nat} {c : Ctx} {x : OfferEntry} (hctx : s.ctx tid = c)
    (hgone : ∀ y ∈ c.offer.entries, y.gone = true) (hlast : c.offer.entries.getLast? = some x) (hcan : CanTrap c) :
    (s.reopened tid).ctx tid = State.enterHandler { c with offer := .none, wait := .none, status := .ready }
      ⟨causeStale, false, c.start, x.handle.setWidth 64, 0⟩ := by
  have hall : c.offer.entries.all (·.gone) = true := List.all_eq_true.2 hgone
  have hsome : c.offer.entries.isEmpty = false := by
    cases h : c.offer.entries with
    | nil => simp [h] at hlast
    | cons => rfl
  have hclosed : (s.modCtx tid fun c => { c with offer := .none, wait := .none, status := .ready }).ctx tid =
      { c with offer := .none, wait := .none, status := .ready } := by rw [State.ctx_modCtx_same, hctx]
  have hcanClosed : CanTrap { c with offer := .none, wait := .none, status := .ready } :=
    ⟨hcan.drained, hcan.outside, hcan.handler, hcan.home⟩
  simp only [State.reopened, hctx, hall, hsome, hlast, Bool.not_false, Bool.and_self, if_true, Option.map_some, Option.getD_some]
  rw [ctx_takeTrapAt (hclosed ▸ hcanClosed), hclosed]

theorem headersWithdrawn : HeadersWithdrawn := by
  intro s s1 n idx gen rank serial vt tid home p cause ha
  refine ⟨?_, ?_⟩
  · rintro hbody e same headers shadows rfl hkept hprompt
    have hexec := exec_headerWithdrawal_withdraw ha hbody
    rw [takeWithdrawal_prompt rank serial vt cause rfl hkept hprompt] at hexec
    have hnow := entryNow_setEntry s1 p.dst idx (withdrawn e rank serial vt cause)
    refine ⟨fun number done rest counted hclaiming => ?_, fun hidle hwaits => ?_⟩
    · rw [withdrawn, lossCounted_claiming cause hclaiming] at hexec hnow
      obtain ⟨honly, hentry, hnet⟩ := hnow.tryResolve_rests (.resolving (by simp))
      exact ⟨_, hexec, honly, hnet.trans (List.append_nil _), hentry⟩
    · rw [withdrawn, lossCounted_idle cause hidle] at hexec hnow
      obtain ⟨honly, hentry, hnet⟩ := hnow.tryResolve_rests (.prompt hprompt (.inl hwaits))
      exact ⟨_, hexec, honly, hnet.trans (List.append_nil _), hentry⟩
  · intro hbody c entries
    have hexec := exec_headerWithdrawal_gone ha hbody
    rw [takeHeaderGone_eq] at hexec
    have hnow := (CtxNow.refl s1 tid).setCtx { s1.ctx tid with offer := without home idx gen (s1.ctx tid).offer }
    refine ⟨fun hlisted hintime => ?_, fun x hopen hgone hlast hcan => ?_⟩
    · dsimp only at hexec
      split at hexec
      · next hopen =>
        obtain ⟨honly, hctx, hnet⟩ := hnow.reopened_stays hlisted hintime
        exact ⟨_, hexec, honly, hnet.trans (List.append_nil _), hctx.trans (by rw [← hopen]; rfl)⟩
      · obtain ⟨honly, hctx, hnet⟩ := hnow
        exact ⟨_, hexec, honly, hnet.trans (List.append_nil _), hctx⟩
    · dsimp only at hexec
      have htrap := ctx_reopened_stale hnow.ctx_eq hgone hlast ⟨hcan.drained, hcan.outside, hcan.handler, hcan.home⟩
      rw [if_pos hopen] at hexec
      refine ⟨_, hexec, ?_⟩
      beta_reduce
      rw [htrap]
      exact ⟨rfl, rfl, rfl, rfl, rfl⟩

/-- Settles O25: a commit, a release, a deadline and a withdrawal each end in one context or one entry that changes, and the packets that
follow from its offer or its queue. -/
theorem slotsClose : Obligations.SlotsClose := ⟨commitsReachSlots, slotsAreReleased, headersWithdrawn⟩

end Sys2Proof.Slots

/-!
PROOFS. Ingress (R91, R353, R354, R355): a tagged send reads back as the message that was sent, and the message is dropped, held or
applied at its event (O42).
-/

namespace Sys2Proof.Ingress
open Sys2Proof Sys2Proof.Machine Sys2Proof.Claims

theorem exec_eventIngress (sender : Nat) (msg : List Byte) (s : State) :
    exec (.eventIngress sender msg) s = execEventIngress sender msg s := by rfl

theorem exec_floorOnly (sender : Nat) (msg : List Byte) (s : State) :
    exec (.floorOnly sender msg) s = execFloorOnly sender msg s := by rfl

/-! ## The fields of a tagged send (R353) -/

theorem descNat_append (before after : List Byte) {n v : Nat} (h : v < 256 ^ n) :
    descNat (before ++ (bytesOfNat n v ++ after)) before.length n = v := by
  rw [descNat, List.drop_left, List.take_left' (length_bytesOfNat n v), natOfBytes_bytesOfNat n v h]

section
variable {kind r tag vt floor : Nat} {body : List Byte}

theorem sendBytes_kind (h : kind < 256) : descNat (sendBytes kind r tag vt floor body) 0 1 = kind := by
  simpa [sendBytes] using descNat_append [] _ h

theorem sendBytes_region (h : r < 256) : descNat (sendBytes kind r tag vt floor body) 1 1 = r := by
  simpa [sendBytes] using descNat_append (bytesOfNat 1 kind) _ h

theorem sendBytes_tag (h : tag < 65536) : descNat (sendBytes kind r tag vt floor body) 2 2 = tag := by
  simpa [sendBytes] using descNat_append (bytesOfNat 1 kind ++ bytesOfNat 1 r) _ h

theorem sendBytes_length (h : body.length < 2 ^ 32) : descNat (sendBytes kind r tag vt floor body) 4 4 = body.length := by
  simpa [sendBytes] using descNat_append (n := 4) (bytesOfNat 1 kind ++ bytesOfNat 1 r ++ bytesOfNat 2 tag) _ h

theorem sendBytes_vt (h : vt < 2 ^ 64) : descNat (sendBytes kind r tag vt floor body) 8 8 = vt := by
  simpa [sendBytes] using
    descNat_append (n := 8) (bytesOfNat 1 kind ++ bytesOfNat 1 r ++ bytesOfNat 2 tag ++ bytesOfNat 4 body.length) _ h

theorem sendBytes_floor (h : floor < 2 ^ 64) : descNat (sendBytes kind r tag vt floor body) 16 8 = floor := by
  simpa [sendBytes] using descNat_append (n := 8)
    (bytesOfNat 1 kind ++ bytesOfNat 1 r ++ bytesOfNat 2 tag ++ bytesOfNat 4 body.length ++ bytesOfNat 8 vt) _ h

theorem sendBytes_reserved : descNat (sendBytes kind r tag vt floor body) 24 8 = 0 := by
  simpa [sendBytes] using descNat_append (n := 8) (v := 0) (bytesOfNat 1 kind ++ bytesOfNat 1 r ++ bytesOfNat 2 tag ++
    bytesOfNat 4 body.length ++ bytesOfNat 8 vt ++ bytesOfNat 8 floor) body (by decide)

theorem sendBody_sendBytes : sendBody (sendBytes kind r tag vt floor body) = body :=
  List.drop_left' (by simp)

theorem length_sendBytes : (sendBytes kind r tag vt floor body).length = 32 + body.length := by
  simp only [sendBytes, List.length_append, length_bytesOfNat]

/-- A send that is written as its kind asks is well formed (R353, R355). -/
theorem sendOk_sendBytes (hkind : kind = 2 ∨ kind = 4 ∧ vt = 0) (htag : 0 < tag) (htagw : tag < 65536)
    (hbody : body.length < 2 ^ 32) (hvt : vt < 2 ^ 64) : sendOk kind (sendBytes kind r tag vt floor body) = true := by
  have hsmall : kind < 256 := by omega
  have htagged : tag ≠ 0 := by omega
  simp only [sendOk, sendBytes_kind hsmall, sendBytes_tag htagw, sendBytes_length hbody, sendBytes_vt hvt, sendBytes_reserved,
    sendBody_sendBytes, length_sendBytes]
  rcases hkind with rfl | ⟨rfl, rfl⟩ <;> simp [htagged]

theorem otherKind_sendBytes (h : kind < 256) : otherKind kind (sendBytes kind r tag vt floor body) = false := by
  simp [otherKind, sendBytes_kind h]

end

/-- Ports that are open take a well-formed send of their kind. -/
theorem takeSend_open {s : State} (hopen : PortsOpen s) {kind : Nat} {msg : List Byte} (hok : sendOk kind msg = true)
    (hother : otherKind kind msg = false) (sender : Nat) (f : State → State) : s.takeSend sender kind msg f = f s := by
  obtain ⟨hwiping, hboot, hphase⟩ := hopen
  have hnot3 : s.phase ≠ 3 := by omega
  simp [State.takeSend, State.portsDead, State.portsClosed, hwiping, hboot, hnot3, Nat.not_le.2 hphase, hok, hother]

section
variable {s : State} (hopen : PortsOpen s) {r tag : Nat} (hr : r < 256) (htag : 0 < tag) (htagw : tag < 65536) {floor : Nat}
  (hfloor : floor < 2 ^ 64) (sender : Nat)
include hopen hr htag htagw hfloor

/-- A kind 2 send is taken as its message, or dropped for a region that is not live. -/
theorem exec_eventIngress_sent {vt : Nat} (hvt : vt < 2 ^ 64) {body : List Byte} (hbody : body.length < 2 ^ 32) :
    exec (.eventIngress sender (sendBytes 2 r tag vt floor body)) s = .next
      (if (s.region r).live then s.takeIngress r ⟨sender, tag, 2, vt, floor, body⟩ else s.dropIngress sender) := by
  rw [exec_eventIngress, execEventIngress, takeSend_open hopen (sendOk_sendBytes (.inl rfl) htag htagw hbody hvt)
    (otherKind_sendBytes (by decide))]
  simp only [State.takeEventSend, sendRegion, sendTag, sendBytes_region hr, sendBytes_tag htagw, sendBytes_vt hvt,
    sendBytes_floor hfloor, sendBody_sendBytes]

/-- So is a kind 4 send. -/
theorem exec_floorOnly_sent (hlive : (s.region r).live = true) :
    exec (.floorOnly sender (sendBytes 4 r tag 0 floor [])) s = .next (s.takeIngress r ⟨sender, tag, 4, 0, floor, []⟩) := by
  rw [exec_floorOnly, execFloorOnly, takeSend_open hopen (sendOk_sendBytes (.inr ⟨rfl, rfl⟩) htag htagw (by decide) (by decide))
    (otherKind_sendBytes (by decide))]
  simp only [State.takeEventSend, sendRegion, sendTag, sendBytes_region hr, sendBytes_tag htagw,
    sendBytes_vt (show 0 < 2 ^ 64 by decide), sendBytes_floor hfloor, sendBody_sendBytes, List.isEmpty_nil, if_true, hlive]

end

/-! ## What becomes of a message (R322, R354) -/

/-- The bytes that a region's held messages take. -/
def usedBytes (s : State) (r : Nat) : Nat := ((s.heldIn r).map fun m => 32 + m.body.length).foldl (· + ·) 0

theorem ingressFull_iff (s : State) (r : Nat) (m : HeldIngress) :
    s.ingressFull r m = true ↔ 262144 < usedBytes s r + 32 + m.body.length := by
  rw [State.ingressFull, usedBytes, List.foldl_map, decide_eq_true_iff, Nat.add_assoc]
  rfl

section
variable {s : State} {r : Nat} {m : HeldIngress}

theorem takeIngress_full (hfull : 262144 < usedBytes s r + 32 + m.body.length) : s.takeIngress r m = s.emit (.nack m.flow) :=
  if_pos ((ingressFull_iff s r m).2 hfull)

section
variable (hroom : usedBytes s r + 32 + m.body.length ≤ 262144)
include hroom

theorem takeIngress_unbound (hunbound : ∀ b ∈ bindingsOf s r, b.tag ≠ m.tag) : s.takeIngress r m = s.holdIngress r m := by
  have hnone : (bindingsOf s r).find? (fun b => b.tag == m.tag) = none :=
    List.find?_eq_none.2 fun b hb htag => hunbound b hb (beq_iff_eq.1 htag)
  rw [State.takeIngress, if_neg (Nat.not_lt.2 hroom ∘ (ingressFull_iff s r m).1)]
  simp only [hnone]

theorem takeIngress_bound {b : Binding} {before after : List Binding} (hbound : bindingsOf s r = before ++ b :: after)
    (htag : b.tag = m.tag) (hfirst : ∀ x ∈ before, x.tag ≠ m.tag) (hnext : ∀ x ∈ s.heldIn r, x.tag ≠ m.tag)
    (hruns : s.colourRuns (some (s.colourOf r)) = true) (hbegun : s.bindingPast b = false) :
    s.takeIngress r m = s.applyIngress r b m := by
  have hfind : (bindingsOf s r).find? (fun b => b.tag == m.tag) = some b := by
    rw [hbound, List.find?_append, List.find?_eq_none.2 fun x hx h => hfirst x hx (beq_iff_eq.1 h), Option.none_or]
    exact List.find?_cons_of_pos (beq_iff_eq.2 htag)
  have hnone : (s.heldIn r).any (fun x => x.tag == m.tag) = false :=
    List.any_eq_false.2 fun x hx h => hnext x hx (beq_iff_eq.1 h)
  rw [State.takeIngress, if_neg (Nat.not_lt.2 hroom ∘ (ingressFull_iff s r m).1)]
  simp only [hfind, hruns, hbegun, hnone, Bool.not_false, Bool.and_self, if_true]

end
end

/-! ## At the event (R91, R354, R355) -/

/-- A timed event's message has raised its flow's floor. -/
def raised (s : State) (r : Nat) (b : Binding) (m : HeldIngress) : State :=
  if (s.entry b.home b.entry).desc.timed then s.putBinding r (b.raiseFloor m.flow m.floor) else s

section
variable (s : State) (r : Nat) (b : Binding) (m : HeldIngress)

/-- A raised floor is all that differs. -/
theorem raised_device : { raised s r b m with bindings := s.bindings } = s := by
  unfold raised
  split <;> rfl

theorem uetOut_raised : (raised s r b m).uetOut = s.uetOut := (congrArg State.uetOut (raised_device s r b m) :)
theorem igdrop_raised : (raised s r b m).igdrop = s.igdrop := (congrArg State.igdrop (raised_device s r b m) :)
theorem iglate_raised : (raised s r b m).iglate = s.iglate := (congrArg State.iglate (raised_device s r b m) :)
theorem ctxs_raised : (raised s r b m).ctxs = s.ctxs := (congrArg State.ctxs (raised_device s r b m) :)
theorem mem_raised : (raised s r b m).mem = s.mem := (congrArg State.mem (raised_device s r b m) :)

end

/-- A message has been offered at its event, whose home has not looked yet (R91). -/
def offered (s : State) (r : Nat) (b : Binding) (m : HeldIngress) : State :=
  let e := s.entry b.home b.entry
  ((raised s r b m).setEntry b.home b.entry { e with
    standing := e.standing ++ [⟨m.body, if e.desc.timed then m.vt else 0, none⟩] }).emit (.ack m.flow)

section
variable (s : State) (r : Nat) (b : Binding) (m : HeldIngress)

theorem entry_offered : (offered s r b m).entry b.home b.entry =
    let e := s.entry b.home b.entry
    { e with standing := e.standing ++ [⟨m.body, if e.desc.timed = true then m.vt else 0, none⟩] } :=
  State.entry_setEntry_same ..

theorem uetOut_offered : (offered s r b m).uetOut = s.uetOut ++ [.ack m.flow] := congrArg (· ++ _) (uetOut_raised s r b m)
theorem bindings_offered : (offered s r b m).bindings = (raised s r b m).bindings := rfl
theorem ctxs_offered : (offered s r b m).ctxs = s.ctxs := ctxs_raised s r b m
theorem mem_offered : (offered s r b m).mem = s.mem := mem_raised s r b m

end

section
variable {s : State} {r : Nat} {b : Binding} {m : HeldIngress}

theorem applyIngress_floor (hkind : m.kind = 4) :
    s.applyIngress r b m = { raised s r b m with uetOut := s.uetOut ++ [.ack m.flow] } := by
  rw [State.applyIngress, if_pos hkind, ← uetOut_raised s r b m]
  rfl

section
variable (hkind : m.kind ≠ 4)
include hkind

theorem applyIngress_wrongLength (hlength : m.body.length ≠ (s.entry b.home b.entry).desc.size) :
    s.applyIngress r b m =
      { raised s r b m with igdrop := s.igdrop + 1, uetOut := s.uetOut ++ [.error m.flow] } := by
  rw [State.applyIngress, if_neg hkind, if_pos hlength, ← uetOut_raised s r b m, ← igdrop_raised s r b m]
  rfl

variable (hlength : m.body.length = (s.entry b.home b.entry).desc.size)
include hlength

theorem applyIngress_late (htimed : (s.entry b.home b.entry).desc.timed = true) (hlate : m.vt < b.floorOf m.flow) :
    s.applyIngress r b m =
      { raised s r b m with iglate := s.iglate + 1, uetOut := s.uetOut ++ [.error m.flow] } := by
  rw [State.applyIngress, if_neg hkind, if_neg (not_not.2 hlength), if_pos (by simp [htimed, hlate]), ← uetOut_raised s r b m,
    ← iglate_raised s r b m]
  rfl

theorem applyIngress_offers (hintime : (s.entry b.home b.entry).desc.timed = true → b.floorOf m.flow ≤ m.vt) :
    s.applyIngress r b m = (offered s r b m).tryResolve b.home b.entry := by
  rw [State.applyIngress, if_neg hkind, if_neg (not_not.2 hlength), if_neg (by simpa using hintime)]
  rfl

end
end

theorem ingressOffers : IngressOffers := by
  intro s sender r tag vt floor body hr htag htagw hbody hvt hfloor hopen event only held used unbound keeps
  have hevent := exec_eventIngress_sent hopen hr htag htagw hfloor sender hvt hbody
  have honly := exec_floorOnly_sent hopen hr htag htagw hfloor sender
  refine ⟨fun hlive hfull => ?_, fun hlive hfull => ?_, fun hdead => ?_, fun hlive hnone => ?_, ?_⟩
  · rw [if_pos hlive] at hevent
    exact hevent.trans (congrArg _ (takeIngress_full hfull))
  · exact (honly hlive).trans (congrArg _ (takeIngress_full hfull))
  · rw [hdead] at hevent
    exact hevent
  · rw [if_pos hlive] at hevent
    refine ⟨⟨fun hroom => ?_, fun hfull => ?_⟩, fun hroom => ?_, fun hfull => ?_⟩
    · exact hevent.trans (congrArg _ (takeIngress_unbound hroom hnone))
    · exact hevent.trans (congrArg _ (takeIngress_full hfull))
    · exact (honly hlive).trans (congrArg _ (takeIngress_unbound hroom hnone))
    · exact (honly hlive).trans (congrArg _ (takeIngress_full hfull))
  · rintro b before after hlive hbound rfl hfirst hnext hruns hbegun e stood b' _
    rw [if_pos hlive] at hevent
    refine ⟨fun hroom => ?_, fun hroom => ?_⟩
    · have hbinds := takeIngress_bound (m := ⟨sender, b.tag, 4, 0, floor, []⟩) hroom hbound rfl hfirst hnext hruns hbegun
      exact (honly hlive).trans (congrArg _ (hbinds.trans (applyIngress_floor rfl)))
    · have hbinds := takeIngress_bound (m := ⟨sender, b.tag, 2, vt, floor, body⟩) hroom hbound rfl hfirst hnext hruns hbegun
      rw [hbinds] at hevent
      refine ⟨fun hlength => ?_, fun hlength htimed hlate => ?_, fun hlength hintime => ?_⟩
      · exact hevent.trans (congrArg _ (applyIngress_wrongLength (show 2 ≠ 4 by decide) hlength))
      · exact hevent.trans (congrArg _ (applyIngress_late (show 2 ≠ 4 by decide) hlength htimed hlate))
      · rw [applyIngress_offers (show 2 ≠ 4 by decide) hlength hintime] at hevent
        exact ⟨_, entry_offered .., uetOut_offered .., bindings_offered .., ctxs_offered .., mem_offered .., hevent⟩

/-- Settles O42: a well-formed send reads back as its message; a region without room answers with a retry code, an unbound tag holds
the message, and a bound one applies it at its event. -/
theorem ingressReachesEvents : Obligations.IngressReachesEvents := ingressOffers

end Sys2Proof.Ingress

/-!
PROOFS. Exact values (R116, R204): sums, products and compares are those of the rationals, and quotients and roots keep all but less
than a unit (O8).
-/

namespace Sys2Proof.ExactValues
open Sys2Proof Sys2Proof.Machine Sys2Proof.Claims

/-! ## The rational number of a value -/

theorem abs_rat (e : Exact) : |e.rat| = e.mag * 2 ^ e.exp := by
  have hnonneg : (0 : ℚ) ≤ e.mag * 2 ^ e.exp := by positivity
  unfold Exact.rat
  split <;> simp [abs_of_nonneg hnonneg]

@[simp] theorem rat_eq_zero {e : Exact} : e.rat = 0 ↔ e.mag = 0 := by
  rw [← abs_eq_zero, abs_rat]
  simp [zpow_ne_zero]

theorem rat_of_neg {e : Exact} (h : e.neg = true) : e.rat = -|e.rat| := by
  rw [abs_rat, Exact.rat, if_pos h]
  ring

theorem rat_of_pos {e : Exact} (h : e.neg = false) : e.rat = |e.rat| := by
  rw [abs_rat, Exact.rat, if_neg (by simp [h])]
  ring

theorem toUnits_rat {e : Exact} {exp : Int} (h : exp ≤ e.exp) : (e.toUnits exp : ℚ) * 2 ^ exp = e.rat := by
  have hscale : (2 : ℚ) ^ (e.exp - exp).toNat * 2 ^ exp = 2 ^ e.exp := by
    rw [← zpow_natCast, ← zpow_add₀ two_ne_zero, Int.toNat_of_nonneg (by omega), sub_add_cancel]
  unfold Exact.toUnits Exact.rat
  split <;> simp [mul_assoc, hscale]

@[simp] theorem ofUnits_rat (v exp : Int) (z : Bool) : (Exact.ofUnits v exp z).rat = v * 2 ^ exp := by
  rcases lt_trichotomy v 0 with hneg | rfl | hpos
  · simp [Exact.ofUnits, Exact.rat, hneg, hneg.ne, abs_of_neg (Int.cast_lt_zero.2 hneg : (v : ℚ) < 0)]
  · simp [Exact.ofUnits]
  · simp [Exact.ofUnits, Exact.rat, hpos.not_gt, hpos.ne', abs_of_pos (Int.cast_pos.2 hpos : (0 : ℚ) < v)]

@[simp] theorem ofUnits_more (v exp : Int) (z : Bool) : (Exact.ofUnits v exp z).more = false := by
  unfold Exact.ofUnits
  split <;> rfl

/-- A compare counts both operands in units that are no coarser than either's own. -/
theorem lt_iff (x y : Exact) : x.lt y = true ↔ x.rat < y.rat := by
  rw [← toUnits_rat (min_le_left x.exp y.exp), ← toUnits_rat (min_le_right x.exp y.exp), mul_lt_mul_iff_left₀ (by positivity),
    Int.cast_lt, Exact.lt, decide_eq_true_iff]

theorem eq_iff (x y : Exact) : x.eq y = true ↔ x.rat = y.rat := by
  rw [← toUnits_rat (min_le_left x.exp y.exp), ← toUnits_rat (min_le_right x.exp y.exp),
    mul_left_inj' (zpow_ne_zero _ two_ne_zero), Int.cast_inj, Exact.eq, beq_iff_eq]

/-! ## Sums -/

theorem minExpOf_le {es : List Exact} {e : Exact} (h : e ∈ es) : minExpOf es ≤ e.exp := by
  induction es with
  | nil => cases h
  | cons x xs ih =>
    cases xs with
    | nil => rw [List.mem_singleton.1 h, minExpOf]
    | cons y ys =>
      rw [minExpOf]
      · rcases List.mem_cons.1 h with rfl | hmem
        · exact min_le_left _ _
        · exact (min_le_right _ _).trans (ih hmem)
      · simp

theorem sumUnits_rat {exp : Int} {es : List Exact} (h : ∀ e ∈ es, exp ≤ e.exp) :
    (sumUnits exp es : ℚ) * 2 ^ exp = (es.map Exact.rat).sum := by
  induction es with
  | nil => simp [sumUnits]
  | cons x xs ih =>
    rw [sumUnits, Int.cast_add, add_mul, toUnits_rat (h x List.mem_cons_self), ih fun e he => h e (List.mem_cons_of_mem x he),
      List.map_cons, List.sum_cons]

@[simp] theorem exactSum_rat (mode : RoundMode) (es : List Exact) : (exactSum mode es).rat = (es.map Exact.rat).sum := by
  rw [exactSum, ofUnits_rat, sumUnits_rat fun _ => minExpOf_le]

@[simp] theorem exactSum_more (mode : RoundMode) (es : List Exact) : (exactSum mode es).more = false := ofUnits_more _ _ _

theorem exactSum_neg_of_zero {mode : RoundMode} {es : List Exact} (h : (exactSum mode es).rat = 0) :
    (exactSum mode es).neg = zeroSumSign mode es := by
  have hunits : sumUnits (minExpOf es) es = 0 := by
    rw [exactSum, ofUnits_rat, mul_eq_zero_iff_right (zpow_ne_zero _ two_ne_zero)] at h
    exact_mod_cast h
  rw [exactSum, Exact.ofUnits, if_pos hunits]

theorem zeroSumSign_pair (mode : RoundMode) {x y : Exact} (h : x.mag = 0 ↔ y.mag = 0) :
    zeroSumSign mode [x, y] = if x.mag = 0 ∧ x.neg = y.neg then x.neg else decide (mode = .down) := by
  have hmode : (mode == .down) = decide (mode = .down) := by cases mode <;> rfl
  by_cases hx : x.mag = 0
  · have hy := h.1 hx
    cases hxn : x.neg <;> cases hyn : y.neg <;> simp [zeroSumSign, hx, hy, hxn, hyn, hmode]
  · simp [zeroSumSign, hx, hmode]

/-! ## Products and quotients -/

@[simp] theorem exactMul_rat (x y : Exact) : (exactMul x y).rat = x.rat * y.rat := by
  unfold Exact.rat exactMul
  rw [zpow_add₀ two_ne_zero]
  cases x.neg <;> cases y.neg <;> simp <;> ring

theorem div_eq_natDiv_add (n : Nat) {d : Nat} (hd : d ≠ 0) : (n / d : ℚ) = (n / d : Nat) + (n % d : Nat) / d := by
  have hpos : (d : ℚ) ≠ 0 := by exact_mod_cast hd
  rw [div_eq_iff hpos, add_mul, div_mul_cancel₀ _ hpos]
  exact_mod_cast (Nat.div_add_mod' n d).symm

theorem natDiv_lt_div {n d : Nat} (hd : d ≠ 0) (h : n % d ≠ 0) : ((n / d : Nat) : ℚ) < n / d := by
  rw [div_eq_natDiv_add n hd]
  exact lt_add_of_pos_right _ (div_pos (by exact_mod_cast Nat.pos_of_ne_zero h) (by exact_mod_cast Nat.pos_of_ne_zero hd))

theorem div_lt_natDiv_add_one (n d : Nat) : (n / d : ℚ) < (n / d : Nat) + 1 := by
  rw [← Nat.floor_div_eq_div (K := ℚ)]
  exact Nat.lt_floor_add_one _

/-- A quotient in the units in which it is divided. -/
theorem abs_rat_div_abs_rat {x y : Exact} (k : Nat) :
    |x.rat| / |y.rat| = ((x.mag * 2 ^ k : Nat) : ℚ) / y.mag * 2 ^ (x.exp - y.exp - k) := by
  have hscale : (2 : ℚ) ^ k * 2 ^ (x.exp - y.exp - k) = 2 ^ x.exp / 2 ^ y.exp := by
    rw [← zpow_natCast, ← zpow_add₀ two_ne_zero, ← zpow_sub₀ two_ne_zero]
    congr 1
    omega
  rw [abs_rat, abs_rat, mul_div_mul_comm, ← hscale]
  push_cast
  ring

/-- The power of two by which a dividend is scaled. -/
def quotientShift (x y : Exact) : Nat := guardBits + bitLen y.mag - bitLen x.mag

theorem exactDiv_of_zero {x : Exact} (h : x.mag = 0) (y : Exact) : exactDiv x y = ⟨x.neg ^^ y.neg, 0, 0, false⟩ := if_pos h

theorem exactDiv_of_ne_zero {x : Exact} (h : x.mag ≠ 0) (y : Exact) :
    exactDiv x y = ⟨x.neg ^^ y.neg, x.mag * 2 ^ quotientShift x y / y.mag, x.exp - y.exp - quotientShift x y,
      decide (x.mag * 2 ^ quotientShift x y % y.mag ≠ 0)⟩ := if_neg h

theorem exactDiv_neg (x y : Exact) : (exactDiv x y).neg = (x.neg != y.neg) := by
  by_cases h : x.mag = 0
  · rw [exactDiv_of_zero h]
  · rw [exactDiv_of_ne_zero h]

theorem exactDiv_bounds {x y : Exact} (hy : y.mag ≠ 0) (hmore : (exactDiv x y).more = true) :
    ((exactDiv x y).mag : ℚ) * 2 ^ (exactDiv x y).exp < |x.rat| / |y.rat| ∧
      |x.rat| / |y.rat| < ((exactDiv x y).mag + 1 : ℚ) * 2 ^ (exactDiv x y).exp := by
  by_cases h : x.mag = 0
  · simp [exactDiv_of_zero h] at hmore
  · rw [exactDiv_of_ne_zero h] at hmore ⊢
    rw [abs_rat_div_abs_rat (quotientShift x y)]
    exact ⟨mul_lt_mul_of_pos_right (natDiv_lt_div hy (of_decide_eq_true hmore)) (by positivity),
      mul_lt_mul_of_pos_right (div_lt_natDiv_add_one _ _) (by positivity)⟩

theorem exactDiv_exact {x y : Exact} (hy : y.mag ≠ 0) (hmore : (exactDiv x y).more = false) :
    |(exactDiv x y).rat| = |x.rat| / |y.rat| := by
  rw [abs_rat]
  by_cases h : x.mag = 0
  · simp [exactDiv_of_zero h, rat_eq_zero.2 h]
  · rw [exactDiv_of_ne_zero h] at hmore ⊢
    have hdvd : y.mag ∣ x.mag * 2 ^ quotientShift x y := Nat.dvd_of_mod_eq_zero (not_not.1 (of_decide_eq_false hmore))
    rw [abs_rat_div_abs_rat (quotientShift x y), ← Nat.cast_div hdvd (by exact_mod_cast hy)]

/-! ## Lengths -/

theorem lt_two_pow_bitLen (n : Nat) : n < 2 ^ bitLen n := by
  unfold bitLen
  split
  case isTrue h => simp [h]
  case isFalse => exact Nat.lt_log2_self

theorem two_pow_le_of_bitLen {n : Nat} (h : n ≠ 0) : 2 ^ (bitLen n - 1) ≤ n := by
  rw [bitLen, if_neg h]
  exact Nat.log2_self_le h

/-! ## Roots -/

/-- The search keeps the root between the bits it has chosen and the first bit above those still open. -/
theorem isqrt_bounds {n b acc : Nat} (hlow : acc * acc ≤ n) (hhigh : n < (acc + 2 ^ b) * (acc + 2 ^ b)) :
    isqrt n b acc * isqrt n b acc ≤ n ∧ n < (isqrt n b acc + 1) * (isqrt n b acc + 1) := by
  induction b generalizing acc with
  | zero => exact ⟨hlow, by simpa [isqrt] using hhigh⟩
  | succ b ih =>
    rw [isqrt]
    split
    case isTrue h => exact ih h (by rwa [add_assoc, ← two_mul, ← pow_succ'])
    case isFalse h => exact ih hlow (not_le.1 h)

theorem isqrt_bitLen (n : Nat) : isqrt n (bitLen n / 2 + 1) 0 = Nat.sqrt n := by
  have hhigh : n < (0 + 2 ^ (bitLen n / 2 + 1)) * (0 + 2 ^ (bitLen n / 2 + 1)) := by
    rw [zero_add, ← pow_add]
    exact (lt_two_pow_bitLen n).trans_le (Nat.pow_le_pow_right two_pos (by omega))
  obtain ⟨hle, hlt⟩ := isqrt_bounds (Nat.zero_le n) hhigh
  exact Nat.eq_sqrt.2 ⟨hle, hlt⟩

/-- The radicand in units of an even power of two. -/
theorem rat_eq_sqrt_units {x : Exact} (hx : x.neg = false) {k : Nat} (hk : 2 ∣ x.exp - k) :
    x.rat = ((x.mag * 2 ^ k : Nat) : ℚ) * ((2 : ℚ) ^ ((x.exp - k) / 2)) ^ 2 := by
  have hscale : (2 : ℚ) ^ k * ((2 : ℚ) ^ ((x.exp - k) / 2)) ^ 2 = 2 ^ x.exp := by
    rw [← zpow_natCast, ← zpow_natCast, ← zpow_mul, ← zpow_add₀ two_ne_zero, Nat.cast_two, Int.ediv_mul_cancel hk,
      add_sub_cancel]
  rw [rat_of_pos hx, abs_rat, ← hscale]
  push_cast
  ring

/-- The power of two by which a radicand is scaled: its parity is that of the exponent. -/
def rootShift (x : Exact) : Nat := 2 * guardBits + (x.exp % 2).toNat

theorem two_dvd_exp_sub_rootShift (x : Exact) : 2 ∣ x.exp - rootShift x := by
  unfold rootShift
  omega

theorem exactSqrt_of_ne_zero {x : Exact} (h : x.mag ≠ 0) :
    exactSqrt x = ⟨false, Nat.sqrt (x.mag * 2 ^ rootShift x), (x.exp - rootShift x) / 2,
      decide (Nat.sqrt (x.mag * 2 ^ rootShift x) * Nat.sqrt (x.mag * 2 ^ rootShift x) ≠ x.mag * 2 ^ rootShift x)⟩ := by
  rw [exactSqrt, if_neg h, ← isqrt_bitLen]
  rfl

theorem exactSqrt_of_zero {x : Exact} (h : x.mag = 0) : exactSqrt x = ⟨x.neg, 0, 0, false⟩ := by
  rw [exactSqrt, if_pos h]

theorem exactSqrt_neg {x : Exact} (hx : x.neg = false) : (exactSqrt x).neg = false := by
  by_cases h : x.mag = 0
  · rw [exactSqrt_of_zero h, hx]
  · rw [exactSqrt_of_ne_zero h]

theorem exactSqrt_bounds {x : Exact} (hx : x.neg = false) (hmore : (exactSqrt x).more = true) :
    (((exactSqrt x).mag : ℚ) * 2 ^ (exactSqrt x).exp) ^ 2 < x.rat ∧
      x.rat < (((exactSqrt x).mag + 1 : ℚ) * 2 ^ (exactSqrt x).exp) ^ 2 := by
  by_cases h : x.mag = 0
  · simp [exactSqrt_of_zero h] at hmore
  · rw [exactSqrt_of_ne_zero h] at hmore ⊢
    rw [rat_eq_sqrt_units hx (two_dvd_exp_sub_rootShift x), mul_pow, mul_pow]
    refine ⟨mul_lt_mul_of_pos_right ?_ (by positivity), mul_lt_mul_of_pos_right ?_ (by positivity)⟩
    · rw [sq]
      exact_mod_cast lt_of_le_of_ne (Nat.sqrt_le _) (of_decide_eq_true hmore)
    · rw [sq]
      exact_mod_cast Nat.lt_succ_sqrt _

theorem exactSqrt_exact {x : Exact} (hx : x.neg = false) (hmore : (exactSqrt x).more = false) :
    (exactSqrt x).rat ^ 2 = x.rat := by
  rw [← sq_abs, abs_rat]
  by_cases h : x.mag = 0
  · simp [exactSqrt_of_zero h, rat_eq_zero.2 h]
  · rw [exactSqrt_of_ne_zero h] at hmore ⊢
    have hsq : Nat.sqrt (x.mag * 2 ^ rootShift x) ^ 2 = x.mag * 2 ^ rootShift x := by
      rw [sq]
      exact not_not.1 (of_decide_eq_false hmore)
    rw [rat_eq_sqrt_units hx (two_dvd_exp_sub_rootShift x), mul_pow, ← Nat.cast_pow, hsq]

/-! ## Operations on finite values -/

theorem opDiv_fin (x : Exact) {y : Exact} (h : y.mag ≠ 0) : opDiv (.fin x) (.fin y) = .value (exactDiv x y) := if_neg h

theorem opSqrt_fin {x : Exact} (h : x.neg = false) : opSqrt (.fin x) = .value (exactSqrt x) := by
  simp [opSqrt, h]

/-- The square of a difference, before it is added to an element. -/
theorem opDistSq_fin (x y : Exact) : ∃ e, opDistSq (.fin x) (.fin y) = .value e ∧ e.rat = (x.rat - y.rat) ^ 2 := by
  refine ⟨_, rfl, ?_⟩
  have hneg : (⟨!y.neg, y.mag, y.exp, y.more⟩ : Exact).rat = -y.rat := by
    unfold Exact.rat
    cases y.neg <;> simp
  rw [exactMul_rat, exactSum_rat]
  simp [hneg]
  ring

theorem exactArithmetic : ExactArithmetic := by
  intro mode x y
  have hsum (x y : Exact) : (exactSum mode [x, y]).rat = x.rat + y.rat := by simp
  refine ⟨hsum x y, exactSum_more _ _, fun hzero => ?_, exactMul_rat x y, rfl, fun hy => ?_, fun hx => ?_, lt_iff x y, eq_iff x y,
    rfl, rfl, opDiv_fin x, opSqrt_fin, fun n => ⟨⟨true, 0, 0, false⟩, rfl, rfl, by simp, rfl⟩, fun z => ?_, fun z => ?_,
    fun f xs g => rfl⟩
  · rw [exactSum_neg_of_zero ((hsum x y).trans hzero), zeroSumSign_pair]
    rw [← rat_eq_zero, ← rat_eq_zero, eq_neg_of_add_eq_zero_left hzero, neg_eq_zero]
  · refine ⟨exactDiv_neg x y, ?_⟩
    split
    case isTrue hmore => exact exactDiv_bounds hy hmore
    case isFalse hmore => exact exactDiv_exact hy (Bool.eq_false_of_not_eq_true hmore)
  · refine ⟨exactSqrt_neg hx, ?_⟩
    split
    case isTrue hmore => exact exactSqrt_bounds hx hmore
    case isFalse hmore => exact exactSqrt_exact hx (Bool.eq_false_of_not_eq_true hmore)
  · exact ⟨_, rfl, by rw [hsum, exactMul_rat], exactSum_more _ _⟩
  · obtain ⟨e, he, hrat⟩ := opDistSq_fin x y
    exact ⟨exactSum mode [z, e], by rw [opDist, he]; rfl, by rw [hsum, hrat], exactSum_more _ _⟩

/-! ## Clamps (R119, R121) -/

/-- The clamp of a value to a range. -/
theorem clamp_eq {lo hi : Int} (h : lo ≤ hi) (v : Int) :
    (if v < lo then lo else if hi < v then hi else v) = max lo (min hi v) := by
  split
  case isTrue hlow => rw [min_eq_right (by omega), max_eq_left hlow.le]
  case isFalse hlow =>
    split
    case isTrue hhigh => rw [min_eq_left hhigh.le, max_eq_right h]
    case isFalse hhigh => rw [min_eq_right (not_lt.1 hhigh), max_eq_right (not_lt.1 hlow)]

theorem flagWhen_ne (a b : Int) (f : FlagSet) : flagWhen (decide (a ≠ b)) f = if a = b then 0 else f := by
  by_cases h : a = b <;> simp [flagWhen, h]

end Sys2Proof.ExactValues

/-!
PROOFS. Codes and rounding (R111, R116): codes rise with the magnitudes that they hold, so a rounding to a count of units goes to
one of two neighbouring codes (O8).
-/

namespace Sys2Proof.Rounding
open Sys2Proof Sys2Proof.Machine Sys2Proof.Claims Sys2Proof.ExactValues

/-! ## Codes and their magnitudes (R111) -/

/-- The exact value of a sign and a code. -/
def codeVal (f : Fmt) (neg : Bool) (code : Nat) : Exact :=
  if code / 2 ^ f.mbits = 0 then ⟨neg, code % 2 ^ f.mbits, f.minExp, false⟩
  else ⟨neg, 2 ^ f.mbits + code % 2 ^ f.mbits, f.minExp + (code / 2 ^ f.mbits - 1 : Nat), false⟩

/-- The magnitude of a code; codes go on past the largest finite value. -/
def codeMag (f : Fmt) (code : Nat) : ℚ := |(codeVal f false code).rat|

theorem finite_eq (f : Fmt) (neg : Bool) (code : Nat) : f.finite neg code = .fin (codeVal f neg code) := by
  unfold Fmt.finite codeVal
  dsimp only
  split <;> rfl

@[simp] theorem codeVal_neg (f : Fmt) (neg : Bool) (code : Nat) : (codeVal f neg code).neg = neg := by
  unfold codeVal
  split <;> rfl

@[simp] theorem codeVal_more (f : Fmt) (neg : Bool) (code : Nat) : (codeVal f neg code).more = false := by
  unfold codeVal
  split <;> rfl

theorem codeVal_mag_lt (f : Fmt) (neg : Bool) (code : Nat) : (codeVal f neg code).mag < 2 ^ (f.mbits + 1) := by
  have hmod : code % 2 ^ f.mbits < 2 ^ f.mbits := Nat.mod_lt _ (by positivity)
  unfold codeVal
  rw [pow_succ]
  split <;> dsimp only <;> omega

theorem minExp_le_codeVal_exp (f : Fmt) (neg : Bool) (code : Nat) : f.minExp ≤ (codeVal f neg code).exp := by
  unfold codeVal
  split <;> dsimp only <;> omega

@[simp] theorem abs_codeVal (f : Fmt) (neg : Bool) (code : Nat) : |(codeVal f neg code).rat| = codeMag f code := by
  rw [codeMag, abs_rat, abs_rat]
  unfold codeVal
  split <;> rfl

theorem codeMag_subnormal {f : Fmt} {m : Nat} (hm : m < 2 ^ f.mbits) : codeMag f m = m * 2 ^ f.minExp := by
  rw [codeMag, abs_rat, codeVal, if_pos (Nat.div_eq_of_lt hm), Nat.mod_eq_of_lt hm]

theorem codeMag_normal {f : Fmt} (e : Nat) {m : Nat} (hm : m < 2 ^ f.mbits) :
    codeMag f ((e + 1) * 2 ^ f.mbits + m) = (2 ^ f.mbits + m) * 2 ^ (f.minExp + e) := by
  have hdiv : ((e + 1) * 2 ^ f.mbits + m) / 2 ^ f.mbits = e + 1 := by
    rw [add_comm, Nat.add_mul_div_right _ _ (by positivity), Nat.div_eq_of_lt hm, zero_add]
  have hmod : ((e + 1) * 2 ^ f.mbits + m) % 2 ^ f.mbits = m := by rw [Nat.mul_add_mod', Nat.mod_eq_of_lt hm]
  rw [codeMag, abs_rat, codeVal, hdiv, hmod, if_neg e.succ_ne_zero]
  push_cast
  rfl

/-- A count of units of 2^u, at most one beyond the precision, whose units are the ones that a format has there: the least ones, or
those of its precision. -/
structure InUnits (f : Fmt) (u : Int) (q : Nat) : Prop where
  least : f.minExp ≤ u
  fits : q ≤ 2 ^ (f.mbits + 1)
  fills : u = f.minExp ∨ 2 ^ f.mbits ≤ q

/-- The code of a count of units. -/
def unitCode (f : Fmt) (u : Int) (q : Nat) : Nat := (u - f.minExp).toNat * 2 ^ f.mbits + q

theorem unitCode_succ (f : Fmt) (u : Int) (q : Nat) : unitCode f u (q + 1) = unitCode f u q + 1 := rfl

theorem codeMag_unitCode {f : Fmt} {u : Int} {q : Nat} (h : InUnits f u q) : codeMag f (unitCode f u q) = q * 2 ^ u := by
  obtain ⟨hu, hfits, hfills⟩ := h
  obtain ⟨n, rfl⟩ := Int.le.dest hu
  rw [unitCode, add_sub_cancel_left, Int.toNat_natCast]
  rcases lt_or_ge q (2 ^ f.mbits) with hlow | hfull
  · obtain rfl : n = 0 := by omega
    rw [zero_mul, zero_add, codeMag_subnormal hlow, Nat.cast_zero, add_zero]
  · obtain ⟨r, rfl⟩ := Nat.exists_eq_add_of_le hfull
    rw [← add_assoc, ← Nat.succ_mul]
    rcases lt_or_ge r (2 ^ f.mbits) with hr | hr
    · rw [codeMag_normal n hr, Nat.cast_add, Nat.cast_pow, Nat.cast_two]
    · obtain rfl : r = 2 ^ f.mbits := by rw [pow_succ'] at hfits; omega
      rw [← Nat.succ_mul, ← add_zero (_ * _), codeMag_normal (n + 1) (by positivity), Nat.cast_succ, ← add_assoc,
        zpow_add_one₀ two_ne_zero]
      push_cast
      ring

/-- Each code is a count of units below the next power of two. -/
theorem exists_unitCode (f : Fmt) (code : Nat) :
    ∃ u q, InUnits f u q ∧ q < 2 ^ (f.mbits + 1) ∧ unitCode f u q = code := by
  have hmod : code % 2 ^ f.mbits < 2 ^ f.mbits := Nat.mod_lt _ (by positivity)
  have hsplit := Nat.div_add_mod' code (2 ^ f.mbits)
  have htwice : 2 ^ (f.mbits + 1) = 2 * 2 ^ f.mbits := pow_succ' _ _
  rcases Nat.eq_zero_or_pos (code / 2 ^ f.mbits) with he | he
  · rw [he, zero_mul, zero_add] at hsplit
    exact ⟨f.minExp, code, ⟨le_rfl, by omega, .inl rfl⟩, by omega, by simp [unitCode]⟩
  · refine ⟨f.minExp + (code / 2 ^ f.mbits - 1 : Nat), 2 ^ f.mbits + code % 2 ^ f.mbits,
      ⟨by omega, by omega, .inr (Nat.le_add_right _ _)⟩, by omega, ?_⟩
    rw [unitCode, add_sub_cancel_left, Int.toNat_natCast, ← add_assoc, ← Nat.succ_mul, Nat.succ_eq_add_one,
      Nat.sub_add_cancel he, hsplit]

theorem codeMag_strictMono (f : Fmt) : StrictMono (codeMag f) := by
  refine strictMono_nat_of_lt_succ fun code => ?_
  obtain ⟨u, q, hq, hlt, rfl⟩ := exists_unitCode f code
  have hnext : InUnits f u (q + 1) := ⟨hq.least, hlt, hq.fills.imp_right fun h => h.trans q.le_succ⟩
  rw [← unitCode_succ, codeMag_unitCode hq, codeMag_unitCode hnext]
  exact mul_lt_mul_of_pos_right (by exact_mod_cast q.lt_succ_self) (by positivity)

/-- A count that fits the precision is the magnitude of a code, in whatever units it is given. -/
theorem exists_codeMag {f : Fmt} {u : Int} {q : Nat} (hu : f.minExp ≤ u) (hq : q ≤ 2 ^ (f.mbits + 1)) :
    ∃ code, codeMag f code = q * 2 ^ u := by
  obtain ⟨n, rfl⟩ := Int.le.dest hu
  induction n generalizing q with
  | zero => exact ⟨_, codeMag_unitCode ⟨hu, hq, .inl (by simp)⟩⟩
  | succ n ih =>
    by_cases hfull : 2 ^ f.mbits ≤ q
    · exact ⟨_, codeMag_unitCode ⟨hu, hq, .inr hfull⟩⟩
    · obtain ⟨code, hcode⟩ := ih (q := 2 * q) (by rw [pow_succ]; omega) (by omega)
      refine ⟨code, hcode.trans ?_⟩
      rw [Nat.cast_succ, ← add_assoc, zpow_add_one₀ two_ne_zero]
      push_cast
      ring

/-! ## Encodings of finite values (R111) -/

theorem maxCode_lt (f : Fmt) : f.maxCode < 2 ^ (f.ebits + f.mbits) := by
  have hpos : 0 < 2 ^ (f.ebits + f.mbits) := by positivity
  have hexp : (2 ^ f.ebits - 1) * 2 ^ f.mbits < 2 ^ (f.ebits + f.mbits) := by
    rw [pow_add]
    exact Nat.mul_lt_mul_of_pos_right (Nat.sub_lt (by positivity) one_pos) (by positivity)
  unfold Fmt.maxCode
  split <;> omega

/-- The codes whose exponent is all ones are those from the code of infinity on. -/
theorem exponent_eq_top {f : Fmt} {code : Nat} (h : code < 2 ^ (f.ebits + f.mbits)) :
    code / 2 ^ f.mbits = 2 ^ f.ebits - 1 ↔ (2 ^ f.ebits - 1) * 2 ^ f.mbits ≤ code := by
  have hless : code / 2 ^ f.mbits < 2 ^ f.ebits := Nat.div_lt_of_lt_mul (by rwa [← pow_add, add_comm])
  rw [← Nat.le_div_iff_mul_le (by positivity)]
  omega

/-- Whether a code has an infinity or a NaN is decided by its rank among the codes. -/
theorem value_eq {f : Fmt} (hf : 0 < f.ebits) (bits : Nat) :
    if bits % 2 ^ (f.ebits + f.mbits) ≤ f.maxCode then
      f.value bits = .fin (codeVal f (bits / 2 ^ (f.ebits + f.mbits) % 2 == 1) (bits % 2 ^ (f.ebits + f.mbits)))
    else ∀ w, f.value bits ≠ .fin w := by
  have hcode : bits % 2 ^ (f.ebits + f.mbits) < 2 ^ (f.ebits + f.mbits) := Nat.mod_lt _ (by positivity)
  have htop : 0 < (2 ^ f.ebits - 1) * 2 ^ f.mbits :=
    Nat.mul_pos (Nat.sub_pos_of_lt (Nat.one_lt_two_pow hf.ne')) (by positivity)
  have hcodes : 1 < 2 ^ (f.ebits + f.mbits) := Nat.one_lt_two_pow (by omega)
  simp only [Fmt.value, Fmt.maxCode, exponent_eq_top hcode, finite_eq]
  generalize bits % 2 ^ (f.ebits + f.mbits) = code at *
  cases f.specials with
  | ieee =>
    dsimp only
    by_cases h : (2 ^ f.ebits - 1) * 2 ^ f.mbits ≤ code
    · rw [if_neg (by omega), if_pos h]
      intro w
      split <;> simp
    · rw [if_pos (by omega), if_neg h]
  | onlyNan =>
    dsimp only
    by_cases h : code = 2 ^ (f.ebits + f.mbits) - 1
    · rw [if_neg (by omega), if_pos h]
      simp
    · rw [if_pos (by omega), if_neg h]
  | none => rw [if_pos (by dsimp only; omega)]

theorem signBit_add_mod (f : Fmt) (neg : Bool) {code : Nat} (h : code < 2 ^ (f.ebits + f.mbits)) :
    (f.signBit neg + code) % 2 ^ (f.ebits + f.mbits) = code := by
  cases neg <;> simp [Fmt.signBit, Nat.mod_eq_of_lt h]

theorem signBit_add_sign (f : Fmt) (neg : Bool) {code : Nat} (h : code < 2 ^ (f.ebits + f.mbits)) :
    ((f.signBit neg + code) / 2 ^ (f.ebits + f.mbits) % 2 == 1) = neg := by
  cases neg <;> simp [Fmt.signBit, Nat.div_eq_of_lt h]

theorem value_signBit_add {f : Fmt} (hf : 0 < f.ebits) (neg : Bool) {code : Nat} (h : code ≤ f.maxCode) :
    f.value (f.signBit neg + code) = .fin (codeVal f neg code) := by
  have hcode := h.trans_lt (maxCode_lt f)
  simpa only [signBit_add_mod f neg hcode, signBit_add_sign f neg hcode, if_pos h] using value_eq hf (f.signBit neg + code)

theorem signBit_add_code (f : Fmt) {bits : Nat} (h : bits < 2 ^ f.width) :
    f.signBit (bits / 2 ^ (f.ebits + f.mbits) % 2 == 1) + bits % 2 ^ (f.ebits + f.mbits) = bits := by
  have hsplit := Nat.div_add_mod' bits (2 ^ (f.ebits + f.mbits))
  have hsign : bits / 2 ^ (f.ebits + f.mbits) < 2 :=
    Nat.div_lt_of_lt_mul (by rwa [← pow_succ, add_comm, ← add_assoc])
  unfold Fmt.signBit
  interval_cases hs : bits / 2 ^ (f.ebits + f.mbits) <;> simpa using hsplit

/-- What an encoding of a finite value is made of. -/
theorem exists_code {f : Fmt} (hf : 0 < f.ebits) {bits : Nat} {w : Exact} (h : f.value bits = .fin w) :
    ∃ neg code, code ≤ f.maxCode ∧ w = codeVal f neg code ∧ (bits < 2 ^ f.width → bits = f.signBit neg + code) := by
  have hvalue := value_eq hf bits
  split at hvalue
  case isTrue hle =>
    exact ⟨_, _, hle, Machine.Num.fin.inj (h.symm.trans hvalue), fun hbits => (signBit_add_code f hbits).symm⟩
  case isFalse => exact absurd h (hvalue w)

/-! ## Rounding to a count of units (R116) -/

/-- A rounding takes a magnitude X, which lies from L up to but not including H, to one of these two: with `zero`, `down` and `up`
to the one on the side that the mode asks for, and with `nearest` to one as near as any. -/
structure Picks (mode : RoundMode) (neg : Bool) (L H X V : ℚ) : Prop where
  low : L ≤ X
  high : X < H
  pick : V = L ∨ V = H ∧ L < X
  toward : mode = .zero ∨ mode = (if neg then .up else .down) → V ≤ X
  away : mode = (if neg then .down else .up) → X ≤ V
  nearest : mode = .nearest → |X - V| ≤ X - L ∧ |X - V| ≤ H - X

theorem picks_self (mode : RoundMode) (neg : Bool) {X H : ℚ} (h : X < H) : Picks mode neg X H X X where
  low := le_rfl
  high := h
  pick := .inl rfl
  toward _ := le_rfl
  away _ := le_rfl
  nearest _ := by simp [h.le]

/-- An inexact rounding, by whether it goes to the greater magnitude. -/
theorem picks_between {mode : RoundMode} {neg : Bool} {L H X : ℚ} {up : Bool} (hlow : L < X) (hhigh : X < H)
    (hzero : mode = .zero → up = false) (hdown : mode = .down → up = neg) (hup : mode = .up → up = !neg)
    (hnear : mode = .nearest → if up then H - X ≤ X - L else X - L ≤ H - X) : Picks mode neg L H X (if up then H else L) where
  low := hlow.le
  high := hhigh
  pick := by cases up <;> simp [hlow]
  toward h := by
    have : up = false := by
      rcases h with h | h
      · exact hzero h
      · cases neg
        · exact hdown h
        · exact hup h
    simp [this, hlow.le]
  away h := by
    have : up = true := by
      cases neg
      · exact hup h
      · exact hdown h
    simp [this, hhigh.le]
  nearest h := by
    have := hnear h
    cases up
    · rw [abs_of_pos (by simpa using hlow)]
      simpa using this
    · rw [abs_of_neg (by simpa using hhigh)]
      simpa using this

/-- How `roundUnits` takes a value without exact units: away is the greater magnitude. -/
theorem roundUnits_inexact {x : Exact} {unit : Int} (hx : x.more = false) (hshift : 0 < unit - x.exp) (mode : RoundMode)
    (draw : BitVec 32) (hr : x.mag % 2 ^ (unit - x.exp).toNat ≠ 0) :
    ∃ up : Bool, roundUnits x unit mode draw =
        (if up then x.mag / 2 ^ (unit - x.exp).toNat + 1 else x.mag / 2 ^ (unit - x.exp).toNat, true) ∧
      (mode = .zero → up = false) ∧ (mode = .down → up = x.neg) ∧ (mode = .up → up = !x.neg) ∧
      (mode = .nearest → if up then 2 ^ (unit - x.exp).toNat ≤ 2 * (x.mag % 2 ^ (unit - x.exp).toNat)
        else 2 * (x.mag % 2 ^ (unit - x.exp).toNat) ≤ 2 ^ (unit - x.exp).toNat) := by
  unfold roundUnits
  dsimp only
  rw [if_neg (not_le.2 hshift), if_neg (by simp [hr])]
  cases mode with
  | nearest =>
    refine ⟨_, rfl, by simp, by simp, by simp, fun _ => ?_⟩
    dsimp only
    split
    case isTrue h =>
      simp only [hx, Bool.or_eq_true, decide_eq_true_eq, Bool.and_eq_true, beq_iff_eq] at h
      omega
    case isFalse h =>
      simp only [Bool.or_eq_true, decide_eq_true_eq, not_or] at h
      omega
  | zero => exact ⟨_, rfl, by simp⟩
  | down => exact ⟨_, rfl, by simp⟩
  | up => exact ⟨_, rfl, by simp⟩
  | stochastic => exact ⟨_, rfl, by simp⟩

theorem roundUnits_exact {x : Exact} {unit : Int} (hx : x.more = false) (hshift : 0 < unit - x.exp) (mode : RoundMode)
    (draw : BitVec 32) (hr : x.mag % 2 ^ (unit - x.exp).toNat = 0) :
    roundUnits x unit mode draw = (x.mag / 2 ^ (unit - x.exp).toNat, false) := by
  unfold roundUnits
  dsimp only
  rw [if_neg (not_le.2 hshift), if_pos (by simp [hr, hx])]

theorem roundUnits_finer {x : Exact} {unit : Int} (hx : x.more = false) (hshift : unit - x.exp ≤ 0) (mode : RoundMode)
    (draw : BitVec 32) : roundUnits x unit mode draw = (x.mag * 2 ^ (-(unit - x.exp)).toNat, false) := by
  unfold roundUnits
  dsimp only
  rw [if_pos hshift, hx]

/-- The magnitude in units that are coarser than the value's own. -/
theorem abs_rat_eq_div {x : Exact} {unit : Int} (hshift : 0 < unit - x.exp) :
    |x.rat| = (x.mag / (2 ^ (unit - x.exp).toNat : Nat) : ℚ) * 2 ^ unit := by
  have hscale : (2 : ℚ) ^ unit = 2 ^ (unit - x.exp).toNat * 2 ^ x.exp := by
    rw [← zpow_natCast, ← zpow_add₀ two_ne_zero, Int.toNat_of_nonneg hshift.le, sub_add_cancel]
  rw [abs_rat, hscale, ← mul_assoc, Nat.cast_pow, Nat.cast_two, div_mul_cancel₀ _ (by positivity)]

/-- The magnitude in units that are at least as fine as the value's own. -/
theorem abs_rat_eq_mul {x : Exact} {unit : Int} (hshift : unit - x.exp ≤ 0) :
    |x.rat| = ((x.mag * 2 ^ (-(unit - x.exp)).toNat : Nat) : ℚ) * 2 ^ unit := by
  have hscale : (2 : ℚ) ^ x.exp = 2 ^ (-(unit - x.exp)).toNat * 2 ^ unit := by
    rw [← zpow_natCast, ← zpow_add₀ two_ne_zero, Int.toNat_of_nonneg (by omega)]
    congr 1
    ring
  rw [abs_rat, hscale]
  push_cast
  ring

/-- Which whole number is nearer is decided by twice the remainder. -/
theorem nearer_of_mod {n d : Nat} (hd : d ≠ 0) (up : Bool) (h : if up then d ≤ 2 * (n % d) else 2 * (n % d) ≤ d) :
    if up then ((n / d : Nat) + 1 : ℚ) - n / d ≤ n / d - (n / d : Nat)
    else (n / d : ℚ) - (n / d : Nat) ≤ (n / d : Nat) + 1 - n / d := by
  have hpos : (0 : ℚ) < d := by exact_mod_cast Nat.pos_of_ne_zero hd
  have hsplit := div_eq_natDiv_add n hd
  cases up
  · have hhalf : ((n % d : Nat) / d : ℚ) ≤ 1 / 2 := by
      rw [div_le_div_iff₀ hpos two_pos, mul_comm]
      exact_mod_cast by simpa using h
    simp only [Bool.false_eq_true, if_false]
    linarith
  · have hhalf : (1 / 2 : ℚ) ≤ (n % d : Nat) / d := by
      rw [div_le_div_iff₀ two_pos hpos, mul_comm (_ : ℚ) 2]
      exact_mod_cast by simpa using h
    simp only [if_true]
    linarith

/-- A rounding to units takes the whole units in a magnitude, or one more. -/
theorem roundUnits_picks {x : Exact} (hx : x.more = false) (unit : Int) (mode : RoundMode) (draw : BitVec 32) :
    ∃ lo : Nat, ((roundUnits x unit mode draw).1 = lo ∨ (roundUnits x unit mode draw).1 = lo + 1) ∧
      ((roundUnits x unit mode draw).2 = false ↔ ((roundUnits x unit mode draw).1 : ℚ) * 2 ^ unit = |x.rat|) ∧
      Picks mode x.neg (lo * 2 ^ unit) ((lo + 1) * 2 ^ unit) |x.rat| ((roundUnits x unit mode draw).1 * 2 ^ unit) := by
  have hunit : (0 : ℚ) < 2 ^ unit := by positivity
  rcases le_or_gt (unit - x.exp) 0 with hshift | hshift
  · rw [roundUnits_finer hx hshift, abs_rat_eq_mul hshift]
    exact ⟨_, .inl rfl, by simp, picks_self _ _ (by linarith)⟩
  by_cases hr : x.mag % 2 ^ (unit - x.exp).toNat = 0
  · rw [roundUnits_exact hx hshift mode draw hr, abs_rat_eq_div hshift,
      ← Nat.cast_div (Nat.dvd_of_mod_eq_zero hr) (by positivity)]
    exact ⟨_, .inl rfl, by simp, picks_self _ _ (by linarith)⟩
  obtain ⟨up, hround, hzero, hdown, hup, hnear⟩ := roundUnits_inexact hx hshift mode draw hr
  rw [hround, abs_rat_eq_div hshift]
  have hs : 2 ^ (unit - x.exp).toNat ≠ 0 := by positivity
  generalize 2 ^ (unit - x.exp).toNat = s at *
  have hgt := mul_lt_mul_of_pos_right (natDiv_lt_div hs hr) hunit
  have hlt := mul_lt_mul_of_pos_right (div_lt_natDiv_add_one x.mag s) hunit
  have hpick : ((if up then x.mag / s + 1 else x.mag / s : Nat) : ℚ) * 2 ^ unit =
      if up then ((x.mag / s : Nat) + 1 : ℚ) * 2 ^ unit else (x.mag / s : Nat) * 2 ^ unit := by
    cases up <;> simp
  refine ⟨x.mag / s, ?_, ?_, ?_⟩
  · cases up <;> simp
  · rw [hpick]
    cases up <;> simp [hlt.ne', hgt.ne]
  · rw [hpick]
    refine picks_between hgt hlt hzero hdown hup fun h => ?_
    simp only [← sub_mul]
    rw [mul_le_mul_iff_left₀ hunit, mul_le_mul_iff_left₀ hunit]
    exact nearer_of_mod hs up (hnear h)

/-! ## Rounding to a format (R116, R119) -/

theorem minExp_le_unit (f : Fmt) (x : Exact) : f.minExp ≤ f.unit x true := le_max_right _ _

/-- In the units of its precision a magnitude is below twice the least count that fills the precision. -/
theorem abs_rat_lt (f : Fmt) (x : Exact) : |x.rat| < 2 ^ (f.mbits + 1) * 2 ^ f.unit x true := by
  have hexp : x.exp + bitLen x.mag ≤ (f.mbits + 1 : Nat) + f.unit x true := by
    unfold Fmt.unit
    dsimp only
    rw [if_pos rfl]
    omega
  calc |x.rat| = x.mag * 2 ^ x.exp := abs_rat x
    _ < (2 ^ bitLen x.mag : Nat) * 2 ^ x.exp :=
      mul_lt_mul_of_pos_right (by exact_mod_cast lt_two_pow_bitLen x.mag) (by positivity)
    _ = 2 ^ (x.exp + bitLen x.mag) := by
      rw [Nat.cast_pow, Nat.cast_two, ← zpow_natCast, ← zpow_add₀ two_ne_zero, add_comm]
    _ ≤ 2 ^ ((f.mbits + 1 : Nat) + f.unit x true : Int) := zpow_le_zpow_right₀ one_le_two hexp
    _ = 2 ^ (f.mbits + 1) * 2 ^ f.unit x true := by rw [zpow_add₀ two_ne_zero, zpow_natCast]

/-- Above the least units, a magnitude fills the precision. -/
theorem le_abs_rat {f : Fmt} {x : Exact} (hx : x.mag ≠ 0) (h : f.unit x true ≠ f.minExp) :
    2 ^ f.mbits * 2 ^ f.unit x true ≤ |x.rat| := by
  have hlen : bitLen x.mag ≠ 0 := by simp [bitLen, hx]
  have hexp : (f.mbits : Int) + f.unit x true = x.exp + (bitLen x.mag - 1 : Nat) := by
    unfold Fmt.unit at *
    dsimp only at *
    rw [if_pos rfl] at *
    omega
  calc (2 : ℚ) ^ f.mbits * 2 ^ f.unit x true = 2 ^ ((f.mbits : Int) + f.unit x true) := by
        rw [zpow_add₀ two_ne_zero, zpow_natCast]
    _ = (2 ^ (bitLen x.mag - 1) : Nat) * 2 ^ x.exp := by
        rw [hexp, zpow_add₀ two_ne_zero, zpow_natCast, Nat.cast_pow, Nat.cast_two, mul_comm]
    _ ≤ x.mag * 2 ^ x.exp := mul_le_mul_of_nonneg_right (by exact_mod_cast two_pow_le_of_bitLen hx) (by positivity)
    _ = |x.rat| := (abs_rat x).symm

/-- The counts on both sides of a magnitude are counts of the format. -/
theorem inUnits_of_between {f : Fmt} {x : Exact} (hx : x.mag ≠ 0) {lo : Nat} (hlow : lo * 2 ^ f.unit x true ≤ |x.rat|)
    (hhigh : |x.rat| < (lo + 1) * 2 ^ f.unit x true) :
    InUnits f (f.unit x true) lo ∧ InUnits f (f.unit x true) (lo + 1) := by
  have hunit : (0 : ℚ) < 2 ^ f.unit x true := by positivity
  have hfits : lo < 2 ^ (f.mbits + 1) := by
    exact_mod_cast lt_of_mul_lt_mul_right (hlow.trans_lt (abs_rat_lt f x)) hunit.le
  have hfills : f.unit x true = f.minExp ∨ 2 ^ f.mbits ≤ lo := by
    by_cases h : f.unit x true = f.minExp
    · exact .inl h
    · refine .inr (Nat.lt_succ_iff.1 ?_)
      exact_mod_cast lt_of_mul_lt_mul_right ((le_abs_rat hx h).trans_lt hhigh) hunit.le
  exact ⟨⟨minExp_le_unit f x, hfits.le, hfills⟩,
    ⟨minExp_le_unit f x, hfits, hfills.imp_right fun h => h.trans lo.le_succ⟩⟩

/-- The generator after a rounding (R117). -/
def srngAfter (mode : RoundMode) (g : BitVec 32) : BitVec 32 := if mode = .stochastic then srngNext g else g

theorem round_zero (f : Fmt) {x : Exact} (hx : x.more = false) (hmag : x.mag = 0) (mode : RoundMode) (g : BitVec 32) :
    f.round x mode g = ⟨f.signBit x.neg, 0, srngAfter mode g⟩ := by
  simp [Fmt.round, hmag, hx, srngAfter]

@[simp] theorem codeMag_zero (f : Fmt) : codeMag f 0 = 0 := by
  simpa using codeMag_subnormal (f := f) (m := 0) (by positivity)

theorem unitCode_eq_ite {f : Fmt} {u : Int} {q : Nat} (h : InUnits f u q) :
    (if q = 0 then 0 else (u - f.minExp).toNat * 2 ^ f.mbits + q) = unitCode f u q := by
  have hpos : 0 < 2 ^ f.mbits := by positivity
  split
  case isTrue hq =>
    obtain rfl : u = f.minExp := h.fills.resolve_right (by omega)
    simp [unitCode, hq]
  case isFalse => rfl

/-- The result of a rounding that goes to a code: from above the largest finite value it is clamped (R119). -/
def resultAt (f : Fmt) (neg : Bool) (code : Nat) (inexact tiny : Bool) (g : BitVec 32) : FpResult :=
  if f.maxCode < code then ⟨f.signBit neg + f.maxCode, flagOverflow ||| flagSaturate ||| flagInexact, g⟩
  else ⟨f.signBit neg + code, flagWhen inexact flagInexact ||| flagWhen (tiny && inexact) flagUnderflow, g⟩

theorem resultAt_of_le {f : Fmt} {code : Nat} (h : code ≤ f.maxCode) (neg inexact tiny : Bool) (g : BitVec 32) :
    resultAt f neg code inexact tiny g =
      ⟨f.signBit neg + code, flagWhen inexact flagInexact ||| flagWhen (tiny && inexact) flagUnderflow, g⟩ :=
  if_neg (not_lt.2 h)

theorem le_of_resultAt {f : Fmt} {neg : Bool} {code : Nat} {inexact tiny : Bool} {g : BitVec 32}
    (h : (resultAt f neg code inexact tiny g).flags.getLsbD 2 = false) : code ≤ f.maxCode := by
  by_contra hover
  rw [resultAt, if_pos (not_le.1 hover)] at h
  exact absurd h (show (flagOverflow ||| flagSaturate ||| flagInexact).getLsbD 2 ≠ false by decide)

/-- A rounding by the count that it goes to. -/
theorem round_of_units {f : Fmt} {x : Exact} (hmag : x.mag ≠ 0) (mode : RoundMode) (g : BitVec 32)
    (hq : InUnits f (f.unit x true) (roundUnits x (f.unit x true) mode (srngAfter mode g)).1) :
    ∃ tiny : Bool, f.round x mode g =
      let r := roundUnits x (f.unit x true) mode (srngAfter mode g)
      resultAt f x.neg (unitCode f (f.unit x true) r.1) r.2 tiny (srngAfter mode g) := by
  unfold Fmt.round resultAt
  dsimp only
  rw [if_neg (by simp [hmag]), ← unitCode_eq_ite hq]
  exact ⟨_, rfl⟩

/-- A rounding goes to one of the two codes on the sides of the value. -/
theorem round_picks (f : Fmt) {x : Exact} (hx : x.more = false) (mode : RoundMode) (g : BitVec 32) :
    ∃ lo code : Nat, (code = lo ∨ code = lo + 1) ∧
      Picks mode x.neg (codeMag f lo) (codeMag f (lo + 1)) |x.rat| (codeMag f code) ∧
      ∃ inexact tiny : Bool, (inexact = false ↔ codeMag f code = |x.rat|) ∧
        f.round x mode g = resultAt f x.neg code inexact tiny (srngAfter mode g) := by
  by_cases hmag : x.mag = 0
  · refine ⟨0, 0, .inl rfl, ?_, false, false, ?_, ?_⟩
    · rw [rat_eq_zero.2 hmag, abs_zero, codeMag_zero]
      exact picks_self _ _ (codeMag_zero f ▸ codeMag_strictMono f one_pos)
    · simp [rat_eq_zero.2 hmag, codeMag_zero]
    · rw [round_zero f hx hmag, resultAt_of_le (Nat.zero_le _)]
      rfl
  obtain ⟨lo, hpick, hexact, hpicks⟩ := roundUnits_picks hx (f.unit x true) mode (srngAfter mode g)
  obtain ⟨hlo, hhi⟩ := inUnits_of_between hmag hpicks.low hpicks.high
  have hq : InUnits f (f.unit x true) (roundUnits x (f.unit x true) mode (srngAfter mode g)).1 := by
    rcases hpick with h | h <;> rwa [h]
  obtain ⟨tiny, hround⟩ := round_of_units hmag mode g hq
  have hhigh := codeMag_unitCode hhi
  rw [Nat.cast_succ] at hhigh
  refine ⟨unitCode f (f.unit x true) lo, _, ?_, ?_, _, tiny, ?_, hround⟩
  · rcases hpick with h | h <;> rw [h]
    · exact .inl rfl
    · exact .inr rfl
  · rwa [← unitCode_succ, codeMag_unitCode hlo, hhigh, codeMag_unitCode hq]
  · rwa [codeMag_unitCode hq]

/-- A value of the format is returned as that value, with no flag (R116). -/
theorem round_of_codeMag {f : Fmt} {x : Exact} (hx : x.more = false) {code : Nat} (hcode : code ≤ f.maxCode)
    (h : codeMag f code = |x.rat|) (mode : RoundMode) (g : BitVec 32) :
    f.round x mode g = ⟨f.signBit x.neg + code, 0, srngAfter mode g⟩ := by
  obtain ⟨lo, c, -, hpicks, inexact, tiny, hexact, hround⟩ := round_picks f hx mode g
  have hlo : lo = code := by
    have hlow := (codeMag_strictMono f).le_iff_le.1 (hpicks.low.trans_eq h.symm)
    have hhigh := (codeMag_strictMono f).lt_iff_lt.1 (h.trans_lt hpicks.high)
    omega
  have hc : c = code := by
    rcases hpicks.pick with hpick | ⟨-, hless⟩
    · exact hlo ▸ (codeMag_strictMono f).injective hpick
    · exact absurd h (hlo ▸ hless.ne)
  rw [hround, hc, resultAt_of_le hcode, hexact.2 (hc ▸ h)]
  simp [flagWhen]

theorem formats_ebits_pos {f : Fmt} (h : f ∈ formats) : 0 < f.ebits := by
  revert f
  decide

theorem encodingsRoundToThemselves : EncodingsRoundToThemselves := by
  intro f hf c v mode g hc hv
  obtain ⟨neg, code, hcode, rfl, hbits⟩ := exists_code (formats_ebits_pos hf) hv
  rw [round_of_codeMag (codeVal_more ..) hcode (abs_codeVal ..).symm, codeVal_neg, ← hbits hc]
  rfl

/-! ## The neighbour that a rounding picks (R116) -/

/-- What a rounding of x to v owes to another value w of the format. -/
structure NoBetter (mode : RoundMode) (x v w : ℚ) : Prop where
  between : ¬ (v < w ∧ w < x) ∧ ¬ (x < w ∧ w < v)
  down : mode = .down → v ≤ x ∧ (w ≤ x → w ≤ v)
  up : mode = .up → x ≤ v ∧ (x ≤ w → v ≤ w)
  nearest : mode = .nearest → |x - v| ≤ |x - w|

section
variable {mode : RoundMode} {neg : Bool} {L H X V W : ℚ}

/-- No value but those on the two sides comes as near. -/
theorem Picks.between (h : Picks mode neg L H X V) (hW : W ≤ L ∨ H ≤ W) : ¬ (V < W ∧ W < X) ∧ ¬ (X < W ∧ W < V) := by
  obtain ⟨hlow, hhigh, hpick, -, -, -⟩ := h
  constructor <;> rintro ⟨h1, h2⟩ <;> rcases hpick with rfl | ⟨rfl, h3⟩ <;> rcases hW with hW | hW <;> linarith

theorem Picks.le_of_toward (h : Picks mode neg L H X V) (hW : W ≤ L ∨ H ≤ W) (hWX : W ≤ X) : W ≤ V := by
  have hWL : W ≤ L := hW.resolve_right fun hHW => absurd h.high (not_lt.2 (hHW.trans hWX))
  rcases h.pick with rfl | ⟨rfl, hless⟩
  · exact hWL
  · exact hWX.trans h.high.le

theorem Picks.le_of_away (h : Picks mode neg L H X V) (hW : W ≤ L ∨ H ≤ W) (hXW : X ≤ W) : V ≤ W := by
  rcases h.pick with rfl | ⟨rfl, hless⟩
  · exact h.low.trans hXW
  · exact hW.resolve_left fun hWL => absurd hless (not_lt.2 (hXW.trans hWL))

theorem Picks.nearest_le (h : Picks mode neg L H X V) (hW : W ≤ L ∨ H ≤ W) (hmode : mode = .nearest) :
    |X - V| ≤ |X - W| := by
  obtain ⟨hL, hH⟩ := h.nearest hmode
  rcases hW with hW | hW
  · exact hL.trans ((sub_le_sub_left hW X).trans (le_abs_self _))
  · rw [abs_sub_comm X W]
    exact hH.trans ((sub_le_sub_right hW X).trans (le_abs_self _))

end

/-- The magnitude of a code lies on one of the two sides. -/
theorem codeMag_outside (f : Fmt) (c lo : Nat) : codeMag f c ≤ codeMag f lo ∨ codeMag f (lo + 1) ≤ codeMag f c := by
  rw [(codeMag_strictMono f).le_iff_le, (codeMag_strictMono f).le_iff_le]
  omega

/-- Seen from the side of zero that x lies on, a value of the format lies on one of the two sides as well. -/
theorem rat_outside (f : Fmt) (neg n : Bool) (c lo : Nat) :
    (if neg then -(codeVal f n c).rat else (codeVal f n c).rat) ≤ codeMag f lo ∨
      codeMag f (lo + 1) ≤ if neg then -(codeVal f n c).rat else (codeVal f n c).rat := by
  have hpos (k : Nat) : 0 ≤ codeMag f k := abs_nonneg _
  have hsigned : (if neg then -(codeVal f n c).rat else (codeVal f n c).rat) = codeMag f c ∨
      (if neg then -(codeVal f n c).rat else (codeVal f n c).rat) = -codeMag f c := by
    rw [← abs_codeVal f n c]
    cases neg
    · exact eq_or_eq_neg_of_abs_eq rfl
    · exact eq_or_eq_neg_of_abs_eq (abs_neg _)
  rcases hsigned with h | h <;> rw [h]
  · exact codeMag_outside f c lo
  · exact .inl ((neg_nonpos.2 (hpos c)).trans (hpos lo))

theorem Picks.noBetter_of_pos {mode : RoundMode} {L H X V W : ℚ} (h : Picks mode false L H X V) (hW : W ≤ L ∨ H ≤ W) :
    NoBetter mode X V W where
  between := h.between hW
  down hmode := ⟨h.toward (.inr hmode), h.le_of_toward hW⟩
  up hmode := ⟨h.away hmode, h.le_of_away hW⟩
  nearest := h.nearest_le hW

theorem Picks.noBetter_of_neg {mode : RoundMode} {L H X V W : ℚ} (h : Picks mode true L H X V) (hW : -W ≤ L ∨ H ≤ -W) :
    NoBetter mode (-X) (-V) W where
  between := ⟨fun hb => (h.between hW).2 ⟨lt_neg_of_lt_neg hb.2, neg_lt_of_neg_lt hb.1⟩,
    fun hb => (h.between hW).1 ⟨lt_neg_of_lt_neg hb.2, neg_lt_of_neg_lt hb.1⟩⟩
  down hmode := ⟨neg_le_neg (h.away hmode), fun hwx => le_neg_of_le_neg (h.le_of_away hW (le_neg_of_le_neg hwx))⟩
  up hmode := ⟨neg_le_neg (h.toward (.inr hmode)), fun hxw => neg_le_of_neg_le (h.le_of_toward hW (neg_le_of_neg_le hxw))⟩
  nearest hmode := by
    have := h.nearest_le hW hmode
    rwa [← abs_neg, ← abs_neg (X - -W), neg_sub', neg_sub', neg_neg] at this

theorem rat_eq_iff_abs_eq {v x : Exact} (h : v.neg = x.neg) : v.rat = x.rat ↔ |v.rat| = |x.rat| := by
  refine ⟨fun h => by rw [h], fun habs => ?_⟩
  cases hx : x.neg
  · rw [rat_of_pos (h.trans hx), rat_of_pos hx, habs]
  · rw [rat_of_neg (h.trans hx), rat_of_neg hx, habs]

theorem picks_noBetter {mode : RoundMode} {x : Exact} {f : Fmt} {lo code : Nat}
    (h : Picks mode x.neg (codeMag f lo) (codeMag f (lo + 1)) |x.rat| (codeMag f code)) (n : Bool) (c : Nat) :
    NoBetter mode x.rat (codeVal f x.neg code).rat (codeVal f n c).rat := by
  have hW := rat_outside f x.neg n c lo
  cases hx : x.neg <;> rw [hx] at h hW
  · rw [rat_of_pos hx, rat_of_pos (codeVal_neg f false code), abs_codeVal]
    exact h.noBetter_of_pos hW
  · rw [rat_of_neg hx, rat_of_neg (codeVal_neg f true code), abs_codeVal]
    exact h.noBetter_of_neg hW

theorem flags_inexact (inexact tiny : Bool) :
    (flagWhen inexact flagInexact ||| flagWhen (tiny && inexact) flagUnderflow).getLsbD 4 = inexact := by
  cases inexact <;> cases tiny <;> rfl

theorem roundingPicksANeighbour : RoundingPicksANeighbour := by
  intro f hf x mode g hx hfits
  have hebits := formats_ebits_pos hf
  obtain ⟨lo, code, -, hpicks, inexact, tiny, hexact, hround⟩ := round_picks f hx mode g
  have hcode : code ≤ f.maxCode := le_of_resultAt (hround ▸ hfits)
  rw [hround, resultAt_of_le hcode]
  refine ⟨codeVal f x.neg code, value_signBit_add hebits x.neg hcode, ?_, rfl, fun c _ w hw => ?_⟩
  · rw [flags_inexact, hexact, rat_eq_iff_abs_eq (codeVal_neg ..), abs_codeVal]
  · obtain ⟨n, k, -, rfl, -⟩ := exists_code hebits hw
    obtain ⟨⟨hbelow, habove⟩, hdown, hup, hnearest⟩ := picks_noBetter hpicks n k
    refine ⟨hbelow, habove, hdown, hup, fun hmode => ?_, hnearest⟩
    rw [abs_codeVal, abs_codeVal]
    exact ⟨hpicks.toward (.inl hmode), hpicks.le_of_toward (codeMag_outside f k lo)⟩

/-- Settles O8: operations are those of the rationals, and rounding goes to a code next to the value, which is the value's own
where it has one. -/
theorem roundingIsExact : Obligations.RoundingIsExact :=
  ⟨exactArithmetic, roundingPicksANeighbour, encodingsRoundToThemselves⟩

end Sys2Proof.Rounding

/-!
PROOFS. Scalar conversions and immediates (R119, R120, R121, R207, R208): a conversion that widens finds a code of the value (O9).
-/

namespace Sys2Proof.Convert
open Sys2Proof Sys2Proof.Machine Sys2Proof.Claims Sys2Proof.ExactValues Sys2Proof.Rounding

theorem exec_cvt (d a : GReg) (t u : Ty) (r : Rm) (s : State) : exec (.cvt d a t u r) s = execCvt d a t u r s := by rfl

theorem exec_fli (d : GReg) (t : Ty) (h : BitVec 16) (s : State) : exec (.fli d t h) s = execFli d t h s := by rfl

theorem cvt_sets {s : State} {d a : GReg} {t u : Ty} {r : Rm} {v : FpResult}
    (h : convert t u ((s.g a).toNat % 2 ^ u.width) (s.mode r) s.me.srng = v) : SetsFp (.cvt d a t u r) s d t v := by
  unfold SetsFp Completes
  rw [exec_cvt, ← h]
  exact writeFp_sets s d t _

theorem fli_sets (s : State) (d : GReg) (t : Ty) (h : BitVec 16) : SetsG (.fli d t h) s d (asWord t (convertImm t h)) := by
  unfold SetsG Completes
  rw [exec_fli]
  exact writeG_sets s d _

/-! ## Types (R111) -/

theorem tyFmt?_mem_formats {t : Ty} {f : Fmt} (h : tyFmt? t = some f) : f ∈ formats := by
  cases t <;> simp only [tyFmt?, Option.some.injEq, reduceCtorEq] at h <;> subst h <;> decide

theorem tyIntRange?_of_tyFmt? {t : Ty} {f : Fmt} (h : tyFmt? t = some f) : tyIntRange? t = none := by
  cases t <;> simp_all [tyFmt?, tyIntRange?]

/-- The ranges of the integer types: a negative least value is a power of two. -/
theorem intRange_spec {t : Ty} {lo hi : Int} (h : tyIntRange? t = some (lo, hi)) (bits : Nat) :
    lo ≤ hi ∧ lo ≤ tyIntRead t bits ∧ tyIntRead t bits ≤ hi ∧ lo.natAbs ≤ 2 ^ (bitLen lo.natAbs - 1) := by
  cases t <;> simp only [tyIntRange?, Option.some.injEq, Prod.mk.injEq, reduceCtorEq] at h <;> obtain ⟨rfl, rfl⟩ := h
  all_goals
    refine ⟨by decide, ?_, ?_, by decide⟩ <;> simp only [tyIntRead, Ty.width] <;> omega

/-! ## Values that the destination holds (R119) -/

/-- A magnitude that fits the precision and the range of a format is the magnitude of a code. -/
theorem exists_code_of_fits {f : Fmt} {x : Exact} (hmag : x.mag ≤ 2 ^ (f.mbits + 1)) (hexp : f.minExp ≤ x.exp)
    (hmax : |x.rat| ≤ codeMag f f.maxCode) : ∃ code ≤ f.maxCode, codeMag f code = |x.rat| := by
  obtain ⟨code, hcode⟩ := exists_codeMag hexp hmag
  rw [← abs_rat] at hcode
  exact ⟨code, (codeMag_strictMono f).le_iff_le.1 (hcode.trans_le hmax), hcode⟩

/-- A value that fits is converted exactly. -/
theorem round_of_fits {f : Fmt} (hf : f ∈ formats) {x : Exact} (hx : x.more = false) (hmag : x.mag ≤ 2 ^ (f.mbits + 1))
    (hexp : f.minExp ≤ x.exp) (hmax : |x.rat| ≤ codeMag f f.maxCode) (g : BitVec 32) :
    ∃ v, { f.round x .nearest g with flags := 0 } = (⟨v, 0, g⟩ : FpResult) ∧
      ∃ w, f.value v = .fin w ∧ w.rat = x.rat := by
  obtain ⟨code, hcode, habs⟩ := exists_code_of_fits hmag hexp hmax
  refine ⟨f.signBit x.neg + code, ?_, codeVal f x.neg code, value_signBit_add (formats_ebits_pos hf) x.neg hcode, ?_⟩
  · rw [round_of_codeMag hx hcode habs]
    rfl
  · rw [rat_eq_iff_abs_eq (codeVal_neg ..), abs_codeVal, habs]

theorem codeVal_false_rat (f : Fmt) (code : Nat) : (codeVal f false code).rat = codeMag f code := by
  rw [rat_of_pos (codeVal_neg ..), abs_codeVal]

theorem codeMag_maxCode_le_of_fmtWidens {f k : Fmt} (h : fmtWidens f k = true) :
    k.mbits ≤ f.mbits ∧ f.minExp ≤ k.minExp ∧ codeMag k k.maxCode ≤ codeMag f f.maxCode := by
  simp only [fmtWidens, finite_eq, Bool.and_eq_true, decide_eq_true_eq, Bool.not_eq_true'] at h
  obtain ⟨⟨⟨⟨hmbits, hexp⟩, hmax⟩, -⟩, -⟩ := h
  refine ⟨hmbits, hexp, not_lt.1 fun hlt => ?_⟩
  rw [← codeVal_false_rat, ← codeVal_false_rat, ← lt_iff, hmax] at hlt
  cases hlt

theorem fits_of_fmtWidens {f k : Fmt} (h : fmtWidens f k = true) (neg : Bool) {code : Nat} (hcode : code ≤ k.maxCode) :
    (codeVal k neg code).mag ≤ 2 ^ (f.mbits + 1) ∧ f.minExp ≤ (codeVal k neg code).exp ∧
      |(codeVal k neg code).rat| ≤ codeMag f f.maxCode := by
  obtain ⟨hmbits, hexp, hmax⟩ := codeMag_maxCode_le_of_fmtWidens h
  refine ⟨(codeVal_mag_lt k neg code).le.trans (Nat.pow_le_pow_right two_pos (by omega)),
    hexp.trans (minExp_le_codeVal_exp k neg code), ?_⟩
  rw [abs_codeVal]
  exact ((codeMag_strictMono k).monotone hcode).trans hmax

theorem formats_minExp_nonpos {f : Fmt} (h : f ∈ formats) : f.minExp ≤ 0 := by
  revert f
  decide

theorem exactOfInt_eq (v : Int) : exactOfInt v = Exact.ofUnits v 0 false := by
  unfold exactOfInt Exact.ofUnits
  split
  case isTrue h => simp [h]
  case isFalse => rfl

@[simp] theorem exactOfInt_rat (v : Int) : (exactOfInt v).rat = v := by
  rw [exactOfInt_eq, ofUnits_rat, zpow_zero, mul_one]

theorem le_codeMag_of_not_lt {f : Fmt} {code n : Nat} (h : (codeVal f false code).lt (exactOfInt n) = false) :
    (n : ℚ) ≤ codeMag f code := by
  refine not_lt.1 fun hlt => ?_
  have hrat : (exactOfInt n).rat = n := exactOfInt_rat n
  rw [← codeVal_false_rat, ← hrat, ← lt_iff, h] at hlt
  cases hlt

theorem intWidens_bounds {f : Fmt} {range : Int × Int} (h : intWidens f range = true) :
    bitLen range.1.natAbs - 1 ≤ f.mbits + 1 ∧ bitLen range.2.natAbs ≤ f.mbits + 1 ∧
      (range.1.natAbs : ℚ) ≤ codeMag f f.maxCode ∧ (range.2.natAbs : ℚ) ≤ codeMag f f.maxCode := by
  simp only [intWidens, finite_eq, Bool.and_eq_true, decide_eq_true_eq, Bool.not_eq_true', max_le_iff] at h
  obtain ⟨⟨hlo, hhi⟩, hmaxlo, hmaxhi⟩ := h
  exact ⟨hlo, hhi, le_codeMag_of_not_lt hmaxlo, le_codeMag_of_not_lt hmaxhi⟩

/-- An integer of a type whose range fits is not above the range in magnitude. -/
theorem fits_of_intWidens {f : Fmt} (hf : f ∈ formats) {t : Ty} {range : Int × Int} (ht : tyIntRange? t = some range)
    (h : intWidens f range = true) (bits : Nat) :
    (exactOfInt (tyIntRead t bits)).mag ≤ 2 ^ (f.mbits + 1) ∧ f.minExp ≤ (exactOfInt (tyIntRead t bits)).exp ∧
      |(exactOfInt (tyIntRead t bits)).rat| ≤ codeMag f f.maxCode := by
  obtain ⟨-, hlow, hhigh, hpower⟩ := intRange_spec ht bits
  obtain ⟨hlo, hhi, hmaxlo, hmaxhi⟩ := intWidens_bounds h
  refine ⟨?_, formats_minExp_nonpos hf, ?_⟩
  · have hlopow : range.1.natAbs ≤ 2 ^ (f.mbits + 1) := hpower.trans (Nat.pow_le_pow_right two_pos hlo)
    have hhipow : range.2.natAbs < 2 ^ (f.mbits + 1) :=
      (lt_two_pow_bitLen _).trans_le (Nat.pow_le_pow_right two_pos hhi)
    show (tyIntRead t bits).natAbs ≤ _
    omega
  · have hcases : (tyIntRead t bits).natAbs ≤ range.1.natAbs ∨ (tyIntRead t bits).natAbs ≤ range.2.natAbs := by omega
    rw [exactOfInt_rat, ← Int.cast_abs, Int.abs_eq_natAbs, Int.cast_natCast]
    rcases hcases with hle | hle
    · exact (Nat.cast_le.2 hle).trans hmaxlo
    · exact (Nat.cast_le.2 hle).trans hmaxhi

/-! ## What `convert` answers (R119 to R121, R207) -/

section
variable {t u : Ty} {bits : Nat} (mode : RoundMode) (g : BitVec 32)

theorem convert_int_int {lo hi : Int} {rg : Int × Int} (ht : tyIntRange? t = some (lo, hi)) (hu : tyIntRange? u = some rg) :
    convert t u bits mode g = ⟨intBits t.width (max lo (min hi (tyIntRead u bits))),
      if max lo (min hi (tyIntRead u bits)) = tyIntRead u bits then 0 else 0x20, g⟩ := by
  unfold convert
  simp only [ht, hu]
  rw [clamp_eq (intRange_spec ht bits).1, flagWhen_ne]
  rfl

section
variable {lo hi : Int} {f : Fmt} (ht : tyIntRange? t = some (lo, hi)) (hu : tyFmt? u = some f)
include ht hu

theorem convert_int_nan {sg : Bool} (h : f.value bits = .nan sg) :
    convert t u bits mode g = ⟨intBits t.width hi, 1, g⟩ := by
  simp only [convert, ht, tyIntRange?_of_tyFmt? hu, hu, h]
  rfl

theorem convert_int_inf {p : Bool} (h : f.value bits = .inf p) :
    convert t u bits mode g = ⟨intBits t.width (if p then lo else hi), 0x20, g⟩ := by
  simp only [convert, ht, tyIntRange?_of_tyFmt? hu, hu, h]
  rfl

theorem convert_int_fin {e : Exact} (h : f.value bits = .fin e) :
    convert t u bits mode g = ⟨intBits t.width (roundToInt e lo hi mode g).1, (roundToInt e lo hi mode g).2.1,
      (roundToInt e lo hi mode g).2.2⟩ := by
  simp only [convert, ht, tyIntRange?_of_tyFmt? hu, hu, h]

end

theorem convert_float_int {f : Fmt} {rg : Int × Int} (ht : tyFmt? t = some f) (hu : tyIntRange? u = some rg) :
    convert t u bits mode g =
      if intWidens f rg then { f.round (exactOfInt (tyIntRead u bits)) .nearest g with flags := 0 }
      else f.round (exactOfInt (tyIntRead u bits)) mode g := by
  simp only [convert, ht, tyIntRange?_of_tyFmt? ht, hu]

section
variable {f k : Fmt} (ht : tyFmt? t = some f) (hu : tyFmt? u = some k)
include ht hu

theorem convert_float_nan {sg : Bool} (h : k.value bits = .nan sg) :
    convert t u bits mode g = ⟨f.nanCode, invalidIf (sg || f.specials == .none), g⟩ := by
  simp only [convert, tyIntRange?_of_tyFmt? ht, tyIntRange?_of_tyFmt? hu, ht, hu, h]
  rfl

theorem convert_float_inf {p : Bool} (h : k.value bits = .inf p) :
    convert t u bits mode g =
      if fmtWidens f k then ⟨f.infCode p, 0, g⟩ else ⟨f.signBit p + f.maxCode, 0x20, g⟩ := by
  simp only [convert, tyIntRange?_of_tyFmt? ht, tyIntRange?_of_tyFmt? hu, ht, hu, h]
  rfl

theorem convert_float_fin {e : Exact} (h : k.value bits = .fin e) :
    convert t u bits mode g =
      if fmtWidens f k then { f.round e .nearest g with flags := 0 } else f.round e mode g := by
  simp only [convert, tyIntRange?_of_tyFmt? ht, tyIntRange?_of_tyFmt? hu, ht, hu, h]

end

end

/-! ## Immediates (R127, R208) -/

/-- Only a format with infinities has the encoding of one. -/
theorem eq_infCode {f : Fmt} {bits : Nat} {p : Bool} (hbits : bits < 2 ^ f.width) (h : f.value bits = .inf p) :
    bits = f.infCode p := by
  simp only [Fmt.value, finite_eq] at h
  cases hs : f.specials with
  | ieee =>
    rw [hs] at h
    dsimp only at h
    split_ifs at h with htop hzero
    have hcode := Nat.div_add_mod' (bits % 2 ^ (f.ebits + f.mbits)) (2 ^ f.mbits)
    rw [htop, hzero, add_zero] at hcode
    rw [← signBit_add_code f hbits, Machine.Num.inf.inj h, ← hcode, Fmt.infCode]
  | onlyNan =>
    rw [hs] at h
    dsimp only at h
    split_ifs at h
  | none =>
    rw [hs] at h
    cases h

theorem convertImm_of_ne {t : Ty} (hne : t ≠ .bf16) (h : BitVec 16) :
    convertImm t h = (convert t .bf16 h.toNat .nearest 0).bits := by
  unfold convertImm
  split
  · exact absurd rfl hne
  · rfl

section
variable {t : Ty} {f : Fmt} {h : BitVec 16} (ht : tyFmt? t = some f)
include ht

theorem convertImm_nan {sg : Bool} (hv : (ftyFmt .bf16).value h.toNat = .nan sg) : convertImm t h = f.nanCode := by
  by_cases hne : t = .bf16
  · subst hne
    obtain rfl : ftyFmt .bf16 = f := Option.some.inj ht
    simp only [convertImm, hv]
  · rw [convertImm_of_ne hne, convert_float_nan .nearest 0 ht rfl hv]

/-- BF16 is widened to FP64 and FP32 alone. -/
theorem fmtWidens_bf16 (hne : t ≠ .bf16) : fmtWidens f (ftyFmt .bf16) = decide (t = .f64 ∨ t = .f32) := by
  cases t <;> simp only [tyFmt?, Option.some.injEq, reduceCtorEq] at ht <;> subst ht
  case bf16 => exact absurd rfl hne
  case f64 => decide +kernel
  all_goals decide

theorem convertImm_inf {p : Bool} (hv : (ftyFmt .bf16).value h.toNat = .inf p) :
    convertImm t h = if t = .f64 ∨ t = .f32 ∨ t = .bf16 then f.infCode p else f.signBit p + f.maxCode := by
  by_cases hne : t = .bf16
  · subst hne
    obtain rfl : ftyFmt .bf16 = f := Option.some.inj ht
    rw [if_pos (by simp), ← eq_infCode h.isLt hv]
    simp only [convertImm, hv]
  · rw [convertImm_of_ne hne, convert_float_inf .nearest 0 ht rfl hv, fmtWidens_bf16 ht hne]
    by_cases hwide : t = .f64 ∨ t = .f32 <;> simp [hwide, hne]

theorem convertImm_fin {e : Exact} (hv : (ftyFmt .bf16).value h.toNat = .fin e) :
    convertImm t h = (f.round e .nearest 0).bits := by
  by_cases hne : t = .bf16
  · subst hne
    obtain rfl : ftyFmt .bf16 = f := Option.some.inj ht
    rw [encodingsRoundToThemselves _ (tyFmt?_mem_formats ht) h.toNat e .nearest 0 h.isLt hv]
    simp only [convertImm, hv]
  · rw [convertImm_of_ne hne, convert_float_fin .nearest 0 ht rfl hv]
    split <;> rfl

end

theorem conversions : Conversions := by
  intro s d a t u r h bits mode g sets
  refine ⟨fun lo hi rg ht hu => cvt_sets (convert_int_int mode g ht hu),
    fun lo hi f sg ht hu hv => cvt_sets (convert_int_nan mode g ht hu hv),
    fun lo hi f p ht hu hv => cvt_sets (convert_int_inf mode g ht hu hv),
    fun lo hi f e ht hu hv => cvt_sets (convert_int_fin mode g ht hu hv),
    fun f rg ht hu hw => cvt_sets ((convert_float_int mode g ht hu).trans (by rw [hw]; rfl)),
    fun f rg ht hu hw => ?_,
    fun f k sg ht hu hv => cvt_sets (convert_float_nan mode g ht hu hv),
    fun f k p ht hu hv hw => cvt_sets ((convert_float_inf mode g ht hu hv).trans (by rw [hw]; rfl)),
    fun f k p ht hu hv hw => cvt_sets ((convert_float_inf mode g ht hu hv).trans (by rw [hw]; rfl)),
    fun f k e ht hu hv hw => cvt_sets ((convert_float_fin mode g ht hu hv).trans (by rw [hw]; rfl)),
    fun f k e ht hu hv hw => ?_, fli_sets s d t h, fun f sg ht => convertImm_nan ht, fun f p ht => convertImm_inf ht,
    fun f e ht => convertImm_fin ht⟩
  · have hf := tyFmt?_mem_formats ht
    obtain ⟨hmag, hexp, hmax⟩ := fits_of_intWidens hf hu hw bits
    obtain ⟨v, hround, w, hvalue, hrat⟩ := round_of_fits hf rfl hmag hexp hmax g
    exact ⟨v, cvt_sets ((convert_float_int mode g ht hu).trans (by rw [hw]; exact hround)), w, hvalue,
      hrat.trans (exactOfInt_rat _)⟩
  · obtain ⟨neg, code, hcode, rfl, -⟩ := exists_code (formats_ebits_pos (tyFmt?_mem_formats hu)) hv
    obtain ⟨hmag, hexp, hmax⟩ := fits_of_fmtWidens hw neg hcode
    obtain ⟨v, hround, hvalue⟩ := round_of_fits (tyFmt?_mem_formats ht) (codeVal_more ..) hmag hexp hmax g
    exact ⟨v, cvt_sets ((convert_float_fin mode g ht hu hv).trans (by rw [hw]; exact hround)), hvalue⟩

/-- Settles O9: `convert` answers each pair of types by one equation, and a widening conversion finds a code of the value, whose
rounding is exact. -/
theorem conversionForms : Obligations.ConversionForms := conversions

end Sys2Proof.Convert

/-!
PROOFS. Multiply steps of the matrix engine (R123, R125): sums of products and of squared differences (O18).
-/

namespace Sys2Proof.MatrixSteps
open Sys2Proof Sys2Proof.Machine Sys2Proof.Claims Sys2Proof.ExactValues

/-! ## Sums over K -/

theorem sum_map_range {M : Type} [AddCommMonoid M] (f : Nat → M) (k : Nat) :
    ((List.range k).map f).sum = ∑ n ∈ Finset.range k, f n := rfl

/-! ## Integers (R125) -/

theorem intStep_eq (t : Ty) (dist : Bool) (k : Nat) (o : MxOperands) (c i j : Nat) :
    let x (n : Nat) := tyIntRead t (o.a i n)
    let y (n : Nat) := tyIntRead t (o.b n j)
    let v := tyIntRead .i32 c + ∑ n ∈ Finset.range k, if dist then (x n - y n) ^ 2 else x n * y n
    let w := max (-2 ^ 31) (min (2 ^ 31 - 1) v)
    intStep t dist k o c i j = ⟨(w % 2 ^ 32).toNat, if w = v then 0 else 0x20, 0⟩ := by
  intro x y v w
  have hv : tyIntRead .i32 c + ((List.range k).map fun n =>
      if dist then (x n - y n) * (x n - y n) else x n * y n).foldl (· + ·) 0 = v := by
    simp only [← List.sum_eq_foldl, sum_map_range, ← sq, v]
  unfold intStep
  dsimp only
  rw [hv, clamp_eq (by decide), flagWhen_ne]
  rfl

/-! ## Floating point (R123) -/

/-- Among finite terms there is no infinity and no NaN. -/
theorem sumAll_fin (g : Fmt) (es : List Exact) (mode : RoundMode) (srng : BitVec 32) :
    g.sumAll (es.map .fin) mode srng = g.round (exactSum mode es) mode srng := by
  simp [Fmt.sumAll, Machine.Num.isNan]

/-- A product, or a squared difference, before it is added. -/
theorem productTerm_fin (dist : Bool) (x y : Exact) : ∃ e, productTerm dist (.fin x) (.fin y) = .fin e ∧
    e.rat = if dist then (x.rat - y.rat) ^ 2 else x.rat * y.rat := by
  cases dist with
  | false => exact ⟨exactMul x y, rfl, exactMul_rat x y⟩
  | true =>
    obtain ⟨e, he, hrat⟩ := opDistSq_fin x y
    exact ⟨e, by simp [productTerm, he], hrat⟩

theorem floatStep_fin {f g : Fmt} (dist : Bool) {k : Nat} {o : MxOperands} {c i j : Nat} {z : Exact} {x y : Nat → Exact}
    (hz : g.value c = .fin z) (hx : ∀ n < k, f.value (o.a i n) = .fin (x n)) (hy : ∀ n < k, f.value (o.b n j) = .fin (y n)) :
    ∃ e : Exact, e.more = false ∧
      e.rat = z.rat + ∑ n ∈ Finset.range k, (if dist then ((x n).rat - (y n).rat) ^ 2 else (x n).rat * (y n).rat) ∧
      floatStep f g dist k o c i j = g.round e .nearest 0 := by
  choose term hterm hrat using fun n => productTerm_fin dist (x n) (y n)
  have hterms : ((List.range k).map fun n => productTerm dist (f.value (o.a i n)) (f.value (o.b n j))) =
      ((List.range k).map term).map .fin := by
    rw [List.map_map]
    refine List.map_congr_left fun n hn => ?_
    rw [hx n (List.mem_range.1 hn), hy n (List.mem_range.1 hn), hterm n]
    rfl
  refine ⟨exactSum .nearest (z :: (List.range k).map term), exactSum_more _ _, ?_, ?_⟩
  · rw [exactSum_rat, List.map_cons, List.sum_cons, List.map_map, sum_map_range]
    simp only [Function.comp_apply, hrat]
  · rw [floatStep, hz, hterms, ← List.map_cons, sumAll_fin]

section
variable {r : MxRegs} {dist : Bool} {o : MxOperands} {c i j : Nat}

theorem multiplyStep_int (h : tyFmt? (tyOfCode (mxTc r)) = none) :
    multiplyStep r dist o c i j = intStep (tyOfCode (mxTc r)) dist r.mkDim.toNat o c i j := by
  simp only [multiplyStep, h]

theorem multiplyStep_float {f : Fmt} (h : tyFmt? (tyOfCode (mxTc r)) = some f) (hblocks : mxBlocks r = false) :
    multiplyStep r dist o c i j =
      floatStep f (if tyOfCode (mxTc r) = .f64 then ftyFmt .f64 else ftyFmt .f32) dist r.mkDim.toNat o c i j := by
  simp [multiplyStep, h, hblocks]

end

theorem multiplySteps : MultiplySteps := by
  intro r dist o c i j
  refine ⟨fun ht => ?_, fun f z x y ht hblocks => fun hz hx hy => ?_⟩
  · rw [multiplyStep_int ht]
    exact intStep_eq ..
  · rw [multiplyStep_float ht hblocks]
    exact floatStep_fin dist hz hx hy

/-- Settles O18: a step's terms are exact products or squared differences, and their sum with the element is clamped or rounded
once. -/
theorem multiplyStepsAreExact : Obligations.MultiplyStepsAreExact := multiplySteps

end Sys2Proof.MatrixSteps

/-!
PROOFS. Words and their instructions (R141 to R167): a decoder's answer is followed through its binds to the fields that were
read, and the laws of the instructions read each word back (O54, O55, O56).
-/

namespace Sys2Proof.Encodings
open Sys2Proof Sys2Proof.Claims Sys2Proof.Laws

set_option Elab.async false

/-! ## What a decoder yields -/

/-- Whatever a decoder answers has a property; a rejection answers nothing. -/
def Yields {α : Type} (x : Except Reject α) (P : α → Prop) : Prop := ∀ a, x = .ok a → P a

section
variable {α β : Type} {P : α → Prop}

@[simp] theorem yields_ok {a : α} : Yields (.ok a) P ↔ P a := by simp [Yields]

@[simp] theorem yields_error {e : Reject} : Yields (.error e) P := by simp [Yields]

@[simp] theorem yields_bind {x : Except Reject β} {f : β → Except Reject α} :
    Yields (x >>= f) P ↔ Yields x fun b => Yields (f b) P := by
  cases x <;> simp [bind, Except.bind]

@[simp] theorem yields_ite {c : Prop} [Decidable c] {x y : Except Reject α} :
    Yields (if c then x else y) P ↔ (c → Yields x P) ∧ (¬ c → Yields y P) := by
  split <;> simp_all

/-- A reader that undoes a code, and reads nothing else, answers just what the number read is the code of. -/
theorem yields_inverse {ofCode : Nat → Except Reject α} {code : α → Nat} {n : Nat} (hcode : ∀ a, ofCode (code a) = .ok a)
    (hread : ∀ a, ofCode n = .ok a → n = code a) : Yields (ofCode n) P ↔ ∀ a, n = code a → P a := by
  have hiff : ∀ a, ofCode n = .ok a ↔ n = code a := fun a => ⟨hread a, fun h => h ▸ hcode a⟩
  simp only [Yields, hiff]

end

/-! ## Codes and fields (R141 to R145) -/

section
variable {n : Nat}

@[simp] theorem yields_iTy {P : ITy → Prop} : Yields (ITy.ofCode n) P ↔ ∀ t, n = t.code → P t := by
  refine yields_inverse ITy.ofCode_code fun t h => ?_
  unfold ITy.ofCode at h
  split at h <;> cases h <;> rfl

@[simp] theorem yields_fTy {P : FTy → Prop} : Yields (FTy.ofCode n) P ↔ ∀ t, n = t.code → P t := by
  refine yields_inverse FTy.ofCode_code fun t h => ?_
  unfold FTy.ofCode at h
  split at h <;> cases h <;> rfl

@[simp] theorem yields_ty {P : Ty → Prop} : Yields (Ty.ofCode n) P ↔ ∀ t, n = t.code → P t := by
  refine yields_inverse Ty.ofCode_code fun t h => ?_
  unfold Ty.ofCode at h
  split at h <;> cases h <;> rfl

@[simp] theorem yields_laneTy {P : LaneTy → Prop} : Yields (LaneTy.ofCode n) P ↔ ∀ t, n = t.code → P t := by
  refine yields_inverse LaneTy.ofCode_code fun t h => ?_
  unfold LaneTy.ofCode at h
  split at h <;> cases h <;> rfl

@[simp] theorem yields_rm {P : Rm → Prop} : Yields (Rm.ofCode n) P ↔ ∀ r, n = r.code → P r := by
  refine yields_inverse Rm.ofCode_code fun r h => ?_
  unfold Rm.ofCode at h
  split at h <;> cases h <;> rfl

@[simp] theorem yields_scope {P : Scope → Prop} : Yields (Scope.ofCode n) P ↔ ∀ s, n = s.code → P s := by
  refine yields_inverse Scope.ofCode_code fun s h => ?_
  unfold Scope.ofCode at h
  split at h <;> cases h <;> rfl

@[simp] theorem yields_migSize {P : MigSize → Prop} : Yields (MigSize.ofCode n) P ↔ ∀ z, n = z.code → P z := by
  refine yields_inverse MigSize.ofCode_code fun z h => ?_
  unfold MigSize.ofCode at h
  split at h <;> cases h <;> rfl

theorem aWidth_code_ofCode (h : n < 2) : (AWidth.ofCode n).code = n := by
  interval_cases n <;> rfl

theorem laneSize_code_ofCode (h : n < 4) : (LaneSize.ofCode n).code = n := by
  interval_cases n <;> rfl

/-- Flags that are accepted are well-formed, and their code is the one read. -/
theorem yields_jobFlags {P : JobFlags → Prop} (h : ∀ f : JobFlags, f.wf = true → n = f.code → P f) :
    Yields (JobFlags.ofCode n) P := by
  simp only [JobFlags.ofCode, yields_bind, yields_scope, yields_ite, yields_ok, yields_error, implies_true, and_true]
  intro s hs hwf
  refine h _ hwf ?_
  simp only [JobFlags.code, beq_iff_eq]
  split <;> split <;> omega

@[simp] theorem yields_pField {P : PReg → Prop} : Yields (pField n) P ↔ ∀ p : PReg, n = p → P p := by
  refine yields_inverse pField_val fun p h => ?_
  unfold pField at h
  split at h
  · cases h; rfl
  · cases h

@[simp] theorem yields_vField {P : VReg → Prop} : Yields (vField n) P ↔ ∀ v : VReg, n = v → P v := by
  refine yields_inverse vField_val fun v h => ?_
  unfold vField at h
  split at h
  · cases h; rfl
  · cases h

@[simp] theorem yields_mField {P : MReg → Prop} : Yields (mField n) P ↔ ∀ m : MReg, n = m → P m := by
  refine yields_inverse mField_val fun m h => ?_
  unfold mField at h
  split at h
  · cases h; rfl
  · cases h

@[simp] theorem yields_mDest {P : MReg → Prop} : Yields (mDest n) P ↔ ∀ m : MReg, n = m → m ≠ 0 → P m := by
  simp [mDest]

@[simp] theorem yields_zero {P : Instr → Prop} {i : Instr} : Yields (zero n i) P ↔ (n = 0 → P i) := by
  simp [zero]

@[simp] theorem yields_noRounding {P : Instr → Prop} {i : Instr} : Yields (noRounding n i) P ↔ (n = 0 → P i) := by
  simp [noRounding]

@[simp] theorem yields_pairField {P : GReg → Prop} : Yields (pairField n) P ↔ (n % 2 = 0 → P (gField n)) := by
  simp [pairField]

theorem maskField_toNat (n : Nat) : (maskField n : Nat) = n % 4 := rfl

theorem imm16_toNat {b fn : Nat} (hb : b < 32) (hfn : fn < 2048) : hi (imm16 b fn) = b ∧ lo (imm16 b fn) = fn := by
  simp only [hi, lo, imm16, BitVec.toNat_ofNat]
  omega

theorem creg_toNat {b fn : Nat} (hb : b < 32) (hfn : fn < 2048) : (creg b fn).toNat = b * 32 + fn / 64 := by
  simp only [creg, BitVec.toNat_ofNat]
  omega

end

/-! ## Forms that several majors share -/

section
variable {d a b fn : Nat} {P : Instr → Prop}

theorem yields_pred3 {i : PReg → PReg → PReg → Instr} :
    Yields (pred3 d a b i) P ↔ ∀ x : PReg, d = x → ∀ y : PReg, a = y → ∀ z : PReg, b = z → P (i x y z) := by
  simp [pred3]

theorem yields_vec3 {i : VReg → VReg → VReg → Instr} :
    Yields (vec3 d a b i) P ↔ ∀ x : VReg, d = x → ∀ y : VReg, a = y → ∀ z : VReg, b = z → P (i x y z) := by
  simp [vec3]

theorem yields_vec2 {i : VReg → VReg → Instr} :
    Yields (vec2 d a b i) P ↔ ∀ x : VReg, d = x → ∀ y : VReg, a = y → b = 0 → P (i x y) := by
  simp [vec2]

theorem yields_vcmp3 {i : MReg → VReg → VReg → Instr} :
    Yields (vcmp3 d a b i) P ↔
      ∀ x : MReg, d = x → x ≠ 0 → ∀ y : VReg, a = y → ∀ z : VReg, b = z → P (i x y z) := by
  simp [vcmp3]

theorem yields_vred {i : GReg → VReg → ITy → MReg → Instr} :
    Yields (vred d a b fn i) P ↔
      ∀ t : ITy, fn / 128 = t.code → ∀ y : VReg, a = y → b = 0 → P (i (gField d) y t (maskField (fn / 32))) := by
  simp [vred]

theorem yields_vfred {i : GReg → VReg → FTy → MReg → Instr} :
    Yields (vfred d a b fn i) P ↔
      ∀ t : FTy, fn / 128 = t.code → ∀ y : VReg, a = y → b = 0 → P (i (gField d) y t (maskField (fn / 32))) := by
  simp [vfred]

theorem yields_shiftImm {i : BitVec 6 → Instr} :
    Yields (shiftImm b fn i) P ↔ (b = 0 ∧ fn < 64 → P (i (BitVec.ofNat 6 fn))) := by
  simp [shiftImm]

end

/-! ## The word of an instruction -/

/-- The fields are those of a well-formed instruction. -/
def Reads (f : Fields) (i : Instr) : Prop := i.wf = true ∧ i.fields = some f

/-- An instruction reads some fields when each of its own is what stands there, which arithmetic mostly shows. -/
theorem reads_of {i : Instr} {op d a b fn d' a' b' fn' : Nat} (hf : i.fields = some ⟨op, d', a', b', fn'⟩)
    (hw : i.wf = true) (hd : d' = d := by omega) (ha : a' = a := by omega) (hb : b' = b := by omega)
    (hfn : fn' = fn := by omega) : Reads ⟨op, d, a, b, fn⟩ i := by
  subst hd ha hb hfn
  exact ⟨hw, hf⟩

section
variable {op fn : Nat} {d a b : GReg}

theorem job_reads {i : GReg → GReg → GReg → JobFlags → Instr} {c : Nat} (hc : fn % 32 = c)
    (hf : ∀ d a b f, (i d a b f).fields = some ⟨op, d, a, b, f.code * 32 + c⟩) (hw : ∀ d a b f, (i d a b f).wf = f.wf) :
    Yields (job d a b fn i) (Reads ⟨op, d, a, b, fn⟩) := by
  simp only [job, yields_bind, yields_ok, gField_val]
  exact yields_jobFlags fun f hwf hcode => reads_of (hf ..) ((hw ..).trans hwf)

theorem decodeAlu_reads : Yields (decodeAlu d a b fn) (Reads ⟨0x01, d, a, b, fn⟩) := by
  simp only [decodeAlu, gField_val]
  split
  case h_29 => -- sel, with its predicate in fn
    have hk := Fin.val_ofNat 16 (fn / 64)
    simp only [yields_ite, yields_ok, yields_error, implies_true, and_true]
    rintro ⟨hn, hlt⟩
    exact reads_of rfl rfl
  all_goals
    simp only [yields_ok, yields_zero]
    intros
    exact reads_of rfl rfl

theorem decodeCmp_reads : Yields (decodeCmp d a b fn) (Reads ⟨0x0A, d, a, b, fn⟩) := by
  simp only [decodeCmp, gField_val, yields_bind, yields_pField]
  intro p hp
  split
  case h_11 => exact yields_error
  all_goals exact yields_ok.2 (reads_of rfl rfl)

theorem decodePred_reads : Yields (decodePred d a b fn) (Reads ⟨0x0E, d, a, b, fn⟩) := by
  simp only [decodePred, gField_val]
  split
  case h_11 => exact yields_error
  all_goals
    simp only [yields_pred3, yields_bind, yields_pField, yields_zero]
    intros
    exact reads_of rfl rfl

theorem decodeJump_reads : Yields (decodeJump d a b fn) (Reads ⟨0x16, d, a, b, fn⟩) := by
  simp only [decodeJump, gField_val]
  split
  · exact yields_zero.2 fun h => reads_of rfl rfl
  · exact yields_zero.2 fun h => reads_of rfl rfl
  · exact yields_error

theorem decodeSubByte_reads (hfn : fn < 2048) : Yields (decodeSubByte d a b fn) (Reads ⟨0x25, d, a, b, fn⟩) := by
  simp only [decodeSubByte, gField_val, yields_ite, yields_ok, yields_error, implies_true, true_and]
  have hq := Fin.val_ofNat 8 (fn / 256)
  refine fun hzero => ⟨fun heven => ?_, fun hodd => reads_of rfl rfl⟩
  split
  · exact yields_ok.2 (reads_of rfl rfl (hfn := by rw [if_neg Bool.false_ne_true]; omega))
  · exact yields_ok.2 (reads_of rfl rfl (hfn := by rw [if_pos rfl]; omega))
  · exact yields_error

theorem decodeAtomic_reads : Yields (decodeAtomic d a b fn) (Reads ⟨0x26, d, a, b, fn⟩) := by
  simp only [decodeAtomic, gField_val, yields_ite, yields_error, implies_true, true_and]
  have hw := aWidth_code_ofCode (n := fn % 2) (by omega)
  intro hb
  split
  case h_9 => exact yields_error
  all_goals exact yields_ok.2 (reads_of rfl rfl)

theorem decodeFp_reads : Yields (decodeFp d a b fn) (Reads ⟨0x28, d, a, b, fn⟩) := by
  simp only [decodeFp, gField_val, yields_bind, yields_fTy, yields_rm]
  intro t ht r hr
  split
  case h_11 => exact yields_error
  all_goals
    simp only [yields_ok, yields_zero, yields_noRounding, yields_bind]
    intros
    exact reads_of rfl rfl

theorem decodeFcmp_reads : Yields (decodeFcmp d a b fn) (Reads ⟨0x29, d, a, b, fn⟩) := by
  simp only [decodeFcmp, gField_val, yields_bind, yields_pField, yields_fTy]
  intro p hp t ht
  split
  case h_5 => exact yields_error
  all_goals exact yields_ok.2 (reads_of rfl rfl)

theorem decodeCvt_reads : Yields (decodeCvt d a b fn) (Reads ⟨0x2A, d, a, b, fn⟩) := by
  simp only [decodeCvt, gField_val, yields_bind, yields_ty, yields_rm, yields_ite, yields_error, yields_zero, implies_true,
    true_and]
  intro t ht s hs r hr hne hb
  exact reads_of rfl (bne_iff_ne.2 hne)

theorem decodeFli_reads (hfn : fn < 2048) : Yields (decodeFli d a b fn) (Reads ⟨0x2B, d, a, b, fn⟩) := by
  simp only [decodeFli, gField_val, yields_bind, yields_ty, yields_ite, yields_ok, yields_error, implies_true, and_true]
  intro t ht hfloat
  obtain ⟨hhi, hlo⟩ := imm16_toNat b.isLt hfn
  exact reads_of rfl hfloat

theorem decodeVint_reads : Yields (decodeVint d a b fn) (Reads ⟨0x2C, d, a, b, fn⟩) := by
  simp only [decodeVint, yields_bind, yields_iTy]
  intro t ht
  have hk := maskField_toNat (fn / 32)
  split
  case h_20 => -- vdot4, of i32 lanes alone
    simp only [yields_ite, yields_vec3, yields_error, implies_true, and_true]
    rintro rfl
    have hi32 : ITy.code .i32 = 2 := rfl
    intros
    exact reads_of rfl rfl
  case h_21 => exact yields_error
  all_goals
    simp only [yields_vec3, yields_vec2]
    intros
    exact reads_of rfl rfl

theorem decodeVfpA_reads : Yields (decodeVfpA d a b fn) (Reads ⟨0x2D, d, a, b, fn⟩) := by
  simp only [decodeVfpA, yields_bind, yields_fTy, yields_rm]
  intro t ht r hr
  have hk := maskField_toNat (fn / 32)
  obtain h | h | h | h : fn % 4 = 0 ∨ fn % 4 = 1 ∨ fn % 4 = 2 ∨ fn % 4 = 3 := by omega
  all_goals
    simp only [h, yields_vec3]
    intros
    exact reads_of rfl rfl

theorem decodeVfpB_reads : Yields (decodeVfpB d a b fn) (Reads ⟨0x2E, d, a, b, fn⟩) := by
  simp only [decodeVfpB, yields_bind, yields_fTy, yields_rm]
  intro t ht r hr
  have hk := maskField_toNat (fn / 32)
  obtain h | h | h | h : fn % 4 = 0 ∨ fn % 4 = 1 ∨ fn % 4 = 2 ∨ fn % 4 = 3 := by omega
  all_goals
    simp only [h, yields_bind, yields_vec3, yields_vec2, yields_noRounding]
    intros
    exact reads_of rfl rfl

theorem decodeVfpU_reads : Yields (decodeVfpU d a b fn) (Reads ⟨0x2F, d, a, b, fn⟩) := by
  simp only [decodeVfpU, yields_bind, yields_fTy]
  intro t ht
  have hk := maskField_toNat (fn / 32)
  split
  case h_4 => exact yields_error
  all_goals
    simp only [yields_vec3, yields_vec2]
    intros
    exact reads_of rfl rfl

theorem decodeVcmp_reads : Yields (decodeVcmp d a b fn) (Reads ⟨0x30, d, a, b, fn⟩) := by
  simp only [decodeVcmp]
  have hk := maskField_toNat (fn / 32)
  split
  case h_9 => exact yields_error
  all_goals
    simp only [yields_bind, yields_laneTy, yields_iTy, yields_fTy, yields_vcmp3]
    intro t ht m hm hne x hx y hy
    exact reads_of rfl (bne_iff_ne.2 hne)

theorem vcvtParts_le (t s : Ty) : vcvtParts t s ≤ 8 := min_le_left ..

theorem decodeVcvt_reads : Yields (decodeVcvt d a b fn) (Reads ⟨0x31, d, a, b, fn⟩) := by
  simp only [decodeVcvt, yields_bind, yields_ty, yields_rm, yields_vField, yields_ite, yields_ok, yields_error, implies_true,
    true_and, and_true]
  intro t ht s hs r hr hne hpart x hx y hy
  have hle := vcvtParts_le t s
  have hp := Fin.val_ofNat 8 (b / 4)
  have hk := maskField_toNat b
  have hval : (Fin.ofNat 8 (b / 4)).val < vcvtParts t s := by omega
  exact reads_of rfl (Bool.and_eq_true_iff.2 ⟨bne_iff_ne.2 hne, decide_eq_true hval⟩)

theorem decodeVmem_reads : Yields (decodeVmem d a b fn) (Reads ⟨0x34, d, a, b, fn⟩) := by
  simp only [decodeVmem, gField_val, yields_bind, yields_vField, yields_ite, yields_error, implies_true, true_and]
  have hz := laneSize_code_ofCode (n := fn / 16 % 4) (by omega)
  have hk := maskField_toNat (fn / 4)
  intro v hv hzero
  obtain h | h | h | h : fn % 4 = 0 ∨ fn % 4 = 1 ∨ fn % 4 = 2 ∨ fn % 4 = 3 := by omega
  all_goals
    simp only [h, yields_ok, yields_zero]
    intros
    exact reads_of rfl rfl

theorem decodeVlane_reads : Yields (decodeVlane d a b fn) (Reads ⟨0x35, d, a, b, fn⟩) := by
  simp only [decodeVlane, gField_val]
  have hk := maskField_toNat (fn / 32)
  split
  case h_15 => exact yields_error
  all_goals
    simp only [yields_bind, yields_iTy, yields_vField, yields_zero, yields_vec3, yields_vec2, yields_vred, yields_vfred,
      gField_val]
    intros
    exact reads_of rfl rfl

theorem decodeMask_reads : Yields (decodeMask d a b fn) (Reads ⟨0x36, d, a, b, fn⟩) := by
  simp only [decodeMask, gField_val]
  split
  case h_7 | h_8 => -- mtog and mpop, the forms without a mask destination
    simp only [yields_bind, yields_mField, yields_zero]
    intros
    exact reads_of rfl rfl
  case h_9 => exact yields_error
  all_goals
    simp only [yields_bind, yields_mDest, yields_mField, yields_ok, yields_zero]
    intro m hm hne
    intros
    exact reads_of rfl (bne_iff_ne.2 hne)

theorem decodeMx_reads : Yields (decodeMx d a b fn) (Reads ⟨0x3A, d, a, b, fn⟩) := by
  simp only [decodeMx, gField_val]
  split
  case h_1 | h_2 => exact yields_zero.2 fun h => reads_of rfl rfl
  case h_10 => exact yields_error
  all_goals exact job_reads ‹_› (fun _ _ _ _ => rfl) fun _ _ _ _ => rfl

theorem decodeCp_reads : Yields (decodeCp d a b fn) (Reads ⟨0x3B, d, a, b, fn⟩) := by
  simp only [decodeCp, gField_val]
  split
  case h_2 | h_3 => exact job_reads ‹_› (fun _ _ _ _ => rfl) fun _ _ _ _ => rfl
  case h_6 => exact yields_error
  all_goals exact yields_zero.2 fun h => reads_of rfl rfl

theorem decodeEvent_reads : Yields (decodeEvent d a b fn) (Reads ⟨0x3C, d, a, b, fn⟩) := by
  simp only [decodeEvent, gField_val]
  split
  case h_12 => exact yields_error
  all_goals
    simp only [yields_ok, yields_zero]
    intros
    exact reads_of rfl rfl

theorem decodeThread_reads (hfn : fn < 2048) : Yields (decodeThread d a b fn) (Reads ⟨0x3D, d, a, b, fn⟩) := by
  simp only [decodeThread, gField_val]
  have hc := BitVec.toNat_ofNat (fn / 32) 6
  split
  case h_2 => -- mig
    simp only [yields_ite, yields_error, yields_bind, yields_migSize, yields_ok, implies_true, true_and]
    intros
    exact reads_of rfl rfl
  case h_12 => exact yields_error
  all_goals exact yields_zero.2 fun h => reads_of rfl rfl

theorem decodeSystem_reads (hfn : fn < 2048) : Yields (decodeSystem d a b fn) (Reads ⟨0x3E, d, a, b, fn⟩) := by
  simp only [decodeSystem, gField_val]
  have hc := creg_toNat b.isLt hfn
  split
  case h_6 => exact yields_error
  all_goals exact yields_zero.2 fun h => reads_of rfl rfl

theorem decodePfx_reads (hfn : fn < 2048) : Yields (decodePfx d a b fn) (Reads ⟨0x3F, d, a, b, fn⟩) := by
  simp only [decodePfx]
  have hh := BitVec.toNat_ofNat (d % 8 * 2 ^ 21 + a * 2 ^ 16 + b * 2 ^ 11 + fn) 24
  split
  · exact yields_zero.2 fun h => reads_of rfl rfl
  · exact yields_ok.2 (reads_of rfl rfl)
  · exact yields_error

theorem ldQ_wf {d a : GReg} {x : BitVec 16} : (Instr.ldQ d a x).wf = true ↔ d.val % 2 = 0 ∧ d ≠ 0 := by
  simp [Instr.wf]

theorem stQ_wf {d a : GReg} {x : BitVec 16} : (Instr.stQ d a x).wf = true ↔ d.val % 2 = 0 := by
  simp [Instr.wf]

/-- What the major-opcode map accepts are the fields of a well-formed instruction (R149): the majors with a map of their own,
then the pairs of `ld.q` and `st.q`, then the forms that are an immediate alone. -/
theorem decode_reads {f : Fields} (hfit : f.Fits) : Yields f.decode (Reads f) := by
  obtain ⟨op, d, a, b, fn⟩ := f
  obtain ⟨-, hd, ha, hb, hfn⟩ := hfit
  simp only at hd ha hb hfn
  lift d to GReg using hd
  lift a to GReg using ha
  lift b to GReg using hb
  obtain ⟨hhi, hlo⟩ := imm16_toNat b.isLt hfn
  have hshift := BitVec.toNat_ofNat fn 6
  have hjump := BitVec.toNat_ofNat (d * 2 ^ 21 + a * 2 ^ 16 + b * 2 ^ 11 + fn) 26
  simp only [Fields.decode, gField_val]
  split
  case h_1 => exact decodeAlu_reads
  case h_10 => exact decodeCmp_reads
  case h_14 => exact decodePred_reads
  case h_21 => exact decodeJump_reads
  case h_35 => exact decodeSubByte_reads hfn
  case h_36 => exact decodeAtomic_reads
  case h_37 => exact decodeFp_reads
  case h_38 => exact decodeFcmp_reads
  case h_39 => exact decodeCvt_reads
  case h_40 => exact decodeFli_reads hfn
  case h_41 => exact decodeVint_reads
  case h_42 => exact decodeVfpA_reads
  case h_43 => exact decodeVfpB_reads
  case h_44 => exact decodeVfpU_reads
  case h_45 => exact decodeVcmp_reads
  case h_46 => exact decodeVcvt_reads
  case h_49 => exact decodeVmem_reads
  case h_50 => exact decodeVlane_reads
  case h_51 => exact decodeMask_reads
  case h_52 => exact decodeMx_reads
  case h_53 => exact decodeCp_reads
  case h_54 => exact decodeEvent_reads
  case h_55 => exact decodeThread_reads hfn
  case h_56 => exact decodeSystem_reads hfn
  case h_57 => exact decodePfx_reads hfn
  case h_58 => exact yields_error
  case h_29 => -- ld.q
    simp only [yields_bind, yields_pairField, yields_ite, yields_ok, yields_error, gField_val, implies_true, true_and]
    exact fun heven hne => reads_of rfl (ldQ_wf.2 ⟨heven, hne⟩)
  case h_34 => -- st.q
    simp only [yields_bind, yields_pairField, yields_ok, gField_val]
    exact fun heven => reads_of rfl (stQ_wf.2 heven)
  all_goals
    simp only [yields_ok, yields_bind, yields_pField, yields_vField, yields_zero, yields_shiftImm]
    intros
    exact reads_of rfl rfl

end

/-! ## Words -/

theorem ofWord_fits (w : BitVec 32) : (Fields.ofWord w).Fits := by
  have := w.isLt
  constructor <;> simp only [Fields.ofWord] <;> omega

theorem toWord_ofWord (w : BitVec 32) : (Fields.ofWord w).toWord = w := by
  refine BitVec.eq_of_toNat_eq ?_
  have := w.isLt
  simp only [Fields.toWord, Fields.ofWord, BitVec.toNat_ofNat]
  omega

theorem encode_of_reads {i : Instr} {w : BitVec 32} (h : Reads (Fields.ofWord w) i) : encode i = some w := by
  obtain ⟨-, hfields⟩ := h
  rw [encode, hfields, Option.map_some, toWord_ofWord]

/-! ## From instructions to words and back -/

/-- The decoder reads every well-formed instruction back from its word: each has its law, and what has no word has nothing to
read back. -/
theorem roundTrip (i : Instr) : RoundTrip.Statement i := by
  cases i with
    | add => apply RoundTrip.add | sub => apply RoundTrip.sub | and => apply RoundTrip.and | or => apply RoundTrip.or
    | xor => apply RoundTrip.xor | shl => apply RoundTrip.shl | shr => apply RoundTrip.shr | sra => apply RoundTrip.sra
    | mul => apply RoundTrip.mul | mulh => apply RoundTrip.mulh | mulhu => apply RoundTrip.mulhu | div => apply RoundTrip.div
    | divu => apply RoundTrip.divu | rem => apply RoundTrip.rem | remu => apply RoundTrip.remu | min => apply RoundTrip.min
    | max => apply RoundTrip.max | minu => apply RoundTrip.minu | maxu => apply RoundTrip.maxu | sel => apply RoundTrip.sel
    | clz => apply RoundTrip.clz | ctz => apply RoundTrip.ctz | popc => apply RoundTrip.popc | sextB => apply RoundTrip.sextB
    | sextH => apply RoundTrip.sextH | sextW => apply RoundTrip.sextW | zextB => apply RoundTrip.zextB
    | zextH => apply RoundTrip.zextH | zextW => apply RoundTrip.zextW | addi => apply RoundTrip.addi
    | andi => apply RoundTrip.andi | ori => apply RoundTrip.ori | xori => apply RoundTrip.xori | shli => apply RoundTrip.shli
    | shri => apply RoundTrip.shri | srai => apply RoundTrip.srai | muli => apply RoundTrip.muli
    | cmpEq => apply RoundTrip.cmpEq | cmpNe => apply RoundTrip.cmpNe | cmpLt => apply RoundTrip.cmpLt
    | cmpLe => apply RoundTrip.cmpLe | cmpGt => apply RoundTrip.cmpGt | cmpGe => apply RoundTrip.cmpGe
    | cmpLtu => apply RoundTrip.cmpLtu | cmpLeu => apply RoundTrip.cmpLeu | cmpGtu => apply RoundTrip.cmpGtu
    | cmpGeu => apply RoundTrip.cmpGeu | cmpiEq => apply RoundTrip.cmpiEq | cmpiLt => apply RoundTrip.cmpiLt
    | cmpiLtu => apply RoundTrip.cmpiLtu | pand => apply RoundTrip.pand | por => apply RoundTrip.por
    | pxor => apply RoundTrip.pxor | pandn => apply RoundTrip.pandn | pnot => apply RoundTrip.pnot
    | pmov => apply RoundTrip.pmov | pset => apply RoundTrip.pset | pclr => apply RoundTrip.pclr | prd => apply RoundTrip.prd
    | pwr => apply RoundTrip.pwr | bt => apply RoundTrip.bt | bf => apply RoundTrip.bf | bz => apply RoundTrip.bz
    | bnz => apply RoundTrip.bnz | j => apply RoundTrip.j | jal => apply RoundTrip.jal | jr => apply RoundTrip.jr
    | jalr => apply RoundTrip.jalr | ldB => apply RoundTrip.ldB | ldBu => apply RoundTrip.ldBu | ldH => apply RoundTrip.ldH
    | ldHu => apply RoundTrip.ldHu | ldW => apply RoundTrip.ldW | ldWu => apply RoundTrip.ldWu | ldD => apply RoundTrip.ldD
    | ldQ => apply RoundTrip.ldQ | stB => apply RoundTrip.stB | stH => apply RoundTrip.stH | stW => apply RoundTrip.stW
    | stD => apply RoundTrip.stD | stQ => apply RoundTrip.stQ | stX4 => apply RoundTrip.stX4 | stX6 => apply RoundTrip.stX6
    | aadd => apply RoundTrip.aadd | amin => apply RoundTrip.amin | amax => apply RoundTrip.amax
    | aminu => apply RoundTrip.aminu | amaxu => apply RoundTrip.amaxu | aand => apply RoundTrip.aand
    | aor => apply RoundTrip.aor | axor => apply RoundTrip.axor | fadd => apply RoundTrip.fadd | fsub => apply RoundTrip.fsub
    | fmul => apply RoundTrip.fmul | fdiv => apply RoundTrip.fdiv | fsqrt => apply RoundTrip.fsqrt
    | fmac => apply RoundTrip.fmac | fmin => apply RoundTrip.fmin | fmax => apply RoundTrip.fmax
    | fabs => apply RoundTrip.fabs | fneg => apply RoundTrip.fneg | fcmpEq => apply RoundTrip.fcmpEq
    | fcmpLt => apply RoundTrip.fcmpLt | fcmpLe => apply RoundTrip.fcmpLe | fcmpUn => apply RoundTrip.fcmpUn
    | cvt => apply RoundTrip.cvt | fli => apply RoundTrip.fli | vadd => apply RoundTrip.vadd | vsub => apply RoundTrip.vsub
    | vmul => apply RoundTrip.vmul | vmulh => apply RoundTrip.vmulh | vmin => apply RoundTrip.vmin
    | vmax => apply RoundTrip.vmax | vminu => apply RoundTrip.vminu | vmaxu => apply RoundTrip.vmaxu
    | vand => apply RoundTrip.vand | vor => apply RoundTrip.vor | vxor => apply RoundTrip.vxor | vshl => apply RoundTrip.vshl
    | vshr => apply RoundTrip.vshr | vsra => apply RoundTrip.vsra | vabs => apply RoundTrip.vabs
    | vneg => apply RoundTrip.vneg | vadds => apply RoundTrip.vadds | vsubs => apply RoundTrip.vsubs
    | vmac => apply RoundTrip.vmac | vdot4 => apply RoundTrip.vdot4 | vfadd => apply RoundTrip.vfadd
    | vfsub => apply RoundTrip.vfsub | vfmul => apply RoundTrip.vfmul | vfdiv => apply RoundTrip.vfdiv
    | vfma => apply RoundTrip.vfma | vfmin => apply RoundTrip.vfmin | vfmax => apply RoundTrip.vfmax
    | vfsqrt => apply RoundTrip.vfsqrt | vfabs => apply RoundTrip.vfabs | vfneg => apply RoundTrip.vfneg
    | vfdist => apply RoundTrip.vfdist | vcmpEq => apply RoundTrip.vcmpEq | vcmpNe => apply RoundTrip.vcmpNe
    | vcmpLt => apply RoundTrip.vcmpLt | vcmpLe => apply RoundTrip.vcmpLe | vcmpGt => apply RoundTrip.vcmpGt
    | vcmpGe => apply RoundTrip.vcmpGe | vcmpLtu => apply RoundTrip.vcmpLtu | vcmpUn => apply RoundTrip.vcmpUn
    | vcvt => apply RoundTrip.vcvt | vld => apply RoundTrip.vld | vst => apply RoundTrip.vst | vldM => apply RoundTrip.vldM
    | vstM => apply RoundTrip.vstM | vlds => apply RoundTrip.vlds | vsts => apply RoundTrip.vsts
    | vbcast => apply RoundTrip.vbcast | vext => apply RoundTrip.vext | vins => apply RoundTrip.vins
    | vperm => apply RoundTrip.vperm | vsel => apply RoundTrip.vsel | vmov => apply RoundTrip.vmov
    | vredAdd => apply RoundTrip.vredAdd | vredMin => apply RoundTrip.vredMin | vredMax => apply RoundTrip.vredMax
    | vredMinu => apply RoundTrip.vredMinu | vredMaxu => apply RoundTrip.vredMaxu | vfredAdd => apply RoundTrip.vfredAdd
    | vfredMin => apply RoundTrip.vfredMin | vfredMax => apply RoundTrip.vfredMax | mand => apply RoundTrip.mand
    | mor => apply RoundTrip.mor | mxor => apply RoundTrip.mxor | mnot => apply RoundTrip.mnot | mmov => apply RoundTrip.mmov
    | mfromg => apply RoundTrip.mfromg | mtog => apply RoundTrip.mtog | mpop => apply RoundTrip.mpop
    | mxCfg => apply RoundTrip.mxCfg | mxGet => apply RoundTrip.mxGet | mxMma => apply RoundTrip.mxMma
    | mxMmb => apply RoundTrip.mxMmb | mxDist => apply RoundTrip.mxDist | mxTopk => apply RoundTrip.mxTopk
    | mxZero => apply RoundTrip.mxZero | mxLd => apply RoundTrip.mxLd | mxSt => apply RoundTrip.mxSt
    | cpCfg => apply RoundTrip.cpCfg | cpCopy => apply RoundTrip.cpCopy | cpStream => apply RoundTrip.cpStream
    | cpCancel => apply RoundTrip.cpCancel | cpStat => apply RoundTrip.cpStat | evNew => apply RoundTrip.evNew
    | evFree => apply RoundTrip.evFree | offer => apply RoundTrip.offer | offer1 => apply RoundTrip.offer1
    | offerT => apply RoundTrip.offerT | vtSet => apply RoundTrip.vtSet | vtGet => apply RoundTrip.vtGet
    | gvt => apply RoundTrip.gvt | settle => apply RoundTrip.settle | wrap => apply RoundTrip.wrap
    | wrapDone => apply RoundTrip.wrapDone | spawn => apply RoundTrip.spawn | mig => apply RoundTrip.mig
    | msg => apply RoundTrip.msg | reply => apply RoundTrip.reply | yield => apply RoundTrip.yield
    | halt => apply RoundTrip.halt | now => apply RoundTrip.now | cyc => apply RoundTrip.cyc | rsync => apply RoundTrip.rsync
    | brk => apply RoundTrip.brk | trap => apply RoundTrip.trap | crr => apply RoundTrip.crr | crw => apply RoundTrip.crw
    | rett => apply RoundTrip.rett | crset => apply RoundTrip.crset | crclr => apply RoundTrip.crclr
    | rlx => apply RoundTrip.rlx | ext => apply RoundTrip.ext
    | _ => exact roundTrip_none rfl -- a step without an encoding

/-- Settles O55, by the law of each instruction. -/
theorem decodingUndoesEncoding : Obligations.DecodingUndoesEncoding := fun i w hwf hencode => roundTrip i hwf w hencode

/-- Settles O56: a word's fields decode to nothing but an instruction with those fields, and they make up the word. -/
theorem encodingUndoesDecoding : Obligations.EncodingUndoesDecoding := by
  intro i w hdecode
  have hreads : Reads (Fields.ofWord w) i := decode_reads (ofWord_fits w) i hdecode
  exact ⟨hreads.1, encode_of_reads hreads⟩

/-! ## Words of every family, and words that are none -/

theorem wordsDecode : WordsDecode := by
  simp only [WordsDecode, words, noWords, List.forall_mem_cons, List.not_mem_nil, false_imp_iff, implies_true, and_true]
  and_intros
  all_goals rfl

theorem reservedMajorsAreIllegal : ReservedMajorsAreIllegal := by
  intro w hmajor
  simp only [List.mem_cons, List.not_mem_nil, or_false] at hmajor
  simp only [decodeWord, Fields.ofWord]
  obtain h | h | h | h | h | h | h := hmajor
  all_goals
    rw [h]
    rfl

/-- Settles O54: the written words decode by evaluation, and a reserved major opcode has no arm of the map. -/
theorem wordsMeanTheirInstructions : Obligations.WordsMeanTheirInstructions := ⟨wordsDecode, reservedMajorsAreIllegal⟩

end Sys2Proof.Encodings

/-!
PROOFS. Integer forms, compares and the predicate word (R174 to R181): each form ends with one write, whose value in the spec's
arithmetic is an equation about words (O1, O2).
-/

namespace Sys2Proof.ScalarIntegers
open Sys2Proof Sys2Proof.Machine Sys2Proof.Claims

/-! ## Forms that end with one write -/

theorem setsG_of_exec {i : Instr} {s : State} {d : GReg} {v w : Word} (hv : v = w) (hexec : exec i s = s.writeG d v) :
    SetsG i s d w := by
  subst hv
  unfold SetsG Completes
  rw [hexec]
  exact writeG_sets s d v

theorem setsP_of_exec {i : Instr} {s : State} {d : PReg} {v w : Bool} (hv : v = w) (hexec : exec i s = s.writeP d v) :
    SetsP i s d w := by
  subst hv
  unfold SetsP Completes
  rw [hexec]
  exact writeP_sets s d v

/-! ## Sums, shifts, orders and quotients of words (R174, R175) -/

section
variable (A B : Word)

theorem add_eq_ofInt : A + B = BitVec.ofInt 64 (A.toInt + B.toInt) := by
  rw [BitVec.ofInt_add, BitVec.ofInt_toInt, BitVec.ofInt_toInt]

theorem mul_eq_ofInt : A * B = BitVec.ofInt 64 (A.toInt * B.toInt) := by
  rw [BitVec.ofInt_mul, BitVec.ofInt_toInt, BitVec.ofInt_toInt]

theorem sub_eq_ofInt : A - B = BitVec.ofInt 64 (A.toInt - B.toInt) := BitVec.eq_of_toInt_eq (by simp)

theorem shl_eq_ofNat (n : Nat) : A <<< n = BitVec.ofNat 64 (A.toNat * 2 ^ n) :=
  BitVec.eq_of_toNat_eq (by simp [Nat.shiftLeft_eq])

theorem shr_eq_ofNat (n : Nat) : A >>> n = BitVec.ofNat 64 (A.toNat / 2 ^ n) := by
  have hlt : A.toNat / 2 ^ n < 2 ^ 64 := lt_of_le_of_lt (Nat.div_le_self _ _) A.isLt
  refine BitVec.eq_of_toNat_eq ?_
  rw [BitVec.toNat_ushiftRight, BitVec.toNat_ofNat, Nat.mod_eq_of_lt hlt, Nat.shiftRight_eq_div_pow]

theorem sra_eq_ofInt (n : Nat) : A.sshiftRight n = BitVec.ofInt 64 (A.toInt / 2 ^ n) := by
  rw [BitVec.sshiftRight, Int.shiftRight_eq_div_pow]
  norm_cast

section
variable {A B}
variable {N : Type} [LinearOrder N] {f : Word → N} {g : N → Word} (hread : ∀ x, g (f x) = x)
  {less : Bool} (hless : less = true ↔ f A < f B)
include hread hless

/-- The word with the lesser reading, where a word can be had back from its reading. -/
theorem ite_eq_min : (if less then A else B) = g (Min.min (f A) (f B)) := by
  by_cases h : f A < f B
  · rw [if_pos (hless.2 h), min_eq_left h.le, hread]
  · rw [if_neg (mt hless.1 h), min_eq_right (not_lt.1 h), hread]

theorem ite_eq_max : (if less then B else A) = g (Max.max (f A) (f B)) := by
  by_cases h : f A < f B
  · rw [if_pos (hless.2 h), max_eq_right h.le, hread]
  · rw [if_neg (mt hless.1 h), max_eq_left (not_lt.1 h), hread]

end

theorem min_eq_ofInt : (if A.slt B then A else B) = BitVec.ofInt 64 (Min.min A.toInt B.toInt) :=
  ite_eq_min (fun _ => BitVec.ofInt_toInt) BitVec.slt_iff_toInt_lt

theorem max_eq_ofInt : (if A.slt B then B else A) = BitVec.ofInt 64 (Max.max A.toInt B.toInt) :=
  ite_eq_max (fun _ => BitVec.ofInt_toInt) BitVec.slt_iff_toInt_lt

theorem ofNat_toNat_same (x : Word) : BitVec.ofNat 64 x.toNat = x := by rw [BitVec.ofNat_toNat, BitVec.setWidth_eq]

theorem minu_eq_ofNat : (if A.ult B then A else B) = BitVec.ofNat 64 (Min.min A.toNat B.toNat) :=
  ite_eq_min ofNat_toNat_same BitVec.ult_iff_lt

theorem maxu_eq_ofNat : (if A.ult B then B else A) = BitVec.ofNat 64 (Max.max A.toNat B.toNat) :=
  ite_eq_max ofNat_toNat_same BitVec.ult_iff_lt

theorem divUnsigned_eq :
    divUnsigned A B = if B = 0 then 0xFFFFFFFFFFFFFFFF else BitVec.ofNat 64 (A.toNat / B.toNat) := by
  rw [divUnsigned, BitVec.udiv_eq, BitVec.udiv_def]
  rfl

theorem remUnsigned_eq : remUnsigned A B = if B = 0 then A else BitVec.ofNat 64 (A.toNat % B.toNat) := by
  rw [remUnsigned, BitVec.umod_eq, BitVec.umod_def]

end

theorem integerForms : IntegerForms := by
  intro s d a b k
  exact ⟨setsG_of_exec (add_eq_ofInt _ _) rfl, setsG_of_exec (sub_eq_ofInt _ _) rfl, setsG_of_exec rfl rfl,
    setsG_of_exec rfl rfl, setsG_of_exec rfl rfl, setsG_of_exec (shl_eq_ofNat _ _) rfl,
    setsG_of_exec (shr_eq_ofNat _ _) rfl, setsG_of_exec (sra_eq_ofInt _ _) rfl,
    setsG_of_exec (mul_eq_ofInt _ _) rfl, setsG_of_exec rfl rfl, setsG_of_exec rfl rfl,
    setsG_of_exec (min_eq_ofInt _ _) rfl, setsG_of_exec (max_eq_ofInt _ _) rfl, setsG_of_exec (minu_eq_ofNat _ _) rfl,
    setsG_of_exec (maxu_eq_ofNat _ _) rfl, setsG_of_exec rfl rfl⟩

theorem divisionForms : DivisionForms := by
  intro s d a b
  exact ⟨setsG_of_exec rfl rfl, setsG_of_exec rfl rfl, setsG_of_exec (divUnsigned_eq _ _) rfl,
    setsG_of_exec (remUnsigned_eq _ _) rfl⟩

/-! ## Counts and extensions (R174) -/

section
variable {A : Word}

/-- The count goes down from bit n − 1, above which the word is zero. -/
theorem leadingFrom_spec {n : Nat} (hn : n ≤ 64) (hzero : ∀ j, n ≤ j → A.getLsbD j = false) :
    leadingFrom A n ≤ 64 ∧ (∀ j, 64 - leadingFrom A n ≤ j → A.getLsbD j = false) ∧
      (leadingFrom A n < 64 → A.getLsbD (63 - leadingFrom A n) = true) := by
  induction n with
  | zero => simpa [leadingFrom] using hzero
  | succ n ih =>
    by_cases hbit : A.getLsbD n = true
    · rw [leadingFrom, if_pos hbit]
      refine ⟨by omega, fun j hj => hzero j (by omega), fun _ => ?_⟩
      rwa [show 63 - (63 - n) = n by omega]
    · rw [leadingFrom, if_neg hbit]
      refine ih (by omega) fun j hj => ?_
      obtain rfl | hlt := Nat.eq_or_lt_of_le hj
      · simpa using hbit
      · exact hzero j hlt

/-- The count goes up from bit 64 − n, below which the word is zero. -/
theorem trailingFrom_spec {n : Nat} (hn : n ≤ 64) (hzero : ∀ j, j < 64 - n → A.getLsbD j = false) :
    trailingFrom A n ≤ 64 ∧ (∀ j, j < trailingFrom A n → A.getLsbD j = false) ∧
      (trailingFrom A n < 64 → A.getLsbD (trailingFrom A n) = true) := by
  induction n with
  | zero => simpa [trailingFrom] using hzero
  | succ n ih =>
    by_cases hbit : A.getLsbD (63 - n) = true
    · rw [trailingFrom, if_pos hbit]
      exact ⟨by omega, fun j hj => hzero j (by omega), fun _ => hbit⟩
    · rw [trailingFrom, if_neg hbit]
      refine ih (by omega) fun j hj => ?_
      obtain rfl | hlt := Nat.eq_or_lt_of_le (show j ≤ 63 - n by omega)
      · simpa using hbit
      · exact hzero j (by omega)

theorem onesBelow_eq_length (A : Word) (n : Nat) :
    onesBelow A n = ((List.range n).filter fun j => A.getLsbD j).length := by
  induction n with
  | zero => rfl
  | succ n ih =>
    rw [onesBelow, ih, List.range_succ, List.filter_append, List.length_append, Nat.add_comm]
    cases hbit : A.getLsbD n <;> simp [hbit]

theorem zext_eq_ofNat (A : Word) (w : Nat) : (A.setWidth w).setWidth 64 = BitVec.ofNat 64 (A.toNat % 2 ^ w) := by
  rw [← BitVec.toNat_setWidth, BitVec.ofNat_toNat]

end

theorem countAndExtendForms : CountAndExtendForms := by
  intro s d a
  obtain ⟨hclz, hclzAbove, hclzBit⟩ := leadingFrom_spec (A := s.g a) (le_refl 64) fun j hj => BitVec.getLsbD_of_ge _ j hj
  obtain ⟨hctz, hctzBelow, hctzBit⟩ := trailingFrom_spec (A := s.g a) (le_refl 64) fun j hj => absurd hj (Nat.not_lt_zero j)
  exact ⟨⟨_, hclz, hclzAbove, hclzBit, setsG_of_exec rfl rfl⟩, ⟨_, hctz, hctzBelow, hctzBit, setsG_of_exec rfl rfl⟩,
    setsG_of_exec (congrArg (BitVec.ofNat 64) (onesBelow_eq_length _ 64)) rfl,
    setsG_of_exec rfl rfl, setsG_of_exec rfl rfl, setsG_of_exec rfl rfl,
    setsG_of_exec (zext_eq_ofNat _ 8) rfl, setsG_of_exec (zext_eq_ofNat _ 16) rfl, setsG_of_exec (zext_eq_ofNat _ 32) rfl⟩

/-! ## Immediates (R171, R177, R178) -/

theorem imm_of_no_ext {s : State} {j : BitVec 16} (h : s.me.pfx.ext = none) : s.imm j = BitVec.ofInt 64 j.toInt := by
  rw [State.imm, h]
  rfl

theorem imm_of_ext {s : State} {j : BitVec 16} {h : BitVec 24} (hext : s.me.pfx.ext = some h) :
    s.imm j = BitVec.ofInt 64 (h.toInt * 2 ^ 16 + j.toNat) := by
  have hvalue : (h ++ j).toInt = h.toInt * 2 ^ 16 + j.toNat := by rw [BitVec.toInt_append, if_neg (by decide), mul_comm]
  rw [State.imm, hext, ← hvalue]
  rfl

theorem immediateForms : ImmediateForms := by
  intro s d a j n
  exact ⟨s.imm j, imm_of_no_ext, fun _ => imm_of_ext, setsG_of_exec rfl rfl, setsG_of_exec rfl rfl, setsG_of_exec rfl rfl,
    setsG_of_exec rfl rfl, setsG_of_exec rfl rfl, setsG_of_exec (shl_eq_ofNat _ _) rfl,
    setsG_of_exec (shr_eq_ofNat _ _) rfl, setsG_of_exec (sra_eq_ofInt _ _) rfl⟩

/-- Settles O1: every form is one write of g[d], and its value is the spec's by an equation about words. -/
theorem integerArithmetic : Obligations.IntegerArithmetic :=
  ⟨integerForms, countAndExtendForms, divisionForms, immediateForms⟩

/-! ## Compares (R179, R180) -/

theorem bne_eq_decide_ne (A B : Word) : (A != B) = decide (A ≠ B) := by rw [bne, beq_eq_decide, decide_not]

theorem compares : Compares := by
  intro s d a b j
  exact ⟨setsP_of_exec (beq_eq_decide _ _) rfl, setsP_of_exec (bne_eq_decide_ne _ _) rfl,
    setsP_of_exec BitVec.slt_eq_decide rfl, setsP_of_exec BitVec.sle_eq_decide rfl,
    setsP_of_exec BitVec.slt_eq_decide rfl, setsP_of_exec BitVec.sle_eq_decide rfl,
    setsP_of_exec BitVec.ult_eq_decide rfl, setsP_of_exec BitVec.ule_eq_decide rfl,
    setsP_of_exec BitVec.ult_eq_decide rfl, setsP_of_exec BitVec.ule_eq_decide rfl,
    setsP_of_exec (beq_eq_decide _ _) rfl, setsP_of_exec BitVec.slt_eq_decide rfl, setsP_of_exec BitVec.ult_eq_decide rfl⟩

/-! ## The predicate word (R181) -/

/-- Bit 0 of a predicate word is set whenever the word is read or written. -/
theorem getLsbD_or_one (w : BitVec 16) (r : PReg) : (w ||| 1).getLsbD r.val = (r == 0 || w.getLsbD r.val) := by
  have hone : (1 : BitVec 16).getLsbD r.val = (r == 0) := by revert r; decide
  rw [BitVec.getLsbD_or, hone, Bool.or_comm]

theorem getLsbD_predicateWord (s : State) (r : PReg) : ((s.me.pw ||| 1).setWidth 64).getLsbD r.val = s.p r := by
  have hr : r.val < 64 := r.isLt.trans (by decide)
  rw [BitVec.getLsbD_setWidth, getLsbD_or_one, decide_eq_true hr, Bool.true_and]
  rfl

theorem predicateWord_lt (w : BitVec 16) : ((w ||| 1).setWidth 64).toNat < 2 ^ 16 := by
  rw [BitVec.toNat_setWidth]
  exact lt_of_le_of_lt (Nat.mod_le _ _) (w ||| 1).isLt

/-- `pwr` sets every predicate but p0 from the low bits of a word. -/
theorem p_setPw (s : State) (x : Word) (r : PReg) :
    (s.modMe fun c => { c with pw := x.setWidth 16 ||| 1 }.advance).p r = (r == 0 || x.getLsbD r.val) := by
  have hr : r.val < 16 := r.isLt
  rw [State.p, State.me_modMe]
  change (r == 0 || (x.setWidth 16 ||| 1).getLsbD r.val) = _
  rw [getLsbD_or_one, BitVec.getLsbD_setWidth, decide_eq_true hr, Bool.true_and, ← Bool.or_assoc, Bool.or_self]

theorem pwr_completes (g : GReg) (s : State) :
    Completes (.pwr g) s fun t =>
      OnlyMe s t ∧ GoesOnAt t.me (s.me.pc + 4) ∧ (∀ r : PReg, t.p r = (r == 0 || (s.g g).getLsbD r.val)) ∧
        { t.me.placedAs s.me with pw := s.me.pw } = s.me := by
  refine ⟨_, rfl, onlyMe_setMe s _, ?_, p_setPw s _, ?_⟩
  · rw [State.me_modMe]
    exact goesOnAt_goto _ _
  · rw [State.me_modMe]
    rfl

theorem predicateForms : PredicateForms := by
  intro s d a b g
  exact ⟨setsP_of_exec rfl rfl, setsP_of_exec rfl rfl, setsP_of_exec rfl rfl, setsP_of_exec rfl rfl, setsP_of_exec rfl rfl,
    setsP_of_exec rfl rfl, setsP_of_exec rfl rfl, setsP_of_exec rfl rfl,
    ⟨_, getLsbD_predicateWord s, predicateWord_lt s.me.pw, setsG_of_exec rfl rfl⟩, pwr_completes g s⟩

/-- Settles O2: a compare or a form of predicates is one write, and the predicate word always has bit 0. -/
theorem comparesAndPredicates : Obligations.ComparesAndPredicates := ⟨compares, predicateForms⟩

end Sys2Proof.ScalarIntegers

/-!
PROOFS. Branches and jumps (R182 to R184): one end moves the program, another writes a link as well, and a misaligned target
traps (O3).
-/

namespace Sys2Proof.Jumps
open Sys2Proof Sys2Proof.Machine Sys2Proof.Claims

/-! ## Ends that move the program -/

theorem goesTo_of_exec {i : Instr} {s : State} {pc : Word} (hexec : exec i s = .next (s.modMe fun c => c.goto pc)) :
    GoesTo i s pc := ⟨_, hexec, writesNothing_goto s pc⟩

theorem branch_eq (s : State) (c : Bool) (o : BitVec 16) :
    s.branch c o = .next (s.modMe fun x => x.goto (if c then s.me.pc + 4 * o.signExtend 64 else s.me.pc + 4)) := by
  cases c <;> rfl

/-- A branch goes where its condition says (R182). -/
theorem goesTo_of_branch {i : Instr} {s : State} {c : Bool} {o : BitVec 16} {pc : Word}
    (hpc : (if c then s.me.pc + 4 * o.signExtend 64 else s.me.pc + 4) = pc) (hexec : exec i s = s.branch c o) : GoesTo i s pc :=
  goesTo_of_exec (by rw [hexec, branch_eq, hpc])

theorem branchesAndJumps : BranchesAndJumps := by
  intro s c a o o'
  refine ⟨goesTo_of_branch rfl rfl, goesTo_of_branch ?_ rfl, goesTo_of_branch ?_ rfl, goesTo_of_branch ?_ rfl,
    goesTo_of_exec rfl, ⟨_, rfl, writesG_setMe s 1 _ _⟩⟩
  · cases s.p c <;> rfl
  · exact if_congr beq_iff_eq rfl rfl
  · exact (if_congr bne_iff_ne rfl rfl).trans (ite_not _ _ _)

/-! ## Traps (R288) -/

/-- An exact trap of a context that can trap enters its handler. -/
theorem takesTrap_of_exec {i : Instr} {s : State} {cause : Nat} {xaddr : Word} (hcan : CanTrap s.me)
    (hexec : exec i s = s.trapHere cause xaddr) : TakesTrap i s cause s.me.start xaddr :=
  ⟨_, hexec, takeTrapAt_enters hcan cause _ _⟩

/-! ## Register jumps (R184) -/

section
variable {s : State} {a : GReg}

theorem exec_jr_aligned (h : (s.g a).toNat % 4 = 0) : exec (.jr a) s = .next (s.modMe fun c => c.goto (s.g a)) :=
  if_neg (not_not.2 h)

theorem exec_jr_misaligned (h : (s.g a).toNat % 4 ≠ 0) : exec (.jr a) s = s.trapHere causeMisaligned (s.g a) := if_pos h

theorem exec_jalr_aligned (d : GReg) (h : (s.g a).toNat % 4 = 0) :
    exec (.jalr d a) s = .next (s.modMe fun c => (c.setG d (c.pc + 4)).goto (s.g a)) := if_neg (not_not.2 h)

theorem exec_jalr_misaligned (d : GReg) (h : (s.g a).toNat % 4 ≠ 0) :
    exec (.jalr d a) s = s.trapHere causeMisaligned (s.g a) := if_pos h

end

theorem registerJumps : RegisterJumps := by
  intro s d a
  refine ⟨fun haligned => ?_, fun hmisaligned hcan => ?_⟩
  · exact ⟨goesTo_of_exec (exec_jr_aligned haligned), ⟨_, exec_jalr_aligned d haligned, writesG_setMe s d _ _⟩⟩
  · exact ⟨takesTrap_of_exec hcan (exec_jr_misaligned hmisaligned),
      takesTrap_of_exec hcan (exec_jalr_misaligned d hmisaligned)⟩

/-- Settles O3: a branch or jump is one move of the program, and a register jump moves or traps by its target. -/
theorem branchesAndRegisterJumps : Obligations.BranchesAndRegisterJumps := ⟨branchesAndJumps, registerJumps⟩

end Sys2Proof.Jumps

/-!
PROOFS. Scalar loads and stores, sub-byte stores and atomics (R186 to R196): each kind issues its access when every check passes,
and traps at the first check that fails (O5).
-/

namespace Sys2Proof.ScalarAccesses
open Sys2Proof Sys2Proof.Machine Sys2Proof.Claims Sys2Proof.Jumps

/-! ## The instructions of each kind -/

theorem exec_loads {d a : GReg} {j : BitVec 16} (s : State) :
    ∀ x ∈ loads d a j, exec x.1 s = s.load x.1 x.2.1 x.2.2 (s.g a + s.imm j) := by
  simp only [loads, List.forall_mem_cons]
  exact ⟨rfl, rfl, rfl, rfl, rfl, rfl, rfl, rfl, List.forall_mem_nil _⟩

theorem exec_stores {s : State} {d a : GReg} {j : BitVec 16} :
    ∀ x ∈ stores s d a j, exec x.1 s = s.store x.1 x.2.1 x.2.2 (s.g a + s.imm j) := by
  simp only [stores, List.forall_mem_cons]
  exact ⟨rfl, rfl, rfl, rfl, rfl, List.forall_mem_nil _⟩

theorem exec_bitStores {d a : GReg} {q : Bool} {r : Fin 8} (s : State) :
    ∀ x ∈ bitStores d a q r, exec x.1 s = s.subByte x.1 x.2.1 x.2.2 d a := by
  simp only [bitStores, List.forall_mem_cons]
  exact ⟨rfl, rfl, List.forall_mem_nil _⟩

theorem exec_atomics {d a : GReg} {w : AWidth} (s : State) :
    ∀ x ∈ atomics d a w, exec x.1 s = s.atomic x.1 x.2 d a w := by
  simp only [atomics, List.forall_mem_cons]
  exact ⟨rfl, rfl, rfl, rfl, rfl, rfl, rfl, rfl, List.forall_mem_nil _⟩

theorem widthOf_eq (w : AWidth) : widthOf w = AWidth.bytes w := by cases w <;> rfl

/-! ## Accesses that issue, or trap -/

theorem completes_of_issue {i : Instr} {s s' : State} {kind : AccessKind} {parts : List Part} {rlx : Bool}
    (hroom : s'.me.hasRoom rlx) (hexec : exec i s = s'.issue i kind parts rlx) :
    Completes i s fun t => Issues s' t kind parts rlx := by
  obtain ⟨t, hissue, hissues⟩ := issue_issues i kind parts hroom
  exact ⟨t, hexec.trans hissue, hissues⟩

section
variable {s s' : State} {i : Instr} {ea : Word} {n cause : Nat}

/-! ### Loads (R187) -/

theorem load_ok (kind : AccessKind) (hcheck : s.checkScalar ea n true = none) :
    s.load i kind n ea = s.issue i kind [partAt s.here ea n 0 0] s.me.pfx.rlx := by rw [State.load, hcheck]

theorem load_fails (kind : AccessKind) (hcheck : s.checkScalar ea n true = some cause) :
    s.load i kind n ea = s.trapHere cause ea := by
  rw [State.load, hcheck]
  rfl

/-! ### Stores (R187) -/

theorem store_fails (data : Nat) (hcheck : s.checkScalar ea n true = some cause) :
    s.store i n data ea = s.trapHere cause ea := by
  rw [State.store, hcheck]
  rfl

theorem store_foreign (data : Nat) (hcheck : s.checkScalar ea n true = none) (htimed : s.isTimed s.cur = true)
    (hforeign : s.foreign ea = true) : s.store i n data ea = s.trapHere causeTimed ea := by
  rw [State.store, hcheck]
  exact if_pos (by rw [htimed, hforeign]; rfl)

theorem store_ok (data : Nat) (hcheck : s.checkScalar ea n true = none)
    (hown : s.isTimed s.cur = true → s.foreign ea = false) (hjournal : s.journalAll s.cur (journalLines s ea) = some s') :
    s.store i n data ea = s'.issue i .store [partAt s.here ea n data 0] s.me.pfx.rlx := by
  have hnot : ¬(s.isTimed s.cur && s.foreign ea) = true := by simpa using hown
  rw [journalLines] at hjournal
  simp only [State.store, hcheck, if_neg hnot, hjournal]

/-! ### Sub-byte stores (R193) -/

section
variable {q k : Nat} {d a : GReg}

/-- The lines that a field of one or two bytes journals. -/
theorem fieldLines_eq (s : State) (ea : Word) (two : Prop) [Decidable two] :
    (if s.isTimed s.cur then (s.ownLine? ea).toList ++ (if two then (s.ownLine? (ea + 1)).toList else []) else [])
      = journalLines s ea ++ if two then journalLines s (ea + 1) else [] := by
  unfold journalLines
  cases s.isTimed s.cur <;> simp

theorem subByte_fails (hcheck : s.checkScalar (s.g a) 1 false = some cause) :
    s.subByte i q k d a = s.trapHere cause (s.g a) := by
  simp only [State.subByte, hcheck, State.trapAccess]

theorem subByte_leavesWindow (hcheck : s.checkScalar (s.g a) 1 false = none) (htwo : 8 < q + k)
    (hnext : nextInWindow (s.g a) = false) : s.subByte i q k d a = s.trapHere causeMisaligned (s.g a) := by
  simp only [State.subByte, hcheck, State.trapAccess]
  exact if_pos (by rw [decide_eq_true htwo, hnext]; rfl)

variable (hcheck : s.checkScalar (s.g a) 1 false = none) (hnext : 8 < q + k → nextInWindow (s.g a) = true)
include hcheck hnext

theorem subByte_foreign (htimed : s.isTimed s.cur = true) (hforeign : s.foreign (s.g a) = true) :
    s.subByte i q k d a = s.trapHere causeTimed (s.g a) := by
  have hstays : ¬(decide (8 < q + k) && !nextInWindow (s.g a)) = true := by simpa using hnext
  simp only [State.subByte, hcheck, State.trapAccess, if_neg hstays]
  exact if_pos (by rw [htimed, hforeign]; rfl)

theorem subByte_ok (hown : s.isTimed s.cur = true → s.foreign (s.g a) = false)
    (hjournal : s.journalAll s.cur
      (journalLines s (s.g a) ++ if 8 < q + k then journalLines s (s.g a + 1) else []) = some s') :
    s.subByte i q k d a = s'.issue i (.subByte q k)
      [partAt s.here (s.g a) (if 8 < q + k then 2 else 1) ((s.g d).toNat % 2 ^ k) 0] s.me.pfx.rlx := by
  have hstays : ¬(decide (8 < q + k) && !nextInWindow (s.g a)) = true := by simpa using hnext
  have hnot : ¬(s.isTimed s.cur && s.foreign (s.g a)) = true := by simpa using hown
  simp only [State.subByte, hcheck, if_neg hstays, if_neg hnot, decide_eq_true_eq, fieldLines_eq, hjournal]

end

/-! ### Atomics (R196) -/

section
variable {f : Nat} {d a : GReg} {w : AWidth}

theorem atomic_fails (hcheck : s.checkScalar (s.g a) (widthOf w) false = some cause) :
    s.atomic i f d a w = s.trapHere cause (s.g a) := by
  rw [widthOf_eq] at hcheck
  simp only [State.atomic, hcheck, State.trapAccess]

theorem atomic_timed (hcheck : s.checkScalar (s.g a) (widthOf w) false = none) (htimed : s.isTimed s.cur = true) :
    s.atomic i f d a w = s.trapHere causeTimed (s.g a) := by
  rw [widthOf_eq] at hcheck
  simp only [State.atomic, hcheck, htimed, if_true, State.trapAccess]

theorem atomic_ok (hcheck : s.checkScalar (s.g a) (widthOf w) false = none) (htimed : s.isTimed s.cur = false) :
    s.atomic i f d a w = s.issue i (.atomic f)
      [partAt s.here (s.g a) (widthOf w) ((s.g d).toNat % 2 ^ (8 * widthOf w)) 0] true := by
  rw [widthOf_eq] at hcheck ⊢
  simp only [State.atomic, hcheck, htimed, Bool.false_eq_true, if_false]

end

end

/-! ## The statement's clauses -/

theorem loadsAndStoresIssue : LoadsAndStoresIssue := by
  intro s d a j ea rlx hroom
  refine ⟨fun x hx hcheck => ?_, fun x hx s' hcheck hown hjournal hroom' => ?_⟩
  · exact completes_of_issue hroom ((exec_loads s x hx).trans (load_ok _ hcheck))
  · exact completes_of_issue hroom' ((exec_stores x hx).trans (store_ok _ hcheck hown hjournal))

theorem bitStoresAndAtomicsIssue : BitStoresAndAtomicsIssue := by
  intro s d a q r w
  refine ⟨fun x hx s' hcheck hnext hown hjournal hroom => ?_, fun x hx hcheck htimed hroom => ?_⟩
  · exact completes_of_issue hroom ((exec_bitStores s x hx).trans (subByte_ok hcheck hnext hown hjournal))
  · exact completes_of_issue hroom ((exec_atomics s x hx).trans (atomic_ok hcheck htimed))

theorem accessTraps : AccessTraps := by
  intro s d a j q r w hcan
  refine ⟨fun x hx c hcheck => ?_, fun x hx => ⟨fun c hcheck => ?_, fun hcheck htimed hforeign => ?_⟩,
    fun x hx => ⟨fun c hcheck => ?_, fun hcheck htwo hnext => ?_, fun hcheck hnext htimed hforeign => ?_⟩,
    fun x hx => ⟨fun c hcheck => ?_, fun hcheck htimed => ?_⟩⟩
  · exact takesTrap_of_exec hcan ((exec_loads s x hx).trans (load_fails _ hcheck))
  · exact takesTrap_of_exec hcan ((exec_stores x hx).trans (store_fails _ hcheck))
  · exact takesTrap_of_exec hcan ((exec_stores x hx).trans (store_foreign _ hcheck htimed hforeign))
  · exact takesTrap_of_exec hcan ((exec_bitStores s x hx).trans (subByte_fails hcheck))
  · exact takesTrap_of_exec hcan ((exec_bitStores s x hx).trans (subByte_leavesWindow hcheck htwo hnext))
  · exact takesTrap_of_exec hcan ((exec_bitStores s x hx).trans (subByte_foreign hcheck hnext htimed hforeign))
  · exact takesTrap_of_exec hcan ((exec_atomics s x hx).trans (atomic_fails hcheck))
  · exact takesTrap_of_exec hcan ((exec_atomics s x hx).trans (atomic_timed hcheck htimed))

/-- Settles O5: an access of each kind issues when every check passes, and takes the trap of the check that fails. -/
theorem loadsAndStores : Obligations.LoadsAndStores := ⟨loadsAndStoresIssue, bitStoresAndAtomicsIssue, accessTraps⟩

end Sys2Proof.ScalarAccesses

/-!
PROOFS. Scalar floating point (R200, R203 to R206): the arithmetic forms round one outcome, whose edges are those of the operations
on numbers, and the forms that never round pick an encoding or change its sign (O7).
-/

namespace Sys2Proof.ScalarFloats
open Sys2Proof Sys2Proof.Machine Sys2Proof.Claims Sys2Proof.Rounding

/-! ## Ends of the forms -/

theorem setsFp_of_exec {i : Instr} {s : State} {d : GReg} {t : Ty} {r r' : FpResult} (hr : r = r')
    (hexec : exec i s = s.writeFp d t r) : SetsFp i s d t r' := by
  subst hr
  unfold SetsFp Completes
  rw [hexec]
  exact writeFp_sets s d t r

/-- A form that never rounds keeps the generator (R205). -/
theorem setsFp_of_plain {i : Instr} {s : State} {d : GReg} {t : FTy} {v : Nat × FlagSet} {bits : Nat} {flags : FlagSet}
    (hv : v = (bits, flags)) (hexec : exec i s = s.writeFpPlain d t v) : SetsFp i s d (ftyTy t) ⟨bits, flags, s.me.srng⟩ := by
  subst hv
  exact setsFp_of_exec rfl hexec

/-! ## Arithmetic (R200, R204) -/

/-- The names of the values of RMODE that are not reserved (R115). -/
theorem mode_dyn_eq_getD {s : State} (h : s.me.rmode.toNat ≤ 4) :
    s.mode .dyn = [RoundMode.nearest, .zero, .down, .up, .stochastic].getD s.me.rmode.toNat .nearest := by
  have hnames : ∀ b : BitVec 3, b.toNat ≤ 4 →
      modeOfBits b = [RoundMode.nearest, .zero, .down, .up, .stochastic].getD b.toNat .nearest := by decide
  exact (if_pos h).trans (hnames _ h)

theorem scalarFloatForms : ScalarFloatForms := by
  intro s d a b t r x y z mode result
  refine ⟨setsFp_of_exec rfl rfl, setsFp_of_exec rfl rfl, setsFp_of_exec rfl rfl, setsFp_of_exec rfl rfl,
    setsFp_of_exec rfl rfl, setsFp_of_exec rfl rfl, ?_⟩
  rintro rfl hmode
  exact mode_dyn_eq_getD hmode

/-! ## Edges (R119, R120, R204) -/

section
variable (mode : RoundMode) (z : Machine.Num)

theorem opAdd_nan_right (sg : Bool) : opAdd mode z (.nan sg) = .nan := by cases z <;> rfl

theorem opMul_nan_right (sg : Bool) : opMul z (.nan sg) = .nan := by cases z <;> rfl

theorem opDiv_nan_right (sg : Bool) : opDiv z (.nan sg) = .nan := by cases z <;> rfl

/-- A product with one leaves the infinities as they are. -/
theorem opFma_inf_one (p q : Bool) :
    opFma mode (.inf p) (.inf q) (.fin ⟨false, 1, 0, false⟩) = if p = q then .inf p else .invalid := by cases q <;> rfl

/-- Infinities of one sign have no difference. -/
theorem opDist_inf_self (p : Bool) : opDist mode z (.inf p) (.inf p) = .invalid := by cases p <;> rfl

end

theorem opSqrt_negative {e : Exact} (hmag : e.mag ≠ 0) (hneg : e.neg = true) : opSqrt (.fin e) = .invalid := by
  simp [opSqrt, hmag, hneg]

theorem floatEdges : FloatEdges := by
  intro f mode g p q sg e xs z
  exact ⟨rfl, opAdd_nan_right mode z sg, rfl, opMul_nan_right z sg, rfl, opDiv_nan_right z sg, rfl, rfl, rfl, rfl, rfl, rfl,
    rfl, rfl, rfl, rfl, rfl, rfl, rfl, fun _ => rfl, rfl, opSqrt_negative, rfl, opFma_inf_one mode p q, rfl, rfl, rfl,
    opDist_inf_self mode z p⟩

/-! ## Minima, maxima and signs (R205) -/

section
variable {f : Fmt} {A B : Nat}

theorem minMax_of_nan {sg : Bool} (isMax : Bool) (hnan : ((f.value A).isNan || (f.value B).isNan) = true)
    (hsg : ((f.value A).isSignalling || (f.value B).isSignalling) = sg) : f.minMax isMax A B = (f.nanCode, invalidIf sg) := by
  subst hsg
  exact if_pos hnan

theorem before_iff (x y : Machine.Num) :
    x.before y = true ↔ x.lt y = true ∨ (x.eq y = true ∧ x.neg = true ∧ ¬y.neg = true) := by
  simp [Machine.Num.before, and_assoc]

section
variable (hA : (f.value A).isNan = false) (hB : (f.value B).isNan = false)
include hA hB

theorem minMax_of_not_nan (isMax : Bool) :
    f.minMax isMax A B =
      (if if isMax then (f.value B).before (f.value A) else (f.value A).before (f.value B) then A else B, 0) := by
  have hnot : ¬((f.value A).isNan || (f.value B).isNan) = true := by simp [hA, hB]
  exact (if_neg hnot).trans (apply_ite (Prod.mk · (0 : FlagSet)) _ A B).symm

theorem fmin_bits :
    f.minMax false A B =
      (if (f.value A).lt (f.value B) ∨ ((f.value A).eq (f.value B) ∧ (f.value A).neg ∧ ¬(f.value B).neg) then A else B, 0) := by
  rw [minMax_of_not_nan hA hB]
  exact congrArg (Prod.mk · 0) (if_congr (before_iff _ _) rfl rfl)

theorem fmax_bits :
    f.minMax true A B =
      (if (f.value B).lt (f.value A) ∨ ((f.value B).eq (f.value A) ∧ (f.value B).neg ∧ ¬(f.value A).neg) then A else B, 0) := by
  rw [minMax_of_not_nan hA hB]
  exact congrArg (Prod.mk · 0) (if_congr (before_iff _ _) rfl rfl)

end

theorem signOp_of_nan {sg : Bool} (isNeg : Bool) (h : f.value A = .nan sg) : f.signOp isNeg A = (f.nanCode, invalidIf sg) := by
  rw [Fmt.signOp, h]
  rfl

theorem signOp_of_not_nan (isNeg : Bool) (h : (f.value A).isNan = false) :
    f.signOp isNeg A = (A % 2 ^ (f.ebits + f.mbits) + f.signBit (if isNeg then !(f.value A).neg else false), 0) := by
  unfold Fmt.signOp
  split
  case h_1 sg hv =>
    rw [hv] at h
    cases h
  case h_2 => rfl

/-- The sign of a value that is not a NaN is the top bit of its encoding. -/
theorem value_neg (h : (f.value A).isNan = false) : (f.value A).neg = (A / 2 ^ (f.ebits + f.mbits) % 2 == 1) := by
  simp only [Fmt.value, finite_eq] at h ⊢
  cases hspecials : f.specials with
  | ieee =>
    simp only [hspecials] at h ⊢
    split_ifs at h ⊢
    · rfl
    · cases h
    · exact codeVal_neg ..
  | onlyNan =>
    simp only [hspecials] at h ⊢
    split_ifs at h ⊢
    · cases h
    · exact codeVal_neg ..
  | none => exact codeVal_neg ..

theorem fabs_bits (h : (f.value A).isNan = false) : f.signOp false A = (A % 2 ^ (f.ebits + f.mbits), 0) :=
  signOp_of_not_nan false h

/-- `fneg` moves an encoding from one half of the codes to the other. -/
theorem fneg_bits (h : (f.value A).isNan = false) (hA : A < 2 ^ f.width) :
    f.signOp true A =
      (if A < 2 ^ (f.ebits + f.mbits) then A + 2 ^ (f.ebits + f.mbits) else A - 2 ^ (f.ebits + f.mbits), 0) := by
  have hcode := signBit_add_code f hA
  rw [← value_neg h] at hcode
  rw [signOp_of_not_nan true h, if_pos rfl]
  have hlt : A % 2 ^ (f.ebits + f.mbits) < 2 ^ (f.ebits + f.mbits) := Nat.mod_lt _ (by positivity)
  cases hneg : (f.value A).neg with
  | false =>
    rw [hneg] at hcode
    simp only [Fmt.signBit, Bool.false_eq_true, if_false, zero_add] at hcode
    rw [hcode] at hlt ⊢
    rw [if_pos hlt]
    rfl
  | true =>
    rw [hneg] at hcode
    simp only [Fmt.signBit, if_true] at hcode
    rw [if_neg (by omega)]
    refine Prod.ext ?_ rfl
    simp only [Fmt.signBit, Bool.not_true, Bool.false_eq_true, if_false]
    omega

end

/-- The bits that a floating-point type reads are an encoding. -/
theorem fpBits_lt (s : State) (t : FTy) (a : GReg) : s.fpBits t a < 2 ^ (ftyFmt t).width := Nat.mod_lt _ (by positivity)

/-- A NaN beside a number decides whether one of the two is signalling. -/
theorem isSignalling_or_of_not_nan (sg : Bool) {y : Machine.Num} (hy : y.isNan = false) : (sg || y.isSignalling) = sg := by
  cases y with
  | nan _ => cases hy
  | inf _ => exact Bool.or_false sg
  | fin _ => exact Bool.or_false sg

theorem minMaxAbsNeg : MinMaxAbsNeg := by
  intro s d a b t f A B x y sign
  have hnans {sg : Bool} (hnan : (x.isNan || y.isNan) = true) (hsg : (x.isSignalling || y.isSignalling) = sg) :
      SetsFp (.fmin d a b t) s d (ftyTy t) ⟨f.nanCode, invalidIf sg, s.me.srng⟩ ∧
        SetsFp (.fmax d a b t) s d (ftyTy t) ⟨f.nanCode, invalidIf sg, s.me.srng⟩ :=
    ⟨setsFp_of_plain (minMax_of_nan false hnan hsg) rfl, setsFp_of_plain (minMax_of_nan true hnan hsg) rfl⟩
  refine ⟨fun sg sg' hx hy => ?_, fun sg hone => ?_, fun hx hy => ?_, fun sg hx => ?_, fun hx => ?_⟩
  · exact hnans (by rw [hx]; rfl) (by rw [hx, hy]; rfl)
  · obtain ⟨hx, hy⟩ | ⟨hy, hx⟩ := hone
    · exact hnans (by rw [hx]; rfl) (by rw [hx]; exact isSignalling_or_of_not_nan sg hy)
    · exact hnans (by rw [hy]; exact Bool.or_true _)
        (by rw [hy, Bool.or_comm]; exact isSignalling_or_of_not_nan sg hx)
  · exact ⟨setsFp_of_plain (fmin_bits hx hy) rfl, setsFp_of_plain (fmax_bits hx hy) rfl⟩
  · exact ⟨setsFp_of_plain (signOp_of_nan false hx) rfl, setsFp_of_plain (signOp_of_nan true hx) rfl⟩
  · exact ⟨setsFp_of_plain (fabs_bits hx) rfl, setsFp_of_plain (fneg_bits hx (fpBits_lt s t a)) rfl⟩

/-! ## Compares (R206) -/

/-- A predicate that is written beside flags that are raised. -/
theorem setP_raise_tests (s : State) (d : PReg) (v : Bool) (f : FlagSet) :
    TestsP s (s.modMe fun c => ((c.setP d v).raise f).advance) d v f := by
  obtain ⟨_, hwrite, hwrites⟩ := writeP_sets s d v
  cases hwrite
  obtain ⟨-, hnext, hpred, hmine⟩ := hwrites
  rw [State.me_modMe] at hnext hmine
  refine ⟨onlyMe_setMe s _, ?_, fun r => ?_, ?_, ?_⟩
  · rw [State.me_modMe]
    exact ⟨hnext.pc, rfl, rfl, rfl, rfl⟩
  · rw [← hpred r, State.p, State.p, State.me_modMe, State.me_modMe]
    rfl
  · constructor <;> simp
  · rw [State.me_modMe]
    exact congrArg (fun c : Ctx => { c with fflags := s.me.fflags }) hmine

/-- A compare of two numbers is false of a NaN. -/
theorem ordered_and_lt (x y : Machine.Num) : (!(x.isNan || y.isNan) && x.lt y) = x.lt y := by cases x <;> cases y <;> rfl

theorem ordered_and_eq (x y : Machine.Num) : (!(x.isNan || y.isNan) && x.eq y) = x.eq y := by cases x <;> cases y <;> rfl

theorem ordered_and_le (x y : Machine.Num) : (!(x.isNan || y.isNan) && (x.lt y || x.eq y)) = (x.lt y || x.eq y) := by
  rw [Bool.and_or_distrib_left, ordered_and_lt, ordered_and_eq]

theorem completes_of_fcmp {i : Instr} {s : State} {c : Cond} {d : PReg} {a b : GReg} {t : FTy} {v inv : Bool}
    (hexec : exec i s = s.fcmp c d a b t) (hv : v = Machine.Num.cond c (s.fpValue t a) (s.fpValue t b))
    (hinv : invalidIf inv = Machine.Num.condFlags c (s.fpValue t a) (s.fpValue t b)) :
    Completes i s fun u => TestsP s u d v (invalidIf inv) := by
  rw [hv, hinv]
  exact ⟨_, hexec, setP_raise_tests s d _ _⟩

theorem floatCompares : FloatCompares := by
  intro s d a b t x y unordered signalling tests
  exact ⟨completes_of_fcmp rfl (ordered_and_eq x y) rfl, completes_of_fcmp rfl (ordered_and_lt x y) rfl,
    completes_of_fcmp rfl (ordered_and_le x y) rfl, completes_of_fcmp rfl rfl rfl⟩

/-- Settles O7: each form is one write, of an outcome that is rounded once, of an encoding picked or signed anew, or of a predicate,
and of an unordered pair only `un` is true. -/
theorem scalarFloat : Obligations.ScalarFloat := ⟨scalarFloatForms, floatEdges, minMaxAbsNeg, floatCompares⟩

end Sys2Proof.ScalarFloats

/-!
PROOFS. The vector unit (R201, R209 to R214, R218, R220): a lane form is one run over its lanes, a compare one run over the lanes of
a mask, and a mask form one write (O10, O11, O12).
-/

namespace Sys2Proof.VectorUnit
open Sys2Proof Sys2Proof.Machine Sys2Proof.Claims Sys2Proof.ScalarIntegers Sys2Proof.ScalarFloats

/-! ## Runs over lanes (R201) -/

/-- A lane below the lane count lies within the whole lanes of a register. -/
theorem lane_in_register {w j : Nat} (hj : j < 512 / w) : w * j + w ≤ 512 / w * w := by
  rw [← Nat.mul_succ, Nat.mul_comm]
  exact Nat.mul_le_mul_right w hj

theorem setsLanes_of_exec {i : Instr} {s : State} {d : VReg} {w : Nat} {k : MReg} {f : Nat → BitVec 32 → FpResult}
    (hexec : exec i s = s.lanes d w k f) : SetsLanes i s d w (512 / w) (fun j => (s.m k).getLsbD j) id f :=
  writeVFp_lanes hexec (fun _ hj _ => lane_in_register hj) fun _ _ _ _ _ _ h => h

/-! ## Integer lanes (R209) -/

theorem setsIntLanes_of_exec {i : Instr} {s : State} {d : VReg} {w : Nat} {k : MReg} {f : Nat → Int × FlagSet}
    (hexec : exec i s = s.lanes d w k fun j g => ⟨intBits w (f j).1, (f j).2, g⟩) : SetsIntLanes i s d w k f :=
  setsLanes_of_exec hexec

/-- The flag tells the values that the clamp changes. -/
theorem saturateTo_eq_clamped (w : Nat) (v : Int) : saturateTo w v = clamped w v := by
  have hpos : (0 : Int) < 2 ^ (w - 1) := by positivity
  unfold saturateTo clamped
  generalize (2 : Int) ^ (w - 1) = p at hpos
  rw [← ExactValues.clamp_eq (by omega)]
  by_cases hlow : v < -p
  · simp only [if_pos hlow, if_neg hlow.ne']
    rfl
  · by_cases hhigh : p - 1 < v
    · simp only [if_neg hlow, if_pos hhigh, if_neg hhigh.ne]
      rfl
    · simp only [if_neg hlow, if_neg hhigh, if_true]

theorem setsIntLanes_of_saturated {i : Instr} {s : State} {d : VReg} {w : Nat} {k : MReg} {v : Nat → Int}
    (hexec : exec i s = s.lanes d w k fun j g => ⟨intBits w (saturateTo w (v j)).1, (saturateTo w (v j)).2, g⟩) :
    SetsIntLanes i s d w k fun j => clamped w (v j) :=
  setsIntLanes_of_exec (by simpa only [saturateTo_eq_clamped] using hexec)

theorem dotBytes_eq (x y : Nat) :
    dotBytes x y = signedElem 8 (elem x 8 0) * signedElem 8 (elem y 8 0) + signedElem 8 (elem x 8 1) * signedElem 8 (elem y 8 1) +
      signedElem 8 (elem x 8 2) * signedElem 8 (elem y 8 2) + signedElem 8 (elem x 8 3) * signedElem 8 (elem y 8 3) := by
  rw [← zero_add (signedElem 8 (elem x 8 0) * signedElem 8 (elem y 8 0))]
  rfl

theorem exec_vabs (d a : VReg) (t : ITy) (k : MReg) (s : State) :
    exec (.vabs d a t k) s = s.lanes d (iWidth t) k fun j g =>
      ⟨intBits (iWidth t) (signedLane s (iWidth t) a j).natAbs, 0, g⟩ := rfl

theorem exec_vdot4 (d a b : VReg) (k : MReg) (s : State) :
    exec (.vdot4 d a b k) s = s.lanes d 32 k fun j g =>
      let v := saturateTo 32 (signedLane s 32 d j + dotBytes (lane s 32 a j) (lane s 32 b j))
      ⟨intBits 32 v.1, v.2, g⟩ := rfl

theorem vectorIntegerForms : VectorIntegerForms := by
  intro s d a b t k w A B C UA UB sets
  refine ⟨setsIntLanes_of_exec rfl, setsIntLanes_of_exec rfl, setsIntLanes_of_exec rfl, setsIntLanes_of_exec rfl,
    setsIntLanes_of_exec rfl, setsIntLanes_of_exec rfl, setsIntLanes_of_exec rfl, setsIntLanes_of_exec rfl,
    setsIntLanes_of_exec rfl, setsIntLanes_of_exec rfl, setsIntLanes_of_exec rfl, setsIntLanes_of_exec rfl,
    setsIntLanes_of_exec rfl, setsIntLanes_of_exec rfl, setsIntLanes_of_exec ?_, setsIntLanes_of_exec rfl,
    setsIntLanes_of_saturated rfl, setsIntLanes_of_saturated rfl, setsIntLanes_of_exec rfl, ?_⟩
  · simp only [Int.abs_eq_natAbs]
    exact exec_vabs d a t k s
  · rintro rfl
    refine setsIntLanes_of_saturated ?_
    simp only [← dotBytes_eq]
    exact exec_vdot4 d a b k s

/-! ## Compares (R212) -/

/-- The mask and the flags that the compares of the first n lanes give. -/
def maskRun (k : Word) (f : Nat → Bool × FlagSet) (n : Nat) : Word × FlagSet :=
  (List.range n).foldl (fun acc j =>
    if activeLane k j then
      let r := f j
      (if r.1 then acc.1 ||| (1#64 <<< j) else acc.1, acc.2 ||| r.2)
    else acc) (0, 0)

theorem compareMask_eq (k : Word) (w : Nat) (f : Nat → Bool × FlagSet) : compareMask k w f = maskRun k f (512 / w) := rfl

/-- Bit n of a mask, where the mask has one. -/
theorem getLsbD_oneAt {n : Nat} (hn : n < 64) (j : Nat) : (1#64 <<< n).getLsbD j = decide (j = n) := by
  rw [BitVec.getLsbD_shiftLeft, BitVec.getLsbD_one]
  by_cases h : j = n
  · simp [h, hn]
  · by_cases hlt : j < n
    · simp [h, hlt]
    · simp [h, show j - n ≠ 0 by omega]

section
variable (k : Word) (f : Nat → Bool × FlagSet) (n : Nat)

theorem maskRun_succ :
    maskRun k f (n + 1) =
      if k.getLsbD n then
        (if (f n).1 then (maskRun k f n).1 ||| (1#64 <<< n) else (maskRun k f n).1, (maskRun k f n).2 ||| (f n).2)
      else maskRun k f n := by
  rw [maskRun, List.range_succ, List.foldl_append]
  rfl

theorem getLsbD_maskRun_succ (j : Nat) :
    (maskRun k f (n + 1)).1.getLsbD j = ((maskRun k f n).1.getLsbD j || (decide (j = n) && k.getLsbD n && (f n).1)) := by
  rw [maskRun_succ]
  cases hon : k.getLsbD n with
  | false => simp
  | true =>
    have hn : n < 64 := BitVec.lt_of_getLsbD hon
    cases hmeets : (f n).1 with
    | false => simp
    | true => simp [BitVec.getLsbD_or, getLsbD_oneAt hn]

/-- A bit of the mask is set where the lane exists, is active and meets the condition (R212). -/
theorem getLsbD_maskRun (j : Nat) : (maskRun k f n).1.getLsbD j = (decide (j < n) && k.getLsbD j && (f j).1) := by
  induction n with
  | zero => simp [maskRun]
  | succ n ih =>
    rw [getLsbD_maskRun_succ, ih]
    by_cases hj : j = n
    · simp [hj]
    · have hlt : decide (j < n + 1) = decide (j < n) := decide_eq_decide.2 (by omega)
      rw [hlt]
      simp [hj]

theorem invalidIf_or (a b : Bool) : invalidIf a ||| invalidIf b = invalidIf (a || b) := by cases a <;> cases b <;> rfl

theorem maskRun_flags {f : Nat → Bool × FlagSet} {inv : Nat → Bool} (hinv : ∀ j, (f j).2 = invalidIf (inv j)) :
    (maskRun k f n).2 = invalidIf ((List.range n).any fun j => k.getLsbD j && inv j) := by
  induction n with
  | zero => rfl
  | succ n ih =>
    rw [maskRun_succ, List.range_succ, List.any_append, List.any_cons, List.any_nil, Bool.or_false]
    cases hon : k.getLsbD n with
    | false => simpa using ih
    | true => rw [if_pos rfl, hinv, ih, invalidIf_or, Bool.true_and]

end

/-- A mask that is written beside flags that are raised. -/
theorem setM_raise_tests (s : State) (d : MReg) (v : Word) (f : FlagSet) :
    TestsM s (s.modMe fun c => ((c.setM d v).raise f).advance) d v f := by
  obtain ⟨_, hwrite, hwrites⟩ := writeM_sets s d v
  cases hwrite
  obtain ⟨-, hnext, hmask, hmine⟩ := hwrites
  rw [State.me_modMe] at hnext hmine
  refine ⟨onlyMe_setMe s _, ?_, fun r => ?_, ?_, ?_⟩
  · rw [State.me_modMe]
    exact ⟨hnext.pc, rfl, rfl, rfl, rfl⟩
  · rw [← hmask r, State.m, State.m, State.me_modMe, State.me_modMe]
    rfl
  · constructor <;> simp
  · rw [State.me_modMe]
    exact congrArg (fun c : Ctx => { c with fflags := s.me.fflags }) hmine

theorem completes_of_vcmp {i : Instr} {s : State} {d : MReg} {a b : VReg} {w : Nat} {k : MReg}
    {h : Nat → Nat → Bool × FlagSet} (hexec : exec i s = s.vcmp d a b w k h) {c inv : Nat → Bool}
    (hc : ∀ j, (h (lane s w a j) (lane s w b j)).1 = c j)
    (hinv : ∀ j, (h (lane s w a j) (lane s w b j)).2 = invalidIf (inv j)) :
    Completes i s fun t => ∃ v F, TestsM s t d v F ∧
      (∀ j, v.getLsbD j = (decide (j < 512 / w) && (s.m k).getLsbD j && c j)) ∧
      F = invalidIf ((List.range (512 / w)).any fun j => (s.m k).getLsbD j && inv j) := by
  refine ⟨_, hexec, _, _, setM_raise_tests s d _ _, fun j => ?_, maskRun_flags _ _ hinv⟩
  rw [compareMask_eq, getLsbD_maskRun, ← hc j]
  rfl

/-- An unordered pair is unequal as it is. -/
theorem unordered_or_ne (x y : Machine.Num) : (x.isNan || y.isNan || !x.eq y) = !x.eq y := by
  rw [← ordered_and_eq, Bool.not_and, Bool.not_not, ← Bool.or_assoc, Bool.or_self]

theorem ordered_and_gt (x y : Machine.Num) : (!(x.isNan || y.isNan) && y.lt x) = y.lt x := by
  rw [Bool.or_comm, ordered_and_lt]

theorem ordered_and_ge (x y : Machine.Num) : (!(x.isNan || y.isNan) && (y.lt x || x.eq y)) = (y.lt x || x.eq y) := by
  rw [Bool.and_or_distrib_left, ordered_and_gt, ordered_and_eq]

theorem int_bne_eq_decide_ne (a b : Int) : (a != b) = decide (a ≠ b) := by rw [bne, beq_eq_decide, decide_not]

theorem vectorCompares : VectorCompares := by
  intro s d a b t u k w A B f x y unordered signalling tests
  exact ⟨completes_of_vcmp (h := compareLanes .eq (.int t)) rfl (fun _ => beq_eq_decide _ _) fun _ => rfl,
    completes_of_vcmp (h := compareLanes .ne (.int t)) rfl (fun _ => int_bne_eq_decide_ne _ _) fun _ => rfl,
    completes_of_vcmp (h := compareLanes .lt (.int t)) rfl (fun _ => rfl) fun _ => rfl,
    completes_of_vcmp (h := compareLanes .le (.int t)) rfl (fun _ => rfl) fun _ => rfl,
    completes_of_vcmp (h := compareLanes .gt (.int t)) rfl (fun _ => rfl) fun _ => rfl,
    completes_of_vcmp (h := compareLanes .ge (.int t)) rfl (fun _ => rfl) fun _ => rfl,
    completes_of_vcmp (h := fun x y => (decide (x < y), 0)) rfl (fun _ => rfl) fun _ => rfl,
    completes_of_vcmp (h := compareLanes .eq (.fp u)) rfl (fun j => (ordered_and_eq (x j) (y j)).symm) fun _ => rfl,
    completes_of_vcmp (h := compareLanes .ne (.fp u)) rfl (fun j => (unordered_or_ne (x j) (y j)).symm) fun _ => rfl,
    completes_of_vcmp (h := compareLanes .lt (.fp u)) rfl (fun j => (ordered_and_lt (x j) (y j)).symm) fun _ => rfl,
    completes_of_vcmp (h := compareLanes .le (.fp u)) rfl (fun j => (ordered_and_le (x j) (y j)).symm) fun _ => rfl,
    completes_of_vcmp (h := compareLanes .gt (.fp u)) rfl (fun j => (ordered_and_gt (x j) (y j)).symm) fun _ => rfl,
    completes_of_vcmp (h := compareLanes .ge (.fp u)) rfl (fun j => (ordered_and_ge (x j) (y j)).symm) fun _ => rfl,
    completes_of_vcmp (h := compareLanes .un (.fp u)) rfl (fun _ => rfl) fun _ => rfl⟩

/-- Settles O10: a lane form is one run over the lanes, and a compare sets a bit of its mask for each active lane that meets it. -/
theorem vectorIntegers : Obligations.VectorIntegers := ⟨vectorIntegerForms, vectorCompares⟩

/-! ## Floating-point lanes (R211) -/

theorem vectorFloatForms : VectorFloatForms := by
  intro s d a b t k r f w x y z mode sets
  exact ⟨setsLanes_of_exec rfl, setsLanes_of_exec rfl, setsLanes_of_exec rfl, setsLanes_of_exec rfl, setsLanes_of_exec rfl,
    setsLanes_of_exec rfl, setsLanes_of_exec rfl, setsLanes_of_exec rfl, setsLanes_of_exec rfl, setsLanes_of_exec rfl,
    setsLanes_of_exec rfl⟩

/-! ## Conversions (R213, R214) -/

/-- A vector conversion is one run over the pairs of its part. -/
theorem exec_vcvt (d a : VReg) (p : Fin 8) (k : MReg) (t u : Ty) (r : Rm) (s : State) :
    exec (.vcvt d a p k t u r) s =
      s.writeVFp d (laneRun t.width (fun j => (s.m k).getLsbD j) (fun j => (vcvtPair t u p.val j).2)
        (fun j g => convert t u (elem (s.v a) u.width (vcvtPair t u p.val j).1) (s.mode r) g) (vcvtLanes t u)
        ⟨s.v d, 0, s.me.srng⟩) := rfl

section
variable (t u : Ty) (p j : Nat)

/-- The wider register gives its first elements, the narrower one those of the part. -/
theorem vcvtPair_eq :
    vcvtPair t u p j =
      (if max t.width u.width = u.width ∧ t.width ≠ u.width then j else p * vcvtLanes t u + j,
       if max t.width u.width = t.width ∧ t.width ≠ u.width then j else p * vcvtLanes t u + j) := by
  unfold vcvtPair
  rcases lt_trichotomy u.width t.width with h | h | h
  · simp [h.ne, h.ne', h, h.le]
  · simp [h]
  · simp [h.ne, h.ne', h.le, h.not_gt]

variable {t u p j}

theorem vcvtPair_inj {i : Nat} (h : (vcvtPair t u p i).2 = (vcvtPair t u p j).2) : i = j := by
  rw [vcvtPair_eq, vcvtPair_eq] at h
  dsimp only at h
  split_ifs at h <;> omega

/-- The pairs of a part that the types have lie within the register that is written. -/
theorem vcvtPair_in_register (hp : p < vcvtParts t u) (hj : j < vcvtLanes t u) :
    t.width * (vcvtPair t u p j).2 + t.width ≤ 512 / t.width * t.width := by
  apply lane_in_register
  have hlanes : vcvtLanes t u ≤ 512 / max t.width u.width := min_le_right _ _
  rw [vcvtPair_eq]
  dsimp only
  split_ifs with h
  · exact hj.trans_le (h.1 ▸ hlanes)
  · have hmin : min t.width u.width = t.width := by omega
    have hpart : p < 512 / t.width / vcvtLanes t u := by
      rw [Nat.div_div_eq_div_mul, Nat.mul_comm, ← hmin]
      exact hp.trans_le (min_le_right _ _)
    have hparts := (Nat.le_div_iff_mul_le (Nat.zero_lt_of_lt hj)).1 hpart
    rw [Nat.succ_mul] at hparts
    omega

end

theorem vectorConversion : VectorConversion := by
  intro s d a p k t u r L src dst
  refine ⟨fun hp => ?_, fun x y => Convert.cvt_sets rfl⟩
  have hpair (j : Nat) : vcvtPair t u p.val j = (src j, dst j) := vcvtPair_eq t u p.val j
  have hexec := exec_vcvt d a p k t u r s
  simp only [hpair] at hexec
  refine writeVFp_lanes hexec (fun j hj _ => ?_) fun i j _ _ _ _ h => ?_
  · simpa only [hpair] using vcvtPair_in_register hp hj
  · exact vcvtPair_inj (t := t) (u := u) (p := p.val) (by simpa only [hpair] using h)

/-- Settles O11: a floating-point form is one run over the lanes, and a conversion one over the pairs of its part, which have each
their own element of the register. -/
theorem vectorFloat : Obligations.VectorFloat := ⟨vectorFloatForms, vectorConversion⟩

/-! ## Lanes and permutes (R218) -/

theorem laneRun_congr_on {w n : Nat} {on on' : Nat → Bool} (h : ∀ j < n, on j = on' j) (place : Nat → Nat)
    (f : Nat → BitVec 32 → FpResult) (acc : LaneAcc) : laneRun w on place f n acc = laneRun w on' place f n acc := by
  induction n with
  | zero => rfl
  | succ n ih => rw [laneRun_succ, laneRun_succ, ih fun j hj => h j (by omega), h n (by omega)]

/-- m0 has a bit for every lane of a register. -/
theorem getLsbD_m_zero (s : State) {t : ITy} {j : Nat} (hj : j < 512 / iWidth t) : (s.m 0).getLsbD j = true := by
  have hlanes : 512 / iWidth t ≤ 64 := by cases t <;> decide
  rw [State.m_zero, BitVec.getLsbD_allOnes]
  exact decide_eq_true (hj.trans_le hlanes)

/-- A lane form under m0 writes every lane. -/
theorem setsLanes_of_exec_all {i : Instr} {s : State} {d : VReg} {t : ITy} {f : Nat → BitVec 32 → FpResult}
    (hexec : exec i s = s.lanes d (iWidth t) 0 f) :
    SetsLanes i s d (iWidth t) (512 / iWidth t) (fun _ => true) id f := by
  refine writeVFp_lanes (hexec.trans ?_) (fun _ hj _ => lane_in_register hj) fun _ _ _ _ _ _ h => h
  rw [← laneRun_congr_on fun j hj => getLsbD_m_zero s hj]
  rfl

theorem setElem_mod (v w i x : Nat) : setElem v w i (x % 2 ^ w) = setElem v w i x := by rw [setElem, setElem, Nat.mod_mod]

/-- An insertion is a run over one lane, which raises nothing and draws nothing. -/
theorem exec_vins (d : VReg) (x y : GReg) (t : ITy) (s : State) :
    exec (.vins d x y t) s =
      s.writeVFp d (laneRun (iWidth t) (fun _ => true) (fun _ => (s.g y).toNat % (512 / iWidth t))
        (fun _ g => ⟨(s.g x).toNat % 2 ^ iWidth t, 0, g⟩) 1 ⟨s.v d, 0, s.me.srng⟩) := by
  have hctx : ({ s.me with srng := s.me.srng }.raise (0 ||| 0)).advance = s.me.advance := by simp [Ctx.raise]
  have hvalue := setElem_mod (s.v d) (iWidth t) ((s.g y).toNat % (512 / iWidth t)) (s.g x).toNat
  exact congrArg₂ (fun v c => (.next ((s.setV d v).setMe c) : Res)) hvalue.symm hctx.symm

theorem vins_sets (s : State) (d : VReg) (x y : GReg) (t : ITy) :
    SetsLanes (.vins d x y t) s d (iWidth t) 1 (fun _ => true) (fun _ => (s.g y).toNat % (512 / iWidth t))
      fun _ g => ⟨(s.g x).toNat % 2 ^ iWidth t, 0, g⟩ := by
  have hlanes : 0 < 512 / iWidth t := by cases t <;> decide
  refine writeVFp_lanes (exec_vins d x y t s) (fun _ _ _ => lane_in_register (Nat.mod_lt _ hlanes)) fun i j hi hj _ _ _ => ?_
  omega

theorem vectorMoves : VectorMoves := by
  intro s d a b x y t k w L on
  exact ⟨setsLanes_of_exec rfl, setsG_of_exec rfl rfl, vins_sets s d x y t, setsLanes_of_exec rfl,
    setsLanes_of_exec_all rfl, setsLanes_of_exec rfl⟩

/-! ## Lane masks (R220) -/

theorem setsM_of_exec {i : Instr} {s : State} {d : MReg} {v w : Word} (hv : v = w) (hexec : exec i s = s.writeM d v) :
    SetsM i s d w := by
  subst hv
  unfold SetsM Completes
  rw [hexec]
  exact writeM_sets s d v

theorem laneMaskForms : LaneMaskForms := by
  intro s d a b g
  exact ⟨setsM_of_exec rfl rfl, setsM_of_exec rfl rfl, setsM_of_exec rfl rfl, setsM_of_exec BitVec.allOnes_xor.symm rfl,
    setsM_of_exec rfl rfl, setsM_of_exec rfl rfl, setsG_of_exec rfl rfl,
    setsG_of_exec (congrArg (BitVec.ofNat 64) (onesBelow_eq_length _ 64)) rfl, s.m_zero⟩

/-- Settles O12: a permute or a move is one run over the lanes that it writes, and a mask form one write. -/
theorem vectorMovesAndMasks : Obligations.VectorMovesAndMasks := ⟨vectorMoves, laneMaskForms⟩

end Sys2Proof.VectorUnit

/-!
PROOFS. Reductions (R219): the active lanes are combined by one fold, whose least or greatest element is that of the lanes and the
bound (O13).
-/

namespace Sys2Proof.Reduce
open Sys2Proof Sys2Proof.Machine Sys2Proof.Claims Sys2Proof.ScalarIntegers Sys2Proof.ScalarFloats

/-! ## The least and the greatest of a list and a bound -/

section
variable {N : Type} [LinearOrder N] (xs : List N) (b : N)

/-- The bound stands at the head of the list whose least element the fold is. -/
theorem foldl_min_spec : (∀ x ∈ xs, xs.foldl min b ≤ x) ∧ (xs.foldl min b ∈ xs ∨ xs.foldl min b = b) := by
  have hleast : (b :: xs).min? = some (xs.foldl min b) := List.min?_cons'
  have hle := (List.le_min?_iff hleast).1 le_rfl
  exact ⟨fun x hx => hle x (List.mem_cons_of_mem b hx), (List.mem_cons.1 (List.min?_mem hleast)).symm⟩

theorem foldl_max_spec : (∀ x ∈ xs, x ≤ xs.foldl max b) ∧ (xs.foldl max b ∈ xs ∨ xs.foldl max b = b) :=
  foldl_min_spec (N := Nᵒᵈ) xs b

end

/-! ## Floating-point reductions -/

section
variable {s : State} {d : GReg} {a : VReg} {u : FTy} {k : MReg}

theorem exec_vfredAdd_none (h : s.activeLanes a (ftyFmt u).width k = []) : exec (.vfredAdd d a u k) s = s.writeG d 0 := by
  have hempty : ((s.activeLanes a (ftyFmt u).width k).map (ftyFmt u).value).isEmpty = true := by rw [h]; rfl
  exact if_pos hempty

theorem exec_vfredAdd_some (h : s.activeLanes a (ftyFmt u).width k ≠ []) :
    exec (.vfredAdd d a u k) s =
      s.writeFp d (ftyTy u)
        ((ftyFmt u).sumAll ((s.activeLanes a (ftyFmt u).width k).map (ftyFmt u).value) (s.mode .dyn) s.me.srng) := by
  have hnonempty : ¬((s.activeLanes a (ftyFmt u).width k).map (ftyFmt u).value).isEmpty = true := by simpa using h
  exact if_neg hnonempty

end

section
variable {f : Fmt} {xs : List Nat} (isMax : Bool)

theorem minMaxAll_of_nan (h : (xs.any fun x => (f.value x).isNan) = true) :
    f.minMaxAll isMax xs = (f.nanCode, invalidIf (xs.any fun x => (f.value x).isSignalling)) := if_pos h

theorem minMaxAll_of_no_nan (h : (xs.any fun x => (f.value x).isNan) = false) :
    f.minMaxAll isMax xs = (xs.foldl (fun m x => (f.minMax isMax m x).1) (f.infCode isMax), 0) :=
  if_neg (Bool.not_eq_true _ ▸ h)

end

theorem reductions : Reductions := by
  intro s d a t u k w lanes signed f
  obtain ⟨hminLe, hminMem⟩ := foldl_min_spec signed (2 ^ (w - 1) - 1)
  obtain ⟨hmaxLe, hmaxMem⟩ := foldl_max_spec signed (-2 ^ (w - 1))
  obtain ⟨hminuLe, hminuMem⟩ := foldl_min_spec (lanes w) (2 ^ w - 1)
  obtain ⟨hmaxuLe, hmaxuMem⟩ := foldl_max_spec (lanes w) 0
  refine ⟨setsG_of_exec (congrArg (BitVec.ofInt 64) List.sum_eq_foldl.symm) rfl, ⟨_, setsG_of_exec rfl rfl, hminLe, hminMem⟩,
    ⟨_, setsG_of_exec rfl rfl, hmaxLe, hmaxMem⟩, ⟨_, setsG_of_exec rfl rfl, hminuLe, hminuMem⟩,
    ⟨_, setsG_of_exec rfl rfl, hmaxuLe, hmaxuMem⟩, fun hnone => setsG_of_exec rfl (exec_vfredAdd_none hnone),
    fun hsome => setsFp_of_exec rfl (exec_vfredAdd_some hsome), _, rfl, fun hnan => ?_, fun hnan => ?_⟩
  · exact ⟨setsFp_of_plain (minMaxAll_of_nan false hnan) rfl, setsFp_of_plain (minMaxAll_of_nan true hnan) rfl⟩
  · exact ⟨setsFp_of_plain (minMaxAll_of_no_nan false hnan) rfl, setsFp_of_plain (minMaxAll_of_no_nan true hnan) rfl⟩

/-- Settles O13: each reduction is one write of a fold over the active lanes. -/
theorem vectorReductions : Obligations.VectorReductions := reductions

end Sys2Proof.Reduce

/-!
PROOFS. Vector loads and stores (R215 to R217): the checks of a list of addresses stop at the first that fails, and one access is
issued when none does (O14).
-/

namespace Sys2Proof.VectorAccesses
open Sys2Proof Sys2Proof.Machine Sys2Proof.Claims Sys2Proof.Jumps Sys2Proof.ScalarAccesses

/-! ## The checks of some addresses (R52, R215, R216) -/

section
variable {s : State} {n cause : Nat} {store : Bool} {before after : List Word} {ea : Word}

theorem checkElements_append_of_passes (h : Passes s n store before) :
    s.checkElements n store (before ++ after) = s.checkElements n store after := by
  induction before with
  | nil => rfl
  | cons x xs ih =>
    obtain ⟨hx, hxs⟩ := List.forall_mem_cons.1 h
    obtain ⟨hcheck, hown⟩ := hx
    have hnot : ¬(store && s.isTimed s.cur && s.foreign x) = true := by simpa using hown
    rw [List.cons_append, State.checkElements, hcheck]
    exact (if_neg hnot).trans (ih hxs)

theorem checkElements_of_passes (h : Passes s n store before) : s.checkElements n store before = none :=
  (congrArg (s.checkElements n store) (List.append_nil before).symm).trans (checkElements_append_of_passes (after := []) h)

theorem checkElements_fails (h : Passes s n store before) (hcheck : s.checkScalar ea n false = some cause) :
    s.checkElements n store (before ++ ea :: after) = some (cause, ea) := by
  rw [checkElements_append_of_passes h, State.checkElements, hcheck]

theorem checkElements_foreign (h : Passes s n true before) (hcheck : s.checkScalar ea n false = none)
    (htimed : s.isTimed s.cur = true) (hforeign : s.foreign ea = true) :
    s.checkElements n true (before ++ ea :: after) = some (causeTimed, ea) := by
  rw [checkElements_append_of_passes h, State.checkElements, hcheck]
  exact if_pos (by rw [htimed, hforeign]; rfl)

end

/-! ## The forms -/

/-- What a form with some addresses answers: the trap of the first that fails, or what it does with them. -/
def checked (s : State) (n : Nat) (store : Bool) (eas : List Word) (r : Res) : Res :=
  match s.checkElements n store eas with
  | some (c, ea) => s.trapHere c ea
  | none => r

theorem checked_of_passes {s : State} {n : Nat} {store : Bool} {eas : List Word} (h : Passes s n store eas) (r : Res) :
    checked s n store eas r = r := by rw [checked, checkElements_of_passes h]

theorem checked_of_fails {s : State} {n cause : Nat} {store : Bool} {eas : List Word} {ea : Word}
    (h : s.checkElements n store eas = some (cause, ea)) (r : Res) : checked s n store eas r = s.trapHere cause ea := by
  rw [checked, h]

theorem laneBytes_eq (z : LaneSize) : laneBytes z = LaneSize.bytes z := by cases z <;> rfl

/-- The parts of a block lie one line apart (R215). -/
theorem blockParts_eq (ea : Word) : blockParts ea = [(ea, 0), (ea + 16, 16), (ea + 32, 32), (ea + 48, 48)] := by
  have hfirst : ea + BitVec.ofNat 64 (16 * 0) = ea := BitVec.add_zero ea
  exact congrArg (fun x => (x, 0) :: [(ea + 16, 16), (ea + 32, 32), (ea + 48, 48)]) hfirst

section
variable (s : State) (d : VReg) (a b : GReg) (j : BitVec 16) (z : LaneSize) (k : MReg)

theorem exec_vld :
    exec (.vld d a j) s = checked s 64 false [s.g a + s.imm j] (s.vecLoad (.vld d a j) d 16 (blockParts (s.g a + s.imm j))) :=
  rfl

theorem exec_vst :
    exec (.vst d a j) s = checked s 64 true [s.g a + s.imm j] (s.vecStore (.vst d a j) d 16 (blockParts (s.g a + s.imm j))) :=
  rfl

theorem exec_vldM :
    exec (.vldM d a z k) s =
      let parts := elements s (s.g a) (BitVec.ofNat 64 (laneBytes z)) (laneBytes z) k
      checked s (laneBytes z) false (parts.map Prod.fst) (s.vecLoad (.vldM d a z k) d (laneBytes z) parts) := by
  rw [laneBytes_eq]
  rfl

theorem exec_vstM :
    exec (.vstM d a z k) s =
      let parts := elements s (s.g a) (BitVec.ofNat 64 (laneBytes z)) (laneBytes z) k
      checked s (laneBytes z) true (parts.map Prod.fst) (s.vecStore (.vstM d a z k) d (laneBytes z) parts) := by
  rw [laneBytes_eq]
  rfl

theorem exec_vlds :
    exec (.vlds d a b z k) s =
      let parts := elements s (s.g a) (s.g b) (laneBytes z) k
      checked s (laneBytes z) false (parts.map Prod.fst) (s.vecLoad (.vlds d a b z k) d (laneBytes z) parts) := by
  rw [laneBytes_eq]
  rfl

theorem exec_vsts :
    exec (.vsts d a b z k) s =
      let parts := elements s (s.g a) (s.g b) (laneBytes z) k
      checked s (laneBytes z) true (parts.map Prod.fst) (s.vecStore (.vsts d a b z k) d (laneBytes z) parts) := by
  rw [laneBytes_eq]
  rfl

end

/-! ## Accesses that issue (R215 to R217) -/

theorem linesToJournal_eq (s : State) (eas : List Word) : s.linesToJournal eas = linesOf s eas := by
  unfold State.linesToJournal linesOf journalLines
  cases s.isTimed s.cur
  · simp
  · simp [List.filterMap_eq_flatMap_toList]

section
variable {s s' : State} {i : Instr} {d : VReg} {m n : Nat} {eas : List Word} {ps : List (Word × Nat)}

theorem vecLoad_some (h : ps ≠ []) :
    s.vecLoad i d n ps = s.issue i (.loadVec d) (ps.map fun p => partAt s.here p.1 n 0 p.2) s.me.pfx.rlx :=
  if_neg (by simpa using h)

theorem vecStore_some (h : ps ≠ []) (hjournal : s.journalAll s.cur (linesOf s (ps.map Prod.fst)) = some s') :
    s.vecStore i d n ps =
      s'.issue i .store (ps.map fun p => partAt s.here p.1 n (elem (s.v d) (8 * n) (p.2 / n)) p.2) s.me.pfx.rlx := by
  rw [← linesToJournal_eq] at hjournal
  refine (if_neg (by simpa using h)).trans ?_
  rw [hjournal]

theorem completes_of_vecLoad (hexec : exec i s = checked s m false eas (s.vecLoad i d n ps)) (hpass : Passes s m false eas)
    (hroom : s.me.hasRoom s.me.pfx.rlx) (hne : ps ≠ []) :
    Completes i s fun t => Issues s t (.loadVec d) (ps.map fun p => partAt s.here p.1 n 0 p.2) s.me.pfx.rlx :=
  completes_of_issue hroom (hexec.trans ((checked_of_passes hpass _).trans (vecLoad_some hne)))

theorem completes_of_vecStore (hexec : exec i s = checked s m true eas (s.vecStore i d n ps)) (hpass : Passes s m true eas)
    (hjournal : s.journalAll s.cur (linesOf s (ps.map Prod.fst)) = some s') (hroom : s'.me.hasRoom s.me.pfx.rlx)
    (hne : ps ≠ []) :
    Completes i s fun t =>
      Issues s' t .store (ps.map fun p => partAt s.here p.1 n (elem (s.v d) (8 * n) (p.2 / n)) p.2) s.me.pfx.rlx :=
  completes_of_issue hroom (hexec.trans ((checked_of_passes hpass _).trans (vecStore_some hne hjournal)))

/-! ### No active lane -/

theorem goesTo_of_vecLoad (hexec : exec i s = checked s m false (ps.map Prod.fst) (s.vecLoad i d n ps)) (hnone : ps = []) :
    GoesTo i s (s.me.pc + 4) := by
  subst hnone
  exact goesTo_of_exec hexec

theorem goesTo_of_vecStore (hexec : exec i s = checked s m true (ps.map Prod.fst) (s.vecStore i d n ps)) (hnone : ps = []) :
    GoesTo i s (s.me.pc + 4) := by
  subst hnone
  exact goesTo_of_exec hexec

end

theorem vectorMemoryForms : VectorMemoryForms := by
  intro s d a b j z k ea n rlx block loads stores masked strided
  have hvld := exec_vld s d a j
  have hvst := exec_vst s d a j
  have hvldM := exec_vldM s d a z k
  have hvstM := exec_vstM s d a z k
  have hvlds := exec_vlds s d a b z k
  have hvsts := exec_vsts s d a b z k
  rw [blockParts_eq] at hvld hvst
  exact ⟨completes_of_vecLoad hvld, fun hpass _ => completes_of_vecStore hvst hpass,
    completes_of_vecLoad hvldM, fun hpass _ => completes_of_vecStore hvstM hpass,
    completes_of_vecLoad hvlds, fun hpass _ => completes_of_vecStore hvsts hpass,
    fun hnone => ⟨goesTo_of_vecLoad hvldM hnone, goesTo_of_vecStore hvstM hnone⟩,
    fun hnone => ⟨goesTo_of_vecLoad hvlds hnone, goesTo_of_vecStore hvsts hnone⟩⟩

/-! ## Traps -/

theorem vectorMemoryTraps : VectorMemoryTraps := by
  intro s d a b j z k hcan ea n masked strided forms
  have hchecked : ∀ x ∈ forms, ∃ r, exec x.1 s = checked s x.2.1 x.2.2.1 x.2.2.2 r := by
    simp only [forms, List.forall_mem_cons]
    exact ⟨⟨_, exec_vld s d a j⟩, ⟨_, exec_vst s d a j⟩, ⟨_, exec_vldM s d a z k⟩, ⟨_, exec_vstM s d a z k⟩,
      ⟨_, exec_vlds s d a b z k⟩, ⟨_, exec_vsts s d a b z k⟩, List.forall_mem_nil _⟩
  intro x hx before at' after heas hpass
  obtain ⟨r, hexec⟩ := hchecked x hx
  rw [heas] at hexec
  refine ⟨fun c hcheck => ?_, fun hcheck hstore htimed hforeign => ?_⟩
  · exact takesTrap_of_exec hcan (hexec.trans (checked_of_fails (checkElements_fails hpass hcheck) r))
  · rw [hstore] at hexec hpass
    exact takesTrap_of_exec hcan (hexec.trans (checked_of_fails (checkElements_foreign hpass hcheck htimed hforeign) r))

/-- Settles O14: a form whose addresses all pass issues its parts as one access, and another traps at the first that does not. -/
theorem vectorMemory : Obligations.VectorMemory := ⟨vectorMemoryForms, vectorMemoryTraps⟩

end Sys2Proof.VectorAccesses
